-- ==== Sys2Proof/Word.lean ====
section
/-!
DEFINITION. The word types of Skelyth and the plainest arithmetic on them (R3, R6, R32).
-/

namespace Sys2Proof

/-- A 64-bit register value (R61). -/
abbrev Word := BitVec 64

/-- One byte of memory (R3). -/
abbrev Byte := BitVec 8

/-- A vector or mask register. A hart uses bits B - 1 to 0, where B is the register bits of its slot (R11); the bits
above are zero. -/
abbrev VReg := BitVec 65536

/-- An accumulator tile: 16,384 elements of 32 bits (R169). -/
abbrev AccTile := BitVec 524288

/-- A 128-byte line (R13). -/
abbrev Line := BitVec 1024

/-- All ones in 64 bits: "none" in many results. -/
def ones64 : Word := BitVec.allOnes 64

end Sys2Proof
end

