-- ==== Sys2Proof/Syntax.lean ====
section
/-!
DEFINITION. The instructions of Skelyth, one constructor per row of the opcode table.

The first 313 constructors are the instruction words of the opcode map (R22). Each carries the operand fields of its
format (R18); the restart mark P and the stall count S stand beside the instruction in `Decoded`, because every word
has them (R16). The last 92 constructors are the events of the table: steps the device, the host or Voxind takes,
which have no word. Their arguments say where the event happens and what it brings.
-/

namespace Sys2Proof

/-- A hart's position: core number, slot and resident index (R9, R11, R63). -/
structure Place where
  core : Nat
  slot : Nat
  res  : Nat
  deriving DecidableEq, Repr, Inhabited

/-- The two sides of a hart (R20, R56). -/
inductive Side where
  | scalar
  | vector
  deriving DecidableEq, Repr, Inhabited

/-- Registers that a REGISTER_WRITE event names: control registers of the hart in focus by their number (R62), and
the registers of the hub and of the function windows that no other row of the table writes (R309, R325, R326, R279). -/
inductive DevReg where
  | csr (number : BitVec 12)
  | lstat (link : Nat)
  | ctxBase
  | grpBase
  | eccCnt
  /-- COUNT of a context's fault record, which Voxind clears (R272) -/
  | faultCount (asid : Nat)
  | hapCtx (fn : Option Nat)
  | qstat (queue : Nat)
  deriving DecidableEq, Repr, Inhabited

/-- The arbiters of R285. -/
inductive Arb where
  | sequencer (core slot : Nat)
  | array (core : Nat)
  | copy (core : Nat)
  | cleanup (core : Nat)
  | fifo (core : Nat)
  | fabric (core : Nat)
  deriving DecidableEq, Repr, Inhabited

/-- What a fabric packet carries (R301, R313, R318). -/
inductive Payload where
  /-- Elements of a stream from a position on, as bit patterns of the binding's element type. -/
  | elems (pos : Nat) (data : List Nat)
  /-- The number of elements the sender will send to this rank in an all-to-all (FCOUNT). -/
  | count (n : Nat)
  /-- Elements of an all-to-all for this rank, from the given index within the sender's part on. -/
  | a2a (index : Nat) (data : List Nat)
  deriving DecidableEq, Repr, Inhabited

/-- One fabric packet: group id, generation, sending rank, receiving rank and payload (R303, R308). -/
structure Packet where
  group : Nat
  gen   : Nat
  src   : Nat
  dst   : Nat
  body  : Payload
  deriving DecidableEq, Repr, Inhabited

/-- How Voxind comes by the frame of a page it maps: a frame of its own choice, the placement of a fault of a core (R229),
or the bytes of a frame that the page was mapped to before. -/
inductive MapHow where
  | fresh
  | onFault (core : Nat)
  | copyOf (frame : Nat)
  deriving DecidableEq, Repr, Inhabited

/-- One constructor per row of the opcode table. -/
inductive Instr where
  -- 0x00 SYS (R71, R203)
  | nop
  | eret
  | wait (d : BitVec 5) (a : BitVec 5)
  | brk
  | yield
  | fencei
  | dusk
  | dawn
  | trap (n : BitVec 8)
  -- 0x01 INT (R64)
  | add (d : BitVec 5) (a : BitVec 5) (b : BitVec 5)
  | sub (d : BitVec 5) (a : BitVec 5) (b : BitVec 5)
  | and (d : BitVec 5) (a : BitVec 5) (b : BitVec 5)
  | or (d : BitVec 5) (a : BitVec 5) (b : BitVec 5)
  | xor (d : BitVec 5) (a : BitVec 5) (b : BitVec 5)
  | andn (d : BitVec 5) (a : BitVec 5) (b : BitVec 5)
  | shl (d : BitVec 5) (a : BitVec 5) (b : BitVec 5)
  | shr (d : BitVec 5) (a : BitVec 5) (b : BitVec 5)
  | sra (d : BitVec 5) (a : BitVec 5) (b : BitVec 5)
  | mul (d : BitVec 5) (a : BitVec 5) (b : BitVec 5)
  | mulh (d : BitVec 5) (a : BitVec 5) (b : BitVec 5)
  | mulhn (d : BitVec 5) (a : BitVec 5) (b : BitVec 5)
  | div (d : BitVec 5) (a : BitVec 5) (b : BitVec 5)
  | divn (d : BitVec 5) (a : BitVec 5) (b : BitVec 5)
  | rem (d : BitVec 5) (a : BitVec 5) (b : BitVec 5)
  | remn (d : BitVec 5) (a : BitVec 5) (b : BitVec 5)
  -- 0x02 INT2 (R64)
  | slt (d : BitVec 5) (a : BitVec 5) (b : BitVec 5)
  | sltn (d : BitVec 5) (a : BitVec 5) (b : BitVec 5)
  | min (d : BitVec 5) (a : BitVec 5) (b : BitVec 5)
  | max (d : BitVec 5) (a : BitVec 5) (b : BitVec 5)
  | minn (d : BitVec 5) (a : BitVec 5) (b : BitVec 5)
  | maxn (d : BitVec 5) (a : BitVec 5) (b : BitVec 5)
  | clz (d : BitVec 5) (a : BitVec 5)
  | ctz (d : BitVec 5) (a : BitVec 5)
  | popc (d : BitVec 5) (a : BitVec 5)
  | rotl (d : BitVec 5) (a : BitVec 5) (b : BitVec 5)
  | sel (d : BitVec 5) (a : BitVec 5) (b : BitVec 5)
  -- 0x03 INTI (R65)
  | addi (d : BitVec 5) (a : BitVec 5) (i : BitVec 9)
  | andi (d : BitVec 5) (a : BitVec 5) (i : BitVec 9)
  | ori (d : BitVec 5) (a : BitVec 5) (i : BitVec 9)
  | xori (d : BitVec 5) (a : BitVec 5) (i : BitVec 9)
  | shli (d : BitVec 5) (a : BitVec 5) (i : BitVec 6)
  | shri (d : BitVec 5) (a : BitVec 5) (i : BitVec 6)
  | srai (d : BitVec 5) (a : BitVec 5) (i : BitVec 6)
  | slti (d : BitVec 5) (a : BitVec 5) (i : BitVec 9)
  -- 0x04 LIS (R66)
  | lis (d : BitVec 5) (i : BitVec 17)
  -- 0x05 SHIM (R66)
  | shim (d : BitVec 5) (i : BitVec 17)
  -- 0x06 BCZ (R67)
  | beqz (a : BitVec 5) (o : BitVec 14)
  | bnez (a : BitVec 5) (o : BitVec 14)
  | bltz (a : BitVec 5) (o : BitVec 14)
  | bgez (a : BitVec 5) (o : BitVec 14)
  | bgtz (a : BitVec 5) (o : BitVec 14)
  | blez (a : BitVec 5) (o : BitVec 14)
  -- 0x07 JMP (R67)
  | jmp (o : BitVec 22)
  -- 0x08 CALL (R67)
  | call (o : BitVec 22)
  -- 0x09 XFER (R67)
  | jr (a : BitVec 5)
  | callr (a : BitVec 5)
  | ret
  -- 0x0A LD (R128)
  | ldB (d : BitVec 5) (a : BitVec 5) (i : BitVec 9)
  | ldBn (d : BitVec 5) (a : BitVec 5) (i : BitVec 9)
  | ldH (d : BitVec 5) (a : BitVec 5) (i : BitVec 9)
  | ldHn (d : BitVec 5) (a : BitVec 5) (i : BitVec 9)
  | ldW (d : BitVec 5) (a : BitVec 5) (i : BitVec 9)
  | ldWn (d : BitVec 5) (a : BitVec 5) (i : BitVec 9)
  | ldD (d : BitVec 5) (a : BitVec 5) (i : BitVec 9)
  -- 0x0B ST (R128)
  | stB (d : BitVec 5) (a : BitVec 5) (i : BitVec 9)
  | stH (d : BitVec 5) (a : BitVec 5) (i : BitVec 9)
  | stW (d : BitVec 5) (a : BitVec 5) (i : BitVec 9)
  | stD (d : BitVec 5) (a : BitVec 5) (i : BitVec 9)
  -- 0x0C AMO (R140)
  | amoAdd (d : BitVec 5) (a : BitVec 5) (b : BitVec 5) (c : BitVec 3)
  | amoAnd (d : BitVec 5) (a : BitVec 5) (b : BitVec 5) (c : BitVec 3)
  | amoOr (d : BitVec 5) (a : BitVec 5) (b : BitVec 5) (c : BitVec 3)
  | amoXor (d : BitVec 5) (a : BitVec 5) (b : BitVec 5) (c : BitVec 3)
  | amoMin (d : BitVec 5) (a : BitVec 5) (b : BitVec 5) (c : BitVec 3)
  | amoMax (d : BitVec 5) (a : BitVec 5) (b : BitVec 5) (c : BitVec 3)
  | amoSwap (d : BitVec 5) (a : BitVec 5) (b : BitVec 5) (c : BitVec 3)
  | amoCas (d : BitVec 5) (a : BitVec 5) (b : BitVec 5) (c : BitVec 3)
  | amoFadd (d : BitVec 5) (a : BitVec 5) (b : BitVec 5) (c : BitVec 3)
  -- 0x0D SYNC (R138, R139)
  | acq (a : BitVec 5)
  | rel (a : BitVec 5)
  | bind (d : BitVec 5) (a : BitVec 5) (b : BitVec 5)
  | unbind (a : BitVec 5) (b : BitVec 5)
  | fence (c : BitVec 3)
  | fenceV (c : BitVec 3)
  -- 0x0E CSRX (R68)
  | csrx (d : BitVec 5) (a : BitVec 5) (x : BitVec 12)
  -- 0x0F CSRS (R68)
  | csrs (d : BitVec 5) (a : BitVec 5) (x : BitVec 12)
  -- 0x10 VQ (R69)
  | vdisp (d : BitVec 5) (a : BitVec 5) (b : BitVec 5)
  | vdrain (d : BitVec 5)
  | vqcnt (d : BitVec 5)
  -- 0x11 RQ (R70)
  | rqpop (d : BitVec 5)
  | rqpeek (d : BitVec 5)
  | rqcnt (d : BitVec 5)
  -- 0x12 WORK (R298)
  | launch (d : BitVec 5) (a : BitVec 5)
  | launchg (d : BitVec 5) (a : BitVec 5)
  | csig (d : BitVec 5) (a : BitVec 5) (b : BitVec 5)
  | cancel (a : BitVec 5)
  | cread (d : BitVec 5) (a : BitVec 5)
  -- 0x13 BAR (R146)
  | binit (d : BitVec 5) (a : BitVec 5) (b : BitVec 5) (c : BitVec 3)
  | barrive (d : BitVec 5) (a : BitVec 5) (c : BitVec 3)
  | bwait (d : BitVec 5) (a : BitVec 5) (b : BitVec 5) (c : BitVec 3)
  | barw (d : BitVec 5) (a : BitVec 5) (c : BitVec 3)
  | btest (d : BitVec 5) (a : BitVec 5) (b : BitVec 5) (c : BitVec 3)
  -- 0x14 SNAP (R242)
  | snapBegin (d : BitVec 5) (a : BitVec 5) (b : BitVec 5)
  | snapAccept (a : BitVec 5)
  | snapReject (a : BitVec 5)
  | snapQuery (d : BitVec 5) (a : BitVec 5)
  | snapPool (d : BitVec 5) (a : BitVec 5) (b : BitVec 5)
  -- 0x15 WALK (R263)
  | wqOpen (d : BitVec 5) (a : BitVec 5)
  | wqRun (a : BitVec 5)
  | wqPoll (d : BitVec 5) (a : BitVec 5)
  | wqResult (d : BitVec 5) (a : BitVec 5)
  | wqClose (a : BitVec 5)
  -- 0x20 VINT (R87)
  | vadd (d : BitVec 5) (a : BitVec 5) (b : BitVec 5) (m : BitVec 3)
  | vsub (d : BitVec 5) (a : BitVec 5) (b : BitVec 5) (m : BitVec 3)
  | vmul (d : BitVec 5) (a : BitVec 5) (b : BitVec 5) (m : BitVec 3)
  | vmulh (d : BitVec 5) (a : BitVec 5) (b : BitVec 5) (m : BitVec 3)
  | vmulhn (d : BitVec 5) (a : BitVec 5) (b : BitVec 5) (m : BitVec 3)
  | vmin (d : BitVec 5) (a : BitVec 5) (b : BitVec 5) (m : BitVec 3)
  | vmax (d : BitVec 5) (a : BitVec 5) (b : BitVec 5) (m : BitVec 3)
  | vminn (d : BitVec 5) (a : BitVec 5) (b : BitVec 5) (m : BitVec 3)
  | vmaxn (d : BitVec 5) (a : BitVec 5) (b : BitVec 5) (m : BitVec 3)
  | vand (d : BitVec 5) (a : BitVec 5) (b : BitVec 5) (m : BitVec 3)
  | vor (d : BitVec 5) (a : BitVec 5) (b : BitVec 5) (m : BitVec 3)
  | vxor (d : BitVec 5) (a : BitVec 5) (b : BitVec 5) (m : BitVec 3)
  | vandn (d : BitVec 5) (a : BitVec 5) (b : BitVec 5) (m : BitVec 3)
  | vshl (d : BitVec 5) (a : BitVec 5) (b : BitVec 5) (m : BitVec 3)
  | vshr (d : BitVec 5) (a : BitVec 5) (b : BitVec 5) (m : BitVec 3)
  | vsra (d : BitVec 5) (a : BitVec 5) (b : BitVec 5) (m : BitVec 3)
  -- 0x21 VINTS (R87)
  | vintsVadd (d : BitVec 5) (a : BitVec 5) (b : BitVec 5) (m : BitVec 3)
  | vintsVsub (d : BitVec 5) (a : BitVec 5) (b : BitVec 5) (m : BitVec 3)
  | vintsVmul (d : BitVec 5) (a : BitVec 5) (b : BitVec 5) (m : BitVec 3)
  | vintsVmulh (d : BitVec 5) (a : BitVec 5) (b : BitVec 5) (m : BitVec 3)
  | vintsVmulhn (d : BitVec 5) (a : BitVec 5) (b : BitVec 5) (m : BitVec 3)
  | vintsVmin (d : BitVec 5) (a : BitVec 5) (b : BitVec 5) (m : BitVec 3)
  | vintsVmax (d : BitVec 5) (a : BitVec 5) (b : BitVec 5) (m : BitVec 3)
  | vintsVminn (d : BitVec 5) (a : BitVec 5) (b : BitVec 5) (m : BitVec 3)
  | vintsVmaxn (d : BitVec 5) (a : BitVec 5) (b : BitVec 5) (m : BitVec 3)
  | vintsVand (d : BitVec 5) (a : BitVec 5) (b : BitVec 5) (m : BitVec 3)
  | vintsVor (d : BitVec 5) (a : BitVec 5) (b : BitVec 5) (m : BitVec 3)
  | vintsVxor (d : BitVec 5) (a : BitVec 5) (b : BitVec 5) (m : BitVec 3)
  | vintsVandn (d : BitVec 5) (a : BitVec 5) (b : BitVec 5) (m : BitVec 3)
  | vintsVshl (d : BitVec 5) (a : BitVec 5) (b : BitVec 5) (m : BitVec 3)
  | vintsVshr (d : BitVec 5) (a : BitVec 5) (b : BitVec 5) (m : BitVec 3)
  | vintsVsra (d : BitVec 5) (a : BitVec 5) (b : BitVec 5) (m : BitVec 3)
  -- 0x22 VFLT (R88)
  | vfadd (d : BitVec 5) (a : BitVec 5) (b : BitVec 5) (m : BitVec 3)
  | vfsub (d : BitVec 5) (a : BitVec 5) (b : BitVec 5) (m : BitVec 3)
  | vfmul (d : BitVec 5) (a : BitVec 5) (b : BitVec 5) (m : BitVec 3)
  | vfdiv (d : BitVec 5) (a : BitVec 5) (b : BitVec 5) (m : BitVec 3)
  | vfmin (d : BitVec 5) (a : BitVec 5) (b : BitVec 5) (m : BitVec 3)
  | vfmax (d : BitVec 5) (a : BitVec 5) (b : BitVec 5) (m : BitVec 3)
  | vfsqrt (d : BitVec 5) (a : BitVec 5) (m : BitVec 3)
  | vfabs (d : BitVec 5) (a : BitVec 5) (m : BitVec 3)
  | vfneg (d : BitVec 5) (a : BitVec 5) (m : BitVec 3)
  | vadds (d : BitVec 5) (a : BitVec 5) (b : BitVec 5) (m : BitVec 3)
  | vsubs (d : BitVec 5) (a : BitVec 5) (b : BitVec 5) (m : BitVec 3)
  -- 0x23 VFLTS (R88)
  | vfltsVfadd (d : BitVec 5) (a : BitVec 5) (b : BitVec 5) (m : BitVec 3)
  | vfltsVfsub (d : BitVec 5) (a : BitVec 5) (b : BitVec 5) (m : BitVec 3)
  | vfltsVfmul (d : BitVec 5) (a : BitVec 5) (b : BitVec 5) (m : BitVec 3)
  | vfltsVfdiv (d : BitVec 5) (a : BitVec 5) (b : BitVec 5) (m : BitVec 3)
  | vfltsVfmin (d : BitVec 5) (a : BitVec 5) (b : BitVec 5) (m : BitVec 3)
  | vfltsVfmax (d : BitVec 5) (a : BitVec 5) (b : BitVec 5) (m : BitVec 3)
  -- 0x24 VFMA (R89)
  | vfma (d : BitVec 5) (a : BitVec 5) (b : BitVec 5) (m : BitVec 3)
  | vfms (d : BitVec 5) (a : BitVec 5) (b : BitVec 5) (m : BitVec 3)
  | vfnma (d : BitVec 5) (a : BitVec 5) (b : BitVec 5) (m : BitVec 3)
  | vfnms (d : BitVec 5) (a : BitVec 5) (b : BitVec 5) (m : BitVec 3)
  | vmac (d : BitVec 5) (a : BitVec 5) (b : BitVec 5) (m : BitVec 3)
  | vdot4 (d : BitVec 5) (a : BitVec 5) (b : BitVec 5) (m : BitVec 3)
  | vdot2 (d : BitVec 5) (a : BitVec 5) (b : BitVec 5) (m : BitVec 3)
  -- 0x25 VFUN (R90)
  | vfshl (d : BitVec 5) (a : BitVec 5) (b : BitVec 5) (k : BitVec 6)
  | vfshr (d : BitVec 5) (a : BitVec 5) (b : BitVec 5) (k : BitVec 6)
  -- 0x26 LOG3, tables 0x00 to 0x7F (R91)
  | log3Low (d : BitVec 5) (a : BitVec 5) (b : BitVec 5) (t : BitVec 7)
  -- 0x27 LOG3, tables 0x80 to 0xFF (R91)
  | log3High (d : BitVec 5) (a : BitVec 5) (b : BitVec 5) (t : BitVec 7)
  -- 0x28 VPERM (R92)
  | vslup (d : BitVec 5) (a : BitVec 5) (b : BitVec 5) (m : BitVec 3)
  | vsldn (d : BitVec 5) (a : BitVec 5) (b : BitVec 5) (m : BitVec 3)
  | vgath (d : BitVec 5) (a : BitVec 5) (b : BitVec 5) (m : BitVec 3)
  | vpush (d : BitVec 5) (a : BitVec 5) (b : BitVec 5) (m : BitVec 3)
  | vcmpr (d : BitVec 5) (a : BitVec 5) (m : BitVec 3)
  | vexpd (d : BitVec 5) (a : BitVec 5) (m : BitVec 3)
  | vbcst (d : BitVec 5) (b : BitVec 5) (m : BitVec 3)
  | vext (d : BitVec 5) (a : BitVec 5) (b : BitVec 5)
  | vid (d : BitVec 5) (m : BitVec 3)
  | viota (d : BitVec 5) (a : BitVec 5) (m : BitVec 3)
  -- 0x29 VRED (R93)
  | vrsum (d : BitVec 5) (a : BitVec 5) (m : BitVec 3)
  | vrmax (d : BitVec 5) (a : BitVec 5) (m : BitVec 3)
  | vrmin (d : BitVec 5) (a : BitVec 5) (m : BitVec 3)
  | vrand (d : BitVec 5) (a : BitVec 5) (m : BitVec 3)
  | vror (d : BitVec 5) (a : BitVec 5) (m : BitVec 3)
  | vrxor (d : BitVec 5) (a : BitVec 5) (m : BitVec 3)
  | vfrsum (d : BitVec 5) (a : BitVec 5) (m : BitVec 3)
  | vfrmax (d : BitVec 5) (a : BitVec 5) (m : BitVec 3)
  | vfrmin (d : BitVec 5) (a : BitVec 5) (m : BitVec 3)
  -- 0x2A VCVT (R50)
  | cvtN (d : BitVec 5) (a : BitVec 5) (k : BitVec 1) (m : BitVec 3)
  | cvtW (d : BitVec 5) (a : BitVec 5) (k : BitVec 1) (m : BitVec 3)
  | cvtFi (d : BitVec 5) (a : BitVec 5) (k : BitVec 1) (m : BitVec 3)
  | cvtIf (d : BitVec 5) (a : BitVec 5) (k : BitVec 1) (m : BitVec 3)
  | cvtF4 (d : BitVec 5) (a : BitVec 5) (m : BitVec 3)
  | cvtQ (d : BitVec 5) (a : BitVec 5) (b : BitVec 5) (m : BitVec 3)
  -- 0x2B VSFU (R94)
  | vexp2 (d : BitVec 5) (a : BitVec 5) (m : BitVec 3)
  | vlog2 (d : BitVec 5) (a : BitVec 5) (m : BitVec 3)
  | vrcp (d : BitVec 5) (a : BitVec 5) (m : BitVec 3)
  | vrsq (d : BitVec 5) (a : BitVec 5) (m : BitVec 3)
  | vtanh (d : BitVec 5) (a : BitVec 5) (m : BitVec 3)
  | vsmax (d : BitVec 5) (a : BitVec 5) (b : BitVec 5) (m : BitVec 3)
  -- 0x2C VCMP (R104)
  | vceq (d : BitVec 5) (a : BitVec 5) (b : BitVec 5) (m : BitVec 3)
  | vcne (d : BitVec 5) (a : BitVec 5) (b : BitVec 5) (m : BitVec 3)
  | vclt (d : BitVec 5) (a : BitVec 5) (b : BitVec 5) (m : BitVec 3)
  | vcle (d : BitVec 5) (a : BitVec 5) (b : BitVec 5) (m : BitVec 3)
  | vcltn (d : BitVec 5) (a : BitVec 5) (b : BitVec 5) (m : BitVec 3)
  | vclen (d : BitVec 5) (a : BitVec 5) (b : BitVec 5) (m : BitVec 3)
  | vfceq (d : BitVec 5) (a : BitVec 5) (b : BitVec 5) (m : BitVec 3)
  | vfclt (d : BitVec 5) (a : BitVec 5) (b : BitVec 5) (m : BitVec 3)
  | vfcle (d : BitVec 5) (a : BitVec 5) (b : BitVec 5) (m : BitVec 3)
  | vfcun (d : BitVec 5) (a : BitVec 5) (b : BitVec 5) (m : BitVec 3)
  -- 0x3D VCMPS (R104)
  | vcmpsVceq (d : BitVec 5) (a : BitVec 5) (b : BitVec 5) (m : BitVec 3)
  | vcmpsVcne (d : BitVec 5) (a : BitVec 5) (b : BitVec 5) (m : BitVec 3)
  | vcmpsVclt (d : BitVec 5) (a : BitVec 5) (b : BitVec 5) (m : BitVec 3)
  | vcmpsVcle (d : BitVec 5) (a : BitVec 5) (b : BitVec 5) (m : BitVec 3)
  | vcmpsVcltn (d : BitVec 5) (a : BitVec 5) (b : BitVec 5) (m : BitVec 3)
  | vcmpsVclen (d : BitVec 5) (a : BitVec 5) (b : BitVec 5) (m : BitVec 3)
  | vcmpsVfceq (d : BitVec 5) (a : BitVec 5) (b : BitVec 5) (m : BitVec 3)
  | vcmpsVfclt (d : BitVec 5) (a : BitVec 5) (b : BitVec 5) (m : BitVec 3)
  | vcmpsVfcle (d : BitVec 5) (a : BitVec 5) (b : BitVec 5) (m : BitVec 3)
  | vcmpsVfcun (d : BitVec 5) (a : BitVec 5) (b : BitVec 5) (m : BitVec 3)
  -- 0x2D VMOP (R105)
  | mand (d : BitVec 5) (a : BitVec 5) (b : BitVec 5)
  | mor (d : BitVec 5) (a : BitVec 5) (b : BitVec 5)
  | mxor (d : BitVec 5) (a : BitVec 5) (b : BitVec 5)
  | mandn (d : BitVec 5) (a : BitVec 5) (b : BitVec 5)
  | mnot (d : BitVec 5) (a : BitVec 5)
  | mset (d : BitVec 5)
  | mclr (d : BitVec 5)
  | mfirst (d : BitVec 5) (a : BitVec 5)
  | mpopc (d : BitVec 5) (a : BitVec 5)
  | vmerge (d : BitVec 5) (a : BitVec 5) (b : BitVec 5) (m : BitVec 3)
  -- 0x2E VCTL (R100)
  | vsetl (d : BitVec 5) (a : BitVec 5)
  | vsett (d : BitVec 5) (a : BitVec 5)
  | vend
  | vreply (a : BitVec 5)
  | vreplym (a : BitVec 5)
  | vjoin
  | vlcset (d : BitVec 5) (a : BitVec 5)
  | valc (d : BitVec 5)
  -- 0x2F VB (R112)
  | vbany (a : BitVec 5) (o : BitVec 14)
  | vbnone (a : BitVec 5) (o : BitVec 14)
  | vbdiv (a : BitVec 5) (o : BitVec 14)
  | vlcnz (a : BitVec 5) (o : BitVec 14)
  | vloop (a : BitVec 5) (o : BitVec 14)
  | vjmp (o : BitVec 14)
  -- 0x30 VLD (R123)
  | vld (d : BitVec 5) (a : BitVec 5) (m : BitVec 3)
  | vldx (d : BitVec 5) (a : BitVec 5) (b : BitVec 5) (m : BitVec 3)
  | vldl (d : BitVec 5) (a : BitVec 5) (m : BitVec 3)
  -- 0x31 VST (R123)
  | vst (d : BitVec 5) (a : BitVec 5) (m : BitVec 3)
  | vstx (d : BitVec 5) (a : BitVec 5) (b : BitVec 5) (m : BitVec 3)
  | vstl (d : BitVec 5) (a : BitVec 5) (m : BitVec 3)
  | vsta (d : BitVec 5) (a : BitVec 5) (b : BitVec 5) (m : BitVec 3)
  -- 0x32 QCTL (R127)
  | qset (d : BitVec 5) (a : BitVec 5)
  | qadv (d : BitVec 5) (a : BitVec 5)
  | qpos (d : BitVec 5) (a : BitVec 5)
  | qrel (d : BitVec 5)
  -- 0x33 HVA (R153)
  | hbind (d : BitVec 5) (a : BitVec 5) (b : BitVec 5)
  | hunbind (d : BitVec 5) (a : BitVec 5) (b : BitVec 5)
  | hperm (d : BitVec 5) (a : BitVec 5) (b : BitVec 5)
  | hpermn (d : BitVec 5) (a : BitVec 5) (b : BitVec 5)
  | hbacc (d : BitVec 5) (a : BitVec 5) (b : BitVec 5)
  | hbth (d : BitVec 5) (a : BitVec 5) (b : BitVec 5)
  | hgen (d : BitVec 5) (a : BitVec 5)
  | hnot (d : BitVec 5) (a : BitVec 5)
  | hclr (d : BitVec 5)
  -- 0x34 HVB (R161)
  | hsim (d : BitVec 5) (a : BitVec 5) (b : BitVec 5)
  | hclean (d : BitVec 5) (a : BitVec 5) (b : BitVec 5)
  | hfact (d : BitVec 5) (a : BitVec 5) (b : BitVec 5)
  | isopen (d : BitVec 5) (a : BitVec 5) (b : BitVec 5)
  | isload (d : BitVec 5) (a : BitVec 5) (b : BitVec 5)
  | isseal (d : BitVec 5) (a : BitVec 5)
  | isrel (a : BitVec 5)
  | hprob (d : BitVec 5) (a : BitVec 5) (b : BitVec 5)
  -- 0x35 TILE (R179)
  | tld (d : BitVec 5) (a : BitVec 5)
  | tst (d : BitVec 5) (a : BitVec 5)
  | tzero (d : BitVec 5)
  | tmov (d : BitVec 5) (a : BitVec 5) (b : BitVec 5)
  | trel (d : BitVec 5)
  | tscl (d : BitVec 5) (a : BitVec 5)
  -- 0x36 MMA (R176)
  | mma (d : BitVec 4) (a : BitVec 4) (b : BitVec 4) (o : BitVec 10)
  -- 0x37 MMAZ (R176)
  | mmaz (d : BitVec 4) (a : BitVec 4) (b : BitVec 4) (o : BitVec 10)
  -- 0x38 TENG (R183)
  | tbegin (d : BitVec 5) (a : BitVec 5)
  | tend
  | tcopy (d : BitVec 5) (a : BitVec 5) (b : BitVec 5)
  | tcopyM (d : BitVec 5) (a : BitVec 5) (b : BitVec 5)
  | rfence
  | twait
  -- 0x39 SIG (R248)
  | sigd (d : BitVec 5) (a : BitVec 5)
  | siginit (d : BitVec 5)
  | sigadd (d : BitVec 5) (a : BitVec 5)
  | sigmul (d : BitVec 5) (a : BitVec 5)
  | siglog (d : BitVec 5) (a : BitVec 5)
  | sigld (d : BitVec 5) (a : BitVec 5)
  | sigst (d : BitVec 5) (a : BitVec 5)
  -- 0x3A FAB (R317)
  | fbind (d : BitVec 5) (a : BitVec 5)
  | fsend (a : BitVec 5) (b : BitVec 5)
  | frecv (d : BitVec 5) (a : BitVec 5)
  | frecvop (d : BitVec 5) (a : BitVec 5) (b : BitVec 5)
  | fcount (d : BitVec 5) (a : BitVec 5)
  | fa2a (a : BitVec 5)
  | fwait (d : BitVec 5) (a : BitVec 5)
  | frel (a : BitVec 5)
  -- 0x3B BANK (R211)
  | bgath (d : BitVec 5) (a : BitVec 5) (b : BitVec 5) (m : BitVec 3)
  | bscat (d : BitVec 5) (a : BitVec 5) (b : BitVec 5) (m : BitVec 3)
  | bscadd (d : BitVec 5) (a : BitVec 5) (b : BitVec 5) (m : BitVec 3)
  | vfpush (d : BitVec 5) (a : BitVec 5) (b : BitVec 5) (m : BitVec 3)
  | vffree (d : BitVec 5)
  | blat (d : BitVec 5) (a : BitVec 5)
  -- 0x3C VBIT2 (R96)
  | vpopc (d : BitVec 5) (a : BitVec 5) (m : BitVec 3)
  | vclz (d : BitVec 5) (a : BitVec 5) (m : BitVec 3)
  | vbrev (d : BitVec 5) (a : BitVec 5) (m : BitVec 3)
  | vrotl (d : BitVec 5) (a : BitVec 5) (b : BitVec 5) (m : BitVec 3)
  -- events: rows of the table without a word
  | frmWrite (v : BitVec 64)
  | vpfbWrite (v : BitVec 64)
  | spdiscWrite (v : BitVec 64)
  | registerWrite (reg : DevReg) (v : BitVec 64)
  | streamRunAhead (at_ : Place) (q ahead : Nat)
  | trapDelivery (at_ : Place)
  | blockTake (at_ : Place)
  | waitTimeout (at_ : Place)
  | preempt (asid : Nat) (launch : Option Nat)
  | contextSaveComplete (at_ : Place)
  | contextResume (asid : Nat)
  | contextCreate (asid : Nat) (root : BitVec 64) (prio : BitVec 2) (reserved : Nat)
  | contextBind (asid : Nat) (fn : Option Nat)
  | contextDestroy (asid : Nat)
  | cancellation (asid counter : Nat)
  | meterInterval
  | refreshEnergySplit (energies : List (Nat × Nat))
  | queueEntryTake (q : Nat)
  | unitPlace (asid launch : Nat) (at_ : Place)
  | hartFree (at_ : Place)
  | graphNode (asid graph token : Nat)
  | arbiterTurn (arb : Arb)
  | droopDetect (core : Nat)
  | alcRestore (core : Nat)
  | noonLend (from_ to_ amount : Nat)
  | noonRecall (from_ to_ amount : Nat)
  | islandGate (core : Nat)
  | islandWake (core : Nat)
  | vfifoEntryPerform (core : Nat)
  | bankRequestComplete (at_ : Place)
  | verticalPathDegrade (core : Nat)
  | bankTemperatureChange (core : Nat) (hot : Bool)
  | engineCommandStart (at_ : Place) (k : Nat)
  | engineStep (at_ : Place) (k : Nat)
  | engineCommandComplete (at_ : Place) (k : Nat)
  | regionGrant (at_ : Place)
  | timedCommandStart (at_ : Place) (k : Nat)
  | regionOverrun (at_ : Place)
  | bgathDue (at_ : Place)
  | migrationStart (asid va : Nat) (leaf : BitVec 64)
  | migrationHold (k : Nat)
  | migrationSwitch (k : Nat)
  | pageMap (asid va : Nat) (entry leaf : BitVec 64) (how : MapHow)
  | pageUnmap (asid va : Nat) (entry : BitVec 64)
  | shootdown (asid va len : Nat)
  | shootdownComplete (k : Nat)
  | pageSweep (entries : List Nat)
  | shadowHeldWrite (asid k : Nat)
  | lazyRestore (asid range : Nat)
  | walkStep (core ctx : Nat)
  | flitRetry (link : Nat) (flits : Nat) (failed : Bool)
  | linkEnable (link : Nat)
  | linkTrainDone (link passing : Nat)
  | linkTrainTimeout (link : Nat)
  | linkRetrain (link : Nat)
  | laneLoss (link : Nat)
  | lossOfSignal (link : Nat)
  | linkDrain (link : Nat)
  | linkDrainDone (link : Nat)
  | groupOpen (id nrank asid : Nat) (locals : BitVec 64) (mapAt : BitVec 64) (members : List Nat)
  | joinNotice (id gen rank : Nat)
  | groupAbort (id : Nat)
  | groupAbortArrival (id gen : Nat)
  | groupFree (id : Nat)
  | drainMarkerReturn (id : Nat)
  | fabricPacketArrival (pkt : Packet)
  | qbaseWrite (q : Nat) (v : BitVec 64)
  | qsizeWrite (q : Nat) (v : BitVec 64)
  | qtailWrite (q : Nat) (v : BitVec 64)
  | qctlSusp (q : Nat) (set : Bool)
  | qctlDrain (q : Nat) (set : Bool)
  | drainDone (q : Nat)
  | bindRecordWrite (core n : Nat) (v : BitVec 64)
  | qleftWrite (fn : Option Nat) (v : BitVec 64)
  | functionLevelReset (vf : Nat)
  | hostDmaRead (fn : Option Nat) (va len : Nat)
  | hostDmaWrite (fn : Option Nat) (va : Nat) (bytes : List (BitVec 8))
  | formatRangeWrite (stack off : Nat) (v : BitVec 64)
  | dawnStart
  | dawnRom (ok : Bool)
  | dawnVoxind (ctxBase grpBase : BitVec 64)
  | dawnTrim (inService : List (Nat × BitVec 32))
  | dawnMeminit (ok : Bool)
  | dawnMeter (ok : Bool)
  | dawnLinks
  | powerDown
  | scrub (column : Nat) (bad : List Nat)
  | cxlRemoval (port : Nat)
  | queryContextReclaim (core ctx : Nat)
  | routeTableWrite (pkg : Nat) (links : List Nat)
  | queueContextAssign (q asid : Nat)
  | vfEnable (vf : Nat) (on : Bool)
  deriving DecidableEq, Repr, Inhabited

/-- A decoded word: the restart mark, the stall count and the instruction (R16). -/
structure Decoded where
  p     : Bool
  s     : BitVec 3
  instr : Instr
  deriving DecidableEq, Repr, Inhabited

end Sys2Proof
end

