-- ==== Sys2Proof/WellFormed.lean ====
section
/-!
DEFINITION. Well-formed instructions: the operand values that R19 and the instruction entries admit.

A word whose fields name anything else raises ILLEGAL under step 3 of R21. Limits that depend on the state (the
grouping and the element type of VTYPE, the side a B-marked word runs on) are checked where the word runs (R21, R28).
-/

namespace Sys2Proof

/-- A scalar operand of a vector-side word names h0 to h15 (R19). -/
def isH (r : BitVec 5) : Bool := r < 16#5
/-- A stream register q0 to q15 (R19). -/
def isStream (r : BitVec 5) : Bool := r < 16#5
/-- A fabric stream register f0 to f7 (R19). -/
def isFabric (r : BitVec 5) : Bool := r < 8#5
/-- A mask register m0 to m7 (R19). -/
def isMask (r : BitVec 5) : Bool := r < 8#5
/-- A tile t0 to t15 (R19). -/
def isTile (r : BitVec 5) : Bool := r < 16#5
/-- An operand tile t0 to t7 (R169). -/
def isOperandTile (r : BitVec 5) : Bool := r < 8#5
/-- An accumulator tile t8 to t15 (R169). -/
def isAccTile (r : BitVec 5) : Bool := 8#5 ≤ r && r < 16#5
/-- An operand tile in format E (R19). -/
def isOperandTile4 (r : BitVec 4) : Bool := r < 8#4
/-- An accumulator tile in format E (R19). -/
def isAccTile4 (r : BitVec 4) : Bool := 8#4 ≤ r
/-- A loop counter lc0 to lc3 (R61, R100). -/
def isLoopCounter (r : BitVec 5) : Bool := r < 4#5
/-- A signature group, t8 or t12 (R245). -/
def isGroup (r : BitVec 5) : Bool := r = 8#5 || r = 12#5
/-- A scope code 0 to 5 (R19). -/
def isScope (c : BitVec 3) : Bool := c < 6#3
/-- VDISP copies g[d] to g[d + 3], so d is at most 28 (R69). -/
def isArgBase (d : BitVec 5) : Bool := d ≤ 28#5
/-- CREAD writes g[d] and g[d + 1], so d is at most 30 (R299). -/
def isPairBase (d : BitVec 5) : Bool := d ≤ 30#5
/-- VSMAX reads h[b] and the two registers after it (R94). -/
def isSmaxIndex (b : BitVec 5) : Bool := b ≤ 13#5
/-- HCLEAN writes h[d] to h[d + 3] (R161). -/
def isRecordBase (d : BitVec 5) : Bool := d ≤ 12#5
/-- A control-register number of R62 (R24). -/
def isControlRegister (x : BitVec 12) : Bool :=
  x ≤ 0x00B#12 || (0x010#12 ≤ x && x ≤ 0x012#12) || (0x100#12 ≤ x && x ≤ 0x10D#12) || x = 0x110#12 ||
    x = 0x111#12 || (0x200#12 ≤ x && x ≤ 0x202#12) || x = 0x210#12

/-- The instruction's fields are ones its entry admits (R19, R24). Events have no fields of a word. -/
def Instr.wellFormed : Instr → Bool
  | .nop => true
  | .eret => true
  | .wait _ _ => true
  | .brk => true
  | .yield => true
  | .fencei => true
  | .dusk => true
  | .dawn => true
  | .trap _ => true
  | .add _ _ _ => true
  | .sub _ _ _ => true
  | .and _ _ _ => true
  | .or _ _ _ => true
  | .xor _ _ _ => true
  | .andn _ _ _ => true
  | .shl _ _ _ => true
  | .shr _ _ _ => true
  | .sra _ _ _ => true
  | .mul _ _ _ => true
  | .mulh _ _ _ => true
  | .mulhn _ _ _ => true
  | .div _ _ _ => true
  | .divn _ _ _ => true
  | .rem _ _ _ => true
  | .remn _ _ _ => true
  | .slt _ _ _ => true
  | .sltn _ _ _ => true
  | .min _ _ _ => true
  | .max _ _ _ => true
  | .minn _ _ _ => true
  | .maxn _ _ _ => true
  | .clz _ _ => true
  | .ctz _ _ => true
  | .popc _ _ => true
  | .rotl _ _ _ => true
  | .sel _ _ _ => true
  | .addi _ _ _ => true
  | .andi _ _ _ => true
  | .ori _ _ _ => true
  | .xori _ _ _ => true
  | .shli _ _ _ => true
  | .shri _ _ _ => true
  | .srai _ _ _ => true
  | .slti _ _ _ => true
  | .lis _ _ => true
  | .shim _ _ => true
  | .beqz _ _ => true
  | .bnez _ _ => true
  | .bltz _ _ => true
  | .bgez _ _ => true
  | .bgtz _ _ => true
  | .blez _ _ => true
  | .jmp _ => true
  | .call _ => true
  | .jr _ => true
  | .callr _ => true
  | .ret => true
  | .ldB _ _ _ => true
  | .ldBn _ _ _ => true
  | .ldH _ _ _ => true
  | .ldHn _ _ _ => true
  | .ldW _ _ _ => true
  | .ldWn _ _ _ => true
  | .ldD _ _ _ => true
  | .stB _ _ _ => true
  | .stH _ _ _ => true
  | .stW _ _ _ => true
  | .stD _ _ _ => true
  | .amoAdd _ _ _ c => isScope c
  | .amoAnd _ _ _ c => isScope c
  | .amoOr _ _ _ c => isScope c
  | .amoXor _ _ _ c => isScope c
  | .amoMin _ _ _ c => isScope c
  | .amoMax _ _ _ c => isScope c
  | .amoSwap _ _ _ c => isScope c
  | .amoCas _ _ _ c => isScope c
  | .amoFadd _ _ _ c => isScope c
  | .acq _ => true
  | .rel _ => true
  | .bind _ _ _ => true
  | .unbind _ _ => true
  | .fence c => isScope c
  | .fenceV c => isScope c
  | .csrx _ _ x => isControlRegister x
  | .csrs _ _ x => isControlRegister x
  | .frmWrite _ => true
  | .vpfbWrite _ => true
  | .spdiscWrite _ => true
  | .registerWrite _ _ => true
  | .vdisp d _ _ => isArgBase d
  | .vdrain _ => true
  | .vqcnt _ => true
  | .rqpop _ => true
  | .rqpeek _ => true
  | .rqcnt _ => true
  | .launch _ _ => true
  | .launchg _ _ => true
  | .csig _ _ _ => true
  | .cancel _ => true
  | .cread d _ => isPairBase d
  | .binit _ _ _ c => isScope c
  | .barrive _ _ c => isScope c
  | .bwait _ _ _ c => isScope c
  | .barw _ _ c => isScope c
  | .btest _ _ _ c => isScope c
  | .snapBegin _ _ _ => true
  | .snapAccept _ => true
  | .snapReject _ => true
  | .snapQuery _ _ => true
  | .snapPool _ _ _ => true
  | .wqOpen _ _ => true
  | .wqRun _ => true
  | .wqPoll _ _ => true
  | .wqResult _ _ => true
  | .wqClose _ => true
  | .vadd _ _ _ _ => true
  | .vsub _ _ _ _ => true
  | .vmul _ _ _ _ => true
  | .vmulh _ _ _ _ => true
  | .vmulhn _ _ _ _ => true
  | .vmin _ _ _ _ => true
  | .vmax _ _ _ _ => true
  | .vminn _ _ _ _ => true
  | .vmaxn _ _ _ _ => true
  | .vand _ _ _ _ => true
  | .vor _ _ _ _ => true
  | .vxor _ _ _ _ => true
  | .vandn _ _ _ _ => true
  | .vshl _ _ _ _ => true
  | .vshr _ _ _ _ => true
  | .vsra _ _ _ _ => true
  | .vintsVadd _ _ b _ => isH b
  | .vintsVsub _ _ b _ => isH b
  | .vintsVmul _ _ b _ => isH b
  | .vintsVmulh _ _ b _ => isH b
  | .vintsVmulhn _ _ b _ => isH b
  | .vintsVmin _ _ b _ => isH b
  | .vintsVmax _ _ b _ => isH b
  | .vintsVminn _ _ b _ => isH b
  | .vintsVmaxn _ _ b _ => isH b
  | .vintsVand _ _ b _ => isH b
  | .vintsVor _ _ b _ => isH b
  | .vintsVxor _ _ b _ => isH b
  | .vintsVandn _ _ b _ => isH b
  | .vintsVshl _ _ b _ => isH b
  | .vintsVshr _ _ b _ => isH b
  | .vintsVsra _ _ b _ => isH b
  | .vfadd _ _ _ _ => true
  | .vfsub _ _ _ _ => true
  | .vfmul _ _ _ _ => true
  | .vfdiv _ _ _ _ => true
  | .vfmin _ _ _ _ => true
  | .vfmax _ _ _ _ => true
  | .vfsqrt _ _ _ => true
  | .vfabs _ _ _ => true
  | .vfneg _ _ _ => true
  | .vadds _ _ _ _ => true
  | .vsubs _ _ _ _ => true
  | .vfltsVfadd _ _ b _ => isH b
  | .vfltsVfsub _ _ b _ => isH b
  | .vfltsVfmul _ _ b _ => isH b
  | .vfltsVfdiv _ _ b _ => isH b
  | .vfltsVfmin _ _ b _ => isH b
  | .vfltsVfmax _ _ b _ => isH b
  | .vfma _ _ _ _ => true
  | .vfms _ _ _ _ => true
  | .vfnma _ _ _ _ => true
  | .vfnms _ _ _ _ => true
  | .vmac _ _ _ _ => true
  | .vdot4 _ _ _ _ => true
  | .vdot2 _ _ _ _ => true
  | .vfshl _ _ _ _ => true
  | .vfshr _ _ _ _ => true
  | .log3Low _ _ _ _ => true
  | .log3High _ _ _ _ => true
  | .vslup _ _ b _ => isH b
  | .vsldn _ _ b _ => isH b
  | .vgath _ _ _ _ => true
  | .vpush _ _ _ _ => true
  | .vcmpr _ _ _ => true
  | .vexpd _ _ _ => true
  | .vbcst _ b _ => isH b
  | .vext d _ b => isH d && isH b
  | .vid _ _ => true
  | .viota _ a _ => isMask a
  | .vrsum d _ _ => isH d
  | .vrmax d _ _ => isH d
  | .vrmin d _ _ => isH d
  | .vrand d _ _ => isH d
  | .vror d _ _ => isH d
  | .vrxor d _ _ => isH d
  | .vfrsum d _ _ => isH d
  | .vfrmax d _ _ => isH d
  | .vfrmin d _ _ => isH d
  | .cvtN _ _ _ _ => true
  | .cvtW _ _ _ _ => true
  | .cvtFi _ _ _ _ => true
  | .cvtIf _ _ _ _ => true
  | .cvtF4 _ _ _ => true
  | .cvtQ _ _ _ _ => true
  | .vexp2 _ _ _ => true
  | .vlog2 _ _ _ => true
  | .vrcp _ _ _ => true
  | .vrsq _ _ _ => true
  | .vtanh _ _ _ => true
  | .vsmax _ _ b _ => isSmaxIndex b
  | .vceq d _ _ _ => isMask d
  | .vcne d _ _ _ => isMask d
  | .vclt d _ _ _ => isMask d
  | .vcle d _ _ _ => isMask d
  | .vcltn d _ _ _ => isMask d
  | .vclen d _ _ _ => isMask d
  | .vfceq d _ _ _ => isMask d
  | .vfclt d _ _ _ => isMask d
  | .vfcle d _ _ _ => isMask d
  | .vfcun d _ _ _ => isMask d
  | .vcmpsVceq d _ b _ => isMask d && isH b
  | .vcmpsVcne d _ b _ => isMask d && isH b
  | .vcmpsVclt d _ b _ => isMask d && isH b
  | .vcmpsVcle d _ b _ => isMask d && isH b
  | .vcmpsVcltn d _ b _ => isMask d && isH b
  | .vcmpsVclen d _ b _ => isMask d && isH b
  | .vcmpsVfceq d _ b _ => isMask d && isH b
  | .vcmpsVfclt d _ b _ => isMask d && isH b
  | .vcmpsVfcle d _ b _ => isMask d && isH b
  | .vcmpsVfcun d _ b _ => isMask d && isH b
  | .mand d a b => isMask d && isMask a && isMask b
  | .mor d a b => isMask d && isMask a && isMask b
  | .mxor d a b => isMask d && isMask a && isMask b
  | .mandn d a b => isMask d && isMask a && isMask b
  | .mnot d a => isMask d && isMask a
  | .mset d => isMask d
  | .mclr d => isMask d
  | .mfirst d a => isH d && isMask a
  | .mpopc d a => isH d && isMask a
  | .vmerge _ _ _ _ => true
  | .vsetl d a => isH d && isH a
  | .vsett d a => isH d && isH a
  | .vend => true
  | .vreply a => isH a
  | .vreplym a => isMask a
  | .vjoin => true
  | .vlcset d a => isLoopCounter d && isH a
  | .valc d => isH d
  | .vbany a _ => isMask a
  | .vbnone a _ => isMask a
  | .vbdiv a _ => isMask a
  | .vlcnz a _ => isLoopCounter a
  | .vloop a _ => isH a
  | .vjmp _ => true
  | .vld _ a _ => isStream a
  | .vldx _ a _ _ => isStream a
  | .vldl _ a _ => isStream a
  | .vst _ a _ => isStream a
  | .vstx _ a _ _ => isStream a
  | .vstl _ a _ => isStream a
  | .vsta _ a _ _ => isStream a
  | .qset d a => isStream d && isH a
  | .qadv d a => isStream d && isH a
  | .qpos d a => isH d && isStream a
  | .qrel d => isStream d
  | .streamRunAhead _ _ _ => true
  | .hbind _ _ _ => true
  | .hunbind _ _ _ => true
  | .hperm _ _ b => isH b
  | .hpermn _ _ b => isH b
  | .hbacc _ _ b => isH b
  | .hbth _ _ _ => true
  | .hgen _ a => isH a
  | .hnot _ _ => true
  | .hclr _ => true
  | .hsim d _ _ => isH d
  | .hclean d _ b => isRecordBase d && isH b
  | .hfact d _ b => isH d && isH b
  | .isopen d a b => isH d && isH a && isH b
  | .isload d a _ => isH d && isH a
  | .isseal d a => isH d && isH a
  | .isrel a => isH a
  | .hprob d a b => isH d && isH a && isH b
  | .tld d a => isOperandTile d && isH a
  | .tst d a => isH d && isAccTile a
  | .tzero d => isTile d
  | .tmov _ a b => isAccTile a && isH b
  | .trel d => isOperandTile d
  | .tscl d a => isOperandTile d && isH a
  | .mma d a b _ => isAccTile4 d && isOperandTile4 a && isOperandTile4 b
  | .mmaz d a b _ => isAccTile4 d && isOperandTile4 a && isOperandTile4 b
  | .tbegin d a => isH d && isH a
  | .tend => true
  | .tcopy d a b => isH d && isH a && isH b
  | .tcopyM d a b => isH d && isH a && isH b
  | .rfence => true
  | .twait => true
  | .sigd d a => isH d && isH a
  | .siginit d => isGroup d
  | .sigadd d _ => isGroup d
  | .sigmul d a => isGroup d && isGroup a
  | .siglog d a => isGroup d && isGroup a
  | .sigld d a => isGroup d && isH a
  | .sigst d a => isH d && isGroup a
  | .fbind d a => isFabric d && isH a
  | .fsend a _ => isFabric a
  | .frecv _ a => isFabric a
  | .frecvop _ a _ => isFabric a
  | .fcount d a => isH d && isFabric a
  | .fa2a a => isFabric a
  | .fwait d a => isH d && isFabric a
  | .frel a => isFabric a
  | .bgath _ a _ _ => isStream a
  | .bscat _ a _ _ => isStream a
  | .bscadd _ a _ _ => isStream a
  | .vfpush _ a _ _ => isStream a
  | .vffree d => isH d
  | .blat d _ => isH d
  | .vpopc _ _ _ => true
  | .vclz _ _ _ => true
  | .vbrev _ _ _ => true
  | .vrotl _ _ _ _ => true
  | .trapDelivery _ => true
  | .blockTake _ => true
  | .waitTimeout _ => true
  | .preempt _ _ => true
  | .contextSaveComplete _ => true
  | .contextResume _ => true
  | .contextCreate _ _ _ _ => true
  | .contextBind _ _ => true
  | .contextDestroy _ => true
  | .cancellation _ _ => true
  | .meterInterval => true
  | .refreshEnergySplit _ => true
  | .queueEntryTake _ => true
  | .unitPlace _ _ _ => true
  | .hartFree _ => true
  | .graphNode _ _ _ => true
  | .arbiterTurn _ => true
  | .droopDetect _ => true
  | .alcRestore _ => true
  | .noonLend _ _ _ => true
  | .noonRecall _ _ _ => true
  | .islandGate _ => true
  | .islandWake _ => true
  | .vfifoEntryPerform _ => true
  | .bankRequestComplete _ => true
  | .verticalPathDegrade _ => true
  | .bankTemperatureChange _ _ => true
  | .engineCommandStart _ _ => true
  | .engineStep _ _ => true
  | .engineCommandComplete _ _ => true
  | .regionGrant _ => true
  | .timedCommandStart _ _ => true
  | .regionOverrun _ => true
  | .bgathDue _ => true
  | .migrationStart _ _ _ => true
  | .migrationHold _ => true
  | .migrationSwitch _ => true
  | .pageMap _ _ _ _ _ => true
  | .pageUnmap _ _ _ => true
  | .shootdown _ _ _ => true
  | .shootdownComplete _ => true
  | .pageSweep _ => true
  | .shadowHeldWrite _ _ => true
  | .lazyRestore _ _ => true
  | .walkStep _ _ => true
  | .flitRetry _ _ _ => true
  | .linkEnable _ => true
  | .linkTrainDone _ _ => true
  | .linkTrainTimeout _ => true
  | .linkRetrain _ => true
  | .laneLoss _ => true
  | .lossOfSignal _ => true
  | .linkDrain _ => true
  | .linkDrainDone _ => true
  | .groupOpen _ _ _ _ _ _ => true
  | .joinNotice _ _ _ => true
  | .groupAbort _ => true
  | .groupAbortArrival _ _ => true
  | .groupFree _ => true
  | .drainMarkerReturn _ => true
  | .fabricPacketArrival _ => true
  | .qbaseWrite _ _ => true
  | .qsizeWrite _ _ => true
  | .qtailWrite _ _ => true
  | .qctlSusp _ _ => true
  | .qctlDrain _ _ => true
  | .drainDone _ => true
  | .bindRecordWrite _ _ _ => true
  | .qleftWrite _ _ => true
  | .functionLevelReset _ => true
  | .hostDmaRead _ _ _ => true
  | .hostDmaWrite _ _ _ => true
  | .formatRangeWrite _ _ _ => true
  | .dawnStart => true
  | .dawnRom _ => true
  | .dawnVoxind _ _ => true
  | .dawnTrim _ => true
  | .dawnMeminit _ => true
  | .dawnMeter _ => true
  | .dawnLinks => true
  | .powerDown => true
  | .scrub _ _ => true
  | .cxlRemoval _ => true
  | .queryContextReclaim _ _ => true
  | .routeTableWrite _ _ => true
  | .queueContextAssign _ _ => true
  | .vfEnable _ _ => true

end Sys2Proof
end

