-- ==== Sys2Proof/Decode.lean ====
section
/-!
DEFINITION. Decoding and encoding of instruction words (R16 to R24).

`decode` is total: it answers the one instruction a word stands for, or says why the word is refused. `encode` writes
the word of an instruction from the same formats (R18). A word is accepted only if the fields its entry names hold
admitted values and every other field of the payload is zero (R19): the payload must be the one `encode` writes.

The definitions marked noncomputable build constructors whose tag is past what Lean's compiled code can hold (Instr has
405); the kernel evaluates them like any other.
-/

namespace Sys2Proof

/-! ### The fields of a word (R16, R18) -/

/-- Bit 31, the restart mark. -/
def wordP (w : BitVec 32) : Bool := w.getLsbD 31
/-- Bits 30 to 28, the stall count. -/
def wordS (w : BitVec 32) : BitVec 3 := w.extractLsb' 28 3
/-- Bits 27 to 22, the major opcode. -/
def wordOp (w : BitVec 32) : BitVec 6 := w.extractLsb' 22 6
/-- Opcode and payload together. -/
def wordBody (w : BitVec 32) : BitVec 28 := w.extractLsb' 0 28
/-- Field d of formats A, I, M, U, X, L3 and K, and field a of format Z. -/
def fieldD (w : BitVec 32) : BitVec 5 := w.extractLsb' 17 5
/-- Field a. -/
def fieldA (w : BitVec 32) : BitVec 5 := w.extractLsb' 12 5
/-- Field b. -/
def fieldB (w : BitVec 32) : BitVec 5 := w.extractLsb' 7 5
/-- Field m of format A, a mask or a scope code. -/
def fieldM (w : BitVec 32) : BitVec 3 := w.extractLsb' 4 3
/-- Selector f of format A. -/
def selA (w : BitVec 32) : BitVec 4 := w.extractLsb' 0 4
/-- Selector f of formats I and M. -/
def selI (w : BitVec 32) : BitVec 3 := w.extractLsb' 9 3
/-- imm9 of formats I and M. -/
def imm9 (w : BitVec 32) : BitVec 9 := w.extractLsb' 0 9
/-- The shift amount imm9[5:0]. -/
def imm6 (w : BitVec 32) : BitVec 6 := w.extractLsb' 0 6
/-- imm17 of format U. -/
def imm17 (w : BitVec 32) : BitVec 17 := w.extractLsb' 0 17
/-- off22 of format J. -/
def off22 (w : BitVec 32) : BitVec 22 := w.extractLsb' 0 22
/-- Selector c of format Z. -/
def selZ (w : BitVec 32) : BitVec 3 := w.extractLsb' 14 3
/-- off14 of format Z. -/
def off14 (w : BitVec 32) : BitVec 14 := w.extractLsb' 0 14
/-- x12 of format X. -/
def selX (w : BitVec 32) : BitVec 12 := w.extractLsb' 0 12
/-- The trap number in x12[7:0] (R71). -/
def trapNum (w : BitVec 32) : BitVec 8 := w.extractLsb' 0 8
/-- tt of format L3. -/
def fieldT (w : BitVec 32) : BitVec 7 := w.extractLsb' 0 7
/-- k of format K. -/
def fieldK (w : BitVec 32) : BitVec 6 := w.extractLsb' 1 6
/-- Selector f[0] of format K. -/
def selK (w : BitVec 32) : BitVec 1 := w.extractLsb' 0 1
/-- The operand k of the narrowing and widening conversions, field b[0] (R50). -/
def fieldBit (w : BitVec 32) : BitVec 1 := w.extractLsb' 7 1
/-- td of format E. -/
def tileD (w : BitVec 32) : BitVec 4 := w.extractLsb' 18 4
/-- ta of format E. -/
def tileA (w : BitVec 32) : BitVec 4 := w.extractLsb' 14 4
/-- tb of format E. -/
def tileB (w : BitVec 32) : BitVec 4 := w.extractLsb' 10 4
/-- off of format E. -/
def off10 (w : BitVec 32) : BitVec 10 := w.extractLsb' 0 10

/-! ### The payload formats, for encoding (R18) -/

/-- Format A. -/
def packA (op : BitVec 6) (d a b : BitVec 5) (m : BitVec 3) (f : BitVec 4) : BitVec 28 := op ++ d ++ a ++ b ++ m ++ f
/-- Formats I and M. -/
def packI (op : BitVec 6) (d a : BitVec 5) (f : BitVec 3) (i : BitVec 9) : BitVec 28 := op ++ d ++ a ++ f ++ i
/-- Format U. -/
def packU (op : BitVec 6) (d : BitVec 5) (i : BitVec 17) : BitVec 28 := op ++ d ++ i
/-- Format J. -/
def packJ (op : BitVec 6) (o : BitVec 22) : BitVec 28 := op ++ o
/-- Format Z. -/
def packZ (op : BitVec 6) (a : BitVec 5) (c : BitVec 3) (o : BitVec 14) : BitVec 28 := op ++ a ++ c ++ o
/-- Format X. -/
def packX (op : BitVec 6) (d a : BitVec 5) (x : BitVec 12) : BitVec 28 := op ++ d ++ a ++ x
/-- Format L3. -/
def packL (op : BitVec 6) (d a b : BitVec 5) (t : BitVec 7) : BitVec 28 := op ++ d ++ a ++ b ++ t
/-- Format K. -/
def packK (op : BitVec 6) (d a b : BitVec 5) (k : BitVec 6) (f : BitVec 1) : BitVec 28 := op ++ d ++ a ++ b ++ k ++ f
/-- Format E. -/
def packE (op : BitVec 6) (d a b : BitVec 4) (o : BitVec 10) : BitVec 28 := op ++ d ++ a ++ b ++ o

/-! ### Decoding, one function for each major with a selector -/

/-- Selector values of SYS. -/
def decodeSys (w : BitVec 32) : Option Instr :=
  if selX w &&& 0xF00#12 = 0x100#12 then some (.trap (trapNum w)) else
  match selX w with
  | 0#12 => some (.nop)
  | 1#12 => some (.eret)
  | 2#12 => some (.wait (fieldD w) (fieldA w))
  | 3#12 => some (.brk)
  | 4#12 => some (.yield)
  | 8#12 => some (.fencei)
  | 16#12 => some (.dusk)
  | 17#12 => some (.dawn)
  | _ => none

/-- Selector values of INT. -/
def decodeInt (w : BitVec 32) : Option Instr :=
  match selA w with
  | 0#4 => some (.add (fieldD w) (fieldA w) (fieldB w))
  | 1#4 => some (.sub (fieldD w) (fieldA w) (fieldB w))
  | 2#4 => some (.and (fieldD w) (fieldA w) (fieldB w))
  | 3#4 => some (.or (fieldD w) (fieldA w) (fieldB w))
  | 4#4 => some (.xor (fieldD w) (fieldA w) (fieldB w))
  | 5#4 => some (.andn (fieldD w) (fieldA w) (fieldB w))
  | 6#4 => some (.shl (fieldD w) (fieldA w) (fieldB w))
  | 7#4 => some (.shr (fieldD w) (fieldA w) (fieldB w))
  | 8#4 => some (.sra (fieldD w) (fieldA w) (fieldB w))
  | 9#4 => some (.mul (fieldD w) (fieldA w) (fieldB w))
  | 10#4 => some (.mulh (fieldD w) (fieldA w) (fieldB w))
  | 11#4 => some (.mulhn (fieldD w) (fieldA w) (fieldB w))
  | 12#4 => some (.div (fieldD w) (fieldA w) (fieldB w))
  | 13#4 => some (.divn (fieldD w) (fieldA w) (fieldB w))
  | 14#4 => some (.rem (fieldD w) (fieldA w) (fieldB w))
  | _ => some (.remn (fieldD w) (fieldA w) (fieldB w))

/-- Selector values of INT2. -/
def decodeInt2 (w : BitVec 32) : Option Instr :=
  match selA w with
  | 0#4 => some (.slt (fieldD w) (fieldA w) (fieldB w))
  | 1#4 => some (.sltn (fieldD w) (fieldA w) (fieldB w))
  | 2#4 => some (.min (fieldD w) (fieldA w) (fieldB w))
  | 3#4 => some (.max (fieldD w) (fieldA w) (fieldB w))
  | 4#4 => some (.minn (fieldD w) (fieldA w) (fieldB w))
  | 5#4 => some (.maxn (fieldD w) (fieldA w) (fieldB w))
  | 6#4 => some (.clz (fieldD w) (fieldA w))
  | 7#4 => some (.ctz (fieldD w) (fieldA w))
  | 8#4 => some (.popc (fieldD w) (fieldA w))
  | 9#4 => some (.rotl (fieldD w) (fieldA w) (fieldB w))
  | 10#4 => some (.sel (fieldD w) (fieldA w) (fieldB w))
  | _ => none

/-- Selector values of INTI. -/
def decodeInti (w : BitVec 32) : Option Instr :=
  match selI w with
  | 0#3 => some (.addi (fieldD w) (fieldA w) (imm9 w))
  | 1#3 => some (.andi (fieldD w) (fieldA w) (imm9 w))
  | 2#3 => some (.ori (fieldD w) (fieldA w) (imm9 w))
  | 3#3 => some (.xori (fieldD w) (fieldA w) (imm9 w))
  | 4#3 => some (.shli (fieldD w) (fieldA w) (imm6 w))
  | 5#3 => some (.shri (fieldD w) (fieldA w) (imm6 w))
  | 6#3 => some (.srai (fieldD w) (fieldA w) (imm6 w))
  | _ => some (.slti (fieldD w) (fieldA w) (imm9 w))

/-- Selector values of BCZ. -/
def decodeBcz (w : BitVec 32) : Option Instr :=
  match selZ w with
  | 0#3 => some (.beqz (fieldD w) (off14 w))
  | 1#3 => some (.bnez (fieldD w) (off14 w))
  | 2#3 => some (.bltz (fieldD w) (off14 w))
  | 3#3 => some (.bgez (fieldD w) (off14 w))
  | 4#3 => some (.bgtz (fieldD w) (off14 w))
  | 5#3 => some (.blez (fieldD w) (off14 w))
  | _ => none

/-- Selector values of XFER. -/
def decodeXfer (w : BitVec 32) : Option Instr :=
  match selA w with
  | 0#4 => some (.jr (fieldA w))
  | 1#4 => some (.callr (fieldA w))
  | 2#4 => some (.ret)
  | _ => none

/-- Selector values of LD. -/
def decodeLd (w : BitVec 32) : Option Instr :=
  match selI w with
  | 0#3 => some (.ldB (fieldD w) (fieldA w) (imm9 w))
  | 1#3 => some (.ldBn (fieldD w) (fieldA w) (imm9 w))
  | 2#3 => some (.ldH (fieldD w) (fieldA w) (imm9 w))
  | 3#3 => some (.ldHn (fieldD w) (fieldA w) (imm9 w))
  | 4#3 => some (.ldW (fieldD w) (fieldA w) (imm9 w))
  | 5#3 => some (.ldWn (fieldD w) (fieldA w) (imm9 w))
  | 6#3 => some (.ldD (fieldD w) (fieldA w) (imm9 w))
  | _ => none

/-- Selector values of ST. -/
def decodeSt (w : BitVec 32) : Option Instr :=
  match selI w with
  | 0#3 => some (.stB (fieldD w) (fieldA w) (imm9 w))
  | 1#3 => some (.stH (fieldD w) (fieldA w) (imm9 w))
  | 2#3 => some (.stW (fieldD w) (fieldA w) (imm9 w))
  | 3#3 => some (.stD (fieldD w) (fieldA w) (imm9 w))
  | _ => none

/-- Selector values of AMO. -/
def decodeAmo (w : BitVec 32) : Option Instr :=
  match selA w with
  | 0#4 => some (.amoAdd (fieldD w) (fieldA w) (fieldB w) (fieldM w))
  | 1#4 => some (.amoAnd (fieldD w) (fieldA w) (fieldB w) (fieldM w))
  | 2#4 => some (.amoOr (fieldD w) (fieldA w) (fieldB w) (fieldM w))
  | 3#4 => some (.amoXor (fieldD w) (fieldA w) (fieldB w) (fieldM w))
  | 4#4 => some (.amoMin (fieldD w) (fieldA w) (fieldB w) (fieldM w))
  | 5#4 => some (.amoMax (fieldD w) (fieldA w) (fieldB w) (fieldM w))
  | 6#4 => some (.amoSwap (fieldD w) (fieldA w) (fieldB w) (fieldM w))
  | 7#4 => some (.amoCas (fieldD w) (fieldA w) (fieldB w) (fieldM w))
  | 8#4 => some (.amoFadd (fieldD w) (fieldA w) (fieldB w) (fieldM w))
  | _ => none

/-- Selector values of SYNC. -/
def decodeSync (w : BitVec 32) : Option Instr :=
  match selA w with
  | 0#4 => some (.acq (fieldA w))
  | 1#4 => some (.rel (fieldA w))
  | 2#4 => some (.bind (fieldD w) (fieldA w) (fieldB w))
  | 3#4 => some (.unbind (fieldA w) (fieldB w))
  | 4#4 => some (.fence (fieldM w))
  | 5#4 => some (.fenceV (fieldM w))
  | _ => none

/-- Selector values of VQ. -/
def decodeVq (w : BitVec 32) : Option Instr :=
  match selA w with
  | 0#4 => some (.vdisp (fieldD w) (fieldA w) (fieldB w))
  | 1#4 => some (.vdrain (fieldD w))
  | 2#4 => some (.vqcnt (fieldD w))
  | _ => none

/-- Selector values of RQ. -/
def decodeRq (w : BitVec 32) : Option Instr :=
  match selA w with
  | 0#4 => some (.rqpop (fieldD w))
  | 1#4 => some (.rqpeek (fieldD w))
  | 2#4 => some (.rqcnt (fieldD w))
  | _ => none

/-- Selector values of WORK. -/
def decodeWork (w : BitVec 32) : Option Instr :=
  match selA w with
  | 0#4 => some (.launch (fieldD w) (fieldA w))
  | 1#4 => some (.launchg (fieldD w) (fieldA w))
  | 2#4 => some (.csig (fieldD w) (fieldA w) (fieldB w))
  | 3#4 => some (.cancel (fieldA w))
  | 4#4 => some (.cread (fieldD w) (fieldA w))
  | _ => none

/-- Selector values of BAR. -/
def decodeBar (w : BitVec 32) : Option Instr :=
  match selA w with
  | 0#4 => some (.binit (fieldD w) (fieldA w) (fieldB w) (fieldM w))
  | 1#4 => some (.barrive (fieldD w) (fieldA w) (fieldM w))
  | 2#4 => some (.bwait (fieldD w) (fieldA w) (fieldB w) (fieldM w))
  | 3#4 => some (.barw (fieldD w) (fieldA w) (fieldM w))
  | 4#4 => some (.btest (fieldD w) (fieldA w) (fieldB w) (fieldM w))
  | _ => none

/-- Selector values of SNAP. -/
def decodeSnap (w : BitVec 32) : Option Instr :=
  match selA w with
  | 0#4 => some (.snapBegin (fieldD w) (fieldA w) (fieldB w))
  | 1#4 => some (.snapAccept (fieldA w))
  | 2#4 => some (.snapReject (fieldA w))
  | 3#4 => some (.snapQuery (fieldD w) (fieldA w))
  | 4#4 => some (.snapPool (fieldD w) (fieldA w) (fieldB w))
  | _ => none

/-- Selector values of WALK. -/
def decodeWalk (w : BitVec 32) : Option Instr :=
  match selA w with
  | 0#4 => some (.wqOpen (fieldD w) (fieldA w))
  | 1#4 => some (.wqRun (fieldA w))
  | 2#4 => some (.wqPoll (fieldD w) (fieldA w))
  | 3#4 => some (.wqResult (fieldD w) (fieldA w))
  | 4#4 => some (.wqClose (fieldA w))
  | _ => none

/-- Selector values of VINT. -/
def decodeVint (w : BitVec 32) : Option Instr :=
  match selA w with
  | 0#4 => some (.vadd (fieldD w) (fieldA w) (fieldB w) (fieldM w))
  | 1#4 => some (.vsub (fieldD w) (fieldA w) (fieldB w) (fieldM w))
  | 2#4 => some (.vmul (fieldD w) (fieldA w) (fieldB w) (fieldM w))
  | 3#4 => some (.vmulh (fieldD w) (fieldA w) (fieldB w) (fieldM w))
  | 4#4 => some (.vmulhn (fieldD w) (fieldA w) (fieldB w) (fieldM w))
  | 5#4 => some (.vmin (fieldD w) (fieldA w) (fieldB w) (fieldM w))
  | 6#4 => some (.vmax (fieldD w) (fieldA w) (fieldB w) (fieldM w))
  | 7#4 => some (.vminn (fieldD w) (fieldA w) (fieldB w) (fieldM w))
  | 8#4 => some (.vmaxn (fieldD w) (fieldA w) (fieldB w) (fieldM w))
  | 9#4 => some (.vand (fieldD w) (fieldA w) (fieldB w) (fieldM w))
  | 10#4 => some (.vor (fieldD w) (fieldA w) (fieldB w) (fieldM w))
  | 11#4 => some (.vxor (fieldD w) (fieldA w) (fieldB w) (fieldM w))
  | 12#4 => some (.vandn (fieldD w) (fieldA w) (fieldB w) (fieldM w))
  | 13#4 => some (.vshl (fieldD w) (fieldA w) (fieldB w) (fieldM w))
  | 14#4 => some (.vshr (fieldD w) (fieldA w) (fieldB w) (fieldM w))
  | _ => some (.vsra (fieldD w) (fieldA w) (fieldB w) (fieldM w))

/-- Selector values of VINTS. -/
def decodeVints (w : BitVec 32) : Option Instr :=
  match selA w with
  | 0#4 => some (.vintsVadd (fieldD w) (fieldA w) (fieldB w) (fieldM w))
  | 1#4 => some (.vintsVsub (fieldD w) (fieldA w) (fieldB w) (fieldM w))
  | 2#4 => some (.vintsVmul (fieldD w) (fieldA w) (fieldB w) (fieldM w))
  | 3#4 => some (.vintsVmulh (fieldD w) (fieldA w) (fieldB w) (fieldM w))
  | 4#4 => some (.vintsVmulhn (fieldD w) (fieldA w) (fieldB w) (fieldM w))
  | 5#4 => some (.vintsVmin (fieldD w) (fieldA w) (fieldB w) (fieldM w))
  | 6#4 => some (.vintsVmax (fieldD w) (fieldA w) (fieldB w) (fieldM w))
  | 7#4 => some (.vintsVminn (fieldD w) (fieldA w) (fieldB w) (fieldM w))
  | 8#4 => some (.vintsVmaxn (fieldD w) (fieldA w) (fieldB w) (fieldM w))
  | 9#4 => some (.vintsVand (fieldD w) (fieldA w) (fieldB w) (fieldM w))
  | 10#4 => some (.vintsVor (fieldD w) (fieldA w) (fieldB w) (fieldM w))
  | 11#4 => some (.vintsVxor (fieldD w) (fieldA w) (fieldB w) (fieldM w))
  | 12#4 => some (.vintsVandn (fieldD w) (fieldA w) (fieldB w) (fieldM w))
  | 13#4 => some (.vintsVshl (fieldD w) (fieldA w) (fieldB w) (fieldM w))
  | 14#4 => some (.vintsVshr (fieldD w) (fieldA w) (fieldB w) (fieldM w))
  | _ => some (.vintsVsra (fieldD w) (fieldA w) (fieldB w) (fieldM w))

/-- Selector values of VFLT. -/
def decodeVflt (w : BitVec 32) : Option Instr :=
  match selA w with
  | 0#4 => some (.vfadd (fieldD w) (fieldA w) (fieldB w) (fieldM w))
  | 1#4 => some (.vfsub (fieldD w) (fieldA w) (fieldB w) (fieldM w))
  | 2#4 => some (.vfmul (fieldD w) (fieldA w) (fieldB w) (fieldM w))
  | 3#4 => some (.vfdiv (fieldD w) (fieldA w) (fieldB w) (fieldM w))
  | 4#4 => some (.vfmin (fieldD w) (fieldA w) (fieldB w) (fieldM w))
  | 5#4 => some (.vfmax (fieldD w) (fieldA w) (fieldB w) (fieldM w))
  | 6#4 => some (.vfsqrt (fieldD w) (fieldA w) (fieldM w))
  | 7#4 => some (.vfabs (fieldD w) (fieldA w) (fieldM w))
  | 8#4 => some (.vfneg (fieldD w) (fieldA w) (fieldM w))
  | 9#4 => some (.vadds (fieldD w) (fieldA w) (fieldB w) (fieldM w))
  | 10#4 => some (.vsubs (fieldD w) (fieldA w) (fieldB w) (fieldM w))
  | _ => none

/-- Selector values of VFLTS. -/
def decodeVflts (w : BitVec 32) : Option Instr :=
  match selA w with
  | 0#4 => some (.vfltsVfadd (fieldD w) (fieldA w) (fieldB w) (fieldM w))
  | 1#4 => some (.vfltsVfsub (fieldD w) (fieldA w) (fieldB w) (fieldM w))
  | 2#4 => some (.vfltsVfmul (fieldD w) (fieldA w) (fieldB w) (fieldM w))
  | 3#4 => some (.vfltsVfdiv (fieldD w) (fieldA w) (fieldB w) (fieldM w))
  | 4#4 => some (.vfltsVfmin (fieldD w) (fieldA w) (fieldB w) (fieldM w))
  | 5#4 => some (.vfltsVfmax (fieldD w) (fieldA w) (fieldB w) (fieldM w))
  | _ => none

/-- Selector values of VFMA. -/
def decodeVfma (w : BitVec 32) : Option Instr :=
  match selA w with
  | 0#4 => some (.vfma (fieldD w) (fieldA w) (fieldB w) (fieldM w))
  | 1#4 => some (.vfms (fieldD w) (fieldA w) (fieldB w) (fieldM w))
  | 2#4 => some (.vfnma (fieldD w) (fieldA w) (fieldB w) (fieldM w))
  | 3#4 => some (.vfnms (fieldD w) (fieldA w) (fieldB w) (fieldM w))
  | 4#4 => some (.vmac (fieldD w) (fieldA w) (fieldB w) (fieldM w))
  | 5#4 => some (.vdot4 (fieldD w) (fieldA w) (fieldB w) (fieldM w))
  | 6#4 => some (.vdot2 (fieldD w) (fieldA w) (fieldB w) (fieldM w))
  | _ => none

/-- Selector values of VFUN. -/
def decodeVfun (w : BitVec 32) : Option Instr :=
  match selK w with
  | 0#1 => some (.vfshl (fieldD w) (fieldA w) (fieldB w) (fieldK w))
  | _ => some (.vfshr (fieldD w) (fieldA w) (fieldB w) (fieldK w))

/-- Selector values of VPERM. -/
def decodeVperm (w : BitVec 32) : Option Instr :=
  match selA w with
  | 0#4 => some (.vslup (fieldD w) (fieldA w) (fieldB w) (fieldM w))
  | 1#4 => some (.vsldn (fieldD w) (fieldA w) (fieldB w) (fieldM w))
  | 2#4 => some (.vgath (fieldD w) (fieldA w) (fieldB w) (fieldM w))
  | 3#4 => some (.vpush (fieldD w) (fieldA w) (fieldB w) (fieldM w))
  | 4#4 => some (.vcmpr (fieldD w) (fieldA w) (fieldM w))
  | 5#4 => some (.vexpd (fieldD w) (fieldA w) (fieldM w))
  | 6#4 => some (.vbcst (fieldD w) (fieldB w) (fieldM w))
  | 7#4 => some (.vext (fieldD w) (fieldA w) (fieldB w))
  | 8#4 => some (.vid (fieldD w) (fieldM w))
  | 9#4 => some (.viota (fieldD w) (fieldA w) (fieldM w))
  | _ => none

/-- Selector values of VRED. -/
def decodeVred (w : BitVec 32) : Option Instr :=
  match selA w with
  | 0#4 => some (.vrsum (fieldD w) (fieldA w) (fieldM w))
  | 1#4 => some (.vrmax (fieldD w) (fieldA w) (fieldM w))
  | 2#4 => some (.vrmin (fieldD w) (fieldA w) (fieldM w))
  | 3#4 => some (.vrand (fieldD w) (fieldA w) (fieldM w))
  | 4#4 => some (.vror (fieldD w) (fieldA w) (fieldM w))
  | 5#4 => some (.vrxor (fieldD w) (fieldA w) (fieldM w))
  | 6#4 => some (.vfrsum (fieldD w) (fieldA w) (fieldM w))
  | 7#4 => some (.vfrmax (fieldD w) (fieldA w) (fieldM w))
  | 8#4 => some (.vfrmin (fieldD w) (fieldA w) (fieldM w))
  | _ => none

/-- Selector values of VCVT. -/
def decodeVcvt (w : BitVec 32) : Option Instr :=
  match selA w with
  | 0#4 => some (.cvtN (fieldD w) (fieldA w) (fieldBit w) (fieldM w))
  | 1#4 => some (.cvtW (fieldD w) (fieldA w) (fieldBit w) (fieldM w))
  | 2#4 => some (.cvtFi (fieldD w) (fieldA w) (fieldBit w) (fieldM w))
  | 3#4 => some (.cvtIf (fieldD w) (fieldA w) (fieldBit w) (fieldM w))
  | 4#4 => some (.cvtF4 (fieldD w) (fieldA w) (fieldM w))
  | 5#4 => some (.cvtQ (fieldD w) (fieldA w) (fieldB w) (fieldM w))
  | _ => none

/-- Selector values of VSFU. -/
def decodeVsfu (w : BitVec 32) : Option Instr :=
  match selA w with
  | 0#4 => some (.vexp2 (fieldD w) (fieldA w) (fieldM w))
  | 1#4 => some (.vlog2 (fieldD w) (fieldA w) (fieldM w))
  | 2#4 => some (.vrcp (fieldD w) (fieldA w) (fieldM w))
  | 3#4 => some (.vrsq (fieldD w) (fieldA w) (fieldM w))
  | 4#4 => some (.vtanh (fieldD w) (fieldA w) (fieldM w))
  | 5#4 => some (.vsmax (fieldD w) (fieldA w) (fieldB w) (fieldM w))
  | _ => none

/-- Selector values of VCMP. -/
def decodeVcmp (w : BitVec 32) : Option Instr :=
  match selA w with
  | 0#4 => some (.vceq (fieldD w) (fieldA w) (fieldB w) (fieldM w))
  | 1#4 => some (.vcne (fieldD w) (fieldA w) (fieldB w) (fieldM w))
  | 2#4 => some (.vclt (fieldD w) (fieldA w) (fieldB w) (fieldM w))
  | 3#4 => some (.vcle (fieldD w) (fieldA w) (fieldB w) (fieldM w))
  | 4#4 => some (.vcltn (fieldD w) (fieldA w) (fieldB w) (fieldM w))
  | 5#4 => some (.vclen (fieldD w) (fieldA w) (fieldB w) (fieldM w))
  | 6#4 => some (.vfceq (fieldD w) (fieldA w) (fieldB w) (fieldM w))
  | 7#4 => some (.vfclt (fieldD w) (fieldA w) (fieldB w) (fieldM w))
  | 8#4 => some (.vfcle (fieldD w) (fieldA w) (fieldB w) (fieldM w))
  | 9#4 => some (.vfcun (fieldD w) (fieldA w) (fieldB w) (fieldM w))
  | _ => none

/-- Selector values of VMOP. -/
def decodeVmop (w : BitVec 32) : Option Instr :=
  match selA w with
  | 0#4 => some (.mand (fieldD w) (fieldA w) (fieldB w))
  | 1#4 => some (.mor (fieldD w) (fieldA w) (fieldB w))
  | 2#4 => some (.mxor (fieldD w) (fieldA w) (fieldB w))
  | 3#4 => some (.mandn (fieldD w) (fieldA w) (fieldB w))
  | 4#4 => some (.mnot (fieldD w) (fieldA w))
  | 5#4 => some (.mset (fieldD w))
  | 6#4 => some (.mclr (fieldD w))
  | 7#4 => some (.mfirst (fieldD w) (fieldA w))
  | 8#4 => some (.mpopc (fieldD w) (fieldA w))
  | 9#4 => some (.vmerge (fieldD w) (fieldA w) (fieldB w) (fieldM w))
  | _ => none

/-- Selector values of VCTL. -/
def decodeVctl (w : BitVec 32) : Option Instr :=
  match selX w with
  | 0#12 => some (.vsetl (fieldD w) (fieldA w))
  | 1#12 => some (.vsett (fieldD w) (fieldA w))
  | 2#12 => some (.vend)
  | 3#12 => some (.vreply (fieldA w))
  | 4#12 => some (.vreplym (fieldA w))
  | 5#12 => some (.vjoin)
  | 6#12 => some (.vlcset (fieldD w) (fieldA w))
  | 7#12 => some (.valc (fieldD w))
  | _ => none

/-- Selector values of VB. -/
noncomputable def decodeVb (w : BitVec 32) : Option Instr :=
  match selZ w with
  | 0#3 => some (.vbany (fieldD w) (off14 w))
  | 1#3 => some (.vbnone (fieldD w) (off14 w))
  | 2#3 => some (.vbdiv (fieldD w) (off14 w))
  | 3#3 => some (.vlcnz (fieldD w) (off14 w))
  | 4#3 => some (.vloop (fieldD w) (off14 w))
  | 5#3 => some (.vjmp (off14 w))
  | _ => none

/-- Selector values of VLD. -/
noncomputable def decodeVld (w : BitVec 32) : Option Instr :=
  match selA w with
  | 0#4 => some (.vld (fieldD w) (fieldA w) (fieldM w))
  | 1#4 => some (.vldx (fieldD w) (fieldA w) (fieldB w) (fieldM w))
  | 2#4 => some (.vldl (fieldD w) (fieldA w) (fieldM w))
  | _ => none

/-- Selector values of VST. -/
noncomputable def decodeVst (w : BitVec 32) : Option Instr :=
  match selA w with
  | 0#4 => some (.vst (fieldD w) (fieldA w) (fieldM w))
  | 1#4 => some (.vstx (fieldD w) (fieldA w) (fieldB w) (fieldM w))
  | 2#4 => some (.vstl (fieldD w) (fieldA w) (fieldM w))
  | 3#4 => some (.vsta (fieldD w) (fieldA w) (fieldB w) (fieldM w))
  | _ => none

/-- Selector values of QCTL. -/
noncomputable def decodeQctl (w : BitVec 32) : Option Instr :=
  match selA w with
  | 0#4 => some (.qset (fieldD w) (fieldA w))
  | 1#4 => some (.qadv (fieldD w) (fieldA w))
  | 2#4 => some (.qpos (fieldD w) (fieldA w))
  | 3#4 => some (.qrel (fieldD w))
  | _ => none

/-- Selector values of HVA. -/
noncomputable def decodeHva (w : BitVec 32) : Option Instr :=
  match selA w with
  | 0#4 => some (.hbind (fieldD w) (fieldA w) (fieldB w))
  | 1#4 => some (.hunbind (fieldD w) (fieldA w) (fieldB w))
  | 2#4 => some (.hperm (fieldD w) (fieldA w) (fieldB w))
  | 3#4 => some (.hpermn (fieldD w) (fieldA w) (fieldB w))
  | 4#4 => some (.hbacc (fieldD w) (fieldA w) (fieldB w))
  | 5#4 => some (.hbth (fieldD w) (fieldA w) (fieldB w))
  | 6#4 => some (.hgen (fieldD w) (fieldA w))
  | 7#4 => some (.hnot (fieldD w) (fieldA w))
  | 8#4 => some (.hclr (fieldD w))
  | _ => none

/-- Selector values of HVB. -/
noncomputable def decodeHvb (w : BitVec 32) : Option Instr :=
  match selA w with
  | 0#4 => some (.hsim (fieldD w) (fieldA w) (fieldB w))
  | 1#4 => some (.hclean (fieldD w) (fieldA w) (fieldB w))
  | 2#4 => some (.hfact (fieldD w) (fieldA w) (fieldB w))
  | 3#4 => some (.isopen (fieldD w) (fieldA w) (fieldB w))
  | 4#4 => some (.isload (fieldD w) (fieldA w) (fieldB w))
  | 5#4 => some (.isseal (fieldD w) (fieldA w))
  | 6#4 => some (.isrel (fieldA w))
  | 7#4 => some (.hprob (fieldD w) (fieldA w) (fieldB w))
  | _ => none

/-- Selector values of TILE. -/
noncomputable def decodeTile (w : BitVec 32) : Option Instr :=
  match selA w with
  | 0#4 => some (.tld (fieldD w) (fieldA w))
  | 1#4 => some (.tst (fieldD w) (fieldA w))
  | 2#4 => some (.tzero (fieldD w))
  | 3#4 => some (.tmov (fieldD w) (fieldA w) (fieldB w))
  | 4#4 => some (.trel (fieldD w))
  | 5#4 => some (.tscl (fieldD w) (fieldA w))
  | _ => none

/-- Selector values of TENG. -/
noncomputable def decodeTeng (w : BitVec 32) : Option Instr :=
  match selA w with
  | 0#4 => some (.tbegin (fieldD w) (fieldA w))
  | 1#4 => some (.tend)
  | 2#4 => some (.tcopy (fieldD w) (fieldA w) (fieldB w))
  | 3#4 => some (.tcopyM (fieldD w) (fieldA w) (fieldB w))
  | 4#4 => some (.rfence)
  | 5#4 => some (.twait)
  | _ => none

/-- Selector values of SIG. -/
noncomputable def decodeSig (w : BitVec 32) : Option Instr :=
  match selA w with
  | 0#4 => some (.sigd (fieldD w) (fieldA w))
  | 1#4 => some (.siginit (fieldD w))
  | 2#4 => some (.sigadd (fieldD w) (fieldA w))
  | 3#4 => some (.sigmul (fieldD w) (fieldA w))
  | 4#4 => some (.siglog (fieldD w) (fieldA w))
  | 5#4 => some (.sigld (fieldD w) (fieldA w))
  | 6#4 => some (.sigst (fieldD w) (fieldA w))
  | _ => none

/-- Selector values of FAB. -/
noncomputable def decodeFab (w : BitVec 32) : Option Instr :=
  match selA w with
  | 0#4 => some (.fbind (fieldD w) (fieldA w))
  | 1#4 => some (.fsend (fieldA w) (fieldB w))
  | 2#4 => some (.frecv (fieldD w) (fieldA w))
  | 3#4 => some (.frecvop (fieldD w) (fieldA w) (fieldB w))
  | 4#4 => some (.fcount (fieldD w) (fieldA w))
  | 5#4 => some (.fa2a (fieldA w))
  | 6#4 => some (.fwait (fieldD w) (fieldA w))
  | 7#4 => some (.frel (fieldA w))
  | _ => none

/-- Selector values of BANK. -/
noncomputable def decodeBank (w : BitVec 32) : Option Instr :=
  match selA w with
  | 0#4 => some (.bgath (fieldD w) (fieldA w) (fieldB w) (fieldM w))
  | 1#4 => some (.bscat (fieldD w) (fieldA w) (fieldB w) (fieldM w))
  | 2#4 => some (.bscadd (fieldD w) (fieldA w) (fieldB w) (fieldM w))
  | 3#4 => some (.vfpush (fieldD w) (fieldA w) (fieldB w) (fieldM w))
  | 4#4 => some (.vffree (fieldD w))
  | 5#4 => some (.blat (fieldD w) (fieldA w))
  | _ => none

/-- Selector values of VBIT2. -/
noncomputable def decodeVbit2 (w : BitVec 32) : Option Instr :=
  match selA w with
  | 0#4 => some (.vpopc (fieldD w) (fieldA w) (fieldM w))
  | 1#4 => some (.vclz (fieldD w) (fieldA w) (fieldM w))
  | 2#4 => some (.vbrev (fieldD w) (fieldA w) (fieldM w))
  | 3#4 => some (.vrotl (fieldD w) (fieldA w) (fieldB w) (fieldM w))
  | _ => none

/-- Selector values of VCMPS. -/
def decodeVcmps (w : BitVec 32) : Option Instr :=
  match selA w with
  | 0#4 => some (.vcmpsVceq (fieldD w) (fieldA w) (fieldB w) (fieldM w))
  | 1#4 => some (.vcmpsVcne (fieldD w) (fieldA w) (fieldB w) (fieldM w))
  | 2#4 => some (.vcmpsVclt (fieldD w) (fieldA w) (fieldB w) (fieldM w))
  | 3#4 => some (.vcmpsVcle (fieldD w) (fieldA w) (fieldB w) (fieldM w))
  | 4#4 => some (.vcmpsVcltn (fieldD w) (fieldA w) (fieldB w) (fieldM w))
  | 5#4 => some (.vcmpsVclen (fieldD w) (fieldA w) (fieldB w) (fieldM w))
  | 6#4 => some (.vcmpsVfceq (fieldD w) (fieldA w) (fieldB w) (fieldM w))
  | 7#4 => some (.vcmpsVfclt (fieldD w) (fieldA w) (fieldB w) (fieldM w))
  | 8#4 => some (.vcmpsVfcle (fieldD w) (fieldA w) (fieldB w) (fieldM w))
  | 9#4 => some (.vcmpsVfcun (fieldD w) (fieldA w) (fieldB w) (fieldM w))
  | _ => none

/-- The instruction a word's opcode and selector name, before its fields are checked. -/
noncomputable def decodeSelector (w : BitVec 32) : Option Instr :=
  match (wordOp w).toNat with
  | 0x00 => decodeSys w
  | 0x01 => decodeInt w
  | 0x02 => decodeInt2 w
  | 0x03 => decodeInti w
  | 0x04 => some (.lis (fieldD w) (imm17 w))
  | 0x05 => some (.shim (fieldD w) (imm17 w))
  | 0x06 => decodeBcz w
  | 0x07 => some (.jmp (off22 w))
  | 0x08 => some (.call (off22 w))
  | 0x09 => decodeXfer w
  | 0x0A => decodeLd w
  | 0x0B => decodeSt w
  | 0x0C => decodeAmo w
  | 0x0D => decodeSync w
  | 0x0E => some (.csrx (fieldD w) (fieldA w) (selX w))
  | 0x0F => some (.csrs (fieldD w) (fieldA w) (selX w))
  | 0x10 => decodeVq w
  | 0x11 => decodeRq w
  | 0x12 => decodeWork w
  | 0x13 => decodeBar w
  | 0x14 => decodeSnap w
  | 0x15 => decodeWalk w
  | 0x20 => decodeVint w
  | 0x21 => decodeVints w
  | 0x22 => decodeVflt w
  | 0x23 => decodeVflts w
  | 0x24 => decodeVfma w
  | 0x25 => decodeVfun w
  | 0x26 => some (.log3Low (fieldD w) (fieldA w) (fieldB w) (fieldT w))
  | 0x27 => some (.log3High (fieldD w) (fieldA w) (fieldB w) (fieldT w))
  | 0x28 => decodeVperm w
  | 0x29 => decodeVred w
  | 0x2A => decodeVcvt w
  | 0x2B => decodeVsfu w
  | 0x2C => decodeVcmp w
  | 0x2D => decodeVmop w
  | 0x2E => decodeVctl w
  | 0x2F => decodeVb w
  | 0x30 => decodeVld w
  | 0x31 => decodeVst w
  | 0x32 => decodeQctl w
  | 0x33 => decodeHva w
  | 0x34 => decodeHvb w
  | 0x35 => decodeTile w
  | 0x36 => some (.mma (tileD w) (tileA w) (tileB w) (off10 w))
  | 0x37 => some (.mmaz (tileD w) (tileA w) (tileB w) (off10 w))
  | 0x38 => decodeTeng w
  | 0x39 => decodeSig w
  | 0x3A => decodeFab w
  | 0x3B => decodeBank w
  | 0x3C => decodeVbit2 w
  | 0x3D => decodeVcmps w
  | _ => none

/-- The side marks of R20: the scalar side only, the vector side only, or either. -/
inductive SideMark where
  | s
  | v
  | b
  deriving DecidableEq, Repr, Inhabited

/-- The side mark of a major opcode; none for a reserved major (R20, R22). -/
def majorMark (op : BitVec 6) : Option SideMark :=
  if op = 0x00#6 || op = 0x0D#6 || op = 0x0E#6 || op = 0x0F#6 || op = 0x13#6 then some .b
  else if op ≤ 0x15#6 then some .s
  else if op ≤ 0x1F#6 then none
  else if op ≤ 0x3D#6 then some .v
  else none

/-! ### Encoding -/

/-- Opcode and payload of an instruction; none for an event, which has no word (R18, R22). -/
def Instr.body : Instr → Option (BitVec 28)
  | .nop => some (packX 0x00#6 0#5 0#5 0#12)
  | .eret => some (packX 0x00#6 0#5 0#5 1#12)
  | .wait d a => some (packX 0x00#6 d a 2#12)
  | .brk => some (packX 0x00#6 0#5 0#5 3#12)
  | .yield => some (packX 0x00#6 0#5 0#5 4#12)
  | .fencei => some (packX 0x00#6 0#5 0#5 8#12)
  | .dusk => some (packX 0x00#6 0#5 0#5 16#12)
  | .dawn => some (packX 0x00#6 0#5 0#5 17#12)
  | .trap n => some (packX 0x00#6 0#5 0#5 (1#4 ++ n))
  | .add d a b => some (packA 0x01#6 d a b 0#3 0#4)
  | .sub d a b => some (packA 0x01#6 d a b 0#3 1#4)
  | .and d a b => some (packA 0x01#6 d a b 0#3 2#4)
  | .or d a b => some (packA 0x01#6 d a b 0#3 3#4)
  | .xor d a b => some (packA 0x01#6 d a b 0#3 4#4)
  | .andn d a b => some (packA 0x01#6 d a b 0#3 5#4)
  | .shl d a b => some (packA 0x01#6 d a b 0#3 6#4)
  | .shr d a b => some (packA 0x01#6 d a b 0#3 7#4)
  | .sra d a b => some (packA 0x01#6 d a b 0#3 8#4)
  | .mul d a b => some (packA 0x01#6 d a b 0#3 9#4)
  | .mulh d a b => some (packA 0x01#6 d a b 0#3 10#4)
  | .mulhn d a b => some (packA 0x01#6 d a b 0#3 11#4)
  | .div d a b => some (packA 0x01#6 d a b 0#3 12#4)
  | .divn d a b => some (packA 0x01#6 d a b 0#3 13#4)
  | .rem d a b => some (packA 0x01#6 d a b 0#3 14#4)
  | .remn d a b => some (packA 0x01#6 d a b 0#3 15#4)
  | .slt d a b => some (packA 0x02#6 d a b 0#3 0#4)
  | .sltn d a b => some (packA 0x02#6 d a b 0#3 1#4)
  | .min d a b => some (packA 0x02#6 d a b 0#3 2#4)
  | .max d a b => some (packA 0x02#6 d a b 0#3 3#4)
  | .minn d a b => some (packA 0x02#6 d a b 0#3 4#4)
  | .maxn d a b => some (packA 0x02#6 d a b 0#3 5#4)
  | .clz d a => some (packA 0x02#6 d a 0#5 0#3 6#4)
  | .ctz d a => some (packA 0x02#6 d a 0#5 0#3 7#4)
  | .popc d a => some (packA 0x02#6 d a 0#5 0#3 8#4)
  | .rotl d a b => some (packA 0x02#6 d a b 0#3 9#4)
  | .sel d a b => some (packA 0x02#6 d a b 0#3 10#4)
  | .addi d a i => some (packI 0x03#6 d a 0#3 i)
  | .andi d a i => some (packI 0x03#6 d a 1#3 i)
  | .ori d a i => some (packI 0x03#6 d a 2#3 i)
  | .xori d a i => some (packI 0x03#6 d a 3#3 i)
  | .shli d a i => some (packI 0x03#6 d a 4#3 (0#3 ++ i))
  | .shri d a i => some (packI 0x03#6 d a 5#3 (0#3 ++ i))
  | .srai d a i => some (packI 0x03#6 d a 6#3 (0#3 ++ i))
  | .slti d a i => some (packI 0x03#6 d a 7#3 i)
  | .lis d i => some (packU 0x04#6 d i)
  | .shim d i => some (packU 0x05#6 d i)
  | .beqz a o => some (packZ 0x06#6 a 0#3 o)
  | .bnez a o => some (packZ 0x06#6 a 1#3 o)
  | .bltz a o => some (packZ 0x06#6 a 2#3 o)
  | .bgez a o => some (packZ 0x06#6 a 3#3 o)
  | .bgtz a o => some (packZ 0x06#6 a 4#3 o)
  | .blez a o => some (packZ 0x06#6 a 5#3 o)
  | .jmp o => some (packJ 0x07#6 o)
  | .call o => some (packJ 0x08#6 o)
  | .jr a => some (packA 0x09#6 0#5 a 0#5 0#3 0#4)
  | .callr a => some (packA 0x09#6 0#5 a 0#5 0#3 1#4)
  | .ret => some (packA 0x09#6 0#5 0#5 0#5 0#3 2#4)
  | .ldB d a i => some (packI 0x0A#6 d a 0#3 i)
  | .ldBn d a i => some (packI 0x0A#6 d a 1#3 i)
  | .ldH d a i => some (packI 0x0A#6 d a 2#3 i)
  | .ldHn d a i => some (packI 0x0A#6 d a 3#3 i)
  | .ldW d a i => some (packI 0x0A#6 d a 4#3 i)
  | .ldWn d a i => some (packI 0x0A#6 d a 5#3 i)
  | .ldD d a i => some (packI 0x0A#6 d a 6#3 i)
  | .stB d a i => some (packI 0x0B#6 d a 0#3 i)
  | .stH d a i => some (packI 0x0B#6 d a 1#3 i)
  | .stW d a i => some (packI 0x0B#6 d a 2#3 i)
  | .stD d a i => some (packI 0x0B#6 d a 3#3 i)
  | .amoAdd d a b c => some (packA 0x0C#6 d a b c 0#4)
  | .amoAnd d a b c => some (packA 0x0C#6 d a b c 1#4)
  | .amoOr d a b c => some (packA 0x0C#6 d a b c 2#4)
  | .amoXor d a b c => some (packA 0x0C#6 d a b c 3#4)
  | .amoMin d a b c => some (packA 0x0C#6 d a b c 4#4)
  | .amoMax d a b c => some (packA 0x0C#6 d a b c 5#4)
  | .amoSwap d a b c => some (packA 0x0C#6 d a b c 6#4)
  | .amoCas d a b c => some (packA 0x0C#6 d a b c 7#4)
  | .amoFadd d a b c => some (packA 0x0C#6 d a b c 8#4)
  | .acq a => some (packA 0x0D#6 0#5 a 0#5 0#3 0#4)
  | .rel a => some (packA 0x0D#6 0#5 a 0#5 0#3 1#4)
  | .bind d a b => some (packA 0x0D#6 d a b 0#3 2#4)
  | .unbind a b => some (packA 0x0D#6 0#5 a b 0#3 3#4)
  | .fence c => some (packA 0x0D#6 0#5 0#5 0#5 c 4#4)
  | .fenceV c => some (packA 0x0D#6 0#5 0#5 0#5 c 5#4)
  | .csrx d a x => some (packX 0x0E#6 d a x)
  | .csrs d a x => some (packX 0x0F#6 d a x)
  | .frmWrite _ => none
  | .vpfbWrite _ => none
  | .spdiscWrite _ => none
  | .registerWrite _ _ => none
  | .vdisp d a b => some (packA 0x10#6 d a b 0#3 0#4)
  | .vdrain d => some (packA 0x10#6 d 0#5 0#5 0#3 1#4)
  | .vqcnt d => some (packA 0x10#6 d 0#5 0#5 0#3 2#4)
  | .rqpop d => some (packA 0x11#6 d 0#5 0#5 0#3 0#4)
  | .rqpeek d => some (packA 0x11#6 d 0#5 0#5 0#3 1#4)
  | .rqcnt d => some (packA 0x11#6 d 0#5 0#5 0#3 2#4)
  | .launch d a => some (packA 0x12#6 d a 0#5 0#3 0#4)
  | .launchg d a => some (packA 0x12#6 d a 0#5 0#3 1#4)
  | .csig d a b => some (packA 0x12#6 d a b 0#3 2#4)
  | .cancel a => some (packA 0x12#6 0#5 a 0#5 0#3 3#4)
  | .cread d a => some (packA 0x12#6 d a 0#5 0#3 4#4)
  | .binit d a b c => some (packA 0x13#6 d a b c 0#4)
  | .barrive d a c => some (packA 0x13#6 d a 0#5 c 1#4)
  | .bwait d a b c => some (packA 0x13#6 d a b c 2#4)
  | .barw d a c => some (packA 0x13#6 d a 0#5 c 3#4)
  | .btest d a b c => some (packA 0x13#6 d a b c 4#4)
  | .snapBegin d a b => some (packA 0x14#6 d a b 0#3 0#4)
  | .snapAccept a => some (packA 0x14#6 0#5 a 0#5 0#3 1#4)
  | .snapReject a => some (packA 0x14#6 0#5 a 0#5 0#3 2#4)
  | .snapQuery d a => some (packA 0x14#6 d a 0#5 0#3 3#4)
  | .snapPool d a b => some (packA 0x14#6 d a b 0#3 4#4)
  | .wqOpen d a => some (packA 0x15#6 d a 0#5 0#3 0#4)
  | .wqRun a => some (packA 0x15#6 0#5 a 0#5 0#3 1#4)
  | .wqPoll d a => some (packA 0x15#6 d a 0#5 0#3 2#4)
  | .wqResult d a => some (packA 0x15#6 d a 0#5 0#3 3#4)
  | .wqClose a => some (packA 0x15#6 0#5 a 0#5 0#3 4#4)
  | .vadd d a b m => some (packA 0x20#6 d a b m 0#4)
  | .vsub d a b m => some (packA 0x20#6 d a b m 1#4)
  | .vmul d a b m => some (packA 0x20#6 d a b m 2#4)
  | .vmulh d a b m => some (packA 0x20#6 d a b m 3#4)
  | .vmulhn d a b m => some (packA 0x20#6 d a b m 4#4)
  | .vmin d a b m => some (packA 0x20#6 d a b m 5#4)
  | .vmax d a b m => some (packA 0x20#6 d a b m 6#4)
  | .vminn d a b m => some (packA 0x20#6 d a b m 7#4)
  | .vmaxn d a b m => some (packA 0x20#6 d a b m 8#4)
  | .vand d a b m => some (packA 0x20#6 d a b m 9#4)
  | .vor d a b m => some (packA 0x20#6 d a b m 10#4)
  | .vxor d a b m => some (packA 0x20#6 d a b m 11#4)
  | .vandn d a b m => some (packA 0x20#6 d a b m 12#4)
  | .vshl d a b m => some (packA 0x20#6 d a b m 13#4)
  | .vshr d a b m => some (packA 0x20#6 d a b m 14#4)
  | .vsra d a b m => some (packA 0x20#6 d a b m 15#4)
  | .vintsVadd d a b m => some (packA 0x21#6 d a b m 0#4)
  | .vintsVsub d a b m => some (packA 0x21#6 d a b m 1#4)
  | .vintsVmul d a b m => some (packA 0x21#6 d a b m 2#4)
  | .vintsVmulh d a b m => some (packA 0x21#6 d a b m 3#4)
  | .vintsVmulhn d a b m => some (packA 0x21#6 d a b m 4#4)
  | .vintsVmin d a b m => some (packA 0x21#6 d a b m 5#4)
  | .vintsVmax d a b m => some (packA 0x21#6 d a b m 6#4)
  | .vintsVminn d a b m => some (packA 0x21#6 d a b m 7#4)
  | .vintsVmaxn d a b m => some (packA 0x21#6 d a b m 8#4)
  | .vintsVand d a b m => some (packA 0x21#6 d a b m 9#4)
  | .vintsVor d a b m => some (packA 0x21#6 d a b m 10#4)
  | .vintsVxor d a b m => some (packA 0x21#6 d a b m 11#4)
  | .vintsVandn d a b m => some (packA 0x21#6 d a b m 12#4)
  | .vintsVshl d a b m => some (packA 0x21#6 d a b m 13#4)
  | .vintsVshr d a b m => some (packA 0x21#6 d a b m 14#4)
  | .vintsVsra d a b m => some (packA 0x21#6 d a b m 15#4)
  | .vfadd d a b m => some (packA 0x22#6 d a b m 0#4)
  | .vfsub d a b m => some (packA 0x22#6 d a b m 1#4)
  | .vfmul d a b m => some (packA 0x22#6 d a b m 2#4)
  | .vfdiv d a b m => some (packA 0x22#6 d a b m 3#4)
  | .vfmin d a b m => some (packA 0x22#6 d a b m 4#4)
  | .vfmax d a b m => some (packA 0x22#6 d a b m 5#4)
  | .vfsqrt d a m => some (packA 0x22#6 d a 0#5 m 6#4)
  | .vfabs d a m => some (packA 0x22#6 d a 0#5 m 7#4)
  | .vfneg d a m => some (packA 0x22#6 d a 0#5 m 8#4)
  | .vadds d a b m => some (packA 0x22#6 d a b m 9#4)
  | .vsubs d a b m => some (packA 0x22#6 d a b m 10#4)
  | .vfltsVfadd d a b m => some (packA 0x23#6 d a b m 0#4)
  | .vfltsVfsub d a b m => some (packA 0x23#6 d a b m 1#4)
  | .vfltsVfmul d a b m => some (packA 0x23#6 d a b m 2#4)
  | .vfltsVfdiv d a b m => some (packA 0x23#6 d a b m 3#4)
  | .vfltsVfmin d a b m => some (packA 0x23#6 d a b m 4#4)
  | .vfltsVfmax d a b m => some (packA 0x23#6 d a b m 5#4)
  | .vfma d a b m => some (packA 0x24#6 d a b m 0#4)
  | .vfms d a b m => some (packA 0x24#6 d a b m 1#4)
  | .vfnma d a b m => some (packA 0x24#6 d a b m 2#4)
  | .vfnms d a b m => some (packA 0x24#6 d a b m 3#4)
  | .vmac d a b m => some (packA 0x24#6 d a b m 4#4)
  | .vdot4 d a b m => some (packA 0x24#6 d a b m 5#4)
  | .vdot2 d a b m => some (packA 0x24#6 d a b m 6#4)
  | .vfshl d a b k => some (packK 0x25#6 d a b k 0#1)
  | .vfshr d a b k => some (packK 0x25#6 d a b k 1#1)
  | .log3Low d a b t => some (packL 0x26#6 d a b t)
  | .log3High d a b t => some (packL 0x27#6 d a b t)
  | .vslup d a b m => some (packA 0x28#6 d a b m 0#4)
  | .vsldn d a b m => some (packA 0x28#6 d a b m 1#4)
  | .vgath d a b m => some (packA 0x28#6 d a b m 2#4)
  | .vpush d a b m => some (packA 0x28#6 d a b m 3#4)
  | .vcmpr d a m => some (packA 0x28#6 d a 0#5 m 4#4)
  | .vexpd d a m => some (packA 0x28#6 d a 0#5 m 5#4)
  | .vbcst d b m => some (packA 0x28#6 d 0#5 b m 6#4)
  | .vext d a b => some (packA 0x28#6 d a b 0#3 7#4)
  | .vid d m => some (packA 0x28#6 d 0#5 0#5 m 8#4)
  | .viota d a m => some (packA 0x28#6 d a 0#5 m 9#4)
  | .vrsum d a m => some (packA 0x29#6 d a 0#5 m 0#4)
  | .vrmax d a m => some (packA 0x29#6 d a 0#5 m 1#4)
  | .vrmin d a m => some (packA 0x29#6 d a 0#5 m 2#4)
  | .vrand d a m => some (packA 0x29#6 d a 0#5 m 3#4)
  | .vror d a m => some (packA 0x29#6 d a 0#5 m 4#4)
  | .vrxor d a m => some (packA 0x29#6 d a 0#5 m 5#4)
  | .vfrsum d a m => some (packA 0x29#6 d a 0#5 m 6#4)
  | .vfrmax d a m => some (packA 0x29#6 d a 0#5 m 7#4)
  | .vfrmin d a m => some (packA 0x29#6 d a 0#5 m 8#4)
  | .cvtN d a k m => some (packA 0x2A#6 d a (0#4 ++ k) m 0#4)
  | .cvtW d a k m => some (packA 0x2A#6 d a (0#4 ++ k) m 1#4)
  | .cvtFi d a k m => some (packA 0x2A#6 d a (0#4 ++ k) m 2#4)
  | .cvtIf d a k m => some (packA 0x2A#6 d a (0#4 ++ k) m 3#4)
  | .cvtF4 d a m => some (packA 0x2A#6 d a 0#5 m 4#4)
  | .cvtQ d a b m => some (packA 0x2A#6 d a b m 5#4)
  | .vexp2 d a m => some (packA 0x2B#6 d a 0#5 m 0#4)
  | .vlog2 d a m => some (packA 0x2B#6 d a 0#5 m 1#4)
  | .vrcp d a m => some (packA 0x2B#6 d a 0#5 m 2#4)
  | .vrsq d a m => some (packA 0x2B#6 d a 0#5 m 3#4)
  | .vtanh d a m => some (packA 0x2B#6 d a 0#5 m 4#4)
  | .vsmax d a b m => some (packA 0x2B#6 d a b m 5#4)
  | .vceq d a b m => some (packA 0x2C#6 d a b m 0#4)
  | .vcne d a b m => some (packA 0x2C#6 d a b m 1#4)
  | .vclt d a b m => some (packA 0x2C#6 d a b m 2#4)
  | .vcle d a b m => some (packA 0x2C#6 d a b m 3#4)
  | .vcltn d a b m => some (packA 0x2C#6 d a b m 4#4)
  | .vclen d a b m => some (packA 0x2C#6 d a b m 5#4)
  | .vfceq d a b m => some (packA 0x2C#6 d a b m 6#4)
  | .vfclt d a b m => some (packA 0x2C#6 d a b m 7#4)
  | .vfcle d a b m => some (packA 0x2C#6 d a b m 8#4)
  | .vfcun d a b m => some (packA 0x2C#6 d a b m 9#4)
  | .vcmpsVceq d a b m => some (packA 0x3D#6 d a b m 0#4)
  | .vcmpsVcne d a b m => some (packA 0x3D#6 d a b m 1#4)
  | .vcmpsVclt d a b m => some (packA 0x3D#6 d a b m 2#4)
  | .vcmpsVcle d a b m => some (packA 0x3D#6 d a b m 3#4)
  | .vcmpsVcltn d a b m => some (packA 0x3D#6 d a b m 4#4)
  | .vcmpsVclen d a b m => some (packA 0x3D#6 d a b m 5#4)
  | .vcmpsVfceq d a b m => some (packA 0x3D#6 d a b m 6#4)
  | .vcmpsVfclt d a b m => some (packA 0x3D#6 d a b m 7#4)
  | .vcmpsVfcle d a b m => some (packA 0x3D#6 d a b m 8#4)
  | .vcmpsVfcun d a b m => some (packA 0x3D#6 d a b m 9#4)
  | .mand d a b => some (packA 0x2D#6 d a b 0#3 0#4)
  | .mor d a b => some (packA 0x2D#6 d a b 0#3 1#4)
  | .mxor d a b => some (packA 0x2D#6 d a b 0#3 2#4)
  | .mandn d a b => some (packA 0x2D#6 d a b 0#3 3#4)
  | .mnot d a => some (packA 0x2D#6 d a 0#5 0#3 4#4)
  | .mset d => some (packA 0x2D#6 d 0#5 0#5 0#3 5#4)
  | .mclr d => some (packA 0x2D#6 d 0#5 0#5 0#3 6#4)
  | .mfirst d a => some (packA 0x2D#6 d a 0#5 0#3 7#4)
  | .mpopc d a => some (packA 0x2D#6 d a 0#5 0#3 8#4)
  | .vmerge d a b m => some (packA 0x2D#6 d a b m 9#4)
  | .vsetl d a => some (packX 0x2E#6 d a 0#12)
  | .vsett d a => some (packX 0x2E#6 d a 1#12)
  | .vend => some (packX 0x2E#6 0#5 0#5 2#12)
  | .vreply a => some (packX 0x2E#6 0#5 a 3#12)
  | .vreplym a => some (packX 0x2E#6 0#5 a 4#12)
  | .vjoin => some (packX 0x2E#6 0#5 0#5 5#12)
  | .vlcset d a => some (packX 0x2E#6 d a 6#12)
  | .valc d => some (packX 0x2E#6 d 0#5 7#12)
  | .vbany a o => some (packZ 0x2F#6 a 0#3 o)
  | .vbnone a o => some (packZ 0x2F#6 a 1#3 o)
  | .vbdiv a o => some (packZ 0x2F#6 a 2#3 o)
  | .vlcnz a o => some (packZ 0x2F#6 a 3#3 o)
  | .vloop a o => some (packZ 0x2F#6 a 4#3 o)
  | .vjmp o => some (packZ 0x2F#6 0#5 5#3 o)
  | .vld d a m => some (packA 0x30#6 d a 0#5 m 0#4)
  | .vldx d a b m => some (packA 0x30#6 d a b m 1#4)
  | .vldl d a m => some (packA 0x30#6 d a 0#5 m 2#4)
  | .vst d a m => some (packA 0x31#6 d a 0#5 m 0#4)
  | .vstx d a b m => some (packA 0x31#6 d a b m 1#4)
  | .vstl d a m => some (packA 0x31#6 d a 0#5 m 2#4)
  | .vsta d a b m => some (packA 0x31#6 d a b m 3#4)
  | .qset d a => some (packA 0x32#6 d a 0#5 0#3 0#4)
  | .qadv d a => some (packA 0x32#6 d a 0#5 0#3 1#4)
  | .qpos d a => some (packA 0x32#6 d a 0#5 0#3 2#4)
  | .qrel d => some (packA 0x32#6 d 0#5 0#5 0#3 3#4)
  | .streamRunAhead _ _ _ => none
  | .hbind d a b => some (packA 0x33#6 d a b 0#3 0#4)
  | .hunbind d a b => some (packA 0x33#6 d a b 0#3 1#4)
  | .hperm d a b => some (packA 0x33#6 d a b 0#3 2#4)
  | .hpermn d a b => some (packA 0x33#6 d a b 0#3 3#4)
  | .hbacc d a b => some (packA 0x33#6 d a b 0#3 4#4)
  | .hbth d a b => some (packA 0x33#6 d a b 0#3 5#4)
  | .hgen d a => some (packA 0x33#6 d a 0#5 0#3 6#4)
  | .hnot d a => some (packA 0x33#6 d a 0#5 0#3 7#4)
  | .hclr d => some (packA 0x33#6 d 0#5 0#5 0#3 8#4)
  | .hsim d a b => some (packA 0x34#6 d a b 0#3 0#4)
  | .hclean d a b => some (packA 0x34#6 d a b 0#3 1#4)
  | .hfact d a b => some (packA 0x34#6 d a b 0#3 2#4)
  | .isopen d a b => some (packA 0x34#6 d a b 0#3 3#4)
  | .isload d a b => some (packA 0x34#6 d a b 0#3 4#4)
  | .isseal d a => some (packA 0x34#6 d a 0#5 0#3 5#4)
  | .isrel a => some (packA 0x34#6 0#5 a 0#5 0#3 6#4)
  | .hprob d a b => some (packA 0x34#6 d a b 0#3 7#4)
  | .tld d a => some (packA 0x35#6 d a 0#5 0#3 0#4)
  | .tst d a => some (packA 0x35#6 d a 0#5 0#3 1#4)
  | .tzero d => some (packA 0x35#6 d 0#5 0#5 0#3 2#4)
  | .tmov d a b => some (packA 0x35#6 d a b 0#3 3#4)
  | .trel d => some (packA 0x35#6 d 0#5 0#5 0#3 4#4)
  | .tscl d a => some (packA 0x35#6 d a 0#5 0#3 5#4)
  | .mma d a b o => some (packE 0x36#6 d a b o)
  | .mmaz d a b o => some (packE 0x37#6 d a b o)
  | .tbegin d a => some (packA 0x38#6 d a 0#5 0#3 0#4)
  | .tend => some (packA 0x38#6 0#5 0#5 0#5 0#3 1#4)
  | .tcopy d a b => some (packA 0x38#6 d a b 0#3 2#4)
  | .tcopyM d a b => some (packA 0x38#6 d a b 0#3 3#4)
  | .rfence => some (packA 0x38#6 0#5 0#5 0#5 0#3 4#4)
  | .twait => some (packA 0x38#6 0#5 0#5 0#5 0#3 5#4)
  | .sigd d a => some (packA 0x39#6 d a 0#5 0#3 0#4)
  | .siginit d => some (packA 0x39#6 d 0#5 0#5 0#3 1#4)
  | .sigadd d a => some (packA 0x39#6 d a 0#5 0#3 2#4)
  | .sigmul d a => some (packA 0x39#6 d a 0#5 0#3 3#4)
  | .siglog d a => some (packA 0x39#6 d a 0#5 0#3 4#4)
  | .sigld d a => some (packA 0x39#6 d a 0#5 0#3 5#4)
  | .sigst d a => some (packA 0x39#6 d a 0#5 0#3 6#4)
  | .fbind d a => some (packA 0x3A#6 d a 0#5 0#3 0#4)
  | .fsend a b => some (packA 0x3A#6 0#5 a b 0#3 1#4)
  | .frecv d a => some (packA 0x3A#6 d a 0#5 0#3 2#4)
  | .frecvop d a b => some (packA 0x3A#6 d a b 0#3 3#4)
  | .fcount d a => some (packA 0x3A#6 d a 0#5 0#3 4#4)
  | .fa2a a => some (packA 0x3A#6 0#5 a 0#5 0#3 5#4)
  | .fwait d a => some (packA 0x3A#6 d a 0#5 0#3 6#4)
  | .frel a => some (packA 0x3A#6 0#5 a 0#5 0#3 7#4)
  | .bgath d a b m => some (packA 0x3B#6 d a b m 0#4)
  | .bscat d a b m => some (packA 0x3B#6 d a b m 1#4)
  | .bscadd d a b m => some (packA 0x3B#6 d a b m 2#4)
  | .vfpush d a b m => some (packA 0x3B#6 d a b m 3#4)
  | .vffree d => some (packA 0x3B#6 d 0#5 0#5 0#3 4#4)
  | .blat d a => some (packA 0x3B#6 d a 0#5 0#3 5#4)
  | .vpopc d a m => some (packA 0x3C#6 d a 0#5 m 0#4)
  | .vclz d a m => some (packA 0x3C#6 d a 0#5 m 1#4)
  | .vbrev d a m => some (packA 0x3C#6 d a 0#5 m 2#4)
  | .vrotl d a b m => some (packA 0x3C#6 d a b m 3#4)
  | .trapDelivery _ => none
  | .blockTake _ => none
  | .waitTimeout _ => none
  | .preempt _ _ => none
  | .contextSaveComplete _ => none
  | .contextResume _ => none
  | .contextCreate _ _ _ _ => none
  | .contextBind _ _ => none
  | .contextDestroy _ => none
  | .cancellation _ _ => none
  | .meterInterval => none
  | .refreshEnergySplit _ => none
  | .queueEntryTake _ => none
  | .unitPlace _ _ _ => none
  | .hartFree _ => none
  | .graphNode _ _ _ => none
  | .arbiterTurn _ => none
  | .droopDetect _ => none
  | .alcRestore _ => none
  | .noonLend _ _ _ => none
  | .noonRecall _ _ _ => none
  | .islandGate _ => none
  | .islandWake _ => none
  | .vfifoEntryPerform _ => none
  | .bankRequestComplete _ => none
  | .verticalPathDegrade _ => none
  | .bankTemperatureChange _ _ => none
  | .engineCommandStart _ _ => none
  | .engineStep _ _ => none
  | .engineCommandComplete _ _ => none
  | .regionGrant _ => none
  | .timedCommandStart _ _ => none
  | .regionOverrun _ => none
  | .bgathDue _ => none
  | .migrationStart _ _ _ => none
  | .migrationHold _ => none
  | .migrationSwitch _ => none
  | .pageMap _ _ _ _ _ => none
  | .pageUnmap _ _ _ => none
  | .shootdown _ _ _ => none
  | .shootdownComplete _ => none
  | .pageSweep _ => none
  | .shadowHeldWrite _ _ => none
  | .lazyRestore _ _ => none
  | .walkStep _ _ => none
  | .flitRetry _ _ _ => none
  | .linkEnable _ => none
  | .linkTrainDone _ _ => none
  | .linkTrainTimeout _ => none
  | .linkRetrain _ => none
  | .laneLoss _ => none
  | .lossOfSignal _ => none
  | .linkDrain _ => none
  | .linkDrainDone _ => none
  | .groupOpen _ _ _ _ _ _ => none
  | .joinNotice _ _ _ => none
  | .groupAbort _ => none
  | .groupAbortArrival _ _ => none
  | .groupFree _ => none
  | .drainMarkerReturn _ => none
  | .fabricPacketArrival _ => none
  | .qbaseWrite _ _ => none
  | .qsizeWrite _ _ => none
  | .qtailWrite _ _ => none
  | .qctlSusp _ _ => none
  | .qctlDrain _ _ => none
  | .drainDone _ => none
  | .bindRecordWrite _ _ _ => none
  | .qleftWrite _ _ => none
  | .functionLevelReset _ => none
  | .hostDmaRead _ _ _ => none
  | .hostDmaWrite _ _ _ => none
  | .formatRangeWrite _ _ _ => none
  | .dawnStart => none
  | .dawnRom _ => none
  | .dawnVoxind _ _ => none
  | .dawnTrim _ => none
  | .dawnMeminit _ => none
  | .dawnMeter _ => none
  | .dawnLinks => none
  | .powerDown => none
  | .scrub _ _ => none
  | .cxlRemoval _ => none
  | .queryContextReclaim _ _ => none
  | .routeTableWrite _ _ => none
  | .queueContextAssign _ _ => none
  | .vfEnable _ _ => none

/-- The word of an instruction with restart mark `p` and stall count `s` (R16). -/
def encode (x : Decoded) : Option (BitVec 32) :=
  match x.instr.body with
  | some b => some (BitVec.ofBool x.p ++ x.s ++ b)
  | none   => none

/-- The side mark of an instruction: that of its major opcode; events have none. -/
def Instr.mark (i : Instr) : Option SideMark :=
  match i.body with
  | some b => majorMark (b.extractLsb' 22 6)
  | none   => none

/-! ### The decoder -/

/-- Why a word is no instruction (R21 steps 1 and 3; R4). -/
inductive DecodeError where
  | reservedMajor
  | reservedSelector
  | reservedField
  deriving DecidableEq, Repr, Inhabited

/-- The instruction a word stands for, or why it is refused. -/
noncomputable def decode (w : BitVec 32) : Except DecodeError Decoded :=
  match majorMark (wordOp w) with
  | none => .error .reservedMajor
  | some _ =>
    match decodeSelector w with
    | none => .error .reservedSelector
    | some i =>
      if i.wellFormed && i.body == some (wordBody w) then .ok ⟨wordP w, wordS w, i⟩
      else .error .reservedField

/-- A word from its four bytes, the lowest address first (R3). -/
def wordOfBytes (b0 b1 b2 b3 : Byte) : BitVec 32 := b3 ++ b2 ++ b1 ++ b0

/-- The four bytes of a word, the lowest address first (R3). -/
def bytesOfWord (w : BitVec 32) : List Byte :=
  [w.extractLsb' 0 8, w.extractLsb' 8 8, w.extractLsb' 16 8, w.extractLsb' 24 8]

/-- Decoding of the bytes at a program counter: the instruction and the bytes after it. -/
noncomputable def decodeBytes : List Byte → Option (Decoded × List Byte)
  | b0 :: b1 :: b2 :: b3 :: rest =>
    match decode (wordOfBytes b0 b1 b2 b3) with
    | .ok x => some (x, rest)
    | .error _ => none
  | _ => none

/-- The instruction of a row of the opcode table, its bits numbered from the least significant bit of its one word;
the bits from `nbits` up are zero. A row without bits is an event, which the decoder does not read. -/
noncomputable def decodeTableWord (nbits w : Nat) : Option Instr :=
  if nbits = 0 then none else
  (decodeBytes (bytesOfWord (BitVec.ofNat 32 (w % 2 ^ nbits)))).map (·.1.instr)

end Sys2Proof
end

