-- ==== Sys2Proof/Config.lean ====
section
/-!
DEFINITION. What an implementation fixes and the free values.

A free value is a constant without a body: nothing can be proved of which value it is. Each is applied to a counter in
the state, `draws`, that advances at every use, or to the operands it depends on.
-/

namespace Sys2Proof.Config

/-- Bits of a value the manual leaves unspecified; the caller keeps as many as it needs (notes/assumptions/10). -/
opaque freeBits : Nat → Nat

/-- A choice between two outcomes the manual allows (notes/assumptions/10). -/
opaque freeBool : Nat → Bool

end Sys2Proof.Config
end

