-- ==== Sys2Proof/Machine/Numbers.lean ====
section
/-!
DEFINITION. Element types, floating-point formats and the arithmetic on single elements (R26, R33 to R37, R41 to R44,
R52, R87 to R96).

An element is a bit pattern held as a natural number below 2 ^ width. Operands are turned into exact integers or exact
fractions, the operation is done exactly, and the result is narrowed once (R6). Every operation answers its result and
the flags it raises.
-/

namespace Sys2Proof.Machine

/-! ### Element types (R26) -/

/-- The element types, in the order of their codes. -/
inductive ElemType where
  | b1 | i4 | n4 | i8 | n8 | i16 | n16 | i32 | n32 | i64 | n64
  | e2m1 | e4m3 | e5m2 | f16 | bf16 | f32 | f64 | ph4 | qn4 | qn8 | sc8
  deriving DecidableEq, Repr, Inhabited

/-- The type of a code; codes 22 to 31 are invalid. -/
def ElemType.ofCode (c : Nat) : Option ElemType :=
  match c with
  | 0 => some .b1 | 1 => some .i4 | 2 => some .n4 | 3 => some .i8 | 4 => some .n8 | 5 => some .i16 | 6 => some .n16
  | 7 => some .i32 | 8 => some .n32 | 9 => some .i64 | 10 => some .n64 | 11 => some .e2m1 | 12 => some .e4m3
  | 13 => some .e5m2 | 14 => some .f16 | 15 => some .bf16 | 16 => some .f32 | 17 => some .f64 | 18 => some .ph4
  | 19 => some .qn4 | 20 => some .qn8 | 21 => some .sc8 | _ => none

/-- The code of a type. -/
def ElemType.code : ElemType → Nat
  | .b1 => 0 | .i4 => 1 | .n4 => 2 | .i8 => 3 | .n8 => 4 | .i16 => 5 | .n16 => 6 | .i32 => 7 | .n32 => 8 | .i64 => 9
  | .n64 => 10 | .e2m1 => 11 | .e4m3 => 12 | .e5m2 => 13 | .f16 => 14 | .bf16 => 15 | .f32 => 16 | .f64 => 17
  | .ph4 => 18 | .qn4 => 19 | .qn8 => 20 | .sc8 => 21

/-- The width in bits. -/
def ElemType.width : ElemType → Nat
  | .b1 => 1
  | .i4 | .n4 | .e2m1 | .ph4 | .qn4 => 4
  | .i8 | .n8 | .e4m3 | .e5m2 | .qn8 | .sc8 => 8
  | .i16 | .n16 | .f16 | .bf16 => 16
  | .i32 | .n32 | .f32 => 32
  | .i64 | .n64 | .f64 => 64

/-- A signed integer type. -/
def ElemType.isSigned : ElemType → Bool
  | .i4 | .i8 | .i16 | .i32 | .i64 => true
  | _ => false

/-- An unsigned integer type. -/
def ElemType.isUnsigned : ElemType → Bool
  | .n4 | .n8 | .n16 | .n32 | .n64 => true
  | _ => false

/-- An integer type, I4 to N64. -/
def ElemType.isInt (t : ElemType) : Bool := t.isSigned || t.isUnsigned

/-- A floating-point type. -/
def ElemType.isFloat : ElemType → Bool
  | .e2m1 | .e4m3 | .e5m2 | .f16 | .bf16 | .f32 | .f64 => true
  | _ => false

/-- A quantised type. -/
def ElemType.isQuant : ElemType → Bool
  | .qn4 | .qn8 => true
  | _ => false

/-! ### Flags (R47) -/

/-- The sticky flags, laid out as VFLAGS[5:0]. -/
abbrev Flags := BitVec 6

def flagNV : Flags := 0x01#6
def flagDZ : Flags := 0x02#6
def flagOF : Flags := 0x04#6
def flagUF : Flags := 0x08#6
def flagNX : Flags := 0x10#6
def flagSAT : Flags := 0x20#6

/-! ### Integers (R33) -/

/-- The two's-complement value of a pattern of width `w`. -/
def toSigned (w x : Nat) : Int := if x < 2 ^ (w - 1) then x else (x : Int) - 2 ^ w

/-- The value of a pattern in an integer class. -/
def toInteger (signed : Bool) (w x : Nat) : Int := if signed then toSigned w x else x

/-- The low `w` bits of an integer. -/
def lowBits (w : Nat) (v : Int) : Nat := (v % (2 ^ w : Nat)).toNat

/-- The least value of an integer type. -/
def minInteger (signed : Bool) (w : Nat) : Int := if signed then -(2 ^ (w - 1) : Nat) else 0

/-- The greatest value of an integer type. -/
def maxInteger (signed : Bool) (w : Nat) : Int := if signed then (2 ^ (w - 1) : Nat) - 1 else (2 ^ w : Nat) - 1

/-- An exact integer clamped to a type, and whether it clamped. -/
def clampInteger (signed : Bool) (w : Nat) (v : Int) : Int × Bool :=
  if v < minInteger signed w then (minInteger signed w, true)
  else if maxInteger signed w < v then (maxInteger signed w, true)
  else (v, false)

/-- Assignment of an exact integer to a type: the low bits, or the nearest bound and SAT (R33). -/
def assignInteger (sat signed : Bool) (w : Nat) (v : Int) : Nat × Flags :=
  if sat then
    let c := clampInteger signed w v
    (lowBits w c.1, if c.2 then flagSAT else 0)
  else (lowBits w v, 0)

/-! ### Floating-point formats and values (R34, R35) -/

/-- The parameters of a floating-point type. -/
structure FloatFormat where
  /-- exponent bits -/
  ebits : Nat
  /-- mantissa bits -/
  mbits : Nat
  bias  : Nat
  /-- the type has infinities -/
  hasInf : Bool
  /-- the canonical NaN, if the type has NaNs -/
  nan : Option Nat
  /-- the largest finite value without its sign -/
  maxCode : Nat
  deriving DecidableEq, Repr, Inhabited

/-- The table of R34 with the canonical NaNs of R35; F32 for a type that is no float. -/
def floatFormat : ElemType → FloatFormat
  | .e2m1 => ⟨2, 1, 1, false, none, 7⟩
  | .e4m3 => ⟨4, 3, 7, false, some 0x7F, 0x7E⟩
  | .e5m2 => ⟨5, 2, 15, true, some 0x7E, 0x7B⟩
  | .f16 => ⟨5, 10, 15, true, some 0x7E00, 0x7BFF⟩
  | .bf16 => ⟨8, 7, 127, true, some 0x7FC0, 0x7F7F⟩
  | .f64 => ⟨11, 52, 1023, true, some 0x7FF8000000000000, 0x7FEFFFFFFFFFFFFF⟩
  | _ => ⟨8, 23, 127, true, some 0x7FC00000, 0x7F7FFFFF⟩

/-- The bits below the sign. -/
def FloatFormat.magBits (f : FloatFormat) : Nat := f.ebits + f.mbits

/-- A pattern from its sign and its magnitude code. -/
def FloatFormat.pack (f : FloatFormat) (neg : Bool) (code : Nat) : Nat :=
  (if neg then 2 ^ f.magBits else 0) + code

/-- The canonical NaN; +0 where the type has none. -/
def FloatFormat.canonicalNaN (f : FloatFormat) : Nat := f.nan.getD 0

/-- The magnitude code of infinity. -/
def FloatFormat.infCode (f : FloatFormat) : Nat := (2 ^ f.ebits - 1) * 2 ^ f.mbits

/-- A floating-point value: a NaN, an infinity, or ± mant · 2 ^ exp. -/
inductive FloatVal where
  | nan (signalling : Bool)
  | inf (neg : Bool)
  | fin (neg : Bool) (mant : Nat) (exp : Int)
  deriving DecidableEq, Repr, Inhabited

/-- The value of a pattern (R34). E4M3 has one NaN magnitude, which is quiet. -/
def FloatFormat.value (f : FloatFormat) (x : Nat) : FloatVal :=
  let neg := x / 2 ^ f.magBits % 2 == 1
  let ex := x / 2 ^ f.mbits % 2 ^ f.ebits
  let man := x % 2 ^ f.mbits
  if f.hasInf && ex == 2 ^ f.ebits - 1 then
    if man == 0 then .inf neg else .nan (decide (man < 2 ^ (f.mbits - 1)))
  else if !f.hasInf && f.nan.isSome && ex == 2 ^ f.ebits - 1 && man == 2 ^ f.mbits - 1 then .nan false
  else if ex == 0 then .fin neg man (1 - (f.bias : Int) - f.mbits)
  else .fin neg (man + 2 ^ f.mbits) ((ex : Int) - f.bias - f.mbits)

/-- Rounding modes (R43). Stochastic rounding carries the element's draw r = state[31:16] (R44). -/
inductive RoundMode where
  | rne | rtz | rdn | rup | rna
  | sr (draw : Nat)
  deriving DecidableEq, Repr, Inhabited

/-- The mode in which arithmetic and reductions round: SR counts as RNE (R44). -/
def RoundMode.arith : RoundMode → RoundMode
  | .sr _ => .rne
  | m => m

/-- Whether the magnitude q + r / d (with r < d) rounds up to q + 1. -/
def roundsUp (mode : RoundMode) (neg : Bool) (q r d : Nat) : Bool :=
  match mode with
  | .rne => decide (d < 2 * r) || (decide (2 * r = d) && q % 2 == 1)
  | .rtz => false
  | .rdn => neg && r != 0
  | .rup => !neg && r != 0
  | .rna => decide (d ≤ 2 * r)
  | .sr draw =>
    if r == 0 then false
    else if neg then !(decide (draw < (d - r) * 65536 / d))
    else decide (draw < r * 65536 / d)

/-- The floor of the binary logarithm of num / den, for num and den above 0. -/
def floorLog2 (num den : Nat) : Int :=
  let k : Int := (num.log2 : Int) - den.log2
  if (if 0 ≤ k then den * 2 ^ k.toNat ≤ num else den ≤ num * 2 ^ (-k).toNat) then k else k - 1

/-- num · 2 ^ sh / den as quotient, remainder and the divisor the remainder stands over. -/
def scaledDiv (num den : Nat) (sh : Int) : Nat × Nat × Nat :=
  if 0 ≤ sh then
    let n := num * 2 ^ sh.toNat
    (n / den, n % den, den)
  else
    let d := den * 2 ^ (-sh).toNat
    (num / d, num % d, d)

/-- An exact value ± num / den · 2 ^ exp, den above 0. -/
structure Exact where
  neg : Bool
  num : Nat
  den : Nat
  exp : Int
  deriving DecidableEq, Repr, Inhabited

/-- The exact value of a signed mantissa and exponent. -/
def Exact.ofInt (m : Int) (e : Int) : Exact := ⟨decide (m < 0), m.natAbs, 1, e⟩

/-- What an overflow gives: the infinity or the largest finite value, by mode and type (R52, R88). -/
def FloatFormat.overflow (f : FloatFormat) (mode : RoundMode) (sat neg : Bool) : Nat × Flags :=
  let toInf := f.hasInf && !sat &&
    (match mode with
     | .rne | .rna | .sr _ => true
     | .rtz => false
     | .rdn => neg
     | .rup => !neg)
  (f.pack neg (if toInf then f.infCode else f.maxCode), flagOF ||| flagNX)

/-- One rounding of an exact value to a type (R35, R44, R52). With `sat`, overflow gives the largest finite value in
every mode (VADDS, VSUBS of R88). Tininess is detected after rounding: a value below the smallest normal is tiny unless
rounding it with an unbounded exponent reaches that normal. -/
def FloatFormat.round (f : FloatFormat) (mode : RoundMode) (sat : Bool) (x : Exact) : Nat × Flags :=
  if x.num == 0 then (f.pack x.neg 0, 0) else
  let log := floorLog2 x.num x.den + x.exp
  let emin : Int := 1 - f.bias
  let ulp := max log emin - f.mbits
  let (q, r, d) := scaledDiv x.num x.den (x.exp - ulp)
  let codeOf (n : Nat) : Nat := ((ulp + f.mbits + f.bias).toNat - 1) * 2 ^ f.mbits + n
  let md := if f.maxCode < codeOf q then (match mode with | .sr _ => RoundMode.rne | m => m) else mode
  let code := codeOf (if roundsUp md x.neg q r d then q + 1 else q)
  if f.maxCode < code then f.overflow md sat x.neg else
  let tiny :=
    if emin ≤ log then false
    else if log < emin - 1 then true
    else
      let (q', r', d') := scaledDiv x.num x.den (x.exp - (log - f.mbits))
      let n' := if roundsUp md x.neg q' r' d' then q' + 1 else q'
      decide (n' < 2 ^ (f.mbits + 1))
  (f.pack x.neg code, if r == 0 then 0 else if tiny then flagNX ||| flagUF else flagNX)

/-- NV if a NaN operand is signalling. -/
def FloatVal.nvIfSignalling : FloatVal → Flags
  | .nan true => flagNV
  | _ => 0

def FloatVal.isNaN : FloatVal → Bool
  | .nan _ => true
  | _ => false

def FloatVal.isZero : FloatVal → Bool
  | .fin _ m _ => m == 0
  | _ => false

def FloatVal.negate : FloatVal → FloatVal
  | .nan s => .nan s
  | .inf n => .inf (!n)
  | .fin n m e => .fin (!n) m e

/-- The mantissa with its sign. -/
def signedMant (neg : Bool) (m : Nat) : Int := if neg then -(m : Int) else m

/-- A term of an exact sum: sign (kept for zeros), magnitude and exponent. -/
structure Term where
  neg  : Bool
  mant : Nat
  exp  : Int
  deriving DecidableEq, Repr, Inhabited

/-- The exact sum of terms as a signed mantissa over the least exponent. -/
def sumTerms (ts : List Term) : Int × Int :=
  let e := ts.foldl (fun a t => min a t.exp) ((ts.headD ⟨false, 0, 0⟩).exp)
  (ts.foldl (fun a t => a + signedMant t.neg t.mant * 2 ^ (t.exp - e).toNat) 0, e)

/-- The exact sum of finite terms rounded once. An exact zero takes the sign all terms share if all are zeros of one
sign, and otherwise is −0 in RDN and +0 in every other mode (IEEE 754, R35). -/
def FloatFormat.roundSum (f : FloatFormat) (mode : RoundMode) (sat : Bool) (ts : List Term) : Nat × Flags :=
  let s := sumTerms ts
  if s.1 == 0 then
    if ts.all (fun t => t.neg && t.mant == 0) then (f.pack true 0, 0)
    else if ts.all (fun t => !t.neg && t.mant == 0) then (f.pack false 0, 0)
    else (f.pack (mode == .rdn) 0, 0)
  else f.round mode sat (Exact.ofInt s.1 s.2)

/-- The result of an invalid operation. -/
def FloatFormat.invalid (f : FloatFormat) : Nat × Flags := (f.canonicalNaN, flagNV)

/-- x + y (R88). -/
def FloatFormat.addVal (f : FloatFormat) (mode : RoundMode) (sat : Bool) (x y : FloatVal) : Nat × Flags :=
  match x, y with
  | .nan a, .nan b => (f.canonicalNaN, if a || b then flagNV else 0)
  | .nan a, _ => (f.canonicalNaN, if a then flagNV else 0)
  | _, .nan b => (f.canonicalNaN, if b then flagNV else 0)
  | .inf a, .inf b => if a == b then (f.pack a f.infCode, 0) else f.invalid
  | .inf a, .fin .. => (f.pack a f.infCode, 0)
  | .fin .., .inf b => (f.pack b f.infCode, 0)
  | .fin a m d, .fin b n e => f.roundSum mode sat [⟨a, m, d⟩, ⟨b, n, e⟩]

def FloatFormat.add (f : FloatFormat) (mode : RoundMode) (x y : Nat) : Nat × Flags :=
  f.addVal mode false (f.value x) (f.value y)

def FloatFormat.sub (f : FloatFormat) (mode : RoundMode) (x y : Nat) : Nat × Flags :=
  f.addVal mode false (f.value x) (f.value y).negate

/-- x · y (R88). -/
def FloatFormat.mulVal (f : FloatFormat) (mode : RoundMode) (x y : FloatVal) : Nat × Flags :=
  match x, y with
  | .nan a, .nan b => (f.canonicalNaN, if a || b then flagNV else 0)
  | .nan a, _ => (f.canonicalNaN, if a then flagNV else 0)
  | _, .nan b => (f.canonicalNaN, if b then flagNV else 0)
  | .inf a, .inf b => (f.pack (a != b) f.infCode, 0)
  | .inf a, .fin b n _ => if n == 0 then f.invalid else (f.pack (a != b) f.infCode, 0)
  | .fin a m _, .inf b => if m == 0 then f.invalid else (f.pack (a != b) f.infCode, 0)
  | .fin a m d, .fin b n e => f.round mode false ⟨a != b, m * n, 1, d + e⟩

def FloatFormat.mul (f : FloatFormat) (mode : RoundMode) (x y : Nat) : Nat × Flags :=
  f.mulVal mode (f.value x) (f.value y)

/-- x / y (R88). -/
def FloatFormat.div (f : FloatFormat) (mode : RoundMode) (x y : Nat) : Nat × Flags :=
  match f.value x, f.value y with
  | .nan a, .nan b => (f.canonicalNaN, if a || b then flagNV else 0)
  | .nan a, _ => (f.canonicalNaN, if a then flagNV else 0)
  | _, .nan b => (f.canonicalNaN, if b then flagNV else 0)
  | .inf _, .inf _ => f.invalid
  | .inf a, .fin b _ _ => (f.pack (a != b) f.infCode, 0)
  | .fin a _ _, .inf b => (f.pack (a != b) 0, 0)
  | .fin a m d, .fin b n e =>
    if n == 0 then if m == 0 then f.invalid else (f.pack (a != b) f.infCode, flagDZ)
    else f.round mode false ⟨a != b, m, n, d - e⟩

/-- The integer square root, by bits from the highest: `fuel` bits remain to be tried. -/
def isqrtFrom : Nat → Nat → Nat → Nat
  | 0, _, s => s
  | k + 1, t, s => isqrtFrom k t (if (s + 2 ^ k) * (s + 2 ^ k) ≤ t then s + 2 ^ k else s)

/-- The floor of the square root. -/
def isqrt (t : Nat) : Nat := isqrtFrom (t.log2 / 2 + 1) t 0

/-- A truncated result with a sticky bit below it: it rounds as the exact value does, if it has more bits than the
format keeps. -/
def sticky (neg : Bool) (q : Nat) (inexact : Bool) (exp : Int) : Exact :=
  ⟨neg, 2 * q + (if inexact then 1 else 0), 1, exp - 1⟩

/-- √x (R88). -/
def FloatFormat.sqrt (f : FloatFormat) (mode : RoundMode) (x : Nat) : Nat × Flags :=
  match f.value x with
  | .nan a => (f.canonicalNaN, if a then flagNV else 0)
  | .inf true => f.invalid
  | .inf false => (f.pack false f.infCode, 0)
  | .fin neg m e =>
    if m == 0 then (f.pack neg 0, 0)
    else if neg then f.invalid
    else
      let k := 2 * (f.mbits + 4) + (e % 2).toNat
      let t := m * 2 ^ k
      let s := isqrt t
      f.round mode false (sticky false s (s * s != t) ((e - k) / 2))

/-- Whether finite or infinite x is below y, −0 counting below +0 (R45, R88). -/
def FloatVal.less (x y : FloatVal) : Bool :=
  match x, y with
  | .nan _, _ => false
  | _, .nan _ => false
  | .inf a, .inf b => a && !b
  | .inf a, .fin .. => a
  | .fin .., .inf b => !b
  | .fin a m d, .fin b n e =>
    let l := sumTerms [⟨a, m, d⟩, ⟨!b, n, e⟩]
    decide (l.1 < 0) || (l.1 == 0 && m == 0 && a && !b)

/-- Whether x and y are equal values, −0 equal to +0; NaNs are never equal (R104). -/
def FloatVal.equal (x y : FloatVal) : Bool :=
  match x, y with
  | .nan _, _ => false
  | _, .nan _ => false
  | .inf a, .inf b => a == b
  | .fin a m d, .fin b n e => (sumTerms [⟨a, m, d⟩, ⟨!b, n, e⟩]).1 == 0
  | _, _ => false

/-- Whether x is below y, −0 equal to +0 (R104). -/
def FloatVal.below (x y : FloatVal) : Bool := x.less y && !x.equal y

/-- VFMIN and VFMAX (R88). -/
def FloatFormat.minMax (f : FloatFormat) (wantMax : Bool) (x y : Nat) : Nat × Flags :=
  let u := f.value x
  let v := f.value y
  let fl := u.nvIfSignalling ||| v.nvIfSignalling
  if u.isNaN && v.isNaN then (f.canonicalNaN, fl)
  else if u.isNaN then (y, fl)
  else if v.isNaN then (x, fl)
  else if u.less v then (if wantMax then y else x, fl)
  else (if wantMax then x else y, fl)

/-- VFABS and VFNEG: the sign bit alone changes; a NaN becomes canonical (R88). -/
def FloatFormat.setSign (f : FloatFormat) (x : Nat) (sign : Bool → Bool) : Nat :=
  if (f.value x).isNaN then f.canonicalNaN
  else f.pack (sign (x / 2 ^ f.magBits % 2 == 1)) (x % 2 ^ f.magBits)

/-- The exact product of two values, for a fused sum: none for 0 · ∞. -/
def mulExact (x y : FloatVal) : Option FloatVal :=
  match x, y with
  | .nan a, .nan b => some (.nan (a || b))
  | .nan a, _ => some (.nan a)
  | _, .nan b => some (.nan b)
  | .inf a, .inf b => some (.inf (a != b))
  | .inf a, .fin b n _ => if n == 0 then none else some (.inf (a != b))
  | .fin a m _, .inf b => if m == 0 then none else some (.inf (a != b))
  | .fin a m d, .fin b n e => some (.fin (a != b) (m * n) (d + e))

/-- The exact sum of products and addends rounded once (R89). `none` stands for a product 0 · ∞. -/
def FloatFormat.fusedSum (f : FloatFormat) (mode : RoundMode) (ts : List (Option FloatVal)) : Nat × Flags :=
  let nv := ts.any (fun t => match t with | none => true | some (.nan true) => true | _ => false)
  let nan := ts.any (fun t => match t with | none => true | some (.nan _) => true | _ => false)
  let pinf := ts.any (fun t => t == some (.inf false))
  let ninf := ts.any (fun t => t == some (.inf true))
  if nan then (f.canonicalNaN, if nv then flagNV else 0)
  else if pinf && ninf then f.invalid
  else if pinf then (f.pack false f.infCode, 0)
  else if ninf then (f.pack true f.infCode, 0)
  else f.roundSum mode false
    (ts.map (fun t => match t with | some (.fin n m e) => ⟨n, m, e⟩ | _ => ⟨false, 0, 0⟩))

/-- a · b + c with one rounding; `negProd` and `negAdd` negate the product and the addend (R89). -/
def FloatFormat.fma (f : FloatFormat) (mode : RoundMode) (negProd negAdd : Bool) (a b c : Nat) : Nat × Flags :=
  let p := (mulExact (f.value a) (f.value b)).map (fun v => if negProd then v.negate else v)
  let v := f.value c
  f.fusedSum mode [p, some (if negAdd then v.negate else v)]

/-! ### Conversions (R52) -/

/-- The generator of R44: its next state. -/
def nextSeed (s : BitVec 32) : BitVec 32 :=
  let a := s ^^^ (s <<< 13)
  let b := a ^^^ (a >>> 17)
  b ^^^ (b <<< 5)

/-- The draw of a generator state: bits 31 to 16. -/
def seedDraw (s : BitVec 32) : Nat := (s >>> 16).toNat

/-- A float to a float type (R52). Infinities saturate where the type has none. -/
def FloatFormat.convert (f : FloatFormat) (mode : RoundMode) (x : FloatVal) : Nat × Flags :=
  match x with
  | .nan s => (f.canonicalNaN, if s || f.nan.isNone then flagNV else 0)
  | .inf n => if f.hasInf then (f.pack n f.infCode, 0) else (f.pack n f.maxCode, flagOF ||| flagNX)
  | .fin n m e => f.round mode false ⟨n, m, 1, e⟩

/-- An exact value rounded once to an integer, and whether that was inexact. -/
def roundToInteger (mode : RoundMode) (x : Exact) : Int × Bool :=
  let (q, r, d) := scaledDiv x.num x.den x.exp
  let n := if roundsUp mode x.neg q r d then q + 1 else q
  (if x.neg then -(n : Int) else n, r != 0)

/-- Under SR, an exact value that lies beyond a bound of an integer type counts as out of range whichever neighbour the
draw selects (R44). -/
def strays (mode : RoundMode) (signed : Bool) (w : Nat) (x : Exact) : Option Int :=
  match mode with
  | .sr _ =>
    if (roundToInteger .rdn x).1 < minInteger signed w then some (minInteger signed w)
    else if maxInteger signed w < (roundToInteger .rup x).1 then some (maxInteger signed w)
    else none
  | _ => none

/-- CVT.FI: a float to an integer type (R44, R52). -/
def floatToInteger (mode : RoundMode) (signed : Bool) (w : Nat) (x : FloatVal) : Nat × Flags :=
  match x with
  | .nan _ => (0, flagNV)
  | .inf n => (lowBits w (if n then minInteger signed w else maxInteger signed w), flagNV)
  | .fin n m e =>
    match strays mode signed w ⟨n, m, 1, e⟩ with
    | some bound => (lowBits w bound, flagNV)
    | none =>
      let (v, inexact) := roundToInteger mode ⟨n, m, 1, e⟩
      let c := clampInteger signed w v
      (lowBits w c.1, if c.2 then flagNV else if inexact then flagNX else 0)

/-- CVT.IF: an integer to a float type (R52). -/
def FloatFormat.ofInteger (f : FloatFormat) (mode : RoundMode) (v : Int) : Nat × Flags :=
  f.round mode false (Exact.ofInt v 0)

/-- Quantise with an SC8 scale to a block-scaled float (R52). -/
def quantiseFloat (f : FloatFormat) (mode : RoundMode) (x : FloatVal) (scale : Nat) : Nat × Flags :=
  if scale == 0xFF then (f.canonicalNaN, flagNV) else
  match x with
  | .nan _ => (f.canonicalNaN, flagNV)
  | .inf n => f.convert mode (.inf n)
  | .fin n m e => f.round mode false ⟨n, m, 1, e - ((scale : Int) - 127)⟩

/-- Quantise with an SC8 scale to I4 or I8 (R52). -/
def quantiseInteger (w : Nat) (mode : RoundMode) (x : FloatVal) (scale : Nat) : Nat × Flags :=
  if scale == 0xFF then (0, flagNV) else
  match x with
  | .nan _ => (0, flagNV)
  | .inf n => (lowBits w (if n then minInteger true w else maxInteger true w), flagNV)
  | .fin n m e =>
    let (v, inexact) := roundToInteger mode ⟨n, m, 1, e - ((scale : Int) - 127)⟩
    let c := clampInteger true w v
    (lowBits w c.1, (if inexact then flagNX else 0) ||| (if c.2 then flagSAT else 0))

/-- An exact fraction as a numerator and a denominator, without an exponent. -/
def Exact.fraction (x : Exact) : Int × Nat :=
  if 0 ≤ x.exp then (signedMant x.neg (x.num * 2 ^ x.exp.toNat), x.den)
  else (signedMant x.neg x.num, x.den * 2 ^ (-x.exp).toNat)

/-- Quantise with a group record (scale `s` as F16, zero point `z`) to QN4 or QN8 (R37, R52): x / s + z, exact, rounded
once to an integer and clamped. -/
def quantiseCode (w : Nat) (mode : RoundMode) (x : FloatVal) (s : Nat) (z : Nat) : Nat × Flags :=
  match (floatFormat .f16).value s with
  | .nan _ => (z, flagNV)
  | .inf _ => (z, flagNV)
  | .fin sn sm se =>
    if sm == 0 then (z, flagNV) else
    match x with
    | .nan _ => (z, flagNV)
    | .inf n => (if n then 0 else 2 ^ w - 1, flagNV)
    | .fin n m e =>
      let (num, den) := Exact.fraction ⟨n != sn, m, sm, e - se⟩
      let v := num + z * den
      let (q, inexact) := roundToInteger mode ⟨decide (v < 0), v.natAbs, den, 0⟩
      let c := clampInteger false w q
      (lowBits w c.1, (if inexact then flagNX else 0) ||| (if c.2 then flagSAT else 0))

/-! ### Special functions (R94)

Each result is the exact function rounded once in RNE. The exact value is irrational wherever it is not one of the
cases decided exactly below, so a fixed-point value with 320 fraction bits and a sticky bit rounds as it does
(notes/assumptions/15). -/

/-- Fraction bits of the fixed-point evaluations. -/
def fxBits : Nat := 320

/-- The sum of 2 ^ fxBits / (k · 2 ^ k) for k from `k` on, `n` terms. -/
def ln2Terms : Nat → Nat → Nat
  | 0, _ => 0
  | n + 1, k => 2 ^ fxBits / (k * 2 ^ k) + ln2Terms n (k + 1)

/-- ln 2 in fixed point. -/
def ln2Fx : Nat := ln2Terms 330 1

/-- The series of e ^ y in fixed point: `t` is the k-th term. -/
def expTerms (y : Nat) : Nat → Nat → Nat → Nat
  | 0, _, _ => 0
  | n + 1, k, t => t + expTerms y n (k + 1) (t * y / 2 ^ fxBits / (k + 1))

/-- e ^ y for y below 1, in fixed point. -/
def expFx (y : Nat) : Nat := expTerms y 80 0 (2 ^ fxBits)

/-- 2 ^ f for a fixed-point f below 1, in fixed point. -/
def exp2Fx (f : Nat) : Nat := expFx (f * ln2Fx / 2 ^ fxBits)

/-- The series of artanh z in fixed point: `t` is z ^ (2k + 1). -/
def artanhTerms (zz : Nat) : Nat → Nat → Nat → Nat
  | 0, _, _ => 0
  | n + 1, k, t => t / (2 * k + 1) + artanhTerms zz n (k + 1) (t * zz / 2 ^ fxBits)

/-- ln m for a fixed-point m from 1 to 2: 2 · artanh ((m - 1) / (m + 1)). -/
def lnFx (m : Nat) : Nat :=
  let z := (m - 2 ^ fxBits) * 2 ^ fxBits / (m + 2 ^ fxBits)
  2 * artanhTerms (z * z / 2 ^ fxBits) 110 0 z

/-- A finite value as a fixed-point integer, rounded down. -/
def toFx (neg : Bool) (m : Nat) (e : Int) : Int :=
  let sh := e + fxBits
  if 0 ≤ sh then signedMant neg m * 2 ^ sh.toNat else signedMant neg m / 2 ^ (-sh).toNat

/-- 2 ^ x for a fixed-point x, with a sticky bit; far exponents are cut at ±8192, beyond every type's range. -/
def exp2Exact (x : Int) : Exact :=
  let i := x / 2 ^ fxBits
  let f := (x % 2 ^ fxBits).toNat
  if 8192 < i then ⟨false, 1, 1, 8192⟩
  else if i < -8192 then ⟨false, 1, 1, -8192⟩
  else if f == 0 then ⟨false, 1, 1, i⟩
  else sticky false (exp2Fx f) true (i - fxBits)

/-- VEXP2. -/
def FloatFormat.exp2 (f : FloatFormat) (x : FloatVal) : Nat × Flags :=
  match x with
  | .nan s => (f.canonicalNaN, if s then flagNV else 0)
  | .inf true => (f.pack false 0, 0)
  | .inf false => (f.pack false f.infCode, 0)
  | .fin n m e => f.round .rne false (exp2Exact (toFx n m e))

/-- VLOG2. -/
def FloatFormat.log2 (f : FloatFormat) (x : FloatVal) : Nat × Flags :=
  match x with
  | .nan s => (f.canonicalNaN, if s then flagNV else 0)
  | .inf true => f.invalid
  | .inf false => (f.pack false f.infCode, 0)
  | .fin n m e =>
    if m == 0 then (f.pack true f.infCode, flagDZ)
    else if n then f.invalid
    else
      let k : Nat := m.log2
      if m == 2 ^ k then f.round .rne false (Exact.ofInt (e + k) 0)
      else
        let frac := lnFx (m * 2 ^ (fxBits - k)) * 2 ^ fxBits / ln2Fx
        let v : Int := (e + k) * 2 ^ fxBits + frac
        f.round .rne false (sticky (decide (v < 0)) v.natAbs true (-(fxBits : Int)))

/-- VRCP. -/
def FloatFormat.rcp (f : FloatFormat) (x : FloatVal) : Nat × Flags :=
  match x with
  | .nan s => (f.canonicalNaN, if s then flagNV else 0)
  | .inf n => (f.pack n 0, 0)
  | .fin n m e => if m == 0 then (f.pack n f.infCode, flagDZ) else f.round .rne false ⟨n, 1, m, -e⟩

/-- VRSQ. -/
def FloatFormat.rsq (f : FloatFormat) (x : FloatVal) : Nat × Flags :=
  match x with
  | .nan s => (f.canonicalNaN, if s then flagNV else 0)
  | .inf true => f.invalid
  | .inf false => (f.pack false 0, 0)
  | .fin n m e =>
    if m == 0 then (f.pack n f.infCode, flagDZ)
    else if n then f.invalid
    else
      -- 1 / √(t · 2 ^ (2j)) with t = m or 2m; N is a power of four, so √(N / t) = √N / √t
      let odd := (e % 2).toNat
      let t := m * 2 ^ odd
      let k := t.log2 + 2 * (f.mbits + 4)
      let big := 2 ^ (2 * k)
      let s := isqrt (big / t)
      f.round .rne false (sticky false s (s * s * t != big) (-(k : Int) - (e - odd) / 2))

/-- VTANH: (e ^ 2x - 1) / (e ^ 2x + 1), the sign apart. Below 2 ^ -40 the result lies just under x, above 2 ^ 7 just
under 1. -/
def FloatFormat.tanh (f : FloatFormat) (x : FloatVal) : Nat × Flags :=
  match x with
  | .nan s => (f.canonicalNaN, if s then flagNV else 0)
  | .inf n => f.round .rne false ⟨n, 1, 1, 0⟩
  | .fin n m e =>
    if m == 0 then (f.pack n 0, 0) else
    let l := (m.log2 : Int) + e
    if l < -40 then f.round .rne false ⟨n, m * 2 ^ 60 - 1, 1, e - 60⟩
    else if 7 ≤ l then f.round .rne false ⟨n, 2 ^ 200 - 1, 1, -200⟩
    else
      let y := ((toFx false m e).toNat * 2) * 2 ^ fxBits / ln2Fx
      let w := exp2Fx (y % 2 ^ fxBits) * 2 ^ (y / 2 ^ fxBits)
      f.round .rne false (sticky n ((w - 2 ^ fxBits) * 2 ^ fxBits / (w + 2 ^ fxBits)) true (-(fxBits : Int)))

/-- The value of a pattern of a float type. -/
def floatVal (t : ElemType) (x : Nat) : FloatVal := (floatFormat t).value x

/-! ### Bit operations on elements (R87, R90, R91, R96) -/

/-- The number of ones among the low `w` bits. -/
def popCount : Nat → Nat → Nat
  | 0, _ => 0
  | w + 1, x => x % 2 + popCount w (x / 2)

/-- Leading zeros of a `w`-bit pattern; w for 0. -/
def leadingZeros (w x : Nat) : Nat := if x == 0 then w else w - 1 - x.log2

/-- Trailing zeros among `w` bits; the number counted so far where a one is met. -/
def trailingZeros : Nat → Nat → Nat
  | 0, _ => 0
  | w + 1, x => if x % 2 == 1 then 0 else 1 + trailingZeros w (x / 2)

/-- The low `w` bits in reverse order. -/
def reverseBits : Nat → Nat → Nat
  | 0, _ => 0
  | w + 1, x => (x % 2) * 2 ^ w + reverseBits w (x / 2)

/-- A `w`-bit pattern rotated left by `k` modulo w. -/
def rotateLeft (w x k : Nat) : Nat :=
  let s := k % w
  (x * 2 ^ s) % 2 ^ w + x / 2 ^ (w - s)

/-- A logical operation by the truth table of LOG3 on `w` bits (R19 rule 9). -/
def truthTable (tt w x y z : Nat) : Nat :=
  let full := 2 ^ w - 1
  let pick (a : Nat) (b : Bool) : Nat := if b then a else full ^^^ a
  (List.range 8).foldl
    (fun acc i =>
      if tt / 2 ^ i % 2 == 1 then acc ||| (pick x (i / 4 % 2 == 1) &&& pick y (i / 2 % 2 == 1) &&& pick z (i % 2 == 1))
      else acc) 0

end Sys2Proof.Machine
end

