-- ==== Sys2Proof/Machine/State.lean ====
section
/-!
DEFINITION. The state of the machine, as plain data, and the state right after reset.

The machine is a package with its harts, memories and shared units. One hart is in focus, `State.hart`; the others wait
in `State.parked`. Words are run for the hart in focus. Which agent moves next is `State.agenda`.
-/

namespace Sys2Proof.Machine

/-! ### Why the machine stops -/

/-- Reasons for a stop that the manual gives no effect for. -/
inductive Fault where
  /-- Raised by a table walk that reads a physical address at which R324 places nothing. Safe: the manual says nothing
  of such a read, and the model stops. -/
  | physicalHole (pa : Nat)
  deriving DecidableEq, Repr

/-- Reasons for refusing an instruction. -/
inductive Refusal where
  /-- Raised by the dispatch for an instruction that has no meaning yet. Safe: nothing can be proved of it. -/
  | notModelled (mnemonic : String)
  deriving DecidableEq, Repr

/-- A synchronous trap: cause, sub-cause and HTVAL (R77). `mark` is the leaf entry whose A mark the failing access's
walk sets before it traps (R223); `report` is the address space and the address of a walk that met a malformed entry
(R224). -/
structure Trap where
  code : BitVec 8
  sub  : BitVec 8 := 0
  val  : Word := 0
  mark : Option Nat := none
  report : Option (Nat × Nat) := none
  deriving DecidableEq, Repr, Inhabited

/-- What ends a word early: a trap the hart takes, a fault of the machine, or a wait: the word stays unretired and
nothing of it has happened. -/
inductive Stop where
  | trap (t : Trap)
  | fault (f : Fault)
  | wait
  deriving DecidableEq, Repr

/-! ### VTYPE (R25) -/

/-- The hypervector models (R25, R150). -/
inductive HvModel where
  | bsc | map | phase
  deriving DecidableEq, Repr, Inhabited

/-- A well-formed VTYPE. -/
structure VType where
  sat   : Bool := false
  maskz : Bool := false
  tail  : Bool := false
  /-- HD, 0 to 10 -/
  hd    : Nat := 0
  hm    : HvModel := .bsc
  /-- BS, 0 to 4 -/
  bs    : Nat := 0
  ts    : BitVec 2 := 0
  lg    : BitVec 2 := 0
  et    : ElemType := .b1
  deriving DecidableEq, Repr, Inhabited

/-! ### Control registers of a hart (R62, R63, R72) -/

/-- HSTAT (R63). -/
structure HStat where
  disc  : Bool := false
  timed : Bool := false
  schk  : Bool := false
  pie   : Bool := false
  phl   : Bool := false
  hl    : Bool := false
  ie    : Bool := false
  deriving DecidableEq, Repr, Inhabited

/-- HCAUSE (R72). -/
structure HCause where
  int  : Bool := false
  vs   : Bool := false
  vrs  : Bool := false
  ta   : Bool := false
  exit : Bool := false
  eng  : Bool := false
  sub  : BitVec 8 := 0
  code : BitVec 8 := 0
  deriving DecidableEq, Repr, Inhabited

/-- The control registers and flags. Registers that are computed from other state (HPART, HCTX, TIME, ALC, LANEMAP,
TREG, TPLAN, EUSED, EQUOTA, EPLAN) have no field here. -/
structure ControlRegs where
  hstat    : HStat := {}
  hcause   : HCause := {}
  hepc     : Word := 0
  htval    : Word := 0
  hqpos    : Word := 0
  htvec    : Word := 0
  hscratch : Word := 0
  hrpc     : Word := 0
  hrsp     : Word := 0
  hfsp     : Word := 0
  /-- CYCLE up to the moment the hart last began to run -/
  cycles   : Nat := 0
  /-- the clock at that moment -/
  since    : Nat := 0
  instret  : Word := 0
  vl       : Nat := 0
  /-- none: VTYPE is ill-formed -/
  vtype    : Option VType := none
  vflags   : Flags := 0
  /-- the flags that the last write of VFLAGS cleared, and the clock of that write (R49) -/
  cleared  : Flags := 0
  clearedAt : Nat := 0
  /-- VFENV, VFEDZ, VFEOF, VFEUF, VFENX, VFESAT, in the order of the flag bits -/
  first    : Vector Word 6 := Vector.replicate 6 ones64
  /-- the minima collected by the parts of an interrupted word that has not retired (R48) -/
  firstPart : Vector Word 6 := Vector.replicate 6 ones64
  seed     : BitVec 32 := 1
  mode     : BitVec 3 := 0
  vprog    : Word := 0
  spdisc   : BitVec 8 := 0
  deriving DecidableEq, Repr, Inhabited

/-! ### The two sides -/

/-- What a WAIT recorded: its address, destination and stall count, and its deadline; none: no timeout (R71). -/
structure WaitRec where
  addr     : Word
  d        : Nat
  s        : BitVec 3
  deadline : Option Nat
  /-- the WAIT is waiting, not stopped -/
  live     : Bool := true
  deriving DecidableEq, Repr, Inhabited

/-- What a BAR word waits for: the other phase of its token, or its acquiring action after it reported LAST or RELEASED
(R145, R147). -/
inductive BarStage where
  | phase | last | released
  deriving DecidableEq, Repr, Inhabited

/-- A BAR word that waits: its destination, its token, its restart mark, whether it has arrived, and its stage (R147). -/
structure BarWait where
  d       : Nat
  tok     : Bool
  p       : Bool
  arrived : Bool := true
  stage   : BarStage := .phase
  /-- the word is BARRIVE, which never reports PENDING -/
  once    : Bool := false
  deriving DecidableEq, Repr, Inhabited

/-- The scalar side. -/
structure ScalarSide where
  g       : Vector Word 32 := Vector.replicate 32 0
  pc      : Word := 0
  /-- the return stack, top first (R60) -/
  rstack  : List Word := []
  /-- records of WAIT at level 0 and at level 1 (R71) -/
  wait0   : Option WaitRec := none
  wait1   : Option WaitRec := none
  barw    : Option BarWait := none
  /-- the cycle from which the side may issue its next word (R29) -/
  readyAt : Nat := 0
  /-- words fetched ahead, with their addresses (R71, FENCEI) -/
  fetched : List (Word × BitVec 32) := []
  deriving DecidableEq, Repr, Inhabited

/-- An entry of the block queue (R56). -/
structure BlockEntry where
  addr : Word
  trip : Word
  arg0 : Word
  arg1 : Word
  arg2 : Word
  arg3 : Word
  seq  : BitVec 32
  deriving DecidableEq, Repr, Inhabited

/-- The running block. -/
structure Block where
  addr : Word
  seq  : BitVec 32
  deriving DecidableEq, Repr, Inhabited

/-- An entry of the pending-fragment buffer (R106). -/
structure Fragment where
  pc      : Word
  k       : BitVec 3
  vlp     : Nat
  u       : VReg
  f       : VReg
  joining : Bool
  deriving DecidableEq, Repr, Inhabited

/-- A progress record of VLOOP (R113). -/
structure LoopRec where
  addr : Word
  last : Int
  n    : Nat
  deriving DecidableEq, Repr, Inhabited

/-- The word whose beats are in the lanes, where it was the last of its side to retire, as its abandonment needs it (R86):
its address, HRPC, HQPOS of the word before, the first-exception registers, their collected minima and FRM.SEED as they
stood before it, and the flags it set. -/
structure LaneWord where
  pc        : Word
  hrpc      : Word
  lastPos   : Word
  first     : Vector Word 6
  firstPart : Vector Word 6
  seed      : BitVec 32
  flags     : Flags
  deriving DecidableEq, Repr, Inhabited

/-- The vector side. -/
structure VectorSide where
  h        : Vector Word 16 := Vector.replicate 16 0
  lc       : Vector Word 4 := Vector.replicate 4 0
  v        : Vector VReg 32 := Vector.replicate 32 0
  m        : Vector VReg 8 := Vector.replicate 8 0
  pc       : Word := 0
  block    : Option Block := none
  blockQ   : List BlockEntry := []
  /-- the block sequence counter (R57) -/
  seq      : BitVec 32 := 0
  /-- the last block dispatched (R69) -/
  lastSeq  : Option (BitVec 32) := none
  replies  : List Word := []
  /-- the pending-fragment buffer, top first (R106) -/
  frags    : List Fragment := []
  /-- VPFB.SPILLED (R111) -/
  spilled  : BitVec 32 := 0
  /-- progress records of VLOOP, most recently used first (R113) -/
  loops    : List LoopRec := []
  barw     : Option BarWait := none
  /-- HQPOS of the last word that retired (R344) -/
  lastPos  : Word := 0
  readyAt  : Nat := 0
  /-- the cycle in which the lanes of the slot are free of the last word's beats (R85) -/
  lanesFree : Nat := 0
  /-- inside a timed region, the word in the lanes (R86) -/
  inLanes  : Option LaneWord := none
  fetched  : List (Word × BitVec 32) := []
  deriving DecidableEq, Repr, Inhabited

/-! ### Streams (R119, R121) -/

/-- A tensor shape record that passed its checks. -/
structure Tsr where
  base    : Nat
  et      : ElemType
  ndim    : Nat
  wrap    : Bool
  noahead : Bool
  ext     : List Nat
  str     : List Int
  deriving DecidableEq, Repr, Inhabited

/-- A translation-cache entry: the leaf as it was read (R225). -/
structure TlbEntry where
  core  : Nat
  asid  : Nat
  /-- first virtual address of the page -/
  base  : Nat
  /-- bits of the page offset: 16, 21 or 30 -/
  bits  : Nat
  /-- location of the leaf entry -/
  at_   : Nat
  leaf  : Word
  /-- A was 0 at the walk that made it (R227) -/
  fresh : Bool := false
  deriving DecidableEq, Repr, Inhabited

/-- A translation that a stream holds ahead of POS: the position it was walked for (R121, R122). -/
structure Ahead where
  pos   : Nat
  entry : TlbEntry
  deriving DecidableEq, Repr, Inhabited

/-- A bound stream register. -/
structure StreamReg where
  tsr   : Tsr
  pos   : Nat
  /-- translations of pages ahead of POS, at most four -/
  ahead : List Ahead := []
  deriving DecidableEq, Repr, Inhabited

/-! ### Timed regions (R30, R187) -/

/-- Registers that a fixed-latency word reads or writes. -/
inductive RegId where
  | g (n : Nat)
  | h (n : Nat)
  | v (n : Nat)
  | m (n : Nat)
  deriving DecidableEq, Repr, Inhabited

/-- A write of a fixed-latency word that completes in cycle `due` (R30). -/
structure PendingWrite where
  reg   : RegId
  value : Nat
  /-- the bits the word writes -/
  mask  : Nat
  due   : Nat
  /-- the cycle in which the word's last beat has left the lanes; 0 for a word without beats (R85, R86) -/
  lanes : Nat := 0
  /-- a younger write of its register has completed before it (R30, R31) -/
  late  : Bool := false
  deriving DecidableEq, Repr, Inhabited

/-! ### Tiles and engine commands (R169 to R193, R245) -/

/-- A scale array attached by TSCL: its address and its block size in elements (R180). -/
structure ScaleRef where
  addr : Nat
  bs   : Nat
  deriving DecidableEq, Repr, Inhabited

/-- A scale record that came with data: the byte location its group starts at, the record and its own location (R39). In
a staged tile `at_` is the element's position. -/
structure ScaleRec where
  at_ : Nat
  addr : Nat
  val : Nat
  fmt : ElemType
  /-- elements in the group -/
  gs  : Nat
  deriving DecidableEq, Repr, Inhabited

/-- A pinned line and the metadata attached to it when it was pinned (R40, R171). -/
structure Pin where
  line : Nat
  recs : List ScaleRec
  deriving DecidableEq, Repr, Inhabited

/-- An operand tile (R170). A staged tile without a type is the empty tile of TZERO. Its scale records stand by
element position in `recs`, at the first element of the group each covers. -/
inductive OpTile where
  | unbound
  | bound (tsr : Tsr) (tsrAt : Word) (pins : List Pin) (scl : Option ScaleRef)
  | staged (et : Option ElemType) (rows cols : Nat) (elems : List Nat) (recs : List ScaleRec) (scl : Option ScaleRef)
  deriving DecidableEq, Repr, Inhabited

/-- Operand columns an MMA has fetched: elements of one column by row, with the scale record of each row's block. -/
structure Column where
  elems : List Nat
  recs  : List (Option Nat)
  deriving DecidableEq, Repr, Inhabited

/-- What an engine command does (R173, R251). -/
inductive CmdKind where
  /-- td, ta, tb, MMAZ, TS, SAT, and the columns fetched so far, first column first -/
  | mma (td ta tb : Nat) (zero : Bool) (ts : BitVec 2) (sat : Bool) (colsA colsB : List Column)
  | tld (tile : Nat)
  | tst (tile : Nat) (dst : Tsr) (ts : BitVec 2)
  | copyMem (src : Tsr) (srcAt : Word) (dst : Tsr)
  | copyTile (src : Tsr) (srcAt : Word) (tile : Nat) (ts : BitVec 2)
  | sigInit (g : Nat)
  | sigAdd (g : Nat) (delta : List Nat)
  | sigMul (g h : Nat)
  | sigLog (g h : Nat)
  | sigLd (g : Nat) (addr : Nat)
  | sigSt (g : Nat) (addr : Nat)
  deriving DecidableEq, Repr, Inhabited

/-- Where a command is in its life. -/
inductive CmdState where
  | waiting
  | running (since : Nat)
  deriving DecidableEq, Repr, Inhabited

/-- An entry of the engine queue. -/
structure EngCmd where
  kind   : CmdKind
  word   : BitVec 32
  /-- HQPOS of the word -/
  qpos   : Word
  /-- its number under R185, if it writes a tile -/
  seq    : Option (BitVec 16)
  /-- the latest producers of the tiles it reads, recorded at issue (R185) -/
  expect : List (Nat × BitVec 16)
  /-- region cycle at which it starts, in a timed region (R189) -/
  start  : Option Nat
  /-- the follow-on of a TCOPY.M, and it waits for the copy before it (R182) -/
  follow : Bool := false
  state  : CmdState := .waiting
  /-- steps completed (R173) -/
  progress : Nat := 0
  flags  : Flags := 0
  /-- (d, N) when it was issued (R246) -/
  cfg    : Nat × Nat := (0, 0)
  /-- the clock at its issue (R286) -/
  since  : Nat := 0
  /-- its engine's arbiter has charged it (R286) -/
  charged : Bool := false
  /-- the copy has variable timing (R181) -/
  varying : Bool := false
  /-- a line it read was poisoned (R80) -/
  tainted : Bool := false
  deriving DecidableEq, Repr, Inhabited

/-- A request of a vector-side word that waits at a shared unit of the core: the arbiter, the word's address, and the clock
since which it waits (R285, R286). -/
structure UnitAsk where
  arb   : Arb
  addr  : Word
  since : Nat
  deriving DecidableEq, Repr, Inhabited

/-- A timed region (R187, R188). -/
structure Region where
  /-- the clock at region cycle 0 -/
  start  : Nat
  len    : Nat
  energy : Nat
  peak   : Nat
  /-- energy charged so far, nJ -/
  used   : Nat := 0
  alc    : Nat
  deriving DecidableEq, Repr, Inhabited

/-- A TBEGIN that waits for its grant (R188): its address and its word, the clock at its first issue, the record it read,
and whether it has passed the test of the quota. -/
structure RegionReq where
  addr   : Word
  since  : Nat
  d      : BitVec 5
  p      : Bool
  s      : BitVec 3
  len    : Nat
  energy : Nat
  peak   : Nat
  admitted : Bool := false
  deriving DecidableEq, Repr, Inhabited

/-- Tiles, engine queue and timed region of a hart. -/
structure TileSide where
  op       : Vector OpTile 8 := Vector.replicate 8 .unbound
  /-- the hart's accumulator tiles, resident in the core's store or held in its save area: an exchange with another hart's
  tile changes no value (R172; who pays for it: `hartPayers`) -/
  acc      : Vector AccTile 8 := Vector.replicate 8 0
  /-- the stamp of each tile; none: lost (R190) -/
  stamp    : Vector (Option (BitVec 16)) 16 := Vector.replicate 16 (some 0)
  /-- the latest producer of each tile (R185) -/
  producer : Vector (BitVec 16) 16 := Vector.replicate 16 0
  /-- poisoned tiles (R80) -/
  poison   : List Nat := []
  /-- operand tiles whose staged storage found no room in the reservation: it lies in the save area (R171) -/
  outside  : List Nat := []
  /-- TPLAN.NEXT (R185) -/
  next     : BitVec 16 := 0
  /-- (d, N) (R246) -/
  cfg      : Nat × Nat := (0, 0)
  queue    : List EngCmd := []
  /-- the record cache, most recently used first (R184) -/
  records  : List (Word × List Byte) := []
  /-- engine faults not yet delivered, in the order found, with the HQPOS that names each inside a region (R344) -/
  faults   : List (Trap × Option Word) := []
  region   : Option Region := none
  request  : Option RegionReq := none
  /-- TREG.LEN and TREG.CYC of the last region, TPLAN.RESV of it -/
  lastLen  : Nat := 0
  lastCyc  : Nat := 0
  lastResv : Nat := 0
  /-- the latency view (R218) -/
  lat      : Nat := 96
  step     : Nat := 8
  deriving DecidableEq, Repr, Inhabited

/-! ### Banks (R208 to R218) -/

/-- An add of a bank word to a window level, which the island performs: address, location, type and addend (R215). -/
structure PendingAdd where
  va     : Nat
  loc    : Nat
  et     : ElemType
  addend : Nat
  deriving DecidableEq, Repr, Inhabited

/-- An element of a bank request that was accepted and has not completed: the location and size of its bytes, what they
held before it and after it, the flags it raised, and, for an add, its type, SAT and its addend (R213, R214). -/
structure BankItem where
  loc    : Nat
  size   : Nat
  before : Nat
  after  : Nat
  flags  : Flags := 0
  add    : Option (ElemType × Bool × Nat) := none
  /-- it is performed after a BEGIN point that its request was accepted before (R238) -/
  late   : Bool := false
  deriving DecidableEq, Repr, Inhabited

/-- A bank request that was accepted and has not completed. -/
structure BankReq where
  items : List BankItem
  deriving DecidableEq, Repr, Inhabited

/-- A BGATH inside a timed region (R217, R218): its address and its fields, the clock at its issue and its due clock, the
length it leaves, the elements it gathered from the first on, and what may make it late: an element of the core's own
column, one elsewhere that has no published bound, HOT seen since its issue, and the clock by which the own column answers
at the worst of its figures since then. -/
structure BgathRec where
  addr    : Word
  d       : BitVec 5
  q       : BitVec 5
  b       : BitVec 5
  m       : BitVec 3
  issued  : Nat
  due     : Nat
  vl      : Nat
  start   : Nat
  elems   : List (Option Nat)
  strips  : Nat
  own     : Bool
  far     : Bool
  hot     : Bool
  bound   : Nat
  /-- an element has had to wait for its access, and nothing is gathered yet (R231) -/
  waits   : Bool := false
  arrived : Bool := false
  deriving DecidableEq, Repr, Inhabited

/-! ### Fabric streams (R310 to R321) -/

/-- PATTERN of a fabric stream record. -/
inductive Pattern where
  | send | recv | reduce | mcast | a2a
  deriving DecidableEq, Repr, Inhabited

/-- The phase of an all-to-all binding (R311). -/
inductive A2aPhase where
  | bound | counted | moving
  deriving DecidableEq, Repr, Inhabited

/-- A bound fabric stream register: the record's fields, copies of its TSRs, and the progress of the binding. -/
structure FabReg where
  at_     : Word
  group   : Nat
  gen     : BitVec 8
  pattern : Pattern
  op      : Nat
  final   : Bool
  all     : Bool
  rank    : Nat
  peer    : BitVec 64
  buf     : Option Tsr
  src     : Option Tsr
  counts  : Nat
  len     : Nat
  et      : ElemType
  root    : Nat
  opw     : BitVec 8
  pos     : Nat := 0
  phase   : A2aPhase := .bound
  /-- elements received and not consumed, as (sending rank, position, bits) -/
  inbox   : List (Nat × Nat × Nat) := []
  /-- counts received for FCOUNT, as (rank, count) -/
  got     : List (Nat × Nat) := []
  /-- SEND, RECV and RDISP as FCOUNT read and wrote them -/
  sendN   : List Nat := []
  recvN   : List Nat := []
  /-- entries of RECV and RDISP that FCOUNT has written (R318) -/
  counted : Nat := 0
  /-- positions whose elements have been sent -/
  sent    : Nat := 0
  /-- elements that arrived, as (sending rank, number) -/
  rcvd    : List (Nat × Nat) := []
  /-- elements of BUF delivered, by position, staged ones not counted -/
  delivered : Nat := 0
  /-- elements of a final result staged at the router (R305), as (position, bits) -/
  staged  : List (Nat × Nat) := []
  /-- deliveries that faulted or wait behind one, as (position, bits) (R318) -/
  stuck   : List (Nat × Nat) := []
  /-- packets captured while the hart is Halted (R321) -/
  captured : List Packet := []
  finished : Bool := false
  aborted  : Bool := false
  deriving DecidableEq, Repr, Inhabited

/-! ### Harts -/

/-- The life of a hart (R54). `halted` keeps what the hart was. -/
inductive Life where
  | free | running | handler | ending
  | haltedRunning | haltedHandler | haltedEnding
  deriving DecidableEq, Repr, Inhabited

/-- A hart: where it sits, whose work it does, and its registers. -/
structure Hart where
  place  : Place := ⟨0, 0, 0⟩
  /-- HPART.SPLIT -/
  split  : BitVec 2 := 0
  /-- a number no other placed unit has or had: it names the hart's lane-private bytes -/
  uid    : Nat := 0
  asid   : Nat := 0
  launch : Word := 0
  unitNo : Nat := 0
  /-- the queue its launch was taken from -/
  queue  : Nat := 0
  /-- ENERGY and DUR of its kernel, which give its admitted draw (R293) -/
  energy : Nat := 0
  dur    : Nat := 0
  life   : Life := .free
  /-- a Halted hart whose save is complete (R274) -/
  saved  : Bool := false
  /-- QUOTA halted it, so that its save and its restore are not debited (R277) -/
  quotaHalt : Bool := false
  sc     : ScalarSide := {}
  ve     : VectorSide := {}
  cs     : ControlRegs := {}
  q      : Vector (Option StreamReg) 16 := Vector.replicate 16 none
  f      : Vector (Option FabReg) 8 := Vector.replicate 8 none
  tl     : TileSide := {}
  bank   : List BankReq := []
  bgath  : Option BgathRec := none
  /-- what its vector side waits for at a shared unit (R286) -/
  ask    : Option UnitAsk := none
  /-- writes under way inside a timed region (R30), in program order -/
  writes : List PendingWrite := []
  /-- registers that an older write completed in after the latest one (R30, R31) -/
  stale  : List RegId := []
  /-- pending asynchronous interrupts as traps (R76) -/
  irqs   : List Trap := []
  /-- the clock at which the first of them became pending (R71) -/
  irqAt  : Nat := 0
  /-- poisoned registers: kind (0 v, 1 m, 2 h, 3 accumulator tile) and number (R81) -/
  poison : List (Nat × Nat) := []
  deriving DecidableEq, Repr, Inhabited

/-! ### Memory -/

/-- Memory: bytes by location, in rising order of location, none equal to what an unlisted location reads as. A
location is a physical address below 2 ^ 48, or a number that names a byte of an on-chip level or of a peer package
(notes/assumptions/6). -/
abbrev Memory := List Host.Cell

/-- What an unlisted location reads as: MEMINIT zero-fills the columns (R331), and a new grant reads as zero (R116);
far memory and memory before MEMINIT: notes/assumptions/5. -/
def unlisted : Byte := 0

/-- A line of a scalar L1: core, line number (location / 128), contents, the dirty mask of its bytes, and the context of
the last store (R129, R205). -/
structure L1Line where
  core  : Nat
  line  : Nat
  data  : Line
  dirty : BitVec 128
  asid  : Nat := 0
  deriving DecidableEq, Repr, Inhabited

/-- A far- or peer-homed line held in a stack's L2 (R12, R129). `vec` gives, by the number of the hart, the bytes that a
hart's vector side has written (R134). -/
structure L2Line where
  stack : Nat
  line  : Nat
  data  : Line
  dirty : BitVec 128
  vec   : List (Nat × BitVec 128) := []
  deriving DecidableEq, Repr, Inhabited

/-- The on-chip levels a launch is granted (R115, R292). -/
inductive Level where
  | core | cluster | stack
  deriving DecidableEq, Repr, Inhabited

/-- A grant of a live launch at one level: the core, cluster or stack it lies in and its size in bytes. -/
structure Grant where
  gid    : Nat
  launch : Word
  asid   : Nat
  level  : Level
  at_    : Nat
  size   : Nat
  deriving DecidableEq, Repr, Inhabited

/-! ### The units of a core (R159, R196 to R202, R215, R216) -/

/-- The states of a bank island (R202). -/
inductive IslandState where
  | on | dusking | gated
  /-- waking, ON at the given clock, with a recorded DUSK or not -/
  | waking (due : Nat) (dusk : Bool)
  deriving DecidableEq, Repr, Inhabited

/-- An accepted entry of the vertical FIFO (R215): the hart that pushed it and its context, the clock at its acceptance,
whether it saturates, the adds to window levels that are still to be made, the flags of those already made, its other adds,
the number of its pairs homed in the column, whether pairs go to other columns or beyond, and, once the island has reached
it, the clock at which it completes. -/
structure FifoEntry where
  uid     : Nat
  asid    : Nat
  since   : Nat
  sat     : Bool
  adds    : List PendingAdd
  flags   : Flags
  items   : List BankItem := []
  pairs   : Nat
  forward : Bool
  done    : Option Nat := none
  deriving DecidableEq, Repr, Inhabited

/-- An entry of the item-store table (R159). -/
structure StoreEntry where
  asid   : Nat
  launch : Word
  gid    : Nat
  /-- offset of the store in its grant, and its extent in bytes -/
  off    : Nat
  len    : Nat
  deriving DecidableEq, Repr, Inhabited

/-- A bind record: its RW fields (R284). -/
structure BindRecord where
  n      : Nat
  valid  : Bool := true
  weight : BitVec 8
  split  : BitVec 2
  queue  : BitVec 12
  deriving DecidableEq, Repr, Inhabited

/-- A key of a walk: distance as an F32 pattern, node, and whether the candidate is live (R258, R260). -/
structure WalkKey where
  dist : Nat
  node : Nat
  live : Bool
  deriving DecidableEq, Repr, Inhabited

/-- A query descriptor (R257). -/
structure QueryDesc where
  graph    : Nat
  nnodes   : Nat
  entry    : Nat
  qvec     : Nat
  dim      : Nat
  et       : ElemType
  metric   : Nat
  travdel  : Bool
  ef       : Nat
  k        : Nat
  maxvisit : Nat
  result   : Nat
  deriving DecidableEq, Repr, Inhabited

/-- State of a query context that is not FREE (R259). -/
inductive QueryState where
  | open_ | running | done
  deriving DecidableEq, Repr, Inhabited

/-- A query context: its owner, its descriptor, and the walk's sets. `pending` holds the neighbours of the node under
expansion that are still to be looked at, with the key they are entered under. -/
structure QueryCtx where
  n        : Nat
  uid      : Nat
  asid     : Nat
  desc     : QueryDesc
  state    : QueryState := .open_
  begun    : Bool := false
  cand     : List WalkKey := []
  best     : List WalkKey := []
  visited  : List Nat := []
  pending  : List (Nat × WalkKey) := []
  x        : Nat := 0
  restarts : Nat := 0
  /-- the parts of lines that the step under way has read, as (address, length, bytes) (R256, R265) -/
  fetched  : List (Nat × Nat × Nat) := []
  /-- Voxind has given the context's place to another; the walk starts again when it goes on (R266) -/
  reclaimed : Bool := false
  /-- the status word of the last ended walk -/
  status   : Word := 0
  deriving DecidableEq, Repr, Inhabited

/-- The units of one core. -/
structure CoreUnit where
  core    : Nat
  /-- LANEMAP.INSVC (R197) -/
  lanemap : BitVec 32 := 0
  /-- ALC.ACTIVE of each slot (R198) -/
  active  : Vector Nat 8 := Vector.replicate 8 0
  /-- the clock at which the next restoration step is due (R199) -/
  restore : Option Nat := none
  island  : IslandState := .on
  fifo    : List FifoEntry := []
  /-- the clock from which the island can take the next entry of the FIFO (R215) -/
  fifoFree : Nat := 0
  /-- the clocks from which the clean-up unit and the fabric port are free for another request (R285) -/
  cleanFree : Nat := 0
  portFree : Nat := 0
  chg     : BitVec 16 := 0
  half    : Bool := false
  hot     : Bool := false
  stores  : List StoreEntry := []
  queries : List QueryCtx := []
  split   : BitVec 2 := 0
  binds   : List BindRecord := []
  deriving DecidableEq, Repr, Inhabited

/-! ### Contexts and snapshots (R234 to R241, R267 to R272) -/

/-- A shadow line: the tracked line, the level and the contents (R238). -/
structure Shadow where
  line  : Nat
  level : Nat
  data  : Line
  deriving DecidableEq, Repr, Inhabited

/-- An open range: its extent, depth, tracked lines as physical intervals of line numbers, and its shadows. `zero` gives
lines of pages that were mapped into the extent while it was open: at the BEGIN points of the levels up to the one named
first their contents count as zero (R236). -/
structure SnapRange where
  base    : Nat
  len     : Nat
  depth   : Nat
  tracked : List (Nat × Nat)
  shadows : List Shadow
  zero    : List (Nat × (Nat × Nat)) := []
  deriving DecidableEq, Repr, Inhabited

/-- A write held under R238: the bytes it brings to a line, the core whose L1 or bank request it comes from, none for a
write of the host or of a peer, and the context it is made for. For an element of a bank request, or an add of a peer, the
hart that made it, none for a peer, and the element, which takes the place of the bytes. -/
structure HeldWrite where
  core  : Option Nat
  asid  : Nat
  line  : Nat
  data  : Line := 0
  dirty : BitVec 128 := 0
  bank  : Option (Option Nat × BankItem) := none
  /-- the leaf entry in which D is set when a write of the host or of a peer is performed (R223) -/
  leafAt : Option Nat := none
  deriving DecidableEq, Repr, Inhabited

/-- An extent of a shadow pool: virtual base, length, and its physical lines (R241). -/
structure PoolExtent where
  base  : Nat
  len   : Nat
  lines : List (Nat × Nat)
  deriving DecidableEq, Repr, Inhabited

/-- The fault record of a context (R272). -/
structure FaultRecord where
  cause  : HCause := {}
  tval   : Word := 0
  epc    : Word := 0
  qpos   : Word := 0
  where_ : BitVec 32 := 0
  count  : BitVec 32 := 0
  launch : Word := 0
  deriving DecidableEq, Repr, Inhabited

/-- STATE of a context (R267). -/
inductive CtxState where
  | free | created | bound | running | halting | saved | resuming
  deriving DecidableEq, Repr, Inhabited

/-- A context that is not FREE. -/
structure Context where
  asid   : Nat
  /-- ID.FN and ID.ISPF: none before a function is bound; some none the PF; some (some n) VF n -/
  fn     : Option (Option Nat) := none
  prio   : BitVec 2 := 0
  root   : Nat := 0
  /-- USED, nJ -/
  used   : Nat := 0
  state  : CtxState := .created
  hcause : BitVec 8 := 0
  fault  : FaultRecord := {}
  /-- the snapshot table; none is FREE -/
  ranges : Vector (Option SnapRange) 16 := Vector.replicate 16 none
  /-- ranges whose lazy restoration is still copying (R240, R243 PEND) -/
  pend   : List Nat := []
  pool   : List PoolExtent := []
  held   : List HeldWrite := []
  /-- a resume kept while the context is HALTING (R269), or RUNNING with halted harts that cannot go on yet
  (notes/assumptions/41) -/
  resume : Bool := false
  /-- PREEMPT requests to be recorded when the context reaches SAVED (R272) -/
  requests : List FaultRecord := []
  deriving DecidableEq, Repr, Inhabited

/-- Who pays for energy that the meters have not yet charged (R205): a context. `exempt` marks a save or restore that a
QUOTA pre-emption causes, which is not debited from the quota (R277). -/
structure Payer where
  asid   : Nat
  exempt : Bool := false
  deriving DecidableEq, Repr, Inhabited

/-! ### Queues, launches and graphs (R278 to R297) -/

/-- A request in a queue's device list: a launch or a graph, by its counter (R299). -/
structure DeviceReq where
  graph   : Bool
  counter : Word
  deriving DecidableEq, Repr, Inhabited

/-- STATE of a queue (R279). -/
inductive QueueState where
  | empty | bound | running | suspended | draining
  deriving DecidableEq, Repr, Inhabited

/-- A queue whose registers differ from their reset, or that holds work. -/
structure Queue where
  n      : Nat
  base   : Word := 0
  log2   : Nat := 4
  tail   : BitVec 32 := 0
  head   : BitVec 32 := 0
  susp   : Bool := false
  drain  : Bool := false
  dtail  : BitVec 32 := 0
  asid   : Nat := 0
  ddone  : Bool := false
  err    : Bool := false
  ovf    : Bool := false
  state  : QueueState := .empty
  device : List DeviceReq := []
  deriving DecidableEq, Repr, Inhabited

/-- A live launch (R289 to R292): the record fields its units need, and how far placement has come. A launch is live
from its start until its counter has FIN or it is cancelled. -/
structure Launch where
  handle   : Word
  asid     : Nat
  queue    : Nat
  /-- the counter of the graph whose node started it, and the node's successors -/
  node     : Option (Word × Nat × Nat) := none
  code     : Word
  handler  : Word
  args     : Word
  spill    : Word
  stack    : Nat
  affinity : Word
  stride   : Nat
  units    : Nat
  energy   : Nat
  dur      : Nat
  spad     : Nat
  csm      : Nat
  chip     : Nat
  split    : BitVec 2
  place    : BitVec 2
  /-- the UP chain of its counter at the start, the nearest first -/
  ups      : List Word
  /-- units placed -/
  placed   : Nat := 0
  /-- the dispatcher has taken it from its queue -/
  taken    : Bool := false
  /-- a ring entry of the queue started it, by itself or through a graph (R283) -/
  ring     : Bool := false
  deriving DecidableEq, Repr, Inhabited

/-- A live graph (R295, R296): tokens stand at nodes, `joins` counts arrivals, `ended` says that a token has reached an END
node. -/
structure Graph where
  counter : Word
  asid    : Nat
  queue   : Nat
  nodes   : Nat
  array   : Word
  ups     : List Word
  tokens  : List Nat
  joins   : List (Nat × Nat) := []
  ended   : Bool := false
  taken   : Bool := false
  /-- a ring entry of the queue started it (R283) -/
  ring    : Bool := false
  deriving DecidableEq, Repr, Inhabited

/-- An arbiter's deficits by queue and its turn order, the queue that holds the turn first (R286). -/
structure Arbiter where
  arb     : Arb
  deficit : List (Nat × Int) := []
  order   : List Nat := []
  deriving DecidableEq, Repr, Inhabited

/-! ### Groups (R300, R301) -/

/-- STATE of a group-table entry (R300). -/
inductive GroupState where
  | free | open_ | active | aborting | aborted | draining
  deriving DecidableEq, Repr, Inhabited

/-- A STATUS byte of a binding's record that has still to be written (R311, R312): the hart it is written for, the
register of the binding, its address and its value. -/
structure StatusWrite where
  uid    : Nat
  asid   : Nat
  launch : Word
  place  : Place
  reg    : Nat
  va     : Nat
  value  : Nat
  /-- the register still holds the binding it is written for -/
  live   : Bool := true
  deriving DecidableEq, Repr, Inhabited

/-- A group-table entry that differs from its reset. -/
structure Group where
  id     : Nat
  gen    : BitVec 8 := 0
  nrank  : Nat := 0
  asid   : Nat := 0
  state  : GroupState := .free
  locals : BitVec 64 := 0
  joined : BitVec 64 := 0
  /-- MAP: the physical address of 64 two-byte package ids, entry r for rank r -/
  mapAt  : Nat := 0
  drops  : BitVec 32 := 0
  /-- packets for ranks that have not joined or have left, and those behind them (R301, R318) -/
  held   : List Packet := []
  deriving DecidableEq, Repr, Inhabited

/-! ### Links, pages under way and the hub (R226, R229, R306 to R309, R325 to R331) -/

/-- STATE of a link (R307). -/
inductive LinkState where
  | down | train | up | degraded | drain
  deriving DecidableEq, Repr, Inhabited

/-- A link. -/
structure Link where
  retry  : BitVec 32 := 0
  trains : BitVec 16 := 0
  lanes  : Nat := 0
  state  : LinkState := .down
  deriving DecidableEq, Repr, Inhabited

/-- The phases of a page move (R230). -/
inductive MovePhase where
  | copy | hold
  deriving DecidableEq, Repr, Inhabited

/-- A page move: the address space, the page, its leaf entry, the frame it leaves, a leaf with the new HOME and FRAME, and
the lines of the old frame that were written after they were copied (R230). -/
structure Migration where
  asid   : Nat
  base   : Nat
  bits   : Nat
  at_    : Nat
  frame  : Nat
  leaf   : Word
  phase  : MovePhase := .copy
  marked : List Nat := []
  deriving DecidableEq, Repr, Inhabited

/-- What decides when a page moves between homes (R229): the location of its leaf entry, the cores that issued its last
L2 misses and bank requests, newest first, and those that issued its L2 misses since the last sweep. -/
structure PageLog where
  at_    : Nat
  recent : List Nat := []
  misses : List Nat := []
  deriving DecidableEq, Repr, Inhabited

/-- A shootdown that has not completed (R226). -/
structure Shootdown where
  asid : Nat
  va   : Nat
  len  : Nat
  deriving DecidableEq, Repr, Inhabited

/-- A page whose valid entry Voxind has changed and not yet shot down: its address space, first address and size, and the
first line of the frame it was mapped to (R226). -/
structure OldPage where
  asid : Nat
  base : Nat
  bits : Nat
  line : Nat
  deriving DecidableEq, Repr, Inhabited

/-- An armed barrier: its record's location, the core, context and scope it is performed for, and whether an entry of the
cluster's barrier table holds it (R142). -/
structure BarrierRef where
  loc   : Nat
  core  : Nat
  asid  : Nat
  scope : Nat
  table : Bool
  deriving DecidableEq, Repr, Inhabited

/-- The states of Dawn (R331). -/
inductive DawnState where
  | rom | voxind | trim | meminit | meter | links | ready
  deriving DecidableEq, Repr, Inhabited

/-- The hub registers (R325) and the host apertures (R343). -/
structure Hub where
  retLanes : BitVec 32 := 0
  fcode    : BitVec 8 := 0
  fail     : Bool := false
  devrdy   : Bool := false
  dawn     : DawnState := .rom
  /-- Dawn has been started since the package was last without power -/
  started  : Bool := false
  ctxBase  : Word := 0
  grpBase  : Word := 0
  eccCnt   : Word := 0
  hapPf    : Word := 0
  /-- HAPCTX of the VFs where it is not 0 -/
  hapVf    : List (Nat × Word) := []
  deriving DecidableEq, Repr, Inhabited

/-! ### Requests from outside the package (R233, R279, R325, R326, R343) -/

/-- What the package last answered a request from outside: bytes read, or the elements of a peer's list with the lowest
index that faulted. -/
inductive Answer where
  | none
  | bytes (l : List Byte)
  | elems (l : List Nat) (fault : Option Nat)
  deriving DecidableEq, Repr, Inhabited

/-- What a peer's list asks of the elements it names (R233): to read them, to write them, or to add to them, in a bank or
not, with SAT. -/
inductive PeerOp where
  | gather
  | scatter
  | add (et : ElemType) (bank sat : Bool)
  deriving DecidableEq, Repr, Inhabited

/-- The windows through which registers are reached (R324, R326): the hub block, by Voxind or as BAR0 of the PF; the
queues of all functions, as BAR2 of the PF; the window of a VF; and the controller block of a stack, by Voxind. -/
inductive Window where
  | hub
  | queues
  | vf (n : Nat)
  | controller (stack : Nat)
  deriving DecidableEq, Repr, Inhabited

/-! ### What moves next -/

/-- The word being run: side, word, restart mark, stall count, and where an element-wise word stops (R86). -/
structure Issue where
  side : Side := .scalar
  word : BitVec 32 := 0
  p    : Bool := false
  s    : BitVec 3 := 0
  cut  : Option Nat := none
  /-- the word has ended in a trap (R76) -/
  trapped : Bool := false
  /-- beats for which it holds the lanes, as its slot's sequencer charges them (R285) -/
  beats : Nat := 1
  deriving DecidableEq, Repr, Inhabited

/-- One move of one agent. -/
inductive Turn where
  /-- a side of a hart issues its next word -/
  | side (at_ : Place) (sd : Side)
  /-- the vector side issues a word that is stopped at element n (R86, R126) -/
  | cut (at_ : Place) (n : Nat)
  /-- a row of the table that has no word -/
  | event (i : Instr)
  /-- a core's L1 writes back and drops a line -/
  | evict (core line : Nat)
  /-- a stack's L2 writes back and drops a far- or peer-homed line -/
  | evictL2 (stack line : Nat)
  /-- a core keeps the translation of a page its harts have used (R225) -/
  | tlbFill (core asid va : Nat)
  /-- a core drops a translation -/
  | tlbDrop (core asid base : Nat)
  /-- a STATUS byte that waited for a page is written (R311) -/
  | statusWrite
  /-- the host or a PF driver reads or writes a register: window, offset, bytes, and the value written (R279, R325, R326) -/
  | busRead (w : Window) (off bytes : Nat)
  | busWrite (w : Window) (off bytes : Nat) (v : Word)
  /-- Voxind reads bytes of device physical memory, its tables included (R267, R300) -/
  | voxindRead (pa n : Nat)
  /-- an access of a core to an address misses the L2 (R229) -/
  | l2Miss (core asid va : Nat)
  /-- a peer package's list of addresses with their data arrives, for elements of `w` bits (R233) -/
  | peerList (asid : Nat) (op : PeerOp) (w : Nat) (elems : List (Nat × Nat))
  /-- a peer package's access within one line arrives: bytes it writes, or how many it reads (R233) -/
  | peerLine (asid va : Nat) (bytes : List Byte) (n : Nat)
  /-- the leaving of a rank of another package reaches this one (R301) -/
  | leaveNotice (id gen rank : Nat)
  /-- a side fetches a word ahead -/
  | fetchAhead (at_ : Place) (sd : Side)
  /-- an uncorrectable error in a line (R80) -/
  | lineError (line : Nat)
  /-- an uncorrectable error in register-die state of a hart: kind and number (R80, R81) -/
  | registerError (at_ : Place) (kind n : Nat)
  /-- a corrected error (R332) -/
  | corrected
  /-- one cycle passes -/
  | tick
  deriving DecidableEq, Repr, Inhabited

/-- The products (R1). -/
inductive Product where
  | stack9401 | package9404 | module9404M
  deriving DecidableEq, Repr, Inhabited

/-- The machine. -/
structure State where
  product : Product := .package9404
  /-- the hart in focus -/
  hart    : Hart := {}
  /-- the other harts that are not Free -/
  parked  : List Hart := []
  /-- what the positions of harts that are Free hold since their last unit ended (R55, R322) -/
  ended   : List Hart := []
  mem     : Memory := []
  l1      : List L1Line := []
  l2      : List L2Line := []
  tlb     : List TlbEntry := []
  /-- poisoned lines, by line number (R80) -/
  poison  : List Nat := []
  /-- lines behind removed CXL ports, as intervals (first line, count), and those of them written whole since (R80, R329) -/
  lost    : List (Nat × Nat) := []
  mended  : List Nat := []
  grants  : List Grant := []
  /-- cores whose units differ from their state at reset -/
  cores   : List CoreUnit := []
  /-- current budget of each cluster in the Noon table, mW (R201) -/
  noon    : Vector Nat 32 := Vector.replicate 32 0
  /-- EQUOTA.LEFT of each VF that has been enabled, in nJ (R206) -/
  quota   : List (Nat × Int) := []
  /-- VFs whose quota has been used up and whose QUOTA is still to be recorded (R207, R272) -/
  spent   : List Nat := []
  /-- the house account of the PF, nJ (R204, R205) -/
  house   : Nat := 0
  /-- the clock at which the interval of the meters ends; none before Dawn has calibrated them (R204) -/
  meter   : Option Nat := none
  /-- those who have done metered work in this interval and may be gone at its end (R205) -/
  unpaid  : List Payer := []
  contexts : List Context := []
  /-- the records of destroyed contexts, as they were left (R267) -/
  freed   : List Context := []
  /-- contexts whose creation was refused, as Voxind reported them to the host (R267) -/
  refusals : List Nat := []
  queues  : List Queue := []
  launches : List Launch := []
  graphs  : List Graph := []
  arbiters : List Arbiter := []
  groups  : List Group := []
  /-- STATUS bytes that wait for a page move -/
  owed    : List StatusWrite := []
  /-- packets between ranks of this package that have not arrived -/
  transit : List Packet := []
  links   : Vector Link 24 := Vector.replicate 24 {}
  /-- route sets: package and links (R308) -/
  routes  : List (Nat × List Nat) := []
  hub     : Hub := {}
  answer  : Answer := .none
  /-- MSI-X vectors raised, by function and number (R326) -/
  msix    : List (Option Nat × Nat) := []
  /-- VFs that are enabled -/
  vfs     : List Nat := []
  moves   : List Migration := []
  shoots  : List Shootdown := []
  olds    : List OldPage := []
  /-- walks reported to Voxind as malformed, as (ASID, address) (R224) -/
  reports : List (Nat × Nat) := []
  /-- the last sweep of each leaf entry, by the entry's location, and the number of sweeps so far (R228) -/
  swept   : List (Nat × Nat) := []
  sweeps  : Nat := 0
  /-- bank adds skipped for poison, counted for Voxind (R214) -/
  skipped : Nat := 0
  pageLogs : List PageLog := []
  /-- stacks that are demoting pages (R229) -/
  demoting : List Nat := []
  /-- armed barriers that BAR words have been performed on (R142, R143) -/
  barriers : List BarrierRef := []
  /-- format-range registers: stack, number, and its four words (R38) -/
  formats : List (Nat × Nat × Vector Word 4) := []
  clock   : Nat := 0
  /-- the clock when TIME was last 0 (R331) -/
  timeZero : Nat := 0
  draws   : Nat := 0
  /-- the next number for a unit or a grant -/
  nextId  : Nat := 1
  agenda  : List Turn := []
  issue   : Issue := {}
  deriving DecidableEq, Repr, Inhabited

/-- The machine right after reset: no unit placed, no context, memory with nothing listed. -/
def State.reset : State := {}

end Sys2Proof.Machine
end

