-- ==== Sys2Proof/Machine/Mem.lean ====
section
/-!
DEFINITION. Bytes, lines and the copies of a line: memory in canonical form, the scalar L1s, the L2 copies of far and
peer lines, snapshot shadows and the places where accesses are performed (R117, R118, R129, R236 to R241).
-/

namespace Sys2Proof.Machine

/-! ### Free values -/

/-- The next free value, and the counter advanced. -/
def State.draw (s : State) : Nat × State := (Config.freeBits s.draws, { s with draws := s.draws + 1 })

/-- The next free choice. -/
def State.choose (s : State) : Bool × State := (Config.freeBool s.draws, { s with draws := s.draws + 1 })

/-! ### Memory as a canonical list -/

/-- The byte at a location. -/
def memByte : Memory → Nat → Byte
  | [], _ => unlisted
  | (k, b) :: m, a => if a < k then unlisted else if a = k then b else memByte m a

/-- Memory with one byte changed. -/
def memSet : Memory → Nat → Byte → Memory
  | [], a, x => if x = unlisted then [] else [(a, x)]
  | (k, b) :: m, a, x =>
    if a < k then (if x = unlisted then (k, b) :: m else (a, x) :: (k, b) :: m)
    else if a = k then (if x = unlisted then m else (a, x) :: m)
    else (k, b) :: memSet m a x

/-- Locations rise from `n` on and no entry is what an unlisted location reads as. -/
def risingFrom : Nat → Memory → Bool
  | _, [] => true
  | n, (k, b) :: m => decide (n ≤ k) && b != unlisted && risingFrom (k + 1) m

/-- The canonical form of memory. -/
def Memory.wf (m : Memory) : Bool := risingFrom 0 m

/-- `n` bytes from location `a`, the lowest first in value (R3). -/
def memRead (m : Memory) (a : Nat) : Nat → Nat
  | 0 => 0
  | n + 1 => memRead m a n + (memByte m (a + n)).toNat * 256 ^ n

/-- Memory with `n` bytes from `a` on replaced by those of `v`. -/
def memWrite (m : Memory) (a : Nat) : Nat → Nat → Memory
  | 0, _ => m
  | n + 1, v => memSet (memWrite m a n v) (a + n) (BitVec.ofNat 8 (v / 256 ^ n))

/-! ### Lines (R13) -/

/-- The line a location lies in. -/
def lineOf (a : Nat) : Nat := a / 128

/-- A mask of the bytes `off` to `off + n - 1`. -/
def byteMask (off n : Nat) : BitVec 128 := BitVec.ofNat 128 ((2 ^ n - 1) * 2 ^ off)

/-- The bits a byte mask covers. -/
def bitsOfMask (mask : BitVec 128) : Line :=
  (List.range 128).foldl (fun acc i => if mask.getLsbD i then acc ||| BitVec.ofNat 1024 (255 * 2 ^ (8 * i)) else acc) 0

/-- A line with the masked bytes taken from another. -/
def mergeLine (old new : Line) (mask : BitVec 128) : Line :=
  let b := bitsOfMask mask
  (old &&& ~~~b) ||| (new &&& b)

/-- `n` bytes of a line from byte `off` on. -/
def lineBytes (l : Line) (off n : Nat) : Nat := l.toNat / 256 ^ off % 256 ^ n

/-- A line of memory. -/
def memLine (m : Memory) (line : Nat) : Line := BitVec.ofNat 1024 (memRead m (128 * line) 128)

/-- Memory with the masked bytes of a line replaced. -/
def memPutLine (m : Memory) (line : Nat) (data : Line) (mask : BitVec 128) : Memory :=
  (List.range 128).foldl
    (fun acc i => if mask.getLsbD i then memSet acc (128 * line + i) (data.extractLsb' (8 * i) 8) else acc) m

/-! ### What a location is (R115, R324; notes/assumptions/6) -/

/-- Bytes of one column (R12, R324). -/
def columnBytes : Nat := 0x48000000

/-- Cores of the product (R8, R324). -/
def Product.cores : Product → Nat
  | .stack9401 => 64
  | _ => 256

/-- The product has a hub with far memory and fabric (R8, R324). -/
def Product.hasHub : Product → Bool
  | .stack9401 => false
  | _ => true

/-- First location of CXL far memory, and its end (R324). -/
def farBase : Nat := 0x100000000000
def farEnd : Nat := 0x140000000000

/-- Location of byte `off` of grant `gid`. -/
def windowLoc (gid off : Nat) : Nat := 2 ^ 60 + gid * 2 ^ 27 + off
/-- Location of byte `off` of the lane-private range of the unit numbered `uid`. -/
def privateLoc (uid off : Nat) : Nat := 2 ^ 100 + uid * 2 ^ 18 + off
/-- Location of virtual address `va` on peer package `pkg`. -/
def peerLoc (pkg va : Nat) : Nat := 2 ^ 110 + pkg * 2 ^ 56 + va

def isPeerLoc (a : Nat) : Bool := decide (2 ^ 110 ≤ a)
def isWindowLoc (a : Nat) : Bool := decide (2 ^ 60 ≤ a ∧ a < 2 ^ 110)
def isFarLoc (a : Nat) : Bool := decide (farBase ≤ a ∧ a < farEnd)
/-- The column a location lies in, as a core number. -/
def columnOf (p : Product) (a : Nat) : Option Nat :=
  if a < p.cores * columnBytes then some (a / columnBytes) else none

/-- A physical address at which R324 places memory. Every CXL port has a device of 1 TiB (notes/assumptions/100). -/
def physExists (p : Product) (a : Nat) : Bool :=
  decide (a < p.cores * columnBytes) || (p.hasHub && isFarLoc a)

/-- Lines that a stack's L2 holds a copy of: far- and peer-homed ones (R12, R129). -/
def isCopied (a : Nat) : Bool := isFarLoc a || isPeerLoc a

/-! ### Contexts and cores by number -/

def State.ctx? (s : State) (asid : Nat) : Option Context := s.contexts.find? (·.asid == asid)

/-- The context of an ASID with a change; no context, no change. -/
def State.mapCtx (s : State) (asid : Nat) (f : Context → Context) : State :=
  { s with contexts := s.contexts.map (fun c => if c.asid == asid then f c else c) }

/-- The units of a core. -/
def State.core (s : State) (n : Nat) : CoreUnit := (s.cores.find? (·.core == n)).getD { core := n }

/-- The units of a core with a change. -/
def State.mapCore (s : State) (n : Nat) (f : CoreUnit → CoreUnit) : State :=
  { s with cores := f (s.core n) :: s.cores.filter (·.core != n) }

/-! ### Shadow pools and snapshots (R236 to R241) -/

/-- Whether a line lies in one of the intervals (first line, count). -/
def inLines (l : List (Nat × Nat)) (line : Nat) : Bool := l.any (fun x => decide (x.1 ≤ line ∧ line < x.1 + x.2))

/-- A line is poisoned: an error struck it, or it lies behind a removed port and has not been written whole since (R80,
R329). -/
def State.poisoned (s : State) (line : Nat) : Bool :=
  s.poison.contains line || (inLines s.lost line && !s.mended.contains line)

/-- Free lines of a context's pool: its lines less the shadows held (R238). -/
def Context.freeLines (c : Context) : Nat :=
  (c.pool.foldl (fun n e => n + e.len / 128) 0) -
    (c.ranges.toList.foldl (fun n r => n + (match r with | some x => x.shadows.length | none => 0)) 0)

/-- Moves of pages that hold lines which something comes to hold in place are abandoned (R229, R230). -/
def State.barMoves (s : State) (lines : List (Nat × Nat)) : State :=
  if s.moves.isEmpty then s else
  { s with moves := s.moves.filter (fun m => lines.all (fun x =>
      !decide (x.1 < m.frame / 128 + 2 ^ m.bits / 128 ∧ m.frame / 128 < x.1 + x.2))) }

/-- The context and range that track a line. -/
def State.tracker (s : State) (line : Nat) : Option (Nat × Nat) :=
  s.contexts.findSome? (fun c =>
    (List.range 16).findSome? (fun r =>
      match c.ranges.toList.getD r none with
      | some x => if inLines x.tracked line then some (c.asid, r) else none
      | none => none))

/-- The pool extent a line lies in: its context and the virtual address of the line. -/
def State.poolOf (s : State) (line : Nat) : Option (Nat × Nat) :=
  s.contexts.findSome? (fun c =>
    c.pool.findSome? (fun e =>
      (e.lines.foldl
        (fun (acc : Nat × Option Nat) x =>
          (acc.1 + x.2,
            if x.1 ≤ line ∧ line < x.1 + x.2 then some (acc.1 + (line - x.1)) else acc.2)) (0, none)).2.map
        (fun k => (c.asid, e.base + 128 * k))))

/-- Whether a byte of `n` from `a` on belongs to a sealed store (R159). -/
def State.isSealed (s : State) (a n : Nat) : Bool :=
  s.cores.any (fun c => c.stores.any (fun e =>
    decide (windowLoc e.gid e.off < a + n ∧ a < windowLoc e.gid (e.off + e.len))))

/-- The contents of a line at the point where a stack's vector accesses are performed (R129). -/
def State.pointLine (s : State) (stack line : Nat) : Line :=
  match (if isCopied (128 * line) then s.l2.find? (fun x => x.stack == stack && x.line == line) else none) with
  | some x => x.data
  | none => memLine s.mem line

/-- `n` bytes of a window level written at the array. A store that writes a byte of a barrier's record releases the
barrier's table entry (R142). -/
def State.arrayWrite (s : State) (a n v : Nat) : State :=
  { s with mem := memWrite s.mem a n v,
           barriers := s.barriers.map (fun r =>
             if r.loc < a + n ∧ a < r.loc + 32 then { r with table := false } else r) }

/-- A line of a page under way is marked when it is written, to be copied again (R230). -/
def Migration.note (m : Migration) (line : Nat) : Migration :=
  if decide (lineOf m.frame ≤ line ∧ line < lineOf m.frame + 2 ^ m.bits / 128) && !m.marked.contains line then
    { m with marked := line :: m.marked }
  else m

/-- Memory written at a line's home. -/
def State.store (s : State) (line : Nat) (m : Memory) : State := { s with mem := m, moves := s.moves.map (·.note line) }

/-- Masked bytes of a line written at that point. Bytes that a vector side wrote there before stay its to publish: what
reaches the home is then its value or a newer one (R134). -/
def State.putLine (s : State) (stack line : Nat) (data : Line) (mask : BitVec 128) : State :=
  if isCopied (128 * line) then
    let old := s.pointLine stack line
    let copy := s.l2.find? (fun x => x.stack == stack && x.line == line)
    let dirty := (copy.map (·.dirty)).getD 0
    { s with l2 := ⟨stack, line, mergeLine old data mask, dirty ||| mask, (copy.map (·.vec)).getD []⟩ ::
                     s.l2.filter (fun x => !(x.stack == stack && x.line == line)) }
  else s.store line (memPutLine s.mem line data mask)

/-- Bytes of a stack's copy of a line that a hart's vector side has just written (R134). -/
def State.noteWriter (s : State) (stack line : Nat) (who : Option Nat) (mask : BitVec 128) : State :=
  match who with
  | none => s
  | some u =>
    if isCopied (128 * line) then
      { s with l2 := s.l2.map (fun x =>
          if x.stack == stack && x.line == line then
            { x with vec := (u, mask ||| ((x.vec.find? (·.1 == u)).map (·.2)).getD 0) :: x.vec.filter (·.1 != u) }
          else x) }
    else s

/-- What stands in the way of a write at the home of a line. -/
inductive WriteStop where
  /-- the line is tracked, needs a shadow and the pool has no free line (R238) -/
  | shadow (asid : Nat)
  /-- the line is in a shadow pool (R241), or the bytes belong to a sealed store (R159) -/
  | protect (owner : Option (Nat × Nat))
  deriving DecidableEq, Repr

/-- The contents of a line at the BEGIN point of a level, where it has held `d` since the page was mapped or the level
opened (R236). -/
def SnapRange.atBegin (x : SnapRange) (level line : Nat) (d : Line) : Line :=
  if x.zero.any (fun z => decide (level ≤ z.1) && decide (z.2.1 ≤ line ∧ line < z.2.1 + z.2.2)) then 0 else d

/-- The checks of a write of `n` bytes at `a`, and the shadow taken first if one is due (R159, R238, R241). -/
def State.guardWrite (s : State) (stack a n : Nat) : Except WriteStop State :=
  let line := lineOf a
  if s.isSealed a n then .error (.protect none)
  else match s.poolOf line with
  | some o => .error (.protect (some o))
  | none =>
    match s.tracker line with
    | none => .ok s
    | some (asid, r) =>
      match s.ctx? asid with
      | none => .ok s
      | some c =>
        match c.ranges.toList.getD r none with
        | none => .ok s
        | some x =>
          if x.shadows.any (fun y => y.line == line && y.level == x.depth) then .ok s
          else if c.freeLines == 0 then .error (.shadow asid)
          else
            let y : SnapRange := { x with shadows := ⟨line, x.depth, x.atBegin x.depth line (s.pointLine stack line)⟩ :: x.shadows }
            .ok (s.mapCtx asid (fun c => { c with ranges := c.ranges.set! r (some y) }))

/-- A line that is written whole loses its poison (R80). -/
def State.clearPoison (s : State) (line : Nat) (mask : BitVec 128) : State :=
  if mask = BitVec.allOnes 128 then
    { s with poison := s.poison.filter (· != line),
             mended := if inLines s.lost line && !s.mended.contains line then line :: s.mended else s.mended }
  else s

/-! ### The scalar L1s (R117, R129) -/

def State.l1Line? (s : State) (core line : Nat) : Option L1Line :=
  s.l1.find? (fun x => x.core == core && x.line == line)

/-- The L1 with a line put in, or replaced. -/
def State.l1Put (s : State) (x : L1Line) : State :=
  { s with l1 := x :: s.l1.filter (fun y => !(y.core == x.core && y.line == x.line)) }

/-- The dirty bytes of an L1 line written to the point below it. A write to a tracked line without a free pool line is
held (R238); one to a pool extent is discarded (R241). -/
def State.writeBack (s : State) (x : L1Line) : State :=
  if x.dirty = 0 then s else
  let stack := x.core / 64
  match s.guardWrite stack (128 * x.line) 128 with
  | .ok s => s.putLine stack x.line x.data x.dirty
  | .error (.shadow asid) => s.mapCtx asid (fun c => { c with held := c.held ++
      [{ core := some x.core, asid := x.asid, line := x.line, data := x.data, dirty := x.dirty }] })
  | .error (.protect _) => s

/-- Write back and drop every L1 line that satisfies a test. -/
def State.l1Flush (s : State) (p : L1Line → Bool) : State :=
  let hit := s.l1.filter p
  hit.foldl (fun s x => s.writeBack x) { s with l1 := s.l1.filter (fun x => !p x) }

/-- Write back the dirty bytes of every L1 line that satisfies a test, and keep the lines. -/
def State.l1Clean (s : State) (p : L1Line → Bool) : State :=
  let hit := s.l1.filter p
  hit.foldl (fun s x => s.writeBack x)
    { s with l1 := s.l1.map (fun x => if p x then { x with dirty := 0 } else x) }

/-- The duplicate tags: before a vector access to a line, every L1 copy below the same point is written back and
invalidated (R117). -/
def State.snoop (s : State) (stack line : Nat) : State :=
  s.l1Flush (fun x => x.line == line && (!isCopied (128 * line) || x.core / 64 == stack))

/-- A line with the bytes over it that a core's L1 has written back and that are held (R238). -/
def State.withHeld (s : State) (core line : Nat) (d : Line) : Line :=
  s.contexts.foldl (fun d c => c.held.foldl (fun d w =>
    if w.core == some core && w.line == line && w.bank.isNone then mergeLine d w.data w.dirty else d) d) d

/-- A line brought into a core's L1, and the L1 copy. The core sees its own writes that are held (R134, R238). -/
def State.l1Fill (s : State) (core line : Nat) : L1Line × State :=
  match s.l1Line? core line with
  | some x => (x, s)
  | none =>
    let x : L1Line := ⟨core, line, s.withHeld core line (s.pointLine (core / 64) line), 0, 0⟩
    let s := if isCopied (128 * line) then s.putLine (core / 64) line 0 0 else s
    (x, s.l1Put x)

/-- A far or peer line of a stack's L2 written back to its home and dropped (R130). -/
def State.l2Flush (s : State) (p : L2Line → Bool) : State :=
  let hit := s.l2.filter p
  hit.foldl (fun s x => s.store x.line (memPutLine s.mem x.line x.data x.dirty)) { s with l2 := s.l2.filter (fun x => !p x) }

/-! ### Accesses at the vector point (R117, R129) -/

/-- `n` bytes read at a stack's point; the bytes lie in one line. A line of a shadow pool reads as a free value (R241). -/
def State.homeRead (s : State) (stack a n : Nat) : Nat × State :=
  let line := lineOf a
  if isWindowLoc a then (memRead s.mem a n, s)
  else
    let s := s.snoop stack line
    if (s.poolOf line).isSome then
      let (v, s) := s.draw
      (v % 256 ^ n, s)
    else
      let d := s.pointLine stack line
      (lineBytes d (a % 128) n, if isCopied a then s.putLine stack line 0 0 else s)

/-- `n` bytes written at a stack's point, for the vector side of a hart or for another agent; the bytes lie in one
line. -/
def State.homeWrite (s : State) (who : Option Nat) (stack a n v : Nat) : Except WriteStop State :=
  let line := lineOf a
  if isWindowLoc a then
    if s.isSealed a n then .error (.protect none) else .ok (s.arrayWrite a n v)
  else
    match (s.snoop stack line).guardWrite stack a n with
    | .error e => .error e
    | .ok s =>
      let mask := byteMask (a % 128) n
      .ok (((s.putLine stack line (BitVec.ofNat 1024 (v * 256 ^ (a % 128))) mask).noteWriter stack line who mask).clearPoison
        line mask)


/-! ### Accesses performed at the home (R129, R233)

The elements of an indexed access or a bank word in a peer's page are performed at the peer's home L2, and the hub's and
other packages' accesses at the home here: no stack keeps a copy of the line for them. -/

/-- A number for the hub where a core's is asked for: it has no L1, no translation cache and no stack. -/
def hubCore : Nat := 1024

/-- The number that stands for the hub's stack. -/
def hubStack : Nat := hubCore / 64

/-- The copy that a stack, or the hub, has of a line is home again. -/
def State.l2Home (s : State) (stack line : Nat) : State := s.l2Flush (fun x => x.stack == stack && x.line == line)

/-- A read at the home. -/
def State.homeReadAt (s : State) (stack a n : Nat) : Nat × State :=
  let (v, s) := (s.l2Home stack (lineOf a)).homeRead stack a n
  (v, s.l2Home stack (lineOf a))

/-- A write at the home. -/
def State.homeWriteAt (s : State) (who : Option Nat) (stack a n v : Nat) : Except WriteStop State :=
  ((s.l2Home stack (lineOf a)).homeWrite who stack a n v).map (fun s => s.l2Home stack (lineOf a))

/-- A read of an element by an indexed or bank access of a stack, or by another package through the hub. -/
def State.elemRead (s : State) (stack a n : Nat) : Nat × State :=
  if isPeerLoc a || stack == hubStack then s.homeReadAt stack a n else s.homeRead stack a n

/-- A write of an element. -/
def State.elemWrite (s : State) (who : Option Nat) (stack a n v : Nat) : Except WriteStop State :=
  if isPeerLoc a || stack == hubStack then s.homeWriteAt who stack a n v else s.homeWrite who stack a n v

/-- The dirty bytes of a line that a hart's vector side wrote. -/
def L2Line.own (x : L2Line) (uid : Nat) : BitVec 128 := x.dirty &&& ((x.vec.find? (·.1 == uid)).map (·.2)).getD 0

/-- The dirty bytes that a hart's vector side wrote to lines of a stack's L2, written to their homes (R134). -/
def State.l2Publish (s : State) (uid : Nat) (p : L2Line → Bool) : State :=
  let hit := s.l2.filter p
  hit.foldl (fun s x => s.store x.line (memPutLine s.mem x.line x.data (x.own uid)))
    { s with l2 := s.l2.map (fun x => if p x then { x with dirty := x.dirty &&& ~~~(x.own uid) } else x) }

/-- A write that a core's L1 sent to one of these lines is held for want of a shadow (R238). -/
def State.holdsWrite (s : State) (core : Nat) (p : Nat → Bool) : Bool :=
  s.contexts.any (fun c => c.held.any (fun w => w.core == some core && p w.line))

/-- The dirty bytes of far or peer lines of a stack's L2 written to their homes, the copies kept (R130). -/
def State.l2Clean (s : State) (p : L2Line → Bool) : State :=
  let hit := s.l2.filter p
  hit.foldl (fun s x => s.store x.line (memPutLine s.mem x.line x.data x.dirty))
    { s with l2 := s.l2.map (fun x => if p x then { x with dirty := 0 } else x) }

end Sys2Proof.Machine
end

