-- ==== Sys2Proof/Machine/Translate.lean ====
section
/-!
DEFINITION. Virtual addresses: the windows of a hart's view and the four-level table (R115, R116, R222 to R227, R233).
-/

namespace Sys2Proof

namespace Machine

/-- Read, write and fetch, in the order of their sub-causes (R77). -/
inductive AccessKind where
  | read | write | fetch
  deriving DecidableEq, Repr, Inhabited

/-- What a peer package answers an access to a page it homes, which it translates through its own table (R233). -/
inductive PeerAnswer where
  | performed | xlate | protect | poisoned
  deriving DecidableEq, Repr, Inhabited

end Machine

/-- The answer of a peer package to an access at an address (notes/assumptions/105). -/
opaque Config.peerAnswer : Machine.State → Nat → Nat → Machine.AccessKind → Machine.PeerAnswer

namespace Machine

/-! ### Kinds of access -/

/-- SUB of XLATE and PROTECT. -/
def AccessKind.sub : AccessKind → BitVec 8
  | .read => 0
  | .write => 1
  | .fetch => 2

/-- How an access moves the UO and GH marks (R227). -/
inductive MarkKind where
  /-- VLD or VST on a stream with STR0 = 1 -/
  | unit
  /-- indexed and bank accesses -/
  | gather
  | other
  deriving DecidableEq, Repr, Inhabited

/-- Cause codes (R77). -/
def causeIllegal : BitVec 8 := 0x01
def causeIllside : BitVec 8 := 0x02
def causeIlltype : BitVec 8 := 0x03
def causeBreak : BitVec 8 := 0x04
def causeSwtrap : BitVec 8 := 0x05
def causePriv : BitVec 8 := 0x06
def causeMisalign : BitVec 8 := 0x07
def causeBadrec : BitVec 8 := 0x08
def causeXlate : BitVec 8 := 0x10
def causeProtect : BitVec 8 := 0x11
def causeSpill : BitVec 8 := 0x12
def causeShadow : BitVec 8 := 0x18
def causeSnapnest : BitVec 8 := 0x19
def causeTiming : BitVec 8 := 0x20
def causeSched : BitVec 8 := 0x21
def causeUnderstall : BitVec 8 := 0x22
def causeNoprogress : BitVec 8 := 0x28
def causeGroup : BitVec 8 := 0x30
def causeLinkdown : BitVec 8 := 0x31
def causeUncorr : BitVec 8 := 0x38

/-- A virtual address as HTVAL holds it. -/
def word (a : Nat) : Word := BitVec.ofNat 64 a

def xlate (k : AccessKind) (va : Nat) : Trap := { code := causeXlate, sub := k.sub, val := word va }
def protect (k : AccessKind) (va : Nat) : Trap := { code := causeProtect, sub := k.sub, val := word va }
def uncorr (va : Nat) : Trap := { code := causeUncorr, val := word va }
def shadowTrap (va : Nat) : Trap := { code := causeShadow, val := word (va / 128 * 128) }
def misalign (a : Nat) : Trap := { code := causeMisalign, val := word a }
def badrec (sub : BitVec 8) (v : Nat) : Trap := { code := causeBadrec, sub := sub, val := word v }

/-! ### Table entries (R223) -/

/-- A field of an entry. -/
def entryField (e : Word) (lo n : Nat) : Nat := e.toNat / 2 ^ lo % 2 ^ n

def entryV (e : Word) : Bool := e.getLsbD 0
def entryLeaf (e : Word) : Bool := e.getLsbD 1
def leafRD (e : Word) : Bool := e.getLsbD 2
def leafWR (e : Word) : Bool := e.getLsbD 3
def leafEX (e : Word) : Bool := e.getLsbD 4
def leafA (e : Word) : Bool := e.getLsbD 5
def leafD (e : Word) : Bool := e.getLsbD 6
def leafUO (e : Word) : Bool := e.getLsbD 7
def leafGH (e : Word) : Bool := e.getLsbD 8
def leafPIN (e : Word) : Bool := e.getLsbD 9
/-- HK: 0 column, 1 CXL, 2 peer package. -/
def leafHK (e : Word) : Nat := entryField e 62 2
/-- The home's number: core, port or package. -/
def leafHome (e : Word) : Nat := entryField e 48 14
/-- The frame's physical address. -/
def leafFrame (e : Word) : Nat := entryField e 16 32 * 2 ^ 16

/-- An entry that points to a table is well formed: its reserved fields are 0. -/
def pointerWf (e : Word) : Bool := entryField e 48 16 == 0 && entryField e 2 6 == 0

/-- A leaf of a page of 2 ^ bits bytes is well formed (R223, R324). -/
def leafWf (p : Product) (bits : Nat) (e : Word) : Bool :=
  entryField e 10 6 == 0 &&
  (match leafHK e with
   | 0 => decide (leafHome e < p.cores) && leafFrame e % 2 ^ bits == 0 &&
          decide (leafHome e * columnBytes ≤ leafFrame e ∧ leafFrame e + 2 ^ bits ≤ (leafHome e + 1) * columnBytes)
   | 1 => p.hasHub && decide (leafHome e < 4) && leafFrame e % 2 ^ bits == 0 &&
          decide (farBase + leafHome e * 2 ^ 40 ≤ leafFrame e ∧
            leafFrame e + 2 ^ bits ≤ farBase + (leafHome e + 1) * 2 ^ 40)
   | 2 => decide (leafHome e < 4096) && leafFrame e == 0
   | _ => false)

/-- The location a leaf maps a virtual address to. -/
def leafLoc (bits : Nat) (e : Word) (va : Nat) : Nat :=
  if leafHK e == 2 then peerLoc (leafHome e) va else leafFrame e + va % 2 ^ bits

/-- The leaf grants the access: a read needs RD, a write WR, a fetch EX; an update needs RD and WR (R224). -/
def leafAllows (k : AccessKind) (update : Bool) (e : Word) : Bool :=
  match k with
  | .read => leafRD e && (!update || leafWR e)
  | .write => leafWR e && (!update || leafRD e)
  | .fetch => leafEX e

/-! ### The walk (R222, R224) -/

/-- A translation: the location, and the leaf with its place and its page size. -/
structure Located where
  loc  : Nat
  /-- location of the leaf entry; none for a window -/
  leafAt : Option Nat := none
  leaf : Word := 0
  bits : Nat := 0
  /-- A was 0 when the access was translated (R227) -/
  fresh : Bool := false
  /-- a walk made the translation: it reaches the entry and sets A (R223) -/
  walked : Bool := false
  deriving DecidableEq, Repr, Inhabited

/-- The entry that an access reaches by a walk, where it traps after the walk. -/
def Located.mark (l : Located) : Option Nat := if l.walked then l.leafAt else none

/-- Index bits of the levels, from level 3 down: lowest bit, number of bits, and bits of the offset of a leaf there. -/
def walkLevels : List (Nat × Nat) := [(39, 17), (30, 9), (21, 9), (16, 5)]

/-- Where a walk ends. -/
inductive WalkEnd where
  | leaf (at_ bits : Nat) (e : Word)
  /-- an entry with V = 0 -/
  | invalid
  | malformed
  | poisoned
  /-- the walk reads at a physical address where nothing lies -/
  | hole (pa : Nat)
  deriving DecidableEq, Repr, Inhabited

/-- The walk from a table on. A leaf at level 3 is malformed, and so is a pointer at level 0. -/
def walkFrom (s : State) (va : Nat) (top : Bool) : List (Nat × Nat) → Nat → WalkEnd
  | [], _ => .malformed
  | (lo, n) :: rest, table =>
    let at_ := table + 8 * (va / 2 ^ lo % 2 ^ n)
    if !physExists s.product at_ then .hole at_
    else if s.poisoned (lineOf at_) then .poisoned
    else
      let e := BitVec.ofNat 64 (memRead s.mem at_ 8)
      if !entryV e then .invalid
      else if entryLeaf e then
        if top || !leafWf s.product lo e then .malformed else .leaf at_ lo e
      else if rest.isEmpty || !pointerWf e then .malformed
      else walkFrom s va false rest (entryField e 8 40 * 2 ^ 8)

/-- The walk of a context's table. -/
def walk (s : State) (root va : Nat) : WalkEnd := walkFrom s va true walkLevels root

/-- A translation-cache entry of a core for an address (R225). -/
def tlbHit (s : State) (core asid va : Nat) : Option TlbEntry :=
  s.tlb.find? (fun t => t.core == core && t.asid == asid && t.base == va / 2 ^ t.bits * 2 ^ t.bits)

/-- A location lies in a page whose move is in its hold phase (R230). -/
def pageHeld (s : State) (loc : Nat) : Bool :=
  s.moves.any (fun m => m.phase == .hold && decide (m.frame ≤ loc ∧ loc < m.frame + 2 ^ m.bits))

/-- An element of a bank request to a location's line is held for want of a shadow: the line is held until it has been
performed (R136, R209, R238). -/
def elementHeld (s : State) (loc : Nat) : Bool :=
  s.contexts.any (fun c => c.held.any (fun w => w.bank.isSome && w.line == lineOf loc))

/-- Accesses to a location wait. -/
def inHold (s : State) (loc : Nat) : Bool := pageHeld s loc || elementHeld s loc

/-- An access that its translation leads to: one to a page in its hold or to a held line waits (R209, R230), and what the home package makes of
one to a peer page is the package's answer (R233). -/
def grantAccess (s : State) (k : AccessKind) (update : Bool) (va : Nat) (l : Located) : Except Stop Located :=
  if inHold s l.loc then .error .wait
  else if !leafAllows k update l.leaf then .error (.trap { protect k va with mark := l.mark })
  else if leafHK l.leaf == 2 then
    match Config.peerAnswer s (leafHome l.leaf) va k with
    | .performed => .ok l
    | .xlate => .error (.trap { xlate k va with mark := l.mark })
    | .protect => .error (.trap { protect k va with mark := l.mark })
    | .poisoned => .error (.trap { uncorr va with mark := l.mark })
  else .ok l

/-- A was 0 in an entry as it stands. -/
def notAccessed (s : State) (at_ : Nat) : Bool := !(BitVec.ofNat 64 (memRead s.mem at_ 2)).getLsbD 5

/-- A global address translated for an access by a core (R224, R225). -/
def translateAt (s : State) (core asid root : Nat) (k : AccessKind) (update : Bool) (va : Nat) : Except Stop Located :=
  match tlbHit s core asid va with
  | some t =>
    grantAccess s k update va
      ⟨leafLoc t.bits t.leaf va, some t.at_, t.leaf, t.bits, t.fresh || notAccessed s t.at_, false⟩
  | none =>
    match walk s root va with
    | .leaf at_ bits e => grantAccess s k update va ⟨leafLoc bits e va, some at_, e, bits, !leafA e, true⟩
    | .invalid => .error (.trap (xlate k va))
    | .malformed => .error (.trap { xlate k va with report := some (asid, va) })
    | .poisoned => .error (.trap (uncorr va))
    | .hole pa => .error (.fault (.physicalHole pa))

/-! ### Marks (R223, R227) -/

/-- The leaf entry with marks set and cleared, every other bit kept. -/
def markLeaf (s : State) (at_ : Nat) (set clear : Nat) : State :=
  let e := memRead s.mem at_ 2
  { s with mem := memWrite s.mem at_ 2 ((e ||| set) &&& (0xFFFF ^^^ clear)) }

/-- A set in the entry that a walk reached. -/
def markAccessed (s : State) (at_ : Option Nat) : State :=
  match at_ with
  | some a => markLeaf s a 0x20 0
  | none => s

/-- What the walk of an access that trapped leaves: A is set in the entry it reached, and a malformed entry is reported
to Voxind (R223, R224). -/
def noteWalk (s : State) (t : Trap) : State :=
  let s := markAccessed s t.mark
  match t.report with
  | some r => { s with reports := s.reports ++ [r] }
  | none => s

/-- A trap whose walk has left its marks. -/
def Trap.noted (t : Trap) : Trap := { t with mark := none, report := none }

/-- The marks of an access that is performed: A where it was walked for, D at a write, UO and GH. -/
def markAccess (s : State) (l : Located) (k : AccessKind) (m : MarkKind) : State :=
  match l.leafAt with
  | none => s
  | some at_ =>
    let d := (if l.walked then 0x20 else 0) + (if k == .write then 0x40 else 0)
    match m with
    | .unit => markLeaf s at_ (d + (if l.fresh then 0x80 else 0)) 0
    | .gather => markLeaf s at_ (d + 0x100) 0x80
    | .other => markLeaf s at_ d 0x80

/-! ### Windows (R115, R116) -/

/-- First virtual addresses of the windows. -/
def privateBase : Nat := 0x0100000000000000
def coreBase : Nat := 0x0100000100000000
def clusterBase : Nat := 0x0100000200000000
def stackBase : Nat := 0x0100000300000000

/-- The core, cluster or stack a core number lies in. -/
def Level.index (l : Level) (core : Nat) : Nat :=
  match l with
  | .core => core
  | .cluster => core / 8
  | .stack => core / 64

/-- The grant of a hart's launch at a level, seen from its core. -/
def grantOf (s : State) (h : Hart) (l : Level) : Option Grant :=
  s.grants.find? (fun g => g.launch == h.launch && g.asid == h.asid && g.level == l && g.at_ == l.index h.place.core)

/-- The location of a window address; none: beyond the grant, in the lane-private range or in no range. -/
def windowOf (s : State) (h : Hart) (va : Nat) : Option Nat :=
  let at_ (l : Level) (base : Nat) : Option Nat :=
    match grantOf s h l with
    | some g => if base ≤ va ∧ va < base + g.size then some (windowLoc g.gid (va - base)) else none
    | none => none
  if va < coreBase then none
  else if va < clusterBase then at_ .core coreBase
  else if va < stackBase then at_ .cluster clusterBase
  else at_ .stack stackBase

/-- Lanes of a slot by split (R11). -/
def lanesOf (split : BitVec 2) : Nat := 32 / 2 ^ split.toNat

/-- The end of the hart's lane-private range (R115, R116). -/
def privateEnd (h : Hart) : Nat := privateBase + 4096 * lanesOf h.split

/-! ### The address of an access by the hart in focus -/

/-- The root of the hart's table. -/
def rootOf (s : State) (asid : Nat) : Nat := ((s.ctx? asid).map (·.root)).getD 0

/-! ### The logs of accesses that move pages (R229) -/

/-- The log of the page at an entry. -/
def pageLog (s : State) (at_ : Nat) : PageLog := (s.pageLogs.find? (·.at_ == at_)).getD { at_ := at_ }

def setPageLog (s : State) (x : PageLog) : State := { s with pageLogs := x :: s.pageLogs.filter (·.at_ != x.at_) }

/-- A page's log with one more L2 miss or bank request of a core. -/
def PageLog.note (x : PageLog) (core : Nat) (miss : Bool) : PageLog :=
  { x with recent := (core :: x.recent).take 64, misses := if miss then core :: x.misses else x.misses }

/-- An L2 miss or a bank request of a core enters the log of the page at an address. -/
def notePage (s : State) (core asid va : Nat) (miss : Bool) : State :=
  match walk s (rootOf s asid) va with
  | .leaf at_ _ e => if leafHK e == 2 then s else setPageLog s ((pageLog s at_).note core miss)
  | _ => s

/-- A virtual address of a hart located for an access other than VLDL and VSTL (R115, R120). -/
def locateFor (s : State) (h : Hart) (k : AccessKind) (update : Bool) (va : Nat) : Except Stop Located :=
  if va < 2 ^ 56 then translateAt s h.place.core h.asid (rootOf s h.asid) k update va
  else if k == .fetch then .error (.trap (protect k va))
  else match windowOf s h va with
    | some loc => .ok { loc := loc }
    | none => .error (.trap (protect k va))

def locate (s : State) (k : AccessKind) (update : Bool) (va : Nat) : Except Stop Located :=
  locateFor s s.hart k update va

end Machine

end Sys2Proof
end

