-- ==== Sys2Proof/Machine/Access.lean ====
section
/-!
DEFINITION. Registers of a hart, the harts of the machine, and the accesses a hart makes to memory (R19, R61, R80, R117,
R128, R129, R237, R238, R241).
-/

namespace Sys2Proof.Machine

/-! ### Vectors of registers -/

/-- Element `i` of a vector; `d` beyond its end. -/
def vget {α : Type} {n : Nat} (v : Vector α n) (i : Nat) (d : α) : α := v.toList.getD i d

/-- A vector with element `i` replaced; unchanged beyond its end. -/
def vset {α : Type} {n : Nat} (v : Vector α n) (i : Nat) (x : α) : Vector α n := v.setIfInBounds i x

/-! ### The harts of the machine -/

/-- The hart executes or waits on its core: it is neither Free nor Halted. -/
def Hart.resident (h : Hart) : Bool := h.life == .running || h.life == .handler || h.life == .ending

/-- The hart is Halted. -/
def Hart.halted (h : Hart) : Bool := h.life == .haltedRunning || h.life == .haltedHandler || h.life == .haltedEnding

/-- The harts that are not Free, the one in focus first. -/
def State.harts (s : State) : List Hart := (if s.hart.life == .free then [] else [s.hart]) ++ s.parked

/-- A change made to every hart. -/
def State.mapHarts (s : State) (f : Hart → Hart) : State := { s with hart := f s.hart, parked := s.parked.map f }

/-- A change made to the hart in focus. -/
def State.mapHart (s : State) (f : Hart → Hart) : State := { s with hart := f s.hart }

/-- The hart that satisfies a test brought into focus; none: there is no such hart. -/
def State.focusBy (s : State) (p : Hart → Bool) : Option State :=
  if s.hart.life != .free && p s.hart then some s
  else match s.parked.find? p with
    | some h => some { s with hart := h, parked := (if s.hart.life == .free then [] else [s.hart]) ++ s.parked.eraseP p }
    | none => none

/-- The resident hart at a place brought into focus. -/
def State.focus (s : State) (p : Place) : Option State := s.focusBy (fun h => h.place == p && h.resident)

/-- What happens at a place where no hart is resident: nothing. -/
def State.atPlace (s : State) (p : Place) (f : State → State) : State :=
  match s.focus p with
  | some s => f s
  | none => s

/-! ### Scalar registers (R19, R61) -/

/-- g[r]; g0 reads 0. -/
def gRead (h : Hart) (r : Nat) : Word := if r = 0 then 0 else vget h.sc.g r 0

/-- A register holds its latest write again (R31). -/
def refresh (h : Hart) (r : RegId) : Hart :=
  if h.stale.isEmpty then h else { h with stale := h.stale.filter (· != r) }

/-- g[r] := v; a write to g0 is discarded. -/
def gWrite (h : Hart) (r : Nat) (v : Word) : Hart :=
  if r = 0 then h else refresh { h with sc := { h.sc with g := vset h.sc.g r v } } (.g r)

def hRead (h : Hart) (r : Nat) : Word := vget h.ve.h r 0
/-- Register-die state that is written whole loses its poison (R80; notes/assumptions/38). -/
def mendPoison (h : Hart) (kind n : Nat) : Hart :=
  if h.poison.isEmpty then h else { h with poison := h.poison.filter (· != (kind, n)) }

def hWrite (h : Hart) (r : Nat) (v : Word) : Hart :=
  refresh (mendPoison { h with ve := { h.ve with h := vset h.ve.h r v } } 2 r) (.h r)

/-- A scalar operand of a B-marked word: a g register on the scalar side, an h register on the vector side (R20). -/
def xRead (s : State) (r : Nat) : Word :=
  match s.issue.side with
  | .scalar => gRead s.hart r
  | .vector => hRead s.hart r

/-- The destination of a B-marked word. -/
def xWrite (s : State) (r : Nat) (v : Word) : State :=
  match s.issue.side with
  | .scalar => s.mapHart (fun h => gWrite h r v)
  | .vector => s.mapHart (fun h => hWrite h r v)

/-! ### Vector and mask registers -/

/-- B, the bits of a vector register in the hart's slot (R11). -/
def regBits (h : Hart) : Nat := 65536 / 2 ^ h.split.toNat

/-- The value of a register. -/
def regValue (h : Hart) : RegId → Nat
  | .g n => (gRead h n).toNat
  | .h n => (hRead h n).toNat
  | .v n => (vget h.ve.v n 0).toNat
  | .m n => (vget h.ve.m n 0).toNat

/-- Bits of `old` with those under the mask taken from `new`. -/
def mergeBits (old new mask : Nat) : Nat := old ^^^ ((old ^^^ new) &&& mask)

/-- A write of some bits of a register. -/
structure RegWrite where
  reg   : RegId
  value : Nat
  mask  : Nat
  deriving DecidableEq, Repr, Inhabited

/-- A register written whole. -/
def RegWrite.whole (reg : RegId) (value : Nat) : RegWrite :=
  ⟨reg, value, match reg with | .g _ => 2 ^ 64 - 1 | .h _ => 2 ^ 64 - 1 | _ => 2 ^ 65536 - 1⟩

/-- A mask covers a vector or mask register of the hart. -/
def covers (h : Hart) (mask : Nat) : Bool := mask % 2 ^ regBits h == 2 ^ regBits h - 1

/-- The write performed. -/
def applyWrite (h : Hart) (w : RegWrite) : Hart :=
  let v := mergeBits (regValue h w.reg) w.value w.mask
  match w.reg with
  | .g n => gWrite h n (BitVec.ofNat 64 v)
  | .h n => hWrite h n (BitVec.ofNat 64 v)
  | .v n =>
    let h' := refresh { h with ve := { h.ve with v := vset h.ve.v n (BitVec.ofNat 65536 v) } } (.v n)
    if covers h w.mask then mendPoison h' 0 n else h'
  | .m n =>
    let h' := refresh { h with ve := { h.ve with m := vset h.ve.m n (BitVec.ofNat 65536 v) } } (.m n)
    if covers h w.mask then mendPoison h' 1 n else h'

def applyWrites (h : Hart) (ws : List RegWrite) : Hart := ws.foldl applyWrite h

/-- Writes under way in the order in which they complete: by cycle, and in program order within one (R30). -/
def completionOrder (l : List PendingWrite) : List PendingWrite := l.mergeSort (fun a b => decide (a.due ≤ b.due))

/-- A write under way completes. The older ones of its register that are still under way will complete after it, and the
register they complete in then holds an older value than the latest write's (R30, R31). -/
def commitWrite (h : Hart) (w : PendingWrite) : Hart :=
  let older := h.writes.takeWhile (· != w)
  let h' := applyWrite h ⟨w.reg, w.value, w.mask⟩
  { h' with
    writes := older.map (fun x => if x.reg == w.reg then { x with late := true } else x) ++
      (h.writes.dropWhile (· != w)).drop 1,
    stale := if w.late then w.reg :: h'.stale else h'.stale }

/-- The writes under way that satisfy a test performed in completion order; `fuel` of them at most. -/
def commitEach (p : PendingWrite → Bool) : Nat → Hart → Hart
  | 0, h => h
  | fuel + 1, h =>
    match completionOrder (h.writes.filter p) with
    | [] => h
    | w :: _ => commitEach p fuel (commitWrite h w)

/-- All writes under way that satisfy a test performed in completion order. -/
def commitWrites (h : Hart) (p : PendingWrite → Bool) : Hart := commitEach p h.writes.length h

/-- A translation that marks nothing and raises nothing. -/
def quietLoc (s : State) (h : Hart) (va : Nat) : Option Nat :=
  match tlbHit s h.place.core h.asid va with
  | some t => some (leafLoc t.bits t.leaf va)
  | none => match walk s (rootOf s h.asid) va with
    | .leaf _ bits e => some (leafLoc bits e va)
    | _ => none

/-! ### Lines that bank requests hold (R136, R209, R210) -/

/-- The island has still to make an add of a VFPUSH of this hart. -/
def unreached (s : State) (uid : Nat) : Bool :=
  s.cores.any (fun c => c.fifo.any (fun e => e.uid == uid && !e.adds.isEmpty))

/-- Bank requests of an agent other than `who` hold the line of a location: they follow an add in their source's sequence
that has still to be made. -/
def requestsHold (s : State) (who : Option Nat) (loc : Nat) : Bool :=
  let meets (l : List BankItem) : Bool := l.any (fun i => lineOf i.loc == lineOf loc)
  s.cores.any (fun c => c.fifo.any (fun e => who != some e.uid && meets e.items && unreached s e.uid)) ||
    s.harts.any (fun h => who != some h.uid && h.bank.any (fun r => meets r.items) && unreached s h.uid)

/-- An access waits until the requests of others that hold its line have been performed. -/
def awaitIsland (s : State) (who : Option Nat) (loc : Nat) : Except Stop Unit :=
  if requestsHold s who loc then .error .wait else .ok ()

/-! ### Accesses by scalar words (R117, R128) -/

/-- Bytes `off` to `off + n - 1` of a value, the lowest first. -/
def bytesAt (v off n : Nat) : Nat := v / 256 ^ off % 256 ^ n

/-- What a refused write at the home raises at the hart whose word wrote (R159, R238, R241). -/
def writeTrap (va : Nat) (l : Located) : WriteStop → Stop
  | .shadow _ => .trap { shadowTrap va with mark := l.mark }
  | .protect _ => .trap { protect .write va with mark := l.mark }

/-- A read of `n` bytes in one line by the scalar side: through the core's L1, or at the array of a window. -/
def scalarRead (s : State) (k : AccessKind) (va n : Nat) : Except Stop (Nat × State) := do
  let l ← locate s k false va
  awaitIsland s none l.loc
  if s.poisoned (lineOf l.loc) then .error (.trap { uncorr va with mark := l.mark })
  else if isWindowLoc l.loc then .ok (memRead s.mem l.loc n, s)
  else
    let (x, s) := (markAccess s l k .other).l1Fill s.hart.place.core (lineOf l.loc)
    if (s.poolOf (lineOf l.loc)).isSome then
      let (v, s) := s.draw
      .ok (v % 256 ^ n, s)
    else .ok (lineBytes x.data (l.loc % 128) n, s)

/-- A write of `n` bytes in one line by the scalar side. A tracked line is written in the L1 and at the home, and gains
no dirty bytes (R237). -/
def scalarWrite (s : State) (va n v : Nat) : Except Stop State := do
  let l ← locate s .write false va
  awaitIsland s none l.loc
  if isWindowLoc l.loc then
    if s.isSealed l.loc n then .error (writeTrap va l (.protect none)) else .ok (s.arrayWrite l.loc n v)
  else
    let core := s.hart.place.core
    let line := lineOf l.loc
    let mask := byteMask (l.loc % 128) n
    let data : Line := BitVec.ofNat 1024 (v * 256 ^ (l.loc % 128))
    match (s.poolOf line), (s.tracker line) with
    | some o, _ => .error (writeTrap va l (.protect (some o)))
    | none, none =>
      let (x, s) := (markAccess s l .write .other).l1Fill core line
      .ok (s.l1Put { x with data := mergeLine x.data data mask, dirty := x.dirty ||| mask, asid := s.hart.asid })
    | none, some _ =>
      match s.guardWrite (core / 64) l.loc n with
      | .error e => .error (writeTrap va l e)
      | .ok s =>
        let s := (markAccess s l .write .other).putLine (core / 64) line data mask
        let (x, s) := s.l1Fill core line
        .ok (s.l1Put { x with data := mergeLine x.data data mask, dirty := x.dirty &&& ~~~mask })

/-! ### Accesses at the vector point (R117, R118, R129) -/

/-- A read of `n` bytes in one line for a hart at its R129 point. -/
def pointRead (s : State) (h : Hart) (mk : MarkKind) (va n : Nat) : Except Stop (Nat × State) := do
  let l ← locateFor s h .read false va
  awaitIsland s (some h.uid) l.loc
  if s.poisoned (lineOf l.loc) then .error (.trap { uncorr va with mark := l.mark })
  else
    let s := markAccess s l .read mk
    .ok (if mk == .gather then s.elemRead (h.place.core / 64) l.loc n else s.homeRead (h.place.core / 64) l.loc n)

/-- A write of `n` bytes in one line for a hart at its R129 point. A partial write of a poisoned line leaves its poison,
a whole one clears it (R80). -/
def pointWrite (s : State) (h : Hart) (mk : MarkKind) (va n v : Nat) : Except Stop State := do
  let l ← locateFor s h .write false va
  awaitIsland s (some h.uid) l.loc
  let stack := h.place.core / 64
  match (if mk == .gather then s.elemWrite (some h.uid) stack l.loc n v else s.homeWrite (some h.uid) stack l.loc n v) with
  | .error e => .error (writeTrap va l e)
  | .ok s => .ok (markAccess s l .write mk)

/-- Bytes read for a hart from consecutive addresses, in parts that each lie in one line; the lowest first. -/
def pointReadBytes (s : State) (h : Hart) (mk : MarkKind) : Nat → Nat → Nat → Except Stop (List Nat × State)
  | 0, _, _ => .ok ([], s)
  | n + 1, size, va => do
    let (v, s) ← pointRead s h mk va size
    let (rest, s) ← pointReadBytes s h mk n size (va + size)
    .ok (v :: rest, s)

/-! ### Elements of bank requests (R213, R214) -/

/-- `n` bytes of one line as they stand at a stack's point. -/
def peekBytes (s : State) (stack a n : Nat) : Nat :=
  if isWindowLoc a then memRead s.mem a n else lineBytes (s.pointLine stack (lineOf a)) (a % 128) n

/-- m + x: integers wrap or clamp with SAT, floats round once in RNE (R125). -/
def scatterAdd (e : ElemType) (sat : Bool) (old x : Nat) : Nat × Flags :=
  if e == .f32 || e == .f64 then (floatFormat e).add .rne old x
  else assignInteger sat e.isSigned e.width (toInteger e.isSigned e.width old + toInteger e.isSigned e.width x)

/-- add of R213. -/
def bankAdd (e : ElemType) (sat : Bool) (old x : Nat) : Nat × Flags := scatterAdd e sat old x

/-- An add performed at its location; a poisoned target is left as it is, and the skipped add is counted (R214). -/
def addAt (s : State) (who : Option Nat) (stack loc : Nat) (e : ElemType) (sat : Bool) (x : Nat) : Flags × State :=
  if s.poisoned (lineOf loc) then (0, { s with skipped := s.skipped + 1 })
  else
    let n := e.width / 8
    let (old, s) := s.elemRead stack loc n
    let r := bankAdd e sat old x
    match s.elemWrite who stack loc n r.1 with
    | .ok s => (r.2, s)
    | .error _ => (0, s)

/-- An element of a bank request performed: an add, or a write of the bytes it leaves. A write that is refused is lost. -/
def performItem (s : State) (who : Option Nat) (stack : Nat) (i : BankItem) : Flags × State :=
  match i.add with
  | some (e, sat, x) => addAt s who stack i.loc e sat x
  | none =>
    match s.elemWrite who stack i.loc i.size i.after with
    | .ok s => (0, s)
    | .error _ => (0, s)

/-! ### Accesses where an AMO of a scope is performed (R129, R132, R140, R142) -/

/-- Scope codes (R130). -/
def scopeClus : Nat := 2
def scopeStack : Nat := 3
def scopeDev : Nat := 4
def scopeSys : Nat := 5

/-- The line's copies are settled before an atomic access of the hart: the issuing core's L1 copy is written back and
invalidated; at .dev and .sys the stack's L2 copy of a far or peer line too. -/
def settleLine (s : State) (core scope loc : Nat) : State :=
  if isWindowLoc loc then s else
  let line := lineOf loc
  let s := s.l1Flush (fun x => x.core == core && x.line == line)
  if scopeDev ≤ scope ∧ isCopied loc then s.l2Flush (fun x => x.stack == core / 64 && x.line == line) else s

/-- `n` bytes read at the point of an AMO of the scope, as they stand there. -/
def amoGet (s : State) (core scope loc n : Nat) : Nat :=
  if isWindowLoc loc then memRead s.mem loc n
  else if scopeDev ≤ scope then memRead s.mem loc n
  else lineBytes (s.pointLine (core / 64) (lineOf loc)) (loc % 128) n

/-- `n` bytes read there by an access: a line of a shadow pool reads as a free value (R241). -/
def amoRead (s : State) (core scope loc n : Nat) : Nat × State :=
  if !isWindowLoc loc && (s.poolOf (lineOf loc)).isSome then
    let (v, s) := s.draw
    (v % 256 ^ n, s)
  else (amoGet s core scope loc n, s)

/-- `n` bytes written there. -/
def amoPut (s : State) (core scope loc n v : Nat) : Except WriteStop State :=
  if isWindowLoc loc then
    if s.isSealed loc n then .error (.protect none) else .ok (s.arrayWrite loc n v)
  else
    match s.guardWrite (core / 64) loc n with
    | .error e => .error e
    | .ok s =>
      if scopeDev ≤ scope then .ok (s.store (lineOf loc) (memWrite s.mem loc n v))
      else .ok (s.putLine (core / 64) (lineOf loc) (BitVec.ofNat 1024 (v * 256 ^ (loc % 128))) (byteMask (loc % 128) n))

/-- A location for an atomic update by the hart in focus, its line settled: a poisoned line raises UNCORR. -/
def amoLocate (s : State) (k : AccessKind) (update : Bool) (scope va : Nat) : Except Stop (Located × State) := do
  let l ← locate s k update va
  awaitIsland s (match s.issue.side with | .scalar => none | .vector => some s.hart.uid) l.loc
  if s.poisoned (lineOf l.loc) then .error (.trap { uncorr va with mark := l.mark })
  else .ok (l, settleLine s s.hart.place.core scope l.loc)

end Sys2Proof.Machine
end

