-- ==== Sys2Proof/Machine/Life.lean ====
section
/-!
DEFINITION. What stops and ends a hart: fault records, the abort of a timed region, halting, the abort of a group and
the retirement of a unit (R54, R75, R79, R147, R188, R190, R269 to R275, R304, R312).
-/

namespace Sys2Proof.Machine

/-! ### Functions, interrupts to the host, and fault records (R272, R326) -/

/-- The function a context is bound to: none before it is bound, some none the PF. -/
def State.fnOf (s : State) (asid : Nat) : Option (Option Nat) := (s.ctx? asid).bind (·.fn)

/-- An MSI-X vector of a function raised. -/
def State.raise (s : State) (fn : Option Nat) (vector : Nat) : State :=
  if s.msix.contains (fn, vector) then s else { s with msix := s.msix ++ [(fn, vector)] }

/-- A vector raised for the function of a context, by the PF's and the VFs' number. -/
def State.raiseFor (s : State) (asid : Nat) (pf vf : Nat) : State :=
  match s.fnOf asid with
  | some none => s.raise none pf
  | some (some n) => s.raise (some n) vf
  | none => s

/-- WHERE of a fault record. -/
def whereWord (p : Place) : BitVec 32 := BitVec.ofNat 32 (p.core % 256 + p.slot % 8 * 256 + p.res % 4 * 2048)

/-- An event entered into the fault record of a context: COUNT increases, and the first event since the record was
cleared fills the other fields and raises the function's fault vector (R272, R326). -/
def State.record (s : State) (asid : Nat) (r : FaultRecord) : State :=
  match s.ctx? asid with
  | none => s
  | some c =>
    let n := c.fault.count
    let more := if n = BitVec.allOnes 32 then n else n + 1
    let s := s.mapCtx asid (fun c => { c with fault := if n = 0 then { r with count := 1 } else { c.fault with count := more } })
    if n = 0 then s.raiseFor asid 1 4 else s

/-- Supervisor causes (R272). -/
def causeQuota : BitVec 8 := 0x40
def causePreempt : BitVec 8 := 0x41
def causeCancelled : BitVec 8 := 0x42

/-- An address as HEPC, HRPC and the like hold it: bits [55:0], a multiple of `2 ^ low` (R63, R72). -/
def regAddr (low : Nat) (a : Word) : Word := a &&& BitVec.ofNat 64 (2 ^ 56 - 2 ^ low)

/-- HQPOS of the vector-side word at hand: block sequence number and byte offset (R57, R72). -/
def qposOf (h : Hart) : Word :=
  match h.ve.block with
  | some b => b.seq ++ BitVec.ofNat 32 (h.ve.pc - b.addr).toNat
  | none => 0

/-! ### Cycles (R63) -/

/-- CYCLE now. -/
def cycleNow (s : State) (h : Hart) : Nat := if h.resident then h.cs.cycles + (s.clock - h.cs.since) else h.cs.cycles

/-! ### Tiles that lose their contents (R79, R190, R344) -/

/-- The tiles a command writes. -/
def CmdKind.tiles : CmdKind → List Nat
  | .mma td .. => [td]
  | .tld t => [t]
  | .copyTile _ _ t _ => [t]
  | .sigInit g => [g, g + 1, g + 2, g + 3]
  | .sigAdd g _ => [g, g + 1, g + 2, g + 3]
  | .sigMul g _ => [g, g + 1, g + 2, g + 3]
  | .sigLog g _ => [g, g + 1, g + 2, g + 3]
  | .sigLd g _ => [g, g + 1, g + 2, g + 3]
  | _ => []

/-- The number of elements of a shape record. -/
def Tsr.count (t : Tsr) : Nat := t.ext.foldl (· * ·) 1

/-- EXT0 of a record. -/
def Tsr.ext0 (t : Tsr) : Nat := t.ext.headD 1

/-- `n` free elements of width `w`. -/
def freeElems (bits w n : Nat) : List Nat := (List.range n).map (fun i => bits / 2 ^ (w * i) % 2 ^ w)

/-- A tile whose contents become unspecified. -/
def loseContents (h : Hart) (k : CmdKind) (t bits : Nat) : Hart :=
  if 8 ≤ t then { h with tl := { h.tl with acc := vset h.tl.acc (t - 8) (BitVec.ofNat 524288 bits) } }
  else
    let staged (r : Tsr) : OpTile :=
      .staged (some r.et) (r.count / r.ext0) r.ext0 (freeElems bits r.et.width r.count) [] none
    let x := match k with
      | .copyTile src _ _ _ => staged src
      | _ => (match vget h.tl.op t .unbound with
              | .bound r _ _ _ => staged r
              | y => y)
    { h with tl := { h.tl with op := vset h.tl.op t x } }

/-- A tile that a cancelled command was writing: its stamp is lost and it holds unspecified values. -/
def State.loseTile (s : State) (k : CmdKind) (t : Nat) : State :=
  let (b, s) := s.draw
  s.mapHart (fun h =>
    let h := loseContents h k t b
    { h with tl := { h.tl with stamp := vset h.tl.stamp t none } })

/-! ### The deficits of an arbiter's queues (R286) -/

def arbiter (s : State) (x : Arb) : Arbiter := (s.arbiters.find? (·.arb == x)).getD { arb := x }

def setArbiter (s : State) (a : Arbiter) : State := { s with arbiters := a :: s.arbiters.filter (·.arb != a.arb) }

/-- The deficit of a queue at an arbiter. -/
def Arbiter.deficitOf (a : Arbiter) (q : Nat) : Int := ((a.deficit.find? (·.1 == q)).map (·.2)).getD 0

def Arbiter.setDeficit (a : Arbiter) (q : Nat) (d : Int) : Arbiter :=
  { a with deficit := (q, d) :: a.deficit.filter (fun x => x.1 != q) }

/-- A served request's charge. -/
def chargeTurn (s : State) (x : Arb) (q charge : Nat) : State :=
  let a := arbiter s x
  if a.order.contains q then setArbiter s (a.setDeficit q (a.deficitOf q - charge)) else s

/-- The engine a command runs on (R173). -/
inductive EngineUnit where
  | array | copy | pins
  deriving DecidableEq, Repr, Inhabited

def CmdKind.unit : CmdKind → EngineUnit
  | .mma .. | .sigInit _ | .sigAdd .. | .sigMul .. | .sigLog .. => .array
  | .tld _ => .pins
  | _ => .copy

/-- The arbiter of an engine (R285); the pinning of tiles has none. -/
def engineArb (u : EngineUnit) (core : Nat) : Option Arb :=
  match u with
  | .array => some (.array core)
  | .copy => some (.copy core)
  | .pins => none

/-- The engine's arbiter charges a command of the hart in focus for `n` cycles, times 32 (R285). -/
def State.chargeCycles (s : State) (c : EngCmd) (n : Nat) : State :=
  match engineArb c.kind.unit s.hart.place.core with
  | some x => chargeTurn s x s.hart.queue (32 * n)
  | none => s

/-- A command that leaves its engine is charged for the cycles it has occupied it, if it was not charged as it started
(R285, R286). -/
def State.chargeCommand (s : State) (c : EngCmd) : State :=
  match c.state with
  | .waiting => s
  | .running t => if c.charged then s else s.chargeCycles c (s.clock - t)

/-- The commands of the hart in focus that leave their engines are charged. -/
def State.chargeCommands (s : State) : State := s.hart.tl.queue.foldl State.chargeCommand s

/-! ### The end of a timed region (R79, R188) -/

/-- A quota with an amount in nJ added, saturating at the bounds of a signed 64-bit number of µJ (R206, R326). -/
def addQuota (left amount : Int) : Int :=
  let x := left + amount
  if x < -(2 ^ 63 * 1000 : Int) then -(2 ^ 63 * 1000 : Int)
  else if (2 ^ 63 * 1000 - 1 : Int) < x then (2 ^ 63 * 1000 - 1 : Int) else x

/-- The remaining quota of a VF, in nJ. -/
def State.left (s : State) (vf : Nat) : Int := ((s.quota.find? (·.1 == vf)).map (·.2)).getD 0

/-- The remaining quota of a VF becomes an amount in nJ. It is an exhaustion if it was above zero and is no longer (R207). -/
def State.setLeft (s : State) (vf : Nat) (x : Int) : State :=
  let rest := s.spent.filter (· != vf)
  { s with
    quota := (vf, x) :: s.quota.filter (·.1 != vf),
    spent := if 0 < x then rest else if 0 < s.left vf then vf :: rest else s.spent }

/-- An amount in nJ added to the quota of the function of a context; the PF's is unlimited. -/
def State.credit (s : State) (asid : Nat) (amount : Int) : State :=
  match s.fnOf asid with
  | some (some vf) => s.setLeft vf (addQuota (s.left vf) amount)
  | _ => s

/-- A payer whose work falls into this interval of the meters (R205). -/
def State.owe (s : State) (p : Payer) : State := if s.unpaid.contains p then s else { s with unpaid := s.unpaid ++ [p] }

/-- Energy charged to a context's USED. -/
def State.charge (s : State) (asid : Nat) (nJ : Nat) : State := s.mapCtx asid (fun c => { c with used := c.used + nJ })

/-- The region of the hart in focus ends: the energy since the meter last charged the region (a free value,
notes/assumptions/21) is charged, the unused part of ENERGY returns to the quota or the excess is debited, and the
reservation, the grants and the freeze are released. -/
def State.releaseRegion (s : State) : State :=
  match s.hart.tl.region with
  | none => s
  | some r =>
    let (tail, s) := s.draw
    let h := s.hart
    let s := (s.charge h.asid tail).credit h.asid ((r.energy : Int) - (r.used + tail : Nat))
    s.mapHart (fun h => { h with
      cs := { h.cs with hstat := { h.cs.hstat with timed := false } },
      tl := { h.tl with region := none, lastLen := r.len, lastCyc := s.clock - r.start, lastResv := r.energy } })

/-- The word in the lanes has not retired: its side stands at it again, and what its retirement changed is as before (R86).
A flag that was set before it, or that an engine has merged since, stays. -/
def unretire (h : Hart) (w : LaneWord) : Hart :=
  { h with
    ve := { h.ve with pc := w.pc, lastPos := w.lastPos },
    cs := { h.cs with instret := h.cs.instret - 1, hrpc := w.hrpc, vprog := 0, first := w.first, firstPart := w.firstPart,
                      seed := w.seed, vflags := h.cs.vflags &&& ~~~w.flags } }

/-- The word whose beats are still in the lanes is abandoned: it has not retired, it writes no h register, and its
destination group may hold any part of its result (a free value). A word after it that needs no lanes and has retired
since leaves it retired (notes/assumptions/104). -/
def State.abandonLanes (s : State) : State :=
  let (part, s) := s.draw
  let s := if s.clock < s.hart.ve.lanesFree then
      match s.hart.ve.inLanes with
      | some w => s.mapHart (fun h => unretire h w)
      | none => s
    else s
  s.mapHart (fun h => { h with
    writes := h.writes.filterMap (fun w =>
      if w.lanes ≤ s.clock then some w
      else match w.reg with
        | .v n => some { w with mask := w.mask &&& part / 2 ^ (65536 * n) }
        | .m n => some { w with mask := w.mask &&& part / 2 ^ (65536 * n) }
        | _ => none),
    ve := { h.ve with lanesFree := 0, inLanes := none } })

/-- R79: the region's commands are cancelled, the tiles they write lose their stamps and hold unspecified values, and
the region is released. A word in its lanes is abandoned (R86); writes of fixed-latency words that have left them
complete. -/
def State.abortRegion (s : State) : State :=
  match s.hart.tl.region with
  | none => s
  | some _ =>
    let q := s.hart.tl.queue
    let s := s.abandonLanes.chargeCommands
    let s := q.foldl (fun s c => c.kind.tiles.foldl (fun s t => s.loseTile c.kind t) s) s
    (s.mapHart (fun h => { commitWrites h (fun _ => true) with bgath := none })).mapHart
      (fun h => { h with tl := { h.tl with queue := [] } }) |>.releaseRegion

/-! ### Both sides stop at a boundary -/

/-- PENDING as a status in a result word of BAR (R146). -/
def barPending : Nat := 4

/-- The result of a BAR word that is stopped after its arrival: PENDING, or LAST for a BARRIVE, which has no wait (R146,
R147). -/
def BarWait.settled (b : BarWait) : Word := BitVec.ofNat 64 ((if b.once then 1 else barPending) * 2 + b.tok.toNat)

/-- A word that had arrived at its barrier retires with PENDING, or as the BARRIVE it is; a BWAIT that waits will execute
afresh (R147; notes/assumptions/108). -/
def settleBarw (h : Hart) : Hart :=
  let h := match h.sc.barw with
    | none => h
    | some b =>
      if b.arrived then
        let h := gWrite h b.d b.settled
        { h with sc := { h.sc with pc := h.sc.pc + 4, barw := none }, cs := { h.cs with instret := h.cs.instret + 1 } }
      else { h with sc := { h.sc with barw := none } }
  match h.ve.barw with
  | none => h
  | some b =>
    if b.arrived then
      let h := hWrite h b.d b.settled
      { h with ve := { h.ve with pc := h.ve.pc + 4, lastPos := qposOf h, barw := none },
               cs := { h.cs with instret := h.cs.instret + 1, hrpc := if b.p then regAddr 0 h.ve.pc else h.cs.hrpc } }
    else { h with ve := { h.ve with barw := none } }

/-- The record of a hart that stops for a supervisor cause: WHERE, EPC and LAUNCH name it, as it stands at its boundary
(R147, R272). -/
def recordOf (h : Hart) (code : BitVec 8) : FaultRecord :=
  { cause := { code := code },
    epc := if h.life == .ending || h.life == .haltedEnding then 0 else regAddr 2 (settleBarw h).sc.pc,
    where_ := whereWord h.place, launch := h.launch }

/-- A WAIT that waits is stopped, and keeps its deadline (R71). -/
def stopWaits (h : Hart) : Hart :=
  { h with sc := { h.sc with wait0 := h.sc.wait0.map (fun w => { w with live := false }),
                             wait1 := h.sc.wait1.map (fun w => { w with live := false }) } }

/-- Both sides at their boundaries: a TBEGIN or BGATH that waits will execute afresh, and so will a word at a shared unit. -/
def stopSides (h : Hart) : Hart :=
  let h := stopWaits (settleBarw h)
  { h with bgath := none, ask := none, tl := { h.tl with request := none } }

/-- A BARRIVE that was last and has not acquired yet. -/
def lastStopped (b : Option BarWait) : Bool := b.any (fun b => b.once && b.arrived)

/-- Both sides of the hart in focus at their boundaries. A BARRIVE that was last acquires as it retires there: the copies
below the widest scope go, written back first (R145). -/
def State.stopBoth (s : State) : State :=
  let core := s.hart.place.core
  let s := if lastStopped s.hart.sc.barw || lastStopped s.hart.ve.barw then
      (s.l1Flush (fun x => x.core == core)).l2Flush (fun x => x.stack == core / 64)
    else s
  s.mapHart stopSides

/-! ### Halting (R54, R270, R271) -/

/-- A life Halted, which keeps what the hart was. -/
def Life.halt : Life → Life
  | .running => .haltedRunning
  | .handler => .haltedHandler
  | .ending => .haltedEnding
  | l => l

/-- A Halted life resumed. -/
def Life.resume : Life → Life
  | .haltedRunning => .running
  | .haltedHandler => .handler
  | .haltedEnding => .ending
  | l => l

/-- Where the vector side restarts: HRPC, as a program counter, whose low bits are 0 (R16, R74; notes/assumptions/37). -/
def restartPoint (h : Hart) : Word := h.cs.hrpc &&& BitVec.ofNat 64 (2 ^ 56 - 4)

/-- Arbiters of the cores: a queue leaves the turn order, and keeps no deficit, when its last hart there is Free or Halted (R286). -/
def State.settleArbiters (s : State) : State :=
  { s with arbiters := s.arbiters.map (fun a =>
      let here (h : Hart) : Bool := match a.arb with
        | .sequencer c sl => h.place.core == c && h.place.slot == sl
        | .array c | .copy c | .cleanup c | .fifo c | .fabric c => h.place.core == c
      let has (q : Nat) : Bool := s.harts.any (fun h => h.resident && here h && h.queue == q)
      { a with order := a.order.filter has, deficit := a.deficit.filter (fun x => has x.1) }) }

/-- The hart in focus is Halted at its boundary. A timed region is aborted, and the vector side will resume at HRPC. -/
def State.haltHart (s : State) : State :=
  let timed := s.hart.cs.hstat.timed
  let s := s.stopBoth.abortRegion.chargeCommands.owe { asid := s.hart.asid }
  let now := s.clock
  State.settleArbiters <| s.mapHart (fun h => { h with
    life := h.life.halt, saved := false,
    cs := { h.cs with cycles := cycleNow s h, since := now },
    ve := if timed then { h.ve with pc := restartPoint h } else h.ve })

/-- A change repeated on each hart that satisfies a test, until none does; `fuel` harts at most. -/
def State.onHarts (p : Hart → Bool) (f : State → State) : Nat → State → State
  | 0, s => s
  | fuel + 1, s =>
    match s.focusBy p with
    | some s => State.onHarts p f fuel (f s)
    | none => s

/-- Every hart that satisfies a test and is resident is Halted. -/
def State.haltAll (s : State) (p : Hart → Bool) : State :=
  s.onHarts (fun h => p h && h.resident) State.haltHart s.harts.length

/-! ### The state of a context (R269) -/

/-- Harts of a context that are not Free. -/
def State.hartsOf (s : State) (asid : Nat) : List Hart := s.harts.filter (·.asid == asid)

/-- The state of a context follows its harts: BOUND when none is left, HALTING when all are Halted, and SAVED when the
save of each is complete, where the PREEMPT requests are recorded and a kept resume is applied (R269, R272). A request
made of a context that never reaches SAVED is not recorded (notes/assumptions/52). -/
def State.settleContext (s : State) (asid : Nat) : State :=
  match s.ctx? asid with
  | none => s
  | some c =>
    let hs := s.hartsOf asid
    let live := c.state == .running || c.state == .halting || c.state == .saved || c.state == .resuming
    if !live then s
    else if hs.isEmpty then s.mapCtx asid (fun c => { c with state := .bound, resume := false, requests := [] })
    else if hs.all Hart.halted && (c.state == .running || c.state == .halting) then
      if hs.all (·.saved) then
        let s := c.requests.foldl (fun s r => s.record asid r) s
        s.mapCtx asid (fun c => { c with state := if c.resume then .resuming else .saved, resume := false, requests := [] })
      else s.mapCtx asid (fun c => { c with state := .halting })
    else s

/-! ### Quota exhaustion (R207, R277) -/

/-- The function of the hart is a VF whose quota is used up. -/
def State.exhausted (s : State) (asid : Nat) : Bool :=
  match s.fnOf asid with
  | some (some vf) => decide (s.left vf ≤ 0)
  | _ => false

/-- The contexts in whose records the exhaustion of a VF's quota is entered: those with harts among `hs`, or, where there is
none, every context of the function (notes/assumptions/57). -/
def exhaustedContexts (s : State) (vf : Nat) (hs : List Hart) : List Nat :=
  if hs.isEmpty then (s.contexts.filter (fun c => c.fn == some (some vf))).map (·.asid) else (hs.map (·.asid)).eraseDups

/-- The fault record of an exhaustion, which names the hart with the lowest WHERE. -/
def quotaRecord (hs : List Hart) : FaultRecord :=
  match (hs.mergeSort (fun x y => decide ((whereWord x.place).toNat ≤ (whereWord y.place).toNat))).head? with
  | some h => recordOf h causeQuota
  | none => { cause := { code := causeQuota } }

/-- QUOTA: if the quota of a VF is used up and a hart of its contexts runs, or the exhaustion has not been recorded, every
such hart is Halted; the cause is recorded once for each context that halts, or, where none runs, for those whose harts are
Halted already, and the host is told (R207, R272). -/
def State.quotaCheck (s : State) (vf : Nat) : State :=
  let mine (h : Hart) : Bool := s.fnOf h.asid == some (some vf)
  let first := s.harts.filter (fun h => mine h && h.resident)
  if 0 < s.left vf || (first.isEmpty && !s.spent.contains vf) then s else
  let named := if first.isEmpty then s.harts.filter mine else first
  let asids := exhaustedContexts s vf named
  let s := (s.haltAll mine).mapHarts (fun h => if first.any (·.uid == h.uid) then { h with quotaHalt := true } else h)
  let s := asids.foldl (fun s a => s.record a (quotaRecord (named.filter (·.asid == a)))) s
  let s := (first.map (·.asid)).eraseDups.foldl
    (fun s a => (s.mapCtx a (fun c => { c with hcause := causeQuota, resume := false })).settleContext a) s
  { s with spent := s.spent.filter (· != vf) }.raise (some vf) 5

/-- The check for the function of a context. -/
def State.quotaCheckFor (s : State) (asid : Nat) : State :=
  match s.fnOf asid with
  | some (some vf) => s.quotaCheck vf
  | _ => s

/-! ### Groups: abort (R304, R312) -/

def State.group (s : State) (id : Nat) : Group := (s.groups.find? (·.id == id)).getD { id := id }

def State.mapGroup (s : State) (id : Nat) (f : Group → Group) : State :=
  { s with groups := f (s.group id) :: s.groups.filter (·.id != id) }

/-- The bindings of a hart in a group's generation. -/
def bindings (h : Hart) (id : Nat) (gen : BitVec 8) : List (Nat × FabReg) :=
  (List.range 8).filterMap (fun i =>
    match vget h.f i none with
    | some f => if f.group == id && f.gen == gen then some (i, f) else none
    | none => none)

/-- HTVAL of GROUP: [23:8] group id, [7:0] generation (R77). -/
def groupVal (id : Nat) (gen : BitVec 8) : Word := BitVec.ofNat 64 (id * 256 + gen.toNat)

/-- A fault found after its word has retired becomes an engine fault of the hart (R159, R344; notes/assumptions/107). -/
def lateFault (s : State) (uid : Nat) (t : Trap) : State :=
  s.mapHarts (fun h => if h.uid == uid && h.life != .free then { h with tl := { h.tl with faults := h.tl.faults ++ [(t, none)] } } else h)

/-- The STATUS write of binding `i` of a hart. -/
def statusOf (h : Hart) (i : Nat) (f : FabReg) (v : Nat) : StatusWrite :=
  { uid := h.uid, asid := h.asid, launch := h.launch, place := h.place, reg := i, va := f.at_.toNat + 7, value := v }

/-- The write is for the binding that register `i` of a hart holds now. -/
def StatusWrite.isFor (w : StatusWrite) (uid i : Nat) : Bool := w.live && w.uid == uid && w.reg == i

/-- The hart a STATUS byte is written for, as far as its access needs it. -/
def StatusWrite.hart (w : StatusWrite) : Hart := { uid := w.uid, asid := w.asid, launch := w.launch, place := w.place }

/-- STATUS has been written: with 1 the binding is finished, if its register still holds it (R311). -/
def statusDone (s : State) (w : StatusWrite) : State :=
  if w.value = 1 ∧ w.live then
    s.mapHarts (fun h => if h.uid == w.uid then
      { h with f := Vector.ofFn (fun (i : Fin 8) =>
          if i.val = w.reg then (vget h.f i.val none).map (fun (f : FabReg) => { f with finished := true }) else vget h.f i.val none) }
    else h)
  else s

/-- A STATUS byte written as a one-byte vector-side write of its hart; none: it has to wait for a page. A write that
faults is lost, and the fault is an engine fault of the hart (notes/assumptions/30). -/
def tryStatus (s : State) (w : StatusWrite) : Option State :=
  match pointWrite s w.hart .other w.va 1 w.value with
  | .ok s => some (statusDone s w)
  | .error .wait => none
  | .error (.trap t) => some (statusDone (lateFault (noteWalk s t) w.uid t) w)
  | .error (.fault _) => some (statusDone s w)

/-- A STATUS byte written now, or as soon as its page admits it. -/
def statusWrite (s : State) (w : StatusWrite) : State := (tryStatus s w).getD { s with owed := s.owed ++ [w] }

/-- The first STATUS byte that waits and can be written now. -/
def statusReady (s : State) : Option State :=
  s.owed.findSome? (fun w => tryStatus { s with owed := s.owed.erase w } w)

/-- STATUS becomes 2 for binding `i`, unless it is 1 or about to be (R312). -/
def abortStatus (h : Hart) (s : State) (x : Nat × FabReg) : State :=
  if x.2.finished || s.owed.any (·.isFor h.uid x.1) then s else statusWrite s (statusOf h x.1 x.2 2)

/-- ABORTING passes to ABORTED when no local rank is bound (R301). Packets that are held stay held until the generation
moves on (R318). -/
def State.settleGroup (s : State) (id : Nat) : State :=
  let g := s.group id
  if g.state == .aborting && s.harts.all (fun h => (bindings h id g.gen).isEmpty) then
    s.mapGroup id (fun g => { g with state := .aborted })
  else s

/-- An asynchronous interrupt becomes pending in a cycle, once (R76). -/
def raiseIrq (now : Nat) (h : Hart) (t : Trap) : Hart :=
  if h.irqs.contains t then h else { h with irqs := h.irqs ++ [t], irqAt := if h.irqs.isEmpty then now else h.irqAt }

/-- The abort of a group takes effect at this package: every hart with a binding receives GROUP with SUB 2, each binding
that is not complete becomes ABORTED, and what has been staged, captured or held back by a fault is discarded (R304, R305,
R312; notes/assumptions/46). -/
def State.abortNow (s : State) (id : Nat) : State :=
  let g := s.group id
  let s := s.mapGroup id (fun g => { g with state := .aborting })
  let s := s.harts.foldl (fun s h => (bindings h id g.gen).foldl (abortStatus h) s) s
  let t : Trap := { code := causeGroup, sub := 2, val := groupVal id g.gen }
  let s := s.mapHarts (fun h =>
    if (bindings h id g.gen).isEmpty then h else
    let h := raiseIrq s.clock h t
    { h with
      f := h.f.map (fun x => match x with
        | some f => if f.group == id && f.gen == g.gen then some { f with aborted := true, staged := [], stuck := [], captured := [] }
          else some f
        | none => none) })
  s.settleGroup id

/-- The abort of a group that is OPEN or ACTIVE (R301, R304). -/
def State.abortGroup (s : State) (id : Nat) : State :=
  if (s.group id).state == .open_ || (s.group id).state == .active then s.abortNow id else s

/-- The context of a group is cancelled: any group but a FREE one is aborted (R301). -/
def State.cancelGroup (s : State) (id : Nat) : State := if (s.group id).state == .free then s else s.abortNow id

/-- The rank of a binding leaves its group: its JOINED bit, which says that a hart holds the rank, is cleared (R300,
R301). -/
def leaveRank (s : State) (f : FabReg) : State :=
  let g := s.group f.group
  if g.gen == f.gen then
    s.mapGroup f.group (fun g => { g with joined := g.joined &&& ~~~(1#64 <<< f.rank) })
  else s

/-! ### The end of a unit (R54, R292, R297) -/

/-- Grants of a launch that no hart of it needs any more are freed, with the store entries that lie in them. -/
def State.freeGrants (s : State) (launch : Word) (asid : Nat) : State :=
  let gone (g : Grant) : Bool := g.launch == launch && g.asid == asid &&
    s.harts.all (fun h => !(h.launch == launch && h.asid == asid && g.level.index h.place.core == g.at_))
  let ids := (s.grants.filter gone).map (·.gid)
  { s with grants := s.grants.filter (fun g => !gone g),
           cores := s.cores.map (fun c => { c with stores := c.stores.filter (fun e => !ids.contains e.gid) }) }

def State.launch? (s : State) (handle : Word) (asid : Nat) : Option Launch :=
  s.launches.find? (fun l => l.handle == handle && l.asid == asid)

def State.queue (s : State) (n : Nat) : Queue := (s.queues.find? (·.n == n)).getD { n := n }

def State.mapQueue (s : State) (n : Nat) (f : Queue → Queue) : State :=
  { s with queues := f (s.queue n) :: s.queues.filter (·.n != n) }

/-- Harts of the launches of a queue. -/
def State.queueHarts (s : State) (q : Nat) : List Hart :=
  s.harts.filter (·.queue == q)

/-- RUNNING passes to BOUND when the queue's last placed unit has ended and none waits for placement (R283). -/
def State.settleQueue (s : State) (q : Nat) : State :=
  if (s.queue q).state == .running && (s.queueHarts q).isEmpty &&
      s.launches.all (fun l => l.queue != q || !l.taken || l.units ≤ l.placed) then
    s.mapQueue q (fun x => { x with state := .bound })
  else s

/-- The hart in focus becomes Free: its place, grants, query contexts and binding state are released. Its position holds
its registers until the next unit starts there, the bindings of its operand tiles among them (DESIGN CHOICE,
notes/assumptions/125). -/
def State.freeHart (s : State) : State :=
  let h := s.hart
  let s := s.owe { asid := h.asid }
  let s := { s with
    hart := ({} : Hart),
    ended := { h with life := .free } :: s.ended.filter (fun (x : Hart) => x.place != h.place),
    cores := s.cores.map (fun (c : CoreUnit) => { c with queries := c.queries.filter (fun x => x.uid != h.uid) }) }
  let s := (s.freeGrants h.launch h.asid).settleContext h.asid
  let s := s.settleQueue h.queue
  s.settleArbiters

/-- The unit of the hart in focus is retired without completing: every group in which it holds a binding is aborted
(R304), its registers are unbound (R312), its region is aborted, and the hart becomes Free. -/
def State.retireUnit (s : State) : State :=
  let fs := (s.hart.f.toList.filterMap id).filter (fun f => (s.group f.group).gen == f.gen)
  let s := fs.foldl (fun s f => s.abortGroup f.group) s.abortRegion.chargeCommands
  let s := (s.mapHart (fun h => { h with f := Vector.replicate 8 none })).freeHart
  fs.foldl (fun s f => s.settleGroup f.group) s

end Sys2Proof.Machine
end

