-- ==== Sys2Proof/Machine/Arbiter.lean ====
section
/-!
DEFINITION. The arbiters of a core's shared units: deficit round-robin among queues (R285, R286).
-/

namespace Sys2Proof.Machine

/-! ### Lanes (R10, R198) -/

/-- The active lanes of the hart's slot; inside a timed region the frozen ones (R198). -/
def activeLanes (s : State) (h : Hart) : Nat :=
  match h.tl.region with
  | some r => r.alc
  | none => vget (s.core h.place.core).active h.place.slot 0

/-! ### Weights and quanta (R284, R286) -/

/-- A record that is not ignored: it is valid, its weight is not 0 and its SPLIT is the core's (R284). -/
def BindRecord.counts (u : CoreUnit) (b : BindRecord) : Bool := b.valid && b.weight != 0 && b.split == u.split

/-- WEIGHT of a queue at an arbiter: of its records for the slot, or for the core. -/
def arbWeight (s : State) (x : Arb) (q : Nat) : Nat :=
  let sum (core : Nat) (p : BindRecord → Bool) : Nat :=
    ((((s.core core).binds.filter (fun b => b.queue.toNat == q && b.counts (s.core core) && p b))).map (fun b => b.weight.toNat)).sum
  match x with
  | .sequencer c sl => sum c (fun b => b.n / 4 == sl)
  | .array c => sum c (fun _ => true)
  | .copy c => sum c (fun _ => true)
  | .cleanup c => sum c (fun _ => true)
  | .fifo c => sum c (fun _ => true)
  | .fabric c => sum c (fun _ => true)

/-- The quantum of a queue, in element-beats. -/
def quantum (s : State) (x : Arb) (q : Nat) : Nat :=
  arbWeight s x q * 256 * 2 ^ ((s.ctx? (s.queue q).asid).map (·.prio.toNat)).getD 0

/-! ### Deficits and turns (R286) -/

/-- A queue joins a turn order just before the queue that holds the turn. -/
def joinOrder (order : List Nat) (q : Nat) : List Nat := if order.contains q then order else order ++ [q]

/-- The arbiters at which a hart of a core and slot makes requests. -/
def arbitersOf (p : Place) : List Arb :=
  [.sequencer p.core p.slot, .array p.core, .copy p.core, .cleanup p.core, .fifo p.core, .fabric p.core]

/-- The queue of a hart that becomes resident joins the turn orders. -/
def joinArbiters (s : State) (p : Place) (q : Nat) : State :=
  (arbitersOf p).foldl (fun s x => let a := arbiter s x; setArbiter s { a with order := joinOrder a.order q }) s

/-- A turn order in which queue `q` holds the turn. -/
def rotateTo (order : List Nat) (q : Nat) : List Nat := order.dropWhile (· != q) ++ order.takeWhile (· != q)

/-- The queue that holds the turn may be served: it has a ready request, and its deficit is above zero. -/
def turnHolds (a : Arbiter) (ready : List Nat) : Bool :=
  match a.order with
  | [] => true
  | q :: _ => ready.contains q && decide (0 < a.deficitOf q)

/-- The turn passes to the next queue with a ready request, which gains its quantum. A queue that gives the turn up with
no ready request keeps no deficit above zero. -/
def passTurn (s : State) (ready : List Nat) (a : Arbiter) : Arbiter :=
  match a.order with
  | [] => a
  | q :: rest =>
    let a := if !ready.contains q && decide (0 < a.deficitOf q) then a.setDeficit q 0 else a
    match (rest ++ [q]).find? ready.contains with
    | none => a
    | some n => { a with order := rotateTo a.order n }.setDeficit n (a.deficitOf n + quantum s a.arb n)

/-- Turns that pass until the queue that holds one may be served; `fuel` of them at most. -/
def passTurns (s : State) (ready : List Nat) : Nat → Arbiter → Arbiter
  | 0, a => a
  | fuel + 1, a => if turnHolds a ready then a else passTurns s ready fuel (passTurn s ready a)

/-- Turns enough for some queue with a ready request to come out of its overdraft. -/
def turnFuel (s : State) (ready : List Nat) (a : Arbiter) : Nat :=
  (ready.map (fun q => (-(a.deficitOf q)).toNat / quantum s a.arb q + 2)).sum * (a.order.length + 1)

/-- An arbiter as it stands when the queues of `ready` have ready requests. -/
def turnOf (s : State) (x : Arb) (ready : List Nat) : Arbiter :=
  let a := arbiter s x
  passTurns s ready (turnFuel s ready a) a

/-- A request of a queue is served now. A queue whose harts are not in the order is not held up, and neither is one
where no queue that waits has a quantum, because its bind records were removed (notes/assumptions/24). -/
def serves (s : State) (ready : List Nat) (a : Arbiter) (q : Nat) : Bool :=
  !a.order.contains q || ready.all (fun r => quantum s a.arb r == 0) || (a.order.head? == some q && turnHolds a ready)

/-- The turn settled, where the arbiter has queues. -/
def settleTurn (s : State) (x : Arb) (ready : List Nat) : State :=
  if (arbiter s x).order.isEmpty then s else setArbiter s (turnOf s x ready)

/-! ### Requests of words at the shared units (R285, R286)

A word of the vector side that needs the clean-up unit, the fabric port or an entry of the vertical FIFO asks for it as it
issues, and waits while the unit is busy or another request's turn comes before it. -/

/-- The clock from which a unit is free for another request. An entry of a FIFO is asked for only where one is free. -/
def unitFree (s : State) : Arb → Nat
  | .cleanup c => (s.core c).cleanFree
  | .fabric c => (s.core c).portFree
  | _ => 0

/-- A unit is occupied for `n` cycles, after what it has taken on already. -/
def occupyUnit (s : State) (x : Arb) (n : Nat) : State :=
  let t := max (unitFree s x) s.clock + n
  match x with
  | .cleanup c => s.mapCore c (fun u => { u with cleanFree := t })
  | .fabric c => s.mapCore c (fun u => { u with portFree := t })
  | _ => s

/-- The request of a hart that waits at a unit: it stands at the word that made it. -/
def Hart.asks (h : Hart) (x : Arb) : Option UnitAsk :=
  if h.resident then h.ask.bind (fun a => if a.arb == x && a.addr == h.ve.pc then some a else none) else none

/-- The requests of other harts that wait at a unit: the queue, and the clock since which each waits. -/
def waitingAt (s : State) (x : Arb) : List (Nat × Nat) :=
  s.parked.filterMap (fun h => (h.asks x).map (fun a => (h.queue, a.since)))

/-- Since when the hart in focus waits at a unit. -/
def askedAt (s : State) (x : Arb) : Nat := ((s.hart.asks x).map (·.since)).getD s.clock

/-- The unit serves the hart in focus now: it is free, the turn is its queue's, and of the queue's harts it has waited
longest. A hart inside a timed region holds the units from TBEGIN on. None: the word waits. -/
def takeUnit (s : State) (x : Arb) : Option State :=
  let ask (s : State) : State := s.mapHart (fun h => { h with ask := none })
  if s.clock < unitFree s x then none
  else if (arbiter s x).order.isEmpty || s.hart.cs.hstat.timed then some (ask s)
  else
    let l := waitingAt s x
    let ready := (s.hart.queue :: l.map (·.1)).eraseDups
    let a := turnOf s x ready
    if serves s ready a s.hart.queue && l.all (fun y => y.1 != s.hart.queue || decide (askedAt s x ≤ y.2)) then
      some (ask (setArbiter s a))
    else none

/-- A served request charged 32 for each of the cycles it occupies the unit (R285). -/
def chargeUnit (s : State) (x : Arb) (n : Nat) : State := occupyUnit (chargeTurn s x s.hart.queue (32 * n)) x n

/-- The sequencer of the issuing hart's slot charged for a word that holds the lanes for `n` beats: n · A (R285). -/
def chargeSequencer (s : State) (n : Nat) : State :=
  chargeTurn s (.sequencer s.hart.place.core s.hart.place.slot) s.hart.queue (n * activeLanes s s.hart)

end Sys2Proof.Machine
end

