-- ==== Sys2Proof/Machine/Ops.lean ====
section
/-!
DEFINITION. The operations every instruction is built from: retirement, waiting, taking an exception and returning from
one, and the two ways a word is run (R16, R17, R21, R29 to R31, R71 to R76).
-/

namespace Sys2Proof.Machine

/-- The outcome of a step of this machine. -/
abbrev Outcome := Host.Outcome State Fault Refusal

/-! ### Program counters -/

/-- The program counter of the issuing side. -/
def pcOf (s : State) : Word :=
  match s.issue.side with
  | .scalar => s.hart.sc.pc
  | .vector => s.hart.ve.pc

/-- The issuing side may issue its next word from cycle `t` on. -/
def readyFrom (s : State) (t : Nat) : State :=
  match s.issue.side with
  | .scalar => s.mapHart (fun h => { h with sc := { h.sc with readyAt := t } })
  | .vector => s.mapHart (fun h => { h with ve := { h.ve with readyAt := t } })

/-- The word retires and the side goes on at `next`: INSTRET counts it, the stall count is spent, and on the vector side
VPROG reads 0 again, a P mark moves HRPC to the word's address, and the slot's sequencer charges the word (R17, R29, R63,
R285). -/
def retireTo (s : State) (next : Word) : State :=
  let s := readyFrom s (s.clock + 1 + s.issue.s.toNat)
  match s.issue.side with
  | .scalar => s.mapHart (fun h =>
      { h with sc := { h.sc with pc := next }, cs := { h.cs with instret := h.cs.instret + 1 } })
  | .vector => (chargeSequencer s s.issue.beats).mapHart (fun h =>
      { h with ve := { h.ve with pc := next, lastPos := qposOf h, inLanes := none },
               cs := { h.cs with instret := h.cs.instret + 1, vprog := 0,
                                 hrpc := if s.issue.p then regAddr 0 h.ve.pc else h.cs.hrpc } })

/-- The word retires and the side goes on with the word after it. -/
def retire (s : State) : State := retireTo s (pcOf s + 4)

/-- The word waits: it stays unretired and is issued again from the next cycle on. -/
def stall (s : State) : State := readyFrom s (s.clock + 1)

/-- The word waits at a unit of the core, and its request stands there (R286). -/
def awaitUnit (s : State) (x : Arb) : State :=
  let since := askedAt s x
  (stall s).mapHart (fun h => { h with ask := some ⟨x, h.ve.pc, since⟩ })

/-- A word's work at a unit of the core: it is done when the unit serves the word, which waits until then. -/
def atUnit (s : State) (x : Arb) (body : State → Except Stop State) : Except Stop State :=
  match takeUnit s x with
  | some s => body s
  | none => .ok (awaitUnit s x)

/-! ### Taking an exception (R73, R75) -/

/-- Who raised a trap. -/
inductive TrapSource where
  | scalar | vector | interrupt
  deriving DecidableEq, Repr, Inhabited

def sourceOf : Side → TrapSource
  | .scalar => .scalar
  | .vector => .vector

/-- HTVEC.ADDR = 0: the hart has no handler. -/
def noHandler (h : Hart) : Bool := h.cs.htvec.toNat / 8 % 2 ^ 53 == 0

/-- The scalar word HEPC names: none while the hart is Ending (R73). -/
def epcOf (h : Hart) : Word := if h.life == .ending then 0 else regAddr 2 h.sc.pc

/-- The fault record of a trap that goes to the supervisor (R75, R272). -/
def trapRecord (h : Hart) (t : Trap) (src : TrapSource) (eng : Bool) (qpos : Word) : FaultRecord :=
  { cause := { int := src == .interrupt, vs := src == .vector, eng := eng, sub := t.sub, code := t.code },
    tval := t.val, epc := epcOf h, qpos := if src == .vector then qpos else 0,
    where_ := whereWord h.place, launch := h.launch }

/-- A delivered GROUP trap unbinds: with SUB 1 the register of its word, with SUB 2 every register bound to its group. An
interrupt still pending for a group in which no binding is left is withdrawn (R312). -/
def unbindGroup (h : Hart) (t : Trap) (w : BitVec 32) : Hart :=
  if t.code == causeGroup && (t.sub == 1 || t.sub == 2) then
    let mine (x : Option FabReg) : Bool := x.any (fun f => groupVal f.group f.gen == t.val)
    let f : Vector (Option FabReg) 8 := Vector.ofFn (fun (i : Fin 8) =>
      let x := vget h.f i.val none
      if mine x && (t.sub == 2 || i.val == (fieldA w).toNat) then none else x)
    { h with
      f := f,
      irqs := if f.toList.any mine then h.irqs else h.irqs.filter (fun i => !(i.code == causeGroup && i.val == t.val)) }
  else h

/-- Delivery to the hart's handler (R73). -/
def deliver (s : State) (t : Trap) (src : TrapSource) (eng : Bool) (qpos : Word) : State :=
  let timed := s.hart.cs.hstat.timed
  let ending := s.hart.life == .ending
  let s := s.stopBoth.abortRegion
  let now := s.clock
  let s := s.mapHart (fun h => unbindGroup
    { h with
      life := .handler,
      sc := { h.sc with pc := h.cs.htvec, readyAt := max h.sc.readyAt (now + 1) },
      ve := { h.ve with loops := [] },
      cs := { h.cs with
        hcause := { int := src == .interrupt, vs := src == .vector, vrs := timed, ta := timed, exit := ending,
                    eng := eng, sub := t.sub, code := t.code },
        htval := t.val,
        hqpos := if src == .vector then qpos else h.cs.hqpos,
        hepc := epcOf h,
        hstat := { h.cs.hstat with timed := false, pie := h.cs.hstat.ie, phl := h.cs.hstat.hl, hl := true, ie := false } } } t s.issue.word)
  let s := if t.code == causeGroup then s.settleGroup (t.val.toNat / 256) else s
  if timed then s.quotaCheckFor s.hart.asid else s

/-- A trap of the hart in focus is taken: delivered to its handler, or, at level 1 or without a handler, sent to the
supervisor, where it halts the hart or retires its unit (R73, R75). The failing access's walk leaves its A mark. -/
def takeTrap (s : State) (t : Trap) (src : TrapSource) (eng : Bool := false) (at_ : Option Word := none) : State :=
  let s := noteWalk { s with issue := { s.issue with trapped := true } } t
  let qpos := at_.getD (qposOf s.hart)
  if s.hart.cs.hstat.hl then
    let asid := s.hart.asid
    let r := trapRecord (settleBarw s.hart) t src eng qpos
    ((s.haltHart.record asid r).settleContext asid).quotaCheckFor asid
  else if noHandler s.hart then
    let asid := s.hart.asid
    let r := trapRecord (settleBarw s.hart) t src eng qpos
    (s.retireUnit.record asid r).quotaCheckFor asid
  else deliver s t src eng qpos

/-! ### Returning from an exception (R71, R74) -/

/-- ERET at level 1: HL and IE are restored, the scalar side resumes at HEPC, or, with EXIT, stays stopped and the hart
is Ending again; with VRS the vector side resumes at HRPC. -/
def returnFromTrap (s : State) : State :=
  let c := s.hart.cs
  let s := retireTo s (if c.hcause.exit then s.hart.sc.pc else c.hepc)
  s.mapHart (fun h => { h with
    life := if c.hcause.exit then .ending else .running,
    cs := { h.cs with hstat := { h.cs.hstat with hl := c.hstat.phl, ie := c.hstat.pie } },
    ve := if c.hcause.vrs && h.ve.block.isSome then { h.ve with pc := restartPoint h } else h.ve })

/-! ### Running a word -/

/-- Any scalar-side word but the WAIT itself discards the WAIT record of its level (R71). -/
def discardWait (s : State) : State :=
  match s.issue.side with
  | .vector => s
  | .scalar => s.mapHart (fun h =>
      if h.cs.hstat.hl then { h with sc := { h.sc with wait1 := none } } else { h with sc := { h.sc with wait0 := none } })

/-- The side mark admits the executing side (R20). -/
def markAdmits : SideMark → Side → Bool
  | .s, .scalar => true
  | .v, .vector => true
  | .b, _ => true
  | _, _ => false

/-- The instruction word as HTVAL holds it. -/
def wordVal (s : State) : Word := s.issue.word.setWidth 64

def illegal (s : State) : Trap := { code := causeIllegal, val := wordVal s }
def illside (s : State) : Trap := { code := causeIllside, val := wordVal s }
def illtype (s : State) : Trap := { code := causeIlltype, val := wordVal s }
def priv (s : State) : Trap := { code := causePriv, val := wordVal s }

/-- A word that depends on VTYPE fits it: VTYPE is well formed and satisfies the word's test (R28). -/
def fits (s : State) (test : VType → Bool) : Bool :=
  match s.hart.cs.vtype with
  | some t => test t
  | none => false

/-- VTYPE of the hart in focus; the default where it is ill-formed. -/
def vtypeOf (s : State) : VType := s.hart.cs.vtype.getD default

/-- Steps 2 to 5 of R21: the side, the fields, and VTYPE, which a word either fits or does not depend on. -/
def precheck (s : State) (mark : SideMark) (wf fit : Bool) : Option Trap :=
  if !markAdmits mark s.issue.side then some (illside s)
  else if !wf then some (illegal s)
  else if !fit then some (illtype s)
  else none

/-- How a word ends. -/
def finish (s : State) : Except Stop State → Outcome
  | .ok t => .next t
  | .error (.trap t) => .next (takeTrap s t (sourceOf s.issue.side))
  | .error (.fault f) => .fault f
  | .error .wait => .next (stall s)

/-- The register-die state a register keeps poison under (R81). -/
def RegId.poisonKey : RegId → Option (Nat × Nat)
  | .v n => some (0, n)
  | .m n => some (1, n)
  | .h n => some (2, n)
  | .g _ => none

/-- UNCORR with SUB 1 for a kind and number (R77, R81). -/
def uncorrReg (k n : Nat) : Trap := { code := causeUncorr, sub := 1, val := BitVec.ofNat 64 (k * 256 + n) }

/-- The first read of poisoned register-die state (R80). -/
def poisonedRead (h : Hart) (reads : List RegId) : Option Trap :=
  if h.poison.isEmpty then none
  else (reads.filterMap RegId.poisonKey).findSome? (fun k => if h.poison.contains k then some (uncorrReg k.1 k.2) else none)

/-- The number of a register, as UNDERSTALL reports it. -/
def RegId.number : RegId → Nat
  | .g n => n
  | .h n => n
  | .v n => n
  | .m n => n

/-- The cycle after which every write under way to one of these registers is visible. -/
def lastDue (h : Hart) (uses : List RegId) : Option Nat :=
  h.writes.foldl (fun a w => if uses.contains w.reg then some (max (a.getD 0) w.due) else a) none

/-- A word that is interlocked everywhere (R29), the WAIT records apart. Inside a timed region it waits for the writes
of fixed-latency words to the registers it reads or writes. `deny` is its check of privilege (step 6 of R21). -/
def runInterlocked (s : State) (mark : SideMark) (wf fit : Bool) (deny : State → Option Trap) (reads writes : List RegId)
    (body : State → Except Stop State) : Outcome :=
  match precheck s mark wf fit with
  | some t => finish s (.error (.trap t))
  | none =>
    let s := s.mapHart (fun h => commitWrites h (fun w => decide (w.due < s.clock)))
    match lastDue s.hart (reads ++ writes) with
    | some due => .next (readyFrom s (due + 1))
    | none =>
      match (deny s).or (poisonedRead s.hart reads) with
      | some t => finish s (.error (.trap t))
      | none => finish s (body s)

/-- Any interlocked word but WAIT. -/
def runPlain (s : State) (mark : SideMark) (wf fit : Bool) (reads writes : List RegId)
    (body : State → Except Stop State) : Outcome :=
  runInterlocked (discardWait s) mark wf fit (fun _ => none) reads writes body

/-- An interlocked word that learns only in its course that it reads or writes these registers waits for the writes under
way to them (R29, R30). -/
def awaitWrites (s : State) (uses : List RegId) : Except Stop Unit :=
  if (lastDue s.hart uses).isSome then .error .wait else .ok ()

/-- The same for registers it reads, whose poison it meets there (R80). -/
def awaitReads (s : State) (uses : List RegId) : Except Stop Unit := do
  awaitWrites s uses
  match poisonedRead s.hart uses with
  | some t => .error (.trap t)
  | none => .ok ()

/-- A trap of a word whose completed steps stay committed in `s`; any other stop stands (R78). -/
def trapAfter (s : State) : Stop → Except Stop State
  | .trap t => .ok (takeTrap s t (sourceOf s.issue.side))
  | e => .error e

/-- What a fixed-latency word does: the state but for its register writes, the writes, and, for a word that is stopped at
an element boundary, the boundary (R86). -/
structure Result where
  state  : State
  writes : List RegWrite
  part   : Option Nat := none

/-- The time a fixed-latency word takes: the beats it holds the lanes of its slot, none for a scalar-side word, and the
cycles from its issue to its last write (R30, R85). -/
structure Timing where
  beats  : Nat
  cycles : Nat
  deriving DecidableEq, Repr, Inhabited

/-- A read of the register returns an older value than its latest write's: that write is still under way, or an older one
completed after it (R31). -/
def readsOld (h : Hart) (r : RegId) : Bool :=
  h.stale.contains r || h.writes.any (fun w => w.reg == r && !w.late)

/-- UNDERSTALL: a read that would return an older value than the latest earlier write's, or a write that would complete
before an older write to its register (R31). Words of either side raise it, and it names the first such read in operand
order, or else the first such write (notes/assumptions/99). Nothing is written to g0. -/
def understall (h : Hart) (reads writes : List RegId) (done : Nat) : Option Trap :=
  let trap (r : RegId) : Trap := { code := causeUnderstall, val := BitVec.ofNat 64 r.number }
  match reads.find? (fun r => r != .g 0 && readsOld h r) with
  | some r => some (trap r)
  | none => (writes.find? (fun r => r != .g 0 && h.writes.any (fun w => w.reg == r && decide (done < w.due)))).map trap

/-- The writes of a fixed-latency word: performed at once outside timed regions, where R29 interlocks, and in the cycle
in which they complete inside one (R30). -/
def State.perform (s : State) (ws : List RegWrite) (lat : Timing) : State :=
  let s := if lat.beats = 0 then s else { s with issue := { s.issue with beats := lat.beats } }
  if s.hart.cs.hstat.timed then
    let free := if lat.beats = 0 then 0 else s.clock + lat.beats
    s.mapHart (fun h => { h with
      writes := h.writes ++ ws.map (fun w => ⟨w.reg, w.value, w.mask, s.clock + lat.cycles, free, false⟩),
      ve := { h.ve with lanesFree := max h.ve.lanesFree free } })
  else s.mapHart (fun h => applyWrites h ws)

/-- A word of `n` beats holds the lanes of its slot from its issue on (R85, R126). -/
def holdLanes (s : State) (n : Nat) : State :=
  if s.hart.cs.hstat.timed then
    s.mapHart (fun h => { h with ve := { h.ve with lanesFree := max h.ve.lanesFree (s.clock + n) } })
  else s

/-- Inside a timed region a fixed-latency word with beats that has retired is in the lanes; `before` is the hart at its
issue (R86). -/
def enterLanes (s : State) (before : Hart) (lat : Timing) : State :=
  if s.hart.cs.hstat.timed && lat.beats != 0 then
    s.mapHart (fun h => { h with ve := { h.ve with
      inLanes := some ⟨before.ve.pc, before.cs.hrpc, before.ve.lastPos, before.cs.first, before.cs.firstPart, before.cs.seed,
        h.cs.vflags &&& ~~~before.cs.vflags⟩ } })
  else s

/-- Inside a timed region a word with beats waits until the last beat of the word before it has left the lanes (R85). -/
def lanesTaken (s : State) (lat : Timing) : Bool :=
  s.hart.cs.hstat.timed && lat.beats != 0 && decide (s.clock < s.hart.ve.lanesFree)

/-- A fixed-latency word that takes the time `lat` (R30, R31, R85). -/
def runFixed (s : State) (mark : SideMark) (wf fit : Bool) (reads writes : List RegId) (lat : Timing)
    (body : State → Except Stop Result) : Outcome :=
  let s := discardWait s
  match precheck s mark wf fit with
  | some t => finish s (.error (.trap t))
  | none =>
    let s := s.mapHart (fun h => commitWrites h (fun w => decide (w.due < s.clock)))
    if lanesTaken s lat then .next (readyFrom s s.hart.ve.lanesFree) else
    match (if s.hart.cs.hstat.timed && s.hart.cs.hstat.schk then understall s.hart reads writes (s.clock + lat.cycles)
           else none) with
    | some t => finish s (.error (.trap t))
    | none =>
      match poisonedRead s.hart reads with
      | some t => finish s (.error (.trap t))
      | none =>
        match body s with
        | .error e => finish s (.error e)
        | .ok r =>
          match r.part with
          | none => .next (enterLanes (retire (r.state.perform r.writes lat)) s.hart lat)
          | some n => .next (stall (r.state.mapHart (fun h =>
              let h := applyWrites h r.writes
              { h with cs := { h.cs with vprog := BitVec.ofNat 64 n } })))

/-! ### Register lists -/

/-- The registers of a group of `n` that begins at v[r]. -/
def vGroup (r n : Nat) : List RegId := (List.range n).map (fun i => .v (r + i))

/-- A scalar operand of a B-marked word. -/
def xReg (s : State) (r : Nat) : RegId :=
  match s.issue.side with
  | .scalar => .g r
  | .vector => .h r

/-- Register fields of a B-marked word are admitted on the executing side: g0 to g31, or h0 to h15 (R19). -/
def xOk (s : State) (rs : List (BitVec 5)) : Bool :=
  match s.issue.side with
  | .scalar => true
  | .vector => rs.all isH

end Sys2Proof.Machine
end

