-- ==== Sys2Proof/Machine/IntAlu.lean ====
section
/-!
DEFINITION. INT, INT2, INTI, LIS and SHIM: scalar integer arithmetic (R64 to R66).
-/

namespace Sys2Proof.Machine

/-- g[r] as a register whose writes can be under way; g0 has none. -/
def gReg (r : BitVec 5) : List RegId := if r = 0#5 then [] else [.g r.toNat]

/-- A scalar register operation of latency `lat`: it reads `rs`, and g[d] receives the result (R64). -/
def scalarOp (s : State) (rs : List (BitVec 5)) (d : BitVec 5) (lat : Nat) (f : Hart → Word) : Outcome :=
  runFixed s .s true true (rs.flatMap gReg) (gReg d) ⟨0, lat⟩
    (fun s => .ok ⟨s, [RegWrite.whole (.g d.toNat) (f s.hart).toNat], none⟩)

/-- An operation on g[a] and g[b]. -/
def binaryOp (s : State) (d a b : BitVec 5) (lat : Nat) (f : Word → Word → Word) : Outcome :=
  scalarOp s [a, b] d lat (fun h => f (gRead h a.toNat) (gRead h b.toNat))

/-- An operation on g[a]. -/
def unaryOp (s : State) (d a : BitVec 5) (lat : Nat) (f : Word → Word) : Outcome :=
  scalarOp s [a] d lat (fun h => f (gRead h a.toNat))

/-- A truth value as a register value. -/
def ofBool (b : Bool) : Word := if b then 1 else 0

/-- The high half of a signed product. -/
def mulHigh (a b : Word) : Word := BitVec.ofInt 64 (a.toInt * b.toInt / 2 ^ 64)
/-- The high half of an unsigned product. -/
def mulHighN (a b : Word) : Word := BitVec.ofNat 64 (a.toNat * b.toNat / 2 ^ 64)
/-- DIV: the quotient rounded toward zero; all ones for a zero divisor. -/
def divSigned (a b : Word) : Word := if b = 0 then ones64 else BitVec.ofInt 64 (a.toInt.tdiv b.toInt)
def divUnsigned (a b : Word) : Word := if b = 0 then ones64 else BitVec.ofNat 64 (a.toNat / b.toNat)
/-- REM: the remainder with the dividend's sign; the dividend for a zero divisor. -/
def remSigned (a b : Word) : Word := if b = 0 then a else BitVec.ofInt 64 (a.toInt.tmod b.toInt)
def remUnsigned (a b : Word) : Word := if b = 0 then a else BitVec.ofNat 64 (a.toNat % b.toNat)
/-- A shift amount b[5:0]. -/
def shiftOf (b : Word) : Nat := b.toNat % 64

/-- ADD (R64). -/
def execAdd (d a b : BitVec 5) (s : State) : Outcome :=
  binaryOp s d a b 1 (fun x y => x + y)

/-- SUB (R64). -/
def execSub (d a b : BitVec 5) (s : State) : Outcome :=
  binaryOp s d a b 1 (fun x y => x - y)

/-- AND (R64). -/
def execAnd (d a b : BitVec 5) (s : State) : Outcome :=
  binaryOp s d a b 1 (fun x y => x &&& y)

/-- OR (R64). -/
def execOr (d a b : BitVec 5) (s : State) : Outcome :=
  binaryOp s d a b 1 (fun x y => x ||| y)

/-- XOR (R64). -/
def execXor (d a b : BitVec 5) (s : State) : Outcome :=
  binaryOp s d a b 1 (fun x y => x ^^^ y)

/-- ANDN (R64). -/
def execAndn (d a b : BitVec 5) (s : State) : Outcome :=
  binaryOp s d a b 1 (fun x y => x &&& ~~~y)

/-- SHL (R64). -/
def execShl (d a b : BitVec 5) (s : State) : Outcome :=
  binaryOp s d a b 1 (fun x y => x <<< shiftOf y)

/-- SHR (R64). -/
def execShr (d a b : BitVec 5) (s : State) : Outcome :=
  binaryOp s d a b 1 (fun x y => x >>> shiftOf y)

/-- SRA (R64). -/
def execSra (d a b : BitVec 5) (s : State) : Outcome :=
  binaryOp s d a b 1 (fun x y => x.sshiftRight (shiftOf y))

/-- MUL (R64). -/
def execMul (d a b : BitVec 5) (s : State) : Outcome :=
  binaryOp s d a b 4 (fun x y => x * y)

/-- MULH (R64). -/
def execMulh (d a b : BitVec 5) (s : State) : Outcome :=
  binaryOp s d a b 4 mulHigh

/-- MULHN (R64). -/
def execMulhn (d a b : BitVec 5) (s : State) : Outcome :=
  binaryOp s d a b 4 mulHighN

/-- DIV (R64). -/
def execDiv (d a b : BitVec 5) (s : State) : Outcome :=
  binaryOp s d a b 40 divSigned

/-- DIVN (R64). -/
def execDivn (d a b : BitVec 5) (s : State) : Outcome :=
  binaryOp s d a b 40 divUnsigned

/-- REM (R64). -/
def execRem (d a b : BitVec 5) (s : State) : Outcome :=
  binaryOp s d a b 40 remSigned

/-- REMN (R64). -/
def execRemn (d a b : BitVec 5) (s : State) : Outcome :=
  binaryOp s d a b 40 remUnsigned

/-- SLT (R64). -/
def execSlt (d a b : BitVec 5) (s : State) : Outcome :=
  binaryOp s d a b 1 (fun x y => ofBool (x.slt y))

/-- SLTN (R64). -/
def execSltn (d a b : BitVec 5) (s : State) : Outcome :=
  binaryOp s d a b 1 (fun x y => ofBool (x.ult y))

/-- MIN (R64). -/
def execMin (d a b : BitVec 5) (s : State) : Outcome :=
  binaryOp s d a b 1 (fun x y => if x.slt y then x else y)

/-- MAX (R64). -/
def execMax (d a b : BitVec 5) (s : State) : Outcome :=
  binaryOp s d a b 1 (fun x y => if x.slt y then y else x)

/-- MINN (R64). -/
def execMinn (d a b : BitVec 5) (s : State) : Outcome :=
  binaryOp s d a b 1 (fun x y => if x.ult y then x else y)

/-- MAXN (R64). -/
def execMaxn (d a b : BitVec 5) (s : State) : Outcome :=
  binaryOp s d a b 1 (fun x y => if x.ult y then y else x)

/-- CLZ (R64). -/
def execClz (d a : BitVec 5) (s : State) : Outcome :=
  unaryOp s d a 1 (fun x => word (leadingZeros 64 x.toNat))

/-- CTZ (R64). -/
def execCtz (d a : BitVec 5) (s : State) : Outcome :=
  unaryOp s d a 1 (fun x => word (trailingZeros 64 x.toNat))

/-- POPC (R64). -/
def execPopc (d a : BitVec 5) (s : State) : Outcome :=
  unaryOp s d a 1 (fun x => word (popCount 64 x.toNat))

/-- ROTL (R64). -/
def execRotl (d a b : BitVec 5) (s : State) : Outcome :=
  binaryOp s d a b 1 (fun x y => x.rotateLeft (shiftOf y))

/-- SEL: old g[d] selects (R64). -/
def execSel (d a b : BitVec 5) (s : State) : Outcome :=
  scalarOp s [a, b, d] d 1 (fun h => if gRead h d.toNat != 0 then gRead h a.toNat else gRead h b.toNat)

/-- ADDI (R65). -/
def execAddi (d a : BitVec 5) (i : BitVec 9) (s : State) : Outcome :=
  unaryOp s d a 1 (fun x => x + i.signExtend 64)

/-- ANDI (R65). -/
def execAndi (d a : BitVec 5) (i : BitVec 9) (s : State) : Outcome :=
  unaryOp s d a 1 (fun x => x &&& i.signExtend 64)

/-- ORI (R65). -/
def execOri (d a : BitVec 5) (i : BitVec 9) (s : State) : Outcome :=
  unaryOp s d a 1 (fun x => x ||| i.signExtend 64)

/-- XORI (R65). -/
def execXori (d a : BitVec 5) (i : BitVec 9) (s : State) : Outcome :=
  unaryOp s d a 1 (fun x => x ^^^ i.signExtend 64)

/-- SLTI (R65). -/
def execSlti (d a : BitVec 5) (i : BitVec 9) (s : State) : Outcome :=
  unaryOp s d a 1 (fun x => ofBool (x.slt (i.signExtend 64)))

/-- SHLI (R65). -/
def execShli (d a : BitVec 5) (i : BitVec 6) (s : State) : Outcome :=
  unaryOp s d a 1 (fun x => x <<< i.toNat)

/-- SHRI (R65). -/
def execShri (d a : BitVec 5) (i : BitVec 6) (s : State) : Outcome :=
  unaryOp s d a 1 (fun x => x >>> i.toNat)

/-- SRAI (R65). -/
def execSrai (d a : BitVec 5) (i : BitVec 6) (s : State) : Outcome :=
  unaryOp s d a 1 (fun x => x.sshiftRight i.toNat)

/-- LIS (R66). -/
def execLis (d : BitVec 5) (i : BitVec 17) (s : State) : Outcome :=
  scalarOp s [] d 1 (fun _ => i.signExtend 64)

/-- SHIM: g[d] is source and destination (R66). -/
def execShim (d : BitVec 5) (i : BitVec 17) (s : State) : Outcome :=
  scalarOp s [d] d 1 (fun h => (gRead h d.toNat <<< 17) ||| i.setWidth 64)

end Sys2Proof.Machine
end

