-- ==== Sys2Proof/Machine/Amo.lean ====
section
/-!
DEFINITION. AMO: atomic operations on doublewords (R129, R140).
-/

namespace Sys2Proof.Machine

/-- An AMO: `f` forms the new value from the old one, g[b], and the value g[d] held at issue. -/
def amoOp (s : State) (d a b : BitVec 5) (c : BitVec 3) (f : Word → Word → Word → Word) : Outcome :=
  runPlain s .s (isScope c) true (gReg a ++ gReg b ++ gReg d) [] (fun s => do
    let va := (gRead s.hart a.toNat).toNat
    let x := gRead s.hart b.toNat
    let e := gRead s.hart d.toNat
    if va % 8 != 0 then .error (.trap (misalign va))
    else
      let (l, s) ← amoLocate s .write true c.toNat va
      let core := s.hart.place.core
      let (old, s) := amoRead s core c.toNat l.loc 8
      let old := word old
      match amoPut s core c.toNat l.loc 8 (f old x e).toNat with
      | .error w => .error (writeTrap va l w)
      | .ok s => .ok (retire ((markAccess s l .write .other).mapHart (fun h => gWrite h d.toNat old))))

/-- AMO.ADD (R140). -/
def execAmoAdd (d a b : BitVec 5) (c : BitVec 3) (s : State) : Outcome := amoOp s d a b c (fun o x _ => o + x)
/-- AMO.AND (R140). -/
def execAmoAnd (d a b : BitVec 5) (c : BitVec 3) (s : State) : Outcome := amoOp s d a b c (fun o x _ => o &&& x)
/-- AMO.OR (R140). -/
def execAmoOr (d a b : BitVec 5) (c : BitVec 3) (s : State) : Outcome := amoOp s d a b c (fun o x _ => o ||| x)
/-- AMO.XOR (R140). -/
def execAmoXor (d a b : BitVec 5) (c : BitVec 3) (s : State) : Outcome := amoOp s d a b c (fun o x _ => o ^^^ x)
/-- AMO.MIN, signed (R140). -/
def execAmoMin (d a b : BitVec 5) (c : BitVec 3) (s : State) : Outcome :=
  amoOp s d a b c (fun o x _ => if x.slt o then x else o)
/-- AMO.MAX, signed (R140). -/
def execAmoMax (d a b : BitVec 5) (c : BitVec 3) (s : State) : Outcome :=
  amoOp s d a b c (fun o x _ => if o.slt x then x else o)
/-- AMO.SWAP (R140). -/
def execAmoSwap (d a b : BitVec 5) (c : BitVec 3) (s : State) : Outcome := amoOp s d a b c (fun _ x _ => x)
/-- AMO.CAS: g[d] holds the expected value (R140). -/
def execAmoCas (d a b : BitVec 5) (c : BitVec 3) (s : State) : Outcome :=
  amoOp s d a b c (fun o x e => if o == e then x else o)
/-- AMO.FADD: F64, rounded once in RNE; no flag (R140). -/
def execAmoFadd (d a b : BitVec 5) (c : BitVec 3) (s : State) : Outcome :=
  amoOp s d a b c (fun o x _ => word ((floatFormat .f64).add .rne o.toNat x.toNat).1)

end Sys2Proof.Machine
end

