-- ==== Sys2Proof/Machine/Vtype.lean ====
section
/-!
DEFINITION. VTYPE as a word, the lengths it gives, and the limits R28 puts on the words that depend on it (R25 to R28,
R98, R99, R102).
-/

namespace Sys2Proof.Machine

/-- The grouping G. -/
def VType.group (t : VType) : Nat := 2 ^ t.lg.toNat

/-- Elements of a scale block; 0 for none. -/
def VType.block (t : VType) : Nat := if t.bs = 0 then 0 else 8 * 2 ^ t.bs

/-- The code of a hypervector model. -/
def HvModel.code : HvModel → Nat
  | .bsc => 0
  | .map => 1
  | .phase => 2

/-- Bits of a component (R150). -/
def HvModel.width : HvModel → Nat
  | .bsc => 1
  | .map => 8
  | .phase => 4

/-- Components of a hypervector. -/
def VType.dim (t : VType) : Nat := 64 * 2 ^ t.hd

/-- VTYPE as it reads. -/
def VType.toWord (t : VType) : Word :=
  word (t.sat.toNat * 2 ^ 21 + t.maskz.toNat * 2 ^ 20 + t.tail.toNat * 2 ^ 19 + t.hd * 2 ^ 15 + t.hm.code * 2 ^ 13 +
    t.bs * 2 ^ 10 + t.ts.toNat * 2 ^ 8 + t.lg.toNat * 2 ^ 5 + t.et.code)

/-- The value of an ill-formed VTYPE: ILL alone. -/
def illWord : Word := 0x8000000000000000

def vtypeWord (v : Option VType) : Word :=
  match v with
  | some t => t.toWord
  | none => illWord

/-- The model of a code. -/
def HvModel.ofCode : Nat → Option HvModel
  | 0 => some .bsc
  | 1 => some .map
  | 2 => some .phase
  | _ => none

/-- A requested VTYPE in a slot whose registers hold `bits` bits; none: it is ill-formed (R27). -/
def VType.ofWord (bits : Nat) (w : Word) : Option VType :=
  let n := w.toNat
  match ElemType.ofCode (n % 32), HvModel.ofCode (n / 2 ^ 13 % 4) with
  | some et, some hm =>
    let t : VType :=
      { sat := n / 2 ^ 21 % 2 == 1, maskz := n / 2 ^ 20 % 2 == 1, tail := n / 2 ^ 19 % 2 == 1, hd := n / 2 ^ 15 % 16,
        hm := hm, bs := n / 2 ^ 10 % 8, ts := BitVec.ofNat 2 (n / 2 ^ 8), lg := BitVec.ofNat 2 (n / 2 ^ 5), et := et }
    if 2 ^ 22 ≤ n ∨ 3 < n / 2 ^ 5 % 8 ∨ 4 < t.bs ∨ 10 < t.hd then none
    else if et.isQuant ∧ t.bs < 2 then none
    else if bits * t.group < t.dim * hm.width then none
    else some t
  | _, _ => none

/-- VLMAX = B · G / width (R27). -/
def VType.vlmax (t : VType) (bits : Nat) : Nat := bits * t.group / t.et.width

/-- A length without the part of a scale block it would split. -/
def VType.whole (t : VType) (n : Nat) : Nat := if t.bs = 0 then n else n - n % t.block

/-- VTYPE and VL set from a requested value (R27). -/
def setVtype (h : Hart) (w : Word) : Hart :=
  match VType.ofWord (regBits h) w with
  | none => { h with cs := { h.cs with vtype := none, vl := 0 } }
  | some t => { h with cs := { h.cs with vtype := some t, vl := t.whole (min h.cs.vl (t.vlmax (regBits h))) } }

/-- The length VSETL grants (R99). -/
def grantedLength (h : Hart) (avl : Word) : Nat :=
  match h.cs.vtype with
  | none => 0
  | some t => if avl.toInt ≤ 0 then 0 else t.whole (min avl.toNat (t.vlmax (regBits h)))

end Sys2Proof.Machine
end

