-- ==== Sys2Proof/Machine/Footprint.lean ====
section
/-!
DEFINITION. Tensor shape records, the scale records of format ranges, the footprints of engine commands, and the program
order between engine commands and the other memory accesses of their hart (R37 to R40, R119, R120, R135, R180, R186).
-/

namespace Sys2Proof.Machine

/-! ### Tensor shape records (R119, R120) -/

/-- The values of `n` consecutive 32-bit fields from byte `off` on. -/
def fieldWords (v off n : Nat) : List Nat := (List.range n).map (fun k => bytesAt v (off + 4 * k) 4)

/-- The record 64 bytes hold; none: it is malformed (R119). -/
def tsrOf (v : Nat) : Option Tsr :=
  let base := bytesAt v 0 8
  let ndim := bytesAt v 9 1
  let flags := bytesAt v 0x0A 2
  let ext := fieldWords v 0x10 6
  let str := fieldWords v 0x28 6
  match ElemType.ofCode (bytesAt v 8 1) with
  | none => none
  | some et =>
    if ndim < 1 ∨ 6 < ndim then none
    else if (ext.take ndim).any (· == 0) || (ext.drop ndim).any (· != 0) || (str.drop ndim).any (· != 0) then none
    else if 4 ≤ flags ∨ bytesAt v 0x0C 4 ≠ 0 then none
    else if 2 ^ 48 < (ext.take ndim).foldl (· * ·) 1 then none
    else if 8 ≤ et.width ∧ base % (et.width / 8) ≠ 0 then none
    else some
      { base := base, et := et, ndim := ndim, wrap := flags.testBit 0, noahead := flags.testBit 1, ext := ext.take ndim,
        str := (str.take ndim).map (fun x => (BitVec.ofNat 32 x).toInt) }

/-- The offset of a position in elements. -/
def streamOffset : List Nat → List Int → Nat → Int
  | e :: es, d :: ds, rest => (rest % e : Nat) * d + streamOffset es ds (rest / e)
  | _, _, _ => 0

/-- The bit address of a position (R120). -/
def Tsr.bitAddr (t : Tsr) (p : Nat) : Int := (t.base * 8 : Nat) + streamOffset t.ext t.str p * (t.et.width : Int)

/-- An element lies below address 0 (R120); HTVAL is its byte address modulo 2 ^ 64 (notes/assumptions/117). -/
def belowAddress (k : AccessKind) (bit : Int) : Trap := { code := causeXlate, sub := k.sub, val := BitVec.ofInt 64 (bit / 8) }

/-! ### Scale records of format ranges (R38, R39) -/

/-- A field of a format-range register. -/
def rangeField (v : Word) (lo n : Nat) : Nat := v.toNat / 2 ^ lo % 2 ^ n

/-- An enabled range. -/
structure FormatRange where
  base  : Nat
  limit : Nat
  fmt   : ElemType
  gs    : Nat
  scale : Nat
  deriving DecidableEq, Repr, Inhabited

/-- The types a range can declare. -/
def rangeFormat (e : ElemType) : Bool := e == .e2m1 || e == .e4m3 || e == .e5m2 || e == .qn4 || e == .qn8

/-- The range that four words declare; none: it is not active. -/
def formatRange (r : Vector Word 4) : Option FormatRange :=
  let base := rangeField (vget r 0 0) 16 32 * 65536
  let limit := rangeField (vget r 1 0) 16 32 * 65536
  let c := vget r 2 0
  match ElemType.ofCode (rangeField c 0 5) with
  | some e =>
    if rangeFormat e && c.getLsbD 31 && rangeField c 8 2 != 0 && decide (base < limit) then
      some ⟨base, limit, e, 16 * 2 ^ rangeField c 8 2, rangeField (vget r 3 0) 2 46 * 4⟩
    else none
  | none => none

/-- The range of a stack that decides for a location: the lowest-numbered one that holds it. -/
def rangeAt (s : State) (stack loc : Nat) : Option FormatRange :=
  (List.range 16).findSome? (fun n =>
    match s.formats.find? (fun x => x.1 == stack && x.2.1 == n) with
    | some x => match formatRange x.2.2 with
      | some r => if r.base ≤ loc ∧ loc < r.limit then some r else none
      | none => none
    | none => none)

/-- The stack whose memory controller fills a line for a core: its home's, and for a far line the core's own. -/
def fillStack (s : State) (core loc : Nat) : Nat :=
  match columnOf s.product loc with
  | some c => c / 64
  | none => core / 64

/-- Bytes of a record of a type. -/
def scaleBytes (e : ElemType) : Nat := if e.isQuant then 4 else 1

/-- Where the scale record of a data byte lies, with its range (R38). -/
def scaleLoc (s : State) (core loc : Nat) : Option (Nat × FormatRange) :=
  (rangeAt s (fillStack s core loc) loc).map (fun r =>
    (r.scale + scaleBytes r.fmt * ((loc - r.base) / (r.gs * r.fmt.width / 8)), r))

/-- The scale record attached to a data byte as its line is filled (R39). -/
def lineScale (s : State) (core loc : Nat) : Option ScaleRec :=
  (scaleLoc s core loc).map (fun x =>
    ⟨x.2.base + (loc - x.2.base) / (x.2.gs * x.2.fmt.width / 8) * (x.2.gs * x.2.fmt.width / 8), x.1,
      lineBytes (s.pointLine (core / 64) (lineOf x.1)) (x.1 % 128) (scaleBytes x.2.fmt), x.2.fmt, x.2.gs⟩)

/-! ### Lines that an address names -/

/-- The line of an address in the hart's view, by a translation that marks nothing and raises nothing. -/
def quietLine (s : State) (h : Hart) (va : Nat) : Option Nat :=
  if va < 2 ^ 56 then (quietLoc s h va).map lineOf
  else (windowOf s h va).map lineOf

/-- The location of a byte in the view of the hart in focus, by a translation that marks and raises nothing. -/
def quietAt (s : State) (va : Nat) : Option Nat :=
  if va < 2 ^ 56 then quietLoc s s.hart va else windowOf s s.hart va

/-- Lines whose every bit an element of the list covers lose their poison (R80). -/
def clearCovered (s : State) (bits : List Int) (w : Nat) : State :=
  if s.poison.isEmpty && s.lost.isEmpty then s
  else
    let spans : List Nat := bits.filterMap (fun (b : Int) =>
      if b < 0 then none else (quietAt s (b.toNat / 8)).map (fun loc => 8 * loc + b.toNat % 8))
    let whole (line : Nat) : Bool :=
      (List.range 1024).all (fun i => spans.any (fun a => decide (a ≤ 1024 * line + i ∧ 1024 * line + i < a + w)))
    (((spans.map (· / 1024)).eraseDups).filter whole).foldl (fun s line => s.clearPoison line (BitVec.allOnes 128)) s

/-- The byte addresses of a stream's elements. -/
def Tsr.bytes (t : Tsr) : List Nat :=
  (List.range t.count).filterMap (fun p => let b := t.bitAddr p; if b < 0 then none else some (b / 8).toNat)

/-! ### Footprints (R186) -/

/-- Values of a signature of dimension d and depth n (R245). -/
def sigSize (d : Nat) : Nat → Nat
  | 0 => 0
  | n + 1 => sigSize d n + d ^ (n + 1)

/-- Addresses of the records of an attached scale array (R180). -/
def ScaleRef.bytes (x : ScaleRef) (e : ElemType) (rows : Nat) : List Nat :=
  (List.range (rows * (128 / x.bs))).map (fun i => x.addr + scaleBytes e * i)

/-- Addresses an operand tile is fetched from: bound operand lines and attached scale records. -/
def operandBytes (x : OpTile) : List Nat :=
  match x with
  | .unbound => []
  | .bound t _ _ scl => t.bytes ++ (match scl with | some r => r.bytes t.et (t.count / t.ext0) | none => [])
  | .staged (some e) rows _ _ _ (some r) => r.bytes e rows
  | .staged .. => []

/-- Addresses a command reads. -/
def CmdKind.readBytes (k : CmdKind) (h : Hart) (cfg : Nat × Nat) : List Nat :=
  match k with
  | .mma _ ta tb .. => operandBytes (vget h.tl.op ta .unbound) ++ operandBytes (vget h.tl.op tb .unbound)
  | .tld t => operandBytes (vget h.tl.op t .unbound)
  | .copyMem src _ _ => src.bytes
  | .copyTile src _ _ _ => src.bytes
  | .sigLd _ a => (List.range (sigSize cfg.1 cfg.2)).map (fun i => a + 4 * i)
  | _ => []

/-- Addresses a command writes. -/
def CmdKind.writeBytes (k : CmdKind) (cfg : Nat × Nat) : List Nat :=
  match k with
  | .tst _ dst _ => dst.bytes
  | .copyMem _ _ dst => dst.bytes
  | .sigSt _ a => (List.range (sigSize cfg.1 cfg.2)).map (fun i => a + 4 * i)
  | _ => []

/-- A command reads bytes of a line, or scale records in it. -/
def EngCmd.readsLine (c : EngCmd) (s : State) (h : Hart) (line : Nat) : Bool :=
  (c.kind.readBytes h c.cfg).any (fun va =>
    match quietLine s h va with
    | some l => l == line || (match scaleLoc s h.place.core (128 * l + va % 128) with
      | some x => lineOf x.1 == line
      | none => false)
    | none => false)

/-- A command writes bytes of a line. -/
def EngCmd.writesLine (c : EngCmd) (s : State) (h : Hart) (line : Nat) : Bool :=
  (c.kind.writeBytes c.cfg).any (fun va => quietLine s h va == some line)

/-- Two commands touch a line that one of them writes. -/
def footprintsMeet (s : State) (h : Hart) (x y : EngCmd) : Bool :=
  let lines (l : List Nat) : List Nat := l.filterMap (quietLine s h)
  (lines (x.kind.writeBytes x.cfg)).any (fun l => y.readsLine s h l || y.writesLine s h l) ||
    (lines (y.kind.writeBytes y.cfg)).any (fun l => x.readsLine s h l)

/-! ### Accesses of vector-side words, in program order with engine commands (R135, R186) -/

/-- An access waits for the earlier engine commands of the hart whose footprints meet its line. Inside a timed region
the scoreboard does not order. -/
def awaitCommands (s : State) (h : Hart) (k : AccessKind) (va : Nat) : Except Stop Unit :=
  if h.tl.queue.isEmpty || h.cs.hstat.timed then .ok ()
  else match quietLine s h va with
    | none => .ok ()
    | some line =>
      if h.tl.queue.any (fun c => c.writesLine s h line || (k == .write && c.readsLine s h line)) then .error .wait
      else .ok ()

/-- An add of an accepted VFPUSH of the hart to this line of a window level has not been made (R118, R136, R210). -/
def addPending (s : State) (h : Hart) (va : Nat) : Bool :=
  match windowOf s h va with
  | some loc => s.cores.any (fun c => c.fifo.any (fun e => e.uid == h.uid && e.adds.any (fun a => lineOf a.loc == lineOf loc)))
  | none => false

/-- An access waits for the hart's earlier engine commands and bank adds to its line. -/
def awaitEngines (s : State) (h : Hart) (k : AccessKind) (va : Nat) : Except Stop Unit :=
  if decide (2 ^ 56 ≤ va) && addPending s h va then .error .wait else awaitCommands s h k va

/-- A read of a vector-side word. -/
def orderedRead (s : State) (h : Hart) (mk : MarkKind) (va n : Nat) : Except Stop (Nat × State) := do
  awaitEngines s h .read va
  pointRead s h mk va n

/-- A write of a vector-side word. -/
def orderedWrite (s : State) (h : Hart) (mk : MarkKind) (va n v : Nat) : Except Stop State := do
  awaitEngines s h .write va
  pointWrite s h mk va n v

/-! ### Accesses of more than a line -/

/-- The bytes of an access that lie in its first line. -/
def firstPart (va n : Nat) : Nat := min n (128 - va % 128)

/-- `n` bytes read for a hart at its R129 point, line by line; `fuel` lines at most. -/
def rangeRead (s : State) (h : Hart) (mk : MarkKind) : Nat → Nat → Nat → Except Stop (Nat × State)
  | 0, _, _ => .ok (0, s)
  | fuel + 1, va, n =>
    if n = 0 then .ok (0, s) else do
    let k := firstPart va n
    let (v, s) ← orderedRead s h mk va k
    let (rest, s) ← rangeRead s h mk fuel (va + k) (n - k)
    .ok (v + rest * 256 ^ k, s)

/-- `n` bytes written for a hart at its R129 point, line by line; `fuel` lines at most. -/
def rangeWrite (s : State) (h : Hart) (mk : MarkKind) : Nat → Nat → Nat → Nat → Except Stop State
  | 0, _, _, _ => .ok s
  | fuel + 1, va, n, v =>
    if n = 0 then .ok s else do
    let k := firstPart va n
    let s ← orderedWrite s h mk va k (v % 256 ^ k)
    rangeWrite s h mk fuel (va + k) (n - k) (v / 256 ^ k)

/-- Lines that `n` bytes can touch. -/
def lineFuel (n : Nat) : Nat := n / 128 + 2

/-! ### Variable latency inside a timed region -/

/-- A word of variable latency has retired: inside a timed region its side issues again after a number of cycles that
the manual leaves open (R126, R166; notes/assumptions/33). -/
def varyTime (s : State) : State :=
  if s.hart.cs.hstat.timed then
    let (n, s) := s.draw
    s.mapHart (fun h => { h with ve := { h.ve with readyAt := h.ve.readyAt + n } })
  else s

end Sys2Proof.Machine
end

