-- ==== Sys2Proof/Machine/Csr.lean ====
section
/-!
DEFINITION. CSRX and CSRS, the control registers they name, and the register writes that are rows of the table of their
own (R43, R47, R62, R63, R68, R72, R111, R192, R197, R198, R206, R276).
-/

namespace Sys2Proof.Machine

/-! ### Register values -/

/-- A Bool as a bit at a place. -/
def bitAt (b : Bool) (n : Nat) : Nat := if b then 2 ^ n else 0

/-- HSTAT as it reads (R63). -/
def HStat.toWord (x : HStat) : Word :=
  word (bitAt x.disc 9 + bitAt x.timed 8 + bitAt x.schk 7 + bitAt x.pie 6 + bitAt x.phl 5 + bitAt x.hl 4 + bitAt x.ie 0)

/-- HCAUSE as it reads (R72). -/
def HCause.toWord (x : HCause) : Word :=
  word (bitAt x.int 63 + bitAt x.vs 62 + bitAt x.vrs 61 + bitAt x.ta 60 + bitAt x.exit 59 + bitAt x.eng 58 +
    x.sub.toNat * 256 + x.code.toNat)

/-- HPART (R63). -/
def hpart (h : Hart) : Word :=
  word (lanesOf h.split * 2 ^ 10 + h.split.toNat * 2 ^ 6 + h.place.slot % 8 * 2 ^ 3 + h.place.res % 4)

/-- ID of a context's record, as HCTX reads it: PRIO, ISPF, FN and ASID (R63, R267). -/
def hctxOf (c : Context) : Word :=
  word (c.prio.toNat * 2 ^ 34 +
    (match c.fn with
     | some none => 2 ^ 26
     | some (some n) => n % 1024 * 2 ^ 16
     | none => 0) + c.asid % 65536)

/-- HCTX. -/
def hctx (s : State) (asid : Nat) : Word := ((s.ctx? asid).map hctxOf).getD (word (asid % 65536))

/-- Lanes of a slot that are in service (R198). -/
def servingLanes (lanemap : BitVec 32) (split : BitVec 2) (slot : Nat) : Nat :=
  let n := lanesOf split
  popCount n (lanemap.toNat / 2 ^ (n * slot))

/-- ALC (R198). -/
def alcWord (s : State) (h : Hart) : Word :=
  word (servingLanes (s.core h.place.core).lanemap h.split h.place.slot * 2 ^ 8 + activeLanes s h)

/-- The region cycle (R192). -/
def regionCycle (s : State) (r : Region) : Nat := s.clock - r.start

/-- The cycle of the region of the hart in focus. -/
def cycleOf (s : State) : Nat :=
  match s.hart.tl.region with
  | some r => regionCycle s r
  | none => 0

/-- TREG (R192). -/
def tregWord (s : State) (h : Hart) : Word :=
  match h.tl.region with
  | some r => word (2 ^ 63 + r.len * 2 ^ 32 + min (regionCycle s r) r.len)
  | none => word (h.tl.lastLen * 2 ^ 32 + h.tl.lastCyc % 2 ^ 13)

/-- TPLAN (R192). -/
def tplanWord (h : Hart) : Word :=
  match h.tl.region with
  | some r => word (r.energy * 2 ^ 32 + r.alc * 2 ^ 16 + h.tl.next.toNat)
  | none => word (h.tl.lastResv * 2 ^ 32 + h.tl.next.toNat)

/-- EQUOTA: the remaining quota in µJ, rounded down; the PF's is unlimited (R206). -/
def equota (s : State) (asid : Nat) : Word :=
  match s.fnOf asid with
  | some none => 0x7FFFFFFFFFFFFFFF
  | some (some vf) => BitVec.ofInt 64 (s.left vf / 1000)
  | none => 0

/-- PEAK fields of the active timed regions of a cluster, mW (R201). -/
def reservedPeak (s : State) (cluster : Nat) : Nat :=
  s.harts.foldl (fun n h => match h.tl.region with
    | some r => if h.place.core / 8 = cluster then n + r.peak else n
    | none => n) 0

/-- EPLAN (R206). -/
def eplanWord (s : State) (h : Hart) : Word :=
  let cluster := h.place.core / 8
  let bud := vget s.noon cluster 0
  let peak := match h.tl.region with
    | some r => 2 ^ 63 + r.peak
    | none => 0
  word (peak + bud / 100 * 2 ^ 40 + (bud - reservedPeak s cluster) / 100 * 2 ^ 24)

/-- Segments of the core-scratchpad window that lie at least partly in the hart's grant (R276). -/
def grantedSegments (s : State) (h : Hart) : BitVec 8 :=
  match grantOf s h .core with
  | some g => BitVec.ofNat 8 (2 ^ ((g.size + 0x3FFFF) / 0x40000) - 1)
  | none => 0

/-- VPFB (R111). -/
def vpfbWord (h : Hart) : Word :=
  word (h.ve.spilled.toNat * 2 ^ 32 + bitAt ((h.ve.frags.head?.map (·.joining)).getD false) 4 + h.ve.frags.length % 8)

/-- FRM (R43). -/
def frmWord (h : Hart) : Word := word (h.cs.seed.toNat * 2 ^ 32 + h.cs.mode.toNat)

/-- The value a control register reads as (R62). -/
def csrRead (s : State) (x : BitVec 12) : Word :=
  let h := s.hart
  let c := h.cs
  match x.toNat with
  | 0x000 => c.hstat.toWord
  | 0x001 => c.hcause.toWord
  | 0x002 => c.hepc
  | 0x003 => c.htval
  | 0x004 => c.hqpos
  | 0x005 => c.htvec
  | 0x006 => c.hscratch
  | 0x007 => c.hrpc
  | 0x008 => c.hrsp
  | 0x009 => c.hfsp
  | 0x00A => hpart h
  | 0x00B => hctx s h.asid
  | 0x010 => word (cycleNow s h)
  | 0x011 => c.instret
  | 0x012 => word (s.clock - s.timeZero)
  | 0x100 => word c.vl
  | 0x101 => vtypeWord c.vtype
  | 0x102 => alcWord s h
  | 0x103 => (s.core h.place.core).lanemap.setWidth 64
  | 0x104 => c.vflags.setWidth 64
  | 0x105 => vget c.first 0 0
  | 0x106 => vget c.first 1 0
  | 0x107 => vget c.first 2 0
  | 0x108 => vget c.first 3 0
  | 0x109 => vget c.first 4 0
  | 0x10A => vget c.first 5 0
  | 0x10B => frmWord h
  | 0x10C => c.vprog
  | 0x10D => vpfbWord h
  | 0x110 => tregWord s h
  | 0x111 => tplanWord h
  | 0x200 => word (((s.ctx? h.asid).map (·.used)).getD 0 / 1000)
  | 0x201 => equota s h.asid
  | 0x202 => eplanWord s h
  | 0x210 => (c.spdisc &&& grantedSegments s h).setWidth 64
  | _ => 0

/-! ### Access (R62) -/

/-- Bits of the RW fields at a level. -/
def csrWritable (hl : Bool) (x : BitVec 12) : Nat :=
  match x.toNat with
  | 0x000 => if hl then 0xE1 else 0x80
  | 0x001 => if hl then 0xFC0000000000FFFF else 0
  | 0x002 => if hl then 2 ^ 56 - 4 else 0
  | 0x003 => if hl then 2 ^ 64 - 1 else 0
  | 0x004 => if hl then 2 ^ 64 - 1 else 0
  | 0x005 => if hl then 2 ^ 56 - 4 else 0
  | 0x006 => if hl then 2 ^ 64 - 1 else 0
  | 0x007 => if hl then 2 ^ 56 - 1 else 0
  | 0x008 => 2 ^ 56 - 8
  | 0x009 => 2 ^ 56 - 8
  | 0x10B => 0xFFFFFFFF00000007
  | 0x10C => if hl then 2 ^ 64 - 1 else 0
  | 0x10D => if hl then 0xFFFFFFFF00000007 else 0
  | 0x210 => 0xFF
  | _ => 0

/-- Bits of the W1C fields. -/
def csrClearable (x : BitVec 12) : Nat :=
  match x.toNat with
  | 0x000 => 0x200
  | 0x104 => 0x3F
  | _ => 0

/-- The access raises PRIV at level 0: every access of HSCRATCH, and a write of HCAUSE, HEPC, HTVAL, HQPOS and HTVEC,
which CSRX always makes and CSRS makes when its source is not zero (R62, R68). -/
def csrPriv (hl : Bool) (x : BitVec 12) (write : Bool) : Bool :=
  !hl && (x == 0x006#12 || (write && decide (1 ≤ x.toNat ∧ x.toNat ≤ 5)))

/-! ### Writes -/

/-- An entry of the pending-fragment buffer with unspecified contents (R111; notes/assumptions/12). -/
def freeFragment (bits b : Nat) : Fragment :=
  { pc := BitVec.ofNat 64 (b % 2 ^ 54 * 4), k := BitVec.ofNat 3 (b / 2 ^ 54), vlp := b / 2 ^ 57 % 2 ^ 20,
    u := BitVec.ofNat 65536 (b / 2 ^ 77 % 2 ^ bits), f := BitVec.ofNat 65536 (b / 2 ^ (77 + bits) % 2 ^ bits),
    joining := b / 2 ^ (77 + 2 * bits) % 2 == 1 }

/-- RES written: a lower number discards the topmost entries, a higher one exposes entries, and one above 4 changes
nothing (R111). -/
def setResident (s : State) : Nat → State
  | 0 => s.mapHart (fun h => { h with ve := { h.ve with frags := [] } })
  | n + 1 =>
    let have_ := s.hart.ve.frags.length
    if 4 < n + 1 then s
    else if n + 1 ≤ have_ then
      s.mapHart (fun h => { h with ve := { h.ve with frags := h.ve.frags.drop (have_ - (n + 1)) } })
    else
      let s := setResident s n
      let (b, s) := s.draw
      s.mapHart (fun h => { h with ve := { h.ve with frags := freeFragment (regBits h) b :: h.ve.frags } })

/-- VPFB written. -/
def writeVpfb (s : State) (v : Nat) : State :=
  let s := s.mapHart (fun h => { h with ve := { h.ve with spilled := BitVec.ofNat 32 (v / 2 ^ 32) } })
  setResident s (v % 8)

/-- FRM written: a SEED of 0 becomes 1, a MODE of 6 or 7 leaves MODE unchanged (R43). -/
def writeFrm (c : ControlRegs) (v : Nat) : ControlRegs :=
  let seed := BitVec.ofNat 32 (v / 2 ^ 32)
  { c with seed := if seed = 0 then 1 else seed, mode := if 6 ≤ v % 8 then c.mode else BitVec.ofNat 3 v }

/-- HSTAT with the fields a write can change. -/
def writeHstat (x : HStat) (v : Nat) : HStat :=
  { x with disc := v.testBit 9, schk := v.testBit 7, pie := v.testBit 6, phl := v.testBit 5, ie := v.testBit 0 }

/-- HCAUSE from a value. -/
def HCause.ofNat (v : Nat) : HCause :=
  { int := v.testBit 63, vs := v.testBit 62, vrs := v.testBit 61, ta := v.testBit 60, exit := v.testBit 59,
    eng := v.testBit 58, sub := BitVec.ofNat 8 (v / 256), code := BitVec.ofNat 8 v }

/-- A control register takes a value in which its fields that are not writable hold what they held. -/
def csrSet (s : State) (x : BitVec 12) (v : Nat) : State :=
  let c := s.hart.cs
  let put (c : ControlRegs) : State := s.mapHart (fun h => { h with cs := c })
  match x.toNat with
  | 0x000 => put { c with hstat := writeHstat c.hstat v }
  | 0x001 => put { c with hcause := HCause.ofNat v }
  | 0x002 => put { c with hepc := word v }
  | 0x003 => put { c with htval := word v }
  | 0x004 => put { c with hqpos := word v }
  | 0x005 => put { c with htvec := word v }
  | 0x006 => put { c with hscratch := word v }
  | 0x007 => put { c with hrpc := word v }
  | 0x008 => put { c with hrsp := word v }
  | 0x009 => put { c with hfsp := word v }
  | 0x104 => put { c with vflags := BitVec.ofNat 6 v }
  | 0x10B => put (writeFrm c v)
  | 0x10C => put { c with vprog := word v }
  | 0x10D => writeVpfb s v
  | 0x210 => put { c with spdisc := BitVec.ofNat 8 v &&& grantedSegments s s.hart }
  | _ => s

/-- The value R68 forms: RW fields take the source (CSRX) or gain its ones (CSRS), W1C fields lose them. -/
def csrMerge (old src rw w1c : Nat) (gain : Bool) : Nat :=
  mergeBits (old &&& ((2 ^ 64 - 1) ^^^ (src &&& w1c))) (if gain then old ||| src else src) rw

/-- A write of VFLAGS notes what it clears in this cycle (R49). -/
def noteCleared (s : State) (x : BitVec 12) (src : Nat) : State :=
  if x == 0x104#12 then
    s.mapHart (fun h => { h with cs := { h.cs with
      cleared := (if h.cs.clearedAt = s.clock then h.cs.cleared else 0) ||| BitVec.ofNat 6 src, clearedAt := s.clock } })
  else s

/-- A write of a control register at the hart's level. -/
def csrWrite (s : State) (x : BitVec 12) (src : Nat) (gain : Bool) : State :=
  let hl := s.hart.cs.hstat.hl
  if csrWritable hl x == 0 && csrClearable x == 0 then s
  else csrSet (noteCleared s x src) x (csrMerge (csrRead s x).toNat src (csrWritable hl x) (csrClearable x) gain)

/-- CSRX and CSRS: the old value goes to the destination. Privilege is the last check of R21 and comes before the word
reads its source. -/
def csrOp (s : State) (d a : BitVec 5) (x : BitVec 12) (gain : Bool) : Outcome :=
  runInterlocked (discardWait s) .b (isControlRegister x && xOk s [d, a]) true
    (fun s => if csrPriv s.hart.cs.hstat.hl x (!gain || (xRead s a.toNat).toNat != 0) then some (priv s) else none)
    [xReg s a.toNat] [xReg s d.toNat]
    (fun s => .ok (retire (xWrite (csrWrite s x (xRead s a.toNat).toNat gain) d.toNat (csrRead s x))))

/-- CSRX (R68). -/
def execCsrx (d a : BitVec 5) (x : BitVec 12) (s : State) : Outcome := csrOp s d a x false
/-- CSRS (R68). -/
def execCsrs (d a : BitVec 5) (x : BitVec 12) (s : State) : Outcome := csrOp s d a x true

/-! ### Register writes as events -/

/-- A register written with a value as CSRX writes it, by the hart in focus at its level; where that level may not write
it, nothing changes. -/
def csrEvent (s : State) (x : BitVec 12) (v : Word) : State :=
  if !s.hart.resident || csrPriv s.hart.cs.hstat.hl x true then s else csrWrite s x v.toNat false

/-- FRM_WRITE (R43). -/
def execFrmWrite (v : BitVec 64) (s : State) : Outcome := .next (csrEvent s 0x10B#12 v)
/-- VPFB_WRITE (R111). -/
def execVpfbWrite (v : BitVec 64) (s : State) : Outcome := .next (csrEvent s 0x10D#12 v)
/-- SPDISC_WRITE (R276). -/
def execSpdiscWrite (v : BitVec 64) (s : State) : Outcome := .next (csrEvent s 0x210#12 v)

end Sys2Proof.Machine
end

