-- ==== Sys2Proof/Machine/Flags.lean ====
section
/-!
DEFINITION. The rounding mode in force, the sticky flags and the first-exception registers (R43, R44, R47 to R49).
-/

namespace Sys2Proof.Machine

/-- The mode FRM names; SR carries a draw (R43). -/
def roundMode (h : Hart) (draw : Nat) : RoundMode :=
  match h.cs.mode.toNat with
  | 0 => .rne
  | 1 => .rtz
  | 2 => .rdn
  | 3 => .rup
  | 4 => .rna
  | _ => .sr draw

/-- FRM's mode for arithmetic and reductions: SR counts as RNE (R44). -/
def arithMode (h : Hart) : RoundMode := (roundMode h 0).arith

/-- The mode is SR. -/
def stochastic (h : Hart) : Bool := h.cs.mode == 5#3

/-- Flags that steps raised, each with an element index. -/
abbrev Raised := List (Nat × Flags)

/-- All flags raised. -/
def Raised.union (r : Raised) : Flags := r.foldl (fun a x => a ||| x.2) 0

/-- The lowest index that raised flag number `k`, and all ones if none did. -/
def Raised.first (r : Raised) (k : Nat) : Nat :=
  r.foldl (fun a x => if x.2.getLsbD k then min a x.1 else a) (2 ^ 64 - 1)

/-- The flags an engine's merge leaves set in a cycle: a clearing write in the same cycle comes after it (R49). -/
def arriving (c : ControlRegs) (now : Nat) (f : Flags) : Flags := if c.clearedAt = now then f &&& ~~~c.cleared else f

/-- Flags merged into VFLAGS (R47). -/
def mergeFlags (h : Hart) (f : Flags) : Hart := { h with cs := { h.cs with vflags := h.cs.vflags ||| f } }

/-- The flags of an engine merged into VFLAGS in a cycle (R49). They stand whatever becomes of the word in the lanes. -/
def mergeEngine (now : Nat) (h : Hart) (f : Flags) : Hart :=
  let h := mergeFlags h (arriving h.cs now f)
  { h with ve := { h.ve with inLanes := h.ve.inLanes.map (fun x => { x with flags := x.flags &&& ~~~f }) } }

/-- The minima of the first-exception indices over the parts of a word so far, which a first part starts afresh. -/
def partMinima (h : Hart) (start : Nat) (r : Raised) : Vector Word 6 :=
  Vector.ofFn (fun (k : Fin 6) =>
    let old := if start = 0 then 2 ^ 64 - 1 else (vget h.cs.firstPart k.val 0).toNat
    word (min old (r.first k.val)))

/-- A part of a flag-capable word: its flags are set, and when the word ends (`done`), the first-exception registers take
the minima over all its parts (R48). -/
def noteFlags (h : Hart) (start : Nat) (done : Bool) (r : Raised) : Hart :=
  let mins := partMinima h start r
  let h := mergeFlags h r.union
  if done then { h with cs := { h.cs with first := mins, firstPart := Vector.replicate 6 ones64 } }
  else { h with cs := { h.cs with firstPart := mins } }

end Sys2Proof.Machine
end

