-- ==== Sys2Proof/Machine/Operands.lean ====
section
/-!
DEFINITION. The operands of vector-side words: elements of register groups, masks, scalar operands, destinations under
the mask and tail rules, and the latency of a class (R19, R32, R82 to R86, R102, R103).
-/

namespace Sys2Proof.Machine

/-! ### Elements (R32) -/

/-- Element `i` of width `w` of a group's bits. -/
def elem (w v i : Nat) : Nat := v / 2 ^ (w * i) % 2 ^ w

/-- The bits of a group of `g` registers from v[r] on. -/
def groupBits (h : Hart) (r : Nat) : Nat → Nat
  | 0 => 0
  | g + 1 => groupBits h r g + (vget h.ve.v (r + g) 0).toNat % 2 ^ regBits h * 2 ^ (regBits h * g)

/-- The value of mask register m[r]. -/
def maskBits (h : Hart) (r : Nat) : Nat := (vget h.ve.m r 0).toNat

/-- Element `i` is active under mask field `m` (R19, R82). -/
def isActive (h : Hart) (m : BitVec 3) (i : Nat) : Bool := m == 0#3 || (maskBits h m.toNat).testBit i

/-- The scalar operand of VINTS, VFLTS and VCMPS at width `w` (R84). -/
def scalarElem (h : Hart) (b : BitVec 5) (w : Nat) : Nat := (hRead h b.toNat).toNat % 2 ^ w

/-! ### Limits on a word that depends on VTYPE (R28, R83, R102) -/

/-- A register field names the first register of a group. -/
def VType.aligned (t : VType) (r : BitVec 5) : Bool := r.toNat % t.group == 0

/-- Mask bits stand for every element below VL (R102). -/
def maskFits (h : Hart) : Bool := decide (h.cs.vl ≤ regBits h)

/-- The same where the mask field governs the word. -/
def governFits (h : Hart) (m : BitVec 3) : Bool := m == 0#3 || maskFits h

/-- Two groups share a register. -/
def overlap (r g r' g' : Nat) : Bool := decide (r < r' + g' ∧ r' < r + g)

/-- The group's registers. -/
def VType.regs (t : VType) (r : BitVec 5) : List RegId := vGroup r.toNat t.group

/-- The mask register a word reads as its governing mask. -/
def maskRegs (m : BitVec 3) : List RegId := if m = 0#3 then [] else [.m m.toNat]

/-- The second source of a word with a vector and a scalar form (R23, R84). -/
inductive SecondSource where
  | group (b : BitVec 5)
  | scalar (b : BitVec 5)

/-- The field is one the form admits. -/
def SecondSource.wf : SecondSource → Bool
  | .group _ => true
  | .scalar b => isH b

def SecondSource.aligned : SecondSource → VType → Bool
  | .group b, t => t.aligned b
  | .scalar _, _ => true

def SecondSource.regs : SecondSource → VType → List RegId
  | .group b, t => t.regs b
  | .scalar b, _ => [.h b.toNat]

/-- Element `i` of the second source. -/
def SecondSource.read (x : SecondSource) (h : Hart) (t : VType) : Nat → Nat :=
  match x with
  | .group b => elem t.et.width (groupBits h b.toNat t.group)
  | .scalar b => fun _ => scalarElem h b t.et.width

/-! ### Beats and latency (R10, R85) -/

/-- n = c · ⌈B / (256 · A)⌉ beats, at least 1, and L = D + n - 1. -/
def latency (s : State) (c d bits : Nat) : Timing :=
  let a := activeLanes s s.hart
  let n := max 1 (c * ((bits + 256 * a - 1) / (256 * a)))
  ⟨n, d + n - 1⟩

/-! ### Destinations (R82, R103) -/

/-- Values of consecutive elements of width `w` as bits, with a mask of the bits that are written. -/
def packLanes (w : Nat) (l : List (Option Nat)) : Nat × Nat :=
  l.foldr (fun x acc => match x with
    | some v => (v % 2 ^ w + 2 ^ w * acc.1, 2 ^ w - 1 + 2 ^ w * acc.2)
    | none => (2 ^ w * acc.1, 2 ^ w * acc.2)) (0, 0)

/-- A destination group: its first register, the number of registers, the element width and the number of elements that
the word's length covers. -/
structure Dest where
  reg   : Nat
  group : Nat
  width : Nat
  count : Nat

/-- The register writes that put bits into a group. -/
def groupWrites (h : Hart) (reg : Nat) (group value mask : Nat) : List RegWrite :=
  (List.range group).filterMap (fun k =>
    let mk := mask / 2 ^ (regBits h * k) % 2 ^ regBits h
    if mk = 0 then none else some ⟨.v (reg + k), value / 2 ^ (regBits h * k) % 2 ^ regBits h, mk⟩)

/-- The tail of a group: its bits from element `count` on, written with zeros when TAIL is 1 and the length is not 0. -/
def tailMask (h : Hart) (t : VType) (d : Dest) : Nat :=
  if t.tail && d.count != 0 then 2 ^ (regBits h * d.group) - 2 ^ min (regBits h * d.group) (d.width * d.count) else 0

/-- Elements from `start` on take the lanes' values; where `tail` is set the tail rule applies too. -/
def destWrites (h : Hart) (t : VType) (d : Dest) (start : Nat) (lanes : List (Option Nat)) (tail : Bool) : List RegWrite :=
  let x := packLanes d.width lanes
  groupWrites h d.reg d.group (x.1 * 2 ^ (d.width * start))
    (x.2 * 2 ^ (d.width * start) ||| (if tail then tailMask h t d else 0))

/-- What an element that is not active receives (R82). -/
def inactiveLane (t : VType) : Option Nat := if t.maskz then some 0 else none

/-! ### Progress of an element-wise word (R86) -/

/-- The first element still to be done: VPROG[31:0]. -/
def startOf (s : State) : Nat := s.hart.cs.vprog.toNat % 2 ^ 32

/-- The element at which the word stops: its length, or, outside a timed region, the boundary at which it is stopped. -/
def stopOf (s : State) (n : Nat) : Nat :=
  match s.issue.cut with
  | some c => if s.hart.cs.hstat.timed then n else max (startOf s) (min c n)
  | none => n

/-- A word whose result is of another width than a source that it overlaps is not stopped part-way: every source is read
before any destination is written (R51; notes/assumptions/103). -/
def unstopped (s : State) (mixed : Bool) : State :=
  if mixed then { s with issue := { s.issue with cut := none } } else s

/-! ### Running an element-wise word -/

/-- Results of the active ones of the listed elements. With `draws`, each takes the next draw of the generator (R44). -/
def computeLanes (act : Nat → Bool) (draws : Bool) (f : Nat → Nat → Nat × Flags) :
    List Nat → BitVec 32 → List (Nat × Option (Nat × Flags)) × BitVec 32
  | [], seed => ([], seed)
  | i :: rest, seed =>
    if act i then
      let seed := if draws then nextSeed seed else seed
      let r := computeLanes act draws f rest seed
      ((i, some (f i (seedDraw seed))) :: r.1, r.2)
    else
      let r := computeLanes act draws f rest seed
      ((i, none) :: r.1, r.2)

/-- The flags of computed lanes. -/
def raisedBy (l : List (Nat × Option (Nat × Flags))) : Raised :=
  l.filterMap (fun x => match x.2 with
    | some r => if r.2 = 0 then none else some (x.1, r.2)
    | none => none)

/-- An element-wise word (R82, R86): `f` gives element i's result from i and its draw. `capable` says that the word is
flag-capable (R48). -/
def elementWise (s : State) (t : VType) (d : Dest) (m : BitVec 3) (capable draws : Bool) (f : Nat → Nat → Nat × Flags) :
    Result :=
  let start := startOf s
  let stop := stopOf s d.count
  let done := decide (d.count ≤ stop)
  let r := computeLanes (isActive s.hart m) draws f (List.range' start (stop - start)) s.hart.cs.seed
  let lanes := r.1.map (fun x => match x.2 with
    | some v => some v.1
    | none => inactiveLane t)
  let s' := s.mapHart (fun h =>
    let h := { h with cs := { h.cs with seed := r.2 } }
    if capable then noteFlags h start done (raisedBy r.1) else h)
  ⟨s', destWrites s.hart t d start lanes done, if done then none else some stop⟩

/-- An element-wise word without draws. -/
def elementOp (s : State) (t : VType) (d : Dest) (m : BitVec 3) (capable : Bool) (f : Nat → Nat × Flags) : Result :=
  elementWise s t d m capable false (fun i _ => f i)

/-- Where a cross-element word is abandoned outside a timed region (R86). -/
def abandonOf (s : State) : Option Nat := if s.hart.cs.hstat.timed then none else s.issue.cut

/-- A cross-element word with a vector destination: an abandoned one leaves part of its result and is executed afresh. -/
def crossOp (s : State) (t : VType) (d : Dest) (lanes : List (Option Nat)) : Result :=
  match abandonOf s with
  | some n => ⟨s, destWrites s.hart t d 0 (lanes.take n) false, some 0⟩
  | none => ⟨s, destWrites s.hart t d 0 lanes true, none⟩

/-- A cross-element word that ends in register writes: an abandoned one writes nothing. -/
def wholeOp (s : State) (writes : List RegWrite) (done : State → State) : Result :=
  match abandonOf s with
  | some _ => ⟨s, [], some 0⟩
  | none => ⟨done s, writes, none⟩

/-- Bits of a mask register from `start` on take the lanes' values; bits beyond the length follow TAIL (R103). -/
def maskWrites (h : Hart) (t : VType) (m start : Nat) (lanes : List (Option Nat)) (tail : Bool) : List RegWrite :=
  let x := packLanes 1 lanes
  let rest := if tail && t.tail && h.cs.vl != 0 then 2 ^ regBits h - 2 ^ min (regBits h) h.cs.vl else 0
  let mk := x.2 * 2 ^ start ||| rest
  if mk = 0 then [] else [⟨.m m, x.1 * 2 ^ start, mk⟩]

/-- An element-wise word whose destination is a mask register (R86, R103). -/
def maskOp (s : State) (t : VType) (d : BitVec 5) (m : BitVec 3) (f : Nat → Bool) : Result :=
  let n := s.hart.cs.vl
  let start := startOf s
  let stop := stopOf s n
  let done := decide (n ≤ stop)
  let lanes := (List.range' start (stop - start)).map (fun i =>
    if isActive s.hart m i then some (f i).toNat else inactiveLane t)
  ⟨s, maskWrites s.hart t d.toNat start lanes done, if done then none else some stop⟩

/-- The destination group of a word whose destination has the width of ET. -/
def VType.dest (t : VType) (h : Hart) (d : BitVec 5) : Dest := ⟨d.toNat, t.group, t.et.width, h.cs.vl⟩

/-- A vector-side word of fixed latency that depends on VTYPE. -/
def vectorOp (s : State) (wf : Bool) (fit : VType → Bool) (reads writes : VType → List RegId) (lat : VType → Timing)
    (body : State → VType → Result) : Outcome :=
  let t := vtypeOf s
  runFixed s .v wf (fits s fit) (reads t) (writes t) (lat t) (fun s => .ok (body s t))

end Sys2Proof.Machine
end

