-- ==== Sys2Proof/Machine/VInt.lean ====
section
/-!
DEFINITION. VINT and VINTS: integer element operations (R87).
-/

namespace Sys2Proof.Machine

/-- An operation on two elements of width w under a VTYPE. -/
abbrev ElemOp := VType → Nat → Nat → Nat × Flags

/-- An exact integer operation in the class of ET, assigned under R33. -/
def exactOp (f : Int → Int → Int) : ElemOp := fun t x y =>
  let w := t.et.width
  let v := toInteger t.et.isSigned w
  assignInteger t.sat t.et.isSigned w (f (v x) (v y))

/-- An operation that raises no flag. -/
def plainOp (f : Nat → Nat → Nat → Nat) : ElemOp := fun t x y => (f t.et.width x y, 0)

/-- The operations of VINT on elements of width w. -/
def mulhElem (w x y : Nat) : Nat := lowBits w (toSigned w x * toSigned w y / (2 ^ w : Nat))
def mulhnElem (w x y : Nat) : Nat := x * y / 2 ^ w
def minElem (w x y : Nat) : Nat := if toSigned w y < toSigned w x then y else x
def maxElem (w x y : Nat) : Nat := if toSigned w x < toSigned w y then y else x
def minnElem (_w x y : Nat) : Nat := min x y
def maxnElem (_w x y : Nat) : Nat := max x y
def andElem (_w x y : Nat) : Nat := x &&& y
def orElem (_w x y : Nat) : Nat := x ||| y
def xorElem (_w x y : Nat) : Nat := x ^^^ y
def andnElem (w x y : Nat) : Nat := x &&& ((2 ^ w - 1) ^^^ y)
def shlElem (w x y : Nat) : Nat := x * 2 ^ (y % w) % 2 ^ w
def shrElem (w x y : Nat) : Nat := x / 2 ^ (y % w)
def sraElem (w x y : Nat) : Nat := lowBits w (toSigned w x / (2 ^ (y % w) : Nat))

/-- A word of VINT or VINTS. `binary` says that B1 is accepted, `mul` that the word multiplies. -/
def vintWord (s : State) (d a : BitVec 5) (b : SecondSource) (m : BitVec 3) (binary mul : Bool) (f : ElemOp) : Outcome :=
  vectorOp s b.wf
    (fun t => (t.et.isInt || (binary && t.et == .b1)) && t.aligned d && t.aligned a && b.aligned t && governFits s.hart m)
    (fun t => t.regs a ++ b.regs t ++ maskRegs m) (fun t => t.regs d)
    (fun t => latency s (if mul && t.et.width == 64 then 2 else 1) (if mul then 4 else 2) (s.hart.cs.vl * t.et.width))
    (fun s t =>
      let x := elem t.et.width (groupBits s.hart a.toNat t.group)
      let y := b.read s.hart t
      elementOp s t (t.dest s.hart d) m t.sat (fun i => f t (x i) (y i)))

/-- VADD: the exact sum, assigned by VTYPE.SAT (R87). -/
def execVadd (d a b : BitVec 5) (m : BitVec 3) (s : State) : Outcome :=
  vintWord s d a (.group b) m false false (exactOp (fun x y => x + y))
/-- VSUB: the exact difference, assigned by VTYPE.SAT (R87). -/
def execVsub (d a b : BitVec 5) (m : BitVec 3) (s : State) : Outcome :=
  vintWord s d a (.group b) m false false (exactOp (fun x y => x - y))
/-- VMUL: the exact product, assigned by VTYPE.SAT (R87). -/
def execVmul (d a b : BitVec 5) (m : BitVec 3) (s : State) : Outcome :=
  vintWord s d a (.group b) m false true (exactOp (fun x y => x * y))
/-- VMULH: the high half of the signed product (R87). -/
def execVmulh (d a b : BitVec 5) (m : BitVec 3) (s : State) : Outcome :=
  vintWord s d a (.group b) m false true (plainOp mulhElem)
/-- VMULHN: the high half of the unsigned product (R87). -/
def execVmulhn (d a b : BitVec 5) (m : BitVec 3) (s : State) : Outcome :=
  vintWord s d a (.group b) m false true (plainOp mulhnElem)
/-- VMIN: the signed minimum (R87). -/
def execVmin (d a b : BitVec 5) (m : BitVec 3) (s : State) : Outcome :=
  vintWord s d a (.group b) m false false (plainOp minElem)
/-- VMAX: the signed maximum (R87). -/
def execVmax (d a b : BitVec 5) (m : BitVec 3) (s : State) : Outcome :=
  vintWord s d a (.group b) m false false (plainOp maxElem)
/-- VMINN: the unsigned minimum (R87). -/
def execVminn (d a b : BitVec 5) (m : BitVec 3) (s : State) : Outcome :=
  vintWord s d a (.group b) m false false (plainOp minnElem)
/-- VMAXN: the unsigned maximum (R87). -/
def execVmaxn (d a b : BitVec 5) (m : BitVec 3) (s : State) : Outcome :=
  vintWord s d a (.group b) m false false (plainOp maxnElem)
/-- VAND: x and y (R87). -/
def execVand (d a b : BitVec 5) (m : BitVec 3) (s : State) : Outcome :=
  vintWord s d a (.group b) m true false (plainOp andElem)
/-- VOR: x or y (R87). -/
def execVor (d a b : BitVec 5) (m : BitVec 3) (s : State) : Outcome :=
  vintWord s d a (.group b) m true false (plainOp orElem)
/-- VXOR: x xor y (R87). -/
def execVxor (d a b : BitVec 5) (m : BitVec 3) (s : State) : Outcome :=
  vintWord s d a (.group b) m true false (plainOp xorElem)
/-- VANDN: x and not y (R87). -/
def execVandn (d a b : BitVec 5) (m : BitVec 3) (s : State) : Outcome :=
  vintWord s d a (.group b) m true false (plainOp andnElem)
/-- VSHL: x << y mod w (R87). -/
def execVshl (d a b : BitVec 5) (m : BitVec 3) (s : State) : Outcome :=
  vintWord s d a (.group b) m false false (plainOp shlElem)
/-- VSHR: x >> y mod w, zeros shifted in (R87). -/
def execVshr (d a b : BitVec 5) (m : BitVec 3) (s : State) : Outcome :=
  vintWord s d a (.group b) m false false (plainOp shrElem)
/-- VSRA: x >> y mod w, the sign shifted in (R87). -/
def execVsra (d a b : BitVec 5) (m : BitVec 3) (s : State) : Outcome :=
  vintWord s d a (.group b) m false false (plainOp sraElem)
/-- VADD with a scalar operand: the exact sum, assigned by VTYPE.SAT (R87). -/
def execVintsVadd (d a b : BitVec 5) (m : BitVec 3) (s : State) : Outcome :=
  vintWord s d a (.scalar b) m false false (exactOp (fun x y => x + y))
/-- VSUB with a scalar operand: the exact difference, assigned by VTYPE.SAT (R87). -/
def execVintsVsub (d a b : BitVec 5) (m : BitVec 3) (s : State) : Outcome :=
  vintWord s d a (.scalar b) m false false (exactOp (fun x y => x - y))
/-- VMUL with a scalar operand: the exact product, assigned by VTYPE.SAT (R87). -/
def execVintsVmul (d a b : BitVec 5) (m : BitVec 3) (s : State) : Outcome :=
  vintWord s d a (.scalar b) m false true (exactOp (fun x y => x * y))
/-- VMULH with a scalar operand: the high half of the signed product (R87). -/
def execVintsVmulh (d a b : BitVec 5) (m : BitVec 3) (s : State) : Outcome :=
  vintWord s d a (.scalar b) m false true (plainOp mulhElem)
/-- VMULHN with a scalar operand: the high half of the unsigned product (R87). -/
def execVintsVmulhn (d a b : BitVec 5) (m : BitVec 3) (s : State) : Outcome :=
  vintWord s d a (.scalar b) m false true (plainOp mulhnElem)
/-- VMIN with a scalar operand: the signed minimum (R87). -/
def execVintsVmin (d a b : BitVec 5) (m : BitVec 3) (s : State) : Outcome :=
  vintWord s d a (.scalar b) m false false (plainOp minElem)
/-- VMAX with a scalar operand: the signed maximum (R87). -/
def execVintsVmax (d a b : BitVec 5) (m : BitVec 3) (s : State) : Outcome :=
  vintWord s d a (.scalar b) m false false (plainOp maxElem)
/-- VMINN with a scalar operand: the unsigned minimum (R87). -/
def execVintsVminn (d a b : BitVec 5) (m : BitVec 3) (s : State) : Outcome :=
  vintWord s d a (.scalar b) m false false (plainOp minnElem)
/-- VMAXN with a scalar operand: the unsigned maximum (R87). -/
def execVintsVmaxn (d a b : BitVec 5) (m : BitVec 3) (s : State) : Outcome :=
  vintWord s d a (.scalar b) m false false (plainOp maxnElem)
/-- VAND with a scalar operand: x and y (R87). -/
def execVintsVand (d a b : BitVec 5) (m : BitVec 3) (s : State) : Outcome :=
  vintWord s d a (.scalar b) m true false (plainOp andElem)
/-- VOR with a scalar operand: x or y (R87). -/
def execVintsVor (d a b : BitVec 5) (m : BitVec 3) (s : State) : Outcome :=
  vintWord s d a (.scalar b) m true false (plainOp orElem)
/-- VXOR with a scalar operand: x xor y (R87). -/
def execVintsVxor (d a b : BitVec 5) (m : BitVec 3) (s : State) : Outcome :=
  vintWord s d a (.scalar b) m true false (plainOp xorElem)
/-- VANDN with a scalar operand: x and not y (R87). -/
def execVintsVandn (d a b : BitVec 5) (m : BitVec 3) (s : State) : Outcome :=
  vintWord s d a (.scalar b) m true false (plainOp andnElem)
/-- VSHL with a scalar operand: x << y mod w (R87). -/
def execVintsVshl (d a b : BitVec 5) (m : BitVec 3) (s : State) : Outcome :=
  vintWord s d a (.scalar b) m false false (plainOp shlElem)
/-- VSHR with a scalar operand: x >> y mod w, zeros shifted in (R87). -/
def execVintsVshr (d a b : BitVec 5) (m : BitVec 3) (s : State) : Outcome :=
  vintWord s d a (.scalar b) m false false (plainOp shrElem)
/-- VSRA with a scalar operand: x >> y mod w, the sign shifted in (R87). -/
def execVintsVsra (d a b : BitVec 5) (m : BitVec 3) (s : State) : Outcome :=
  vintWord s d a (.scalar b) m false false (plainOp sraElem)

end Sys2Proof.Machine
end

