-- ==== Sys2Proof/Machine/VFlt.lean ====
section
/-!
DEFINITION. VFLT and VFLTS: floating-point element operations (R88).
-/

namespace Sys2Proof.Machine

/-- An operation on two patterns of a float format in a rounding mode. -/
abbrev FloatOp := FloatFormat → RoundMode → Nat → Nat → Nat × Flags

/-- ET is one of F16, BF16, F32 and F64, or, where `small` is set, E4M3 or E5M2 (R88). -/
def floatFit (small : Bool) (e : ElemType) : Bool :=
  e == .f16 || e == .bf16 || e == .f32 || e == .f64 || (small && (e == .e4m3 || e == .e5m2))

/-- A word of VFLT or VFLTS of class (c, D), c doubled for F64. -/
def vfltWord (s : State) (d a : BitVec 5) (b : SecondSource) (m : BitVec 3) (small : Bool) (c lat : Nat) (f : FloatOp) :
    Outcome :=
  vectorOp s b.wf
    (fun t => floatFit small t.et && t.aligned d && t.aligned a && b.aligned t && governFits s.hart m)
    (fun t => t.regs a ++ b.regs t ++ maskRegs m) (fun t => t.regs d)
    (fun t => latency s (if t.et == .f64 then 2 * c else c) lat (s.hart.cs.vl * t.et.width))
    (fun s t =>
      let x := elem t.et.width (groupBits s.hart a.toNat t.group)
      let y := b.read s.hart t
      let fm := floatFormat t.et
      elementOp s t (t.dest s.hart d) m true (fun i => f fm (arithMode s.hart) (x i) (y i)))

/-- A word of VFLT with one source. -/
def vfltUnary (s : State) (d a : BitVec 5) (m : BitVec 3) (small : Bool) (c lat : Nat)
    (f : FloatFormat → RoundMode → Nat → Nat × Flags) : Outcome :=
  vfltWord s d a (.group a) m small c lat (fun fm md x _ => f fm md x)

def floatAdd : FloatOp := fun fm md x y => fm.add md x y
def floatSub : FloatOp := fun fm md x y => fm.sub md x y
def floatMul : FloatOp := fun fm md x y => fm.mul md x y
def floatDiv : FloatOp := fun fm md x y => fm.div md x y
def floatMin : FloatOp := fun fm _ x y => fm.minMax false x y
def floatMax : FloatOp := fun fm _ x y => fm.minMax true x y
/-- Saturating sums: the largest finite value on overflow in every mode. -/
def floatAdds : FloatOp := fun fm md x y => fm.addVal md true (fm.value x) (fm.value y)
def floatSubs : FloatOp := fun fm md x y => fm.addVal md true (fm.value x) (fm.value y).negate

/-- VFADD (R88). -/
def execVfadd (d a b : BitVec 5) (m : BitVec 3) (s : State) : Outcome :=
  vfltWord s d a (.group b) m true 1 5 floatAdd
/-- VFSUB (R88). -/
def execVfsub (d a b : BitVec 5) (m : BitVec 3) (s : State) : Outcome :=
  vfltWord s d a (.group b) m true 1 5 floatSub
/-- VFMUL (R88). -/
def execVfmul (d a b : BitVec 5) (m : BitVec 3) (s : State) : Outcome :=
  vfltWord s d a (.group b) m true 1 5 floatMul
/-- VFDIV (R88). -/
def execVfdiv (d a b : BitVec 5) (m : BitVec 3) (s : State) : Outcome :=
  vfltWord s d a (.group b) m false 8 14 floatDiv
/-- VFMIN (R88). -/
def execVfmin (d a b : BitVec 5) (m : BitVec 3) (s : State) : Outcome :=
  vfltWord s d a (.group b) m true 1 5 floatMin
/-- VFMAX (R88). -/
def execVfmax (d a b : BitVec 5) (m : BitVec 3) (s : State) : Outcome :=
  vfltWord s d a (.group b) m true 1 5 floatMax
/-- VFADD with a scalar operand (R88). -/
def execVfltsVfadd (d a b : BitVec 5) (m : BitVec 3) (s : State) : Outcome :=
  vfltWord s d a (.scalar b) m true 1 5 floatAdd
/-- VFSUB with a scalar operand (R88). -/
def execVfltsVfsub (d a b : BitVec 5) (m : BitVec 3) (s : State) : Outcome :=
  vfltWord s d a (.scalar b) m true 1 5 floatSub
/-- VFMUL with a scalar operand (R88). -/
def execVfltsVfmul (d a b : BitVec 5) (m : BitVec 3) (s : State) : Outcome :=
  vfltWord s d a (.scalar b) m true 1 5 floatMul
/-- VFDIV with a scalar operand (R88). -/
def execVfltsVfdiv (d a b : BitVec 5) (m : BitVec 3) (s : State) : Outcome :=
  vfltWord s d a (.scalar b) m false 8 14 floatDiv
/-- VFMIN with a scalar operand (R88). -/
def execVfltsVfmin (d a b : BitVec 5) (m : BitVec 3) (s : State) : Outcome :=
  vfltWord s d a (.scalar b) m true 1 5 floatMin
/-- VFMAX with a scalar operand (R88). -/
def execVfltsVfmax (d a b : BitVec 5) (m : BitVec 3) (s : State) : Outcome :=
  vfltWord s d a (.scalar b) m true 1 5 floatMax
/-- VFSQRT (R88). -/
def execVfsqrt (d a : BitVec 5) (m : BitVec 3) (s : State) : Outcome :=
  vfltUnary s d a m false 8 14 (fun fm md x => fm.sqrt md x)
/-- VFABS (R88). -/
def execVfabs (d a : BitVec 5) (m : BitVec 3) (s : State) : Outcome :=
  vfltUnary s d a m true 1 5 (fun fm _ x => (fm.setSign x (fun _ => false), 0))
/-- VFNEG (R88). -/
def execVfneg (d a : BitVec 5) (m : BitVec 3) (s : State) : Outcome :=
  vfltUnary s d a m true 1 5 (fun fm _ x => (fm.setSign x (fun n => !n), 0))
/-- VADDS (R88). -/
def execVadds (d a b : BitVec 5) (m : BitVec 3) (s : State) : Outcome := vfltWord s d a (.group b) m true 1 5 floatAdds
/-- VSUBS (R88). -/
def execVsubs (d a b : BitVec 5) (m : BitVec 3) (s : State) : Outcome := vfltWord s d a (.group b) m true 1 5 floatSubs

end Sys2Proof.Machine
end

