-- ==== Sys2Proof/Machine/VFma.lean ====
section
/-!
DEFINITION. VFMA: fused products and short dot products (R89).
-/

namespace Sys2Proof.Machine

/-- VFMA to VFNMS: ± a · b ± d, rounded once. -/
def vfmaWord (s : State) (d a b : BitVec 5) (m : BitVec 3) (negProd negAdd : Bool) : Outcome :=
  vectorOp s true
    (fun t => floatFit false t.et && t.aligned d && t.aligned a && t.aligned b && governFits s.hart m)
    (fun t => t.regs a ++ t.regs b ++ t.regs d ++ maskRegs m) (fun t => t.regs d)
    (fun t => latency s (if t.et == .f64 then 2 else 1) 5 (s.hart.cs.vl * t.et.width))
    (fun s t =>
      let w := t.et.width
      let x := elem w (groupBits s.hart a.toNat t.group)
      let y := elem w (groupBits s.hart b.toNat t.group)
      let z := elem w (groupBits s.hart d.toNat t.group)
      elementOp s t (t.dest s.hart d) m true
        (fun i => (floatFormat t.et).fma (arithMode s.hart) negProd negAdd (x i) (y i) (z i)))

/-- VFMA (R89). -/
def execVfma (d a b : BitVec 5) (m : BitVec 3) (s : State) : Outcome := vfmaWord s d a b m false false
/-- VFMS (R89). -/
def execVfms (d a b : BitVec 5) (m : BitVec 3) (s : State) : Outcome := vfmaWord s d a b m false true
/-- VFNMA (R89). -/
def execVfnma (d a b : BitVec 5) (m : BitVec 3) (s : State) : Outcome := vfmaWord s d a b m true true
/-- VFNMS (R89). -/
def execVfnms (d a b : BitVec 5) (m : BitVec 3) (s : State) : Outcome := vfmaWord s d a b m true false

/-- VMAC: d + a · b, exact and assigned by VTYPE.SAT (R89). -/
def execVmac (d a b : BitVec 5) (m : BitVec 3) (s : State) : Outcome :=
  vectorOp s true
    (fun t => t.et.isInt && t.aligned d && t.aligned a && t.aligned b && governFits s.hart m)
    (fun t => t.regs a ++ t.regs b ++ t.regs d ++ maskRegs m) (fun t => t.regs d)
    (fun t => latency s (if t.et.width == 64 then 2 else 1) 4 (s.hart.cs.vl * t.et.width))
    (fun s t =>
      let w := t.et.width
      let v := toInteger t.et.isSigned w
      let x := elem w (groupBits s.hart a.toNat t.group)
      let y := elem w (groupBits s.hart b.toNat t.group)
      let z := elem w (groupBits s.hart d.toNat t.group)
      elementOp s t (t.dest s.hart d) m true
        (fun i => assignInteger t.sat t.et.isSigned w (v (z i) + v (x i) * v (y i))))

/-- The source elements of destination element `j`, `k` to each, that lie below the length. -/
def dotIndices (vl k j : Nat) : List Nat := (List.range k).filterMap (fun n => if k * j + n < vl then some (k * j + n) else none)

/-- The destination of a dot product of `k` elements: elements of 32 bits over the same group bits. -/
def VType.dotDest (t : VType) (h : Hart) (d : BitVec 5) (k : Nat) : Dest := ⟨d.toNat, t.group, 32, (h.cs.vl + k - 1) / k⟩

/-- VDOT4: four products of I8 or N8 added to a 32-bit element, assigned by VTYPE.SAT (R89). -/
def execVdot4 (d a b : BitVec 5) (m : BitVec 3) (s : State) : Outcome :=
  vectorOp s true
    (fun t => (t.et == .i8 || t.et == .n8) && t.aligned d && t.aligned a && t.aligned b && governFits s.hart m)
    (fun t => t.regs a ++ t.regs b ++ t.regs d ++ maskRegs m) (fun t => t.regs d)
    (fun t => latency s 1 4 (s.hart.cs.vl * t.et.width))
    (fun s t =>
      let sg := t.et.isSigned
      let x := elem 8 (groupBits s.hart a.toNat t.group)
      let y := elem 8 (groupBits s.hart b.toNat t.group)
      let z := elem 32 (groupBits s.hart d.toNat t.group)
      elementOp s t (t.dotDest s.hart d 4) m true (fun j =>
        assignInteger t.sat sg 32 ((dotIndices s.hart.cs.vl 4 j).foldl
          (fun acc i => acc + toInteger sg 8 (x i) * toInteger sg 8 (y i)) (toInteger sg 32 (z j)))))

/-- VDOT2: two products of F16 or BF16 and an F32 addend, exact and rounded once to F32 in FRM; a missing element reads
as 0 (R89). -/
def execVdot2 (d a b : BitVec 5) (m : BitVec 3) (s : State) : Outcome :=
  vectorOp s true
    (fun t => (t.et == .f16 || t.et == .bf16) && t.aligned d && t.aligned a && t.aligned b && governFits s.hart m)
    (fun t => t.regs a ++ t.regs b ++ t.regs d ++ maskRegs m) (fun t => t.regs d)
    (fun t => latency s 1 5 (s.hart.cs.vl * t.et.width))
    (fun s t =>
      let vl := s.hart.cs.vl
      let x (i : Nat) : FloatVal := floatVal t.et (if i < vl then elem 16 (groupBits s.hart a.toNat t.group) i else 0)
      let y (i : Nat) : FloatVal := floatVal t.et (if i < vl then elem 16 (groupBits s.hart b.toNat t.group) i else 0)
      let z := elem 32 (groupBits s.hart d.toNat t.group)
      elementOp s t (t.dotDest s.hart d 2) m true (fun j =>
        (floatFormat .f32).fusedSum (arithMode s.hart)
          [mulExact (x (2 * j)) (y (2 * j)), mulExact (x (2 * j + 1)) (y (2 * j + 1)), some (floatVal .f32 (z j))]))

end Sys2Proof.Machine
end

