-- ==== Sys2Proof/Machine/VFun.lean ====
section
/-!
DEFINITION. VFUN, LOG3 and VBIT2: funnel shifts, functions of three bits, and bit counting (R90, R91, R96).
-/

namespace Sys2Proof.Machine

/-- A funnel shift: `f` takes the width, the concatenation of a and b, and the count (R90). -/
def funnelWord (s : State) (d a b : BitVec 5) (k : BitVec 6) (f : Nat → Nat → Nat → Nat) : Outcome :=
  vectorOp s true
    (fun t => t.et.isInt && decide (k.toNat < t.et.width) && t.aligned d && t.aligned a && t.aligned b)
    (fun t => t.regs a ++ t.regs b) (fun t => t.regs d)
    (fun t => latency s 1 2 (s.hart.cs.vl * t.et.width))
    (fun s t =>
      let w := t.et.width
      let x := elem w (groupBits s.hart a.toNat t.group)
      let y := elem w (groupBits s.hart b.toNat t.group)
      elementOp s t (t.dest s.hart d) 0 false (fun i => (f w (x i * 2 ^ w + y i) k.toNat, 0)))

/-- VFSHL (R90). -/
def execVfshl (d a b : BitVec 5) (k : BitVec 6) (s : State) : Outcome :=
  funnelWord s d a b k (fun w c k => c * 2 ^ k / 2 ^ w % 2 ^ w)
/-- VFSHR (R90). -/
def execVfshr (d a b : BitVec 5) (k : BitVec 6) (s : State) : Outcome :=
  funnelWord s d a b k (fun w c k => c / 2 ^ k % 2 ^ w)

/-- LOG3 with truth table `tt`, element by element (R91). -/
def log3Word (s : State) (d a b : BitVec 5) (tt : Nat) : Outcome :=
  vectorOp s true
    (fun t => t.aligned d && t.aligned a && t.aligned b)
    (fun t => t.regs a ++ t.regs b ++ t.regs d) (fun t => t.regs d)
    (fun t => latency s 1 2 (s.hart.cs.vl * t.et.width))
    (fun s t =>
      let w := t.et.width
      let x := elem w (groupBits s.hart d.toNat t.group)
      let y := elem w (groupBits s.hart a.toNat t.group)
      let z := elem w (groupBits s.hart b.toNat t.group)
      elementOp s t (t.dest s.hart d) 0 false (fun i => (truthTable tt w (x i) (y i) (z i), 0)))

/-- LOG3, tables 0x00 to 0x7F (R91). -/
def execLog3Low (d a b : BitVec 5) (tt : BitVec 7) (s : State) : Outcome := log3Word s d a b tt.toNat
/-- LOG3, tables 0x80 to 0xFF (R91). -/
def execLog3High (d a b : BitVec 5) (tt : BitVec 7) (s : State) : Outcome := log3Word s d a b (128 + tt.toNat)

/-- A word of VBIT2. -/
def vbitWord (s : State) (d a b : BitVec 5) (m : BitVec 3) (f : Nat → Nat → Nat → Nat) : Outcome :=
  vectorOp s true
    (fun t => t.et.isInt && t.aligned d && t.aligned a && t.aligned b && governFits s.hart m)
    (fun t => t.regs a ++ t.regs b ++ maskRegs m) (fun t => t.regs d)
    (fun t => latency s 1 2 (s.hart.cs.vl * t.et.width))
    (fun s t =>
      let w := t.et.width
      let x := elem w (groupBits s.hart a.toNat t.group)
      let y := elem w (groupBits s.hart b.toNat t.group)
      elementOp s t (t.dest s.hart d) m false (fun i => (f w (x i) (y i), 0)))

/-- VPOPC (R96). -/
def execVpopc (d a : BitVec 5) (m : BitVec 3) (s : State) : Outcome := vbitWord s d a a m (fun w x _ => popCount w x)
/-- VCLZ (R96). -/
def execVclz (d a : BitVec 5) (m : BitVec 3) (s : State) : Outcome := vbitWord s d a a m (fun w x _ => leadingZeros w x)
/-- VBREV (R96). -/
def execVbrev (d a : BitVec 5) (m : BitVec 3) (s : State) : Outcome := vbitWord s d a a m (fun w x _ => reverseBits w x)
/-- VROTL (R96). -/
def execVrotl (d a b : BitVec 5) (m : BitVec 3) (s : State) : Outcome := vbitWord s d a b m (fun w x y => rotateLeft w x y)

end Sys2Proof.Machine
end

