-- ==== Sys2Proof/Machine/VPerm.lean ====
section
/-!
DEFINITION. VPERM: moving elements (R83, R92).
-/

namespace Sys2Proof.Machine

/-- The destination group shares no register with a source group (R83). -/
def VType.apart (t : VType) (d a : BitVec 5) : Bool := !overlap d.toNat t.group a.toNat t.group

/-- The lanes of a word: `f` gives an active element's lane. -/
def laneMap (s : State) (t : VType) (m : BitVec 3) (f : Nat → Option Nat) : List (Option Nat) :=
  (List.range s.hart.cs.vl).map (fun i => if isActive s.hart m i then f i else inactiveLane t)

/-- A word of VPERM with a vector destination. `lanes` are its elements below VL. -/
def vpermWord (s : State) (wf : Bool) (fit : VType → Bool) (d : BitVec 5) (m : BitVec 3) (reads : VType → List RegId)
    (c lat : Nat) (lanes : State → VType → List (Option Nat)) : Outcome :=
  vectorOp s wf (fun t => fit t && t.aligned d && governFits s.hart m)
    (fun t => reads t ++ maskRegs m) (fun t => t.regs d)
    (fun t => latency s c lat (s.hart.cs.vl * t.et.width))
    (fun s t => crossOp s t (t.dest s.hart d) (lanes s t))

/-- VSLUP: elements below the amount keep their values, whatever the mask (R92). -/
def execVslup (d a b : BitVec 5) (m : BitVec 3) (s : State) : Outcome :=
  vpermWord s (isH b) (fun t => t.aligned a && t.apart d a) d m (fun t => t.regs a ++ [.h b.toNat]) 1 4 (fun s t =>
    let n := (hRead s.hart b.toNat).toNat
    let x := elem t.et.width (groupBits s.hart a.toNat t.group)
    (List.range s.hart.cs.vl).map (fun i =>
      if i < n then none else if isActive s.hart m i then some (x (i - n)) else inactiveLane t))

/-- VSLDN (R92). -/
def execVsldn (d a b : BitVec 5) (m : BitVec 3) (s : State) : Outcome :=
  vpermWord s (isH b) (fun t => t.aligned a && t.apart d a) d m (fun t => t.regs a ++ [.h b.toNat]) 1 4 (fun s t =>
    let n := (hRead s.hart b.toNat).toNat
    let x := elem t.et.width (groupBits s.hart a.toNat t.group)
    laneMap s t m (fun i => some (if i + n < s.hart.cs.vl then x (i + n) else 0)))

/-- VGATH: an index that is not below VL yields 0 (R92). -/
def execVgath (d a b : BitVec 5) (m : BitVec 3) (s : State) : Outcome :=
  vpermWord s true
    (fun t => decide (8 ≤ t.et.width) && t.aligned a && t.aligned b && t.apart d a && t.apart d b) d m
    (fun t => t.regs a ++ t.regs b) 4 6 (fun s t =>
    let x := elem t.et.width (groupBits s.hart a.toNat t.group)
    let y := elem t.et.width (groupBits s.hart b.toNat t.group)
    laneMap s t m (fun i => some (if y i < s.hart.cs.vl then x (y i) else 0)))

/-- VPUSH: of several active elements that name one destination, the highest-numbered wins; elements not written keep
their values (R92). -/
def execVpush (d a b : BitVec 5) (m : BitVec 3) (s : State) : Outcome :=
  vpermWord s true
    (fun t => decide (8 ≤ t.et.width) && t.aligned a && t.aligned b && t.apart d a && t.apart d b) d m
    (fun t => t.regs a ++ t.regs b) 4 6 (fun s t =>
    let vl := s.hart.cs.vl
    let x := elem t.et.width (groupBits s.hart a.toNat t.group)
    let y := elem t.et.width (groupBits s.hart b.toNat t.group)
    (List.range vl).foldl
      (fun l i => if isActive s.hart m i && decide (y i < vl) then l.set (y i) (some (x i)) else l)
      (List.replicate vl none))

/-- VCMPR: active elements move together at the bottom (R92). -/
def execVcmpr (d a : BitVec 5) (m : BitVec 3) (s : State) : Outcome :=
  vpermWord s true (fun t => t.aligned a && t.apart d a) d m (fun t => t.regs a) 1 4 (fun s t =>
    let vl := s.hart.cs.vl
    let x := elem t.et.width (groupBits s.hart a.toNat t.group)
    let l := ((List.range vl).filter (isActive s.hart m)).map (fun i => some (x i))
    l ++ List.replicate (vl - l.length) (inactiveLane t))

/-- The lanes of VEXPD: active elements take the source's elements in order from `c` on. -/
def expandLanes (act : Nat → Bool) (x : Nat → Nat) (off : Option Nat) : List Nat → Nat → List (Option Nat)
  | [], _ => []
  | i :: rest, c => if act i then some (x c) :: expandLanes act x off rest (c + 1) else off :: expandLanes act x off rest c

/-- VEXPD (R92). -/
def execVexpd (d a : BitVec 5) (m : BitVec 3) (s : State) : Outcome :=
  vpermWord s true (fun t => t.aligned a && t.apart d a) d m (fun t => t.regs a) 1 4 (fun s t =>
    expandLanes (isActive s.hart m) (elem t.et.width (groupBits s.hart a.toNat t.group)) (inactiveLane t)
      (List.range s.hart.cs.vl) 0)

/-- VBCST (R92). -/
def execVbcst (d b : BitVec 5) (m : BitVec 3) (s : State) : Outcome :=
  vpermWord s (isH b) (fun _ => true) d m (fun _ => [.h b.toNat]) 1 4 (fun s t =>
    laneMap s t m (fun _ => some (scalarElem s.hart b t.et.width)))

/-- An element extended into an h register: sign for I types, zero for the others (R92, R93). -/
def extendElem (t : ElemType) (x : Nat) : Nat := if t.isSigned then lowBits 64 (toSigned t.width x) else x

/-- VEXT (R92). -/
def execVext (d a b : BitVec 5) (s : State) : Outcome :=
  vectorOp s (isH d && isH b) (fun t => t.aligned a) (fun t => t.regs a ++ [.h b.toNat]) (fun _ => [.h d.toNat])
    (fun t => latency s 1 4 (s.hart.cs.vl * t.et.width))
    (fun s t =>
      let j := (hRead s.hart b.toNat).toNat
      let x := if j < s.hart.cs.vl then extendElem t.et (elem t.et.width (groupBits s.hart a.toNat t.group) j) else 0
      wholeOp s [RegWrite.whole (.h d.toNat) x] id)

/-- An integer type of at least 8 bits. -/
def indexFit (t : VType) : Bool := t.et.isInt && decide (8 ≤ t.et.width)

/-- VID (R92). -/
def execVid (d : BitVec 5) (m : BitVec 3) (s : State) : Outcome :=
  vpermWord s true indexFit d m (fun _ => []) 1 4 (fun s t => laneMap s t m (fun i => some (i % 2 ^ t.et.width)))

/-- The number of ones of `v` below bit `i`. -/
def onesBelow (v i : Nat) : Nat := popCount i v

/-- VIOTA (R92). -/
def execViota (d a : BitVec 5) (m : BitVec 3) (s : State) : Outcome :=
  vpermWord s (isMask a) (fun t => indexFit t && maskFits s.hart) d m (fun _ => [.m a.toNat]) 1 4 (fun s t =>
    laneMap s t m (fun i => some (onesBelow (maskBits s.hart a.toNat) i % 2 ^ t.et.width)))

end Sys2Proof.Machine
end

