-- ==== Sys2Proof/Machine/VRed.lean ====
section
/-!
DEFINITION. VRED and VSMAX: reductions into an h register and the strip softmax (R45, R93, R95).
-/

namespace Sys2Proof.Machine

/-! ### The pairwise tree (R45) -/

/-- P: the least power of two that is at least VL, 1 when VL ≤ 1. -/
def treeSize (vl : Nat) : Nat := if vl ≤ 1 then 1 else 2 ^ ((vl - 1).log2 + 1)

/-- A node of the tree: its value and the lowest active element below it. -/
structure TreeNode where
  value : Nat
  index : Option Nat

/-- The lower of two indices. -/
def lowerIndex : Option Nat → Option Nat → Option Nat
  | some a, some b => some (min a b)
  | some a, none => some a
  | none, b => b

/-- A step of the tree on two nodes, with the flags it raises (R48). -/
def treeStep (op : Nat → Nat → Nat × Flags) (x y : TreeNode) : TreeNode × Raised :=
  let r := op x.value y.value
  let i := lowerIndex x.index y.index
  (⟨r.1, i⟩, match i with
    | some n => if r.2 = 0 then [] else [(n, r.2)]
    | none => [])

/-- One level of the tree. -/
def treeLevel (op : Nat → Nat → Nat × Flags) : List TreeNode → List TreeNode × Raised
  | x :: y :: rest =>
    let a := treeStep op x y
    let b := treeLevel op rest
    (a.1 :: b.1, a.2 ++ b.2)
  | l => (l, [])

/-- The levels of the tree, as many as are given. -/
def treeLevels (op : Nat → Nat → Nat × Flags) : Nat → List TreeNode → List TreeNode × Raised
  | 0, l => (l, [])
  | n + 1, l =>
    let a := treeLevel op l
    let b := treeLevels op n a.1
    (b.1, a.2 ++ b.2)

/-- The tree over the active elements below VL, every other position filled with the identity. -/
def treeOf (op : Nat → Nat → Nat × Flags) (identity vl : Nat) (act : Nat → Bool) (x : Nat → Nat) : Nat × Raised :=
  let p := treeSize vl
  let leaves := (List.range p).map (fun i =>
    if decide (i < vl) && act i then (⟨x i, some i⟩ : TreeNode) else ⟨identity, none⟩)
  let r := treeLevels op p.log2 leaves
  ((r.1.headD ⟨identity, none⟩).value, r.2)

/-- The tree over floats. A NaN result is the canonical one, and where a single position gives the result without a step, a
signalling NaN there raises NV as one in a step does (R35, R45; notes/assumptions/101). -/
def floatTree (f : FloatFormat) (op : Nat → Nat → Nat × Flags) (identity vl : Nat) (act : Nat → Bool) (x : Nat → Nat) :
    Nat × Raised :=
  let r := treeOf op identity vl act x
  let nv := if treeSize vl == 1 then (f.value r.1).nvIfSignalling else 0
  (if (f.value r.1).isNaN then f.canonicalNaN else r.1, if nv = 0 then r.2 else r.2 ++ [(0, nv)])

/-! ### VRED (R93) -/

/-- The active elements below VL. -/
def activeElems (h : Hart) (m : BitVec 3) : List Nat := (List.range h.cs.vl).filter (isActive h m)

/-- A reduction: `f` gives the 64-bit result and the flags raised. -/
def vredWord (s : State) (d a : BitVec 5) (m : BitVec 3) (fit : ElemType → Bool)
    (f : Hart → VType → (Nat → Nat) → Nat × Raised) : Outcome :=
  vectorOp s (isH d) (fun t => fit t.et && t.aligned a && governFits s.hart m)
    (fun t => t.regs a ++ maskRegs m) (fun _ => [.h d.toNat])
    (fun t => latency s 1 (4 + (treeSize s.hart.cs.vl).log2) (s.hart.cs.vl * t.et.width))
    (fun s t =>
      let r := f s.hart t (elem t.et.width (groupBits s.hart a.toNat t.group))
      wholeOp s [RegWrite.whole (.h d.toNat) r.1] (fun s => s.mapHart (fun h => noteFlags h 0 true r.2)))

/-- ET of the logical reductions and VRSUM: B1 and the integers. -/
def bitsOrInt (e : ElemType) : Bool := e == .b1 || e.isInt

/-- VRSUM: the exact sum; at 64 bits it is assigned by VTYPE.SAT. -/
def execVrsum (d a : BitVec 5) (m : BitVec 3) (s : State) : Outcome :=
  vredWord s d a m bitsOrInt (fun h t x =>
    let l := activeElems h m
    let sum := l.foldl (fun acc i => acc + toInteger t.et.isSigned t.et.width (x i)) 0
    if t.et.width == 64 then
      let r := assignInteger t.sat t.et.isSigned 64 sum
      (r.1, if r.2 = 0 then [] else [(l.headD 0, r.2)])
    else (lowBits 64 sum, []))

/-- A reduction to the width of ET without flags, extended by class. -/
def plainReduce (s : State) (d a : BitVec 5) (m : BitVec 3) (fit : ElemType → Bool) (identity : ElemType → Nat)
    (f : ElemType → Nat → Nat → Nat) : Outcome :=
  vredWord s d a m fit (fun h t x =>
    (extendElem t.et ((activeElems h m).foldl (fun acc i => f t.et acc (x i)) (identity t.et)), []))

/-- The greater and the lesser of two elements in the class of ET. -/
def maxOf (e : ElemType) (x y : Nat) : Nat :=
  if toInteger e.isSigned e.width x < toInteger e.isSigned e.width y then y else x
def minOf (e : ElemType) (x y : Nat) : Nat :=
  if toInteger e.isSigned e.width y < toInteger e.isSigned e.width x then y else x

/-- VRMAX (R93). -/
def execVrmax (d a : BitVec 5) (m : BitVec 3) (s : State) : Outcome :=
  plainReduce s d a m ElemType.isInt (fun e => lowBits e.width (minInteger e.isSigned e.width)) maxOf
/-- VRMIN (R93). -/
def execVrmin (d a : BitVec 5) (m : BitVec 3) (s : State) : Outcome :=
  plainReduce s d a m ElemType.isInt (fun e => lowBits e.width (maxInteger e.isSigned e.width)) minOf
/-- VRAND (R93). -/
def execVrand (d a : BitVec 5) (m : BitVec 3) (s : State) : Outcome :=
  plainReduce s d a m bitsOrInt (fun e => 2 ^ e.width - 1) (fun _ x y => x &&& y)
/-- VROR (R93). -/
def execVror (d a : BitVec 5) (m : BitVec 3) (s : State) : Outcome :=
  plainReduce s d a m bitsOrInt (fun _ => 0) (fun _ x y => x ||| y)
/-- VRXOR (R93). -/
def execVrxor (d a : BitVec 5) (m : BitVec 3) (s : State) : Outcome :=
  plainReduce s d a m bitsOrInt (fun _ => 0) (fun _ x y => x ^^^ y)

/-- VFRSUM: the identity is −0.0 (R45, R93). -/
def execVfrsum (d a : BitVec 5) (m : BitVec 3) (s : State) : Outcome :=
  vredWord s d a m (floatFit false) (fun h t x =>
    let f := floatFormat t.et
    floatTree f (f.add (arithMode h)) (f.pack true 0) h.cs.vl (isActive h m) x)
/-- VFRMAX: the identity is −∞ (R45, R93). -/
def execVfrmax (d a : BitVec 5) (m : BitVec 3) (s : State) : Outcome :=
  vredWord s d a m (floatFit false) (fun h t x =>
    let f := floatFormat t.et
    floatTree f (f.minMax true) (f.pack true f.infCode) h.cs.vl (isActive h m) x)
/-- VFRMIN: the identity is +∞ (R45, R93). -/
def execVfrmin (d a : BitVec 5) (m : BitVec 3) (s : State) : Outcome :=
  vredWord s d a m (floatFit false) (fun h t x =>
    let f := floatFormat t.et
    floatTree f (f.minMax false) (f.pack false f.infCode) h.cs.vl (isActive h m) x)

/-! ### VSMAX (R95) -/

/-- F32 1.0. -/
def one32 : Nat := 0x3F800000

/-- exp2 (x − M) in F32, both steps rounded in RNE, with the flags of both. -/
def expDiff (x mn : Nat) : Nat × Flags :=
  let f := floatFormat .f32
  let dif := f.sub .rne x mn
  let e := f.exp2 (f.value dif.1)
  (e.1, dif.2 ||| e.2)

/-- What a strip softmax computes: M, S, c, the weights of the active elements, and the flags. -/
structure Softmax where
  mn     : Nat
  sn     : Nat
  c      : Nat
  weight : Nat → Nat
  raised : Raised

/-- The strip softmax of R95 from the running maximum and sum. -/
def softmax (vl mo so : Nat) (act : Nat → Bool) (x : Nat → Nat) : Softmax :=
  let f := floatFormat .f32
  let sel := (List.range vl).filter act
  match sel with
  | [] => ⟨mo, so, one32, fun _ => 0, []⟩
  | first :: _ =>
    let mx := floatTree f (f.minMax true) (f.pack true f.infCode) vl act x
    let mn := f.minMax true mo mx.1
    let c := if mn.1 == f.pack true f.infCode then (one32, 0) else expDiff mo mn.1
    let weight (i : Nat) : Nat × Flags :=
      let r := expDiff (x i) mn.1
      (r.1, r.2 ||| (if (f.value (x i)).isNaN then flagNV else 0))
    let own : Raised := sel.filterMap (fun i => if (weight i).2 = 0 then none else some (i, (weight i).2))
    let t := floatTree f (f.add .rne) (f.pack true 0) vl act (fun i => (weight i).1)
    let sn := f.fma .rne false false so c.1 t.1
    ⟨mn.1, sn.1, c.1, fun i => (weight i).1, mx.2 ++ own ++ t.2 ++ [(first, mn.2 ||| c.2 ||| sn.2)]⟩

/-- VSMAX (R95). -/
def execVsmax (d a b : BitVec 5) (m : BitVec 3) (s : State) : Outcome :=
  let n := b.toNat
  vectorOp s (isSmaxIndex b)
    (fun t => t.et == .f32 && t.aligned d && t.aligned a && t.apart d a && governFits s.hart m)
    (fun t => t.regs a ++ [.h n, .h (n + 1)] ++ maskRegs m) (fun t => t.regs d ++ [.h n, .h (n + 1), .h (n + 2)])
    (fun t => latency s 4 (12 + (treeSize s.hart.cs.vl).log2) (s.hart.cs.vl * t.et.width))
    (fun s t =>
      let h := s.hart
      let r := softmax h.cs.vl (scalarElem h b 32) ((hRead h (n + 1)).toNat % 2 ^ 32) (isActive h m)
        (elem 32 (groupBits h a.toNat t.group))
      let lanes := laneMap s t m (fun i => some (r.weight i))
      let v := crossOp s t (t.dest h d) lanes
      match v.part with
      | some _ => v
      | none =>
        ⟨s.mapHart (fun h => noteFlags h 0 true r.raised),
          v.writes ++ [RegWrite.whole (.h n) r.mn, RegWrite.whole (.h (n + 1)) r.sn, RegWrite.whole (.h (n + 2)) r.c], none⟩)

end Sys2Proof.Machine
end

