-- ==== Sys2Proof/Machine/VCvt.lean ====
section
/-!
DEFINITION. VCVT and the functions of VSFU on single elements (R50 to R52, R94).
-/

namespace Sys2Proof.Machine

/-! ### Result types and groups (R51) -/

/-- CVT.N. -/
def narrowType (e : ElemType) (k : BitVec 1) : Option ElemType :=
  let alt (x y : ElemType) : Option ElemType := some (if k = 0#1 then x else y)
  match e with
  | .i64 => some .i32
  | .i32 => some .i16
  | .i16 => some .i8
  | .i8 => some .i4
  | .n64 => some .n32
  | .n32 => some .n16
  | .n16 => some .n8
  | .n8 => some .n4
  | .f64 => some .f32
  | .f32 => alt .f16 .bf16
  | .f16 => alt .e4m3 .e5m2
  | .bf16 => alt .e4m3 .e5m2
  | _ => none

/-- CVT.W. -/
def widenType (e : ElemType) (k : BitVec 1) : Option ElemType :=
  let alt (x y : ElemType) : Option ElemType := some (if k = 0#1 then x else y)
  match e with
  | .i4 => some .i8
  | .i8 => some .i16
  | .i16 => some .i32
  | .i32 => some .i64
  | .n4 => some .n8
  | .n8 => some .n16
  | .n16 => some .n32
  | .n32 => some .n64
  | .f32 => some .f64
  | .f16 => some .f32
  | .bf16 => some .f32
  | .e4m3 => alt .f16 .bf16
  | .e5m2 => alt .f16 .bf16
  | .e2m1 => alt .e4m3 .e5m2
  | _ => none

/-- CVT.FI: k chooses a signed or an unsigned result. -/
def toIntType (e : ElemType) (k : BitVec 1) : Option ElemType :=
  let alt (x y : ElemType) : Option ElemType := some (if k = 0#1 then x else y)
  match e with
  | .f16 => alt .i16 .n16
  | .bf16 => alt .i16 .n16
  | .f32 => alt .i32 .n32
  | .f64 => alt .i64 .n64
  | _ => none

/-- CVT.IF. -/
def toFloatType (e : ElemType) (k : BitVec 1) : Option ElemType :=
  match e with
  | .i16 => some (if k = 0#1 then .f16 else .bf16)
  | .n16 => some (if k = 0#1 then .f16 else .bf16)
  | .i32 => some .f32
  | .n32 => some .f32
  | .i64 => some .f64
  | .n64 => some .f64
  | _ => none

/-! ### Converting one element (R52) -/

/-- An element converted to another type, rounded once. -/
def convertElem (sat : Bool) (mode : RoundMode) (src dst : ElemType) (x : Nat) : Nat × Flags :=
  if src.isFloat then
    if dst.isFloat then (floatFormat dst).convert mode (floatVal src x)
    else floatToInteger mode dst.isSigned dst.width (floatVal src x)
  else
    let v := toInteger src.isSigned src.width x
    if dst.isFloat then (floatFormat dst).ofInteger mode v else assignInteger sat dst.isSigned dst.width v

/-- A conversion: `dst` gives the result type of ET and `dgroup` the destination group of G, none for ILLTYPE. -/
def vcvtWord (s : State) (d a : BitVec 5) (m : BitVec 3) (dst : ElemType → Option ElemType) (dgroup : Nat → Option Nat) :
    Outcome :=
  let resOf (t : VType) : ElemType := (dst t.et).getD t.et
  let groupOf (t : VType) : Nat := (dgroup t.group).getD 1
  vectorOp s true
    (fun t => (dst t.et).isSome && (dgroup t.group).isSome && t.aligned a && d.toNat % groupOf t == 0 && governFits s.hart m)
    (fun t => t.regs a ++ maskRegs m) (fun t => vGroup d.toNat (groupOf t))
    (fun t =>
      let w := max t.et.width (resOf t).width
      latency s (if w == 64 then 2 else 1) 5 (s.hart.cs.vl * w))
    (fun s t =>
      let h := s.hart
      let x := elem t.et.width (groupBits h a.toNat t.group)
      let s := unstopped s ((resOf t).width != t.et.width && overlap d.toNat (groupOf t) a.toNat t.group)
      elementWise s t ⟨d.toNat, groupOf t, (resOf t).width, h.cs.vl⟩ m true (stochastic h)
        (fun i draw => convertElem t.sat (roundMode h draw) t.et (resOf t) (x i)))

/-- CVT.N (R50 to R52). -/
def execCvtN (d a : BitVec 5) (k : BitVec 1) (m : BitVec 3) (s : State) : Outcome :=
  vcvtWord s d a m (fun e => narrowType e k) (fun g => some (max 1 (g / 2)))
/-- CVT.W (R50 to R52). -/
def execCvtW (d a : BitVec 5) (k : BitVec 1) (m : BitVec 3) (s : State) : Outcome :=
  vcvtWord s d a m (fun e => widenType e k) (fun g => if g = 8 then none else some (2 * g))
/-- CVT.FI (R50 to R52). -/
def execCvtFi (d a : BitVec 5) (k : BitVec 1) (m : BitVec 3) (s : State) : Outcome :=
  vcvtWord s d a m (fun e => toIntType e k) some
/-- CVT.IF (R50 to R52). -/
def execCvtIf (d a : BitVec 5) (k : BitVec 1) (m : BitVec 3) (s : State) : Outcome :=
  vcvtWord s d a m (fun e => toFloatType e k) some
/-- CVT.F4 (R50 to R52). -/
def execCvtF4 (d a : BitVec 5) (m : BitVec 3) (s : State) : Outcome :=
  vcvtWord s d a m (fun e => if e == .f32 then some .e2m1 else none) (fun g => some (max 1 (g / 8)))

/-! ### CVT.Q -/

/-- A group record is malformed for a code of `w` bits (R37). -/
def recordBad (w r : Nat) : Bool := decide (2 ^ 24 ≤ r) || (w == 4 && decide (16 ≤ r / 2 ^ 16 % 256))

/-- Result types of CVT.Q. -/
def quantiseFit (e : ElemType) : Bool :=
  e == .e2m1 || e == .e4m3 || e == .e5m2 || e == .i4 || e == .i8 || e == .qn4 || e == .qn8

/-- The width of an element of the scale vector. -/
def scaleWidth (e : ElemType) : Nat := if e.isQuant then 32 else 8

/-- An F32 element quantised with the scale of its block (R52). -/
def quantiseElem (mode : RoundMode) (e : ElemType) (x scale : Nat) : Nat × Flags :=
  let v := floatVal .f32 x
  if e.isQuant then quantiseCode e.width mode v (scale % 2 ^ 16) (scale / 2 ^ 16 % 256)
  else if e.isFloat then quantiseFloat (floatFormat e) mode v scale
  else quantiseInteger e.width mode v scale

/-- CVT.Q (R50 to R52): the records of the blocks with an active element are checked before anything is written. -/
def execCvtQ (d a b : BitVec 5) (m : BitVec 3) (s : State) : Outcome :=
  let t := vtypeOf s
  let gs := t.group * 32 / t.et.width
  runFixed s .v true
    (fits s (fun t => quantiseFit t.et && t.bs != 0 && decide (gs ≤ 8) && a.toNat % gs == 0 && t.aligned d &&
      governFits s.hart m))
    (vGroup a.toNat gs ++ [.v b.toNat] ++ maskRegs m) (t.regs d) (latency s 1 6 (s.hart.cs.vl * 32))
    (fun s =>
      let h := s.hart
      let x := elem 32 (groupBits h a.toNat gs)
      let sc := elem (scaleWidth t.et) (vget h.ve.v b.toNat 0).toNat
      if t.et.isQuant && (activeElems h m).any (fun i => recordBad t.et.width (sc (i / t.block))) then
        .error (.trap (badrec 5 0))
      else
        let s := unstopped s (overlap d.toNat t.group a.toNat gs || overlap d.toNat t.group b.toNat 1)
        .ok (elementWise s t (t.dest h d) m true (stochastic h)
          (fun i draw => quantiseElem (roundMode h draw) t.et (x i) (sc (i / t.block)))))

/-! ### VSFU on elements (R94) -/

/-- A special function: correctly rounded in RNE whatever FRM holds. -/
def vsfuWord (s : State) (d a : BitVec 5) (m : BitVec 3) (f : FloatFormat → FloatVal → Nat × Flags) : Outcome :=
  vectorOp s true
    (fun t => (t.et == .f16 || t.et == .bf16 || t.et == .f32) && t.aligned d && t.aligned a && governFits s.hart m)
    (fun t => t.regs a ++ maskRegs m) (fun t => t.regs d)
    (fun t => latency s 2 8 (s.hart.cs.vl * t.et.width))
    (fun s t =>
      let x := elem t.et.width (groupBits s.hart a.toNat t.group)
      elementOp s t (t.dest s.hart d) m true (fun i => f (floatFormat t.et) (floatVal t.et (x i))))

/-- VEXP2 (R94). -/
def execVexp2 (d a : BitVec 5) (m : BitVec 3) (s : State) : Outcome := vsfuWord s d a m FloatFormat.exp2
/-- VLOG2 (R94). -/
def execVlog2 (d a : BitVec 5) (m : BitVec 3) (s : State) : Outcome := vsfuWord s d a m FloatFormat.log2
/-- VRCP (R94). -/
def execVrcp (d a : BitVec 5) (m : BitVec 3) (s : State) : Outcome := vsfuWord s d a m FloatFormat.rcp
/-- VRSQ (R94). -/
def execVrsq (d a : BitVec 5) (m : BitVec 3) (s : State) : Outcome := vsfuWord s d a m FloatFormat.rsq
/-- VTANH (R94). -/
def execVtanh (d a : BitVec 5) (m : BitVec 3) (s : State) : Outcome := vsfuWord s d a m FloatFormat.tanh

end Sys2Proof.Machine
end

