-- ==== Sys2Proof/Machine/Engine.lean ====
section
/-!
DEFINITION. What engine words and engine commands share: the record cache, the queue, sequence numbers and stamps, the
scoreboard, tiles, and engine faults (R169 to R175, R178, R184 to R186, R190, R344).
-/

namespace Sys2Proof.Machine

/-! ### Tiles (R25, R169) -/

/-- Rows and columns of an accumulator tile. -/
def tileShape (ts : BitVec 2) : Nat × Nat :=
  match ts.toNat with
  | 0 => (128, 128)
  | 1 => (64, 256)
  | 2 => (256, 64)
  | _ => (32, 512)

/-- Elements of an accumulator tile. -/
def tileElems : Nat := 16384

/-- Element `i` of an accumulator tile, as bits. -/
def accElem (h : Hart) (t i : Nat) : Nat := elem 32 (vget h.tl.acc (t - 8) 0).toNat i

/-- An accumulator tile replaced. -/
def setAcc (h : Hart) (t : Nat) (v : Nat) : Hart :=
  { h with tl := { h.tl with acc := vset h.tl.acc (t - 8) (BitVec.ofNat 524288 v) } }

/-- Element `i` of an accumulator tile replaced. -/
def setAccElem (h : Hart) (t i x : Nat) : Hart :=
  setAcc h t (mergeBits (vget h.tl.acc (t - 8) 0).toNat (x % 2 ^ 32 * 2 ^ (32 * i)) ((2 ^ 32 - 1) * 2 ^ (32 * i)))

/-- An operand tile. -/
def opTile (h : Hart) (t : Nat) : OpTile := vget h.tl.op t .unbound

def setOp (h : Hart) (t : Nat) (x : OpTile) : Hart := { h with tl := { h.tl with op := vset h.tl.op t x } }

/-- The types an operand tile can have (R174). -/
def operandType (e : ElemType) : Bool :=
  e == .e2m1 || e == .e4m3 || e == .e5m2 || e == .f16 || e == .bf16 || e == .i4 || e == .n4 || e == .i8 || e == .n8 ||
    e == .qn4 || e == .qn8

/-- Type, rows and columns of an operand tile. -/
def OpTile.shape : OpTile → Option ElemType × Nat × Nat
  | .unbound => (none, 0, 0)
  | .bound t _ _ _ => (some t.et, t.count / t.ext0, t.ext0)
  | .staged et rows cols _ _ _ => (et, rows, cols)

/-- The scale array attached to an operand tile. -/
def OpTile.scale : OpTile → Option ScaleRef
  | .unbound => none
  | .bound _ _ _ x => x
  | .staged _ _ _ _ _ x => x

/-! ### Poison (R80, R81) -/

/-- UNCORR of a word that reads a poisoned tile, or a poisoned accumulator in the register die. -/
def poisonedTile (h : Hart) (ts : List Nat) : Option Trap :=
  match ts.find? (fun t => h.tl.poison.contains t) with
  | some t => some { code := causeUncorr, sub := 2, val := word t }
  | none => (ts.find? (fun t => decide (8 ≤ t) && h.poison.contains (3, t))).map (fun t => uncorrReg 3 t)

/-- A tile holds poison: a command left it poisoned, or its accumulator in the register die is (R80, R81). -/
def tilePoisoned (h : Hart) (t : Nat) : Bool := h.tl.poison.contains t || (decide (8 ≤ t) && h.poison.contains (3, t))

/-- A tile that is written whole is poisoned just if what it was formed from is. -/
def settleTilePoison (h : Hart) (t : Nat) (bad : Bool) : Hart :=
  let l := h.tl.poison.filter (· != t)
  mendPoison { h with tl := { h.tl with poison := if bad then t :: l else l } } 3 t

/-! ### The record cache (R184) -/

/-- 64 bytes of a value, the lowest first. -/
def recordBytes (v : Nat) : List Byte := (List.range 64).map (fun i => BitVec.ofNat 8 (bytesAt v i 1))

/-- The value of bytes, the lowest first. -/
def bytesValue (l : List Byte) : Nat := l.foldr (fun b acc => b.toNat + 256 * acc) 0

/-- A record installed, the least recently used of sixteen replaced. -/
def installRecord (s : State) (at_ : Word) (l : List Byte) : State :=
  s.mapHart (fun h => { h with tl := { h.tl with records := (at_, l) :: (h.tl.records.filter (fun x => x.1 != at_)).take 15 } })

/-- A shape record read through the record cache: a cached version or a fresh one, where one is cached
(notes/assumptions/35). -/
def readRecord (s : State) (at_ : Word) : Except Stop (Nat × State) := do
  if at_.toNat % 64 != 0 then .error (.trap (misalign at_.toNat))
  else
    match s.hart.tl.records.find? (fun x => x.1 == at_) with
    | some x =>
      let (fresh, s) := s.choose
      if fresh then
        let (v, s) ← orderedRead s s.hart .other at_.toNat 64
        .ok (v, installRecord s at_ (recordBytes v))
      else .ok (bytesValue x.2, installRecord s at_ x.2)
    | none =>
      let (v, s) ← orderedRead s s.hart .other at_.toNat 64
      .ok (v, installRecord s at_ (recordBytes v))

/-- The shape record at an address; a malformed one raises BADREC with `blame` in HTVAL. -/
def readShape (s : State) (at_ : Word) (blame : Nat) : Except Stop (Tsr × State) := do
  let (v, s) ← readRecord s at_
  match tsrOf v with
  | some t => .ok (t, s)
  | none => .error (.trap (badrec 0 blame))

/-! ### The queue (R173, R185) -/

/-- The tiles of a signature group. -/
def groupTiles (g : Nat) : List Nat := [g, g + 1, g + 2, g + 3]

/-- The tiles a command reads. -/
def CmdKind.readTiles : CmdKind → List Nat
  | .mma td ta tb zero .. => [ta, tb] ++ (if zero then [] else [td])
  | .tst t _ _ => [t]
  | .sigAdd g _ => groupTiles g
  | .sigMul g h => groupTiles g ++ groupTiles h
  | .sigLog _ h => groupTiles h
  | .sigSt g _ => groupTiles g
  | _ => []

/-- Entries of the engine queue. -/
def queueSize : Nat := 8

/-- A region is open on the core of the hart in focus, in another hart (R188). -/
def regionElsewhere (s : State) : Bool :=
  s.parked.any (fun h => h.place.core == s.hart.place.core && h.tl.region.isSome)

/-- A word takes the next sequence number: it is the latest producer of the tiles it writes (R185). -/
def takeNumber (s : State) (tiles : List Nat) : BitVec 16 × State :=
  let n := s.hart.tl.next
  (n, s.mapHart (fun h => { h with tl := { h.tl with
    next := n + 1, producer := tiles.foldl (fun p t => vset p t n) h.tl.producer } }))

/-- Tiles stamped with a number (R185). -/
def stampTiles (h : Hart) (tiles : List Nat) (n : BitVec 16) : Hart :=
  { h with tl := { h.tl with stamp := tiles.foldl (fun p t => vset p t (some n)) h.tl.stamp } }

/-- The entry of a command that issues now. -/
def newCommand (s : State) (k : CmdKind) (start : Option Nat) : EngCmd :=
  { kind := k, word := s.issue.word, qpos := qposOf s.hart, seq := none,
    expect := k.readTiles.map (fun t => (t, vget s.hart.tl.producer t 0)), start := start, cfg := s.hart.tl.cfg,
    since := s.clock }

/-- A command put into the queue; it takes a number if it writes tiles. -/
def enqueue (s : State) (c : EngCmd) : State :=
  let put (s : State) (c : EngCmd) : State := s.mapHart (fun h => { h with tl := { h.tl with queue := h.tl.queue ++ [c] } })
  if c.kind.tiles.isEmpty then put s c
  else
    let (n, s) := takeNumber s c.kind.tiles
    put s { c with seq := some n }

/-! ### The scoreboard (R178, R186) -/

/-- Steps of a command: K columns, lines, or elements. -/
def EngCmd.steps (c : EngCmd) (h : Hart) : Nat :=
  match c.kind with
  | .mma _ ta tb .. => min (opTile h ta).shape.2.2 (opTile h tb).shape.2.2
  | .tld _ => 0
  | .tst _ dst _ => (dst.count * dst.et.width + 1023) / 1024
  | .copyMem _ _ dst => (dst.count * dst.et.width + 1023) / 1024
  | .copyTile src .. => (src.count * src.et.width + 1023) / 1024
  | _ => sigSize c.cfg.1 c.cfg.2

/-- A command runs. -/
def EngCmd.running (c : EngCmd) : Bool :=
  match c.state with
  | .running _ => true
  | .waiting => false

/-- A command has taken its last step: an array command has left the array. -/
def EngCmd.leftArray (c : EngCmd) (h : Hart) : Bool := c.running && decide (c.steps h ≤ c.progress)

/-- A command clashes with an earlier one through a tile. -/
def tilesClash (earlier : EngCmd) (reads writes : List Nat) : Bool :=
  earlier.kind.tiles.any (fun t => reads.contains t || writes.contains t) || earlier.kind.readTiles.any (fun t => writes.contains t)

/-- A word that acts at issue waits for the commands that clash with it. -/
def awaitTiles (s : State) (reads writes : List Nat) : Except Stop Unit :=
  if s.hart.tl.queue.any (fun c => tilesClash c reads writes) then .error .wait else .ok ()

/-- The result of the command just before on the array may be forwarded: it writes the same accumulator and has left the
array (R178). -/
def forwards (h : Hart) (before : List EngCmd) (c : EngCmd) (e : EngCmd) : Bool :=
  match c.kind, e.kind with
  | .mma td .., .mma td' .. =>
    td == td' && e.leftArray h && (before.filter (fun x => x.kind.unit == .array)).getLast? == some e
  | _, _ => false

/-- A unit of the core is in use by another hart. -/
def unitBusyElsewhere (s : State) (u : EngineUnit) : Bool :=
  u != .pins && s.parked.any (fun h => h.place.core == s.hart.place.core && h.resident &&
    h.tl.queue.any (fun c => c.kind.unit == u && c.running && !(u == .array && c.leftArray h)))

/-- An add that a VFPUSH of the hart before a command made to a window line of the addresses has not been performed. -/
def addsAwaited (s : State) (h : Hart) (c : EngCmd) (l : List Nat) : Bool :=
  s.cores.any (fun u => u.fifo.any (fun e => e.uid == h.uid && decide (e.since < c.since) && !e.adds.isEmpty &&
    l.any (fun va => match (if 2 ^ 56 ≤ va then windowOf s h va else none) with
      | some loc => e.adds.any (fun a => lineOf a.loc == lineOf loc)
      | none => false)))

/-- A command follows such adds to a line it reads or writes (R135, R186). -/
def addsPending (s : State) (h : Hart) (c : EngCmd) : Bool :=
  addsAwaited s h c (c.kind.readBytes h c.cfg ++ c.kind.writeBytes c.cfg)

/-- A command may start as far as its engine, the scoreboard and the memory footprints go (R173, R186). -/
def mayStart (s : State) (before : List EngCmd) (c : EngCmd) : Bool :=
  let h := s.hart
  !regionElsewhere s && !unitBusyElsewhere s c.kind.unit &&
    before.all (fun e => e.kind.unit != c.kind.unit || e.kind.unit == .pins || (e.kind.unit == .array && e.leftArray h)) &&
    (!c.follow || before.all (fun e => e.kind.unit != .copy)) &&
    before.all (fun e => !tilesClash e c.kind.readTiles c.kind.tiles || forwards h before c e) &&
    before.all (fun e => !footprintsMeet s h e c) && !addsPending s h c

/-! ### Engine faults (R344) -/

/-- The hart is Ending and its vector side has no further word. -/
def vectorDone (h : Hart) : Bool := h.life == .ending && h.ve.block.isNone && h.ve.blockQ.isEmpty

/-- Entry `k` of the queue freed. -/
def dropCommand (h : Hart) (k : Nat) : Hart := { h with tl := { h.tl with queue := h.tl.queue.eraseIdx k } }

/-- Entry `k` of the queue changed. -/
def setCommand (h : Hart) (k : Nat) (c : EngCmd) : Hart := { h with tl := { h.tl with queue := h.tl.queue.set k c } }

/-- Tiles whose contents an engine fault leaves unspecified: those of MMA, MMAZ and a copy into a tile. -/
def CmdKind.lost : CmdKind → List Nat
  | .mma td .. => [td]
  | .copyTile _ _ t _ => [t]
  | _ => []

/-- The command at `k` stops at a fault, whose walk has left its marks: outside a region the fault waits for the next
vector-side word, or is delivered at once to a hart that is Ending and issues no more; inside a region it is a precise
trap. -/
def engineFault (s : State) (k : Nat) (c : EngCmd) (x : Trap) : State :=
  let t := x.noted
  if s.hart.cs.hstat.timed then takeTrap s t .vector true (some c.qpos)
  else
    let s := (s.chargeCommand c).mapHart (fun h => dropCommand h k)
    let s := c.kind.lost.foldl (fun s t =>
      let (b, s) := s.draw
      s.mapHart (fun h => loseContents h c.kind t b)) s
    if vectorDone s.hart && s.hart.tl.faults.isEmpty then takeTrap s t .vector true (some s.hart.ve.lastPos)
    else (s.mapHart (fun h => { h with tl := { h.tl with faults := h.tl.faults ++ [(t, none)] } }))

/-! ### Ends of words -/

/-- A word of the engines that is executed in part or in whole. -/
def settleResult (r : Result) : State :=
  match r.part with
  | none => retire (r.state.mapHart (fun h => applyWrites h r.writes))
  | some n => stall (r.state.mapHart (fun h =>
      let h := applyWrites h r.writes
      { h with cs := { h.cs with vprog := BitVec.ofNat 64 n } }))

/-- A vector-side engine word that depends on VTYPE. -/
def engineWord (s : State) (wf : Bool) (fit : VType → Bool) (reads writes : List RegId)
    (body : State → VType → Except Stop State) : Outcome :=
  let t := vtypeOf s
  runPlain s .v wf (fits s fit) reads writes (fun s => body s t)

/-- Tiles read by a word at issue: a poisoned one traps, unless an earlier command is still to write it. -/
def checkTiles (s : State) (ts : List Nat) : Except Stop Unit :=
  match poisonedTile s.hart (ts.filter (fun t => s.hart.tl.queue.all (fun c => !c.kind.tiles.contains t))) with
  | some t => .error (.trap t)
  | none => .ok ()

/-- A word that needs the array or the copy engine waits for a region of another hart of the core (R188, R191), and any
engine word waits for `n` free entries of the queue. -/
def awaitQueue (s : State) (n : Nat) : Except Stop Unit :=
  if regionElsewhere s || decide (queueSize < s.hart.tl.queue.length + n) then .error .wait else .ok ()

end Sys2Proof.Machine
end

