-- ==== Sys2Proof/Machine/Mma.lean ====
section
/-!
DEFINITION. MMA and MMAZ: the issue of matrix products, the checks at their start and the values they form (R42, R46,
R170, R174 to R178, R189).
-/

namespace Sys2Proof.Machine

/-! ### Issue (R170, R176, R189) -/

/-- TIMING with a region cycle and a tile. -/
def timing (sub : BitVec 8) (cycle tile : Nat) : Trap := { code := causeTiming, sub := sub, val := word (cycle * 2 ^ 32 + tile) }

/-- SCHED with a region cycle and a tile. -/
def sched (cycle tile : Nat) : Trap := { code := causeSched, val := word (cycle * 2 ^ 32 + tile) }

/-- An operand tile is unbound, and no earlier copy is to stage it. -/
def unboundTile (s : State) (also : List Nat) (t : Nat) : Bool :=
  opTile s.hart t == .unbound && !also.contains t && s.hart.tl.queue.all (fun c => !c.kind.tiles.contains t)

/-- The checks of a command with a start cycle in a timed region: one whose word issues after it is late (R189). -/
def checkLate (s : State) (start tile : Nat) : Except Stop Unit :=
  match s.hart.tl.region with
  | some r => if start < regionCycle s r then .error (.trap (timing 0 start tile)) else .ok ()
  | none => .ok ()

/-- The start cycle of a command: none outside timed regions. -/
def startCycle (s : State) (start : Nat) : Option Nat := if s.hart.cs.hstat.timed then some start else none

/-- The checks an MMA or MMAZ makes at issue; `also` are tiles that count as staged (R170, R182). -/
def checkMma (s : State) (also : List Nat) (td ta tb : Nat) (zero : Bool) : Except Stop Unit :=
  if unboundTile s also ta || unboundTile s also tb then .error (.trap (badrec 0 0))
  else checkTiles s ([ta, tb].filter (fun t => !also.contains t) ++ (if zero || also.contains td then [] else [td]))

/-- A matrix product issued (R176). -/
def mmaWord (s : State) (d a b : BitVec 4) (o : BitVec 10) (zero : Bool) : Outcome :=
  engineWord s (isAccTile4 d && isOperandTile4 a && isOperandTile4 b) (fun _ => true) [] [] (fun s t => do
    checkMma s [] d.toNat a.toNat b.toNat zero
    checkLate s (4 * o.toNat) d.toNat
    awaitQueue s 1
    .ok (retire (enqueue s (newCommand s (.mma d.toNat a.toNat b.toNat zero t.ts t.sat [] []) (startCycle s (4 * o.toNat))))))

/-- MMA. -/
def execMma (d a b : BitVec 4) (o : BitVec 10) (s : State) : Outcome := mmaWord s d a b o false
/-- MMAZ. -/
def execMmaz (d a b : BitVec 4) (o : BitVec 10) (s : State) : Outcome := mmaWord s d a b o true

/-! ### Pairings (R174) -/

/-- The class of a product, with its summation block where that is fixed. -/
inductive ProductClass where
  | narrow | half | integer | quant | empty
  deriving DecidableEq, Repr, Inhabited

def isNarrow (e : ElemType) : Bool := e == .e2m1 || e == .e4m3 || e == .e5m2
def isHalf (e : ElemType) : Bool := e == .f16 || e == .bf16
def isSmallInt (e : ElemType) : Bool := e == .i4 || e == .n4 || e == .i8 || e == .n8

/-- The class of two types; none: the pairing is not accepted. -/
def classOf (x y : ElemType) : Option ProductClass :=
  if isNarrow x && isNarrow y then some .narrow
  else if isHalf x && isHalf y then some .half
  else if isSmallInt x && isSmallInt y then some .integer
  else if (x.isQuant || y.isQuant) && (x.isQuant || isSmallInt x) && (y.isQuant || isSmallInt y) then some .quant
  else none

/-- The class of two tiles: an empty one pairs as the other does with itself. -/
def tileClass (x y : Option ElemType) : Option ProductClass :=
  match x, y with
  | some x, some y => classOf x y
  | some x, none => classOf x x
  | none, some y => classOf y y
  | none, none => some .empty

/-- Array cycles T of two types. -/
def arrayCycles (x y : Option ElemType) : Nat :=
  let wide (e : Option ElemType) : Nat := match e with
    | some e => e.width
    | none => 4
  max 64 (16 * max (wide x) (wide y))

/-! ### Scales (R175, R180) -/

/-- The kind of record a type takes matches the record's format. -/
def recordFits (e : ElemType) (r : ScaleRec) : Bool := r.fmt == e

/-- The record attached to a bound tile's data byte: the pinned line's, or the one its line would be filled with. -/
def boundRecord (s : State) (e : ElemType) (pins : List Pin) (loc : Nat) : Option ScaleRec :=
  let r : Option ScaleRec := match pins.find? (fun p => p.line == lineOf loc) with
    | some p => p.recs.find? (fun (r : ScaleRec) => decide (r.at_ ≤ loc ∧ loc < r.at_ + r.gs * r.fmt.width / 8))
    | none => lineScale s s.hart.place.core loc
  r.bind (fun (r : ScaleRec) => if recordFits e r then some r else none)

/-- The record of element (r, k) from a tile's lines. -/
def metadataOf (s : State) (x : OpTile) (r k : Nat) : Option ScaleRec :=
  match x with
  | .bound t _ pins _ =>
    let bit := t.bitAddr (k + t.ext0 * r)
    if bit < 0 then none else (quietAt s (bit / 8).toNat).bind (boundRecord s t.et pins)
  | .staged _ _ cols _ recs _ =>
    let p := r * cols + k
    recs.find? (fun (y : ScaleRec) => y.at_ == p)
  | .unbound => none

/-- Elements of a group of a quantised tile: the attachment's block size, or that of its lines. -/
def groupSize (s : State) (x : OpTile) : Option Nat :=
  match x.scale with
  | some r => some r.bs
  | none => (metadataOf s x 0 0).map (·.gs)

/-- A quantised tile whose elements have no source of scales (R175). -/
def unscaled (s : State) (x : OpTile) : Bool :=
  let (e, rows, cols) := x.shape
  match e with
  | some e => e.isQuant && x.scale.isNone &&
      (List.range rows).any (fun r => (List.range cols).any (fun k =>
        (metadataOf s x r k).isNone && (match x with
          | .bound t _ _ _ => (quietAt s (t.bitAddr (k + t.ext0 * r) / 8).toNat).isSome
          | _ => true)))
  | none => false

/-- HTVAL of the BADREC of R175. -/
def recordAddr : OpTile → Nat
  | .bound _ at_ _ _ => at_.toNat
  | _ => 0

/-- The checks of a product at its start (R174, R175). -/
def startChecks (s : State) (c : EngCmd) (ta tb : Nat) : Option Trap :=
  let x := opTile s.hart ta
  let y := opTile s.hart tb
  match tileClass x.shape.1 y.shape.1 with
  | none => some { code := causeIlltype, val := c.word.setWidth 64 }
  | some k =>
    if unscaled s x then some (badrec 5 (recordAddr x))
    else if unscaled s y then some (badrec 5 (recordAddr y))
    else
      let q (o : OpTile) : Bool := match o.shape.1 with
        | some e => e.isQuant
        | none => false
      if k == .quant && q x && q y && groupSize s x != groupSize s y then some { code := causeIlltype, val := c.word.setWidth 64 }
      else none

/-! ### Values (R42, R46, R177) -/

/-- An SC8 scale as an exponent: none for the NaN code (R36, R41). -/
def sc8Exp (r : Nat) : Option Int := if r % 256 = 255 then none else some ((r % 256 : Nat) - 127 : Int)

/-- The value of an optional SC8 record: 1.0 without one. -/
def blockExp (r : Option Nat) : Option Int :=
  match r with
  | some r => sc8Exp r
  | none => some 0

/-- A finite value times a power of two. -/
def FloatVal.scaleBy (k : Int) : FloatVal → FloatVal
  | .fin n m e => .fin n m (e + k)
  | v => v

/-- The block value of a float class: the exact sum of the exact products, times the two scales, rounded once. -/
def floatBlock (x y : ElemType) (ps : List (Nat × Nat)) (rx ry : Option Nat) : Nat × Flags :=
  match blockExp rx, blockExp ry with
  | some i, some j =>
    (floatFormat .f32).fusedSum .rne
      (ps.map (fun p => (mulExact (floatVal x p.1) (floatVal y p.2)).map (FloatVal.scaleBy (i + j))))
  | _, _ => (floatFormat .f32).invalid

/-- The zero point and the scale a quantised block is read with: 0 and 1.0 without a record. -/
def groupScale (r : Option Nat) : Nat × FloatVal :=
  match r with
  | some r => (r / 2 ^ 16 % 256, floatVal .f16 (r % 2 ^ 16))
  | none => (0, .fin false 1 0)

/-- The block value of the quantised class (R41, R42). -/
def quantBlock (x y : ElemType) (ps : List (Nat × Nat)) (rx ry : Option Nat) : Nat × Flags :=
  let (za, sa) := groupScale rx
  let (zb, sb) := groupScale ry
  let value (e : ElemType) (v : Nat) : Int := toInteger e.isSigned e.width v
  let sum : Int := ps.foldl (fun acc p => acc + (value x p.1 - za) * (value y p.2 - zb)) 0
  if sa.isNaN || sb.isNaN then (floatFormat .f32).invalid
  else match mulExact sa sb with
    | none => (floatFormat .f32).invalid
    | some sc => match mulExact (.fin (decide (sum < 0)) sum.natAbs 0) sc with
      | none => (floatFormat .f32).invalid
      | some v => (floatFormat .f32).convert .rne v

/-- The exact sum of the products of the integer class. -/
def integerBlock (x y : ElemType) (ps : List (Nat × Nat)) : Int :=
  ps.foldl (fun acc p => acc + toInteger x.isSigned x.width p.1 * toInteger y.isSigned y.width p.2) 0

/-- The row m of fetched columns: elements with their column's record. -/
def rowOf (cols : List Column) (m : Nat) : List (Nat × Option Nat) :=
  cols.map (fun c => (c.elems.getD m 0, c.recs.getD m none))

/-- A list cut into blocks of `n`; `fuel` blocks at most. -/
def blocksOf {α : Type} (n : Nat) : Nat → List α → List (List α)
  | 0, _ => []
  | fuel + 1, l => if l.isEmpty then [] else l.take n :: blocksOf n fuel (l.drop n)

/-- Element (m, n) of a product of one class from the rows of its operands and the element before. A block takes the record
of its first element (notes/assumptions/102). -/
def productElem (k : ProductClass) (x y : ElemType) (kb : Nat) (sat : Bool) (old : Option Nat)
    (ra rb : List (Nat × Option Nat)) : Nat × Flags :=
  let pairs := List.zip ra rb
  match k with
  | .integer =>
    if pairs.isEmpty then (old.getD 0, 0)
    else assignInteger sat true 32
      ((match old with | some v => toSigned 32 v | none => 0) + integerBlock x y (pairs.map (fun p => (p.1.1, p.2.1))))
  | .empty => (old.getD 0, 0)
  | _ =>
    let r := (blocksOf kb 128 pairs).foldl
      (fun (acc : Option Nat × Flags) b =>
        let ps := b.map (fun p => (p.1.1, p.2.1))
        let rx := (b.head?.map (·.1.2)).getD none
        let ry := (b.head?.map (·.2.2)).getD none
        let v := if k == .quant then quantBlock x y ps rx ry else floatBlock x y ps rx ry
        match acc.1 with
        | none => (some v.1, acc.2 ||| v.2)
        | some a =>
          let t := (floatFormat .f32).add .rne a v.1
          (some t.1, acc.2 ||| v.2 ||| t.2))
      (old, 0)
    (r.1.getD 0, r.2)

/-- The summation block of a class (R174). -/
def blockSize (k : ProductClass) (gs : Nat) : Nat :=
  match k with
  | .narrow => 32
  | .half => 16
  | .quant => max 1 gs
  | _ => 128

/-- The accumulator tile after a product (R177): its bits and its flags. -/
def productTile (h : Hart) (td : Nat) (zero : Bool) (ts : BitVec 2) (sat : Bool) (k : ProductClass) (x y : ElemType)
    (kb rowsA rowsB : Nat) (colsA colsB : List Column) : Nat × Flags :=
  let n := (tileShape ts).2
  let l := (List.range tileElems).map (fun i =>
    let r := i / n
    let c := i % n
    let old := if zero then none else some (accElem h td i)
    if r < rowsA ∧ c < rowsB then productElem k x y kb sat old (rowOf colsA r) (rowOf colsB c) else (old.getD 0, 0))
  ((packLanes 32 (l.map (fun v => some v.1))).1, l.foldl (fun f v => f ||| v.2) 0)

/-! ### Timing inside a region (R178, R181, R190, R251) -/

/-- Cycles an array command occupies the array. -/
def arrayTime (h : Hart) (c : EngCmd) : Nat :=
  let n := c.cfg.2
  let v := (sigSize c.cfg.1 n + 63) / 64
  match c.kind with
  | .mma _ ta tb .. => arrayCycles (opTile h ta).shape.1 (opTile h tb).shape.1
  | .sigInit _ => 64
  | .sigAdd _ _ => 16 + n * v
  | .sigMul _ _ => 16 + 2 * n * v
  | .sigLog _ _ => 16 + n * n * v
  | _ => 0

/-- Bytes a copy moves: those of its source. -/
def copyBytes (c : EngCmd) : Nat :=
  match c.kind with
  | .copyMem src _ _ => (src.count * src.et.width + 7) / 8
  | .copyTile src _ _ _ => (src.count * src.et.width + 7) / 8
  | .sigLd _ _ => 4 * sigSize c.cfg.1 c.cfg.2
  | .sigSt _ _ => 4 * sigSize c.cfg.1 c.cfg.2
  | _ => 0

/-- The clock by which a timed command has taken its last step, and the clock at which it completes; none where its
timing varies. -/
def commandTimes (h : Hart) (c : EngCmd) : Option (Nat × Nat) :=
  match c.state with
  | .waiting => none
  | .running t =>
    match c.kind.unit with
    | .array => some (t + arrayTime h c, t + arrayTime h c + 8)
    | .copy =>
      if c.varying then none
      else match c.kind with
        | .tst .. => none
        | _ =>
          let e := t + 16 + (copyBytes c + 255) / 256
          some (e, e)
    | .pins => none

/-- Lines that the hart's bound tiles pin. -/
def pinnedLines (h : Hart) : List Nat :=
  h.tl.op.toList.flatMap (fun x => match x with
    | .bound _ _ pins _ => pins.map (·.line)
    | _ => [])

/-- A byte of a window level or of a pinned line. -/
def isSteady (s : State) (va : Nat) : Bool :=
  decide (2 ^ 56 ≤ va) || (match quietAt s va with
    | some loc => (pinnedLines s.hart).contains (lineOf loc)
    | none => false)

/-- A command of the copy engine has variable timing (R181). -/
def variesInTime (s : State) (c : EngCmd) : Bool :=
  c.kind.unit == .copy && !(c.kind.readBytes s.hart c.cfg ++ c.kind.writeBytes c.cfg).all (isSteady s)

/-- Another command of the queue occupies the unit at this clock. -/
def occupies (s : State) (c e : EngCmd) : Bool :=
  e.running && e.kind.unit == c.kind.unit &&
    (match e.kind.unit, commandTimes s.hart e with
     | .array, some x => decide (s.clock < x.1)
     | _, _ => true)

end Sys2Proof.Machine
end

