-- ==== Sys2Proof/Machine/Sync.lean ====
section
/-!
DEFINITION. SYNC: sync objects and fences, and the publishing and acquiring actions (R130 to R134, R138, R139).
-/

namespace Sys2Proof.Machine

/-! ### Publishing and acquiring actions (R130) -/

/-- The scope reaches a far- or peer-homed line of the stack's L2: far lines from .dev on, peer lines at .sys. -/
def scopeReaches (scope line : Nat) : Bool :=
  (decide (scopeDev ≤ scope) && isFarLoc (128 * line)) || (decide (scopeSys ≤ scope) && isPeerLoc (128 * line))

/-- The publishing action of a scope for a core's L1 lines and its stack's L2 lines that satisfy a test: their dirty
bytes are written towards their homes. -/
def publishLines (s : State) (core scope : Nat) (p : Nat → Bool) : State :=
  let s := if scopeClus ≤ scope then s.l1Clean (fun x => x.core == core && p x.line) else s
  if scopeDev ≤ scope then s.l2Clean (fun x => x.stack == core / 64 && p x.line && scopeReaches scope x.line) else s

/-- The acquiring action of a scope: the copies are invalidated after their dirty bytes are written back. -/
def acquireLines (s : State) (core scope : Nat) (p : Nat → Bool) : State :=
  let s := if scopeClus ≤ scope then s.l1Flush (fun x => x.core == core && p x.line) else s
  if scopeDev ≤ scope then s.l2Flush (fun x => x.stack == core / 64 && p x.line && scopeReaches scope x.line) else s

/-- The publishing action for the vector-side writes of a hart only: those to far and peer lines stand in the stack's L2
(R129, R134). -/
def publishVector (s : State) (uid core scope : Nat) : State :=
  if scopeDev ≤ scope then s.l2Publish uid (fun x => x.stack == core / 64 && scopeReaches scope x.line) else s

/-! ### Writes of a hart that are not performed yet (R135, R136, R186) -/

/-- The command writes memory. -/
def CmdKind.writesMemory : CmdKind → Bool
  | .tst .. => true
  | .copyMem .. => true
  | .sigSt .. => true
  | _ => false

/-- Vector-side writes of the hart that have retired and are not performed: engine commands that write memory, bank
requests and FIFO entries. -/
def vectorWritesPending (s : State) : Bool :=
  s.hart.tl.queue.any (fun c => c.kind.writesMemory) || !s.hart.bank.isEmpty ||
    s.cores.any (fun c => c.fifo.any (fun e => e.uid == s.hart.uid))

/-- Accesses of the vector side that are not performed, reads included. -/
def vectorAccessesPending (s : State) : Bool := !s.hart.tl.queue.isEmpty || vectorWritesPending s

/-- A word that must wait for the vector side's writes. -/
def waitWrites (s : State) : Except Stop Unit := if vectorWritesPending s then .error .wait else .ok ()

/-! ### Sync objects (R131) -/

/-- A region descriptor. -/
structure Descriptor where
  base  : Nat
  len   : Nat
  scope : Nat
  deriving DecidableEq, Repr, Inhabited

/-- A 16-byte descriptor: none if it is malformed; LEN = 0 marks a free slot, whose other fields are 0, and it is malformed
otherwise (notes/assumptions/118). -/
def descriptor (v : Nat) : Option Descriptor :=
  let base := bytesAt v 0 8
  let len := bytesAt v 8 6
  let scope := bytesAt v 14 1
  if bytesAt v 15 1 != 0 || decide (5 < scope) || decide (2 ^ 56 ≤ base) then none
  else if len == 0 then (if base == 0 && scope == 0 then some ⟨0, 0, 0⟩ else none)
  else if 2 ^ 56 < base + len then none
  else some ⟨base, len, scope⟩

/-- Slot n of an object line. -/
def slotOf (line n : Nat) : Nat := bytesAt line (16 * n) 16

/-- The occupied slots of an object line: none if a slot is malformed or two scopes differ. -/
def regionsOf (line : Nat) : Option (List Descriptor) :=
  match (List.range 8).mapM (fun n => descriptor (slotOf line n)) with
  | none => none
  | some ds =>
    let used := ds.filter (fun d => d.len != 0)
    if used.all (fun d => d.scope == (used.headD ⟨0, 0, 0⟩).scope) then some used else none

/-- The scope of an object with these occupied slots. -/
def scopeOf (ds : List Descriptor) : Option Nat := ds.head?.map (·.scope)

/-- A line holds bytes of a region as the hart's context maps it: a region covers every line it touches (R131). -/
def regionCovers (s : State) (h : Hart) (d : Descriptor) (line : Nat) : Bool :=
  let first := d.base / 65536
  (List.range ((d.base + d.len - 1) / 65536 - first + 1)).any (fun i =>
    let page := (first + i) * 65536
    match quietLoc s h page with
    | some loc =>
      decide (loc ≤ 128 * line ∧ 128 * line < loc + 65536) &&
        (let va := page + (128 * line - loc)
         decide (d.base < va + 128 ∧ va < d.base + d.len))
    | none => false)

def covered (s : State) (h : Hart) (ds : List Descriptor) (line : Nat) : Bool := ds.any (fun d => regionCovers s h d line)

/-- An access of a vector-side word stands after the hart's earlier engine commands and bank adds (R118, R135, R136); on
the scalar side there is nothing to wait for. -/
def awaitSide (s : State) (k : AccessKind) (va : Nat) : Except Stop Unit :=
  match s.issue.side with
  | .scalar => .ok ()
  | .vector => awaitEngines s s.hart k va

/-- The scope whose point an object line is performed at: the home at .dev or .sys where the word's own scope `least`, the
stack's copy of the line or the home says so, else the stack (R129, R132; notes/assumptions/36). -/
def objectScope (s : State) (core loc least : Nat) : Nat :=
  let scope (v : Nat) : Nat := ((regionsOf v).bind scopeOf).getD 0
  let home := amoGet (settleLine s core scopeDev loc) core scopeDev loc 128
  max (max scopeStack least) (max (scope (amoGet s core scopeStack loc 128)) (scope home))

/-- The object line of a word, whole, at its point, with the scope of the point (R132). -/
def readObject (s : State) (k : AccessKind) (least x : Nat) : Except Stop (Nat × Nat × State) := do
  if x % 128 != 0 then .error (.trap (misalign x))
  else
    awaitSide s k x
    let (l, s) ← amoLocate s .read false scopeStack x
    let core := s.hart.place.core
    let sc := objectScope s core l.loc least
    let s := settleLine s core sc l.loc
    let (v, s) := amoRead s core sc l.loc 128
    .ok (sc, v, markAccess s l .read .other)

/-- The object's regions, or BADREC naming the object (R131). -/
def objectRegions (x line : Nat) : Except Stop (List Descriptor) :=
  match regionsOf line with
  | some ds => .ok ds
  | none => .error (.trap (badrec 2 x))

/-- A line write of a synchronisation word that finds no shadow raises SHADOW with SUB 1 (R139, R147). -/
def lineFault : Stop → Stop
  | .trap t => .trap (if t.code == causeShadow then { t with sub := 1 } else t)
  | x => x

/-- Bytes of the object line written atomically at its point. -/
def writeObject (s : State) (x scope off n v : Nat) : Except Stop State := do
  let l ← locate s .write false (x + off)
  match amoPut (settleLine s s.hart.place.core scope l.loc) s.hart.place.core scope l.loc n v with
  | .error w => .error (lineFault (writeTrap (x + off) l w))
  | .ok s => .ok (markAccess s l .write .other)

/-- 16 bytes of a descriptor read as a load of the issuing side (R139). -/
def readDescriptor (s : State) (va : Nat) : Except Stop (Nat × State) :=
  match s.issue.side with
  | .scalar => scalarRead s .read va 16
  | .vector => orderedRead s s.hart .other va 16

/-- The line is published or acquired, and the word retires; it stays unretired while one of its writes is held for want
of a shadow (R130, R133, R238). -/
def retirePerformed (s : State) (core : Nat) (p : Nat → Bool) : State := if s.holdsWrite core p then stall s else retire s

/-- The scalar side's writes are published, and what follows is done once none of them is held for want of a shadow (R130,
R238). -/
def afterPublish (s : State) (scope : Nat) (body : State → Except Stop State) : Except Stop State :=
  let s := publishLines s s.hart.place.core scope (fun _ => true)
  if s.holdsWrite s.hart.place.core (fun _ => true) then .ok (stall s) else body s

/-- ACQ (R138, R139). -/
def execAcq (a : BitVec 5) (s : State) : Outcome :=
  runPlain s .b (xOk s [a]) true [xReg s a.toNat] [] (fun s => do
    let x := (xRead s a.toNat).toNat
    let (_, v, t) ← readObject s .read 0 x
    let ds ← objectRegions x v
    if s.issue.side == .vector && vectorAccessesPending s then .error .wait
    else match scopeOf ds with
      | none => .ok (retire t)
      | some sc =>
        let h := t.hart
        .ok (retirePerformed (acquireLines t h.place.core sc (covered t h ds)) h.place.core (covered t h ds)))

/-- REL: it retires only after its publishing action (R138, R139). -/
def execRel (a : BitVec 5) (s : State) : Outcome :=
  runPlain s .b (xOk s [a]) true [xReg s a.toNat] [] (fun s => do
    let x := (xRead s a.toNat).toNat
    let (_, v, t) ← readObject s .read 0 x
    let ds ← objectRegions x v
    waitWrites s
    match scopeOf ds with
    | none => .ok (retire t)
    | some sc =>
      let h := t.hart
      .ok (retirePerformed (publishLines t h.place.core sc (covered t h ds)) h.place.core (covered t h ds)))

/-- The slot of an object line that equals a descriptor. -/
def equalSlot (line d : Nat) : Option Nat := (List.range 8).find? (fun n => slotOf line n == d)
/-- The lowest free slot. -/
def freeSlot (line : Nat) : Option Nat := (List.range 8).find? (fun n => bytesAt (slotOf line n) 8 6 == 0)

/-- BIND (R138, R139). -/
def execBind (d a b : BitVec 5) (s : State) : Outcome :=
  runPlain s .b (xOk s [d, a, b]) true [xReg s a.toNat, xReg s b.toNat] [xReg s d.toNat] (fun s => do
    let x := (xRead s a.toNat).toNat
    let y := (xRead s b.toNat).toNat
    if x % 128 != 0 then .error (.trap (misalign x))
    else if y % 16 != 0 then .error (.trap (misalign y))
    else
      let (v, s) ← readDescriptor s y
      match descriptor v with
      | none => .error (.trap (badrec 2 y))
      | some r =>
        if r.len == 0 then .error (.trap (badrec 2 y))
        else
          let (sc, line, s) ← readObject s .read r.scope x
          let ds ← objectRegions x line
          match equalSlot line v with
          | some n => .ok (retire (xWrite s d.toNat (word n)))
          | none =>
            if ds.any (fun o => o.scope != r.scope) then .error (.trap (badrec 2 x))
            else match freeSlot line with
              | none => .ok (retire (xWrite s d.toNat ones64))
              | some n =>
                awaitSide s .write x
                let s ← writeObject s x sc (16 * n) 16 v
                .ok (retire (xWrite s d.toNat (word n))))

/-- Bytes of an object line cleared at its point: a line write, which needs no right to read (R132, R139). -/
def clearSlots (s : State) (x off n : Nat) : Except Stop State := do
  awaitSide s .write x
  let (l, s) ← amoLocate s .write false scopeStack (x + off)
  writeObject s x (objectScope s s.hart.place.core (l.loc - off) 0) off n 0

/-- UNBIND (R138, R139). -/
def execUnbind (a b : BitVec 5) (s : State) : Outcome :=
  runPlain s .b (xOk s [a, b]) true [xReg s a.toNat, xReg s b.toNat] [] (fun s => do
    let x := (xRead s a.toNat).toNat
    let y := xRead s b.toNat
    if x % 128 != 0 then .error (.trap (misalign x))
    else if y.toNat ≤ 7 then
      let s ← clearSlots s x (16 * y.toNat) 16
      .ok (retire s)
    else if y == ones64 then
      let s ← clearSlots s x 0 128
      .ok (retire s)
    else .ok (retire s))

/-- The publishing and acquiring actions of a FENCE (R134): on the scalar side over the core's L1 and the stack's L2, on
the vector side after its own writes. -/
def fenceActions (s : State) (scope : Nat) : State :=
  let core := s.hart.place.core
  acquireLines (publishLines s core scope (fun _ => true)) core scope (fun _ => true)

/-- FENCE (R134, R138). -/
def execFence (c : BitVec 3) (s : State) : Outcome :=
  runPlain s .b (isScope c) true [] [] (fun s =>
    if s.issue.side == .vector && vectorAccessesPending s then .error .wait
    else .ok (retirePerformed (fenceActions s c.toNat) s.hart.place.core (fun _ => true)))

/-- FENCE.V: the publishing action for this hart's vector-side writes (R134, R138). -/
def execFenceV (c : BitVec 3) (s : State) : Outcome :=
  runPlain s .b (isScope c) true [] [] (fun s => do
    waitWrites s
    .ok (retire (publishVector s s.hart.uid s.hart.place.core c.toNat)))

end Sys2Proof.Machine
end

