-- ==== Sys2Proof/Machine/Snap.lean ====
section
/-!
DEFINITION. SNAP: ranges, levels, the shadow pool, and the events of held writes and lazy restoration (R234 to R244).
-/

namespace Sys2Proof.Machine

/-! ### The snapshot table (R234, R235) -/

/-- Range `r` of a context. -/
def Context.range (c : Context) (r : Nat) : Option SnapRange := vget c.ranges r none

def Context.setRange (c : Context) (r : Nat) (x : Option SnapRange) : Context := { c with ranges := vset c.ranges r x }

/-- The context of the hart in focus. -/
def ctxOf (s : State) : Context := (s.ctx? s.hart.asid).getD { asid := s.hart.asid }

/-- A change to it. -/
def mapOwnCtx (s : State) (f : Context → Context) : State := s.mapCtx s.hart.asid f

/-- A range of the context with a property. -/
def Context.findRange (c : Context) (p : SnapRange → Bool) : Option (Nat × SnapRange) :=
  (List.range 16).findSome? (fun r => match c.range r with
    | some x => if p x then some (r, x) else none
    | none => none)

/-- The lowest FREE range. -/
def Context.freeRange (c : Context) : Option Nat := (List.range 16).find? (fun r => (c.range r).isNone)

/-- A handle (R234). -/
def snapHandle (r depth : Nat) : Word := word (16 * depth + r)

/-! ### The lines an extent is mapped to (R236, R241) -/

/-- Pieces of 64 KiB that an extent touches. -/
def piecesOf (base len : Nat) : List Nat := (List.range ((base + len - 1) / 65536 - base / 65536 + 1)).map (· + base / 65536)

/-- First address and end of the part of an extent in a piece. -/
def pieceSpan (base len i : Nat) : Nat × Nat := (max base (65536 * i), min (base + len) (65536 * (i + 1)))

/-- Physical lines of a piece that a page of this device holds. -/
def pieceLines (s : State) (root base len i : Nat) : List (Nat × Nat) :=
  let (lo, hi) := pieceSpan base len i
  match walk s root lo with
  | .leaf _ bits e => if leafHK e == 2 then [] else [(lineOf (leafLoc bits e lo), (hi - lo) / 128)]
  | _ => []

/-- The lines of an interval that no open range tracks. -/
def untracked (s : State) (x : Nat × Nat) : List (Nat × Nat) :=
  if s.contexts.all (fun c => c.ranges.toList.all (·.isNone)) then [x]
  else (List.range x.2).filterMap (fun k => if (s.tracker (x.1 + k)).isSome then none else some (x.1 + k, 1))

/-- The lines that a range over an extent comes to track. -/
def trackedLines (s : State) (root base len : Nat) : List (Nat × Nat) :=
  (piecesOf base len).flatMap (fun i => (pieceLines s root base len i).flatMap (untracked s))

/-! ### Bank requests accepted before a BEGIN point (R238)

The model performs the elements of a request as it is accepted. Until the request completes, the banks may perform an
element later, and so after a BEGIN point: at BEGIN a free choice puts elements back, to be performed after it
(notes/assumptions/109). -/

/-- A function that changes the state applied along a list, the last element first. -/
def threadBack {α : Type} (f : State → α → State × α) (s : State) : List α → State × List α
  | [] => (s, [])
  | x :: l =>
    let (s, l) := threadBack f s l
    let (s, x) := f s x
    (s, x :: l)

/-- The same, the first element first. -/
def threadOn {α : Type} (f : State → α → State × α) (s : State) : List α → State × List α
  | [] => (s, [])
  | x :: l =>
    let (s, x) := f s x
    let (s, l) := threadOn f s l
    (s, x :: l)

/-- A change to the elements of the requests of a hart, in a core's FIFO and under way, and to the state. -/
def onRequests (f : Nat → Nat → State → List BankItem → State × List BankItem) (s : State) : State :=
  let bank (s : State) (u : Nat) : State := match s.harts.find? (·.uid == u) with
    | none => s
    | some h =>
      let (s, l) := threadOn (fun s (r : BankReq) => let (s, l) := f h.place.core u s r.items; (s, ⟨l⟩)) s h.bank
      s.mapHarts (fun g => if g.uid == u then { g with bank := l } else g)
  let fifo (s : State) (n : Nat) : State :=
    let (s, l) := threadOn (fun s (e : FifoEntry) => let (s, l) := f n e.uid s e.items; (s, { e with items := l })) s (s.core n).fifo
    s.mapCore n (fun c => { c with fifo := l })
  ((s.cores.filter (fun c => !c.fifo.isEmpty)).map (·.core)).foldl fifo
    (((s.harts.filter (fun h => !h.bank.isEmpty)).map (·.uid)).foldl bank s)

/-- Bytes at a stack's point put back. -/
def putBack (s : State) (stack a n v : Nat) : State :=
  s.putLine stack (lineOf a) (BitVec.ofNat 1024 (v * 256 ^ (a % 128))) (byteMask (a % 128) n)

/-- An element whose bytes are still as it left them may be performed after the BEGIN point: it is put back. -/
def rewindItem (lines : List (Nat × Nat)) (stack : Nat) (s : State) (i : BankItem) : State × BankItem :=
  if inLines lines (lineOf i.loc) && !isWindowLoc i.loc && peekBytes s stack i.loc i.size == i.after then
    let (late, s) := s.choose
    if late then (putBack s stack i.loc i.size i.before, { i with late := true }) else (s, i)
  else (s, i)

/-- An element put back is performed after the BEGIN point, or held for want of a shadow. -/
def redoItem (core uid : Nat) (s : State) (i : BankItem) : State × BankItem :=
  if i.late then
    match s.guardWrite (core / 64) i.loc i.size with
    | .error (.shadow asid) =>
      let who := ((s.harts.find? (·.uid == uid)).map (·.asid)).getD asid
      (s.mapCtx asid (fun c => { c with held := c.held ++
        [{ core := some core, asid := who, line := lineOf i.loc, bank := some (some uid, i) }] }), i)
    | .error (.protect _) => (s, { i with late := false })
    | .ok s =>
      let (f, s) := performItem s (some uid) (core / 64) i
      (s, { i with flags := f, late := false })
  else (s, i)

/-- The elements put back at a BEGIN point, before the range is open. -/
def rewindRequests (lines : List (Nat × Nat)) (s : State) : State :=
  onRequests (fun core _ s l => threadBack (rewindItem lines (core / 64)) s l) s

/-- The elements put back performed or held, once it is open. -/
def redoRequests (s : State) : State := onRequests (fun core uid s l => threadOn (redoItem core uid) s l) s

/-! ### SNAP.BEGIN (R235, R237, R243) -/

/-- A level opened over tracked lines: `f` opens it. Moves of their pages are abandoned (R230). -/
def beginLevel (s : State) (lines : List (Nat × Nat)) (f : State → State) : State :=
  redoRequests (f (rewindRequests lines (s.barMoves lines)))

/-- Two extents overlap. -/
def extentsMeet (b n b' n' : Nat) : Bool := decide (b < b' + n' ∧ b' < b + n)

/-- SNAP.BEGIN. -/
def execSnapBegin (d a b : BitVec 5) (s : State) : Outcome :=
  runPlain s .s true true (gReg a ++ gReg b) (gReg d) (fun s =>
    let x := (gRead s.hart a.toNat).toNat
    let n := (gRead s.hart b.toNat).toNat
    let c := ctxOf s
    let give (s : State) (v : Word) : Except Stop State := .ok (retire (s.mapHart (fun h => gWrite h d.toNat v)))
    if x % 128 != 0 || n % 128 != 0 then .error (.trap (misalign x))
    else if n = 0 ∨ 2 ^ 48 < n ∨ 2 ^ 56 < x + n then .error (.trap (badrec 2 x))
    else match c.findRange (fun r => r.base == x && r.len == n) with
      | some (r, y) =>
        if y.depth = 8 then .error (.trap { code := causeSnapnest, val := 8 })
        else give (beginLevel s y.tracked (fun s => mapOwnCtx s (fun c => c.setRange r (some { y with depth := y.depth + 1 }))))
          (snapHandle r (y.depth + 1))
      | none =>
        if (c.findRange (fun r => extentsMeet r.base r.len x n)).isSome then .error (.trap (badrec 2 x))
        else match c.freeRange with
          | none => give s ones64
          | some r =>
            let y : SnapRange := { base := x, len := n, depth := 1, tracked := trackedLines s c.root x n, shadows := [] }
            give (beginLevel s y.tracked (fun s => mapOwnCtx s (fun c => c.setRange r (some y)))) (snapHandle r 1))

/-! ### SNAP.ACCEPT and SNAP.REJECT (R239, R240) -/

/-- The open range that a handle names at its depth. -/
def handleRange (s : State) (v : Word) : Option (Nat × SnapRange) :=
  let r := v.toNat % 16
  match (ctxOf s).range r with
  | some x => if v.toNat < 256 ∧ x.depth = v.toNat / 16 then some (r, x) else none
  | none => none

/-- The shadows after the innermost level d > 1 is merged into the level below: a line keeps the older of two. -/
def mergeShadows (r : SnapRange) : List Shadow :=
  r.shadows.filterMap (fun x =>
    if x.level != r.depth then some x
    else if r.shadows.any (fun y => y.line == x.line && y.level == r.depth - 1) then none
    else some { x with level := r.depth - 1, data := r.atBegin (r.depth - 1) x.line x.data })

/-- A range after the close of its innermost level: with level 1 it is FREE. -/
def closeLevel (x : SnapRange) (shadows : List Shadow) : Option SnapRange :=
  if x.depth ≤ 1 then none
  else some { x with depth := x.depth - 1, shadows := shadows, zero := x.zero.map (fun z => (min z.1 (x.depth - 1), z.2)) }

/-- ACCEPT of the innermost level of a range. A range it frees has no restoration under way (R254; notes/assumptions/44). -/
def acceptLevel (c : Context) (r : Nat) (x : SnapRange) : Context :=
  let c := c.setRange r (closeLevel x (mergeShadows x))
  if x.depth ≤ 1 then { c with pend := c.pend.filter (· != r) } else c

/-- SNAP.ACCEPT. -/
def execSnapAccept (a : BitVec 5) (s : State) : Outcome :=
  runPlain s .s true true (gReg a) [] (fun s =>
    let v := gRead s.hart a.toNat
    match handleRange s v with
    | none => .error (.trap (badrec 2 v.toNat))
    | some (r, x) => .ok (retire (mapOwnCtx s (fun c => acceptLevel c r x))))

/-- A shadow stored back into its line, at the line's home: no stack keeps a copy of a far line (notes/assumptions/28). -/
def restoreLine (s : State) (x : Shadow) : State :=
  let t := s.store x.line (memPutLine s.mem x.line x.data (BitVec.allOnes 128))
  let t := { t with l2 := t.l2.filter (fun (y : L2Line) => y.line != x.line) }
  t.clearPoison x.line (BitVec.allOnes 128)

/-- The issuing core's L1 copies of a range's lines become invalid; dirty bytes from before the BEGIN point are written
back (R237, R240). -/
def dropRange (s : State) (x : SnapRange) : State :=
  s.l1Flush (fun y => y.core == s.hart.place.core && inLines x.tracked y.line)

/-- The innermost level's shadows stored back and freed, and the level closed. -/
def storeBack (s : State) (r : Nat) (x : SnapRange) : State :=
  let mine := x.shadows.filter (·.level == x.depth)
  let s := mine.foldl restoreLine s
  mapOwnCtx s (fun c =>
    let c := c.setRange r (closeLevel x (x.shadows.filter (·.level != x.depth)))
    if mine.isEmpty then c else { c with pend := r :: c.pend.filter (· != r) })

/-- REJECT of the innermost level of a range: the level's shadows are stored back and are free, and the issuing core's
copies of the range's lines go. Whether their dirty bytes reach the home before the REJECT point or after it is free
(notes/assumptions/44). The copying is made at once; PEND shows it until LAZY_RESTORE. -/
def rejectLevel (s : State) (r : Nat) (x : SnapRange) : State :=
  let (early, s) := s.choose
  if early then
    let s := dropRange s x
    storeBack s r (((ctxOf s).range r).getD x)
  else dropRange (storeBack s r x) x

/-- SNAP.REJECT. -/
def execSnapReject (a : BitVec 5) (s : State) : Outcome :=
  runPlain s .s true true (gReg a) [] (fun s =>
    let v := gRead s.hart a.toNat
    match handleRange s v with
    | none => .error (.trap (badrec 2 v.toNat))
    | some (r, x) => .ok (retire (rejectLevel s r x)))

/-! ### SNAP.QUERY and SNAP.POOL (R241, R243) -/

/-- Writes held to lines of a range. -/
def heldOf (c : Context) (x : Option SnapRange) : Nat :=
  match x with
  | some x => (c.held.filter (fun w => inLines x.tracked w.line)).length
  | none => 0

/-- The status of a range. -/
def snapStatus (c : Context) (r : Nat) : Word :=
  let x := c.range r
  let lines := (x.map (·.shadows.length)).getD 0
  let depth := (x.map (·.depth)).getD 0
  word (lines % 2 ^ 32 * 2 ^ 32 + min (heldOf c x) 0xFFFF * 2 ^ 16 + (c.pend.contains r).toNat * 256 + depth * 16 + r)

/-- SNAP.QUERY. -/
def execSnapQuery (d a : BitVec 5) (s : State) : Outcome :=
  runPlain s .s true true (gReg a) (gReg d) (fun s =>
    let v := (gRead s.hart a.toNat).toNat
    if 16 ≤ v then .error (.trap (badrec 2 v))
    else .ok (retire (s.mapHart (fun h => gWrite h d.toNat (snapStatus (ctxOf s) v)))))

/-- A page homed on a peer package, as the table or a copy of its entry says: its package is not asked. The access that
finds this has walked to the entry. -/
def onPeer (s : State) (va : Nat) : Option (Option Nat) :=
  match tlbHit s s.hart.place.core s.hart.asid va with
  | some t => if leafHK t.leaf == 2 then some none else none
  | none => match walk s (rootOf s s.hart.asid) va with
    | .leaf at_ _ e => if leafHK e == 2 then some (some at_) else none
    | _ => none

/-- The pages of an extent translated for writing; a window or a page of a peer is refused (R241, R243). -/
def poolPages (s : State) (base len : Nat) : List Nat → Except Stop (List (Nat × Nat) × State)
  | [] => .ok ([], s)
  | i :: rest => do
    let (lo, hi) := pieceSpan base len i
    if 2 ^ 56 ≤ lo then .error (.trap (protect .write lo))
    else match onPeer s lo with
      | some mark => .error (.trap { protect .write lo with mark := mark })
      | none =>
        let l ← locate s .write false lo
        let (xs, s) ← poolPages (markAccessed s l.mark) base len rest
        .ok ((lineOf l.loc, (hi - lo) / 128) :: xs, s)

/-- A line that leaves the pool holds unspecified bytes. -/
def scrambleLine (s : State) (line : Nat) : State :=
  let (v, s) := s.draw
  { s with mem := memPutLine s.mem line (BitVec.ofNat 1024 v) (BitVec.allOnes 128) }

/-- The pool emptied. -/
def emptyPool (s : State) : State :=
  let lines := (ctxOf s).pool.flatMap (fun e => e.lines.flatMap (fun x => (List.range x.2).map (· + x.1)))
  mapOwnCtx (lines.foldl scrambleLine s) (fun c => { c with pool := [] })

/-- SNAP.POOL. -/
def execSnapPool (d a b : BitVec 5) (s : State) : Outcome :=
  runPlain s .s true true (gReg a ++ gReg b) (gReg d) (fun s =>
    let x := (gRead s.hart a.toNat).toNat
    let y := gRead s.hart b.toNat
    let n := y.toNat
    let c := ctxOf s
    let give (s : State) (v : Word) : Except Stop State := .ok (retire (s.mapHart (fun h => gWrite h d.toNat v)))
    if n = 0 then give s (word c.freeLines)
    else if y == ones64 && x == 0 then
      if c.ranges.toList.all (·.isNone) then give (emptyPool s) 0 else give s ones64
    else if x % 128 != 0 then .error (.trap (misalign x))
    else if n % 128 != 0 then .error (.trap (misalign x))
    else if 8 ≤ c.pool.length || c.pool.any (fun e => extentsMeet e.base e.len x n) then give s ones64
    else do
      let (lines, s) ← poolPages s x n (piecesOf x n)
      let s := mapOwnCtx (s.barMoves lines) (fun c => { c with pool := c.pool ++ [⟨x, n, lines⟩] })
      give s (word (ctxOf s).freeLines))

/-! ### Events (R238, R240) -/

/-- A write of masked bytes at the home of a line by an agent outside the stacks: the host, a peer, or a write that was
held for one. -/
def putHome (s : State) (line : Nat) (data : Line) (mask : BitVec 128) : State :=
  s.store line (memPutLine s.mem line data mask)

/-- The stack whose L2 a held write passes; the hub's number for a write of the host or of a peer. -/
def HeldWrite.stack (w : HeldWrite) : Nat := (w.core.getD hubCore) / 64

/-- D set in the leaf entry of a page that is written, where the entry still maps it (R223). -/
def markWritten (s : State) (at_ : Option Nat) : State :=
  match at_ with
  | none => s
  | some a =>
    let e := BitVec.ofNat 64 (memRead s.mem a 8)
    if entryV e && entryLeaf e then markLeaf s a 0x40 0 else s

/-- A held element of a bank request is settled: its request keeps its flags, and it is late no longer. -/
def settleItem (s : State) (uid : Nat) (i : BankItem) (f : Flags) : State :=
  let mend (l : List BankItem) : List BankItem := l.replace i { i with flags := f, late := false }
  let s := s.mapHarts (fun h => if h.uid == uid then { h with bank := h.bank.map (fun r => ⟨mend r.items⟩) } else h)
  { s with cores := s.cores.map (fun (c : CoreUnit) =>
      { c with fifo := c.fifo.map (fun e => if e.uid == uid then { e with items := mend e.items } else e) }) }

/-- A held write performed, its shadow being taken. -/
def performHeld (s : State) (w : HeldWrite) : State :=
  match w.bank, w.core with
  | some (who, i), _ =>
    let (f, s) := performItem (markWritten s w.leafAt) who w.stack { i with loc := 128 * w.line + i.loc % 128 }
    who.elim s (fun uid => settleItem s uid i f)
  | _, some core => (s.putLine (core / 64) w.line w.data w.dirty).clearPoison w.line w.dirty
  | _, none => (markWritten (putHome s w.line w.data w.dirty) w.leafAt).clearPoison w.line w.dirty

/-- A held write that meets an extent of a pool is discarded; one of the host or of a peer is recorded as its owner's (R241,
R272). -/
def dropHeld (s : State) (w : HeldWrite) (owner : Option (Nat × Nat)) : State :=
  match w.bank, w.core, owner with
  | some (some uid, i), _, _ => settleItem s uid i 0
  | _, none, some (asid, va) => s.record asid { cause := { sub := 1, code := causeProtect }, tval := word va }
  | _, _, _ => s

/-- An earlier write of the same agent to the same line is held: those of one agent are performed in order (R210). -/
def heldBehind (c : Context) (k : Nat) (w : HeldWrite) : Bool :=
  (c.held.take k).any (fun y => y.line == w.line && y.core == w.core && y.bank.map (·.1) == w.bank.map (·.1))

/-- SHADOW_HELD_WRITE: held write `k` of a context is performed once a pool line is free or its level has closed. The copy
is charged to the writer's context (R205, R238). -/
def execShadowHeldWrite (asid k : Nat) (s : State) : Outcome :=
  match s.ctx? asid with
  | none => .next s
  | some c =>
    match c.held[k]? with
    | none => .next s
    | some w =>
      let freed (s : State) : State := s.mapCtx asid (fun c => { c with held := c.held.eraseIdx k })
      if heldBehind c k w then .next s
      else match s.guardWrite w.stack (128 * w.line) 128 with
        | .error (.shadow _) => .next s
        | .error (.protect o) => .next (dropHeld (freed s) w o)
        | .ok t => .next (performHeld (freed (t.owe { asid := w.asid })) w)

/-- The held writes of a context that can be performed, by number (R238). -/
def heldReady (s : State) (c : Context) : List Nat :=
  (c.held.zipIdx.filter (fun (w : HeldWrite × Nat) => !heldBehind c w.2 w.1 &&
    (match s.guardWrite w.1.stack (128 * w.1.line) 128 with
      | .error (.shadow _) => false
      | _ => true))).map (·.2)

/-- LAZY_RESTORE: the restoration of a range has been copied. -/
def execLazyRestore (asid range : Nat) (s : State) : Outcome :=
  .next (s.mapCtx asid (fun c => { c with pend := c.pend.filter (· != range) }))

end Sys2Proof.Machine
end

