-- ==== Sys2Proof/Machine/Branch.lean ====
section
/-!
DEFINITION. BCZ, JMP, CALL and XFER: control transfer on the scalar side, and the return stack (R16, R60, R67).
-/

namespace Sys2Proof.Machine

/-- The exit entry of the return stack (R67). -/
def exitEntry : Word := ones64

/-- A translation or protection fault of a spill or refill. Where the page admits the write, its bytes refused it: they are
in a shadow pool or sealed, and PROTECT stands (R159, R241). -/
def spillsAt (s : State) (t : Trap) : Bool :=
  t.code == causeXlate ||
    (t.code == causeProtect && !(t.sub == 1 && (match locate s .write false t.val.toNat with
      | .ok _ => true
      | .error _ => false)))

/-- A fault on a spill or refill of the return stack, or with SUB 1 of the pending-fragment buffer, raises SPILL; any other
cause stands (R60, R110). -/
def spillFault (s : State) (sub : BitVec 8) (at_ : Word) : Stop → Stop
  | .trap t =>
    if spillsAt s t then .trap { code := causeSpill, sub := sub, val := at_, mark := t.mark, report := t.report } else .trap t
  | x => x

/-- The result of an access with its faults renamed. -/
def renameStop {α : Type} (f : Stop → Stop) : Except Stop α → Except Stop α
  | .ok a => .ok a
  | .error e => .error (f e)

/-- HRSP or HFSP: an 8-byte aligned address of 56 bits (R63). -/
def spillAddr (a : Word) : Word := regAddr 3 a

/-- push (R60): with 16 entries held, the oldest is spilled at HRSP. -/
def pushStack (s : State) (x : Word) : Except Stop State :=
  let st := s.hart.sc.rstack
  if st.length < 16 then .ok (s.mapHart (fun h => { h with sc := { h.sc with rstack := x :: st } }))
  else do
    let at_ := s.hart.cs.hrsp
    let s ← renameStop (spillFault s 0 at_) (scalarWrite s at_.toNat 8 (st.getLastD 0).toNat)
    .ok (s.mapHart (fun h => { h with
      sc := { h.sc with rstack := x :: st.dropLast }, cs := { h.cs with hrsp := spillAddr (at_ + 8) } }))

/-- pop (R60): with no entry held, one is loaded from below HRSP. -/
def popStack (s : State) : Except Stop (Word × State) :=
  match s.hart.sc.rstack with
  | x :: rest => .ok (x, s.mapHart (fun h => { h with sc := { h.sc with rstack := rest } }))
  | [] => do
    let at_ := s.hart.cs.hrsp - 8
    let (v, s) ← renameStop (spillFault s 0 at_) (scalarRead s .read at_.toNat 8)
    .ok (BitVec.ofNat 64 v, s.mapHart (fun h => { h with cs := { h.cs with hrsp := spillAddr at_ } }))

/-- PC + 4 · sext(offset). -/
def relTarget {n : Nat} (s : State) (o : BitVec n) : Word := pcOf s + 4 * o.signExtend 64

/-- A branch of BCZ on a comparison of signed g[a] with 0 (R67). -/
def branchIf (s : State) (a : BitVec 5) (o : BitVec 14) (test : Word → Bool) : Outcome :=
  runPlain s .s true true (gReg a) []
    (fun s => .ok (if test (gRead s.hart a.toNat) then retireTo s (relTarget s o) else retire s))

/-- BEQZ (R67). -/
def execBeqz (a : BitVec 5) (o : BitVec 14) (s : State) : Outcome := branchIf s a o (fun x => x == 0)
/-- BNEZ (R67). -/
def execBnez (a : BitVec 5) (o : BitVec 14) (s : State) : Outcome := branchIf s a o (fun x => x != 0)
/-- BLTZ (R67). -/
def execBltz (a : BitVec 5) (o : BitVec 14) (s : State) : Outcome := branchIf s a o (fun x => x.slt 0)
/-- BGEZ (R67). -/
def execBgez (a : BitVec 5) (o : BitVec 14) (s : State) : Outcome := branchIf s a o (fun x => !x.slt 0)
/-- BGTZ (R67). -/
def execBgtz (a : BitVec 5) (o : BitVec 14) (s : State) : Outcome := branchIf s a o (fun x => (0 : Word).slt x)
/-- BLEZ (R67). -/
def execBlez (a : BitVec 5) (o : BitVec 14) (s : State) : Outcome := branchIf s a o (fun x => !(0 : Word).slt x)

/-- JMP (R67). -/
def execJmp (o : BitVec 22) (s : State) : Outcome :=
  runPlain s .s true true [] [] (fun s => .ok (retireTo s (relTarget s o)))

/-- CALL: the address of the following word is pushed (R67). -/
def execCall (o : BitVec 22) (s : State) : Outcome :=
  runPlain s .s true true [] [] (fun s => do
    let target := relTarget s o
    let s ← pushStack s (pcOf s + 4)
    .ok (retireTo s target))

/-- JR: a target that is not a multiple of 4 raises MISALIGN (R16, R67). -/
def execJr (a : BitVec 5) (s : State) : Outcome :=
  runPlain s .s true true (gReg a) [] (fun s =>
    let t := gRead s.hart a.toNat
    if t.toNat % 4 != 0 then .error (.trap (misalign t.toNat)) else .ok (retireTo s t))

/-- CALLR: the target is read and checked before the push (R67). -/
def execCallr (a : BitVec 5) (s : State) : Outcome :=
  runPlain s .s true true (gReg a) [] (fun s =>
    let t := gRead s.hart a.toNat
    if t.toNat % 4 != 0 then .error (.trap (misalign t.toNat))
    else do
      let s ← pushStack s (pcOf s + 4)
      .ok (retireTo s t))

/-- RET: at level 0 the exit entry ends the unit, at level 1 it raises ILLEGAL and stays; another value that is not a
multiple of 4 raises MISALIGN, and stays (R67). -/
def execRet (s : State) : Outcome :=
  runPlain s .s true true [] [] (fun s => do
    let (x, t) ← popStack s
    if x == exitEntry then
      if s.hart.cs.hstat.hl then .error (.trap (illegal s))
      else
        let t := retireTo t (pcOf t)
        .ok (t.mapHart (fun h => { h with life := .ending }))
    else if x.toNat % 4 != 0 then .error (.trap (misalign x.toNat))
    else .ok (retireTo t x))

end Sys2Proof.Machine
end

