-- ==== Sys2Proof/Machine/VCmp.lean ====
section
/-!
DEFINITION. VCMP, VCMPS and VMOP: comparisons into a mask and operations on masks (R102 to R105).
-/

namespace Sys2Proof.Machine

/-- A comparison into m[d] (R104). -/
def vcmpWord (s : State) (d a : BitVec 5) (b : SecondSource) (m : BitVec 3) (fit : ElemType → Bool)
    (f : ElemType → Nat → Nat → Bool) : Outcome :=
  vectorOp s (isMask d && b.wf)
    (fun t => fit t.et && t.aligned a && b.aligned t && maskFits s.hart)
    (fun t => t.regs a ++ b.regs t ++ maskRegs m) (fun _ => [.m d.toNat])
    (fun t => latency s 1 2 (s.hart.cs.vl * t.et.width))
    (fun s t =>
      let x := elem t.et.width (groupBits s.hart a.toNat t.group)
      let y := b.read s.hart t
      maskOp s t d m (fun i => f t.et (x i) (y i)))

/-- A comparison of integers of width w; `binary` accepts B1. -/
def intCompare (s : State) (d a : BitVec 5) (b : SecondSource) (m : BitVec 3) (binary : Bool)
    (f : Nat → Nat → Nat → Bool) : Outcome :=
  vcmpWord s d a b m (fun e => e.isInt || (binary && e == .b1)) (fun e x y => f e.width x y)

/-- A comparison of floats. -/
def floatCompare (s : State) (d a : BitVec 5) (b : SecondSource) (m : BitVec 3) (f : FloatVal → FloatVal → Bool) : Outcome :=
  vcmpWord s d a b m (floatFit true) (fun e x y => f (floatVal e x) (floatVal e y))

/-- VCEQ: x = y (R104). -/
def execVceq (d a b : BitVec 5) (m : BitVec 3) (s : State) : Outcome :=
  intCompare s d a (.group b) m true (fun _ x y => x == y)
/-- VCNE: x ≠ y (R104). -/
def execVcne (d a b : BitVec 5) (m : BitVec 3) (s : State) : Outcome :=
  intCompare s d a (.group b) m true (fun _ x y => x != y)
/-- VCLT: x < y, signed (R104). -/
def execVclt (d a b : BitVec 5) (m : BitVec 3) (s : State) : Outcome :=
  intCompare s d a (.group b) m false (fun w x y => decide (toSigned w x < toSigned w y))
/-- VCLE: x ≤ y, signed (R104). -/
def execVcle (d a b : BitVec 5) (m : BitVec 3) (s : State) : Outcome :=
  intCompare s d a (.group b) m false (fun w x y => decide (toSigned w x ≤ toSigned w y))
/-- VCLTN: x < y, unsigned (R104). -/
def execVcltn (d a b : BitVec 5) (m : BitVec 3) (s : State) : Outcome :=
  intCompare s d a (.group b) m false (fun _ x y => decide (x < y))
/-- VCLEN: x ≤ y, unsigned (R104). -/
def execVclen (d a b : BitVec 5) (m : BitVec 3) (s : State) : Outcome :=
  intCompare s d a (.group b) m false (fun _ x y => decide (x ≤ y))
/-- VFCEQ: x = y, neither a NaN (R104). -/
def execVfceq (d a b : BitVec 5) (m : BitVec 3) (s : State) : Outcome :=
  floatCompare s d a (.group b) m (FloatVal.equal)
/-- VFCLT: x < y, neither a NaN (R104). -/
def execVfclt (d a b : BitVec 5) (m : BitVec 3) (s : State) : Outcome :=
  floatCompare s d a (.group b) m (FloatVal.below)
/-- VFCLE: x ≤ y, neither a NaN (R104). -/
def execVfcle (d a b : BitVec 5) (m : BitVec 3) (s : State) : Outcome :=
  floatCompare s d a (.group b) m (fun x y => x.below y || x.equal y)
/-- VFCUN: x or y is a NaN (R104). -/
def execVfcun (d a b : BitVec 5) (m : BitVec 3) (s : State) : Outcome :=
  floatCompare s d a (.group b) m (fun x y => x.isNaN || y.isNaN)
/-- VCEQ with a scalar operand: x = y (R104). -/
def execVcmpsVceq (d a b : BitVec 5) (m : BitVec 3) (s : State) : Outcome :=
  intCompare s d a (.scalar b) m true (fun _ x y => x == y)
/-- VCNE with a scalar operand: x ≠ y (R104). -/
def execVcmpsVcne (d a b : BitVec 5) (m : BitVec 3) (s : State) : Outcome :=
  intCompare s d a (.scalar b) m true (fun _ x y => x != y)
/-- VCLT with a scalar operand: x < y, signed (R104). -/
def execVcmpsVclt (d a b : BitVec 5) (m : BitVec 3) (s : State) : Outcome :=
  intCompare s d a (.scalar b) m false (fun w x y => decide (toSigned w x < toSigned w y))
/-- VCLE with a scalar operand: x ≤ y, signed (R104). -/
def execVcmpsVcle (d a b : BitVec 5) (m : BitVec 3) (s : State) : Outcome :=
  intCompare s d a (.scalar b) m false (fun w x y => decide (toSigned w x ≤ toSigned w y))
/-- VCLTN with a scalar operand: x < y, unsigned (R104). -/
def execVcmpsVcltn (d a b : BitVec 5) (m : BitVec 3) (s : State) : Outcome :=
  intCompare s d a (.scalar b) m false (fun _ x y => decide (x < y))
/-- VCLEN with a scalar operand: x ≤ y, unsigned (R104). -/
def execVcmpsVclen (d a b : BitVec 5) (m : BitVec 3) (s : State) : Outcome :=
  intCompare s d a (.scalar b) m false (fun _ x y => decide (x ≤ y))
/-- VFCEQ with a scalar operand: x = y, neither a NaN (R104). -/
def execVcmpsVfceq (d a b : BitVec 5) (m : BitVec 3) (s : State) : Outcome :=
  floatCompare s d a (.scalar b) m (FloatVal.equal)
/-- VFCLT with a scalar operand: x < y, neither a NaN (R104). -/
def execVcmpsVfclt (d a b : BitVec 5) (m : BitVec 3) (s : State) : Outcome :=
  floatCompare s d a (.scalar b) m (FloatVal.below)
/-- VFCLE with a scalar operand: x ≤ y, neither a NaN (R104). -/
def execVcmpsVfcle (d a b : BitVec 5) (m : BitVec 3) (s : State) : Outcome :=
  floatCompare s d a (.scalar b) m (fun x y => x.below y || x.equal y)
/-- VFCUN with a scalar operand: x or y is a NaN (R104). -/
def execVcmpsVfcun (d a b : BitVec 5) (m : BitVec 3) (s : State) : Outcome :=
  floatCompare s d a (.scalar b) m (fun x y => x.isNaN || y.isNaN)

/-! ### VMOP (R105) -/

/-- A mask operation on every element below VL: `f` gives bit i of the result. -/
def vmopWord (s : State) (d : BitVec 5) (srcs : List (BitVec 5)) (f : Hart → Nat → Bool) : Outcome :=
  vectorOp s (isMask d && srcs.all isMask) (fun _ => maskFits s.hart)
    (fun _ => srcs.map (fun r => .m r.toNat)) (fun _ => [.m d.toNat])
    (fun _ => latency s 1 2 s.hart.cs.vl)
    (fun s t => maskOp s t d 0 (f s.hart))

/-- Bit `i` of m[r]. -/
def maskBit (h : Hart) (r : BitVec 5) (i : Nat) : Bool := (maskBits h r.toNat).testBit i

/-- MAND (R105). -/
def execMand (d a b : BitVec 5) (s : State) : Outcome := vmopWord s d [a, b] (fun h i => maskBit h a i && maskBit h b i)
/-- MOR (R105). -/
def execMor (d a b : BitVec 5) (s : State) : Outcome := vmopWord s d [a, b] (fun h i => maskBit h a i || maskBit h b i)
/-- MXOR (R105). -/
def execMxor (d a b : BitVec 5) (s : State) : Outcome := vmopWord s d [a, b] (fun h i => maskBit h a i != maskBit h b i)
/-- MANDN (R105). -/
def execMandn (d a b : BitVec 5) (s : State) : Outcome := vmopWord s d [a, b] (fun h i => maskBit h a i && !maskBit h b i)
/-- MNOT (R105). -/
def execMnot (d a : BitVec 5) (s : State) : Outcome := vmopWord s d [a] (fun h i => !maskBit h a i)
/-- MSET (R105). -/
def execMset (d : BitVec 5) (s : State) : Outcome := vmopWord s d [] (fun _ _ => true)
/-- MCLR (R105). -/
def execMclr (d : BitVec 5) (s : State) : Outcome := vmopWord s d [] (fun _ _ => false)

/-- A summary of the bits of m[a] below VL into an h register. -/
def maskToH (s : State) (d a : BitVec 5) (f : Nat → Nat) : Outcome :=
  vectorOp s (isH d && isMask a) (fun _ => maskFits s.hart) (fun _ => [.m a.toNat]) (fun _ => [.h d.toNat])
    (fun _ => latency s 1 2 s.hart.cs.vl)
    (fun s _ => wholeOp s [RegWrite.whole (.h d.toNat) (f (maskBits s.hart a.toNat % 2 ^ s.hart.cs.vl))] id)

/-- MFIRST: all ones if no bit is set (R105). -/
def execMfirst (d a : BitVec 5) (s : State) : Outcome :=
  maskToH s d a (fun v => if v = 0 then 2 ^ 64 - 1 else trailingZeros (v.log2 + 1) v)
/-- MPOPC (R105). -/
def execMpopc (d a : BitVec 5) (s : State) : Outcome := maskToH s d a (fun v => popCount (v.log2 + 1) v)

/-- VMERGE: the mask selects between the sources and makes no element inactive (R105). -/
def execVmerge (d a b : BitVec 5) (m : BitVec 3) (s : State) : Outcome :=
  vectorOp s true (fun t => t.aligned d && t.aligned a && t.aligned b && governFits s.hart m)
    (fun t => t.regs a ++ t.regs b ++ maskRegs m) (fun t => t.regs d)
    (fun t => latency s 1 2 (s.hart.cs.vl * t.et.width))
    (fun s t =>
      let x := elem t.et.width (groupBits s.hart a.toNat t.group)
      let y := elem t.et.width (groupBits s.hart b.toNat t.group)
      elementOp s t (t.dest s.hart d) 0 false (fun i => (if isActive s.hart m i then y i else x i, 0)))

end Sys2Proof.Machine
end

