-- ==== Sys2Proof/Machine/VCtl.lean ====
section
/-!
DEFINITION. VCTL and VB: granted lengths, replies, fragments, and branches and loops of the vector side (R58, R59, R98 to
R101, R106 to R113).
-/

namespace Sys2Proof.Machine

/-! ### VCTL: lengths, counters and replies (R99 to R101) -/

/-- VSETL (R99). -/
def execVsetl (d a : BitVec 5) (s : State) : Outcome :=
  runPlain s .v (isH d && isH a) true [.h a.toNat] [.h d.toNat] (fun s =>
    let n := grantedLength s.hart (hRead s.hart a.toNat)
    .ok (retire (s.mapHart (fun h => hWrite { h with cs := { h.cs with vl := n } } d.toNat (word n)))))

/-- VSETT: VTYPE and VL, then h[d] := VL (R27, R100). -/
def execVsett (d a : BitVec 5) (s : State) : Outcome :=
  runPlain s .v (isH d && isH a) true [.h a.toNat] [.h d.toNat] (fun s =>
    .ok (retire (s.mapHart (fun h =>
      let h := setVtype h (hRead h a.toNat)
      hWrite h d.toNat (word h.cs.vl)))))

/-- A reply appended after the hart's vector stores; while the hart is Ending nothing is appended (R58, R59). -/
def replyWord (s : State) (x : Word) : Except Stop State :=
  if s.hart.life == .ending then .ok (retire s)
  else if vectorWritesPending s || decide (16 ≤ s.hart.ve.replies.length) then .error .wait
  else .ok (retire (s.mapHart (fun h => { h with ve := { h.ve with replies := h.ve.replies ++ [x] } })))

/-- VREPLY (R58, R100). -/
def execVreply (a : BitVec 5) (s : State) : Outcome :=
  runPlain s .v (isH a) true [.h a.toNat] [] (fun s => replyWord s (hRead s.hart a.toNat))

/-- The summary of m[a] below min (VL, MLEN) (R101). -/
def maskSummary (h : Hart) (a : BitVec 5) : Word :=
  let n := min h.cs.vl (regBits h)
  let v := maskBits h a.toNat % 2 ^ n
  let all := decide (0 < n) && v == 2 ^ n - 1
  let first := if v = 0 then 0xFFFFF else trailingZeros (v.log2 + 1) v
  word (bitAt (v != 0) 63 + bitAt all 62 + first % 2 ^ 20 * 2 ^ 20 + popCount (v.log2 + 1) v % 2 ^ 20)

/-- VREPLYM (R101). -/
def execVreplym (a : BitVec 5) (s : State) : Outcome :=
  runPlain s .v (isMask a) true [.m a.toNat] [] (fun s => replyWord s (maskSummary s.hart a))

/-- VLCSET (R100). -/
def execVlcset (d a : BitVec 5) (s : State) : Outcome :=
  runPlain s .v (isLoopCounter d && isH a) true [.h a.toNat] [] (fun s =>
    .ok (retire (s.mapHart (fun h => { h with ve := { h.ve with lc := vset h.ve.lc d.toNat (hRead h a.toNat) } }))))

/-- VALC (R100, R198). -/
def execValc (d : BitVec 5) (s : State) : Outcome :=
  runPlain s .v (isH d) true [] [.h d.toNat] (fun s =>
    .ok (retire (s.mapHart (fun h => hWrite h d.toNat (word (activeLanes s h))))))

/-! ### The pending-fragment buffer (R106 to R110) -/

/-- Z: bytes of a spilled entry. -/
def fragmentBytes (h : Hart) : Nat := 128 + regBits h / 4

/-- The record of an entry. -/
def fragmentRecord (h : Hart) (e : Fragment) : Nat :=
  e.pc.toNat + e.k.toNat * 256 ^ 8 + e.joining.toNat * 256 ^ 9 + e.vlp % 2 ^ 64 * 256 ^ 0x10 +
    e.u.toNat * 256 ^ 0x80 + e.f.toNat * 256 ^ (0x80 + regBits h / 8)

/-- The entry a record holds; none: it breaks R110. -/
def fragmentOf (h : Hart) (v : Nat) : Option Fragment :=
  let k := bytesAt v 8 1
  let st := bytesAt v 9 1
  if bytesAt v 0x0A 6 != 0 || bytesAt v 0x18 104 != 0 || decide (7 < k) || decide (1 < st) then none
  else some
    { pc := word (bytesAt v 0 8), k := BitVec.ofNat 3 k, vlp := bytesAt v 0x10 8,
      u := BitVec.ofNat 65536 (bytesAt v 0x80 (regBits h / 8)),
      f := BitVec.ofNat 65536 (bytesAt v (0x80 + regBits h / 8) (regBits h / 8)), joining := st == 1 }

/-- A translation or protection fault of a spill or refill raises SPILL with SUB 1 at the address that failed (R110). -/
def fragmentFault (s : State) : Stop → Stop
  | .trap t => spillFault s 1 t.val (.trap t)
  | x => x

/-- An entry pushed; with four resident, the oldest is stored at HFSP first (R110). -/
def pushFragment (s : State) (e : Fragment) : Except Stop State :=
  let l := s.hart.ve.frags
  if l.length < 4 then .ok (s.mapHart (fun h => { h with ve := { h.ve with frags := e :: l } }))
  else do
    let z := fragmentBytes s.hart
    let at_ := s.hart.cs.hfsp
    let old := fragmentRecord s.hart (l.getLastD e)
    let s ← renameStop (fragmentFault s) (rangeWrite s s.hart .other (lineFuel z) at_.toNat z old)
    .ok (s.mapHart (fun h => { h with
      ve := { h.ve with frags := e :: l.dropLast, spilled := h.ve.spilled + 1 },
      cs := { h.cs with hfsp := spillAddr (at_ + word z) } }))

/-- The top entry; with none resident, the last spilled one is loaded first. None: the buffer is empty (R109, R110). -/
def topFragment (s : State) : Except Stop (Option Fragment × State) :=
  match s.hart.ve.frags with
  | e :: _ => .ok (some e, s)
  | [] =>
    if s.hart.ve.spilled = 0 then .ok (none, s)
    else do
      let z := fragmentBytes s.hart
      let at_ := s.hart.cs.hfsp - word z
      let (v, s) ← renameStop (fragmentFault s) (rangeRead s s.hart .other (lineFuel z) at_.toNat z)
      match fragmentOf s.hart v with
      | none => .error (.trap (badrec 0 at_.toNat))
      | some e =>
        .ok (some e, s.mapHart (fun h => { h with
          ve := { h.ve with frags := [e], spilled := h.ve.spilled - 1 }, cs := { h.cs with hfsp := spillAddr at_ } }))

/-- Bits 0 to `n - 1` of a mask register replaced. -/
def setMaskBelow (h : Hart) (r n : Nat) (v : Nat) : Hart :=
  applyWrite h ⟨.m r, v, 2 ^ min n (regBits h) - 1⟩

/-- The masks an entry restores: the live set and m[K] (R109). -/
def restoreMasks (s : State) (e : Fragment) (v : VReg) : State :=
  s.mapHart (fun h => setMaskBelow (setMaskBelow h 0 e.vlp v.toNat) e.k.toNat e.vlp v.toNat)

/-- A waiting fragment runs: its entry is JOINING, and the vector side goes on at its PC. -/
def runFragment (s : State) (e : Fragment) : State :=
  let s := s.mapHart (fun h => { h with ve := { h.ve with frags := { e with joining := true } :: h.ve.frags.tail } })
  retireTo (restoreMasks s e e.f) (e.pc &&& BitVec.ofNat 64 (2 ^ 64 - 4))

/-- A joined entry leaves the buffer and the live set it held before the split comes back. -/
def joinFragment (s : State) (e : Fragment) : State :=
  restoreMasks (s.mapHart (fun h => { h with ve := { h.ve with frags := h.ve.frags.tail } })) e e.u

/-- VJOIN (R109). -/
def execVjoin (s : State) : Outcome :=
  runPlain s .v true true [] [] (fun s => do
    let (e, s) ← topFragment s
    match e with
    | none => .ok (retire s)
    | some e =>
      awaitWrites s [.m 0, .m e.k.toNat]
      if e.joining then .ok (retire (joinFragment s e)) else .ok (runFragment s e))

/-- The end of the block (R56, R109). -/
def endBlock (s : State) : State :=
  (retire s).mapHart (fun h => { h with ve := { h.ve with block := none } })

/-- The loop of VEND over at most `fuel` entries. -/
def endLoop (s : State) : Nat → Except Stop State
  | 0 => .ok (endBlock s)
  | fuel + 1 => do
    let (e, s) ← topFragment s
    match e with
    | none => .ok (endBlock s)
    | some e =>
      awaitWrites s [.m 0, .m e.k.toNat]
      if e.joining then endLoop (joinFragment s e) fuel else .ok (runFragment s e)

/-- VEND (R109). -/
def execVend (s : State) : Outcome :=
  runPlain s .v true true [] [] (fun s => endLoop s (s.hart.ve.frags.length + s.hart.ve.spilled.toNat))

/-! ### VB (R108, R112, R113) -/

/-- A branch on the bits of m[a] below VL. -/
def maskBranch (s : State) (a : BitVec 5) (o : BitVec 14) (test : Nat → Bool) : Outcome :=
  runPlain s .v (isMask a) (fits s (fun _ => maskFits s.hart)) [.m a.toNat] [] (fun s =>
    .ok (if test (maskBits s.hart a.toNat % 2 ^ s.hart.cs.vl) then retireTo s (relTarget s o) else retire s))

/-- VBANY (R112). -/
def execVbany (a : BitVec 5) (o : BitVec 14) (s : State) : Outcome := maskBranch s a o (fun v => v != 0)
/-- VBNONE (R112). -/
def execVbnone (a : BitVec 5) (o : BitVec 14) (s : State) : Outcome := maskBranch s a o (fun v => v == 0)

/-- VBDIV: a split pushes the elements that do not branch (R108). -/
def execVbdiv (a : BitVec 5) (o : BitVec 14) (s : State) : Outcome :=
  runPlain s .v (isMask a) (fits s (fun _ => maskFits s.hart)) [.m a.toNat, .m 0] [.m a.toNat, .m 0] (fun s => do
    let vl := s.hart.cs.vl
    let live := maskBits s.hart 0 % 2 ^ vl
    let taken := live &&& maskBits s.hart a.toNat
    let rest := live ^^^ taken
    let target := relTarget s o
    if rest = 0 ∧ taken ≠ 0 then .ok (retireTo s target)
    else if taken = 0 then .ok (retire s)
    else
      let s ← pushFragment s ⟨pcOf s + 4, a.setWidth 3, vl, BitVec.ofNat 65536 live, BitVec.ofNat 65536 rest, false⟩
      .ok (retireTo (s.mapHart (fun h => setMaskBelow (setMaskBelow h 0 vl taken) a.toNat vl taken)) target))

/-- VLCNZ (R112). -/
def execVlcnz (a : BitVec 5) (o : BitVec 14) (s : State) : Outcome :=
  runPlain s .v (isLoopCounter a) true [] [] (fun s =>
    let c := vget s.hart.ve.lc a.toNat 0
    let c' := if c = 0 then 0 else c - 1
    let t := s.mapHart (fun h => { h with ve := { h.ve with lc := vset h.ve.lc a.toNat c' } })
    .ok (if c' = 0 then retire t else retireTo t (relTarget s o)))

/-- The progress records after a VLOOP at an address left `r`: none for NOPROGRESS (R113). -/
def loopProgress (l : List LoopRec) (at_ : Word) (r : Int) : Option (List LoopRec) :=
  match l.find? (fun e => e.addr == at_) with
  | none => some (⟨at_, r, 0⟩ :: l.take 3)
  | some e =>
    let n := if e.last ≤ r then e.n + 1 else 0
    if n = 2 then none else some (⟨at_, r, n⟩ :: l.filter (fun x => x.addr != at_))

/-- VLOOP (R113). -/
def execVloop (a : BitVec 5) (o : BitVec 14) (s : State) : Outcome :=
  runPlain s .v (isH a) (fits s (fun _ => true)) [.h a.toNat] [.h a.toNat] (fun s =>
    let r := hRead s.hart a.toNat - word s.hart.cs.vl
    let at_ := s.hart.ve.pc
    match loopProgress s.hart.ve.loops at_ r.toInt with
    | none => .error (.trap { code := causeNoprogress, val := word s.hart.cs.vl })
    | some l =>
      let l := if 0 < r.toInt then l else l.filter (fun x => x.addr != at_)
      let t := s.mapHart (fun h => hWrite { h with ve := { h.ve with loops := l } } a.toNat r)
      .ok (if 0 < r.toInt then retireTo t (relTarget s o) else retire t))

/-- VJMP (R112). -/
def execVjmp (o : BitVec 14) (s : State) : Outcome :=
  runPlain s .v true true [] [] (fun s => .ok (retireTo s (relTarget s o)))

end Sys2Proof.Machine
end

