-- ==== Sys2Proof/Machine/VMem.lean ====
section
/-!
DEFINITION. VLD, VST and QCTL: tensor shape records, stream registers, and the vector side's loads, stores and
scatter-adds (R119 to R127).
-/

namespace Sys2Proof.Machine

/-! ### Access to one element (R120, R124) -/

/-- `w` bits read at a bit address. -/
def elementRead (s : State) (mk : MarkKind) (w : Nat) (bit : Int) : Except Stop (Nat × State) := do
  if bit < 0 then .error (.trap (belowAddress .read bit))
  else
    let b := bit.toNat
    let (v, s) ← orderedRead s s.hart mk (b / 8) (max 1 (w / 8))
    .ok (v / 2 ^ (b % 8) % 2 ^ w, s)

/-- `w` bits written at the point; of a byte that holds more than the element, the other bits keep their values. -/
def elementWrite (s : State) (mk : MarkKind) (w : Nat) (bit : Int) (x : Nat) : Except Stop State := do
  if bit < 0 then .error (.trap (belowAddress .write bit))
  else
    let b := bit.toNat
    if 8 ≤ w then orderedWrite s s.hart mk (b / 8) (w / 8) (x % 2 ^ w)
    else
      awaitEngines s s.hart .write (b / 8)
      let l ← locate s .write false (b / 8)
      awaitIsland s (some s.hart.uid) l.loc
      let (old, s) := s.homeRead (s.hart.place.core / 64) l.loc 1
      orderedWrite s s.hart mk (b / 8) 1 (mergeBits old (x * 2 ^ (b % 8)) ((2 ^ w - 1) * 2 ^ (b % 8)))

/-- An atomic update of an element at its point: reading and writing must be allowed, and `f` gives the new value and
the flags (R125). SUB of its faults is that of a write (notes/assumptions/51). -/
def elementUpdate (s : State) (mk : MarkKind) (w : Nat) (bit : Int) (f : Nat → Nat × Flags) : Except Stop (Flags × State) := do
  if bit < 0 then .error (.trap (belowAddress .write bit))
  else
    let va := (bit / 8).toNat
    awaitEngines s s.hart .write va
    let l ← locate s .write true va
    awaitIsland s (some s.hart.uid) l.loc
    if s.poisoned (lineOf l.loc) then .error (.trap { uncorr va with mark := l.mark })
    else
      let stack := s.hart.place.core / 64
      let (old, s) := s.elemRead stack l.loc (w / 8)
      let r := f old
      match s.elemWrite (some s.hart.uid) stack l.loc (w / 8) r.1 with
      | .error e => .error (writeTrap va l e)
      | .ok s => .ok (r.2, markAccess s l .write mk)

/-! ### The walk over the elements of a word (R124) -/

/-- Faults that end a word early at the element they meet. -/
def trimsWord (t : Trap) : Bool :=
  t.code == causeXlate || t.code == causeProtect || t.code == causeShadow || t.code == causeUncorr

/-- The active ones of the listed elements accessed in ascending order, up to the first that faults. -/
def accessElements {α : Type} (act : Nat → Bool) (f : State → Nat → Except Stop (α × State)) :
    List Nat → State → Except Stop (List (Option α) × Option (Nat × Trap) × State)
  | [], s => .ok ([], none, s)
  | i :: rest, s =>
    if act i then
      match f s i with
      | .ok (x, t) => do
        let (l, e, t) ← accessElements act f rest t
        .ok (some x :: l, e, t)
      | .error (.trap t) => if trimsWord t then .ok ([], some (i, t), s) else .error (.trap t)
      | .error e => .error e
    else do
      let (l, e, t) ← accessElements act f rest s
      .ok (none :: l, e, t)

/-- VL set. -/
def setVl (s : State) (n : Nat) : State := s.mapHart (fun h => { h with cs := { h.cs with vl := n } })

/-- Beats for which a vector memory word of `n` elements holds the lanes (R126). -/
def memoryBeats (s : State) (n : Nat) : Nat := (latency s 1 0 (n * (vtypeOf s).et.width)).beats

/-- A word of length `n` that accesses memory element by element. `post` gives what the word does with the elements it
accessed, from `start` on: it takes the state, `start`, their results, the length in force, and whether the word is over. A
fault at the lowest active element traps; one at a later element trims VL to it. A word stopped at a boundary keeps VL and
its stream's POS (R124, R126). -/
def elementWord {α : Type} (s : State) (n : Nat) (m : BitVec 3) (f : State → Nat → Except Stop (α × State))
    (post : State → Nat → List (Option α) → Nat → Bool → State) : Except Stop State := do
  let start := startOf s
  let stop := stopOf s n
  let act := isActive s.hart m
  let (l, e, t) ← accessElements act f (List.range' start (stop - start)) s
  match e with
  | some (i, x) =>
    if (List.range i).any act then .ok (varyTime (retire (post (setVl (noteWalk t x) i) start l i true)))
    else .error (.trap x)
  | none =>
    if n ≤ stop then .ok (varyTime (retire (post (setVl t n) start l n true)))
    else
      .ok (stall ((post t start l n false).mapHart (fun h =>
        { h with cs := { h.cs with vprog := BitVec.ofNat 64 stop } })))

/-- A vector memory word of length `n`: it holds the lanes of its slot for its beats, for which the sequencer charges it
(R126, R285). -/
def memoryWord {α : Type} (s : State) (n : Nat) (m : BitVec 3) (f : State → Nat → Except Stop (α × State))
    (post : State → Nat → List (Option α) → Nat → Bool → State) : Except Stop State :=
  let beats := memoryBeats s n
  if lanesTaken s ⟨beats, beats⟩ then .error .wait
  else elementWord (holdLanes { s with issue := { s.issue with beats := beats } } beats) n m f post

/-- What a load does with the elements it read. -/
def loadLanes (t : VType) (d : BitVec 5) (s : State) (start : Nat) (l : List (Option Nat)) (n : Nat) (done : Bool) : State :=
  let lanes := l.map (fun x => match x with
    | some v => some v
    | none => inactiveLane t)
  s.mapHart (fun h => applyWrites h (destWrites h t ⟨d.toNat, t.group, t.et.width, n⟩ start lanes done))

/-! ### Streams (R121, R124) -/

/-- The binding of a stream register. -/
def streamReg (s : State) (q : BitVec 5) : Option StreamReg := vget s.hart.q q.toNat none

def setStream (s : State) (q : BitVec 5) (x : Option StreamReg) : State :=
  s.mapHart (fun h => { h with q := vset h.q q.toNat x })

/-- An unbound stream register is named: HTVAL is 0, at QADV and QPOS too (notes/assumptions/106). -/
def unboundStream : Stop := .trap (badrec 0 0)

/-- The stream's elements have the width of ET. An unbound stream has none to compare. -/
def streamFits (s : State) (q : BitVec 5) (t : VType) : Bool :=
  match streamReg s q with
  | some x => x.tsr.et.width == t.et.width
  | none => true

/-- The mark of a unit-stride stream (R227). -/
def streamMark (x : StreamReg) : MarkKind := if x.tsr.str.head? == some 1 then .unit else .other

/-- The length of VLD or VST on a stream: without WRAP it ends at the stream's end. -/
def streamLength (s : State) (x : StreamReg) : Nat :=
  if x.tsr.wrap then s.hart.cs.vl else min s.hart.cs.vl (x.tsr.count - x.pos)

/-- The bit address of element `i` of a word on a stream. -/
def streamElement (x : StreamReg) (i : Nat) : Int :=
  x.tsr.bitAddr (if x.tsr.count ≤ x.pos + i then (x.pos + i) % x.tsr.count else x.pos + i)

/-- A stream at another position: the translations it holds are of pages ahead of it (R121). -/
def StreamReg.at (x : StreamReg) (p : Nat) : StreamReg :=
  { x with pos := p, ahead := x.ahead.filter (fun a => x.tsr.wrap || decide (p ≤ a.pos)) }

/-- POS after `n` elements. -/
def advance (s : State) (q : BitVec 5) (x : StreamReg) (n : Nat) : State :=
  setStream s q (some (x.at (if x.tsr.wrap then (x.pos + n) % x.tsr.count else x.pos + n)))

/-- The accesses of a word on a stream, for which the translations that the stream holds stand beside the core's
(R121, R122). -/
def withAhead {α : Type} (x : StreamReg) (f : State → Except Stop (α × State)) (s : State) : Except Stop (α × State) :=
  (f { s with tlb := s.tlb ++ x.ahead.map (·.entry) }).map (fun r => (r.1, { r.2 with tlb := s.tlb }))

/-- The bit address of an indexed element. -/
def indexedElement (h : Hart) (t : VType) (x : StreamReg) (b : BitVec 5) (i : Nat) : Int :=
  ((x.tsr.base * 8 + elem t.et.width (groupBits h b.toNat t.group) i * t.et.width : Nat) : Int)

/-- The limits on a vector memory word with its data in group d. -/
def dataFits (s : State) (d : BitVec 5) (m : BitVec 3) (t : VType) : Bool := t.aligned d && governFits s.hart m

/-! ### VLD (R123 to R126) -/

/-- VLD. -/
def execVld (d a : BitVec 5) (m : BitVec 3) (s : State) : Outcome :=
  let t := vtypeOf s
  runPlain s .v (isStream a) (fits s (fun t => dataFits s d m t && streamFits s a t)) (maskRegs m) (t.regs d) (fun s =>
    match streamReg s a with
    | none => .error unboundStream
    | some x =>
      memoryWord s (streamLength s x) m
        (fun s i => withAhead x (fun s => elementRead s (streamMark x) t.et.width (streamElement x i)) s)
        (fun s start l n done =>
          let s := loadLanes t d s start l n done
          if done then advance s a x n else s))

/-- VLDX. -/
def execVldx (d a b : BitVec 5) (m : BitVec 3) (s : State) : Outcome :=
  let t := vtypeOf s
  runPlain s .v (isStream a)
    (fits s (fun t => dataFits s d m t && t.aligned b && decide (8 ≤ t.et.width) && streamFits s a t))
    (t.regs b ++ maskRegs m) (t.regs d) (fun s =>
    match streamReg s a with
    | none => .error unboundStream
    | some x =>
      let h := s.hart
      memoryWord s h.cs.vl m (fun s i => elementRead s .gather t.et.width (indexedElement h t x b i)) (loadLanes t d))

/-- Element `i` of a lane-private access: its address and its location; beyond the range it is protected (R115, R124). -/
def privateElement (h : Hart) (k : AccessKind) (a : BitVec 5) (w i : Nat) : Except Stop (Nat × Nat) :=
  let bit := (hRead h a.toNat).toNat * 8 + i * w
  let va := privateBase + bit / 8
  if va < privateEnd h then .ok (privateLoc h.uid (bit / 8), bit % 8) else .error (.trap (protect k va))

/-- h[a] is a multiple of 32. -/
def checkOffset (h : Hart) (a : BitVec 5) : Except Stop Unit :=
  let x := (hRead h a.toNat).toNat
  if x % 32 != 0 then .error (.trap (misalign x)) else .ok ()

/-- An element of the lane-private range read. -/
def privateRead (s : State) (a : BitVec 5) (w i : Nat) : Except Stop (Nat × State) := do
  let (loc, sub) ← privateElement s.hart .read a w i
  if s.poisoned (lineOf loc) then
    .error (.trap (uncorr (privateBase + ((hRead s.hart a.toNat).toNat * 8 + i * w) / 8)))
  else .ok (memRead s.mem loc (max 1 (w / 8)) / 2 ^ sub % 2 ^ w, s)

/-- An element of the lane-private range written. -/
def privateWrite (s : State) (a : BitVec 5) (w i x : Nat) : Except Stop State := do
  let (loc, sub) ← privateElement s.hart .write a w i
  let n := max 1 (w / 8)
  .ok (s.arrayWrite loc n (mergeBits (memRead s.mem loc n) (x * 2 ^ sub) ((2 ^ w - 1) * 2 ^ sub)))

/-- VLDL. -/
def execVldl (d a : BitVec 5) (m : BitVec 3) (s : State) : Outcome :=
  let t := vtypeOf s
  runPlain s .v (isH a) (fits s (dataFits s d m)) (.h a.toNat :: maskRegs m) (t.regs d) (fun s => do
    checkOffset s.hart a
    memoryWord s s.hart.cs.vl m (fun s i => privateRead s a t.et.width i) (loadLanes t d))

/-! ### VST (R123 to R126) -/

/-- Element `i` of the data group. -/
def dataElem (h : Hart) (t : VType) (d : BitVec 5) (i : Nat) : Nat := elem t.et.width (groupBits h d.toNat t.group) i

/-- An access without a result. -/
def noResult (r : Except Stop State) : Except Stop (Unit × State) := r.map (fun s => ((), s))

/-- VST. A line that its active elements cover, those before a cut among them, loses its poison (R80). -/
def execVst (d a : BitVec 5) (m : BitVec 3) (s : State) : Outcome :=
  let t := vtypeOf s
  runPlain s .v (isStream a) (fits s (fun t => dataFits s d m t && streamFits s a t)) (t.regs d ++ maskRegs m) [] (fun s =>
    match streamReg s a with
    | none => .error unboundStream
    | some x =>
      let h := s.hart
      memoryWord s (streamLength s x) m
        (fun s i => withAhead x
          (fun s => noResult (elementWrite s (streamMark x) t.et.width (streamElement x i) (dataElem h t d i))) s)
        (fun s start l n done =>
          let written := (List.range (start + l.length)).filter (isActive h m)
          let s := clearCovered s (written.map (streamElement x)) t.et.width
          if done then advance s a x n else s))

/-- VSTX: in ascending order, so the highest of the elements that name one place wins (R125). Its elements are partial
writes each, and clear no poison, even where they cover a line together: R80 names VST, TST and a copy
(notes/assumptions/93). -/
def execVstx (d a b : BitVec 5) (m : BitVec 3) (s : State) : Outcome :=
  let t := vtypeOf s
  runPlain s .v (isStream a)
    (fits s (fun t => dataFits s d m t && t.aligned b && decide (8 ≤ t.et.width) && streamFits s a t))
    (t.regs d ++ t.regs b ++ maskRegs m) [] (fun s =>
    match streamReg s a with
    | none => .error unboundStream
    | some x =>
      let h := s.hart
      memoryWord s h.cs.vl m
        (fun s i => noResult (elementWrite s .gather t.et.width (indexedElement h t x b i) (dataElem h t d i)))
        (fun s _ _ _ _ => s))

/-- VSTL. Like VSTX it clears no poison (notes/assumptions/93). -/
def execVstl (d a : BitVec 5) (m : BitVec 3) (s : State) : Outcome :=
  let t := vtypeOf s
  runPlain s .v (isH a) (fits s (dataFits s d m)) (.h a.toNat :: (t.regs d ++ maskRegs m)) [] (fun s => do
    checkOffset s.hart a
    let h := s.hart
    memoryWord s h.cs.vl m (fun s i => noResult (privateWrite s a t.et.width i (dataElem h t d i))) (fun s _ _ _ _ => s))

/-- The types of VSTA and BSCADD that add as integers or as floats (R123). -/
def scatterType (e : ElemType) : Bool :=
  e == .i32 || e == .n32 || e == .i64 || e == .n64 || e == .f32 || e == .f64

/-- VSTA (R125). -/
def execVsta (d a b : BitVec 5) (m : BitVec 3) (s : State) : Outcome :=
  let t := vtypeOf s
  runPlain s .v (isStream a)
    (fits s (fun t => dataFits s d m t && t.aligned b && scatterType t.et && streamFits s a t))
    (t.regs d ++ t.regs b ++ maskRegs m) [] (fun s =>
    match streamReg s a with
    | none => .error unboundStream
    | some x =>
      let h := s.hart
      memoryWord s h.cs.vl m
        (fun s i => elementUpdate s .gather t.et.width (indexedElement h t x b i)
          (fun old => scatterAdd t.et t.sat old (dataElem h t d i)))
        (fun s start l _ done => s.mapHart (fun h =>
          noteFlags h start done (l.zipIdx.filterMap (fun y => y.1.map (fun f => (start + y.2, f)))))))

/-! ### QCTL (R127) -/

/-- QSET: the record is read as one load of the vector side and checked. -/
def execQset (d a : BitVec 5) (s : State) : Outcome :=
  runPlain s .v (isStream d && isH a) true [.h a.toNat] [] (fun s =>
    let at_ := (hRead s.hart a.toNat).toNat
    if at_ % 64 != 0 then .error (.trap (misalign at_))
    else do
      let (v, s) ← orderedRead s s.hart .other at_ 64
      match tsrOf v with
      | none => .error (.trap (badrec 0 at_))
      | some t => .ok (varyTime (retire (setStream s d (some { tsr := t, pos := 0 })))))

/-- POS moved by a signed amount: with WRAP modulo N, else clamped to 0 to N. -/
def movePosition (x : StreamReg) (by_ : Int) : Nat :=
  let n := x.tsr.count
  let p := (x.pos : Int) + by_
  if x.tsr.wrap then (p % n).toNat else (max 0 (min p n)).toNat

/-- QADV. -/
def execQadv (d a : BitVec 5) (s : State) : Outcome :=
  runPlain s .v (isStream d && isH a) true [.h a.toNat] [] (fun s =>
    match streamReg s d with
    | none => .error unboundStream
    | some x => .ok (retire (setStream s d (some (x.at (movePosition x (hRead s.hart a.toNat).toInt))))))

/-- QPOS. -/
def execQpos (d a : BitVec 5) (s : State) : Outcome :=
  runPlain s .v (isH d && isStream a) true [] [.h d.toNat] (fun s =>
    match streamReg s a with
    | none => .error unboundStream
    | some x => .ok (retire (s.mapHart (fun h => hWrite h d.toNat (word x.pos)))))

/-- QREL: releasing an unbound register changes nothing. -/
def execQrel (d : BitVec 5) (s : State) : Outcome :=
  runPlain s .v (isStream d) true [] [] (fun s => .ok (retire (setStream s d none)))

end Sys2Proof.Machine
end

