-- ==== Sys2Proof/Machine/Bank.lean ====
section
/-!
DEFINITION. BANK: gathers, scatters and scatter-adds in the banks, the vertical FIFO, and the events of the columns
(R202, R208 to R218).
-/

namespace Sys2Proof.Machine

/-! ### Limits and addresses (R212, R213) -/

/-- The type of a stream's elements. -/
def targetOf (s : State) (q : BitVec 5) : Option ElemType := (streamReg s q).map (·.tsr.et)

/-- VTYPE fits BGATH and BSCAT: elements of the stream's width. An unbound stream has no type to compare. -/
def gatherFits (s : State) (d q b : BitVec 5) (m : BitVec 3) (t : VType) : Bool :=
  dataFits s d m t && t.aligned b &&
    (match targetOf s q with
     | some e => e.width == t.et.width && decide (8 ≤ e.width)
     | none => true)

/-- The target types of the bank adds. -/
def addTarget (e : ElemType) : Bool := e == .i32 || e == .n32 || e == .i64 || e == .n64 || e == .f32

/-- VTYPE fits BSCADD and VFPUSH: data of the target type, or BF16 for an F32 target. -/
def addFits (s : State) (d q b : BitVec 5) (m : BitVec 3) (t : VType) : Bool :=
  dataFits s d m t && t.aligned b &&
    (match targetOf s q with
     | some e => addTarget e && (t.et == e || (t.et == .bf16 && e == .f32))
     | none => true)

/-- The bit address of the element that index element `i` names. -/
def bankElement (h : Hart) (t : VType) (x : StreamReg) (b : BitVec 5) (i : Nat) : Int :=
  ((x.tsr.base * 8 + elem t.et.width (groupBits h b.toNat t.group) i * x.tsr.et.width : Nat) : Int)

/-- The data element in the target type: BF16 to F32 is exact. -/
def widenData (t : VType) (e : ElemType) (x : Nat) : Nat := if t.et == .bf16 && e == .f32 then x * 2 ^ 16 else x

/-! ### Acceptance (R202, R209, R218) -/

/-- The word has an active element. -/
def anyActive (s : State) (m : BitVec 3) : Bool :=
  (List.range' (startOf s) (s.hart.cs.vl - startOf s)).any (isActive s.hart m)

/-- The island of the core of the hart in focus. -/
def islandOf (s : State) : CoreUnit := s.core s.hart.place.core

/-- A bank word stalls before acceptance; inside a timed region it is late (R218). -/
def bankStall (s : State) (d : BitVec 5) : Stop :=
  if s.hart.cs.hstat.timed then .trap (timing 0 (cycleOf s) d.toNat) else .wait

/-- The island accepts requests. -/
def checkIsland (s : State) (d : BitVec 5) : Except Stop Unit :=
  if (islandOf s).island == .on then .ok () else .error (bankStall s d)

/-- The frame of f 0 to 3: an unbound stream traps, a word without an active element retires at once, and the others
need the island. -/
def bankWord (s : State) (wf : Bool) (fit : VType → Bool) (d q : BitVec 5) (m : BitVec 3) (reads writes : List RegId)
    (body : State → StreamReg → Except Stop State) : Outcome :=
  runPlain s .v (wf && isStream q) (fits s fit) reads writes (fun s =>
    match streamReg s q with
    | none => .error unboundStream
    | some x => do
      if anyActive s m then checkIsland s d
      body s x)

/-- A bank request for an element: the page of a global address logs it (R229). -/
def noteRequest (s : State) (bit : Int) : State :=
  let va := (bit / 8).toNat
  if 2 ^ 56 ≤ va then s else notePage s s.hart.place.core s.hart.asid va false

/-! ### BGATH (R213, R214, R217, R218) -/

/-- An element that BGATH reads, after the hart's earlier requests in their sequence (R210). -/
def gatherItem (s : State) (w : Nat) (bit : Int) : Except Stop (Nat × State) :=
  if unreached s s.hart.uid then .error .wait
  else (elementRead s .gather w bit).map (fun r => (r.1, noteRequest r.2 bit))

/-- Where an element lies as seen from a core. -/
inductive Home where
  | own | window | elsewhere
  deriving DecidableEq, Repr, Inhabited

/-- The home of an address in the view of the hart in focus. -/
def homeOf (s : State) (va : Nat) : Home :=
  if 2 ^ 56 ≤ va then .window
  else match quietAt s va with
    | some loc => if columnOf s.product loc == some s.hart.place.core then .own else .elsewhere
    | none => .elsewhere

/-- LAT and STEP of a column (R217). -/
def columnFigures (c : CoreUnit) : Nat × Nat := (96 + (if c.half then 64 else 0) + (if c.hot then 24 else 0), if c.half then 16 else 8)

/-- Groups of 32 elements. -/
def strips (n : Nat) : Nat := (n + 31) / 32

/-- The elements of a BGATH gathered: their results, and the lowest that faults. -/
def gatherAll (s : State) (q b : BitVec 5) (m : BitVec 3) : Except Stop (List (Option Nat) × Option (Nat × Trap) × State) :=
  match streamReg s q with
  | none => .error unboundStream
  | some x =>
    let t := vtypeOf s
    let start := startOf s
    accessElements (isActive s.hart m) (fun s i => gatherItem s t.et.width (bankElement s.hart t x b i))
      (List.range' start (s.hart.cs.vl - start)) s

/-- The record of a BGATH that issues inside a timed region. -/
def gatherRecord (s : State) (q d b : BitVec 5) (m : BitVec 3) : BgathRec :=
  let n := strips s.hart.cs.vl
  let f := columnFigures (islandOf s)
  { addr := s.hart.ve.pc, q := q, b := b, m := m, d := d, issued := s.clock,
    due := s.clock + s.hart.tl.lat + s.hart.tl.step * n, vl := s.hart.cs.vl, start := startOf s, elems := [], strips := n,
    own := false, far := false, hot := (islandOf s).hot, bound := s.clock + f.1 + f.2 * n }

/-- The record with the results that were gathered, of a word of `vl` elements. -/
def BgathRec.fill (r : BgathRec) (s : State) (l : List (Option Nat)) (vl : Nat) : BgathRec :=
  match streamReg s r.q with
  | none => r
  | some x =>
    let homes := l.zipIdx.filterMap (fun (y : Option Nat × Nat) => y.1.map (fun _ =>
      homeOf s ((bankElement s.hart (vtypeOf s) x r.b (r.start + y.2)) / 8).toNat))
    { r with vl := vl, elems := l, own := homes.contains .own, far := homes.contains .elsewhere }

/-- The elements of a BGATH of a timed region gathered into its record. While one of them has to wait (a page in its hold, a
line that is held, an earlier request still to be made), the record stays without results. -/
def gatherInto (s : State) (r : BgathRec) : Except Stop State :=
  match gatherAll s r.q r.b r.m with
  | .error .wait => .ok (s.mapHart (fun h => { h with bgath := some { r with waits := true } }))
  | .error e => .error e
  | .ok (l, some (i, y), u) =>
    if (List.range i).any (isActive s.hart r.m) then
      .ok ((noteWalk u y).mapHart (fun h => { h with bgath := some (r.fill s l i) }))
    else .error (.trap y)
  | .ok (l, none, u) => .ok (u.mapHart (fun h => { h with bgath := some (r.fill s l r.vl) }))

/-- A BGATH inside a timed region: at its issue the results are gathered, and they are held until the due cycle. -/
def timedGather (s : State) (q d b : BitVec 5) (m : BitVec 3) : Except Stop State :=
  match s.hart.bgath with
  | some r =>
    if r.arrived then
      let s := s.mapHart (fun h => { h with bgath := none })
      .ok (retire (loadLanes (vtypeOf s) d (setVl s r.vl) r.start r.elems r.vl true))
    else .error .wait
  | none =>
    let r := gatherRecord s q d b m
    (gatherInto s r).map (fun s => readyFrom s r.due)

/-- BGATH. -/
def execBgath (d a b : BitVec 5) (m : BitVec 3) (s : State) : Outcome :=
  let t := vtypeOf s
  if s.hart.cs.hstat.timed && s.hart.bgath.isSome then
    runPlain s .v (isStream a) (fits s (gatherFits s d a b m)) (t.regs b ++ maskRegs m) (t.regs d)
      (fun s => timedGather s a d b m)
  else
    bankWord s true (gatherFits s d a b m) d a m (t.regs b ++ maskRegs m) (t.regs d) (fun s x =>
      if s.hart.cs.hstat.timed then timedGather s a d b m
      else
        let h := s.hart
        elementWord s h.cs.vl m (fun s i => gatherItem s t.et.width (bankElement h t x b i)) (loadLanes t d))

/-- A BGATH at its due cycle: its results are there, or it is late and the region is aborted. One that still waits is late;
after a wait it may be. A result of the core's own column can be late only if the column's bound lies after the due cycle;
one from elsewhere, always (R217, R218; notes/assumptions/33). -/
def settleGather (s : State) (r : BgathRec) (waited : Bool) : State :=
  let (x, s) := if r.own && (r.far || decide (r.due < r.bound)) then s.choose else (false, s)
  let (y, s) := if r.waits then (true, s) else if r.far || waited then s.choose else (false, s)
  let c := islandOf s
  let sub : BitVec 8 := if !x then 0 else if c.half then 2 else if r.hot then 1 else 0
  if x || y then takeTrap s (timing sub (cycleOf s) r.d.toNat) .vector
  else s.mapHart (fun h => { h with bgath := some { r with arrived := true } })

/-- BGATH_DUE: a BGATH comes to its due cycle. -/
def execBgathDue (at_ : Place) (s : State) : Outcome :=
  .next (s.atPlace at_ (fun s =>
    match s.hart.bgath with
    | none => s
    | some r =>
      if r.arrived || decide (s.clock < r.due) then s
      else if !r.waits then settleGather s r false
      else match gatherInto s { r with waits := false } with
        | .ok t => (t.hart.bgath.map (fun x => settleGather t x true)).getD t
        | .error (.trap y) => takeTrap s y .vector
        | .error _ => s))

/-! ### BSCAT and BSCADD (R213, R214) -/

/-- A part of a word has been accepted: its request is under way. -/
def acceptRequest (s : State) (l : List BankItem) : State := s.mapHart (fun h => { h with bank := h.bank ++ [⟨l⟩] })

/-- An element of BSCAT written as it is accepted, and what the request keeps of it. -/
def scatterItem (s : State) (w : Nat) (bit : Int) (v : Nat) : Except Stop (BankItem × State) := do
  let stack := s.hart.place.core / 64
  let loc := (quietAt s (bit / 8).toNat).getD 0
  let before := peekBytes (s.snoop stack (lineOf loc)) stack loc (w / 8)
  let s ← elementWrite s .gather w bit v
  .ok ({ loc := loc, size := w / 8, before := before, after := v % 2 ^ w }, noteRequest s bit)

/-- BSCAT: in ascending order, so the highest of the elements that name one place is left. -/
def execBscat (d a b : BitVec 5) (m : BitVec 3) (s : State) : Outcome :=
  let t := vtypeOf s
  bankWord s true (gatherFits s d a b m) d a m (t.regs d ++ t.regs b ++ maskRegs m) [] (fun s x =>
    let h := s.hart
    elementWord s h.cs.vl m
      (fun s i => scatterItem s t.et.width (bankElement h t x b i) (dataElem h t d i))
      (fun s start l _ _ =>
        let bits := l.zipIdx.filterMap (fun (y : Option BankItem × Nat) => y.1.map (fun _ => bankElement h t x b (start + y.2)))
        if bits.isEmpty then s else acceptRequest (clearCovered s bits t.et.width) (l.filterMap id)))

/-- A location of a bank add: the word's checks, and the shadow or the refusal of R238, R241 and R159. Adds of VFPUSH
follow one another in the FIFO; any other waits for those before it. -/
def addLocate (s : State) (bit : Int) (n : Nat) (push : Bool) : Except Stop (Located × State) := do
  let va := (bit / 8).toNat
  (if push then awaitCommands else awaitEngines) s s.hart .write va
  let l ← locate s .write true va
  let stack := s.hart.place.core / 64
  if isWindowLoc l.loc then
    if s.isSealed l.loc n then .error (writeTrap va l (.protect none)) else .ok (l, noteRequest s bit)
  else
    match (s.snoop stack (lineOf l.loc)).guardWrite stack l.loc n with
    | .error e => .error (writeTrap va l e)
    | .ok s =>
      -- an add to a poisoned line is not performed, and sets no D (R214, R223)
      let k : AccessKind := if s.poisoned (lineOf l.loc) then .read else .write
      .ok (l, noteRequest (markAccess s l k .gather) bit)

/-- An add of a request performed as it is accepted, and what the request keeps of it. -/
def acceptAdd (s : State) (h : Hart) (loc : Nat) (e : ElemType) (sat : Bool) (x : Nat) : BankItem × State :=
  let n := e.width / 8
  let stack := h.place.core / 64
  let before := peekBytes s stack loc n
  let (f, s) := addAt s (some h.uid) stack loc e sat x
  ({ loc := loc, size := n, before := before, after := peekBytes s stack loc n, flags := f, add := some (e, sat, x) }, s)

/-- BSCADD. -/
def execBscadd (d a b : BitVec 5) (m : BitVec 3) (s : State) : Outcome :=
  let t := vtypeOf s
  bankWord s true (addFits s d a b m) d a m (t.regs d ++ t.regs b ++ maskRegs m) [] (fun s x =>
    let h := s.hart
    let e := x.tsr.et
    elementWord s h.cs.vl m
      (fun s i => do
        let (l, s) ← addLocate s (bankElement h t x b i) (e.width / 8) false
        .ok (acceptAdd s h l.loc e t.sat (widenData t e (dataElem h t d i))))
      (fun s _ l _ _ =>
        let items := l.filterMap id
        if items.isEmpty then s else acceptRequest s items))

/-- An element of a request is held (R238). -/
def itemsLate (l : List BankItem) : Bool := l.any (·.late)

/-- The flags that elements of a request raised. -/
def itemFlags (l : List BankItem) : Flags := l.foldl (fun f i => f ||| i.flags) 0

/-- BANK_REQUEST_COMPLETE: the last add of the hart's earliest request has been performed and its flags are merged; the
hart may be Halted and not yet saved (R213, R214, R274). A request of which an element is held has not completed
(R238), nor one that follows an add still to be made in its source's sequence (R210). -/
def execBankRequestComplete (at_ : Place) (s : State) : Outcome :=
  match s.focusBy (fun h => h.place == at_ && !h.saved && !unreached s h.uid &&
      (match h.bank with | r :: _ => !itemsLate r.items | [] => false)) with
  | none => .next s
  | some s => .next (s.mapHart (fun h =>
      match h.bank with
      | r :: rest => mergeEngine s.clock { h with bank := rest } (itemFlags r.items)
      | [] => h))

/-! ### The vertical FIFO (R215) -/

/-- Entries of the FIFO. -/
def fifoSize : Nat := 16

/-- What the acceptance of a pair leaves: the add that was made, or its add to a window level, which is left to the
island, and whether it is homed in the core's own column. -/
structure PushedPair where
  item : Option BankItem
  add  : Option PendingAdd
  own  : Bool

/-- One pair of a VFPUSH accepted: an add in DRAM is made now, where no access comes between; an add to a window level is
left to the island. -/
def pushPair (s : State) (e : ElemType) (sat : Bool) (bit : Int) (x : Nat) : Except Stop (PushedPair × State) := do
  let (l, s) ← addLocate s bit (e.width / 8) true
  if isWindowLoc l.loc then .ok (⟨none, some ⟨(bit / 8).toNat, l.loc, e, x⟩, false⟩, s)
  else
    let (i, s) := acceptAdd s s.hart l.loc e sat x
    .ok (⟨some i, none, columnOf s.product l.loc == some s.hart.place.core⟩, s)

/-- An add to a window level made as the island reaches its entry; sealed bytes refuse it (R159). -/
def performAdd (stack : Nat) (e : FifoEntry) (acc : Flags × State) (a : PendingAdd) : Flags × State :=
  if acc.2.isSealed a.loc (a.et.width / 8) then (acc.1, lateFault acc.2 e.uid (protect .write a.va))
  else
    let (f, s) := addAt acc.2 (some e.uid) stack a.loc a.et e.sat a.addend
    (acc.1 ||| f, s)

/-- Cycles an entry occupies the island (R215). -/
def islandTime (c : CoreUnit) (e : FifoEntry) : Nat := 24 + (if c.half then 2 else 1) * e.pairs

/-- The island reaches an entry: its adds to window levels are made. It completes when its island time is over, or later by
a free number of cycles if pairs went elsewhere. -/
def reachEntry (s : State) (core : Nat) (e : FifoEntry) : State × FifoEntry :=
  let (f, s) := e.adds.foldl (performAdd (core / 64) e) (e.flags, s)
  let free := s.clock + islandTime (s.core core) e
  let (late, s) := if e.forward then s.draw else (0, s)
  (s.mapCore core (fun c => { c with fifoFree := free }), { e with adds := [], flags := f, done := some (free + late) })

/-- The entries of a FIFO, in acceptance order, with the first that the island has not reached taken up if it is free. -/
def advanceFifo (s : State) (core : Nat) : List FifoEntry → State × List FifoEntry
  | [] => (s, [])
  | e :: rest =>
    if e.done.isSome then let (s, l) := advanceFifo s core rest; (s, e :: l)
    else if (s.core core).fifoFree ≤ s.clock then let (s, e) := reachEntry s core e; (s, e :: rest)
    else (s, e :: rest)

/-- The island of a core goes on: it takes up the next entry when it is free for it. -/
def runIsland (s : State) (core : Nat) : State :=
  let (s, l) := advanceFifo s core (s.core core).fifo
  s.mapCore core (fun c => { c with fifo := l })

/-- VFPUSH: it waits for a free entry and is not stopped part way. The FIFO's arbiter charges the entry's island time (R285). -/
def execVfpush (d a b : BitVec 5) (m : BitVec 3) (s : State) : Outcome :=
  let t := vtypeOf s
  bankWord s true (fun t => addFits s d a b m t && decide (s.hart.cs.vl ≤ 64)) d a m
    (t.regs d ++ t.regs b ++ maskRegs m) [] (fun s x =>
    let s := { s with issue := { s.issue with cut := none } }
    let h := s.hart
    let e := x.tsr.et
    let unit : Arb := .fifo h.place.core
    let push (s : State) : Except Stop State :=
      elementWord s h.cs.vl m
        (fun s i => pushPair s e t.sat (bankElement h t x b i) (widenData t e (dataElem h t d i)))
        (fun s _ l _ _ =>
          let xs := l.filterMap id
          if xs.isEmpty then s
          else
            let entry : FifoEntry :=
              { uid := h.uid, asid := h.asid, since := s.clock, sat := t.sat, adds := xs.filterMap (·.add), flags := 0, items := xs.filterMap (·.item),
                pairs := (xs.filter (·.own)).length, forward := xs.any (fun y => !y.own && y.add.isNone) }
            let s := chargeTurn s unit h.queue (32 * islandTime (islandOf s) entry)
            runIsland (s.mapCore h.place.core (fun c => { c with fifo := c.fifo ++ [entry] })) h.place.core)
    if !anyActive s m then push s
    else if (islandOf s).fifo.length < fifoSize then atUnit s unit push
    else if h.cs.hstat.timed then .error (bankStall s d)
    else .ok (awaitUnit s unit))

/-- The next clock at which something happens in a FIFO: an entry completes, or the island takes one up. -/
def fifoDue (c : CoreUnit) : Option Nat :=
  let ends := c.fifo.filterMap (fun e => if itemsLate e.items then none else e.done)
  let l := if c.fifo.any (fun e => e.done.isNone) then c.fifoFree :: ends else ends
  l.min?

/-- VFIFO_ENTRY_PERFORM: the island takes up the next entry if it is free for it, and an entry whose adds have all been
performed completes: its slot is free and its flags are merged for the hart that pushed it (R213, R215). -/
def execVfifoEntryPerform (core : Nat) (s : State) : Outcome :=
  let ended (e : FifoEntry) : Bool :=
    (match e.done with | some t => decide (t ≤ s.clock) | none => false) && !itemsLate e.items
  let done := (s.core core).fifo.filter ended
  let s := s.mapCore core (fun c => { c with fifo := c.fifo.filter (fun e => !ended e) })
  let s := done.foldl (fun s e => (s.mapHarts (fun h =>
    if h.uid == e.uid && h.life != .free then mergeEngine s.clock h (e.flags ||| itemFlags e.items) else h)).owe ⟨e.asid, false⟩) s
  .next (runIsland s core)

/-- VFFREE. -/
def execVffree (d : BitVec 5) (s : State) : Outcome :=
  runPlain s .v (isH d) true [] [.h d.toNat] (fun s =>
    .ok (retire (s.mapHart (fun h => hWrite h d.toNat (word (fifoSize - (islandOf s).fifo.length))))))

/-! ### The latency table (R216) -/

/-- A column's entry. -/
def latencyWord (c : CoreUnit) : Word :=
  let f := columnFigures c
  word (c.chg.toNat * 2 ^ 48 + c.half.toNat * 2 ^ 47 + c.hot.toNat * 2 ^ 46 + (c.island != .on).toNat * 2 ^ 45 +
    f.1 * 2 ^ 16 + f.2)

/-- BLAT: the entry of the hart's own column also becomes its latency view. -/
def execBlat (d a : BitVec 5) (s : State) : Outcome :=
  runPlain s .v (isH d && isH a) true [.h a.toNat] [.h d.toNat] (fun s =>
    let x := hRead s.hart a.toNat
    let own := s.hart.place.core
    let n := if x == ones64 then own else x.toNat
    if s.product.cores ≤ n then .ok (retire (s.mapHart (fun h => hWrite h d.toNat ones64)))
    else
      let c := s.core n
      let f := columnFigures c
      let s := if n == own then s.mapHart (fun h => { h with tl := { h.tl with lat := f.1, step := f.2 } }) else s
      .ok (retire (s.mapHart (fun h => hWrite h d.toNat (latencyWord c)))))

/-! ### Events of a column (R202, R217) -/

/-- A change of HALF or HOT: counted once Dawn is complete, and seen by each BGATH that waits on the core. -/
def columnChange (s : State) (core : Nat) (f : CoreUnit → CoreUnit) : State :=
  let ready := s.hub.dawn == .ready
  let s := s.mapCore core (fun c => let c := f c; if ready then { c with chg := c.chg + 1 } else c)
  let c := s.core core
  let g := columnFigures c
  s.mapHarts (fun h =>
    if h.place.core != core then h
    else { h with bgath := h.bgath.map (fun r =>
      { r with hot := r.hot || c.hot, bound := max r.bound (r.issued + g.1 + g.2 * r.strips) }) })

/-- VERTICAL_PATH_DEGRADE. -/
def execVerticalPathDegrade (core : Nat) (s : State) : Outcome :=
  if s.product.cores ≤ core || (s.core core).half then .next s
  else .next (columnChange s core (fun c => { c with half := true }))

/-- BANK_TEMPERATURE_CHANGE. -/
def execBankTemperatureChange (core : Nat) (hot : Bool) (s : State) : Outcome :=
  if s.product.cores ≤ core || (s.core core).hot == hot then .next s
  else .next (columnChange s core (fun c => { c with hot := hot }))

/-- Requests of the core's harts are under way. -/
def bankBusy (s : State) (core : Nat) : Bool :=
  s.harts.any (fun h => h.place.core == core && !h.saved &&
    (!h.bank.isEmpty || (match h.bgath with | some r => !r.arrived | none => false)))

/-- ISLAND_GATE: the last accepted entry of a dusking island has completed. -/
def execIslandGate (core : Nat) (s : State) : Outcome :=
  let c := s.core core
  if c.island == .dusking && c.fifo.isEmpty && !bankBusy s core then
    .next (s.mapCore core (fun c => { c with island := .gated }))
  else .next s

/-- ISLAND_WAKE: 2 µs have passed. -/
def execIslandWake (core : Nat) (s : State) : Outcome :=
  match (s.core core).island with
  | .waking due dusk =>
    if due ≤ s.clock then .next (s.mapCore core (fun c => { c with island := if dusk then .dusking else .on }))
    else .next s
  | _ => .next s

end Sys2Proof.Machine
end

