-- ==== Sys2Proof/Machine/Barrier.lean ====
section
/-!
DEFINITION. BAR: barriers (R141 to R147).
-/

namespace Sys2Proof.Machine

/-! ### The record (R141) -/

/-- ST of a barrier. -/
inductive BarState where
  | free | armed | filling | aborted
  deriving DecidableEq, Repr, Inhabited

/-- A barrier record. -/
structure BarRecord where
  count   : Nat
  arrived : Nat
  phase   : Bool
  st      : BarState
  scope   : Nat
  owner   : Nat
  deriving DecidableEq, Repr, Inhabited

/-- The record in 32 bytes; none if it is malformed. -/
def BarRecord.ofBytes (v : Nat) : Option BarRecord :=
  let count := bytesAt v 0 4
  let arrived := bytesAt v 4 4
  let ctrl := bytesAt v 8 4
  let st := match ctrl / 2 % 4 with
    | 0 => BarState.free
    | 1 => .armed
    | 2 => .filling
    | _ => .aborted
  let scope := ctrl / 8 % 8
  if 2 ^ 24 ≤ count ∨ 2 ^ 24 ≤ arrived ∨ 64 ≤ ctrl ∨ bytesAt v 12 4 ≠ 0 ∨ bytesAt v 24 8 ≠ 0 ∨ 5 < scope then none
  else if st ≠ .free ∧ (count = 0 ∨ count ≤ arrived) then none
  else some ⟨count, arrived, ctrl % 2 == 1, st, scope, bytesAt v 16 8⟩

/-- The code of ST. -/
def BarState.code : BarState → Nat
  | .free => 0
  | .armed => 1
  | .filling => 2
  | .aborted => 3

/-- The 32 bytes of a record. -/
def BarRecord.toBytes (r : BarRecord) : Nat :=
  r.count + r.arrived * 256 ^ 4 + (r.phase.toNat + r.st.code * 2 + r.scope * 8) * 256 ^ 8 + r.owner * 256 ^ 16

/-- Status codes of a result word (R146). -/
inductive BarStatus where
  | arrived | last | released | aborted | pending
  deriving DecidableEq, Repr, Inhabited

def BarStatus.code : BarStatus → Nat
  | .arrived => 0
  | .last => 1
  | .released => 2
  | .aborted => 3
  | .pending => 4

/-- status · 2 + token. -/
def barResult (st : BarStatus) (tok : Bool) : Word := BitVec.ofNat 64 (st.code * 2 + tok.toNat)

/-- An arrival on an ARMED, FILLING or ABORTED record (R143). -/
def BarRecord.arrive (r : BarRecord) : BarRecord × BarStatus :=
  if r.st == .aborted then (r, .aborted)
  else if r.arrived + 1 < r.count then ({ r with arrived := r.arrived + 1, st := .filling }, .arrived)
  else ({ r with arrived := 0, phase := !r.phase, st := .armed }, .last)

/-- BINIT with a count on a record that is not FILLING (R143). -/
def BarRecord.init (n scope owner : Nat) : BarRecord :=
  if n == 0 then ⟨0, 0, false, .free, 0, 0⟩ else ⟨n, 0, false, .armed, scope, owner⟩

/-! ### The armed barriers the device knows (R142) -/

/-- The record lies in a grant of cluster-shared memory. -/
def inClusterMemory (s : State) (loc : Nat) : Bool :=
  s.grants.any (fun g => g.level == .cluster && decide (windowLoc g.gid 0 ≤ loc ∧ loc < windowLoc g.gid g.size))

/-- Entries of a cluster's barrier table in use. -/
def tableUsed (s : State) (cluster : Nat) : Nat := (s.barriers.filter (fun b => b.table && b.core / 8 == cluster)).length

/-- The device's view of a barrier as a word of the hart in focus finds or leaves its record: an armed barrier is known,
BINIT takes a table entry where R142 allows, and a record that is FREE or ABORTED is released. -/
def noteBarrier (s : State) (loc core scope : Nat) (r : BarRecord) (init : Bool) : State :=
  let rest := s.barriers.filter (fun b => b.loc != loc)
  if r.st == .free || r.st == .aborted then { s with barriers := rest }
  else if init then
    let s := { s with barriers := rest }
    let table := inClusterMemory s loc && decide (scope ≤ scopeClus) && decide (tableUsed s (core / 8) < 32)
    { s with barriers := ⟨loc, core, s.hart.asid, scope, table⟩ :: rest }
  else if s.barriers.any (fun b => b.loc == loc) then s
  else { s with barriers := ⟨loc, core, s.hart.asid, scope, false⟩ :: s.barriers }

/-! ### Reading and writing the record atomically (R142, R147) -/

/-- The 32 bytes at x at the point of the word's scope. -/
def barrierBytes (s : State) (x scope : Nat) : Except Stop (Located × Nat × State) := do
  if x % 32 != 0 then .error (.trap (misalign x))
  else
    awaitSide s .write x
    let (l, s) ← amoLocate s .read false scope x
    let (v, s) := amoRead s s.hart.place.core scope l.loc 32
    .ok (l, v, markAccess s l .read .other)

/-- The record at x at the point of the word's scope, after the checks common to all words. A BINIT whose scope is not the
record's old one is performed at the point of its own, which the record then takes: DESIGN CHOICE, where R142 names only the
point of the record's SCOPE and R143 replaces that by the word's (notes/assumptions/126). -/
def readBarrier (s : State) (x scope : Nat) (init : Bool) : Except Stop (Located × BarRecord × State) := do
  let (l, v, s) ← barrierBytes s x scope
  match BarRecord.ofBytes v with
  | none => .error (.trap (badrec 2 x))
  | some r =>
    if !init && (r.st == .free || r.scope != scope) then .error (.trap (badrec 2 x))
    else .ok (l, r, noteBarrier s l.loc s.hart.place.core scope r false)

/-- The record written there: a write needs its own permission, and may raise SHADOW with SUB 1 (R147). -/
def writeBarrier (s : State) (x scope : Nat) (r : BarRecord) (init : Bool) : Except Stop State := do
  let l ← locate s .write false x
  let core := s.hart.place.core
  let refs := s.barriers
  match amoPut s core scope l.loc 32 r.toBytes with
  | .error w => .error (lineFault (writeTrap x l w))
  | .ok s => .ok (noteBarrier { (markAccess s l .write .other) with barriers := refs } l.loc core scope r init)

/-- The publishing action of an arrival: as FENCE on the scalar side, as FENCE.V on the vector side (R145). -/
def publishSide (s : State) (scope : Nat) : Except Stop State :=
  match s.issue.side with
  | .scalar => .ok (publishLines s s.hart.place.core scope (fun _ => true))
  | .vector => do
    waitWrites s
    .ok (publishVector s s.hart.uid s.hart.place.core scope)

/-- The acquiring action of a release, as FENCE performs it (R145). -/
def acquireSide (s : State) (scope : Nat) : State := acquireLines s s.hart.place.core scope (fun _ => true)

/-- A write that the core's L1 sent waits for a shadow: the action that sent it is not over (R130, R238). -/
def sideHeld (s : State) : Bool := s.issue.side == .scalar && s.holdsWrite s.hart.place.core (fun _ => true)

/-- Accesses of the issuing side that an acquiring action has to wait for (R130). -/
def sideBusy (s : State) : Bool := s.issue.side == .vector && vectorAccessesPending s

/-- The BAR word of the issuing side that waits. -/
def barWaiting (s : State) : Option BarWait :=
  match s.issue.side with
  | .scalar => s.hart.sc.barw
  | .vector => s.hart.ve.barw

def setBarWaiting (s : State) (b : Option BarWait) : State :=
  match s.issue.side with
  | .scalar => s.mapHart (fun h => { h with sc := { h.sc with barw := b } })
  | .vector => s.mapHart (fun h => { h with ve := { h.ve with barw := b } })

/-! ### The words (R146, R147) -/

/-- A BAR word retires; inside a timed region its latency is variable. -/
def retireBar (s : State) (d : BitVec 5) (v : Word) : State := varyTime (retire (xWrite (setBarWaiting s none) d.toNat v))

/-- The acquiring action of a word that reports LAST or RELEASED, and its retirement; until the side's earlier accesses are
performed the word waits with its report (R145). -/
def acquireAndRetire (s : State) (d : BitVec 5) (c : BitVec 3) (w : BarWait) : State :=
  let st : BarStatus := if w.stage == .last then .last else .released
  if sideBusy s then stall (setBarWaiting s (some w))
  else
    let s := acquireSide s c.toNat
    if sideHeld s then stall (setBarWaiting s (some w)) else retireBar s d (barResult st w.tok)

/-- BINIT. -/
def execBinit (d a b : BitVec 5) (c : BitVec 3) (s : State) : Outcome :=
  runPlain s .b (isScope c && xOk s [d, a, b]) true [xReg s a.toNat, xReg s b.toNat] [xReg s d.toNat] (fun s => do
    let x := (xRead s a.toNat).toNat
    let n := (xRead s b.toNat).toNat
    let (_, r, s) ← readBarrier s x c.toNat true
    if 2 ^ 24 ≤ n then .error (.trap (badrec 2 x))
    else if r.st == .filling then .ok (retireBar s d 1)
    else
      let s ← writeBarrier s x c.toNat (BarRecord.init n c.toNat s.hart.launch.toNat) true
      .ok (retireBar s d 0))

/-- An arrival: the side's writes are published, and then the arrival is counted; the last one acquires, and one that is
not the last waits if `wait` says so. -/
def arriveAt (s : State) (d a : BitVec 5) (c : BitVec 3) (wait : Bool) : Except Stop State := do
  let x := (xRead s a.toNat).toNat
  let (_, r, s) ← readBarrier s x c.toNat false
  let s ← publishSide s c.toNat
  if sideHeld s then .ok (stall s)
  else
    let (r', st) := r.arrive
    if st == .aborted then .ok (retireBar s d (barResult st r.phase))
    else
      let s ← writeBarrier s x c.toNat r' false
      if st == .last then .ok (acquireAndRetire s d c { d := d.toNat, tok := r.phase, p := s.issue.p, stage := .last, once := !wait })
      else if wait then .ok (stall (setBarWaiting s (some { d := d.toNat, tok := r.phase, p := s.issue.p })))
      else .ok (retireBar s d (barResult st r.phase))

/-- What a word that waits on a token finds at its turn: the record is ABORTED, its phase differs, or neither; no other
check is made again. -/
def phaseTurn (s : State) (d a : BitVec 5) (c : BitVec 3) (w : BarWait) : Except Stop State := do
  let (_, v, s) ← barrierBytes s (xRead s a.toNat).toNat c.toNat
  let ctrl := bytesAt v 8 4
  if ctrl / 2 % 4 = 3 then .ok (retireBar s d (barResult .aborted w.tok))
  else if (ctrl % 2 == 1) != w.tok then .ok (acquireAndRetire s d c { w with stage := .released })
  else .error .wait

/-- A word that waits goes on. -/
def continueBar (s : State) (d a : BitVec 5) (c : BitVec 3) (w : BarWait) : Except Stop State :=
  if w.stage == .phase then phaseTurn s d a c w else .ok (acquireAndRetire s d c w)

/-- BARRIVE. -/
def execBarrive (d a : BitVec 5) (c : BitVec 3) (s : State) : Outcome :=
  runPlain s .b (isScope c && xOk s [d, a]) true [xReg s a.toNat] [xReg s d.toNat] (fun s =>
    match barWaiting s with
    | some w => continueBar s d a c w
    | none => arriveAt s d a c false)

/-- BWAIT: once it waits, only the phase or an abort ends its wait. -/
def execBwait (d a b : BitVec 5) (c : BitVec 3) (s : State) : Outcome :=
  runPlain s .b (isScope c && xOk s [d, a, b]) true [xReg s a.toNat, xReg s b.toNat] [xReg s d.toNat] (fun s =>
    match barWaiting s with
    | some w => continueBar s d a c w
    | none => do
      let w : BarWait := { d := d.toNat, tok := (xRead s b.toNat).getLsbD 0, p := s.issue.p, arrived := false }
      let (_, r, s) ← readBarrier s (xRead s a.toNat).toNat c.toNat false
      if r.st == .aborted then .ok (retireBar s d (barResult .aborted w.tok))
      else if r.phase != w.tok then .ok (acquireAndRetire s d c { w with stage := .released })
      else .ok (stall (setBarWaiting s (some w))))

/-- BARW: an arrival that is not the last waits as BWAIT does, and never arrives a second time. -/
def execBarw (d a : BitVec 5) (c : BitVec 3) (s : State) : Outcome :=
  runPlain s .b (isScope c && xOk s [d, a]) true [xReg s a.toNat] [xReg s d.toNat] (fun s =>
    match barWaiting s with
    | some w => continueBar s d a c w
    | none => arriveAt s d a c true)

/-- BTEST. -/
def execBtest (d a b : BitVec 5) (c : BitVec 3) (s : State) : Outcome :=
  runPlain s .b (isScope c && xOk s [d, a, b]) true [xReg s a.toNat, xReg s b.toNat] [xReg s d.toNat] (fun s =>
    match barWaiting s with
    | some w => continueBar s d a c w
    | none => do
      let w : BarWait := { d := d.toNat, tok := (xRead s b.toNat).getLsbD 0, p := s.issue.p, arrived := false }
      let (_, r, s) ← readBarrier s (xRead s a.toNat).toNat c.toNat false
      if r.st == .aborted then .ok (retireBar s d (barResult .aborted w.tok))
      else if r.phase != w.tok then .ok (acquireAndRetire s d c { w with stage := .released })
      else .ok (retireBar s d (barResult .pending w.tok)))

/-! ### Cancellation of an owner (R143) -/

/-- The bytes of a record as the device reads them for a barrier it knows. -/
def barrierAt (s : State) (b : BarrierRef) : Option BarRecord := BarRecord.ofBytes (amoGet s b.core b.scope b.loc 32)

/-- A barrier of a launch of a context: its record names the launch as its owner. -/
def ownedBy (s : State) (asid : Nat) (owner : Word) (b : BarrierRef) : Option BarRecord :=
  if b.asid == asid then
    match barrierAt s b with
    | some r => if r.owner == owner.toNat then some r else none
    | none => none
  else none

/-- A barrier's record becomes ABORTED, and its table entry is released. A write that needs a shadow and finds none is held
as those of other agents than words are (R238). -/
def abortBarrier (s : State) (b : BarrierRef) (r : BarRecord) : State :=
  let v := { r with st := BarState.aborted }.toBytes
  let s := { s with barriers := s.barriers.filter (fun x => x.loc != b.loc) }
  match amoPut (settleLine s b.core b.scope b.loc) b.core b.scope b.loc 32 v with
  | .ok s => s
  | .error (.shadow asid) => s.mapCtx asid (fun c => { c with
      held := c.held ++ [{ core := none, asid := b.asid, line := lineOf b.loc, data := BitVec.ofNat 1024 (v * 256 ^ (b.loc % 128)),
                           dirty := byteMask (b.loc % 128) 32 }] })
  | .error (.protect _) => s

/-- The barriers a launch owns become ABORTED when the launch is cancelled. -/
def abortBarriers (s : State) (asid : Nat) (owner : Word) : State :=
  s.barriers.foldl
    (fun s b => match ownedBy s asid owner b with
      | some r => if r.st == .armed || r.st == .filling then abortBarrier s b r else s
      | none => s) s

/-- The table entries of a launch's barriers are released when the launch completes (R142). -/
def releaseBarriers (s : State) (asid : Nat) (owner : Word) : State :=
  { s with barriers := s.barriers.map (fun b => if (ownedBy s asid owner b).isSome then { b with table := false } else b) }

end Sys2Proof.Machine
end

