-- ==== Sys2Proof/Machine/Fetch.lean ====
section
/-!
DEFINITION. What stands around a word: when a side may issue, the fetch of its word, the refusal of the decoder, and the
moves of the caches (R16, R21, R29, R71, R74, R76, R80, R117, R225, R332, R344).
-/

namespace Sys2Proof.Machine

/-! ### When a side may issue -/

/-- The cycle in which a side of the hart in focus issues next (R29). -/
def issueTime (s : State) (sd : Side) : Nat :=
  max s.clock (match sd with
    | .scalar => s.hart.sc.readyAt
    | .vector => s.hart.ve.readyAt)

/-- A side of the hart in focus has a word to issue: the scalar side while the hart runs or handles a trap, the vector
side inside a block and at level 0 (R54, R56, R74). -/
def mayIssue (h : Hart) : Side → Bool
  | .scalar => h.life == .running || h.life == .handler
  | .vector => h.resident && !h.cs.hstat.hl && h.ve.block.isSome

/-- A pending asynchronous interrupt that the scalar boundary takes: the lowest code first (R76). -/
def dueInterrupt (h : Hart) : Option Trap :=
  if h.cs.hstat.ie && !h.cs.hstat.hl then
    h.irqs.foldl (fun a t => match a with
      | some x => if t.code < x.code then some t else a
      | none => some t) none
  else none

/-- A WAIT waits at the scalar side's program counter: an interrupt ends it first (R71). -/
def waitsHere (h : Hart) : Bool :=
  match (if h.cs.hstat.hl then h.sc.wait1 else h.sc.wait0) with
  | some w => w.live && w.addr == h.sc.pc
  | none => false

/-- The interrupt taken: it is pending no longer. -/
def takeInterrupt (s : State) (t : Trap) : State :=
  takeTrap (s.mapHart (fun h => { h with irqs := h.irqs.erase t })) t .interrupt

/-- The first engine fault that waits for the next vector-side word, taken in that word's place (R344). -/
def takeEngineFault (s : State) : Option State :=
  match s.hart.tl.faults with
  | [] => none
  | (t, at_) :: rest =>
    some (takeTrap (s.mapHart (fun h => { h with tl := { h.tl with faults := rest } })) t .vector true at_)

/-! ### Fetch -/

/-- The words a side has fetched ahead. -/
def fetchedOf (h : Hart) : Side → List (Word × BitVec 32)
  | .scalar => h.sc.fetched
  | .vector => h.ve.fetched

def setFetched (h : Hart) (sd : Side) (l : List (Word × BitVec 32)) : Hart :=
  match sd with
  | .scalar => { h with sc := { h.sc with fetched := l } }
  | .vector => { h with ve := { h.ve with fetched := l } }

/-- The word at an address read through the core's L1 (R16, R117). -/
def readWord (s : State) (at_ : Word) : Except Stop (BitVec 32 × State) := do
  let (v, s) ← scalarRead s .fetch at_.toNat 4
  .ok (BitVec.ofNat 32 v, s)

/-- The word a side issues: one fetched ahead from its program counter, or the word that stands there. -/
def fetchWord (s : State) : Except Stop (BitVec 32 × State) :=
  let sd := s.issue.side
  let l := fetchedOf s.hart sd
  match l.find? (fun x => x.1 == pcOf s) with
  | some x => .ok (x.2, s.mapHart (fun h => setFetched h sd (l.filter (fun y => y.1 != x.1))))
  | none => readWord s (pcOf s)

/-- A side fetches ahead the word at its program counter or one of the words after it; a fetch that fails has no effect
(R71). -/
def fetchAhead (s : State) (sd : Side) : State :=
  let pc := match sd with
    | .scalar => s.hart.sc.pc
    | .vector => s.hart.ve.pc
  let n := (fetchedOf s.hart sd).length
  let at_ := pc + 4 * BitVec.ofNat 64 n
  match readWord s at_ with
  | .ok (w, s) => s.mapHart (fun h => setFetched h sd (fetchedOf h sd ++ [(at_, w)]))
  | .error _ => s

/-- The clock reaches the cycle in which a side issues, and the word at hand is the side's. -/
def beginIssue (s : State) (sd : Side) (cut : Option Nat) : State :=
  { s with clock := issueTime s sd, issue := { side := sd, cut := cut } }

/-- The fetched word stands as the word at hand. -/
def holdWord (s : State) (w : BitVec 32) : State :=
  { s with issue := { s.issue with word := w, p := wordP w, s := wordS w } }

/-- The trap of a word the decoder refuses (R21 steps 1 to 3). -/
def decodeTrap (s : State) (e : DecodeError) : Trap :=
  match e, majorMark (wordOp s.issue.word) with
  | .reservedMajor, _ => illegal s
  | _, some m => if markAdmits m s.issue.side then illegal s else illside s
  | _, none => illegal s

/-- A refused word ends in its trap; like any scalar-side word it discards the WAIT record of its level. -/
def refuseWord (s : State) (e : DecodeError) : Outcome := finish (discardWait s) (.error (.trap (decodeTrap s e)))

/-! ### Blocks (R17, R56, R113) -/

/-- The vector side takes the next entry of the block queue: lc0 and h0 to h3 are set, HRPC takes the block's address,
and the progress records of VLOOP are cleared. -/
def takeBlock (s : State) : State :=
  let h := s.hart
  if !(h.resident && !h.cs.hstat.hl && h.ve.block.isNone) then s else
  match h.ve.blockQ with
  | [] => s
  | e :: rest =>
    s.mapHart (fun h =>
      let h := hWrite (hWrite (hWrite (hWrite h 0 e.arg0) 1 e.arg1) 2 e.arg2) 3 e.arg3
      { h with
        ve := { h.ve with lc := vset h.ve.lc 0 e.trip, pc := e.addr, block := some ⟨e.addr, e.seq⟩, blockQ := rest,
                          loops := [] },
        cs := { h.cs with hrpc := regAddr 0 e.addr } })

/-! ### A side's turn -/

/-- What a side's turn comes to: it is over; a word is to be fetched and run; or a word is to be run that something else
contends with, which leaves `u`. -/
inductive Begun where
  | over (s : State)
  | word (s : State)
  /-- an interrupt is due: the word's own trap comes before it, and else it is taken in the word's place -/
  | interrupted (s u : State)
  /-- a fault of the vector side is due: it comes before a trap of the word -/
  | behindFault (s u : State)

/-- Another hart of the slot is inside a timed region: this one stands still (R188). -/
def frozenOut (s : State) : Bool :=
  s.parked.any (fun h => h.place.core == s.hart.place.core && h.place.slot == s.hart.place.slot && h.tl.region.isSome)

/-- The harts of the slot of the hart in focus whose vector sides have a word to issue. In a slot with a timed region only
the region's hart has. -/
def sequencerHarts (s : State) : List Hart :=
  let l := s.harts.filter (fun h => h.place.core == s.hart.place.core && h.place.slot == s.hart.place.slot && h.resident &&
    mayIssue h .vector && decide (h.ve.readyAt ≤ s.clock))
  if l.any (fun h => h.tl.region.isSome) then l.filter (fun h => h.tl.region.isSome) else l

/-- The slot's sequencer serves the hart in focus: its queue's turn has come, and of the queue's harts it has waited
longest (R286). None: another is served first. -/
def sequence (s : State) : Option State :=
  let x : Arb := .sequencer s.hart.place.core s.hart.place.slot
  if (arbiter s x).order.isEmpty then some s
  else
    let l := sequencerHarts s
    let ready := (l.map (·.queue)).eraseDups
    let a := turnOf s x ready
    if serves s ready a s.hart.queue && l.all (fun h => h.queue != s.hart.queue || decide (s.hart.ve.readyAt ≤ h.ve.readyAt)) then
      some (setArbiter s a)
    else none

/-- A side's turn: the vector side without a block takes one, and a pending engine fault is taken in place of its word
(R344). Of what is due at a scalar boundary the vector side's fault comes first, then the word's own trap, and an
interrupt last (R71, R76). -/
def beginSide (s : State) (sd : Side) (cut : Option Nat) : Begun :=
  if frozenOut s then .over s
  else if !mayIssue s.hart sd then .over (match sd with | .scalar => s | .vector => takeBlock s) else
  let s := beginIssue s sd cut
  match sd with
  | .scalar =>
    let fault := if mayIssue s.hart .vector then takeEngineFault s else none
    match (if waitsHere s.hart then none else dueInterrupt s.hart), fault with
    | some _, some u => .over u
    | some t, none => .interrupted s (takeInterrupt s t)
    | none, some u => .behindFault s u
    | none, none => .word s
  | .vector =>
    match takeEngineFault s with
    | some t => .over t
    | none => match sequence s with
      | some t => .word t
      | none => .over s

/-! ### Moves of the caches and errors -/

/-- A page of 2 ^ bits bytes is under a shootdown that has not completed (R226). -/
def underShootdown (s : State) (asid base bits : Nat) : Bool :=
  s.shoots.any (fun x => x.asid == asid && decide (x.va < base + 2 ^ bits ∧ base < x.va + x.len))

/-- The translation that a walk made ahead of an access ends in; a fault of the walk gives none (R122). -/
def walkedEntry (s : State) (core asid va : Nat) : Option TlbEntry :=
  match (s.ctx? asid).map (·.root) with
  | none => none
  | some root =>
    match walk s root va with
    | .leaf at_ bits e =>
      let base := va / 2 ^ bits * 2 ^ bits
      if underShootdown s asid base bits then none
      else some { core := core, asid := asid, base := base, bits := bits, at_ := at_, leaf := e, fresh := !leafA e }
    | _ => none

/-- Entries of a core's translation cache (R225). -/
def tlbSize : Nat := 2048

/-- A core keeps the translation of a page whose leaf has A = 1, while its cache has room (R225). -/
def tlbFill (s : State) (core asid va : Nat) : State :=
  match walkedEntry s core asid va with
  | none => s
  | some t =>
    let rest := s.tlb.filter (fun u => !(u.core == core && u.asid == asid && u.base == t.base && u.bits == t.bits))
    if t.fresh || decide (tlbSize ≤ (rest.filter (·.core == core)).length) then s else { s with tlb := t :: rest }

/-- Translations that satisfy a test dropped from the translation caches, and from the streams, whose translations are
copies (R122, R226). -/
def dropTranslations (s : State) (p : TlbEntry → Bool) : State :=
  { s with tlb := s.tlb.filter (fun t => !p t) }.mapHarts (fun h => { h with q := h.q.map (fun (x : Option StreamReg) =>
    x.map (fun (r : StreamReg) => { r with ahead := r.ahead.filter (fun a => !p a.entry) })) })

/-- A core drops a translation. -/
def tlbDrop (s : State) (core asid base : Nat) : State :=
  dropTranslations s (fun t => t.core == core && t.asid == asid && t.base == base)

/-- An uncorrectable error poisons a line, and Voxind logs it (R80, R326, R332). -/
def poisonLine (s : State) (line : Nat) : State :=
  if s.poisoned line then s else { s.raise none 3 with poison := line :: s.poison }

/-- An uncorrectable error poisons register-die state of the hart in focus (R80, R81). -/
def poisonRegister (s : State) (kind n : Nat) : State :=
  s.mapHart (fun h => if h.poison.contains (kind, n) then h else { h with poison := (kind, n) :: h.poison })

/-- A corrected error is counted for Voxind, saturating (R80, R325, R332). -/
def countCorrected (s : State) : State :=
  let n := s.hub.eccCnt
  { s.raise none 3 with hub := { s.hub with eccCnt := if n = ones64 then n else n + 1 } }

end Sys2Proof.Machine
end

