-- ==== Sys2Proof/Machine/Sig.lean ====
section
/-!
DEFINITION. SIG: signature groups, their configuration, and the values of their commands (R245 to R251).
-/

namespace Sys2Proof.Machine

/-! ### Configuration (R246, R249) -/

/-- A configuration is accepted. -/
def configOk (d n : Nat) : Bool := decide (1 ≤ d ∧ d ≤ 16) && decide (1 ≤ n ∧ n ≤ 4) && decide (sigSize d n ≤ 65536)

/-- VTYPE of an accepted SIGD. -/
def sigVtype (old : Option VType) : VType :=
  match old with
  | some t => { t with et := .f32, lg := 0, bs := 0, hm := .bsc, hd := 0 }
  | none => { et := .f32 }

/-- SIGD (R249). -/
def execSigd (d a : BitVec 5) (s : State) : Outcome :=
  runPlain s .v (isH d && isH a) true [.h a.toNat] [.h d.toNat] (fun s =>
    let x := (hRead s.hart a.toNat).toNat
    let dim := x % 32
    let n := x / 256 % 8
    .ok (retire (s.mapHart (fun h =>
      if 2 ^ 11 ≤ x ∨ x / 32 % 8 ≠ 0 ∨ !configOk dim n then
        hWrite { h with cs := { h.cs with vtype := none, vl := 0 } } d.toNat 0
      else
        hWrite { h with cs := { h.cs with vtype := some (sigVtype h.cs.vtype), vl := dim },
                        tl := { h.tl with cfg := (dim, n) } } d.toNat (word (sigSize dim n))))))

/-! ### Issue (R250, R251) -/

/-- A field names a group. -/
def isGroup (r : BitVec 5) : Bool := r == 8#5 || r == 12#5

/-- A signature command issued; inside a timed region it starts at issue (R251). -/
def sigWord (s : State) (wf : Bool) (fit : VType → Bool) (reads : List RegId) (plan : State → Except Stop CmdKind) : Outcome :=
  engineWord s wf (fun t => fit t && s.hart.tl.cfg != (0, 0)) reads [] (fun s _ => do
    let k ← plan s
    checkTiles s k.readTiles
    awaitQueue s 1
    let c := newCommand s k none
    if s.hart.cs.hstat.timed then
      if mayStart s s.hart.tl.queue c && !s.hart.tl.queue.any (occupies s c) then
        let s := enqueue s { c with state := .running s.clock, varying := variesInTime s c }
        .ok (retire (s.mapHart (fun h => stampTiles h k.tiles (vget h.tl.producer (k.tiles.headD 0) 0))))
      else .error .wait
    else .ok (retire (enqueue s c)))

/-- SIGINIT. -/
def execSiginit (d : BitVec 5) (s : State) : Outcome :=
  sigWord s (isGroup d) (fun _ => true) [] (fun _ => .ok (.sigInit d.toNat))

/-- SIGADD: the increment is read at issue. -/
def execSigadd (d a : BitVec 5) (s : State) : Outcome :=
  sigWord s (isGroup d) (fun t => t.et == .f32 && s.hart.cs.vl == s.hart.tl.cfg.1 && t.aligned a) ((vtypeOf s).regs a)
    (fun s => .ok (.sigAdd d.toNat ((List.range s.hart.tl.cfg.1).map (elem 32 (groupBits s.hart a.toNat (vtypeOf s).group)))))

/-- SIGMUL. -/
def execSigmul (d a : BitVec 5) (s : State) : Outcome :=
  sigWord s (isGroup d && isGroup a) (fun _ => true) [] (fun _ => .ok (.sigMul d.toNat a.toNat))

/-- SIGLOG. -/
def execSiglog (d a : BitVec 5) (s : State) : Outcome :=
  sigWord s (isGroup d && isGroup a) (fun _ => true) [] (fun _ => .ok (.sigLog d.toNat a.toNat))

/-- An address of values: a multiple of 4. -/
def sigAddr (s : State) (r : BitVec 5) : Except Stop Nat :=
  let a := (hRead s.hart r.toNat).toNat
  if a % 4 != 0 then .error (.trap (misalign a)) else .ok a

/-- SIGLD. -/
def execSigld (d a : BitVec 5) (s : State) : Outcome :=
  sigWord s (isGroup d && isH a) (fun _ => true) [.h a.toNat] (fun s => (sigAddr s a).map (CmdKind.sigLd d.toNat))

/-- SIGST. -/
def execSigst (d a : BitVec 5) (s : State) : Outcome :=
  sigWord s (isH d && isGroup a) (fun _ => true) [.h d.toNat] (fun s => (sigAddr s d).map (CmdKind.sigSt a.toNat))

/-! ### Values (R245, R247) -/

/-- The group element at which level k starts. -/
def sigOff (d k : Nat) : Nat := sigSize d (k - 1)

/-- Group element e, as bits. -/
def groupElem (h : Hart) (g e : Nat) : Nat := accElem h (g + e / tileElems) (e % tileElems)

/-- Group element e replaced. -/
def setGroupElem (h : Hart) (g e x : Nat) : Hart := setAccElem h (g + e / tileElems) (e % tileElems) x

/-- The position of a group element: its level and its index within the level. -/
def sigPlace (d e : Nat) : Nat → Nat × Nat
  | 0 => (0, e)
  | n + 1 => if sigOff d (n + 1) ≤ e then (n + 1, e - sigOff d (n + 1)) else sigPlace d e n

/-- The prefix of length j of an index of level k, and the rest. -/
def indexHead (d k j i : Nat) : Nat := i / d ^ (k - j)
def indexTail (d k j i : Nat) : Nat := i % d ^ (k - j)

/-- Level j of a signature at an index; level 0 is 1. -/
def sigValue (read : Nat → Nat) (d j i : Nat) : FloatVal :=
  if j = 0 then .fin false 1 0 else floatVal .f32 (read (sigOff d j + i))

/-- A product of values: none where it holds 0 · ∞. -/
def productOf (l : List FloatVal) : Option FloatVal :=
  l.foldl (fun acc x => acc.bind (fun a => mulExact a x)) (some (.fin false 1 0))

/-- A term of a sum with an exact rational factor num / den. -/
structure ScaledTerm where
  num   : Int
  den   : Nat
  value : Option FloatVal

/-- The exact value of a sum of scaled terms, rounded once to F32: NaN with NV where a term is not finite, or where a
product or the sum is invalid (R247). -/
def roundTerms (l : List ScaledTerm) : Nat × Flags :=
  let f := floatFormat .f32
  if l.any (fun t => match t.value with | some (.fin ..) => false | _ => true) then f.invalid
  else
    let den := l.foldl (fun a t => a * t.den) 1
    let terms : List Term := l.map (fun t => match t.value with
      | some (.fin n m e) => ⟨n != decide (t.num < 0), m * t.num.natAbs * (den / t.den), e⟩
      | _ => ⟨false, 0, 0⟩)
    let x := sumTerms terms
    if x.1 == 0 then f.roundSum .rne false terms
    else f.round .rne false ⟨decide (x.1 < 0), x.1.natAbs, den, x.2⟩

/-- Element i of level k of a Chen product. -/
def chenElem (x y : Nat → Nat) (d k i : Nat) : Nat × Flags :=
  roundTerms ((List.range (k + 1)).map (fun j =>
    ⟨1, 1, productOf [sigValue x d j (indexHead d k j i), sigValue y d (k - j) (indexTail d k j i)]⟩))

/-- The digits of an index of `n` places, first place first. -/
def indexDigits (d : Nat) : Nat → Nat → List Nat
  | 0, _ => []
  | n + 1, i => i / d ^ n % d :: indexDigits d n i

/-- Element i of level k of an exponential update. -/
def updateElem (x : Nat → Nat) (delta : List Nat) (d k i : Nat) : Nat × Flags :=
  roundTerms ((List.range (k + 1)).map (fun j =>
    ⟨1, Nat.factorial (k - j),
      productOf (sigValue x d j (indexHead d k j i) ::
        (indexDigits d (k - j) (indexTail d k j i)).map (fun t => floatVal .f32 (delta.getD t 0)))⟩))

/-- The ways to cut `k` places into `n` parts of at least one, as lists of lengths. -/
def compositions : Nat → Nat → List (List Nat)
  | 0, k => if k = 0 then [[]] else []
  | n + 1, k => (List.range k).flatMap (fun j => (compositions n (k - (j + 1))).map (fun l => (j + 1) :: l))

/-- The factors of a composition: the parts of an index with their levels. -/
def partsOf (x : Nat → Nat) (d : Nat) : List Nat → Nat → Nat → List FloatVal
  | [], _, _ => []
  | j :: l, k, i => sigValue x d j (indexHead d k j i) :: partsOf x d l (k - j) (indexTail d k j i)

/-- Element i of level k of a logarithm. -/
def logElem (x : Nat → Nat) (d k i : Nat) : Nat × Flags :=
  roundTerms ((List.range k).flatMap (fun n =>
    (compositions (n + 1) k).map (fun l =>
      ⟨if n % 2 = 0 then 1 else -1, n + 1, productOf (partsOf x d l k i)⟩)))

/-- The group element that step `p` of a signature command writes: level N first, level 1 last, a level in ascending
order (R251). -/
def sigStepElem (d : Nat) : Nat → Nat → Nat
  | 0, p => p
  | n + 1, p => if p < d ^ (n + 1) then sigOff d (n + 1) + p else sigStepElem d n (p - d ^ (n + 1))

/-- The value a signature command gives to a group element; none: the command is no such command. -/
def sigResult (h : Hart) (k : CmdKind) (cfg : Nat × Nat) (e : Nat) : Option (Nat × Nat × Flags) :=
  let d := cfg.1
  let at_ := sigPlace d e cfg.2
  match k with
  | .sigInit g => some (g, 0, 0)
  | .sigAdd g delta => some (g, updateElem (groupElem h g) delta d at_.1 at_.2)
  | .sigMul g y => some (g, chenElem (groupElem h g) (groupElem h y) d at_.1 at_.2)
  | .sigLog g y => some (g, logElem (groupElem h y) d at_.1 at_.2)
  | _ => none

/-- Group elements from V upward zeroed (R245). -/
def zeroTail (h : Hart) (g v : Nat) : Hart :=
  (List.range 4).foldl (fun h i =>
    let keep := 32 * min tileElems (v - i * tileElems)
    setAcc h (g + i) ((vget h.tl.acc (g + i - 8) 0).toNat % 2 ^ keep)) h

end Sys2Proof.Machine
end

