-- ==== Sys2Proof/Machine/Teng.lean ====
section
/-!
DEFINITION. TENG: copies, the record cache, and timed regions (R181 to R184, R187 to R189).
-/

namespace Sys2Proof.Machine

/-! ### Copies (R181) -/

/-- Types that a copy converts to F32. -/
def copyConverts (e : ElemType) : Bool :=
  isNarrow e || isHalf e || e.isQuant || isSmallInt e || e == .i16 || e == .n16

/-- How a copy forms its destination's elements. -/
inductive CopyMode where
  /-- bits unchanged -/
  | plain
  /-- to F32 -/
  | widen
  deriving DecidableEq, Repr, Inhabited

/-- The mode of a copy to memory; none: the conversion is not listed. -/
def memoryMode (src dst : ElemType) : Option CopyMode :=
  if src.width == dst.width then some .plain
  else if dst == .f32 && copyConverts src then some .widen
  else none

/-- The mode of a copy into a tile. -/
def tileMode (src : ElemType) (tile : Nat) : Option CopyMode :=
  if tile < 8 then (if operandType src then some .plain else none)
  else if src == .f32 || src == .i32 || src == .n32 then some .plain
  else if copyConverts src then some .widen
  else none

/-- The tile holds the rows and columns of a source. -/
def tileHolds (t : Tsr) (tile : Nat) (ts : BitVec 2) : Bool :=
  if tile < 8 then decide (t.ext0 ≤ 128) && decide (t.count / t.ext0 ≤ 512)
  else decide (t.ext0 ≤ (tileShape ts).2) && decide (t.count / t.ext0 ≤ (tileShape ts).1)

/-- The record of the format range that holds a byte of the source, if the range is of its type (R38): the one in memory,
whatever a tile's pin keeps of the line (notes/assumptions/112). -/
def sourceRecord (s : State) (e : ElemType) (loc : Nat) : Option ScaleRec :=
  (lineScale s s.hart.place.core loc).bind (fun (r : ScaleRec) => if recordFits e r then some r else none)

/-- A quantised source has elements outside every enabled range of its type (R181). -/
def sourceUnscaled (s : State) (t : Tsr) : Bool :=
  t.et.isQuant && t.bytes.any (fun va => match quietAt s va with
    | some loc => (sourceRecord s t.et loc).isNone
    | none => false)

/-- A copy that is ready to issue: its command, the tile its faults name, and its start cycle. -/
structure CopyPlan where
  kind  : CmdKind
  name  : Nat
  start : Nat

/-- The control word and the records of a copy read and checked (R181): the control word before the TSR's alignment, and a
quantised source without a range last, with the source TSR's address in HTVAL (DESIGN CHOICE, notes/assumptions/122). -/
def planCopy (s : State) (v : VType) (d a b : BitVec 5) : Except Stop (CopyPlan × State) := do
  let c := (hRead s.hart b.toNat).toNat
  let at_ := hRead s.hart a.toNat
  let bad : Stop := .trap (badrec 0 at_.toNat)
  if 2 ^ 21 ≤ c ∨ c / 2 ^ 12 % 16 ≠ 0 then .error bad
  else do
    let (src, s) ← readShape s at_ at_.toNat
    let tile := c / 2 ^ 17 % 16
    if c.testBit 16 then
      match tileMode src.et tile with
      | none => .error bad
      | some m =>
        if !tileHolds src tile v.ts then .error bad
        else if m == .widen && sourceUnscaled s src then .error (.trap (badrec 5 at_.toNat))
        else .ok (⟨.copyTile src at_ tile v.ts, tile, c % 4096⟩, s)
    else do
      let (dst, s) ← readShape s (hRead s.hart d.toNat) at_.toNat
      match memoryMode src.et dst.et with
      | none => .error bad
      | some m =>
        if src.count != dst.count then .error bad
        else if m == .widen && sourceUnscaled s src then .error (.trap (badrec 5 at_.toNat))
        else .ok (⟨.copyMem src at_ dst, 16, c % 4096⟩, s)

/-- The register a copy reads beside its source and its control word: h[d] for a destination in memory. Only the control
word, as it stands once it has been read, says whether it does. -/
def copyRegs (s : State) (d b : BitVec 5) : List RegId :=
  if (hRead s.hart b.toNat).toNat.testBit 16 then [] else [.h d.toNat]

/-- The command of a plan. -/
def copyCommand (s : State) (p : CopyPlan) : EngCmd := newCommand s p.kind (startCycle s p.start)

/-- TCOPY (R181, R189). -/
def execTcopy (d a b : BitVec 5) (s : State) : Outcome :=
  engineWord s (isH d && isH a && isH b) (fun _ => true) [.h a.toNat, .h b.toNat] [] (fun s t => do
    awaitReads s (copyRegs s d b)
    let (p, s) ← planCopy s t d a b
    checkLate s p.start p.name
    awaitQueue s 1
    .ok (retire (enqueue s (copyCommand s p))))

/-- A fetch fault on a follow-on is raised on the TCOPY.M with SUB 2 (R182). -/
def fetchStop : Stop → Stop
  | .trap t => .trap { t with sub := if t.code == causeXlate || t.code == causeProtect then 2 else t.sub }
  | x => x

/-- The word after the one at hand. -/
def nextWord (s : State) : Except Stop (BitVec 32 × State) :=
  let t := s.mapHart (fun h => { h with ve := { h.ve with pc := h.ve.pc + 4 } })
  (renameStop fetchStop (fetchWord t)).map (fun x =>
    (x.1, x.2.mapHart (fun h => { h with ve := { h.ve with pc := s.hart.ve.pc } })))

/-- A follow-on's fields name tiles of the ranges of R176. -/
def followWf (w : BitVec 32) : Bool := isAccTile4 (tileD w) && isOperandTile4 (tileA w) && isOperandTile4 (tileB w)

/-- Both words of a pair retire: the side goes on behind them (R182). -/
def retirePair (s : State) (w : BitVec 32) : State :=
  let n := s.issue.s
  let s := retire s
  let s' := retire { s with issue := { s.issue with word := w, p := wordP w, s := wordS w } }
  readyFrom s' (s.clock + 1 + n.toNat + (wordS w).toNat)

/-- TCOPY.M: the copy and its follow-on issue as a pair (R182). Its own control word and records are checked before the
follow-on is fetched (DESIGN CHOICE, notes/assumptions/122). -/
def execTcopyM (d a b : BitVec 5) (s : State) : Outcome :=
  engineWord s (isH d && isH a && isH b) (fun _ => true) [.h a.toNat, .h b.toNat] [] (fun s t => do
    awaitReads s (copyRegs s d b)
    let (p, s) ← planCopy s t d a b
    let (w, s) ← nextWord s
    if wordOp w != 0x36#6 && wordOp w != 0x37#6 then .error (.trap (illegal s))
    else if !followWf w then .error (.trap { code := causeIllegal, val := w.setWidth 64 })
    else do
      let zero := wordOp w == 0x37#6
      let off := 4 * (off10 w).toNat
      checkMma s p.kind.tiles (tileD w).toNat (tileA w).toNat (tileB w).toNat zero
      checkLate s p.start p.name
      checkLate s off (tileD w).toNat
      awaitQueue s 2
      let s := enqueue s (copyCommand s p)
      let k : CmdKind := .mma (tileD w).toNat (tileA w).toNat (tileB w).toNat zero t.ts t.sat [] []
      let c := newCommand s k (startCycle s off)
      .ok (retirePair (enqueue s { c with word := w, qpos := c.qpos + 4, follow := true }) w))

/-! ### The record cache and waiting (R183, R184) -/

/-- RFENCE (R184). -/
def execRfence (s : State) : Outcome :=
  runPlain s .v true true [] [] (fun s => .ok (retire (s.mapHart (fun h => { h with tl := { h.tl with records := [] } }))))

/-- TWAIT (R183). -/
def execTwait (s : State) : Outcome :=
  runPlain s .v true true [] [] (fun s => if s.hart.tl.queue.isEmpty then .ok (retire s) else .error .wait)

/-! ### Timed regions (R187, R188) -/

/-- A region record: length, energy and peak; none: it breaks R187. -/
def regionRecord (v : Nat) : Option (Nat × Nat × Nat) :=
  let len := bytesAt v 0 2
  let energy := bytesAt v 4 4
  let peak := bytesAt v 8 4
  if bytesAt v 2 2 ≠ 0 ∨ bytesAt v 0x0C 4 ≠ 0 ∨ len < 1 ∨ 4096 < len ∨ energy < 1 ∨ peak < 1 ∨ 85000 < peak then none
  else some (len, energy, peak)

/-- The energy exceeds the remaining quota of the hart's function; the PF's is unlimited. -/
def exceedsQuota (s : State) (energy : Nat) : Bool :=
  match s.fnOf s.hart.asid with
  | some (some vf) => decide (s.left vf < energy)
  | _ => false

/-- A TBEGIN's request set or cleared. -/
def setRequest (s : State) (r : Option RegionReq) : State := s.mapHart (fun h => { h with tl := { h.tl with request := r } })

/-- A TBEGIN that has read its record waits for the hart's commands, is refused for want of quota, or waits for its
grant, which is the event REGION_GRANT. -/
def awaitRegion (s : State) (d : BitVec 5) (r : RegionReq) : State :=
  if !s.hart.tl.queue.isEmpty || r.admitted then stall s
  else if exceedsQuota s r.energy then retire ((setRequest s none).mapHart (fun h => hWrite h d.toNat ones64))
  else stall (setRequest s (some { r with admitted := true }))

/-- TBEGIN. -/
def execTbegin (d a : BitVec 5) (s : State) : Outcome :=
  runPlain s .v (isH d && isH a) true [.h a.toNat] [.h d.toNat] (fun s =>
    let at_ := (hRead s.hart a.toNat).toNat
    match s.hart.tl.request with
    | some r => if r.addr == s.hart.ve.pc then .ok (awaitRegion s d r) else .ok (stall (setRequest s none))
    | none =>
      if s.hart.cs.hstat.timed then .error (.trap (badrec 2 at_))
      else if at_ % 16 != 0 then .error (.trap (misalign at_))
      else do
        let (v, s) ← orderedRead s s.hart .other at_ 16
        match regionRecord v with
        | none => .error (.trap (badrec 2 at_))
        | some (len, energy, peak) =>
          let r : RegionReq := ⟨s.hart.ve.pc, s.clock, d, s.issue.p, s.issue.s, len, energy, peak, false⟩
          .ok (awaitRegion (setRequest s (some r)) d r))

/-- TEND. -/
def execTend (s : State) : Outcome :=
  runPlain s .v true true [] [] (fun s =>
    if !s.hart.cs.hstat.timed then .ok (retire s)
    else if !s.hart.tl.queue.isEmpty then .error .wait
    else
      let s := (s.mapHart (fun h => commitWrites h (fun _ => true))).releaseRegion
      .ok ((retire s).quotaCheckFor s.hart.asid))

end Sys2Proof.Machine
end

