-- ==== Sys2Proof/Machine/EvEngine.lean ====
section
/-!
DEFINITION. The events of engine commands and timed regions: start, step, completion, grant, timed start and overrun, and
the run-ahead of streams (R80, R122, R173 to R178, R181, R188 to R190, R251, R344).
-/

namespace Sys2Proof.Machine

/-! ### Accesses of engine commands (R80, R135, R173) -/

/-- `n` bytes read at an address: the value and whether their line is poisoned, which does not stop a command unless
`strict` says so. -/
def engineBytes (s : State) (strict : Bool) (va n : Nat) : Except Stop (Nat × Bool × State) := do
  let l ← locate s .read false va
  awaitIsland s (some s.hart.uid) l.loc
  if strict && s.poisoned (lineOf l.loc) then .error (.trap { uncorr va with mark := l.mark })
  let (v, t) := (markAccess s l .read .other).homeRead (s.hart.place.core / 64) l.loc n
  .ok (v, s.poisoned (lineOf l.loc), t)

/-- `n` bytes at an address that may lie in two lines. -/
def engineSpan (s : State) (strict : Bool) (va n : Nat) : Except Stop (Nat × Bool × State) := do
  let k := firstPart va n
  let (v, bad, s) ← engineBytes s strict va k
  if n ≤ k then .ok (v, bad, s)
  else
    let (w, bad', s) ← engineBytes s strict (va + k) (n - k)
    .ok (v + w * 256 ^ k, bad || bad', s)

/-- `w` bits read at a bit address. -/
def engineRead (s : State) (strict : Bool) (w : Nat) (bit : Int) : Except Stop (Nat × Bool × State) := do
  if bit < 0 then .error (.trap (belowAddress .read bit))
  else
    let b := bit.toNat
    let (v, bad, s) ← engineBytes s strict (b / 8) (max 1 (w / 8))
    .ok (v / 2 ^ (b % 8) % 2 ^ w, bad, s)

/-- Whether a copy or a SIGLD that reads poison in this step stops at it (R344) or goes on and marks what it writes (R80): a
free choice (notes/assumptions/58). -/
def poisonStops (s : State) : Bool × State := if s.poison.isEmpty && s.lost.isEmpty then (false, s) else s.choose

/-- `w` bits written at a bit address. -/
def engineWrite (s : State) (w : Nat) (bit : Int) (x : Nat) : Except Stop State := do
  if bit < 0 then .error (.trap (belowAddress .write bit))
  else
    let va := bit.toNat / 8
    let sub := bit.toNat % 8
    let l ← locate s .write false va
    awaitIsland s (some s.hart.uid) l.loc
    let stack := s.hart.place.core / 64
    let n := max 1 (w / 8)
    let (old, t) := s.homeRead stack l.loc n
    match t.homeWrite (some s.hart.uid) stack l.loc n (mergeBits old (x * 2 ^ sub) ((2 ^ w - 1) * 2 ^ sub)) with
    | .error e => .error (writeTrap va l e)
    | .ok t => .ok (markAccess t l .write .other)

/-- What a loop over elements comes to: it is done, stopped at a fault with what it did before, or stopped for good. -/
inductive Loop where
  | done (s : State) (c : EngCmd)
  | fault (s : State) (c : EngCmd) (t : Trap)
  | stop (e : Stop)

/-- Elements taken one after another. -/
def eachElement (f : State → EngCmd → Nat → Except Stop (State × EngCmd)) : List Nat → State → EngCmd → Loop
  | [], s, c => .done s c
  | p :: rest, s, c =>
    match f s c p with
    | .ok (s, c) => eachElement f rest s c
    | .error (.trap t) => .fault (noteWalk s t) c t
    | .error e => .stop e

/-! ### Copies (R181) -/

/-- The F32 value of a source element with its scale record (R41, R181). -/
def widenElem (e : ElemType) (x : Nat) (r : Option Nat) : Nat × Flags :=
  let f := floatFormat .f32
  if e.isQuant then
    let (z, sc) := groupScale r
    if sc.isNaN then f.invalid
    else
      let d : Int := (x : Int) - z
      match mulExact (.fin (decide (d < 0)) d.natAbs 0) sc with
      | none => f.invalid
      | some v => f.convert .rne v
  else if e.isFloat then
    match blockExp r with
    | none => f.invalid
    | some k => f.convert .rne ((floatVal e x).scaleBy k)
  else f.ofInteger .rne (toInteger e.isSigned e.width x)

/-- A source element formed for its destination: BADREC for a quantised element without a record, and for a malformed
record. -/
def copyElem (s : State) (src : Tsr) (srcAt : Word) (m : CopyMode) (p x : Nat) : Except Stop (Nat × Flags) :=
  match m with
  | .plain => .ok (x, 0)
  | .widen =>
    let r := (quietAt s (src.bitAddr p / 8).toNat).bind (sourceRecord s src.et)
    if src.et.isQuant then
      match r with
      | none => .error (.trap (badrec 5 srcAt.toNat))
      | some y => if recordBad src.et.width y.val then .error (.trap (badrec 5 y.addr)) else .ok (widenElem src.et x (some y.val))
    else .ok (widenElem src.et x (r.map (fun (y : ScaleRec) => y.val)))

/-- The positions of step `n` of a copy with destination elements of width `w`. -/
def stepPositions (count w n : Nat) : List Nat :=
  let k := 1024 / w
  List.range' (k * n) (min k (count - k * n))

/-- The lines of elements become poisoned. -/
def taintLines (s : State) (bits : List Int) : State :=
  bits.foldl (fun (s : State) (b : Int) => if b < 0 then s else match quietAt s (b.toNat / 8) with
    | some loc => poisonLine s (lineOf loc)
    | none => s) s

/-- The destination lines after a step: poisoned if the step read poison, else free of it where wholly written. -/
def settleLines (s : State) (bits : List Int) (w : Nat) (bad : Bool) : State :=
  if bad then taintLines s bits else clearCovered s bits w

/-- A step of a copy to memory. -/
def stepCopyMem (s : State) (c : EngCmd) (src : Tsr) (srcAt : Word) (dst : Tsr) : Loop :=
  let m := (memoryMode src.et dst.et).getD .plain
  let ps := stepPositions dst.count dst.et.width c.progress
  let before := c.tainted
  let (strict, s) := poisonStops s
  let r := eachElement (fun s c p => do
    let (x, bad, s) ← engineRead s strict src.et.width (src.bitAddr p)
    let (y, f) ← copyElem s src srcAt m p x
    let s ← engineWrite s dst.et.width (dst.bitAddr p) y
    .ok (s, { c with flags := c.flags ||| f, tainted := c.tainted || bad })) ps s { c with tainted := false }
  match r with
  | .done s c => .done (settleLines s (ps.map dst.bitAddr) dst.et.width c.tainted) { c with tainted := before || c.tainted }
  | x => x

/-- The element of a staged tile set, with the record that came with it. -/
def stageElem (x : OpTile) (p v : Nat) (r : Option ScaleRec) : OpTile :=
  match x with
  | .staged e rows cols l recs scl =>
    .staged e rows cols (l.set p v) (match r with | some y => { y with at_ := p } :: recs | none => recs) scl
  | y => y

/-- A step of a copy into a tile. -/
def stepCopyTile (s : State) (c : EngCmd) (src : Tsr) (srcAt : Word) (tile : Nat) (ts : BitVec 2) : Loop :=
  let m := (tileMode src.et tile).getD .plain
  let (strict, s) := poisonStops s
  eachElement (fun s c p => do
    let (x, bad, s) ← engineRead s strict src.et.width (src.bitAddr p)
    let (y, f) ← copyElem s src srcAt m p x
    let rec_ := (quietAt s (src.bitAddr p / 8).toNat).bind (sourceRecord s src.et)
    let s := s.mapHart (fun h =>
      if tile < 8 then setOp h tile (stageElem (opTile h tile) p y rec_)
      else setAccElem h tile (p / src.ext0 * (tileShape ts).2 + p % src.ext0) y)
    .ok (s, { c with flags := c.flags ||| f, tainted := c.tainted || bad })) (stepPositions src.count src.et.width c.progress) s c

/-- A step of TST (R180). -/
def stepTst (s : State) (c : EngCmd) (tile : Nat) (dst : Tsr) (ts : BitVec 2) : Loop :=
  let ps := stepPositions dst.count dst.et.width c.progress
  let bad := tilePoisoned s.hart tile
  let r := eachElement (fun s c p => do
    let v := accElem s.hart tile (p / dst.ext0 * (tileShape ts).2 + p % dst.ext0)
    let (y, f) : Nat × Flags := if dst.et.width = 32 then (v, 0) else (floatFormat dst.et).convert .rne (floatVal .f32 v)
    let s ← engineWrite s dst.et.width (dst.bitAddr p) y
    .ok (s, { c with flags := c.flags ||| f })) ps s c
  match r with
  | .done s c => .done (settleLines s (ps.map dst.bitAddr) dst.et.width bad) { c with tainted := c.tainted || bad }
  | x => x

/-! ### Signature commands (R250, R251) -/

/-- A step of SIGLD: one element (R251). -/
def stepSigLd (s : State) (c : EngCmd) (g a : Nat) : Loop :=
  let (strict, s) := poisonStops s
  eachElement (fun s c e => do
    let (v, bad, s) ← engineRead s strict 32 ((8 * (a + 4 * e) : Nat) : Int)
    .ok (s.mapHart (fun h => setGroupElem h g e v), { c with tainted := c.tainted || bad }))
    [c.progress] s c

/-- A step of SIGST: one element (R251). -/
def stepSigSt (s : State) (c : EngCmd) (g a : Nat) : Loop :=
  let es := [c.progress]
  let addr (e : Nat) : Int := ((8 * (a + 4 * e) : Nat) : Int)
  let r := eachElement (fun s c e => do
    let s ← engineWrite s 32 (addr e) (groupElem s.hart g e)
    .ok (s, c)) es s c
  match r with
  | .done s c =>
    let bad := (groupTiles g).any (tilePoisoned s.hart)
    .done (settleLines s (es.map addr) 32 bad) { c with tainted := c.tainted || bad }
  | x => x

/-- A step of a signature command of the array: one element. -/
def stepSig (s : State) (c : EngCmd) : Loop :=
  match sigResult s.hart c.kind c.cfg (sigStepElem c.cfg.1 c.cfg.2 c.progress) with
  | some (g, v, f) =>
    .done (s.mapHart (fun h => setGroupElem h g (sigStepElem c.cfg.1 c.cfg.2 c.progress) v)) { c with flags := c.flags ||| f }
  | none => .done s c

/-! ### Matrix products (R175, R177) -/

/-- The record element (r, k) of a tile is read with: an attached array's, the line's, or none. A malformed or missing
group record raises BADREC. -/
def elementRecord (s : State) (x : OpTile) (r k : Nat) : Except Stop (Option Nat × Bool × State) := do
  let (e, _, _) := x.shape
  let quant := match e with
    | some e => e.isQuant
    | none => false
  let width := match e with
    | some e => e.width
    | none => 8
  match x.scale with
  | some a =>
    let z := if quant then 4 else 1
    let at_ := a.addr + z * (r * (128 / a.bs) + k / a.bs)
    let (v, bad, s) ← engineSpan s false at_ z
    if quant && recordBad width v then .error (.trap (badrec 5 at_)) else .ok (some v, bad, s)
  | none =>
    match metadataOf s x r k with
    | some y => if quant && recordBad width y.val then .error (.trap (badrec 5 y.addr)) else .ok (some y.val, false, s)
    | none => if quant then .error (.trap (badrec 5 (recordAddr x))) else .ok (none, false, s)

/-- Element (r, k) of an operand tile. -/
def operandElem (s : State) (x : OpTile) (r k : Nat) : Except Stop (Nat × Bool × State) :=
  match x with
  | .unbound => .ok (0, false, s)
  | .bound t _ _ _ => engineRead s false t.et.width (t.bitAddr (k + t.ext0 * r))
  | .staged _ _ cols l _ _ => .ok (l.getD (r * cols + k) 0, false, s)

/-- Column k of an operand tile, all its rows, those that take part in no sum among them (DESIGN CHOICE,
notes/assumptions/119). -/
def fetchColumn (s : State) (x : OpTile) (k : Nat) : List Nat → Except Stop (Column × Bool × State)
  | [] => .ok (⟨[], []⟩, false, s)
  | r :: rest => do
    let (v, bad, s) ← operandElem s x r k
    let (y, bad', s) ← elementRecord s x r k
    let (c, bad'', s) ← fetchColumn s x k rest
    .ok (⟨v :: c.elems, y :: c.recs⟩, bad || bad' || bad'', s)

/-- A product's result put into its tile when its last column has been fetched. -/
def finishProduct (s : State) (c : EngCmd) : State × EngCmd :=
  match c.kind with
  | .mma td ta tb zero ts sat ca cb =>
    let h := s.hart
    let (x, rowsA, _) := (opTile h ta).shape
    let (y, rowsB, _) := (opTile h tb).shape
    let k := (tileClass x y).getD .empty
    let ex := (x.orElse (fun _ => y)).getD .e2m1
    let ey := (y.orElse (fun _ => x)).getD .e2m1
    let gs := ((groupSize s (opTile h ta)).orElse (fun _ => groupSize s (opTile h tb))).getD 128
    let gs := match k, ex.isQuant with
      | .quant, false => (groupSize s (opTile h tb)).getD 128
      | _, _ => gs
    let r := productTile h td zero ts sat k ex ey (blockSize k gs) rowsA rowsB ca cb
    let bad := c.tainted || [ta, tb].any (tilePoisoned h) || (!zero && tilePoisoned h td)
    (s.mapHart (fun h => settleTilePoison (setAcc h td r.1) td bad), { c with flags := c.flags ||| r.2 })
  | _ => (s, c)

/-- A step of a product: one column of each operand. -/
def stepMma (s : State) (c : EngCmd) : Loop :=
  match c.kind with
  | .mma td ta tb zero ts sat ca cb =>
    let k := c.progress
    let fetch : Except Stop (State × EngCmd) := do
      let x := opTile s.hart ta
      let y := opTile s.hart tb
      let (u, bad, s) ← fetchColumn s x k (List.range x.shape.2.1)
      let (v, bad', s) ← fetchColumn s y k (List.range y.shape.2.1)
      .ok (s, { c with kind := .mma td ta tb zero ts sat (ca ++ [u]) (cb ++ [v]), tainted := c.tainted || bad || bad' })
    match fetch with
    | .ok (s, c) =>
      if c.steps s.hart ≤ k + 1 then
        let r := finishProduct s c
        .done r.1 r.2
      else .done s c
    | .error (.trap t) => .fault (noteWalk s t) c t
    | .error e => .stop e
  | _ => .done s c

/-- One step of a command. -/
def commandStep (s : State) (c : EngCmd) : Loop :=
  match c.kind with
  | .mma .. => stepMma s c
  | .tld _ => .done s c
  | .tst t dst ts => stepTst s c t dst ts
  | .copyMem src a dst => stepCopyMem s c src a dst
  | .copyTile src a t ts => stepCopyTile s c src a t ts
  | .sigLd g a => stepSigLd s c g a
  | .sigSt g a => stepSigSt s c g a
  | _ => stepSig s c

/-! ### Start (R171, R173 to R175, R185) -/

/-- Lines of its core's reservation that tile `t` of a hart uses: its pins or its staged storage. -/
def tileLines (h : Hart) (t : Nat) : Nat :=
  match opTile h t with
  | .bound _ _ pins _ => pins.length
  | .staged (some e) rows cols _ _ _ => if h.tl.outside.contains t then 0 else (rows * cols * e.width + 1023) / 1024
  | _ => 0

/-- Lines of its core's reservation that are in use for tiles other than tile `t` of the hart in focus. A hart whose save is
complete uses none (R171, R274). -/
def reservationUsed (s : State) (t : Nat) : Nat :=
  ((s.harts.filter (fun h => h.place.core == s.hart.place.core && !h.saved)).map (fun h =>
    (((List.range 8).filter (fun k => !(k == t && h.uid == s.hart.uid))).map (tileLines h)).sum)).sum

/-- Lines of a core's reservation: 3 MiB. -/
def reservedLines : Nat := 24576

/-- What a tile becomes as a command starts to write it: a copy's operand tile is staged, an accumulator is cleared. -/
def openTile (h : Hart) (k : CmdKind) : Hart :=
  match k with
  | .copyTile src _ t _ =>
    if t < 8 then setOp h t (.staged (some src.et) (src.count / src.ext0) src.ext0 (List.replicate src.count 0) [] none)
    else setAcc h t 0
  | _ => h

/-- Staged storage takes its room in the reservation, or lies in the save area (R171). -/
def placeStaged (s : State) (k : CmdKind) : State :=
  match k with
  | .copyTile src _ t _ =>
    let lines := (src.count * src.et.width + 1023) / 1024
    let fits := decide (reservationUsed s t + lines ≤ reservedLines)
    s.mapHart (fun h =>
      let rest := h.tl.outside.filter (· != t)
      { h with tl := { h.tl with outside := if decide (t < 8) && !fits then t :: rest else rest } })
  | _ => s

/-- A command whose time on its engine is fixed as it starts, an array command or one of a timed region, is charged then
(R178, R285, R286). -/
def chargeStart (s : State) (c : EngCmd) : State × EngCmd :=
  match (if c.kind.unit == .array || s.hart.cs.hstat.timed then commandTimes s.hart c else none) with
  | some x => (s.chargeCycles c (x.1 - s.clock), { c with charged := true })
  | none => (s, c)

/-- Entry `k` starts: its start checks are made, it is charged where its time is known, and it stamps the tiles it
writes. -/
def beginCommand (s : State) (k : Nat) (c : EngCmd) : State :=
  let check : Option Trap := match c.kind with
    | .mma _ ta tb .. => startChecks s c ta tb
    | _ => none
  match check with
  | some t => engineFault s k c t
  | none =>
    let (s, c) := chargeStart s { c with state := .running s.clock, varying := variesInTime s c }
    let s := placeStaged s c.kind
    let s := s.mapHart (fun h =>
      let h := openTile h c.kind
      match c.seq with
      | some n => stampTiles h c.kind.tiles n
      | none => h)
    let (s, c) := if c.steps s.hart = 0 then finishProduct s c else (s, c)
    s.mapHart (fun h => setCommand h k c)

/-- Something done with entry `k` of the engine queue of the hart at a place. -/
def atCommand (s : State) (p : Place) (k : Nat) (f : State → EngCmd → Outcome) : Outcome :=
  match s.focus p with
  | none => .next s
  | some t =>
    match t.hart.tl.queue[k]? with
    | some c => f t c
    | none => .next s

/-- Entry `k` of the queue of the hart in focus can start: it has no start cycle to wait for, and its engine and the
scoreboard allow it. -/
def startable (s : State) (k : Nat) (c : EngCmd) : Bool :=
  !c.running && (c.start.isNone || !s.hart.cs.hstat.timed) && mayStart s (s.hart.tl.queue.take k) c

/-- Since when the first command of the hart in focus that can start on an engine waits: the clock at its issue. -/
def engineWait (s : State) (u : EngineUnit) : Option Nat :=
  (s.hart.tl.queue.zipIdx.find? (fun x => x.1.kind.unit == u && startable s x.2 x.1)).map (·.1.since)

/-- The requests that wait for an engine of a core, one of each hart: the queue, and since when. -/
def engineWaits (s : State) (u : EngineUnit) (core : Nat) : List (Nat × Nat) :=
  (s.harts.filter (fun h => h.place.core == core && h.resident)).filterMap (fun h =>
    match s.focusBy (fun g => g.uid == h.uid) with
    | some t => (engineWait t u).map (fun n => (h.queue, n))
    | none => none)

/-- The arbiter of its engine gives a command of the hart in focus its turn: its queue holds it, and of the queue's harts
this one has waited longest (R286). -/
def engineTurn (s : State) (c : EngCmd) : Option State :=
  match engineArb c.kind.unit s.hart.place.core with
  | none => some s
  | some x =>
    if (arbiter s x).order.isEmpty then some s
    else
      let l := engineWaits s c.kind.unit s.hart.place.core
      let ready := (l.map (·.1)).eraseDups
      let a := turnOf s x ready
      if serves s ready a s.hart.queue && l.all (fun y => y.1 != s.hart.queue || decide (c.since ≤ y.2)) then
        some (setArbiter s a)
      else none

/-- ENGINE_COMMAND_START (R173, R186): a command without a start cycle starts when its engine, the scoreboard and the
arbiter allow. -/
def execEngineCommandStart (at_ : Place) (k : Nat) (s : State) : Outcome :=
  atCommand s at_ k (fun t c =>
    if startable t k c then match engineTurn t c with
      | some u => .next (beginCommand u k c)
      | none => .next s
    else .next s)

/-! ### Steps (R173, R189, R190) -/

/-- The tile that TIMING and SCHED name for a command. -/
def commandName (c : EngCmd) : Nat :=
  match c.kind with
  | .mma td .. => td
  | .copyTile _ _ t _ => t
  | _ => 16

/-- A byte of an operand in memory that may not have arrived: it lies outside the window levels and the pinned lines. -/
def unsteady (s : State) (bit : Int) : Bool := !(decide (0 ≤ bit) && isSteady s (bit / 8).toNat)

/-- Column `k` of an operand tile may be late inside a region: its elements lie in unpinned memory or in the save area, or
a record of its attached array lies in unpinned memory (R171, R180, R190, R191). -/
def tileMayBeLate (s : State) (k t : Nat) : Bool :=
  let x := opTile s.hart t
  let (e, rows, _) := x.shape
  (match x with
   | .bound r _ _ _ => (List.range rows).any (fun y => unsteady s (r.bitAddr (k + r.ext0 * y)))
   | .staged (some _) _ _ _ _ _ => s.hart.tl.outside.contains t
   | _ => false) ||
  (match x.scale with
   | some a => (List.range rows).any (fun y => unsteady s (8 * (a.addr + scaleBytes (e.getD .e2m1) * (y * (128 / a.bs) + k / a.bs))))
   | none => false)

/-- The first operand whose next column may be late. -/
def columnMayBeLate (s : State) (c : EngCmd) : Option Nat :=
  match c.kind with
  | .mma _ ta tb .. => [ta, tb].find? (tileMayBeLate s c.progress)
  | _ => none

/-- A step of entry `k` taken. -/
def takeStep (s : State) (k : Nat) (c : EngCmd) : Outcome :=
  match commandStep s c with
  | .done t d => .next (t.mapHart (fun h => setCommand h k { d with progress := c.progress + 1 }))
  | .fault t d x => .next (engineFault t k d x)
  | .stop (.fault f) => .fault f
  | .stop _ => .next s

/-- The tile that TIMING names where a command cannot get what it needs: the operand for a product (R190). -/
def lateName (s : State) (c : EngCmd) : Nat :=
  match c.kind with
  | .mma _ ta tb .. =>
    let x := opTile s.hart ta
    (match fetchColumn s x c.progress (List.range x.shape.2.1) with
     | .error .wait => ta
     | _ => tb)
  | _ => commandName c

/-- A command that waits for its accesses inside a region: TST, the signature commands, and a copy of variable timing
(R181, R189, R251). -/
def neverLate (c : EngCmd) : Bool :=
  match c.kind with
  | .mma .. => false
  | .copyMem .. => c.varying
  | .copyTile .. => c.varying
  | _ => true

/-- A step inside a region: a wait for a page move is a late operand (R231). A command that is never late goes on when the
hold ends, at a time that is open. -/
def timedStep (s : State) (k : Nat) (c : EngCmd) : Outcome :=
  match commandStep s c with
  | .stop .wait =>
    if neverLate c then .next (s.mapHart (fun h => setCommand h k { c with varying := true }))
    else .next (takeTrap s (timing 0 (cycleOf s) (lateName s c)) .vector false (some c.qpos))
  | _ => takeStep s k c

/-- ENGINE_STEP: a step, or, inside a region, an operand that is late. -/
def execEngineStep (at_ : Place) (k : Nat) (s : State) : Outcome :=
  atCommand s at_ k (fun t c =>
    if !(c.running && decide (c.progress < c.steps t.hart)) then .next s
    else if !t.hart.cs.hstat.timed then takeStep t k c
    else match columnMayBeLate t c with
      | none => timedStep t k c
      | some tile =>
        let (late, t) := t.choose
        if late then .next (takeTrap t (timing 0 (cycleOf t) tile) .vector false (some c.qpos)) else timedStep t k c)

/-! ### Completion (R170, R171, R173, R49) -/

/-- The records of a line as it is pinned. -/
def lineRecords (s : State) (core line : Nat) : List ScaleRec :=
  ((List.range 128).filterMap (fun i => lineScale s core (128 * line + i))).eraseDups

/-- The first address of a tile in each of its virtual lines of global memory. -/
def pinAddrs (t : Tsr) : List Nat :=
  (t.bytes.filter (fun va => decide (va < 2 ^ 56))).foldl
    (fun l va => if l.any (fun y => lineOf y == lineOf va) then l else l ++ [va]) []

/-- A line of a tile pinned: its access is marked as any access is. A fault is not reported to the hart, and the line stays
unpinned; a malformed entry that the walk meets is reported to Voxind (R180, R224, R227). -/
def pinLine (acc : List Pin × State) (va : Nat) : List Pin × State :=
  match locate acc.2 .read false va with
  | .ok l =>
    let line := lineOf l.loc
    (if acc.1.any (·.line == line) then acc.1
      else acc.1 ++ [⟨line, lineRecords acc.2 acc.2.hart.place.core line⟩],
     markAccess (acc.2.barMoves [(line, 1)]) l .read .other)
  | .error (.trap t) => (acc.1, noteWalk acc.2 t)
  | .error _ => acc

/-- The pins of bound tile `n`: its global lines, if the reservation has room for them (R171). -/
def pinTile (s : State) (n : Nat) (t : Tsr) : List Pin × State :=
  let l := (pinAddrs t).foldl pinLine ([], s)
  if reservationUsed s n + l.1.length ≤ reservedLines then l else ([], s)

/-- A TLD waits for a page that is in its hold. -/
def pinWaits (s : State) (t : Tsr) : Bool :=
  (pinAddrs t).any (fun va => match locate s .read false va with
    | .error .wait => true
    | _ => false)

/-- The pins of a bound tile set. -/
def setPins (h : Hart) (t : Nat) (pins : List Pin) : Hart :=
  match opTile h t with
  | .bound r a _ scl => setOp h t (.bound r a pins scl)
  | _ => h

/-- The destination lines of a whole command: each poisoned if it read poison, else free of it where wholly written (R80). -/
def settleAll (s : State) (dst : Tsr) (bad : Bool) : State :=
  if !bad && s.poison.isEmpty && s.lost.isEmpty then s
  else settleLines s ((List.range dst.count).map dst.bitAddr) dst.et.width bad

/-- What a command's completion does besides freeing its entry and merging its flags. -/
def completionEffect (s : State) (c : EngCmd) : State :=
  match c.kind with
  | .mma _ ta tb .. => s.mapHart (fun h => setPins (setPins h ta []) tb [])
  | .tld t => (match opTile s.hart t with
      | .bound r _ _ _ => let (pins, s) := pinTile s t r; s.mapHart (fun h => setPins h t pins)
      | _ => s)
  | .tst _ dst _ => settleAll s dst c.tainted
  | .copyMem _ _ dst => settleAll s dst c.tainted
  | .sigSt _ a => settleLines s ((List.range (sigSize c.cfg.1 c.cfg.2)).map (fun e => ((8 * (a + 4 * e) : Nat) : Int))) 32 c.tainted
  | .copyTile _ _ t _ => s.mapHart (fun h => settleTilePoison h t c.tainted)
  | .sigLd g _ => s.mapHart (fun h =>
      (groupTiles g).foldl (fun h t => settleTilePoison h t c.tainted) (zeroTail h g (sigSize c.cfg.1 c.cfg.2)))
  | .sigInit g => s.mapHart (fun h =>
      (groupTiles g).foldl (fun h t => settleTilePoison h t false) (zeroTail h g (sigSize c.cfg.1 c.cfg.2)))
  | .sigAdd g _ => s.mapHart (fun h =>
      let bad := (groupTiles g).any (tilePoisoned h)
      (groupTiles g).foldl (fun h t => settleTilePoison h t bad) (zeroTail h g (sigSize c.cfg.1 c.cfg.2)))
  | .sigMul g y => s.mapHart (fun h =>
      let bad := (groupTiles g ++ groupTiles y).any (tilePoisoned h)
      (groupTiles g).foldl (fun h t => settleTilePoison h t bad) (zeroTail h g (sigSize c.cfg.1 c.cfg.2)))
  | .sigLog g y => s.mapHart (fun h =>
      let bad := (groupTiles y).any (tilePoisoned h)
      (groupTiles g).foldl (fun h t => settleTilePoison h t bad) (zeroTail h g (sigSize c.cfg.1 c.cfg.2)))

/-- The clock allows a completion: inside a region at the command's own cycle. -/
def completionDue (s : State) (c : EngCmd) : Bool :=
  !s.hart.cs.hstat.timed || (match commandTimes s.hart c with
    | some x => decide (x.2 ≤ s.clock)
    | none => true)

/-- A command that is otherwise done waits for a page that is in its hold. -/
def commandHeld (s : State) (c : EngCmd) : Bool :=
  match c.kind with
  | .tld t => (match opTile s.hart t with
      | .bound r _ _ _ => pinWaits s r
      | _ => false)
  | _ => false

/-- A command completes: its entry is freed and its flags are merged (R49). -/
def completeCommand (s : State) (k : Nat) (c : EngCmd) : State :=
  (completionEffect s c).mapHart (fun h => mergeEngine s.clock (dropCommand h k) c.flags)

/-- ENGINE_COMMAND_COMPLETE. -/
def execEngineCommandComplete (at_ : Place) (k : Nat) (s : State) : Outcome :=
  atCommand s at_ k (fun t c =>
    if c.running && decide (c.steps t.hart ≤ c.progress) && completionDue t c && !commandHeld t c then .next (completeCommand (t.chargeCommand c) k c)
    else .next s)

/-! ### Regions (R188) -/

/-- The conditions of a grant: the hart's commands are complete and the quota has been found to cover the energy, the
cluster's budget covers the peak, and array, copy engine and slot are free of others. -/
def grantable (s : State) (r : RegionReq) : Bool :=
  let h := s.hart
  h.tl.queue.isEmpty && r.admitted && !regionElsewhere s &&
    decide (reservedPeak s (h.place.core / 8) + r.peak ≤ vget s.noon (h.place.core / 8) 0) &&
    !unitBusyElsewhere s .array && !unitBusyElsewhere s .copy

/-- The region of a request begins as its TBEGIN retires. -/
def openRegion (s : State) (r : RegionReq) : State :=
  let alc := activeLanes s s.hart
  let s := (setRequest s none).credit s.hart.asid (-(r.energy : Int))
  let s := { s with issue := { side := .vector, p := r.p, s := r.s } }
  let waited := s.clock - r.since
  let s := retire (s.mapHart (fun h => hWrite h r.d.toNat (word waited)))
  let s := s.mapHart (fun h => { h with
    cs := { h.cs with hstat := { h.cs.hstat with timed := true } },
    tl := { h.tl with region := some { start := s.clock + 1, len := r.len, energy := r.energy, peak := r.peak, alc := alc } } })
  s.quotaCheckFor s.hart.asid

/-- REGION_GRANT. -/
def execRegionGrant (at_ : Place) (s : State) : Outcome :=
  .next (s.atPlace at_ (fun s =>
    match s.hart.tl.request with
    | some r => if grantable s r && mayIssue s.hart .vector && s.hart.tl.faults.isEmpty then openRegion s r else s
    | none => s))

/-- REGION_OVERRUN: cycle LEN is reached before TEND retires. -/
def execRegionOverrun (at_ : Place) (s : State) : Outcome :=
  .next (s.atPlace at_ (fun s =>
    match s.hart.tl.region with
    | some r => if r.len ≤ regionCycle s r then takeTrap s (timing 0 r.len 0xFFFFFFFF) .vector else s
    | none => s))

/-! ### Timed starts (R189, R190) -/

/-- An add of the hart is still to be made to a line that a timed command needs, which is then late: an operand tile of a
product, or the command's own name (R135, R190; notes/assumptions/111). -/
def addsLate (s : State) (c : EngCmd) : Option Trap :=
  let h := s.hart
  let late (t : Nat) : Bool := addsAwaited s h c (operandBytes (opTile h t))
  if !addsPending s h c then none
  else some (timing 0 (cycleOf s) (match c.kind with
    | .mma _ ta tb .. => if late ta then ta else tb
    | _ => commandName c))

/-- The checks at the start cycle, tile by tile in the order the command reads them, and for each in the order of R190's
table: its stamp, the unit, and its producer's completion (notes/assumptions/111). A unit that a command of variable timing
occupies gives TIMING: a copy, or the TST that occupies the copy engine as one does (DESIGN CHOICE, the same entry). -/
def timedChecks (s : State) (k : Nat) (c : EngCmd) : Option Trap :=
  let h := s.hart
  let now := cycleOf s
  let others := h.tl.queue.eraseIdx k
  let unit := (others.find? (occupies s c)).map (fun e =>
    if e.varying then timing 0 now (commandName c) else sched now (commandName c))
  let pending (x : Nat × BitVec 16) : Bool := others.any (fun e =>
    e.seq == some x.2 && e.kind.tiles.contains x.1 && !forwards h (h.tl.queue.take k) c e)
  (c.expect.findSome? (fun x =>
    if vget h.tl.stamp x.1 none != some x.2 then some (sched now x.1)
    else if unit.isSome then unit
    else if pending x then some (timing 0 now x.1)
    else none)).or (unit.or (addsLate s c))

/-- TIMED_COMMAND_START. -/
def execTimedCommandStart (at_ : Place) (k : Nat) (s : State) : Outcome :=
  atCommand s at_ k (fun t c =>
    match t.hart.tl.region, c.start with
    | some r, some st =>
      if !c.running && decide (r.start + st ≤ t.clock) then
        match timedChecks t k c with
        | some x => .next (takeTrap t x .vector false (some c.qpos))
        | none => .next (beginCommand t k c)
      else .next s
    | _, _ => .next s)

/-! ### Streams (R122) -/

/-- Translations a stream may hold (R121). -/
def aheadSize : Nat := 4

/-- The page of a position of a stream is translated ahead: the walk sets A, and the stream holds the translation
(R121, R122, R223). -/
def runAhead (s : State) (q p : Nat) (x : StreamReg) : State :=
  let b := x.tsr.bitAddr p
  if x.tsr.noahead || decide (p < x.pos ∧ !x.tsr.wrap) || decide (x.tsr.count ≤ p) || decide (b < 0) || decide (2 ^ 59 ≤ b) ||
      decide (aheadSize ≤ x.ahead.length) then s
  else match walkedEntry s s.hart.place.core s.hart.asid (b / 8).toNat with
    | none => s
    | some t => (markAccessed s (some t.at_)).mapHart (fun h => { h with
        q := vset h.q q (some { x with ahead := x.ahead ++ [⟨p, t⟩] }) })

/-- STREAM_RUN_AHEAD: the page of a later position of a stream is translated ahead; a fault records nothing. -/
def execStreamRunAhead (at_ : Place) (q ahead : Nat) (s : State) : Outcome :=
  .next (s.atPlace at_ (fun s =>
    match vget s.hart.q q none with
    | some x => runAhead s q (if x.tsr.wrap then (x.pos + ahead) % x.tsr.count else x.pos + ahead) x
    | none => s))

end Sys2Proof.Machine
end

