-- ==== Sys2Proof/Machine/Walk.lean ====
section
/-!
DEFINITION. WALK: query contexts, the walk over a proximity graph, and its events (R256 to R266).
-/

namespace Sys2Proof.Machine

/-! ### Records (R256, R257) -/

/-- The element types of a vector. -/
def walkType (e : ElemType) : Bool := e == .f32 || e == .f16 || e == .bf16 || e == .i8 || e == .b1

/-- Alignment of a vector in bytes. -/
def vectorAlign (e : ElemType) : Nat := max 1 (e.width / 8)

/-- The descriptor that 64 bytes hold; none: it is malformed. -/
def queryDesc (v : Nat) : Option QueryDesc :=
  let f := bytesAt v
  match ElemType.ofCode (f 0x1C 1) with
  | none => none
  | some et =>
    let d : QueryDesc :=
      { graph := f 0 8, nnodes := f 8 4, entry := f 0x0C 4, qvec := f 0x10 8, dim := f 0x18 4, et := et, metric := f 0x1D 1,
        travdel := (f 0x1E 1).testBit 0, ef := f 0x20 2, k := f 0x22 2, maxvisit := f 0x24 4, result := f 0x28 8 }
    let dimOk := if et == .b1 then decide (8 ≤ d.dim ∧ d.dim ≤ 65536 ∧ d.dim % 8 = 0) else decide (1 ≤ d.dim ∧ d.dim ≤ 4096)
    if !walkType et || !dimOk || decide (d.graph % 64 ≠ 0 ∨ d.nnodes = 0 ∨ d.nnodes ≤ d.entry ∨ d.qvec % vectorAlign et ≠ 0) then
      none
    else if 2 < d.metric ∨ (d.metric == 2) ≠ (et == .b1) then none
    else if 2 ≤ f 0x1E 1 ∨ f 0x1F 1 ≠ 0 ∨ f 0x30 16 ≠ 0 then none
    else if d.ef = 0 ∨ 256 < d.ef ∨ d.k = 0 ∨ 64 < d.k ∨ d.ef < d.k ∨ d.result % 8 ≠ 0 then none
    else some d

/-- A node record. -/
structure NodeRec where
  vec  : Nat
  tomb : Bool
  nbrs : List Nat
  deriving DecidableEq, Repr, Inhabited

/-- The node record that 192 bytes hold; none: it is malformed. -/
def nodeRec (d : QueryDesc) (v : Nat) : Option NodeRec :=
  let deg := bytesAt v 8 1
  let nbrs := (List.range deg).map (fun j => bytesAt v (0x10 + 4 * j) 4)
  let vec := bytesAt v 0 8
  if 32 < deg ∨ 2 ≤ bytesAt v 9 1 ∨ bytesAt v 0x0A 6 ≠ 0 ∨ bytesAt v 0x90 48 ≠ 0 ∨ vec % vectorAlign d.et ≠ 0 then none
  else if nbrs.any (fun n => decide (d.nnodes ≤ n)) then none
  else some ⟨vec, (bytesAt v 9 1).testBit 0, nbrs⟩

/-- Where node `n` lies. -/
def QueryDesc.nodeAt (d : QueryDesc) (n : Nat) : Nat := d.graph + 192 * n

/-! ### Keys and distances (R258) -/

/-- An F32 pattern as an integer in the order of distances: −0 equals +0, and NaN lies above +∞. -/
def distOrder (x : Nat) : Int :=
  if 0x7F800000 < x % 2 ^ 31 then 2 ^ 32
  else if 2 ^ 31 ≤ x then -((x % 2 ^ 31 : Nat) : Int) else (x : Int)

/-- The order (distance, id). -/
def keyLess (a b : WalkKey) : Bool :=
  decide (distOrder a.dist < distOrder b.dist) || (distOrder a.dist == distOrder b.dist && decide (a.node < b.node))

/-- The lowest key of a list. -/
def lowestKey : List WalkKey → Option WalkKey
  | [] => none
  | x :: rest => match lowestKey rest with
    | some y => some (if keyLess y x then y else x)
    | none => some x

/-- The highest key of a list. -/
def worstKey : List WalkKey → Option WalkKey
  | [] => none
  | x :: rest => match worstKey rest with
    | some y => some (if keyLess x y then y else x)
    | none => some x

/-- +∞ as F32. -/
def plusInfinity : Nat := 0x7F800000

/-- An element's value. -/
def walkValue (e : ElemType) (x : Nat) : FloatVal :=
  if e == .i8 then let v := toSigned 8 x; .fin (decide (v < 0)) v.natAbs 0 else floatVal e x

/-- The exact difference of two values: none for ∞ − ∞. -/
def exactDiff (x y : FloatVal) : Option FloatVal :=
  match x, y with
  | .nan a, _ => some (.nan a)
  | _, .nan b => some (.nan b)
  | .inf a, .inf b => if a == b then none else some (.inf a)
  | .inf a, .fin .. => some (.inf a)
  | .fin .., .inf b => some (.inf (!b))
  | .fin a m d, .fin b n e =>
    let k := min d e
    let u : Int := (m * 2 ^ (d - k).toNat : Nat)
    let v : Int := (n * 2 ^ (e - k).toNat : Nat)
    let z := (if a then -u else u) - (if b then -v else v)
    some (.fin (decide (z < 0)) z.natAbs k)

/-- The distance of two vectors, given as bits. -/
def distance (d : QueryDesc) (q x : Nat) : Nat :=
  let f := floatFormat .f32
  let at_ (v i : Nat) : FloatVal := walkValue d.et (elem d.et.width v i)
  match d.metric with
  | 0 => (f.fusedSum .rne ((List.range d.dim).map (fun i =>
      (exactDiff (at_ q i) (at_ x i)).bind (fun z => mulExact z z)))).1
  | 1 => (f.fusedSum .rne ((List.range d.dim).map (fun i => (mulExact (at_ q i) (at_ x i)).map (·.negate)))).1
  | _ => (f.convert .rne (.fin false (popCount d.dim (q ^^^ x)) 0)).1

/-! ### Reads and writes of the walker (R261, R262, R265) -/

/-- `n` bytes from an address on, put together from the parts of lines that a walk has read, or the first part that is
missing, as (address, length); `fuel` lines at most. A step reads one part at a time (R256, R265). -/
def gathered (parts : List (Nat × Nat × Nat)) : Nat → Nat → Nat → Except (Nat × Nat) Nat
  | 0, _, _ => .ok 0
  | fuel + 1, va, n =>
    if n = 0 then .ok 0
    else
      let k := firstPart va n
      match parts.find? (fun x => x.1 == va && x.2.1 == k) with
      | none => .error (va, k)
      | some (_, _, v) => (gathered parts fuel (va + k) (n - k)).map (fun rest => v + rest * 256 ^ k)

/-- `n` bytes written there, line by line, and whether a write faulted: the writes before it stand. A poisoned line that
is written in part faults too. Where a page has to be waited for, nothing is written. -/
def walkWrite (s : State) (h : Hart) : Nat → Nat → Nat → Nat → Except Stop (Bool × State)
  | 0, _, _, _ => .ok (true, s)
  | fuel + 1, va, n, v =>
    if n = 0 then .ok (true, s) else
    let k := firstPart va n
    let bad := k < 128 && (match quietLine s h va with
      | some l => s.poisoned l
      | none => false)
    if bad then .ok (false, s)
    else match pointWrite s h .other va k (v % 256 ^ k) with
      | .ok s => walkWrite s h fuel (va + k) (n - k) (v / 256 ^ k)
      | .error (.trap _) => .ok (false, s)
      | .error e => .error e

/-! ### Query contexts (R259, R264) -/

/-- Query contexts of a core. -/
def queryCount : Nat := 64

/-- Query context `n` of a core, as it stands in the core. -/
def queryAt (s : State) (core n : Nat) : Option QueryCtx := (s.core core).queries.find? (fun x => x.n == n && !x.reclaimed)

/-- A query context closed. -/
def closeQuery (s : State) (core : Nat) (x : QueryCtx) : State :=
  s.mapCore core (fun c => { c with queries := c.queries.filter (fun y => !(y.n == x.n && y.uid == x.uid)) })

/-- A query context opened or replaced. -/
def setQuery (s : State) (core : Nat) (x : QueryCtx) : State :=
  (closeQuery s core x).mapCore core (fun c => { c with queries := x :: c.queries })

/-- The query context that a handle names for the hart in focus. -/
def ownQuery (s : State) (v : Word) : Option QueryCtx :=
  if queryCount ≤ v.toNat then none
  else (s.core s.hart.place.core).queries.find? (fun x => x.n == v.toNat && x.uid == s.hart.uid)

/-- A word with a handle: a bad one raises BADREC. -/
def queryWord (s : State) (a : BitVec 5) (writes : List RegId) (body : State → QueryCtx → Except Stop State) : Outcome :=
  runPlain s .s true true (gReg a) writes (fun s =>
    let v := gRead s.hart a.toNat
    match ownQuery s v with
    | some x => body s x
    | none => .error (.trap (badrec 4 v.toNat)))

/-- The lowest FREE query context of the core. The number of a walk of this hart that was reclaimed is still its handle
(notes/assumptions/67). -/
def freeQuery (s : State) : Option Nat :=
  (List.range queryCount).find? (fun n => (s.core s.hart.place.core).queries.all (fun x =>
    x.n != n || (x.reclaimed && x.uid != s.hart.uid)))

/-- WQ.OPEN. -/
def execWqOpen (d a : BitVec 5) (s : State) : Outcome :=
  runPlain s .s true true (gReg a) (gReg d) (fun s => do
    let x := (gRead s.hart a.toNat).toNat
    if x % 64 != 0 then .error (.trap (misalign x))
    else
      let (v, s) ← pointRead s s.hart .other x 64
      match queryDesc v with
      | none => .error (.trap (badrec 4 x))
      | some q =>
        match freeQuery s with
        | none => .ok (retire (s.mapHart (fun h => gWrite h d.toNat ones64)))
        | some n =>
          let c : QueryCtx := { n := n, uid := s.hart.uid, asid := s.hart.asid, desc := q }
          .ok (retire ((setQuery s s.hart.place.core c).mapHart (fun h => gWrite h d.toNat (word n)))))

/-- A walk from ENTRY with empty sets. -/
def QueryCtx.fresh (x : QueryCtx) : QueryCtx :=
  { x with state := .running, begun := false, cand := [], best := [], visited := [], pending := [], fetched := [], x := 0 }

/-- WQ.RUN: the publishing action of FENCE.clus for the scalar side, then a fresh walk; a walk that runs is left alone
(R265). -/
def execWqRun (a : BitVec 5) (s : State) : Outcome :=
  queryWord s a [] (fun s x =>
    let core := s.hart.place.core
    if x.state == .running then .ok (retire s)
    else afterPublish s scopeClus (fun s => .ok (retire (setQuery s core { x.fresh with restarts := 0, reclaimed := false }))))

/-- The status word (R261). -/
def walkStatus (x restarts count status : Nat) : Word :=
  word (x % 2 ^ 32 * 2 ^ 32 + min restarts 255 * 2 ^ 16 + count * 2 ^ 8 + status)

/-- What WQ.POLL reads. -/
def QueryCtx.poll (x : QueryCtx) : Word :=
  match x.state with
  | .open_ => 0xFE
  | .running => 0xFF
  | .done => x.status

/-- WQ.POLL. -/
def execWqPoll (d a : BitVec 5) (s : State) : Outcome :=
  queryWord s a (gReg d) (fun s x => .ok (retire (s.mapHart (fun h => gWrite h d.toNat x.poll))))

/-- Bytes of a result area. -/
def QueryDesc.resultBytes (d : QueryDesc) : Nat := 16 + 8 * d.k

/-- The lines of the result area as the hart's context maps it. -/
def resultLines (s : State) (d : QueryDesc) : List Nat :=
  (List.range (lineFuel d.resultBytes)).filterMap (fun i =>
    let va := if i = 0 then d.result else (d.result / 128 + i) * 128
    if va < d.result + d.resultBytes then quietLine s s.hart va else none)

/-- WQ.RESULT: it waits until the walk has ended, and the core's L1 copies of the result area go. -/
def execWqResult (d a : BitVec 5) (s : State) : Outcome :=
  queryWord s a (gReg d) (fun s x =>
    match x.state with
    | .running => .error .wait
    | .open_ => .ok (retire (s.mapHart (fun h => gWrite h d.toNat x.poll)))
    | .done =>
      let core := s.hart.place.core
      let lines := resultLines s x.desc
      let s := s.l1Flush (fun y => y.core == core && lines.contains y.line)
      .ok (retire (s.mapHart (fun h => gWrite h d.toNat x.poll))))

/-- WQ.CLOSE: a running walk stops and writes nothing. -/
def execWqClose (a : BitVec 5) (s : State) : Outcome :=
  queryWord s a [] (fun s x => .ok (retire (closeQuery s s.hart.place.core x)))

/-! ### The walk (R260, R261) -/

/-- STATUS of a walk that has ended. -/
inductive WalkStatus where
  | complete | partial_ | limit | malformed | fault
  deriving DecidableEq, Repr, Inhabited

def WalkStatus.code : WalkStatus → Nat
  | .complete => 0
  | .partial_ => 1
  | .limit => 2
  | .malformed => 3
  | .fault => 4

/-- What a step comes to. -/
inductive WalkMove where
  | goOn (x : QueryCtx)
  | ended (x : QueryCtx) (status : WalkStatus) (faddr : Word)
  /-- a part of a line has to be read first; `x` is what the walk has counted before that read -/
  | reads (x : QueryCtx) (va n : Nat)

/-- What a step does with `n` bytes at an address. -/
def withBytes (x : QueryCtx) (va n : Nat) (k : Nat → WalkMove) : WalkMove :=
  match gathered x.fetched (lineFuel n) va n with
  | .error p => .reads x p.1 p.2
  | .ok v => k v

/-- What a step does with a node's record. -/
def withNode (x : QueryCtx) (n : Nat) (k : NodeRec → WalkMove) : WalkMove :=
  withBytes x (x.desc.nodeAt n) 192 (fun v => match nodeRec x.desc v with
    | some r => k r
    | none => .ended x .malformed (word (x.desc.nodeAt n)))

/-- Bytes of a vector. -/
def QueryDesc.vectorBytes (d : QueryDesc) : Nat := d.dim * d.et.width / 8

/-- A scored node is offered to W and C. -/
def offer (x : QueryCtx) (e : WalkKey) : QueryCtx :=
  let full := x.desc.ef ≤ x.best.length
  match worstKey x.best with
  | some w =>
    if !full then { x with cand := e :: x.cand, best := e :: x.best }
    else if keyLess e w then { x with cand := e :: x.cand, best := (e :: x.best).filter (fun y => y.node != w.node) }
    else x
  | none => { x with cand := e :: x.cand, best := e :: x.best }

/-- enter of R260. -/
def enterNode (x : QueryCtx) (n : Nat) (pk : WalkKey) : WalkMove :=
  withNode x n (fun r =>
    if r.tomb then .goOn (if x.desc.travdel then { x with cand := ⟨pk.dist, n, false⟩ :: x.cand } else x)
    else
      withBytes x x.desc.qvec x.desc.vectorBytes (fun q => withBytes x r.vec x.desc.vectorBytes (fun v =>
        .goOn (offer x ⟨distance x.desc q v, n, true⟩))))

/-- STATUS when no limit was met. -/
def finalStatus (x : QueryCtx) : WalkStatus := if x.best.length < x.desc.k then .partial_ else .complete

/-- The lowest key of C goes, or the walk ends. -/
def expandNext (x : QueryCtx) : WalkMove :=
  match lowestKey x.cand with
  | none => .ended x (finalStatus x) 0
  | some c =>
    let past := c.live && x.best.length == x.desc.ef && (match worstKey x.best with
      | some w => keyLess w c
      | none => false)
    if past then .ended x (finalStatus x) 0
    else
      let x := { x with cand := x.cand.filter (fun y => y.node != c.node) }
      if x.desc.maxvisit ≠ 0 ∧ x.x = x.desc.maxvisit then .ended x .limit 0
      else
        let x := { x with x := x.x + 1 }
        withNode x c.node (fun r => .goOn { x with pending := r.nbrs.map (fun n => (n, c)) })

/-- One step of a running walk: the entry of the next neighbour, an expansion, or the read of a part that it needs. -/
def walkMove (x : QueryCtx) : WalkMove :=
  let x := if x.begun then x else { x with begun := true, pending := [(x.desc.entry, ⟨plusInfinity, 0, true⟩)] }
  match x.pending with
  | [] => expandNext x
  | (n, pk) :: rest =>
    let x := { x with pending := rest }
    if x.visited.contains n then .goOn x
    else if 65536 ≤ x.visited.length then .ended x .limit 0
    else enterNode { x with visited := n :: x.visited } n pk

/-- The keys of W in order. -/
def sortedKeys (l : List WalkKey) : List WalkKey := l.mergeSort (fun a b => !keyLess b a)

/-- The result area's contents, the lowest byte first. -/
def resultValue (d : QueryDesc) (status faddr : Word) (l : List WalkKey) : Nat :=
  let entry (i : Nat) : Nat := match l[i]? with
    | some k => k.node + k.dist * 2 ^ 32
    | none => 0xFFFFFFFF + plusInfinity * 2 ^ 32
  status.toNat + faddr.toNat * 2 ^ 64 + ((List.range d.k).map (fun i => entry i * 2 ^ (64 * i))).sum * 2 ^ 128

/-- The end of a walk: the result area is written; a write fault makes its status FAULT and leaves the area partly
written. -/
def endWalk (s : State) (h : Hart) (x : QueryCtx) (status : WalkStatus) (faddr : Word) : Except Stop State := do
  let d := x.desc
  let l := (sortedKeys x.best).take d.k
  let w := walkStatus x.x x.restarts l.length status.code
  let n := d.resultBytes
  let (ok, s) ← walkWrite s h (lineFuel n) d.result n (resultValue d w faddr l)
  let w := if ok then w else walkStatus x.x x.restarts l.length WalkStatus.fault.code
  .ok (setQuery s h.place.core
    { x with state := .done, status := w, cand := [], best := [], visited := [], pending := [], fetched := [] })

/-- A step of the walk of a hart. A read that faults ends the walk as FAULT. -/
def stepWalk (s : State) (h : Hart) (x : QueryCtx) : Except Stop State :=
  match walkMove x with
  | .goOn y => .ok (setQuery s h.place.core { y with fetched := [] })
  | .ended y status faddr => endWalk s h y status faddr
  | .reads y va n =>
    match pointRead s h .other va n with
    | .ok (v, s) => .ok (setQuery s h.place.core { x with fetched := (va, n, v) :: x.fetched })
    | .error (.trap t) => endWalk (noteWalk s t) h y .fault t.val
    | .error e => .error e

/-- The query context whose turn WALK_STEP `n` is: of one that stands in the core, or, with none, of one that was
reclaimed. -/
def stepTarget (s : State) (core n : Nat) : Option QueryCtx :=
  (queryAt s core n).or ((s.core core).queries.find? (fun x => x.n == n && s.harts.any (fun h => h.uid == x.uid && h.resident)))

/-- WALK_STEP: a walk whose owner is Halted is paused at a step's end. A walk whose context was reclaimed takes a free
place and starts again from ENTRY (R266). -/
def execWalkStep (core ctx : Nat) (s : State) : Outcome :=
  match stepTarget s core ctx with
  | none => .next s
  | some x =>
    match s.harts.find? (fun h => h.uid == x.uid && (h.resident || (h.halted && !x.fetched.isEmpty))), x.state with
    | some h, .running =>
      if x.reclaimed then .next (setQuery s core { x.fresh with reclaimed := false, restarts := min 255 (x.restarts + 1) })
      else match stepWalk s h x with
        | .ok s => .next s
        | .error (.fault f) => .fault f
        | .error _ => .next s
    | _, _ => .next s

/-- QUERY_CONTEXT_RECLAIM: the place of a walk whose owner is Halted becomes free for another context (R266). -/
def execQueryContextReclaim (core ctx : Nat) (s : State) : Outcome :=
  match queryAt s core ctx with
  | none => .next s
  | some x =>
    if x.state == .running && x.fetched.isEmpty && s.harts.any (fun h => h.uid == x.uid && h.halted) then
      .next (setQuery s core { x with reclaimed := true })
    else .next s

end Sys2Proof.Machine
end

