-- ==== Sys2Proof/Machine/Fab.lean ====
section
/-!
DEFINITION. FAB: fabric stream records, bindings, the operators, and the routing of packets between ranks (R301 to R305,
R310 to R321).
-/

namespace Sys2Proof.Machine

/-! ### Bindings -/

/-- Fabric stream register i of the hart in focus. -/
def fabReg (s : State) (i : Nat) : Option FabReg := vget s.hart.f i none

def setFab (s : State) (i : Nat) (x : Option FabReg) : State := s.mapHart (fun h => { h with f := vset h.f i x })

/-- A rank is in PEER. -/
def FabReg.inPeer (f : FabReg) (r : Nat) : Bool := decide (r < 64) && f.peer.getLsbD r

/-- The ranks in PEER, the lowest first. -/
def FabReg.peers (f : FabReg) : List Nat := (List.range 64).filter f.inPeer

/-- The binding is a receiver of its reduction: ROOT, and with ALL every rank in PEER (R310; notes/assumptions/45). -/
def FabReg.receives (f : FabReg) : Bool := f.rank == f.root || (f.all && f.inPeer f.rank)

/-- Ranks that send to this binding. -/
def FabReg.sources (f : FabReg) : List Nat :=
  match f.pattern with
  | .send => []
  | .recv => [f.peer.toNat % 64]
  | .reduce => if f.receives then f.peers else []
  | .mcast => if f.rank == f.root then [] else [f.root]
  | .a2a => []

/-- Ranks this binding sends its elements to. -/
def FabReg.targets (f : FabReg) : List Nat :=
  match f.pattern with
  | .send => [f.peer.toNat % 64]
  | .reduce => if f.all then (if f.inPeer f.root then f.peers else f.root :: f.peers) else [f.root]
  | .mcast => f.peers.filter (· != f.root)
  | _ => []

/-- Deliveries of the binding go to its buffer. -/
def FabReg.buffered (f : FabReg) : Bool :=
  f.pattern == .a2a || (f.pattern == .mcast && f.rank != f.root && f.buf.isSome)

/-- The words a role may use (R310). -/
def FabReg.maySend (f : FabReg) : Bool :=
  match f.pattern with
  | .send => true
  | .mcast => f.rank == f.root
  | .reduce => f.inPeer f.rank && !f.receives
  | _ => false

def FabReg.mayReceive (f : FabReg) : Bool :=
  match f.pattern with
  | .recv => true
  | .mcast => f.rank != f.root && f.inPeer f.rank && f.buf.isNone
  | .reduce => f.rank == f.root && !f.inPeer f.rank
  | _ => false

def FabReg.mayCombine (f : FabReg) : Bool := f.pattern == .reduce && f.inPeer f.rank && f.receives

/-! ### Operators (R314 to R316) -/

/-- d and N of SIGPROD. -/
def FabReg.sigConfig (f : FabReg) : Nat × Nat := (f.opw.toNat % 32, f.opw.toNat / 32)

/-- Elements of an operator's record. -/
def recordLength (op : Nat) (opw : BitVec 8) : Nat :=
  match op with
  | 5 => opw.toNat
  | 6 => sigSize (opw.toNat % 32) (opw.toNat / 32)
  | _ => 1

def FabReg.record (f : FabReg) : Nat := recordLength f.op f.opw

/-- A step on single elements. -/
def singleStep (g : Nat → Nat → Nat × Flags) (x y : List Nat) : List Nat × Flags :=
  let r := g (x.headD 0) (y.headD 0)
  ([r.1], r.2)

/-- The greater or the lower of two integers. -/
def pickInt (e : ElemType) (greater : Bool) (x y : Nat) : Nat :=
  let less := decide (toInteger e.isSigned e.width x < toInteger e.isSigned e.width y)
  if less == greater then y else x

/-- c of a SOFTMERGE operand: exp2 of an exact difference. -/
def mergeFactor (x m : Nat) : Nat × Flags :=
  let f := floatFormat .f32
  if x == m then (one32, 0)
  else match exactDiff (f.value x) (f.value m) with
    | some d => f.exp2 d
    | none => (one32, 0)

/-- A step of SOFTMERGE. -/
def mergeStep (x y : List Nat) : List Nat × Flags :=
  let f := floatFormat .f32
  let u := x.headD 0
  let v := y.headD 0
  if (f.value u).isNaN || (f.value v).isNaN then (x.map (fun _ => f.canonicalNaN), flagNV)
  else
    let m := (f.minMax true u v).1
    let cx := mergeFactor u m
    let cy := mergeFactor v m
    let rest := ((x.drop 1).zip (y.drop 1)).map (fun (p : Nat × Nat) =>
      f.fusedSum .rne [mulExact (f.value p.1) (f.value cx.1), mulExact (f.value p.2) (f.value cy.1)])
    (m :: rest.map (·.1), rest.foldl (fun a r => a ||| r.2) (cx.2 ||| cy.2))

/-- A step of SIGPROD: x is the lower rank's. -/
def sigStepOf (d n : Nat) (x y : List Nat) : List Nat × Flags :=
  let r := (List.range (sigSize d n)).map (fun e =>
    let (k, i) := sigPlace d e n
    chenElem (fun j => x.getD j 0) (fun j => y.getD j 0) d k i)
  (r.map (·.1), r.foldl (fun a z => a ||| z.2) 0)

/-- The step of a binding's operator. -/
def FabReg.step (f : FabReg) (x y : List Nat) : List Nat × Flags :=
  match f.op with
  | 1 => singleStep (fun a b => ((a + b) % 2 ^ f.et.width, 0)) x y
  | 2 => singleStep (fun a b => (pickInt f.et false a b, 0)) x y
  | 3 => singleStep (fun a b => (pickInt f.et true a b, 0)) x y
  | 4 => singleStep ((floatFormat .f32).add .rne) x y
  | 5 => mergeStep x y
  | _ => sigStepOf f.sigConfig.1 f.sigConfig.2 x y

/-- The operator's padding. -/
def FabReg.padding (f : FabReg) : List Nat :=
  let w := f.et.width
  match f.op with
  | 1 => [0]
  | 2 => [if f.et.isSigned then 2 ^ (w - 1) - 1 else 2 ^ w - 1]
  | 3 => [if f.et.isSigned then 2 ^ (w - 1) else 0]
  | 4 => [0x80000000]
  | 5 => 0xFF800000 :: List.replicate (f.record - 1) 0x80000000
  | _ => List.replicate f.record 0

/-- One level of the tree over records. -/
def pairLevel (op : List Nat → List Nat → List Nat × Flags) : List (List Nat) → List (List Nat) × Flags
  | x :: y :: rest =>
    let a := op x y
    let b := pairLevel op rest
    (a.1 :: b.1, a.2 ||| b.2)
  | l => (l, 0)

/-- The pairwise tree over records, as many levels as are given. -/
def pairLevels (op : List Nat → List Nat → List Nat × Flags) : Nat → List (List Nat) → List (List Nat) × Flags
  | 0, l => (l, 0)
  | n + 1, l =>
    let a := pairLevel op l
    let b := pairLevels op n a.1
    (b.1, a.2 ||| b.2)

/-- The operator works on F32 elements. -/
def FabReg.floating (f : FabReg) : Bool := decide (4 ≤ f.op ∧ f.op ≤ 6)

/-- The combined record of the contributions, the lowest rank's first. A NaN in it is canonical, and one contribution that is
the result without a step raises NV for a signalling NaN (R35, R314; notes/assumptions/101). -/
def FabReg.combine (f : FabReg) (l : List (List Nat)) : List Nat × Flags :=
  let p := treeSize l.length
  let r := pairLevels f.step p.log2 (l ++ List.replicate (p - l.length) f.padding)
  let x := r.1.headD f.padding
  let e := floatFormat .f32
  if f.floating then
    (x.map (fun v => if (e.value v).isNaN then e.canonicalNaN else v),
      r.2 ||| (if p == 1 then x.foldl (fun a v => a ||| (e.value v).nvIfSignalling) 0 else 0))
  else (x, r.2)

/-- An element received from a rank and not consumed. -/
def FabReg.element (f : FabReg) (src pos : Nat) : Option Nat :=
  (f.inbox.find? (fun x => x.1 == src && x.2.1 == pos)).map (·.2.2)

/-- The record that begins at position b as the binding receives it: none while an element is missing. -/
def FabReg.recordAt (f : FabReg) (b : Nat) : Option (List Nat × Flags) :=
  let part (src : Nat) : Option (List Nat) := (List.range f.record).mapM (fun k => f.element src (b + k))
  match f.pattern with
  | .reduce => (f.sources.mapM part).map f.combine
  | _ => (part (f.sources.headD 0)).map (fun l => (l, 0))

/-- The results at positions `first` to `first + n - 1`, with the flags of their records: none while one is missing. -/
def FabReg.results (f : FabReg) (first n : Nat) : Option (List Nat × Flags) :=
  let e := f.record
  let bases := ((List.range' first n).map (fun p => p / e * e)).eraseDups
  match bases.mapM (fun b => (f.recordAt b).map (fun r => (b, r))) with
  | none => none
  | some l =>
    let at_ (p : Nat) : Nat := match l.find? (fun x => x.1 == p / e * e) with
      | some x => x.2.1.getD (p % e) 0
      | none => 0
    some ((List.range' first n).map at_, l.foldl (fun a x => a ||| x.2.2) 0)

/-! ### The record (R310) -/

/-- A field OP and a type that R315 admits together, with OPW. -/
def operatorOk (op : Nat) (et : ElemType) (opw : BitVec 8) : Bool :=
  let int := et == .i32 || et == .n32 || et == .i64 || et == .n64
  match op with
  | 1 => int && opw == 0
  | 2 => int && opw == 0
  | 3 => int && opw == 0
  | 4 => et == .f32 && opw == 0
  | 5 => et == .f32 && decide (3 ≤ opw.toNat ∧ opw.toNat ≤ 64)
  | 6 => et == .f32 && configOk (opw.toNat % 32) (opw.toNat / 32)
  | _ => false

def Pattern.ofCode : Nat → Option Pattern
  | 0 => some .send
  | 1 => some .recv
  | 2 => some .reduce
  | 3 => some .mcast
  | 4 => some .a2a
  | _ => none

/-- The binding that a record's fields describe, without its TSRs; none: it is malformed. -/
def fsrOf (v : Nat) (at_ : Word) : Option FabReg :=
  let g := bytesAt v
  match Pattern.ofCode (g 3 1), ElemType.ofCode (g 0x2C 1) with
  | some p, some et =>
    let peer := g 8 8
    let buf := g 0x10 8
    let src := g 0x18 8
    let len := g 0x28 4
    let opw : BitVec 8 := BitVec.ofNat 8 (g 0x2E 1)
    let f : FabReg :=
      { at_ := at_, group := g 0 2, gen := BitVec.ofNat 8 (g 2 1), pattern := p, op := g 4 1, final := (g 5 1).testBit 0,
        all := (g 5 1).testBit 1, rank := g 6 1, peer := BitVec.ofNat 64 peer, buf := none, src := none,
        counts := g 0x20 8, len := len, et := et, root := g 0x2D 1, opw := opw }
    let a2a := p == .a2a
    let rooted := p == .mcast || p == .reduce
    if 4 ≤ g 5 1 ∨ 64 ≤ f.rank ∨ 64 ≤ f.root ∨ g 0x2F 17 ≠ 0 ∨ et.width < 8 then none
    else if (!rooted && f.root != 0) || (!a2a && (src != 0 || f.counts != 0)) || f.counts % 128 != 0 then none
    else if ((p == .send || p == .recv) && decide (64 ≤ peer)) || (a2a && peer != 0) then none
    else if (a2a && len != 0) || (!a2a && len == 0) then none
    else if f.final && (buf == 0 || !(p == .mcast || a2a)) then none
    else if f.all && p != .reduce then none
    else if p == .mcast && !f.inPeer f.root then none
    else if p == .reduce && !(f.inPeer f.rank || f.rank == f.root) then none
    else if (if p == .reduce then !operatorOk f.op et opw else f.op != 0 || opw != 0) then none
    else if p == .reduce && f.len % f.record != 0 then none
    else some f
  | _, _ => none

/-- Bytes of a final result at most. -/
def finalLimit : Nat := 4 * 2 ^ 20

/-- The BUF TSR fits the record. -/
def bufferOk (f : FabReg) (t : Tsr) : Bool :=
  t.et.width == f.et.width && decide (f.len ≤ t.count) &&
    (!f.final || decide ((if f.pattern == .a2a then t.count else f.len) * f.et.width / 8 ≤ finalLimit))

/-- The bytes of a TSR that a record names. -/
def loadTsr (s : State) (at_ : Nat) : Except Stop (Nat × State) :=
  if at_ % 64 != 0 then .error (.trap (misalign at_)) else orderedRead s s.hart .other at_ 64

/-- A TSR that a record names, read where it names one. -/
def loadTsrIf (s : State) (named : Bool) (at_ : Nat) : Except Stop (Option Nat × State) :=
  if named then (loadTsr s at_).map (fun r => (some r.1, r.2)) else .ok (none, s)

/-- The TSR that bytes hold; a malformed one is a BADREC (R119). -/
def checkTsr (at_ : Nat) (v : Option Nat) : Except Stop (Option Tsr) :=
  match v with
  | none => .ok none
  | some v => match tsrOf v with
    | some t => .ok (some t)
    | none => .error (.trap (badrec 0 at_))

/-! ### Deliveries into the buffer (R305, R318) -/

/-- A fault of a delivery: an engine fault of the binding's hart, which stands in focus. Inside a timed region it is a precise
trap at once; HQPOS then names the last word that retired, since no command has a word (R344; notes/assumptions/107). -/
def bindingFault (s : State) (t : Trap) : State :=
  if s.hart.cs.hstat.timed then takeTrap s t .vector true (some s.hart.ve.lastPos)
  else if vectorDone s.hart && s.hart.tl.faults.isEmpty && s.hart.resident then takeTrap s t .vector true (some s.hart.ve.lastPos)
  else s.mapHart (fun h => { h with tl := { h.tl with faults := h.tl.faults ++ [(t, none)] } })

/-- `n` bytes delivered for the hart in focus. A poisoned line refuses them (R318). -/
def storeBytes (s : State) (va n x : Nat) : Except Stop State :=
  match quietAt s va with
  | some loc => if s.poisoned (lineOf loc) then .error (.trap (uncorr va)) else orderedWrite s s.hart .other va n x
  | none => orderedWrite s s.hart .other va n x

/-- One element written into the buffer. -/
def storeElement (s : State) (f : FabReg) (pos x : Nat) : Except Stop State :=
  let bit := (f.buf.getD default).bitAddr pos
  if bit < 0 then .error (.trap (belowAddress .write bit)) else storeBytes s (bit / 8).toNat (f.et.width / 8) x

/-- Values stored in order up to the first that faults: those left, what stopped them, and the state. -/
def storeEach (f : State → Nat × Nat → Except Stop State) : List (Nat × Nat) → State → List (Nat × Nat) × Option Stop × State
  | [], s => ([], none, s)
  | x :: rest, s =>
    match f s x with
    | .ok s => storeEach f rest s
    | .error e => (x :: rest, some e, s)

/-- The binding has come to its end (R311): everything it sends and receives is done, or, for a final result that it
receives, its commit point has come (R305). -/
def FabReg.complete (f : FabReg) : Bool :=
  if f.pattern == .a2a then
    (f.final && f.phase != .bound && decide (0 < f.delivered) && f.delivered == f.recvN.sum) ||
      (f.phase == .moving && f.sent == f.sendN.sum && f.delivered == f.recvN.sum)
  else if f.buffered then f.delivered == f.len
  else f.pos == f.len && f.stuck.isEmpty

/-- The STATUS write of a binding that has come to its end, if it has not been made. -/
def dueStatus (s : State) (i : Nat) : Option StatusWrite :=
  match fabReg s i with
  | some f =>
    if f.complete && !f.finished && !f.aborted && s.owed.all (fun w => !w.isFor s.hart.uid i) then
      some (statusOf s.hart i f 1)
    else none
  | none => none

/-- A binding that has come to its end: its STATUS becomes 1, and it is finished as that is written. -/
def settleBinding (s : State) (i : Nat) : State :=
  match dueStatus s i with
  | some w => statusWrite s w
  | none => s

/-- A binding whose final result has been performed: STATUS becomes 1 at the same point, or nothing of it happens yet. -/
def commitBinding (s : State) (i : Nat) : Except Stop State :=
  match dueStatus s i with
  | some w => match tryStatus s w with
    | some s => .ok s
    | none => .error .wait
  | none => .ok s

/-- Elements delivered into the buffer of binding i, behind those that a fault holds back. A final result is performed
whole or not at all. Where a page has to be waited for, nothing is delivered. -/
def deliverBuffer (s : State) (i : Nat) (l : List (Nat × Nat)) : Except Stop State :=
  match fabReg s i with
  | none => .ok s
  | some f =>
    if !f.stuck.isEmpty then .ok (setFab s i (some { f with stuck := f.stuck ++ l }))
    else
      let (rest, e, t) := storeEach (fun s x => storeElement s f x.1 x.2) l s
      let (rest, t) := if f.final && e.isSome then (l, s) else (rest, t)
      let t := setFab t i (some { f with stuck := rest, delivered := f.delivered + (l.length - rest.length) })
      match e with
      | none => if f.final then commitBinding t i else .ok (settleBinding t i)
      | some (.trap x) => .ok (bindingFault (noteWalk t x) x)
      | some .wait => .error .wait
      | some (.fault y) => .error (.fault y)

/-! ### Packets at a binding (R303, R308, R319) -/

/-- Elements that arrived from a rank. -/
def FabReg.arrivedFrom (f : FabReg) (src : Nat) : Nat := ((f.rcvd.find? (·.1 == src)).map (·.2)).getD 0

def FabReg.noteArrived (f : FabReg) (src n : Nat) : FabReg :=
  { f with rcvd := (src, f.arrivedFrom src + n) :: f.rcvd.filter (·.1 != src) }

/-- RDISP of a rank's part. -/
def FabReg.rdisp (f : FabReg) (src : Nat) : Nat := (f.recvN.take src).sum

/-- The payload is the next the binding can take from its sender. -/
def payloadFits (f : FabReg) (src : Nat) : Payload → Bool
  | .elems pos l => f.sources.contains src && pos == f.arrivedFrom src && decide (pos + l.length ≤ f.len)
  | .count _ => f.pattern == .a2a && f.got.all (·.1 != src)
  | .a2a k l => f.pattern == .a2a && f.phase != .bound && k == f.arrivedFrom src &&
      decide (k + l.length ≤ f.recvN.getD src 0)

/-- Elements for the buffer: those of a final result are staged until the last has come (R305). -/
def bufferArrival (s : State) (i : Nat) (f : FabReg) (l : List (Nat × Nat)) (total : Nat) : Except Stop State :=
  if f.final then
    let st := f.staged ++ l
    if total ≤ st.length then deliverBuffer (setFab s i (some { f with staged := [] })) i st
    else .ok (setFab s i (some { f with staged := st }))
  else deliverBuffer (setFab s i (some f)) i l

/-- A payload taken by binding i of the hart in focus. -/
def acceptPayload (s : State) (i src : Nat) (body : Payload) : Except Stop State :=
  match fabReg s i with
  | none => .ok s
  | some f =>
    match body with
    | .elems pos l =>
      let f := f.noteArrived src l.length
      if f.buffered then bufferArrival s i f (l.zipIdx.map (fun (x : Nat × Nat) => (pos + x.2, x.1))) f.len
      else .ok (setFab s i (some { f with inbox := f.inbox ++ l.zipIdx.map (fun (x : Nat × Nat) => (src, pos + x.2, x.1)) }))
    | .count n => .ok (setFab s i (some { f with got := f.got ++ [(src, n)] }))
    | .a2a k l =>
      let f := f.noteArrived src l.length
      bufferArrival s i f (l.zipIdx.map (fun (x : Nat × Nat) => (f.rdisp src + k + x.2, x.1))) f.recvN.sum

/-- The binding can take a packet: it is the next of its sender's, whose order is so restored, and no delivery is held back
(R308, R318, R321). -/
def mayAccept (f : FabReg) (p : Packet) : Bool := f.stuck.isEmpty && payloadFits f p.src p.body

/-- A captured packet that the binding can take. -/
def nextCaptured (f : FabReg) : Option Packet := f.captured.find? (mayAccept f)

/-- Captured packets delivered, those of each sender in order, as far as the binding can take them (R321); where a page has
to be waited for, those before it, or, if `whole` is set, none. -/
def drainCaptured (whole : Bool) (i : Nat) : Nat → State → Except Stop State
  | 0, s => .ok s
  | fuel + 1, s =>
    match fabReg s i with
    | some f =>
      match nextCaptured f with
      | some p =>
        match acceptPayload (setFab s i (some { f with captured := f.captured.erase p })) i p.src p.body with
        | .ok s => drainCaptured whole i fuel s
        | .error .wait => if whole then .error .wait else .ok s
        | .error e => .error e
      | none => .ok s
    | none => .ok s

def drainAll (s : State) (i : Nat) : Except Stop State :=
  drainCaptured false i (((fabReg s i).map (·.captured.length)).getD 0) s

/-- The deliveries held behind a fault tried again, and after them the packets that stay captured (R318, R321). -/
def retryStuck (s : State) (i : Nat) : Except Stop State := do
  let s ← match fabReg s i with
    | some f => if f.stuck.isEmpty then .ok s else deliverBuffer (setFab s i (some { f with stuck := [] })) i f.stuck
    | none => .ok s
  drainAll s i

/-! ### Sending (R306, R318) -/

/-- A list cut into parts of at most `n`, with the index at which each begins; `fuel` parts at most. -/
def chunks (n : Nat) : Nat → Nat → List Nat → List (Nat × List Nat)
  | 0, _, _ => []
  | fuel + 1, at_, l => if l.isEmpty then [] else (at_, l.take n) :: chunks n fuel (at_ + n) (l.drop n)

/-- Elements of a packet: at most 16 data flits of 64 bytes. -/
def packetElems (w : Nat) : Nat := 8192 / w

/-- Bytes of a packet on a link: a header flit and its data flits. -/
def packetBytes (w : Nat) (p : Packet) : Nat :=
  let n := match p.body with
    | .elems _ l => l.length * w / 8
    | .count _ => 4
    | .a2a _ l => l.length * w / 8
  64 + (n + 63) / 64 * 64

/-- The arbiter of the core's fabric port. -/
def fabricArb (s : State) : Arb := .fabric s.hart.place.core

/-- A word that has something to send to another rank sends it when the fabric port serves it. -/
def atPort (s : State) (sends : Bool) (body : State → Except Stop State) : Except Stop State :=
  if sends then atUnit s (fabricArb s) body else body s

/-- Payloads sent to a rank through the fabric port, which is charged for each flit (R285): a local rank's go through the
package's router, a remote rank's leave the package, and a rank's own part is taken at once. -/
def sendPayloads (s : State) (i : Nat) (f : FabReg) (dst : Nat) (l : List Payload) : Except Stop State :=
  if dst == f.rank then
    l.foldlM (fun s b => acceptPayload s i f.rank b) s
  else
    let ps := l.map (fun b => Packet.mk f.group f.gen.toNat f.rank dst b)
    let s := chargeUnit s (fabricArb s) (ps.map (fun p => packetBytes f.et.width p / 64)).sum
    .ok (if dst < 64 && (s.group f.group).locals.getLsbD dst then { s with transit := s.transit ++ ps } else s)

/-- Elements at consecutive positions sent to every target. -/
def sendElements (s : State) (i : Nat) (f : FabReg) (pos : Nat) (l : List Nat) : Except Stop State :=
  let ps := (chunks (packetElems f.et.width) (l.length + 1) pos l).map (fun x => Payload.elems x.1 x.2)
  f.targets.foldlM (fun s dst => sendPayloads s i f dst ps) s

/-! ### The router of this package (R301, R303, R321) -/

/-- A dropped packet is counted. -/
def dropPacket (s : State) (id n : Nat) : State :=
  s.mapGroup id (fun g => { g with drops := BitVec.ofNat 32 (min (2 ^ 32 - 1) (g.drops.toNat + n)) })

/-- The binding of a rank in focus, with its register number. -/
def focusRank (s : State) (id : Nat) (gen : BitVec 8) (rank : Nat) : Option (Nat × State) :=
  let has (h : Hart) : Option (Nat × FabReg) := (bindings h id gen).find? (fun x => x.2.rank == rank)
  match s.focusBy (fun h => (has h).isSome) with
  | some t => (has t.hart).map (fun x => (x.1, t))
  | none => none

/-- Bytes of a capture area, and capture areas of a core (R321, R330). -/
def captureArea : Nat := 2 * 2 ^ 20
def captureAreas : Nat := 16

def FabReg.capturedBytes (f : FabReg) : Nat := (f.captured.map (packetBytes f.et.width)).sum

def areasOf (bytes : Nat) : Nat := (bytes + captureArea - 1) / captureArea

/-- Capture areas of the core of the hart in focus in use by bindings other than its register `i`. -/
def areasUsed (s : State) (i : Nat) : Nat :=
  ((s.harts.filter (fun h => h.place.core == s.hart.place.core)).map (fun h =>
    (h.f.toList.zipIdx.map (fun (x : Option FabReg × Nat) => match x.1 with
      | some f => if h.uid == s.hart.uid && x.2 == i then 0 else areasOf f.capturedBytes
      | none => 0)).sum)).sum

/-- A final result whose last flit has arrived commits, though the hart is Halted: the captured packets that make it up are
performed. One that meets a fault stays captured, and for a page in its hold the last packet waits (R305, R321). -/
def commitCaptured (s : State) (i : Nat) : Except Stop State :=
  match fabReg s i with
  | none => .ok s
  | some f =>
    if !f.final then .ok s
    else match drainCaptured true i f.captured.length s with
      | .ok u => .ok (if (fabReg u i).any FabReg.complete then u else s)
      | e => e

/-- A packet for a binding whose hart stands in focus: captured while the hart is Halted, else taken in its turn. None:
the router holds it under link credit. -/
def packetAt (s : State) (i : Nat) (p : Packet) : Except Stop (Option State) :=
  match fabReg s i with
  | none => .ok none
  | some f =>
    if s.hart.halted then
      let n := areasOf (f.capturedBytes + packetBytes f.et.width p)
      if n ≤ 2 ∧ areasUsed s i + n ≤ captureAreas then
        (commitCaptured ((setFab s i (some { f with captured := f.captured ++ [p] })).owe { asid := s.hart.asid }) i).map some
      else .ok none
    else do
      let s ← drainAll s i
      match fabReg s i with
      | some f => if mayAccept f p then (acceptPayload s i p.src p.body).map some else .ok none
      | none => .ok none

/-- A packet at the router, whose rank has joined, delivered; none: it is held under link credit. -/
def routePacket (s : State) (p : Packet) : Except Stop (Option State) :=
  match focusRank s p.group (s.group p.group).gen p.dst with
  | none => .ok none
  | some (i, t) =>
    match packetAt t i p with
    | .error .wait => .ok none
    | r => r

/-- A packet is held, and its rank has joined. -/
def heldHere (g : Group) (p : Packet) : Bool := g.held.contains p && decide (p.dst < 64) && g.joined.getLsbD p.dst

/-- The first of some held packets that its rank can take is delivered. -/
def deliverOne (id : Nat) : List Packet → State → Except Stop (Option State)
  | [], _ => .ok none
  | p :: rest, s =>
    if heldHere (s.group id) p then do
      let r ← routePacket s p
      match r with
      | some u => .ok (some (u.mapGroup id (fun g => { g with held := g.held.erase p })))
      | none => deliverOne id rest s
    else deliverOne id rest s

/-- The packets held for a group's ranks delivered, those whose ranks have joined, each sender's in its order (R301, R308);
`fuel` packets at most. -/
def deliverHeld (id : Nat) : Nat → State → Except Stop State
  | 0, s => .ok s
  | fuel + 1, s => do
    let r ← deliverOne id (s.group id).held s
    match r with
    | some u => deliverHeld id fuel u
    | none => .ok s

/-- OPEN passes to ACTIVE when every rank has joined. In ACTIVE, packets held for a rank that has joined go to it (R301). -/
def settleJoin (s : State) (id : Nat) : Except Stop State :=
  let g := s.group id
  let all := 2 ^ g.nrank - 1
  let s := if g.state == .open_ && decide (g.joined.toNat &&& all = all) then s.mapGroup id (fun g => { g with state := .active }) else s
  if (s.group id).state == .active then deliverHeld id g.held.length s else .ok s

/-- The first packet under way between two local ranks. -/
def firstInTransit (s : State) (p : Packet) : Bool :=
  (s.transit.find? (fun x => x.group == p.group && x.gen == p.gen && x.src == p.src && x.dst == p.dst)) == some p

/-- A held packet tried again (R301, R321). -/
def retryHeld (s : State) (p : Packet) : Except Stop State := do
  let r ← routePacket s p
  .ok (match r with
    | some u => u.mapGroup p.group (fun g => { g with held := g.held.erase p })
    | none => s)

/-- A packet that reaches the router: `taken` is what becomes of it on its way. One of another generation, or of a group
that takes none, is dropped. None comes from a rank of another package before its join notice. One for a rank that has not
joined is held (R301, R303). -/
def arrive (s : State) (p : Packet) (taken : State → State) : Except Stop State :=
  let g := s.group p.group
  if p.gen != g.gen.toNat || !(g.state == .open_ || g.state == .active) then .ok (dropPacket (taken s) p.group 1)
  else if !(p.dst < 64 && g.locals.getLsbD p.dst) || !(g.locals.getLsbD p.src || g.joined.getLsbD p.src) then .ok s
  else if !g.joined.getLsbD p.dst then
    .ok ((taken s).mapGroup p.group (fun g => { g with held := g.held ++ [p] }))
  else do
    let r ← routePacket s p
    .ok (r.elim s taken)

/-- FABRIC_PACKET_ARRIVAL: a packet reaches the router: one that it holds is tried again; one from a local rank is the first
under way from it; one from a remote rank comes from outside the package. -/
def execFabricPacketArrival (pkt : Packet) (s : State) : Outcome :=
  let g := s.group pkt.group
  let fromHere := firstInTransit s pkt
  let r :=
    if g.state == .active && heldHere g pkt then retryHeld s pkt
    else if fromHere then arrive s pkt (fun s => { s with transit := s.transit.erase pkt })
    else if (pkt.src < 64 && g.locals.getLsbD pkt.src) || decide (64 ≤ pkt.src) then .ok s
    else arrive s pkt id
  match r with
  | .ok s => .next s
  | .error (.fault f) => .fault f
  | .error _ => .next s

/-! ### FAB words: what they share (R311, R312, R317) -/

/-- A FAB word inside a timed region does nothing. -/
def fabWord (s : State) (wf fit : Bool) (reads writes : List RegId) (body : State → Except Stop State) : Outcome :=
  runPlain s .v wf fit reads writes (fun s => if s.hart.cs.hstat.timed then .error (.trap (badrec 1 0)) else body s)

/-- A live binding: an unbound register, an aborted group and a stale generation trap. -/
def liveBinding (s : State) (a : BitVec 5) : Except Stop FabReg :=
  match fabReg s a.toNat with
  | none => .error (.trap (badrec 1 0))
  | some f =>
    let v := groupVal f.group f.gen
    if f.aborted then .error (.trap { code := causeGroup, sub := 1, val := v })
    else if (s.group f.group).gen != f.gen then .error (.trap { code := causeGroup, sub := 0, val := v })
    else .ok f

/-- A word the role does not have. -/
def wrongRole (f : FabReg) : Stop := .trap (badrec 1 f.at_.toNat)

/-- The strip rules of the binding's operator, and its element type (R315 to R317). An unbound register has neither. -/
def bindingFits (s : State) (a : BitVec 5) (t : VType) : Bool :=
  match fabReg s a.toNat with
  | none => true
  | some f => t.et == f.et &&
      (match f.pattern, f.op with
       | .reduce, 5 => s.hart.cs.vl % f.record == 0
       | .reduce, 6 => s.hart.cs.vl == f.record
       | _, _ => true)

/-- n of R313. -/
def stripLength (s : State) (f : FabReg) : Nat := min s.hart.cs.vl (f.len - f.pos)

/-- Where a strip of `n` elements of width `w` stops: its end, or the flit boundary at which it is stopped (R320). -/
def stripStop (s : State) (w n : Nat) : Nat :=
  match s.issue.cut with
  | some c => if n ≤ c then n else max (startOf s) (c / (512 / w) * (512 / w))
  | none => n

/-- A strip word that goes on later from element `k`. -/
def stripPause (s : State) (k : Nat) : State :=
  stall (s.mapHart (fun h => { h with cs := { h.cs with vprog := BitVec.ofNat 64 k } }))

/-! ### FBIND and FREL (R302, R318) -/

/-- A hart holds a rank of a group. -/
def rankHeld (s : State) (id : Nat) (gen : BitVec 8) (rank : Nat) : Bool :=
  s.harts.any (fun h => (bindings h id gen).any (fun x => x.2.rank == rank))

/-- The conditions of R302. -/
def checkJoin (s : State) (f : FabReg) (at_ : Nat) : Except Stop Unit :=
  let g := s.group f.group
  if g.nrank ≤ f.rank ∨ !g.locals.getLsbD f.rank ∨ s.hart.asid ≠ g.asid ∨ rankHeld s f.group g.gen f.rank then
    .error (.trap (badrec 1 at_))
  else if g.gen ≠ f.gen ∨ !(g.state == .open_ || g.state == .active) then
    .error (.trap { code := causeGroup, sub := 0, val := groupVal f.group f.gen })
  else .ok ()

/-- FBIND: the record and its TSRs are read, and then checked. -/
def execFbind (d a : BitVec 5) (s : State) : Outcome :=
  fabWord s (isFabric d && isH a) true [.h a.toNat] [] (fun s => do
    let x := hRead s.hart a.toNat
    let at_ := x.toNat
    if (fabReg s d.toNat).isSome then .error (.trap (badrec 1 at_))
    else if at_ % 64 != 0 then .error (.trap (misalign at_))
    else
      let (v, s) ← orderedRead s s.hart .other at_ 64
      let b := bytesAt v 0x10 8
      let c := bytesAt v 0x18 8
      let (bv, s) ← loadTsrIf s (b != 0) b
      let (cv, s) ← loadTsrIf s (c != 0 || bytesAt v 3 1 == 4) c
      match fsrOf v x with
      | none => .error (.trap (badrec 1 at_))
      | some f =>
        let buf ← checkTsr b bv
        let src ← checkTsr c cv
        if !buf.all (bufferOk f) then .error (.trap (badrec 1 at_))
        else
          checkJoin s f at_
          let s ← orderedWrite s s.hart .other (at_ + 7) 1 0
          let s := setFab { s with owed := s.owed.map (fun w => if w.isFor s.hart.uid d.toNat then { w with live := false } else w) }
            d.toNat (some { f with buf := buf, src := src })
          settleJoin ((retire s).mapGroup f.group (fun g => { g with joined := g.joined ||| (1#64 <<< f.rank) })) f.group)

/-- A rank leaves and its register is unbound. -/
def releaseBinding (s : State) (i : Nat) : State :=
  match fabReg s i with
  | some f => (leaveRank (setFab s i none) f).settleGroup f.group
  | none => s

/-- FREL: the sends have left as their words retired. On an unbound register it has no effect. -/
def execFrel (a : BitVec 5) (s : State) : Outcome :=
  fabWord s (isFabric a) true [] [] (fun s =>
    match fabReg s a.toNat with
    | none => .ok (retire s)
    | some _ => do
      let _ ← liveBinding s a
      .ok (retire (releaseBinding s a.toNat)))

/-! ### FSEND, FRECV and FRECVOP (R313, R318, R320) -/

/-- Elements `lo` to `hi - 1` from POS on are not all sent, and go to another rank. -/
def mustSend (f : FabReg) (lo hi : Nat) : Bool := decide (max lo (f.sent - f.pos) < hi) && f.targets.any (· != f.rank)

/-- Elements `lo` to `hi - 1` of a group's data sent as positions from POS on; those sent before are not sent again. -/
def sendStrip (s : State) (i : Nat) (f : FabReg) (data : Nat → Nat) (lo hi : Nat) : Except Stop State :=
  let lo := max lo (f.sent - f.pos)
  if hi ≤ lo then .ok s
  else
    let s := setFab s i (some { f with sent := f.pos + hi })
    sendElements s i f (f.pos + lo) ((List.range' lo (hi - lo)).map data)

/-- POS after a strip of `n`; elements consumed go. -/
def passStrip (s : State) (i n : Nat) : State :=
  match fabReg s i with
  | some f => settleBinding (setFab s i (some { f with
      pos := f.pos + n, inbox := f.inbox.filter (fun x => decide (f.pos + n ≤ x.2.1)) })) i
  | none => s

/-- FSEND. -/
def execFsend (a b : BitVec 5) (s : State) : Outcome :=
  let t := vtypeOf s
  fabWord s (isFabric a) (fits s (fun t => t.aligned b && bindingFits s a t)) (t.regs b) [] (fun s => do
    let f ← liveBinding s a
    if !f.maySend then .error (wrongRole f)
    else
      let n := stripLength s f
      let stop := stripStop s f.et.width n
      let h := s.hart
      atPort s (mustSend f (startOf s) stop) (fun s => do
        let s ← sendStrip (setVl s n) a.toNat f (dataElem h t b) (startOf s) stop
        if n ≤ stop then .ok (retire (passStrip s a.toNat n)) else .ok (stripPause s stop)))

/-- The elements a receiving word took stored into the binding's buffer too, where it names one (R318 retries such a
delivery at FRECV and FRECVOP). DEDUCED, log entry 46. -/
def keepStrip (s : State) (i pos : Nat) (l : List Nat) : Except Stop State :=
  match fabReg s i with
  | none => .ok s
  | some f => if f.buf.isNone then .ok s else deliverBuffer s i (l.zipIdx.map (fun (x : Nat × Nat) => (pos + x.2, x.1)))

/-- The received part of a strip written to v[d]; at the strip's end the flags of its records are merged and POS moves. -/
def takeStrip (s : State) (t : VType) (d : BitVec 5) (i n : Nat) : Except Stop State :=
  match fabReg s i with
  | none => .error .wait
  | some f =>
    let start := startOf s
    let stop := stripStop s f.et.width n
    match f.results (f.pos + start) (stop - start) with
    | none => .error .wait
    | some (l, _) =>
      let done := decide (n ≤ stop)
      let s := loadLanes t d (setVl s n) start (l.map some) n done
      if done then
        let (all, fl) := (f.results f.pos n).getD ([], 0)
        do
          let s ← keepStrip s i f.pos all
          .ok (retire ((passStrip s i n).mapHart (fun h => mergeEngine s.clock h fl)))
      else .ok (stripPause s stop)

/-- The state a word leaves when what it waits for has not come. -/
def orStall (s : State) (r : Except Stop State) : Except Stop State :=
  match r with
  | .error .wait => .ok (stall s)
  | r => r

/-- FRECV. -/
def execFrecv (d a : BitVec 5) (s : State) : Outcome :=
  let t := vtypeOf s
  fabWord s (isFabric a) (fits s (fun t => t.aligned d && bindingFits s a t)) [] (t.regs d) (fun s => do
    let f ← liveBinding s a
    if !f.mayReceive then .error (wrongRole f)
    else
      let n := stripLength s f
      let s ← retryStuck (setVl s n) a.toNat
      orStall s (takeStrip s t d a.toNat n))

/-- FRECVOP: every element is sent before the result is written. One that is stopped has sent the elements before a flit
boundary, and sends only the others when it goes on (R320). -/
def execFrecvop (d a b : BitVec 5) (s : State) : Outcome :=
  let t := vtypeOf s
  fabWord s (isFabric a) (fits s (fun t => t.aligned d && t.aligned b && bindingFits s a t)) (t.regs b) (t.regs d) (fun s => do
    let f ← liveBinding s a
    if !f.mayCombine then .error (wrongRole f)
    else
      let n := stripLength s f
      let h := s.hart
      let stop := stripStop s f.et.width n
      atPort s (mustSend f (startOf s) stop) (fun s => do
        let s ← sendStrip (setVl s n) a.toNat f (dataElem h t b) (startOf s) stop
        let s ← retryStuck s a.toNat
        orStall s (takeStrip s t d a.toNat n)))

/-! ### FCOUNT and FA2A (R318, R320) -/

/-- The entries of RECV and RDISP written, as (address, value), up to the first that faults: that fault is an engine
fault of the binding, and what is left is tried again (R318). The result says whether all are written. -/
def countWrites (s : State) (i : Nat) (f : FabReg) (l : List (Nat × Nat)) : Except Stop (Bool × State) :=
  let l := l.drop f.counted
  let (rest, e, t) := storeEach (fun s x => storeBytes s x.1 4 x.2) l s
  let t := setFab t i ((fabReg t i).map (fun f => { f with counted := f.counted + (l.length - rest.length) }))
  match e with
  | none => .ok (true, t)
  | some (.trap x) => .ok (false, bindingFault (noteWalk t x) x)
  | some e => .error e

/-- Entries of an array of 32-bit numbers, with their addresses. -/
def entriesAt (at_ : Nat) (l : List Nat) : List (Nat × Nat) := l.zipIdx.map (fun (x : Nat × Nat) => (at_ + 4 * x.2, x.1))

/-- The counts sent, one to each rank. -/
def sendCounts (s : State) (i : Nat) (f : FabReg) (l : List Nat) : Except Stop State :=
  l.zipIdx.foldlM (fun s (x : Nat × Nat) => sendPayloads s i f x.2 [.count x.1]) s

/-- FCOUNT: VPROG[0] records that the counts have been sent. -/
def execFcount (d a : BitVec 5) (s : State) : Outcome :=
  fabWord s (isH d && isFabric a) (fits s (bindingFits s a)) [] [.h d.toNat] (fun s => do
    let i := a.toNat
    let f ← liveBinding s a
    if f.pattern != .a2a || f.phase != .bound then .error (wrongRole f)
    else
      let n := (s.group f.group).nrank
      let s ← retryStuck s i
      atPort s (!s.hart.cs.vprog.getLsbD 0 && decide (1 < n)) (fun s => do
        let s ← (if s.hart.cs.vprog.getLsbD 0 then .ok s
          else do
            let (v, s) ← rangeRead s s.hart .other (lineFuel (4 * n)) f.counts (4 * n)
            let l := (List.range n).map (elem 32 v)
            sendCounts (setFab s i (some { f with sendN := l })) i { f with sendN := l } l)
        let f := (fabReg s i).getD f
        match (List.range n).mapM (fun r => (f.got.find? (·.1 == r)).map (·.2)) with
        | none => .ok (stripPause s 1)
        | some l =>
          let disp := (List.range n).map (fun r => (l.take r).sum)
          let (ok, s) ← countWrites s i f (entriesAt (f.counts + 256) l ++ entriesAt (f.counts + 512) disp)
          if !ok then .ok (stripPause s 1)
          else
            let s := setFab s i ((fabReg s i).map (fun f => { f with recvN := l, phase := .counted }))
            let s ← drainAll s i
            .ok (retire (s.mapHart (fun h => hWrite h d.toNat (word l.sum))))))

/-- Elements of SRC read from position `p` on, up to the first that faults. -/
def readSource (t : Tsr) : List Nat → State → Except Stop (List Nat × Option Trap × State)
  | [], s => .ok ([], none, s)
  | p :: rest, s =>
    match elementRead s .other t.et.width (t.bitAddr p) with
    | .ok (x, s) => do
      let (l, e, s) ← readSource t rest s
      .ok (x :: l, e, s)
    | .error (.trap x) => .ok ([], some x, s)
    | .error e => .error e

/-- The part of the source positions `lo` to `hi - 1` that goes to rank j, as payloads. -/
def partFor (f : FabReg) (lo : Nat) (l : List Nat) (j : Nat) : List Payload :=
  let first := (f.sendN.take j).sum
  let last := first + f.sendN.getD j 0
  let from_ := max lo first
  let to_ := min (lo + l.length) last
  (chunks (packetElems f.et.width) (l.length + 1) (from_ - first) ((l.drop (from_ - lo)).take (to_ - from_))).map
    (fun x => .a2a x.1 x.2)

/-- Of the source positions `lo` to `hi - 1` some go to rank j. -/
def a2aPart (f : FabReg) (lo hi j : Nat) : Bool :=
  let first := (f.sendN.take j).sum
  decide (max lo first < min hi (first + f.sendN.getD j 0))

/-- The flit boundary at which an FA2A is stopped: the part of each rank begins a flit (R320). -/
def a2aStop (s : State) (f : FabReg) (total : Nat) : Nat :=
  match s.issue.cut with
  | none => total
  | some c =>
    if total ≤ c then total
    else
      let first := (((List.range f.sendN.length).map (fun j => (f.sendN.take j).sum)).filter (fun n => decide (n ≤ c))).foldl max 0
      max (startOf s) (first + (c - first) / (512 / f.et.width) * (512 / f.et.width))

/-- Elements of SRC as they are sent. The spec states no result where their width is not the binding's: they are free
values (notes/assumptions/113). -/
def sentElements (s : State) (f : FabReg) (src : Tsr) (l : List Nat) : List Nat × State :=
  if src.et.width == f.et.width then (l, s)
  else
    let (x, s) := s.draw
    (freeElems x f.et.width l.length, s)

/-- FA2A: a source element that faults traps after the elements before it have been sent. -/
def execFa2a (a : BitVec 5) (s : State) : Outcome :=
  fabWord s (isFabric a) (fits s (bindingFits s a)) [] [] (fun s => do
    let i := a.toNat
    let f ← liveBinding s a
    if f.pattern != .a2a || f.phase != .counted then .error (wrongRole f)
    else
      let src := f.src.getD default
      let total := f.sendN.sum
      if src.count < total ∨ ((f.buf.map Tsr.count).getD 0) < f.recvN.sum then .error (wrongRole f)
      else
        let s ← retryStuck s i
        let start := startOf s
        let stop := a2aStop s f total
        atPort s ((List.range f.sendN.length).any (fun j => j != f.rank && a2aPart f start stop j)) (fun s => do
          let (l, e, s) ← readSource src (List.range' start (stop - start)) s
          let (l, s) := sentElements s f src l
          let f := (fabReg s i).getD f
          let s := setFab s i (some { f with sent := start + l.length })
          let s ← (List.range f.sendN.length).foldlM (fun s j => sendPayloads s i f j (partFor f start l j)) s
          match e with
          | some t => .ok (takeTrap (s.mapHart (fun h => { h with cs := { h.cs with vprog := word (start + l.length) } })) t .vector)
          | none =>
            if total ≤ stop then
              .ok (retire (settleBinding (setFab s i ((fabReg s i).map (fun f => { f with phase := .moving }))) i))
            else .ok (stripPause s stop)))

/-! ### FWAIT (R318, R319) -/

/-- The lines of a buffer as the hart's context maps them. -/
def bufferLines (s : State) (t : Tsr) : List Nat := (t.bytes.filterMap (quietLine s s.hart)).eraseDups

/-- FWAIT. -/
def execFwait (d a : BitVec 5) (s : State) : Outcome :=
  fabWord s (isH d && isFabric a) true [] [.h d.toNat] (fun s => do
    let _ ← liveBinding s a
    let s ← retryStuck s a.toNat
    match fabReg s a.toNat with
    | none => .error .wait
    | some f =>
      if !f.finished then .ok (stall s)
      else
        let s := match f.buf with
          | some t => let l := bufferLines s t; acquireLines s s.hart.place.core scopeStack l.contains
          | none => s
        .ok (retire (s.mapHart (fun h => hWrite h d.toNat (word (if f.buf.isSome then f.delivered else 0))))))

end Sys2Proof.Machine
end

