-- ==== Sys2Proof/Machine/Sys.lean ====
section
/-!
DEFINITION. SYS: system operations (R71, R74, R202, R203).
-/

namespace Sys2Proof.Machine

/-- NOP (R71). -/
def execNop (s : State) : Outcome := runPlain s .b true true [] [] (fun s => .ok (retire s))

/-- ERET: on the scalar side only; at level 0 it raises PRIV (R71, R74). -/
def execEret (s : State) : Outcome :=
  runPlain s .b (s.issue.side == .scalar) true [] []
    (fun s => if s.hart.cs.hstat.hl then .ok (returnFromTrap s) else .error (.trap (priv s)))

/-! ### WAIT (R71) -/

/-- The WAIT record of the hart's level. -/
def waitRecord (h : Hart) : Option WaitRec := if h.cs.hstat.hl then h.sc.wait1 else h.sc.wait0

def setWaitRecord (s : State) (w : Option WaitRec) : State :=
  s.mapHart (fun h =>
    if h.cs.hstat.hl then { h with sc := { h.sc with wait1 := w } } else { h with sc := { h.sc with wait0 := w } })

/-- The reason a WAIT ends for: of what holds in this cycle the highest code, an interrupt, a reply, the deadline; a deadline
of an earlier cycle came first, unless an interrupt had come before it while the WAIT stood still (`live`). -/
def waitReason (s : State) (deadline : Option Nat) (live : Bool) : Option Word :=
  let irq := s.hart.cs.hstat.ie && !s.hart.irqs.isEmpty
  match deadline with
  | some t =>
    if t < s.clock then (if irq && live && decide (s.hart.irqAt ≤ t) then some 2 else some 0)
    else if irq then some 2
    else if !s.hart.ve.replies.isEmpty then some 1
    else if t = s.clock then some 0
    else none
  | none => if irq then some 2 else if !s.hart.ve.replies.isEmpty then some 1 else none

/-- WAIT: its deadline is fixed at its first issue; a record of the word at this address keeps it. A WAIT that waits looks
for its event in this cycle again. -/
def execWait (d a : BitVec 5) (s : State) : Outcome :=
  runInterlocked s .b (s.issue.side == .scalar) true (fun _ => none) (gReg a ++ gReg d) [] (fun s =>
    let at_ := s.hart.sc.pc
    let first : WaitRec :=
      let n := gRead s.hart a.toNat
      ⟨at_, d.toNat, s.issue.s, if n = 0 then none else some (s.clock + n.toNat), false⟩
    let w := match waitRecord s.hart with
      | some w => if w.addr == at_ then w else first
      | none => first
    match waitReason s w.deadline w.live with
    | some r => .ok (retire ((setWaitRecord s none).mapHart (fun h => gWrite h d.toNat r)))
    | none => .ok (readyFrom (setWaitRecord s (some { w with d := d.toNat, s := s.issue.s, live := true })) s.clock))

/-! ### Traps, hints and fetch -/

/-- BREAK (R71). -/
def execBrk (s : State) : Outcome :=
  runPlain s .b true true [] [] (fun _ => .error (.trap { code := causeBreak }))

/-- TRAP n: SWTRAP with n (R24, R71). -/
def execTrap (n : BitVec 8) (s : State) : Outcome :=
  runPlain s .b true true [] [] (fun _ => .error (.trap { code := causeSwtrap, val := n.setWidth 64 }))

/-- YIELD: a hint to the vector sequencer without an effect on state (R71). -/
def execYield (s : State) : Outcome :=
  runPlain s .b true true [] [] (fun s => .ok (retire (if s.hart.cs.hstat.timed then s
    else s.mapHart (fun h => { h with ve := { h.ve with readyAt := max h.ve.readyAt (s.clock + 1) } }))))

/-- The words a side has fetched ahead are dropped. -/
def dropFetched (s : State) : State :=
  match s.issue.side with
  | .scalar => s.mapHart (fun h => { h with sc := { h.sc with fetched := [] } })
  | .vector => s.mapHart (fun h => { h with ve := { h.ve with fetched := [] } })

/-- FENCEI: the side's later fetches see every store the hart made before it. On the vector side it waits for the stores
that side's engines still have to perform (R71). -/
def execFencei (s : State) : Outcome :=
  runPlain s .b true true [] [] (fun s =>
    if s.issue.side == .vector && vectorWritesPending s then .error .wait
    else .ok (retire (dropFetched s)))

/-! ### The bank island (R202, R203) -/

/-- The DUSK event. -/
def duskIsland : IslandState → IslandState
  | .on => .dusking
  | .waking due _ => .waking due true
  | x => x

/-- Cycles of a wake: 2 µs. -/
def wakeCycles : Nat := 2000

/-- The DAWN event at a clock. -/
def dawnIsland (now : Nat) : IslandState → IslandState
  | .on => .on
  | .dusking => .on
  | .gated => .waking (now + wakeCycles) false
  | .waking due _ => .waking due false

/-- An event of the island of the hart's core. -/
def islandEvent (s : State) (f : IslandState → IslandState) : State :=
  s.mapCore s.hart.place.core (fun c => { c with island := f c.island })

/-- DUSK (R203). -/
def execDusk (s : State) : Outcome := runPlain s .b true true [] [] (fun s => .ok (retire (islandEvent s duskIsland)))
/-- DAWN: the energy of a wake is the issuing context's (R203). -/
def execDawn (s : State) : Outcome :=
  runPlain s .b true true [] [] (fun s =>
    let s := if (s.core s.hart.place.core).island == .gated then s.owe { asid := s.hart.asid } else s
    .ok (retire (islandEvent s (dawnIsland s.clock))))

end Sys2Proof.Machine
end

