-- ==== Sys2Proof/Machine/Work.lean ====
section
/-!
DEFINITION. WORK: completion counters, kernel, launch and graph records, cancellation, and what the dispatcher reads and
writes for them (R272, R287 to R291, R295, R297 to R299).
-/

namespace Sys2Proof.Machine

/-! ### Accesses of the dispatcher -/

/-- A global address translated for an agent that stands at a core or at the hub; a window is refused. -/
def globalAt (s : State) (core asid : Nat) (k : AccessKind) (update : Bool) (va : Nat) : Except Stop Located :=
  if 2 ^ 56 ≤ va then .error (.trap (protect k va)) else do
    let l ← translateAt s core asid (rootOf s asid) k update va
    awaitIsland s none l.loc
    .ok l

/-- `n` bytes of one line read whole at its home by the dispatcher. -/
def hubRead (s : State) (asid va n : Nat) : Except Stop (Nat × State) := do
  let l ← globalAt s hubCore asid .read false va
  if s.poisoned (lineOf l.loc) then .error (.trap { uncorr va with mark := l.mark })
  else
    .ok ((markAccess s l .read .other).homeReadAt hubStack l.loc n)

/-! ### Counters (R287, R288) -/

def ctlCanc (c : Word) : Bool := c.getLsbD 63
def ctlFin (c : Word) : Bool := c.getLsbD 62
/-- Address of the enclosing level's counter; 0 for none. -/
def ctlUp (c : Word) : Word := BitVec.ofNat 64 (c.toNat / 16 % 2 ^ 52 * 16)
def ctlLevel (c : Word) : Nat := c.toNat % 16
/-- CTL without FIN and CANC. -/
def ctlClear (c : Word) : Word := c &&& 0x3FFFFFFFFFFFFFFF
def ctlSetFin (c : Word) : Word := c ||| 0x4000000000000000
def ctlSetCanc (c : Word) : Word := c ||| 0x8000000000000000

/-- DONE and CTL read at scope .sys by an agent at a core or at the hub. With `update` the access counts as one that will
also write. -/
def counterGet (s : State) (core asid : Nat) (update : Bool) (va : Nat) : Except Stop (Nat × Word × State) := do
  let k := if update then AccessKind.write else .read
  let l ← globalAt s core asid k update va
  if s.poisoned (lineOf l.loc) then .error (.trap { uncorr va with sub := k.sub, mark := l.mark })
  else
    let s := settleLine s core scopeSys l.loc
    let (v, s) := amoRead s core scopeSys l.loc 16
    .ok (v % 2 ^ 64, BitVec.ofNat 64 (v / 2 ^ 64), markAccess s l .read .other)

/-- DONE and CTL written at scope .sys. -/
def counterPut (s : State) (core asid va done : Nat) (ctl : Word) : Except Stop State := do
  let l ← globalAt s core asid .write true va
  match amoPut s core scopeSys l.loc 16 (done % 2 ^ 64 + ctl.toNat * 2 ^ 64) with
  | .error e => .error (writeTrap va l e)
  | .ok s => .ok (markAccess s l .write .other)

/-- A counter's chain from itself upwards: addresses with their CTL; none: it is malformed. -/
def counterChain (s : State) (core asid : Nat) : Nat → Nat → Word → Except Stop (Option (List (Word × Word)) × State)
  | 0, _, _ => .ok (none, s)
  | fuel + 1, below, va => do
    let (_, c, s) ← counterGet s core asid false va.toNat
    let lv := ctlLevel c
    if c.toNat / 2 ^ 56 % 64 ≠ 0 ∨ lv ≤ below ∨ 4 < lv then .ok (none, s)
    else if ctlUp c = 0 then .ok (some [(va, c)], s)
    else if lv = 4 then .ok (none, s)
    else
      let (rest, s) ← counterChain s core asid fuel lv (ctlUp c)
      .ok (rest.map ((va, c) :: ·), s)

/-- The fault of a dispatcher's update, in the fault record of the context: TVAL names the counter (R288). -/
def recordUpdate (s : State) (asid va : Nat) (launch : Word) (t : Trap) : State :=
  (noteWalk s t).record asid { cause := { sub := 1, code := t.code }, tval := word va, launch := launch }

/-- An update of a counter by the dispatcher: one that faults is lost and recorded. The result is CTL where the update set
FIN. -/
def hubUpdate (s : State) (asid va : Nat) (launch : Word) (f : Nat → Word → Nat × Word) :
    Except Stop (Option Word × State) :=
  let attempt : Except Stop (Option Word × State) := do
    let (done, ctl, t) ← counterGet s hubCore asid true va
    let r := f done ctl
    let t ← counterPut t hubCore asid va r.1 r.2
    .ok (if !ctlFin ctl && ctlFin r.2 then some r.2 else none, t)
  match attempt with
  | .ok r => .ok r
  | .error (.trap t) => .ok (none, recordUpdate s asid va launch t)
  | .error e => .error e

/-- One more completed child, unless the level is cancelled. -/
def countChild (done : Nat) (ctl : Word) : Nat × Word := if ctlCanc ctl then (done, ctl) else (done + 1, ctl)

/-- FIN was set on a counter with this CTL: DONE of its UP counter increases. -/
def passUp (s : State) (asid : Nat) (launch ctl : Word) : Except Stop State :=
  if ctlUp ctl = 0 then .ok s
  else (hubUpdate s asid (ctlUp ctl).toNat launch countChild).map (·.2)

/-! ### Kernel and launch records (R289 to R291) -/

/-- Units of a malformed or well-formed launch: the launch's own count, or the kernel's. -/
def unitCount (lr kr : Nat) : Nat := if bytesAt lr 0x20 4 = 0 then bytesAt kr 0x1C 4 else bytesAt lr 0x20 4

/-- The largest unit count. -/
def unitLimit : Nat := 16777215

/-- The kernel record breaks none of its table's limits. -/
def kernelOk (kr : Nat) : Bool :=
  let f := bytesAt kr
  f 0 8 % 4 == 0 && f 8 8 % 4 == 0 && decide (1 ≤ f 0x1C 4 ∧ f 0x1C 4 ≤ unitLimit) &&
    !(f 0x24 4 == 0 && f 0x20 4 != 0) && decide (f 0x28 4 ≤ 2 * 2 ^ 20) && decide (f 0x2C 4 ≤ 8 * 2 ^ 20) &&
    decide (f 0x30 4 ≤ 64 * 2 ^ 20) && f 0x34 4 % 256 == 0 && decide (f 0x38 1 < 4) && decide (f 0x39 1 < 3) && f 0x3A 6 == 0

/-- The launch record breaks none of its table's limits. -/
def launchOk (lr : Nat) : Bool :=
  let f := bytesAt lr
  f 0 8 % 64 == 0 && f 0x10 8 % 16 == 0 && decide (f 0x20 4 ≤ unitLimit) && f 0x24 28 == 0

/-- The two records together stay within R291. -/
def launchFits (lr kr : Nat) : Bool :=
  let n := unitCount lr kr
  let slots := 2 ^ bytesAt kr 0x38 1
  decide (bytesAt kr 0x20 4 ≤ 85 * bytesAt kr 0x24 4) &&
    (match bytesAt kr 0x39 1 with
     | 1 => decide (n ≤ 32 * slots)
     | 2 => decide (n ≤ 4 * slots)
     | _ => true)

/-- The launch two records describe. -/
def launchFrom (asid queue lr kr : Nat) (ups : List Word) : Launch :=
  let f := bytesAt kr
  let at64 (v off : Nat) : Word := BitVec.ofNat 64 (bytesAt v off 8)
  { handle := at64 lr 0x10, asid := asid, queue := queue, code := at64 kr 0, handler := at64 kr 8, args := at64 lr 8,
    spill := at64 lr 0x18, stack := f 0x34 4, affinity := at64 kr 0x10, stride := f 0x18 4, units := unitCount lr kr,
    energy := f 0x20 4, dur := f 0x24 4, spad := f 0x28 4, csm := f 0x2C 4, chip := f 0x30 4,
    split := BitVec.ofNat 2 (f 0x38 1), place := BitVec.ofNat 2 (f 0x39 1), ups := ups }

/-- The launch at a record, with its chain: none if it is malformed (R291). -/
def readLaunch (s : State) (asid queue : Nat) (at_ : Word) : Except Stop (Option (Launch × List (Word × Word)) × State) :=
  if at_.toNat % 64 != 0 then .ok (none, s)
  else do
    let (lr, s) ← hubRead s asid at_.toNat 64
    if !launchOk lr then .ok (none, s)
    else
      let (kr, s) ← hubRead s asid (bytesAt lr 0 8) 64
      let counter : Word := BitVec.ofNat 64 (bytesAt lr 0x10 8)
      if !kernelOk kr || !launchFits lr kr then .ok (none, s)
      else if s.launches.any (fun l => l.handle == counter && l.asid == asid) then .ok (none, s)
      else
        let (chain, s) ← counterChain s hubCore asid 4 0 counter
        match chain with
        | none => .ok (none, s)
        | some c =>
          if (c.head?.map (fun x => ctlLevel x.2)) != some 1 then .ok (none, s)
          else .ok (some (launchFrom asid queue lr kr ((c.drop 1).map (·.1)), c), s)

/-- The counter of a level that starts: DONE := 0, FIN and CANC cleared; if a counter above it has CANC, the level is
cancelled at once and its counter marked. The result says whether it may go on. -/
def startCounter (s : State) (core asid : Nat) (chain : List (Word × Word)) : Except Stop (Bool × State) :=
  match chain with
  | [] => .ok (false, s)
  | (va, c) :: rest => do
    let gone := rest.any (fun x => ctlCanc x.2)
    let c := if gone then ctlSetCanc (ctlClear c) else ctlClear c
    let s ← counterPut s core asid va.toNat 0 c
    .ok (!gone, s)

/-! ### Graph headers (R295) -/

/-- The header's fields are in range. -/
def graphOk (v : Nat) : Bool :=
  let f := bytesAt v
  decide (1 ≤ f 0 2 ∧ f 0 2 ≤ 4096 ∧ f 2 2 < f 0 2) && f 4 4 == 0 && f 8 8 % 16 == 0 && f 0x10 8 % 32 == 0 && f 0x18 40 == 0

/-- The graph at a header, with its chain: none if it is malformed. -/
def readGraph (s : State) (asid queue : Nat) (at_ : Word) : Except Stop (Option (Graph × List (Word × Word)) × State) :=
  if at_.toNat % 64 != 0 then .ok (none, s)
  else do
    let (v, s) ← hubRead s asid at_.toNat 64
    let counter : Word := BitVec.ofNat 64 (bytesAt v 8 8)
    if !graphOk v || s.graphs.any (fun g => g.counter == counter && g.asid == asid) then .ok (none, s)
    else
      let (chain, s) ← counterChain s hubCore asid 4 0 counter
      match chain with
      | none => .ok (none, s)
      | some c =>
        if (c.head?.map (fun x => ctlLevel x.2)) != some 2 then .ok (none, s)
        else
          let g : Graph := { counter := counter, asid := asid, queue := queue, nodes := bytesAt v 0 2,
                             array := BitVec.ofNat 64 (bytesAt v 0x10 8), ups := (c.drop 1).map (·.1), tokens := [bytesAt v 2 2] }
          .ok (some (g, c), s)

/-! ### LAUNCH and LAUNCHG (R299) -/

/-- Places of a queue's device list. -/
def deviceList : Nat := 64

/-- A request put at the end of a queue's device list. -/
def appendRequest (s : State) (q : Nat) (r : DeviceReq) : State := s.mapQueue q (fun x => { x with device := x.device ++ [r] })

/-- LAUNCH: the record is read after the scalar side's writes have been published, and checked; the launch waits in the
device list of the hart's queue. -/
def execLaunch (d a : BitVec 5) (s : State) : Outcome :=
  runPlain s .s true true (gReg a) (gReg d) (fun s => do
    let at_ := gRead s.hart a.toNat
    let asid := s.hart.asid
    let q := s.hart.queue
    afterPublish s scopeDev (fun s => do
      let (x, s) ← readLaunch s asid q at_
      match x with
      | none => .error (.trap (badrec 3 at_.toNat))
      | some (l, chain) =>
        if deviceList ≤ (s.queue q).device.length then .error .wait
        else
          let (go, s) ← startCounter s s.hart.place.core asid chain
          let s := if go then appendRequest { s with launches := s.launches ++ [l] } q ⟨false, l.handle⟩ else s
          .ok (retire (s.mapHart (fun h => gWrite h d.toNat l.handle)))))

/-- LAUNCHG. -/
def execLaunchg (d a : BitVec 5) (s : State) : Outcome :=
  runPlain s .s true true (gReg a) (gReg d) (fun s => do
    let at_ := gRead s.hart a.toNat
    let asid := s.hart.asid
    let q := s.hart.queue
    afterPublish s scopeDev (fun s => do
      let (x, s) ← readGraph s asid q at_
      match x with
      | none => .error (.trap (badrec 4 at_.toNat))
      | some (g, chain) =>
        if deviceList ≤ (s.queue q).device.length then .error .wait
        else
          let (go, s) ← startCounter s s.hart.place.core asid chain
          let s := if go then appendRequest { s with graphs := s.graphs ++ [g] } q ⟨true, g.counter⟩ else s
          .ok (retire (s.mapHart (fun h => gWrite h d.toNat g.counter)))))

/-! ### CSIG and CREAD (R299) -/

/-- The counter of a word checked: its address, and its chain. -/
def checkCounter (s : State) (x : Word) (low : Nat) : Except Stop State := do
  if x.toNat % 16 != 0 then .error (.trap (misalign x.toNat))
  else
    let (c, s) ← counterChain s s.hart.place.core s.hart.asid 4 0 x
    match c.bind (·.head?) with
    | none => .error (.trap (badrec 4 x.toNat))
    | some h => if ctlLevel h.2 < low then .error (.trap (badrec 4 x.toNat)) else .ok s

/-- CSIG. -/
def execCsig (d a b : BitVec 5) (s : State) : Outcome :=
  runPlain s .s true true (gReg a ++ gReg b) (gReg d) (fun s => do
    let x := gRead s.hart a.toNat
    let v := gRead s.hart b.toNat
    let h := s.hart
    afterPublish s scopeSys (fun s => do
      let s ← checkCounter s x 3
      if v.toNat / 2 ^ 48 % 2 ^ 15 ≠ 0 then .error (.trap (badrec 4 x.toNat))
      else
        let (done, ctl, s) ← counterGet s h.place.core h.asid true x.toNat
        let ctl' := if v.getLsbD 63 then ctlSetFin ctl else ctl
        let s ← if ctlCanc ctl then .ok s else counterPut s h.place.core h.asid x.toNat (done + v.toNat % 2 ^ 48) ctl'
        let s ← if !ctlCanc ctl && !ctlFin ctl && ctlFin ctl' then passUp s h.asid h.launch ctl else .ok s
        .ok (retire (s.mapHart (fun h => gWrite h d.toNat (word done))))))

/-- CREAD: d = 31 is refused. It acquires as FENCE.dev where FIN is 1, and retires when no write of the scalar side is held
(R130, R238). -/
def execCread (d a : BitVec 5) (s : State) : Outcome :=
  runPlain s .s (d != 31) true (gReg a) (gReg d ++ gReg (d + 1)) (fun s => do
    let x := gRead s.hart a.toNat
    let s ← checkCounter s x 1
    let (done, ctl, s) ← counterGet s s.hart.place.core s.hart.asid false x.toNat
    let s := if ctlFin ctl then acquireLines s s.hart.place.core scopeDev (fun _ => true) else s
    if ctlFin ctl && s.holdsWrite s.hart.place.core (fun _ => true) then .ok (stall s)
    else .ok (retire (s.mapHart (fun h => gWrite (gWrite h d.toNat (word done)) (d.toNat + 1) ctl))))

/-! ### Cancellation (R297) -/

/-- The first of some harts by WHERE. -/
def firstByWhere (hs : List Hart) : Option Hart :=
  (hs.mergeSort (fun x y => decide ((whereWord x.place).toNat ≤ (whereWord y.place).toNat))).head?

/-- CANC set in the counter of a cancelled level. -/
def markCancelled (s : State) (asid : Nat) (counter launch : Word) : Except Stop State :=
  (hubUpdate s asid counter.toNat launch (fun done ctl => (done, ctlSetCanc ctl))).map (·.2)

/-- Updates made one after another. -/
def eachOf {α : Type} (f : State → α → Except Stop State) : List α → State → Except Stop State
  | [], s => .ok s
  | x :: rest, s => do
    let s ← f s x
    eachOf f rest s

/-- No successor. -/
def noNode : Nat := 0xFFFF

/-- Tokens sent to successors. -/
def successors (l : List Nat) : List Nat := l.filter (· != noNode)

def mapGraph (s : State) (asid : Nat) (counter : Word) (f : Graph → Graph) : State :=
  { s with graphs := s.graphs.map (fun g => if g.counter == counter && g.asid == asid then f g else g) }

/-- FIN of a graph: a token has reached an END node and no launch of the graph is live. `launch` is the launch whose end
leads to it, 0 where a token does. -/
def settleGraph (s : State) (asid : Nat) (counter launch : Word) : Except Stop State :=
  match s.graphs.find? (fun g => g.counter == counter && g.asid == asid) with
  | none => .ok s
  | some g =>
    let live := s.launches.any (fun l => l.asid == asid && (match l.node with
      | some x => x.1 == counter
      | none => false))
    if !g.ended || live then .ok s
    else do
      let (fin, s) ← hubUpdate s asid counter.toNat launch (fun done ctl => (done, if ctlCanc ctl then ctl else ctlSetFin ctl))
      let s := { s with graphs := s.graphs.filter (fun x => !(x.counter == counter && x.asid == asid)) }
      match fin with
      | some ctl => passUp s asid launch ctl
      | none => .ok s

/-- The graph of a launch that was cancelled alone goes on without it. -/
def settleGraphOf (s : State) (l : Launch) : Except Stop State :=
  match l.node with
  | some (g, _, _) => settleGraph s l.asid g l.handle
  | none => .ok s

/-- A launch goes on without the graph that started it, where that is one of `gs`: the tokens its end would give are
discarded (R297). -/
def Launch.leave (gs : List Graph) (l : Launch) : Launch :=
  { l with node := l.node.filter (fun n => gs.all (fun g => !(g.counter == n.1 && g.asid == l.asid))) }

/-- The live launches and graphs of a context that a counter covers are cancelled: their counters are marked, requests
and tokens go, the barriers of the launches are aborted, and their harts are retired. The cancellation is recorded once
for the context if it retires a hart of it. -/
def cancelBelow (s : State) (asid : Nat) (x : Word) : Except Stop State := do
  let ls := s.launches.filter (fun l => l.asid == asid && (l.handle == x || l.ups.contains x))
  let gs := s.graphs.filter (fun g => g.asid == asid && (g.counter == x || g.ups.contains x))
  let s ← eachOf (fun s (l : Launch) => markCancelled s asid l.handle l.handle) ls s
  let s ← eachOf (fun s (g : Graph) => markCancelled s asid g.counter 0) gs s
  let mine (h : Hart) : Bool := h.asid == asid && ls.any (fun l => l.handle == h.launch)
  let hs := s.harts.filter mine
  let s := { s with
    launches := (s.launches.filter (fun l => !(ls.any (fun y => y.handle == l.handle && y.asid == l.asid)))).map (Launch.leave gs),
    graphs := s.graphs.filter (fun g => !(gs.any (fun y => y.counter == g.counter && y.asid == g.asid))),
    queues := s.queues.map (fun q => { q with device := q.device.filter (fun r =>
      !(if r.graph then gs.any (fun g => g.counter == r.counter && g.queue == q.n)
        else ls.any (fun l => l.handle == r.counter && l.queue == q.n))) }) }
  let s := ls.foldl (fun s l => abortBarriers s l.asid l.handle) s
  let s := s.onHarts mine State.retireUnit hs.length
  let s := match firstByWhere hs with
    | some h => s.record asid (recordOf h causeCancelled)
    | none => s
  let s := s.quotaCheckFor asid
  let s ← eachOf settleGraphOf ls s
  .ok ((ls.map (·.queue) ++ gs.map (·.queue)).eraseDups.foldl (fun s q => s.settleQueue q) s)

/-- A level cancelled (R297): nothing happens if its counter has FIN. -/
def cancelLevel (s : State) (core asid : Nat) (x : Word) : Except Stop State := do
  let (done, ctl, s) ← counterGet s core asid false x.toNat
  if ctlFin ctl then .ok s
  else
    let s ← counterPut s core asid x.toNat done (ctlSetCanc ctl)
    cancelBelow s asid x

/-- CANCEL: the word retires; if the unit is in the level it is then retired too. -/
def execCancel (a : BitVec 5) (s : State) : Outcome :=
  runPlain s .s true true (gReg a) [] (fun s => do
    let x := gRead s.hart a.toNat
    let s ← checkCounter s x 1
    cancelLevel (retire s) s.hart.place.core s.hart.asid x)

/-- CANCELLATION: the host or Voxind cancels a level. One that cannot be read has no effect; a fault of an update is
recorded. -/
def execCancellation (asid counter : Nat) (s : State) : Outcome :=
  match cancelLevel s hubCore asid (word counter) with
  | .ok s => .next s
  | .error (.fault f) => .fault f
  | .error (.trap t) => .next (recordUpdate s asid counter 0 t)
  | .error .wait => .next s

end Sys2Proof.Machine
end

