-- ==== Sys2Proof/Machine/EvHart.lean ====
section
/-!
DEFINITION. The events of a hart's life and of the dispatcher: delivery of pending traps, blocks, the end of a WAIT,
placement, the end of a unit, graph nodes and queue entries (R54 to R56, R71, R76, R281, R282, R288, R291 to R296).
-/

namespace Sys2Proof.Machine

/-! ### Traps, blocks and waits -/

/-- An engine fault that no later vector-side word can take is delivered as it stands (R344). -/
def lastFault (s : State) : Option State :=
  if vectorDone s.hart then
    match s.hart.tl.faults with
    | (t, _) :: rest =>
      some (takeTrap (s.mapHart (fun h => { h with tl := { h.tl with faults := rest } })) t .vector true (some s.hart.ve.lastPos))
    | [] => none
  else none

/-- TRAP_DELIVERY: a pending interrupt is taken at the scalar side's boundary, and a pending engine fault by a hart whose
vector side issues no more (R54, R76, R344). -/
def execTrapDelivery (at_ : Place) (s : State) : Outcome :=
  .next (s.atPlace at_ (fun s =>
    if frozenOut s then s
    else match lastFault s with
      | some t => t
      | none =>
        match dueInterrupt s.hart with
        | some t => if waitsHere s.hart then s else takeInterrupt s t
        | none => s))

/-- BLOCK_TAKE (R56). -/
def execBlockTake (at_ : Place) (s : State) : Outcome :=
  .next (s.atPlace at_ (fun s => if frozenOut s then s else takeBlock s))

/-- WAIT_TIMEOUT: the deadline of a WAIT that waits has come, and it retires with the reason of the cycle (R71). -/
def execWaitTimeout (at_ : Place) (s : State) : Outcome :=
  .next (s.atPlace at_ (fun s =>
    if frozenOut s || !waitsHere s.hart then s
    else match waitRecord s.hart with
      | none => s
      | some w =>
        match w.deadline, waitReason s w.deadline w.live with
        | some t, some r =>
          if t ≤ s.clock then
            let s := { s with issue := { side := .scalar, s := w.s } }
            retire ((setWaitRecord s none).mapHart (fun h => gWrite h w.d r))
          else s
        | _, _ => s))

/-! ### Graphs (R288, R296) -/

/-- A launch has completed: its barriers leave the tables, the level above counts it, and a graph goes on. -/
def launchFinished (s : State) (l : Launch) (ctl : Word) : Except Stop State := do
  let s := releaseBarriers { s with launches := s.launches.filter (fun x => !(x.handle == l.handle && x.asid == l.asid)) } l.asid l.handle
  let s ← passUp s l.asid l.handle ctl
  match l.node with
  | none => .ok s
  | some (g, next, alt) =>
    let s := mapGraph s l.asid g (fun x => { x with tokens := x.tokens ++ successors [next, alt] })
    let s ← (if ctlUp ctl == g then .ok s else (hubUpdate s l.asid g.toNat l.handle countChild).map (·.2))
    settleGraph s l.asid g l.handle

/-! ### The end of a unit (R54, R288) -/

/-- A unit of a launch ended normally: DONE counts it, and FIN follows as DONE reaches the unit count. -/
def unitEnded (s : State) (asid : Nat) (handle : Word) : Except Stop State := do
  let l := s.launch? handle asid
  let (fin, s) ← hubUpdate s asid handle.toNat handle (fun done ctl =>
    if ctlCanc ctl then (done, ctl)
    else (done + 1, if (l.map (·.units)) == some (done + 1) then ctlSetFin ctl else ctl))
  match fin, l with
  | some ctl, some l => launchFinished s l ctl
  | _, _ => .ok s

/-- An Ending hart has nothing left to do: its last block reached VEND, its engine commands and bank requests are
complete, and no fault waits. -/
def mayFree (s : State) : Bool :=
  vectorDone s.hart && s.hart.tl.queue.isEmpty && s.hart.tl.faults.isEmpty && s.hart.tl.region.isNone &&
    s.hart.bank.isEmpty && !vectorWritesPending s

/-- What an event leaves that may have to be made later. -/
def orLater (s : State) : Except Stop State → Outcome
  | .ok t => .next t
  | .error (.fault f) => .fault f
  | .error _ => .next s

/-- HART_FREE: the bindings that are left are released as by FREL, the hart becomes Free and its launch counts it. -/
def execHartFree (at_ : Place) (s : State) : Outcome :=
  match s.focus at_ with
  | none => .next s
  | some t =>
    if !mayFree t || frozenOut t then .next s
    else
      let t := (List.range 8).foldl releaseBinding t
      orLater s (unitEnded t.freeHart t.hart.asid t.hart.launch)

/-! ### Placement (R292, R293) -/

/-- Sizes of a launch's grants, rounded up to 64 KiB. -/
def Launch.need (l : Launch) (x : Level) : Nat :=
  let n := match x with
    | .core => l.spad
    | .cluster => l.csm
    | .stack => l.chip
  (n + 65535) / 65536 * 65536

/-- Bytes of a level's array. -/
def Level.capacity : Level → Nat
  | .core => 2 * 2 ^ 20
  | .cluster => 8 * 2 ^ 20
  | .stack => 64 * 2 ^ 20

def allLevels : List Level := [.core, .cluster, .stack]

/-- The launch's grant that covers a core. -/
def launchGrant (s : State) (l : Launch) (x : Level) (core : Nat) : Option Grant :=
  s.grants.find? (fun g => g.launch == l.handle && g.asid == l.asid && g.level == x && g.at_ == x.index core)

/-- The segments discarded on a core for a launch: the union of SPDISC over its Halted harts there (R276). -/
def discarded (s : State) (asid : Nat) (launch : Word) (core : Nat) : BitVec 8 :=
  (s.harts.filter (fun h => h.asid == asid && h.launch == launch && h.place.core == core && h.halted)).foldl
    (fun m h => m ||| h.cs.spdisc) 0

/-- Bytes of a grant that a halt has released: the discarded segments of a core's grant whose launch has no hart that
runs there (R276). -/
def releasedBytes (s : State) (g : Grant) : Nat :=
  if g.level != .core || s.harts.any (fun h => h.launch == g.launch && h.asid == g.asid && h.place.core == g.at_ && !h.halted) then 0
  else
    let segs := discarded s g.asid g.launch g.at_
    ((List.range 8).map (fun i => if segs.getLsbD i then min 262144 (g.size - 262144 * i) else 0)).sum

/-- The grants of a level in one core, cluster or stack. -/
def grantsAt (s : State) (x : Level) (at_ : Nat) : List Grant := s.grants.filter (fun g => g.level == x && g.at_ == at_)

/-- The launch's grants exist for a core or can be made there. -/
def grantsFit (s : State) (l : Launch) (core : Nat) : Bool :=
  allLevels.all (fun x => l.need x == 0 || (launchGrant s l x core).isSome ||
    decide (((grantsAt s x (x.index core)).map (fun g => g.size - releasedBytes s g)).sum + l.need x ≤ x.capacity))

/-- The grants made for a core. -/
def makeGrants (s : State) (l : Launch) (core : Nat) : State :=
  allLevels.foldl (fun s x =>
    if l.need x == 0 || (launchGrant s l x core).isSome then s
    else { s with grants := s.grants ++ [⟨s.nextId, l.handle, l.asid, x, x.index core, l.need x⟩], nextId := s.nextId + 1 }) s

/-- A sum of draws, in mW as a fraction. -/
def addDraw (acc : Nat × Nat) (energy dur : Nat) : Nat × Nat :=
  if dur = 0 then acc else (acc.1 * dur + 1000 * energy * acc.2, acc.2 * dur)

/-- The cluster's admitted draws with the unit's stay within its unreserved budget (R293). -/
def admits (s : State) (l : Launch) (core : Nat) : Bool :=
  let c := core / 8
  let sum := (s.harts.filter (fun h => h.place.core / 8 == c)).foldl (fun a h => addDraw a h.energy h.dur) (0, 1)
  let sum := addDraw sum l.energy l.dur
  decide (sum.1 ≤ (vget s.noon c 0 - reservedPeak s c) * sum.2)

/-- Save areas of a core (R330; notes/assumptions/40). -/
def saveAreas : Nat := 32

/-- A hart holds a resident position: a Halted hart keeps its position until its context is SAVED. -/
def Hart.positioned (h : Hart) : Bool := h.resident || (h.halted && !h.saved)

/-- Resident positions of a slot that are free, the lowest first. -/
def freePositions (s : State) (core slot : Nat) : List Nat :=
  (List.range 4).filter (fun r => s.harts.all (fun h => !(h.positioned && h.place == ⟨core, slot, r⟩)))

/-- A valid record of a slot names the queue, and the core is split as the launch asks (R284). -/
def slotBound (s : State) (queue : Nat) (split : BitVec 2) (core slot : Nat) : Bool :=
  let u := s.core core
  u.split == split && u.binds.any (fun b => b.n / 4 == slot && b.queue.toNat == queue && b.counts u)

/-- The slots of a core on which a unit of the launch may be placed, with their free positions. -/
def openSlots (s : State) (l : Launch) (core : Nat) : List (Nat × Nat) :=
  if !(decide ((s.harts.filter (fun h => h.place.core == core)).length < saveAreas) && grantsFit s l core && admits s l core) then []
  else (List.range (2 ^ l.split.toNat)).filterMap (fun sl =>
    let n := (freePositions s core sl).length
    if slotBound s l.queue l.split core sl && decide (0 < n) then some (sl, n) else none)

/-- The core whose column is the home of the address that guides unit `u`; no mark is set and no fault raised. -/
def affinityCore (s : State) (l : Launch) (u : Nat) : Option Nat :=
  if l.affinity = 0 then none
  else
    let a := (l.affinity.toNat + u * l.stride) % 2 ^ 64
    if 2 ^ 56 ≤ a then none
    else match walk s (rootOf s l.asid) a with
      | .leaf _ _ e => if leafHK e == 0 then some (leafHome e) else none
      | _ => none

/-- The preference class of a core. -/
def affinityClass (home : Option Nat) (core : Nat) : Nat :=
  match home with
  | none => 0
  | some c => if core = c then 0 else if core / 8 = c / 8 then 1 else if core / 64 = c / 64 then 2 else 3

/-- Cores by preference: class, most free positions, lower number. -/
def coreOrder (s : State) (l : Launch) (u : Nat) (group : Nat → Bool) : List Nat :=
  let home := affinityCore s l u
  let xs := ((List.range s.product.cores).filter group).filterMap (fun c =>
    let n := ((openSlots s l c).map (·.2)).sum
    if n = 0 then none else some (affinityClass home c, 4 * 8 - n, c))
  (xs.mergeSort (fun a b => decide (a.1 < b.1 ∨ (a.1 = b.1 ∧ (a.2.1 < b.2.1 ∨ (a.2.1 = b.2.1 ∧ a.2.2 ≤ b.2.2)))))).map (·.2.2)

/-- The place the dispatcher chooses for unit `u` within a group of cores. -/
def choosePlace (s : State) (l : Launch) (u : Nat) (group : Nat → Bool) : Option Place :=
  match coreOrder s l u group with
  | [] => none
  | c :: _ =>
    match ((openSlots s l c).mergeSort (fun a b => decide (b.2 < a.2 ∨ (a.2 = b.2 ∧ a.1 ≤ b.1)))).head? with
    | some (sl, _) => ((freePositions s c sl).head?).map (fun r => ⟨c, sl, r⟩)
    | none => none

/-- A unit's start state (R55, R294). -/
def startHart (s : State) (l : Launch) (u : Nat) (p : Place) : Hart :=
  let sp := l.spill + BitVec.ofNat 64 (u * l.stack)
  let g := [(1, l.args), (2, word u), (3, word l.units), (4, l.handle), (5, word (lanesOf l.split))]
  let now := s.clock + 1
  let h : Hart :=
    { place := p, split := l.split, uid := s.nextId, asid := l.asid, launch := l.handle, unitNo := u, queue := l.queue,
      energy := l.energy, dur := l.dur, life := .running,
      sc := { pc := l.code, rstack := [exitEntry], readyAt := now },
      ve := { readyAt := now },
      cs := { htvec := regAddr 2 l.handler, hrsp := spillAddr sp, hfsp := spillAddr (sp + BitVec.ofNat 64 (l.stack / 2)),
              since := s.clock } }
  g.foldl (fun h x => gWrite h x.1 x.2) h

/-- A context runs again or for the first time. -/
def wakeContext (s : State) (asid : Nat) : State :=
  s.mapCtx asid (fun c => { c with state := match c.state with
    | .bound => .running
    | .saved => .running
    | .halting => .running
    | x => x })

/-- Unit `u` placed: its grants are made, its core acquires as by FENCE.dev, and the hart runs. -/
def placeUnit (s : State) (l : Launch) (u : Nat) (p : Place) : State :=
  let s := makeGrants s l p.core
  let h := startHart s l u p
  let s := { s with nextId := s.nextId + 1, parked := s.parked ++ [h],
                    ended := s.ended.filter (fun (x : Hart) => x.place != p),
                    launches := s.launches.map (fun x =>
                      if x.handle == l.handle && x.asid == l.asid then { x with placed := u + 1 } else x) }
  let s := acquireLines s p.core scopeDev (fun _ => true)
  let s := joinArbiters (wakeContext s l.asid) p l.queue
  s.mapQueue l.queue (fun q => { q with state := if q.state == .bound then .running else q.state })

/-- Units placed one after another within a group; none: one does not fit. -/
def placeAll (group : Nat → Bool) (handle : Word) (asid : Nat) : Nat → State → List Nat → Option (State × List Nat)
  | 0, s, used => some (s, used)
  | n + 1, s, used =>
    match s.launch? handle asid with
    | none => none
    | some l =>
      match choosePlace s l l.placed group with
      | none => none
      | some p => placeAll group handle asid n (placeUnit s l l.placed p) (p.core :: used)

/-- A gang placed whole on one core or cluster, chosen as for unit 0. -/
def placeGang (s : State) (l : Launch) : Option (State × List Nat) :=
  (coreOrder s l 0 (fun _ => true)).findSome? (fun c =>
    placeAll (fun x => if l.place == 2 then x == c else x / 8 == c / 8) l.handle l.asid l.units s [])

/-- The islands of cores that are not ON are woken first: the units start when they are ON (R202, R292). One that is WAKING
with a recorded DUSK forgets it, as at a DAWN (DESIGN CHOICE, notes/assumptions/123). -/
def afterWake (s t : State) (used : List Nat) : State :=
  let off := used.filter (fun c => (s.core c).island != .on)
  if off.isEmpty then t
  else off.foldl (fun s c => s.mapCore c (fun u => { u with island := dawnIsland s.clock u.island })) s

/-- Units of the launch may be placed now: it was taken, its queue serves, its context is bound and its quota is above
zero. -/
def mayPlace (s : State) (l : Launch) : Bool :=
  let q := (s.queue l.queue).state
  l.taken && decide (l.placed < l.units) && (q == .bound || q == .running || q == .draining) &&
    (match s.ctx? l.asid with
     | some c => c.state != .created && c.state != .free
     | none => false) && !s.exhausted l.asid

/-- UNIT_PLACE: the next unit of a launch, or the whole of a gang, takes the place R292 gives it. -/
def execUnitPlace (asid launch : Nat) (at_ : Place) (s : State) : Outcome :=
  match s.launches.find? (fun l => l.handle == word launch && l.asid == asid && mayPlace s l) with
  | none => .next s
  | some l =>
    if l.place = 0 then
      match choosePlace s l l.placed (fun _ => true) with
      | some p => if p = at_ then .next (afterWake s (placeUnit s l l.placed p) [p.core]) else .next s
      | none => .next s
    else
      match placeGang s l with
      | some (t, used) => .next (afterWake s t used)
      | none => .next s

/-! ### Graph nodes (R295, R296) -/

/-- A node of a graph. -/
structure NodeFields where
  kind : Nat
  next : Nat
  alt  : Nat
  nin  : Nat
  arg  : Nat
  deriving DecidableEq, Repr, Inhabited

/-- A successor is none or a node of the graph. -/
def successorOk (nodes n : Nat) : Bool := n == noNode || decide (n < nodes)

/-- The node 32 bytes hold; none: it is malformed. -/
def nodeFields (v : Nat) : Option NodeFields :=
  let f := bytesAt v
  let x : NodeFields := ⟨f 0 1, f 2 2, f 4 2, f 6 2, f 8 8⟩
  if x.kind = 0 ∨ 5 < x.kind ∨ f 1 1 ≠ 0 ∨ f 0x10 16 ≠ 0 then none
  else if (if x.kind = 4 then decide (x.nin = 0 ∨ 64 < x.nin) else x.nin != 0) then none
  else if 4 ≤ x.kind ∧ x.arg ≠ 0 then none
  else if (x.kind = 2 ∨ x.kind = 3) ∧ x.arg % 8 ≠ 0 then none
  else some x

/-- A graph cancelled for a fault of a node or a launch, which is recorded (R296, R297). -/
def graphFault (s : State) (g : Graph) (t : Trap) : Except Stop State := do
  let s := (noteWalk s t).record g.asid { cause := { sub := t.sub, code := t.code }, tval := t.val }
  cancelBelow s g.asid g.counter

/-- The token at index `k` has gone on to other nodes. -/
def moveToken (s : State) (g : Graph) (k : Nat) (to_ : List Nat) : State :=
  mapGraph s g.asid g.counter (fun x => { x with tokens := x.tokens.eraseIdx k ++ successors to_ })

/-- A condition or counter word at scope .dev: its value, and the state after `f` was stored, if `f` changes it. -/
def nodeWord (s : State) (asid va : Nat) (f : Nat → Nat) : Except Stop (Nat × State) := do
  let l ← globalAt s hubCore asid .read false va
  if s.poisoned (lineOf l.loc) then .error (.trap { uncorr va with mark := l.mark })
  else
    let (v, s) := amoRead s hubCore scopeDev l.loc 8
    let s := markAccess s l .read .other
    if f v = v then .ok (v, s)
    else
      let l ← globalAt s hubCore asid .write true va
      match amoPut s hubCore scopeDev l.loc 8 (f v) with
      | .error e => .error (writeTrap va l e)
      | .ok s => .ok (f v, markAccess s l .write .other)

/-- What a token does at a node. -/
def tokenAt (s : State) (g : Graph) (k n : Nat) (x : NodeFields) : Except Stop State :=
  let go (s : State) (l : List Nat) : Except Stop State :=
    if l.all (successorOk g.nodes) then .ok (moveToken s g k l)
    else .error (.trap (badrec 4 (g.array.toNat + 32 * n)))
  match x.kind with
  | 1 => do
    if !successorOk g.nodes x.next || !successorOk g.nodes x.alt then .error (.trap (badrec 4 (g.array.toNat + 32 * n)))
    else
      let (r, s) ← readLaunch s g.asid g.queue (word x.arg)
      match r with
      | none => .error (.trap (badrec 3 x.arg))
      | some (l, chain) =>
        let (ok, s) ← startCounter s hubCore g.asid chain
        let s := moveToken s g k []
        .ok (if ok then { s with launches := s.launches ++ [{ l with node := some (g.counter, x.next, x.alt), taken := true, ring := g.ring }] } else s)
  | 2 => do
    let (v, s) ← nodeWord s g.asid x.arg (fun v => v)
    go s [if v = 0 then x.alt else x.next]
  | 3 => do
    let (v, s) ← nodeWord s g.asid x.arg (fun v => v - 1)
    go s [if v = 0 then x.alt else x.next]
  | 4 =>
    let count := ((g.joins.find? (·.1 == n)).map (·.2)).getD 0 + 1
    let full := decide (x.nin ≤ count)
    let s := mapGraph s g.asid g.counter (fun y => { y with joins := (n, if full then 0 else count) :: y.joins.filter (·.1 != n) })
    go s (if full then [x.next] else [])
  | _ =>
    settleGraph (mapGraph (moveToken s g k []) g.asid g.counter (fun y => { y with ended := true })) g.asid g.counter 0

/-- GRAPH_NODE: token `token` of a graph acts at its node. A malformed node or a refused launch cancels the graph. -/
def execGraphNode (asid graph token : Nat) (s : State) : Outcome :=
  match s.graphs.find? (fun g => g.counter == word graph && g.asid == asid && g.taken) with
  | none => .next s
  | some g =>
    match g.tokens[token]? with
    | none => .next s
    | some n =>
      let at_ := g.array.toNat + 32 * n
      let run : Except Stop State := do
        let (v, s) ← hubRead s g.asid at_ 32
        match nodeFields v with
        | none => .error (.trap (badrec 4 at_))
        | some x => tokenAt s g token n x
      match run with
      | .error (.trap t) => orLater s (graphFault s g t)
      | r => orLater s r

/-! ### Queue entries (R281 to R283, R299) -/

/-- A vector for a queue: its VF's, or the PF's where the PF holds it (R278, R326). -/
def raiseQueue (s : State) (q : Nat) : State := if s.vfs.contains (q / 4) then s.raise (some (q / 4)) (q % 4) else s.raise none 0

/-- An entry skipped: ERR is set and the fault recorded. -/
def skipEntry (s : State) (q : Nat) (t : Trap) : State :=
  let asid := (s.queue q).asid
  let s := (noteWalk s t).record asid { cause := { sub := t.sub, code := t.code }, tval := t.val }
  raiseQueue (s.mapQueue q (fun x => { x with err := true })) q

/-- A graph may still start launches: a token stands in it, or a live launch of it has a successor (R282;
notes/assumptions/114). -/
def graphOpen (s : State) (g : Graph) : Bool :=
  !g.tokens.isEmpty || s.launches.any (fun l => l.asid == g.asid && l.node.any (fun x =>
    x.1 == g.counter && (x.2.1 != noNode || x.2.2 != noNode)))

/-- The dispatcher may take the next entry of a queue: every unit of the one before is placed. -/
def mayTake (s : State) (q : Nat) : Bool :=
  let x := s.queue q
  (x.state == .bound || x.state == .running || x.state == .draining) && (s.ctx? x.asid).isSome && !s.exhausted x.asid &&
    s.launches.all (fun l => !(l.queue == q && l.taken && decide (l.placed < l.units))) &&
    s.graphs.all (fun g => !(g.queue == q && g.taken && graphOpen s g))

/-- A chain holds a cancelled level above its counter. -/
def chainCancelled (s : State) (asid : Nat) (counter : Word) : Except Stop (Bool × State) := do
  let (c, s) ← counterChain s hubCore asid 4 0 counter
  .ok (match c with
    | some l => (l.drop 1).any (fun x => ctlCanc x.2)
    | none => false, s)

/-- A request of the device list taken: a cancelled level above it cancels it (R297). -/
def takeRequest (s : State) (q : Nat) (r : DeviceReq) : Except Stop State :=
  let asid := (s.queue q).asid
  let s := s.mapQueue q (fun x => { x with device := x.device.drop 1 })
  let taken (s : State) : State :=
    if r.graph then mapGraph s asid r.counter (fun g => { g with taken := true })
    else { s with launches := s.launches.map (fun l => if l.handle == r.counter && l.asid == asid then { l with taken := true } else l) }
  match chainCancelled s asid r.counter with
  | .ok (true, s) => cancelBelow s asid r.counter
  | .ok (false, s) => .ok (taken s)
  | .error (.trap _) => .ok (taken s)
  | .error e => .error e

/-- A launch or graph record that a ring entry names. -/
def startRecord (s : State) (q asid kind : Nat) (at_ : Word) : Except Stop State := do
  if kind = 1 then
    let (r, s) ← readLaunch s asid q at_
    match r with
    | none => .error (.trap (badrec 3 at_.toNat))
    | some (l, chain) =>
      let (ok, s) ← startCounter s hubCore asid chain
      .ok (if ok then { s with launches := s.launches ++ [{ l with taken := true, ring := true }] } else s)
  else
    let (r, s) ← readGraph s asid q at_
    match r with
    | none => .error (.trap (badrec 4 at_.toNat))
    | some (g, chain) =>
      let (ok, s) ← startCounter s hubCore asid chain
      .ok (if ok then { s with graphs := s.graphs ++ [{ g with taken := true, ring := true }] } else s)

/-- The next ring entry taken: QHEAD passes it. -/
def takeEntry (s : State) (q : Nat) : Except Stop State :=
  let x := s.queue q
  let va := x.base.toNat + 64 * (x.head.toNat % 2 ^ x.log2)
  match hubRead s x.asid va 64 with
  | .error (.trap t) => .ok (skipEntry (s.mapQueue q (fun y => { y with head := y.head + 1 })) q { t with val := word va })
  | .error e => .error e
  | .ok (v, s) =>
    let s := s.mapQueue q (fun y => { y with head := y.head + 1 })
    let kind := bytesAt v 0 1
    if 2 < kind ∨ bytesAt v 1 7 ≠ 0 ∨ bytesAt v 0x10 48 ≠ 0 then .ok (skipEntry s q (badrec 3 va))
    else if kind = 0 then .ok s
    else match startRecord s q x.asid kind (BitVec.ofNat 64 (bytesAt v 8 8)) with
      | .error (.trap t) => .ok (skipEntry s q t)
      | r => r

/-- QUEUE_ENTRY_TAKE: a request of the device list, or else the next ring entry, below DTAIL while draining. -/
def execQueueEntryTake (q : Nat) (s : State) : Outcome :=
  if !mayTake s q then .next s
  else
    let x := s.queue q
    match x.device with
    | r :: _ => orLater s (takeRequest s q r)
    | [] =>
      let last := if x.state == .draining then x.dtail else x.tail
      if x.head == last then .next s else orLater s (takeEntry s q)

end Sys2Proof.Machine
end

