-- ==== Sys2Proof/Machine/EvCtx.lean ====
section
/-!
DEFINITION. The life of a context: creation, binding, pre-emption, save, resume and destruction (R267 to R277).
-/

namespace Sys2Proof.Machine

/-! ### Creation, binding, destruction (R267, R269) -/

/-- Contexts the table has records for. -/
def contextCount : Nat := 4096

/-- ROOT is well formed: bits [47:20] only. -/
def rootOk (root : Word) : Bool := root.toNat % 2 ^ 20 == 0 && decide (root.toNat < 2 ^ 48)

/-- CONTEXT_CREATE: FREE passes to CREATED. `reserved` is what the record's reserved bytes hold. A malformed record is
refused, which Voxind reports to the host, and the context stays FREE. -/
def execContextCreate (asid : Nat) (root : BitVec 64) (prio : BitVec 2) (reserved : Nat) (s : State) : Outcome :=
  if (s.ctx? asid).isSome || contextCount ≤ asid then .next s
  else if reserved ≠ 0 || !rootOk root then .next { s with refusals := s.refusals ++ [asid] }
  else .next { s with
    freed := s.freed.filter (fun c => c.asid != asid),
    contexts := s.contexts ++ [{ asid := asid, prio := prio, root := root.toNat }],
    cores := s.cores.map (fun c => { c with stores := c.stores.filter (fun e => e.asid != asid) }) }

/-- CONTEXT_BIND: ID.FN and ID.ISPF are written, and CREATED passes to BOUND. -/
def execContextBind (asid : Nat) (fn : Option Nat) (s : State) : Outcome :=
  match s.ctx? asid with
  | none => .next s
  | some c =>
    if c.state == .created && (match fn with
        | some n => decide (n < 1024)
        | none => true) then
      .next (s.mapCtx asid (fun c => { c with fn := some fn, state := .bound }))
    else .next s

/-- A held write performed once no range tracks its line. -/
def releaseHeld (s : State) (w : HeldWrite) : State :=
  match s.guardWrite w.stack (128 * w.line) 128 with
  | .error (.protect o) => dropHeld s w o
  | .error _ => dropHeld s w none
  | .ok t => performHeld t w

/-- CONTEXT_DESTROY: the open ranges are discarded, so that writes held for them are performed, the pool's lines leave
it unspecified, and the sealed stores are released. Refused in every state but BOUND and CREATED. -/
def execContextDestroy (asid : Nat) (s : State) : Outcome :=
  match s.ctx? asid with
  | none => .next s
  | some c =>
    if !(c.state == .bound || c.state == .created) then .next s
    else
      let s := s.mapCtx asid (fun c => { c with ranges := Vector.replicate 16 none, pend := [], held := [] })
      let s := c.held.foldl releaseHeld s
      let lines := c.pool.flatMap (fun e => e.lines.flatMap (fun x => (List.range x.2).map (· + x.1)))
      let s := lines.foldl scrambleLine s
      .next { s with
        contexts := s.contexts.filter (fun x => x.asid != asid),
        freed := { c with state := .free, ranges := Vector.replicate 16 none, pend := [], pool := [], held := [] } ::
          s.freed.filter (fun x => x.asid != asid),
        tlb := s.tlb.filter (fun t => t.asid != asid),
        cores := s.cores.map (fun u => { u with stores := u.stores.filter (fun e => e.asid != asid) }) }

/-! ### Pre-emption (R269, R270, R272) -/

/-- A request that finds its harts Halted already: recorded at once in a SAVED context, and otherwise as the context next
reaches SAVED (notes/assumptions/52). -/
def lateRequest (s : State) (asid : Nat) (r : FaultRecord) : State :=
  if (s.ctx? asid).map (·.state) == some .saved then s.record asid r
  else s.mapCtx asid (fun c => { c with requests := c.requests ++ [r] })

/-- A pre-emption request: the named harts, all of a context's or one launch's, are Halted. The request is recorded when
the context reaches SAVED. -/
def State.preempt (s : State) (asid : Nat) (launch : Option Word) : State :=
  let named (h : Hart) : Bool := h.asid == asid && (match launch with
    | some l => h.launch == l
    | none => true)
  match firstByWhere (s.harts.filter (fun h => named h && h.resident)) with
  | none => match firstByWhere (s.harts.filter named) with
    | some h => lateRequest s asid (recordOf h causePreempt)
    | none => s
  | some h =>
    let s := s.haltAll named
    ((s.mapCtx asid (fun c => { c with hcause := causePreempt, resume := false,
                                       requests := c.requests ++ [recordOf h causePreempt] })).settleContext asid).quotaCheckFor asid

/-- PREEMPT. -/
def execPreempt (asid : Nat) (launch : Option Nat) (s : State) : Outcome := .next (s.preempt asid (launch.map word))

/-- The save of a Halted hart can be complete: its FIFO entries and bank requests are done, and no restoration of its
context is under way. -/
def maySave (s : State) (h : Hart) : Bool :=
  h.bank.isEmpty && s.cores.all (fun c => c.fifo.all (fun e => e.uid != h.uid)) &&
    (match s.ctx? h.asid with
     | some c => c.pend.isEmpty && c.state != .resuming
     | none => false)

/-- CONTEXT_SAVE_COMPLETE: the save of the Halted hart at a place is complete, and its position is free (R273, R274). The
save is charged to the context (R277). Its entries stay in the core's item-store table (DESIGN CHOICE,
notes/assumptions/121). -/
def execContextSaveComplete (at_ : Place) (s : State) : Outcome :=
  match s.focusBy (fun h => h.place == at_ && h.halted && !h.saved) with
  | none => .next s
  | some t =>
    if maySave t t.hart then
      .next (((t.mapHart (fun h => { h with saved := true })).owe ⟨t.hart.asid, t.hart.quotaHalt⟩).settleContext t.hart.asid)
    else .next s

/-! ### Resume (R271, R273 to R276, R321) -/

/-- A range of bytes meets a discarded segment of a window. -/
def meetsSegment (segs : BitVec 8) (off len : Nat) : Bool :=
  (List.range 8).any (fun i => segs.getLsbD i && decide (262144 * i < off + len ∧ off < 262144 * (i + 1)))

/-- The discarded segments of a grant read as zero, and the sealed stores that touch them are dropped. Zeros written over
a poisoned line leave it clean (R80). -/
def discardSegments (s : State) (gid core : Nat) (segs : BitVec 8) : State :=
  let base := windowLoc gid 0
  let gone (a : Nat) : Bool := decide (base ≤ a ∧ a < base + 2 ^ 27) && meetsSegment segs (a - base) 1
  { s with mem := s.mem.filter (fun c => !gone c.1), poison := s.poison.filter (fun l => !gone (128 * l)) }.mapCore core
    (fun u => { u with stores := u.stores.filter (fun e => !(e.gid == gid && meetsSegment segs e.off e.len)) })

/-- The discardable segments of a launch on a core are granted again. -/
def discardFor (asid : Nat) (s : State) (x : Word × Nat) : State :=
  let segs := discarded s asid x.1 x.2
  if segs = 0 then s
  else
    let s := (s.grants.filter (fun g => g.launch == x.1 && g.asid == asid && g.level == .core && g.at_ == x.2)).foldl
      (fun s g => discardSegments s g.gid x.2 segs) s
    s.mapHarts (fun h =>
      if h.asid == asid && h.launch == x.1 && h.place.core == x.2 then { h with cs := { h.cs with hstat := { h.cs.hstat with disc := true } } }
      else h)

/-- A hart that waits for a position takes the lowest free one of its slot. -/
def seatHart (s : State) : State :=
  match (freePositions s s.hart.place.core s.hart.place.slot).head? with
  | some r => s.mapHart (fun h => { h with place := ⟨h.place.core, h.place.slot, r⟩, saved := false })
  | none => s

/-- Bound operand tiles pinned again. -/
def repin (s : State) (t : Nat) : State :=
  match opTile s.hart t with
  | .bound r _ _ _ =>
    let (pins, s) := pinTile s t r
    s.mapHart (fun h => setPins h t pins)
  | _ => s

/-- A command that goes on after a halt occupies its engine from now on; what it took before has been charged (R285). -/
def EngCmd.goOn (c : EngCmd) (now : Nat) : EngCmd := if c.running && !c.charged then { c with state := .running now } else c

/-- The hart in focus runs again: its restore is charged (R275, R277), and the translations its streams held ahead are
walked anew (R122). -/
def wakeHart (s : State) : State :=
  let now := s.clock
  let s := s.owe ⟨s.hart.asid, s.hart.quotaHalt⟩
  let s := s.mapHart (fun h => { h with
    life := h.life.resume, quotaHalt := false,
    q := h.q.map (fun (x : Option StreamReg) => x.map (fun (y : StreamReg) => { y with ahead := [] })),
    sc := { h.sc with readyAt := now + 1, fetched := [] },
    ve := { h.ve with readyAt := now + 1, fetched := [], loops := [] },
    cs := { h.cs with since := now },
    tl := { h.tl with records := [], lat := 96, step := 8, queue := h.tl.queue.map (·.goOn now) } })
  joinArbiters ((List.range 8).foldl repin s) s.hart.place s.hart.queue

/-- The packets captured for the bindings of a context's harts delivered, as far as they can be taken (R321). -/
def drainHarts : List Nat → State → Except Stop State
  | [], s => .ok s
  | uid :: rest, s =>
    match s.focusBy (fun h => h.uid == uid) with
    | some t => do
      let t ← (List.range 8).foldlM drainAll t
      drainHarts rest t
    | none => drainHarts rest s

/-- The segments that the halt of a context's harts released can be granted again (R276). -/
def regrantFits (s : State) (asid : Nat) : Bool :=
  let mine := s.grants.filter (fun g => g.asid == asid && decide (0 < releasedBytes s g))
  mine.all (fun g => decide (((grantsAt s .core g.at_).map
    (fun x => if x.asid == asid then x.size else x.size - releasedBytes s x)).sum ≤ Level.core.capacity))

/-- Every hart of a context has a position: the context runs. -/
def restoreContext (s : State) (asid : Nat) : Except Stop State :=
  let hs := s.hartsOf asid
  let s := ((hs.map (fun h => (h.launch, h.place.core))).eraseDups).foldl (discardFor asid) s
  let s := s.onHarts (fun h => h.asid == asid && h.halted) wakeHart hs.length
  drainHarts (hs.map (·.uid)) (s.mapCtx asid (fun c => { c with state := .running, resume := false }))

/-- Harts given positions, one after another in the order of their numbers. -/
def seatHarts : List Nat → State → State
  | [], s => s
  | uid :: rest, s =>
    seatHarts rest (match s.focusBy (fun h => h.uid == uid) with
      | some t => seatHart t
      | none => s)

/-- A queue that is SUSPENDED holds harts of the context pre-empted (R279, R283). -/
def heldSuspended (s : State) (asid : Nat) : Bool := (s.hartsOf asid).any (fun h => h.halted && (s.queue h.queue).state == .suspended)

/-- The halted harts of a context that can be seated now have positions. -/
def seatAll (s : State) (asid : Nat) : State := seatHarts (((s.hartsOf asid).filter (·.saved)).map (·.uid)) s

/-- Nothing keeps a context from being resumed: its quota is not used up, and no SUSPENDED queue holds harts of it (R207,
R277, R283). -/
def mayResume (s : State) (asid : Nat) : Bool := !s.exhausted asid && !heldSuspended s asid

/-- Every hart of the context has a position, its grants are whole again, and nothing holds its harts. -/
def mayRun (s : State) (asid : Nat) : Bool :=
  (s.hartsOf asid).all (fun h => !h.saved) && regrantFits s asid && mayResume s asid

/-- A restore under way: harts take positions as they come free, and with the last the context runs. -/
def continueResume (s : State) (asid : Nat) : Except Stop State :=
  let s := seatAll s asid
  if mayRun s asid then restoreContext s asid else .ok s

/-- The halted harts of a RUNNING context are all saved and find positions, and nothing holds them. -/
def partReady (s : State) (asid : Nat) : Bool :=
  let hs := (s.hartsOf asid).filter Hart.halted
  !hs.isEmpty && hs.all (·.saved) && mayRun (seatAll s asid) asid

/-- A restore under way can go on: a hart that waits finds a free position, or nothing is left to wait for (R269). So can a
resume that a RUNNING context keeps. -/
def resumeReady (s : State) (c : Context) : Bool :=
  match c.state with
  | .resuming => (s.hartsOf c.asid).any (fun h => h.saved && !(freePositions s h.place.core h.place.slot).isEmpty) || mayRun s c.asid
  | .running => c.resume && partReady s c.asid
  | _ => false

/-- Voxind resumes a context: a SAVED one is restored; one that is HALTING keeps the resume until it is SAVED; in a
RUNNING one the harts of a launch that was pre-empted alone are restored, once all are saved and find positions: the
resume is kept until then (notes/assumptions/41). While its quota is used up, or a SUSPENDED queue holds harts of it, the
resume is refused (R277, R283). In RESUMING the restore goes on. -/
def State.resumeContext (s : State) (asid : Nat) : Except Stop State :=
  match s.ctx? asid with
  | none => .ok s
  | some c =>
    match c.state with
    | .saved =>
      if mayResume s asid then continueResume (s.mapCtx asid (fun c => { c with state := .resuming })) asid else .ok s
    | .halting => .ok (if s.exhausted asid then s else s.mapCtx asid (fun c => { c with resume := true }))
    | .resuming => continueResume s asid
    | .running =>
      if partReady s asid then restoreContext (seatAll s asid) asid
      else .ok (if mayResume s asid && (s.hartsOf asid).any Hart.halted then s.mapCtx asid (fun c => { c with resume := true }) else s)
    | _ => .ok s

/-- CONTEXT_RESUME. -/
def execContextResume (asid : Nat) (s : State) : Outcome := orLater s (s.resumeContext asid)

end Sys2Proof.Machine
end

