-- ==== Sys2Proof/Machine/EvFabric.lean ====
section
/-!
DEFINITION. The events of links, route sets and groups (R300 to R304, R306 to R309).
-/

namespace Sys2Proof.Machine

/-! ### Link states (R307) -/

def State.link (s : State) (n : Nat) : Link := vget s.links n {}

/-- The link carries traffic. -/
def LinkState.carries (x : LinkState) : Bool := x == .up || x == .degraded

/-- Ranks at the other end of a binding's stream. -/
def FabReg.others (f : FabReg) (nrank : Nat) : List Nat :=
  if f.pattern == .a2a then List.range nrank else f.sources ++ f.targets

/-- The links of the route set to a package. -/
def routeTo (s : State) (pkg : Nat) : List Nat := ((s.routes.find? (·.1 == pkg)).map (·.2)).getD []

/-- The package that hosts a rank of a group, if it is not this one: entry r of the array at MAP. -/
def remoteRank (s : State) (g : Group) (r : Nat) : Option Nat :=
  if 64 ≤ r || g.locals.getLsbD r then none else some (memRead s.mem (g.mapAt + 2 * r) 2)

/-- A link lies in a route set of one of the hart's bindings. -/
def usesLink (s : State) (h : Hart) (n : Nat) : Bool :=
  (h.f.toList.filterMap id).any (fun f =>
    let g := s.group f.group
    (f.others g.nrank).any (fun r => match remoteRank s g r with
      | some p => (routeTo s p).contains n
      | none => false))

/-- LINKDOWN becomes pending at every hart whose bindings use a link (R76, R307). -/
def raiseLinkdown (s : State) (n : Nat) : State :=
  let t : Trap := { code := causeLinkdown, val := word n }
  s.mapHarts (fun h => if usesLink s h n then raiseIrq s.clock h t else h)

/-- A group has a member package behind a route. -/
def groupBehind (s : State) (pkg : Nat) (g : Group) : Bool := (List.range g.nrank).any (fun r => remoteRank s g r == some pkg)

/-- Groups behind a route set without a link that carries traffic are aborted (R304, R308). -/
def routeLoss (s : State) (pkg : Nat) : State :=
  if (routeTo s pkg).any (fun n => (s.link n).state.carries) then s
  else ((s.groups.filter (groupBehind s pkg)).map (·.id)).foldl (fun s id => s.abortGroup id) s

/-- A link passes to a state, with the lanes it then has in service; the PF is told (R309, R326). Where it carries
traffic no longer, LINKDOWN is raised, and routes may be lost. -/
def setLink (s : State) (n : Nat) (x : LinkState) (lanes : Nat) : State :=
  let old := s.link n
  let trains := if x == .train && old.state != .train then old.trains + 1 else old.trains
  let s := { s with links := vset s.links n { old with state := x, lanes := lanes, trains := trains } }
  let s := if old.state != x then s.raise none 2 else s
  if old.state.carries && !x.carries then
    ((s.routes.filter (fun r => r.2.contains n)).map (·.1)).foldl routeLoss (raiseLinkdown s n)
  else s

/-- An event of a link in one of some states. -/
def linkEvent (s : State) (n : Nat) (p : LinkState → Bool) (f : State → State) : Outcome :=
  .next (if decide (n < 24) && p (s.link n).state then f s else s)

/-- FLIT_RETRY: flits are sent again; one that has failed 16 times in a row sends the link to TRAIN (R306, R307, R309). -/
def execFlitRetry (link flits : Nat) (failed : Bool) (s : State) : Outcome :=
  linkEvent s link (fun x => x.carries || x == .drain) (fun s =>
    let l := s.link link
    let s := { s with links := vset s.links link { l with retry := BitVec.ofNat 32 (min (2 ^ 32 - 1) (l.retry.toNat + flits)) } }
    if failed && l.state.carries then setLink s link .train 0 else s)

/-- LINK_ENABLE. -/
def execLinkEnable (link : Nat) (s : State) : Outcome := linkEvent s link (· == .down) (fun s => setLink s link .train 0)

/-- LINK_TRAIN_DONE: the lanes that pass decide (R307). -/
def execLinkTrainDone (link passing : Nat) (s : State) : Outcome :=
  linkEvent s link (fun x => x == .train && decide (passing ≤ 8)) (fun s =>
    if passing = 8 then setLink s link .up 8
    else if 4 ≤ passing then setLink s link .degraded 4
    else if 2 ≤ passing then setLink s link .degraded 2
    else setLink s link .down 0)

/-- LINK_TRAIN_TIMEOUT. -/
def execLinkTrainTimeout (link : Nat) (s : State) : Outcome := linkEvent s link (· == .train) (fun s => setLink s link .down 0)

/-- LINK_RETRAIN. -/
def execLinkRetrain (link : Nat) (s : State) : Outcome := linkEvent s link (· == .degraded) (fun s => setLink s link .train 0)

/-- LANE_LOSS. -/
def execLaneLoss (link : Nat) (s : State) : Outcome := linkEvent s link LinkState.carries (fun s => setLink s link .train 0)

/-- LOSS_OF_SIGNAL. -/
def execLossOfSignal (link : Nat) (s : State) : Outcome := linkEvent s link (fun _ => true) (fun s => setLink s link .down 0)

/-- LINK_DRAIN: no new packet is taken. -/
def execLinkDrain (link : Nat) (s : State) : Outcome :=
  linkEvent s link LinkState.carries (fun s => setLink s link .drain (s.link link).lanes)

/-- LINK_DRAIN_DONE. -/
def execLinkDrainDone (link : Nat) (s : State) : Outcome := linkEvent s link (· == .drain) (fun s => setLink s link .down 0)

/-- ROUTE_TABLE_WRITE: Voxind writes the route set of a package (R308). -/
def execRouteTableWrite (pkg : Nat) (links : List Nat) (s : State) : Outcome :=
  let l := (links.filter (fun n => decide (n < 24))).eraseDups
  .next (routeLoss { s with routes := (pkg, l) :: s.routes.filter (fun r => r.1 != pkg) } pkg)

/-! ### Groups (R300, R301, R303, R304) -/

/-- Ids of the group table. -/
def groupCount : Nat := 65536

/-- The two-byte package ids that Voxind puts at an address for MAP. -/
def writeMap (s : State) (at_ : Nat) (members : List Nat) : State :=
  (members.take 64).zipIdx.foldl (fun s (x : Nat × Nat) =>
    let a := at_ + 2 * x.2
    if physExists s.product a then s.store (lineOf a) (memWrite s.mem a 2 x.1) else s) s

/-- GROUP_OPEN: a FREE id is opened; the ids of its members' packages stand at MAP. -/
def execGroupOpen (id nrank asid : Nat) (locals : BitVec 64) (mapAt : BitVec 64) (members : List Nat) (s : State) : Outcome :=
  .next (if decide (id < groupCount ∧ 1 ≤ nrank ∧ nrank ≤ 64) && (s.group id).state == .free then
    let at_ := (mapAt &&& 0x00FFFFFFFFFFFFF0).toNat
    (writeMap s at_ members).mapGroup id (fun g => { g with
      nrank := nrank, asid := asid % 65536, state := .open_, locals := locals, joined := 0, mapAt := at_, drops := 0, held := [] })
  else s)

/-- JOIN_NOTICE: the notice of a rank of another package. -/
def execJoinNotice (id gen rank : Nat) (s : State) : Outcome :=
  let g := s.group id
  if !decide (id < groupCount ∧ rank < 64) then .next s
  else if gen != g.gen.toNat || g.state == .free || g.state == .draining || g.state == .aborted then .next (dropPacket s id 1)
  else if g.locals.getLsbD rank || decide (g.nrank ≤ rank) || !(g.state == .open_ || g.state == .active) then .next s
  else match settleJoin (s.mapGroup id (fun g => { g with joined := g.joined ||| (1#64 <<< rank) })) id with
    | .ok s => .next s
    | .error (.fault f) => .fault f
    | .error _ => .next s

/-- A rank of another package has left its group, which clears its JOINED bit here too (R301; notes/assumptions/74). -/
def leaveNotice (s : State) (id gen rank : Nat) : State :=
  let g := s.group id
  if decide (id < groupCount ∧ rank < 64) && gen == g.gen.toNat && !g.locals.getLsbD rank then
    s.mapGroup id (fun g => { g with joined := g.joined &&& ~~~(1#64 <<< rank) })
  else s

/-- GROUP_ABORT: Voxind or the host driver aborts a group. -/
def execGroupAbort (id : Nat) (s : State) : Outcome := .next (s.abortGroup id)

/-- GROUP_ABORT_ARRIVAL: the abort of another package takes effect; one of another generation is dropped. -/
def execGroupAbortArrival (id gen : Nat) (s : State) : Outcome :=
  let g := s.group id
  if !decide (id < groupCount) then .next s
  else if gen != g.gen.toNat || g.state == .free || g.state == .draining || g.state == .aborted then .next (dropPacket s id 1)
  else .next (s.abortGroup id)

/-- GROUP_FREE: the generation moves on, and packets that were held are of an old one. -/
def execGroupFree (id : Nat) (s : State) : Outcome :=
  let g := s.group id
  if (g.state == .active && g.joined == 0) || g.state == .aborted then
    .next (dropPacket (s.mapGroup id (fun g => { g with state := .draining, gen := g.gen + 1, held := [] })) id g.held.length)
  else .next s

/-- DRAIN_MARKER_RETURN: every link has returned its marker, and no packet of the id is left in the package. -/
def execDrainMarkerReturn (id : Nat) (s : State) : Outcome :=
  .next (if (s.group id).state == .draining && s.transit.all (fun p => p.group != id) then
    s.mapGroup id (fun g => { g with state := .free })
  else s)

end Sys2Proof.Machine
end

