-- ==== Sys2Proof/Machine/EvPage.lean ====
section
/-!
DEFINITION. Voxind's page tables, shootdowns and sweeps, the victim queues, the migration of pages, and the lists that peer
packages send (R223, R226 to R233, R236).
-/

namespace Sys2Proof.Machine

/-! ### Entries and frames -/

/-- The offset bits of the level whose entry for an address is at a location, on the walk from a table; none: the walk
does not come there. -/
def entryLevel (s : State) (va at_ : Nat) : List (Nat × Nat) → Nat → Option Nat
  | [], _ => none
  | (lo, n) :: rest, table =>
    let x := table + 8 * (va / 2 ^ lo % 2 ^ n)
    let e := BitVec.ofNat 64 (memRead s.mem x 8)
    if x = at_ then some lo
    else if !physExists s.product x || !entryV e || entryLeaf e then none
    else entryLevel s va at_ rest (entryField e 8 40 * 2 ^ 8)

/-- A page of an address space: its first address, its leaf entry with its location, and its offset bits. -/
structure Leaf where
  asid : Nat
  va   : Nat
  at_  : Nat
  bits : Nat
  e    : Word
  deriving DecidableEq, Repr, Inhabited

/-- The valid, well-formed leaves of a table that covers addresses from `va` on. -/
def leavesFrom (s : State) (asid : Nat) : List (Nat × Nat) → Nat → Nat → List Leaf
  | [], _, _ => []
  | (lo, n) :: rest, table, va =>
    (List.range (2 ^ n)).flatMap (fun i =>
      let at_ := table + 8 * i
      let e := BitVec.ofNat 64 (memRead s.mem at_ 8)
      if !physExists s.product at_ || !entryV e then []
      else if entryLeaf e then
        (if lo != 39 && leafWf s.product lo e then [⟨asid, va + i * 2 ^ lo, at_, lo, e⟩] else [])
      else leavesFrom s asid rest (entryField e 8 40 * 2 ^ 8) (va + i * 2 ^ lo))

/-- The pages of a context. -/
def contextLeaves (s : State) (c : Context) : List Leaf := leavesFrom s c.asid walkLevels c.root 0

/-- The pages of every context. -/
def allLeaves (s : State) : List Leaf := s.contexts.flatMap (contextLeaves s)

/-- The pages that an entry of the level with `bits` offset bits stands for: its own, or those of the tables below it. -/
def leavesUnder (s : State) (asid va bits at_ : Nat) (e : Word) : List Leaf :=
  let base := va / 2 ^ bits * 2 ^ bits
  if !entryV e then []
  else if entryLeaf e then (if bits != 39 && leafWf s.product bits e then [⟨asid, base, at_, bits, e⟩] else [])
  else leavesFrom s asid (walkLevels.filter (fun x => decide (x.1 < bits))) (entryField e 8 40 * 2 ^ 8) base

/-- The page maps a byte of a range of frames of this package. -/
def Leaf.maps (l : Leaf) (frame len : Nat) : Bool :=
  leafHK l.e != 2 && decide (leafFrame l.e < frame + len ∧ frame < leafFrame l.e + 2 ^ l.bits)

/-- The reachable tables below a table, as (first byte, bytes). -/
def tablesFrom (s : State) : List (Nat × Nat) → Nat → List (Nat × Nat)
  | [], _ => []
  | (_, n) :: rest, table =>
    (table, 8 * 2 ^ n) :: (List.range (2 ^ n)).flatMap (fun i =>
      let e := BitVec.ofNat 64 (memRead s.mem (table + 8 * i) 8)
      if !physExists s.product (table + 8 * i) || !entryV e || entryLeaf e then []
      else tablesFrom s rest (entryField e 8 40 * 2 ^ 8))

/-- A range of bytes meets an interval (first byte, bytes). -/
def meetsBytes (a n : Nat) (x : Nat × Nat) : Bool := decide (a < x.1 + x.2 ∧ x.1 < a + n)

/-- A range holds bytes of a table that a context's walks reach. -/
def holdsTable (s : State) (frame len : Nat) : Bool :=
  s.contexts.any (fun c => (tablesFrom s walkLevels c.root).any (meetsBytes frame len))

/-- The context table and the group table, where their bases have been written (R267, R300, R325). -/
def deviceTables (s : State) : List (Nat × Nat) :=
  [(s.hub.ctxBase.toNat, 2 ^ 20), (s.hub.grpBase.toNat, 2 ^ 22)].filter (fun x => x.1 != 0)

/-- A range holds bytes of the device's own tables, which no user mapping reaches (R324). -/
def holdsDeviceTable (s : State) (frame len : Nat) : Bool := (deviceTables s).any (meetsBytes frame len)

/-- A frame is free: no page is mapped to it, no table stands in it, no move is bringing a page to it, and no translation to
it is left from before a shootdown that has not completed (R226). -/
def frameFree (s : State) (frame len : Nat) : Bool :=
  (allLeaves s).all (fun l => !l.maps frame len) && !holdsTable s frame len && !holdsDeviceTable s frame len &&
    s.moves.all (fun m => !meetsBytes frame len (leafFrame m.leaf, 2 ^ m.bits)) &&
    s.olds.all (fun o => !meetsBytes frame len (128 * o.line, 2 ^ o.bits))

/-- Lines of a frame, as an interval. -/
def frameLines (frame bits : Nat) : Nat × Nat := (lineOf frame, 2 ^ bits / 128)

/-- A line lies in an interval. -/
def inFrame (x : Nat × Nat) (line : Nat) : Bool := decide (x.1 ≤ line ∧ line < x.1 + x.2)

/-- The copies of a frame's lines dropped from every cache. -/
def dropCopies (s : State) (x : Nat × Nat) : State :=
  { s with l1 := s.l1.filter (fun y => !inFrame x y.line), l2 := s.l2.filter (fun y => !inFrame x y.line) }

/-- A frame zeroed: its bytes, the copies of its lines and their poison go. -/
def zeroFrame (s : State) (frame bits : Nat) : State :=
  let x := frameLines frame bits
  let s := dropCopies s x
  { s with mem := s.mem.filter (fun c => !inFrame x (lineOf c.1)), poison := s.poison.filter (fun l => !inFrame x l),
           mended := if s.lost.isEmpty then s.mended
             else s.mended ++ ((List.range' x.1 x.2).filter (fun l => inLines s.lost l && !s.mended.contains l)) }

/-- Moves of the pages of a list are abandoned (R232). -/
def abandonMoves (s : State) (l : List Leaf) : State :=
  { s with moves := s.moves.filter (fun m => l.all (fun x => x.at_ != m.at_)) }

/-- The pages that a valid entry stands for, remembered until their shootdown (R226). -/
def retirePages (s : State) (l : List Leaf) : State :=
  { s with olds := s.olds ++ l.map (fun x => ⟨x.asid, x.va, x.bits, lineOf (leafLoc x.bits x.e x.va)⟩) }

/-- A range comes to track the lines of a page that is mapped into its extent: at the BEGIN points of the levels that are
open their contents count as zero (R236). -/
def trackPage (s : State) (l : Leaf) : State :=
  if leafHK l.e == 2 then s else
  (List.range 16).foldl (fun s r =>
    match (s.ctx? l.asid).bind (fun c => c.range r) with
    | none => s
    | some x =>
      let lo := max l.va x.base
      let hi := min (l.va + 2 ^ l.bits) (x.base + x.len)
      if lo < hi then
        let new := untracked s (lineOf (leafLoc l.bits l.e lo), (hi - lo) / 128)
        (s.barMoves new).mapCtx l.asid (fun c => c.setRange r
          (some { x with tracked := x.tracked ++ new, zero := x.zero ++ new.map (fun y => (x.depth, y)) }))
      else s) s

/-- The frames of the pages that a list maps zeroed where no other page is mapped to them. -/
def zeroFresh (s : State) (l : List Leaf) : State :=
  l.foldl (fun s x =>
    if leafHK x.e != 2 && (allLeaves s).all (fun y => !y.maps (leafFrame x.e) (2 ^ x.bits)) then zeroFrame s (leafFrame x.e) x.bits
    else s) s

/-! ### Free frames (R229) -/

/-- 64 KiB frames of a stack. -/
def stackFrames : Nat := 64 * (columnBytes / 65536)

/-- Free 64 KiB frames of a stack. -/
def freeFrames (s : State) (stack : Nat) : Nat :=
  let lo := stack * stackFrames
  let used (x : Nat × Nat) : List Nat := (List.range (x.2 / 65536 + 1)).map (· + x.1 / 65536)
  let pages := ((allLeaves s).filter (fun l => leafHK l.e == 0)).flatMap (fun l =>
    (List.range (2 ^ (l.bits - 16))).map (· + leafFrame l.e / 65536))
  let tables := (s.contexts.flatMap (fun c => tablesFrom s walkLevels c.root)).flatMap (fun x => used (x.1, x.2 - 1))
  stackFrames - ((pages ++ tables).eraseDups.filter (fun f => decide (lo ≤ f ∧ f < lo + stackFrames))).length

/-- A stack demotes pages: its free frames have fallen below 1/64, and have not reached 1/32 since. -/
def demotes (s : State) (stack : Nat) : Bool :=
  let n := freeFrames s stack
  decide (n * 64 < stackFrames) || (s.demoting.contains stack && decide (n * 32 < stackFrames))

/-- The stacks that demote, after a change of the free frames. -/
def settleDemotion (s : State) : State :=
  { s with demoting := (List.range (s.product.cores / 64)).filter (demotes s) }

/-! ### Voxind's changes of a table (R222, R226, R229, R232, R236) -/

/-- The bytes and the poison of a frame copied to another. -/
def copyFrame (s : State) (from_ to_ bits : Nat) : State :=
  let x := frameLines from_ bits
  let y := frameLines to_ bits
  let bytes := s.mem.filter (fun c => inFrame x (lineOf c.1))
  let bad := (if s.lost.isEmpty then s.poison.filter (inFrame x) else (List.range' x.1 x.2).filter s.poisoned).map (fun l => l - x.1 + y.1)
  let s := zeroFrame s to_ bits
  { s with mem := bytes.foldl (fun m c => memSet m (c.1 - from_ + to_) c.2) s.mem, poison := bad ++ s.poison }

/-- The column that the affinity hint of its kernel gives a unit, or else the core's own. -/
def hintedHome (s : State) (core : Nat) (h : Hart) : Nat :=
  ((s.launches.find? (fun l => l.asid == h.asid && l.handle == h.launch)).bind (fun l => affinityCore s l h.unitNo)).getD core

/-- A page that Voxind maps on a fault is homed in the column of the core whose access faulted, or where the affinity hint of
the kernel places the unit that faulted: one of the context's on the core (R229). -/
def faultHome (s : State) (asid core : Nat) (leaf : Word) : Bool :=
  let hs := s.harts.filter (fun h => h.asid == asid && h.place.core == core)
  leafHK leaf == 0 && (if hs.isEmpty then leafHome leaf == core else hs.any (fun h => leafHome leaf == hintedHome s core h))

/-- What Voxind does for the pages an entry comes to stand for: the frame of a page that it moves takes the bytes of the
page's earlier frame, and every other frame that no page is mapped to is zeroed before it is mapped (R226, R232). -/
def prepareFrames (s : State) (l : List Leaf) (leaf : Bool) : MapHow → State
  | .copyOf frame =>
    if leaf then l.foldl (fun s x => if leafHK x.e == 2 then s else
      let t := copyFrame s frame (leafFrame x.e) x.bits
      { t with barriers := t.barriers.map (fun b =>
          if frame ≤ b.loc ∧ b.loc < frame + 2 ^ x.bits then { b with loc := b.loc - frame + leafFrame x.e } else b) }) s
    else zeroFresh s l
  | _ => zeroFresh s l

/-- An entry of the table of a context is written: the pages it stood for are remembered for the shootdown, their moves
are abandoned, and open ranges track the pages it comes to stand for. -/
def writeEntry (s : State) (asid va bits at_ : Nat) (e : Word) : State :=
  let old := leavesUnder s asid va bits at_ (BitVec.ofNat 64 (memRead s.mem at_ 8))
  let s := abandonMoves (retirePages s old) old
  let s := { s with mem := memWrite s.mem at_ 8 e.toNat, pageLogs := s.pageLogs.filter (fun x => x.at_ != at_) }
  (leavesUnder s asid va bits at_ e).foldl trackPage s

/-- PAGE_MAP: an entry is written. The event also writes the entries that point to tables (notes/assumptions/42). One through
which a page would reach the device's own tables is not written (R324). -/
def execPageMap (asid va : Nat) (entry leaf : BitVec 64) (how : MapHow) (s : State) : Outcome :=
  let at_ := entry.toNat
  if !physExists s.product at_ || at_ % 8 != 0 then .next s
  else match (s.ctx? asid).bind (fun c => entryLevel s va at_ walkLevels c.root) with
    | none => .next { s with mem := memWrite s.mem at_ 8 leaf.toNat }
    | some bits =>
      let placed := match how with
        | .onFault core => faultHome s asid core leaf
        | _ => true
      let new := leavesUnder s asid va bits at_ leaf
      if !placed || new.any (fun l => leafHK l.e != 2 && holdsDeviceTable s (leafFrame l.e) (2 ^ l.bits)) then .next s
      else .next (settleDemotion (writeEntry (prepareFrames s new (entryLeaf leaf) how) asid va bits at_ leaf))

/-- PAGE_UNMAP: a valid entry becomes invalid. -/
def execPageUnmap (asid va : Nat) (entry : BitVec 64) (s : State) : Outcome :=
  let at_ := entry.toNat
  match (s.ctx? asid).bind (fun c => entryLevel s va at_ walkLevels c.root) with
  | none => .next s
  | some bits => .next (settleDemotion (writeEntry s asid va bits at_ 0))

/-- SHOOTDOWN: Voxind issues a shootdown. -/
def execShootdown (asid va len : Nat) (s : State) : Outcome := .next { s with shoots := s.shoots ++ [⟨asid, va, len⟩] }

/-- An interval of lines less another. -/
def cutLines (x y : Nat × Nat) : List (Nat × Nat) :=
  let a := min x.2 (y.1 - x.1)
  let e := max x.1 (y.1 + y.2)
  let tail := x.1 + x.2 - e
  (if a = 0 then [] else [(x.1, a)]) ++ (if tail = 0 then [] else [(e, tail)])

/-- Lines of a page that was mapped, less those that a page of the context still maps into a range. -/
def linesGone (s : State) (c : Context) (y : SnapRange) (x : Nat × Nat) : List (Nat × Nat) :=
  (contextLeaves s c).foldl (fun acc l =>
    let lo := max l.va y.base
    let hi := min (l.va + 2 ^ l.bits) (y.base + y.len)
    if leafHK l.e != 2 && decide (lo < hi) then
      acc.flatMap (fun z => cutLines z (lineOf (leafLoc l.bits l.e lo), (hi - lo) / 128))
    else acc) [x]

/-- Lines of a page that is mapped no longer leave the ranges of its context, with their shadows (notes/assumptions/43). -/
def untrackPage (s : State) (asid : Nat) (x : Nat × Nat) : State :=
  s.mapCtx asid (fun c => { c with ranges := c.ranges.map (fun r => r.map (fun (y : SnapRange) =>
    let gone := linesGone s c y x
    { y with tracked := gone.foldl (fun ts g => ts.flatMap (fun t => cutLines t g)) y.tracked,
             shadows := y.shadows.filter (fun z => !inLines gone z.line) })) })

/-- An address range meets a page. -/
def meetsPage (va len base bits : Nat) : Bool := decide (va < base + 2 ^ bits ∧ base < va + len)

/-- Lines of an old page. -/
def OldPage.lines (o : OldPage) : Nat × Nat := (o.line, 2 ^ o.bits / 128)

/-- SHOOTDOWN_COMPLETE: the old translations are gone, and every access made through them has been performed: it comes
only when no write to an old page is held (R226, R238). -/
def execShootdownComplete (k : Nat) (s : State) : Outcome :=
  match s.shoots[k]? with
  | none => .next s
  | some x =>
    let hit (o : OldPage) : Bool := o.asid == x.asid && meetsPage x.va x.len o.base o.bits
    let gone := s.olds.filter hit
    let t := gone.foldl (fun s o => s.l1Flush (fun y => inFrame o.lines y.line)) s
    if t.contexts.any (fun c => c.held.any (fun w => gone.any (fun o => inFrame o.lines w.line))) then .next t
    else
      let t := { t with shoots := t.shoots.eraseIdx k, olds := t.olds.filter (fun o => !hit o) }
      let t := dropTranslations t (fun y => y.asid == x.asid && meetsPage x.va x.len y.base y.bits)
      .next (gone.foldl (fun s o => untrackPage s o.asid o.lines) t)

/-! ### Sweeps and the victim queue (R227, R228) -/

/-- PAGE_SWEEP: A, UO and GH of each leaf entry are cleared together (R227, R232), and the misses counted between two sweeps
begin anew. -/
def execPageSweep (entries : List Nat) (s : State) : Outcome :=
  let n := s.sweeps + 1
  .next ({ (entries.foldl (fun s at_ =>
    let e := BitVec.ofNat 64 (memRead s.mem at_ 8)
    if physExists s.product at_ && entryV e && entryLeaf e then
      { (markLeaf s at_ 0 0x1A0) with
        swept := (at_, n) :: s.swept.filter (·.1 != at_),
        pageLogs := s.pageLogs.map (fun x => if x.at_ == at_ then { x with misses := [] } else x) }
    else s) s) with sweeps := n })

/-- The last sweep of an entry; 0: none yet. -/
def lastSweep (s : State) (at_ : Nat) : Nat := ((s.swept.find? (·.1 == at_)).map (·.2)).getD 0

/-- The class of a near page in the victim queue. -/
def victimClass (e : Word) : Nat :=
  if leafUO e then 1 else if leafGH e then 4 else if leafA e then 3 else 2

/-- Lines of a page that something holds in place: a pin, a snapshot, a pool or an enabled format range. -/
def heldInPlace (s : State) (frame bits : Nat) : Bool :=
  let x := frameLines frame bits
  let meets (y : Nat × Nat) : Bool := decide (x.1 < y.1 + y.2 ∧ y.1 < x.1 + x.2)
  s.harts.any (fun h => h.tl.op.toList.any (fun t => match t with
    | .bound _ _ pins _ => pins.any (fun p => inFrame x p.line)
    | _ => false)) ||
  s.contexts.any (fun c => c.ranges.toList.any (fun r => match r with
    | some y => y.tracked.any meets
    | none => false) || c.pool.any (fun e => e.lines.any meets)) ||
  s.formats.any (fun r => match formatRange r.2.2 with
    | some f => decide (f.base < frame + 2 ^ bits ∧ frame < f.limit)
    | none => false)

/-- Other pages that map bytes of the page's frame. -/
def aliases (s : State) (l : Leaf) : List Leaf := (allLeaves s).filter (fun x => x.at_ != l.at_ && x.maps (leafFrame l.e) (2 ^ l.bits))

/-- The hardware may migrate a page (R229). A frame that a larger page also maps is not moved (notes/assumptions/29). -/
def mayMigrate (s : State) (l : Leaf) : Bool :=
  !leafPIN l.e && l.bits != 30 && leafHK l.e != 2 && !heldInPlace s (leafFrame l.e) l.bits &&
    (aliases s l).all (fun x => decide (x.bits ≤ l.bits) && !leafPIN x.e)

/-- A comes before B in the victim queue: by class, then by the older sweep, then by the lower location. -/
def victimBefore (s : State) (a b : Leaf) : Bool :=
  let x := victimClass a.e
  let y := victimClass b.e
  decide (x < y ∨ (x = y ∧ (lastSweep s a.at_ < lastSweep s b.at_ ∨ (lastSweep s a.at_ = lastSweep s b.at_ ∧ a.at_ ≤ b.at_))))

/-- The victim queue of a stack: the near pages homed in its columns, head first (R228). -/
def victimQueue (s : State) (stack : Nat) : List Leaf :=
  ((allLeaves s).filter (fun l => leafHK l.e == 0 && leafHome l.e / 64 == stack)).mergeSort (victimBefore s)

/-- The page that is taken next: barred pages are skipped and keep their places. -/
def nextVictim (s : State) (stack : Nat) : Option Leaf := (victimQueue s stack).find? (mayMigrate s)

/-! ### What makes a page move (R229) -/

/-- An access of a core to an address misses the L2: which accesses do is a matter of timing (notes/assumptions/29). -/
def l2Miss (s : State) (core asid va : Nat) : State :=
  notePage s core asid va true

/-- A trigger of R229 holds for a move of a page to the home of a leaf. -/
def moveTrigger (s : State) (l : Leaf) (new : Word) : Bool :=
  let x := pageLog s l.at_
  let n (c : Nat) : Nat := x.recent.count c
  match leafHK l.e, leafHK new with
  | 0, 0 => leafHome l.e != leafHome new && x.recent.length == 64 && decide (48 ≤ n (leafHome new))
  | 1, 0 => !leafUO l.e && decide (32 ≤ x.misses.length) && decide (x.misses.all (fun c =>
      decide (x.misses.count c ≤ x.misses.count (leafHome new))))
  | 0, 1 => demotes s (leafHome l.e / 64) && nextVictim s (leafHome l.e / 64) == some l
  | _, _ => false

/-! ### Migration (R229 to R231) -/

/-- The stack whose engine makes a move: the one of the column it leaves or enters. -/
def moveStack (from_ to_ : Word) : Nat := (if leafHK from_ == 0 then leafHome from_ else leafHome to_) / 64

/-- A leaf with the HOME and FRAME of another, every other field kept. -/
def rehome (e new : Word) : Word :=
  let m : Word := 0xFFFFFFFFFFFF0000
  (e &&& ~~~m) ||| (new &&& m)

/-- The page at an entry as it stands. -/
def Migration.page (s : State) (m : Migration) : Leaf := ⟨m.asid, m.base, m.at_, m.bits, BitVec.ofNat 64 (memRead s.mem m.at_ 8)⟩

/-- MIGRATION_START: a trigger of R229 holds, the engine takes a free frame at the new home, writes back the dirty bytes of
the page and copies its lines (R230). -/
def execMigrationStart (asid va : Nat) (leaf : BitVec 64) (s : State) : Outcome :=
  match (s.ctx? asid).map (fun c => walk s c.root va) with
  | some (.leaf at_ bits e) =>
    let l : Leaf := ⟨asid, va / 2 ^ bits * 2 ^ bits, at_, bits, e⟩
    let new := rehome e leaf
    let busy := s.moves.any (fun m => m.at_ == at_ || meetsBytes (leafFrame e) (2 ^ bits) (m.frame, 2 ^ m.bits) ||
      moveStack (m.page s).e m.leaf == moveStack e new)
    if mayMigrate s l && leafWf s.product bits new && moveTrigger s l new && !busy && frameFree s (leafFrame new) (2 ^ bits) then
      let x := frameLines (leafFrame e) bits
      let s := (s.l1Clean (fun y => inFrame x y.line)).l2Clean (fun y => inFrame x y.line)
      let s := (copyFrame s (leafFrame e) (leafFrame new) bits).owe { asid := asid }
      .next { s with
        moves := s.moves ++ [{ asid := asid, base := l.va, bits := bits, at_ := at_, frame := leafFrame e, leaf := new }],
        demoting := if leafHK e == 0 && leafHK new == 1 && !s.demoting.contains (leafHome e / 64) then leafHome e / 64 :: s.demoting
          else s.demoting }
    else .next s
  | _ => .next s

/-- A line of the old frame copied to the new one. -/
def recopyLine (m : Migration) (s : State) (line : Nat) : State :=
  let to_ := line - lineOf m.frame + lineOf (leafFrame m.leaf)
  let bad := s.poisoned line
  { s with mem := memPutLine s.mem to_ (memLine s.mem line) (BitVec.allOnes 128),
           poison := if bad then to_ :: s.poison.filter (· != to_) else s.poison.filter (· != to_) }

/-- The caches' copies of a page under way written back and invalidated. -/
def flushFrame (s : State) (m : Migration) : State :=
  let x := frameLines m.frame m.bits
  (s.l1Flush (fun y => inFrame x y.line)).l2Flush (fun y => inFrame x y.line)

/-- MIGRATION_HOLD: the caches' copies of the page are written back and invalidated. The move is abandoned if something has
come to hold the page in place, or if more than one eighth of its lines were written during the copy; else new accesses to
the page wait, and the marked lines are copied again. -/
def execMigrationHold (k : Nat) (s : State) : Outcome :=
  match s.moves[k]? with
  | none => .next s
  | some m =>
    if m.phase == .hold then .next s
    else
      let s := flushFrame s m
      match s.moves[k]? with
      | none => .next s
      | some m =>
        if decide (2 ^ m.bits / 128 < 8 * m.marked.length) || !mayMigrate s (m.page s) then
          .next { s with moves := s.moves.eraseIdx k }
        else
          let s := (m.marked.foldl (recopyLine m) s).owe { asid := m.asid }
          .next { s with moves := s.moves.set k { m with phase := .hold, marked := [] } }

/-- A location that has moved with its page. -/
def movedLoc (m : Migration) (a : Nat) : Nat := if m.frame ≤ a ∧ a < m.frame + 2 ^ m.bits then a - m.frame + leafFrame m.leaf else a

/-- The leaf of a page that maps the moved frame, or a part of it, after the move. -/
def movedLeaf (m : Migration) (e : Word) : Word :=
  rehome e (BitVec.ofNat 64 (m.leaf.toNat / 2 ^ 48 * 2 ^ 48 + (movedLoc m (leafFrame e)) / 65536 % 2 ^ 32 * 65536))

/-- MIGRATION_SWITCH: the entry names the new home, as do those of other pages that map the frame, the old translations
are gone, and the accesses that waited go on. A line that has been written since the hold began, by the abort of a barrier
or a held write, is copied first. The records of held writes and armed barriers follow their bytes, and the misses of the
page count anew. If something has come to hold the page in place since the hold began, the move is abandoned (R229). -/
def execMigrationSwitch (k : Nat) (s : State) : Outcome :=
  match s.moves[k]? with
  | none => .next s
  | some m =>
    if m.phase == .copy then .next s
    else if !mayMigrate s (m.page s) then .next { s with moves := s.moves.eraseIdx k }
    else
      let s := flushFrame s m
      let s := ((s.moves[k]?).getD m).marked.foldl (recopyLine m) s
      let pages := m.page s :: aliases s (m.page s)
      let s := { s with
        pageLogs := s.pageLogs.map (fun x => if pages.any (·.at_ == x.at_) then { x with misses := [] } else x),
        mem := pages.foldl (fun (mem : Memory) (l : Leaf) => memWrite mem l.at_ 8 (movedLeaf m l.e).toNat) s.mem,
        barriers := s.barriers.map (fun b => { b with loc := movedLoc m b.loc }),
        contexts := s.contexts.map (fun c => { c with held := c.held.map (fun w => { w with line := lineOf (movedLoc m (128 * w.line)) }) }),
        moves := s.moves.eraseIdx k }
      .next (settleDemotion (dropTranslations s (fun t => pages.any (fun l => l.asid == t.asid && l.va == t.base))))

/-! ### Lists of peer packages (R233) -/

/-- What a write of a peer comes to that is refused at its home: held for want of a shadow, discarded and recorded at a pool
extent (R238, R241), or refused. `w` is the write as it is held. -/
def refusedPeer (s : State) (l : Located) (va : Nat) (w : HeldWrite) : WriteStop → Except Stop State
  | .shadow asid => .ok ((markAccess s l .read .gather).mapCtx asid (fun c => { c with held := c.held ++ [w] }))
  | .protect (some (owner, x)) =>
    .ok ((markAccess s l .read .gather).record owner { cause := { sub := 1, code := causeProtect }, tval := word x })
  | .protect none => .error (writeTrap va l (.protect none))

/-- The context that pays for a peer's access: the one that owns the page (R205). -/
def peerLocate (s : State) (asid : Nat) (k : AccessKind) (update : Bool) (va : Nat) : Except Stop (Located × State) := do
  let l ← globalAt s hubCore asid k update va
  .ok (l, s.owe { asid := asid })

/-- Bytes of one line written by a peer at their home. -/
def peerPut (s : State) (asid : Nat) (l : Located) (mk : MarkKind) (va n v : Nat) : Except Stop State :=
  match s.homeWriteAt none hubStack l.loc n v with
  | .ok s => .ok (markAccess s l .write mk)
  | .error e => refusedPeer s l va
      { core := none, asid := asid, line := lineOf l.loc, data := BitVec.ofNat 1024 (v * 256 ^ (l.loc % 128)),
        dirty := byteMask (l.loc % 128) n, leafAt := l.leafAt } e

/-- What one element of a peer's list comes to: its result and the state after it. The flags of an add that is held are not
known as it is answered: a free value (notes/assumptions/120). -/
def peerElement (s : State) (asid : Nat) (op : PeerOp) (w va x : Nat) : Except Stop (Nat × State) := do
  let k := match op with | .gather => AccessKind.read | _ => .write
  let update := match op with | .add .. => true | _ => false
  let (l, s) ← peerLocate s asid k update va
  let bad := s.poisoned (lineOf l.loc)
  let n := w / 8
  match op with
  | .gather =>
    if bad then .error (.trap { uncorr va with mark := l.mark })
    else .ok ((markAccess s l .read .gather).homeReadAt hubStack l.loc n)
  | .scatter => (peerPut s asid l .gather va n (x % 2 ^ w)).map (fun s => (0, s))
  | .add e bank sat =>
    if bad then
      (if bank then .ok (0, { markAccess s l .read .gather with skipped := s.skipped + 1 })
       else .error (.trap { uncorr va with mark := l.mark }))
    else
      let (old, t) := s.homeReadAt hubStack l.loc n
      let r := scatterAdd e sat old x
      match t.homeWriteAt none hubStack l.loc n r.1 with
      | .ok s => .ok (r.2.toNat, markAccess s l .write .gather)
      | .error y => do
        let i : BankItem := { loc := l.loc, size := n, before := old, after := r.1, add := some (e, sat, x) }
        let s ← refusedPeer s l va
          { core := none, asid := asid, line := lineOf l.loc, bank := some (none, i), leafAt := l.leafAt } y
        let (v, s) := s.draw
        .ok (v % 64, s)

/-- A peer's list served: its elements in ascending index, up to the lowest that faults. One whose page is in its hold
makes the list wait. -/
def servePeer (asid : Nat) (op : PeerOp) (w : Nat) : Nat → List (Nat × Nat) → State → Except Stop (List Nat × Option Nat × State)
  | _, [], s => .ok ([], none, s)
  | i, (va, x) :: rest, s =>
    match peerElement s asid op w va x with
    | .ok (r, s) => do
      let (l, f, s) ← servePeer asid op w (i + 1) rest s
      .ok (r :: l, f, s)
    | .error (.trap t) => .ok ([], some i, noteWalk s t)
    | .error e => .error e

/-- A peer's list and the answer it gets; one that has to wait has not arrived yet. -/
def answerPeer (s : State) (asid : Nat) (op : PeerOp) (w : Nat) (l : List (Nat × Nat)) : State :=
  match servePeer asid op w 0 l s with
  | .ok (r, f, s) => { s with answer := .elems r f }
  | .error _ => s

/-- A scalar or plain vector access of a peer: it comes within one line and writes its bytes, or, without any, reads `n`
(R233). Its answer is the bytes read, or that it faulted. -/
def peerLine (s : State) (asid va : Nat) (bytes : List Byte) (n : Nat) : State :=
  let len := if bytes.isEmpty then n else bytes.length
  if 128 < va % 128 + len then s else
  let k := if bytes.isEmpty then AccessKind.read else .write
  match (do
    let (l, s) ← peerLocate s asid k false va
    if bytes.isEmpty then
      if s.poisoned (lineOf l.loc) then .error (.trap { uncorr va with mark := l.mark })
      else
        let (v, s) := (markAccess s l .read .other).homeReadAt hubStack l.loc n
        .ok { s with answer := .bytes ((List.range n).map (fun i => BitVec.ofNat 8 (v / 256 ^ i))) }
    else
      let s ← peerPut s asid l .other va bytes.length (bytesValue bytes)
      .ok { s with answer := .elems [] none } : Except Stop State) with
  | .ok s => s
  | .error (.trap t) => { noteWalk s t with answer := .elems [] (some 0) }
  | .error _ => s

end Sys2Proof.Machine
end

