-- ==== Sys2Proof/Machine/EvPower.lean ====
section
/-!
DEFINITION. Active lanes under current pressure, the Noon table and the energy accounts (R196 to R201, R204 to R207).
-/

namespace Sys2Proof.Machine

/-! ### Active lanes (R198 to R200) -/

/-- ACTIVE of every slot at its reset: the lanes in service. -/
def fullLanes (lanemap : BitVec 32) (split : BitVec 2) : Vector Nat 8 :=
  Vector.ofFn (fun (i : Fin 8) => if i.val < 2 ^ split.toNat then servingLanes lanemap split i.val else 0)

/-- A slot stands in a timed region, which freezes its lanes. -/
def slotFrozen (s : State) (core slot : Nat) : Bool :=
  s.harts.any (fun h => h.place.core == core && h.place.slot == slot && h.tl.region.isSome)

/-- A change of ACTIVE in every slot of a core that is not frozen, from the lanes in service and the value before. -/
def adjustLanes (s : State) (core : Nat) (f : Nat → Nat → Nat) : State :=
  s.mapCore core (fun u => { u with active := Vector.ofFn (fun (i : Fin 8) =>
    if i.val < 2 ^ u.split.toNat && !slotFrozen s core i.val then f (servingLanes u.lanemap u.split i.val) (vget u.active i.val 0)
    else vget u.active i.val 0) })

/-- ACTIVE after a droop. -/
def shrunk (nsvc a : Nat) : Nat := max ((nsvc + 3) / 4) (3 * a / 4)

/-- A droop: the lanes shrink, and restoration waits 128 cycles. -/
def shrinkLanes (s : State) (core : Nat) : State :=
  (adjustLanes s core shrunk).mapCore core (fun u => { u with restore := some (s.clock + 128) })

/-- DROOP_DETECT (R199). -/
def execDroopDetect (core : Nat) (s : State) : Outcome := .next (if core < s.product.cores then shrinkLanes s core else s)

/-- Some slot of a core has fewer lanes active than in service. -/
def belowFull (u : CoreUnit) : Bool :=
  (List.range (2 ^ u.split.toNat)).any (fun i => decide (vget u.active i 0 < servingLanes u.lanemap u.split i))

/-- ALC_RESTORE: when 128 cycles have passed since the last change, one more lane is active in each slot, and the next
step is 128 cycles later, until all are (R199). -/
def execAlcRestore (core : Nat) (s : State) : Outcome :=
  match (s.core core).restore with
  | some t =>
    if s.clock < t then .next s
    else
      let s := adjustLanes s core (fun nsvc a => min nsvc (a + 1))
      .next (s.mapCore core (fun u => { u with restore := if belowFull u then some (s.clock + 128) else none }))
  | none => .next s

/-! ### The Noon table (R201) -/

/-- Budgets of a cluster in mW: base and greatest. -/
def baseBudget : Nat := 42500
def topBudget : Nat := 85000

def Product.clusters (p : Product) : Nat := p.cores / 8

/-- An amount moved from one cluster's budget to another's. -/
def moveBudget (s : State) (from_ to_ amount : Nat) : State :=
  let n := vset s.noon from_ (vget s.noon from_ 0 - amount)
  { s with noon := vset n to_ (vget n to_ 0 + amount) }

/-- The move leaves each cluster at least its reserved part and at most the greatest budget. -/
def budgetAllows (s : State) (from_ to_ amount : Nat) : Bool :=
  decide (from_ < s.product.clusters ∧ to_ < s.product.clusters ∧ from_ ≠ to_ ∧
    reservedPeak s from_ + amount ≤ vget s.noon from_ 0 ∧ vget s.noon to_ 0 + amount ≤ topBudget)

/-- NOON_LEND: a cluster lends a part of its budget that is not reserved. -/
def execNoonLend (from_ to_ amount : Nat) (s : State) : Outcome :=
  .next (if budgetAllows s from_ to_ amount then moveBudget s from_ to_ amount else s)

/-- NOON_RECALL: cluster `from_` takes back what cluster `to_` has of it, but not what is reserved there. If the draw of
`to_` has to fall, which is a free choice, the lanes of its unfrozen slots shrink. A budget is one number, so that a recall
goes from a cluster above its base to one below, whoever lent to whom (DESIGN CHOICE, notes/assumptions/124). -/
def execNoonRecall (from_ to_ amount : Nat) (s : State) : Outcome :=
  if budgetAllows s to_ from_ amount && decide (vget s.noon from_ 0 + amount ≤ baseBudget ∧
      baseBudget + amount ≤ vget s.noon to_ 0) then
    let s := moveBudget s to_ from_ amount
    let (need, s) := s.choose
    .next (if need then (List.range 8).foldl (fun s i => shrinkLanes s (8 * to_ + i)) s else s)
  else .next s

/-! ### Energy (R204 to R207, R277) -/

/-- Energy charged to a context, debited from its function's quota; energy of no context goes to the house account. -/
def chargeContext (s : State) (x : Nat × Nat) : State :=
  if (s.ctx? x.1).isSome then (s.charge x.1 x.2).credit x.1 (-(x.2 : Int)) else { s with house := s.house + x.2 }

/-- What a hart makes its context pay: the work of its words, commands and requests, the exchange of accumulator tiles as it
comes in (R172), and its save or restore (R205, R277). -/
def hartPayers (h : Hart) : List Payer :=
  if h.resident then [⟨h.asid, false⟩]
  else if h.saved then []
  else
    ⟨h.asid, h.quotaHalt⟩ :: (if h.bank.isEmpty then [] else [⟨h.asid, false⟩])

/-- The contexts whose accepted FIFO entries an island works at, whatever has become of their harts (R205). -/
def fifoPayers (u : CoreUnit) : List Payer := u.fifo.map (fun e => Payer.mk e.asid false)

/-- The contexts to which a core's slots are bound: they pay for the idle energy of the slots and of their share of the
island (R205). -/
def slotPayers (s : State) (u : CoreUnit) : List Payer := (u.binds.filter (BindRecord.counts u)).map (fun b => Payer.mk (s.queue b.queue.toNat).asid false)

/-- Those who pay for the energy of the interval that ends: harts, FIFO entries, bound slots, the launches and graphs that the
dispatcher works for, and those who have worked in it and may be gone (R205). -/
def payers (s : State) : List Payer :=
  (s.unpaid ++ s.harts.flatMap hartPayers ++ s.cores.flatMap fifoPayers ++ s.cores.flatMap (slotPayers s) ++
    s.launches.map (fun l => Payer.mk l.asid false) ++ s.graphs.map (fun g => Payer.mk g.asid false)).eraseDups

/-- A payer charged a free amount, what the meters measured for it (notes/assumptions/21). -/
def chargePayer (s : State) (p : Payer) : State :=
  let (x, s) := s.draw
  if p.exempt && (s.ctx? p.asid).isSome then s.charge p.asid x else chargeContext s (p.asid, x)

/-- The energy of a timed region's own work, a free amount: TBEGIN has debited it (R188). -/
def chargeRegion (s : State) (h : Hart) : State :=
  let (x, s) := s.draw
  (s.charge h.asid x).mapHarts (fun (g : Hart) =>
    if g.uid == h.uid then { g with tl := { g.tl with region := g.tl.region.map (fun (r : Region) => { r with used := r.used + x }) } } else g)

/-- Every function whose quota is used up is halted. -/
def quotaChecks (s : State) : State := (s.quota.map (·.1)).foldl (fun s vf => s.quotaCheck vf) s

/-- Cycles of an interval of the meters: 1 µs. -/
def meterCycles : Nat := 1000

/-- METER_INTERVAL: at the end of an interval its energy is assigned in full, to those that R205 names; what no context
owes, and what rounding leaves, is the house account's (R204 to R207). -/
def execMeterInterval (s : State) : Outcome :=
  match s.meter with
  | none => .next s
  | some t =>
    if s.clock < t then .next s
    else
      let s := (payers s).foldl chargePayer { s with meter := some (t + meterCycles), unpaid := [] }
      let s := (s.harts.filter (fun h => h.tl.region.isSome)).foldl chargeRegion s
      let (x, s) := s.draw
      .next (quotaChecks { s with house := s.house + x })

/-- 64 KiB pages of a stack that a table maps. -/
def pagesIn (s : State) (stack : Nat) : List (Nat × Nat) → Nat → Nat
  | [], _ => 0
  | (lo, n) :: rest, table =>
    ((List.range (2 ^ n)).map (fun i =>
      let at_ := table + 8 * i
      let e := BitVec.ofNat 64 (memRead s.mem at_ 8)
      if !physExists s.product at_ || !entryV e then 0
      else if entryLeaf e then
        (if leafWf s.product lo e && leafHK e == 0 && leafHome e / 64 == stack then 2 ^ (lo - 16) else 0)
      else pagesIn s stack rest (entryField e 8 40 * 2 ^ 8))).sum

/-- 64 KiB pages of a stack. -/
def stackPages : Nat := 64 * (columnBytes / 65536)

/-- The refresh energy of a stack, by context in proportion to its pages; what is left is of pages with no owner. -/
def splitRefresh (s : State) (x : Nat × Nat) : State :=
  let parts := s.contexts.map (fun c => (c.asid, x.2 * pagesIn s x.1 walkLevels c.root / stackPages))
  let t := parts.foldl chargeContext s
  { t with house := t.house + (x.2 - (parts.map (·.2)).sum) }

/-- REFRESH_ENERGY_SPLIT: the refresh energy of each stack, as (stack, nJ), is divided (R205). -/
def execRefreshEnergySplit (energies : List (Nat × Nat)) (s : State) : Outcome :=
  .next (quotaChecks (energies.foldl splitRefresh s))

end Sys2Proof.Machine
end

