-- ==== Sys2Proof/Machine/EvQueue.lean ====
section
/-!
DEFINITION. Queue registers, bind records and the arbiters (R278 to R286, R328).
-/

namespace Sys2Proof.Machine

/-! ### Bind records and the state of a queue (R283, R284) -/

/-- Queues of the device. -/
def queueCount : Nat := 4096

/-- A record of some core names the queue. -/
def queueBound (s : State) (q : Nat) : Bool := s.cores.any (fun u => u.binds.any (fun b => b.queue.toNat == q && b.counts u))

/-- A unit of the queue is placed, or one waits for placement. -/
def queueBusy (s : State) (q : Nat) : Bool :=
  !(s.queueHarts q).isEmpty || s.launches.any (fun l => l.queue == q && l.taken && decide (l.placed < l.units))

/-- STATE of a queue as its bind records, its control bits and its units give it: SUSP takes precedence over DRAIN. A queue
passes to RUNNING as a unit is placed, and stays so while one is placed or waits. -/
def stateOfQueue (s : State) (q : Nat) : QueueState :=
  let x := s.queue q
  if !queueBound s q then .empty
  else if x.susp then .suspended
  else if x.drain then .draining
  else match x.state with
    | .empty => .bound
    | .bound => .bound
    | .running => if queueBusy s q then .running else .bound
    | _ => if !(s.queueHarts q).isEmpty then .running else .bound

/-- A queue takes the state that its records and bits give it. -/
def State.settleState (s : State) (q : Nat) : State := s.mapQueue q (fun x => { x with state := stateOfQueue s q })

/-- A register of a queue written by the host: ignored before DEVRDY (R328). -/
def queueWrite (s : State) (q : Nat) (f : State → State) : Outcome :=
  .next (if s.hub.devrdy && decide (q < queueCount) then f s else s)

/-- QBASE_WRITE (R279). -/
def execQbaseWrite (q : Nat) (v : BitVec 64) (s : State) : Outcome :=
  queueWrite s q (fun s =>
    let x := s.queue q
    if x.head == x.tail && (s.queueHarts q).isEmpty then
      s.mapQueue q (fun x => { x with base := v &&& 0x00FFFFFFFFFFFFC0 })
    else s)

/-- QSIZE_WRITE (R279). -/
def execQsizeWrite (q : Nat) (v : BitVec 64) (s : State) : Outcome :=
  queueWrite s q (fun s =>
    let x := s.queue q
    let n := v.toNat % 32
    if x.head == x.tail && decide (4 ≤ n ∧ n ≤ 16) then s.mapQueue q (fun x => { x with log2 := n }) else s)

/-- QTAIL_WRITE: a tail further from QHEAD than the ring is long is refused (R280). -/
def execQtailWrite (q : Nat) (v : BitVec 64) (s : State) : Outcome :=
  queueWrite s q (fun s =>
    s.mapQueue q (fun x =>
      let t : BitVec 32 := v.setWidth 32
      if 2 ^ x.log2 < (t - x.head).toNat then { x with ovf := true } else { x with tail := t }))

/-- Every placed launch of a queue is pre-empted (R270, R283). -/
def preemptQueue (s : State) (q : Nat) : State :=
  (((s.queueHarts q).filter Hart.resident).map (fun h => (h.asid, h.launch))).eraseDups.foldl
    (fun s (x : Nat × Word) => s.preempt x.1 (some x.2)) s

/-- Voxind resumes the launches of a queue that is no longer suspended, unless another suspended queue holds harts of
the context. -/
def resumeQueue (s : State) (q : Nat) : Except Stop State :=
  let asid := (s.queue q).asid
  if (s.hartsOf asid).any (fun h => h.halted && h.queue == q) then s.resumeContext asid else .ok s

/-- QCTL_SUSP: the SUSP bit of QCTL is written (R279, R283). -/
def execQctlSusp (q : Nat) (set : Bool) (s : State) : Outcome :=
  if !(s.hub.devrdy && decide (q < queueCount)) || (s.queue q).susp == set then .next s
  else
    let s := (s.mapQueue q (fun x => { x with susp := set })).settleState q
    if set then .next (if (s.queue q).state == .suspended then preemptQueue s q else s) else orLater s (resumeQueue s q)

/-- QCTL_DRAIN: the DRAIN bit of QCTL is written; setting it captures QTAIL (R279, R283). -/
def execQctlDrain (q : Nat) (set : Bool) (s : State) : Outcome :=
  queueWrite s q (fun s =>
    if (s.queue q).drain == set then s
    else (s.mapQueue q (fun x => { x with drain := set, dtail := if set then x.tail else x.dtail })).settleState q)

/-- Every unit of the entries a queue has taken has ended. -/
def entriesEnded (s : State) (q : Nat) : Bool :=
  s.launches.all (fun l => !(l.queue == q && l.ring) || (decide (l.units ≤ l.placed) &&
    s.harts.all (fun h => !(h.launch == l.handle && h.asid == l.asid)))) &&
  s.graphs.all (fun g => !(g.queue == q && g.ring) || g.tokens.isEmpty)

/-- DRAIN_DONE: the entries below DTAIL are taken and their units have ended (R283, R326). -/
def execDrainDone (q : Nat) (s : State) : Outcome :=
  let x := s.queue q
  if x.state == .draining && x.head == x.dtail && entriesEnded s q then
    .next (raiseQueue (s.mapQueue q (fun x => { x with drain := false, ddone := true, state := .bound })) q)
  else .next s

/-- QUEUE_CONTEXT_ASSIGN: Voxind gives a queue its context (R278). -/
def execQueueContextAssign (q asid : Nat) (s : State) : Outcome :=
  .next (if q < queueCount then s.mapQueue q (fun x => { x with asid := asid % 65536 }) else s)

/-- A core carries a hart: resident, or Halted with its save area there (R273, R284). -/
def coreOccupied (s : State) (core : Nat) : Bool := s.harts.any (fun h => h.place.core == core)

/-- The queues a core's records name, the ignored ones too. -/
def boundQueues (u : CoreUnit) : List Nat := (u.binds.map (·.queue.toNat)).eraseDups

/-- BIND_RECORD_WRITE: record `n` of a core is written. While the core carries no hart it takes the SPLIT of a record that is
valid and has a weight. The
queues that come to be named or cease to be take their states (R283, R284). -/
def execBindRecordWrite (core n : Nat) (v : BitVec 64) (s : State) : Outcome :=
  if !(decide (core < s.product.cores) && decide (n < 32)) then .next s
  else
    let valid := v.getLsbD 12
    let b : BindRecord := ⟨n, valid, (v >>> 32).setWidth 8, (v >>> 30).setWidth 2, v.setWidth 12⟩
    let splits := valid && b.weight != 0 && !coreOccupied s core
    let before := boundQueues (s.core core)
    let s := s.mapCore core (fun u => { u with
      split := if splits then b.split else u.split,
      active := if splits && u.split != b.split then fullLanes u.lanemap b.split else u.active,
      binds := b :: u.binds.filter (fun x => x.n != n) })
    let touched := (before ++ boundQueues (s.core core)).eraseDups
    .next (touched.foldl (fun s q => if (s.queue q).state == stateOfQueue s q then s else s.settleState q) s)

/-! ### Arbitration (R285, R286) -/

/-- The queues whose harts have a ready request at an arbiter: a word, a command that can start, or a word that waits at a
unit of the core. -/
def readyQueues (s : State) (x : Arb) : List Nat :=
  match x with
  | .sequencer c sl => match s.focusBy (fun h => h.resident && h.place.core == c && h.place.slot == sl) with
    | some t => ((sequencerHarts t).map (·.queue)).eraseDups
    | none => []
  | .array c => ((engineWaits s .array c).map (·.1)).eraseDups
  | .copy c => ((engineWaits s .copy c).map (·.1)).eraseDups
  | x => (s.harts.filterMap (fun h => (h.asks x).map (fun _ => h.queue))).eraseDups

/-- ARBITER_TURN: an arbiter's turn passes, as far as it is over, to the next queue with a ready request (R286). -/
def execArbiterTurn (arb : Arb) (s : State) : Outcome := .next (settleTurn s arb (readyQueues s arb))

end Sys2Proof.Machine
end

