-- ==== Sys2Proof/Machine/EvHost.lean ====
section
/-!
DEFINITION. What the host and Voxind do to the package: registers, host DMA, functions, errors, Dawn and power-down (R5,
R15, R38, R196, R309, R324 to R332, R343).
-/

namespace Sys2Proof.Machine

/-! ### Registers (R5, R279, R309, R325, R326) -/

/-- HAPCTX of a function. -/
def hapOf (s : State) (fn : Option Nat) : Word :=
  match fn with
  | none => s.hub.hapPf
  | some n => ((s.hub.hapVf.find? (·.1 == n)).map (·.2)).getD 0

/-- HAPCTX of a function written. -/
def setHap (s : State) (fn : Option Nat) (v : Word) : State :=
  let v := v &&& 0x800000000000FFFF
  match fn with
  | none => { s with hub := { s.hub with hapPf := v } }
  | some n => { s with hub := { s.hub with hapVf := (if v = 0 then [] else [(n, v)]) ++ s.hub.hapVf.filter (fun x => x.1 != n) } }

/-- REGISTER_WRITE: the RW fields take the value's bits, and W1C bits written as 1 are cleared (R5). -/
def execRegisterWrite (reg : DevReg) (v : BitVec 64) (s : State) : Outcome :=
  .next (match reg with
    | .csr n => csrEvent s n v
    | .lstat l => if l < 24 then
        let x := s.link l
        { s with links := vset s.links l { x with retry := x.retry &&& ~~~((v >>> 32).setWidth 32) } }
      else s
    | .ctxBase => { s with hub := { s.hub with ctxBase := v &&& 0x0000FFFFFFF00000 } }
    | .grpBase => { s with hub := { s.hub with grpBase := v &&& 0x0000FFFFFFC00000 } }
    | .faultCount asid => if v = 0 then s.mapCtx asid (fun c => { c with fault := { c.fault with count := 0 } }) else s
    | .eccCnt => { s with hub := { s.hub with eccCnt := s.hub.eccCnt &&& ~~~v } }
    | .hapCtx fn => if (match fn with
        | some n => decide (n < 1024)
        | none => true) then setHap s fn v else s
    | .qstat q => if s.hub.devrdy && decide (q < queueCount) then
        s.mapQueue q (fun x => { x with
          ddone := x.ddone && !v.getLsbD 10, err := x.err && !v.getLsbD 9, ovf := x.ovf && !v.getLsbD 8 })
      else s)

/-- Bits of the words of a format-range register. -/
def rangeBits (k : Nat) : Word :=
  match k with
  | 0 => 0x0000FFFFFFFF0000
  | 1 => 0x0000FFFFFFFF0000
  | 2 => 0x000000008000031F
  | _ => 0x0000FFFFFFFFFFFC

/-- FORMAT_RANGE_WRITE: a word of a format-range register of a stack, by its offset in the register block (R38, R324). Moves
of pages that an enabled range overlaps are abandoned (R230). -/
def execFormatRangeWrite (stack off : Nat) (v : BitVec 64) (s : State) : Outcome :=
  let n := (off - 0x100) / 32
  let k := off % 32 / 8
  if off < 0x100 || 16 ≤ n || off % 8 != 0 || s.product.cores / 64 ≤ stack then .next s
  else
    let old := ((s.formats.find? (fun x => x.1 == stack && x.2.1 == n)).map (·.2.2)).getD (Vector.replicate 4 0)
    let r := vset old k (v &&& rangeBits k)
    let s := match formatRange r with
      | some f => s.barMoves [(f.base / 128, (f.limit - f.base + 127) / 128)]
      | none => s
    .next { s with formats := (stack, n, r) :: s.formats.filter (fun x => !(x.1 == stack && x.2.1 == n)) }

/-! ### Host DMA (R137, R238, R241, R328, R343) -/

/-- The context a function's aperture names: V is set, and the context is bound to the function. -/
def apertureOf (s : State) (fn : Option Nat) : Option Nat :=
  let v := hapOf s fn
  let asid := v.toNat % 65536
  if v.getLsbD 63 && s.fnOf asid == some fn then some asid else none

/-- What becomes of a host access: refused for a reason that is recorded, or located; it may have to wait for a page. -/
def hostLocate (s : State) (asid : Nat) (k : AccessKind) (va : Nat) : Except Stop Located :=
  globalAt s hubCore asid k false va

/-- A refusal entered in the fault record of the aperture's context. -/
def refuseHost (s : State) (asid : Nat) (k : AccessKind) (t : Trap) (va : Nat) : State :=
  let code := if t.code == causeProtect then causeProtect else causeXlate
  (noteWalk s t).record asid { cause := { sub := k.sub, code := code }, tval := word va }

/-- A host read of bytes of one line at its home, where scalar L1 copies play no part (R129, R137). A pool extent reads
as a free value, and so does a poisoned line, of which the spec states no result (R241; notes/assumptions/110). -/
def hostGet (s : State) (l : Located) (n : Nat) : List Byte × State :=
  let line := lineOf l.loc
  let loc := l.loc
  let s := markAccess s l .read .other
  let (v, s) := if (s.poolOf line).isSome || s.poisoned line then s.draw else (lineBytes (memLine s.mem line) (loc % 128) n, s)
  ((List.range n).map (fun i => BitVec.ofNat 8 (v / 256 ^ i)), s)

/-- A host write for a context to bytes of one line at its home: tracked lines are shadowed first or the write is held, and a
pool extent discards it and records that. D is set as the write is performed (R223). -/
def hostPut (s : State) (asid : Nat) (l : Located) (bytes : List Byte) : State :=
  let loc := l.loc
  let line := lineOf loc
  let mask := byteMask (loc % 128) bytes.length
  let data : Line := BitVec.ofNat 1024 (bytesValue bytes * 256 ^ (loc % 128))
  let seen := markAccess s l .read .other
  match s.guardWrite hubStack loc bytes.length with
  | .ok s => markAccess ((putHome s line data mask).clearPoison line mask) l .write .other
  | .error (.shadow owner) =>
    seen.mapCtx owner (fun c => { c with
      held := c.held ++ [{ core := none, asid := asid, line := line, data := data, dirty := mask, leafAt := l.leafAt }] })
  | .error (.protect (some (owner, va))) => seen.record owner { cause := { sub := 1, code := causeProtect }, tval := word va }
  | .error (.protect none) => seen

/-- Pieces of an access, each within a line: address and index of the first byte, and length. -/
def linePieces : Nat → Nat → Nat → Nat → List (Nat × Nat × Nat)
  | 0, _, _, _ => []
  | fuel + 1, va, at_, len =>
    if len = 0 then []
    else
      let n := min len (128 - va % 128)
      (va, at_, n) :: linePieces fuel (va + n) (at_ + n) (len - n)

def piecesFor (va len : Nat) : List (Nat × Nat × Nat) := linePieces (len / 128 + 2) va 0 len

/-- A host access through a function's aperture, piece by piece, and the bytes it reads: `f` performs a piece that its page
admits. A refused piece is recorded where the aperture names a context, and reads as all ones; one that has to wait for a
page move ends the access before anything has happened. -/
def hostPieces (s : State) (ctx : Option Nat) (k : AccessKind) (f : State → Nat → Located → Nat → Nat → List Byte × State) :
    List (Nat × Nat × Nat) → Except Stop (List Byte × State)
  | [] => .ok ([], s)
  | (va, at_, n) :: rest => do
    let refused : List Byte := List.replicate n 0xFF
    let (l, s) ← (match ctx with
      | none => .ok (refused, s)
      | some asid =>
        match hostLocate s asid k va with
        | .ok l => .ok (f (s.owe { asid := asid }) asid l at_ n)
        | .error (.trap t) => .ok (refused, refuseHost s asid k t va)
        | .error e => .error e)
    let (m, s) ← hostPieces s ctx k f rest
    .ok (l ++ m, s)

/-- A host access through a function's aperture, which spans 2 ^ 48 bytes. Before DEVRDY it has no effect, and a read gives
all ones (R328). -/
def hostAccess (s : State) (fn : Option Nat) (k : AccessKind) (va len : Nat)
    (f : State → Nat → Located → Nat → Nat → List Byte × State) : Except Stop (List Byte × State) :=
  if !s.hub.devrdy || 2 ^ 48 < va + len then .ok (List.replicate len 0xFF, s)
  else hostPieces s (apertureOf s fn) k f (piecesFor va len)

/-- HOST_DMA_READ: the bytes go to the host. -/
def execHostDmaRead (fn : Option Nat) (va len : Nat) (s : State) : Outcome :=
  orLater s (do
    let (l, s) ← hostAccess s fn .read va len (fun s _ l _ n => hostGet s l n)
    .ok { s with answer := .bytes l })

/-- HOST_DMA_WRITE. -/
def execHostDmaWrite (fn : Option Nat) (va : Nat) (bytes : List (BitVec 8)) (s : State) : Outcome :=
  orLater s (do
    let (_, s) ← hostAccess s fn .write va bytes.length (fun s asid l at_ n => ([], hostPut s asid l ((bytes.drop at_).take n)))
    .ok s)

/-! ### Functions (R206, R278, R326, R327) -/

/-- VF_ENABLE: an enabled VF starts with no quota and no aperture context. -/
def execVfEnable (vf : Nat) (on : Bool) (s : State) : Outcome :=
  if 1024 ≤ vf || s.vfs.contains vf == on then .next s
  else
    let s := setHap s (some vf) 0
    if on then .next ({ s with vfs := vf :: s.vfs, quota := (vf, 0) :: s.quota.filter (fun x => x.1 != vf),
                               spent := s.spent.filter (· != vf) }.quotaCheck vf)
    else .next { s with vfs := s.vfs.filter (· != vf) }

/-- Contexts of a function that are SAVED because its quota was used up. -/
def quotaSaved (s : State) (vf : Nat) : List Nat :=
  (s.contexts.filter (fun c => c.fn == some (some vf) && c.state == .saved && c.hcause == causeQuota)).map (·.asid)

/-- QLEFT_WRITE: the value is added to the quota, in µJ. Above zero, the contexts that QUOTA halted are resumed (R327). -/
def execQleftWrite (fn : Option Nat) (v : BitVec 64) (s : State) : Outcome :=
  match fn with
  | none => .next s
  | some vf =>
    if !(s.hub.devrdy && s.vfs.contains vf) then .next s
    else
      let s := s.setLeft vf (addQuota (s.left vf) (v.toInt * 1000))
      if 0 < s.left vf then orLater s (eachOf State.resumeContext (quotaSaved s vf) s) else .next (s.quotaCheck vf)

/-- The top of each chain of counters that a context's live launches and graphs stand under: its jobs. -/
def jobsOf (s : State) (asid : Nat) : List Word :=
  ((s.launches.filter (·.asid == asid)).map (fun l => l.ups.getLastD l.handle) ++
    (s.graphs.filter (·.asid == asid)).map (fun g => g.ups.getLastD g.counter)).eraseDups

/-- A job cancelled: a counter that cannot be updated is recorded, and what is below it is cancelled all the same. -/
def cancelJob (asid : Nat) (s : State) (x : Word) : Except Stop State := do
  let s ← markCancelled s asid x 0
  cancelBelow s asid x

/-- Every job of a context cancelled; its groups are aborted (R297, R301). -/
def cancelContext (s : State) (asid : Nat) : Except Stop State := do
  let s ← eachOf (cancelJob asid) (jobsOf s asid) s
  .ok (((s.groups.filter (fun g => g.asid == asid)).map (·.id)).foldl (fun s id => s.cancelGroup id) s)

/-- The registers of a queue at their reset values; its bind records and its context are Voxind's. -/
def resetQueue (s : State) (q : Nat) : State :=
  let asid := (s.queue q).asid
  (s.mapQueue q (fun x => { n := q, asid := asid, state := x.state })).settleState q

/-- FUNCTION_LEVEL_RESET: the jobs of the VF's contexts are cancelled, its queue registers reset and its quota set to 0
(R327). -/
def execFunctionLevelReset (vf : Nat) (s : State) : Outcome :=
  if 1024 ≤ vf then .next s
  else
    let asids := (s.contexts.filter (fun c => c.fn == some (some vf))).map (·.asid)
    match eachOf cancelContext asids s with
    | .error (.fault f) => .fault f
    | .error _ => .next s
    | .ok s =>
      let s := [0, 1, 2, 3].foldl (fun s i => resetQueue s (4 * vf + i)) s
      .next { s with quota := (vf, 0) :: s.quota.filter (fun x => x.1 != vf), spent := s.spent.filter (· != vf) }

/-! ### Errors and far memory (R80, R329, R332) -/

/-- SCRUB: the uncorrectable lines that the scrub of a column finds are poisoned. -/
def execScrub (column : Nat) (bad : List Nat) (s : State) : Outcome :=
  .next ((bad.filter (fun l => columnOf s.product (128 * l) == some column)).foldl poisonLine s)

/-- CXL_REMOVAL: every line homed behind the port is poisoned, and Voxind logs it. -/
def execCxlRemoval (port : Nat) (s : State) : Outcome :=
  if !s.product.hasHub || 4 ≤ port then .next s
  else
    let x := (lineOf (farBase + port * 2 ^ 40), 2 ^ 33)
    let t := s.raise none 3
    .next { t with lost := t.lost.filter (· != x) ++ [x], mended := t.mended.filter (fun l => !inFrame x l) }

/-! ### Dawn (R15, R331) -/

/-- The package with all its state lost. What lies outside it stays: far memory and the memory of peers. -/
def lostState (s : State) : State :=
  let s0 : State := {}
  { s0 with product := s.product, clock := s.clock, draws := s.draws, nextId := s.nextId, agenda := s.agenda,
            lost := s.lost, mended := s.mended, poison := s.poison.filter (fun l => isFarLoc (128 * l)),
            mem := s.mem.filter (fun c => isFarLoc c.1 || isPeerLoc c.1) }

/-- Dawn's state set. -/
def setDawn (s : State) (x : DawnState) : State := { s with hub := { s.hub with dawn := x } }

/-- Dawn stops in a state (R325, R326). -/
def failDawn (s : State) (code : BitVec 8) : State := { s.raise none 4 with hub := { s.hub with fail := true, fcode := code } }

/-- A state of Dawn that is under way and has not failed. -/
def inDawn (s : State) (x : DawnState) : Bool := s.hub.started && s.hub.dawn == x && !s.hub.fail

/-- DAWN_START: PERST# or power begins Dawn at ROM. -/
def execDawnStart (s : State) : Outcome :=
  let t := lostState s
  .next { t with hub := { t.hub with started := true } }

/-- POWER_DOWN. -/
def execPowerDown (s : State) : Outcome := .next (lostState s)

/-- DAWN_ROM: the boot ROM checks and loads Voxind. -/
def execDawnRom (ok : Bool) (s : State) : Outcome :=
  if !inDawn s .rom then .next s else if ok then .next (setDawn s .voxind) else .next (failDawn s 0)

/-- DAWN_VOXIND: Voxind starts, writes the table bases and keeps the Noon table from now on, each cluster at its base
budget (R201, R325). -/
def execDawnVoxind (ctxBase grpBase : BitVec 64) (s : State) : Outcome :=
  if !inDawn s .voxind then .next s
  else .next { s with
    noon := Vector.ofFn (fun (i : Fin 32) => if i.val < s.product.clusters then baseBudget else 0),
    hub := { s.hub with dawn := .trim, ctxBase := ctxBase &&& 0x0000FFFFFFF00000, grpBase := grpBase &&& 0x0000FFFFFFC00000 } }

/-- A core has a slot of one split whose lanes are all retired. -/
def deadSlot (lanemap : BitVec 32) : Bool :=
  [0#2, 1#2, 2#2, 3#2].any (fun sp => (List.range (2 ^ sp.toNat)).any (fun i => servingLanes lanemap sp i == 0))

/-- DAWN_TRIM: the lane map is built from the lanes that meet timing; a core that is not listed has all of them (R196 to
R198, R325). -/
def execDawnTrim (inService : List (Nat × BitVec 32)) (s : State) : Outcome :=
  if !inDawn s .trim then .next s
  else
    let map (c : Nat) : BitVec 32 := ((inService.find? (·.1 == c)).map (·.2)).getD (BitVec.allOnes 32)
    let cs := List.range s.product.cores
    let retired := (cs.map (fun c => 32 - popCount 32 (map c).toNat)).sum
    let s := cs.foldl (fun s c => s.mapCore c (fun u => { u with lanemap := map c, active := fullLanes (map c) u.split })) s
    let s := { s with hub := { s.hub with retLanes := BitVec.ofNat 32 retired } }
    if cs.any (fun c => deadSlot (map c)) then .next (failDawn s 2) else .next (setDawn s .meminit)

/-- DAWN_MEMINIT: every column is zero-filled. -/
def execDawnMeminit (ok : Bool) (s : State) : Outcome :=
  if !inDawn s .meminit then .next s
  else if !ok then .next (failDawn s 3)
  else .next (setDawn { s with
    mem := s.mem.filter (fun c => (columnOf s.product c.1).isNone),
    poison := s.poison.filter (fun l => (columnOf s.product (128 * l)).isNone) } .meter)

/-- DAWN_METER: the meters are calibrated, and TIME is 0; their first interval begins. -/
def execDawnMeter (ok : Bool) (s : State) : Outcome :=
  if !inDawn s .meter then .next s
  else if ok then .next (setDawn { s with timeZero := s.clock, meter := some (s.clock + meterCycles) } .links) else .next (failDawn s 4)

/-- DAWN_LINKS: no link is training any more. With every queue EMPTY the device is READY, and DEVRDY is set (R328). -/
def execDawnLinks (s : State) : Outcome :=
  if inDawn s .links && s.links.toList.all (fun l => l.state != .train) && s.queues.all (fun q => q.state == .empty) then
    let t := s.raise none 4
    .next { t with hub := { t.hub with dawn := .ready, devrdy := true } }
  else .next s

end Sys2Proof.Machine
end

