-- ==== Sys2Proof/Machine/Hva.lean ====
section
/-!
DEFINITION. HVA: hypervectors and counter vectors in registers (R150 to R157).
-/

namespace Sys2Proof.Machine

/-! ### Representation (R150, R151) -/

/-- The sign with which a BSC or MAP component is read. -/
def hvSign (hm : HvModel) (x : Nat) : Int :=
  match hm with
  | .bsc => if x == 0 then -1 else 1
  | _ => if x < 128 then 1 else -1

/-- The component that stands for a sign. -/
def hvOfSign (hm : HvModel) (x : Int) : Nat :=
  match hm with
  | .bsc => if 0 ≤ x then 1 else 0
  | _ => if 0 ≤ x then 1 else 0xFF

/-- Bits of a hypervector. -/
def VType.hvBits (t : VType) : Nat := t.dim * t.hm.width

/-- Counters of a component. -/
def HvModel.counters : HvModel → Nat
  | .phase => 2
  | _ => 1

/-- Bits of the counters of a hypervector. -/
def VType.counterBits (t : VType) : Nat := 16 * t.hm.counters * t.dim

/-- The least power of two, at most 64, that is at least `n`. -/
def powerAtLeast (n : Nat) : Nat := (([1, 2, 4, 8, 16, 32] : List Nat).find? (fun p => decide (n ≤ p))).getD 64

/-- Gc: registers of a counter vector (R151). -/
def counterGroup (h : Hart) (t : VType) : Nat :=
  powerAtLeast (max t.group ((t.counterBits + regBits h - 1) / regBits h))

/-- A field names a counter vector. -/
def counterFits (h : Hart) (t : VType) (r : BitVec 5) : Bool :=
  decide (counterGroup h t ≤ 32) && r.toNat % counterGroup h t == 0

/-- The registers of a counter vector. -/
def counterRegs (h : Hart) (t : VType) (r : BitVec 5) : List RegId := vGroup r.toNat (counterGroup h t)

/-- Component j of a hypervector register. -/
def hvComp (h : Hart) (t : VType) (r : BitVec 5) (j : Nat) : Nat := elem t.hm.width (groupBits h r.toNat t.group) j

/-- Counter i of a counter vector, signed. -/
def counterAt (h : Hart) (t : VType) (r : BitVec 5) (i : Nat) : Int :=
  toSigned 16 (elem 16 (groupBits h r.toNat (counterGroup h t)) i)

/-! ### Words that run by component (R157) -/

/-- The writes of components `start` on: the bits above the word's own are written with zero where `zero` is set. -/
def compWrites (h : Hart) (reg group width start : Nat) (lanes : List Nat) (total : Nat) (zero : Bool) : List RegWrite :=
  let x := packLanes width (lanes.map some)
  groupWrites h reg group (x.1 * 2 ^ (width * start))
    (x.2 * 2 ^ (width * start) ||| (if zero then 2 ^ (regBits h * group) - 2 ^ min (regBits h * group) total else 0))

/-- An element-wise word over the W components: its destination has `group` registers and `width` bits a component, and
the bits above them are zeroed when the word ends if `zero` is set. -/
def componentWise (s : State) (t : VType) (reg group width : Nat) (zero : Bool) (f : Nat → Nat) : Result :=
  let n := t.dim
  let start := startOf s
  let stop := stopOf s n
  let done := decide (n ≤ stop)
  ⟨s, compWrites s.hart reg group width start ((List.range' start (stop - start)).map f) (width * n) (zero && done),
    if done then none else some stop⟩

/-- A component-wise word with a hypervector as destination. -/
def hvOp (s : State) (t : VType) (d : BitVec 5) (f : Nat → Nat) : Result :=
  componentWise s t d.toNat t.group t.hm.width true f

/-- A word with hypervector operands only. -/
def hvWord (s : State) (wf : Bool) (hvs : List (BitVec 5)) (reads : VType → List RegId) (d : BitVec 5) (c dc : Nat)
    (f : State → VType → Nat → Nat) : Outcome :=
  vectorOp s wf (fun t => hvs.all t.aligned) reads (fun t => t.regs d) (fun t => latency s c dc t.hvBits)
    (fun s t => hvOp s t d (f s t))

/-! ### Component operations (R154) -/

/-- Two components bound. -/
def bindComp (hm : HvModel) (x y : Nat) : Nat :=
  match hm with
  | .bsc => (x + y) % 2
  | .map => hvOfSign .map (hvSign .map x * hvSign .map y)
  | .phase => (x + y) % 16

/-- A component unbound by another. -/
def unbindComp (hm : HvModel) (x y : Nat) : Nat :=
  match hm with
  | .bsc => (x + y) % 2
  | .map => hvOfSign .map (hvSign .map x * hvSign .map y)
  | .phase => (x + 16 - y) % 16

/-- A component negated. -/
def notComp (hm : HvModel) (x : Nat) : Nat :=
  match hm with
  | .bsc => (x + 1) % 2
  | .map => hvOfSign .map (-(hvSign .map x))
  | .phase => (x + 8) % 16

/-- HBIND (R154). -/
def execHbind (d a b : BitVec 5) (s : State) : Outcome :=
  hvWord s true [d, a, b] (fun t => t.regs a ++ t.regs b) d 1 2
    (fun s t j => bindComp t.hm (hvComp s.hart t a j) (hvComp s.hart t b j))

/-- HUNBIND (R154). -/
def execHunbind (d a b : BitVec 5) (s : State) : Outcome :=
  hvWord s true [d, a, b] (fun t => t.regs a ++ t.regs b) d 1 2
    (fun s t j => unbindComp t.hm (hvComp s.hart t a j) (hvComp s.hart t b j))

/-- HNOT (R154). -/
def execHnot (d a : BitVec 5) (s : State) : Outcome :=
  hvWord s true [d, a] (fun t => t.regs a) d 1 2 (fun s t j => notComp t.hm (hvComp s.hart t a j))

/-- A rotation: cross-element, so an abandoned one leaves part of its result and is executed afresh (R157). -/
def rotateWord (s : State) (d a b : BitVec 5) (src : Nat → Nat → Nat → Nat) : Outcome :=
  vectorOp s (isH b)
    (fun t => t.aligned d && t.aligned a && !overlap d.toNat t.group a.toNat t.group)
    (fun t => .h b.toNat :: t.regs a) (fun t => t.regs d) (fun t => latency s 1 4 t.hvBits)
    (fun s t =>
      let n := t.dim
      let k := (hRead s.hart b.toNat).toNat % n
      let lanes := (List.range n).map (fun j => hvComp s.hart t a (src n k j))
      match abandonOf s with
      | some c => ⟨s, compWrites s.hart d.toNat t.group t.hm.width 0 (lanes.take c) t.hvBits false, some 0⟩
      | none => ⟨s, compWrites s.hart d.toNat t.group t.hm.width 0 lanes t.hvBits true, none⟩)

/-- HPERM: component j moves to (j + k) mod W (R154). -/
def execHperm (d a b : BitVec 5) (s : State) : Outcome := rotateWord s d a b (fun n k j => (j + n - k) % n)
/-- HPERMN: component (j + k) mod W moves to j (R154). -/
def execHpermn (d a b : BitVec 5) (s : State) : Outcome := rotateWord s d a b (fun n k j => (j + k) % n)

/-! ### Counters (R155) -/

/-- c(k) and s_tab(k). -/
def cosTable (k : Nat) : Int := ([16, 15, 11, 6, 0, -6, -11, -15, -16, -15, -11, -6, 0, 6, 11, 15] : List Int).getD (k % 16) 0
def sinTable (k : Nat) : Int := cosTable (k + 12)

/-- What a component of unit weight adds to its counters. -/
def counterAdds (hm : HvModel) (x : Nat) : List Int :=
  match hm with
  | .phase => [cosTable x, sinTable x]
  | m => [hvSign m x]

/-- The component that counters threshold to; ties take `tie`. -/
def threshold (hm : HvModel) (cnt : List Int) (tie : Nat) : Nat :=
  match hm with
  | .phase =>
    let sc (k : Nat) : Int := cnt.getD 0 0 * cosTable k + cnt.getD 1 0 * sinTable k
    let best := (List.range 16).foldl (fun m k => max m (sc k)) (sc 0)
    match (List.range 16).filter (fun k => sc k == best) with
    | [k] => k
    | _ => tie
  | m =>
    let c := cnt.getD 0 0
    if 0 < c then hvOfSign m 1 else if c < 0 then hvOfSign m (-1) else hvOfSign m (hvSign m tie)

/-- The counters of component j. -/
def countersOf (h : Hart) (t : VType) (r : BitVec 5) (j : Nat) : List Int :=
  (List.range t.hm.counters).map (fun i => counterAt h t r (t.hm.counters * j + i))

/-- Counters packed into one component of a counter vector. -/
def packCounters (l : List Nat) : Nat := l.foldr (fun x acc => x + 65536 * acc) 0

/-- Component j's counters with a weighted component added, each clamped, and SAT if one was (R155). -/
def addCounters (h : Hart) (t : VType) (c a : BitVec 5) (w : Int) (j : Nat) : Nat × Flags :=
  let l := (List.zip (countersOf h t c j) (counterAdds t.hm (hvComp h t a j))).map
    (fun x => assignInteger true true 16 (x.1 + w * x.2))
  (packCounters (l.map (·.1)), l.foldl (fun f x => f ||| x.2) 0)

/-- HBACC (R155). -/
def execHbacc (d a b : BitVec 5) (s : State) : Outcome :=
  vectorOp s (isH b)
    (fun t => counterFits s.hart t d && t.aligned a && !overlap d.toNat (counterGroup s.hart t) a.toNat t.group)
    (fun t => .h b.toNat :: (t.regs a ++ counterRegs s.hart t d)) (fun t => counterRegs s.hart t d)
    (fun t => latency s 2 4 t.counterBits)
    (fun s t =>
      let h := s.hart
      let w := toSigned 16 ((hRead h b.toNat).toNat % 65536)
      let r := componentWise s t d.toNat (counterGroup h t) (16 * t.hm.counters) false (fun j => (addCounters h t d a w j).1)
      let start := startOf s
      let raised := (List.range' start (stopOf s t.dim - start)).map (fun j => (j, (addCounters h t d a w j).2))
      { r with state := s.mapHart (fun h => noteFlags h start r.part.isNone (raised.filter (fun x => x.2 != 0))) })

/-- HBTH (R155). -/
def execHbth (d a b : BitVec 5) (s : State) : Outcome :=
  vectorOp s true
    (fun t => counterFits s.hart t a && t.aligned d && t.aligned b &&
      !overlap a.toNat (counterGroup s.hart t) d.toNat t.group && !overlap a.toNat (counterGroup s.hart t) b.toNat t.group)
    (fun t => counterRegs s.hart t a ++ t.regs b) (fun t => t.regs d)
    (fun t => latency s (if t.hm == .phase then 4 else 1) 3 t.counterBits)
    (fun s t => hvOp s t d (fun j => threshold t.hm (countersOf s.hart t a j) (hvComp s.hart t b j)))

/-- HCLR: counters and the bits above them are zeroed (R154). -/
def execHclr (d : BitVec 5) (s : State) : Outcome :=
  vectorOp s true (fun t => counterFits s.hart t d) (fun _ => []) (fun t => counterRegs s.hart t d)
    (fun t => latency s 1 2 t.counterBits)
    (fun s t => componentWise s t d.toNat (counterGroup s.hart t) (16 * t.hm.counters) true (fun _ => 0))

/-! ### HGEN (R156) -/

/-- Block j of the stream of a seed. -/
def seedBlock (seed : Word) (j : Nat) : Word :=
  let z := seed + BitVec.ofNat 64 (j + 1) * 0x9E3779B97F4A7C15
  let z := (z ^^^ (z >>> 30)) * 0xBF58476D1CE4E5B9
  let z := (z ^^^ (z >>> 27)) * 0x94D049BB133111EB
  z ^^^ (z >>> 31)

/-- Component j of the hypervector of a seed. -/
def seedComp (hm : HvModel) (seed : Word) (j : Nat) : Nat :=
  match hm with
  | .phase => (seedBlock seed (j / 16)).toNat / 2 ^ (4 * (j % 16)) % 16
  | m => hvOfSign m (if (seedBlock seed (j / 64)).getLsbD (j % 64) then 1 else -1)

/-- HGEN (R156). -/
def execHgen (d a : BitVec 5) (s : State) : Outcome :=
  hvWord s (isH a) [d] (fun _ => [.h a.toNat]) d 2 6 (fun s t j => seedComp t.hm (hRead s.hart a.toNat) j)

end Sys2Proof.Machine
end

