-- ==== Sys2Proof/Machine/Hvb.lean ====
section
/-!
DEFINITION. HVB: agreement, item stores, recall, factorisation and the probability of recall (R158 to R166).
-/

namespace Sys2Proof.Machine

/-! ### Agreement (R161) -/

/-- Two components agree. -/
def agreeComp (hm : HvModel) (x y : Nat) : Bool :=
  match hm with
  | .map => hvSign .map x == hvSign .map y
  | _ => x == y

/-- The number of the components of two hypervectors that agree. -/
def agreement (hm : HvModel) (n x y : Nat) : Nat :=
  (List.range n).foldl (fun acc j => if agreeComp hm (elem hm.width x j) (elem hm.width y j) then acc + 1 else acc) 0

/-- The bits of a hypervector operand. -/
def hvBitsOf (h : Hart) (t : VType) (r : Nat) : Nat := groupBits h r t.group % 2 ^ t.hvBits

/-- A word of this chapter that is abandoned and executed afresh when it is stopped (R166). -/
def abandonable (s : State) (done : Except Stop State) : Except Stop State :=
  match abandonOf s with
  | some _ => .ok (stall s)
  | none => done

/-- HSIM (R161). -/
def execHsim (d a b : BitVec 5) (s : State) : Outcome :=
  let t := vtypeOf s
  runPlain s .v (isH d) (fits s (fun t => t.aligned a && t.aligned b)) (t.regs a ++ t.regs b) [.h d.toNat] (fun s =>
    abandonable s (.ok (varyTime (retire (s.mapHart (fun h =>
      hWrite h d.toNat (word (agreement t.hm t.dim (hvBitsOf h t a.toNat) (hvBitsOf h t b.toNat)))))))))

/-! ### Item stores (R158 to R160) -/

/-- A store's header. -/
structure StoreHeader where
  st    : Nat
  hm    : Nat
  hdc   : Nat
  cap   : Nat
  count : Nat
  floor : Nat
  deriving DecidableEq, Repr, Inhabited

/-- The header that 128 bytes hold. -/
def headerOf (v : Nat) : StoreHeader :=
  ⟨bytesAt v 0 1, bytesAt v 1 1, bytesAt v 2 1, bytesAt v 4 4, bytesAt v 8 4, bytesAt v 0x0C 4⟩

/-- A header that is not FREE is malformed (R158). -/
def headerBad (v : Nat) : Bool :=
  let x := headerOf v
  bytesAt v 3 1 != 0 || bytesAt v 0x10 112 != 0 || decide (2 < x.st ∨ 2 < x.hm ∨ 10 < x.hdc) ||
    decide (x.cap < 1 ∨ 4096 < x.cap ∨ x.cap < x.count)

/-- Bytes of an item. -/
def VType.itemBytes (t : VType) : Nat := t.hvBits / 8

/-- The grant of the core's scratchpad to the hart's launch. -/
def coreGrant (s : State) : Option Grant := grantOf s s.hart .core

/-- `n` bytes from an address lie in the grant. -/
def inGrant (s : State) (at_ n : Nat) : Bool :=
  match coreGrant s with
  | some g => decide (coreBase ≤ at_ ∧ at_ + n ≤ coreBase + g.size)
  | none => false

/-- The entry of the store table for a store of the hart's launch. -/
def storeEntry (s : State) (at_ : Nat) : Option StoreEntry :=
  match coreGrant s with
  | some g => (s.core s.hart.place.core).stores.find? (fun e => e.gid == g.gid && e.off == at_ - coreBase)
  | none => none

/-- The address of a store: aligned, and inside the core-scratchpad window (R161), which is taken to reach up to the base of
the next level's window (DESIGN CHOICE, notes/assumptions/121). -/
def storeAddr (s : State) (r : BitVec 5) : Except Stop Nat :=
  let at_ := (hRead s.hart r.toNat).toNat
  if at_ % 128 != 0 then .error (.trap (misalign at_))
  else if at_ < coreBase ∨ clusterBase ≤ at_ then .error (.trap (protect .read at_))
  else .ok at_

/-- A store's header, read at the array: BADREC if it is malformed, if it is SEALED without an entry, or, where `same` is
set, if its model or width is not VTYPE's (R160). -/
def readHeader (s : State) (t : VType) (at_ : Nat) (same : Bool) : Except Stop StoreHeader := do
  let (v, _) ← orderedRead s s.hart .other at_ 128
  let x := headerOf v
  if x.st == 0 then .ok x
  else if headerBad v || (x.st == 2 && (storeEntry s at_).isNone) || (same && (x.hm != t.hm.code || x.hdc != t.hd)) then
    .error (.trap (badrec 2 at_))
  else .ok x

/-- Bytes of a store written at the array by the words of this chapter, which a seal does not refuse. -/
def storeWrite (s : State) (at_ n v : Nat) : State :=
  match windowOf s s.hart at_ with
  | some loc => s.arrayWrite loc n v
  | none => s

/-- Item i of a store. -/
def readItem (s : State) (t : VType) (at_ i : Nat) : Except Stop Nat := do
  let z := t.itemBytes
  let (v, _) ← rangeRead s s.hart .other (lineFuel z) (at_ + 128 + i * z) z
  .ok v

/-- Items 0 to n - 1. -/
def readItems (s : State) (t : VType) (at_ : Nat) (n : Nat) : Except Stop (List Nat) :=
  (List.range n).mapM (readItem s t at_)

/-- The words of this chapter that neither query a store nor are stopped in their course (R166). -/
def storeWord (s : State) (wf : Bool) (fit : VType → Bool) (reads : List RegId) (writes : List RegId)
    (body : State → VType → Except Stop State) : Outcome :=
  let t := vtypeOf s
  runPlain s .v wf (fits s fit) reads writes (fun s => (body s t).map varyTime)

/-- ISOPEN (R160, R161). -/
def execIsopen (d a b : BitVec 5) (s : State) : Outcome :=
  storeWord s (isH d && isH a && isH b) (fun _ => true) [.h a.toNat, .h b.toNat] [.h d.toNat] (fun s t => do
    let at_ ← storeAddr s a
    let x := (hRead s.hart b.toNat).toNat
    let cap := x % 2 ^ 32
    let done (s : State) (r : Nat) : State := retire (s.mapHart (fun h => hWrite h d.toNat (word r)))
    if cap < 1 ∨ 4096 < cap ∨ !inGrant s at_ (128 + cap * t.itemBytes) then .ok (done s 1)
    else do
      let h ← readHeader s t at_ false
      if h.st != 0 then .ok (done s 2)
      else do
        awaitEngines s s.hart .write at_
        let s := storeWrite s at_ 3 (1 + t.hm.code * 256 + t.hd * 65536)
        .ok (done (storeWrite s (at_ + 4) 12 (cap + x / 2 ^ 32 * 2 ^ 64)) 0))

/-- ISLOAD (R160). -/
def execIsload (d a b : BitVec 5) (s : State) : Outcome :=
  storeWord s (isH d && isH a) (fun t => t.aligned b) (.h a.toNat :: (vtypeOf s).regs b) [.h d.toNat] (fun s t => do
    let at_ ← storeAddr s a
    let x ← readHeader s t at_ true
    let done (s : State) (r : Word) : State := retire (s.mapHart (fun h => hWrite h d.toNat r))
    if x.st != 1 then .error (.trap (badrec 2 at_))
    else if x.cap ≤ x.count then .ok (done s ones64)
    else
      let z := t.itemBytes
      let item := at_ + 128 + x.count * z
      if !inGrant s item z then .error (.trap (protect .write item))
      else do
        awaitEngines s s.hart .write at_
        awaitEngines s s.hart .write item
        let s := storeWrite s item z (hvBitsOf s.hart t b.toNat)
        .ok (done (storeWrite s (at_ + 8) 4 (x.count + 1)) (word x.count)))

/-- ISSEAL (R159, R160): the entry names the extent's bytes in the grant; a store whose CAP reaches beyond the grant is
sealed for the bytes inside it, and the entries of a context that is Halted and saved count among the 16 (DESIGN CHOICE,
notes/assumptions/121). -/
def execIsseal (d a : BitVec 5) (s : State) : Outcome :=
  storeWord s (isH d && isH a) (fun _ => true) [.h a.toNat] [.h d.toNat] (fun s t => do
    let at_ ← storeAddr s a
    let x ← readHeader s t at_ true
    let done (s : State) (r : Nat) : State := retire (s.mapHart (fun h => hWrite h d.toNat (word r)))
    let core := s.hart.place.core
    if x.st == 0 then .error (.trap (badrec 2 at_))
    else if x.st == 2 then .ok (done s 0)
    else if 16 ≤ (s.core core).stores.length then .ok (done s 1)
    else match coreGrant s with
      | none => .error (.trap (protect .read at_))
      | some g => do
        awaitEngines s s.hart .write at_
        let off := at_ - coreBase
        let e : StoreEntry := ⟨s.hart.asid, s.hart.launch, g.gid, off, min (128 + x.cap * t.itemBytes) (g.size - off)⟩
        let s := (storeWrite s at_ 1 2).mapCore core (fun c => { c with stores := c.stores ++ [e] })
        .ok (done s 0))

/-- ISREL (R160, R162). A query runs as one step or in whole items, so none is in progress. -/
def execIsrel (a : BitVec 5) (s : State) : Outcome :=
  storeWord s (isH a) (fun _ => true) [.h a.toNat] [] (fun s t => do
    let at_ ← storeAddr s a
    let x ← readHeader s t at_ false
    if x.st == 0 then .ok (retire s)
    else do
      awaitEngines s s.hart .write at_
      let e := storeEntry s at_
      let s := s.mapCore s.hart.place.core (fun c => { c with stores := c.stores.filter (fun y => some y != e) })
      .ok (retire (storeWrite s at_ 1 0)))

/-! ### Recall (R163) -/

/-- The running state of a scan: best index and agreement, second index and agreement. -/
structure Scan where
  best  : Word
  bestG : Word
  next  : Word
  nextG : Word
  deriving DecidableEq, Repr, Inhabited

/-- One item taken into a scan. -/
def Scan.take (x : Scan) (i g : Nat) : Scan :=
  if x.best == ones64 || decide (x.bestG.toNat < g) then
    if x.best != ones64 then ⟨word i, word g, x.best, x.bestG⟩ else ⟨word i, word g, x.next, x.nextG⟩
  else if x.next == ones64 || decide (x.nextG.toNat < g) then { x with next := word i, nextG := word g }
  else x

/-- The status of a whole scan. -/
def Scan.status (x : Scan) (count floor : Nat) : Nat :=
  if count = 0 then 3
  else if x.bestG.toNat < floor then 2
  else if x.next != ones64 && x.nextG == x.bestG then 1
  else 0

/-- Items `i` on scanned: the running state after them, or after those before one that cannot be read, with its index and
why. -/
def scanItems (s : State) (t : VType) (at_ q : Nat) : List Nat → Scan → Scan × Option (Nat × Stop)
  | [], x => (x, none)
  | i :: rest, x =>
    match readItem s t at_ i with
    | .ok y => scanItems s t at_ q rest (x.take i (agreement t.hm t.dim q y))
    | .error e => (x, some (i, e))

/-- The progress a word has made stands in VPROG; inside a timed region it is lost with the region (R166). -/
def keepProgress (h : Hart) (n : Nat) : Hart := { h with cs := { h.cs with vprog := if h.cs.hstat.timed then 0 else word n } }

/-- Four consecutive h registers written. -/
def hWrite4 (h : Hart) (d : Nat) (a b c e : Word) : Hart :=
  hWrite (hWrite (hWrite (hWrite h d a) (d + 1) b) (d + 2) c) (d + 3) e

/-- The arbiter of the core's clean-up unit. -/
def cleanupArb (s : State) : Arb := .cleanup s.hart.place.core

/-- The clean-up unit compares items: it is occupied, and its arbiter charges, for the time they take (R166, R285). -/
def chargeCleanup (s : State) (t : VType) (items : Nat) : State :=
  chargeUnit s (cleanupArb s) (items * ((t.dim * t.hm.width + 2047) / 2048))

/-- HCLEAN (R163). -/
def execHclean (d a b : BitVec 5) (s : State) : Outcome :=
  let t := vtypeOf s
  let n := d.toNat
  let results : List RegId := [.h n, .h (n + 1), .h (n + 2), .h (n + 3)]
  runPlain s .v (isRecordBase d && isH b) (fits s (fun t => t.aligned a))
    (.h b.toNat :: (t.regs a ++ (if s.hart.cs.vprog = 0 then [] else results))) results (fun s => do
    let at_ ← storeAddr s b
    let hd ← readHeader s t at_ true
    if hd.st != 2 then .error (.trap (badrec 2 at_))
    else atUnit s (cleanupArb s) (fun s =>
      let h := s.hart
      let start := h.cs.vprog.toNat
      let stop := match abandonOf s with
        | some c => max start (min c hd.count)
        | none => hd.count
      let first : Scan := if start = 0 then ⟨ones64, 0, ones64, 0⟩
        else ⟨hRead h n, hRead h (n + 1), hRead h (n + 2), hRead h (n + 3)⟩
      let (x, e) := scanItems s t at_ (hvBitsOf h t a.toNat) (List.range' start (stop - start)) first
      let s := chargeCleanup s t (match e with | some (i, _) => i - start | none => stop - start)
      let kept (i : Nat) : State := s.mapHart (fun h => keepProgress (hWrite4 h n x.best x.bestG x.next x.nextG) i)
      match e with
      | some (i, e) => if i = start then .error e else trapAfter (kept i) e
      | none =>
        if hd.count ≤ stop then
          .ok (varyTime (retire (s.mapHart (fun h => hWrite4 h n x.best x.bestG x.next (word (x.status hd.count hd.floor))))))
        else .ok (stall (kept stop))))

/-! ### Factorisation (R164) -/

/-- Component j of the thresholded sum of weighted items; ties take `tie`. -/
def bundleComp (hm : HvModel) (items : List Nat) (weights : List Int) (tie j : Nat) : Nat :=
  let adds (k : Nat) : Int := (List.zip items weights).foldl
    (fun acc x => acc + x.2 * (counterAdds hm (elem hm.width x.1 j)).getD k 0) 0
  threshold hm ((List.range hm.counters).map adds) tie

/-- A hypervector from its components. -/
def packHv (hm : HvModel) (n : Nat) (f : Nat → Nat) : Nat :=
  (packLanes hm.width ((List.range n).map (fun j => some (f j)))).1

/-- The bundle of a store's items (R164). -/
def bundle (t : VType) (items : List Nat) (weights : List Int) (tie : Nat) : Nat :=
  packHv t.hm t.dim (fun j => bundleComp t.hm items weights (elem t.hm.width tie j) j)

/-- Z: every component +1, or code 0. -/
def unitHv (t : VType) : Nat :=
  packHv t.hm t.dim (fun _ => match t.hm with | .phase => 0 | m => hvOfSign m 1)

/-- A hypervector unbound by another. -/
def unbindHv (t : VType) (x y : Nat) : Nat :=
  packHv t.hm t.dim (fun j => unbindComp t.hm (elem t.hm.width x j) (elem t.hm.width y j))

/-- The lowest index with the greatest weight. -/
def bestIndex (w : List Int) : Nat :=
  (w.zipIdx.foldl (fun (acc : Nat × Int) x => if acc.2 < x.1 then (x.2, x.1) else acc) (0, w.headD 0)).1

/-- The running state of a factorisation: h[d], h[d+1], h[d+2+f], the estimates, and VPROG. -/
structure Factoring where
  older : Word
  tuple : Nat
  prev  : List Word
  est   : List Nat
  iter  : Nat
  step  : Nat
  chg   : Bool
  deriving DecidableEq, Repr, Inhabited

/-- Field f of a tuple. -/
def tupleField (t f : Nat) : Nat := t / 2 ^ (12 * f) % 4096
/-- A tuple with field f replaced. -/
def setTupleField (t f x : Nat) : Nat := t - tupleField t f * 2 ^ (12 * f) + x % 4096 * 2 ^ (12 * f)
/-- A tuple from indices. -/
def packTuple (l : List Word) : Nat := l.foldr (fun x acc => x.toNat % 4096 + 4096 * acc) 0

/-- The factor step of factor f over the items of its store. A store without items has no index to give: it takes the free
one of `pick`. -/
def factorStep (t : VType) (u0 : Nat) (items : List Nat) (pick : Nat) (x : Factoring) (f : Nat) : Factoring :=
  let u := x.est.zipIdx.foldl (fun u e => if e.2 = f then u else unbindHv t u e.1) u0
  let w : List Int := items.map (fun y => 2 * (agreement t.hm t.dim u y : Nat) - (t.dim : Int))
  let old := x.est.getD f 0
  let n := bundle t items w old
  { x with
    tuple := setTupleField x.tuple f (if items.isEmpty then pick else bestIndex w),
    est := x.est.set f n, chg := x.chg || n != old, step := f + 1 }

/-- The end of an iteration: a status, or the state of the next one. -/
def endIteration (icap : Nat) (x : Factoring) : Option Nat × Factoring :=
  let x := { x with iter := x.iter + 1 }
  let cur := x.tuple
  let now := x.prev.zipIdx.map (fun y => word (tupleField cur y.2))
  let p := packTuple x.prev
  let status : Option Nat :=
    if !x.chg then some 0
    else if x.older != ones64 && word cur == x.older && cur != p then some 2
    else if x.iter = icap then some 1
    else none
  match status with
  | some st => (some st, { x with prev := now })
  | none =>
    (none, { x with older := if x.prev.headD 0 == ones64 then ones64 else word p, prev := now, tuple := 0, step := 0, chg := false })

/-- How a run of factor steps ends: with a status, at its limit, or at a step that cannot be made. -/
inductive FactorEnd where
  | status (n : Nat)
  | limit
  | stop (e : Stop)
  deriving DecidableEq, Repr

/-- Factor steps until the word ends, `limit` of them are done or a store refuses one; `fuel` bounds the steps of an
uninterrupted run. `items f` checks the stores and reads the items of store f. -/
def factorRun (t : VType) (u0 : Nat) (items : Nat → Except Stop (List Nat)) (pick icap nf : Nat) (limit : Option Nat) :
    Nat → Nat → Factoring → FactorEnd × Factoring
  | 0, _, x => (.limit, x)
  | fuel + 1, done, x =>
    if x.step < nf then
      if limit == some done then (.limit, x)
      else match items x.step with
        | .error e => (.stop e, x)
        | .ok l => factorRun t u0 items pick icap nf limit fuel (done + 1) (factorStep t u0 l pick x x.step)
    else
      match endIteration icap x with
      | (some st, y) => (.status st, y)
      | (none, y) => factorRun t u0 items pick icap nf limit fuel done y

/-- The control of a factorisation is in range and its registers fit (R164). -/
def factorFits (t : VType) (c : Nat) (d a b : BitVec 5) : Bool :=
  let nf := c % 8
  decide (2 ≤ nf ∧ nf ≤ 4) && decide (1 ≤ c / 2 ^ 16 % 2 ^ 16) && c / 8 % 2 ^ 13 == 0 && c / 2 ^ 32 == 0 &&
    decide (b.toNat + nf ≤ 15) && decide (d.toNat + 1 + nf ≤ 15) && decide (a.toNat + (nf + 1) * t.group ≤ 32) &&
    !overlap b.toNat (nf + 1) d.toNat (nf + 2)

/-- A store checked for a query: its address and its count of items (R160). -/
def checkStore (s : State) (t : VType) (r : Nat) : Except Stop (Nat × Nat) := do
  let at_ ← storeAddr s (BitVec.ofNat 5 r)
  let x ← readHeader s t at_ true
  if x.st != 2 then .error (.trap (badrec 2 at_)) else .ok (at_, x.count)

/-- The stores of a factorisation checked, as at each factor step, and the items of store f read (R160, R164). -/
def storeItems (s : State) (t : VType) (b nf f : Nat) : Except Stop (List Nat) := do
  let l ← (List.range nf).mapM (fun g => checkStore s t (b + 1 + g))
  let (at_, n) := l.getD f (0, 0)
  readItems s t at_ n

/-- A store of a factorisation holds no item. -/
def anyEmpty (s : State) (t : VType) (b nf : Nat) : Bool :=
  (List.range nf).any (fun g => match checkStore s t (b + 1 + g) with
    | .ok (_, n) => n == 0
    | .error _ => false)

/-- The group of estimate f. -/
def estimateReg (t : VType) (a : BitVec 5) (f : Nat) : Nat := a.toNat + (f + 1) * t.group

/-- The state of a factorisation put into the registers. -/
def storeFactoring (h : Hart) (t : VType) (d a : BitVec 5) (x : Factoring) : Hart :=
  let h := x.est.zipIdx.foldl (fun h e =>
    applyWrites h (groupWrites h (estimateReg t a e.2) t.group e.1 (2 ^ (regBits h * t.group) - 1))) h
  x.prev.zipIdx.foldl (fun h p => hWrite h (d.toNat + 2 + p.2) p.1) h

/-- Items compared up to a point of a factorisation, by the sizes of its stores. -/
def itemsUpTo (sizes : List Nat) (x : Factoring) : Nat := x.iter * sizes.sum + (sizes.take x.step).sum

/-- HFACT (R164). -/
def execHfact (d a b : BitVec 5) (s : State) : Outcome :=
  let t := vtypeOf s
  runPlain s .v (isH d && isH b) (fits s (fun t => t.aligned a)) (.h b.toNat :: t.regs a) [] (fun s =>
    let c := (hRead s.hart b.toNat).toNat
    if !factorFits t c d a b then .error (.trap (illtype s))
    else do
      let nf := c % 8
      let icap := c / 2 ^ 16 % 2 ^ 16
      let h := s.hart
      let old := h.cs.vprog.toNat
      let stores : List RegId := (List.range nf).map (fun f => RegId.h (b.toNat + 1 + f))
      let results : List RegId := (List.range (nf + 2)).map (fun f => RegId.h (d.toNat + f)) ++ vGroup (estimateReg t a 0) (nf * t.group)
      awaitWrites s (stores ++ results)
      match poisonedRead h (stores ++ (if old = 0 then [] else results)) with
      | some x => .error (.trap x)
      | none => atUnit s (cleanupArb s) (fun s => do
        let items := storeItems s t b.toNat nf
        let first : Factoring ← (
          if old = 0 then do
            let books ← (List.range nf).mapM items
            .ok { older := ones64, tuple := 0, prev := List.replicate nf ones64,
                  est := books.map (fun l => bundle t l (l.map (fun _ => 1)) (unitHv t)), iter := 0, step := 0, chg := false }
          else
            .ok { older := hRead h d.toNat, tuple := (hRead h (d.toNat + 1)).toNat,
                  prev := (List.range nf).map (fun f => hRead h (d.toNat + 2 + f)),
                  est := (List.range nf).map (fun f => hvBitsOf h t (estimateReg t a f)),
                  iter := old % 2 ^ 16, step := old / 2 ^ 16 % 8, chg := old.testBit 19 })
        let (pick, s) := if anyEmpty s t b.toNat nf then s.draw else (0, s)
        let (st, x) := factorRun t (hvBitsOf h t a.toNat) items pick icap nf (abandonOf s) ((icap + 1) * (nf + 1)) 0 first
        let sizes := (List.range nf).map (fun f => match items f with | .ok l => l.length | .error _ => 0)
        let s := chargeCleanup s t (2 * (itemsUpTo sizes x - itemsUpTo sizes first))
        let kept : State := s.mapHart (fun h =>
          keepProgress (hWrite (hWrite (storeFactoring h t d a x) d.toNat x.older) (d.toNat + 1) (word x.tuple))
            (x.iter + x.step * 2 ^ 16 + bitAt x.chg 19))
        match st with
        | .status st =>
          .ok (varyTime (retire (s.mapHart (fun h =>
            hWrite (hWrite (storeFactoring h t d a x) d.toNat (word st)) (d.toNat + 1) (word x.iter)))))
        | .limit => if x.iter = 0 ∧ x.step = 0 then .ok (stall s) else .ok (stall kept)
        | .stop e => if x.iter = first.iter ∧ x.step = first.step then .error e else trapAfter kept e))

/-! ### The probability of recall (R165) -/

/-- Binomial coefficient. -/
def choose (n k : Nat) : Nat := Nat.choose n k

/-- q as a numerator over 2 ^ k. -/
def recallQ (k : Nat) : Nat := 2 ^ (k - 1) + choose (k - 1) ((k - 1) / 2)

/-- Sums of the binomial coefficients C(w, 0) to C(w, a), for a below w. -/
def binomialSum (w : Nat) : Nat → Nat
  | 0 => 0
  | a + 1 => binomialSum w a + choose w a

/-- P as a numerator over 2 ^ (k · w + w · (n - 1)). -/
def recallNum (w k n : Nat) : Nat :=
  (List.range (w + 1)).foldl
    (fun acc a => acc + choose w a * recallQ k ^ a * (2 ^ k - recallQ k) ^ (w - a) * binomialSum w a ^ (n - 1)) 0

/-- Fixed point with this many fraction bits (notes/assumptions/14). -/
def phiBits : Nat := 8192

/-- A product of two fixed-point numbers. -/
def fixMul (x y : Nat) : Nat := x * y / 2 ^ phiBits

/-- A power of a fixed-point number, by squaring; `fuel` bits of the exponent. -/
def fixPow (x : Nat) : Nat → Nat → Nat
  | 0, _ => 2 ^ phiBits
  | fuel + 1, n =>
    let r := fixPow (fixMul x x) fuel (n / 2)
    if n % 2 = 1 then fixMul x r else r

/-- The sum of a series whose terms each follow from the one before by a factor num i / den i. -/
def fixSeries (num den : Nat → Nat) : Nat → Nat → Nat → Nat → Nat
  | 0, _, _, acc => acc
  | fuel + 1, i, term, acc => fixSeries num den fuel (i + 1) (term * num i / den i / 2 ^ phiBits) (acc + term)

/-- exp x. -/
def fixExp (x : Nat) : Nat := fixSeries (fun _ => x) (fun i => i + 1) 32768 0 (2 ^ phiBits) 0

/-- arctan (1 / m), the alternating series in pairs. -/
def fixArctan (m : Nat) : Nat :=
  (List.range 4096).foldl
    (fun acc i => acc + (2 ^ phiBits / ((4 * i + 1) * m ^ (4 * i + 1)) - 2 ^ phiBits / ((4 * i + 3) * m ^ (4 * i + 3)))) 0

/-- The square root of 2 π. -/
def fixRootTau : Nat := Nat.sqrt (2 * (16 * fixArctan 5 - 4 * fixArctan 239) * 2 ^ phiBits)

/-- The normal distribution function at ± x: 1/2 ± φ(x) · Σ x^(2n+1) / (2n+1)!!; beyond 64 it is 0 or 1 to within the
fraction. -/
def fixPhi (neg : Bool) (x : Nat) : Nat :=
  if 64 * 2 ^ phiBits ≤ x then (if neg then 0 else 2 ^ phiBits)
  else
    let sq := fixMul x x
    let series := fixSeries (fun _ => sq) (fun i => 2 * i + 3) 32768 0 x 0
    let tail := series * 2 ^ phiBits / fixExp (sq / 2) * 2 ^ phiBits / fixRootTau
    if neg then 2 ^ (phiBits - 1) - tail else 2 ^ (phiBits - 1) + tail

/-- Φ at (2 a + c - 2 m) / (2 σ) for m = mNum / den and σ² = vNum / den²: the argument is
((2 a + c) den - 2 mNum) / (2 √vNum). -/
def phiAt (twoA : Int) (mNum den vNum : Nat) : Nat :=
  let num : Int := twoA * (den : Int) - 2 * (mNum : Int)
  fixPhi (decide (num < 0)) (num.natAbs * 2 ^ (2 * phiBits) / (2 * Nat.sqrt (vNum * 2 ^ (2 * phiBits))))

/-- The normal approximation of P, in fixed point (R165). -/
def recallPhi (w k n : Nat) : Nat :=
  let q := recallQ k
  let d := 2 ^ k
  let var := w * q * (d - q)
  let bracket (a : Nat) : Nat :=
    if var = 0 then (if a = w then 2 ^ phiBits else 0)
    else phiAt (2 * (a : Int) + 1) (w * q) d var - phiAt (2 * (a : Int) - 1) (w * q) d var
  (List.range (w + 1)).foldl
    (fun acc a => acc + fixMul (bracket a) (fixPow (phiAt (2 * (a : Int) - 1) w 2 w) 33 (n - 1))) 0

/-- HPROB's value; above W = 4,096 `up` chooses between the two values that bracket the approximation. -/
def recallProb (w k n : Nat) (up : Bool) : Nat :=
  if k = 0 ∨ k % 2 = 0 ∨ 65535 < k ∨ n = 0 ∨ 2 ^ 32 < n then 0x7FF8000000000000
  else if n = 1 then 0x3FF0000000000000
  else if w ≤ 4096 then
    ((floatFormat .f64).round .rne false ⟨false, recallNum w k n, 1, -((k * w + w * (n - 1) : Nat) : Int)⟩).1
  else
    ((floatFormat .f64).round (if up then .rup else .rdn) false
      ⟨false, min (recallPhi w k n) (2 ^ phiBits), 1, -(phiBits : Int)⟩).1

/-- HPROB (R165). -/
def execHprob (d a b : BitVec 5) (s : State) : Outcome :=
  let t := vtypeOf s
  runPlain s .v (isH d && isH a && isH b) (fits s (fun t => t.hm == .bsc)) [.h a.toNat, .h b.toNat] [.h d.toNat] (fun s =>
    let k := (hRead s.hart a.toNat).toNat
    let n := (hRead s.hart b.toNat).toNat
    abandonable s (
      let (up, s) := if 4096 < t.dim then s.choose else (false, s)
      .ok (varyTime (retire (s.mapHart (fun h => hWrite h d.toNat (word (recallProb t.dim k n up))))))))

end Sys2Proof.Machine
end

