-- ==== Sys2Proof/Machine/LoadStore.lean ====
section
/-!
DEFINITION. LD and ST: scalar loads and stores (R128).
-/

namespace Sys2Proof.Machine

/-- The address g[a] + sext(imm9) · z, modulo 2 ^ 64 (notes/assumptions/116). -/
def scalarAddr (h : Hart) (a : BitVec 5) (i : BitVec 9) (z : Nat) : Word :=
  gRead h a.toNat + i.signExtend 64 * BitVec.ofNat 64 z

/-- LD: z bytes are loaded, extended by `ext` and written to g[d]. -/
def loadOp (s : State) (d a : BitVec 5) (i : BitVec 9) (z : Nat) (ext : Nat → Word) : Outcome :=
  runPlain s .s true true (gReg a ++ gReg d) [] (fun s =>
    let va := (scalarAddr s.hart a i z).toNat
    if va % z != 0 then .error (.trap (misalign va))
    else do
      let (v, s) ← scalarRead s .read va z
      .ok (retire (s.mapHart (fun h => gWrite h d.toNat (ext v)))))

/-- ST: the low z bytes of g[d] are stored. -/
def storeOp (s : State) (d a : BitVec 5) (i : BitVec 9) (z : Nat) : Outcome :=
  runPlain s .s true true (gReg a ++ gReg d) [] (fun s =>
    let va := (scalarAddr s.hart a i z).toNat
    if va % z != 0 then .error (.trap (misalign va))
    else do
      let s ← scalarWrite s va z ((gRead s.hart d.toNat).toNat % 256 ^ z)
      .ok (retire s))

/-- A value of n bits extended with its sign. -/
def extendSigned (n v : Nat) : Word := (BitVec.ofNat n v).signExtend 64

/-- LD.B (R128). -/
def execLdB (d a : BitVec 5) (i : BitVec 9) (s : State) : Outcome := loadOp s d a i 1 (extendSigned 8)
/-- LD.BN (R128). -/
def execLdBn (d a : BitVec 5) (i : BitVec 9) (s : State) : Outcome := loadOp s d a i 1 word
/-- LD.H (R128). -/
def execLdH (d a : BitVec 5) (i : BitVec 9) (s : State) : Outcome := loadOp s d a i 2 (extendSigned 16)
/-- LD.HN (R128). -/
def execLdHn (d a : BitVec 5) (i : BitVec 9) (s : State) : Outcome := loadOp s d a i 2 word
/-- LD.W (R128). -/
def execLdW (d a : BitVec 5) (i : BitVec 9) (s : State) : Outcome := loadOp s d a i 4 (extendSigned 32)
/-- LD.WN (R128). -/
def execLdWn (d a : BitVec 5) (i : BitVec 9) (s : State) : Outcome := loadOp s d a i 4 word
/-- LD.D (R128). -/
def execLdD (d a : BitVec 5) (i : BitVec 9) (s : State) : Outcome := loadOp s d a i 8 word
/-- ST.B (R128). -/
def execStB (d a : BitVec 5) (i : BitVec 9) (s : State) : Outcome := storeOp s d a i 1
/-- ST.H (R128). -/
def execStH (d a : BitVec 5) (i : BitVec 9) (s : State) : Outcome := storeOp s d a i 2
/-- ST.W (R128). -/
def execStW (d a : BitVec 5) (i : BitVec 9) (s : State) : Outcome := storeOp s d a i 4
/-- ST.D (R128). -/
def execStD (d a : BitVec 5) (i : BitVec 9) (s : State) : Outcome := storeOp s d a i 8

end Sys2Proof.Machine
end

