-- ==== Sys2Proof/Machine/Queues.lean ====
section
/-!
DEFINITION. VQ and RQ: block dispatch and replies (R56 to R59, R69, R70).
-/

namespace Sys2Proof.Machine

/-- VDISP: the entry is appended after the hart's earlier scalar stores, which stand in its L1 (R59, R69). -/
def execVdisp (d a b : BitVec 5) (s : State) : Outcome :=
  runPlain s .s (isArgBase d) true
    (gReg a ++ gReg b ++ gReg d ++ gReg (d + 1) ++ gReg (d + 2) ++ gReg (d + 3)) [] (fun s =>
    let h := s.hart
    let at_ := gRead h a.toNat
    if at_.toNat % 4 != 0 then .error (.trap (misalign at_.toNat))
    else if 32 ≤ h.ve.blockQ.length then .error .wait
    else
      let n := d.toNat
      let e : BlockEntry := ⟨at_, gRead h b.toNat, gRead h n, gRead h (n + 1), gRead h (n + 2), gRead h (n + 3), h.ve.seq⟩
      .ok (retire (s.mapHart (fun h => { h with
        ve := { h.ve with blockQ := h.ve.blockQ ++ [e], seq := h.ve.seq + 1, lastSeq := some h.ve.seq } }))))

/-- VDRAIN: waits until the vector side has retired the VEND of every dispatched block (R69). -/
def execVdrain (d : BitVec 5) (s : State) : Outcome :=
  runPlain s .s true true (gReg d) [] (fun s =>
    if !s.hart.ve.blockQ.isEmpty || s.hart.ve.block.isSome then .error .wait
    else
      let r := match s.hart.ve.lastSeq with
        | some n => n.setWidth 64
        | none => ones64
      .ok (retire (s.mapHart (fun h => gWrite h d.toNat r))))

/-- VQCNT (R69). -/
def execVqcnt (d : BitVec 5) (s : State) : Outcome :=
  runPlain s .s true true (gReg d) [] (fun s =>
    .ok (retire (s.mapHart (fun h => gWrite h d.toNat (word h.ve.blockQ.length)))))

/-- RQPOP (R70). -/
def execRqpop (d : BitVec 5) (s : State) : Outcome :=
  runPlain s .s true true (gReg d) [] (fun s =>
    match s.hart.ve.replies with
    | [] => .error .wait
    | x :: rest => .ok (retire (s.mapHart (fun h => gWrite { h with ve := { h.ve with replies := rest } } d.toNat x))))

/-- RQPEEK (R70). -/
def execRqpeek (d : BitVec 5) (s : State) : Outcome :=
  runPlain s .s true true (gReg d) [] (fun s =>
    match s.hart.ve.replies with
    | [] => .error .wait
    | x :: _ => .ok (retire (s.mapHart (fun h => gWrite h d.toNat x))))

/-- RQCNT (R70). -/
def execRqcnt (d : BitVec 5) (s : State) : Outcome :=
  runPlain s .s true true (gReg d) [] (fun s =>
    .ok (retire (s.mapHart (fun h => gWrite h d.toNat (word h.ve.replies.length)))))

end Sys2Proof.Machine
end

