-- ==== Sys2Proof/Machine/Tile.lean ====
section
/-!
DEFINITION. TILE: operand binding, scales and access to accumulator tiles (R170, R171, R179, R180).
-/

namespace Sys2Proof.Machine

/-- The limits on an operand tile's record (R180). -/
def operandShape (t : Tsr) : Bool := operandType t.et && decide (t.ext0 ≤ 128) && decide (t.count / t.ext0 ≤ 512)

/-- TLD: binds at issue, and completes when its pins are in place (R180). -/
def execTld (d a : BitVec 5) (s : State) : Outcome :=
  engineWord s (isOperandTile d && isH a) (fun _ => true) [.h a.toNat] [] (fun s _ => do
    let t := d.toNat
    let at_ := hRead s.hart a.toNat
    let (r, s) ← readShape s at_ at_.toNat
    if !operandShape r then .error (.trap (badrec 0 at_.toNat))
    else do
      awaitQueue s 1
      awaitTiles s [] [t]
      let s := s.mapHart (fun h => settleTilePoison (setOp h t (.bound r at_ [] none)) t false)
      let s := enqueue s { newCommand s (.tld t) none with state := .running s.clock }
      .ok (retire (s.mapHart (fun h => stampTiles h [t] (vget h.tl.producer t 0)))))

/-- The limits on the record a TST writes through (R180). -/
def storeShape (t : Tsr) (ts : BitVec 2) : Bool :=
  decide (t.ext0 ≤ (tileShape ts).2) && decide (t.count / t.ext0 ≤ (tileShape ts).1) &&
    (t.et == .f32 || t.et == .i32 || t.et == .n32 || t.et == .f16 || t.et == .bf16)

/-- TST. Inside a timed region it starts at issue (R189). The tile's shape is that of TS at issue. -/
def execTst (d a : BitVec 5) (s : State) : Outcome :=
  engineWord s (isH d && isAccTile a) (fun _ => true) [.h d.toNat] [] (fun s v => do
    let at_ := hRead s.hart d.toNat
    let (r, s) ← readShape s at_ at_.toNat
    if !storeShape r v.ts then .error (.trap (badrec 0 at_.toNat))
    else do
      checkTiles s [a.toNat]
      awaitQueue s 1
      let c := newCommand s (.tst a.toNat r v.ts) none
      if s.hart.cs.hstat.timed then
        if mayStart s s.hart.tl.queue c then .ok (retire (enqueue s { c with state := .running s.clock }))
        else .error .wait
      else .ok (retire (enqueue s c)))

/-- TZERO (R170, R180). -/
def execTzero (d : BitVec 5) (s : State) : Outcome :=
  engineWord s (isTile d) (fun _ => true) [] [] (fun s _ => do
    let t := d.toNat
    awaitTiles s [] [t]
    let s := s.mapHart (fun h =>
      settleTilePoison (if 8 ≤ t then setAcc h t 0 else setOp h t (.staged none 0 0 [] [] none)) t false)
    let (n, s) := takeNumber s [t]
    .ok (retire (s.mapHart (fun h => stampTiles h [t] n))))

/-- TMOV (R180). -/
def execTmov (d a b : BitVec 5) (s : State) : Outcome :=
  engineWord s (isAccTile a && isH b) (fun t => (t.et == .f32 || t.et == .i32 || t.et == .n32) && t.aligned d)
    [.h b.toNat] (vGroup d.toNat (vtypeOf s).group) (fun s t => do
    checkTiles s [a.toNat]
    awaitTiles s [a.toNat] []
    let h := s.hart
    let base := (hRead h b.toNat).toNat
    .ok (settleResult (elementOp s t (t.dest h d) 0#3 false (fun i =>
      (if base + i < tileElems then accElem h a.toNat (base + i) else 0, 0)))))

/-- TREL (R170). -/
def execTrel (d : BitVec 5) (s : State) : Outcome :=
  engineWord s (isOperandTile d) (fun _ => true) [] [] (fun s _ => do
    awaitTiles s [] [d.toNat]
    .ok (retire (s.mapHart (fun h => setOp h d.toNat .unbound))))

/-- An attachment set. -/
def attachScale (x : OpTile) (r : Option ScaleRef) : OpTile :=
  match x with
  | .unbound => .unbound
  | .bound t a p _ => .bound t a p r
  | .staged e rows cols l recs _ => .staged e rows cols l recs r

/-- The types a scale array can be attached to (R180). -/
def scaledType (e : Option ElemType) : Bool :=
  e == some .e2m1 || e == some .e4m3 || e == some .e5m2 || e == some .qn4 || e == some .qn8

/-- TSCL (R180). -/
def execTscl (d a : BitVec 5) (s : State) : Outcome :=
  engineWord s (isOperandTile d && isH a) (fun t => t.bs == 2 || t.bs == 3 || t.bs == 4) [.h a.toNat] [] (fun s t => do
    awaitTiles s [] [d.toNat]
    let x := opTile s.hart d.toNat
    if !scaledType x.shape.1 then .error (.trap (illtype s))
    else
      let at_ := (hRead s.hart a.toNat).toNat
      let r : Option ScaleRef := if at_ = 0 then none else some ⟨at_, t.block⟩
      .ok (retire (s.mapHart (fun h => setOp h d.toNat (attachScale x r)))))

end Sys2Proof.Machine
end

