-- ==== Sys2Proof/Machine/Dispatch.lean ====
section
/-!
DEFINITION. The dispatch: one arm for each constructor of Instr, each a call of its meaning.
-/

namespace Sys2Proof.Machine

def exec (i : Instr) (s : State) : Host.Outcome State Fault Refusal :=
  match i with
  | .nop => Sys2Proof.Machine.execNop s
  | .eret => Sys2Proof.Machine.execEret s
  | .wait d a => Sys2Proof.Machine.execWait d a s
  | .brk => Sys2Proof.Machine.execBrk s
  | .yield => Sys2Proof.Machine.execYield s
  | .fencei => Sys2Proof.Machine.execFencei s
  | .dusk => Sys2Proof.Machine.execDusk s
  | .dawn => Sys2Proof.Machine.execDawn s
  | .trap n => Sys2Proof.Machine.execTrap n s
  | .add d a b => Sys2Proof.Machine.execAdd d a b s
  | .sub d a b => Sys2Proof.Machine.execSub d a b s
  | .and d a b => Sys2Proof.Machine.execAnd d a b s
  | .or d a b => Sys2Proof.Machine.execOr d a b s
  | .xor d a b => Sys2Proof.Machine.execXor d a b s
  | .andn d a b => Sys2Proof.Machine.execAndn d a b s
  | .shl d a b => Sys2Proof.Machine.execShl d a b s
  | .shr d a b => Sys2Proof.Machine.execShr d a b s
  | .sra d a b => Sys2Proof.Machine.execSra d a b s
  | .mul d a b => Sys2Proof.Machine.execMul d a b s
  | .mulh d a b => Sys2Proof.Machine.execMulh d a b s
  | .mulhn d a b => Sys2Proof.Machine.execMulhn d a b s
  | .div d a b => Sys2Proof.Machine.execDiv d a b s
  | .divn d a b => Sys2Proof.Machine.execDivn d a b s
  | .rem d a b => Sys2Proof.Machine.execRem d a b s
  | .remn d a b => Sys2Proof.Machine.execRemn d a b s
  | .slt d a b => Sys2Proof.Machine.execSlt d a b s
  | .sltn d a b => Sys2Proof.Machine.execSltn d a b s
  | .min d a b => Sys2Proof.Machine.execMin d a b s
  | .max d a b => Sys2Proof.Machine.execMax d a b s
  | .minn d a b => Sys2Proof.Machine.execMinn d a b s
  | .maxn d a b => Sys2Proof.Machine.execMaxn d a b s
  | .clz d a => Sys2Proof.Machine.execClz d a s
  | .ctz d a => Sys2Proof.Machine.execCtz d a s
  | .popc d a => Sys2Proof.Machine.execPopc d a s
  | .rotl d a b => Sys2Proof.Machine.execRotl d a b s
  | .sel d a b => Sys2Proof.Machine.execSel d a b s
  | .addi d a imm => Sys2Proof.Machine.execAddi d a imm s
  | .andi d a imm => Sys2Proof.Machine.execAndi d a imm s
  | .ori d a imm => Sys2Proof.Machine.execOri d a imm s
  | .xori d a imm => Sys2Proof.Machine.execXori d a imm s
  | .shli d a imm => Sys2Proof.Machine.execShli d a imm s
  | .shri d a imm => Sys2Proof.Machine.execShri d a imm s
  | .srai d a imm => Sys2Proof.Machine.execSrai d a imm s
  | .slti d a imm => Sys2Proof.Machine.execSlti d a imm s
  | .lis d imm => Sys2Proof.Machine.execLis d imm s
  | .shim d imm => Sys2Proof.Machine.execShim d imm s
  | .beqz a o => Sys2Proof.Machine.execBeqz a o s
  | .bnez a o => Sys2Proof.Machine.execBnez a o s
  | .bltz a o => Sys2Proof.Machine.execBltz a o s
  | .bgez a o => Sys2Proof.Machine.execBgez a o s
  | .bgtz a o => Sys2Proof.Machine.execBgtz a o s
  | .blez a o => Sys2Proof.Machine.execBlez a o s
  | .jmp o => Sys2Proof.Machine.execJmp o s
  | .call o => Sys2Proof.Machine.execCall o s
  | .jr a => Sys2Proof.Machine.execJr a s
  | .callr a => Sys2Proof.Machine.execCallr a s
  | .ret => Sys2Proof.Machine.execRet s
  | .ldB d a imm => Sys2Proof.Machine.execLdB d a imm s
  | .ldBn d a imm => Sys2Proof.Machine.execLdBn d a imm s
  | .ldH d a imm => Sys2Proof.Machine.execLdH d a imm s
  | .ldHn d a imm => Sys2Proof.Machine.execLdHn d a imm s
  | .ldW d a imm => Sys2Proof.Machine.execLdW d a imm s
  | .ldWn d a imm => Sys2Proof.Machine.execLdWn d a imm s
  | .ldD d a imm => Sys2Proof.Machine.execLdD d a imm s
  | .stB d a imm => Sys2Proof.Machine.execStB d a imm s
  | .stH d a imm => Sys2Proof.Machine.execStH d a imm s
  | .stW d a imm => Sys2Proof.Machine.execStW d a imm s
  | .stD d a imm => Sys2Proof.Machine.execStD d a imm s
  | .amoAdd d a b c => Sys2Proof.Machine.execAmoAdd d a b c s
  | .amoAnd d a b c => Sys2Proof.Machine.execAmoAnd d a b c s
  | .amoOr d a b c => Sys2Proof.Machine.execAmoOr d a b c s
  | .amoXor d a b c => Sys2Proof.Machine.execAmoXor d a b c s
  | .amoMin d a b c => Sys2Proof.Machine.execAmoMin d a b c s
  | .amoMax d a b c => Sys2Proof.Machine.execAmoMax d a b c s
  | .amoSwap d a b c => Sys2Proof.Machine.execAmoSwap d a b c s
  | .amoCas d a b c => Sys2Proof.Machine.execAmoCas d a b c s
  | .amoFadd d a b c => Sys2Proof.Machine.execAmoFadd d a b c s
  | .acq a => Sys2Proof.Machine.execAcq a s
  | .rel a => Sys2Proof.Machine.execRel a s
  | .bind d a b => Sys2Proof.Machine.execBind d a b s
  | .unbind a b => Sys2Proof.Machine.execUnbind a b s
  | .fence c => Sys2Proof.Machine.execFence c s
  | .fenceV c => Sys2Proof.Machine.execFenceV c s
  | .csrx d a x => Sys2Proof.Machine.execCsrx d a x s
  | .csrs d a x => Sys2Proof.Machine.execCsrs d a x s
  | .frmWrite v => Sys2Proof.Machine.execFrmWrite v s
  | .vpfbWrite v => Sys2Proof.Machine.execVpfbWrite v s
  | .spdiscWrite v => Sys2Proof.Machine.execSpdiscWrite v s
  | .registerWrite reg v => Sys2Proof.Machine.execRegisterWrite reg v s
  | .vdisp d a b => Sys2Proof.Machine.execVdisp d a b s
  | .vdrain d => Sys2Proof.Machine.execVdrain d s
  | .vqcnt d => Sys2Proof.Machine.execVqcnt d s
  | .rqpop d => Sys2Proof.Machine.execRqpop d s
  | .rqpeek d => Sys2Proof.Machine.execRqpeek d s
  | .rqcnt d => Sys2Proof.Machine.execRqcnt d s
  | .launch d a => Sys2Proof.Machine.execLaunch d a s
  | .launchg d a => Sys2Proof.Machine.execLaunchg d a s
  | .csig d a b => Sys2Proof.Machine.execCsig d a b s
  | .cancel a => Sys2Proof.Machine.execCancel a s
  | .cread d a => Sys2Proof.Machine.execCread d a s
  | .binit d a b c => Sys2Proof.Machine.execBinit d a b c s
  | .barrive d a c => Sys2Proof.Machine.execBarrive d a c s
  | .bwait d a b c => Sys2Proof.Machine.execBwait d a b c s
  | .barw d a c => Sys2Proof.Machine.execBarw d a c s
  | .btest d a b c => Sys2Proof.Machine.execBtest d a b c s
  | .snapBegin d a b => Sys2Proof.Machine.execSnapBegin d a b s
  | .snapAccept a => Sys2Proof.Machine.execSnapAccept a s
  | .snapReject a => Sys2Proof.Machine.execSnapReject a s
  | .snapQuery d a => Sys2Proof.Machine.execSnapQuery d a s
  | .snapPool d a b => Sys2Proof.Machine.execSnapPool d a b s
  | .wqOpen d a => Sys2Proof.Machine.execWqOpen d a s
  | .wqRun a => Sys2Proof.Machine.execWqRun a s
  | .wqPoll d a => Sys2Proof.Machine.execWqPoll d a s
  | .wqResult d a => Sys2Proof.Machine.execWqResult d a s
  | .wqClose a => Sys2Proof.Machine.execWqClose a s
  | .vadd d a b m => Sys2Proof.Machine.execVadd d a b m s
  | .vsub d a b m => Sys2Proof.Machine.execVsub d a b m s
  | .vmul d a b m => Sys2Proof.Machine.execVmul d a b m s
  | .vmulh d a b m => Sys2Proof.Machine.execVmulh d a b m s
  | .vmulhn d a b m => Sys2Proof.Machine.execVmulhn d a b m s
  | .vmin d a b m => Sys2Proof.Machine.execVmin d a b m s
  | .vmax d a b m => Sys2Proof.Machine.execVmax d a b m s
  | .vminn d a b m => Sys2Proof.Machine.execVminn d a b m s
  | .vmaxn d a b m => Sys2Proof.Machine.execVmaxn d a b m s
  | .vand d a b m => Sys2Proof.Machine.execVand d a b m s
  | .vor d a b m => Sys2Proof.Machine.execVor d a b m s
  | .vxor d a b m => Sys2Proof.Machine.execVxor d a b m s
  | .vandn d a b m => Sys2Proof.Machine.execVandn d a b m s
  | .vshl d a b m => Sys2Proof.Machine.execVshl d a b m s
  | .vshr d a b m => Sys2Proof.Machine.execVshr d a b m s
  | .vsra d a b m => Sys2Proof.Machine.execVsra d a b m s
  | .vintsVadd d a b m => Sys2Proof.Machine.execVintsVadd d a b m s
  | .vintsVsub d a b m => Sys2Proof.Machine.execVintsVsub d a b m s
  | .vintsVmul d a b m => Sys2Proof.Machine.execVintsVmul d a b m s
  | .vintsVmulh d a b m => Sys2Proof.Machine.execVintsVmulh d a b m s
  | .vintsVmulhn d a b m => Sys2Proof.Machine.execVintsVmulhn d a b m s
  | .vintsVmin d a b m => Sys2Proof.Machine.execVintsVmin d a b m s
  | .vintsVmax d a b m => Sys2Proof.Machine.execVintsVmax d a b m s
  | .vintsVminn d a b m => Sys2Proof.Machine.execVintsVminn d a b m s
  | .vintsVmaxn d a b m => Sys2Proof.Machine.execVintsVmaxn d a b m s
  | .vintsVand d a b m => Sys2Proof.Machine.execVintsVand d a b m s
  | .vintsVor d a b m => Sys2Proof.Machine.execVintsVor d a b m s
  | .vintsVxor d a b m => Sys2Proof.Machine.execVintsVxor d a b m s
  | .vintsVandn d a b m => Sys2Proof.Machine.execVintsVandn d a b m s
  | .vintsVshl d a b m => Sys2Proof.Machine.execVintsVshl d a b m s
  | .vintsVshr d a b m => Sys2Proof.Machine.execVintsVshr d a b m s
  | .vintsVsra d a b m => Sys2Proof.Machine.execVintsVsra d a b m s
  | .vfadd d a b m => Sys2Proof.Machine.execVfadd d a b m s
  | .vfsub d a b m => Sys2Proof.Machine.execVfsub d a b m s
  | .vfmul d a b m => Sys2Proof.Machine.execVfmul d a b m s
  | .vfdiv d a b m => Sys2Proof.Machine.execVfdiv d a b m s
  | .vfmin d a b m => Sys2Proof.Machine.execVfmin d a b m s
  | .vfmax d a b m => Sys2Proof.Machine.execVfmax d a b m s
  | .vfsqrt d a m => Sys2Proof.Machine.execVfsqrt d a m s
  | .vfabs d a m => Sys2Proof.Machine.execVfabs d a m s
  | .vfneg d a m => Sys2Proof.Machine.execVfneg d a m s
  | .vadds d a b m => Sys2Proof.Machine.execVadds d a b m s
  | .vsubs d a b m => Sys2Proof.Machine.execVsubs d a b m s
  | .vfltsVfadd d a b m => Sys2Proof.Machine.execVfltsVfadd d a b m s
  | .vfltsVfsub d a b m => Sys2Proof.Machine.execVfltsVfsub d a b m s
  | .vfltsVfmul d a b m => Sys2Proof.Machine.execVfltsVfmul d a b m s
  | .vfltsVfdiv d a b m => Sys2Proof.Machine.execVfltsVfdiv d a b m s
  | .vfltsVfmin d a b m => Sys2Proof.Machine.execVfltsVfmin d a b m s
  | .vfltsVfmax d a b m => Sys2Proof.Machine.execVfltsVfmax d a b m s
  | .vfma d a b m => Sys2Proof.Machine.execVfma d a b m s
  | .vfms d a b m => Sys2Proof.Machine.execVfms d a b m s
  | .vfnma d a b m => Sys2Proof.Machine.execVfnma d a b m s
  | .vfnms d a b m => Sys2Proof.Machine.execVfnms d a b m s
  | .vmac d a b m => Sys2Proof.Machine.execVmac d a b m s
  | .vdot4 d a b m => Sys2Proof.Machine.execVdot4 d a b m s
  | .vdot2 d a b m => Sys2Proof.Machine.execVdot2 d a b m s
  | .vfshl d a b k => Sys2Proof.Machine.execVfshl d a b k s
  | .vfshr d a b k => Sys2Proof.Machine.execVfshr d a b k s
  | .log3Low d a b t => Sys2Proof.Machine.execLog3Low d a b t s
  | .log3High d a b t => Sys2Proof.Machine.execLog3High d a b t s
  | .vslup d a b m => Sys2Proof.Machine.execVslup d a b m s
  | .vsldn d a b m => Sys2Proof.Machine.execVsldn d a b m s
  | .vgath d a b m => Sys2Proof.Machine.execVgath d a b m s
  | .vpush d a b m => Sys2Proof.Machine.execVpush d a b m s
  | .vcmpr d a m => Sys2Proof.Machine.execVcmpr d a m s
  | .vexpd d a m => Sys2Proof.Machine.execVexpd d a m s
  | .vbcst d b m => Sys2Proof.Machine.execVbcst d b m s
  | .vext d a b => Sys2Proof.Machine.execVext d a b s
  | .vid d m => Sys2Proof.Machine.execVid d m s
  | .viota d a m => Sys2Proof.Machine.execViota d a m s
  | .vrsum d a m => Sys2Proof.Machine.execVrsum d a m s
  | .vrmax d a m => Sys2Proof.Machine.execVrmax d a m s
  | .vrmin d a m => Sys2Proof.Machine.execVrmin d a m s
  | .vrand d a m => Sys2Proof.Machine.execVrand d a m s
  | .vror d a m => Sys2Proof.Machine.execVror d a m s
  | .vrxor d a m => Sys2Proof.Machine.execVrxor d a m s
  | .vfrsum d a m => Sys2Proof.Machine.execVfrsum d a m s
  | .vfrmax d a m => Sys2Proof.Machine.execVfrmax d a m s
  | .vfrmin d a m => Sys2Proof.Machine.execVfrmin d a m s
  | .cvtN d a k m => Sys2Proof.Machine.execCvtN d a k m s
  | .cvtW d a k m => Sys2Proof.Machine.execCvtW d a k m s
  | .cvtFi d a k m => Sys2Proof.Machine.execCvtFi d a k m s
  | .cvtIf d a k m => Sys2Proof.Machine.execCvtIf d a k m s
  | .cvtF4 d a m => Sys2Proof.Machine.execCvtF4 d a m s
  | .cvtQ d a b m => Sys2Proof.Machine.execCvtQ d a b m s
  | .vexp2 d a m => Sys2Proof.Machine.execVexp2 d a m s
  | .vlog2 d a m => Sys2Proof.Machine.execVlog2 d a m s
  | .vrcp d a m => Sys2Proof.Machine.execVrcp d a m s
  | .vrsq d a m => Sys2Proof.Machine.execVrsq d a m s
  | .vtanh d a m => Sys2Proof.Machine.execVtanh d a m s
  | .vsmax d a b m => Sys2Proof.Machine.execVsmax d a b m s
  | .vceq d a b m => Sys2Proof.Machine.execVceq d a b m s
  | .vcne d a b m => Sys2Proof.Machine.execVcne d a b m s
  | .vclt d a b m => Sys2Proof.Machine.execVclt d a b m s
  | .vcle d a b m => Sys2Proof.Machine.execVcle d a b m s
  | .vcltn d a b m => Sys2Proof.Machine.execVcltn d a b m s
  | .vclen d a b m => Sys2Proof.Machine.execVclen d a b m s
  | .vfceq d a b m => Sys2Proof.Machine.execVfceq d a b m s
  | .vfclt d a b m => Sys2Proof.Machine.execVfclt d a b m s
  | .vfcle d a b m => Sys2Proof.Machine.execVfcle d a b m s
  | .vfcun d a b m => Sys2Proof.Machine.execVfcun d a b m s
  | .vcmpsVceq d a b m => Sys2Proof.Machine.execVcmpsVceq d a b m s
  | .vcmpsVcne d a b m => Sys2Proof.Machine.execVcmpsVcne d a b m s
  | .vcmpsVclt d a b m => Sys2Proof.Machine.execVcmpsVclt d a b m s
  | .vcmpsVcle d a b m => Sys2Proof.Machine.execVcmpsVcle d a b m s
  | .vcmpsVcltn d a b m => Sys2Proof.Machine.execVcmpsVcltn d a b m s
  | .vcmpsVclen d a b m => Sys2Proof.Machine.execVcmpsVclen d a b m s
  | .vcmpsVfceq d a b m => Sys2Proof.Machine.execVcmpsVfceq d a b m s
  | .vcmpsVfclt d a b m => Sys2Proof.Machine.execVcmpsVfclt d a b m s
  | .vcmpsVfcle d a b m => Sys2Proof.Machine.execVcmpsVfcle d a b m s
  | .vcmpsVfcun d a b m => Sys2Proof.Machine.execVcmpsVfcun d a b m s
  | .mand d a b => Sys2Proof.Machine.execMand d a b s
  | .mor d a b => Sys2Proof.Machine.execMor d a b s
  | .mxor d a b => Sys2Proof.Machine.execMxor d a b s
  | .mandn d a b => Sys2Proof.Machine.execMandn d a b s
  | .mnot d a => Sys2Proof.Machine.execMnot d a s
  | .mset d => Sys2Proof.Machine.execMset d s
  | .mclr d => Sys2Proof.Machine.execMclr d s
  | .mfirst d a => Sys2Proof.Machine.execMfirst d a s
  | .mpopc d a => Sys2Proof.Machine.execMpopc d a s
  | .vmerge d a b m => Sys2Proof.Machine.execVmerge d a b m s
  | .vsetl d a => Sys2Proof.Machine.execVsetl d a s
  | .vsett d a => Sys2Proof.Machine.execVsett d a s
  | .vend => Sys2Proof.Machine.execVend s
  | .vreply a => Sys2Proof.Machine.execVreply a s
  | .vreplym a => Sys2Proof.Machine.execVreplym a s
  | .vjoin => Sys2Proof.Machine.execVjoin s
  | .vlcset d a => Sys2Proof.Machine.execVlcset d a s
  | .valc d => Sys2Proof.Machine.execValc d s
  | .vbany a o => Sys2Proof.Machine.execVbany a o s
  | .vbnone a o => Sys2Proof.Machine.execVbnone a o s
  | .vbdiv a o => Sys2Proof.Machine.execVbdiv a o s
  | .vlcnz a o => Sys2Proof.Machine.execVlcnz a o s
  | .vloop a o => Sys2Proof.Machine.execVloop a o s
  | .vjmp o => Sys2Proof.Machine.execVjmp o s
  | .vld d a m => Sys2Proof.Machine.execVld d a m s
  | .vldx d a b m => Sys2Proof.Machine.execVldx d a b m s
  | .vldl d a m => Sys2Proof.Machine.execVldl d a m s
  | .vst d a m => Sys2Proof.Machine.execVst d a m s
  | .vstx d a b m => Sys2Proof.Machine.execVstx d a b m s
  | .vstl d a m => Sys2Proof.Machine.execVstl d a m s
  | .vsta d a b m => Sys2Proof.Machine.execVsta d a b m s
  | .qset d a => Sys2Proof.Machine.execQset d a s
  | .qadv d a => Sys2Proof.Machine.execQadv d a s
  | .qpos d a => Sys2Proof.Machine.execQpos d a s
  | .qrel d => Sys2Proof.Machine.execQrel d s
  | .streamRunAhead at_ q ahead => Sys2Proof.Machine.execStreamRunAhead at_ q ahead s
  | .hbind d a b => Sys2Proof.Machine.execHbind d a b s
  | .hunbind d a b => Sys2Proof.Machine.execHunbind d a b s
  | .hperm d a b => Sys2Proof.Machine.execHperm d a b s
  | .hpermn d a b => Sys2Proof.Machine.execHpermn d a b s
  | .hbacc d a b => Sys2Proof.Machine.execHbacc d a b s
  | .hbth d a b => Sys2Proof.Machine.execHbth d a b s
  | .hgen d a => Sys2Proof.Machine.execHgen d a s
  | .hnot d a => Sys2Proof.Machine.execHnot d a s
  | .hclr d => Sys2Proof.Machine.execHclr d s
  | .hsim d a b => Sys2Proof.Machine.execHsim d a b s
  | .hclean d a b => Sys2Proof.Machine.execHclean d a b s
  | .hfact d a b => Sys2Proof.Machine.execHfact d a b s
  | .isopen d a b => Sys2Proof.Machine.execIsopen d a b s
  | .isload d a b => Sys2Proof.Machine.execIsload d a b s
  | .isseal d a => Sys2Proof.Machine.execIsseal d a s
  | .isrel a => Sys2Proof.Machine.execIsrel a s
  | .hprob d a b => Sys2Proof.Machine.execHprob d a b s
  | .tld d a => Sys2Proof.Machine.execTld d a s
  | .tst d a => Sys2Proof.Machine.execTst d a s
  | .tzero d => Sys2Proof.Machine.execTzero d s
  | .tmov d a b => Sys2Proof.Machine.execTmov d a b s
  | .trel d => Sys2Proof.Machine.execTrel d s
  | .tscl d a => Sys2Proof.Machine.execTscl d a s
  | .mma d a b o => Sys2Proof.Machine.execMma d a b o s
  | .mmaz d a b o => Sys2Proof.Machine.execMmaz d a b o s
  | .tbegin d a => Sys2Proof.Machine.execTbegin d a s
  | .tend => Sys2Proof.Machine.execTend s
  | .tcopy d a b => Sys2Proof.Machine.execTcopy d a b s
  | .tcopyM d a b => Sys2Proof.Machine.execTcopyM d a b s
  | .rfence => Sys2Proof.Machine.execRfence s
  | .twait => Sys2Proof.Machine.execTwait s
  | .sigd d a => Sys2Proof.Machine.execSigd d a s
  | .siginit d => Sys2Proof.Machine.execSiginit d s
  | .sigadd d a => Sys2Proof.Machine.execSigadd d a s
  | .sigmul d a => Sys2Proof.Machine.execSigmul d a s
  | .siglog d a => Sys2Proof.Machine.execSiglog d a s
  | .sigld d a => Sys2Proof.Machine.execSigld d a s
  | .sigst d a => Sys2Proof.Machine.execSigst d a s
  | .fbind d a => Sys2Proof.Machine.execFbind d a s
  | .fsend a b => Sys2Proof.Machine.execFsend a b s
  | .frecv d a => Sys2Proof.Machine.execFrecv d a s
  | .frecvop d a b => Sys2Proof.Machine.execFrecvop d a b s
  | .fcount d a => Sys2Proof.Machine.execFcount d a s
  | .fa2a a => Sys2Proof.Machine.execFa2a a s
  | .fwait d a => Sys2Proof.Machine.execFwait d a s
  | .frel a => Sys2Proof.Machine.execFrel a s
  | .bgath d a b m => Sys2Proof.Machine.execBgath d a b m s
  | .bscat d a b m => Sys2Proof.Machine.execBscat d a b m s
  | .bscadd d a b m => Sys2Proof.Machine.execBscadd d a b m s
  | .vfpush d a b m => Sys2Proof.Machine.execVfpush d a b m s
  | .vffree d => Sys2Proof.Machine.execVffree d s
  | .blat d a => Sys2Proof.Machine.execBlat d a s
  | .vpopc d a m => Sys2Proof.Machine.execVpopc d a m s
  | .vclz d a m => Sys2Proof.Machine.execVclz d a m s
  | .vbrev d a m => Sys2Proof.Machine.execVbrev d a m s
  | .vrotl d a b m => Sys2Proof.Machine.execVrotl d a b m s
  | .trapDelivery at_ => Sys2Proof.Machine.execTrapDelivery at_ s
  | .blockTake at_ => Sys2Proof.Machine.execBlockTake at_ s
  | .waitTimeout at_ => Sys2Proof.Machine.execWaitTimeout at_ s
  | .preempt asid launch => Sys2Proof.Machine.execPreempt asid launch s
  | .contextSaveComplete at_ => Sys2Proof.Machine.execContextSaveComplete at_ s
  | .contextResume asid => Sys2Proof.Machine.execContextResume asid s
  | .contextCreate asid root prio reserved => Sys2Proof.Machine.execContextCreate asid root prio reserved s
  | .contextBind asid fn => Sys2Proof.Machine.execContextBind asid fn s
  | .contextDestroy asid => Sys2Proof.Machine.execContextDestroy asid s
  | .cancellation asid counter => Sys2Proof.Machine.execCancellation asid counter s
  | .meterInterval => Sys2Proof.Machine.execMeterInterval s
  | .refreshEnergySplit energies => Sys2Proof.Machine.execRefreshEnergySplit energies s
  | .queueEntryTake q => Sys2Proof.Machine.execQueueEntryTake q s
  | .unitPlace asid launch at_ => Sys2Proof.Machine.execUnitPlace asid launch at_ s
  | .hartFree at_ => Sys2Proof.Machine.execHartFree at_ s
  | .graphNode asid graph token => Sys2Proof.Machine.execGraphNode asid graph token s
  | .arbiterTurn arb => Sys2Proof.Machine.execArbiterTurn arb s
  | .droopDetect core => Sys2Proof.Machine.execDroopDetect core s
  | .alcRestore core => Sys2Proof.Machine.execAlcRestore core s
  | .noonLend from_ to_ amount => Sys2Proof.Machine.execNoonLend from_ to_ amount s
  | .noonRecall from_ to_ amount => Sys2Proof.Machine.execNoonRecall from_ to_ amount s
  | .islandGate core => Sys2Proof.Machine.execIslandGate core s
  | .islandWake core => Sys2Proof.Machine.execIslandWake core s
  | .vfifoEntryPerform core => Sys2Proof.Machine.execVfifoEntryPerform core s
  | .bankRequestComplete at_ => Sys2Proof.Machine.execBankRequestComplete at_ s
  | .verticalPathDegrade core => Sys2Proof.Machine.execVerticalPathDegrade core s
  | .bankTemperatureChange core hot => Sys2Proof.Machine.execBankTemperatureChange core hot s
  | .engineCommandStart at_ k => Sys2Proof.Machine.execEngineCommandStart at_ k s
  | .engineStep at_ k => Sys2Proof.Machine.execEngineStep at_ k s
  | .engineCommandComplete at_ k => Sys2Proof.Machine.execEngineCommandComplete at_ k s
  | .regionGrant at_ => Sys2Proof.Machine.execRegionGrant at_ s
  | .timedCommandStart at_ k => Sys2Proof.Machine.execTimedCommandStart at_ k s
  | .regionOverrun at_ => Sys2Proof.Machine.execRegionOverrun at_ s
  | .bgathDue at_ => Sys2Proof.Machine.execBgathDue at_ s
  | .migrationStart asid va leaf => Sys2Proof.Machine.execMigrationStart asid va leaf s
  | .migrationHold k => Sys2Proof.Machine.execMigrationHold k s
  | .migrationSwitch k => Sys2Proof.Machine.execMigrationSwitch k s
  | .pageMap asid va entry leaf how => Sys2Proof.Machine.execPageMap asid va entry leaf how s
  | .pageUnmap asid va entry => Sys2Proof.Machine.execPageUnmap asid va entry s
  | .shootdown asid va len => Sys2Proof.Machine.execShootdown asid va len s
  | .shootdownComplete k => Sys2Proof.Machine.execShootdownComplete k s
  | .pageSweep entries => Sys2Proof.Machine.execPageSweep entries s
  | .shadowHeldWrite asid k => Sys2Proof.Machine.execShadowHeldWrite asid k s
  | .lazyRestore asid range => Sys2Proof.Machine.execLazyRestore asid range s
  | .walkStep core ctx => Sys2Proof.Machine.execWalkStep core ctx s
  | .flitRetry link flits failed => Sys2Proof.Machine.execFlitRetry link flits failed s
  | .linkEnable link => Sys2Proof.Machine.execLinkEnable link s
  | .linkTrainDone link passing => Sys2Proof.Machine.execLinkTrainDone link passing s
  | .linkTrainTimeout link => Sys2Proof.Machine.execLinkTrainTimeout link s
  | .linkRetrain link => Sys2Proof.Machine.execLinkRetrain link s
  | .laneLoss link => Sys2Proof.Machine.execLaneLoss link s
  | .lossOfSignal link => Sys2Proof.Machine.execLossOfSignal link s
  | .linkDrain link => Sys2Proof.Machine.execLinkDrain link s
  | .linkDrainDone link => Sys2Proof.Machine.execLinkDrainDone link s
  | .groupOpen id nrank asid locals mapAt members => Sys2Proof.Machine.execGroupOpen id nrank asid locals mapAt members s
  | .joinNotice id gen rank => Sys2Proof.Machine.execJoinNotice id gen rank s
  | .groupAbort id => Sys2Proof.Machine.execGroupAbort id s
  | .groupAbortArrival id gen => Sys2Proof.Machine.execGroupAbortArrival id gen s
  | .groupFree id => Sys2Proof.Machine.execGroupFree id s
  | .drainMarkerReturn id => Sys2Proof.Machine.execDrainMarkerReturn id s
  | .fabricPacketArrival pkt => Sys2Proof.Machine.execFabricPacketArrival pkt s
  | .qbaseWrite q v => Sys2Proof.Machine.execQbaseWrite q v s
  | .qsizeWrite q v => Sys2Proof.Machine.execQsizeWrite q v s
  | .qtailWrite q v => Sys2Proof.Machine.execQtailWrite q v s
  | .qctlSusp q set => Sys2Proof.Machine.execQctlSusp q set s
  | .qctlDrain q set => Sys2Proof.Machine.execQctlDrain q set s
  | .drainDone q => Sys2Proof.Machine.execDrainDone q s
  | .bindRecordWrite core n v => Sys2Proof.Machine.execBindRecordWrite core n v s
  | .qleftWrite fn v => Sys2Proof.Machine.execQleftWrite fn v s
  | .functionLevelReset vf => Sys2Proof.Machine.execFunctionLevelReset vf s
  | .hostDmaRead fn va len => Sys2Proof.Machine.execHostDmaRead fn va len s
  | .hostDmaWrite fn va bytes => Sys2Proof.Machine.execHostDmaWrite fn va bytes s
  | .formatRangeWrite stack off v => Sys2Proof.Machine.execFormatRangeWrite stack off v s
  | .dawnStart => Sys2Proof.Machine.execDawnStart s
  | .dawnRom ok => Sys2Proof.Machine.execDawnRom ok s
  | .dawnVoxind ctxBase grpBase => Sys2Proof.Machine.execDawnVoxind ctxBase grpBase s
  | .dawnTrim inService => Sys2Proof.Machine.execDawnTrim inService s
  | .dawnMeminit ok => Sys2Proof.Machine.execDawnMeminit ok s
  | .dawnMeter ok => Sys2Proof.Machine.execDawnMeter ok s
  | .dawnLinks => Sys2Proof.Machine.execDawnLinks s
  | .powerDown => Sys2Proof.Machine.execPowerDown s
  | .scrub column bad => Sys2Proof.Machine.execScrub column bad s
  | .cxlRemoval port => Sys2Proof.Machine.execCxlRemoval port s
  | .queryContextReclaim core ctx => Sys2Proof.Machine.execQueryContextReclaim core ctx s
  | .routeTableWrite pkg links => Sys2Proof.Machine.execRouteTableWrite pkg links s
  | .queueContextAssign q asid => Sys2Proof.Machine.execQueueContextAssign q asid s
  | .vfEnable vf on => Sys2Proof.Machine.execVfEnable vf on s

end Sys2Proof.Machine
end

