-- ==== Sys2Proof/Machine/Bus.lean ====
section
/-!
DEFINITION. The windows of registers and the tables in device memory, as the host and Voxind read and write them (R5,
R38, R267, R272, R279, R300, R309, R324 to R328).
-/

namespace Sys2Proof.Machine

/-- A word from fields given as (lowest bit, value). -/
def fields (l : List (Nat × Nat)) : Nat := (l.map (fun x => x.2 * 2 ^ x.1)).sum

/-! ### Words of the hub block (R309, R325) -/

/-- STATE of Dawn. -/
def DawnState.code : DawnState → Nat
  | .rom => 0
  | .voxind => 1
  | .trim => 2
  | .meminit => 3
  | .meter => 4
  | .links => 5
  | .ready => 6

/-- The word at hub offset 0x000, of which DSTAT is a copy. -/
def dawnWord (u : Hub) : Word :=
  word (fields [(32, u.retLanes.toNat), (8, u.fcode.toNat), (4, u.fail.toNat), (3, u.devrdy.toNat), (0, u.dawn.code)])

/-- STATE of a link. -/
def LinkState.code : LinkState → Nat
  | .down => 0
  | .train => 1
  | .up => 2
  | .degraded => 3
  | .drain => 4

/-- LSTAT. -/
def lstatWord (l : Link) : Word := word (fields [(32, l.retry.toNat), (16, l.trains.toNat), (8, l.lanes), (0, l.state.code)])

/-! ### Words of a queue's registers (R279) -/

/-- STATE of a queue. -/
def QueueState.code : QueueState → Nat
  | .empty => 0
  | .bound => 1
  | .running => 2
  | .suspended => 3
  | .draining => 4

/-- QSTAT. -/
def qstatWord (x : Queue) : Word :=
  word (fields [(32, x.dtail.toNat), (16, x.asid % 65536), (10, x.ddone.toNat), (9, x.err.toNat), (8, x.ovf.toNat), (0, x.state.code)])

/-- A register of a queue, by its offset in the queue's block. -/
def queueWord (x : Queue) : Nat → Option Word
  | 0x00 => some x.base
  | 0x08 => some (word x.log2)
  | 0x10 => some (x.tail.setWidth 64)
  | 0x18 => some (x.head.setWidth 64)
  | 0x20 => some (word (fields [(1, x.drain.toNat), (0, x.susp.toNat)]))
  | 0x28 => some (qstatWord x)
  | _ => none

/-! ### Words of a format-range register (R38) -/

/-- A word of a format-range register: EN reads 0 where the range it declares is not valid. -/
def rangeWord (r : Vector Word 4) (k : Nat) : Word :=
  let v := vget r k 0
  if k = 2 ∧ (formatRange r).isNone then v &&& 0x7FFFFFFF else v

/-! ### Windows (R279, R324, R326, R328) -/

/-- A register as a window reaches it. -/
inductive BusReg where
  | dawn | ctxBase | grpBase | eccCnt
  | hap (fn : Option Nat)
  | link (n : Nat)
  | qleft (vf : Nat)
  /-- queue and offset in its block -/
  | queue (q off : Nat)
  /-- stack and offset in its controller block -/
  | range (stack off : Nat)
  deriving DecidableEq, Repr, Inhabited

/-- A register of the hub block. -/
def hubReg (off : Nat) : Option BusReg :=
  match off with
  | 0x000 => some .dawn
  | 0x008 => some .ctxBase
  | 0x010 => some .grpBase
  | 0x018 => some .eccCnt
  | 0x020 => some (.hap none)
  | _ => if 0x400 ≤ off ∧ off < 0x700 ∧ off % 0x20 = 0 then some (.link ((off - 0x400) / 0x20)) else none

/-- A register of one of a window's queues, which number `count` from `first` on. -/
def queueReg (first count off : Nat) : Option BusReg :=
  if 0x1000 ≤ off ∧ off < 0x1000 + 0x40 * count then some (.queue (first + (off - 0x1000) / 0x40) (off % 0x40)) else none

/-- The register at an offset of a window: a VF has one while it is enabled. -/
def windowReg (s : State) (w : Window) (off : Nat) : Option BusReg :=
  match w with
  | .hub => hubReg off
  | .queues => queueReg 0 queueCount off
  | .vf f =>
    if !s.vfs.contains f then none
    else match off with
      | 0x000 => some .dawn
      | 0x008 => some (.qleft f)
      | 0x010 => some (.hap (some f))
      | _ => queueReg (4 * f) 4 off
  | .controller n => if n < s.product.cores / 64 ∧ 0x100 ≤ off ∧ off < 0x300 ∧ off % 8 = 0 then some (.range n off) else none

/-- A register's word. Before DEVRDY, a queue's register and QLEFT read as all ones (R328). None: the spec gives no value. -/
def regWord (s : State) : BusReg → Option Word
  | .dawn => some (dawnWord s.hub)
  | .ctxBase => some s.hub.ctxBase
  | .grpBase => some s.hub.grpBase
  | .eccCnt => some s.hub.eccCnt
  | .hap fn => some (hapOf s fn)
  | .link n => some (lstatWord (s.link n))
  | .qleft vf => some (if s.hub.devrdy then BitVec.ofInt 64 (s.left vf / 1000) else ones64)
  | .queue q off => if s.hub.devrdy then queueWord (s.queue q) off else some ones64
  | .range stack off =>
    let n := (off - 0x100) / 32
    some (rangeWord (((s.formats.find? (fun x => x.1 == stack && x.2.1 == n)).map (·.2.2)).getD (Vector.replicate 4 0)) (off % 32 / 8))

/-- The lowest `n` bytes of a value. -/
def bytesOf (n v : Nat) : List Byte := (List.range n).map (fun i => BitVec.ofNat 8 (v / 256 ^ i))

/-- A register read: an access of a width other than 8 bytes reads as all ones, and where no register lies the answer is
a free value (R279; notes/assumptions/115). -/
def busRead (s : State) (w : Window) (off n : Nat) : State :=
  if n ≠ 8 then { s with answer := .bytes (List.replicate n 0xFF) }
  else match (windowReg s w off).bind (regWord s) with
    | some v => { s with answer := .bytes (bytesOf 8 v.toNat) }
    | none =>
      let (v, s) := s.draw
      { s with answer := .bytes (bytesOf 8 v) }

/-- The events that a register write amounts to: one of a width other than 8 bytes is ignored, and so is one to a
read-only register or where none lies (R5, R279). -/
noncomputable def busWrite (s : State) (w : Window) (off n : Nat) (v : Word) : List Instr :=
  if n ≠ 8 then []
  else match windowReg s w off with
    | some .ctxBase => [.registerWrite .ctxBase v]
    | some .grpBase => [.registerWrite .grpBase v]
    | some .eccCnt => [.registerWrite .eccCnt v]
    | some (.hap fn) => [.registerWrite (.hapCtx fn) v]
    | some (.link k) => [.registerWrite (.lstat k) v]
    | some (.qleft vf) => [.qleftWrite (some vf) v]
    | some (.range stack o) => [.formatRangeWrite stack o v]
    | some (.queue q o) =>
      (match o with
       | 0x00 => [.qbaseWrite q v]
       | 0x08 => [.qsizeWrite q v]
       | 0x10 => [.qtailWrite q v]
       | 0x20 => [.qctlDrain q (v.getLsbD 1), .qctlSusp q (v.getLsbD 0)]
       | 0x28 => [.registerWrite (.qstat q) v]
       | _ => [])
    | _ => []

/-! ### The context table (R267, R272) -/

/-- STATE of a context. -/
def CtxState.code : CtxState → Nat
  | .free => 0
  | .created => 1
  | .bound => 2
  | .running => 3
  | .halting => 4
  | .saved => 5
  | .resuming => 6

/-- A number from fields given as (offset in bytes, value). -/
def byteFields (l : List (Nat × Nat)) : Nat := (l.map (fun x => x.2 * 256 ^ x.1)).sum

/-- The 64 bytes of a fault record. -/
def faultBytes (r : FaultRecord) : Nat :=
  byteFields [(0x00, r.cause.toWord.toNat), (0x08, r.tval.toNat), (0x10, r.epc.toNat), (0x18, r.qpos.toNat),
    (0x20, r.where_.toNat), (0x24, r.count.toNat), (0x28, r.launch.toNat)]

/-- The 256 bytes of a context's record. -/
def contextBytes (s : State) (c : Context) : Nat :=
  let hs := s.hartsOf c.asid
  byteFields [(0x00, (hctxOf c).toNat), (0x08, c.root), (0x10, c.used % 2 ^ 64), (0x18, c.state.code), (0x19, c.hcause.toNat),
    (0x20, hs.length), (0x24, (hs.filter (fun h => h.halted && h.saved)).length), (0x40, faultBytes c.fault)]

/-- The record of an ASID: of its context, or as the last one was left; 0 where there was none. -/
def contextRecordAt (s : State) (asid : Nat) : Nat :=
  match (s.ctx? asid).or (s.freed.find? (·.asid == asid)) with
  | some c => contextBytes s c
  | none => 0

/-! ### The group table (R300) -/

def GroupState.code : GroupState → Nat
  | .free => 0
  | .open_ => 1
  | .active => 2
  | .aborting => 3
  | .aborted => 4
  | .draining => 5

/-- The 64 bytes of a group-table entry. -/
def groupBytes (g : Group) : Nat :=
  byteFields [
    (0x00, fields [(56, g.gen.toNat), (40, g.nrank), (16, g.asid), (0, g.state.code)]),
    (0x08, g.locals.toNat), (0x10, g.joined.toNat), (0x18, g.mapAt), (0x24, g.drops.toNat)]

/-! ### Device physical memory as Voxind reads it -/

/-- A byte of the tables at CTXBASE and GRPBASE, which Dawn writes: the tables' fields have their one home in the state,
and no user mapping reaches their bytes (R267, R300, R325). -/
def tableByte (s : State) (a : Nat) : Option Byte :=
  let c := s.hub.ctxBase.toNat
  let g := s.hub.grpBase.toNat
  if s.hub.dawn == .rom || s.hub.dawn == .voxind then none
  else if c ≤ a ∧ a < c + 256 * contextCount then some (BitVec.ofNat 8 (contextRecordAt s ((a - c) / 256) / 256 ^ ((a - c) % 256)))
  else if g ≤ a ∧ a < g + 64 * groupCount then some (BitVec.ofNat 8 (groupBytes (s.group ((a - g) / 64)) / 256 ^ ((a - g) % 64)))
  else none

/-- A byte of device physical memory. -/
def physByte (s : State) (a : Nat) : Byte := (tableByte s a).getD (BitVec.ofNat 8 (memRead s.mem a 1))

/-- Voxind reads device physical memory where R324 places any. -/
def voxindRead (s : State) (pa n : Nat) : State :=
  if (List.range n).all (fun i => physExists s.product (pa + i)) then { s with answer := .bytes ((List.range n).map (fun i => physByte s (pa + i))) }
  else s

end Sys2Proof.Machine
end

