-- ==== Sys2Proof/Machine/Schedule.lean ====
section
/-!
DEFINITION. Which agent moves next, the moves that are not words or events, and how a word is placed where the next step
fetches it (notes/assumptions/2, 3, 7).
-/

namespace Sys2Proof

/-- The turns the machine takes where `agenda` names none: the order among its agents is a free value
(notes/assumptions/2). -/
opaque Config.freeTurn : Nat → Machine.Turn

namespace Machine

/-- The next turn, taken from the agenda or free. -/
def nextTurn (s : State) : Turn × State :=
  match s.agenda with
  | t :: rest => (t, { s with agenda := rest })
  | [] => (Config.freeTurn s.draws, { s with draws := s.draws + 1 })

/-- The cycle a turn takes place in. -/
def turnTime (s : State) : Turn → Nat
  | .side p sd => match s.focus p with
    | some t => issueTime t sd
    | none => s.clock
  | .cut p _ => match s.focus p with
    | some t => issueTime t .vector
    | none => s.clock
  | .tick => s.clock + 1
  | _ => s.clock

/-! ### What is due at its own cycle (R189, R190, R199, R202, R217) -/

/-- Something that happens in a cycle of its own: the cycle, its place among what happens then, and the turn. -/
structure DueItem where
  cycle : Nat
  rank  : Nat
  turn  : Turn
  deriving DecidableEq, Repr, Inhabited

/-- The ranks of one cycle (the marks noncomputable below stand for the events' constructors): steps, completions, the end
of a region, the arrival of a BGATH, the issue of the vector side, and the start of a timed command. -/
def rankIssue : Nat := 4
def rankStart : Nat := 5

/-- What entry `k` of the engine queue of a hart in a timed region has due. -/
noncomputable def commandDue (h : Hart) (r : Region) (c : EngCmd) (k : Nat) : List DueItem :=
  if c.running then
    match commandTimes h c with
    | some x =>
      if c.progress < c.steps h then [⟨x.1, 0, .event (.engineStep h.place k)⟩]
      else [⟨x.2, 1, .event (.engineCommandComplete h.place k)⟩]
    | none => []
  else match c.start with
    | some st => [⟨r.start + st, rankStart, .event (.timedCommandStart h.place k)⟩]
    | none => []

/-- What a hart has due: nothing outside a timed region. -/
noncomputable def hartDue (h : Hart) : List DueItem :=
  match h.tl.region with
  | none => []
  | some r =>
    if !h.resident then [] else
    h.tl.queue.zipIdx.flatMap (fun (x : EngCmd × Nat) => commandDue h r x.1 x.2) ++
    [⟨r.start + r.len, 2, .event (.regionOverrun h.place)⟩] ++
    (match h.bgath with
     | some b => if b.arrived then [] else [⟨b.due, 3, .event (.bgathDue h.place)⟩]
     | none => []) ++
    (if mayIssue h .vector then [⟨h.ve.readyAt, rankIssue, .side h.place .vector⟩] else [])

/-- What a core has due: the end of an island's wake, the gating of an island with nothing left to do, what its FIFO does
next, and a step of restoration. -/
noncomputable def coreDue (s : State) (u : CoreUnit) : List DueItem :=
  (match u.island with
   | .waking due _ => [⟨due, 0, .event (.islandWake u.core)⟩]
   | .dusking => if u.fifo.isEmpty && !bankBusy s u.core then [⟨0, 1, .event (.islandGate u.core)⟩] else []
   | _ => []) ++
  (match fifoDue u with
   | some t => [⟨t, 0, .event (.vfifoEntryPerform u.core)⟩]
   | none => []) ++
  (match u.restore with
   | some t => [⟨t, 0, .event (.alcRestore u.core)⟩]
   | none => [])

/-- What a WAIT that waits has due: the turn of its side, at once if an event holds, and at its deadline (R71). -/
noncomputable def waitDue (s : State) (h : Hart) : List DueItem :=
  let frozen := s.harts.any (fun g => g.uid != h.uid && g.place.core == h.place.core && g.place.slot == h.place.slot && g.tl.region.isSome)
  if !(h.resident && mayIssue h .scalar && waitsHere h) || frozen then []
  else if (h.cs.hstat.ie && !h.irqs.isEmpty) || !h.ve.replies.isEmpty then [⟨h.sc.readyAt, rankIssue, .side h.place .scalar⟩]
  else match (if h.cs.hstat.hl then h.sc.wait1 else h.sc.wait0).bind (·.deadline) with
    | some t => [⟨max t h.sc.readyAt, rankIssue, .side h.place .scalar⟩]
    | none => []

/-- What a context has due: the first held write that can be performed, and the next part of a restore (R238, R269). -/
noncomputable def contextDue (s : State) (c : Context) : List DueItem :=
  (match heldReady s c with
   | [] => []
   | k :: _ => [⟨0, 0, .event (.shadowHeldWrite c.asid k)⟩]) ++
  (if resumeReady s c then [⟨0, 1, .event (.contextResume c.asid)⟩] else [])

/-- The end of an interval of the meters (R204). -/
noncomputable def meterDue (s : State) : List DueItem :=
  match s.meter with
  | some t => [⟨t, 6, .event .meterInterval⟩]
  | none => []

/-- A STATUS byte whose page admits it again (R311). -/
noncomputable def statusDue (s : State) : List DueItem := if (statusReady s).isSome then [⟨0, 0, .statusWrite⟩] else []

noncomputable def dueItems (s : State) : List DueItem :=
  s.harts.flatMap hartDue ++ s.harts.flatMap (waitDue s) ++ s.cores.flatMap (coreDue s) ++ s.contexts.flatMap (contextDue s) ++
    meterDue s ++ statusDue s

/-- The earlier of two, by cycle and rank. -/
def earlierDue (a b : DueItem) : DueItem := if b.cycle < a.cycle ∨ (b.cycle = a.cycle ∧ b.rank < a.rank) then b else a

/-- A turn of the vector side of a hart, or of its engines and its region: the hart's place, and its rank in a cycle. -/
noncomputable def turnRank : Turn → Option (Place × Nat)
  | .event (.engineStep p _) => some (p, 0)
  | .event (.engineCommandComplete p _) => some (p, 1)
  | .event (.regionOverrun p) => some (p, 2)
  | .event (.bgathDue p) => some (p, 3)
  | .side p .vector => some (p, rankIssue)
  | .cut p _ => some (p, rankIssue)
  | .event (.timedCommandStart p _) => some (p, rankStart)
  | _ => none

/-- The item has to come before a turn that takes place in a cycle: it is due earlier, or in that cycle, and both are of one
hart's vector side, engines or region, and the item's rank is lower (R190). -/
noncomputable def comesFirst (t : Turn) (time : Nat) (d : DueItem) : Bool :=
  decide (d.cycle < time) || (decide (d.cycle = time) && (match turnRank t, turnRank d.turn with
    | some (p, n), some (q, m) => p == q && decide (m < n)
    | _, _ => false))

/-- What must come before a turn, with the cycle it takes place in: of all that is due the earliest. -/
noncomputable def dueBefore (s : State) (t : Turn) : Option (Nat × Turn) :=
  let l := ((dueItems s).map (fun d => { d with cycle := max d.cycle s.clock })).filter (comesFirst t (turnTime s t))
  match l with
  | [] => none
  | d :: rest => let x := rest.foldl earlierDue d
                 some (x.cycle, x.turn)

/-- The moves of the caches, errors and the passing of a cycle. -/
def quietTurn (s : State) : Turn → State
  | .evict core line => s.l1Flush (fun x => x.core == core && x.line == line)
  | .evictL2 stack line => s.l2Flush (fun x => x.stack == stack && x.line == line)
  | .tlbFill core asid va => tlbFill s core asid va
  | .tlbDrop core asid base => tlbDrop s core asid base
  | .statusWrite => (statusReady s).getD s
  | .busRead w off n => busRead s w off n
  | .voxindRead pa n => voxindRead s pa n
  | .l2Miss core asid va => l2Miss s core asid va
  | .peerList asid op w l => answerPeer s asid op w l
  | .peerLine asid va bytes n => peerLine s asid va bytes n
  | .leaveNotice id gen rank => leaveNotice s id gen rank
  | .fetchAhead p sd => s.atPlace p (fun s => if mayIssue s.hart sd then fetchAhead s sd else s)
  | .lineError line => poisonLine s line
  | .registerError p kind n => s.atPlace p (fun s => poisonRegister s kind n)
  | .corrected => countCorrected s
  | .tick => { s with clock := s.clock + 1 }
  | .side _ _ => s
  | .cut _ _ => s
  | .event _ => s
  | .busWrite _ _ _ _ => s

/-! ### The sizes of the caches (R9, R12, R13) -/

/-- Lines of an L1, 768 KiB, and of the slices of one number in a stack's L2: 64 of 1.5 MiB. -/
def l1Lines : Nat := 6144
def sliceLines : Nat := 786432

/-- The slice of a line (R12). -/
def sliceOf (line : Nat) : Nat := line % 4

/-- The lines that a stack's slices of one number hold. -/
def inSlice (s : State) (x : Nat × Nat) : List L2Line := s.l2.filter (fun (y : L2Line) => y.stack == x.1 && sliceOf y.line == x.2)

/-- Lines of an L1 beyond its size leave it: a free choice among all but the newest. -/
def shedL1 (core : Nat) : Nat → State → State
  | 0, s => s
  | n + 1, s =>
    let (k, s) := s.draw
    let l := (s.l1.filter (fun (x : L1Line) => x.core == core)).drop 1
    shedL1 core n (match l[k % l.length]? with
      | some y => s.l1Flush (fun x => x.core == core && x.line == y.line)
      | none => s)

/-- The same for the slices of one number in a stack's L2. -/
def shedL2 (x : Nat × Nat) : Nat → State → State
  | 0, s => s
  | n + 1, s =>
    let (k, s) := s.draw
    let l := (inSlice s x).drop 1
    shedL2 x n (match l[k % l.length]? with
      | some y => s.l2Flush (fun z => z.stack == x.1 && z.line == y.line)
      | none => s)

/-- The caches held to their sizes. -/
def fitCaches (s : State) : State :=
  let over1 (core : Nat) : Nat := (s.l1.filter (fun (x : L1Line) => x.core == core)).length - l1Lines
  let over2 (s : State) (x : Nat × Nat) : Nat := (inSlice s x).length - sliceLines
  let t := if s.l1.length ≤ l1Lines then s else ((s.l1.map (·.core)).eraseDups).foldl (fun t c => shedL1 c (over1 c) t) s
  if t.l2.length ≤ sliceLines then t
  else ((t.l2.map (fun (y : L2Line) => (y.stack, sliceOf y.line))).eraseDups).foldl (fun u x => shedL2 x (over2 t x) u) t

/-! ### Placing a word -/

/-- ROOT of the context that holds a placed word, its leaf's frame, and the code's virtual address. -/
def placedRoot : Nat := 0x100000
def placedFrame : Nat := 0x1000000
def placedAt : Nat := 0x10000

/-- Table entries that map the page at `placedAt` for reads, writes and fetches, with A and D set, as (location, entry). -/
def placedEntries : List (Nat × Nat) :=
  [(0x100000, 0x200001), (0x200000, 0x300001), (0x300000, 0x400001), (0x400008, placedFrame + 0x7F)]

/-- The side a word of a major runs on: V-marked words on the vector side, the others on the scalar side. -/
def placedSide (w : BitVec 32) : Side :=
  match majorMark (wordOp w) with
  | some .v => .vector
  | _ => .scalar

/-- The machine with a word placed where its next step fetches: a context with a page of code, a unit of it running on
hart 0 of core 0, and that hart's side first in the agenda. Nothing that other agents hold stands in the way: caches and
table copies are empty, and no page move or earlier wait is under way. -/
def placeWord (s : State) (w : BitVec 32) : State :=
  let sd := placedSide w
  let place : Place := ⟨0, 0, 0⟩
  let mem := placedEntries.foldl (fun m x => memWrite m x.1 8 x.2) (memWrite s.mem placedFrame 4 w.toNat)
  let h := s.hart
  { s with
    mem := mem, l1 := [], l2 := [], tlb := [], poison := [], lost := [], moves := [], arbiters := [],
    contexts := { asid := 0, fn := some none, root := placedRoot, state := .running } ::
      s.contexts.filter (·.asid != 0),
    parked := s.parked.filter (·.place != place),
    hart := { h with
      place := place, asid := 0, life := .running, irqs := [], bgath := none, writes := [], poison := [],
      sc := { h.sc with pc := word placedAt, readyAt := s.clock, wait0 := none, barw := none, fetched := [] },
      ve := { h.ve with
        pc := word placedAt, readyAt := s.clock, block := if sd == .vector then some ⟨word placedAt, 0⟩ else none, barw := none,
        fetched := [] },
      cs := { h.cs with hstat := { h.cs.hstat with hl := false, timed := false } },
      tl := { h.tl with faults := [], region := none, request := none } },
    agenda := [.side place sd] }

end Machine

end Sys2Proof
end

