-- ==== Sys2Proof/Machine/Step.lean ====
section
/-!
DEFINITION. One step of the machine: one move of one agent.
-/

namespace Sys2Proof.Machine

/-- The word of the side at hand is fetched, decoded and run. The marks noncomputable below stand for the decoder's. -/
noncomputable def runFetched (s : State) : Host.Outcome State Fault Refusal :=
  match fetchWord s with
  | .error e => finish s (.error e)
  | .ok (w, t) =>
    match decode w with
    | .error e => refuseWord (holdWord t w) e
    | .ok x => exec x.instr (holdWord t w)

/-- The vector side of the hart in focus has a word to issue in this cycle, and its turn ends in a trap: the state it
leaves (R76). -/
noncomputable def vectorTrap (s : State) : Option State :=
  let trapped (v : State) : Option State := if v.issue.trapped then some v else none
  if mayIssue s.hart .vector && decide (s.hart.ve.readyAt ≤ s.clock) then
    match beginSide { s with issue := {} } .vector none with
    | .over t => trapped t
    | .word t =>
      match runFetched t with
      | .next v => trapped v
      | _ => none
    | _ => none
  else none

/-- A trap of the scalar side or an interrupt that leaves `v` in this cycle: a trap of the vector side that is due in it
comes before, and the rest waits (R76). -/
noncomputable def trapOrder (s v : State) : State := (vectorTrap s).getD v

/-- The turn of a side of the hart in focus. -/
noncomputable def runSide (s : State) (sd : Side) (cut : Option Nat) : Host.Outcome State Fault Refusal :=
  match beginSide s sd cut with
  | .over t => .next t
  | .word t =>
    match runFetched t with
    | .next v => .next (if v.issue.trapped && sd == .scalar then trapOrder t v else v)
    | o => o
  | .interrupted t u =>
    match runFetched t with
    | .next v => .next (trapOrder t (if v.issue.trapped then v else u))
    | _ => .next (trapOrder t u)
  | .behindFault t u =>
    match runFetched t with
    | .next v => .next (if v.issue.trapped then u else v)
    | o => o

/-- The turn of a side of the hart at a place; with no hart there, nothing happens. -/
noncomputable def runPlace (s : State) (p : Place) (sd : Side) (cut : Option Nat) : Host.Outcome State Fault Refusal :=
  match s.focus p with
  | some t => runSide t sd cut
  | none => .next s

/-- An interrupt that an event delivers at a boundary where other traps may be due: the place, and the hart in focus. -/
noncomputable def deliveredAt (s : State) : Instr → Option (Place × State)
  | .trapDelivery p =>
    match s.focus p with
    | some t =>
      if (dueInterrupt t.hart).isSome && !waitsHere t.hart && (lastFault t).isNone && !frozenOut t then some (p, t) else none
    | none => none
  | _ => none

/-- An interrupt delivered where the scalar side has a word to issue waits for what that word raises, and everywhere for
what the vector side raises in the cycle (R76). -/
noncomputable def runDelivery (s : State) (i : Instr) (p : Place) (t : State) : Host.Outcome State Fault Refusal :=
  if mayIssue t.hart .scalar then runPlace s p .scalar none
  else match exec i s with
    | .next v => .next (trapOrder t v)
    | o => o

/-- Events that one register write amounts to, one after another. -/
noncomputable def runEvents : List Instr → State → Host.Outcome State Fault Refusal
  | [], s => .next s
  | i :: l, s => match exec i s with
    | .next t => runEvents l t
    | o => o

/-- A turn. -/
noncomputable def runTurn (s : State) : Turn → Host.Outcome State Fault Refusal
  | .side p sd => runPlace s p sd none
  | .cut p n => runPlace s p .vector (some n)
  | .event i =>
    match deliveredAt s i with
    | some (p, t) => runDelivery s i p t
    | none => exec i s
  | .busWrite w off n v => runEvents (busWrite s w off n v) s
  | t => .next (quietTurn s t)

/-- What a turn comes to, with the caches held to their sizes. -/
def settled : Host.Outcome State Fault Refusal → Host.Outcome State Fault Refusal
  | .next s => .next (fitCaches s)
  | o => o

/-- A step: the next turn, or first what is due in an earlier cycle. -/
noncomputable def step (s : State) : Host.Outcome State Fault Refusal :=
  settled <| match dueBefore (nextTurn s).2 (nextTurn s).1 with
  | some d => runTurn { (nextTurn s).2 with clock := d.1, agenda := (nextTurn s).1 :: (nextTurn s).2.agenda } d.2
  | none => runTurn (nextTurn s).2 (nextTurn s).1

/-- The machine with an instruction of the opcode table stored where `step` fetches its next instruction. -/
def State.withFetchWord (s : State) (nbits w : Nat) : State := placeWord s (BitVec.ofNat 32 (w % 2 ^ nbits))

end Sys2Proof.Machine
end

