-- ==== Sys2Proof/Laws/Memory.lean ====
section
/-!
SUPPORT. Laws of memory as a canonical list: what a byte reads as after a write, and that every operation on memory keeps
the canonical form.
-/

namespace Sys2Proof.Machine

/-! ### One byte -/

theorem risingFrom_mono {m : Memory} : ∀ {n k : Nat}, n ≤ k → risingFrom k m = true → risingFrom n m = true := by
  induction m with
  | nil => intros; rfl
  | cons c m _ =>
    intro n k h
    obtain ⟨a, b⟩ := c
    simp only [risingFrom, Bool.and_eq_true, decide_eq_true_eq]
    rintro ⟨⟨h1, h2⟩, h3⟩
    exact ⟨⟨by omega, h2⟩, h3⟩

/-- A location below the first listed one reads as an unlisted location. -/
theorem memByte_below {m : Memory} : ∀ {n a : Nat}, risingFrom n m = true → a < n → memByte m a = unlisted := by
  cases m with
  | nil => intros; rfl
  | cons c m =>
    obtain ⟨k, b⟩ := c
    intro n a h ha
    simp only [risingFrom, Bool.and_eq_true, decide_eq_true_eq] at h
    simp only [memByte]
    rw [if_pos (by omega)]

theorem memSet_rising {m : Memory} : ∀ {n a : Nat} (x : Byte), n ≤ a → risingFrom n m = true →
    risingFrom n (memSet m a x) = true := by
  induction m with
  | nil =>
    intro n a x h _
    simp only [memSet]
    split
    · rfl
    · next hx => simp [risingFrom, h, hx]
  | cons c m ih =>
    obtain ⟨k, b⟩ := c
    intro n a x h hr
    have hr' := hr
    simp only [risingFrom, Bool.and_eq_true, decide_eq_true_eq] at hr'
    obtain ⟨⟨h1, h2⟩, h3⟩ := hr'
    simp only [memSet]
    split
    · split
      · exact hr
      · next hx =>
        simp only [risingFrom, Bool.and_eq_true, decide_eq_true_eq]
        exact ⟨⟨h, by simpa using hx⟩, ⟨by omega, h2⟩, h3⟩
    · split
      · next h4 =>
        split
        · exact risingFrom_mono (by omega) h3
        · next hx =>
          simp only [risingFrom, Bool.and_eq_true, decide_eq_true_eq]
          exact ⟨⟨h, by simpa using hx⟩, by rw [h4]; exact h3⟩
      · simp only [risingFrom, Bool.and_eq_true, decide_eq_true_eq]
        exact ⟨⟨h1, h2⟩, ih x (by omega) h3⟩

theorem memByte_memSet_rising {m : Memory} : ∀ {n : Nat} (a : Nat) (x : Byte) (b : Nat), risingFrom n m = true →
    memByte (memSet m a x) b = if b = a then x else memByte m b := by
  induction m with
  | nil =>
    intro n a x b _
    simp only [memSet]
    split
    · next h => simp [memByte, h]
    · simp only [memByte]
      split <;> split <;> first | rfl | omega
  | cons c m ih =>
    obtain ⟨k, y⟩ := c
    intro n a x b h
    simp only [risingFrom, Bool.and_eq_true, decide_eq_true_eq] at h
    obtain ⟨⟨h1, h2⟩, h3⟩ := h
    simp only [memSet]
    split
    · split
      · next hx =>
        split
        · next hb => rw [hx]; simp only [memByte]; rw [if_pos (by omega)]
        · rfl
      · simp only [memByte]
        repeat' split
        all_goals first | rfl | omega
    · split
      · next hk =>
        split
        · next hx =>
          split
          · next hb => rw [hx]; exact memByte_below h3 (by omega)
          · simp only [memByte]
            repeat' split
            all_goals first | rfl | omega | exact memByte_below h3 (by omega)
        · simp only [memByte]
          repeat' split
          all_goals first | rfl | omega
      · simp only [memByte]
        rw [ih a x b h3]
        repeat' split
        all_goals first | rfl | omega

/-- A byte written reads as written, and every other location reads as before. -/
theorem memByte_memSet {m : Memory} (h : m.wf = true) (a : Nat) (x : Byte) (b : Nat) :
    memByte (memSet m a x) b = if b = a then x else memByte m b := memByte_memSet_rising a x b h

/-! ### The canonical form is kept -/

@[simp] theorem wf_nil : Memory.wf [] = true := rfl

@[simp] theorem wf_memSet {m : Memory} (h : m.wf = true) (a : Nat) (x : Byte) : Memory.wf (memSet m a x) = true :=
  memSet_rising x (Nat.zero_le a) h

@[simp] theorem wf_memWrite {m : Memory} (h : m.wf = true) (a n v : Nat) : Memory.wf (memWrite m a n v) = true := by
  induction n generalizing v with
  | zero => exact h
  | succ n ih => exact wf_memSet (ih v) _ _

/-- A fold of operations that each keep the form keeps it. -/
theorem wf_foldl {α : Type} (f : Memory → α → Memory) (hf : ∀ m x, m.wf = true → (f m x).wf = true) (l : List α) :
    ∀ m : Memory, m.wf = true → (l.foldl f m).wf = true := by
  induction l with
  | nil => intro m h; exact h
  | cons x l ih => intro m h; exact ih _ (hf m x h)

@[simp] theorem wf_memPutLine {m : Memory} (h : m.wf = true) (line : Nat) (data : Line) (mask : BitVec 128) :
    Memory.wf (memPutLine m line data mask) = true := by
  unfold memPutLine
  refine wf_foldl _ ?_ _ _ h
  intro m i hm
  split
  · exact wf_memSet hm _ _
  · exact hm

theorem rising_filter (p : Host.Cell → Bool) {m : Memory} : ∀ {n : Nat}, risingFrom n m = true →
    risingFrom n (m.filter p) = true := by
  induction m with
  | nil => intros; rfl
  | cons c m ih =>
    obtain ⟨k, b⟩ := c
    intro n h
    simp only [risingFrom, Bool.and_eq_true, decide_eq_true_eq] at h
    obtain ⟨⟨h1, h2⟩, h3⟩ := h
    simp only [List.filter]
    split
    · simp only [risingFrom, Bool.and_eq_true, decide_eq_true_eq]
      exact ⟨⟨h1, h2⟩, ih h3⟩
    · exact risingFrom_mono (by omega) (ih h3)

@[simp] theorem wf_filter (p : Host.Cell → Bool) {m : Memory} (h : m.wf = true) : Memory.wf (m.filter p) = true :=
  rising_filter p h

end Sys2Proof.Machine
end

