-- ==== Sys2Proof/Laws/State.lean ====
section
/-!
SUPPORT. The fields of a state after each of the updates that the meanings are built from: one lemma for each field an
update leaves, and one for the field it changes.
-/

namespace Sys2Proof.Machine


/-! ### State.mapHart -/

@[simp] theorem mapHart_product (s : State) (f : Hart → Hart) : (s.mapHart f).product = s.product := rfl
@[simp] theorem mapHart_hart (s : State) (f : Hart → Hart) : (s.mapHart f).hart = f s.hart := rfl
@[simp] theorem mapHart_parked (s : State) (f : Hart → Hart) : (s.mapHart f).parked = s.parked := rfl
@[simp] theorem mapHart_ended (s : State) (f : Hart → Hart) : (s.mapHart f).ended = s.ended := rfl
@[simp] theorem mapHart_mem (s : State) (f : Hart → Hart) : (s.mapHart f).mem = s.mem := rfl
@[simp] theorem mapHart_l1 (s : State) (f : Hart → Hart) : (s.mapHart f).l1 = s.l1 := rfl
@[simp] theorem mapHart_l2 (s : State) (f : Hart → Hart) : (s.mapHart f).l2 = s.l2 := rfl
@[simp] theorem mapHart_tlb (s : State) (f : Hart → Hart) : (s.mapHart f).tlb = s.tlb := rfl
@[simp] theorem mapHart_poison (s : State) (f : Hart → Hart) : (s.mapHart f).poison = s.poison := rfl
@[simp] theorem mapHart_lost (s : State) (f : Hart → Hart) : (s.mapHart f).lost = s.lost := rfl
@[simp] theorem mapHart_mended (s : State) (f : Hart → Hart) : (s.mapHart f).mended = s.mended := rfl
@[simp] theorem mapHart_grants (s : State) (f : Hart → Hart) : (s.mapHart f).grants = s.grants := rfl
@[simp] theorem mapHart_cores (s : State) (f : Hart → Hart) : (s.mapHart f).cores = s.cores := rfl
@[simp] theorem mapHart_noon (s : State) (f : Hart → Hart) : (s.mapHart f).noon = s.noon := rfl
@[simp] theorem mapHart_quota (s : State) (f : Hart → Hart) : (s.mapHart f).quota = s.quota := rfl
@[simp] theorem mapHart_spent (s : State) (f : Hart → Hart) : (s.mapHart f).spent = s.spent := rfl
@[simp] theorem mapHart_house (s : State) (f : Hart → Hart) : (s.mapHart f).house = s.house := rfl
@[simp] theorem mapHart_meter (s : State) (f : Hart → Hart) : (s.mapHart f).meter = s.meter := rfl
@[simp] theorem mapHart_unpaid (s : State) (f : Hart → Hart) : (s.mapHart f).unpaid = s.unpaid := rfl
@[simp] theorem mapHart_contexts (s : State) (f : Hart → Hart) : (s.mapHart f).contexts = s.contexts := rfl
@[simp] theorem mapHart_freed (s : State) (f : Hart → Hart) : (s.mapHart f).freed = s.freed := rfl
@[simp] theorem mapHart_refusals (s : State) (f : Hart → Hart) : (s.mapHart f).refusals = s.refusals := rfl
@[simp] theorem mapHart_queues (s : State) (f : Hart → Hart) : (s.mapHart f).queues = s.queues := rfl
@[simp] theorem mapHart_launches (s : State) (f : Hart → Hart) : (s.mapHart f).launches = s.launches := rfl
@[simp] theorem mapHart_graphs (s : State) (f : Hart → Hart) : (s.mapHart f).graphs = s.graphs := rfl
@[simp] theorem mapHart_arbiters (s : State) (f : Hart → Hart) : (s.mapHart f).arbiters = s.arbiters := rfl
@[simp] theorem mapHart_groups (s : State) (f : Hart → Hart) : (s.mapHart f).groups = s.groups := rfl
@[simp] theorem mapHart_owed (s : State) (f : Hart → Hart) : (s.mapHart f).owed = s.owed := rfl
@[simp] theorem mapHart_transit (s : State) (f : Hart → Hart) : (s.mapHart f).transit = s.transit := rfl
@[simp] theorem mapHart_links (s : State) (f : Hart → Hart) : (s.mapHart f).links = s.links := rfl
@[simp] theorem mapHart_routes (s : State) (f : Hart → Hart) : (s.mapHart f).routes = s.routes := rfl
@[simp] theorem mapHart_hub (s : State) (f : Hart → Hart) : (s.mapHart f).hub = s.hub := rfl
@[simp] theorem mapHart_answer (s : State) (f : Hart → Hart) : (s.mapHart f).answer = s.answer := rfl
@[simp] theorem mapHart_msix (s : State) (f : Hart → Hart) : (s.mapHart f).msix = s.msix := rfl
@[simp] theorem mapHart_vfs (s : State) (f : Hart → Hart) : (s.mapHart f).vfs = s.vfs := rfl
@[simp] theorem mapHart_moves (s : State) (f : Hart → Hart) : (s.mapHart f).moves = s.moves := rfl
@[simp] theorem mapHart_shoots (s : State) (f : Hart → Hart) : (s.mapHart f).shoots = s.shoots := rfl
@[simp] theorem mapHart_olds (s : State) (f : Hart → Hart) : (s.mapHart f).olds = s.olds := rfl
@[simp] theorem mapHart_reports (s : State) (f : Hart → Hart) : (s.mapHart f).reports = s.reports := rfl
@[simp] theorem mapHart_swept (s : State) (f : Hart → Hart) : (s.mapHart f).swept = s.swept := rfl
@[simp] theorem mapHart_sweeps (s : State) (f : Hart → Hart) : (s.mapHart f).sweeps = s.sweeps := rfl
@[simp] theorem mapHart_skipped (s : State) (f : Hart → Hart) : (s.mapHart f).skipped = s.skipped := rfl
@[simp] theorem mapHart_pageLogs (s : State) (f : Hart → Hart) : (s.mapHart f).pageLogs = s.pageLogs := rfl
@[simp] theorem mapHart_demoting (s : State) (f : Hart → Hart) : (s.mapHart f).demoting = s.demoting := rfl
@[simp] theorem mapHart_barriers (s : State) (f : Hart → Hart) : (s.mapHart f).barriers = s.barriers := rfl
@[simp] theorem mapHart_formats (s : State) (f : Hart → Hart) : (s.mapHart f).formats = s.formats := rfl
@[simp] theorem mapHart_clock (s : State) (f : Hart → Hart) : (s.mapHart f).clock = s.clock := rfl
@[simp] theorem mapHart_timeZero (s : State) (f : Hart → Hart) : (s.mapHart f).timeZero = s.timeZero := rfl
@[simp] theorem mapHart_draws (s : State) (f : Hart → Hart) : (s.mapHart f).draws = s.draws := rfl
@[simp] theorem mapHart_nextId (s : State) (f : Hart → Hart) : (s.mapHart f).nextId = s.nextId := rfl
@[simp] theorem mapHart_agenda (s : State) (f : Hart → Hart) : (s.mapHart f).agenda = s.agenda := rfl
@[simp] theorem mapHart_issue (s : State) (f : Hart → Hart) : (s.mapHart f).issue = s.issue := rfl

/-! ### State.mapHarts -/

@[simp] theorem mapHarts_product (s : State) (f : Hart → Hart) : (s.mapHarts f).product = s.product := rfl
@[simp] theorem mapHarts_hart (s : State) (f : Hart → Hart) : (s.mapHarts f).hart = f s.hart := rfl
@[simp] theorem mapHarts_parked (s : State) (f : Hart → Hart) : (s.mapHarts f).parked = s.parked.map f := rfl
@[simp] theorem mapHarts_ended (s : State) (f : Hart → Hart) : (s.mapHarts f).ended = s.ended := rfl
@[simp] theorem mapHarts_mem (s : State) (f : Hart → Hart) : (s.mapHarts f).mem = s.mem := rfl
@[simp] theorem mapHarts_l1 (s : State) (f : Hart → Hart) : (s.mapHarts f).l1 = s.l1 := rfl
@[simp] theorem mapHarts_l2 (s : State) (f : Hart → Hart) : (s.mapHarts f).l2 = s.l2 := rfl
@[simp] theorem mapHarts_tlb (s : State) (f : Hart → Hart) : (s.mapHarts f).tlb = s.tlb := rfl
@[simp] theorem mapHarts_poison (s : State) (f : Hart → Hart) : (s.mapHarts f).poison = s.poison := rfl
@[simp] theorem mapHarts_lost (s : State) (f : Hart → Hart) : (s.mapHarts f).lost = s.lost := rfl
@[simp] theorem mapHarts_mended (s : State) (f : Hart → Hart) : (s.mapHarts f).mended = s.mended := rfl
@[simp] theorem mapHarts_grants (s : State) (f : Hart → Hart) : (s.mapHarts f).grants = s.grants := rfl
@[simp] theorem mapHarts_cores (s : State) (f : Hart → Hart) : (s.mapHarts f).cores = s.cores := rfl
@[simp] theorem mapHarts_noon (s : State) (f : Hart → Hart) : (s.mapHarts f).noon = s.noon := rfl
@[simp] theorem mapHarts_quota (s : State) (f : Hart → Hart) : (s.mapHarts f).quota = s.quota := rfl
@[simp] theorem mapHarts_spent (s : State) (f : Hart → Hart) : (s.mapHarts f).spent = s.spent := rfl
@[simp] theorem mapHarts_house (s : State) (f : Hart → Hart) : (s.mapHarts f).house = s.house := rfl
@[simp] theorem mapHarts_meter (s : State) (f : Hart → Hart) : (s.mapHarts f).meter = s.meter := rfl
@[simp] theorem mapHarts_unpaid (s : State) (f : Hart → Hart) : (s.mapHarts f).unpaid = s.unpaid := rfl
@[simp] theorem mapHarts_contexts (s : State) (f : Hart → Hart) : (s.mapHarts f).contexts = s.contexts := rfl
@[simp] theorem mapHarts_freed (s : State) (f : Hart → Hart) : (s.mapHarts f).freed = s.freed := rfl
@[simp] theorem mapHarts_refusals (s : State) (f : Hart → Hart) : (s.mapHarts f).refusals = s.refusals := rfl
@[simp] theorem mapHarts_queues (s : State) (f : Hart → Hart) : (s.mapHarts f).queues = s.queues := rfl
@[simp] theorem mapHarts_launches (s : State) (f : Hart → Hart) : (s.mapHarts f).launches = s.launches := rfl
@[simp] theorem mapHarts_graphs (s : State) (f : Hart → Hart) : (s.mapHarts f).graphs = s.graphs := rfl
@[simp] theorem mapHarts_arbiters (s : State) (f : Hart → Hart) : (s.mapHarts f).arbiters = s.arbiters := rfl
@[simp] theorem mapHarts_groups (s : State) (f : Hart → Hart) : (s.mapHarts f).groups = s.groups := rfl
@[simp] theorem mapHarts_owed (s : State) (f : Hart → Hart) : (s.mapHarts f).owed = s.owed := rfl
@[simp] theorem mapHarts_transit (s : State) (f : Hart → Hart) : (s.mapHarts f).transit = s.transit := rfl
@[simp] theorem mapHarts_links (s : State) (f : Hart → Hart) : (s.mapHarts f).links = s.links := rfl
@[simp] theorem mapHarts_routes (s : State) (f : Hart → Hart) : (s.mapHarts f).routes = s.routes := rfl
@[simp] theorem mapHarts_hub (s : State) (f : Hart → Hart) : (s.mapHarts f).hub = s.hub := rfl
@[simp] theorem mapHarts_answer (s : State) (f : Hart → Hart) : (s.mapHarts f).answer = s.answer := rfl
@[simp] theorem mapHarts_msix (s : State) (f : Hart → Hart) : (s.mapHarts f).msix = s.msix := rfl
@[simp] theorem mapHarts_vfs (s : State) (f : Hart → Hart) : (s.mapHarts f).vfs = s.vfs := rfl
@[simp] theorem mapHarts_moves (s : State) (f : Hart → Hart) : (s.mapHarts f).moves = s.moves := rfl
@[simp] theorem mapHarts_shoots (s : State) (f : Hart → Hart) : (s.mapHarts f).shoots = s.shoots := rfl
@[simp] theorem mapHarts_olds (s : State) (f : Hart → Hart) : (s.mapHarts f).olds = s.olds := rfl
@[simp] theorem mapHarts_reports (s : State) (f : Hart → Hart) : (s.mapHarts f).reports = s.reports := rfl
@[simp] theorem mapHarts_swept (s : State) (f : Hart → Hart) : (s.mapHarts f).swept = s.swept := rfl
@[simp] theorem mapHarts_sweeps (s : State) (f : Hart → Hart) : (s.mapHarts f).sweeps = s.sweeps := rfl
@[simp] theorem mapHarts_skipped (s : State) (f : Hart → Hart) : (s.mapHarts f).skipped = s.skipped := rfl
@[simp] theorem mapHarts_pageLogs (s : State) (f : Hart → Hart) : (s.mapHarts f).pageLogs = s.pageLogs := rfl
@[simp] theorem mapHarts_demoting (s : State) (f : Hart → Hart) : (s.mapHarts f).demoting = s.demoting := rfl
@[simp] theorem mapHarts_barriers (s : State) (f : Hart → Hart) : (s.mapHarts f).barriers = s.barriers := rfl
@[simp] theorem mapHarts_formats (s : State) (f : Hart → Hart) : (s.mapHarts f).formats = s.formats := rfl
@[simp] theorem mapHarts_clock (s : State) (f : Hart → Hart) : (s.mapHarts f).clock = s.clock := rfl
@[simp] theorem mapHarts_timeZero (s : State) (f : Hart → Hart) : (s.mapHarts f).timeZero = s.timeZero := rfl
@[simp] theorem mapHarts_draws (s : State) (f : Hart → Hart) : (s.mapHarts f).draws = s.draws := rfl
@[simp] theorem mapHarts_nextId (s : State) (f : Hart → Hart) : (s.mapHarts f).nextId = s.nextId := rfl
@[simp] theorem mapHarts_agenda (s : State) (f : Hart → Hart) : (s.mapHarts f).agenda = s.agenda := rfl
@[simp] theorem mapHarts_issue (s : State) (f : Hart → Hart) : (s.mapHarts f).issue = s.issue := rfl

/-! ### State.mapCtx -/

@[simp] theorem mapCtx_product (s : State) (asid : Nat) (f : Context → Context) : (s.mapCtx asid f).product = s.product := rfl
@[simp] theorem mapCtx_hart (s : State) (asid : Nat) (f : Context → Context) : (s.mapCtx asid f).hart = s.hart := rfl
@[simp] theorem mapCtx_parked (s : State) (asid : Nat) (f : Context → Context) : (s.mapCtx asid f).parked = s.parked := rfl
@[simp] theorem mapCtx_ended (s : State) (asid : Nat) (f : Context → Context) : (s.mapCtx asid f).ended = s.ended := rfl
@[simp] theorem mapCtx_mem (s : State) (asid : Nat) (f : Context → Context) : (s.mapCtx asid f).mem = s.mem := rfl
@[simp] theorem mapCtx_l1 (s : State) (asid : Nat) (f : Context → Context) : (s.mapCtx asid f).l1 = s.l1 := rfl
@[simp] theorem mapCtx_l2 (s : State) (asid : Nat) (f : Context → Context) : (s.mapCtx asid f).l2 = s.l2 := rfl
@[simp] theorem mapCtx_tlb (s : State) (asid : Nat) (f : Context → Context) : (s.mapCtx asid f).tlb = s.tlb := rfl
@[simp] theorem mapCtx_poison (s : State) (asid : Nat) (f : Context → Context) : (s.mapCtx asid f).poison = s.poison := rfl
@[simp] theorem mapCtx_lost (s : State) (asid : Nat) (f : Context → Context) : (s.mapCtx asid f).lost = s.lost := rfl
@[simp] theorem mapCtx_mended (s : State) (asid : Nat) (f : Context → Context) : (s.mapCtx asid f).mended = s.mended := rfl
@[simp] theorem mapCtx_grants (s : State) (asid : Nat) (f : Context → Context) : (s.mapCtx asid f).grants = s.grants := rfl
@[simp] theorem mapCtx_cores (s : State) (asid : Nat) (f : Context → Context) : (s.mapCtx asid f).cores = s.cores := rfl
@[simp] theorem mapCtx_noon (s : State) (asid : Nat) (f : Context → Context) : (s.mapCtx asid f).noon = s.noon := rfl
@[simp] theorem mapCtx_quota (s : State) (asid : Nat) (f : Context → Context) : (s.mapCtx asid f).quota = s.quota := rfl
@[simp] theorem mapCtx_spent (s : State) (asid : Nat) (f : Context → Context) : (s.mapCtx asid f).spent = s.spent := rfl
@[simp] theorem mapCtx_house (s : State) (asid : Nat) (f : Context → Context) : (s.mapCtx asid f).house = s.house := rfl
@[simp] theorem mapCtx_meter (s : State) (asid : Nat) (f : Context → Context) : (s.mapCtx asid f).meter = s.meter := rfl
@[simp] theorem mapCtx_unpaid (s : State) (asid : Nat) (f : Context → Context) : (s.mapCtx asid f).unpaid = s.unpaid := rfl
@[simp] theorem mapCtx_contexts (s : State) (asid : Nat) (f : Context → Context) : (s.mapCtx asid f).contexts = s.contexts.map (fun c => if c.asid == asid then f c else c) := rfl
@[simp] theorem mapCtx_freed (s : State) (asid : Nat) (f : Context → Context) : (s.mapCtx asid f).freed = s.freed := rfl
@[simp] theorem mapCtx_refusals (s : State) (asid : Nat) (f : Context → Context) : (s.mapCtx asid f).refusals = s.refusals := rfl
@[simp] theorem mapCtx_queues (s : State) (asid : Nat) (f : Context → Context) : (s.mapCtx asid f).queues = s.queues := rfl
@[simp] theorem mapCtx_launches (s : State) (asid : Nat) (f : Context → Context) : (s.mapCtx asid f).launches = s.launches := rfl
@[simp] theorem mapCtx_graphs (s : State) (asid : Nat) (f : Context → Context) : (s.mapCtx asid f).graphs = s.graphs := rfl
@[simp] theorem mapCtx_arbiters (s : State) (asid : Nat) (f : Context → Context) : (s.mapCtx asid f).arbiters = s.arbiters := rfl
@[simp] theorem mapCtx_groups (s : State) (asid : Nat) (f : Context → Context) : (s.mapCtx asid f).groups = s.groups := rfl
@[simp] theorem mapCtx_owed (s : State) (asid : Nat) (f : Context → Context) : (s.mapCtx asid f).owed = s.owed := rfl
@[simp] theorem mapCtx_transit (s : State) (asid : Nat) (f : Context → Context) : (s.mapCtx asid f).transit = s.transit := rfl
@[simp] theorem mapCtx_links (s : State) (asid : Nat) (f : Context → Context) : (s.mapCtx asid f).links = s.links := rfl
@[simp] theorem mapCtx_routes (s : State) (asid : Nat) (f : Context → Context) : (s.mapCtx asid f).routes = s.routes := rfl
@[simp] theorem mapCtx_hub (s : State) (asid : Nat) (f : Context → Context) : (s.mapCtx asid f).hub = s.hub := rfl
@[simp] theorem mapCtx_answer (s : State) (asid : Nat) (f : Context → Context) : (s.mapCtx asid f).answer = s.answer := rfl
@[simp] theorem mapCtx_msix (s : State) (asid : Nat) (f : Context → Context) : (s.mapCtx asid f).msix = s.msix := rfl
@[simp] theorem mapCtx_vfs (s : State) (asid : Nat) (f : Context → Context) : (s.mapCtx asid f).vfs = s.vfs := rfl
@[simp] theorem mapCtx_moves (s : State) (asid : Nat) (f : Context → Context) : (s.mapCtx asid f).moves = s.moves := rfl
@[simp] theorem mapCtx_shoots (s : State) (asid : Nat) (f : Context → Context) : (s.mapCtx asid f).shoots = s.shoots := rfl
@[simp] theorem mapCtx_olds (s : State) (asid : Nat) (f : Context → Context) : (s.mapCtx asid f).olds = s.olds := rfl
@[simp] theorem mapCtx_reports (s : State) (asid : Nat) (f : Context → Context) : (s.mapCtx asid f).reports = s.reports := rfl
@[simp] theorem mapCtx_swept (s : State) (asid : Nat) (f : Context → Context) : (s.mapCtx asid f).swept = s.swept := rfl
@[simp] theorem mapCtx_sweeps (s : State) (asid : Nat) (f : Context → Context) : (s.mapCtx asid f).sweeps = s.sweeps := rfl
@[simp] theorem mapCtx_skipped (s : State) (asid : Nat) (f : Context → Context) : (s.mapCtx asid f).skipped = s.skipped := rfl
@[simp] theorem mapCtx_pageLogs (s : State) (asid : Nat) (f : Context → Context) : (s.mapCtx asid f).pageLogs = s.pageLogs := rfl
@[simp] theorem mapCtx_demoting (s : State) (asid : Nat) (f : Context → Context) : (s.mapCtx asid f).demoting = s.demoting := rfl
@[simp] theorem mapCtx_barriers (s : State) (asid : Nat) (f : Context → Context) : (s.mapCtx asid f).barriers = s.barriers := rfl
@[simp] theorem mapCtx_formats (s : State) (asid : Nat) (f : Context → Context) : (s.mapCtx asid f).formats = s.formats := rfl
@[simp] theorem mapCtx_clock (s : State) (asid : Nat) (f : Context → Context) : (s.mapCtx asid f).clock = s.clock := rfl
@[simp] theorem mapCtx_timeZero (s : State) (asid : Nat) (f : Context → Context) : (s.mapCtx asid f).timeZero = s.timeZero := rfl
@[simp] theorem mapCtx_draws (s : State) (asid : Nat) (f : Context → Context) : (s.mapCtx asid f).draws = s.draws := rfl
@[simp] theorem mapCtx_nextId (s : State) (asid : Nat) (f : Context → Context) : (s.mapCtx asid f).nextId = s.nextId := rfl
@[simp] theorem mapCtx_agenda (s : State) (asid : Nat) (f : Context → Context) : (s.mapCtx asid f).agenda = s.agenda := rfl
@[simp] theorem mapCtx_issue (s : State) (asid : Nat) (f : Context → Context) : (s.mapCtx asid f).issue = s.issue := rfl

/-! ### State.mapCore -/

@[simp] theorem mapCore_product (s : State) (n : Nat) (f : CoreUnit → CoreUnit) : (s.mapCore n f).product = s.product := rfl
@[simp] theorem mapCore_hart (s : State) (n : Nat) (f : CoreUnit → CoreUnit) : (s.mapCore n f).hart = s.hart := rfl
@[simp] theorem mapCore_parked (s : State) (n : Nat) (f : CoreUnit → CoreUnit) : (s.mapCore n f).parked = s.parked := rfl
@[simp] theorem mapCore_ended (s : State) (n : Nat) (f : CoreUnit → CoreUnit) : (s.mapCore n f).ended = s.ended := rfl
@[simp] theorem mapCore_mem (s : State) (n : Nat) (f : CoreUnit → CoreUnit) : (s.mapCore n f).mem = s.mem := rfl
@[simp] theorem mapCore_l1 (s : State) (n : Nat) (f : CoreUnit → CoreUnit) : (s.mapCore n f).l1 = s.l1 := rfl
@[simp] theorem mapCore_l2 (s : State) (n : Nat) (f : CoreUnit → CoreUnit) : (s.mapCore n f).l2 = s.l2 := rfl
@[simp] theorem mapCore_tlb (s : State) (n : Nat) (f : CoreUnit → CoreUnit) : (s.mapCore n f).tlb = s.tlb := rfl
@[simp] theorem mapCore_poison (s : State) (n : Nat) (f : CoreUnit → CoreUnit) : (s.mapCore n f).poison = s.poison := rfl
@[simp] theorem mapCore_lost (s : State) (n : Nat) (f : CoreUnit → CoreUnit) : (s.mapCore n f).lost = s.lost := rfl
@[simp] theorem mapCore_mended (s : State) (n : Nat) (f : CoreUnit → CoreUnit) : (s.mapCore n f).mended = s.mended := rfl
@[simp] theorem mapCore_grants (s : State) (n : Nat) (f : CoreUnit → CoreUnit) : (s.mapCore n f).grants = s.grants := rfl
@[simp] theorem mapCore_cores (s : State) (n : Nat) (f : CoreUnit → CoreUnit) : (s.mapCore n f).cores = f (s.core n) :: s.cores.filter (·.core != n) := rfl
@[simp] theorem mapCore_noon (s : State) (n : Nat) (f : CoreUnit → CoreUnit) : (s.mapCore n f).noon = s.noon := rfl
@[simp] theorem mapCore_quota (s : State) (n : Nat) (f : CoreUnit → CoreUnit) : (s.mapCore n f).quota = s.quota := rfl
@[simp] theorem mapCore_spent (s : State) (n : Nat) (f : CoreUnit → CoreUnit) : (s.mapCore n f).spent = s.spent := rfl
@[simp] theorem mapCore_house (s : State) (n : Nat) (f : CoreUnit → CoreUnit) : (s.mapCore n f).house = s.house := rfl
@[simp] theorem mapCore_meter (s : State) (n : Nat) (f : CoreUnit → CoreUnit) : (s.mapCore n f).meter = s.meter := rfl
@[simp] theorem mapCore_unpaid (s : State) (n : Nat) (f : CoreUnit → CoreUnit) : (s.mapCore n f).unpaid = s.unpaid := rfl
@[simp] theorem mapCore_contexts (s : State) (n : Nat) (f : CoreUnit → CoreUnit) : (s.mapCore n f).contexts = s.contexts := rfl
@[simp] theorem mapCore_freed (s : State) (n : Nat) (f : CoreUnit → CoreUnit) : (s.mapCore n f).freed = s.freed := rfl
@[simp] theorem mapCore_refusals (s : State) (n : Nat) (f : CoreUnit → CoreUnit) : (s.mapCore n f).refusals = s.refusals := rfl
@[simp] theorem mapCore_queues (s : State) (n : Nat) (f : CoreUnit → CoreUnit) : (s.mapCore n f).queues = s.queues := rfl
@[simp] theorem mapCore_launches (s : State) (n : Nat) (f : CoreUnit → CoreUnit) : (s.mapCore n f).launches = s.launches := rfl
@[simp] theorem mapCore_graphs (s : State) (n : Nat) (f : CoreUnit → CoreUnit) : (s.mapCore n f).graphs = s.graphs := rfl
@[simp] theorem mapCore_arbiters (s : State) (n : Nat) (f : CoreUnit → CoreUnit) : (s.mapCore n f).arbiters = s.arbiters := rfl
@[simp] theorem mapCore_groups (s : State) (n : Nat) (f : CoreUnit → CoreUnit) : (s.mapCore n f).groups = s.groups := rfl
@[simp] theorem mapCore_owed (s : State) (n : Nat) (f : CoreUnit → CoreUnit) : (s.mapCore n f).owed = s.owed := rfl
@[simp] theorem mapCore_transit (s : State) (n : Nat) (f : CoreUnit → CoreUnit) : (s.mapCore n f).transit = s.transit := rfl
@[simp] theorem mapCore_links (s : State) (n : Nat) (f : CoreUnit → CoreUnit) : (s.mapCore n f).links = s.links := rfl
@[simp] theorem mapCore_routes (s : State) (n : Nat) (f : CoreUnit → CoreUnit) : (s.mapCore n f).routes = s.routes := rfl
@[simp] theorem mapCore_hub (s : State) (n : Nat) (f : CoreUnit → CoreUnit) : (s.mapCore n f).hub = s.hub := rfl
@[simp] theorem mapCore_answer (s : State) (n : Nat) (f : CoreUnit → CoreUnit) : (s.mapCore n f).answer = s.answer := rfl
@[simp] theorem mapCore_msix (s : State) (n : Nat) (f : CoreUnit → CoreUnit) : (s.mapCore n f).msix = s.msix := rfl
@[simp] theorem mapCore_vfs (s : State) (n : Nat) (f : CoreUnit → CoreUnit) : (s.mapCore n f).vfs = s.vfs := rfl
@[simp] theorem mapCore_moves (s : State) (n : Nat) (f : CoreUnit → CoreUnit) : (s.mapCore n f).moves = s.moves := rfl
@[simp] theorem mapCore_shoots (s : State) (n : Nat) (f : CoreUnit → CoreUnit) : (s.mapCore n f).shoots = s.shoots := rfl
@[simp] theorem mapCore_olds (s : State) (n : Nat) (f : CoreUnit → CoreUnit) : (s.mapCore n f).olds = s.olds := rfl
@[simp] theorem mapCore_reports (s : State) (n : Nat) (f : CoreUnit → CoreUnit) : (s.mapCore n f).reports = s.reports := rfl
@[simp] theorem mapCore_swept (s : State) (n : Nat) (f : CoreUnit → CoreUnit) : (s.mapCore n f).swept = s.swept := rfl
@[simp] theorem mapCore_sweeps (s : State) (n : Nat) (f : CoreUnit → CoreUnit) : (s.mapCore n f).sweeps = s.sweeps := rfl
@[simp] theorem mapCore_skipped (s : State) (n : Nat) (f : CoreUnit → CoreUnit) : (s.mapCore n f).skipped = s.skipped := rfl
@[simp] theorem mapCore_pageLogs (s : State) (n : Nat) (f : CoreUnit → CoreUnit) : (s.mapCore n f).pageLogs = s.pageLogs := rfl
@[simp] theorem mapCore_demoting (s : State) (n : Nat) (f : CoreUnit → CoreUnit) : (s.mapCore n f).demoting = s.demoting := rfl
@[simp] theorem mapCore_barriers (s : State) (n : Nat) (f : CoreUnit → CoreUnit) : (s.mapCore n f).barriers = s.barriers := rfl
@[simp] theorem mapCore_formats (s : State) (n : Nat) (f : CoreUnit → CoreUnit) : (s.mapCore n f).formats = s.formats := rfl
@[simp] theorem mapCore_clock (s : State) (n : Nat) (f : CoreUnit → CoreUnit) : (s.mapCore n f).clock = s.clock := rfl
@[simp] theorem mapCore_timeZero (s : State) (n : Nat) (f : CoreUnit → CoreUnit) : (s.mapCore n f).timeZero = s.timeZero := rfl
@[simp] theorem mapCore_draws (s : State) (n : Nat) (f : CoreUnit → CoreUnit) : (s.mapCore n f).draws = s.draws := rfl
@[simp] theorem mapCore_nextId (s : State) (n : Nat) (f : CoreUnit → CoreUnit) : (s.mapCore n f).nextId = s.nextId := rfl
@[simp] theorem mapCore_agenda (s : State) (n : Nat) (f : CoreUnit → CoreUnit) : (s.mapCore n f).agenda = s.agenda := rfl
@[simp] theorem mapCore_issue (s : State) (n : Nat) (f : CoreUnit → CoreUnit) : (s.mapCore n f).issue = s.issue := rfl

/-! ### State.l1Put -/

@[simp] theorem l1Put_product (s : State) (x : L1Line) : (s.l1Put x).product = s.product := rfl
@[simp] theorem l1Put_hart (s : State) (x : L1Line) : (s.l1Put x).hart = s.hart := rfl
@[simp] theorem l1Put_parked (s : State) (x : L1Line) : (s.l1Put x).parked = s.parked := rfl
@[simp] theorem l1Put_ended (s : State) (x : L1Line) : (s.l1Put x).ended = s.ended := rfl
@[simp] theorem l1Put_mem (s : State) (x : L1Line) : (s.l1Put x).mem = s.mem := rfl
@[simp] theorem l1Put_l1 (s : State) (x : L1Line) : (s.l1Put x).l1 = x :: s.l1.filter (fun y => !(y.core == x.core && y.line == x.line)) := rfl
@[simp] theorem l1Put_l2 (s : State) (x : L1Line) : (s.l1Put x).l2 = s.l2 := rfl
@[simp] theorem l1Put_tlb (s : State) (x : L1Line) : (s.l1Put x).tlb = s.tlb := rfl
@[simp] theorem l1Put_poison (s : State) (x : L1Line) : (s.l1Put x).poison = s.poison := rfl
@[simp] theorem l1Put_lost (s : State) (x : L1Line) : (s.l1Put x).lost = s.lost := rfl
@[simp] theorem l1Put_mended (s : State) (x : L1Line) : (s.l1Put x).mended = s.mended := rfl
@[simp] theorem l1Put_grants (s : State) (x : L1Line) : (s.l1Put x).grants = s.grants := rfl
@[simp] theorem l1Put_cores (s : State) (x : L1Line) : (s.l1Put x).cores = s.cores := rfl
@[simp] theorem l1Put_noon (s : State) (x : L1Line) : (s.l1Put x).noon = s.noon := rfl
@[simp] theorem l1Put_quota (s : State) (x : L1Line) : (s.l1Put x).quota = s.quota := rfl
@[simp] theorem l1Put_spent (s : State) (x : L1Line) : (s.l1Put x).spent = s.spent := rfl
@[simp] theorem l1Put_house (s : State) (x : L1Line) : (s.l1Put x).house = s.house := rfl
@[simp] theorem l1Put_meter (s : State) (x : L1Line) : (s.l1Put x).meter = s.meter := rfl
@[simp] theorem l1Put_unpaid (s : State) (x : L1Line) : (s.l1Put x).unpaid = s.unpaid := rfl
@[simp] theorem l1Put_contexts (s : State) (x : L1Line) : (s.l1Put x).contexts = s.contexts := rfl
@[simp] theorem l1Put_freed (s : State) (x : L1Line) : (s.l1Put x).freed = s.freed := rfl
@[simp] theorem l1Put_refusals (s : State) (x : L1Line) : (s.l1Put x).refusals = s.refusals := rfl
@[simp] theorem l1Put_queues (s : State) (x : L1Line) : (s.l1Put x).queues = s.queues := rfl
@[simp] theorem l1Put_launches (s : State) (x : L1Line) : (s.l1Put x).launches = s.launches := rfl
@[simp] theorem l1Put_graphs (s : State) (x : L1Line) : (s.l1Put x).graphs = s.graphs := rfl
@[simp] theorem l1Put_arbiters (s : State) (x : L1Line) : (s.l1Put x).arbiters = s.arbiters := rfl
@[simp] theorem l1Put_groups (s : State) (x : L1Line) : (s.l1Put x).groups = s.groups := rfl
@[simp] theorem l1Put_owed (s : State) (x : L1Line) : (s.l1Put x).owed = s.owed := rfl
@[simp] theorem l1Put_transit (s : State) (x : L1Line) : (s.l1Put x).transit = s.transit := rfl
@[simp] theorem l1Put_links (s : State) (x : L1Line) : (s.l1Put x).links = s.links := rfl
@[simp] theorem l1Put_routes (s : State) (x : L1Line) : (s.l1Put x).routes = s.routes := rfl
@[simp] theorem l1Put_hub (s : State) (x : L1Line) : (s.l1Put x).hub = s.hub := rfl
@[simp] theorem l1Put_answer (s : State) (x : L1Line) : (s.l1Put x).answer = s.answer := rfl
@[simp] theorem l1Put_msix (s : State) (x : L1Line) : (s.l1Put x).msix = s.msix := rfl
@[simp] theorem l1Put_vfs (s : State) (x : L1Line) : (s.l1Put x).vfs = s.vfs := rfl
@[simp] theorem l1Put_moves (s : State) (x : L1Line) : (s.l1Put x).moves = s.moves := rfl
@[simp] theorem l1Put_shoots (s : State) (x : L1Line) : (s.l1Put x).shoots = s.shoots := rfl
@[simp] theorem l1Put_olds (s : State) (x : L1Line) : (s.l1Put x).olds = s.olds := rfl
@[simp] theorem l1Put_reports (s : State) (x : L1Line) : (s.l1Put x).reports = s.reports := rfl
@[simp] theorem l1Put_swept (s : State) (x : L1Line) : (s.l1Put x).swept = s.swept := rfl
@[simp] theorem l1Put_sweeps (s : State) (x : L1Line) : (s.l1Put x).sweeps = s.sweeps := rfl
@[simp] theorem l1Put_skipped (s : State) (x : L1Line) : (s.l1Put x).skipped = s.skipped := rfl
@[simp] theorem l1Put_pageLogs (s : State) (x : L1Line) : (s.l1Put x).pageLogs = s.pageLogs := rfl
@[simp] theorem l1Put_demoting (s : State) (x : L1Line) : (s.l1Put x).demoting = s.demoting := rfl
@[simp] theorem l1Put_barriers (s : State) (x : L1Line) : (s.l1Put x).barriers = s.barriers := rfl
@[simp] theorem l1Put_formats (s : State) (x : L1Line) : (s.l1Put x).formats = s.formats := rfl
@[simp] theorem l1Put_clock (s : State) (x : L1Line) : (s.l1Put x).clock = s.clock := rfl
@[simp] theorem l1Put_timeZero (s : State) (x : L1Line) : (s.l1Put x).timeZero = s.timeZero := rfl
@[simp] theorem l1Put_draws (s : State) (x : L1Line) : (s.l1Put x).draws = s.draws := rfl
@[simp] theorem l1Put_nextId (s : State) (x : L1Line) : (s.l1Put x).nextId = s.nextId := rfl
@[simp] theorem l1Put_agenda (s : State) (x : L1Line) : (s.l1Put x).agenda = s.agenda := rfl
@[simp] theorem l1Put_issue (s : State) (x : L1Line) : (s.l1Put x).issue = s.issue := rfl

/-! ### The hart at hand -/

@[simp] theorem refresh_place (h : Hart) (r : RegId) : (refresh h r).place = h.place := by
  unfold refresh; split <;> rfl
@[simp] theorem gWrite_place (h : Hart) (r : Nat) (v : Word) : (gWrite h r v).place = h.place := by
  unfold gWrite; split <;> simp
@[simp] theorem mendPoison_place (h : Hart) (k n : Nat) : (mendPoison h k n).place = h.place := by
  unfold mendPoison; split <;> rfl
@[simp] theorem hWrite_place (h : Hart) (r : Nat) (v : Word) : (hWrite h r v).place = h.place := by simp [hWrite]
@[simp] theorem refresh_split (h : Hart) (r : RegId) : (refresh h r).split = h.split := by
  unfold refresh; split <;> rfl
@[simp] theorem gWrite_split (h : Hart) (r : Nat) (v : Word) : (gWrite h r v).split = h.split := by
  unfold gWrite; split <;> simp
@[simp] theorem mendPoison_split (h : Hart) (k n : Nat) : (mendPoison h k n).split = h.split := by
  unfold mendPoison; split <;> rfl
@[simp] theorem hWrite_split (h : Hart) (r : Nat) (v : Word) : (hWrite h r v).split = h.split := by simp [hWrite]
@[simp] theorem refresh_uid (h : Hart) (r : RegId) : (refresh h r).uid = h.uid := by
  unfold refresh; split <;> rfl
@[simp] theorem gWrite_uid (h : Hart) (r : Nat) (v : Word) : (gWrite h r v).uid = h.uid := by
  unfold gWrite; split <;> simp
@[simp] theorem mendPoison_uid (h : Hart) (k n : Nat) : (mendPoison h k n).uid = h.uid := by
  unfold mendPoison; split <;> rfl
@[simp] theorem hWrite_uid (h : Hart) (r : Nat) (v : Word) : (hWrite h r v).uid = h.uid := by simp [hWrite]
@[simp] theorem refresh_asid (h : Hart) (r : RegId) : (refresh h r).asid = h.asid := by
  unfold refresh; split <;> rfl
@[simp] theorem gWrite_asid (h : Hart) (r : Nat) (v : Word) : (gWrite h r v).asid = h.asid := by
  unfold gWrite; split <;> simp
@[simp] theorem mendPoison_asid (h : Hart) (k n : Nat) : (mendPoison h k n).asid = h.asid := by
  unfold mendPoison; split <;> rfl
@[simp] theorem hWrite_asid (h : Hart) (r : Nat) (v : Word) : (hWrite h r v).asid = h.asid := by simp [hWrite]
@[simp] theorem refresh_launch (h : Hart) (r : RegId) : (refresh h r).launch = h.launch := by
  unfold refresh; split <;> rfl
@[simp] theorem gWrite_launch (h : Hart) (r : Nat) (v : Word) : (gWrite h r v).launch = h.launch := by
  unfold gWrite; split <;> simp
@[simp] theorem mendPoison_launch (h : Hart) (k n : Nat) : (mendPoison h k n).launch = h.launch := by
  unfold mendPoison; split <;> rfl
@[simp] theorem hWrite_launch (h : Hart) (r : Nat) (v : Word) : (hWrite h r v).launch = h.launch := by simp [hWrite]
@[simp] theorem refresh_unitNo (h : Hart) (r : RegId) : (refresh h r).unitNo = h.unitNo := by
  unfold refresh; split <;> rfl
@[simp] theorem gWrite_unitNo (h : Hart) (r : Nat) (v : Word) : (gWrite h r v).unitNo = h.unitNo := by
  unfold gWrite; split <;> simp
@[simp] theorem mendPoison_unitNo (h : Hart) (k n : Nat) : (mendPoison h k n).unitNo = h.unitNo := by
  unfold mendPoison; split <;> rfl
@[simp] theorem hWrite_unitNo (h : Hart) (r : Nat) (v : Word) : (hWrite h r v).unitNo = h.unitNo := by simp [hWrite]
@[simp] theorem refresh_queue (h : Hart) (r : RegId) : (refresh h r).queue = h.queue := by
  unfold refresh; split <;> rfl
@[simp] theorem gWrite_queue (h : Hart) (r : Nat) (v : Word) : (gWrite h r v).queue = h.queue := by
  unfold gWrite; split <;> simp
@[simp] theorem mendPoison_queue (h : Hart) (k n : Nat) : (mendPoison h k n).queue = h.queue := by
  unfold mendPoison; split <;> rfl
@[simp] theorem hWrite_queue (h : Hart) (r : Nat) (v : Word) : (hWrite h r v).queue = h.queue := by simp [hWrite]
@[simp] theorem refresh_energy (h : Hart) (r : RegId) : (refresh h r).energy = h.energy := by
  unfold refresh; split <;> rfl
@[simp] theorem gWrite_energy (h : Hart) (r : Nat) (v : Word) : (gWrite h r v).energy = h.energy := by
  unfold gWrite; split <;> simp
@[simp] theorem mendPoison_energy (h : Hart) (k n : Nat) : (mendPoison h k n).energy = h.energy := by
  unfold mendPoison; split <;> rfl
@[simp] theorem hWrite_energy (h : Hart) (r : Nat) (v : Word) : (hWrite h r v).energy = h.energy := by simp [hWrite]
@[simp] theorem refresh_dur (h : Hart) (r : RegId) : (refresh h r).dur = h.dur := by
  unfold refresh; split <;> rfl
@[simp] theorem gWrite_dur (h : Hart) (r : Nat) (v : Word) : (gWrite h r v).dur = h.dur := by
  unfold gWrite; split <;> simp
@[simp] theorem mendPoison_dur (h : Hart) (k n : Nat) : (mendPoison h k n).dur = h.dur := by
  unfold mendPoison; split <;> rfl
@[simp] theorem hWrite_dur (h : Hart) (r : Nat) (v : Word) : (hWrite h r v).dur = h.dur := by simp [hWrite]
@[simp] theorem refresh_life (h : Hart) (r : RegId) : (refresh h r).life = h.life := by
  unfold refresh; split <;> rfl
@[simp] theorem gWrite_life (h : Hart) (r : Nat) (v : Word) : (gWrite h r v).life = h.life := by
  unfold gWrite; split <;> simp
@[simp] theorem mendPoison_life (h : Hart) (k n : Nat) : (mendPoison h k n).life = h.life := by
  unfold mendPoison; split <;> rfl
@[simp] theorem hWrite_life (h : Hart) (r : Nat) (v : Word) : (hWrite h r v).life = h.life := by simp [hWrite]
@[simp] theorem refresh_saved (h : Hart) (r : RegId) : (refresh h r).saved = h.saved := by
  unfold refresh; split <;> rfl
@[simp] theorem gWrite_saved (h : Hart) (r : Nat) (v : Word) : (gWrite h r v).saved = h.saved := by
  unfold gWrite; split <;> simp
@[simp] theorem mendPoison_saved (h : Hart) (k n : Nat) : (mendPoison h k n).saved = h.saved := by
  unfold mendPoison; split <;> rfl
@[simp] theorem hWrite_saved (h : Hart) (r : Nat) (v : Word) : (hWrite h r v).saved = h.saved := by simp [hWrite]
@[simp] theorem refresh_quotaHalt (h : Hart) (r : RegId) : (refresh h r).quotaHalt = h.quotaHalt := by
  unfold refresh; split <;> rfl
@[simp] theorem gWrite_quotaHalt (h : Hart) (r : Nat) (v : Word) : (gWrite h r v).quotaHalt = h.quotaHalt := by
  unfold gWrite; split <;> simp
@[simp] theorem mendPoison_quotaHalt (h : Hart) (k n : Nat) : (mendPoison h k n).quotaHalt = h.quotaHalt := by
  unfold mendPoison; split <;> rfl
@[simp] theorem hWrite_quotaHalt (h : Hart) (r : Nat) (v : Word) : (hWrite h r v).quotaHalt = h.quotaHalt := by simp [hWrite]
@[simp] theorem refresh_sc (h : Hart) (r : RegId) : (refresh h r).sc = h.sc := by
  unfold refresh; split <;> rfl
@[simp] theorem mendPoison_sc (h : Hart) (k n : Nat) : (mendPoison h k n).sc = h.sc := by
  unfold mendPoison; split <;> rfl
@[simp] theorem hWrite_sc (h : Hart) (r : Nat) (v : Word) : (hWrite h r v).sc = h.sc := by simp [hWrite]
@[simp] theorem refresh_ve (h : Hart) (r : RegId) : (refresh h r).ve = h.ve := by
  unfold refresh; split <;> rfl
@[simp] theorem gWrite_ve (h : Hart) (r : Nat) (v : Word) : (gWrite h r v).ve = h.ve := by
  unfold gWrite; split <;> simp
@[simp] theorem mendPoison_ve (h : Hart) (k n : Nat) : (mendPoison h k n).ve = h.ve := by
  unfold mendPoison; split <;> rfl
@[simp] theorem refresh_cs (h : Hart) (r : RegId) : (refresh h r).cs = h.cs := by
  unfold refresh; split <;> rfl
@[simp] theorem gWrite_cs (h : Hart) (r : Nat) (v : Word) : (gWrite h r v).cs = h.cs := by
  unfold gWrite; split <;> simp
@[simp] theorem mendPoison_cs (h : Hart) (k n : Nat) : (mendPoison h k n).cs = h.cs := by
  unfold mendPoison; split <;> rfl
@[simp] theorem hWrite_cs (h : Hart) (r : Nat) (v : Word) : (hWrite h r v).cs = h.cs := by simp [hWrite]
@[simp] theorem refresh_q (h : Hart) (r : RegId) : (refresh h r).q = h.q := by
  unfold refresh; split <;> rfl
@[simp] theorem gWrite_q (h : Hart) (r : Nat) (v : Word) : (gWrite h r v).q = h.q := by
  unfold gWrite; split <;> simp
@[simp] theorem mendPoison_q (h : Hart) (k n : Nat) : (mendPoison h k n).q = h.q := by
  unfold mendPoison; split <;> rfl
@[simp] theorem hWrite_q (h : Hart) (r : Nat) (v : Word) : (hWrite h r v).q = h.q := by simp [hWrite]
@[simp] theorem refresh_f (h : Hart) (r : RegId) : (refresh h r).f = h.f := by
  unfold refresh; split <;> rfl
@[simp] theorem gWrite_f (h : Hart) (r : Nat) (v : Word) : (gWrite h r v).f = h.f := by
  unfold gWrite; split <;> simp
@[simp] theorem mendPoison_f (h : Hart) (k n : Nat) : (mendPoison h k n).f = h.f := by
  unfold mendPoison; split <;> rfl
@[simp] theorem hWrite_f (h : Hart) (r : Nat) (v : Word) : (hWrite h r v).f = h.f := by simp [hWrite]
@[simp] theorem refresh_tl (h : Hart) (r : RegId) : (refresh h r).tl = h.tl := by
  unfold refresh; split <;> rfl
@[simp] theorem gWrite_tl (h : Hart) (r : Nat) (v : Word) : (gWrite h r v).tl = h.tl := by
  unfold gWrite; split <;> simp
@[simp] theorem mendPoison_tl (h : Hart) (k n : Nat) : (mendPoison h k n).tl = h.tl := by
  unfold mendPoison; split <;> rfl
@[simp] theorem hWrite_tl (h : Hart) (r : Nat) (v : Word) : (hWrite h r v).tl = h.tl := by simp [hWrite]
@[simp] theorem refresh_bank (h : Hart) (r : RegId) : (refresh h r).bank = h.bank := by
  unfold refresh; split <;> rfl
@[simp] theorem gWrite_bank (h : Hart) (r : Nat) (v : Word) : (gWrite h r v).bank = h.bank := by
  unfold gWrite; split <;> simp
@[simp] theorem mendPoison_bank (h : Hart) (k n : Nat) : (mendPoison h k n).bank = h.bank := by
  unfold mendPoison; split <;> rfl
@[simp] theorem hWrite_bank (h : Hart) (r : Nat) (v : Word) : (hWrite h r v).bank = h.bank := by simp [hWrite]
@[simp] theorem refresh_bgath (h : Hart) (r : RegId) : (refresh h r).bgath = h.bgath := by
  unfold refresh; split <;> rfl
@[simp] theorem gWrite_bgath (h : Hart) (r : Nat) (v : Word) : (gWrite h r v).bgath = h.bgath := by
  unfold gWrite; split <;> simp
@[simp] theorem mendPoison_bgath (h : Hart) (k n : Nat) : (mendPoison h k n).bgath = h.bgath := by
  unfold mendPoison; split <;> rfl
@[simp] theorem hWrite_bgath (h : Hart) (r : Nat) (v : Word) : (hWrite h r v).bgath = h.bgath := by simp [hWrite]
@[simp] theorem refresh_ask (h : Hart) (r : RegId) : (refresh h r).ask = h.ask := by
  unfold refresh; split <;> rfl
@[simp] theorem gWrite_ask (h : Hart) (r : Nat) (v : Word) : (gWrite h r v).ask = h.ask := by
  unfold gWrite; split <;> simp
@[simp] theorem mendPoison_ask (h : Hart) (k n : Nat) : (mendPoison h k n).ask = h.ask := by
  unfold mendPoison; split <;> rfl
@[simp] theorem hWrite_ask (h : Hart) (r : Nat) (v : Word) : (hWrite h r v).ask = h.ask := by simp [hWrite]
@[simp] theorem refresh_writes (h : Hart) (r : RegId) : (refresh h r).writes = h.writes := by
  unfold refresh; split <;> rfl
@[simp] theorem gWrite_writes (h : Hart) (r : Nat) (v : Word) : (gWrite h r v).writes = h.writes := by
  unfold gWrite; split <;> simp
@[simp] theorem mendPoison_writes (h : Hart) (k n : Nat) : (mendPoison h k n).writes = h.writes := by
  unfold mendPoison; split <;> rfl
@[simp] theorem hWrite_writes (h : Hart) (r : Nat) (v : Word) : (hWrite h r v).writes = h.writes := by simp [hWrite]
@[simp] theorem mendPoison_stale (h : Hart) (k n : Nat) : (mendPoison h k n).stale = h.stale := by
  unfold mendPoison; split <;> rfl
@[simp] theorem refresh_irqs (h : Hart) (r : RegId) : (refresh h r).irqs = h.irqs := by
  unfold refresh; split <;> rfl
@[simp] theorem gWrite_irqs (h : Hart) (r : Nat) (v : Word) : (gWrite h r v).irqs = h.irqs := by
  unfold gWrite; split <;> simp
@[simp] theorem mendPoison_irqs (h : Hart) (k n : Nat) : (mendPoison h k n).irqs = h.irqs := by
  unfold mendPoison; split <;> rfl
@[simp] theorem hWrite_irqs (h : Hart) (r : Nat) (v : Word) : (hWrite h r v).irqs = h.irqs := by simp [hWrite]
@[simp] theorem refresh_irqAt (h : Hart) (r : RegId) : (refresh h r).irqAt = h.irqAt := by
  unfold refresh; split <;> rfl
@[simp] theorem gWrite_irqAt (h : Hart) (r : Nat) (v : Word) : (gWrite h r v).irqAt = h.irqAt := by
  unfold gWrite; split <;> simp
@[simp] theorem mendPoison_irqAt (h : Hart) (k n : Nat) : (mendPoison h k n).irqAt = h.irqAt := by
  unfold mendPoison; split <;> rfl
@[simp] theorem hWrite_irqAt (h : Hart) (r : Nat) (v : Word) : (hWrite h r v).irqAt = h.irqAt := by simp [hWrite]
@[simp] theorem refresh_poison (h : Hart) (r : RegId) : (refresh h r).poison = h.poison := by
  unfold refresh; split <;> rfl
@[simp] theorem gWrite_poison (h : Hart) (r : Nat) (v : Word) : (gWrite h r v).poison = h.poison := by
  unfold gWrite; split <;> simp

/-- g0 reads 0 (R61). -/
@[simp] theorem gRead_zero (h : Hart) : gRead h 0 = 0 := rfl

/-- A write of g0 is discarded (R61). -/
@[simp] theorem gWrite_zero (h : Hart) (v : Word) : gWrite h 0 v = h := rfl

theorem vget_vset_same {α : Type} {n : Nat} (v : Vector α n) (i : Nat) (x d : α) (h : i < n) : vget (vset v i x) i d = x := by
  simp [vget, vset, h]

theorem vget_vset_other {α : Type} {n : Nat} (v : Vector α n) (i j : Nat) (x d : α) (h : j ≠ i) :
    vget (vset v i x) j d = vget v j d := by
  simp only [vget, vset]
  by_cases hj : j < n
  · simp [hj, Ne.symm h]
  · simp [hj]

/-- A g register reads as written, g0 as 0, and the others as before. -/
theorem gRead_gWrite (h : Hart) (r : Nat) (v : Word) (k : Nat) (hr : r < 32) :
    gRead (gWrite h r v) k = if k = 0 then 0 else if k = r then v else gRead h k := by
  unfold gRead gWrite
  split
  · rfl
  · split
    · next h1 h2 => rw [if_neg (by omega)]
    · simp only [refresh_sc]
      split
      · next h1 h2 h3 => rw [h3]; exact vget_vset_same _ _ _ _ hr
      · next h1 h2 h3 => exact vget_vset_other _ _ _ _ _ h3

/-- An h register reads as written, and the others as before. -/
theorem hRead_hWrite (h : Hart) (r : Nat) (v : Word) (k : Nat) (hr : r < 16) :
    hRead (hWrite h r v) k = if k = r then v else hRead h k := by
  simp only [hRead, hWrite, refresh_ve, mendPoison_ve]
  split
  · next h1 => rw [h1]; exact vget_vset_same _ _ _ _ hr
  · next h1 => exact vget_vset_other _ _ _ _ _ h1

/-! ### Retirement -/

@[simp] theorem chargeTurn_product (s : State) (x : Arb) (q n : Nat) : (chargeTurn s x q n).product = s.product := by
  unfold chargeTurn; dsimp only; split <;> rfl
@[simp] theorem chargeTurn_hart (s : State) (x : Arb) (q n : Nat) : (chargeTurn s x q n).hart = s.hart := by
  unfold chargeTurn; dsimp only; split <;> rfl
@[simp] theorem chargeTurn_parked (s : State) (x : Arb) (q n : Nat) : (chargeTurn s x q n).parked = s.parked := by
  unfold chargeTurn; dsimp only; split <;> rfl
@[simp] theorem chargeTurn_ended (s : State) (x : Arb) (q n : Nat) : (chargeTurn s x q n).ended = s.ended := by
  unfold chargeTurn; dsimp only; split <;> rfl
@[simp] theorem chargeTurn_mem (s : State) (x : Arb) (q n : Nat) : (chargeTurn s x q n).mem = s.mem := by
  unfold chargeTurn; dsimp only; split <;> rfl
@[simp] theorem chargeTurn_l1 (s : State) (x : Arb) (q n : Nat) : (chargeTurn s x q n).l1 = s.l1 := by
  unfold chargeTurn; dsimp only; split <;> rfl
@[simp] theorem chargeTurn_l2 (s : State) (x : Arb) (q n : Nat) : (chargeTurn s x q n).l2 = s.l2 := by
  unfold chargeTurn; dsimp only; split <;> rfl
@[simp] theorem chargeTurn_tlb (s : State) (x : Arb) (q n : Nat) : (chargeTurn s x q n).tlb = s.tlb := by
  unfold chargeTurn; dsimp only; split <;> rfl
@[simp] theorem chargeTurn_poison (s : State) (x : Arb) (q n : Nat) : (chargeTurn s x q n).poison = s.poison := by
  unfold chargeTurn; dsimp only; split <;> rfl
@[simp] theorem chargeTurn_lost (s : State) (x : Arb) (q n : Nat) : (chargeTurn s x q n).lost = s.lost := by
  unfold chargeTurn; dsimp only; split <;> rfl
@[simp] theorem chargeTurn_mended (s : State) (x : Arb) (q n : Nat) : (chargeTurn s x q n).mended = s.mended := by
  unfold chargeTurn; dsimp only; split <;> rfl
@[simp] theorem chargeTurn_grants (s : State) (x : Arb) (q n : Nat) : (chargeTurn s x q n).grants = s.grants := by
  unfold chargeTurn; dsimp only; split <;> rfl
@[simp] theorem chargeTurn_cores (s : State) (x : Arb) (q n : Nat) : (chargeTurn s x q n).cores = s.cores := by
  unfold chargeTurn; dsimp only; split <;> rfl
@[simp] theorem chargeTurn_noon (s : State) (x : Arb) (q n : Nat) : (chargeTurn s x q n).noon = s.noon := by
  unfold chargeTurn; dsimp only; split <;> rfl
@[simp] theorem chargeTurn_quota (s : State) (x : Arb) (q n : Nat) : (chargeTurn s x q n).quota = s.quota := by
  unfold chargeTurn; dsimp only; split <;> rfl
@[simp] theorem chargeTurn_spent (s : State) (x : Arb) (q n : Nat) : (chargeTurn s x q n).spent = s.spent := by
  unfold chargeTurn; dsimp only; split <;> rfl
@[simp] theorem chargeTurn_house (s : State) (x : Arb) (q n : Nat) : (chargeTurn s x q n).house = s.house := by
  unfold chargeTurn; dsimp only; split <;> rfl
@[simp] theorem chargeTurn_meter (s : State) (x : Arb) (q n : Nat) : (chargeTurn s x q n).meter = s.meter := by
  unfold chargeTurn; dsimp only; split <;> rfl
@[simp] theorem chargeTurn_unpaid (s : State) (x : Arb) (q n : Nat) : (chargeTurn s x q n).unpaid = s.unpaid := by
  unfold chargeTurn; dsimp only; split <;> rfl
@[simp] theorem chargeTurn_contexts (s : State) (x : Arb) (q n : Nat) : (chargeTurn s x q n).contexts = s.contexts := by
  unfold chargeTurn; dsimp only; split <;> rfl
@[simp] theorem chargeTurn_freed (s : State) (x : Arb) (q n : Nat) : (chargeTurn s x q n).freed = s.freed := by
  unfold chargeTurn; dsimp only; split <;> rfl
@[simp] theorem chargeTurn_refusals (s : State) (x : Arb) (q n : Nat) : (chargeTurn s x q n).refusals = s.refusals := by
  unfold chargeTurn; dsimp only; split <;> rfl
@[simp] theorem chargeTurn_queues (s : State) (x : Arb) (q n : Nat) : (chargeTurn s x q n).queues = s.queues := by
  unfold chargeTurn; dsimp only; split <;> rfl
@[simp] theorem chargeTurn_launches (s : State) (x : Arb) (q n : Nat) : (chargeTurn s x q n).launches = s.launches := by
  unfold chargeTurn; dsimp only; split <;> rfl
@[simp] theorem chargeTurn_graphs (s : State) (x : Arb) (q n : Nat) : (chargeTurn s x q n).graphs = s.graphs := by
  unfold chargeTurn; dsimp only; split <;> rfl
@[simp] theorem chargeTurn_groups (s : State) (x : Arb) (q n : Nat) : (chargeTurn s x q n).groups = s.groups := by
  unfold chargeTurn; dsimp only; split <;> rfl
@[simp] theorem chargeTurn_owed (s : State) (x : Arb) (q n : Nat) : (chargeTurn s x q n).owed = s.owed := by
  unfold chargeTurn; dsimp only; split <;> rfl
@[simp] theorem chargeTurn_transit (s : State) (x : Arb) (q n : Nat) : (chargeTurn s x q n).transit = s.transit := by
  unfold chargeTurn; dsimp only; split <;> rfl
@[simp] theorem chargeTurn_links (s : State) (x : Arb) (q n : Nat) : (chargeTurn s x q n).links = s.links := by
  unfold chargeTurn; dsimp only; split <;> rfl
@[simp] theorem chargeTurn_routes (s : State) (x : Arb) (q n : Nat) : (chargeTurn s x q n).routes = s.routes := by
  unfold chargeTurn; dsimp only; split <;> rfl
@[simp] theorem chargeTurn_hub (s : State) (x : Arb) (q n : Nat) : (chargeTurn s x q n).hub = s.hub := by
  unfold chargeTurn; dsimp only; split <;> rfl
@[simp] theorem chargeTurn_answer (s : State) (x : Arb) (q n : Nat) : (chargeTurn s x q n).answer = s.answer := by
  unfold chargeTurn; dsimp only; split <;> rfl
@[simp] theorem chargeTurn_msix (s : State) (x : Arb) (q n : Nat) : (chargeTurn s x q n).msix = s.msix := by
  unfold chargeTurn; dsimp only; split <;> rfl
@[simp] theorem chargeTurn_vfs (s : State) (x : Arb) (q n : Nat) : (chargeTurn s x q n).vfs = s.vfs := by
  unfold chargeTurn; dsimp only; split <;> rfl
@[simp] theorem chargeTurn_moves (s : State) (x : Arb) (q n : Nat) : (chargeTurn s x q n).moves = s.moves := by
  unfold chargeTurn; dsimp only; split <;> rfl
@[simp] theorem chargeTurn_shoots (s : State) (x : Arb) (q n : Nat) : (chargeTurn s x q n).shoots = s.shoots := by
  unfold chargeTurn; dsimp only; split <;> rfl
@[simp] theorem chargeTurn_olds (s : State) (x : Arb) (q n : Nat) : (chargeTurn s x q n).olds = s.olds := by
  unfold chargeTurn; dsimp only; split <;> rfl
@[simp] theorem chargeTurn_reports (s : State) (x : Arb) (q n : Nat) : (chargeTurn s x q n).reports = s.reports := by
  unfold chargeTurn; dsimp only; split <;> rfl
@[simp] theorem chargeTurn_swept (s : State) (x : Arb) (q n : Nat) : (chargeTurn s x q n).swept = s.swept := by
  unfold chargeTurn; dsimp only; split <;> rfl
@[simp] theorem chargeTurn_sweeps (s : State) (x : Arb) (q n : Nat) : (chargeTurn s x q n).sweeps = s.sweeps := by
  unfold chargeTurn; dsimp only; split <;> rfl
@[simp] theorem chargeTurn_skipped (s : State) (x : Arb) (q n : Nat) : (chargeTurn s x q n).skipped = s.skipped := by
  unfold chargeTurn; dsimp only; split <;> rfl
@[simp] theorem chargeTurn_pageLogs (s : State) (x : Arb) (q n : Nat) : (chargeTurn s x q n).pageLogs = s.pageLogs := by
  unfold chargeTurn; dsimp only; split <;> rfl
@[simp] theorem chargeTurn_demoting (s : State) (x : Arb) (q n : Nat) : (chargeTurn s x q n).demoting = s.demoting := by
  unfold chargeTurn; dsimp only; split <;> rfl
@[simp] theorem chargeTurn_barriers (s : State) (x : Arb) (q n : Nat) : (chargeTurn s x q n).barriers = s.barriers := by
  unfold chargeTurn; dsimp only; split <;> rfl
@[simp] theorem chargeTurn_formats (s : State) (x : Arb) (q n : Nat) : (chargeTurn s x q n).formats = s.formats := by
  unfold chargeTurn; dsimp only; split <;> rfl
@[simp] theorem chargeTurn_clock (s : State) (x : Arb) (q n : Nat) : (chargeTurn s x q n).clock = s.clock := by
  unfold chargeTurn; dsimp only; split <;> rfl
@[simp] theorem chargeTurn_timeZero (s : State) (x : Arb) (q n : Nat) : (chargeTurn s x q n).timeZero = s.timeZero := by
  unfold chargeTurn; dsimp only; split <;> rfl
@[simp] theorem chargeTurn_draws (s : State) (x : Arb) (q n : Nat) : (chargeTurn s x q n).draws = s.draws := by
  unfold chargeTurn; dsimp only; split <;> rfl
@[simp] theorem chargeTurn_nextId (s : State) (x : Arb) (q n : Nat) : (chargeTurn s x q n).nextId = s.nextId := by
  unfold chargeTurn; dsimp only; split <;> rfl
@[simp] theorem chargeTurn_agenda (s : State) (x : Arb) (q n : Nat) : (chargeTurn s x q n).agenda = s.agenda := by
  unfold chargeTurn; dsimp only; split <;> rfl
@[simp] theorem chargeTurn_issue (s : State) (x : Arb) (q n : Nat) : (chargeTurn s x q n).issue = s.issue := by
  unfold chargeTurn; dsimp only; split <;> rfl
@[simp] theorem chargeSequencer_product (s : State) (n : Nat) : (chargeSequencer s n).product = s.product := by simp [chargeSequencer]
@[simp] theorem chargeSequencer_hart (s : State) (n : Nat) : (chargeSequencer s n).hart = s.hart := by simp [chargeSequencer]
@[simp] theorem chargeSequencer_parked (s : State) (n : Nat) : (chargeSequencer s n).parked = s.parked := by simp [chargeSequencer]
@[simp] theorem chargeSequencer_ended (s : State) (n : Nat) : (chargeSequencer s n).ended = s.ended := by simp [chargeSequencer]
@[simp] theorem chargeSequencer_mem (s : State) (n : Nat) : (chargeSequencer s n).mem = s.mem := by simp [chargeSequencer]
@[simp] theorem chargeSequencer_l1 (s : State) (n : Nat) : (chargeSequencer s n).l1 = s.l1 := by simp [chargeSequencer]
@[simp] theorem chargeSequencer_l2 (s : State) (n : Nat) : (chargeSequencer s n).l2 = s.l2 := by simp [chargeSequencer]
@[simp] theorem chargeSequencer_tlb (s : State) (n : Nat) : (chargeSequencer s n).tlb = s.tlb := by simp [chargeSequencer]
@[simp] theorem chargeSequencer_poison (s : State) (n : Nat) : (chargeSequencer s n).poison = s.poison := by simp [chargeSequencer]
@[simp] theorem chargeSequencer_lost (s : State) (n : Nat) : (chargeSequencer s n).lost = s.lost := by simp [chargeSequencer]
@[simp] theorem chargeSequencer_mended (s : State) (n : Nat) : (chargeSequencer s n).mended = s.mended := by simp [chargeSequencer]
@[simp] theorem chargeSequencer_grants (s : State) (n : Nat) : (chargeSequencer s n).grants = s.grants := by simp [chargeSequencer]
@[simp] theorem chargeSequencer_cores (s : State) (n : Nat) : (chargeSequencer s n).cores = s.cores := by simp [chargeSequencer]
@[simp] theorem chargeSequencer_noon (s : State) (n : Nat) : (chargeSequencer s n).noon = s.noon := by simp [chargeSequencer]
@[simp] theorem chargeSequencer_quota (s : State) (n : Nat) : (chargeSequencer s n).quota = s.quota := by simp [chargeSequencer]
@[simp] theorem chargeSequencer_spent (s : State) (n : Nat) : (chargeSequencer s n).spent = s.spent := by simp [chargeSequencer]
@[simp] theorem chargeSequencer_house (s : State) (n : Nat) : (chargeSequencer s n).house = s.house := by simp [chargeSequencer]
@[simp] theorem chargeSequencer_meter (s : State) (n : Nat) : (chargeSequencer s n).meter = s.meter := by simp [chargeSequencer]
@[simp] theorem chargeSequencer_unpaid (s : State) (n : Nat) : (chargeSequencer s n).unpaid = s.unpaid := by simp [chargeSequencer]
@[simp] theorem chargeSequencer_contexts (s : State) (n : Nat) : (chargeSequencer s n).contexts = s.contexts := by simp [chargeSequencer]
@[simp] theorem chargeSequencer_freed (s : State) (n : Nat) : (chargeSequencer s n).freed = s.freed := by simp [chargeSequencer]
@[simp] theorem chargeSequencer_refusals (s : State) (n : Nat) : (chargeSequencer s n).refusals = s.refusals := by simp [chargeSequencer]
@[simp] theorem chargeSequencer_queues (s : State) (n : Nat) : (chargeSequencer s n).queues = s.queues := by simp [chargeSequencer]
@[simp] theorem chargeSequencer_launches (s : State) (n : Nat) : (chargeSequencer s n).launches = s.launches := by simp [chargeSequencer]
@[simp] theorem chargeSequencer_graphs (s : State) (n : Nat) : (chargeSequencer s n).graphs = s.graphs := by simp [chargeSequencer]
@[simp] theorem chargeSequencer_groups (s : State) (n : Nat) : (chargeSequencer s n).groups = s.groups := by simp [chargeSequencer]
@[simp] theorem chargeSequencer_owed (s : State) (n : Nat) : (chargeSequencer s n).owed = s.owed := by simp [chargeSequencer]
@[simp] theorem chargeSequencer_transit (s : State) (n : Nat) : (chargeSequencer s n).transit = s.transit := by simp [chargeSequencer]
@[simp] theorem chargeSequencer_links (s : State) (n : Nat) : (chargeSequencer s n).links = s.links := by simp [chargeSequencer]
@[simp] theorem chargeSequencer_routes (s : State) (n : Nat) : (chargeSequencer s n).routes = s.routes := by simp [chargeSequencer]
@[simp] theorem chargeSequencer_hub (s : State) (n : Nat) : (chargeSequencer s n).hub = s.hub := by simp [chargeSequencer]
@[simp] theorem chargeSequencer_answer (s : State) (n : Nat) : (chargeSequencer s n).answer = s.answer := by simp [chargeSequencer]
@[simp] theorem chargeSequencer_msix (s : State) (n : Nat) : (chargeSequencer s n).msix = s.msix := by simp [chargeSequencer]
@[simp] theorem chargeSequencer_vfs (s : State) (n : Nat) : (chargeSequencer s n).vfs = s.vfs := by simp [chargeSequencer]
@[simp] theorem chargeSequencer_moves (s : State) (n : Nat) : (chargeSequencer s n).moves = s.moves := by simp [chargeSequencer]
@[simp] theorem chargeSequencer_shoots (s : State) (n : Nat) : (chargeSequencer s n).shoots = s.shoots := by simp [chargeSequencer]
@[simp] theorem chargeSequencer_olds (s : State) (n : Nat) : (chargeSequencer s n).olds = s.olds := by simp [chargeSequencer]
@[simp] theorem chargeSequencer_reports (s : State) (n : Nat) : (chargeSequencer s n).reports = s.reports := by simp [chargeSequencer]
@[simp] theorem chargeSequencer_swept (s : State) (n : Nat) : (chargeSequencer s n).swept = s.swept := by simp [chargeSequencer]
@[simp] theorem chargeSequencer_sweeps (s : State) (n : Nat) : (chargeSequencer s n).sweeps = s.sweeps := by simp [chargeSequencer]
@[simp] theorem chargeSequencer_skipped (s : State) (n : Nat) : (chargeSequencer s n).skipped = s.skipped := by simp [chargeSequencer]
@[simp] theorem chargeSequencer_pageLogs (s : State) (n : Nat) : (chargeSequencer s n).pageLogs = s.pageLogs := by simp [chargeSequencer]
@[simp] theorem chargeSequencer_demoting (s : State) (n : Nat) : (chargeSequencer s n).demoting = s.demoting := by simp [chargeSequencer]
@[simp] theorem chargeSequencer_barriers (s : State) (n : Nat) : (chargeSequencer s n).barriers = s.barriers := by simp [chargeSequencer]
@[simp] theorem chargeSequencer_formats (s : State) (n : Nat) : (chargeSequencer s n).formats = s.formats := by simp [chargeSequencer]
@[simp] theorem chargeSequencer_clock (s : State) (n : Nat) : (chargeSequencer s n).clock = s.clock := by simp [chargeSequencer]
@[simp] theorem chargeSequencer_timeZero (s : State) (n : Nat) : (chargeSequencer s n).timeZero = s.timeZero := by simp [chargeSequencer]
@[simp] theorem chargeSequencer_draws (s : State) (n : Nat) : (chargeSequencer s n).draws = s.draws := by simp [chargeSequencer]
@[simp] theorem chargeSequencer_nextId (s : State) (n : Nat) : (chargeSequencer s n).nextId = s.nextId := by simp [chargeSequencer]
@[simp] theorem chargeSequencer_agenda (s : State) (n : Nat) : (chargeSequencer s n).agenda = s.agenda := by simp [chargeSequencer]
@[simp] theorem chargeSequencer_issue (s : State) (n : Nat) : (chargeSequencer s n).issue = s.issue := by simp [chargeSequencer]
@[simp] theorem readyFrom_product (s : State) (t : Nat) : (readyFrom s t).product = s.product := by
  unfold readyFrom; split <;> rfl
@[simp] theorem readyFrom_parked (s : State) (t : Nat) : (readyFrom s t).parked = s.parked := by
  unfold readyFrom; split <;> rfl
@[simp] theorem readyFrom_ended (s : State) (t : Nat) : (readyFrom s t).ended = s.ended := by
  unfold readyFrom; split <;> rfl
@[simp] theorem readyFrom_mem (s : State) (t : Nat) : (readyFrom s t).mem = s.mem := by
  unfold readyFrom; split <;> rfl
@[simp] theorem readyFrom_l1 (s : State) (t : Nat) : (readyFrom s t).l1 = s.l1 := by
  unfold readyFrom; split <;> rfl
@[simp] theorem readyFrom_l2 (s : State) (t : Nat) : (readyFrom s t).l2 = s.l2 := by
  unfold readyFrom; split <;> rfl
@[simp] theorem readyFrom_tlb (s : State) (t : Nat) : (readyFrom s t).tlb = s.tlb := by
  unfold readyFrom; split <;> rfl
@[simp] theorem readyFrom_poison (s : State) (t : Nat) : (readyFrom s t).poison = s.poison := by
  unfold readyFrom; split <;> rfl
@[simp] theorem readyFrom_lost (s : State) (t : Nat) : (readyFrom s t).lost = s.lost := by
  unfold readyFrom; split <;> rfl
@[simp] theorem readyFrom_mended (s : State) (t : Nat) : (readyFrom s t).mended = s.mended := by
  unfold readyFrom; split <;> rfl
@[simp] theorem readyFrom_grants (s : State) (t : Nat) : (readyFrom s t).grants = s.grants := by
  unfold readyFrom; split <;> rfl
@[simp] theorem readyFrom_cores (s : State) (t : Nat) : (readyFrom s t).cores = s.cores := by
  unfold readyFrom; split <;> rfl
@[simp] theorem readyFrom_noon (s : State) (t : Nat) : (readyFrom s t).noon = s.noon := by
  unfold readyFrom; split <;> rfl
@[simp] theorem readyFrom_quota (s : State) (t : Nat) : (readyFrom s t).quota = s.quota := by
  unfold readyFrom; split <;> rfl
@[simp] theorem readyFrom_spent (s : State) (t : Nat) : (readyFrom s t).spent = s.spent := by
  unfold readyFrom; split <;> rfl
@[simp] theorem readyFrom_house (s : State) (t : Nat) : (readyFrom s t).house = s.house := by
  unfold readyFrom; split <;> rfl
@[simp] theorem readyFrom_meter (s : State) (t : Nat) : (readyFrom s t).meter = s.meter := by
  unfold readyFrom; split <;> rfl
@[simp] theorem readyFrom_unpaid (s : State) (t : Nat) : (readyFrom s t).unpaid = s.unpaid := by
  unfold readyFrom; split <;> rfl
@[simp] theorem readyFrom_contexts (s : State) (t : Nat) : (readyFrom s t).contexts = s.contexts := by
  unfold readyFrom; split <;> rfl
@[simp] theorem readyFrom_freed (s : State) (t : Nat) : (readyFrom s t).freed = s.freed := by
  unfold readyFrom; split <;> rfl
@[simp] theorem readyFrom_refusals (s : State) (t : Nat) : (readyFrom s t).refusals = s.refusals := by
  unfold readyFrom; split <;> rfl
@[simp] theorem readyFrom_queues (s : State) (t : Nat) : (readyFrom s t).queues = s.queues := by
  unfold readyFrom; split <;> rfl
@[simp] theorem readyFrom_launches (s : State) (t : Nat) : (readyFrom s t).launches = s.launches := by
  unfold readyFrom; split <;> rfl
@[simp] theorem readyFrom_graphs (s : State) (t : Nat) : (readyFrom s t).graphs = s.graphs := by
  unfold readyFrom; split <;> rfl
@[simp] theorem readyFrom_arbiters (s : State) (t : Nat) : (readyFrom s t).arbiters = s.arbiters := by
  unfold readyFrom; split <;> rfl
@[simp] theorem readyFrom_groups (s : State) (t : Nat) : (readyFrom s t).groups = s.groups := by
  unfold readyFrom; split <;> rfl
@[simp] theorem readyFrom_owed (s : State) (t : Nat) : (readyFrom s t).owed = s.owed := by
  unfold readyFrom; split <;> rfl
@[simp] theorem readyFrom_transit (s : State) (t : Nat) : (readyFrom s t).transit = s.transit := by
  unfold readyFrom; split <;> rfl
@[simp] theorem readyFrom_links (s : State) (t : Nat) : (readyFrom s t).links = s.links := by
  unfold readyFrom; split <;> rfl
@[simp] theorem readyFrom_routes (s : State) (t : Nat) : (readyFrom s t).routes = s.routes := by
  unfold readyFrom; split <;> rfl
@[simp] theorem readyFrom_hub (s : State) (t : Nat) : (readyFrom s t).hub = s.hub := by
  unfold readyFrom; split <;> rfl
@[simp] theorem readyFrom_answer (s : State) (t : Nat) : (readyFrom s t).answer = s.answer := by
  unfold readyFrom; split <;> rfl
@[simp] theorem readyFrom_msix (s : State) (t : Nat) : (readyFrom s t).msix = s.msix := by
  unfold readyFrom; split <;> rfl
@[simp] theorem readyFrom_vfs (s : State) (t : Nat) : (readyFrom s t).vfs = s.vfs := by
  unfold readyFrom; split <;> rfl
@[simp] theorem readyFrom_moves (s : State) (t : Nat) : (readyFrom s t).moves = s.moves := by
  unfold readyFrom; split <;> rfl
@[simp] theorem readyFrom_shoots (s : State) (t : Nat) : (readyFrom s t).shoots = s.shoots := by
  unfold readyFrom; split <;> rfl
@[simp] theorem readyFrom_olds (s : State) (t : Nat) : (readyFrom s t).olds = s.olds := by
  unfold readyFrom; split <;> rfl
@[simp] theorem readyFrom_reports (s : State) (t : Nat) : (readyFrom s t).reports = s.reports := by
  unfold readyFrom; split <;> rfl
@[simp] theorem readyFrom_swept (s : State) (t : Nat) : (readyFrom s t).swept = s.swept := by
  unfold readyFrom; split <;> rfl
@[simp] theorem readyFrom_sweeps (s : State) (t : Nat) : (readyFrom s t).sweeps = s.sweeps := by
  unfold readyFrom; split <;> rfl
@[simp] theorem readyFrom_skipped (s : State) (t : Nat) : (readyFrom s t).skipped = s.skipped := by
  unfold readyFrom; split <;> rfl
@[simp] theorem readyFrom_pageLogs (s : State) (t : Nat) : (readyFrom s t).pageLogs = s.pageLogs := by
  unfold readyFrom; split <;> rfl
@[simp] theorem readyFrom_demoting (s : State) (t : Nat) : (readyFrom s t).demoting = s.demoting := by
  unfold readyFrom; split <;> rfl
@[simp] theorem readyFrom_barriers (s : State) (t : Nat) : (readyFrom s t).barriers = s.barriers := by
  unfold readyFrom; split <;> rfl
@[simp] theorem readyFrom_formats (s : State) (t : Nat) : (readyFrom s t).formats = s.formats := by
  unfold readyFrom; split <;> rfl
@[simp] theorem readyFrom_clock (s : State) (t : Nat) : (readyFrom s t).clock = s.clock := by
  unfold readyFrom; split <;> rfl
@[simp] theorem readyFrom_timeZero (s : State) (t : Nat) : (readyFrom s t).timeZero = s.timeZero := by
  unfold readyFrom; split <;> rfl
@[simp] theorem readyFrom_draws (s : State) (t : Nat) : (readyFrom s t).draws = s.draws := by
  unfold readyFrom; split <;> rfl
@[simp] theorem readyFrom_nextId (s : State) (t : Nat) : (readyFrom s t).nextId = s.nextId := by
  unfold readyFrom; split <;> rfl
@[simp] theorem readyFrom_agenda (s : State) (t : Nat) : (readyFrom s t).agenda = s.agenda := by
  unfold readyFrom; split <;> rfl
@[simp] theorem readyFrom_issue (s : State) (t : Nat) : (readyFrom s t).issue = s.issue := by
  unfold readyFrom; split <;> rfl
@[simp] theorem retireTo_product (s : State) (next : Word) : (retireTo s next).product = s.product := by
  unfold retireTo; dsimp only; split <;> simp
@[simp] theorem retireTo_parked (s : State) (next : Word) : (retireTo s next).parked = s.parked := by
  unfold retireTo; dsimp only; split <;> simp
@[simp] theorem retireTo_ended (s : State) (next : Word) : (retireTo s next).ended = s.ended := by
  unfold retireTo; dsimp only; split <;> simp
@[simp] theorem retireTo_mem (s : State) (next : Word) : (retireTo s next).mem = s.mem := by
  unfold retireTo; dsimp only; split <;> simp
@[simp] theorem retireTo_l1 (s : State) (next : Word) : (retireTo s next).l1 = s.l1 := by
  unfold retireTo; dsimp only; split <;> simp
@[simp] theorem retireTo_l2 (s : State) (next : Word) : (retireTo s next).l2 = s.l2 := by
  unfold retireTo; dsimp only; split <;> simp
@[simp] theorem retireTo_tlb (s : State) (next : Word) : (retireTo s next).tlb = s.tlb := by
  unfold retireTo; dsimp only; split <;> simp
@[simp] theorem retireTo_poison (s : State) (next : Word) : (retireTo s next).poison = s.poison := by
  unfold retireTo; dsimp only; split <;> simp
@[simp] theorem retireTo_lost (s : State) (next : Word) : (retireTo s next).lost = s.lost := by
  unfold retireTo; dsimp only; split <;> simp
@[simp] theorem retireTo_mended (s : State) (next : Word) : (retireTo s next).mended = s.mended := by
  unfold retireTo; dsimp only; split <;> simp
@[simp] theorem retireTo_grants (s : State) (next : Word) : (retireTo s next).grants = s.grants := by
  unfold retireTo; dsimp only; split <;> simp
@[simp] theorem retireTo_cores (s : State) (next : Word) : (retireTo s next).cores = s.cores := by
  unfold retireTo; dsimp only; split <;> simp
@[simp] theorem retireTo_noon (s : State) (next : Word) : (retireTo s next).noon = s.noon := by
  unfold retireTo; dsimp only; split <;> simp
@[simp] theorem retireTo_quota (s : State) (next : Word) : (retireTo s next).quota = s.quota := by
  unfold retireTo; dsimp only; split <;> simp
@[simp] theorem retireTo_spent (s : State) (next : Word) : (retireTo s next).spent = s.spent := by
  unfold retireTo; dsimp only; split <;> simp
@[simp] theorem retireTo_house (s : State) (next : Word) : (retireTo s next).house = s.house := by
  unfold retireTo; dsimp only; split <;> simp
@[simp] theorem retireTo_meter (s : State) (next : Word) : (retireTo s next).meter = s.meter := by
  unfold retireTo; dsimp only; split <;> simp
@[simp] theorem retireTo_unpaid (s : State) (next : Word) : (retireTo s next).unpaid = s.unpaid := by
  unfold retireTo; dsimp only; split <;> simp
@[simp] theorem retireTo_contexts (s : State) (next : Word) : (retireTo s next).contexts = s.contexts := by
  unfold retireTo; dsimp only; split <;> simp
@[simp] theorem retireTo_freed (s : State) (next : Word) : (retireTo s next).freed = s.freed := by
  unfold retireTo; dsimp only; split <;> simp
@[simp] theorem retireTo_refusals (s : State) (next : Word) : (retireTo s next).refusals = s.refusals := by
  unfold retireTo; dsimp only; split <;> simp
@[simp] theorem retireTo_queues (s : State) (next : Word) : (retireTo s next).queues = s.queues := by
  unfold retireTo; dsimp only; split <;> simp
@[simp] theorem retireTo_launches (s : State) (next : Word) : (retireTo s next).launches = s.launches := by
  unfold retireTo; dsimp only; split <;> simp
@[simp] theorem retireTo_graphs (s : State) (next : Word) : (retireTo s next).graphs = s.graphs := by
  unfold retireTo; dsimp only; split <;> simp
@[simp] theorem retireTo_groups (s : State) (next : Word) : (retireTo s next).groups = s.groups := by
  unfold retireTo; dsimp only; split <;> simp
@[simp] theorem retireTo_owed (s : State) (next : Word) : (retireTo s next).owed = s.owed := by
  unfold retireTo; dsimp only; split <;> simp
@[simp] theorem retireTo_transit (s : State) (next : Word) : (retireTo s next).transit = s.transit := by
  unfold retireTo; dsimp only; split <;> simp
@[simp] theorem retireTo_links (s : State) (next : Word) : (retireTo s next).links = s.links := by
  unfold retireTo; dsimp only; split <;> simp
@[simp] theorem retireTo_routes (s : State) (next : Word) : (retireTo s next).routes = s.routes := by
  unfold retireTo; dsimp only; split <;> simp
@[simp] theorem retireTo_hub (s : State) (next : Word) : (retireTo s next).hub = s.hub := by
  unfold retireTo; dsimp only; split <;> simp
@[simp] theorem retireTo_answer (s : State) (next : Word) : (retireTo s next).answer = s.answer := by
  unfold retireTo; dsimp only; split <;> simp
@[simp] theorem retireTo_msix (s : State) (next : Word) : (retireTo s next).msix = s.msix := by
  unfold retireTo; dsimp only; split <;> simp
@[simp] theorem retireTo_vfs (s : State) (next : Word) : (retireTo s next).vfs = s.vfs := by
  unfold retireTo; dsimp only; split <;> simp
@[simp] theorem retireTo_moves (s : State) (next : Word) : (retireTo s next).moves = s.moves := by
  unfold retireTo; dsimp only; split <;> simp
@[simp] theorem retireTo_shoots (s : State) (next : Word) : (retireTo s next).shoots = s.shoots := by
  unfold retireTo; dsimp only; split <;> simp
@[simp] theorem retireTo_olds (s : State) (next : Word) : (retireTo s next).olds = s.olds := by
  unfold retireTo; dsimp only; split <;> simp
@[simp] theorem retireTo_reports (s : State) (next : Word) : (retireTo s next).reports = s.reports := by
  unfold retireTo; dsimp only; split <;> simp
@[simp] theorem retireTo_swept (s : State) (next : Word) : (retireTo s next).swept = s.swept := by
  unfold retireTo; dsimp only; split <;> simp
@[simp] theorem retireTo_sweeps (s : State) (next : Word) : (retireTo s next).sweeps = s.sweeps := by
  unfold retireTo; dsimp only; split <;> simp
@[simp] theorem retireTo_skipped (s : State) (next : Word) : (retireTo s next).skipped = s.skipped := by
  unfold retireTo; dsimp only; split <;> simp
@[simp] theorem retireTo_pageLogs (s : State) (next : Word) : (retireTo s next).pageLogs = s.pageLogs := by
  unfold retireTo; dsimp only; split <;> simp
@[simp] theorem retireTo_demoting (s : State) (next : Word) : (retireTo s next).demoting = s.demoting := by
  unfold retireTo; dsimp only; split <;> simp
@[simp] theorem retireTo_barriers (s : State) (next : Word) : (retireTo s next).barriers = s.barriers := by
  unfold retireTo; dsimp only; split <;> simp
@[simp] theorem retireTo_formats (s : State) (next : Word) : (retireTo s next).formats = s.formats := by
  unfold retireTo; dsimp only; split <;> simp
@[simp] theorem retireTo_clock (s : State) (next : Word) : (retireTo s next).clock = s.clock := by
  unfold retireTo; dsimp only; split <;> simp
@[simp] theorem retireTo_timeZero (s : State) (next : Word) : (retireTo s next).timeZero = s.timeZero := by
  unfold retireTo; dsimp only; split <;> simp
@[simp] theorem retireTo_draws (s : State) (next : Word) : (retireTo s next).draws = s.draws := by
  unfold retireTo; dsimp only; split <;> simp
@[simp] theorem retireTo_nextId (s : State) (next : Word) : (retireTo s next).nextId = s.nextId := by
  unfold retireTo; dsimp only; split <;> simp
@[simp] theorem retireTo_agenda (s : State) (next : Word) : (retireTo s next).agenda = s.agenda := by
  unfold retireTo; dsimp only; split <;> simp
@[simp] theorem retireTo_issue (s : State) (next : Word) : (retireTo s next).issue = s.issue := by
  unfold retireTo; dsimp only; split <;> simp
@[simp] theorem retire_product (s : State) : (retire s).product = s.product := by simp [retire]
@[simp] theorem retire_parked (s : State) : (retire s).parked = s.parked := by simp [retire]
@[simp] theorem retire_ended (s : State) : (retire s).ended = s.ended := by simp [retire]
@[simp] theorem retire_mem (s : State) : (retire s).mem = s.mem := by simp [retire]
@[simp] theorem retire_l1 (s : State) : (retire s).l1 = s.l1 := by simp [retire]
@[simp] theorem retire_l2 (s : State) : (retire s).l2 = s.l2 := by simp [retire]
@[simp] theorem retire_tlb (s : State) : (retire s).tlb = s.tlb := by simp [retire]
@[simp] theorem retire_poison (s : State) : (retire s).poison = s.poison := by simp [retire]
@[simp] theorem retire_lost (s : State) : (retire s).lost = s.lost := by simp [retire]
@[simp] theorem retire_mended (s : State) : (retire s).mended = s.mended := by simp [retire]
@[simp] theorem retire_grants (s : State) : (retire s).grants = s.grants := by simp [retire]
@[simp] theorem retire_cores (s : State) : (retire s).cores = s.cores := by simp [retire]
@[simp] theorem retire_noon (s : State) : (retire s).noon = s.noon := by simp [retire]
@[simp] theorem retire_quota (s : State) : (retire s).quota = s.quota := by simp [retire]
@[simp] theorem retire_spent (s : State) : (retire s).spent = s.spent := by simp [retire]
@[simp] theorem retire_house (s : State) : (retire s).house = s.house := by simp [retire]
@[simp] theorem retire_meter (s : State) : (retire s).meter = s.meter := by simp [retire]
@[simp] theorem retire_unpaid (s : State) : (retire s).unpaid = s.unpaid := by simp [retire]
@[simp] theorem retire_contexts (s : State) : (retire s).contexts = s.contexts := by simp [retire]
@[simp] theorem retire_freed (s : State) : (retire s).freed = s.freed := by simp [retire]
@[simp] theorem retire_refusals (s : State) : (retire s).refusals = s.refusals := by simp [retire]
@[simp] theorem retire_queues (s : State) : (retire s).queues = s.queues := by simp [retire]
@[simp] theorem retire_launches (s : State) : (retire s).launches = s.launches := by simp [retire]
@[simp] theorem retire_graphs (s : State) : (retire s).graphs = s.graphs := by simp [retire]
@[simp] theorem retire_groups (s : State) : (retire s).groups = s.groups := by simp [retire]
@[simp] theorem retire_owed (s : State) : (retire s).owed = s.owed := by simp [retire]
@[simp] theorem retire_transit (s : State) : (retire s).transit = s.transit := by simp [retire]
@[simp] theorem retire_links (s : State) : (retire s).links = s.links := by simp [retire]
@[simp] theorem retire_routes (s : State) : (retire s).routes = s.routes := by simp [retire]
@[simp] theorem retire_hub (s : State) : (retire s).hub = s.hub := by simp [retire]
@[simp] theorem retire_answer (s : State) : (retire s).answer = s.answer := by simp [retire]
@[simp] theorem retire_msix (s : State) : (retire s).msix = s.msix := by simp [retire]
@[simp] theorem retire_vfs (s : State) : (retire s).vfs = s.vfs := by simp [retire]
@[simp] theorem retire_moves (s : State) : (retire s).moves = s.moves := by simp [retire]
@[simp] theorem retire_shoots (s : State) : (retire s).shoots = s.shoots := by simp [retire]
@[simp] theorem retire_olds (s : State) : (retire s).olds = s.olds := by simp [retire]
@[simp] theorem retire_reports (s : State) : (retire s).reports = s.reports := by simp [retire]
@[simp] theorem retire_swept (s : State) : (retire s).swept = s.swept := by simp [retire]
@[simp] theorem retire_sweeps (s : State) : (retire s).sweeps = s.sweeps := by simp [retire]
@[simp] theorem retire_skipped (s : State) : (retire s).skipped = s.skipped := by simp [retire]
@[simp] theorem retire_pageLogs (s : State) : (retire s).pageLogs = s.pageLogs := by simp [retire]
@[simp] theorem retire_demoting (s : State) : (retire s).demoting = s.demoting := by simp [retire]
@[simp] theorem retire_barriers (s : State) : (retire s).barriers = s.barriers := by simp [retire]
@[simp] theorem retire_formats (s : State) : (retire s).formats = s.formats := by simp [retire]
@[simp] theorem retire_clock (s : State) : (retire s).clock = s.clock := by simp [retire]
@[simp] theorem retire_timeZero (s : State) : (retire s).timeZero = s.timeZero := by simp [retire]
@[simp] theorem retire_draws (s : State) : (retire s).draws = s.draws := by simp [retire]
@[simp] theorem retire_nextId (s : State) : (retire s).nextId = s.nextId := by simp [retire]
@[simp] theorem retire_agenda (s : State) : (retire s).agenda = s.agenda := by simp [retire]
@[simp] theorem retire_issue (s : State) : (retire s).issue = s.issue := by simp [retire]
@[simp] theorem stall_product (s : State) : (stall s).product = s.product := by simp [stall]
@[simp] theorem stall_parked (s : State) : (stall s).parked = s.parked := by simp [stall]
@[simp] theorem stall_ended (s : State) : (stall s).ended = s.ended := by simp [stall]
@[simp] theorem stall_mem (s : State) : (stall s).mem = s.mem := by simp [stall]
@[simp] theorem stall_l1 (s : State) : (stall s).l1 = s.l1 := by simp [stall]
@[simp] theorem stall_l2 (s : State) : (stall s).l2 = s.l2 := by simp [stall]
@[simp] theorem stall_tlb (s : State) : (stall s).tlb = s.tlb := by simp [stall]
@[simp] theorem stall_poison (s : State) : (stall s).poison = s.poison := by simp [stall]
@[simp] theorem stall_lost (s : State) : (stall s).lost = s.lost := by simp [stall]
@[simp] theorem stall_mended (s : State) : (stall s).mended = s.mended := by simp [stall]
@[simp] theorem stall_grants (s : State) : (stall s).grants = s.grants := by simp [stall]
@[simp] theorem stall_cores (s : State) : (stall s).cores = s.cores := by simp [stall]
@[simp] theorem stall_noon (s : State) : (stall s).noon = s.noon := by simp [stall]
@[simp] theorem stall_quota (s : State) : (stall s).quota = s.quota := by simp [stall]
@[simp] theorem stall_spent (s : State) : (stall s).spent = s.spent := by simp [stall]
@[simp] theorem stall_house (s : State) : (stall s).house = s.house := by simp [stall]
@[simp] theorem stall_meter (s : State) : (stall s).meter = s.meter := by simp [stall]
@[simp] theorem stall_unpaid (s : State) : (stall s).unpaid = s.unpaid := by simp [stall]
@[simp] theorem stall_contexts (s : State) : (stall s).contexts = s.contexts := by simp [stall]
@[simp] theorem stall_freed (s : State) : (stall s).freed = s.freed := by simp [stall]
@[simp] theorem stall_refusals (s : State) : (stall s).refusals = s.refusals := by simp [stall]
@[simp] theorem stall_queues (s : State) : (stall s).queues = s.queues := by simp [stall]
@[simp] theorem stall_launches (s : State) : (stall s).launches = s.launches := by simp [stall]
@[simp] theorem stall_graphs (s : State) : (stall s).graphs = s.graphs := by simp [stall]
@[simp] theorem stall_arbiters (s : State) : (stall s).arbiters = s.arbiters := by simp [stall]
@[simp] theorem stall_groups (s : State) : (stall s).groups = s.groups := by simp [stall]
@[simp] theorem stall_owed (s : State) : (stall s).owed = s.owed := by simp [stall]
@[simp] theorem stall_transit (s : State) : (stall s).transit = s.transit := by simp [stall]
@[simp] theorem stall_links (s : State) : (stall s).links = s.links := by simp [stall]
@[simp] theorem stall_routes (s : State) : (stall s).routes = s.routes := by simp [stall]
@[simp] theorem stall_hub (s : State) : (stall s).hub = s.hub := by simp [stall]
@[simp] theorem stall_answer (s : State) : (stall s).answer = s.answer := by simp [stall]
@[simp] theorem stall_msix (s : State) : (stall s).msix = s.msix := by simp [stall]
@[simp] theorem stall_vfs (s : State) : (stall s).vfs = s.vfs := by simp [stall]
@[simp] theorem stall_moves (s : State) : (stall s).moves = s.moves := by simp [stall]
@[simp] theorem stall_shoots (s : State) : (stall s).shoots = s.shoots := by simp [stall]
@[simp] theorem stall_olds (s : State) : (stall s).olds = s.olds := by simp [stall]
@[simp] theorem stall_reports (s : State) : (stall s).reports = s.reports := by simp [stall]
@[simp] theorem stall_swept (s : State) : (stall s).swept = s.swept := by simp [stall]
@[simp] theorem stall_sweeps (s : State) : (stall s).sweeps = s.sweeps := by simp [stall]
@[simp] theorem stall_skipped (s : State) : (stall s).skipped = s.skipped := by simp [stall]
@[simp] theorem stall_pageLogs (s : State) : (stall s).pageLogs = s.pageLogs := by simp [stall]
@[simp] theorem stall_demoting (s : State) : (stall s).demoting = s.demoting := by simp [stall]
@[simp] theorem stall_barriers (s : State) : (stall s).barriers = s.barriers := by simp [stall]
@[simp] theorem stall_formats (s : State) : (stall s).formats = s.formats := by simp [stall]
@[simp] theorem stall_clock (s : State) : (stall s).clock = s.clock := by simp [stall]
@[simp] theorem stall_timeZero (s : State) : (stall s).timeZero = s.timeZero := by simp [stall]
@[simp] theorem stall_draws (s : State) : (stall s).draws = s.draws := by simp [stall]
@[simp] theorem stall_nextId (s : State) : (stall s).nextId = s.nextId := by simp [stall]
@[simp] theorem stall_agenda (s : State) : (stall s).agenda = s.agenda := by simp [stall]
@[simp] theorem stall_issue (s : State) : (stall s).issue = s.issue := by simp [stall]
@[simp] theorem discardWait_product (s : State) : (discardWait s).product = s.product := by
  unfold discardWait; split <;> rfl
@[simp] theorem discardWait_parked (s : State) : (discardWait s).parked = s.parked := by
  unfold discardWait; split <;> rfl
@[simp] theorem discardWait_ended (s : State) : (discardWait s).ended = s.ended := by
  unfold discardWait; split <;> rfl
@[simp] theorem discardWait_mem (s : State) : (discardWait s).mem = s.mem := by
  unfold discardWait; split <;> rfl
@[simp] theorem discardWait_l1 (s : State) : (discardWait s).l1 = s.l1 := by
  unfold discardWait; split <;> rfl
@[simp] theorem discardWait_l2 (s : State) : (discardWait s).l2 = s.l2 := by
  unfold discardWait; split <;> rfl
@[simp] theorem discardWait_tlb (s : State) : (discardWait s).tlb = s.tlb := by
  unfold discardWait; split <;> rfl
@[simp] theorem discardWait_poison (s : State) : (discardWait s).poison = s.poison := by
  unfold discardWait; split <;> rfl
@[simp] theorem discardWait_lost (s : State) : (discardWait s).lost = s.lost := by
  unfold discardWait; split <;> rfl
@[simp] theorem discardWait_mended (s : State) : (discardWait s).mended = s.mended := by
  unfold discardWait; split <;> rfl
@[simp] theorem discardWait_grants (s : State) : (discardWait s).grants = s.grants := by
  unfold discardWait; split <;> rfl
@[simp] theorem discardWait_cores (s : State) : (discardWait s).cores = s.cores := by
  unfold discardWait; split <;> rfl
@[simp] theorem discardWait_noon (s : State) : (discardWait s).noon = s.noon := by
  unfold discardWait; split <;> rfl
@[simp] theorem discardWait_quota (s : State) : (discardWait s).quota = s.quota := by
  unfold discardWait; split <;> rfl
@[simp] theorem discardWait_spent (s : State) : (discardWait s).spent = s.spent := by
  unfold discardWait; split <;> rfl
@[simp] theorem discardWait_house (s : State) : (discardWait s).house = s.house := by
  unfold discardWait; split <;> rfl
@[simp] theorem discardWait_meter (s : State) : (discardWait s).meter = s.meter := by
  unfold discardWait; split <;> rfl
@[simp] theorem discardWait_unpaid (s : State) : (discardWait s).unpaid = s.unpaid := by
  unfold discardWait; split <;> rfl
@[simp] theorem discardWait_contexts (s : State) : (discardWait s).contexts = s.contexts := by
  unfold discardWait; split <;> rfl
@[simp] theorem discardWait_freed (s : State) : (discardWait s).freed = s.freed := by
  unfold discardWait; split <;> rfl
@[simp] theorem discardWait_refusals (s : State) : (discardWait s).refusals = s.refusals := by
  unfold discardWait; split <;> rfl
@[simp] theorem discardWait_queues (s : State) : (discardWait s).queues = s.queues := by
  unfold discardWait; split <;> rfl
@[simp] theorem discardWait_launches (s : State) : (discardWait s).launches = s.launches := by
  unfold discardWait; split <;> rfl
@[simp] theorem discardWait_graphs (s : State) : (discardWait s).graphs = s.graphs := by
  unfold discardWait; split <;> rfl
@[simp] theorem discardWait_arbiters (s : State) : (discardWait s).arbiters = s.arbiters := by
  unfold discardWait; split <;> rfl
@[simp] theorem discardWait_groups (s : State) : (discardWait s).groups = s.groups := by
  unfold discardWait; split <;> rfl
@[simp] theorem discardWait_owed (s : State) : (discardWait s).owed = s.owed := by
  unfold discardWait; split <;> rfl
@[simp] theorem discardWait_transit (s : State) : (discardWait s).transit = s.transit := by
  unfold discardWait; split <;> rfl
@[simp] theorem discardWait_links (s : State) : (discardWait s).links = s.links := by
  unfold discardWait; split <;> rfl
@[simp] theorem discardWait_routes (s : State) : (discardWait s).routes = s.routes := by
  unfold discardWait; split <;> rfl
@[simp] theorem discardWait_hub (s : State) : (discardWait s).hub = s.hub := by
  unfold discardWait; split <;> rfl
@[simp] theorem discardWait_answer (s : State) : (discardWait s).answer = s.answer := by
  unfold discardWait; split <;> rfl
@[simp] theorem discardWait_msix (s : State) : (discardWait s).msix = s.msix := by
  unfold discardWait; split <;> rfl
@[simp] theorem discardWait_vfs (s : State) : (discardWait s).vfs = s.vfs := by
  unfold discardWait; split <;> rfl
@[simp] theorem discardWait_moves (s : State) : (discardWait s).moves = s.moves := by
  unfold discardWait; split <;> rfl
@[simp] theorem discardWait_shoots (s : State) : (discardWait s).shoots = s.shoots := by
  unfold discardWait; split <;> rfl
@[simp] theorem discardWait_olds (s : State) : (discardWait s).olds = s.olds := by
  unfold discardWait; split <;> rfl
@[simp] theorem discardWait_reports (s : State) : (discardWait s).reports = s.reports := by
  unfold discardWait; split <;> rfl
@[simp] theorem discardWait_swept (s : State) : (discardWait s).swept = s.swept := by
  unfold discardWait; split <;> rfl
@[simp] theorem discardWait_sweeps (s : State) : (discardWait s).sweeps = s.sweeps := by
  unfold discardWait; split <;> rfl
@[simp] theorem discardWait_skipped (s : State) : (discardWait s).skipped = s.skipped := by
  unfold discardWait; split <;> rfl
@[simp] theorem discardWait_pageLogs (s : State) : (discardWait s).pageLogs = s.pageLogs := by
  unfold discardWait; split <;> rfl
@[simp] theorem discardWait_demoting (s : State) : (discardWait s).demoting = s.demoting := by
  unfold discardWait; split <;> rfl
@[simp] theorem discardWait_barriers (s : State) : (discardWait s).barriers = s.barriers := by
  unfold discardWait; split <;> rfl
@[simp] theorem discardWait_formats (s : State) : (discardWait s).formats = s.formats := by
  unfold discardWait; split <;> rfl
@[simp] theorem discardWait_clock (s : State) : (discardWait s).clock = s.clock := by
  unfold discardWait; split <;> rfl
@[simp] theorem discardWait_timeZero (s : State) : (discardWait s).timeZero = s.timeZero := by
  unfold discardWait; split <;> rfl
@[simp] theorem discardWait_draws (s : State) : (discardWait s).draws = s.draws := by
  unfold discardWait; split <;> rfl
@[simp] theorem discardWait_nextId (s : State) : (discardWait s).nextId = s.nextId := by
  unfold discardWait; split <;> rfl
@[simp] theorem discardWait_agenda (s : State) : (discardWait s).agenda = s.agenda := by
  unfold discardWait; split <;> rfl
@[simp] theorem discardWait_issue (s : State) : (discardWait s).issue = s.issue := by
  unfold discardWait; split <;> rfl

theorem retireTo_scalar (s : State) (next : Word) (h : s.issue.side = .scalar) :
    (retireTo s next).hart = { s.hart with
      sc := { s.hart.sc with pc := next, readyAt := s.clock + 1 + s.issue.s.toNat },
      cs := { s.hart.cs with instret := s.hart.cs.instret + 1 } } := by
  simp [retireTo, readyFrom, h]

theorem retireTo_vector (s : State) (next : Word) (h : s.issue.side = .vector) :
    (retireTo s next).hart = { s.hart with
      ve := { s.hart.ve with pc := next, lastPos := qposOf s.hart, inLanes := none, readyAt := s.clock + 1 + s.issue.s.toNat },
      cs := { s.hart.cs with instret := s.hart.cs.instret + 1, vprog := 0,
                             hrpc := if s.issue.p then regAddr 0 s.hart.ve.pc else s.hart.cs.hrpc } } := by
  simp [retireTo, readyFrom, h, qposOf]

end Sys2Proof.Machine
end

