-- ==== Sys2Proof/Safety.lean ====
section
/-!
DEFINITION. What counts as a safe run, and the terms in which the statements speak of a word that is about to run.
-/

namespace Sys2Proof.Machine

/-- A step is safe if the machine goes on: it answers a next state. -/
def SafeStep (s : State) : Prop := ∃ t, step s = .next t

/-- A run of `n` steps is safe if every step of it is. -/
def SafeRun : Nat → State → Prop
  | 0, _ => True
  | n + 1, s => ∃ t, step s = .next t ∧ SafeRun n t

/-- A side of the hart in focus issues the word at hand outside timed regions, with no fixed-latency write under way, no
poisoned register, and no stop asked for at an element boundary (R16, R29, R80, R86). -/
structure Issuing (s : State) (sd : Side) : Prop where
  side : s.issue.side = sd
  untimed : s.hart.cs.hstat.timed = false
  quiet : s.hart.writes = []
  clean : s.hart.poison = []
  uncut : s.issue.cut = none

/-- The vector side issues, and VTYPE is the well-formed `t`. -/
structure VectorIssuing (s : State) (t : VType) : Prop where
  issuing : Issuing s .vector
  vtype : s.hart.cs.vtype = some t

/-- The word retired in going from `s` to `t`: the issuing side stands at the following word, and INSTRET counts it (R16,
R63). -/
def Retired (s t : State) : Prop := pcOf t = pcOf s + 4 ∧ t.hart.cs.instret = s.hart.cs.instret + 1

/-- No memory and no copy of it differs: every byte of every home, L1 and L2 reads as before. -/
def SameMemory (s t : State) : Prop := t.mem = s.mem ∧ t.l1 = s.l1 ∧ t.l2 = s.l2

/-- Everything outside the hart in focus is as before. -/
def OnlyHart (s t : State) : Prop := t = { s with hart := t.hart }

/-- Everything outside the hart in focus is as before, but that the sequencer of its slot charged a vector-side word of
`n` beats to the hart's queue (R285). -/
def OnlyHartBeats (s t : State) (n : Nat) : Prop :=
  t = { chargeSequencer s n with hart := t.hart, issue := { s.issue with beats := n } }

/-- The state after a scalar-side word that retired and goes on at `pc` (R16, R63, R71): the scalar registers and which
registers hold an older value than their latest write's (R31), which the statement names apart, the program counter, the
cycle of the next issue, INSTRET and the WAIT record of the hart's level, and nothing else, may differ from before. -/
def ScalarStep (s t : State) (pc : Word) : Prop :=
  t = { s with hart := { s.hart with
    sc := { s.hart.sc with
      g := t.hart.sc.g, pc := pc, readyAt := s.clock + 1 + s.issue.s.toNat,
      wait0 := if s.hart.cs.hstat.hl then s.hart.sc.wait0 else none,
      wait1 := if s.hart.cs.hstat.hl then none else s.hart.sc.wait1 },
    cs := { s.hart.cs with instret := s.hart.cs.instret + 1 }, stale := t.hart.stale } }

/-- g[d] reads `v` after, and every other scalar register reads as before; g0 reads 0 and discards the write (R19, R61). -/
def OneScalar (s t : State) (d : BitVec 5) (v : Word) : Prop :=
  ∀ r : BitVec 5, gRead t.hart r.toNat = if r = 0 then 0 else if r = d then v else gRead s.hart r.toNat

/-- A scalar-side word retires at the following word with `v` in g[d], its latest write, and changes nothing else. -/
def ScalarResult (s t : State) (d : BitVec 5) (v : Word) : Prop :=
  ScalarStep s t (s.hart.sc.pc + 4) ∧ OneScalar s t d v ∧
  t.hart.stale = if d = 0 then s.hart.stale else s.hart.stale.filter (· != .g d.toNat)

/-- A scalar-side word retires, writes no register, goes on at `pc`, and changes nothing else. -/
def ScalarJump (s t : State) (pc : Word) : Prop :=
  ScalarStep s t pc ∧ t.hart.sc.g = s.hart.sc.g ∧ t.hart.stale = s.hart.stale

/-- The scalar-side word at hand retires at the following word with `v` in g[d]. -/
def gave (u : State) (d : BitVec 5) (v : Word) : State := retire (u.mapHart (fun h => gWrite h d.toNat v))

/-- The vector-side word at hand retires at the following word with `v` in h[d]. -/
def hgave (u : State) (d : BitVec 5) (v : Word) : State := retire (u.mapHart (fun h => hWrite h d.toNat v))

/-- The word at hand retires at the following word with `v` in the register that `d` names on its side (R20). -/
def xgave (u : State) (d : BitVec 5) (v : Word) : State := retire (xWrite u d.toNat v)

/-- The word at hand, which held the lanes for `lat.beats` beats, ends at the following one with the register writes of
`r` made. -/
def written (lat : Timing) (r : Result) : State :=
  let s := if lat.beats = 0 then r.state else { r.state with issue := { r.state.issue with beats := lat.beats } }
  retire (s.mapHart (fun h => applyWrites h r.writes))

/-- A vector-side word ends with the register writes of `r` made, and retires. -/
def Ended (o : Outcome) (r : Result) : Prop := ∃ lat, o = .next (written lat r)

end Sys2Proof.Machine
end

