-- ==== Sys2Proof/Laws/Ops.lean ====
section
/-!
SUPPORT. What the two ways of running a word come to for a word that issues with nothing in its way.
-/

namespace Sys2Proof.Machine

/-- With no write under way there is none to commit. -/
theorem commitWrites_quiet (h : Hart) (p : PendingWrite → Bool) (hq : h.writes = []) : commitWrites h p = h := by
  simp [commitWrites, hq, commitEach]

theorem mapHart_self (s : State) (f : Hart → Hart) (h : f s.hart = s.hart) : s.mapHart f = s := by
  simp [State.mapHart, h]

theorem commitWrites_mapHart (s : State) (p : PendingWrite → Bool) (hq : s.hart.writes = []) :
    s.mapHart (fun h => commitWrites h p) = s :=
  mapHart_self s _ (commitWrites_quiet _ _ hq)

/-- Outside timed regions no word is recorded in the lanes. -/
theorem enterLanes_untimed (s : State) (before : Hart) (lat : Timing) (h : s.hart.cs.hstat.timed = false) :
    enterLanes s before lat = s := by
  simp [enterLanes, h]

@[simp] theorem applyWrite_cs (h : Hart) (w : RegWrite) : (applyWrite h w).cs = h.cs := by
  unfold applyWrite
  cases w.reg <;> simp only [gWrite_cs, hWrite_cs] <;> split <;> simp

@[simp] theorem applyWrites_cs (ws : List RegWrite) (h : Hart) : (applyWrites h ws).cs = h.cs := by
  unfold applyWrites
  induction ws generalizing h with
  | nil => rfl
  | cons w ws ih => simp [ih]

@[simp] theorem retire_timed (s : State) : (retire s).hart.cs.hstat = s.hart.cs.hstat := by
  unfold retire
  cases h : s.issue.side
  · rw [retireTo_scalar _ _ h]
  · rw [retireTo_vector _ _ h]

@[simp] theorem discardWait_timed (s : State) : (discardWait s).hart.cs = s.hart.cs := by
  unfold discardWait
  split
  · rfl
  · simp only [mapHart_hart]; split <;> rfl

@[simp] theorem discardWait_writes (s : State) : (discardWait s).hart.writes = s.hart.writes := by
  unfold discardWait
  split
  · rfl
  · simp only [mapHart_hart]; split <;> rfl

@[simp] theorem discardWait_hartPoison (s : State) : (discardWait s).hart.poison = s.hart.poison := by
  unfold discardWait
  split
  · rfl
  · simp only [mapHart_hart]; split <;> rfl

/-- On the vector side no WAIT record is discarded. -/
theorem discardWait_vector (s : State) (h : s.issue.side = .vector) : discardWait s = s := by
  simp [discardWait, h]

theorem Issuing.discard {s : State} {sd : Side} (h : Issuing s sd) : Issuing (discardWait s) sd :=
  ⟨by simp [h.side], by simp [h.untimed], by simp [h.quiet], by simp [h.clean], by simp [h.uncut]⟩

theorem lastDue_quiet (h : Hart) (l : List RegId) (hq : h.writes = []) : lastDue h l = none := by
  simp [lastDue, hq]

theorem poisonedRead_clean (h : Hart) (l : List RegId) (hc : h.poison = []) : poisonedRead h l = none := by
  simp [poisonedRead, hc]

theorem precheck_none {s : State} {sd : Side} (h : Issuing s sd) {mark : SideMark} {wf fit : Bool}
    (hm : markAdmits mark sd = true) (hw : wf = true) (hf : fit = true) : precheck s mark wf fit = none := by
  simp [precheck, h.side, hm, hw, hf]

/-- An interlocked word with nothing in its way is its body. -/
theorem runInterlocked_of {s : State} {sd : Side} (h : Issuing s sd) {mark : SideMark} {wf fit : Bool}
    {deny : State → Option Trap} {reads writes : List RegId} {body : State → Except Stop State}
    (hm : markAdmits mark sd = true) (hw : wf = true) (hf : fit = true) (hd : deny s = none) :
    runInterlocked s mark wf fit deny reads writes body = finish s (body s) := by
  unfold runInterlocked
  rw [precheck_none h hm hw hf]
  dsimp only
  rw [commitWrites_mapHart s _ h.quiet]
  rw [lastDue_quiet _ _ h.quiet, poisonedRead_clean _ _ h.clean, hd]
  rfl

theorem runPlain_of {s : State} {sd : Side} (h : Issuing s sd) {mark : SideMark} {wf fit : Bool}
    {reads writes : List RegId} {body : State → Except Stop State}
    (hm : markAdmits mark sd = true) (hw : wf = true) (hf : fit = true) :
    runPlain s mark wf fit reads writes body = finish (discardWait s) (body (discardWait s)) :=
  runInterlocked_of h.discard hm hw hf rfl

/-- A fixed-latency word with nothing in its way whose body ends makes its writes and retires. -/
theorem runFixed_of {s : State} {sd : Side} (h : Issuing s sd) {mark : SideMark} {wf fit : Bool}
    {reads writes : List RegId} {lat : Timing} {body : State → Except Stop Result} {r : Result}
    (hm : markAdmits mark sd = true) (hw : wf = true) (hf : fit = true)
    (hb : body (discardWait s) = .ok r) (hp : r.part = none) (ht : r.state.hart.cs.hstat.timed = false) :
    runFixed s mark wf fit reads writes lat body = .next (written lat r) := by
  unfold runFixed
  simp only
  rw [precheck_none h.discard hm hw hf]
  simp only
  rw [commitWrites_mapHart _ _ h.discard.quiet]
  simp only [lanesTaken, h.discard.untimed, Bool.false_and]
  rw [poisonedRead_clean _ _ h.discard.clean]
  simp only [hb, hp, Bool.false_eq_true, if_false, State.perform, written]
  split <;> simp [ht, enterLanes_untimed]

end Sys2Proof.Machine
end

