-- ==== Sys2Proof/Laws/Encoding.lean ====
section
/-!
SUPPORT. The fields of an encoded word read back (R16, R18): one lemma for each field of each format.
-/

namespace Sys2Proof

/-- A word put together from its restart mark, its stall count, and opcode and payload. -/
abbrev joinWord (p : Bool) (s : BitVec 3) (b : BitVec 28) : BitVec 32 := BitVec.ofBool p ++ s ++ b

theorem wordBody_joinWord (p : Bool) (s : BitVec 3) (b : BitVec 28) : wordBody (joinWord p s b) = b := by
  unfold wordBody joinWord; repeat' (first
    | exact BitVec.extractLsb'_eq_self
    | refine (BitVec.extractLsb'_append_eq_of_add_le (by decide)).trans ?_
    | refine (BitVec.extractLsb'_append_eq_of_le (by decide)).trans ?_)

theorem wordS_joinWord (p : Bool) (s : BitVec 3) (b : BitVec 28) : wordS (joinWord p s b) = s := by
  unfold wordS joinWord; repeat' (first
    | exact BitVec.extractLsb'_eq_self
    | refine (BitVec.extractLsb'_append_eq_of_add_le (by decide)).trans ?_
    | refine (BitVec.extractLsb'_append_eq_of_le (by decide)).trans ?_)

theorem wordP_joinWord (p : Bool) (s : BitVec 3) (b : BitVec 28) : wordP (joinWord p s b) = p := by
  unfold wordP joinWord
  exact BitVec.getLsbD_append.trans (BitVec.getLsbD_append.trans (by cases p <;> simp))

@[simp] theorem wordOp_packA (op : BitVec 6) (d a b : BitVec 5) (m : BitVec 3) (f : BitVec 4) (p : Bool) (s : BitVec 3) :
    wordOp (joinWord p s (packA op d a b m f)) = op := by
  unfold wordOp joinWord packA; repeat' (first
    | exact BitVec.extractLsb'_eq_self
    | refine (BitVec.extractLsb'_append_eq_of_add_le (by decide)).trans ?_
    | refine (BitVec.extractLsb'_append_eq_of_le (by decide)).trans ?_)

@[simp] theorem fieldD_packA (op : BitVec 6) (d a b : BitVec 5) (m : BitVec 3) (f : BitVec 4) (p : Bool) (s : BitVec 3) :
    fieldD (joinWord p s (packA op d a b m f)) = d := by
  unfold fieldD joinWord packA; repeat' (first
    | exact BitVec.extractLsb'_eq_self
    | refine (BitVec.extractLsb'_append_eq_of_add_le (by decide)).trans ?_
    | refine (BitVec.extractLsb'_append_eq_of_le (by decide)).trans ?_)

@[simp] theorem fieldA_packA (op : BitVec 6) (d a b : BitVec 5) (m : BitVec 3) (f : BitVec 4) (p : Bool) (s : BitVec 3) :
    fieldA (joinWord p s (packA op d a b m f)) = a := by
  unfold fieldA joinWord packA; repeat' (first
    | exact BitVec.extractLsb'_eq_self
    | refine (BitVec.extractLsb'_append_eq_of_add_le (by decide)).trans ?_
    | refine (BitVec.extractLsb'_append_eq_of_le (by decide)).trans ?_)

@[simp] theorem fieldB_packA (op : BitVec 6) (d a b : BitVec 5) (m : BitVec 3) (f : BitVec 4) (p : Bool) (s : BitVec 3) :
    fieldB (joinWord p s (packA op d a b m f)) = b := by
  unfold fieldB joinWord packA; repeat' (first
    | exact BitVec.extractLsb'_eq_self
    | refine (BitVec.extractLsb'_append_eq_of_add_le (by decide)).trans ?_
    | refine (BitVec.extractLsb'_append_eq_of_le (by decide)).trans ?_)

@[simp] theorem fieldM_packA (op : BitVec 6) (d a b : BitVec 5) (m : BitVec 3) (f : BitVec 4) (p : Bool) (s : BitVec 3) :
    fieldM (joinWord p s (packA op d a b m f)) = m := by
  unfold fieldM joinWord packA; repeat' (first
    | exact BitVec.extractLsb'_eq_self
    | refine (BitVec.extractLsb'_append_eq_of_add_le (by decide)).trans ?_
    | refine (BitVec.extractLsb'_append_eq_of_le (by decide)).trans ?_)

@[simp] theorem selA_packA (op : BitVec 6) (d a b : BitVec 5) (m : BitVec 3) (f : BitVec 4) (p : Bool) (s : BitVec 3) :
    selA (joinWord p s (packA op d a b m f)) = f := by
  unfold selA joinWord packA; repeat' (first
    | exact BitVec.extractLsb'_eq_self
    | refine (BitVec.extractLsb'_append_eq_of_add_le (by decide)).trans ?_
    | refine (BitVec.extractLsb'_append_eq_of_le (by decide)).trans ?_)

@[simp] theorem wordOp_packI (op : BitVec 6) (d a : BitVec 5) (f : BitVec 3) (i : BitVec 9) (p : Bool) (s : BitVec 3) :
    wordOp (joinWord p s (packI op d a f i)) = op := by
  unfold wordOp joinWord packI; repeat' (first
    | exact BitVec.extractLsb'_eq_self
    | refine (BitVec.extractLsb'_append_eq_of_add_le (by decide)).trans ?_
    | refine (BitVec.extractLsb'_append_eq_of_le (by decide)).trans ?_)

@[simp] theorem fieldD_packI (op : BitVec 6) (d a : BitVec 5) (f : BitVec 3) (i : BitVec 9) (p : Bool) (s : BitVec 3) :
    fieldD (joinWord p s (packI op d a f i)) = d := by
  unfold fieldD joinWord packI; repeat' (first
    | exact BitVec.extractLsb'_eq_self
    | refine (BitVec.extractLsb'_append_eq_of_add_le (by decide)).trans ?_
    | refine (BitVec.extractLsb'_append_eq_of_le (by decide)).trans ?_)

@[simp] theorem fieldA_packI (op : BitVec 6) (d a : BitVec 5) (f : BitVec 3) (i : BitVec 9) (p : Bool) (s : BitVec 3) :
    fieldA (joinWord p s (packI op d a f i)) = a := by
  unfold fieldA joinWord packI; repeat' (first
    | exact BitVec.extractLsb'_eq_self
    | refine (BitVec.extractLsb'_append_eq_of_add_le (by decide)).trans ?_
    | refine (BitVec.extractLsb'_append_eq_of_le (by decide)).trans ?_)

@[simp] theorem selI_packI (op : BitVec 6) (d a : BitVec 5) (f : BitVec 3) (i : BitVec 9) (p : Bool) (s : BitVec 3) :
    selI (joinWord p s (packI op d a f i)) = f := by
  unfold selI joinWord packI; repeat' (first
    | exact BitVec.extractLsb'_eq_self
    | refine (BitVec.extractLsb'_append_eq_of_add_le (by decide)).trans ?_
    | refine (BitVec.extractLsb'_append_eq_of_le (by decide)).trans ?_)

@[simp] theorem imm9_packI (op : BitVec 6) (d a : BitVec 5) (f : BitVec 3) (i : BitVec 9) (p : Bool) (s : BitVec 3) :
    imm9 (joinWord p s (packI op d a f i)) = i := by
  unfold imm9 joinWord packI; repeat' (first
    | exact BitVec.extractLsb'_eq_self
    | refine (BitVec.extractLsb'_append_eq_of_add_le (by decide)).trans ?_
    | refine (BitVec.extractLsb'_append_eq_of_le (by decide)).trans ?_)

@[simp] theorem wordOp_packU (op : BitVec 6) (d : BitVec 5) (i : BitVec 17) (p : Bool) (s : BitVec 3) :
    wordOp (joinWord p s (packU op d i)) = op := by
  unfold wordOp joinWord packU; repeat' (first
    | exact BitVec.extractLsb'_eq_self
    | refine (BitVec.extractLsb'_append_eq_of_add_le (by decide)).trans ?_
    | refine (BitVec.extractLsb'_append_eq_of_le (by decide)).trans ?_)

@[simp] theorem fieldD_packU (op : BitVec 6) (d : BitVec 5) (i : BitVec 17) (p : Bool) (s : BitVec 3) :
    fieldD (joinWord p s (packU op d i)) = d := by
  unfold fieldD joinWord packU; repeat' (first
    | exact BitVec.extractLsb'_eq_self
    | refine (BitVec.extractLsb'_append_eq_of_add_le (by decide)).trans ?_
    | refine (BitVec.extractLsb'_append_eq_of_le (by decide)).trans ?_)

@[simp] theorem imm17_packU (op : BitVec 6) (d : BitVec 5) (i : BitVec 17) (p : Bool) (s : BitVec 3) :
    imm17 (joinWord p s (packU op d i)) = i := by
  unfold imm17 joinWord packU; repeat' (first
    | exact BitVec.extractLsb'_eq_self
    | refine (BitVec.extractLsb'_append_eq_of_add_le (by decide)).trans ?_
    | refine (BitVec.extractLsb'_append_eq_of_le (by decide)).trans ?_)

@[simp] theorem wordOp_packJ (op : BitVec 6) (o : BitVec 22) (p : Bool) (s : BitVec 3) :
    wordOp (joinWord p s (packJ op o)) = op := by
  unfold wordOp joinWord packJ; repeat' (first
    | exact BitVec.extractLsb'_eq_self
    | refine (BitVec.extractLsb'_append_eq_of_add_le (by decide)).trans ?_
    | refine (BitVec.extractLsb'_append_eq_of_le (by decide)).trans ?_)

@[simp] theorem off22_packJ (op : BitVec 6) (o : BitVec 22) (p : Bool) (s : BitVec 3) :
    off22 (joinWord p s (packJ op o)) = o := by
  unfold off22 joinWord packJ; repeat' (first
    | exact BitVec.extractLsb'_eq_self
    | refine (BitVec.extractLsb'_append_eq_of_add_le (by decide)).trans ?_
    | refine (BitVec.extractLsb'_append_eq_of_le (by decide)).trans ?_)

@[simp] theorem wordOp_packZ (op : BitVec 6) (a : BitVec 5) (c : BitVec 3) (o : BitVec 14) (p : Bool) (s : BitVec 3) :
    wordOp (joinWord p s (packZ op a c o)) = op := by
  unfold wordOp joinWord packZ; repeat' (first
    | exact BitVec.extractLsb'_eq_self
    | refine (BitVec.extractLsb'_append_eq_of_add_le (by decide)).trans ?_
    | refine (BitVec.extractLsb'_append_eq_of_le (by decide)).trans ?_)

@[simp] theorem fieldD_packZ (op : BitVec 6) (a : BitVec 5) (c : BitVec 3) (o : BitVec 14) (p : Bool) (s : BitVec 3) :
    fieldD (joinWord p s (packZ op a c o)) = a := by
  unfold fieldD joinWord packZ; repeat' (first
    | exact BitVec.extractLsb'_eq_self
    | refine (BitVec.extractLsb'_append_eq_of_add_le (by decide)).trans ?_
    | refine (BitVec.extractLsb'_append_eq_of_le (by decide)).trans ?_)

@[simp] theorem selZ_packZ (op : BitVec 6) (a : BitVec 5) (c : BitVec 3) (o : BitVec 14) (p : Bool) (s : BitVec 3) :
    selZ (joinWord p s (packZ op a c o)) = c := by
  unfold selZ joinWord packZ; repeat' (first
    | exact BitVec.extractLsb'_eq_self
    | refine (BitVec.extractLsb'_append_eq_of_add_le (by decide)).trans ?_
    | refine (BitVec.extractLsb'_append_eq_of_le (by decide)).trans ?_)

@[simp] theorem off14_packZ (op : BitVec 6) (a : BitVec 5) (c : BitVec 3) (o : BitVec 14) (p : Bool) (s : BitVec 3) :
    off14 (joinWord p s (packZ op a c o)) = o := by
  unfold off14 joinWord packZ; repeat' (first
    | exact BitVec.extractLsb'_eq_self
    | refine (BitVec.extractLsb'_append_eq_of_add_le (by decide)).trans ?_
    | refine (BitVec.extractLsb'_append_eq_of_le (by decide)).trans ?_)

@[simp] theorem wordOp_packX (op : BitVec 6) (d a : BitVec 5) (x : BitVec 12) (p : Bool) (s : BitVec 3) :
    wordOp (joinWord p s (packX op d a x)) = op := by
  unfold wordOp joinWord packX; repeat' (first
    | exact BitVec.extractLsb'_eq_self
    | refine (BitVec.extractLsb'_append_eq_of_add_le (by decide)).trans ?_
    | refine (BitVec.extractLsb'_append_eq_of_le (by decide)).trans ?_)

@[simp] theorem fieldD_packX (op : BitVec 6) (d a : BitVec 5) (x : BitVec 12) (p : Bool) (s : BitVec 3) :
    fieldD (joinWord p s (packX op d a x)) = d := by
  unfold fieldD joinWord packX; repeat' (first
    | exact BitVec.extractLsb'_eq_self
    | refine (BitVec.extractLsb'_append_eq_of_add_le (by decide)).trans ?_
    | refine (BitVec.extractLsb'_append_eq_of_le (by decide)).trans ?_)

@[simp] theorem fieldA_packX (op : BitVec 6) (d a : BitVec 5) (x : BitVec 12) (p : Bool) (s : BitVec 3) :
    fieldA (joinWord p s (packX op d a x)) = a := by
  unfold fieldA joinWord packX; repeat' (first
    | exact BitVec.extractLsb'_eq_self
    | refine (BitVec.extractLsb'_append_eq_of_add_le (by decide)).trans ?_
    | refine (BitVec.extractLsb'_append_eq_of_le (by decide)).trans ?_)

@[simp] theorem selX_packX (op : BitVec 6) (d a : BitVec 5) (x : BitVec 12) (p : Bool) (s : BitVec 3) :
    selX (joinWord p s (packX op d a x)) = x := by
  unfold selX joinWord packX; repeat' (first
    | exact BitVec.extractLsb'_eq_self
    | refine (BitVec.extractLsb'_append_eq_of_add_le (by decide)).trans ?_
    | refine (BitVec.extractLsb'_append_eq_of_le (by decide)).trans ?_)

@[simp] theorem wordOp_packL (op : BitVec 6) (d a b : BitVec 5) (t : BitVec 7) (p : Bool) (s : BitVec 3) :
    wordOp (joinWord p s (packL op d a b t)) = op := by
  unfold wordOp joinWord packL; repeat' (first
    | exact BitVec.extractLsb'_eq_self
    | refine (BitVec.extractLsb'_append_eq_of_add_le (by decide)).trans ?_
    | refine (BitVec.extractLsb'_append_eq_of_le (by decide)).trans ?_)

@[simp] theorem fieldD_packL (op : BitVec 6) (d a b : BitVec 5) (t : BitVec 7) (p : Bool) (s : BitVec 3) :
    fieldD (joinWord p s (packL op d a b t)) = d := by
  unfold fieldD joinWord packL; repeat' (first
    | exact BitVec.extractLsb'_eq_self
    | refine (BitVec.extractLsb'_append_eq_of_add_le (by decide)).trans ?_
    | refine (BitVec.extractLsb'_append_eq_of_le (by decide)).trans ?_)

@[simp] theorem fieldA_packL (op : BitVec 6) (d a b : BitVec 5) (t : BitVec 7) (p : Bool) (s : BitVec 3) :
    fieldA (joinWord p s (packL op d a b t)) = a := by
  unfold fieldA joinWord packL; repeat' (first
    | exact BitVec.extractLsb'_eq_self
    | refine (BitVec.extractLsb'_append_eq_of_add_le (by decide)).trans ?_
    | refine (BitVec.extractLsb'_append_eq_of_le (by decide)).trans ?_)

@[simp] theorem fieldB_packL (op : BitVec 6) (d a b : BitVec 5) (t : BitVec 7) (p : Bool) (s : BitVec 3) :
    fieldB (joinWord p s (packL op d a b t)) = b := by
  unfold fieldB joinWord packL; repeat' (first
    | exact BitVec.extractLsb'_eq_self
    | refine (BitVec.extractLsb'_append_eq_of_add_le (by decide)).trans ?_
    | refine (BitVec.extractLsb'_append_eq_of_le (by decide)).trans ?_)

@[simp] theorem fieldT_packL (op : BitVec 6) (d a b : BitVec 5) (t : BitVec 7) (p : Bool) (s : BitVec 3) :
    fieldT (joinWord p s (packL op d a b t)) = t := by
  unfold fieldT joinWord packL; repeat' (first
    | exact BitVec.extractLsb'_eq_self
    | refine (BitVec.extractLsb'_append_eq_of_add_le (by decide)).trans ?_
    | refine (BitVec.extractLsb'_append_eq_of_le (by decide)).trans ?_)

@[simp] theorem wordOp_packK (op : BitVec 6) (d a b : BitVec 5) (k : BitVec 6) (f : BitVec 1) (p : Bool) (s : BitVec 3) :
    wordOp (joinWord p s (packK op d a b k f)) = op := by
  unfold wordOp joinWord packK; repeat' (first
    | exact BitVec.extractLsb'_eq_self
    | refine (BitVec.extractLsb'_append_eq_of_add_le (by decide)).trans ?_
    | refine (BitVec.extractLsb'_append_eq_of_le (by decide)).trans ?_)

@[simp] theorem fieldD_packK (op : BitVec 6) (d a b : BitVec 5) (k : BitVec 6) (f : BitVec 1) (p : Bool) (s : BitVec 3) :
    fieldD (joinWord p s (packK op d a b k f)) = d := by
  unfold fieldD joinWord packK; repeat' (first
    | exact BitVec.extractLsb'_eq_self
    | refine (BitVec.extractLsb'_append_eq_of_add_le (by decide)).trans ?_
    | refine (BitVec.extractLsb'_append_eq_of_le (by decide)).trans ?_)

@[simp] theorem fieldA_packK (op : BitVec 6) (d a b : BitVec 5) (k : BitVec 6) (f : BitVec 1) (p : Bool) (s : BitVec 3) :
    fieldA (joinWord p s (packK op d a b k f)) = a := by
  unfold fieldA joinWord packK; repeat' (first
    | exact BitVec.extractLsb'_eq_self
    | refine (BitVec.extractLsb'_append_eq_of_add_le (by decide)).trans ?_
    | refine (BitVec.extractLsb'_append_eq_of_le (by decide)).trans ?_)

@[simp] theorem fieldB_packK (op : BitVec 6) (d a b : BitVec 5) (k : BitVec 6) (f : BitVec 1) (p : Bool) (s : BitVec 3) :
    fieldB (joinWord p s (packK op d a b k f)) = b := by
  unfold fieldB joinWord packK; repeat' (first
    | exact BitVec.extractLsb'_eq_self
    | refine (BitVec.extractLsb'_append_eq_of_add_le (by decide)).trans ?_
    | refine (BitVec.extractLsb'_append_eq_of_le (by decide)).trans ?_)

@[simp] theorem fieldK_packK (op : BitVec 6) (d a b : BitVec 5) (k : BitVec 6) (f : BitVec 1) (p : Bool) (s : BitVec 3) :
    fieldK (joinWord p s (packK op d a b k f)) = k := by
  unfold fieldK joinWord packK; repeat' (first
    | exact BitVec.extractLsb'_eq_self
    | refine (BitVec.extractLsb'_append_eq_of_add_le (by decide)).trans ?_
    | refine (BitVec.extractLsb'_append_eq_of_le (by decide)).trans ?_)

@[simp] theorem selK_packK (op : BitVec 6) (d a b : BitVec 5) (k : BitVec 6) (f : BitVec 1) (p : Bool) (s : BitVec 3) :
    selK (joinWord p s (packK op d a b k f)) = f := by
  unfold selK joinWord packK; repeat' (first
    | exact BitVec.extractLsb'_eq_self
    | refine (BitVec.extractLsb'_append_eq_of_add_le (by decide)).trans ?_
    | refine (BitVec.extractLsb'_append_eq_of_le (by decide)).trans ?_)

@[simp] theorem wordOp_packE (op : BitVec 6) (d a b : BitVec 4) (o : BitVec 10) (p : Bool) (s : BitVec 3) :
    wordOp (joinWord p s (packE op d a b o)) = op := by
  unfold wordOp joinWord packE; repeat' (first
    | exact BitVec.extractLsb'_eq_self
    | refine (BitVec.extractLsb'_append_eq_of_add_le (by decide)).trans ?_
    | refine (BitVec.extractLsb'_append_eq_of_le (by decide)).trans ?_)

@[simp] theorem tileD_packE (op : BitVec 6) (d a b : BitVec 4) (o : BitVec 10) (p : Bool) (s : BitVec 3) :
    tileD (joinWord p s (packE op d a b o)) = d := by
  unfold tileD joinWord packE; repeat' (first
    | exact BitVec.extractLsb'_eq_self
    | refine (BitVec.extractLsb'_append_eq_of_add_le (by decide)).trans ?_
    | refine (BitVec.extractLsb'_append_eq_of_le (by decide)).trans ?_)

@[simp] theorem tileA_packE (op : BitVec 6) (d a b : BitVec 4) (o : BitVec 10) (p : Bool) (s : BitVec 3) :
    tileA (joinWord p s (packE op d a b o)) = a := by
  unfold tileA joinWord packE; repeat' (first
    | exact BitVec.extractLsb'_eq_self
    | refine (BitVec.extractLsb'_append_eq_of_add_le (by decide)).trans ?_
    | refine (BitVec.extractLsb'_append_eq_of_le (by decide)).trans ?_)

@[simp] theorem tileB_packE (op : BitVec 6) (d a b : BitVec 4) (o : BitVec 10) (p : Bool) (s : BitVec 3) :
    tileB (joinWord p s (packE op d a b o)) = b := by
  unfold tileB joinWord packE; repeat' (first
    | exact BitVec.extractLsb'_eq_self
    | refine (BitVec.extractLsb'_append_eq_of_add_le (by decide)).trans ?_
    | refine (BitVec.extractLsb'_append_eq_of_le (by decide)).trans ?_)

@[simp] theorem off10_packE (op : BitVec 6) (d a b : BitVec 4) (o : BitVec 10) (p : Bool) (s : BitVec 3) :
    off10 (joinWord p s (packE op d a b o)) = o := by
  unfold off10 joinWord packE; repeat' (first
    | exact BitVec.extractLsb'_eq_self
    | refine (BitVec.extractLsb'_append_eq_of_add_le (by decide)).trans ?_
    | refine (BitVec.extractLsb'_append_eq_of_le (by decide)).trans ?_)

@[simp] theorem fieldBit_packA (op : BitVec 6) (d a : BitVec 5) (k : BitVec 1) (m : BitVec 3) (f : BitVec 4) (p : Bool) (s : BitVec 3) :
    fieldBit (joinWord p s (packA op d a (0#4 ++ k) m f)) = k := by
  unfold fieldBit joinWord packA; repeat' (first
    | exact BitVec.extractLsb'_eq_self
    | refine (BitVec.extractLsb'_append_eq_of_add_le (by decide)).trans ?_
    | refine (BitVec.extractLsb'_append_eq_of_le (by decide)).trans ?_)

@[simp] theorem imm6_packI (op : BitVec 6) (d a : BitVec 5) (f : BitVec 3) (i : BitVec 6) (p : Bool) (s : BitVec 3) :
    imm6 (joinWord p s (packI op d a f (0#3 ++ i))) = i := by
  unfold imm6 joinWord packI; repeat' (first
    | exact BitVec.extractLsb'_eq_self
    | refine (BitVec.extractLsb'_append_eq_of_add_le (by decide)).trans ?_
    | refine (BitVec.extractLsb'_append_eq_of_le (by decide)).trans ?_)

@[simp] theorem trapNum_packX (op : BitVec 6) (d a : BitVec 5) (n : BitVec 8) (p : Bool) (s : BitVec 3) :
    trapNum (joinWord p s (packX op d a (1#4 ++ n))) = n := by
  unfold trapNum joinWord packX; repeat' (first
    | exact BitVec.extractLsb'_eq_self
    | refine (BitVec.extractLsb'_append_eq_of_add_le (by decide)).trans ?_
    | refine (BitVec.extractLsb'_append_eq_of_le (by decide)).trans ?_)

/-- The selectors 0x100 to 0x1FF of SYS are those of TRAP (R71). -/
theorem trapSelector (n : BitVec 8) : (1#4 ++ n : BitVec 12) &&& 0xF00#12 = 0x100#12 := by
  revert n; decide

end Sys2Proof
end

