-- ==== Sys2Proof/Laws/PerInstr.lean ====
section
/-!
SUPPORT. Statements about every instruction, one lemma for each constructor. RoundTrip: the decoder gives back the
instruction, its restart mark and its stall count from the word the encoder writes (R16 to R24).
-/

namespace Sys2Proof.Laws

/-- The word of a well-formed instruction decodes to it, whatever its restart mark and stall count. -/
def RoundTrip.Statement (i : Instr) : Prop :=
  ∀ (p : Bool) (s : BitVec 3) (w : BitVec 32), i.wellFormed = true → encode ⟨p, s, i⟩ = some w →
    decode w = .ok ⟨p, s, i⟩

/-- A word whose major is assigned and whose selector reads the instruction decodes to it. -/
theorem roundTrip_of {i : Instr} {b : BitVec 28} (hb : i.body = some b)
    (hm : ∀ p s, (majorMark (wordOp (joinWord p s b))).isSome = true)
    (hs : ∀ p s, decodeSelector (joinWord p s b) = some i) : RoundTrip.Statement i := by
  intro p s w hw he
  have e : w = joinWord p s b := by
    simp only [encode, hb, Option.some.injEq] at he
    exact he.symm
  subst e
  have hm' := hm p s
  unfold decode
  rw [hs p s, wordBody_joinWord, wordP_joinWord, wordS_joinWord]
  cases h : majorMark (wordOp (joinWord p s b)) with
  | none => rw [h] at hm'; exact absurd hm' (by decide)
  | some m => simp [hw, hb]

/-- An event has no word. -/
theorem roundTrip_event {i : Instr} (hb : i.body = none) : RoundTrip.Statement i := by
  intro p s w _ he
  simp [encode, hb] at he

theorem RoundTrip.nop : RoundTrip.Statement (.nop) :=
  roundTrip_of rfl (fun p s => by rw [wordOp_packX]; rfl) (fun p s => by
    rw [decodeSelector, wordOp_packX]; change decodeSys _ = _
    rw [decodeSys, selX_packX] <;> simp)
theorem RoundTrip.eret : RoundTrip.Statement (.eret) :=
  roundTrip_of rfl (fun p s => by rw [wordOp_packX]; rfl) (fun p s => by
    rw [decodeSelector, wordOp_packX]; change decodeSys _ = _
    rw [decodeSys, selX_packX] <;> simp)
theorem RoundTrip.wait (d : BitVec 5) (a : BitVec 5) : RoundTrip.Statement (.wait d a) :=
  roundTrip_of rfl (fun p s => by rw [wordOp_packX]; rfl) (fun p s => by
    rw [decodeSelector, wordOp_packX]; change decodeSys _ = _
    rw [decodeSys, selX_packX] <;> simp)
theorem RoundTrip.brk : RoundTrip.Statement (.brk) :=
  roundTrip_of rfl (fun p s => by rw [wordOp_packX]; rfl) (fun p s => by
    rw [decodeSelector, wordOp_packX]; change decodeSys _ = _
    rw [decodeSys, selX_packX] <;> simp)
theorem RoundTrip.yield : RoundTrip.Statement (.yield) :=
  roundTrip_of rfl (fun p s => by rw [wordOp_packX]; rfl) (fun p s => by
    rw [decodeSelector, wordOp_packX]; change decodeSys _ = _
    rw [decodeSys, selX_packX] <;> simp)
theorem RoundTrip.fencei : RoundTrip.Statement (.fencei) :=
  roundTrip_of rfl (fun p s => by rw [wordOp_packX]; rfl) (fun p s => by
    rw [decodeSelector, wordOp_packX]; change decodeSys _ = _
    rw [decodeSys, selX_packX] <;> simp)
theorem RoundTrip.dusk : RoundTrip.Statement (.dusk) :=
  roundTrip_of rfl (fun p s => by rw [wordOp_packX]; rfl) (fun p s => by
    rw [decodeSelector, wordOp_packX]; change decodeSys _ = _
    rw [decodeSys, selX_packX] <;> simp)
theorem RoundTrip.dawn : RoundTrip.Statement (.dawn) :=
  roundTrip_of rfl (fun p s => by rw [wordOp_packX]; rfl) (fun p s => by
    rw [decodeSelector, wordOp_packX]; change decodeSys _ = _
    rw [decodeSys, selX_packX] <;> simp)
theorem RoundTrip.trap (n : BitVec 8) : RoundTrip.Statement (.trap n) :=
  roundTrip_of rfl (fun p s => by rw [wordOp_packX]; rfl) (fun p s => by
    rw [decodeSelector, wordOp_packX]; change decodeSys _ = _
    simp [decodeSys, trapSelector])
theorem RoundTrip.add (d : BitVec 5) (a : BitVec 5) (b : BitVec 5) : RoundTrip.Statement (.add d a b) :=
  roundTrip_of rfl (fun p s => by rw [wordOp_packA]; rfl) (fun p s => by
    rw [decodeSelector, wordOp_packA]; change decodeInt _ = _
    rw [decodeInt, selA_packA] <;> simp)
theorem RoundTrip.sub (d : BitVec 5) (a : BitVec 5) (b : BitVec 5) : RoundTrip.Statement (.sub d a b) :=
  roundTrip_of rfl (fun p s => by rw [wordOp_packA]; rfl) (fun p s => by
    rw [decodeSelector, wordOp_packA]; change decodeInt _ = _
    rw [decodeInt, selA_packA] <;> simp)
theorem RoundTrip.and (d : BitVec 5) (a : BitVec 5) (b : BitVec 5) : RoundTrip.Statement (.and d a b) :=
  roundTrip_of rfl (fun p s => by rw [wordOp_packA]; rfl) (fun p s => by
    rw [decodeSelector, wordOp_packA]; change decodeInt _ = _
    rw [decodeInt, selA_packA] <;> simp)
theorem RoundTrip.or (d : BitVec 5) (a : BitVec 5) (b : BitVec 5) : RoundTrip.Statement (.or d a b) :=
  roundTrip_of rfl (fun p s => by rw [wordOp_packA]; rfl) (fun p s => by
    rw [decodeSelector, wordOp_packA]; change decodeInt _ = _
    rw [decodeInt, selA_packA] <;> simp)
theorem RoundTrip.xor (d : BitVec 5) (a : BitVec 5) (b : BitVec 5) : RoundTrip.Statement (.xor d a b) :=
  roundTrip_of rfl (fun p s => by rw [wordOp_packA]; rfl) (fun p s => by
    rw [decodeSelector, wordOp_packA]; change decodeInt _ = _
    rw [decodeInt, selA_packA] <;> simp)
theorem RoundTrip.andn (d : BitVec 5) (a : BitVec 5) (b : BitVec 5) : RoundTrip.Statement (.andn d a b) :=
  roundTrip_of rfl (fun p s => by rw [wordOp_packA]; rfl) (fun p s => by
    rw [decodeSelector, wordOp_packA]; change decodeInt _ = _
    rw [decodeInt, selA_packA] <;> simp)
theorem RoundTrip.shl (d : BitVec 5) (a : BitVec 5) (b : BitVec 5) : RoundTrip.Statement (.shl d a b) :=
  roundTrip_of rfl (fun p s => by rw [wordOp_packA]; rfl) (fun p s => by
    rw [decodeSelector, wordOp_packA]; change decodeInt _ = _
    rw [decodeInt, selA_packA] <;> simp)
theorem RoundTrip.shr (d : BitVec 5) (a : BitVec 5) (b : BitVec 5) : RoundTrip.Statement (.shr d a b) :=
  roundTrip_of rfl (fun p s => by rw [wordOp_packA]; rfl) (fun p s => by
    rw [decodeSelector, wordOp_packA]; change decodeInt _ = _
    rw [decodeInt, selA_packA] <;> simp)
theorem RoundTrip.sra (d : BitVec 5) (a : BitVec 5) (b : BitVec 5) : RoundTrip.Statement (.sra d a b) :=
  roundTrip_of rfl (fun p s => by rw [wordOp_packA]; rfl) (fun p s => by
    rw [decodeSelector, wordOp_packA]; change decodeInt _ = _
    rw [decodeInt, selA_packA] <;> simp)
theorem RoundTrip.mul (d : BitVec 5) (a : BitVec 5) (b : BitVec 5) : RoundTrip.Statement (.mul d a b) :=
  roundTrip_of rfl (fun p s => by rw [wordOp_packA]; rfl) (fun p s => by
    rw [decodeSelector, wordOp_packA]; change decodeInt _ = _
    rw [decodeInt, selA_packA] <;> simp)
theorem RoundTrip.mulh (d : BitVec 5) (a : BitVec 5) (b : BitVec 5) : RoundTrip.Statement (.mulh d a b) :=
  roundTrip_of rfl (fun p s => by rw [wordOp_packA]; rfl) (fun p s => by
    rw [decodeSelector, wordOp_packA]; change decodeInt _ = _
    rw [decodeInt, selA_packA] <;> simp)
theorem RoundTrip.mulhn (d : BitVec 5) (a : BitVec 5) (b : BitVec 5) : RoundTrip.Statement (.mulhn d a b) :=
  roundTrip_of rfl (fun p s => by rw [wordOp_packA]; rfl) (fun p s => by
    rw [decodeSelector, wordOp_packA]; change decodeInt _ = _
    rw [decodeInt, selA_packA] <;> simp)
theorem RoundTrip.div (d : BitVec 5) (a : BitVec 5) (b : BitVec 5) : RoundTrip.Statement (.div d a b) :=
  roundTrip_of rfl (fun p s => by rw [wordOp_packA]; rfl) (fun p s => by
    rw [decodeSelector, wordOp_packA]; change decodeInt _ = _
    rw [decodeInt, selA_packA] <;> simp)
theorem RoundTrip.divn (d : BitVec 5) (a : BitVec 5) (b : BitVec 5) : RoundTrip.Statement (.divn d a b) :=
  roundTrip_of rfl (fun p s => by rw [wordOp_packA]; rfl) (fun p s => by
    rw [decodeSelector, wordOp_packA]; change decodeInt _ = _
    rw [decodeInt, selA_packA] <;> simp)
theorem RoundTrip.rem (d : BitVec 5) (a : BitVec 5) (b : BitVec 5) : RoundTrip.Statement (.rem d a b) :=
  roundTrip_of rfl (fun p s => by rw [wordOp_packA]; rfl) (fun p s => by
    rw [decodeSelector, wordOp_packA]; change decodeInt _ = _
    rw [decodeInt, selA_packA] <;> simp)
theorem RoundTrip.remn (d : BitVec 5) (a : BitVec 5) (b : BitVec 5) : RoundTrip.Statement (.remn d a b) :=
  roundTrip_of rfl (fun p s => by rw [wordOp_packA]; rfl) (fun p s => by
    rw [decodeSelector, wordOp_packA]; change decodeInt _ = _
    rw [decodeInt, selA_packA] <;> simp)
theorem RoundTrip.slt (d : BitVec 5) (a : BitVec 5) (b : BitVec 5) : RoundTrip.Statement (.slt d a b) :=
  roundTrip_of rfl (fun p s => by rw [wordOp_packA]; rfl) (fun p s => by
    rw [decodeSelector, wordOp_packA]; change decodeInt2 _ = _
    rw [decodeInt2, selA_packA] <;> simp)
theorem RoundTrip.sltn (d : BitVec 5) (a : BitVec 5) (b : BitVec 5) : RoundTrip.Statement (.sltn d a b) :=
  roundTrip_of rfl (fun p s => by rw [wordOp_packA]; rfl) (fun p s => by
    rw [decodeSelector, wordOp_packA]; change decodeInt2 _ = _
    rw [decodeInt2, selA_packA] <;> simp)
theorem RoundTrip.min (d : BitVec 5) (a : BitVec 5) (b : BitVec 5) : RoundTrip.Statement (.min d a b) :=
  roundTrip_of rfl (fun p s => by rw [wordOp_packA]; rfl) (fun p s => by
    rw [decodeSelector, wordOp_packA]; change decodeInt2 _ = _
    rw [decodeInt2, selA_packA] <;> simp)
theorem RoundTrip.max (d : BitVec 5) (a : BitVec 5) (b : BitVec 5) : RoundTrip.Statement (.max d a b) :=
  roundTrip_of rfl (fun p s => by rw [wordOp_packA]; rfl) (fun p s => by
    rw [decodeSelector, wordOp_packA]; change decodeInt2 _ = _
    rw [decodeInt2, selA_packA] <;> simp)
theorem RoundTrip.minn (d : BitVec 5) (a : BitVec 5) (b : BitVec 5) : RoundTrip.Statement (.minn d a b) :=
  roundTrip_of rfl (fun p s => by rw [wordOp_packA]; rfl) (fun p s => by
    rw [decodeSelector, wordOp_packA]; change decodeInt2 _ = _
    rw [decodeInt2, selA_packA] <;> simp)
theorem RoundTrip.maxn (d : BitVec 5) (a : BitVec 5) (b : BitVec 5) : RoundTrip.Statement (.maxn d a b) :=
  roundTrip_of rfl (fun p s => by rw [wordOp_packA]; rfl) (fun p s => by
    rw [decodeSelector, wordOp_packA]; change decodeInt2 _ = _
    rw [decodeInt2, selA_packA] <;> simp)
theorem RoundTrip.clz (d : BitVec 5) (a : BitVec 5) : RoundTrip.Statement (.clz d a) :=
  roundTrip_of rfl (fun p s => by rw [wordOp_packA]; rfl) (fun p s => by
    rw [decodeSelector, wordOp_packA]; change decodeInt2 _ = _
    rw [decodeInt2, selA_packA] <;> simp)
theorem RoundTrip.ctz (d : BitVec 5) (a : BitVec 5) : RoundTrip.Statement (.ctz d a) :=
  roundTrip_of rfl (fun p s => by rw [wordOp_packA]; rfl) (fun p s => by
    rw [decodeSelector, wordOp_packA]; change decodeInt2 _ = _
    rw [decodeInt2, selA_packA] <;> simp)
theorem RoundTrip.popc (d : BitVec 5) (a : BitVec 5) : RoundTrip.Statement (.popc d a) :=
  roundTrip_of rfl (fun p s => by rw [wordOp_packA]; rfl) (fun p s => by
    rw [decodeSelector, wordOp_packA]; change decodeInt2 _ = _
    rw [decodeInt2, selA_packA] <;> simp)
theorem RoundTrip.rotl (d : BitVec 5) (a : BitVec 5) (b : BitVec 5) : RoundTrip.Statement (.rotl d a b) :=
  roundTrip_of rfl (fun p s => by rw [wordOp_packA]; rfl) (fun p s => by
    rw [decodeSelector, wordOp_packA]; change decodeInt2 _ = _
    rw [decodeInt2, selA_packA] <;> simp)
theorem RoundTrip.sel (d : BitVec 5) (a : BitVec 5) (b : BitVec 5) : RoundTrip.Statement (.sel d a b) :=
  roundTrip_of rfl (fun p s => by rw [wordOp_packA]; rfl) (fun p s => by
    rw [decodeSelector, wordOp_packA]; change decodeInt2 _ = _
    rw [decodeInt2, selA_packA] <;> simp)
theorem RoundTrip.addi (d : BitVec 5) (a : BitVec 5) (i : BitVec 9) : RoundTrip.Statement (.addi d a i) :=
  roundTrip_of rfl (fun p s => by rw [wordOp_packI]; rfl) (fun p s => by
    rw [decodeSelector, wordOp_packI]; change decodeInti _ = _
    rw [decodeInti, selI_packI] <;> simp)
theorem RoundTrip.andi (d : BitVec 5) (a : BitVec 5) (i : BitVec 9) : RoundTrip.Statement (.andi d a i) :=
  roundTrip_of rfl (fun p s => by rw [wordOp_packI]; rfl) (fun p s => by
    rw [decodeSelector, wordOp_packI]; change decodeInti _ = _
    rw [decodeInti, selI_packI] <;> simp)
theorem RoundTrip.ori (d : BitVec 5) (a : BitVec 5) (i : BitVec 9) : RoundTrip.Statement (.ori d a i) :=
  roundTrip_of rfl (fun p s => by rw [wordOp_packI]; rfl) (fun p s => by
    rw [decodeSelector, wordOp_packI]; change decodeInti _ = _
    rw [decodeInti, selI_packI] <;> simp)
theorem RoundTrip.xori (d : BitVec 5) (a : BitVec 5) (i : BitVec 9) : RoundTrip.Statement (.xori d a i) :=
  roundTrip_of rfl (fun p s => by rw [wordOp_packI]; rfl) (fun p s => by
    rw [decodeSelector, wordOp_packI]; change decodeInti _ = _
    rw [decodeInti, selI_packI] <;> simp)
theorem RoundTrip.shli (d : BitVec 5) (a : BitVec 5) (i : BitVec 6) : RoundTrip.Statement (.shli d a i) :=
  roundTrip_of rfl (fun p s => by rw [wordOp_packI]; rfl) (fun p s => by
    rw [decodeSelector, wordOp_packI]; change decodeInti _ = _
    rw [decodeInti, selI_packI] <;> simp)
theorem RoundTrip.shri (d : BitVec 5) (a : BitVec 5) (i : BitVec 6) : RoundTrip.Statement (.shri d a i) :=
  roundTrip_of rfl (fun p s => by rw [wordOp_packI]; rfl) (fun p s => by
    rw [decodeSelector, wordOp_packI]; change decodeInti _ = _
    rw [decodeInti, selI_packI] <;> simp)
theorem RoundTrip.srai (d : BitVec 5) (a : BitVec 5) (i : BitVec 6) : RoundTrip.Statement (.srai d a i) :=
  roundTrip_of rfl (fun p s => by rw [wordOp_packI]; rfl) (fun p s => by
    rw [decodeSelector, wordOp_packI]; change decodeInti _ = _
    rw [decodeInti, selI_packI] <;> simp)
theorem RoundTrip.slti (d : BitVec 5) (a : BitVec 5) (i : BitVec 9) : RoundTrip.Statement (.slti d a i) :=
  roundTrip_of rfl (fun p s => by rw [wordOp_packI]; rfl) (fun p s => by
    rw [decodeSelector, wordOp_packI]; change decodeInti _ = _
    rw [decodeInti, selI_packI] <;> simp)
theorem RoundTrip.lis (d : BitVec 5) (i : BitVec 17) : RoundTrip.Statement (.lis d i) :=
  roundTrip_of rfl (fun p s => by rw [wordOp_packU]; rfl) (fun p s => by
    rw [decodeSelector, wordOp_packU] <;> simp)
theorem RoundTrip.shim (d : BitVec 5) (i : BitVec 17) : RoundTrip.Statement (.shim d i) :=
  roundTrip_of rfl (fun p s => by rw [wordOp_packU]; rfl) (fun p s => by
    rw [decodeSelector, wordOp_packU] <;> simp)
theorem RoundTrip.beqz (a : BitVec 5) (o : BitVec 14) : RoundTrip.Statement (.beqz a o) :=
  roundTrip_of rfl (fun p s => by rw [wordOp_packZ]; rfl) (fun p s => by
    rw [decodeSelector, wordOp_packZ]; change decodeBcz _ = _
    rw [decodeBcz, selZ_packZ] <;> simp)
theorem RoundTrip.bnez (a : BitVec 5) (o : BitVec 14) : RoundTrip.Statement (.bnez a o) :=
  roundTrip_of rfl (fun p s => by rw [wordOp_packZ]; rfl) (fun p s => by
    rw [decodeSelector, wordOp_packZ]; change decodeBcz _ = _
    rw [decodeBcz, selZ_packZ] <;> simp)
theorem RoundTrip.bltz (a : BitVec 5) (o : BitVec 14) : RoundTrip.Statement (.bltz a o) :=
  roundTrip_of rfl (fun p s => by rw [wordOp_packZ]; rfl) (fun p s => by
    rw [decodeSelector, wordOp_packZ]; change decodeBcz _ = _
    rw [decodeBcz, selZ_packZ] <;> simp)
theorem RoundTrip.bgez (a : BitVec 5) (o : BitVec 14) : RoundTrip.Statement (.bgez a o) :=
  roundTrip_of rfl (fun p s => by rw [wordOp_packZ]; rfl) (fun p s => by
    rw [decodeSelector, wordOp_packZ]; change decodeBcz _ = _
    rw [decodeBcz, selZ_packZ] <;> simp)
theorem RoundTrip.bgtz (a : BitVec 5) (o : BitVec 14) : RoundTrip.Statement (.bgtz a o) :=
  roundTrip_of rfl (fun p s => by rw [wordOp_packZ]; rfl) (fun p s => by
    rw [decodeSelector, wordOp_packZ]; change decodeBcz _ = _
    rw [decodeBcz, selZ_packZ] <;> simp)
theorem RoundTrip.blez (a : BitVec 5) (o : BitVec 14) : RoundTrip.Statement (.blez a o) :=
  roundTrip_of rfl (fun p s => by rw [wordOp_packZ]; rfl) (fun p s => by
    rw [decodeSelector, wordOp_packZ]; change decodeBcz _ = _
    rw [decodeBcz, selZ_packZ] <;> simp)
theorem RoundTrip.jmp (o : BitVec 22) : RoundTrip.Statement (.jmp o) :=
  roundTrip_of rfl (fun p s => by rw [wordOp_packJ]; rfl) (fun p s => by
    rw [decodeSelector, wordOp_packJ] <;> simp)
theorem RoundTrip.call (o : BitVec 22) : RoundTrip.Statement (.call o) :=
  roundTrip_of rfl (fun p s => by rw [wordOp_packJ]; rfl) (fun p s => by
    rw [decodeSelector, wordOp_packJ] <;> simp)
theorem RoundTrip.jr (a : BitVec 5) : RoundTrip.Statement (.jr a) :=
  roundTrip_of rfl (fun p s => by rw [wordOp_packA]; rfl) (fun p s => by
    rw [decodeSelector, wordOp_packA]; change decodeXfer _ = _
    rw [decodeXfer, selA_packA] <;> simp)
theorem RoundTrip.callr (a : BitVec 5) : RoundTrip.Statement (.callr a) :=
  roundTrip_of rfl (fun p s => by rw [wordOp_packA]; rfl) (fun p s => by
    rw [decodeSelector, wordOp_packA]; change decodeXfer _ = _
    rw [decodeXfer, selA_packA] <;> simp)
theorem RoundTrip.ret : RoundTrip.Statement (.ret) :=
  roundTrip_of rfl (fun p s => by rw [wordOp_packA]; rfl) (fun p s => by
    rw [decodeSelector, wordOp_packA]; change decodeXfer _ = _
    rw [decodeXfer, selA_packA] <;> simp)
theorem RoundTrip.ldB (d : BitVec 5) (a : BitVec 5) (i : BitVec 9) : RoundTrip.Statement (.ldB d a i) :=
  roundTrip_of rfl (fun p s => by rw [wordOp_packI]; rfl) (fun p s => by
    rw [decodeSelector, wordOp_packI]; change decodeLd _ = _
    rw [decodeLd, selI_packI] <;> simp)
theorem RoundTrip.ldBn (d : BitVec 5) (a : BitVec 5) (i : BitVec 9) : RoundTrip.Statement (.ldBn d a i) :=
  roundTrip_of rfl (fun p s => by rw [wordOp_packI]; rfl) (fun p s => by
    rw [decodeSelector, wordOp_packI]; change decodeLd _ = _
    rw [decodeLd, selI_packI] <;> simp)
theorem RoundTrip.ldH (d : BitVec 5) (a : BitVec 5) (i : BitVec 9) : RoundTrip.Statement (.ldH d a i) :=
  roundTrip_of rfl (fun p s => by rw [wordOp_packI]; rfl) (fun p s => by
    rw [decodeSelector, wordOp_packI]; change decodeLd _ = _
    rw [decodeLd, selI_packI] <;> simp)
theorem RoundTrip.ldHn (d : BitVec 5) (a : BitVec 5) (i : BitVec 9) : RoundTrip.Statement (.ldHn d a i) :=
  roundTrip_of rfl (fun p s => by rw [wordOp_packI]; rfl) (fun p s => by
    rw [decodeSelector, wordOp_packI]; change decodeLd _ = _
    rw [decodeLd, selI_packI] <;> simp)
theorem RoundTrip.ldW (d : BitVec 5) (a : BitVec 5) (i : BitVec 9) : RoundTrip.Statement (.ldW d a i) :=
  roundTrip_of rfl (fun p s => by rw [wordOp_packI]; rfl) (fun p s => by
    rw [decodeSelector, wordOp_packI]; change decodeLd _ = _
    rw [decodeLd, selI_packI] <;> simp)
theorem RoundTrip.ldWn (d : BitVec 5) (a : BitVec 5) (i : BitVec 9) : RoundTrip.Statement (.ldWn d a i) :=
  roundTrip_of rfl (fun p s => by rw [wordOp_packI]; rfl) (fun p s => by
    rw [decodeSelector, wordOp_packI]; change decodeLd _ = _
    rw [decodeLd, selI_packI] <;> simp)
theorem RoundTrip.ldD (d : BitVec 5) (a : BitVec 5) (i : BitVec 9) : RoundTrip.Statement (.ldD d a i) :=
  roundTrip_of rfl (fun p s => by rw [wordOp_packI]; rfl) (fun p s => by
    rw [decodeSelector, wordOp_packI]; change decodeLd _ = _
    rw [decodeLd, selI_packI] <;> simp)
theorem RoundTrip.stB (d : BitVec 5) (a : BitVec 5) (i : BitVec 9) : RoundTrip.Statement (.stB d a i) :=
  roundTrip_of rfl (fun p s => by rw [wordOp_packI]; rfl) (fun p s => by
    rw [decodeSelector, wordOp_packI]; change decodeSt _ = _
    rw [decodeSt, selI_packI] <;> simp)
theorem RoundTrip.stH (d : BitVec 5) (a : BitVec 5) (i : BitVec 9) : RoundTrip.Statement (.stH d a i) :=
  roundTrip_of rfl (fun p s => by rw [wordOp_packI]; rfl) (fun p s => by
    rw [decodeSelector, wordOp_packI]; change decodeSt _ = _
    rw [decodeSt, selI_packI] <;> simp)
theorem RoundTrip.stW (d : BitVec 5) (a : BitVec 5) (i : BitVec 9) : RoundTrip.Statement (.stW d a i) :=
  roundTrip_of rfl (fun p s => by rw [wordOp_packI]; rfl) (fun p s => by
    rw [decodeSelector, wordOp_packI]; change decodeSt _ = _
    rw [decodeSt, selI_packI] <;> simp)
theorem RoundTrip.stD (d : BitVec 5) (a : BitVec 5) (i : BitVec 9) : RoundTrip.Statement (.stD d a i) :=
  roundTrip_of rfl (fun p s => by rw [wordOp_packI]; rfl) (fun p s => by
    rw [decodeSelector, wordOp_packI]; change decodeSt _ = _
    rw [decodeSt, selI_packI] <;> simp)
theorem RoundTrip.amoAdd (d : BitVec 5) (a : BitVec 5) (b : BitVec 5) (c : BitVec 3) : RoundTrip.Statement (.amoAdd d a b c) :=
  roundTrip_of rfl (fun p s => by rw [wordOp_packA]; rfl) (fun p s => by
    rw [decodeSelector, wordOp_packA]; change decodeAmo _ = _
    rw [decodeAmo, selA_packA] <;> simp)
theorem RoundTrip.amoAnd (d : BitVec 5) (a : BitVec 5) (b : BitVec 5) (c : BitVec 3) : RoundTrip.Statement (.amoAnd d a b c) :=
  roundTrip_of rfl (fun p s => by rw [wordOp_packA]; rfl) (fun p s => by
    rw [decodeSelector, wordOp_packA]; change decodeAmo _ = _
    rw [decodeAmo, selA_packA] <;> simp)
theorem RoundTrip.amoOr (d : BitVec 5) (a : BitVec 5) (b : BitVec 5) (c : BitVec 3) : RoundTrip.Statement (.amoOr d a b c) :=
  roundTrip_of rfl (fun p s => by rw [wordOp_packA]; rfl) (fun p s => by
    rw [decodeSelector, wordOp_packA]; change decodeAmo _ = _
    rw [decodeAmo, selA_packA] <;> simp)
theorem RoundTrip.amoXor (d : BitVec 5) (a : BitVec 5) (b : BitVec 5) (c : BitVec 3) : RoundTrip.Statement (.amoXor d a b c) :=
  roundTrip_of rfl (fun p s => by rw [wordOp_packA]; rfl) (fun p s => by
    rw [decodeSelector, wordOp_packA]; change decodeAmo _ = _
    rw [decodeAmo, selA_packA] <;> simp)
theorem RoundTrip.amoMin (d : BitVec 5) (a : BitVec 5) (b : BitVec 5) (c : BitVec 3) : RoundTrip.Statement (.amoMin d a b c) :=
  roundTrip_of rfl (fun p s => by rw [wordOp_packA]; rfl) (fun p s => by
    rw [decodeSelector, wordOp_packA]; change decodeAmo _ = _
    rw [decodeAmo, selA_packA] <;> simp)
theorem RoundTrip.amoMax (d : BitVec 5) (a : BitVec 5) (b : BitVec 5) (c : BitVec 3) : RoundTrip.Statement (.amoMax d a b c) :=
  roundTrip_of rfl (fun p s => by rw [wordOp_packA]; rfl) (fun p s => by
    rw [decodeSelector, wordOp_packA]; change decodeAmo _ = _
    rw [decodeAmo, selA_packA] <;> simp)
theorem RoundTrip.amoSwap (d : BitVec 5) (a : BitVec 5) (b : BitVec 5) (c : BitVec 3) : RoundTrip.Statement (.amoSwap d a b c) :=
  roundTrip_of rfl (fun p s => by rw [wordOp_packA]; rfl) (fun p s => by
    rw [decodeSelector, wordOp_packA]; change decodeAmo _ = _
    rw [decodeAmo, selA_packA] <;> simp)
theorem RoundTrip.amoCas (d : BitVec 5) (a : BitVec 5) (b : BitVec 5) (c : BitVec 3) : RoundTrip.Statement (.amoCas d a b c) :=
  roundTrip_of rfl (fun p s => by rw [wordOp_packA]; rfl) (fun p s => by
    rw [decodeSelector, wordOp_packA]; change decodeAmo _ = _
    rw [decodeAmo, selA_packA] <;> simp)
theorem RoundTrip.amoFadd (d : BitVec 5) (a : BitVec 5) (b : BitVec 5) (c : BitVec 3) : RoundTrip.Statement (.amoFadd d a b c) :=
  roundTrip_of rfl (fun p s => by rw [wordOp_packA]; rfl) (fun p s => by
    rw [decodeSelector, wordOp_packA]; change decodeAmo _ = _
    rw [decodeAmo, selA_packA] <;> simp)
theorem RoundTrip.acq (a : BitVec 5) : RoundTrip.Statement (.acq a) :=
  roundTrip_of rfl (fun p s => by rw [wordOp_packA]; rfl) (fun p s => by
    rw [decodeSelector, wordOp_packA]; change decodeSync _ = _
    rw [decodeSync, selA_packA] <;> simp)
theorem RoundTrip.rel (a : BitVec 5) : RoundTrip.Statement (.rel a) :=
  roundTrip_of rfl (fun p s => by rw [wordOp_packA]; rfl) (fun p s => by
    rw [decodeSelector, wordOp_packA]; change decodeSync _ = _
    rw [decodeSync, selA_packA] <;> simp)
theorem RoundTrip.bind (d : BitVec 5) (a : BitVec 5) (b : BitVec 5) : RoundTrip.Statement (.bind d a b) :=
  roundTrip_of rfl (fun p s => by rw [wordOp_packA]; rfl) (fun p s => by
    rw [decodeSelector, wordOp_packA]; change decodeSync _ = _
    rw [decodeSync, selA_packA] <;> simp)
theorem RoundTrip.unbind (a : BitVec 5) (b : BitVec 5) : RoundTrip.Statement (.unbind a b) :=
  roundTrip_of rfl (fun p s => by rw [wordOp_packA]; rfl) (fun p s => by
    rw [decodeSelector, wordOp_packA]; change decodeSync _ = _
    rw [decodeSync, selA_packA] <;> simp)
theorem RoundTrip.fence (c : BitVec 3) : RoundTrip.Statement (.fence c) :=
  roundTrip_of rfl (fun p s => by rw [wordOp_packA]; rfl) (fun p s => by
    rw [decodeSelector, wordOp_packA]; change decodeSync _ = _
    rw [decodeSync, selA_packA] <;> simp)
theorem RoundTrip.fenceV (c : BitVec 3) : RoundTrip.Statement (.fenceV c) :=
  roundTrip_of rfl (fun p s => by rw [wordOp_packA]; rfl) (fun p s => by
    rw [decodeSelector, wordOp_packA]; change decodeSync _ = _
    rw [decodeSync, selA_packA] <;> simp)
theorem RoundTrip.csrx (d : BitVec 5) (a : BitVec 5) (x : BitVec 12) : RoundTrip.Statement (.csrx d a x) :=
  roundTrip_of rfl (fun p s => by rw [wordOp_packX]; rfl) (fun p s => by
    rw [decodeSelector, wordOp_packX] <;> simp)
theorem RoundTrip.csrs (d : BitVec 5) (a : BitVec 5) (x : BitVec 12) : RoundTrip.Statement (.csrs d a x) :=
  roundTrip_of rfl (fun p s => by rw [wordOp_packX]; rfl) (fun p s => by
    rw [decodeSelector, wordOp_packX] <;> simp)
theorem RoundTrip.frmWrite (v : BitVec 64) : RoundTrip.Statement (.frmWrite v) := roundTrip_event rfl
theorem RoundTrip.vpfbWrite (v : BitVec 64) : RoundTrip.Statement (.vpfbWrite v) := roundTrip_event rfl
theorem RoundTrip.spdiscWrite (v : BitVec 64) : RoundTrip.Statement (.spdiscWrite v) := roundTrip_event rfl
theorem RoundTrip.registerWrite (reg : DevReg) (v : BitVec 64) : RoundTrip.Statement (.registerWrite reg v) := roundTrip_event rfl
theorem RoundTrip.vdisp (d : BitVec 5) (a : BitVec 5) (b : BitVec 5) : RoundTrip.Statement (.vdisp d a b) :=
  roundTrip_of rfl (fun p s => by rw [wordOp_packA]; rfl) (fun p s => by
    rw [decodeSelector, wordOp_packA]; change decodeVq _ = _
    rw [decodeVq, selA_packA] <;> simp)
theorem RoundTrip.vdrain (d : BitVec 5) : RoundTrip.Statement (.vdrain d) :=
  roundTrip_of rfl (fun p s => by rw [wordOp_packA]; rfl) (fun p s => by
    rw [decodeSelector, wordOp_packA]; change decodeVq _ = _
    rw [decodeVq, selA_packA] <;> simp)
theorem RoundTrip.vqcnt (d : BitVec 5) : RoundTrip.Statement (.vqcnt d) :=
  roundTrip_of rfl (fun p s => by rw [wordOp_packA]; rfl) (fun p s => by
    rw [decodeSelector, wordOp_packA]; change decodeVq _ = _
    rw [decodeVq, selA_packA] <;> simp)
theorem RoundTrip.rqpop (d : BitVec 5) : RoundTrip.Statement (.rqpop d) :=
  roundTrip_of rfl (fun p s => by rw [wordOp_packA]; rfl) (fun p s => by
    rw [decodeSelector, wordOp_packA]; change decodeRq _ = _
    rw [decodeRq, selA_packA] <;> simp)
theorem RoundTrip.rqpeek (d : BitVec 5) : RoundTrip.Statement (.rqpeek d) :=
  roundTrip_of rfl (fun p s => by rw [wordOp_packA]; rfl) (fun p s => by
    rw [decodeSelector, wordOp_packA]; change decodeRq _ = _
    rw [decodeRq, selA_packA] <;> simp)
theorem RoundTrip.rqcnt (d : BitVec 5) : RoundTrip.Statement (.rqcnt d) :=
  roundTrip_of rfl (fun p s => by rw [wordOp_packA]; rfl) (fun p s => by
    rw [decodeSelector, wordOp_packA]; change decodeRq _ = _
    rw [decodeRq, selA_packA] <;> simp)
theorem RoundTrip.launch (d : BitVec 5) (a : BitVec 5) : RoundTrip.Statement (.launch d a) :=
  roundTrip_of rfl (fun p s => by rw [wordOp_packA]; rfl) (fun p s => by
    rw [decodeSelector, wordOp_packA]; change decodeWork _ = _
    rw [decodeWork, selA_packA] <;> simp)
theorem RoundTrip.launchg (d : BitVec 5) (a : BitVec 5) : RoundTrip.Statement (.launchg d a) :=
  roundTrip_of rfl (fun p s => by rw [wordOp_packA]; rfl) (fun p s => by
    rw [decodeSelector, wordOp_packA]; change decodeWork _ = _
    rw [decodeWork, selA_packA] <;> simp)
theorem RoundTrip.csig (d : BitVec 5) (a : BitVec 5) (b : BitVec 5) : RoundTrip.Statement (.csig d a b) :=
  roundTrip_of rfl (fun p s => by rw [wordOp_packA]; rfl) (fun p s => by
    rw [decodeSelector, wordOp_packA]; change decodeWork _ = _
    rw [decodeWork, selA_packA] <;> simp)
theorem RoundTrip.cancel (a : BitVec 5) : RoundTrip.Statement (.cancel a) :=
  roundTrip_of rfl (fun p s => by rw [wordOp_packA]; rfl) (fun p s => by
    rw [decodeSelector, wordOp_packA]; change decodeWork _ = _
    rw [decodeWork, selA_packA] <;> simp)
theorem RoundTrip.cread (d : BitVec 5) (a : BitVec 5) : RoundTrip.Statement (.cread d a) :=
  roundTrip_of rfl (fun p s => by rw [wordOp_packA]; rfl) (fun p s => by
    rw [decodeSelector, wordOp_packA]; change decodeWork _ = _
    rw [decodeWork, selA_packA] <;> simp)
theorem RoundTrip.binit (d : BitVec 5) (a : BitVec 5) (b : BitVec 5) (c : BitVec 3) : RoundTrip.Statement (.binit d a b c) :=
  roundTrip_of rfl (fun p s => by rw [wordOp_packA]; rfl) (fun p s => by
    rw [decodeSelector, wordOp_packA]; change decodeBar _ = _
    rw [decodeBar, selA_packA] <;> simp)
theorem RoundTrip.barrive (d : BitVec 5) (a : BitVec 5) (c : BitVec 3) : RoundTrip.Statement (.barrive d a c) :=
  roundTrip_of rfl (fun p s => by rw [wordOp_packA]; rfl) (fun p s => by
    rw [decodeSelector, wordOp_packA]; change decodeBar _ = _
    rw [decodeBar, selA_packA] <;> simp)
theorem RoundTrip.bwait (d : BitVec 5) (a : BitVec 5) (b : BitVec 5) (c : BitVec 3) : RoundTrip.Statement (.bwait d a b c) :=
  roundTrip_of rfl (fun p s => by rw [wordOp_packA]; rfl) (fun p s => by
    rw [decodeSelector, wordOp_packA]; change decodeBar _ = _
    rw [decodeBar, selA_packA] <;> simp)
theorem RoundTrip.barw (d : BitVec 5) (a : BitVec 5) (c : BitVec 3) : RoundTrip.Statement (.barw d a c) :=
  roundTrip_of rfl (fun p s => by rw [wordOp_packA]; rfl) (fun p s => by
    rw [decodeSelector, wordOp_packA]; change decodeBar _ = _
    rw [decodeBar, selA_packA] <;> simp)
theorem RoundTrip.btest (d : BitVec 5) (a : BitVec 5) (b : BitVec 5) (c : BitVec 3) : RoundTrip.Statement (.btest d a b c) :=
  roundTrip_of rfl (fun p s => by rw [wordOp_packA]; rfl) (fun p s => by
    rw [decodeSelector, wordOp_packA]; change decodeBar _ = _
    rw [decodeBar, selA_packA] <;> simp)
theorem RoundTrip.snapBegin (d : BitVec 5) (a : BitVec 5) (b : BitVec 5) : RoundTrip.Statement (.snapBegin d a b) :=
  roundTrip_of rfl (fun p s => by rw [wordOp_packA]; rfl) (fun p s => by
    rw [decodeSelector, wordOp_packA]; change decodeSnap _ = _
    rw [decodeSnap, selA_packA] <;> simp)
theorem RoundTrip.snapAccept (a : BitVec 5) : RoundTrip.Statement (.snapAccept a) :=
  roundTrip_of rfl (fun p s => by rw [wordOp_packA]; rfl) (fun p s => by
    rw [decodeSelector, wordOp_packA]; change decodeSnap _ = _
    rw [decodeSnap, selA_packA] <;> simp)
theorem RoundTrip.snapReject (a : BitVec 5) : RoundTrip.Statement (.snapReject a) :=
  roundTrip_of rfl (fun p s => by rw [wordOp_packA]; rfl) (fun p s => by
    rw [decodeSelector, wordOp_packA]; change decodeSnap _ = _
    rw [decodeSnap, selA_packA] <;> simp)
theorem RoundTrip.snapQuery (d : BitVec 5) (a : BitVec 5) : RoundTrip.Statement (.snapQuery d a) :=
  roundTrip_of rfl (fun p s => by rw [wordOp_packA]; rfl) (fun p s => by
    rw [decodeSelector, wordOp_packA]; change decodeSnap _ = _
    rw [decodeSnap, selA_packA] <;> simp)
theorem RoundTrip.snapPool (d : BitVec 5) (a : BitVec 5) (b : BitVec 5) : RoundTrip.Statement (.snapPool d a b) :=
  roundTrip_of rfl (fun p s => by rw [wordOp_packA]; rfl) (fun p s => by
    rw [decodeSelector, wordOp_packA]; change decodeSnap _ = _
    rw [decodeSnap, selA_packA] <;> simp)
theorem RoundTrip.wqOpen (d : BitVec 5) (a : BitVec 5) : RoundTrip.Statement (.wqOpen d a) :=
  roundTrip_of rfl (fun p s => by rw [wordOp_packA]; rfl) (fun p s => by
    rw [decodeSelector, wordOp_packA]; change decodeWalk _ = _
    rw [decodeWalk, selA_packA] <;> simp)
theorem RoundTrip.wqRun (a : BitVec 5) : RoundTrip.Statement (.wqRun a) :=
  roundTrip_of rfl (fun p s => by rw [wordOp_packA]; rfl) (fun p s => by
    rw [decodeSelector, wordOp_packA]; change decodeWalk _ = _
    rw [decodeWalk, selA_packA] <;> simp)
theorem RoundTrip.wqPoll (d : BitVec 5) (a : BitVec 5) : RoundTrip.Statement (.wqPoll d a) :=
  roundTrip_of rfl (fun p s => by rw [wordOp_packA]; rfl) (fun p s => by
    rw [decodeSelector, wordOp_packA]; change decodeWalk _ = _
    rw [decodeWalk, selA_packA] <;> simp)
theorem RoundTrip.wqResult (d : BitVec 5) (a : BitVec 5) : RoundTrip.Statement (.wqResult d a) :=
  roundTrip_of rfl (fun p s => by rw [wordOp_packA]; rfl) (fun p s => by
    rw [decodeSelector, wordOp_packA]; change decodeWalk _ = _
    rw [decodeWalk, selA_packA] <;> simp)
theorem RoundTrip.wqClose (a : BitVec 5) : RoundTrip.Statement (.wqClose a) :=
  roundTrip_of rfl (fun p s => by rw [wordOp_packA]; rfl) (fun p s => by
    rw [decodeSelector, wordOp_packA]; change decodeWalk _ = _
    rw [decodeWalk, selA_packA] <;> simp)
theorem RoundTrip.vadd (d : BitVec 5) (a : BitVec 5) (b : BitVec 5) (m : BitVec 3) : RoundTrip.Statement (.vadd d a b m) :=
  roundTrip_of rfl (fun p s => by rw [wordOp_packA]; rfl) (fun p s => by
    rw [decodeSelector, wordOp_packA]; change decodeVint _ = _
    rw [decodeVint, selA_packA] <;> simp)
theorem RoundTrip.vsub (d : BitVec 5) (a : BitVec 5) (b : BitVec 5) (m : BitVec 3) : RoundTrip.Statement (.vsub d a b m) :=
  roundTrip_of rfl (fun p s => by rw [wordOp_packA]; rfl) (fun p s => by
    rw [decodeSelector, wordOp_packA]; change decodeVint _ = _
    rw [decodeVint, selA_packA] <;> simp)
theorem RoundTrip.vmul (d : BitVec 5) (a : BitVec 5) (b : BitVec 5) (m : BitVec 3) : RoundTrip.Statement (.vmul d a b m) :=
  roundTrip_of rfl (fun p s => by rw [wordOp_packA]; rfl) (fun p s => by
    rw [decodeSelector, wordOp_packA]; change decodeVint _ = _
    rw [decodeVint, selA_packA] <;> simp)
theorem RoundTrip.vmulh (d : BitVec 5) (a : BitVec 5) (b : BitVec 5) (m : BitVec 3) : RoundTrip.Statement (.vmulh d a b m) :=
  roundTrip_of rfl (fun p s => by rw [wordOp_packA]; rfl) (fun p s => by
    rw [decodeSelector, wordOp_packA]; change decodeVint _ = _
    rw [decodeVint, selA_packA] <;> simp)
theorem RoundTrip.vmulhn (d : BitVec 5) (a : BitVec 5) (b : BitVec 5) (m : BitVec 3) : RoundTrip.Statement (.vmulhn d a b m) :=
  roundTrip_of rfl (fun p s => by rw [wordOp_packA]; rfl) (fun p s => by
    rw [decodeSelector, wordOp_packA]; change decodeVint _ = _
    rw [decodeVint, selA_packA] <;> simp)
theorem RoundTrip.vmin (d : BitVec 5) (a : BitVec 5) (b : BitVec 5) (m : BitVec 3) : RoundTrip.Statement (.vmin d a b m) :=
  roundTrip_of rfl (fun p s => by rw [wordOp_packA]; rfl) (fun p s => by
    rw [decodeSelector, wordOp_packA]; change decodeVint _ = _
    rw [decodeVint, selA_packA] <;> simp)
theorem RoundTrip.vmax (d : BitVec 5) (a : BitVec 5) (b : BitVec 5) (m : BitVec 3) : RoundTrip.Statement (.vmax d a b m) :=
  roundTrip_of rfl (fun p s => by rw [wordOp_packA]; rfl) (fun p s => by
    rw [decodeSelector, wordOp_packA]; change decodeVint _ = _
    rw [decodeVint, selA_packA] <;> simp)
theorem RoundTrip.vminn (d : BitVec 5) (a : BitVec 5) (b : BitVec 5) (m : BitVec 3) : RoundTrip.Statement (.vminn d a b m) :=
  roundTrip_of rfl (fun p s => by rw [wordOp_packA]; rfl) (fun p s => by
    rw [decodeSelector, wordOp_packA]; change decodeVint _ = _
    rw [decodeVint, selA_packA] <;> simp)
theorem RoundTrip.vmaxn (d : BitVec 5) (a : BitVec 5) (b : BitVec 5) (m : BitVec 3) : RoundTrip.Statement (.vmaxn d a b m) :=
  roundTrip_of rfl (fun p s => by rw [wordOp_packA]; rfl) (fun p s => by
    rw [decodeSelector, wordOp_packA]; change decodeVint _ = _
    rw [decodeVint, selA_packA] <;> simp)
theorem RoundTrip.vand (d : BitVec 5) (a : BitVec 5) (b : BitVec 5) (m : BitVec 3) : RoundTrip.Statement (.vand d a b m) :=
  roundTrip_of rfl (fun p s => by rw [wordOp_packA]; rfl) (fun p s => by
    rw [decodeSelector, wordOp_packA]; change decodeVint _ = _
    rw [decodeVint, selA_packA] <;> simp)
theorem RoundTrip.vor (d : BitVec 5) (a : BitVec 5) (b : BitVec 5) (m : BitVec 3) : RoundTrip.Statement (.vor d a b m) :=
  roundTrip_of rfl (fun p s => by rw [wordOp_packA]; rfl) (fun p s => by
    rw [decodeSelector, wordOp_packA]; change decodeVint _ = _
    rw [decodeVint, selA_packA] <;> simp)
theorem RoundTrip.vxor (d : BitVec 5) (a : BitVec 5) (b : BitVec 5) (m : BitVec 3) : RoundTrip.Statement (.vxor d a b m) :=
  roundTrip_of rfl (fun p s => by rw [wordOp_packA]; rfl) (fun p s => by
    rw [decodeSelector, wordOp_packA]; change decodeVint _ = _
    rw [decodeVint, selA_packA] <;> simp)
theorem RoundTrip.vandn (d : BitVec 5) (a : BitVec 5) (b : BitVec 5) (m : BitVec 3) : RoundTrip.Statement (.vandn d a b m) :=
  roundTrip_of rfl (fun p s => by rw [wordOp_packA]; rfl) (fun p s => by
    rw [decodeSelector, wordOp_packA]; change decodeVint _ = _
    rw [decodeVint, selA_packA] <;> simp)
theorem RoundTrip.vshl (d : BitVec 5) (a : BitVec 5) (b : BitVec 5) (m : BitVec 3) : RoundTrip.Statement (.vshl d a b m) :=
  roundTrip_of rfl (fun p s => by rw [wordOp_packA]; rfl) (fun p s => by
    rw [decodeSelector, wordOp_packA]; change decodeVint _ = _
    rw [decodeVint, selA_packA] <;> simp)
theorem RoundTrip.vshr (d : BitVec 5) (a : BitVec 5) (b : BitVec 5) (m : BitVec 3) : RoundTrip.Statement (.vshr d a b m) :=
  roundTrip_of rfl (fun p s => by rw [wordOp_packA]; rfl) (fun p s => by
    rw [decodeSelector, wordOp_packA]; change decodeVint _ = _
    rw [decodeVint, selA_packA] <;> simp)
theorem RoundTrip.vsra (d : BitVec 5) (a : BitVec 5) (b : BitVec 5) (m : BitVec 3) : RoundTrip.Statement (.vsra d a b m) :=
  roundTrip_of rfl (fun p s => by rw [wordOp_packA]; rfl) (fun p s => by
    rw [decodeSelector, wordOp_packA]; change decodeVint _ = _
    rw [decodeVint, selA_packA] <;> simp)
theorem RoundTrip.vintsVadd (d : BitVec 5) (a : BitVec 5) (b : BitVec 5) (m : BitVec 3) : RoundTrip.Statement (.vintsVadd d a b m) :=
  roundTrip_of rfl (fun p s => by rw [wordOp_packA]; rfl) (fun p s => by
    rw [decodeSelector, wordOp_packA]; change decodeVints _ = _
    rw [decodeVints, selA_packA] <;> simp)
theorem RoundTrip.vintsVsub (d : BitVec 5) (a : BitVec 5) (b : BitVec 5) (m : BitVec 3) : RoundTrip.Statement (.vintsVsub d a b m) :=
  roundTrip_of rfl (fun p s => by rw [wordOp_packA]; rfl) (fun p s => by
    rw [decodeSelector, wordOp_packA]; change decodeVints _ = _
    rw [decodeVints, selA_packA] <;> simp)
theorem RoundTrip.vintsVmul (d : BitVec 5) (a : BitVec 5) (b : BitVec 5) (m : BitVec 3) : RoundTrip.Statement (.vintsVmul d a b m) :=
  roundTrip_of rfl (fun p s => by rw [wordOp_packA]; rfl) (fun p s => by
    rw [decodeSelector, wordOp_packA]; change decodeVints _ = _
    rw [decodeVints, selA_packA] <;> simp)
theorem RoundTrip.vintsVmulh (d : BitVec 5) (a : BitVec 5) (b : BitVec 5) (m : BitVec 3) : RoundTrip.Statement (.vintsVmulh d a b m) :=
  roundTrip_of rfl (fun p s => by rw [wordOp_packA]; rfl) (fun p s => by
    rw [decodeSelector, wordOp_packA]; change decodeVints _ = _
    rw [decodeVints, selA_packA] <;> simp)
theorem RoundTrip.vintsVmulhn (d : BitVec 5) (a : BitVec 5) (b : BitVec 5) (m : BitVec 3) : RoundTrip.Statement (.vintsVmulhn d a b m) :=
  roundTrip_of rfl (fun p s => by rw [wordOp_packA]; rfl) (fun p s => by
    rw [decodeSelector, wordOp_packA]; change decodeVints _ = _
    rw [decodeVints, selA_packA] <;> simp)
theorem RoundTrip.vintsVmin (d : BitVec 5) (a : BitVec 5) (b : BitVec 5) (m : BitVec 3) : RoundTrip.Statement (.vintsVmin d a b m) :=
  roundTrip_of rfl (fun p s => by rw [wordOp_packA]; rfl) (fun p s => by
    rw [decodeSelector, wordOp_packA]; change decodeVints _ = _
    rw [decodeVints, selA_packA] <;> simp)
theorem RoundTrip.vintsVmax (d : BitVec 5) (a : BitVec 5) (b : BitVec 5) (m : BitVec 3) : RoundTrip.Statement (.vintsVmax d a b m) :=
  roundTrip_of rfl (fun p s => by rw [wordOp_packA]; rfl) (fun p s => by
    rw [decodeSelector, wordOp_packA]; change decodeVints _ = _
    rw [decodeVints, selA_packA] <;> simp)
theorem RoundTrip.vintsVminn (d : BitVec 5) (a : BitVec 5) (b : BitVec 5) (m : BitVec 3) : RoundTrip.Statement (.vintsVminn d a b m) :=
  roundTrip_of rfl (fun p s => by rw [wordOp_packA]; rfl) (fun p s => by
    rw [decodeSelector, wordOp_packA]; change decodeVints _ = _
    rw [decodeVints, selA_packA] <;> simp)
theorem RoundTrip.vintsVmaxn (d : BitVec 5) (a : BitVec 5) (b : BitVec 5) (m : BitVec 3) : RoundTrip.Statement (.vintsVmaxn d a b m) :=
  roundTrip_of rfl (fun p s => by rw [wordOp_packA]; rfl) (fun p s => by
    rw [decodeSelector, wordOp_packA]; change decodeVints _ = _
    rw [decodeVints, selA_packA] <;> simp)
theorem RoundTrip.vintsVand (d : BitVec 5) (a : BitVec 5) (b : BitVec 5) (m : BitVec 3) : RoundTrip.Statement (.vintsVand d a b m) :=
  roundTrip_of rfl (fun p s => by rw [wordOp_packA]; rfl) (fun p s => by
    rw [decodeSelector, wordOp_packA]; change decodeVints _ = _
    rw [decodeVints, selA_packA] <;> simp)
theorem RoundTrip.vintsVor (d : BitVec 5) (a : BitVec 5) (b : BitVec 5) (m : BitVec 3) : RoundTrip.Statement (.vintsVor d a b m) :=
  roundTrip_of rfl (fun p s => by rw [wordOp_packA]; rfl) (fun p s => by
    rw [decodeSelector, wordOp_packA]; change decodeVints _ = _
    rw [decodeVints, selA_packA] <;> simp)
theorem RoundTrip.vintsVxor (d : BitVec 5) (a : BitVec 5) (b : BitVec 5) (m : BitVec 3) : RoundTrip.Statement (.vintsVxor d a b m) :=
  roundTrip_of rfl (fun p s => by rw [wordOp_packA]; rfl) (fun p s => by
    rw [decodeSelector, wordOp_packA]; change decodeVints _ = _
    rw [decodeVints, selA_packA] <;> simp)
theorem RoundTrip.vintsVandn (d : BitVec 5) (a : BitVec 5) (b : BitVec 5) (m : BitVec 3) : RoundTrip.Statement (.vintsVandn d a b m) :=
  roundTrip_of rfl (fun p s => by rw [wordOp_packA]; rfl) (fun p s => by
    rw [decodeSelector, wordOp_packA]; change decodeVints _ = _
    rw [decodeVints, selA_packA] <;> simp)
theorem RoundTrip.vintsVshl (d : BitVec 5) (a : BitVec 5) (b : BitVec 5) (m : BitVec 3) : RoundTrip.Statement (.vintsVshl d a b m) :=
  roundTrip_of rfl (fun p s => by rw [wordOp_packA]; rfl) (fun p s => by
    rw [decodeSelector, wordOp_packA]; change decodeVints _ = _
    rw [decodeVints, selA_packA] <;> simp)
theorem RoundTrip.vintsVshr (d : BitVec 5) (a : BitVec 5) (b : BitVec 5) (m : BitVec 3) : RoundTrip.Statement (.vintsVshr d a b m) :=
  roundTrip_of rfl (fun p s => by rw [wordOp_packA]; rfl) (fun p s => by
    rw [decodeSelector, wordOp_packA]; change decodeVints _ = _
    rw [decodeVints, selA_packA] <;> simp)
theorem RoundTrip.vintsVsra (d : BitVec 5) (a : BitVec 5) (b : BitVec 5) (m : BitVec 3) : RoundTrip.Statement (.vintsVsra d a b m) :=
  roundTrip_of rfl (fun p s => by rw [wordOp_packA]; rfl) (fun p s => by
    rw [decodeSelector, wordOp_packA]; change decodeVints _ = _
    rw [decodeVints, selA_packA] <;> simp)
theorem RoundTrip.vfadd (d : BitVec 5) (a : BitVec 5) (b : BitVec 5) (m : BitVec 3) : RoundTrip.Statement (.vfadd d a b m) :=
  roundTrip_of rfl (fun p s => by rw [wordOp_packA]; rfl) (fun p s => by
    rw [decodeSelector, wordOp_packA]; change decodeVflt _ = _
    rw [decodeVflt, selA_packA] <;> simp)
theorem RoundTrip.vfsub (d : BitVec 5) (a : BitVec 5) (b : BitVec 5) (m : BitVec 3) : RoundTrip.Statement (.vfsub d a b m) :=
  roundTrip_of rfl (fun p s => by rw [wordOp_packA]; rfl) (fun p s => by
    rw [decodeSelector, wordOp_packA]; change decodeVflt _ = _
    rw [decodeVflt, selA_packA] <;> simp)
theorem RoundTrip.vfmul (d : BitVec 5) (a : BitVec 5) (b : BitVec 5) (m : BitVec 3) : RoundTrip.Statement (.vfmul d a b m) :=
  roundTrip_of rfl (fun p s => by rw [wordOp_packA]; rfl) (fun p s => by
    rw [decodeSelector, wordOp_packA]; change decodeVflt _ = _
    rw [decodeVflt, selA_packA] <;> simp)
theorem RoundTrip.vfdiv (d : BitVec 5) (a : BitVec 5) (b : BitVec 5) (m : BitVec 3) : RoundTrip.Statement (.vfdiv d a b m) :=
  roundTrip_of rfl (fun p s => by rw [wordOp_packA]; rfl) (fun p s => by
    rw [decodeSelector, wordOp_packA]; change decodeVflt _ = _
    rw [decodeVflt, selA_packA] <;> simp)
theorem RoundTrip.vfmin (d : BitVec 5) (a : BitVec 5) (b : BitVec 5) (m : BitVec 3) : RoundTrip.Statement (.vfmin d a b m) :=
  roundTrip_of rfl (fun p s => by rw [wordOp_packA]; rfl) (fun p s => by
    rw [decodeSelector, wordOp_packA]; change decodeVflt _ = _
    rw [decodeVflt, selA_packA] <;> simp)
theorem RoundTrip.vfmax (d : BitVec 5) (a : BitVec 5) (b : BitVec 5) (m : BitVec 3) : RoundTrip.Statement (.vfmax d a b m) :=
  roundTrip_of rfl (fun p s => by rw [wordOp_packA]; rfl) (fun p s => by
    rw [decodeSelector, wordOp_packA]; change decodeVflt _ = _
    rw [decodeVflt, selA_packA] <;> simp)
theorem RoundTrip.vfsqrt (d : BitVec 5) (a : BitVec 5) (m : BitVec 3) : RoundTrip.Statement (.vfsqrt d a m) :=
  roundTrip_of rfl (fun p s => by rw [wordOp_packA]; rfl) (fun p s => by
    rw [decodeSelector, wordOp_packA]; change decodeVflt _ = _
    rw [decodeVflt, selA_packA] <;> simp)
theorem RoundTrip.vfabs (d : BitVec 5) (a : BitVec 5) (m : BitVec 3) : RoundTrip.Statement (.vfabs d a m) :=
  roundTrip_of rfl (fun p s => by rw [wordOp_packA]; rfl) (fun p s => by
    rw [decodeSelector, wordOp_packA]; change decodeVflt _ = _
    rw [decodeVflt, selA_packA] <;> simp)
theorem RoundTrip.vfneg (d : BitVec 5) (a : BitVec 5) (m : BitVec 3) : RoundTrip.Statement (.vfneg d a m) :=
  roundTrip_of rfl (fun p s => by rw [wordOp_packA]; rfl) (fun p s => by
    rw [decodeSelector, wordOp_packA]; change decodeVflt _ = _
    rw [decodeVflt, selA_packA] <;> simp)
theorem RoundTrip.vadds (d : BitVec 5) (a : BitVec 5) (b : BitVec 5) (m : BitVec 3) : RoundTrip.Statement (.vadds d a b m) :=
  roundTrip_of rfl (fun p s => by rw [wordOp_packA]; rfl) (fun p s => by
    rw [decodeSelector, wordOp_packA]; change decodeVflt _ = _
    rw [decodeVflt, selA_packA] <;> simp)
theorem RoundTrip.vsubs (d : BitVec 5) (a : BitVec 5) (b : BitVec 5) (m : BitVec 3) : RoundTrip.Statement (.vsubs d a b m) :=
  roundTrip_of rfl (fun p s => by rw [wordOp_packA]; rfl) (fun p s => by
    rw [decodeSelector, wordOp_packA]; change decodeVflt _ = _
    rw [decodeVflt, selA_packA] <;> simp)
theorem RoundTrip.vfltsVfadd (d : BitVec 5) (a : BitVec 5) (b : BitVec 5) (m : BitVec 3) : RoundTrip.Statement (.vfltsVfadd d a b m) :=
  roundTrip_of rfl (fun p s => by rw [wordOp_packA]; rfl) (fun p s => by
    rw [decodeSelector, wordOp_packA]; change decodeVflts _ = _
    rw [decodeVflts, selA_packA] <;> simp)
theorem RoundTrip.vfltsVfsub (d : BitVec 5) (a : BitVec 5) (b : BitVec 5) (m : BitVec 3) : RoundTrip.Statement (.vfltsVfsub d a b m) :=
  roundTrip_of rfl (fun p s => by rw [wordOp_packA]; rfl) (fun p s => by
    rw [decodeSelector, wordOp_packA]; change decodeVflts _ = _
    rw [decodeVflts, selA_packA] <;> simp)
theorem RoundTrip.vfltsVfmul (d : BitVec 5) (a : BitVec 5) (b : BitVec 5) (m : BitVec 3) : RoundTrip.Statement (.vfltsVfmul d a b m) :=
  roundTrip_of rfl (fun p s => by rw [wordOp_packA]; rfl) (fun p s => by
    rw [decodeSelector, wordOp_packA]; change decodeVflts _ = _
    rw [decodeVflts, selA_packA] <;> simp)
theorem RoundTrip.vfltsVfdiv (d : BitVec 5) (a : BitVec 5) (b : BitVec 5) (m : BitVec 3) : RoundTrip.Statement (.vfltsVfdiv d a b m) :=
  roundTrip_of rfl (fun p s => by rw [wordOp_packA]; rfl) (fun p s => by
    rw [decodeSelector, wordOp_packA]; change decodeVflts _ = _
    rw [decodeVflts, selA_packA] <;> simp)
theorem RoundTrip.vfltsVfmin (d : BitVec 5) (a : BitVec 5) (b : BitVec 5) (m : BitVec 3) : RoundTrip.Statement (.vfltsVfmin d a b m) :=
  roundTrip_of rfl (fun p s => by rw [wordOp_packA]; rfl) (fun p s => by
    rw [decodeSelector, wordOp_packA]; change decodeVflts _ = _
    rw [decodeVflts, selA_packA] <;> simp)
theorem RoundTrip.vfltsVfmax (d : BitVec 5) (a : BitVec 5) (b : BitVec 5) (m : BitVec 3) : RoundTrip.Statement (.vfltsVfmax d a b m) :=
  roundTrip_of rfl (fun p s => by rw [wordOp_packA]; rfl) (fun p s => by
    rw [decodeSelector, wordOp_packA]; change decodeVflts _ = _
    rw [decodeVflts, selA_packA] <;> simp)
theorem RoundTrip.vfma (d : BitVec 5) (a : BitVec 5) (b : BitVec 5) (m : BitVec 3) : RoundTrip.Statement (.vfma d a b m) :=
  roundTrip_of rfl (fun p s => by rw [wordOp_packA]; rfl) (fun p s => by
    rw [decodeSelector, wordOp_packA]; change decodeVfma _ = _
    rw [decodeVfma, selA_packA] <;> simp)
theorem RoundTrip.vfms (d : BitVec 5) (a : BitVec 5) (b : BitVec 5) (m : BitVec 3) : RoundTrip.Statement (.vfms d a b m) :=
  roundTrip_of rfl (fun p s => by rw [wordOp_packA]; rfl) (fun p s => by
    rw [decodeSelector, wordOp_packA]; change decodeVfma _ = _
    rw [decodeVfma, selA_packA] <;> simp)
theorem RoundTrip.vfnma (d : BitVec 5) (a : BitVec 5) (b : BitVec 5) (m : BitVec 3) : RoundTrip.Statement (.vfnma d a b m) :=
  roundTrip_of rfl (fun p s => by rw [wordOp_packA]; rfl) (fun p s => by
    rw [decodeSelector, wordOp_packA]; change decodeVfma _ = _
    rw [decodeVfma, selA_packA] <;> simp)
theorem RoundTrip.vfnms (d : BitVec 5) (a : BitVec 5) (b : BitVec 5) (m : BitVec 3) : RoundTrip.Statement (.vfnms d a b m) :=
  roundTrip_of rfl (fun p s => by rw [wordOp_packA]; rfl) (fun p s => by
    rw [decodeSelector, wordOp_packA]; change decodeVfma _ = _
    rw [decodeVfma, selA_packA] <;> simp)
theorem RoundTrip.vmac (d : BitVec 5) (a : BitVec 5) (b : BitVec 5) (m : BitVec 3) : RoundTrip.Statement (.vmac d a b m) :=
  roundTrip_of rfl (fun p s => by rw [wordOp_packA]; rfl) (fun p s => by
    rw [decodeSelector, wordOp_packA]; change decodeVfma _ = _
    rw [decodeVfma, selA_packA] <;> simp)
theorem RoundTrip.vdot4 (d : BitVec 5) (a : BitVec 5) (b : BitVec 5) (m : BitVec 3) : RoundTrip.Statement (.vdot4 d a b m) :=
  roundTrip_of rfl (fun p s => by rw [wordOp_packA]; rfl) (fun p s => by
    rw [decodeSelector, wordOp_packA]; change decodeVfma _ = _
    rw [decodeVfma, selA_packA] <;> simp)
theorem RoundTrip.vdot2 (d : BitVec 5) (a : BitVec 5) (b : BitVec 5) (m : BitVec 3) : RoundTrip.Statement (.vdot2 d a b m) :=
  roundTrip_of rfl (fun p s => by rw [wordOp_packA]; rfl) (fun p s => by
    rw [decodeSelector, wordOp_packA]; change decodeVfma _ = _
    rw [decodeVfma, selA_packA] <;> simp)
theorem RoundTrip.vfshl (d : BitVec 5) (a : BitVec 5) (b : BitVec 5) (k : BitVec 6) : RoundTrip.Statement (.vfshl d a b k) :=
  roundTrip_of rfl (fun p s => by rw [wordOp_packK]; rfl) (fun p s => by
    rw [decodeSelector, wordOp_packK]; change decodeVfun _ = _
    rw [decodeVfun, selK_packK] <;> simp)
theorem RoundTrip.vfshr (d : BitVec 5) (a : BitVec 5) (b : BitVec 5) (k : BitVec 6) : RoundTrip.Statement (.vfshr d a b k) :=
  roundTrip_of rfl (fun p s => by rw [wordOp_packK]; rfl) (fun p s => by
    rw [decodeSelector, wordOp_packK]; change decodeVfun _ = _
    rw [decodeVfun, selK_packK] <;> simp)
theorem RoundTrip.log3Low (d : BitVec 5) (a : BitVec 5) (b : BitVec 5) (t : BitVec 7) : RoundTrip.Statement (.log3Low d a b t) :=
  roundTrip_of rfl (fun p s => by rw [wordOp_packL]; rfl) (fun p s => by
    rw [decodeSelector, wordOp_packL] <;> simp)
theorem RoundTrip.log3High (d : BitVec 5) (a : BitVec 5) (b : BitVec 5) (t : BitVec 7) : RoundTrip.Statement (.log3High d a b t) :=
  roundTrip_of rfl (fun p s => by rw [wordOp_packL]; rfl) (fun p s => by
    rw [decodeSelector, wordOp_packL] <;> simp)
theorem RoundTrip.vslup (d : BitVec 5) (a : BitVec 5) (b : BitVec 5) (m : BitVec 3) : RoundTrip.Statement (.vslup d a b m) :=
  roundTrip_of rfl (fun p s => by rw [wordOp_packA]; rfl) (fun p s => by
    rw [decodeSelector, wordOp_packA]; change decodeVperm _ = _
    rw [decodeVperm, selA_packA] <;> simp)
theorem RoundTrip.vsldn (d : BitVec 5) (a : BitVec 5) (b : BitVec 5) (m : BitVec 3) : RoundTrip.Statement (.vsldn d a b m) :=
  roundTrip_of rfl (fun p s => by rw [wordOp_packA]; rfl) (fun p s => by
    rw [decodeSelector, wordOp_packA]; change decodeVperm _ = _
    rw [decodeVperm, selA_packA] <;> simp)
theorem RoundTrip.vgath (d : BitVec 5) (a : BitVec 5) (b : BitVec 5) (m : BitVec 3) : RoundTrip.Statement (.vgath d a b m) :=
  roundTrip_of rfl (fun p s => by rw [wordOp_packA]; rfl) (fun p s => by
    rw [decodeSelector, wordOp_packA]; change decodeVperm _ = _
    rw [decodeVperm, selA_packA] <;> simp)
theorem RoundTrip.vpush (d : BitVec 5) (a : BitVec 5) (b : BitVec 5) (m : BitVec 3) : RoundTrip.Statement (.vpush d a b m) :=
  roundTrip_of rfl (fun p s => by rw [wordOp_packA]; rfl) (fun p s => by
    rw [decodeSelector, wordOp_packA]; change decodeVperm _ = _
    rw [decodeVperm, selA_packA] <;> simp)
theorem RoundTrip.vcmpr (d : BitVec 5) (a : BitVec 5) (m : BitVec 3) : RoundTrip.Statement (.vcmpr d a m) :=
  roundTrip_of rfl (fun p s => by rw [wordOp_packA]; rfl) (fun p s => by
    rw [decodeSelector, wordOp_packA]; change decodeVperm _ = _
    rw [decodeVperm, selA_packA] <;> simp)
theorem RoundTrip.vexpd (d : BitVec 5) (a : BitVec 5) (m : BitVec 3) : RoundTrip.Statement (.vexpd d a m) :=
  roundTrip_of rfl (fun p s => by rw [wordOp_packA]; rfl) (fun p s => by
    rw [decodeSelector, wordOp_packA]; change decodeVperm _ = _
    rw [decodeVperm, selA_packA] <;> simp)
theorem RoundTrip.vbcst (d : BitVec 5) (b : BitVec 5) (m : BitVec 3) : RoundTrip.Statement (.vbcst d b m) :=
  roundTrip_of rfl (fun p s => by rw [wordOp_packA]; rfl) (fun p s => by
    rw [decodeSelector, wordOp_packA]; change decodeVperm _ = _
    rw [decodeVperm, selA_packA] <;> simp)
theorem RoundTrip.vext (d : BitVec 5) (a : BitVec 5) (b : BitVec 5) : RoundTrip.Statement (.vext d a b) :=
  roundTrip_of rfl (fun p s => by rw [wordOp_packA]; rfl) (fun p s => by
    rw [decodeSelector, wordOp_packA]; change decodeVperm _ = _
    rw [decodeVperm, selA_packA] <;> simp)
theorem RoundTrip.vid (d : BitVec 5) (m : BitVec 3) : RoundTrip.Statement (.vid d m) :=
  roundTrip_of rfl (fun p s => by rw [wordOp_packA]; rfl) (fun p s => by
    rw [decodeSelector, wordOp_packA]; change decodeVperm _ = _
    rw [decodeVperm, selA_packA] <;> simp)
theorem RoundTrip.viota (d : BitVec 5) (a : BitVec 5) (m : BitVec 3) : RoundTrip.Statement (.viota d a m) :=
  roundTrip_of rfl (fun p s => by rw [wordOp_packA]; rfl) (fun p s => by
    rw [decodeSelector, wordOp_packA]; change decodeVperm _ = _
    rw [decodeVperm, selA_packA] <;> simp)
theorem RoundTrip.vrsum (d : BitVec 5) (a : BitVec 5) (m : BitVec 3) : RoundTrip.Statement (.vrsum d a m) :=
  roundTrip_of rfl (fun p s => by rw [wordOp_packA]; rfl) (fun p s => by
    rw [decodeSelector, wordOp_packA]; change decodeVred _ = _
    rw [decodeVred, selA_packA] <;> simp)
theorem RoundTrip.vrmax (d : BitVec 5) (a : BitVec 5) (m : BitVec 3) : RoundTrip.Statement (.vrmax d a m) :=
  roundTrip_of rfl (fun p s => by rw [wordOp_packA]; rfl) (fun p s => by
    rw [decodeSelector, wordOp_packA]; change decodeVred _ = _
    rw [decodeVred, selA_packA] <;> simp)
theorem RoundTrip.vrmin (d : BitVec 5) (a : BitVec 5) (m : BitVec 3) : RoundTrip.Statement (.vrmin d a m) :=
  roundTrip_of rfl (fun p s => by rw [wordOp_packA]; rfl) (fun p s => by
    rw [decodeSelector, wordOp_packA]; change decodeVred _ = _
    rw [decodeVred, selA_packA] <;> simp)
theorem RoundTrip.vrand (d : BitVec 5) (a : BitVec 5) (m : BitVec 3) : RoundTrip.Statement (.vrand d a m) :=
  roundTrip_of rfl (fun p s => by rw [wordOp_packA]; rfl) (fun p s => by
    rw [decodeSelector, wordOp_packA]; change decodeVred _ = _
    rw [decodeVred, selA_packA] <;> simp)
theorem RoundTrip.vror (d : BitVec 5) (a : BitVec 5) (m : BitVec 3) : RoundTrip.Statement (.vror d a m) :=
  roundTrip_of rfl (fun p s => by rw [wordOp_packA]; rfl) (fun p s => by
    rw [decodeSelector, wordOp_packA]; change decodeVred _ = _
    rw [decodeVred, selA_packA] <;> simp)
theorem RoundTrip.vrxor (d : BitVec 5) (a : BitVec 5) (m : BitVec 3) : RoundTrip.Statement (.vrxor d a m) :=
  roundTrip_of rfl (fun p s => by rw [wordOp_packA]; rfl) (fun p s => by
    rw [decodeSelector, wordOp_packA]; change decodeVred _ = _
    rw [decodeVred, selA_packA] <;> simp)
theorem RoundTrip.vfrsum (d : BitVec 5) (a : BitVec 5) (m : BitVec 3) : RoundTrip.Statement (.vfrsum d a m) :=
  roundTrip_of rfl (fun p s => by rw [wordOp_packA]; rfl) (fun p s => by
    rw [decodeSelector, wordOp_packA]; change decodeVred _ = _
    rw [decodeVred, selA_packA] <;> simp)
theorem RoundTrip.vfrmax (d : BitVec 5) (a : BitVec 5) (m : BitVec 3) : RoundTrip.Statement (.vfrmax d a m) :=
  roundTrip_of rfl (fun p s => by rw [wordOp_packA]; rfl) (fun p s => by
    rw [decodeSelector, wordOp_packA]; change decodeVred _ = _
    rw [decodeVred, selA_packA] <;> simp)
theorem RoundTrip.vfrmin (d : BitVec 5) (a : BitVec 5) (m : BitVec 3) : RoundTrip.Statement (.vfrmin d a m) :=
  roundTrip_of rfl (fun p s => by rw [wordOp_packA]; rfl) (fun p s => by
    rw [decodeSelector, wordOp_packA]; change decodeVred _ = _
    rw [decodeVred, selA_packA] <;> simp)
theorem RoundTrip.cvtN (d : BitVec 5) (a : BitVec 5) (k : BitVec 1) (m : BitVec 3) : RoundTrip.Statement (.cvtN d a k m) :=
  roundTrip_of rfl (fun p s => by rw [wordOp_packA]; rfl) (fun p s => by
    rw [decodeSelector, wordOp_packA]; change decodeVcvt _ = _
    rw [decodeVcvt, selA_packA] <;> simp)
theorem RoundTrip.cvtW (d : BitVec 5) (a : BitVec 5) (k : BitVec 1) (m : BitVec 3) : RoundTrip.Statement (.cvtW d a k m) :=
  roundTrip_of rfl (fun p s => by rw [wordOp_packA]; rfl) (fun p s => by
    rw [decodeSelector, wordOp_packA]; change decodeVcvt _ = _
    rw [decodeVcvt, selA_packA] <;> simp)
theorem RoundTrip.cvtFi (d : BitVec 5) (a : BitVec 5) (k : BitVec 1) (m : BitVec 3) : RoundTrip.Statement (.cvtFi d a k m) :=
  roundTrip_of rfl (fun p s => by rw [wordOp_packA]; rfl) (fun p s => by
    rw [decodeSelector, wordOp_packA]; change decodeVcvt _ = _
    rw [decodeVcvt, selA_packA] <;> simp)
theorem RoundTrip.cvtIf (d : BitVec 5) (a : BitVec 5) (k : BitVec 1) (m : BitVec 3) : RoundTrip.Statement (.cvtIf d a k m) :=
  roundTrip_of rfl (fun p s => by rw [wordOp_packA]; rfl) (fun p s => by
    rw [decodeSelector, wordOp_packA]; change decodeVcvt _ = _
    rw [decodeVcvt, selA_packA] <;> simp)
theorem RoundTrip.cvtF4 (d : BitVec 5) (a : BitVec 5) (m : BitVec 3) : RoundTrip.Statement (.cvtF4 d a m) :=
  roundTrip_of rfl (fun p s => by rw [wordOp_packA]; rfl) (fun p s => by
    rw [decodeSelector, wordOp_packA]; change decodeVcvt _ = _
    rw [decodeVcvt, selA_packA] <;> simp)
theorem RoundTrip.cvtQ (d : BitVec 5) (a : BitVec 5) (b : BitVec 5) (m : BitVec 3) : RoundTrip.Statement (.cvtQ d a b m) :=
  roundTrip_of rfl (fun p s => by rw [wordOp_packA]; rfl) (fun p s => by
    rw [decodeSelector, wordOp_packA]; change decodeVcvt _ = _
    rw [decodeVcvt, selA_packA] <;> simp)
theorem RoundTrip.vexp2 (d : BitVec 5) (a : BitVec 5) (m : BitVec 3) : RoundTrip.Statement (.vexp2 d a m) :=
  roundTrip_of rfl (fun p s => by rw [wordOp_packA]; rfl) (fun p s => by
    rw [decodeSelector, wordOp_packA]; change decodeVsfu _ = _
    rw [decodeVsfu, selA_packA] <;> simp)
theorem RoundTrip.vlog2 (d : BitVec 5) (a : BitVec 5) (m : BitVec 3) : RoundTrip.Statement (.vlog2 d a m) :=
  roundTrip_of rfl (fun p s => by rw [wordOp_packA]; rfl) (fun p s => by
    rw [decodeSelector, wordOp_packA]; change decodeVsfu _ = _
    rw [decodeVsfu, selA_packA] <;> simp)
theorem RoundTrip.vrcp (d : BitVec 5) (a : BitVec 5) (m : BitVec 3) : RoundTrip.Statement (.vrcp d a m) :=
  roundTrip_of rfl (fun p s => by rw [wordOp_packA]; rfl) (fun p s => by
    rw [decodeSelector, wordOp_packA]; change decodeVsfu _ = _
    rw [decodeVsfu, selA_packA] <;> simp)
theorem RoundTrip.vrsq (d : BitVec 5) (a : BitVec 5) (m : BitVec 3) : RoundTrip.Statement (.vrsq d a m) :=
  roundTrip_of rfl (fun p s => by rw [wordOp_packA]; rfl) (fun p s => by
    rw [decodeSelector, wordOp_packA]; change decodeVsfu _ = _
    rw [decodeVsfu, selA_packA] <;> simp)
theorem RoundTrip.vtanh (d : BitVec 5) (a : BitVec 5) (m : BitVec 3) : RoundTrip.Statement (.vtanh d a m) :=
  roundTrip_of rfl (fun p s => by rw [wordOp_packA]; rfl) (fun p s => by
    rw [decodeSelector, wordOp_packA]; change decodeVsfu _ = _
    rw [decodeVsfu, selA_packA] <;> simp)
theorem RoundTrip.vsmax (d : BitVec 5) (a : BitVec 5) (b : BitVec 5) (m : BitVec 3) : RoundTrip.Statement (.vsmax d a b m) :=
  roundTrip_of rfl (fun p s => by rw [wordOp_packA]; rfl) (fun p s => by
    rw [decodeSelector, wordOp_packA]; change decodeVsfu _ = _
    rw [decodeVsfu, selA_packA] <;> simp)
theorem RoundTrip.vceq (d : BitVec 5) (a : BitVec 5) (b : BitVec 5) (m : BitVec 3) : RoundTrip.Statement (.vceq d a b m) :=
  roundTrip_of rfl (fun p s => by rw [wordOp_packA]; rfl) (fun p s => by
    rw [decodeSelector, wordOp_packA]; change decodeVcmp _ = _
    rw [decodeVcmp, selA_packA] <;> simp)
theorem RoundTrip.vcne (d : BitVec 5) (a : BitVec 5) (b : BitVec 5) (m : BitVec 3) : RoundTrip.Statement (.vcne d a b m) :=
  roundTrip_of rfl (fun p s => by rw [wordOp_packA]; rfl) (fun p s => by
    rw [decodeSelector, wordOp_packA]; change decodeVcmp _ = _
    rw [decodeVcmp, selA_packA] <;> simp)
theorem RoundTrip.vclt (d : BitVec 5) (a : BitVec 5) (b : BitVec 5) (m : BitVec 3) : RoundTrip.Statement (.vclt d a b m) :=
  roundTrip_of rfl (fun p s => by rw [wordOp_packA]; rfl) (fun p s => by
    rw [decodeSelector, wordOp_packA]; change decodeVcmp _ = _
    rw [decodeVcmp, selA_packA] <;> simp)
theorem RoundTrip.vcle (d : BitVec 5) (a : BitVec 5) (b : BitVec 5) (m : BitVec 3) : RoundTrip.Statement (.vcle d a b m) :=
  roundTrip_of rfl (fun p s => by rw [wordOp_packA]; rfl) (fun p s => by
    rw [decodeSelector, wordOp_packA]; change decodeVcmp _ = _
    rw [decodeVcmp, selA_packA] <;> simp)
theorem RoundTrip.vcltn (d : BitVec 5) (a : BitVec 5) (b : BitVec 5) (m : BitVec 3) : RoundTrip.Statement (.vcltn d a b m) :=
  roundTrip_of rfl (fun p s => by rw [wordOp_packA]; rfl) (fun p s => by
    rw [decodeSelector, wordOp_packA]; change decodeVcmp _ = _
    rw [decodeVcmp, selA_packA] <;> simp)
theorem RoundTrip.vclen (d : BitVec 5) (a : BitVec 5) (b : BitVec 5) (m : BitVec 3) : RoundTrip.Statement (.vclen d a b m) :=
  roundTrip_of rfl (fun p s => by rw [wordOp_packA]; rfl) (fun p s => by
    rw [decodeSelector, wordOp_packA]; change decodeVcmp _ = _
    rw [decodeVcmp, selA_packA] <;> simp)
theorem RoundTrip.vfceq (d : BitVec 5) (a : BitVec 5) (b : BitVec 5) (m : BitVec 3) : RoundTrip.Statement (.vfceq d a b m) :=
  roundTrip_of rfl (fun p s => by rw [wordOp_packA]; rfl) (fun p s => by
    rw [decodeSelector, wordOp_packA]; change decodeVcmp _ = _
    rw [decodeVcmp, selA_packA] <;> simp)
theorem RoundTrip.vfclt (d : BitVec 5) (a : BitVec 5) (b : BitVec 5) (m : BitVec 3) : RoundTrip.Statement (.vfclt d a b m) :=
  roundTrip_of rfl (fun p s => by rw [wordOp_packA]; rfl) (fun p s => by
    rw [decodeSelector, wordOp_packA]; change decodeVcmp _ = _
    rw [decodeVcmp, selA_packA] <;> simp)
theorem RoundTrip.vfcle (d : BitVec 5) (a : BitVec 5) (b : BitVec 5) (m : BitVec 3) : RoundTrip.Statement (.vfcle d a b m) :=
  roundTrip_of rfl (fun p s => by rw [wordOp_packA]; rfl) (fun p s => by
    rw [decodeSelector, wordOp_packA]; change decodeVcmp _ = _
    rw [decodeVcmp, selA_packA] <;> simp)
theorem RoundTrip.vfcun (d : BitVec 5) (a : BitVec 5) (b : BitVec 5) (m : BitVec 3) : RoundTrip.Statement (.vfcun d a b m) :=
  roundTrip_of rfl (fun p s => by rw [wordOp_packA]; rfl) (fun p s => by
    rw [decodeSelector, wordOp_packA]; change decodeVcmp _ = _
    rw [decodeVcmp, selA_packA] <;> simp)
theorem RoundTrip.vcmpsVceq (d : BitVec 5) (a : BitVec 5) (b : BitVec 5) (m : BitVec 3) : RoundTrip.Statement (.vcmpsVceq d a b m) :=
  roundTrip_of rfl (fun p s => by rw [wordOp_packA]; rfl) (fun p s => by
    rw [decodeSelector, wordOp_packA]; change decodeVcmps _ = _
    rw [decodeVcmps, selA_packA] <;> simp)
theorem RoundTrip.vcmpsVcne (d : BitVec 5) (a : BitVec 5) (b : BitVec 5) (m : BitVec 3) : RoundTrip.Statement (.vcmpsVcne d a b m) :=
  roundTrip_of rfl (fun p s => by rw [wordOp_packA]; rfl) (fun p s => by
    rw [decodeSelector, wordOp_packA]; change decodeVcmps _ = _
    rw [decodeVcmps, selA_packA] <;> simp)
theorem RoundTrip.vcmpsVclt (d : BitVec 5) (a : BitVec 5) (b : BitVec 5) (m : BitVec 3) : RoundTrip.Statement (.vcmpsVclt d a b m) :=
  roundTrip_of rfl (fun p s => by rw [wordOp_packA]; rfl) (fun p s => by
    rw [decodeSelector, wordOp_packA]; change decodeVcmps _ = _
    rw [decodeVcmps, selA_packA] <;> simp)
theorem RoundTrip.vcmpsVcle (d : BitVec 5) (a : BitVec 5) (b : BitVec 5) (m : BitVec 3) : RoundTrip.Statement (.vcmpsVcle d a b m) :=
  roundTrip_of rfl (fun p s => by rw [wordOp_packA]; rfl) (fun p s => by
    rw [decodeSelector, wordOp_packA]; change decodeVcmps _ = _
    rw [decodeVcmps, selA_packA] <;> simp)
theorem RoundTrip.vcmpsVcltn (d : BitVec 5) (a : BitVec 5) (b : BitVec 5) (m : BitVec 3) : RoundTrip.Statement (.vcmpsVcltn d a b m) :=
  roundTrip_of rfl (fun p s => by rw [wordOp_packA]; rfl) (fun p s => by
    rw [decodeSelector, wordOp_packA]; change decodeVcmps _ = _
    rw [decodeVcmps, selA_packA] <;> simp)
theorem RoundTrip.vcmpsVclen (d : BitVec 5) (a : BitVec 5) (b : BitVec 5) (m : BitVec 3) : RoundTrip.Statement (.vcmpsVclen d a b m) :=
  roundTrip_of rfl (fun p s => by rw [wordOp_packA]; rfl) (fun p s => by
    rw [decodeSelector, wordOp_packA]; change decodeVcmps _ = _
    rw [decodeVcmps, selA_packA] <;> simp)
theorem RoundTrip.vcmpsVfceq (d : BitVec 5) (a : BitVec 5) (b : BitVec 5) (m : BitVec 3) : RoundTrip.Statement (.vcmpsVfceq d a b m) :=
  roundTrip_of rfl (fun p s => by rw [wordOp_packA]; rfl) (fun p s => by
    rw [decodeSelector, wordOp_packA]; change decodeVcmps _ = _
    rw [decodeVcmps, selA_packA] <;> simp)
theorem RoundTrip.vcmpsVfclt (d : BitVec 5) (a : BitVec 5) (b : BitVec 5) (m : BitVec 3) : RoundTrip.Statement (.vcmpsVfclt d a b m) :=
  roundTrip_of rfl (fun p s => by rw [wordOp_packA]; rfl) (fun p s => by
    rw [decodeSelector, wordOp_packA]; change decodeVcmps _ = _
    rw [decodeVcmps, selA_packA] <;> simp)
theorem RoundTrip.vcmpsVfcle (d : BitVec 5) (a : BitVec 5) (b : BitVec 5) (m : BitVec 3) : RoundTrip.Statement (.vcmpsVfcle d a b m) :=
  roundTrip_of rfl (fun p s => by rw [wordOp_packA]; rfl) (fun p s => by
    rw [decodeSelector, wordOp_packA]; change decodeVcmps _ = _
    rw [decodeVcmps, selA_packA] <;> simp)
theorem RoundTrip.vcmpsVfcun (d : BitVec 5) (a : BitVec 5) (b : BitVec 5) (m : BitVec 3) : RoundTrip.Statement (.vcmpsVfcun d a b m) :=
  roundTrip_of rfl (fun p s => by rw [wordOp_packA]; rfl) (fun p s => by
    rw [decodeSelector, wordOp_packA]; change decodeVcmps _ = _
    rw [decodeVcmps, selA_packA] <;> simp)
theorem RoundTrip.mand (d : BitVec 5) (a : BitVec 5) (b : BitVec 5) : RoundTrip.Statement (.mand d a b) :=
  roundTrip_of rfl (fun p s => by rw [wordOp_packA]; rfl) (fun p s => by
    rw [decodeSelector, wordOp_packA]; change decodeVmop _ = _
    rw [decodeVmop, selA_packA] <;> simp)
theorem RoundTrip.mor (d : BitVec 5) (a : BitVec 5) (b : BitVec 5) : RoundTrip.Statement (.mor d a b) :=
  roundTrip_of rfl (fun p s => by rw [wordOp_packA]; rfl) (fun p s => by
    rw [decodeSelector, wordOp_packA]; change decodeVmop _ = _
    rw [decodeVmop, selA_packA] <;> simp)
theorem RoundTrip.mxor (d : BitVec 5) (a : BitVec 5) (b : BitVec 5) : RoundTrip.Statement (.mxor d a b) :=
  roundTrip_of rfl (fun p s => by rw [wordOp_packA]; rfl) (fun p s => by
    rw [decodeSelector, wordOp_packA]; change decodeVmop _ = _
    rw [decodeVmop, selA_packA] <;> simp)
theorem RoundTrip.mandn (d : BitVec 5) (a : BitVec 5) (b : BitVec 5) : RoundTrip.Statement (.mandn d a b) :=
  roundTrip_of rfl (fun p s => by rw [wordOp_packA]; rfl) (fun p s => by
    rw [decodeSelector, wordOp_packA]; change decodeVmop _ = _
    rw [decodeVmop, selA_packA] <;> simp)
theorem RoundTrip.mnot (d : BitVec 5) (a : BitVec 5) : RoundTrip.Statement (.mnot d a) :=
  roundTrip_of rfl (fun p s => by rw [wordOp_packA]; rfl) (fun p s => by
    rw [decodeSelector, wordOp_packA]; change decodeVmop _ = _
    rw [decodeVmop, selA_packA] <;> simp)
theorem RoundTrip.mset (d : BitVec 5) : RoundTrip.Statement (.mset d) :=
  roundTrip_of rfl (fun p s => by rw [wordOp_packA]; rfl) (fun p s => by
    rw [decodeSelector, wordOp_packA]; change decodeVmop _ = _
    rw [decodeVmop, selA_packA] <;> simp)
theorem RoundTrip.mclr (d : BitVec 5) : RoundTrip.Statement (.mclr d) :=
  roundTrip_of rfl (fun p s => by rw [wordOp_packA]; rfl) (fun p s => by
    rw [decodeSelector, wordOp_packA]; change decodeVmop _ = _
    rw [decodeVmop, selA_packA] <;> simp)
theorem RoundTrip.mfirst (d : BitVec 5) (a : BitVec 5) : RoundTrip.Statement (.mfirst d a) :=
  roundTrip_of rfl (fun p s => by rw [wordOp_packA]; rfl) (fun p s => by
    rw [decodeSelector, wordOp_packA]; change decodeVmop _ = _
    rw [decodeVmop, selA_packA] <;> simp)
theorem RoundTrip.mpopc (d : BitVec 5) (a : BitVec 5) : RoundTrip.Statement (.mpopc d a) :=
  roundTrip_of rfl (fun p s => by rw [wordOp_packA]; rfl) (fun p s => by
    rw [decodeSelector, wordOp_packA]; change decodeVmop _ = _
    rw [decodeVmop, selA_packA] <;> simp)
theorem RoundTrip.vmerge (d : BitVec 5) (a : BitVec 5) (b : BitVec 5) (m : BitVec 3) : RoundTrip.Statement (.vmerge d a b m) :=
  roundTrip_of rfl (fun p s => by rw [wordOp_packA]; rfl) (fun p s => by
    rw [decodeSelector, wordOp_packA]; change decodeVmop _ = _
    rw [decodeVmop, selA_packA] <;> simp)
theorem RoundTrip.vsetl (d : BitVec 5) (a : BitVec 5) : RoundTrip.Statement (.vsetl d a) :=
  roundTrip_of rfl (fun p s => by rw [wordOp_packX]; rfl) (fun p s => by
    rw [decodeSelector, wordOp_packX]; change decodeVctl _ = _
    rw [decodeVctl, selX_packX] <;> simp)
theorem RoundTrip.vsett (d : BitVec 5) (a : BitVec 5) : RoundTrip.Statement (.vsett d a) :=
  roundTrip_of rfl (fun p s => by rw [wordOp_packX]; rfl) (fun p s => by
    rw [decodeSelector, wordOp_packX]; change decodeVctl _ = _
    rw [decodeVctl, selX_packX] <;> simp)
theorem RoundTrip.vend : RoundTrip.Statement (.vend) :=
  roundTrip_of rfl (fun p s => by rw [wordOp_packX]; rfl) (fun p s => by
    rw [decodeSelector, wordOp_packX]; change decodeVctl _ = _
    rw [decodeVctl, selX_packX] <;> simp)
theorem RoundTrip.vreply (a : BitVec 5) : RoundTrip.Statement (.vreply a) :=
  roundTrip_of rfl (fun p s => by rw [wordOp_packX]; rfl) (fun p s => by
    rw [decodeSelector, wordOp_packX]; change decodeVctl _ = _
    rw [decodeVctl, selX_packX] <;> simp)
theorem RoundTrip.vreplym (a : BitVec 5) : RoundTrip.Statement (.vreplym a) :=
  roundTrip_of rfl (fun p s => by rw [wordOp_packX]; rfl) (fun p s => by
    rw [decodeSelector, wordOp_packX]; change decodeVctl _ = _
    rw [decodeVctl, selX_packX] <;> simp)
theorem RoundTrip.vjoin : RoundTrip.Statement (.vjoin) :=
  roundTrip_of rfl (fun p s => by rw [wordOp_packX]; rfl) (fun p s => by
    rw [decodeSelector, wordOp_packX]; change decodeVctl _ = _
    rw [decodeVctl, selX_packX] <;> simp)
theorem RoundTrip.vlcset (d : BitVec 5) (a : BitVec 5) : RoundTrip.Statement (.vlcset d a) :=
  roundTrip_of rfl (fun p s => by rw [wordOp_packX]; rfl) (fun p s => by
    rw [decodeSelector, wordOp_packX]; change decodeVctl _ = _
    rw [decodeVctl, selX_packX] <;> simp)
theorem RoundTrip.valc (d : BitVec 5) : RoundTrip.Statement (.valc d) :=
  roundTrip_of rfl (fun p s => by rw [wordOp_packX]; rfl) (fun p s => by
    rw [decodeSelector, wordOp_packX]; change decodeVctl _ = _
    rw [decodeVctl, selX_packX] <;> simp)
theorem RoundTrip.vbany (a : BitVec 5) (o : BitVec 14) : RoundTrip.Statement (.vbany a o) :=
  roundTrip_of rfl (fun p s => by rw [wordOp_packZ]; rfl) (fun p s => by
    rw [decodeSelector, wordOp_packZ]; change decodeVb _ = _
    rw [decodeVb, selZ_packZ] <;> simp)
theorem RoundTrip.vbnone (a : BitVec 5) (o : BitVec 14) : RoundTrip.Statement (.vbnone a o) :=
  roundTrip_of rfl (fun p s => by rw [wordOp_packZ]; rfl) (fun p s => by
    rw [decodeSelector, wordOp_packZ]; change decodeVb _ = _
    rw [decodeVb, selZ_packZ] <;> simp)
theorem RoundTrip.vbdiv (a : BitVec 5) (o : BitVec 14) : RoundTrip.Statement (.vbdiv a o) :=
  roundTrip_of rfl (fun p s => by rw [wordOp_packZ]; rfl) (fun p s => by
    rw [decodeSelector, wordOp_packZ]; change decodeVb _ = _
    rw [decodeVb, selZ_packZ] <;> simp)
theorem RoundTrip.vlcnz (a : BitVec 5) (o : BitVec 14) : RoundTrip.Statement (.vlcnz a o) :=
  roundTrip_of rfl (fun p s => by rw [wordOp_packZ]; rfl) (fun p s => by
    rw [decodeSelector, wordOp_packZ]; change decodeVb _ = _
    rw [decodeVb, selZ_packZ] <;> simp)
theorem RoundTrip.vloop (a : BitVec 5) (o : BitVec 14) : RoundTrip.Statement (.vloop a o) :=
  roundTrip_of rfl (fun p s => by rw [wordOp_packZ]; rfl) (fun p s => by
    rw [decodeSelector, wordOp_packZ]; change decodeVb _ = _
    rw [decodeVb, selZ_packZ] <;> simp)
theorem RoundTrip.vjmp (o : BitVec 14) : RoundTrip.Statement (.vjmp o) :=
  roundTrip_of rfl (fun p s => by rw [wordOp_packZ]; rfl) (fun p s => by
    rw [decodeSelector, wordOp_packZ]; change decodeVb _ = _
    rw [decodeVb, selZ_packZ] <;> simp)
theorem RoundTrip.vld (d : BitVec 5) (a : BitVec 5) (m : BitVec 3) : RoundTrip.Statement (.vld d a m) :=
  roundTrip_of rfl (fun p s => by rw [wordOp_packA]; rfl) (fun p s => by
    rw [decodeSelector, wordOp_packA]; change decodeVld _ = _
    rw [decodeVld, selA_packA] <;> simp)
theorem RoundTrip.vldx (d : BitVec 5) (a : BitVec 5) (b : BitVec 5) (m : BitVec 3) : RoundTrip.Statement (.vldx d a b m) :=
  roundTrip_of rfl (fun p s => by rw [wordOp_packA]; rfl) (fun p s => by
    rw [decodeSelector, wordOp_packA]; change decodeVld _ = _
    rw [decodeVld, selA_packA] <;> simp)
theorem RoundTrip.vldl (d : BitVec 5) (a : BitVec 5) (m : BitVec 3) : RoundTrip.Statement (.vldl d a m) :=
  roundTrip_of rfl (fun p s => by rw [wordOp_packA]; rfl) (fun p s => by
    rw [decodeSelector, wordOp_packA]; change decodeVld _ = _
    rw [decodeVld, selA_packA] <;> simp)
theorem RoundTrip.vst (d : BitVec 5) (a : BitVec 5) (m : BitVec 3) : RoundTrip.Statement (.vst d a m) :=
  roundTrip_of rfl (fun p s => by rw [wordOp_packA]; rfl) (fun p s => by
    rw [decodeSelector, wordOp_packA]; change decodeVst _ = _
    rw [decodeVst, selA_packA] <;> simp)
theorem RoundTrip.vstx (d : BitVec 5) (a : BitVec 5) (b : BitVec 5) (m : BitVec 3) : RoundTrip.Statement (.vstx d a b m) :=
  roundTrip_of rfl (fun p s => by rw [wordOp_packA]; rfl) (fun p s => by
    rw [decodeSelector, wordOp_packA]; change decodeVst _ = _
    rw [decodeVst, selA_packA] <;> simp)
theorem RoundTrip.vstl (d : BitVec 5) (a : BitVec 5) (m : BitVec 3) : RoundTrip.Statement (.vstl d a m) :=
  roundTrip_of rfl (fun p s => by rw [wordOp_packA]; rfl) (fun p s => by
    rw [decodeSelector, wordOp_packA]; change decodeVst _ = _
    rw [decodeVst, selA_packA] <;> simp)
theorem RoundTrip.vsta (d : BitVec 5) (a : BitVec 5) (b : BitVec 5) (m : BitVec 3) : RoundTrip.Statement (.vsta d a b m) :=
  roundTrip_of rfl (fun p s => by rw [wordOp_packA]; rfl) (fun p s => by
    rw [decodeSelector, wordOp_packA]; change decodeVst _ = _
    rw [decodeVst, selA_packA] <;> simp)
theorem RoundTrip.qset (d : BitVec 5) (a : BitVec 5) : RoundTrip.Statement (.qset d a) :=
  roundTrip_of rfl (fun p s => by rw [wordOp_packA]; rfl) (fun p s => by
    rw [decodeSelector, wordOp_packA]; change decodeQctl _ = _
    rw [decodeQctl, selA_packA] <;> simp)
theorem RoundTrip.qadv (d : BitVec 5) (a : BitVec 5) : RoundTrip.Statement (.qadv d a) :=
  roundTrip_of rfl (fun p s => by rw [wordOp_packA]; rfl) (fun p s => by
    rw [decodeSelector, wordOp_packA]; change decodeQctl _ = _
    rw [decodeQctl, selA_packA] <;> simp)
theorem RoundTrip.qpos (d : BitVec 5) (a : BitVec 5) : RoundTrip.Statement (.qpos d a) :=
  roundTrip_of rfl (fun p s => by rw [wordOp_packA]; rfl) (fun p s => by
    rw [decodeSelector, wordOp_packA]; change decodeQctl _ = _
    rw [decodeQctl, selA_packA] <;> simp)
theorem RoundTrip.qrel (d : BitVec 5) : RoundTrip.Statement (.qrel d) :=
  roundTrip_of rfl (fun p s => by rw [wordOp_packA]; rfl) (fun p s => by
    rw [decodeSelector, wordOp_packA]; change decodeQctl _ = _
    rw [decodeQctl, selA_packA] <;> simp)
theorem RoundTrip.streamRunAhead (at_ : Place) (q ahead : Nat) : RoundTrip.Statement (.streamRunAhead at_ q ahead) := roundTrip_event rfl
theorem RoundTrip.hbind (d : BitVec 5) (a : BitVec 5) (b : BitVec 5) : RoundTrip.Statement (.hbind d a b) :=
  roundTrip_of rfl (fun p s => by rw [wordOp_packA]; rfl) (fun p s => by
    rw [decodeSelector, wordOp_packA]; change decodeHva _ = _
    rw [decodeHva, selA_packA] <;> simp)
theorem RoundTrip.hunbind (d : BitVec 5) (a : BitVec 5) (b : BitVec 5) : RoundTrip.Statement (.hunbind d a b) :=
  roundTrip_of rfl (fun p s => by rw [wordOp_packA]; rfl) (fun p s => by
    rw [decodeSelector, wordOp_packA]; change decodeHva _ = _
    rw [decodeHva, selA_packA] <;> simp)
theorem RoundTrip.hperm (d : BitVec 5) (a : BitVec 5) (b : BitVec 5) : RoundTrip.Statement (.hperm d a b) :=
  roundTrip_of rfl (fun p s => by rw [wordOp_packA]; rfl) (fun p s => by
    rw [decodeSelector, wordOp_packA]; change decodeHva _ = _
    rw [decodeHva, selA_packA] <;> simp)
theorem RoundTrip.hpermn (d : BitVec 5) (a : BitVec 5) (b : BitVec 5) : RoundTrip.Statement (.hpermn d a b) :=
  roundTrip_of rfl (fun p s => by rw [wordOp_packA]; rfl) (fun p s => by
    rw [decodeSelector, wordOp_packA]; change decodeHva _ = _
    rw [decodeHva, selA_packA] <;> simp)
theorem RoundTrip.hbacc (d : BitVec 5) (a : BitVec 5) (b : BitVec 5) : RoundTrip.Statement (.hbacc d a b) :=
  roundTrip_of rfl (fun p s => by rw [wordOp_packA]; rfl) (fun p s => by
    rw [decodeSelector, wordOp_packA]; change decodeHva _ = _
    rw [decodeHva, selA_packA] <;> simp)
theorem RoundTrip.hbth (d : BitVec 5) (a : BitVec 5) (b : BitVec 5) : RoundTrip.Statement (.hbth d a b) :=
  roundTrip_of rfl (fun p s => by rw [wordOp_packA]; rfl) (fun p s => by
    rw [decodeSelector, wordOp_packA]; change decodeHva _ = _
    rw [decodeHva, selA_packA] <;> simp)
theorem RoundTrip.hgen (d : BitVec 5) (a : BitVec 5) : RoundTrip.Statement (.hgen d a) :=
  roundTrip_of rfl (fun p s => by rw [wordOp_packA]; rfl) (fun p s => by
    rw [decodeSelector, wordOp_packA]; change decodeHva _ = _
    rw [decodeHva, selA_packA] <;> simp)
theorem RoundTrip.hnot (d : BitVec 5) (a : BitVec 5) : RoundTrip.Statement (.hnot d a) :=
  roundTrip_of rfl (fun p s => by rw [wordOp_packA]; rfl) (fun p s => by
    rw [decodeSelector, wordOp_packA]; change decodeHva _ = _
    rw [decodeHva, selA_packA] <;> simp)
theorem RoundTrip.hclr (d : BitVec 5) : RoundTrip.Statement (.hclr d) :=
  roundTrip_of rfl (fun p s => by rw [wordOp_packA]; rfl) (fun p s => by
    rw [decodeSelector, wordOp_packA]; change decodeHva _ = _
    rw [decodeHva, selA_packA] <;> simp)
theorem RoundTrip.hsim (d : BitVec 5) (a : BitVec 5) (b : BitVec 5) : RoundTrip.Statement (.hsim d a b) :=
  roundTrip_of rfl (fun p s => by rw [wordOp_packA]; rfl) (fun p s => by
    rw [decodeSelector, wordOp_packA]; change decodeHvb _ = _
    rw [decodeHvb, selA_packA] <;> simp)
theorem RoundTrip.hclean (d : BitVec 5) (a : BitVec 5) (b : BitVec 5) : RoundTrip.Statement (.hclean d a b) :=
  roundTrip_of rfl (fun p s => by rw [wordOp_packA]; rfl) (fun p s => by
    rw [decodeSelector, wordOp_packA]; change decodeHvb _ = _
    rw [decodeHvb, selA_packA] <;> simp)
theorem RoundTrip.hfact (d : BitVec 5) (a : BitVec 5) (b : BitVec 5) : RoundTrip.Statement (.hfact d a b) :=
  roundTrip_of rfl (fun p s => by rw [wordOp_packA]; rfl) (fun p s => by
    rw [decodeSelector, wordOp_packA]; change decodeHvb _ = _
    rw [decodeHvb, selA_packA] <;> simp)
theorem RoundTrip.isopen (d : BitVec 5) (a : BitVec 5) (b : BitVec 5) : RoundTrip.Statement (.isopen d a b) :=
  roundTrip_of rfl (fun p s => by rw [wordOp_packA]; rfl) (fun p s => by
    rw [decodeSelector, wordOp_packA]; change decodeHvb _ = _
    rw [decodeHvb, selA_packA] <;> simp)
theorem RoundTrip.isload (d : BitVec 5) (a : BitVec 5) (b : BitVec 5) : RoundTrip.Statement (.isload d a b) :=
  roundTrip_of rfl (fun p s => by rw [wordOp_packA]; rfl) (fun p s => by
    rw [decodeSelector, wordOp_packA]; change decodeHvb _ = _
    rw [decodeHvb, selA_packA] <;> simp)
theorem RoundTrip.isseal (d : BitVec 5) (a : BitVec 5) : RoundTrip.Statement (.isseal d a) :=
  roundTrip_of rfl (fun p s => by rw [wordOp_packA]; rfl) (fun p s => by
    rw [decodeSelector, wordOp_packA]; change decodeHvb _ = _
    rw [decodeHvb, selA_packA] <;> simp)
theorem RoundTrip.isrel (a : BitVec 5) : RoundTrip.Statement (.isrel a) :=
  roundTrip_of rfl (fun p s => by rw [wordOp_packA]; rfl) (fun p s => by
    rw [decodeSelector, wordOp_packA]; change decodeHvb _ = _
    rw [decodeHvb, selA_packA] <;> simp)
theorem RoundTrip.hprob (d : BitVec 5) (a : BitVec 5) (b : BitVec 5) : RoundTrip.Statement (.hprob d a b) :=
  roundTrip_of rfl (fun p s => by rw [wordOp_packA]; rfl) (fun p s => by
    rw [decodeSelector, wordOp_packA]; change decodeHvb _ = _
    rw [decodeHvb, selA_packA] <;> simp)
theorem RoundTrip.tld (d : BitVec 5) (a : BitVec 5) : RoundTrip.Statement (.tld d a) :=
  roundTrip_of rfl (fun p s => by rw [wordOp_packA]; rfl) (fun p s => by
    rw [decodeSelector, wordOp_packA]; change decodeTile _ = _
    rw [decodeTile, selA_packA] <;> simp)
theorem RoundTrip.tst (d : BitVec 5) (a : BitVec 5) : RoundTrip.Statement (.tst d a) :=
  roundTrip_of rfl (fun p s => by rw [wordOp_packA]; rfl) (fun p s => by
    rw [decodeSelector, wordOp_packA]; change decodeTile _ = _
    rw [decodeTile, selA_packA] <;> simp)
theorem RoundTrip.tzero (d : BitVec 5) : RoundTrip.Statement (.tzero d) :=
  roundTrip_of rfl (fun p s => by rw [wordOp_packA]; rfl) (fun p s => by
    rw [decodeSelector, wordOp_packA]; change decodeTile _ = _
    rw [decodeTile, selA_packA] <;> simp)
theorem RoundTrip.tmov (d : BitVec 5) (a : BitVec 5) (b : BitVec 5) : RoundTrip.Statement (.tmov d a b) :=
  roundTrip_of rfl (fun p s => by rw [wordOp_packA]; rfl) (fun p s => by
    rw [decodeSelector, wordOp_packA]; change decodeTile _ = _
    rw [decodeTile, selA_packA] <;> simp)
theorem RoundTrip.trel (d : BitVec 5) : RoundTrip.Statement (.trel d) :=
  roundTrip_of rfl (fun p s => by rw [wordOp_packA]; rfl) (fun p s => by
    rw [decodeSelector, wordOp_packA]; change decodeTile _ = _
    rw [decodeTile, selA_packA] <;> simp)
theorem RoundTrip.tscl (d : BitVec 5) (a : BitVec 5) : RoundTrip.Statement (.tscl d a) :=
  roundTrip_of rfl (fun p s => by rw [wordOp_packA]; rfl) (fun p s => by
    rw [decodeSelector, wordOp_packA]; change decodeTile _ = _
    rw [decodeTile, selA_packA] <;> simp)
theorem RoundTrip.mma (d : BitVec 4) (a : BitVec 4) (b : BitVec 4) (o : BitVec 10) : RoundTrip.Statement (.mma d a b o) :=
  roundTrip_of rfl (fun p s => by rw [wordOp_packE]; rfl) (fun p s => by
    rw [decodeSelector, wordOp_packE] <;> simp)
theorem RoundTrip.mmaz (d : BitVec 4) (a : BitVec 4) (b : BitVec 4) (o : BitVec 10) : RoundTrip.Statement (.mmaz d a b o) :=
  roundTrip_of rfl (fun p s => by rw [wordOp_packE]; rfl) (fun p s => by
    rw [decodeSelector, wordOp_packE] <;> simp)
theorem RoundTrip.tbegin (d : BitVec 5) (a : BitVec 5) : RoundTrip.Statement (.tbegin d a) :=
  roundTrip_of rfl (fun p s => by rw [wordOp_packA]; rfl) (fun p s => by
    rw [decodeSelector, wordOp_packA]; change decodeTeng _ = _
    rw [decodeTeng, selA_packA] <;> simp)
theorem RoundTrip.tend : RoundTrip.Statement (.tend) :=
  roundTrip_of rfl (fun p s => by rw [wordOp_packA]; rfl) (fun p s => by
    rw [decodeSelector, wordOp_packA]; change decodeTeng _ = _
    rw [decodeTeng, selA_packA] <;> simp)
theorem RoundTrip.tcopy (d : BitVec 5) (a : BitVec 5) (b : BitVec 5) : RoundTrip.Statement (.tcopy d a b) :=
  roundTrip_of rfl (fun p s => by rw [wordOp_packA]; rfl) (fun p s => by
    rw [decodeSelector, wordOp_packA]; change decodeTeng _ = _
    rw [decodeTeng, selA_packA] <;> simp)
theorem RoundTrip.tcopyM (d : BitVec 5) (a : BitVec 5) (b : BitVec 5) : RoundTrip.Statement (.tcopyM d a b) :=
  roundTrip_of rfl (fun p s => by rw [wordOp_packA]; rfl) (fun p s => by
    rw [decodeSelector, wordOp_packA]; change decodeTeng _ = _
    rw [decodeTeng, selA_packA] <;> simp)
theorem RoundTrip.rfence : RoundTrip.Statement (.rfence) :=
  roundTrip_of rfl (fun p s => by rw [wordOp_packA]; rfl) (fun p s => by
    rw [decodeSelector, wordOp_packA]; change decodeTeng _ = _
    rw [decodeTeng, selA_packA] <;> simp)
theorem RoundTrip.twait : RoundTrip.Statement (.twait) :=
  roundTrip_of rfl (fun p s => by rw [wordOp_packA]; rfl) (fun p s => by
    rw [decodeSelector, wordOp_packA]; change decodeTeng _ = _
    rw [decodeTeng, selA_packA] <;> simp)
theorem RoundTrip.sigd (d : BitVec 5) (a : BitVec 5) : RoundTrip.Statement (.sigd d a) :=
  roundTrip_of rfl (fun p s => by rw [wordOp_packA]; rfl) (fun p s => by
    rw [decodeSelector, wordOp_packA]; change decodeSig _ = _
    rw [decodeSig, selA_packA] <;> simp)
theorem RoundTrip.siginit (d : BitVec 5) : RoundTrip.Statement (.siginit d) :=
  roundTrip_of rfl (fun p s => by rw [wordOp_packA]; rfl) (fun p s => by
    rw [decodeSelector, wordOp_packA]; change decodeSig _ = _
    rw [decodeSig, selA_packA] <;> simp)
theorem RoundTrip.sigadd (d : BitVec 5) (a : BitVec 5) : RoundTrip.Statement (.sigadd d a) :=
  roundTrip_of rfl (fun p s => by rw [wordOp_packA]; rfl) (fun p s => by
    rw [decodeSelector, wordOp_packA]; change decodeSig _ = _
    rw [decodeSig, selA_packA] <;> simp)
theorem RoundTrip.sigmul (d : BitVec 5) (a : BitVec 5) : RoundTrip.Statement (.sigmul d a) :=
  roundTrip_of rfl (fun p s => by rw [wordOp_packA]; rfl) (fun p s => by
    rw [decodeSelector, wordOp_packA]; change decodeSig _ = _
    rw [decodeSig, selA_packA] <;> simp)
theorem RoundTrip.siglog (d : BitVec 5) (a : BitVec 5) : RoundTrip.Statement (.siglog d a) :=
  roundTrip_of rfl (fun p s => by rw [wordOp_packA]; rfl) (fun p s => by
    rw [decodeSelector, wordOp_packA]; change decodeSig _ = _
    rw [decodeSig, selA_packA] <;> simp)
theorem RoundTrip.sigld (d : BitVec 5) (a : BitVec 5) : RoundTrip.Statement (.sigld d a) :=
  roundTrip_of rfl (fun p s => by rw [wordOp_packA]; rfl) (fun p s => by
    rw [decodeSelector, wordOp_packA]; change decodeSig _ = _
    rw [decodeSig, selA_packA] <;> simp)
theorem RoundTrip.sigst (d : BitVec 5) (a : BitVec 5) : RoundTrip.Statement (.sigst d a) :=
  roundTrip_of rfl (fun p s => by rw [wordOp_packA]; rfl) (fun p s => by
    rw [decodeSelector, wordOp_packA]; change decodeSig _ = _
    rw [decodeSig, selA_packA] <;> simp)
theorem RoundTrip.fbind (d : BitVec 5) (a : BitVec 5) : RoundTrip.Statement (.fbind d a) :=
  roundTrip_of rfl (fun p s => by rw [wordOp_packA]; rfl) (fun p s => by
    rw [decodeSelector, wordOp_packA]; change decodeFab _ = _
    rw [decodeFab, selA_packA] <;> simp)
theorem RoundTrip.fsend (a : BitVec 5) (b : BitVec 5) : RoundTrip.Statement (.fsend a b) :=
  roundTrip_of rfl (fun p s => by rw [wordOp_packA]; rfl) (fun p s => by
    rw [decodeSelector, wordOp_packA]; change decodeFab _ = _
    rw [decodeFab, selA_packA] <;> simp)
theorem RoundTrip.frecv (d : BitVec 5) (a : BitVec 5) : RoundTrip.Statement (.frecv d a) :=
  roundTrip_of rfl (fun p s => by rw [wordOp_packA]; rfl) (fun p s => by
    rw [decodeSelector, wordOp_packA]; change decodeFab _ = _
    rw [decodeFab, selA_packA] <;> simp)
theorem RoundTrip.frecvop (d : BitVec 5) (a : BitVec 5) (b : BitVec 5) : RoundTrip.Statement (.frecvop d a b) :=
  roundTrip_of rfl (fun p s => by rw [wordOp_packA]; rfl) (fun p s => by
    rw [decodeSelector, wordOp_packA]; change decodeFab _ = _
    rw [decodeFab, selA_packA] <;> simp)
theorem RoundTrip.fcount (d : BitVec 5) (a : BitVec 5) : RoundTrip.Statement (.fcount d a) :=
  roundTrip_of rfl (fun p s => by rw [wordOp_packA]; rfl) (fun p s => by
    rw [decodeSelector, wordOp_packA]; change decodeFab _ = _
    rw [decodeFab, selA_packA] <;> simp)
theorem RoundTrip.fa2a (a : BitVec 5) : RoundTrip.Statement (.fa2a a) :=
  roundTrip_of rfl (fun p s => by rw [wordOp_packA]; rfl) (fun p s => by
    rw [decodeSelector, wordOp_packA]; change decodeFab _ = _
    rw [decodeFab, selA_packA] <;> simp)
theorem RoundTrip.fwait (d : BitVec 5) (a : BitVec 5) : RoundTrip.Statement (.fwait d a) :=
  roundTrip_of rfl (fun p s => by rw [wordOp_packA]; rfl) (fun p s => by
    rw [decodeSelector, wordOp_packA]; change decodeFab _ = _
    rw [decodeFab, selA_packA] <;> simp)
theorem RoundTrip.frel (a : BitVec 5) : RoundTrip.Statement (.frel a) :=
  roundTrip_of rfl (fun p s => by rw [wordOp_packA]; rfl) (fun p s => by
    rw [decodeSelector, wordOp_packA]; change decodeFab _ = _
    rw [decodeFab, selA_packA] <;> simp)
theorem RoundTrip.bgath (d : BitVec 5) (a : BitVec 5) (b : BitVec 5) (m : BitVec 3) : RoundTrip.Statement (.bgath d a b m) :=
  roundTrip_of rfl (fun p s => by rw [wordOp_packA]; rfl) (fun p s => by
    rw [decodeSelector, wordOp_packA]; change decodeBank _ = _
    rw [decodeBank, selA_packA] <;> simp)
theorem RoundTrip.bscat (d : BitVec 5) (a : BitVec 5) (b : BitVec 5) (m : BitVec 3) : RoundTrip.Statement (.bscat d a b m) :=
  roundTrip_of rfl (fun p s => by rw [wordOp_packA]; rfl) (fun p s => by
    rw [decodeSelector, wordOp_packA]; change decodeBank _ = _
    rw [decodeBank, selA_packA] <;> simp)
theorem RoundTrip.bscadd (d : BitVec 5) (a : BitVec 5) (b : BitVec 5) (m : BitVec 3) : RoundTrip.Statement (.bscadd d a b m) :=
  roundTrip_of rfl (fun p s => by rw [wordOp_packA]; rfl) (fun p s => by
    rw [decodeSelector, wordOp_packA]; change decodeBank _ = _
    rw [decodeBank, selA_packA] <;> simp)
theorem RoundTrip.vfpush (d : BitVec 5) (a : BitVec 5) (b : BitVec 5) (m : BitVec 3) : RoundTrip.Statement (.vfpush d a b m) :=
  roundTrip_of rfl (fun p s => by rw [wordOp_packA]; rfl) (fun p s => by
    rw [decodeSelector, wordOp_packA]; change decodeBank _ = _
    rw [decodeBank, selA_packA] <;> simp)
theorem RoundTrip.vffree (d : BitVec 5) : RoundTrip.Statement (.vffree d) :=
  roundTrip_of rfl (fun p s => by rw [wordOp_packA]; rfl) (fun p s => by
    rw [decodeSelector, wordOp_packA]; change decodeBank _ = _
    rw [decodeBank, selA_packA] <;> simp)
theorem RoundTrip.blat (d : BitVec 5) (a : BitVec 5) : RoundTrip.Statement (.blat d a) :=
  roundTrip_of rfl (fun p s => by rw [wordOp_packA]; rfl) (fun p s => by
    rw [decodeSelector, wordOp_packA]; change decodeBank _ = _
    rw [decodeBank, selA_packA] <;> simp)
theorem RoundTrip.vpopc (d : BitVec 5) (a : BitVec 5) (m : BitVec 3) : RoundTrip.Statement (.vpopc d a m) :=
  roundTrip_of rfl (fun p s => by rw [wordOp_packA]; rfl) (fun p s => by
    rw [decodeSelector, wordOp_packA]; change decodeVbit2 _ = _
    rw [decodeVbit2, selA_packA] <;> simp)
theorem RoundTrip.vclz (d : BitVec 5) (a : BitVec 5) (m : BitVec 3) : RoundTrip.Statement (.vclz d a m) :=
  roundTrip_of rfl (fun p s => by rw [wordOp_packA]; rfl) (fun p s => by
    rw [decodeSelector, wordOp_packA]; change decodeVbit2 _ = _
    rw [decodeVbit2, selA_packA] <;> simp)
theorem RoundTrip.vbrev (d : BitVec 5) (a : BitVec 5) (m : BitVec 3) : RoundTrip.Statement (.vbrev d a m) :=
  roundTrip_of rfl (fun p s => by rw [wordOp_packA]; rfl) (fun p s => by
    rw [decodeSelector, wordOp_packA]; change decodeVbit2 _ = _
    rw [decodeVbit2, selA_packA] <;> simp)
theorem RoundTrip.vrotl (d : BitVec 5) (a : BitVec 5) (b : BitVec 5) (m : BitVec 3) : RoundTrip.Statement (.vrotl d a b m) :=
  roundTrip_of rfl (fun p s => by rw [wordOp_packA]; rfl) (fun p s => by
    rw [decodeSelector, wordOp_packA]; change decodeVbit2 _ = _
    rw [decodeVbit2, selA_packA] <;> simp)
theorem RoundTrip.trapDelivery (at_ : Place) : RoundTrip.Statement (.trapDelivery at_) := roundTrip_event rfl
theorem RoundTrip.blockTake (at_ : Place) : RoundTrip.Statement (.blockTake at_) := roundTrip_event rfl
theorem RoundTrip.waitTimeout (at_ : Place) : RoundTrip.Statement (.waitTimeout at_) := roundTrip_event rfl
theorem RoundTrip.preempt (asid : Nat) (launch : Option Nat) : RoundTrip.Statement (.preempt asid launch) := roundTrip_event rfl
theorem RoundTrip.contextSaveComplete (at_ : Place) : RoundTrip.Statement (.contextSaveComplete at_) := roundTrip_event rfl
theorem RoundTrip.contextResume (asid : Nat) : RoundTrip.Statement (.contextResume asid) := roundTrip_event rfl
theorem RoundTrip.contextCreate (asid : Nat) (root : BitVec 64) (prio : BitVec 2) (reserved : Nat) : RoundTrip.Statement (.contextCreate asid root prio reserved) := roundTrip_event rfl
theorem RoundTrip.contextBind (asid : Nat) (fn : Option Nat) : RoundTrip.Statement (.contextBind asid fn) := roundTrip_event rfl
theorem RoundTrip.contextDestroy (asid : Nat) : RoundTrip.Statement (.contextDestroy asid) := roundTrip_event rfl
theorem RoundTrip.cancellation (asid counter : Nat) : RoundTrip.Statement (.cancellation asid counter) := roundTrip_event rfl
theorem RoundTrip.meterInterval : RoundTrip.Statement (.meterInterval) := roundTrip_event rfl
theorem RoundTrip.refreshEnergySplit (energies : List (Nat × Nat)) : RoundTrip.Statement (.refreshEnergySplit energies) := roundTrip_event rfl
theorem RoundTrip.queueEntryTake (q : Nat) : RoundTrip.Statement (.queueEntryTake q) := roundTrip_event rfl
theorem RoundTrip.unitPlace (asid launch : Nat) (at_ : Place) : RoundTrip.Statement (.unitPlace asid launch at_) := roundTrip_event rfl
theorem RoundTrip.hartFree (at_ : Place) : RoundTrip.Statement (.hartFree at_) := roundTrip_event rfl
theorem RoundTrip.graphNode (asid graph token : Nat) : RoundTrip.Statement (.graphNode asid graph token) := roundTrip_event rfl
theorem RoundTrip.arbiterTurn (arb : Arb) : RoundTrip.Statement (.arbiterTurn arb) := roundTrip_event rfl
theorem RoundTrip.droopDetect (core : Nat) : RoundTrip.Statement (.droopDetect core) := roundTrip_event rfl
theorem RoundTrip.alcRestore (core : Nat) : RoundTrip.Statement (.alcRestore core) := roundTrip_event rfl
theorem RoundTrip.noonLend (from_ to_ amount : Nat) : RoundTrip.Statement (.noonLend from_ to_ amount) := roundTrip_event rfl
theorem RoundTrip.noonRecall (from_ to_ amount : Nat) : RoundTrip.Statement (.noonRecall from_ to_ amount) := roundTrip_event rfl
theorem RoundTrip.islandGate (core : Nat) : RoundTrip.Statement (.islandGate core) := roundTrip_event rfl
theorem RoundTrip.islandWake (core : Nat) : RoundTrip.Statement (.islandWake core) := roundTrip_event rfl
theorem RoundTrip.vfifoEntryPerform (core : Nat) : RoundTrip.Statement (.vfifoEntryPerform core) := roundTrip_event rfl
theorem RoundTrip.bankRequestComplete (at_ : Place) : RoundTrip.Statement (.bankRequestComplete at_) := roundTrip_event rfl
theorem RoundTrip.verticalPathDegrade (core : Nat) : RoundTrip.Statement (.verticalPathDegrade core) := roundTrip_event rfl
theorem RoundTrip.bankTemperatureChange (core : Nat) (hot : Bool) : RoundTrip.Statement (.bankTemperatureChange core hot) := roundTrip_event rfl
theorem RoundTrip.engineCommandStart (at_ : Place) (k : Nat) : RoundTrip.Statement (.engineCommandStart at_ k) := roundTrip_event rfl
theorem RoundTrip.engineStep (at_ : Place) (k : Nat) : RoundTrip.Statement (.engineStep at_ k) := roundTrip_event rfl
theorem RoundTrip.engineCommandComplete (at_ : Place) (k : Nat) : RoundTrip.Statement (.engineCommandComplete at_ k) := roundTrip_event rfl
theorem RoundTrip.regionGrant (at_ : Place) : RoundTrip.Statement (.regionGrant at_) := roundTrip_event rfl
theorem RoundTrip.timedCommandStart (at_ : Place) (k : Nat) : RoundTrip.Statement (.timedCommandStart at_ k) := roundTrip_event rfl
theorem RoundTrip.regionOverrun (at_ : Place) : RoundTrip.Statement (.regionOverrun at_) := roundTrip_event rfl
theorem RoundTrip.bgathDue (at_ : Place) : RoundTrip.Statement (.bgathDue at_) := roundTrip_event rfl
theorem RoundTrip.migrationStart (asid va : Nat) (leaf : BitVec 64) : RoundTrip.Statement (.migrationStart asid va leaf) := roundTrip_event rfl
theorem RoundTrip.migrationHold (k : Nat) : RoundTrip.Statement (.migrationHold k) := roundTrip_event rfl
theorem RoundTrip.migrationSwitch (k : Nat) : RoundTrip.Statement (.migrationSwitch k) := roundTrip_event rfl
theorem RoundTrip.pageMap (asid va : Nat) (entry leaf : BitVec 64) (how : MapHow) : RoundTrip.Statement (.pageMap asid va entry leaf how) := roundTrip_event rfl
theorem RoundTrip.pageUnmap (asid va : Nat) (entry : BitVec 64) : RoundTrip.Statement (.pageUnmap asid va entry) := roundTrip_event rfl
theorem RoundTrip.shootdown (asid va len : Nat) : RoundTrip.Statement (.shootdown asid va len) := roundTrip_event rfl
theorem RoundTrip.shootdownComplete (k : Nat) : RoundTrip.Statement (.shootdownComplete k) := roundTrip_event rfl
theorem RoundTrip.pageSweep (entries : List Nat) : RoundTrip.Statement (.pageSweep entries) := roundTrip_event rfl
theorem RoundTrip.shadowHeldWrite (asid k : Nat) : RoundTrip.Statement (.shadowHeldWrite asid k) := roundTrip_event rfl
theorem RoundTrip.lazyRestore (asid range : Nat) : RoundTrip.Statement (.lazyRestore asid range) := roundTrip_event rfl
theorem RoundTrip.walkStep (core ctx : Nat) : RoundTrip.Statement (.walkStep core ctx) := roundTrip_event rfl
theorem RoundTrip.flitRetry (link : Nat) (flits : Nat) (failed : Bool) : RoundTrip.Statement (.flitRetry link flits failed) := roundTrip_event rfl
theorem RoundTrip.linkEnable (link : Nat) : RoundTrip.Statement (.linkEnable link) := roundTrip_event rfl
theorem RoundTrip.linkTrainDone (link passing : Nat) : RoundTrip.Statement (.linkTrainDone link passing) := roundTrip_event rfl
theorem RoundTrip.linkTrainTimeout (link : Nat) : RoundTrip.Statement (.linkTrainTimeout link) := roundTrip_event rfl
theorem RoundTrip.linkRetrain (link : Nat) : RoundTrip.Statement (.linkRetrain link) := roundTrip_event rfl
theorem RoundTrip.laneLoss (link : Nat) : RoundTrip.Statement (.laneLoss link) := roundTrip_event rfl
theorem RoundTrip.lossOfSignal (link : Nat) : RoundTrip.Statement (.lossOfSignal link) := roundTrip_event rfl
theorem RoundTrip.linkDrain (link : Nat) : RoundTrip.Statement (.linkDrain link) := roundTrip_event rfl
theorem RoundTrip.linkDrainDone (link : Nat) : RoundTrip.Statement (.linkDrainDone link) := roundTrip_event rfl
theorem RoundTrip.groupOpen (id nrank asid : Nat) (locals : BitVec 64) (mapAt : BitVec 64) (members : List Nat) : RoundTrip.Statement (.groupOpen id nrank asid locals mapAt members) := roundTrip_event rfl
theorem RoundTrip.joinNotice (id gen rank : Nat) : RoundTrip.Statement (.joinNotice id gen rank) := roundTrip_event rfl
theorem RoundTrip.groupAbort (id : Nat) : RoundTrip.Statement (.groupAbort id) := roundTrip_event rfl
theorem RoundTrip.groupAbortArrival (id gen : Nat) : RoundTrip.Statement (.groupAbortArrival id gen) := roundTrip_event rfl
theorem RoundTrip.groupFree (id : Nat) : RoundTrip.Statement (.groupFree id) := roundTrip_event rfl
theorem RoundTrip.drainMarkerReturn (id : Nat) : RoundTrip.Statement (.drainMarkerReturn id) := roundTrip_event rfl
theorem RoundTrip.fabricPacketArrival (pkt : Packet) : RoundTrip.Statement (.fabricPacketArrival pkt) := roundTrip_event rfl
theorem RoundTrip.qbaseWrite (q : Nat) (v : BitVec 64) : RoundTrip.Statement (.qbaseWrite q v) := roundTrip_event rfl
theorem RoundTrip.qsizeWrite (q : Nat) (v : BitVec 64) : RoundTrip.Statement (.qsizeWrite q v) := roundTrip_event rfl
theorem RoundTrip.qtailWrite (q : Nat) (v : BitVec 64) : RoundTrip.Statement (.qtailWrite q v) := roundTrip_event rfl
theorem RoundTrip.qctlSusp (q : Nat) (set : Bool) : RoundTrip.Statement (.qctlSusp q set) := roundTrip_event rfl
theorem RoundTrip.qctlDrain (q : Nat) (set : Bool) : RoundTrip.Statement (.qctlDrain q set) := roundTrip_event rfl
theorem RoundTrip.drainDone (q : Nat) : RoundTrip.Statement (.drainDone q) := roundTrip_event rfl
theorem RoundTrip.bindRecordWrite (core n : Nat) (v : BitVec 64) : RoundTrip.Statement (.bindRecordWrite core n v) := roundTrip_event rfl
theorem RoundTrip.qleftWrite (fn : Option Nat) (v : BitVec 64) : RoundTrip.Statement (.qleftWrite fn v) := roundTrip_event rfl
theorem RoundTrip.functionLevelReset (vf : Nat) : RoundTrip.Statement (.functionLevelReset vf) := roundTrip_event rfl
theorem RoundTrip.hostDmaRead (fn : Option Nat) (va len : Nat) : RoundTrip.Statement (.hostDmaRead fn va len) := roundTrip_event rfl
theorem RoundTrip.hostDmaWrite (fn : Option Nat) (va : Nat) (bytes : List (BitVec 8)) : RoundTrip.Statement (.hostDmaWrite fn va bytes) := roundTrip_event rfl
theorem RoundTrip.formatRangeWrite (stack off : Nat) (v : BitVec 64) : RoundTrip.Statement (.formatRangeWrite stack off v) := roundTrip_event rfl
theorem RoundTrip.dawnStart : RoundTrip.Statement (.dawnStart) := roundTrip_event rfl
theorem RoundTrip.dawnRom (ok : Bool) : RoundTrip.Statement (.dawnRom ok) := roundTrip_event rfl
theorem RoundTrip.dawnVoxind (ctxBase grpBase : BitVec 64) : RoundTrip.Statement (.dawnVoxind ctxBase grpBase) := roundTrip_event rfl
theorem RoundTrip.dawnTrim (inService : List (Nat × BitVec 32)) : RoundTrip.Statement (.dawnTrim inService) := roundTrip_event rfl
theorem RoundTrip.dawnMeminit (ok : Bool) : RoundTrip.Statement (.dawnMeminit ok) := roundTrip_event rfl
theorem RoundTrip.dawnMeter (ok : Bool) : RoundTrip.Statement (.dawnMeter ok) := roundTrip_event rfl
theorem RoundTrip.dawnLinks : RoundTrip.Statement (.dawnLinks) := roundTrip_event rfl
theorem RoundTrip.powerDown : RoundTrip.Statement (.powerDown) := roundTrip_event rfl
theorem RoundTrip.scrub (column : Nat) (bad : List Nat) : RoundTrip.Statement (.scrub column bad) := roundTrip_event rfl
theorem RoundTrip.cxlRemoval (port : Nat) : RoundTrip.Statement (.cxlRemoval port) := roundTrip_event rfl
theorem RoundTrip.queryContextReclaim (core ctx : Nat) : RoundTrip.Statement (.queryContextReclaim core ctx) := roundTrip_event rfl
theorem RoundTrip.routeTableWrite (pkg : Nat) (links : List Nat) : RoundTrip.Statement (.routeTableWrite pkg links) := roundTrip_event rfl
theorem RoundTrip.queueContextAssign (q asid : Nat) : RoundTrip.Statement (.queueContextAssign q asid) := roundTrip_event rfl
theorem RoundTrip.vfEnable (vf : Nat) (on : Bool) : RoundTrip.Statement (.vfEnable vf on) := roundTrip_event rfl

end Sys2Proof.Laws
end

