-- ==== Sys2Proof/Certificates/Slice0/Obligations.lean ====
section
/-!
DEFINITION. The statements for the provers, from the numbered rules of the spec, chapter by chapter. A `def` in lower case
is a part of a statement or a term that statements use. Where a statement rests on a choice of the model, its docstring
names the log entry.
-/

open Sys2Proof Sys2Proof.Machine

/-! ### Words and their encoding -/

/-- Words that the encodings of R19, R66, R127, R138, R140, R146, R153, R179, R211, R243 and R318 give decode to the
instructions they stand for: thirteen words of thirteen majors, one of them with a mark and a stall count. A word with a
reserved field and one with a reserved major (R22) decode to none. -/
def Obligations.WordsDecodeAsTheSpecWritesThem : Prop :=
  decode 0xA80221A0#32 = .ok ⟨true, 2, .vadd 1 2 3 2⟩ ∧
  decode 0x010C0020#32 = .ok ⟨false, 0, .lis 6 32⟩ ∧
  decode 0x09C85368#32 = .ok ⟨false, 0, .log3High 4 5 6 0x68⟩ ∧
  decode 0x0DA00410#32 = .ok ⟨false, 0, .mma 8 0 1 16⟩ ∧
  decode 0x03085310#32 = .ok ⟨false, 0, .amoAdd 4 5 6 1⟩ ∧
  decode 0x03405303#32 = .ok ⟨false, 0, .unbind 5 6⟩ ∧
  decode 0x04D05422#32 = .ok ⟨false, 0, .bwait 8 5 8 2⟩ ∧
  decode 0x050E5300#32 = .ok ⟨false, 0, .snapBegin 7 5 6⟩ ∧
  decode 0x0C841001#32 = .ok ⟨false, 0, .qadv 2 1⟩ ∧
  decode 0x0CE02184#32 = .ok ⟨false, 0, .hbacc 16 2 3⟩ ∧
  decode 0x0D488283#32 = .ok ⟨false, 0, .tmov 4 8 5⟩ ∧
  decode 0x0EC82312#32 = .ok ⟨false, 0, .bscadd 4 2 6 1⟩ ∧
  decode 0x0E8A1203#32 = .ok ⟨false, 0, .frecvop 5 1 4⟩ ∧
  decode 0x00420070#32 = .error .reservedField ∧
  decode 0x0FC00000#32 = .error .reservedMajor

/-- The encoder and the decoder agree (R16 to R24): the word written for a well-formed instruction, at any restart mark
and stall count, decodes to that instruction with that mark and count. -/
def Obligations.EveryEncodedInstructionDecodesToItself : Prop :=
  ∀ (x : Decoded) (w : BitVec 32), x.instr.wellFormed = true → encode x = some w → decode w = .ok x

/-- No bit of a word is dropped (R16, R19, R21): a word that decodes is the word of what it decodes to, and that is
well formed. -/
def Obligations.EveryDecodedWordIsItsEncoding : Prop :=
  ∀ (w : BitVec 32) (x : Decoded), decode w = .ok x → encode x = some w ∧ x.instr.wellFormed = true

namespace Sys2Proof

/-- A reserved major opcode stands for no instruction (R22): the majors 0x16 to 0x1F, 0x3E and 0x3F, whatever the
other bits. When such a word is run it ends in ILLEGAL with the word in HTVAL (R21 step 1, R77). -/
def reservedMajorsAreIllegal : Prop :=
  ∀ w : BitVec 32, ((0x16 ≤ (wordOp w).toNat ∧ (wordOp w).toNat ≤ 0x1F) ∨ 0x3E ≤ (wordOp w).toNat) →
    decode w = .error .reservedMajor ∧
    ∀ s : State, refuseWord (holdWord s w) .reservedMajor =
      .next (takeTrap (discardWait (holdWord s w)) { code := 0x01, val := w.setWidth 64 } (sourceOf s.issue.side))

/-- Where the word at a side's program counter decodes, the side's turn is exec of the instruction, with the word, its
restart mark and its stall count at hand, and with the caches held to their sizes after it (R9, R12, R13, R16, R21). What
may stand in the way is ruled out by the hypotheses: nothing is due first, no other hart of the slot is inside a timed
region (R188), the side has a word to issue (R54, R74), no interrupt and no engine fault is due (R76, R344), and the slot's
sequencer serves the hart (R286). A trap of a scalar-side word stands behind one that the vector side's word raises in the
cycle, which is taken in its place (R76). Retiring moves past the word: retirementMovesToTheNextWord. Only an L1, and the
slices of one number of a stack's L2, beyond their sizes lose lines. -/
def turnRunsTheDecodedWord : Prop :=
  (∀ (s f g t : State) (p : Place) (sd : Side) (rest : List Turn) (w : BitVec 32) (x : Decoded),
    s.agenda = .side p sd :: rest →
    dueBefore { s with agenda := rest } (.side p sd) = none →
    State.focus { s with agenda := rest } p = some f →
    frozenOut f = false → mayIssue f.hart sd = true →
    (sd = .scalar → dueInterrupt f.hart = none) → (mayIssue f.hart .vector = true → f.hart.tl.faults = []) →
    (sd = .scalar → g = beginIssue f sd none) → (sd = .vector → sequence (beginIssue f sd none) = some g) →
    fetchWord g = .ok (w, t) →
    decode w = .ok x →
    let o := exec x.instr (holdWord t w)
    let trapped : Prop := ∃ v, o = .next v ∧ v.issue.trapped = true
    (sd = .vector ∨ ¬ trapped ∨ vectorTrap g = none → step s = settled o) ∧
    (∀ v, sd = .scalar → trapped → vectorTrap g = some v → step s = settled (.next v))) ∧
  (∀ u : State, (∀ core, (u.l1.filter (fun (y : L1Line) => y.core == core)).length ≤ 6144) →
    (∀ stack slice, (u.l2.filter (fun (y : L2Line) => y.stack == stack && y.line % 4 == slice)).length ≤ 786432) →
    settled (.next u) = .next u)

/-- A word that retires leaves its side at the next word, 4 bytes on, and INSTRET one greater; on the vector side VPROG
reads 0 again, and HRPC names the word if its restart mark is set, and is as before otherwise (R16, R17, R63). On the
scalar side the restart mark has no effect. -/
def retirementMovesToTheNextWord : Prop :=
  ∀ s : State,
    (s.issue.side = .scalar →
      (retire s).hart.sc.pc = s.hart.sc.pc + 4 ∧ (retire s).hart.cs.instret = s.hart.cs.instret + 1 ∧
      (retire s).hart.cs.hrpc = s.hart.cs.hrpc ∧ (retire s).hart.ve = s.hart.ve) ∧
    (s.issue.side = .vector →
      (retire s).hart.ve.pc = s.hart.ve.pc + 4 ∧ (retire s).hart.cs.instret = s.hart.cs.instret + 1 ∧
      (retire s).hart.cs.vprog = 0 ∧ (retire s).hart.sc = s.hart.sc ∧
      (s.issue.p = false → (retire s).hart.cs.hrpc = s.hart.cs.hrpc) ∧
      (s.issue.p = true → (retire s).hart.cs.hrpc.toNat = s.hart.ve.pc.toNat % 2 ^ 56)) ∧
    (retire s).mem = s.mem ∧ (retire s).parked = s.parked

end Sys2Proof

/-- A step runs the decoded word and retiring moves past it (R9, R12, R16, R17, R21, R63, R76): where the word at a
side's program counter decodes and nothing comes before it, the side's turn is exec of the instruction; a word that
retires leaves its side 4 bytes on, with INSTRET one greater. -/
def Obligations.StepRunsTheDecodedWord : Prop := turnRunsTheDecodedWord ∧ retirementMovesToTheNextWord

namespace Sys2Proof

/-- A word that its side mark does not admit on the executing side raises ILLSIDE, with the word in HTVAL, and has no
effect of its own: a word marked S on the vector side, and a word marked V on the scalar side (R20, R21 step 2, R77). -/
def wordsOfTheOtherSideRaiseIllside : Prop :=
  ∀ (i : Instr) (s : State),
    ((i.mark = some .s ∧ s.issue.side = .vector) ∨ (i.mark = some .v ∧ s.issue.side = .scalar)) →
    exec i s = .next (takeTrap (discardWait s) { code := 0x02, val := s.issue.word.setWidth 64 } (sourceOf s.issue.side))

end Sys2Proof

/-- A word of a reserved major raises ILLEGAL and a word of the other side raises ILLSIDE, with the word in HTVAL and
with no effect of its own (R20, R21, R22, R77). -/
def Obligations.WordsThatMayNotRunTrap : Prop := reservedMajorsAreIllegal ∧ wordsOfTheOtherSideRaiseIllside

namespace Sys2Proof

/-! ### Scalar words -/

/-- What the words of INT and INT2 compute from g[a], g[b] and the value g[d] held (R64). -/
def scalarTable : List ((BitVec 5 → BitVec 5 → BitVec 5 → Instr) × (Word → Word → Word → Word)) :=
  [(.add, fun x y _ => x + y),
   (.sub, fun x y _ => x - y),
   (.and, fun x y _ => x &&& y),
   (.or, fun x y _ => x ||| y),
   (.xor, fun x y _ => x ^^^ y),
   (.andn, fun x y _ => x &&& ~~~y),
   (.shl, fun x y _ => x <<< (y.setWidth 6).toNat),
   (.shr, fun x y _ => x >>> (y.setWidth 6).toNat),
   (.sra, fun x y _ => x.sshiftRight (y.setWidth 6).toNat),
   (.mul, fun x y _ => x * y),
   (.mulh, fun x y _ => ((x.signExtend 128 * y.signExtend 128) >>> 64).setWidth 64),
   (.mulhn, fun x y _ => ((x.setWidth 128 * y.setWidth 128) >>> 64).setWidth 64),
   (.div, fun x y _ => if y = 0 then BitVec.allOnes 64 else x.sdiv y),
   (.divn, fun x y _ => if y = 0 then BitVec.allOnes 64 else x / y),
   (.rem, fun x y _ => if y = 0 then x else x.srem y),
   (.remn, fun x y _ => if y = 0 then x else x % y),
   (.slt, fun x y _ => if x.toInt < y.toInt then 1 else 0),
   (.sltn, fun x y _ => if x < y then 1 else 0),
   (.min, fun x y _ => if x.toInt ≤ y.toInt then x else y),
   (.max, fun x y _ => if x.toInt ≤ y.toInt then y else x),
   (.minn, fun x y _ => if x ≤ y then x else y),
   (.maxn, fun x y _ => if x ≤ y then y else x),
   (.rotl, fun x y _ => x.rotateLeft (y.setWidth 6).toNat),
   (.sel, fun x y z => if z ≠ 0 then x else y)]

/-- The words of INT2 with one source (R64). -/
def scalarUnaryTable : List ((BitVec 5 → BitVec 5 → Instr) × (Word → Word)) :=
  [(.clz, fun x => BitVec.ofNat 64 ((List.range 64).takeWhile (fun i => !x.getMsbD i)).length),
   (.ctz, fun x => BitVec.ofNat 64 ((List.range 64).takeWhile (fun i => !x.getLsbD i)).length),
   (.popc, fun x => BitVec.ofNat 64 ((List.range 64).countP (fun i => x.getLsbD i)))]

/-- The words of INTI with a signed immediate (R65). -/
def scalarSignedTable : List ((BitVec 5 → BitVec 5 → BitVec 9 → Instr) × (Word → Word → Word)) :=
  [(.addi, fun x i => x + i),
   (.andi, fun x i => x &&& i),
   (.ori, fun x i => x ||| i),
   (.xori, fun x i => x ^^^ i),
   (.slti, fun x i => if x.toInt < i.toInt then 1 else 0)]

/-- The shifts of INTI (R65). -/
def scalarShiftTable : List ((BitVec 5 → BitVec 5 → BitVec 6 → Instr) × (Word → Nat → Word)) :=
  [(.shli, fun x n => x <<< n),
   (.shri, fun x n => x >>> n),
   (.srai, fun x n => x.sshiftRight n)]

/-- Every word of INT and INT2 that issues on the scalar side completes: it writes the result of R64 to g[d], retires at
the following word, and changes nothing else, no memory and no other register. A write to g0 is discarded and g0 reads 0
(R61). The formulas are those of R64 on 64-bit values; division by zero and the one signed overflow of DIV and REM are
included. -/
def scalarArithmeticWritesItsResult : Prop :=
  ∀ (s : State) (d a b : BitVec 5), Issuing s .scalar →
    (∀ e ∈ scalarTable, ∃ t, exec (e.1 d a b) s = .next t ∧
      ScalarResult s t d (e.2 (gRead s.hart a.toNat) (gRead s.hart b.toNat) (gRead s.hart d.toNat))) ∧
    (∀ e ∈ scalarUnaryTable, ∃ t, exec (e.1 d a) s = .next t ∧ ScalarResult s t d (e.2 (gRead s.hart a.toNat)))

/-- Every word of INTI, LIS and SHIM that issues on the scalar side completes and writes g[d], and changes nothing else:
the immediate of INTI and LIS is sign-extended, and SHIM shifts g[d] left by 17 and fills in its field (R65, R66). -/
def scalarImmediatesWriteTheirResult : Prop :=
  ∀ (s : State) (d a : BitVec 5) (i : BitVec 9) (n : BitVec 6) (k : BitVec 17), Issuing s .scalar →
    (∀ e ∈ scalarSignedTable, ∃ t, exec (e.1 d a i) s = .next t ∧
      ScalarResult s t d (e.2 (gRead s.hart a.toNat) (i.signExtend 64))) ∧
    (∀ e ∈ scalarShiftTable, ∃ t, exec (e.1 d a n) s = .next t ∧
      ScalarResult s t d (e.2 (gRead s.hart a.toNat) n.toNat)) ∧
    (∃ t, exec (.lis d k) s = .next t ∧ ScalarResult s t d (k.signExtend 64)) ∧
    (∃ t, exec (.shim d k) s = .next t ∧
      ScalarResult s t d ((gRead s.hart d.toNat <<< 17) ||| k.setWidth 64))

end Sys2Proof

/-- Every word of INT, INT2, INTI, LIS and SHIM completes on the scalar side, writes its result to g[d] and changes
nothing else (R61, R64, R65, R66). -/
def Obligations.ScalarResultsAreWritten : Prop := scalarArithmeticWritesItsResult ∧ scalarImmediatesWriteTheirResult

namespace Sys2Proof

/-- The six branches of BCZ and the comparison of signed g[a] with 0 under which each is taken (R67). -/
def branchTable : List ((BitVec 5 → BitVec 14 → Instr) × (Int → Bool)) :=
  [(.beqz, fun x => x == 0), (.bnez, fun x => x != 0), (.bltz, fun x => decide (x < 0)),
   (.bgez, fun x => decide (0 ≤ x)), (.bgtz, fun x => decide (0 < x)), (.blez, fun x => decide (x ≤ 0))]

end Sys2Proof

/-- Every branch of BCZ, and JMP, that issues on the scalar side completes: it goes on at its own address plus four times
its signed offset where it is taken, at the following word otherwise, and changes nothing else (R16, R67). -/
def Obligations.ScalarBranchesGoWhereTheySay : Prop :=
  ∀ (s : State) (a : BitVec 5) (o : BitVec 14) (j : BitVec 22), Issuing s .scalar →
    (∀ e ∈ branchTable, ∃ t, exec (e.1 a o) s = .next t ∧
      ScalarJump s t (if e.2 (gRead s.hart a.toNat).toInt then s.hart.sc.pc + BitVec.ofInt 64 (4 * o.toInt)
        else s.hart.sc.pc + 4)) ∧
    (∃ t, exec (.jmp j) s = .next t ∧ ScalarJump s t (s.hart.sc.pc + BitVec.ofInt 64 (4 * j.toInt)))

namespace Sys2Proof

/-- The state with another return stack and spill pointer. -/
def withStack (s : State) (st : List Word) (sp : Word) : State :=
  s.mapHart (fun h => { h with sc := { h.sc with rstack := st }, cs := { h.cs with hrsp := sp } })

/-- CALL and CALLR push the address of the following word and go to their target, and RET goes to what it pops (R60, R67),
and nothing else changes. Sixteen entries are held in the hart: a call with fewer pushes on top; a call with sixteen first
stores the oldest at HRSP, which moves up by 8; a return pops the top, or, with none held, what lies below HRSP, which
moves down by 8. JR writes nothing. RET of the exit entry at level 0 leaves the hart Ending, where the scalar side issues
nothing more. -/
def callsPushAndReturnsPop : Prop :=
  ∀ (s : State) (a : BitVec 5) (o : BitVec 22), Issuing s .scalar →
    let st := s.hart.sc.rstack
    let pc := s.hart.sc.pc
    let dest := gRead s.hart a.toNat
    (dest.toNat % 4 = 0 → ∃ t, exec (.jr a) s = .next t ∧ ScalarJump s t dest) ∧
    (st.length < 16 →
      (∃ t, exec (.call o) s = .next t ∧
        ScalarJump (withStack s ((pc + 4) :: st) s.hart.cs.hrsp) t (pc + BitVec.ofInt 64 (4 * o.toInt))) ∧
      (dest.toNat % 4 = 0 → ∃ t, exec (.callr a) s = .next t ∧
        ScalarJump (withStack s ((pc + 4) :: st) s.hart.cs.hrsp) t dest)) ∧
    (st.length = 16 → ∀ u, scalarWrite (discardWait s) s.hart.cs.hrsp.toNat 8 (st.getLastD 0).toNat = .ok u →
      exec (.call o) s = .next (retireTo (withStack u ((pc + 4) :: st.dropLast) (regAddr 3 (s.hart.cs.hrsp + 8)))
        (pc + BitVec.ofInt 64 (4 * o.toInt))) ∧
      (dest.toNat % 4 = 0 → exec (.callr a) s = .next
        (retireTo (withStack u ((pc + 4) :: st.dropLast) (regAddr 3 (s.hart.cs.hrsp + 8))) dest))) ∧
    (∀ x rest, st = x :: rest → x.toNat % 4 = 0 → ∃ t, exec .ret s = .next t ∧
      ScalarJump (withStack s rest s.hart.cs.hrsp) t x) ∧
    (∀ rest, st = BitVec.allOnes 64 :: rest → s.hart.cs.hstat.hl = false → ∃ t pc', exec .ret s = .next t ∧
      t.hart.life = .ending ∧
      ScalarJump ((withStack s rest s.hart.cs.hrsp).mapHart (fun h => { h with life := .ending })) t pc') ∧
    (st = [] → ∀ v u, scalarRead (discardWait s) .read (s.hart.cs.hrsp - 8).toNat 8 = .ok (v, u) → v % 4 = 0 → v < 2 ^ 64 →
      exec .ret s = .next (retireTo (withStack u [] (regAddr 3 (s.hart.cs.hrsp - 8))) (BitVec.ofNat 64 v)))

/-- Where a control transfer traps instead (R16, R67): a register target that is not a multiple of 4 raises MISALIGN with
the target in HTVAL and pushes nothing; RET raises it for a popped entry that is neither a multiple of 4 nor the exit
entry, and raises ILLEGAL for the exit entry at level 1, and the entry stays on the stack. -/
def badTargetsTrap : Prop :=
  ∀ (s : State) (a : BitVec 5), Issuing s .scalar →
    let dest := gRead s.hart a.toNat
    (dest.toNat % 4 ≠ 0 →
      exec (.jr a) s = .next (takeTrap (discardWait s) { code := 0x07, val := dest } .scalar) ∧
      exec (.callr a) s = .next (takeTrap (discardWait s) { code := 0x07, val := dest } .scalar)) ∧
    (∀ x rest, s.hart.sc.rstack = x :: rest → x.toNat % 4 ≠ 0 → x ≠ BitVec.allOnes 64 →
      exec .ret s = .next (takeTrap (discardWait s) { code := 0x07, val := x } .scalar)) ∧
    (∀ rest, s.hart.sc.rstack = BitVec.allOnes 64 :: rest → s.hart.cs.hstat.hl = true →
      exec .ret s = .next (takeTrap (discardWait s) { code := 0x01, val := s.issue.word.setWidth 64 } .scalar))

end Sys2Proof

/-- JR, CALL, CALLR and RET go where R60 and R67 say through the return stack and its spill area, and trap on a bad
target (R16, R54, R60, R67). -/
def Obligations.CallsAndReturnsUseTheStack : Prop := callsPushAndReturnsPop ∧ badTargetsTrap

/-! ### Memory, loads and stores -/

/-- Memory reads back what is written, the lowest byte at the lowest address (R3): `n` bytes written from `a` on read as
the value's low `n` bytes, every byte outside them reads as before, and the canonical form is kept. -/
def Obligations.MemoryReadsBackAWrite : Prop :=
  ∀ (m : Memory) (a n v : Nat), m.wf = true →
    memRead (memWrite m a n v) a n = v % 256 ^ n ∧
    (∀ i < n, memByte (memWrite m a n v) (a + i) = BitVec.ofNat 8 (v / 256 ^ i)) ∧
    (∀ b, (b < a ∨ a + n ≤ b) → memByte (memWrite m a n v) b = memByte m b) ∧
    (memWrite m a n v).wf = true

namespace Sys2Proof

/-- The byte at a location as the scalar side of a core reads it: in its L1 copy of the line where it has one, else at the
point below the L1, with the bytes over it that the L1 has written back and that are held for want of a shadow; a window is
read at its array (R117, R128, R129, R134, R238). -/
def seenByte (s : State) (core a : Nat) : Nat :=
  if isWindowLoc a then (memByte s.mem a).toNat
  else match s.l1Line? core (lineOf a) with
    | some x => lineBytes x.data (a % 128) 1
    | none => lineBytes (s.withHeld core (lineOf a) (s.pointLine (core / 64) (lineOf a))) (a % 128) 1

/-- A location is not one of the two bytes of the leaf entry in which an access sets its marks (R223). -/
def notMarked (l : Located) (a : Nat) : Prop := ∀ p, l.leafAt = some p → a ≠ p ∧ a ≠ p + 1

/-- A scalar store changes the bytes it stores and no other byte as its core reads them (R117, R128): the byte at the
i-th location from the one its address translates to becomes byte i of the value, and every other location reads as
before, but for the marks of the page's leaf entry (R223). -/
def scalarStoresChangeOnlyTheirBytes : Prop :=
  ∀ (s u : State) (va n v : Nat) (l : Located), s.mem.wf = true →
    scalarWrite s va n v = .ok u → locate s .write false va = .ok l → l.loc % 128 + n ≤ 128 →
    ∀ a, notMarked l a ∨ (l.loc ≤ a ∧ a < l.loc + n) → seenByte u s.hart.place.core a =
      if l.loc ≤ a ∧ a < l.loc + n then v / 256 ^ (a - l.loc) % 256 else seenByte s s.hart.place.core a

/-- A scalar load returns the bytes its core reads at the location its address translates to, the lowest first, and no
byte reads differently after it, but for the marks of the page's leaf entry (R3, R117, R128, R223). -/
def scalarLoadsReturnTheirBytes : Prop :=
  ∀ (s u : State) (va n v : Nat) (l : Located), s.mem.wf = true →
    scalarRead s .read va n = .ok (v, u) → locate s .read false va = .ok l → l.loc % 128 + n ≤ 128 →
    s.poolOf (lineOf l.loc) = none →
    v < 256 ^ n ∧
    (∀ i < n, notMarked l (l.loc + i) → v / 256 ^ i % 256 = seenByte s s.hart.place.core (l.loc + i)) ∧
    (∀ a, notMarked l a → seenByte u s.hart.place.core a = seenByte s s.hart.place.core a)

end Sys2Proof

/-- A scalar store changes the bytes it stores and no other, and a scalar load returns the bytes its core reads and
changes none, but for the marks of the page's leaf entry (R3, R117, R128, R223). -/
def Obligations.ScalarAccessesAreOfTheirBytes : Prop := scalarStoresChangeOnlyTheirBytes ∧ scalarLoadsReturnTheirBytes

namespace Sys2Proof

/-- The loads of LD: their size and how they extend the bytes read (R128). -/
def loadTable : List ((BitVec 5 → BitVec 5 → BitVec 9 → Instr) × Nat × (Nat → Word)) :=
  [(.ldB, 1, fun v => (BitVec.ofNat 8 v).signExtend 64), (.ldBn, 1, fun v => BitVec.ofNat 64 v),
   (.ldH, 2, fun v => (BitVec.ofNat 16 v).signExtend 64), (.ldHn, 2, fun v => BitVec.ofNat 64 v),
   (.ldW, 4, fun v => (BitVec.ofNat 32 v).signExtend 64), (.ldWn, 4, fun v => BitVec.ofNat 64 v),
   (.ldD, 8, fun v => BitVec.ofNat 64 v)]

/-- The stores of ST and their size (R128). -/
def storeTable : List ((BitVec 5 → BitVec 5 → BitVec 9 → Instr) × Nat) :=
  [(.stB, 1), (.stH, 2), (.stW, 4), (.stD, 8)]

/-- The state with the memory, the copies of its lines, the lines to copy again of moving pages (R230) and the free-value
counter of another. -/
def withMemoryOf (s t : State) : State := { s with mem := t.mem, l1 := t.l1, l2 := t.l2, moves := t.moves, draws := t.draws }

/-- Every load of LD at g[a] + z · sext(imm9), z its size in bytes, completes where the read succeeds: g[d] takes the
bytes read, extended as its row says, no other register changes, and of the rest of the machine only memory's marks and
the copies of lines may (R128; what the read returns and leaves: scalarLoadsReturnTheirBytes). A misaligned address raises
MISALIGN with the address in HTVAL, and nothing is read. -/
def scalarLoadsWriteTheirResult : Prop :=
  ∀ (s : State) (d a : BitVec 5) (i : BitVec 9), Issuing s .scalar → ∀ e ∈ loadTable,
    let va := gRead s.hart a.toNat + BitVec.ofInt 64 (e.2.1 * i.toInt)
    (va.toNat % e.2.1 ≠ 0 →
      exec (e.1 d a i) s = .next (takeTrap (discardWait s) { code := 0x07, val := va } .scalar)) ∧
    (va.toNat % e.2.1 = 0 → ∀ v u, scalarRead (discardWait s) .read va.toNat e.2.1 = .ok (v, u) →
      ∃ t, exec (e.1 d a i) s = .next t ∧ ScalarResult (withMemoryOf s t) t d (e.2.2 v) ∧
        t.mem = u.mem ∧ t.l1 = u.l1 ∧ t.l2 = u.l2)

/-- Every store of ST at g[a] + z · sext(imm9), z its size in bytes, completes where the write of g[d]'s low z bytes
succeeds, and writes no register (R128; which bytes change: scalarStoresChangeOnlyTheirBytes). A misaligned address raises
MISALIGN with the address in HTVAL, and nothing is stored. -/
def scalarStoresStoreTheirBytes : Prop :=
  ∀ (s : State) (d a : BitVec 5) (i : BitVec 9), Issuing s .scalar → ∀ e ∈ storeTable,
    let va := gRead s.hart a.toNat + BitVec.ofInt 64 (e.2 * i.toInt)
    (va.toNat % e.2 ≠ 0 →
      exec (e.1 d a i) s = .next (takeTrap (discardWait s) { code := 0x07, val := va } .scalar)) ∧
    (va.toNat % e.2 = 0 → ∀ u,
      scalarWrite (discardWait s) va.toNat e.2 ((gRead s.hart d.toNat).toNat % 256 ^ e.2) = .ok u →
      ∃ t, exec (e.1 d a i) s = .next t ∧
        ScalarJump { withMemoryOf s t with contexts := t.contexts, barriers := t.barriers } t (s.hart.sc.pc + 4) ∧
        t.mem = u.mem ∧ t.l1 = u.l1 ∧ t.l2 = u.l2 ∧ t.contexts = u.contexts ∧ t.barriers = u.barriers)

end Sys2Proof

/-- The seven loads of LD and the four stores of ST complete where their access does, with the address, size and
extension of R128, and trap on a misaligned address (R77, R128). -/
def Obligations.LoadsAndStoresComplete : Prop := scalarLoadsWriteTheirResult ∧ scalarStoresStoreTheirBytes

namespace Sys2Proof

/-- The new value of an AMO from the old one, g[b] and the value g[d] held at issue (R140). -/
def amoTable : List ((BitVec 5 → BitVec 5 → BitVec 5 → BitVec 3 → Instr) × (Word → Word → Word → Word)) :=
  [(.amoAdd, fun o x _ => o + x), (.amoAnd, fun o x _ => o &&& x), (.amoOr, fun o x _ => o ||| x),
   (.amoXor, fun o x _ => o ^^^ x), (.amoMin, fun o x _ => if x.toInt < o.toInt then x else o),
   (.amoMax, fun o x _ => if o.toInt < x.toInt then x else o), (.amoSwap, fun _ x _ => x),
   (.amoCas, fun o x e => if o = e then x else o),
   (.amoFadd, fun o x _ => BitVec.ofNat 64 ((floatFormat .f64).add .rne o.toNat x.toNat).1)]

end Sys2Proof

/-- An AMO on a doubleword of the package's columns completes (R129, R140): g[d] takes the old doubleword, the doubleword
becomes what its row gives, every other byte of memory reads as before but for the marks of the page's leaf entry, and no
other register changes. The doubleword lies in no shadow pool, tracked line or poisoned line, the core's L1 holds no copy
of its line, and no bank request does. A misaligned address raises MISALIGN with the address in HTVAL, and nothing is
accessed. -/
def Obligations.AtomicsUpdateTheirDoubleword : Prop :=
  ∀ (s : State) (d a b : BitVec 5) (c : BitVec 3), Issuing s .scalar → s.mem.wf = true → c.toNat ≤ 5 →
    ∀ e ∈ amoTable,
    let va := gRead s.hart a.toNat
    (va.toNat % 8 ≠ 0 →
      exec (e.1 d a b c) s = .next (takeTrap (discardWait s) { code := 0x07, val := va } .scalar)) ∧
    (∀ l, va.toNat % 8 = 0 → locate (discardWait s) .write true va.toNat = .ok l →
      l.loc % 8 = 0 → l.loc < s.product.cores * columnBytes → (∀ i < 8, notMarked l (l.loc + i)) → s.isSealed l.loc 8 = false →
      s.poisoned (lineOf l.loc) = false → s.poolOf (lineOf l.loc) = none → s.tracker (lineOf l.loc) = none →
      s.l1Line? s.hart.place.core (lineOf l.loc) = none → requestsHold s none l.loc = false →
      ∃ t, exec (e.1 d a b c) s = .next t ∧
        ScalarResult (withMemoryOf s t) t d (BitVec.ofNat 64 (memRead s.mem l.loc 8)) ∧
        memRead t.mem l.loc 8 =
          (e.2 (BitVec.ofNat 64 (memRead s.mem l.loc 8)) (gRead s.hart b.toNat) (gRead s.hart d.toNat)).toNat ∧
        (∀ x, notMarked l x → (x < l.loc ∨ l.loc + 8 ≤ x) → memByte t.mem x = memByte s.mem x))

namespace Sys2Proof

/-! ### Synchronization

In these statements `discardWait s` is the state at the word's issue: a scalar-side word has discarded the WAIT record of
its level (R71), and a vector-side word leaves the state as it is. -/

/-- The registers of the hart in focus that words compute with are as before. -/
def SameRegisters (s t : State) : Prop :=
  t.hart.sc.g = s.hart.sc.g ∧ t.hart.ve.h = s.hart.ve.h ∧ t.hart.ve.lc = s.hart.ve.lc ∧
  t.hart.ve.v = s.hart.ve.v ∧ t.hart.ve.m = s.hart.ve.m

end Sys2Proof

/-- A word that retires with a result in g[d], in h[d], or in the register its side names changes that register and no
other, and no memory, no copy of a line and nothing outside its hart; g0 keeps reading 0 (R19, R20, R61). -/
def Obligations.ResultsGoToOneRegister : Prop :=
  ∀ (u : State) (d : BitVec 5) (v : Word),
    (u.issue.side = .scalar → xgave u d v = gave u d v ∧ OneScalar u (gave u d v) d v ∧
      OnlyHart u (gave u d v) ∧ (gave u d v).hart.ve = u.hart.ve ∧ (gave u d v).hart.tl = u.hart.tl ∧
      (gave u d v).hart.q = u.hart.q ∧ (gave u d v).hart.f = u.hart.f ∧ Retired u (gave u d v)) ∧
    (u.issue.side = .vector → xgave u d v = hgave u d v ∧
      (d.toNat < 16 → ∀ r : BitVec 5, hRead (hgave u d v).hart r.toNat = if r = d then v else hRead u.hart r.toNat) ∧
      OnlyHartBeats u (hgave u d v) u.issue.beats ∧ (hgave u d v).hart.sc = u.hart.sc ∧ (hgave u d v).hart.ve.v = u.hart.ve.v ∧
      (hgave u d v).hart.ve.m = u.hart.ve.m ∧ (hgave u d v).hart.ve.lc = u.hart.ve.lc ∧
      (hgave u d v).hart.tl = u.hart.tl ∧ (hgave u d v).hart.q = u.hart.q ∧ (hgave u d v).hart.f = u.hart.f ∧
      Retired u (hgave u d v))

namespace Sys2Proof

/-- FENCE and FENCE.V complete on either side and write no register (R130, R134, R138); on the vector side FENCE waits for
every access and FENCE.V for every write of the hart's engines that is under way, and FENCE waits while a write that it
sends out of the core's L1 is held for want of a shadow (R238). After FENCE of scope .clus or wider the core's L1 holds no
line; of scope .dev or wider the stack's L2 holds no far line, and of scope .sys no peer line. After FENCE.V the lines of
the stack's L2 that its scope reaches have no dirty byte that this hart's vector side wrote, and other bytes are as they
were. -/
def fencesPublishAndInvalidate : Prop :=
  ∀ (s : State) (sd : Side) (c : BitVec 3), Issuing s sd → c.toNat ≤ 5 →
    let core := s.hart.place.core
    ((sd = .vector → vectorAccessesPending s = false) →
      (fenceActions (discardWait s) c.toNat).holdsWrite core (fun _ => true) = false →
      ∃ t, exec (.fence c) s = .next t ∧ pcOf t = pcOf s + 4 ∧ SameRegisters s t ∧
        (2 ≤ c.toNat → ∀ x ∈ t.l1, x.core ≠ core) ∧
        (4 ≤ c.toNat → ∀ y ∈ t.l2, y.stack = core / 64 → isFarLoc (128 * y.line) = false) ∧
        (5 ≤ c.toNat → ∀ y ∈ t.l2, y.stack = core / 64 → isPeerLoc (128 * y.line) = false)) ∧
    (vectorWritesPending s = false →
      ∃ t, exec (.fenceV c) s = .next t ∧ pcOf t = pcOf s + 4 ∧ SameRegisters s t ∧ t.l1 = s.l1 ∧
        (∀ y ∈ t.l2, y.stack = core / 64 →
          (4 ≤ c.toNat ∧ isFarLoc (128 * y.line) = true ∨ 5 ≤ c.toNat ∧ isPeerLoc (128 * y.line) = true) →
          y.own s.hart.uid = 0) ∧
        (∀ y ∈ t.l2, ∃ x ∈ s.l2, y.stack = x.stack ∧ y.line = x.line ∧ y.data = x.data ∧
          y.dirty &&& ~~~(x.own s.hart.uid) = x.dirty &&& ~~~(x.own s.hart.uid)))

/-- ACQ and REL on an object whose line reads well formed complete on either side and write no register (R130 to R133,
R138, R139). After ACQ of scope .clus or wider the core's L1 holds no line of a region of the object; after REL none of
them has a dirty byte in it. On the vector side ACQ waits for every access, and REL on either side for every write, of the
hart's engines that is under way, and either waits while a write of such a line is held for want of a shadow (R238). -/
def acquireAndReleaseAnObject : Prop :=
  ∀ (s : State) (sd : Side) (a : BitVec 5) (n : Nat) (v : Nat) (u : State) (ds : List Descriptor) (sc : Nat),
    Issuing s sd → (sd = .vector → a.toNat < 16) →
    readObject (discardWait s) .read 0 (xRead s a.toNat).toNat = .ok (n, v, u) → regionsOf v = some ds →
    scopeOf ds = some sc →
    let core := s.hart.place.core
    ((sd = .vector → vectorAccessesPending s = false) →
      (acquireLines u core sc (covered u u.hart ds)).holdsWrite core (covered u u.hart ds) = false →
      ∃ t, exec (.acq a) s = .next t ∧ pcOf t = pcOf s + 4 ∧ SameRegisters s t ∧
        (2 ≤ sc → ∀ x ∈ t.l1, x.core = core → covered u u.hart ds x.line = false)) ∧
    (vectorWritesPending s = false →
      (publishLines u core sc (covered u u.hart ds)).holdsWrite core (covered u u.hart ds) = false →
      ∃ t, exec (.rel a) s = .next t ∧ pcOf t = pcOf s + 4 ∧ SameRegisters s t ∧
        (2 ≤ sc → ∀ x ∈ t.l1, x.core = core → covered u u.hart ds x.line = true → x.dirty = 0))

end Sys2Proof

/-- FENCE, FENCE.V, ACQ and REL complete on either side, write no register, and leave the caches as their scope says
(R130 to R134, R138, R139). -/
def Obligations.FencesOrderAccesses : Prop := fencesPublishAndInvalidate ∧ acquireAndReleaseAnObject

/-- BIND and UNBIND complete on either side (R131, R138, R139). BIND of a well-formed descriptor in use gives the number
of the slot that already holds it; else, where the object's scope agrees and a slot is free, the descriptor is written to
the lowest free slot, whose number it gives; else, with every slot in use, all ones, and nothing is written. UNBIND clears
one slot, or with all ones the whole line, and with any other number nothing. -/
def Obligations.BindingEditsTheObject : Prop :=
  ∀ (s : State) (sd : Side) (d a b : BitVec 5), Issuing s sd → (sd = .vector → d.toNat < 16 ∧ a.toNat < 16 ∧ b.toNat < 16) →
    let x := (xRead s a.toNat).toNat
    let y := xRead s b.toNat
    (∀ v w r n₀ line u ds, x % 128 = 0 → y.toNat % 16 = 0 → readDescriptor (discardWait s) y.toNat = .ok (v, w) →
      descriptor v = some r → r.len ≠ 0 → readObject w .read r.scope x = .ok (n₀, line, u) → regionsOf line = some ds →
      (∀ n, equalSlot line v = some n → exec (.bind d a b) s = .next (xgave u d (BitVec.ofNat 64 n))) ∧
      (equalSlot line v = none → (∀ o ∈ ds, o.scope = r.scope) → freeSlot line = none →
        exec (.bind d a b) s = .next (xgave u d (BitVec.allOnes 64))) ∧
      (∀ n z, equalSlot line v = none → (∀ o ∈ ds, o.scope = r.scope) → freeSlot line = some n → awaitSide u .write x = .ok () →
        writeObject u x n₀ (16 * n) 16 v = .ok z →
        exec (.bind d a b) s = .next (xgave z d (BitVec.ofNat 64 n)))) ∧
    (x % 128 = 0 →
      (∀ z, y.toNat ≤ 7 → clearSlots (discardWait s) x (16 * y.toNat) 16 = .ok z → exec (.unbind a b) s = .next (retire z)) ∧
      (∀ z, y = BitVec.allOnes 64 → clearSlots (discardWait s) x 0 128 = .ok z → exec (.unbind a b) s = .next (retire z)) ∧
      (7 < y.toNat → y ≠ BitVec.allOnes 64 → exec (.unbind a b) s = .next (retire (discardWait s))))

/-! ### Barriers -/

/-- The five words of BAR complete on either side, where the record at the address they name reads well formed at their
scope (R141 to R147). BINIT arms or frees a record that is not filling; a filling one is refused with 1; it is performed
at the point of its own SCOPE, which is the model's choice where the record's is another (notes/assumptions/126). An
arrival on an armed or filling record that is not the last counts itself, and gives ARRIVED with the phase as its token;
the last one resets the count, turns the phase, acquires, and gives LAST; on an aborted record it changes nothing and
gives ABORTED. BWAIT completes with RELEASED once the phase is not its token's, and with ABORTED on an aborted record;
BTEST never waits and gives PENDING instead; BARW completes as BARRIVE does unless it has to wait, and then, arrived once,
waits as BWAIT. A word that waits looks at no more than the record's state and phase. A word that publishes goes on once
no write that it sent out of the L1 is held for want of a shadow, and one that acquires once its side's earlier accesses
are performed (R130, R145). Outside timed regions `retireBar` gives the result and ends the wait. -/
def Obligations.BarriersCountTheirArrivals : Prop :=
  ∀ (s : State) (sd : Side) (d a b : BitVec 5) (c : BitVec 3),
    Issuing s sd → (sd = .vector → d.toNat < 16 ∧ a.toNat < 16 ∧ b.toNat < 16) → c.toNat ≤ 5 →
    let x := (xRead s a.toNat).toNat
    let y := xRead s b.toNat
    let result (st : BarStatus) (tok : Bool) : Word := BitVec.ofNat 64 (2 * st.code + tok.toNat)
    let acquired (z : State) : Prop := sideBusy z = false ∧ sideHeld (acquireSide z c.toNat) = false
    (∀ u v, u.hart.cs.hstat.timed = false → retireBar u d v = xgave (setBarWaiting u none) d v) ∧
    (∀ l r u, readBarrier (discardWait s) x c.toNat true = .ok (l, r, u) → y.toNat < 2 ^ 24 →
      (r.st = .filling → exec (.binit d a b c) s = .next (retireBar u d 1)) ∧
      (∀ z, r.st ≠ .filling → writeBarrier u x c.toNat
          (if y.toNat = 0 then ⟨0, 0, false, .free, 0, 0⟩ else ⟨y.toNat, 0, false, .armed, c.toNat, u.hart.launch.toNat⟩) true
          = .ok z → exec (.binit d a b c) s = .next (retireBar z d 0))) ∧
    (barWaiting s = none → ∀ l r u, readBarrier (discardWait s) x c.toNat false = .ok (l, r, u) →
      (∀ p, publishSide u c.toNat = .ok p → sideHeld p = false →
        (r.st = .aborted →
          exec (.barrive d a c) s = .next (retireBar p d (result .aborted r.phase)) ∧
          exec (.barw d a c) s = .next (retireBar p d (result .aborted r.phase))) ∧
        (∀ z, r.st ≠ .aborted → r.arrived + 1 < r.count →
          writeBarrier p x c.toNat { r with arrived := r.arrived + 1, st := .filling } false = .ok z →
          exec (.barrive d a c) s = .next (retireBar z d (result .arrived r.phase)) ∧
          exec (.barw d a c) s = .next (stall (setBarWaiting z
            (some { d := d.toNat, tok := r.phase, p := z.issue.p, arrived := true, stage := .phase })))) ∧
        (∀ z, r.st ≠ .aborted → r.count ≤ r.arrived + 1 →
          writeBarrier p x c.toNat { r with arrived := 0, phase := !r.phase, st := .armed } false = .ok z → acquired z →
          exec (.barrive d a c) s = .next (retireBar (acquireSide z c.toNat) d (result .last r.phase)) ∧
          exec (.barw d a c) s = .next (retireBar (acquireSide z c.toNat) d (result .last r.phase)))) ∧
      (let tok := y.getLsbD 0
       (r.st = .aborted →
          exec (.bwait d a b c) s = .next (retireBar u d (result .aborted tok)) ∧
          exec (.btest d a b c) s = .next (retireBar u d (result .aborted tok))) ∧
       (r.st ≠ .aborted → r.phase ≠ tok → acquired u →
          exec (.bwait d a b c) s = .next (retireBar (acquireSide u c.toNat) d (result .released tok)) ∧
          exec (.btest d a b c) s = .next (retireBar (acquireSide u c.toNat) d (result .released tok))) ∧
       (r.st ≠ .aborted → r.phase = tok →
          exec (.bwait d a b c) s = .next (stall (setBarWaiting u
            (some { d := d.toNat, tok := tok, p := s.issue.p, arrived := false, stage := .phase }))) ∧
          exec (.btest d a b c) s = .next (retireBar u d (result .pending tok))))) ∧
    (∀ w, barWaiting s = some w → w.stage = .phase → ∀ l v u, barrierBytes (discardWait s) x c.toNat = .ok (l, v, u) →
      let st := bytesAt v 8 4 / 2 % 4
      let phase := bytesAt v 8 4 % 2 == 1
      (st = 3 →
        exec (.bwait d a b c) s = .next (retireBar u d (result .aborted w.tok)) ∧
        exec (.barw d a c) s = .next (retireBar u d (result .aborted w.tok))) ∧
      (st ≠ 3 → phase ≠ w.tok → acquired u →
        exec (.bwait d a b c) s = .next (retireBar (acquireSide u c.toNat) d (result .released w.tok)) ∧
        exec (.barw d a c) s = .next (retireBar (acquireSide u c.toNat) d (result .released w.tok))) ∧
      (st ≠ 3 → phase = w.tok →
        exec (.bwait d a b c) s = .next (stall (discardWait s)) ∧
        exec (.barw d a c) s = .next (stall (discardWait s))))

namespace Sys2Proof

/-! ### Control registers -/

/-- CSRX and CSRS of a numbered register complete on either side unless the access is privileged and the hart is at level 0
(R62, R68): the register that d names takes the old value, and the control register what `csrWrite` gives it
(ControlRegistersTakeTheirFields). Privileged at level 0 are every access of HSCRATCH and a write of HCAUSE, HEPC, HTVAL,
HQPOS or HTVEC, which CSRX always makes and CSRS makes where its source is not zero: then PRIV is raised, with the word in
HTVAL, and nothing is read or written. -/
def csrWordsComplete : Prop :=
  ∀ (s : State) (sd : Side) (d a : BitVec 5) (x : BitVec 12), Issuing s sd → (sd = .vector → d.toNat < 16 ∧ a.toNat < 16) →
    isControlRegister x = true →
    let src := xRead s a.toNat
    let u := discardWait s
    let trap := takeTrap u { code := 0x06, val := s.issue.word.setWidth 64 } (sourceOf sd)
    let level0 := s.hart.cs.hstat.hl = false
    (¬ (level0 ∧ (x = 0x006 ∨ 0x001 ≤ x ∧ x ≤ 0x005)) →
      exec (.csrx d a x) s = .next (xgave (csrWrite u x src.toNat false) d (csrRead u x))) ∧
    (¬ (level0 ∧ (x = 0x006 ∨ 0x001 ≤ x ∧ x ≤ 0x005 ∧ src ≠ 0)) →
      exec (.csrs d a x) s = .next (xgave (csrWrite u x src.toNat true) d (csrRead u x))) ∧
    (level0 → (x = 0x006 ∨ 0x001 ≤ x ∧ x ≤ 0x005) → exec (.csrx d a x) s = .next trap) ∧
    (level0 → (x = 0x006 ∨ 0x001 ≤ x ∧ x ≤ 0x005 ∧ src ≠ 0) → exec (.csrs d a x) s = .next trap)

/-- Control registers with plain fields: number, and the bits that a write can change at level 0 and at level 1: HCAUSE,
HEPC, HTVAL, HQPOS, HTVEC, HSCRATCH, HRPC, HRSP, HFSP and VPROG (R62, R63, R72). -/
def plainControls : List (BitVec 12 × Word × Word) :=
  [(0x001, 0, 0xFC0000000000FFFF), (0x002, 0, 0x00FFFFFFFFFFFFFC), (0x003, 0, 0xFFFFFFFFFFFFFFFF),
   (0x004, 0, 0xFFFFFFFFFFFFFFFF), (0x005, 0, 0x00FFFFFFFFFFFFFC), (0x006, 0, 0xFFFFFFFFFFFFFFFF),
   (0x007, 0, 0x00FFFFFFFFFFFFFF), (0x008, 0x00FFFFFFFFFFFFF8, 0x00FFFFFFFFFFFFF8),
   (0x009, 0x00FFFFFFFFFFFFF8, 0x00FFFFFFFFFFFFF8), (0x10C, 0, 0xFFFFFFFFFFFFFFFF)]

/-- Registers that no write changes at either level: HPART, HCTX, CYCLE, INSTRET, TIME, VL, VTYPE, ALC, LANEMAP, the six
first-exception registers, TREG, TPLAN, EUSED, EQUOTA and EPLAN (R62). -/
def readOnlyControls : List (BitVec 12) :=
  [0x00A, 0x00B, 0x010, 0x011, 0x012, 0x100, 0x101, 0x102, 0x103, 0x105, 0x106, 0x107, 0x108, 0x109, 0x10A, 0x110, 0x111,
   0x200, 0x201, 0x202]

end Sys2Proof

/-- What a write leaves a control register reading (R5, R43, R47, R62, R63, R68, R72): under CSRX a writable field takes the
source, under CSRS it gains the source's ones, and every other bit stays; VFLAGS and HSTAT.DISC lose the ones of the source;
FRM takes SEED 1 for a SEED of 0 and keeps MODE for a MODE of 6 or 7; HSTAT takes SCHK at either level and PIE, PHL and IE
at level 1. A read-only register and everything outside the control registers stays as it is. -/
def Obligations.ControlRegistersTakeTheirFields : Prop :=
  ∀ (u : State) (src : Word),
    let hl := u.hart.cs.hstat.hl
    (∀ e ∈ plainControls,
      let m := if hl then e.2.2 else e.2.1
      csrRead (csrWrite u e.1 src.toNat false) e.1 = (csrRead u e.1 &&& ~~~m) ||| (src &&& m) ∧
      csrRead (csrWrite u e.1 src.toNat true) e.1 = csrRead u e.1 ||| (src &&& m) ∧
      ∀ g, csrWrite u e.1 src.toNat g =
        { u with hart := { u.hart with cs := (csrWrite u e.1 src.toNat g).hart.cs } }) ∧
    (∀ x ∈ readOnlyControls, ∀ g, csrWrite u x src.toNat g = u) ∧
    (∀ g, csrRead (csrWrite u 0x104 src.toNat g) 0x104 = csrRead u 0x104 &&& ~~~src) ∧
    (let t := csrWrite u 0x10B src.toNat false
     t.hart.cs.seed = (if src.extractLsb' 32 32 = 0 then 1 else src.extractLsb' 32 32) ∧
     t.hart.cs.mode = (if 6 ≤ (src.extractLsb' 0 3).toNat then u.hart.cs.mode else src.extractLsb' 0 3)) ∧
    (let t := (csrWrite u 0x000 src.toNat false).hart.cs.hstat
     t.schk = src.getLsbD 7 ∧ t.disc = (u.hart.cs.hstat.disc && !src.getLsbD 9) ∧ t.hl = hl ∧
     t.timed = u.hart.cs.hstat.timed ∧
     (hl = true → t.pie = src.getLsbD 6 ∧ t.phl = src.getLsbD 5 ∧ t.ie = src.getLsbD 0) ∧
     (hl = false → t.pie = u.hart.cs.hstat.pie ∧ t.phl = u.hart.cs.hstat.phl ∧ t.ie = u.hart.cs.hstat.ie))

namespace Sys2Proof

/-- The three rows of the table that write a control register write it as CSRX does for the hart in focus, where it is
resident: FRM_WRITE, SPDISC_WRITE, and VPFB_WRITE, which at level 0 leaves the register as it is (R43, R62, R111, R276). -/
def registerWriteRowsWriteAsCsrx : Prop :=
  ∀ (s : State) (v : Word), s.hart.resident = true →
    exec (.frmWrite v) s = .next (csrWrite s 0x10B v.toNat false) ∧
    exec (.spdiscWrite v) s = .next (csrWrite s 0x210 v.toNat false) ∧
    (csrWrite s 0x210 v.toNat false).hart.cs.spdisc = v.setWidth 8 &&& grantedSegments s s.hart ∧
    (s.hart.cs.hstat.hl = true → exec (.vpfbWrite v) s = .next (csrWrite s 0x10D v.toNat false) ∧
      (csrWrite s 0x10D v.toNat false).hart.ve.spilled = v.extractLsb' 32 32 ∧
      ((v.toNat % 8 ≤ 4 → (csrWrite s 0x10D v.toNat false).hart.ve.frags.length = v.toNat % 8) ∧
       (v.toNat % 8 ≤ s.hart.ve.frags.length → v.toNat % 8 ≤ 4 → (csrWrite s 0x10D v.toNat false).hart.ve.frags =
          s.hart.ve.frags.drop (s.hart.ve.frags.length - v.toNat % 8)))) ∧
    (s.hart.cs.hstat.hl = false → exec (.vpfbWrite v) s = .next s)

end Sys2Proof

/-- CSRX and CSRS, and the table's three rows that write a control register, complete unless the access is privileged at
level 0 (R43, R62, R68, R111, R276). -/
def Obligations.ControlRegisterWordsComplete : Prop := csrWordsComplete ∧ registerWriteRowsWriteAsCsrx

namespace Sys2Proof

/-! ### Taking an exception and returning from one -/

/-- Delivery of a trap to the hart's handler (R54, R73, R77), for a hart at level 0 that has a handler and is outside a
timed region: HCAUSE holds the cause, the sub-cause and who raised it, HTVAL the value, HEPC the scalar word that would run
next (0 with EXIT for an Ending hart), HQPOS the position of a trap of the vector side; HSTAT saves IE and HL and goes to
level 1 with interrupts off; the scalar side goes on at HTVEC. No register that words compute with, no memory and nothing
outside the hart changes, but that a trap was taken is noted beside the word at hand. (The trap is not GROUP, whose
delivery also unbinds: R312; what its walk leaves in a page table is R223's and R224's.) -/
def trapsEnterTheHandler : Prop :=
  ∀ (s : State) (t : Trap) (src : TrapSource),
    s.hart.cs.hstat.hl = false → s.hart.cs.htvec.toNat / 8 % 2 ^ 53 ≠ 0 → s.hart.cs.hstat.timed = false →
    s.hart.tl.region = none → s.hart.sc.barw = none → s.hart.ve.barw = none → t.mark = none → t.report = none →
    t.code ≠ 0x30 →
    let r := takeTrap s t src
    let c := s.hart.cs
    let ending : Bool := s.hart.life == .ending
    r.hart.life = .handler ∧ r.hart.sc.pc = c.htvec ∧
    r.hart.cs = { c with
      hcause := { int := src == .interrupt, vs := src == .vector, vrs := false, ta := false, exit := ending, eng := false,
                  sub := t.sub, code := t.code },
      htval := t.val,
      hqpos := (if src = .vector then qposOf s.hart else c.hqpos),
      hepc := (if ending then 0 else s.hart.sc.pc &&& 0x00FFFFFFFFFFFFFC),
      hstat := { c.hstat with pie := c.hstat.ie, phl := c.hstat.hl, hl := true, ie := false } } ∧
    SameRegisters s r ∧ SameMemory s r ∧
    r = { s with hart := r.hart, issue := { s.issue with trapped := true } } ∧ r.hart.ve.pc = s.hart.ve.pc ∧ r.hart.ve.block = s.hart.ve.block ∧
    r.hart.q = s.hart.q ∧ r.hart.sc.rstack = s.hart.sc.rstack

/-- A trap that cannot go to a handler goes to the supervisor (R75, R272): at level 1 the hart is Halted where it is, and
without a handler its unit is retired and its place is Free. The first event since the fault record of its context was
cleared fills the record: the cause, the value, where the hart stands, its launch, and the position of either side; VRS,
TA, EXIT and ENG of its CAUSE are 0 for such a trap (R272 gives HCAUSE's layout; that they are 0 is the model's reading,
notes/assumptions/52). The hart's function is the PF, or a VF with quota left whose hart is outside a timed region, so that
no QUOTA event follows in the same cycle (R207). -/
def unhandledTrapsGoToTheSupervisor : Prop :=
  ∀ (s : State) (t : Trap) (src : TrapSource) (c : Context),
    s.hart.resident = true → s.hart.sc.barw = none → s.hart.ve.barw = none → t.mark = none → t.report = none →
    s.ctx? s.hart.asid = some c → c.fault.count = 0 → c.requests = [] →
    (s.fnOf s.hart.asid = some none ∨ (s.hart.tl.region = none ∧ s.exhausted s.hart.asid = false)) →
    (s.hart.cs.hstat.hl = true ∨ s.hart.cs.htvec.toNat / 8 % 2 ^ 53 = 0) →
    let r := takeTrap s t src
    (s.hart.cs.hstat.hl = true → r.hart.life = s.hart.life.halt ∧ r.hart.halted = true) ∧
    (s.hart.cs.hstat.hl = false → r.hart.life = .free) ∧
    ∃ c', r.ctx? s.hart.asid = some c' ∧ c'.fault =
      { cause := { int := src == .interrupt, vs := src == .vector, sub := t.sub, code := t.code },
        tval := t.val,
        epc := (if s.hart.life = .ending then 0 else s.hart.sc.pc &&& 0x00FFFFFFFFFFFFFC),
        qpos := (if src = .vector then qposOf s.hart else 0),
        where_ := whereWord s.hart.place, count := 1, launch := s.hart.launch }

end Sys2Proof

/-- A trap is delivered to the handler of a hart at level 0, and goes to the supervisor from level 1 or without a
handler (R54, R73, R75, R77, R272). -/
def Obligations.TrapsGoToHandlerOrSupervisor : Prop := trapsEnterTheHandler ∧ unhandledTrapsGoToTheSupervisor

namespace Sys2Proof

/-- BREAK and TRAP take their exception on either side, with nothing in HTVAL and with the trap number (R24, R71). A word
marked S on the vector side apart, ERET and WAIT there raise ILLEGAL with the word in HTVAL (R71), and ERET at level 0
raises PRIV with it (R71, R74). -/
def systemWordsRaiseTheirTraps : Prop :=
  ∀ (s : State) (sd : Side) (n : BitVec 8) (d a : BitVec 5), Issuing s sd →
    let u := discardWait s
    let w : Word := s.issue.word.setWidth 64
    exec .brk s = .next (takeTrap u { code := 0x04 } (sourceOf sd)) ∧
    exec (.trap n) s = .next (takeTrap u { code := 0x05, val := n.setWidth 64 } (sourceOf sd)) ∧
    (sd = .vector → exec .eret s = .next (takeTrap u { code := 0x01, val := w } .vector) ∧
      exec (.wait d a) s = .next (takeTrap u { code := 0x01, val := w } .vector)) ∧
    (sd = .scalar → s.hart.cs.hstat.hl = false → exec .eret s = .next (takeTrap u { code := 0x06, val := w } .scalar))

/-- ERET at level 1 returns from the handler (R54, R71, R74): HL and IE take what PHL and PIE hold, the hart is Running
again and its scalar side goes on at HEPC; with HCAUSE.EXIT it is Ending again and the scalar side stays where it is; with
HCAUSE.VRS a vector side that has a block goes on at HRPC, and otherwise where it stopped. No register that words compute
with, no memory and nothing outside the hart changes. Two points are the model's reading: the low two bits of a program
counter taken from HRPC are 0 (R16; notes/assumptions/37), and the hart is Running whatever level PHL names (R54;
notes/assumptions/85). -/
def eretReturnsFromTheHandler : Prop :=
  ∀ s : State, Issuing s .scalar → s.hart.cs.hstat.hl = true →
    ∃ t, exec .eret s = .next t ∧
      t.hart.cs = { s.hart.cs with
        hstat := { s.hart.cs.hstat with hl := s.hart.cs.hstat.phl, ie := s.hart.cs.hstat.pie },
        instret := s.hart.cs.instret + 1 } ∧
      (s.hart.cs.hcause.exit = false → t.hart.life = .running ∧ t.hart.sc.pc = s.hart.cs.hepc) ∧
      (s.hart.cs.hcause.exit = true → t.hart.life = .ending) ∧
      (s.hart.cs.hcause.vrs = true → s.hart.ve.block ≠ none →
        t.hart.ve.pc = s.hart.cs.hrpc &&& 0x00FFFFFFFFFFFFFC) ∧
      (s.hart.cs.hcause.vrs = false → t.hart.ve = s.hart.ve) ∧
      SameRegisters s t ∧ SameMemory s t ∧ OnlyHart s t

/-! ### System words -/

/-- NOP, YIELD, FENCEI, DUSK and DAWN complete on either side and write no register (R71, R202, R203): NOP and YIELD only
retire, YIELD with its hart's vector side behind those that wait (R286); FENCEI drops the words its side has fetched
ahead, and on the vector side waits for the writes under way; DUSK and DAWN give the island of the hart's core their
event, and the context that wakes a gated island pays for the wake. WAIT completes on the scalar side with the first event
that comes, of several in one cycle with the highest: with 2 for a pending interrupt that is enabled, with 1 for a reply,
with 0 for the deadline that its first issue fixed g[a] cycles on; g[a] = 0 sets none. A deadline of an earlier cycle came
first, unless the WAIT had begun to wait and the interrupt became pending before it. That the nanoseconds of R71 are
cycles is the model's reading (notes/assumptions/7). -/
def plainSystemWordsComplete : Prop :=
  ∀ (s : State) (sd : Side) (d a : BitVec 5), Issuing s sd →
    let u := discardWait s
    exec .nop s = .next (retire u) ∧
    exec .yield s = .next (retire (u.mapHart (fun h =>
      { h with ve := { h.ve with readyAt := max h.ve.readyAt (s.clock + 1) } }))) ∧
    ((sd = .vector → vectorWritesPending s = false) → ∃ t, exec .fencei s = .next t ∧
      (sd = .scalar → t.hart.sc.fetched = [] ∧ OnlyHart s t) ∧
      (sd = .vector → t.hart.ve.fetched = [] ∧ OnlyHartBeats s t s.issue.beats) ∧
      SameRegisters s t ∧ SameMemory s t ∧ Retired s t) ∧
    (∃ t, exec .dusk s = .next t ∧ SameRegisters s t ∧ SameMemory s t ∧ Retired s t ∧
      (t.core s.hart.place.core).island = (match (s.core s.hart.place.core).island with
        | .on => .dusking
        | .waking due _ => .waking due true
        | x => x)) ∧
    (∃ t, exec .dawn s = .next t ∧ SameRegisters s t ∧ SameMemory s t ∧ Retired s t ∧
      ((s.core s.hart.place.core).island = .gated → { asid := s.hart.asid } ∈ t.unpaid) ∧
      (t.core s.hart.place.core).island = (match (s.core s.hart.place.core).island with
        | .on => .on
        | .dusking => .on
        | .gated => .waking (s.clock + 2000) false
        | .waking due _ => .waking due false)) ∧
    (sd = .scalar →
      let record := if s.hart.cs.hstat.hl then s.hart.sc.wait1 else s.hart.sc.wait0
      let n := (gRead s.hart a.toNat).toNat
      let own := record.filter (fun w => w.addr == s.hart.sc.pc)
      let deadline : Option Nat := match own with
        | some w => w.deadline
        | none => if n = 0 then none else some (s.clock + n)
      let irq : Prop := s.hart.cs.hstat.ie = true ∧ s.hart.irqs ≠ []
      let first (x : Nat) : Prop := irq ∧ own.any (·.live) = true ∧ s.hart.irqAt ≤ x
      (irq → (∀ x, deadline = some x → s.clock ≤ x ∨ first x) →
        ∃ t, exec (.wait d a) s = .next t ∧ ScalarResult s t d 2) ∧
      (¬ irq → s.hart.ve.replies ≠ [] → (∀ x, deadline = some x → s.clock ≤ x) →
        ∃ t, exec (.wait d a) s = .next t ∧ ScalarResult s t d 1) ∧
      (∀ x, deadline = some x → ((x < s.clock ∧ ¬ first x) ∨ (x = s.clock ∧ ¬ irq ∧ s.hart.ve.replies = [])) →
        ∃ t, exec (.wait d a) s = .next t ∧ ScalarResult s t d 0))

end Sys2Proof

/-- The words of SYS: BREAK and TRAP take their exceptions; NOP, YIELD, FENCEI, DUSK, DAWN and WAIT complete; ERET
returns from the handler (R24, R54, R71, R74, R202, R203). -/
def Obligations.SystemWordsComplete : Prop := systemWordsRaiseTheirTraps ∧ plainSystemWordsComplete ∧ eretReturnsFromTheHandler

/-- VQ and RQ complete (R56, R58, R69, R70): VDISP of an aligned block appends an entry with its trip count, its four
arguments and the next sequence number to a queue of fewer than 32, and retires without waiting for the block; a misaligned
address raises MISALIGN and appends nothing; VDRAIN, once no block is queued or running, gives the sequence number of the
last block dispatched, or all ones; VQCNT and RQCNT give the lengths of the queues; RQPOP takes the oldest reply, and RQPEEK
reads it. -/
def Obligations.QueuesDispatchAndReply : Prop :=
  ∀ (s : State) (d a b : BitVec 5), Issuing s .scalar →
    let at_ := gRead s.hart a.toNat
    let n := d.toNat
    (n ≤ 28 → at_.toNat % 4 = 0 → s.hart.ve.blockQ.length < 32 →
      ∃ t, exec (.vdisp d a b) s = .next t ∧
        t.hart.ve = { s.hart.ve with
          blockQ := s.hart.ve.blockQ ++ [⟨at_, gRead s.hart b.toNat, gRead s.hart n, gRead s.hart (n + 1),
            gRead s.hart (n + 2), gRead s.hart (n + 3), s.hart.ve.seq⟩],
          seq := s.hart.ve.seq + 1, lastSeq := some s.hart.ve.seq } ∧
        t.hart.sc.g = s.hart.sc.g ∧ OnlyHart s t ∧ Retired s t) ∧
    (n ≤ 28 → at_.toNat % 4 ≠ 0 →
      exec (.vdisp d a b) s = .next (takeTrap (discardWait s) { code := 0x07, val := at_ } .scalar)) ∧
    (s.hart.ve.blockQ = [] → s.hart.ve.block = none →
      ∃ t, exec (.vdrain d) s = .next t ∧ ScalarResult s t d (match s.hart.ve.lastSeq with
        | some k => k.setWidth 64
        | none => BitVec.allOnes 64)) ∧
    (∃ t, exec (.vqcnt d) s = .next t ∧ ScalarResult s t d (BitVec.ofNat 64 s.hart.ve.blockQ.length)) ∧
    (∃ t, exec (.rqcnt d) s = .next t ∧ ScalarResult s t d (BitVec.ofNat 64 s.hart.ve.replies.length)) ∧
    (∀ x rest, s.hart.ve.replies = x :: rest →
      (∃ t, exec (.rqpeek d) s = .next t ∧ ScalarResult s t d x) ∧
      (∃ t, exec (.rqpop d) s = .next t ∧
        ScalarResult (s.mapHart (fun h => { h with ve := { h.ve with replies := rest } })) t d x))

/-! ### Work, snapshots and search -/

/-- LAUNCH and LAUNCHG of a well-formed record complete where the device list of the hart's queue has room (R289 to R291,
R295, R298, R299): the record is read once the scalar side's writes are published at scope .dev, its counter is started,
g[d] takes the counter's address, and the launch or graph goes live at the end of the queue's device list of 64, unless a
level above is cancelled already. A malformed record raises BADREC with SUB 3 or 4 and the record's address. While a write
that was published is held for want of a shadow, the word waits (R130, R238). -/
def Obligations.LaunchesEnterTheDeviceList : Prop :=
  ∀ (s : State) (d a : BitVec 5), Issuing s .scalar →
    let u := discardWait s
    let at_ := gRead s.hart a.toNat
    let p := publishLines u s.hart.place.core 4 (fun _ => true)
    (p.holdsWrite s.hart.place.core (fun _ => true) = true →
      exec (.launch d a) s = .next (stall p) ∧ exec (.launchg d a) s = .next (stall p)) ∧
    (p.holdsWrite s.hart.place.core (fun _ => true) = false →
    (∀ l chain w z go, readLaunch p s.hart.asid s.hart.queue at_ = .ok (some (l, chain), w) →
      (w.queue s.hart.queue).device.length < 64 → startCounter w w.hart.place.core s.hart.asid chain = .ok (go, z) →
      ∃ t, exec (.launch d a) s = .next (gave t d l.handle) ∧
        (go = false → t = z) ∧
        (go = true → t.launches = z.launches ++ [l] ∧
          (t.queue s.hart.queue).device = (z.queue s.hart.queue).device ++ [⟨false, l.handle⟩])) ∧
    (∀ g chain w z go, readGraph p s.hart.asid s.hart.queue at_ = .ok (some (g, chain), w) →
      (w.queue s.hart.queue).device.length < 64 → startCounter w w.hart.place.core s.hart.asid chain = .ok (go, z) →
      ∃ t, exec (.launchg d a) s = .next (gave t d g.counter) ∧
        (go = false → t = z) ∧
        (go = true → t.graphs = z.graphs ++ [g] ∧
          (t.queue s.hart.queue).device = (z.queue s.hart.queue).device ++ [⟨true, g.counter⟩])) ∧
    (∀ w, readLaunch p s.hart.asid s.hart.queue at_ = .ok (none, w) →
      exec (.launch d a) s = .next (takeTrap u { code := 0x08, sub := 3, val := at_ } .scalar)) ∧
    (∀ w, readGraph p s.hart.asid s.hart.queue at_ = .ok (none, w) →
      exec (.launchg d a) s = .next (takeTrap u { code := 0x08, sub := 4, val := at_ } .scalar)))

/-- CSIG, CREAD and CANCEL of a well-formed counter complete (R287, R288, R297, R299). CSIG of a counter of level 3 or 4
adds g[b] mod 2^48 to DONE, sets FIN with bit 63, changes nothing on a cancelled counter, passes one on to the enclosing
counter where it set FIN, and gives the old DONE. CREAD gives DONE and CTL, and acquires at scope .dev where FIN is set. CSIG,
which publishes at scope .sys first, and such a CREAD wait while a write of the scalar side is held for want of a shadow
(R130, R238).
CANCEL of a finished level changes nothing; else it marks the counter and cancels all below. -/
def Obligations.CountersSignalReadAndCancel : Prop :=
  ∀ (s : State) (d a b : BitVec 5), Issuing s .scalar →
    let u := discardWait s
    let x := gRead s.hart a.toNat
    let v := gRead s.hart b.toNat
    let core := s.hart.place.core
    let asid := s.hart.asid
    let sent := publishLines u core 5 (fun _ => true)
    (sent.holdsWrite core (fun _ => true) = true → exec (.csig d a b) s = .next (stall sent)) ∧
    (∀ p done ctl w z y, sent.holdsWrite core (fun _ => true) = false → checkCounter sent x 3 = .ok p →
      v.toNat / 2 ^ 48 % 2 ^ 15 = 0 → counterGet p core asid true x.toNat = .ok (done, ctl, w) →
      (if ctlCanc ctl then z = w
        else counterPut w core asid x.toNat (done + v.toNat % 2 ^ 48)
          (if v.getLsbD 63 then ctl ||| 0x4000000000000000 else ctl) = .ok z) →
      (if ctlCanc ctl = false ∧ ctlFin ctl = false ∧ v.getLsbD 63 = true then passUp z asid s.hart.launch ctl = .ok y
        else y = z) →
      exec (.csig d a b) s = .next (gave y d (BitVec.ofNat 64 done))) ∧
    (d ≠ 31 → ∀ p done ctl w, checkCounter u x 1 = .ok p → counterGet p p.hart.place.core p.hart.asid false x.toNat = .ok (done, ctl, w) →
      let z := if ctlFin ctl then acquireLines w w.hart.place.core 4 (fun _ => true) else w
      exec (.cread d a) s = .next (
        if ctlFin ctl = true ∧ z.holdsWrite z.hart.place.core (fun _ => true) = true then stall z
        else retire (z.mapHart (fun h => gWrite (gWrite h d.toNat (BitVec.ofNat 64 done)) (d.toNat + 1) ctl)))) ∧
    (∀ p done ctl w, checkCounter u x 1 = .ok p →
      counterGet (retire p) p.hart.place.core p.hart.asid false x.toNat = .ok (done, ctl, w) →
      (ctlFin ctl = true → exec (.cancel a) s = .next w) ∧
      (ctlFin ctl = false → ∀ z y, counterPut w p.hart.place.core p.hart.asid x.toNat done (ctl ||| 0x8000000000000000) = .ok z →
        cancelBelow z p.hart.asid x = .ok y → exec (.cancel a) s = .next y))

/-- The words of SNAP complete (R234 to R244). With base g[a] and length g[b] whole lines, SNAP.BEGIN opens a level: on
the same extent again one deeper, up to eight, on a new extent in the lowest free range at depth 1, with all ones where no
range is free; the handle is 16 · depth + range; with no bank request under way in the device the opening is all that
happens, but that moves of the lines' pages are abandoned (R230, R238; notes/assumptions/109). SNAP.ACCEPT and SNAP.REJECT
close the innermost level of a range whose handle is current. SNAP.QUERY gives a range's status. SNAP.POOL gives the free
lines, empties the pool where no range is open, or adds an extent. -/
def Obligations.SnapshotWordsComplete : Prop :=
  ∀ (s : State) (d a b : BitVec 5), Issuing s .scalar →
    let u := discardWait s
    let x := (gRead s.hart a.toNat).toNat
    let n := (gRead s.hart b.toNat).toNat
    let c := ctxOf s
    let same := c.findRange (fun r => r.base == x && r.len == n)
    (s.harts.all (·.bank.isEmpty) = true → s.cores.all (·.fifo.isEmpty) = true →
      ∀ lines g, beginLevel u lines (fun s => mapOwnCtx s g) = mapOwnCtx (u.barMoves lines) g) ∧
    (x % 128 = 0 → n % 128 = 0 → 0 < n → n ≤ 2 ^ 48 → x + n ≤ 2 ^ 56 →
      (∀ r y, same = some (r, y) → y.depth < 8 →
        exec (.snapBegin d a b) s = .next (gave
          (beginLevel u y.tracked (fun s => mapOwnCtx s (fun c => c.setRange r (some { y with depth := y.depth + 1 }))))
          d (BitVec.ofNat 64 (16 * (y.depth + 1) + r)))) ∧
      (∀ r y, same = some (r, y) → y.depth = 8 →
        exec (.snapBegin d a b) s = .next (takeTrap u { code := 0x19, val := 8 } .scalar)) ∧
      (same = none → c.findRange (fun r => extentsMeet r.base r.len x n) = none →
        (∀ r, c.freeRange = some r → exec (.snapBegin d a b) s = .next (gave
          (beginLevel u (trackedLines u c.root x n) (fun s => mapOwnCtx s (fun c' => c'.setRange r
            (some { base := x, len := n, depth := 1, tracked := trackedLines u c.root x n, shadows := [] }))))
          d (BitVec.ofNat 64 (16 + r)))) ∧
        (c.freeRange = none → exec (.snapBegin d a b) s = .next (gave u d (BitVec.allOnes 64))))) ∧
    (∀ r y, c.range r = some y → r < 16 → x = 16 * y.depth + r → x < 256 →
      exec (.snapAccept a) s = .next (retire (mapOwnCtx u (fun c =>
        if y.depth ≤ 1 then { c.setRange r none with pend := c.pend.filter (· != r) }
        else c.setRange r (some { y with depth := y.depth - 1, shadows := mergeShadows y,
                                         zero := y.zero.map (fun z => (min z.1 (y.depth - 1), z.2)) })))) ∧
      exec (.snapReject a) s = .next (retire (rejectLevel u r y))) ∧
    (x < 16 → exec (.snapQuery d a) s = .next (gave u d (snapStatus c x))) ∧
    (n = 0 → exec (.snapPool d a b) s = .next (gave u d (BitVec.ofNat 64 c.freeLines))) ∧
    (n = 2 ^ 64 - 1 → x = 0 → exec (.snapPool d a b) s = .next
      (if c.ranges.toList.all (·.isNone) then gave (emptyPool u) d 0 else gave u d (BitVec.allOnes 64))) ∧
    (0 < n → n % 128 = 0 → x % 128 = 0 →
      (8 ≤ c.pool.length ∨ c.pool.any (fun e => extentsMeet e.base e.len x n) = true →
        exec (.snapPool d a b) s = .next (gave u d (BitVec.allOnes 64))) ∧
      (c.pool.length < 8 → c.pool.any (fun e => extentsMeet e.base e.len x n) = false →
        ∀ lines w, poolPages u x n (piecesOf x n) = .ok (lines, w) →
          let t := mapOwnCtx (w.barMoves lines) (fun c => { c with pool := c.pool ++ [⟨x, n, lines⟩] })
          exec (.snapPool d a b) s = .next (gave t d (BitVec.ofNat 64 (ctxOf t).freeLines))))

/-- The five words of WALK complete (R257, R259, R261, R264). WQ.OPEN of a well-formed descriptor gives the number of the
lowest free query context of the core, which it opens for the hart, or all ones where none of the 64 is free. With the
number of one of the hart's own contexts, WQ.RUN publishes the scalar side's writes at scope .clus, waits while one of
them is held for want of a shadow, and starts a walk with empty sets, and leaves a running one alone; WQ.POLL gives 0xFE
for an open context, 0xFF for a running walk and the status of an ended one; WQ.RESULT gives the same once the walk does
not run, and drops the core's copies of the result area of an ended one; WQ.CLOSE frees the context. -/
def Obligations.QueryContextsComplete : Prop :=
  ∀ (s : State) (d a : BitVec 5), Issuing s .scalar →
    let u := discardWait s
    let x := (gRead s.hart a.toNat).toNat
    let core := s.hart.place.core
    (x % 64 = 0 → ∀ v w q, pointRead u u.hart .other x 64 = .ok (v, w) → queryDesc v = some q →
      (freeQuery w = none → exec (.wqOpen d a) s = .next (gave w d (BitVec.allOnes 64))) ∧
      (∀ n, freeQuery w = some n → exec (.wqOpen d a) s = .next
        (gave (setQuery w w.hart.place.core { n := n, uid := w.hart.uid, asid := w.hart.asid, desc := q })
          d (BitVec.ofNat 64 n)))) ∧
    (∀ q, ownQuery s (gRead s.hart a.toNat) = some q →
      (q.state = .running → exec (.wqRun a) s = .next (retire u)) ∧
      (q.state ≠ .running → let p := publishLines u core 2 (fun _ => true)
        exec (.wqRun a) s = .next (if p.holdsWrite core (fun _ => true) then stall p else retire (setQuery p core
        { q with state := .running, begun := false, cand := [], best := [], visited := [], pending := [], fetched := [],
                 x := 0, restarts := 0, reclaimed := false }))) ∧
      (q.state = .open_ → (∃ t, exec (.wqPoll d a) s = .next t ∧ ScalarResult s t d 0xFE) ∧
        (∃ t, exec (.wqResult d a) s = .next t ∧ ScalarResult s t d 0xFE)) ∧
      (q.state = .running → (∃ t, exec (.wqPoll d a) s = .next t ∧ ScalarResult s t d 0xFF) ∧
        exec (.wqResult d a) s = .next (stall u)) ∧
      (q.state = .done → (∃ t, exec (.wqPoll d a) s = .next t ∧ ScalarResult s t d q.status) ∧
        exec (.wqResult d a) s = .next (gave (u.l1Flush (fun y => y.core == core && (resultLines u q.desc).contains y.line))
          d q.status)) ∧
      exec (.wqClose a) s = .next (retire (closeQuery u core q)))

namespace Sys2Proof

/-! ### Vector registers: destinations -/

/-- Element `i` of width `w` of the group of vector registers that begins at v[r] (R32). -/
def element (h : Hart) (r w i : Nat) : Nat :=
  (vget h.ve.v (r + w * i / regBits h) 0).toNat / 2 ^ (w * i % regBits h) % 2 ^ w

/-- What an element that the mask makes inactive holds afterwards: 0 with MASKZ, else its old value (R82). -/
def inactiveValue (t : VType) (old : Nat) : Nat := if t.maskz then 0 else old

/-- Vector registers outside a group, mask registers and h registers are as before, and nothing outside the hart, no
memory and no scalar register changes, but for what the slot's sequencer charges the word's queue (R285). -/
def OnlyGroup (s t : State) (r g : Nat) : Prop :=
  (∀ k, k < 32 → (k < r ∨ r + g ≤ k) → vget t.hart.ve.v k 0 = vget s.hart.ve.v k 0) ∧ t.hart.ve.m = s.hart.ve.m ∧
  t.hart.ve.h = s.hart.ve.h ∧ t.hart.ve.lc = s.hart.ve.lc ∧ t.hart.sc = s.hart.sc ∧
  ∃ n, OnlyHartBeats s t n

/-- What a vector-side word does that only gives h[d]. -/
def toH (s : State) (d : BitVec 5) (v : Word) : Result := ⟨s, [RegWrite.whole (.h d.toNat) v.toNat], none⟩

/-- An element-wise word that ends leaves in its destination group, element by element, from the element VPROG names on:
the result of its operation where the mask makes the element active, 0 or the old value where it does not, and beyond the
length 0 with TAIL, if the length is not 0, and the old value otherwise (R82, R86). An operation that draws takes the next
draw of the generator for each active element in turn, and SEED is left where the last draw left it (R44). No other
register changes, the word retires, and VPROG reads 0. If it is flag-capable, the flags its active elements raise are
added to VFLAGS, and each of the first-exception registers VFENV to VFESAT takes the lowest index of an element that
raised its flag, over all parts of a resumed word, and all ones if none did; otherwise they are as before (R47, R48). -/
def elementwiseResultsFollowMaskAndTail : Prop :=
  ∀ (s : State) (t : VType) (d : Dest) (m : BitVec 3) (capable draws : Bool) (g : Nat → Nat → Nat × Flags),
    Issuing s .vector → d.reg + d.group ≤ 32 → d.width ∈ [1, 4, 8, 16, 32, 64] →
    d.width * d.count ≤ regBits s.hart * d.group →
    ∀ lat, let u := written lat (elementWise s t d m capable draws g)
    let start := s.hart.cs.vprog.toNat % 2 ^ 32
    let active (i : Nat) : Bool := m == 0 || (vget s.hart.ve.m m.toNat 0).getLsbD i
    let drawn (n : Nat) : BitVec 32 := ((List.range' start (n - start)).filter active).foldl (fun x _ => nextSeed x) s.hart.cs.seed
    let f (i : Nat) : Nat × Flags := g i (seedDraw (if draws then nextSeed (drawn i) else s.hart.cs.seed))
    (∀ i, d.width * (i + 1) ≤ regBits s.hart * d.group →
      element u.hart d.reg d.width i =
        let old := element s.hart d.reg d.width i
        if i < d.count then
          (if i < start then old
           else if active i = true then (f i).1 % 2 ^ d.width
           else inactiveValue t old)
        else if t.tail ∧ d.count ≠ 0 then 0 else old) ∧
    OnlyGroup s u d.reg d.group ∧ Retired s u ∧ u.hart.cs.vprog = 0 ∧
    u.hart.cs.seed = (if draws then drawn d.count else s.hart.cs.seed) ∧
    (∀ k, u.hart.cs.vflags.getLsbD k = (s.hart.cs.vflags.getLsbD k ||
      (capable && (List.range d.count).any (fun i => decide (start ≤ i) && active i && (f i).2.getLsbD k)))) ∧
    (capable = false → u.hart.cs.first = s.hart.cs.first) ∧
    (capable = true → ∀ k < 6, vget u.hart.cs.first k 0 =
      let raised (i : Nat) : Bool := decide (start ≤ i) && active i && (f i).2.getLsbD k
      let lowest : Word := match (List.range d.count).find? raised with
        | some i => BitVec.ofNat 64 i
        | none => BitVec.allOnes 64
      let before := vget s.hart.cs.firstPart k 0
      if start ≠ 0 ∧ before < lowest then before else lowest)

/-- A cross-element word that ends leaves in its destination group, element by element, the values of its lanes, the old
value where a lane has none, and beyond its lanes what the tail rule gives (R82, R86); a word with a mask as its
destination does so with the bits of m[d] below VL and beyond (R103). -/
def crossAndMaskResultsFollowTheirRules : Prop :=
  ∀ (s : State) (t : VType), Issuing s .vector → s.hart.cs.vprog = 0 →
    (∀ (d : Dest) (lanes : List (Option Nat)), d.reg + d.group ≤ 32 → d.width ∈ [1, 4, 8, 16, 32, 64] →
      lanes.length = d.count → d.width * d.count ≤ regBits s.hart * d.group →
      ∀ lat, let u := written lat (crossOp s t d lanes)
      (∀ i, d.width * (i + 1) ≤ regBits s.hart * d.group →
        element u.hart d.reg d.width i =
          let old := element s.hart d.reg d.width i
          if i < d.count then (match lanes[i]?.join with
            | some v => v % 2 ^ d.width
            | none => old)
          else if t.tail ∧ d.count ≠ 0 then 0 else old) ∧
      OnlyGroup s u d.reg d.group ∧ Retired s u ∧ u.hart.cs.vflags = s.hart.cs.vflags ∧
      u.hart.cs.first = s.hart.cs.first) ∧
    (∀ (d : BitVec 5) (m : BitVec 3) (f : Nat → Bool), d.toNat < 8 → s.hart.cs.vl ≤ regBits s.hart →
      ∀ lat, let u := written lat (maskOp s t d m f)
      (∀ i, i < regBits s.hart →
        (vget u.hart.ve.m d.toNat 0).getLsbD i =
          let old := (vget s.hart.ve.m d.toNat 0).getLsbD i
          if i < s.hart.cs.vl then
            (if m = 0 ∨ (vget s.hart.ve.m m.toNat 0).getLsbD i = true then f i else (old && !t.maskz))
          else (old && !(t.tail && s.hart.cs.vl != 0))) ∧
      (∀ k, k < 8 → k ≠ d.toNat → vget u.hart.ve.m k 0 = vget s.hart.ve.m k 0) ∧ u.hart.ve.v = s.hart.ve.v ∧
      u.hart.ve.h = s.hart.ve.h ∧ (∃ n, OnlyHartBeats s u n) ∧ Retired s u ∧ u.hart.cs.vflags = s.hart.cs.vflags ∧
      u.hart.cs.first = s.hart.cs.first)

end Sys2Proof

/-- Which elements of a destination a vector word writes: element by element under mask and tail, across lanes, and into
a mask register (R47, R48, R82, R86, R103). -/
def Obligations.ElementResultsFollowTheirRules : Prop := elementwiseResultsFollowMaskAndTail ∧ crossAndMaskResultsFollowTheirRules

namespace Sys2Proof

/-! ### Vector arithmetic

Every statement here says that a word which issues on the vector side with a VTYPE it fits (R28) completes: it writes what
its operation gives (`written`), and retires. Element by element the results are those of
elementwiseResultsFollowMaskAndTail and crossAndMaskResultsFollowTheirRules. -/

/-- Element `i` of the source group that begins at v[a]. -/
def source (s : State) (t : VType) (a : BitVec 5) (i : Nat) : Nat := elem t.et.width (groupBits s.hart a.toNat t.group) i

/-- h[b] mod 2^w, the scalar operand of a word at every element (R84). -/
def scalarSource (s : State) (t : VType) (b : BitVec 5) (_ : Nat) : Nat := (hRead s.hart b.toNat).toNat % 2 ^ t.et.width

/-- The value of an element of an integer type: signed for the I types (R33). -/
def integerValue (t : VType) (x : Nat) : Int := if t.et.isSigned then (BitVec.ofNat t.et.width x).toInt else x

/-- An exact integer assigned to an element (R33): its low bits, or with SAT the nearest value of the type, and the SAT
flag where that differs. -/
def assigned (t : VType) (v : Int) : Nat × Flags :=
  let w := t.et.width
  let lo : Int := if t.et.isSigned then -2 ^ (w - 1) else 0
  let hi : Int := if t.et.isSigned then 2 ^ (w - 1) - 1 else 2 ^ w - 1
  let c := if t.sat then max lo (min hi v) else v
  ((BitVec.ofInt w c).toNat, if c = v then 0 else 0x20)

/-- The words of VINT and their forms of VINTS: whether B1 is accepted, and the result and flags from VTYPE and the two
elements (R87). -/
def vintTable : List ((BitVec 5 → BitVec 5 → BitVec 5 → BitVec 3 → Instr) × (BitVec 5 → BitVec 5 → BitVec 5 → BitVec 3 → Instr) ×
    Bool × (VType → Nat → Nat → Nat × Flags)) :=
  let w (t : VType) := t.et.width
  let signed (t : VType) (x : Nat) : Int := (BitVec.ofNat (w t) x).toInt
  [(.vadd, .vintsVadd, false, fun t x y => assigned t (integerValue t x + integerValue t y)),
   (.vsub, .vintsVsub, false, fun t x y => assigned t (integerValue t x - integerValue t y)),
   (.vmul, .vintsVmul, false, fun t x y => assigned t (integerValue t x * integerValue t y)),
   (.vmulh, .vintsVmulh, false, fun t x y => ((BitVec.ofInt (w t) (signed t x * signed t y / 2 ^ w t)).toNat, 0)),
   (.vmulhn, .vintsVmulhn, false, fun t x y => (x * y / 2 ^ w t, 0)),
   (.vmin, .vintsVmin, false, fun t x y => (if signed t x ≤ signed t y then x else y, 0)),
   (.vmax, .vintsVmax, false, fun t x y => (if signed t y ≤ signed t x then x else y, 0)),
   (.vminn, .vintsVminn, false, fun _ x y => (min x y, 0)),
   (.vmaxn, .vintsVmaxn, false, fun _ x y => (max x y, 0)),
   (.vand, .vintsVand, true, fun _ x y => (x &&& y, 0)),
   (.vor, .vintsVor, true, fun _ x y => (x ||| y, 0)),
   (.vxor, .vintsVxor, true, fun _ x y => (x ^^^ y, 0)),
   (.vandn, .vintsVandn, true, fun t x y => ((BitVec.ofNat (w t) x &&& ~~~(BitVec.ofNat (w t) y)).toNat, 0)),
   (.vshl, .vintsVshl, false, fun t x y => ((BitVec.ofNat (w t) x <<< (y % w t)).toNat, 0)),
   (.vshr, .vintsVshr, false, fun t x y => ((BitVec.ofNat (w t) x >>> (y % w t)).toNat, 0)),
   (.vsra, .vintsVsra, false, fun t x y => (((BitVec.ofNat (w t) x).sshiftRight (y % w t)).toNat, 0))]

end Sys2Proof

/-- VINT and VINTS (R28, R33, R82 to R84, R87). -/
def Obligations.IntegerVectorWordsComplete : Prop :=
  ∀ (s : State) (t : VType) (d a b : BitVec 5) (m : BitVec 3), VectorIssuing s t →
    t.aligned d = true → t.aligned a = true → governFits s.hart m = true →
    ∀ e ∈ vintTable, (t.et.isInt = true ∨ (e.2.2.1 = true ∧ t.et = .b1)) →
      (t.aligned b = true → Ended (exec (e.1 d a b m) s)
          (elementOp s t (t.dest s.hart d) m t.sat (fun i => e.2.2.2 t (source s t a i) (source s t b i)))) ∧
      (b.toNat < 16 → Ended (exec (e.2.1 d a b m) s)
          (elementOp s t (t.dest s.hart d) m t.sat (fun i => e.2.2.2 t (source s t a i) (scalarSource s t b i))))

namespace Sys2Proof

/-- The words of VFLT with two sources that have a scalar form: whether E4M3 and E5M2 are accepted, and the operation of a
format in a rounding mode on two patterns (R35, R42, R88). -/
def vfltTable : List ((BitVec 5 → BitVec 5 → BitVec 5 → BitVec 3 → Instr) × (BitVec 5 → BitVec 5 → BitVec 5 → BitVec 3 → Instr) ×
    Bool × (FloatFormat → RoundMode → Nat → Nat → Nat × Flags)) :=
  [(.vfadd, .vfltsVfadd, true, fun f r x y => f.add r x y), (.vfsub, .vfltsVfsub, true, fun f r x y => f.sub r x y),
   (.vfmul, .vfltsVfmul, true, fun f r x y => f.mul r x y), (.vfdiv, .vfltsVfdiv, false, fun f r x y => f.div r x y),
   (.vfmin, .vfltsVfmin, true, fun f _ x y => f.minMax false x y),
   (.vfmax, .vfltsVfmax, true, fun f _ x y => f.minMax true x y)]

/-- The element type is F16, BF16, F32 or F64, or, where `small` is set, E4M3 or E5M2 (R88). -/
def floatType (small : Bool) (e : ElemType) : Prop :=
  e = .f16 ∨ e = .bf16 ∨ e = .f32 ∨ e = .f64 ∨ (small = true ∧ (e = .e4m3 ∨ e = .e5m2))

end Sys2Proof

/-- VFLT, VFLTS and VFMA (R28, R35, R42 to R44, R82 to R84, R88, R89). The arithmetic is in the mode of FRM, with SR taken
as RNE; VFABS and VFNEG change the sign bit alone; VADDS and VSUBS saturate; VFMA, VFMS, VFNMA and VFNMS round ±(a · b) ± d
once, and VMAC assigns the exact d + a · b; VDOT4 and VDOT2 add the products of four and of two neighbouring elements to a
32-bit element of the destination, a source element beyond VL counting as 0. -/
def Obligations.FloatVectorWordsComplete : Prop :=
  ∀ (s : State) (t : VType) (d a b : BitVec 5) (m : BitVec 3), VectorIssuing s t →
    t.aligned d = true → t.aligned a = true → governFits s.hart m = true →
    let fm := floatFormat t.et
    let r := arithMode s.hart
    let x := source s t a
    let y := source s t b
    let z := source s t d
    let vl := s.hart.cs.vl
    let out (f : Nat → Nat × Flags) := elementOp s t (t.dest s.hart d) m true f
    (∀ e ∈ vfltTable, floatType e.2.2.1 t.et →
      (t.aligned b = true → Ended (exec (e.1 d a b m) s) (out (fun i => e.2.2.2 fm r (x i) (y i)))) ∧
      (b.toNat < 16 → Ended (exec (e.2.1 d a b m) s) (out (fun i => e.2.2.2 fm r (x i) (scalarSource s t b i))))) ∧
    (floatType false t.et → Ended (exec (.vfsqrt d a m) s) (out (fun i => fm.sqrt r (x i)))) ∧
    (floatType true t.et →
      Ended (exec (.vfabs d a m) s) (out (fun i => (fm.setSign (x i) (fun _ => false), 0))) ∧
      Ended (exec (.vfneg d a m) s) (out (fun i => (fm.setSign (x i) (fun n => !n), 0))) ∧
      (t.aligned b = true →
        Ended (exec (.vadds d a b m) s) (out (fun i => fm.addVal r true (fm.value (x i)) (fm.value (y i)))) ∧
        Ended (exec (.vsubs d a b m) s) (out (fun i => fm.addVal r true (fm.value (x i)) (fm.value (y i)).negate)))) ∧
    (t.aligned b = true →
      (floatType false t.et →
        Ended (exec (.vfma d a b m) s) (out (fun i => fm.fma r false false (x i) (y i) (z i))) ∧
        Ended (exec (.vfms d a b m) s) (out (fun i => fm.fma r false true (x i) (y i) (z i))) ∧
        Ended (exec (.vfnma d a b m) s) (out (fun i => fm.fma r true true (x i) (y i) (z i))) ∧
        Ended (exec (.vfnms d a b m) s) (out (fun i => fm.fma r true false (x i) (y i) (z i)))) ∧
      (t.et.isInt = true →
        Ended (exec (.vmac d a b m) s) (out (fun i => assigned t (integerValue t (z i) + integerValue t (x i) * integerValue t (y i))))) ∧
      (t.et = .i8 ∨ t.et = .n8 → Ended (exec (.vdot4 d a b m) s)
          (elementOp s t ⟨d.toNat, t.group, 32, (vl + 3) / 4⟩ m true (fun j =>
          let t32 : VType := { t with et := if t.et = .i8 then .i32 else .n32 }
          assigned t32 (((List.range 4).map (fun k =>
              if 4 * j + k < vl then integerValue t (x (4 * j + k)) * integerValue t (y (4 * j + k)) else 0)).sum +
            integerValue t32 (elem 32 (groupBits s.hart d.toNat t.group) j))))) ∧
      (t.et = .f16 ∨ t.et = .bf16 → Ended (exec (.vdot2 d a b m) s)
          (elementOp s t ⟨d.toNat, t.group, 32, (vl + 1) / 2⟩ m true (fun j =>
          let p (n : Nat) : Option FloatVal :=
            mulExact (fm.value (if n < vl then x n else 0)) (fm.value (if n < vl then y n else 0))
          (floatFormat .f32).fusedSum r
            [p (2 * j), p (2 * j + 1), some ((floatFormat .f32).value (elem 32 (groupBits s.hart d.toNat t.group) j))]))))

/-- VFUN, LOG3 and VBIT2 (R82, R83, R90, R91, R96): the funnel shifts take w bits of the concatenation of a and b shifted by
an amount below w; bit n of a result of LOG3 is the bit of its table that the n-th bits of d, a and b number, d's the
highest, whatever the element type; VPOPC, VCLZ and VBREV count ones, count leading zeros and reverse an element, and VROTL
rotates it left by b mod w. No flag is raised. -/
def Obligations.BitVectorWordsComplete : Prop :=
  ∀ (s : State) (t : VType) (d a b : BitVec 5) (m : BitVec 3) (k : BitVec 6) (n : BitVec 7), VectorIssuing s t →
    t.aligned d = true → t.aligned a = true → governFits s.hart m = true →
    let w := t.et.width
    let x := source s t a
    let y := source s t b
    let z := source s t d
    let out (m : BitVec 3) (f : Nat → Nat) :=
      elementOp s t (t.dest s.hart d) m false (fun i => (f i, 0))
    let bits (f : Nat → Bool) : Nat := ((List.range w).map (fun j => if f j then 2 ^ j else 0)).sum
    let table (tt : BitVec 8) (i : Nat) : Nat := bits (fun j =>
      tt.getLsbD (4 * ((z i).testBit j).toNat + 2 * ((x i).testBit j).toNat + ((y i).testBit j).toNat))
    (t.aligned b = true →
      (t.et.isInt = true → k.toNat < w →
        Ended (exec (.vfshl d a b k) s) (out 0 (fun i => bits (fun j =>
          if k.toNat ≤ j then (x i).testBit (j - k.toNat) else (y i).testBit (w + j - k.toNat)))) ∧
        Ended (exec (.vfshr d a b k) s) (out 0 (fun i => bits (fun j =>
          if j + k.toNat < w then (y i).testBit (j + k.toNat) else (x i).testBit (j + k.toNat - w))))) ∧
      Ended (exec (.log3Low d a b n) s) (out 0 (table (n.setWidth 8))) ∧
      Ended (exec (.log3High d a b n) s) (out 0 (table (n.setWidth 8 ||| 0x80))) ∧
      (t.et.isInt = true → Ended (exec (.vrotl d a b m) s) (out m (fun i => ((BitVec.ofNat w (x i)).rotateLeft (y i)).toNat)))) ∧
    (t.et.isInt = true →
      Ended (exec (.vpopc d a m) s) (out m (fun i => (List.range w).countP (fun j => (x i).testBit j))) ∧
      Ended (exec (.vclz d a m) s) (out m (fun i => ((List.range w).takeWhile (fun j => !(x i).testBit (w - 1 - j))).length)) ∧
      Ended (exec (.vbrev d a m) s) (out m (fun i => bits (fun j => (x i).testBit (w - 1 - j)))))

/-- VPERM (R28, R82, R83, R92), lane by lane: VSLUP takes the element h[b] below and leaves the elements under h[b] as they
are, VSLDN the element h[b] above or 0 from VL on; VGATH takes the element that b's element numbers, or 0; VPUSH puts an
active element where b's element says, the highest-numbered winning, and leaves the others; VCMPR packs the active elements
together at the bottom, VEXPD spreads elements over the active places; VBCST repeats h[b]; VID numbers the elements and
VIOTA counts the ones of a mask below each; VEXT gives one element, extended, or 0 from VL on, to h[d]. -/
def Obligations.MovesOfElementsComplete : Prop :=
  ∀ (s : State) (t : VType) (d a b : BitVec 5) (m : BitVec 3), VectorIssuing s t → governFits s.hart m = true →
    let vl := s.hart.cs.vl
    let w := t.et.width
    let x := source s t a
    let y := source s t b
    let n := (hRead s.hart b.toNat).toNat
    let act : Nat → Bool := isActive s.hart m
    let acts := (List.range vl).filter act
    let off : Option Nat := if t.maskz then some 0 else none
    let out (f : Nat → Option Nat) := crossOp s t (t.dest s.hart d) ((List.range vl).map f)
    let lanes (f : Nat → Nat) := out (fun i => if act i then some (f i) else off)
    let apart (p q : BitVec 5) := p.toNat + t.group ≤ q.toNat ∨ q.toNat + t.group ≤ p.toNat
    (t.aligned d = true →
      (t.aligned a = true → apart d a →
        (b.toNat < 16 →
          Ended (exec (.vslup d a b m) s) (out (fun i => if i < n then none else if act i then some (x (i - n)) else off)) ∧
          Ended (exec (.vsldn d a b m) s) (lanes (fun i => if i + n < vl then x (i + n) else 0))) ∧
        (8 ≤ w → t.aligned b = true → apart d b →
          Ended (exec (.vgath d a b m) s) (lanes (fun i => if y i < vl then x (y i) else 0)) ∧
          Ended (exec (.vpush d a b m) s) (out (fun i => (((List.range vl).filter (fun j => act j && y j == i)).getLast?).map x))) ∧
        Ended (exec (.vcmpr d a m) s) (out (fun i => match acts[i]? with
          | some j => some (x j)
          | none => off)) ∧
        Ended (exec (.vexpd d a m) s) (lanes (fun i => x ((List.range i).countP act)))) ∧
      (b.toNat < 16 → Ended (exec (.vbcst d b m) s) (lanes (fun _ => n % 2 ^ w))) ∧
      (t.et.isInt = true → 8 ≤ w →
        Ended (exec (.vid d m) s) (lanes (fun i => i % 2 ^ w)) ∧
        (a.toNat < 8 → vl ≤ regBits s.hart → Ended (exec (.viota d a m) s) (lanes (fun i =>
          (List.range i).countP (fun j => (vget s.hart.ve.m a.toNat 0).getLsbD j) % 2 ^ w))))) ∧
    (t.aligned a = true → d.toNat < 16 → b.toNat < 16 → Ended (exec (.vext d a b) s)
      (toH s d (if n < vl then BitVec.ofInt 64 (integerValue t (x n)) else 0)))

namespace Sys2Proof

/-- The pairwise tree of R45 over 2^level positions: position `j` of a level. -/
def pairTree (op : Nat → Nat → Nat) (leaf : Nat → Nat) : Nat → Nat → Nat
  | 0, j => leaf j
  | n + 1, j => op (pairTree op leaf n (2 * j)) (pairTree op leaf n (2 * j + 1))

/-- The flags of the steps below position `j` of a level, each with the lowest live position that feeds its step; a step
that no live position feeds counts for nothing (R45, R48). -/
def pairRaised (op : Nat → Nat → Nat × Flags) (leaf : Nat → Nat) (live : Nat → Bool) : Nat → Nat → Raised
  | 0, _ => []
  | n + 1, j =>
    let node (k : Nat) : Nat := pairTree (fun p q => (op p q).1) leaf n k
    pairRaised op leaf live n (2 * j) ++ pairRaised op leaf live n (2 * j + 1) ++
      (match (List.range (2 ^ (n + 1))).find? (fun i => live (2 ^ (n + 1) * j + i)) with
       | some i => [(2 ^ (n + 1) * j + i, (op (node (2 * j)) (node (2 * j + 1))).2)]
       | none => [])

/-- VRED writes h[d] (R28, R45, R48, R93): the exact sum of the active elements below VL (with a 64-bit type assigned as
R33 says), their greatest and their least, their AND, OR and XOR, each extended to 64 bits by its class, or the pairwise
tree of a float type in which every other position holds the identity. VSMAX processes one strip (R95): it writes the
weights to its destination group and the new maximum, the new sum and the correction to h[b], h[b + 1] and h[b + 2].
`noteFlags` adds the flags raised to VFLAGS, and leaves in each of the first-exception registers VFENV to VFESAT the
lowest index with which its flag was raised, and all ones if it was not (R48). A NaN that the tree gives is the canonical
one (R35), and where one position alone gives it without a step, a signalling one raises NV (the model's reading,
notes/assumptions/101). -/
def foldsOfElementsComplete : Prop :=
  (∀ (h : Hart) (rs : Raised), let u := noteFlags h 0 true rs
    (∀ k, u.cs.vflags.getLsbD k = (h.cs.vflags.getLsbD k || rs.any (fun r => r.2.getLsbD k))) ∧
    (∀ k < 6, vget u.cs.first k 0 =
      BitVec.ofNat 64 (((rs.filter (fun r => r.2.getLsbD k)).map (·.1)).foldl min (2 ^ 64 - 1)))) ∧
  ∀ (s : State) (t : VType) (d a b : BitVec 5) (m : BitVec 3), VectorIssuing s t → governFits s.hart m = true →
    t.aligned a = true →
    let h := s.hart
    let vl := h.cs.vl
    let w := t.et.width
    let acts := (List.range vl).filter (isActive h m)
    let x := source s t a
    let v (i : Nat) : Int := integerValue t (x i)
    let lo : Int := if t.et.isSigned then -2 ^ (w - 1) else 0
    let hi : Int := if t.et.isSigned then 2 ^ (w - 1) - 1 else 2 ^ w - 1
    let out (rs : Raised) (z : Word) : Result := { toH s d z with state := s.mapHart (fun h => noteFlags h 0 true rs) }
    let fold (f : Nat → Nat → Nat) (z : Nat) : Word := BitVec.ofInt 64 (integerValue t (acts.foldl (fun r i => f r (x i)) z))
    (d.toNat < 16 →
      (t.et.isInt = true ∨ t.et = .b1 →
        (w ≠ 64 → Ended (exec (.vrsum d a m) s) (out [] (BitVec.ofInt 64 (acts.map v).sum))) ∧
        (w = 64 → Ended (exec (.vrsum d a m) s) (out (if (assigned t (acts.map v).sum).2 = 0 then [] else [(acts.headD 0, (assigned t (acts.map v).sum).2)]) (BitVec.ofNat 64 (assigned t (acts.map v).sum).1))) ∧
        Ended (exec (.vrand d a m) s) (out [] (fold (· &&& ·) (2 ^ w - 1))) ∧
        Ended (exec (.vror d a m) s) (out [] (fold (· ||| ·) 0)) ∧
        Ended (exec (.vrxor d a m) s) (out [] (fold (· ^^^ ·) 0))) ∧
      (t.et.isInt = true →
        Ended (exec (.vrmax d a m) s) (out [] (BitVec.ofInt 64 (acts.foldl (fun r i => max r (v i)) lo))) ∧
        Ended (exec (.vrmin d a m) s) (out [] (BitVec.ofInt 64 (acts.foldl (fun r i => min r (v i)) hi)))) ∧
      (floatType false t.et →
        let f := floatFormat t.et
        let live (i : Nat) : Bool := decide (i < vl) && isActive h m i
        let tree (op : Nat → Nat → Nat × Flags) (identity : Nat) : Result :=
          let leaf (i : Nat) : Nat := if live i then x i else identity
          let z := pairTree (fun p q => (op p q).1) leaf (Nat.clog 2 vl) 0
          let alone : Raised := if vl ≤ 1 ∧ (f.value z).nvIfSignalling ≠ 0 then [(0, (f.value z).nvIfSignalling)] else []
          out (pairRaised op leaf live (Nat.clog 2 vl) 0 ++ alone)
            (BitVec.ofNat 64 (if (f.value z).isNaN then f.canonicalNaN else z))
        Ended (exec (.vfrsum d a m) s) (tree (f.add (arithMode h)) (f.pack true 0)) ∧
        Ended (exec (.vfrmax d a m) s) (tree (f.minMax true) (f.pack true f.infCode)) ∧
        Ended (exec (.vfrmin d a m) s) (tree (f.minMax false) (f.pack false f.infCode)))) ∧
    (b.toNat ≤ 13 → t.et = .f32 → t.aligned d = true →
      (d.toNat + t.group ≤ a.toNat ∨ a.toNat + t.group ≤ d.toNat) →
      let q := softmax vl (scalarElem h b 32) ((hRead h (b.toNat + 1)).toNat % 2 ^ 32) (isActive h m) x
      Ended (exec (.vsmax d a b m) s)
          ⟨s.mapHart (fun h => noteFlags h 0 true q.raised),
         (crossOp s t (t.dest h d) ((List.range vl).map (fun i =>
            if isActive h m i then some (q.weight i) else if t.maskz then some 0 else none))).writes ++
          [RegWrite.whole (.h b.toNat) q.mn, RegWrite.whole (.h (b.toNat + 1)) q.sn, RegWrite.whole (.h (b.toNat + 2)) q.c],
         none⟩)

/-- A strip softmax with no active element keeps its maximum and sum and gives the correction 1.0; otherwise the new maximum
is the greater of the old one and the strip's, and weight i is exp2 (x[i] − maximum), both rounded to nearest (R95). Its
steps raise their flags, those of the maximum, the sum and the correction with the lowest active element (R48). -/
def softmaxOfOneStrip : Prop :=
  ∀ (vl mo so : Nat) (act : Nat → Bool) (x : Nat → Nat),
    let f := floatFormat .f32
    let q := softmax vl mo so act x
    ((∀ i < vl, act i = false) → q.mn = mo ∧ q.sn = so ∧ q.c = 0x3F800000 ∧ q.raised = []) ∧
    ((∃ i < vl, act i = true) →
      let strip := pairTree (fun p r => (f.minMax true p r).1) (fun i => if i < vl ∧ act i = true then x i else 0xFF800000)
        (Nat.clog 2 vl) 0
      let sum := pairTree (fun p r => (f.add .rne p r).1) (fun i => if i < vl ∧ act i = true then q.weight i else 0x80000000)
        (Nat.clog 2 vl) 0
      q.mn = (f.minMax true mo strip).1 ∧
      (∀ i, q.weight i = (f.exp2 (f.value (f.sub .rne (x i) q.mn).1)).1) ∧
      q.c = (if q.mn = 0xFF800000 then 0x3F800000 else (f.exp2 (f.value (f.sub .rne mo q.mn).1)).1) ∧
      q.sn = (f.fma .rne false false so q.c sum).1 ∧
      (let live (i : Nat) : Bool := decide (i < vl) && act i
       let flags (z : Nat) : Flags := (f.sub .rne z q.mn).2 ||| (f.exp2 (f.value (f.sub .rne z q.mn).1)).2
       ∀ h, noteFlags h 0 true q.raised = noteFlags h 0 true
        (pairRaised (f.minMax true) (fun i => if live i then x i else 0xFF800000) live (Nat.clog 2 vl) 0 ++
         ((List.range vl).filter act).map (fun i => (i, flags (x i) ||| (if (f.value (x i)).isNaN then 1 else 0))) ++
         pairRaised (f.add .rne) (fun i => if live i then q.weight i else 0x80000000) live (Nat.clog 2 vl) 0 ++
         [(((List.range vl).filter act).headD 0, (f.minMax true mo strip).2 |||
            (if q.mn = 0xFF800000 then 0 else flags mo) ||| (f.fma .rne false false so q.c sum).2)])))

end Sys2Proof

/-- The words of VRED complete (R28, R45, R48, R93, R95): the reductions, and the online-softmax word VSMAX on one
strip. -/
def Obligations.ReductionsComplete : Prop := foldsOfElementsComplete ∧ softmaxOfOneStrip

namespace Sys2Proof

/-- The conversions of CVT.N, CVT.W, CVT.FI and CVT.IF: the source type, k and the result type (R51). -/
def narrowPairs : List (ElemType × BitVec 1 × ElemType) :=
  [(.i64, 0, .i32), (.i64, 1, .i32), (.i32, 0, .i16), (.i32, 1, .i16), (.i16, 0, .i8), (.i16, 1, .i8), (.i8, 0, .i4),
   (.i8, 1, .i4), (.n64, 0, .n32), (.n64, 1, .n32), (.n32, 0, .n16), (.n32, 1, .n16), (.n16, 0, .n8), (.n16, 1, .n8),
   (.n8, 0, .n4), (.n8, 1, .n4), (.f64, 0, .f32), (.f64, 1, .f32), (.f32, 0, .f16), (.f32, 1, .bf16), (.f16, 0, .e4m3),
   (.f16, 1, .e5m2), (.bf16, 0, .e4m3), (.bf16, 1, .e5m2)]

def widenPairs : List (ElemType × BitVec 1 × ElemType) :=
  [(.i4, 0, .i8), (.i4, 1, .i8), (.i8, 0, .i16), (.i8, 1, .i16), (.i16, 0, .i32), (.i16, 1, .i32), (.i32, 0, .i64),
   (.i32, 1, .i64), (.n4, 0, .n8), (.n4, 1, .n8), (.n8, 0, .n16), (.n8, 1, .n16), (.n16, 0, .n32), (.n16, 1, .n32),
   (.n32, 0, .n64), (.n32, 1, .n64), (.f32, 0, .f64), (.f32, 1, .f64), (.f16, 0, .f32), (.f16, 1, .f32), (.bf16, 0, .f32),
   (.bf16, 1, .f32), (.e4m3, 0, .f16), (.e4m3, 1, .bf16), (.e5m2, 0, .f16), (.e5m2, 1, .bf16), (.e2m1, 0, .e4m3),
   (.e2m1, 1, .e5m2)]

def toIntegerPairs : List (ElemType × BitVec 1 × ElemType) :=
  [(.f16, 0, .i16), (.f16, 1, .n16), (.bf16, 0, .i16), (.bf16, 1, .n16), (.f32, 0, .i32), (.f32, 1, .n32), (.f64, 0, .i64),
   (.f64, 1, .n64)]

def toFloatPairs : List (ElemType × BitVec 1 × ElemType) :=
  [(.i16, 0, .f16), (.i16, 1, .bf16), (.n16, 0, .f16), (.n16, 1, .bf16), (.i32, 0, .f32), (.i32, 1, .f32), (.n32, 0, .f32),
   (.n32, 1, .f32), (.i64, 0, .f64), (.i64, 1, .f64), (.n64, 0, .f64), (.n64, 1, .f64)]

end Sys2Proof

/-- VCVT converts, and VSFU applies its function to, every active element (R28, R44, R50 to R52, R82, R94). Each pair of R51
is accepted, with the destination group R51 gives, in the width of the result; CVT.F4 goes from F32 to E2M1; CVT.Q
quantises F32 by the scale of each block, whose group record, for a quantised result, is well formed. Under SR each
element that is converted takes the next draw of the generator; VSFU rounds to nearest whatever FRM holds. -/
def Obligations.ConversionsAndFunctionsComplete : Prop :=
  ∀ (s : State) (t : VType) (d a b : BitVec 5) (k : BitVec 1) (m : BitVec 3), VectorIssuing s t →
    governFits s.hart m = true →
    let h := s.hart
    let x := source s t a
    let g := t.group
    let out (group : Nat) (dst : ElemType) := elementWise s t ⟨d.toNat, group, dst.width, h.cs.vl⟩ m
      true (h.cs.mode == 5#3) (fun i draw => convertElem t.sat (roundMode h draw) t.et dst (x i))
    (t.aligned a = true →
      (∀ e ∈ narrowPairs, t.et = e.1 → k = e.2.1 → d.toNat % max 1 (g / 2) = 0 →
        Ended (exec (.cvtN d a k m) s) (out (max 1 (g / 2)) e.2.2)) ∧
      (∀ e ∈ widenPairs, t.et = e.1 → k = e.2.1 → g < 8 → d.toNat % (2 * g) = 0 →
        Ended (exec (.cvtW d a k m) s) (out (2 * g) e.2.2)) ∧
      (∀ e ∈ toIntegerPairs, t.et = e.1 → k = e.2.1 → t.aligned d = true → Ended (exec (.cvtFi d a k m) s) (out g e.2.2)) ∧
      (∀ e ∈ toFloatPairs, t.et = e.1 → k = e.2.1 → t.aligned d = true → Ended (exec (.cvtIf d a k m) s) (out g e.2.2)) ∧
      (t.et = .f32 → d.toNat % max 1 (g / 8) = 0 → Ended (exec (.cvtF4 d a m) s) (out (max 1 (g / 8)) .e2m1)) ∧
      (t.et = .f16 ∨ t.et = .bf16 ∨ t.et = .f32 → t.aligned d = true →
        let f := floatFormat t.et
        let fun_ (op : FloatVal → Nat × Flags) := elementOp s t (t.dest h d) m true (fun i => op (f.value (x i)))
        Ended (exec (.vexp2 d a m) s) (fun_ f.exp2) ∧ Ended (exec (.vlog2 d a m) s) (fun_ f.log2) ∧ Ended (exec (.vrcp d a m) s) (fun_ f.rcp) ∧
        Ended (exec (.vrsq d a m) s) (fun_ f.rsq) ∧ Ended (exec (.vtanh d a m) s) (fun_ f.tanh))) ∧
    (let gs := g * 32 / t.et.width
     let quantised := t.et = .qn4 ∨ t.et = .qn8
     let sc (i : Nat) : Nat := elem (if t.et = .qn4 ∨ t.et = .qn8 then 32 else 8) (vget h.ve.v b.toNat 0).toNat (i / (8 * 2 ^ t.bs))
     t.et ∈ [.e2m1, .e4m3, .e5m2, .i4, .i8, .qn4, .qn8] → t.bs ≠ 0 → gs ≤ 8 → a.toNat % gs = 0 → t.aligned d = true →
     (∀ i < h.cs.vl, isActive h m i = true → quantised →
       sc i < 2 ^ 24 ∧ (t.et = .qn4 → sc i / 2 ^ 16 % 256 < 16)) →
     Ended (exec (.cvtQ d a b m) s)
          (elementWise s t (t.dest h d) m true (h.cs.mode == 5#3) (fun i draw =>
       quantiseElem (roundMode h draw) t.et (elem 32 (groupBits h a.toNat gs) i) (sc i))))

namespace Sys2Proof

/-- The comparisons with vector and scalar second sources: the types accepted, and the relation (R104). -/
def vcmpTable : List ((BitVec 5 → BitVec 5 → BitVec 5 → BitVec 3 → Instr) × (BitVec 5 → BitVec 5 → BitVec 5 → BitVec 3 → Instr) ×
    (ElemType → Prop) × (VType → Nat → Nat → Bool)) :=
  let int (e : ElemType) : Prop := e.isInt = true
  let any (e : ElemType) : Prop := e.isInt = true ∨ e = .b1
  let signed (t : VType) (x : Nat) : Int := (BitVec.ofNat t.et.width x).toInt
  let val (t : VType) (x : Nat) : FloatVal := (floatFormat t.et).value x
  [(.vceq, .vcmpsVceq, any, fun _ x y => x == y), (.vcne, .vcmpsVcne, any, fun _ x y => x != y),
   (.vclt, .vcmpsVclt, int, fun t x y => decide (signed t x < signed t y)),
   (.vcle, .vcmpsVcle, int, fun t x y => decide (signed t x ≤ signed t y)),
   (.vcltn, .vcmpsVcltn, int, fun _ x y => decide (x < y)), (.vclen, .vcmpsVclen, int, fun _ x y => decide (x ≤ y)),
   (.vfceq, .vcmpsVfceq, floatType true, fun t x y => (val t x).equal (val t y)),
   (.vfclt, .vcmpsVfclt, floatType true, fun t x y => (val t x).below (val t y)),
   (.vfcle, .vcmpsVfcle, floatType true, fun t x y => (val t x).below (val t y) || (val t x).equal (val t y)),
   (.vfcun, .vcmpsVfcun, floatType true, fun t x y => (val t x).isNaN || (val t y).isNaN)]

end Sys2Proof

/-- VCMP, VCMPS and VMOP (R28, R102 to R105): a comparison sets bit i of m[d] to its truth for element i; the mask words
combine bits below VL; MFIRST gives the number of the lowest bit set below VL, or all ones, and MPOPC how many are set;
VMERGE takes b's element where the mask is set and a's elsewhere. -/
def Obligations.ComparisonsAndMaskWordsComplete : Prop :=
  ∀ (s : State) (t : VType) (d a b : BitVec 5) (m : BitVec 3), VectorIssuing s t →
    (s.hart.cs.vl ≤ regBits s.hart →
      let bit (r : BitVec 5) (i : Nat) : Bool := (vget s.hart.ve.m r.toNat 0).getLsbD i
      let set := (List.range s.hart.cs.vl).filter (bit a)
      let out (f : Nat → Bool) := maskOp s t d 0 f
      (d.toNat < 8 → t.aligned a = true → ∀ e ∈ vcmpTable, e.2.2.1 t.et →
        (t.aligned b = true → Ended (exec (e.1 d a b m) s)
          (maskOp s t d m (fun i => e.2.2.2 t (source s t a i) (source s t b i)))) ∧
        (b.toNat < 16 → Ended (exec (e.2.1 d a b m) s)
          (maskOp s t d m (fun i => e.2.2.2 t (source s t a i) (scalarSource s t b i))))) ∧
      (d.toNat < 8 →
        (a.toNat < 8 → b.toNat < 8 →
          Ended (exec (.mand d a b) s) (out (fun i => bit a i && bit b i)) ∧ Ended (exec (.mor d a b) s) (out (fun i => bit a i || bit b i)) ∧
          Ended (exec (.mxor d a b) s) (out (fun i => bit a i ^^ bit b i)) ∧ Ended (exec (.mandn d a b) s) (out (fun i => bit a i && !bit b i))) ∧
        (a.toNat < 8 → Ended (exec (.mnot d a) s) (out (fun i => !bit a i))) ∧
        Ended (exec (.mset d) s) (out (fun _ => true)) ∧ Ended (exec (.mclr d) s) (out (fun _ => false))) ∧
      (d.toNat < 16 → a.toNat < 8 →
        Ended (exec (.mfirst d a) s) (toH s d (match set.head? with
          | some i => BitVec.ofNat 64 i
          | none => BitVec.allOnes 64)) ∧
        Ended (exec (.mpopc d a) s) (toH s d (BitVec.ofNat 64 set.length)))) ∧
    (t.aligned d = true → t.aligned a = true → t.aligned b = true → governFits s.hart m = true →
      Ended (exec (.vmerge d a b m) s)
          (elementOp s t (t.dest s.hart d) 0 false
        (fun i => (if isActive s.hart m i then source s t b i else source s t a i, 0))))

namespace Sys2Proof

/-! ### Lengths, fragments and vector branches -/

/-- A vector-side word that retires and goes on at `pc`, and changes nothing else but what `h'` says of its hart: VPROG reads
0, INSTRET counts the word, a restart mark moves HRPC to the word, the slot's sequencer charges the hart's queue, and the
word is not in the lanes any more (R16, R17, R63, R86, R285). -/
def VectorStep (s t : State) (h' : Hart) (pc : Word) : Prop :=
  t = { chargeSequencer s s.issue.beats with hart := { h' with
    ve := { h'.ve with pc := pc, lastPos := qposOf s.hart, readyAt := s.clock + 1 + s.issue.s.toNat, inLanes := none },
    cs := { h'.cs with
      instret := h'.cs.instret + 1, vprog := 0,
      hrpc := if s.issue.p then s.hart.ve.pc &&& 0x00FFFFFFFFFFFFFF else h'.cs.hrpc } } }

/-- The hart with one h register replaced; the register holds its latest write (R31). -/
def withH (h : Hart) (d : BitVec 5) (v : Word) : Hart :=
  { h with ve := { h.ve with h := vset h.ve.h d.toNat v }, stale := h.stale.filter (· != .h d.toNat) }

end Sys2Proof

/-- VSETL grants a length (R99): it reads h[a] as a signed number, and sets VL and h[d] to 0 for an ill-formed VTYPE or a
number that is not positive, and otherwise to the lesser of the number and VLMAX, without the part of a scale block that
would be split. Nothing else changes, and nothing else bears on the grant. -/
def Obligations.VsetlGrantsTheLength : Prop :=
  ∀ (s : State) (d a : BitVec 5), Issuing s .vector → d.toNat < 16 → a.toNat < 16 →
    let avl := (hRead s.hart a.toNat).toInt
    let granted : Nat := match s.hart.cs.vtype with
      | none => 0
      | some t =>
        if avl ≤ 0 then 0
        else
          let n := min avl.toNat (regBits s.hart * 2 ^ t.lg.toNat / t.et.width)
          if t.bs = 0 then n else n - n % (8 * 2 ^ t.bs)
    ∃ t, exec (.vsetl d a) s = .next t ∧
      VectorStep s t (withH { s.hart with cs := { s.hart.cs with vl := granted } } d (BitVec.ofNat 64 granted)) (s.hart.ve.pc + 4)

namespace Sys2Proof

/-- The fields of a requested VTYPE are in range and a hypervector of its kind fits its group in registers of `bits` bits
(R25, R27): bits 63 to 22 are 0, ET is a type, LG at most 3, BS at most 4, HM a model, HD at most 10, and QN4 and QN8 have
blocks of 32 or more. -/
def vtypeRequestOk (bits : Nat) (w : Word) : Prop :=
  let f (lo n : Nat) : Nat := w.toNat / 2 ^ lo % 2 ^ n
  w.toNat < 2 ^ 22 ∧ f 0 5 ≤ 21 ∧ f 5 3 ≤ 3 ∧ f 10 3 ≤ 4 ∧ f 13 2 ≤ 2 ∧ f 15 4 ≤ 10 ∧
  (f 0 5 = 19 ∨ f 0 5 = 20 → 2 ≤ f 10 3) ∧
  64 * 2 ^ f 15 4 * (if f 13 2 = 0 then 1 else if f 13 2 = 1 then 8 else 4) ≤ bits * 2 ^ f 5 3

/-- VSETT never traps on the value it is given (R27, R100): a request with a field out of range makes VTYPE ill-formed and
VL 0; any other makes VTYPE read as requested and lowers VL to VLMAX and to whole scale blocks. h[d] takes the new VL. -/
def vsettSetsVtype : Prop :=
  ∀ (s : State) (d a : BitVec 5), Issuing s .vector → d.toNat < 16 → a.toNat < 16 →
    let w := hRead s.hart a.toNat
    ∃ t, exec (.vsett d a) s = .next t ∧ hRead t.hart d.toNat = BitVec.ofNat 64 t.hart.cs.vl ∧
      (∀ r : Nat, r < 16 → r ≠ d.toNat → hRead t.hart r = hRead s.hart r) ∧
      (¬ vtypeRequestOk (regBits s.hart) w → csrRead t 0x101 = 0x8000000000000000 ∧ t.hart.cs.vl = 0) ∧
      (vtypeRequestOk (regBits s.hart) w → csrRead t 0x101 = w ∧
        ∀ ty, t.hart.cs.vtype = some ty → t.hart.cs.vl =
          (let n := min s.hart.cs.vl (regBits s.hart * 2 ^ ty.lg.toNat / ty.et.width)
           if ty.bs = 0 then n else n - n % (8 * 2 ^ ty.bs))) ∧
      OnlyHartBeats s t s.issue.beats ∧ t.hart.ve.v = s.hart.ve.v ∧ t.hart.ve.m = s.hart.ve.m ∧ t.hart.sc = s.hart.sc ∧ Retired s t

/-- The other words of VCTL that do not end a block (R58, R59, R100, R101, R198): VREPLY and VREPLYM append h[a], or the
summary of m[a] below VL, to a reply queue of fewer than 16 once the hart's vector writes are performed, and nothing while
the hart is Ending; VLCSET loads a loop counter; VALC gives the slot's active lanes. -/
def repliesAndCountersComplete : Prop :=
  ∀ (s : State) (d a : BitVec 5), Issuing s .vector →
    let pc := s.hart.ve.pc + 4
    let n := min s.hart.cs.vl (regBits s.hart)
    let ones := (List.range n).filter (fun i => (vget s.hart.ve.m a.toNat 0).getLsbD i)
    let summary : Word := BitVec.ofNat 64 ((if ones ≠ [] then 2 ^ 63 else 0) + (if 0 < n ∧ ones.length = n then 2 ^ 62 else 0) +
      (match ones.head? with
       | some i => i
       | none => 0xFFFFF) * 2 ^ 20 + ones.length)
    let reply (x : Word) : Hart := { s.hart with ve := { s.hart.ve with replies := s.hart.ve.replies ++ [x] } }
    (a.toNat < 16 →
      (s.hart.life = .ending → ∃ t, exec (.vreply a) s = .next t ∧ VectorStep s t s.hart pc) ∧
      (s.hart.life ≠ .ending → vectorWritesPending s = false → s.hart.ve.replies.length < 16 →
        ∃ t, exec (.vreply a) s = .next t ∧ VectorStep s t (reply (hRead s.hart a.toNat)) pc)) ∧
    (a.toNat < 8 →
      (s.hart.life = .ending → ∃ t, exec (.vreplym a) s = .next t ∧ VectorStep s t s.hart pc) ∧
      (s.hart.life ≠ .ending → vectorWritesPending s = false → s.hart.ve.replies.length < 16 →
        ∃ t, exec (.vreplym a) s = .next t ∧ VectorStep s t (reply summary) pc)) ∧
    (d.toNat < 4 → a.toNat < 16 → ∃ t, exec (.vlcset d a) s = .next t ∧
      VectorStep s t { s.hart with ve := { s.hart.ve with lc := vset s.hart.ve.lc d.toNat (hRead s.hart a.toNat) } } pc) ∧
    (d.toNat < 16 → ∃ t, exec (.valc d) s = .next t ∧
      VectorStep s t (withH s.hart d (BitVec.ofNat 64 (activeLanes s s.hart))) pc)

/-- The bits of a mask register below `n` replaced by those of `v`. -/
def maskBelow (old : VReg) (n v : Nat) : VReg :=
  BitVec.ofNat 65536 (old.toNat / 2 ^ n * 2 ^ n + v % 2 ^ n)

end Sys2Proof

/-- VBDIV (R108), for a buffer with room for the fragment: with T the live elements below VL that the mask selects and F the
others, it branches where F is empty and T is not, falls through where T is empty, and else pushes the fragment of F, makes
T the live set and the mask of m[a], and branches. Bits from VL up never change, and nothing else does. -/
def Obligations.VbdivSplitsTheLiveSet : Prop :=
  ∀ (s : State) (t : VType) (a : BitVec 5) (o : BitVec 14), VectorIssuing s t → a.toNat < 8 →
    s.hart.cs.vl ≤ regBits s.hart →
    let vl := s.hart.cs.vl
    let u := (vget s.hart.ve.m 0 0).toNat % 2 ^ vl
    let tk := u &&& (vget s.hart.ve.m a.toNat 0).toNat % 2 ^ vl
    let fl := u - tk
    let pc := s.hart.ve.pc
    let target := pc + BitVec.ofInt 64 (4 * o.toInt)
    (fl = 0 → tk ≠ 0 → ∃ r, exec (.vbdiv a o) s = .next r ∧ VectorStep s r s.hart target) ∧
    (tk = 0 → ∃ r, exec (.vbdiv a o) s = .next r ∧ VectorStep s r s.hart (pc + 4)) ∧
    (fl ≠ 0 → tk ≠ 0 → s.hart.ve.frags.length < 4 → ∃ r, exec (.vbdiv a o) s = .next r ∧
      r.hart.ve.frags = ⟨pc + 4, a.setWidth 3, vl, BitVec.ofNat 65536 u, BitVec.ofNat 65536 fl, false⟩ :: s.hart.ve.frags ∧
      VectorStep s r { s.hart with stale := (s.hart.stale.filter (· != .m 0)).filter (· != .m a.toNat), ve := { s.hart.ve with
        frags := r.hart.ve.frags,
        m := vset (vset s.hart.ve.m 0 (maskBelow (vget s.hart.ve.m 0 0) vl tk)) a.toNat
              (maskBelow (vget (vset s.hart.ve.m 0 (maskBelow (vget s.hart.ve.m 0 0) vl tk)) a.toNat 0) vl tk) } } target)

namespace Sys2Proof

/-- The other words of VB (R112, R113), and VJOIN and VEND (R56, R109), on resident fragments: VBANY and VBNONE test the
bits of m[a] below VL; VLCNZ counts a loop counter down and branches while it is not 0; VLOOP takes VL from h[a], branches
while the rest is positive and keeps a record of its progress, and raises NOPROGRESS with VL in HTVAL where that did not fall
for the second time in a row; VJMP branches. VJOIN goes on after an empty buffer or a joining top entry, whose live set comes
back, and runs a pending one; VEND ends the block once no fragment is left. -/
def vectorBranchesAndJoinsComplete : Prop :=
  ∀ (s : State) (a : BitVec 5) (o : BitVec 14), Issuing s .vector →
    let vl := s.hart.cs.vl
    let pc := s.hart.ve.pc
    let target := pc + BitVec.ofInt 64 (4 * o.toInt)
    let any : Prop := ∃ i < vl, (vget s.hart.ve.m a.toNat 0).getLsbD i = true
    let restored (e : Fragment) (v : VReg) : Hart := setMaskBelow (setMaskBelow s.hart 0 e.vlp v.toNat) e.k.toNat e.vlp v.toNat
    (a.toNat < 8 → vl ≤ regBits s.hart → s.hart.cs.vtype ≠ none →
      (any → (∃ t, exec (.vbany a o) s = .next t ∧ VectorStep s t s.hart target) ∧
        (∃ t, exec (.vbnone a o) s = .next t ∧ VectorStep s t s.hart (pc + 4))) ∧
      (¬ any → (∃ t, exec (.vbany a o) s = .next t ∧ VectorStep s t s.hart (pc + 4)) ∧
        (∃ t, exec (.vbnone a o) s = .next t ∧ VectorStep s t s.hart target))) ∧
    (a.toNat < 4 →
      let c := vget s.hart.ve.lc a.toNat 0
      let c' := if c = 0 then 0 else c - 1
      ∃ t, exec (.vlcnz a o) s = .next t ∧
        VectorStep s t { s.hart with ve := { s.hart.ve with lc := vset s.hart.ve.lc a.toNat c' } }
          (if c' = 0 then pc + 4 else target)) ∧
    (a.toNat < 16 → s.hart.cs.vtype ≠ none →
      let r := hRead s.hart a.toNat - BitVec.ofNat 64 vl
      let found := s.hart.ve.loops.find? (fun e => e.addr == pc)
      (∀ e, found = some e → e.last ≤ r.toInt → e.n = 1 →
        exec (.vloop a o) s = .next (takeTrap s { code := 0x28, val := BitVec.ofNat 64 vl } .vector)) ∧
      ((∀ e, found = some e → e.last ≤ r.toInt → e.n ≠ 1) →
        ∃ t loops, exec (.vloop a o) s = .next t ∧
          VectorStep s t (withH { s.hart with ve := { s.hart.ve with loops := loops } } a r)
            (if 0 < r.toInt then target else pc + 4) ∧
          (0 < r.toInt → loops.head? = some ⟨pc, r.toInt, match found with
            | some e => if e.last ≤ r.toInt then e.n + 1 else 0
            | none => 0⟩) ∧
          (r.toInt ≤ 0 → ∀ e ∈ loops, e.addr ≠ pc))) ∧
    (∃ t, exec (.vjmp o) s = .next t ∧ VectorStep s t s.hart target) ∧
    (s.hart.ve.frags = [] → s.hart.ve.spilled = 0 →
      (∃ t, exec .vjoin s = .next t ∧ VectorStep s t s.hart (pc + 4)) ∧
      (∃ t, exec .vend s = .next t ∧ t.hart.ve.block = none ∧
        VectorStep s t { s.hart with ve := { s.hart.ve with block := none } } (pc + 4))) ∧
    (∀ e rest, s.hart.ve.frags = e :: rest →
      (e.joining = false →
        let h := { restored e e.f with ve := { (restored e e.f).ve with frags := { e with joining := true } :: rest } }
        (∃ t, exec .vjoin s = .next t ∧ VectorStep s t h (e.pc &&& 0xFFFFFFFFFFFFFFFC)) ∧
        (∃ t, exec .vend s = .next t ∧ VectorStep s t h (e.pc &&& 0xFFFFFFFFFFFFFFFC))) ∧
      (e.joining = true →
        let h := { restored e e.u with ve := { (restored e e.u).ve with frags := rest } }
        (∃ t, exec .vjoin s = .next t ∧ VectorStep s t h (pc + 4)) ∧
        (rest = [] → s.hart.ve.spilled = 0 → ∃ t, exec .vend s = .next t ∧
          VectorStep s t { h with ve := { h.ve with block := none } } (pc + 4))))

end Sys2Proof

/-- VSETT, VREPLY, VREPLYM, VLCSET, VALC, VBANY, VBNONE, VLCNZ, VLOOP, VJMP, VJOIN and VEND complete (R25, R27, R56,
R58, R59, R100, R101, R109, R112, R113, R198). -/
def Obligations.VectorControlWordsComplete : Prop := vsettSetsVtype ∧ repliesAndCountersComplete ∧ vectorBranchesAndJoinsComplete

namespace Sys2Proof

/-! ### Vector memory -/

/-- The byte at a location as the vector accesses of a stack see it: in the stack's L2 copy of a far or peer line where it
has one, and else at the home or the array (R129). -/
def vectorSees (s : State) (stack a : Nat) : Nat :=
  if isWindowLoc a then (memByte s.mem a).toNat else lineBytes (s.pointLine stack (lineOf a)) (a % 128) 1

end Sys2Proof

/-- The access to one element reads or writes the element's bits and no others (R33, R117, R120, R124, R125), as the
vector accesses of its stack see memory, where no L1 holds a dirty byte (an indexed or bank access in a peer's page, and
an update, sees the peer's home, to which the stack's copy of the line goes first: R233): a read returns the `w` bits from
a bit address on, lowest first, and no byte reads differently after it; a write makes them the value's low bits, an update
makes them what its function gives for what they held, and a bank add that no check of its write turns away what R213's
sum gives; every other bit of every location reads as before, but for the marks of the page's leaf entry (R223). A bank
add to a poisoned line leaves it as it is, raises nothing, and is counted as skipped (R214). None of them changes the
hart. -/
def Obligations.ElementAccessesTouchOnlyTheirBits : Prop :=
  ∀ (s u : State) (mk : MarkKind) (w b x : Nat) (l : Located) (f : Nat → Nat × Flags) (fl : Flags)
    (v : State) (e : ElemType) (sat push : Bool) (who : Option Nat),
    s.mem.wf = true → (∀ y ∈ s.l1, y.dirty = 0) → w ∈ [1, 4, 8, 16, 32, 64] → b % 8 + w ≤ 8 * max 1 (w / 8) →
    (mk = .gather → 8 ≤ w) → l.loc % 128 + max 1 (w / 8) ≤ 128 →
    let stack := s.hart.place.core / 64
    let first := 8 * l.loc + b % 8
    let before (home : Bool) : State := if home && isPeerLoc l.loc then s.l2Home stack (lineOf l.loc) else s
    let bit (s : State) (n : Nat) : Bool := (vectorSees s stack (n / 8)).testBit (n % 8)
    let became (home : Bool) (v : Nat) : Prop := ∀ n, notMarked l (n / 8) →
      bit u n = if first ≤ n ∧ n < first + w then v.testBit (n - first) else bit (before home) n
    let gathered : Bool := mk == .gather
    (locate s .read false (b / 8) = .ok l → s.poolOf (lineOf l.loc) = none → elementRead s mk w b = .ok (x, u) →
      x < 2 ^ w ∧ (∀ k < w, notMarked l ((first + k) / 8) → x.testBit k = bit (before gathered) (first + k)) ∧ u.hart = s.hart ∧
      ∀ n, notMarked l (n / 8) → bit u n = bit (before gathered) n) ∧
    (locate s .write false (b / 8) = .ok l → elementWrite s mk w b x = .ok u → u.hart = s.hart ∧ became gathered x) ∧
    (locate s .write true (b / 8) = .ok l → s.poolOf (lineOf l.loc) = none → elementUpdate s mk w b f = .ok (fl, u) →
      u.hart = s.hart ∧ ∀ old, old < 2 ^ w → (∀ k < w, old.testBit k = bit (before true) (first + k)) → 8 ≤ w →
        fl = (f old).2 ∧ became true (f old).1) ∧
    (addLocate s b (w / 8) push = .ok (l, v) → s.poisoned (lineOf l.loc) = true →
      addAt v who stack l.loc e sat x = (0, { v with skipped := s.skipped + 1 }) ∧ v.hart = s.hart) ∧
    (addLocate s b (w / 8) push = .ok (l, v) → s.poisoned (lineOf l.loc) = false → addTarget e = true → e.width = w →
      (∀ k < w / 8, notMarked l (l.loc + k)) → (∀ z, v.guardWrite stack l.loc (w / 8) ≠ .error z) →
      addAt v who stack l.loc e sat x = (fl, u) →
      u.hart = s.hart ∧ ∀ old, old < 2 ^ w → (∀ k < w, old.testBit k = bit (before true) (first + k)) →
        fl = (bankAdd e sat old x).2 ∧ became true (bankAdd e sat old x).1)

namespace Sys2Proof

/-- The state in which a vector memory word of `n` elements makes its accesses: it holds the lanes for its beats (R126). -/
def inLanes (s : State) (n : Nat) : State := { s with issue := { s.issue with beats := memoryBeats s n } }

/-- The active ones of the elements below `n` accessed in ascending order: all of them, with `k` = `n`, or, where the access
of an element meets a translation, protection, shadow or uncorrectable fault and an active element was accessed before it,
those below it, with `k` its number (R124). `l` holds what each access gave and `u` is the state after the last, and after
what the walk of an access that trapped left (R223). -/
def Walked {α : Type} (s : State) (m : BitVec 3) (f : State → Nat → Except Stop (α × State)) (n k : Nat)
    (l : List (Option α)) (u : State) : Prop :=
  (k = n ∧ accessElements (isActive s.hart m) f (List.range n) s = .ok (l, none, u)) ∨
  (∃ x v, accessElements (isActive s.hart m) f (List.range n) s = .ok (l, some (k, x), v) ∧ u = noteWalk v x ∧
    ∃ j < k, isActive s.hart m j = true)

/-- The walk meets such a fault at its lowest active element. -/
def WalkFaults {α : Type} (s : State) (m : BitVec 3) (f : State → Nat → Except Stop (α × State)) (n : Nat) (x : Trap) : Prop :=
  ∃ l k v, accessElements (isActive s.hart m) f (List.range n) (inLanes s n) = .ok (l, some (k, x), v) ∧ ∀ j < k, isActive s.hart m j = false

/-- A load's destination group after `k` elements: what was read where an element is active, 0 or the old value where it is
not, and beyond them what the tail rule gives; no other register that words compute with changes (R82, R124). -/
def LoadedGroup (s r : State) (t : VType) (d : BitVec 5) (k : Nat) (l : List (Option Nat)) : Prop :=
  (∀ i, t.et.width * (i + 1) ≤ regBits s.hart * t.group →
    element r.hart d.toNat t.et.width i =
      let old := element s.hart d.toNat t.et.width i
      if i < k then (match l[i]?.join with
        | some v => v % 2 ^ t.et.width
        | none => inactiveValue t old)
      else if t.tail ∧ k ≠ 0 then 0 else old) ∧
  (∀ j, j < 32 → (j < d.toNat ∨ d.toNat + t.group ≤ j) → vget r.hart.ve.v j 0 = vget s.hart.ve.v j 0) ∧
  r.hart.ve.m = s.hart.ve.m ∧ r.hart.ve.h = s.hart.ve.h ∧ r.hart.ve.lc = s.hart.ve.lc ∧ r.hart.sc = s.hart.sc ∧
  r.hart.cs.vl = k ∧ Retired s r

/-- A load's end: nothing but the hart, and the charge of its slot's sequencer for the word's beats (R285), differs from the
state after the last access. -/
def Loaded (s u r : State) (t : VType) (d : BitVec 5) (k : Nat) (l : List (Option Nat)) : Prop :=
  LoadedGroup s r t d k l ∧ r = { chargeSequencer u u.issue.beats with hart := r.hart }

/-- The length of a word on a stream, and the bit address of its element `i` (R124): a stream without WRAP ends at N. -/
def onStream (s : State) (x : StreamReg) : Nat :=
  if x.tsr.wrap then s.hart.cs.vl else min s.hart.cs.vl (x.tsr.count - x.pos)

def streamBit (x : StreamReg) (i : Nat) : Int := x.tsr.bitAddr ((x.pos + i) % x.tsr.count)

/-- The stream at a position: it keeps the translations that it holds of pages ahead of it (R121). -/
def placed (x : StreamReg) (p : Nat) : StreamReg :=
  { x with pos := p, ahead := x.ahead.filter (fun y => x.tsr.wrap || decide (p ≤ y.pos)) }

/-- The stream after `k` elements. -/
def moved (x : StreamReg) (k : Nat) : StreamReg :=
  placed x (if x.tsr.wrap then (x.pos + k) % x.tsr.count else x.pos + k)

/-- The bit address of an indexed element: BASE and w times the element of v[b]. -/
def indexedBit (s : State) (t : VType) (x : StreamReg) (b : BitVec 5) (i : Nat) : Int :=
  ((8 * x.tsr.base + t.et.width * source s t b i : Nat) : Int)

/-- VLD, VLDX and VLDL complete (R28, R120, R124, R126), on a bound stream of the width of ET or at a lane-private offset
that is a multiple of 32: the elements below the length are accessed as Walked says and loaded as Loaded says; VLD moves
the stream's position by the new VL, and its accesses find the translations the stream holds ahead beside its core's
(R121, R122); a fault at the lowest active element traps and nothing is loaded. -/
def vectorLoadsComplete : Prop :=
  ∀ (s : State) (t : VType) (d a b : BitVec 5) (m : BitVec 3), VectorIssuing s t → s.hart.cs.vprog = 0 →
    t.aligned d = true → governFits s.hart m = true → a.toNat < 16 →
    let w := t.et.width
    let vl := s.hart.cs.vl
    (∀ x, vget s.hart.q a.toNat none = some x → x.tsr.et.width = w →
      (let f (s : State) (i : Nat) := withAhead x (fun s => elementRead s (streamMark x) w (streamBit x i)) s
       (∀ k l u, Walked (inLanes s (onStream s x)) m f (onStream s x) k l u → ∃ r, exec (.vld d a m) s = .next r ∧ Loaded s u r t d k l ∧
         vget r.hart.q a.toNat none = some (moved x k)) ∧
       (∀ e, WalkFaults s m f (onStream s x) e → exec (.vld d a m) s = .next (takeTrap s e .vector))) ∧
      (8 ≤ w → t.aligned b = true →
        let f (s' : State) (i : Nat) := elementRead s' .gather w (indexedBit s t x b i)
        (∀ k l u, Walked (inLanes s vl) m f vl k l u → ∃ r, exec (.vldx d a b m) s = .next r ∧ Loaded s u r t d k l ∧
          r.hart.q = s.hart.q) ∧
        (∀ e, WalkFaults s m f vl e → exec (.vldx d a b m) s = .next (takeTrap s e .vector)))) ∧
    ((hRead s.hart a.toNat).toNat % 32 = 0 →
      let f (s : State) (i : Nat) := privateRead s a w i
      (∀ k l u, Walked (inLanes s vl) m f vl k l u → ∃ r, exec (.vldl d a m) s = .next r ∧ Loaded s u r t d k l ∧ r.hart.q = s.hart.q) ∧
      (∀ e, WalkFaults s m f vl e → exec (.vldl d a m) s = .next (takeTrap s e .vector)))

/-- A store's end: no register that words compute with changes, and nothing but the hart's VL, VPROG, flags and streams and
the sequencer's charge (R285) differs from the state after the last access, but for the poison that a line written whole
loses (R80, R124). -/
def Stored (s u r : State) (k : Nat) : Prop :=
  SameRegisters s r ∧
  r = { chargeSequencer u u.issue.beats with hart := r.hart, poison := r.poison, mended := r.mended } ∧
  r.hart.cs.vl = k ∧ Retired s r

/-- No flag and no first-exception register changes (R48). -/
def SameFlags (s r : State) : Prop := r.hart.cs.vflags = s.hart.cs.vflags ∧ r.hart.cs.first = s.hart.cs.first

/-- What VSTA adds to an element (R33, R125): integers as assigned, floats rounded once to nearest. -/
def accumulated (t : VType) (old x : Nat) : Nat × Flags :=
  if t.et = .f32 ∨ t.et = .f64 then (floatFormat t.et).add .rne old x
  else assigned t (integerValue t old + integerValue t x)

/-- VST, VSTX, VSTL and VSTA complete as the loads do (R28, R120, R124 to R126), each active element written, or with VSTA
updated, at its address; VST moves its stream's position by the new VL, and its accesses find the translations the stream
holds ahead (R121, R122). VSTA adds to VFLAGS what its sums raise, and each of the first-exception registers VFENV to VFESAT
takes the lowest index of an element whose sum raised its flag, and all ones if none did (R48, R125). -/
def vectorStoresComplete : Prop :=
  ∀ (s : State) (t : VType) (d a b : BitVec 5) (m : BitVec 3), VectorIssuing s t → s.hart.cs.vprog = 0 →
    t.aligned d = true → governFits s.hart m = true → a.toNat < 16 →
    let w := t.et.width
    let vl := s.hart.cs.vl
    let data := source s t d
    let unit_ (r : Except Stop State) : Except Stop (Unit × State) := r.map (fun s => ((), s))
    (∀ x, vget s.hart.q a.toNat none = some x → x.tsr.et.width = w →
      (let f (s : State) (i : Nat) :=
         withAhead x (fun s => unit_ (elementWrite s (streamMark x) w (streamBit x i) (data i))) s
       (∀ k l u, Walked (inLanes s (onStream s x)) m f (onStream s x) k l u → ∃ r, exec (.vst d a m) s = .next r ∧ Stored s u r k ∧
         vget r.hart.q a.toNat none = some (moved x k) ∧ SameFlags s r) ∧
       (∀ e, WalkFaults s m f (onStream s x) e → exec (.vst d a m) s = .next (takeTrap s e .vector))) ∧
      (8 ≤ w → t.aligned b = true →
        let f (s' : State) (i : Nat) := unit_ (elementWrite s' .gather w (indexedBit s t x b i) (data i))
        (∀ k l u, Walked (inLanes s vl) m f vl k l u → ∃ r, exec (.vstx d a b m) s = .next r ∧ Stored s u r k ∧ r.hart.q = s.hart.q ∧
          SameFlags s r) ∧
        (∀ e, WalkFaults s m f vl e → exec (.vstx d a b m) s = .next (takeTrap s e .vector))) ∧
      (t.et ∈ [.i32, .n32, .i64, .n64, .f32, .f64] → t.aligned b = true →
        let f (s' : State) (i : Nat) := elementUpdate s' .gather w (indexedBit s t x b i) (fun old => accumulated t old (data i))
        (∀ k l u, Walked (inLanes s vl) m f vl k l u → ∃ r, exec (.vsta d a b m) s = .next r ∧ Stored s u r k ∧ r.hart.q = s.hart.q ∧
          r.hart.cs.vflags = l.foldl (fun v y => v ||| y.getD 0) s.hart.cs.vflags ∧
          ∀ j < 6, vget r.hart.cs.first j 0 =
            match (List.range l.length).find? (fun i => (l[i]?.join.getD 0).getLsbD j) with
            | some i => BitVec.ofNat 64 i
            | none => BitVec.allOnes 64) ∧
        (∀ e, WalkFaults s m f vl e → exec (.vsta d a b m) s = .next (takeTrap s e .vector)))) ∧
    ((hRead s.hart a.toNat).toNat % 32 = 0 →
      let f (s : State) (i : Nat) := unit_ (privateWrite s a w i (data i))
      (∀ k l u, Walked (inLanes s vl) m f vl k l u → ∃ r, exec (.vstl d a m) s = .next r ∧ Stored s u r k ∧ r.hart.q = s.hart.q ∧
        SameFlags s r) ∧
      (∀ e, WalkFaults s m f vl e → exec (.vstl d a m) s = .next (takeTrap s e .vector)))

end Sys2Proof

/-- The vector loads and stores complete (R28, R120, R124 to R126). -/
def Obligations.VectorAccessesComplete : Prop := vectorLoadsComplete ∧ vectorStoresComplete

/-- QSET binds a stream to the shape record at h[a], at position 0, if the record is well formed, and raises BADREC if not;
QADV moves the position by h[a], modulo N with WRAP and within 0 to N without; QPOS gives it; QREL releases the register
(R119, R121, R127). An unbound register has no position to move or give: BADREC (R77), with 0 in HTVAL, which is the model's
choice (notes/assumptions/106). -/
def Obligations.StreamWordsComplete : Prop :=
  ∀ (s : State) (d a : BitVec 5), Issuing s .vector → d.toNat < 16 → a.toNat < 16 →
    let rebound (u : State) (q : BitVec 5) (x : Option StreamReg) : State :=
      retire { u with hart := { u.hart with q := vset u.hart.q q.toNat x } }
    let unbound : Host.Outcome State Fault Refusal := .next (takeTrap s { code := 0x08 } .vector)
    let at_ := (hRead s.hart a.toNat).toNat
    (∀ v u, at_ % 64 = 0 → orderedRead s s.hart .other at_ 64 = .ok (v, u) → u.hart.cs.hstat.timed = false →
      (∀ x, tsrOf v = some x → exec (.qset d a) s = .next (rebound u d (some { tsr := x, pos := 0 }))) ∧
      (tsrOf v = none →
        exec (.qset d a) s = .next (takeTrap s { code := 0x08, val := BitVec.ofNat 64 at_ } .vector))) ∧
    (∀ x, vget s.hart.q d.toNat none = some x →
      let p : Int := (x.pos : Int) + (hRead s.hart a.toNat).toInt
      exec (.qadv d a) s = .next (rebound s d (some (placed x
        (if x.tsr.wrap then (p % x.tsr.count).toNat else (max 0 (min p x.tsr.count)).toNat))))) ∧
    (∀ x, vget s.hart.q a.toNat none = some x → exec (.qpos d a) s = .next (hgave s d (BitVec.ofNat 64 x.pos))) ∧
    (vget s.hart.q d.toNat none = none → exec (.qadv d a) s = unbound) ∧
    (vget s.hart.q a.toNat none = none → exec (.qpos d a) s = unbound) ∧
    exec (.qrel d) s = .next (rebound s d none)

namespace Sys2Proof

/-! ### Hypervectors -/

/-- The ±1 reading of a component of BSC or MAP, and the component written for a sign (R150). -/
def plusMinus (hm : HvModel) (x : Nat) : Int := if hm = .bsc then (if x = 1 then 1 else -1) else (if x < 128 then 1 else -1)

def ofPlusMinus (hm : HvModel) (v : Int) : Nat := if v = 1 then 1 else if hm = .bsc then 0 else 0xFF

/-- A word that writes `width`-bit components leaves in its group, component by component, what `f` gives from the one
VPROG names on, below it what was there, and above its `n` components 0 if `zero` is set and else what was there; nothing
else but VFLAGS and the first-exception registers changes (R86, R150, R157). -/
def ComponentsWritten (s r : State) (reg group width n start : Nat) (zero : Bool) (f : Nat → Nat) : Prop :=
  (∀ j, width * (j + 1) ≤ regBits s.hart * group → element r.hart reg width j =
    if j < start ∨ (n ≤ j ∧ zero = false) then element s.hart reg width j else if j < n then f j % 2 ^ width else 0) ∧
  OnlyGroup s r reg group ∧ r.hart.cs.vl = s.hart.cs.vl ∧ Retired s r

end Sys2Proof

/-- HVA (R150 to R157): every word acts on the 64 · 2^HD components of its operands whatever VL and the masks hold. HBIND,
HUNBIND and HNOT bind, unbind and negate by component; HPERM moves component j to (j + h[b]) mod W and HPERMN moves it back;
HBACC adds the weighted readings of a to the 16-bit counters, each clamped, with SAT in VFLAGS if one was; HBTH thresholds
them, a tie taking its component of b; HGEN expands the seed h[a]; HCLR zeroes the counters and the bits above. Of them
only HBACC is flag-capable: the first-exception register VFESAT takes the lowest component of which a counter was clamped,
over all parts of a resumed word, the other five take all ones, and after any other word all six are as before (R48). -/
def Obligations.HypervectorWordsComplete : Prop :=
  ∀ (s : State) (t : VType) (d a b : BitVec 5), VectorIssuing s t →
    64 * 2 ^ t.hd * t.hm.width ≤ regBits s.hart * t.group →
    s.hart.cs.vprog.toNat % 2 ^ 32 ≤ 64 * 2 ^ t.hd →
    let h := s.hart
    let n := 64 * 2 ^ t.hd
    let cb := t.hm.width
    let p := if t.hm = .phase then 2 else 1
    let gc := counterGroup h t
    let start := h.cs.vprog.toNat % 2 ^ 32
    let x := element h a.toNat cb
    let y := element h b.toNat cb
    let pm := plusMinus t.hm
    let code := ofPlusMinus t.hm
    let c (k : Nat) : Int := ([16, 15, 11, 6, 0, -6, -11, -15, -16, -15, -11, -6, 0, 6, 11, 15] : List Int).getD (k % 16) 0
    let out (i : Instr) (from_ : Nat) (f : Nat → Nat) : Prop :=
      ∃ r, exec i s = .next r ∧ ComponentsWritten s r d.toNat t.group cb n from_ true f ∧ SameFlags s r
    let fits (r : BitVec 5) (g : Nat) : Prop := r.toNat % g = 0
    let apart (q : BitVec 5) (g : Nat) (r : BitVec 5) (g' : Nat) : Prop := q.toNat + g ≤ r.toNat ∨ r.toNat + g' ≤ q.toNat
    (fits d t.group → fits a t.group →
      (fits b t.group →
        out (.hbind d a b) start (fun j => match t.hm with
          | .bsc => if x j = y j then 0 else 1
          | .map => code (pm (x j) * pm (y j))
          | .phase => (x j + y j) % 16) ∧
        out (.hunbind d a b) start (fun j => match t.hm with
          | .bsc => if x j = y j then 0 else 1
          | .map => code (pm (x j) * pm (y j))
          | .phase => (((x j : Int) - y j) % 16).toNat)) ∧
      out (.hnot d a) start (fun j => match t.hm with
        | .bsc => 1 - x j
        | .map => code (-pm (x j))
        | .phase => (x j + 8) % 16) ∧
      (b.toNat < 16 → apart d t.group a t.group →
        let k := (hRead h b.toNat).toNat
        out (.hperm d a b) 0 (fun j => x ((((j : Int) - k) % n).toNat)) ∧
        out (.hpermn d a b) 0 (fun j => x ((j + k) % n)))) ∧
    (fits d t.group → a.toNat < 16 →
      let block (j : Nat) : Word :=  -- one step of splitmix64 from the seed plus (j + 1) times its constant
        let z0 := hRead h a.toNat + (BitVec.ofNat 64 j + 1) * 0x9E3779B97F4A7C15#64
        let z1 := (z0 ^^^ (z0 >>> 30)) * 0xBF58476D1CE4E5B9#64
        let z2 := (z1 ^^^ (z1 >>> 27)) * 0x94D049BB133111EB#64
        z2 ^^^ (z2 >>> 31)
      let bit (j : Nat) : Bool := (block (j / 64)).getLsbD (j % 64)
      out (.hgen d a) start (fun j => match t.hm with
        | .phase => ((List.range 4).map (fun k => if bit (4 * j + k) then 2 ^ k else 0)).sum
        | m => ofPlusMinus m (if bit j then 1 else -1))) ∧
    (gc ≤ 32 →
      (fits d gc → ∃ r, exec (.hclr d) s = .next r ∧
        ComponentsWritten s r d.toNat gc 16 (p * n) (p * start) true (fun _ => 0) ∧ SameFlags s r) ∧
      (fits d gc → fits a t.group → b.toNat < 16 → apart d gc a t.group →
        let w : Int := ((hRead h b.toNat).setWidth 16).toInt
        let exact (i : Nat) : Int := ((BitVec.ofNat 16 (element h d.toNat 16 i)).toInt) +
          w * (if t.hm = .phase then (if i % 2 = 0 then c (x (i / 2)) else c (x (i / 2) + 12)) else pm (x i))
        ∃ r, exec (.hbacc d a b) s = .next r ∧
          ComponentsWritten s r d.toNat gc 16 (p * n) (p * start) false
            (fun i => (BitVec.ofInt 16 (max (-32768) (min 32767 (exact i)))).toNat) ∧
          (∀ k, r.hart.cs.vflags.getLsbD k = (h.cs.vflags.getLsbD k || (k == 5 &&
            (List.range (p * n)).any (fun i => decide (p * start ≤ i ∧ (exact i < -32768 ∨ 32767 < exact i)))))) ∧
          ∀ k < 6, vget r.hart.cs.first k 0 =
            let lowest : Word := match (if k = 5 then (List.range (p * n)).find? (fun i =>
                decide (p * start ≤ i ∧ (exact i < -32768 ∨ 32767 < exact i))) else none) with
              | some i => BitVec.ofNat 64 (i / p)
              | none => BitVec.allOnes 64
            let before := vget h.cs.firstPart k 0
            if start ≠ 0 ∧ before < lowest then before else lowest) ∧
      (fits a gc → fits d t.group → fits b t.group → apart a gc d t.group → apart a gc b t.group →
        let cnt (i : Nat) : Int := (BitVec.ofNat 16 (element h a.toNat 16 i)).toInt
        out (.hbth d a b) start (fun j =>
          if t.hm = .phase then
            let sc (k : Nat) : Int := cnt (2 * j) * c k + cnt (2 * j + 1) * c (k + 12)
            match (List.range 16).filter (fun k => (List.range 16).all (fun i => decide (sc i ≤ sc k))) with
            | [k] => k
            | _ => y j
          else code (if 0 < cnt j then 1 else if cnt j < 0 then -1 else pm (y j)))))

namespace Sys2Proof

/-! ### Agreement, item stores and recall -/

/-- The agreement of two hypervectors (R161): the components below W that are equal, or under MAP equal in sign. -/
def agreeing (t : VType) (x y : Nat → Nat) : Nat :=
  (List.range (64 * 2 ^ t.hd)).countP (fun j => if t.hm = .map then plusMinus .map (x j) = plusMinus .map (y j) else x j = y j)

/-- HSIM, HPROB and the words that open, load, seal and release an item store (R158 to R162, R165), where no engine of the
hart has a command under way and no window add of its VFPUSH words is still to be made (R135, R136). The store lies at
h[a], a multiple of 128 in the core-scratchpad window, its bytes from the location `loc` on. ISOPEN gives 1, before it
reads anything, for a capacity out of range or an extent beyond the grant, 2 for a store that is not FREE, and else opens
it and gives 0; ISLOAD appends v[b] and gives its index, or all ones where the store is full; ISSEAL takes one of the
core's 16 entries and gives 0, or 1 with none free; ISREL frees the entry and the store. Where the window ends, and what
is sealed of a store that reaches beyond its grant, is the model's choice (notes/assumptions/121). HPROB rounds the exact
probability once up to W = 4,096; above, either neighbour of the approximation results. -/
def itemStoreWordsComplete : Prop :=
  ∀ (s : State) (t : VType) (d a b : BitVec 5), VectorIssuing s t → a.toNat < 16 → s.hart.tl.queue = [] →
    (∀ c ∈ s.cores, ∀ e ∈ c.fifo, e.uid = s.hart.uid → e.adds = []) →
    64 * 2 ^ t.hd * t.hm.width ≤ regBits s.hart * t.group →
    let h := s.hart
    let n := 64 * 2 ^ t.hd
    let z := n * t.hm.width / 8
    let at_ := (hRead h a.toNat).toNat
    let y := (hRead h b.toNat).toNat
    (d.toNat < 16 →
      (∀ c : BitVec 5, t.aligned c = true → t.aligned b = true → exec (.hsim d c b) s =
        .next (hgave s d (BitVec.ofNat 64 (agreeing t (element h c.toNat t.hm.width) (element h b.toNat t.hm.width))))) ∧
      (b.toNat < 16 → t.hm = .bsc →
        let k := at_
        let q := 2 ^ (k - 1) + (k - 1).choose ((k - 1) / 2)
        let bad : Prop := k = 0 ∨ k % 2 = 0 ∨ 65535 < k ∨ y = 0 ∨ 2 ^ 32 < y
        (n ≤ 4096 → exec (.hprob d a b) s = .next (hgave s d (BitVec.ofNat 64 (
          if bad then 0x7FF8000000000000
          else if y = 1 then 0x3FF0000000000000
          else ((floatFormat .f64).round .rne false ⟨false,
            ((List.range (n + 1)).map (fun i => n.choose i * q ^ i * (2 ^ k - q) ^ (n - i) *
              ((List.range i).map n.choose).sum ^ (y - 1))).sum, 1, -((k * n + n * (y - 1) : Nat) : Int)⟩).1)))) ∧
        (4096 < n → exec (.hprob d a b) s =
          .next (hgave { s with draws := s.draws + 1 } d (BitVec.ofNat 64 (recallProb n k y (Config.freeBool s.draws))))))) ∧
    (∀ loc, windowOf s h at_ = some loc → (∀ i, inGrant s at_ (i + 1) = true → windowOf s h (at_ + i) = some (loc + i)) →
      at_ % 128 = 0 → coreBase ≤ at_ → at_ < clusterBase →
      (d.toNat < 16 → b.toNat < 16 →
        let cap := y % 2 ^ 32
        let extent := inGrant s at_ (128 + cap * z)
        (cap < 1 ∨ 4096 < cap ∨ extent = false → exec (.isopen d a b) s = .next (hgave s d 1)) ∧
        (∀ x, 1 ≤ cap → cap ≤ 4096 → extent = true → readHeader s t at_ false = .ok x →
          (x.st ≠ 0 → exec (.isopen d a b) s = .next (hgave s d 2)) ∧
          (x.st = 0 → exec (.isopen d a b) s = .next (hgave
            ((s.arrayWrite loc 3 (1 + 256 * t.hm.code + 65536 * t.hd)).arrayWrite (loc + 4) 12 (cap + 2 ^ 64 * (y / 2 ^ 32))) d 0)))) ∧
      (∀ x, readHeader s t at_ true = .ok x →
        (d.toNat < 16 → t.aligned b = true → x.st = 1 →
          (x.cap ≤ x.count → exec (.isload d a b) s = .next (hgave s d (BitVec.allOnes 64))) ∧
          (x.count < x.cap → inGrant s (at_ + 128 + x.count * z) z = true → inGrant s at_ 128 = true → exec (.isload d a b) s = .next (hgave
            ((s.arrayWrite (loc + 128 + x.count * z) z (groupBits h b.toNat t.group % 2 ^ (8 * z))).arrayWrite (loc + 8) 4 (x.count + 1))
            d (BitVec.ofNat 64 x.count)))) ∧
        (d.toNat < 16 → x.st = 2 → exec (.isseal d a) s = .next (hgave s d 0)) ∧
        (∀ g, d.toNat < 16 → x.st = 1 → coreGrant s = some g →
          (16 ≤ (s.core h.place.core).stores.length → exec (.isseal d a) s = .next (hgave s d 1)) ∧
          ((s.core h.place.core).stores.length < 16 → exec (.isseal d a) s = .next (hgave
            ((s.arrayWrite loc 1 2).mapCore h.place.core (fun c => { c with stores := c.stores ++
              [⟨h.asid, h.launch, g.gid, at_ - coreBase, min (128 + x.cap * z) (g.size - (at_ - coreBase))⟩] })) d 0)))) ∧
      (∀ x, readHeader s t at_ false = .ok x →
        (x.st = 0 → exec (.isrel a) s = .next (retire s)) ∧
        (x.st ≠ 0 → exec (.isrel a) s = .next (retire ((s.mapCore h.place.core (fun c =>
          { c with stores := c.stores.filter (fun e => some e != storeEntry s at_) })).arrayWrite loc 1 0)))))

/-- HCLEAN recalls the query against a sealed store (R163), whose items `item` gives: h[d] and h[d + 1] take the best
index and agreement, the lowest index among equals, h[d + 2] the best of the others, all ones where there is none, and h[d
+ 3] the status: 3 for an empty store, 2 below FLOOR, 1 for a tie and else 0; outside its hart only the clean-up unit's
time and what its and the sequencer's arbiters charge change (R285). Both words wait where the clean-up unit does not
serve their hart now (R286; the model's reading, notes/assumptions/24). HFACT ends after at most ICAP iterations (R164),
CONVERGED, OSCILLATING or at the cap, with the number of iterations in h[d + 1], and writes nothing but h[d] to h[d + 1 +
F] and the groups of its estimates. -/
def recallAndFactorisationComplete : Prop :=
  ∀ (s : State) (t : VType) (d a b : BitVec 5), VectorIssuing s t → s.hart.cs.vprog = 0 → b.toNat < 16 →
    t.aligned a = true → 64 * 2 ^ t.hd * t.hm.width ≤ regBits s.hart * t.group →
    let h := s.hart
    let unit : Arb := .cleanup h.place.core
    let comp (v j : Nat) : Nat := v / 2 ^ (t.hm.width * j) % 2 ^ t.hm.width
    (∀ (x : StoreHeader) (item : Nat → Nat), d.toNat ≤ 12 → storeAddr s b = .ok (hRead h b.toNat).toNat →
      readHeader s t (hRead h b.toNat).toNat true = .ok x → x.st = 2 →
      (∀ i < x.count, readItem s t (hRead h b.toNat).toNat i = .ok (item i)) →
      (takeUnit s unit = none → exec (.hclean d a b) s = .next (awaitUnit s unit)) ∧
      ((takeUnit s unit).isSome →
      let g (i : Nat) : Nat := agreeing t (element h a.toNat t.hm.width) (comp (item i))
      let first (p : Nat → Prop) (i : Nat) : Prop := i < x.count ∧ p i ∧ ∀ j < x.count, p j → g j ≤ g i ∧ (g j = g i → i ≤ j)
      ∃ r, exec (.hclean d a b) s = .next r ∧ OnlyHart s { r with arbiters := s.arbiters, cores := s.cores } ∧ Retired s r ∧ r.hart.ve.v = h.ve.v ∧ r.hart.sc = h.sc ∧
        (∀ k : Nat, k < 16 → (k < d.toNat ∨ d.toNat + 3 < k) → hRead r.hart k = hRead h k) ∧
        let out (k : Nat) : Word := hRead r.hart (d.toNat + k)
        (x.count = 0 → out 0 = BitVec.allOnes 64 ∧ out 1 = 0 ∧ out 2 = BitVec.allOnes 64 ∧ out 3 = 3) ∧
        (∀ i, first (fun _ => True) i → out 0 = BitVec.ofNat 64 i ∧ out 1 = BitVec.ofNat 64 (g i) ∧
          (x.count = 1 → out 2 = BitVec.allOnes 64 ∧ out 3 = if g i < x.floor then 2 else 0) ∧
          (∀ k, first (fun j => j ≠ i) k → out 2 = BitVec.ofNat 64 k ∧
            out 3 = if g i < x.floor then 2 else if g k = g i then 1 else 0)))) ∧
    (let c := (hRead h b.toNat).toNat
     let nf := c % 8
     let icap := c / 2 ^ 16
     ∀ books, d.toNat < 16 → 2 ≤ nf → nf ≤ 4 → 1 ≤ icap → icap < 2 ^ 16 → c / 8 % 2 ^ 13 = 0 →
       b.toNat + nf ≤ 15 → d.toNat + 1 + nf ≤ 15 → a.toNat + (nf + 1) * t.group ≤ 32 →
       (b.toNat + nf < d.toNat ∨ d.toNat + 1 + nf < b.toNat) →
       (List.range nf).mapM (storeItems s t b.toNat nf) = .ok books →
       (takeUnit s unit = none → exec (.hfact d a b) s = .next (awaitUnit s unit)) ∧
       ((takeUnit s unit).isSome →
       ∃ r, exec (.hfact d a b) s = .next r ∧ OnlyHart s { r with draws := s.draws, arbiters := s.arbiters, cores := s.cores } ∧ Retired s r ∧ r.hart.sc = h.sc ∧
         (∀ k : Nat, k < 16 → (k < d.toNat ∨ d.toNat + 1 + nf < k) → hRead r.hart k = hRead h k) ∧
         (∀ k : Nat, k < 32 → (k < a.toNat + t.group ∨ a.toNat + (nf + 1) * t.group ≤ k) → vget r.hart.ve.v k 0 = vget h.ve.v k 0) ∧
         (hRead r.hart d.toNat).toNat ≤ 2 ∧ 1 ≤ (hRead r.hart (d.toNat + 1)).toNat ∧ (hRead r.hart (d.toNat + 1)).toNat ≤ icap ∧
         (hRead r.hart d.toNat = 1 → (hRead r.hart (d.toNat + 1)).toNat = icap) ∧
         (∀ f < nf, ∀ x, books[f]? = some x → x ≠ [] → (hRead r.hart (d.toNat + 2 + f)).toNat < x.length)))

end Sys2Proof

/-- The words of HVB complete (R158 to R165): the item store, recall and factorisation. -/
def Obligations.ItemStoreAndRecallWordsComplete : Prop := itemStoreWordsComplete ∧ recallAndFactorisationComplete

namespace Sys2Proof

/-! ### Tiles, engines and signatures -/

/-- The words of the engines issue at once: no other hart of the core has a region open, no tile is poisoned, and the queue
has `n` free entries of its eight (R173, R188). -/
structure EngineReady (s : State) (n : Nat) : Prop where
  alone : regionElsewhere s = false
  clean : s.hart.tl.poison = []
  room  : s.hart.tl.queue.length + n ≤ 8
  noRegion : s.hart.tl.region = none

/-- No command under way reads or writes one of the tiles `ts` (R186). -/
def tilesIdle (s : State) (ts : List Nat) : Prop :=
  ∀ c ∈ s.hart.tl.queue, ∀ t ∈ ts, t ∉ c.kind.tiles ∧ t ∉ c.kind.readTiles

/-- The hart with its tile unit changed. -/
def withTl (u : State) (tl : TileSide) : State := { u with hart := { u.hart with tl := tl } }

/-- The tile unit with a command at the end of its queue: a command that writes tiles takes the next sequence number and is
their latest producer, and every command records the producers of the tiles it reads, and its issue (R173, R185, R286). -/
def queued (u : State) (k : CmdKind) (st : CmdState) : TileSide :=
  let tl := u.hart.tl
  let c : EngCmd := {
    kind := k, word := u.issue.word, qpos := qposOf u.hart, seq := if k.tiles = [] then none else some tl.next,
    expect := k.readTiles.map (fun x => (x, vget tl.producer x 0)), start := none, state := st, cfg := tl.cfg, since := u.clock }
  { tl with
    queue := tl.queue ++ [c], next := if k.tiles = [] then tl.next else tl.next + 1,
    producer := k.tiles.foldl (fun p x => vset p x tl.next) tl.producer }

/-- The word retires with its command queued. -/
def issued (u : State) (k : CmdKind) : State := retire (withTl u (queued u k .waiting))

end Sys2Proof

/-- TILE (R169 to R171, R179, R180): TLD binds an operand tile to a record whose shape fits and makes its pins in the
background; TST queues a store of an accumulator; TZERO empties a tile and stamps it; TMOV moves elements of an accumulator
from h[b] on to a vector group; TREL releases an operand tile; TSCL attaches or, at address 0, detaches a scale array. -/
def Obligations.TileWordsComplete : Prop :=
  ∀ (s : State) (t : VType) (d a b : BitVec 5), VectorIssuing s t → EngineReady s 1 →
    let n := s.hart.tl.next
    let at_ := hRead s.hart a.toNat
    let op (tl : TileSide) (x : OpTile) : TileSide := { tl with op := vset tl.op d.toNat x }
    let stamped (tl : TileSide) : TileSide := { tl with stamp := vset tl.stamp d.toNat (some n) }
    (∀ r u, d.toNat < 8 → a.toNat < 16 → readShape s at_ at_.toNat = .ok (r, u) → operandShape r = true →
      EngineReady u 1 → u.hart.poison = [] → tilesIdle u [d.toNat] → u.issue = s.issue →
      exec (.tld d a) s = .next (retire (withTl u
        (let tl := op (queued u (.tld d.toNat) (.running u.clock)) (.bound r at_ [] none)
         { tl with stamp := vset tl.stamp d.toNat (some u.hart.tl.next) })))) ∧
    (∀ r u, d.toNat < 16 → 8 ≤ a.toNat → a.toNat < 16 →
      readShape s (hRead s.hart d.toNat) (hRead s.hart d.toNat).toNat = .ok (r, u) → storeShape r t.ts = true →
      EngineReady u 1 → u.hart.poison = [] → u.hart.cs.hstat.timed = false →
      exec (.tst d a) s = .next (issued u (.tst a.toNat r t.ts))) ∧
    (tilesIdle s [d.toNat] →
      let numbered (tl : TileSide) : TileSide := stamped { tl with next := n + 1, producer := vset tl.producer d.toNat n }
      (d.toNat < 8 → exec (.tzero d) s = .next (retire (withTl s (numbered (op s.hart.tl (.staged none 0 0 [] [] none)))))) ∧
      (8 ≤ d.toNat → d.toNat < 16 →
        exec (.tzero d) s = .next (retire (withTl s (numbered { s.hart.tl with acc := vset s.hart.tl.acc (d.toNat - 8) 0 })))) ∧
      (d.toNat < 8 → exec (.trel d) s = .next (retire (withTl s (op s.hart.tl .unbound)))) ∧
      (d.toNat < 8 → a.toNat < 16 → (t.bs = 2 ∨ t.bs = 3 ∨ t.bs = 4) → scaledType (opTile s.hart d.toNat).shape.1 = true →
        exec (.tscl d a) s = .next (retire (withTl s (op s.hart.tl (attachScale (opTile s.hart d.toNat)
          (if at_ = 0 then none else some ⟨at_.toNat, 8 * 2 ^ t.bs⟩))))))) ∧
    (8 ≤ a.toNat → a.toNat < 16 → b.toNat < 16 → t.et = .f32 ∨ t.et = .i32 ∨ t.et = .n32 → t.aligned d = true →
      tilesIdle s [a.toNat] →
      let base := (hRead s.hart b.toNat).toNat
      let acc := (vget s.hart.tl.acc (a.toNat - 8) 0).toNat
      Ended (exec (.tmov d a b) s)
        (elementOp s t (t.dest s.hart d) 0 false (fun i =>
        (if base + i < 16384 then acc / 2 ^ (32 * (base + i)) % 2 ^ 32 else 0, 0))))

/-- TENG, MMA and MMAZ outside timed regions (R176, R181 to R184, R187, R188). A product of bound tiles and a copy whose
control word and records fit are queued; TCOPY.M queues its copy and the product in the next word, and both words retire;
RFENCE empties the record cache; TWAIT waits for an empty queue; TBEGIN gives all ones where the region's energy exceeds
the quota left and else waits for its grant, the quota's one check made (R188; what the grant does:
EngineEventsTakeEffect); TEND closes an open region once the hart's commands have completed: the word retires, for a hart
whose function has no energy quota to check (R206, R207). Two of these are the model's readings: that a copy to memory,
which writes no tile, takes no sequence number (notes/assumptions/50), and that TCOPY.M issues its two commands as a pair
(notes/assumptions/91). -/
def Obligations.EngineWordsComplete : Prop :=
  (∀ (s : State) (t : VType) (d a b : BitVec 5), VectorIssuing s t →
    (∀ (d a b : BitVec 4) (o : BitVec 10), EngineReady s 1 → 8 ≤ d.toNat → a.toNat < 8 → b.toNat < 8 →
      opTile s.hart a.toNat ≠ .unbound → opTile s.hart b.toNat ≠ .unbound →
      exec (.mma d a b o) s = .next (issued s (.mma d.toNat a.toNat b.toNat false t.ts t.sat [] [])) ∧
      exec (.mmaz d a b o) s = .next (issued s (.mma d.toNat a.toNat b.toNat true t.ts t.sat [] []))) ∧
    (∀ src u m, d.toNat < 16 → a.toNat < 16 → b.toNat < 16 →
      let c := (hRead s.hart b.toNat).toNat
      let at_ := hRead s.hart a.toNat
      let tile := c / 2 ^ 17 % 16
      c < 2 ^ 21 → c / 2 ^ 12 % 16 = 0 → readShape s at_ at_.toNat = .ok (src, u) → u.hart.ve.h = s.hart.ve.h →
      u.hart.cs.hstat.timed = false →
      (c.testBit 16 = true → tileMode src.et tile = some m → tileHolds src tile t.ts = true →
        (m = .widen → sourceUnscaled u src = false) → EngineReady u 1 →
        exec (.tcopy d a b) s = .next (issued u (.copyTile src at_ tile t.ts)) ∧
        (∀ w v, nextWord u = .ok (w, v) → v.hart = u.hart → regionElsewhere v = false → u.hart.tl.queue.length ≤ 6 →
          wordOp w = 0x36 ∨ wordOp w = 0x37 → followWf w = true →
          checkMma v [tile] (tileD w).toNat (tileA w).toNat (tileB w).toNat (wordOp w == 0x37#6) = .ok () →
          ∃ r, exec (.tcopyM d a b) s = .next r ∧ pcOf r = pcOf s + 8 ∧ r.hart.cs.instret = s.hart.cs.instret + 2 ∧
            r.hart.tl.queue.map (·.kind) = u.hart.tl.queue.map (·.kind) ++ [.copyTile src at_ tile t.ts,
              .mma (tileD w).toNat (tileA w).toNat (tileB w).toNat (wordOp w == 0x37#6) t.ts t.sat [] []])) ∧
      (∀ dst v, c.testBit 16 = false → readShape u (hRead s.hart d.toNat) at_.toNat = .ok (dst, v) →
        v.hart.cs.hstat.timed = false → memoryMode src.et dst.et = some m → src.count = dst.count →
        (m = .widen → sourceUnscaled v src = false) → EngineReady v 1 →
        exec (.tcopy d a b) s = .next (issued v (.copyMem src at_ dst)))) ∧
    exec .rfence s = .next (retire (withTl s { s.hart.tl with records := [] })) ∧
    (s.hart.tl.queue = [] → exec .twait s = .next (retire s)) ∧
    (s.hart.tl.queue ≠ [] → exec .twait s = .next (stall s)) ∧
    exec .tend s = .next (retire s) ∧
    (∀ v u, d.toNat < 16 → a.toNat < 16 → s.hart.tl.request = none → s.hart.tl.queue = [] →
      let at_ := (hRead s.hart a.toNat).toNat
      at_ % 16 = 0 → orderedRead s s.hart .other at_ 16 = .ok (v, u) → u.hart = s.hart → u.issue = s.issue →
      let len := v % 2 ^ 16
      let energy := v / 2 ^ 32 % 2 ^ 32
      let peak := v / 2 ^ 64 % 2 ^ 32
      v / 2 ^ 16 % 2 ^ 16 = 0 → v / 2 ^ 96 % 2 ^ 32 = 0 → 1 ≤ len → len ≤ 4096 → 1 ≤ energy → 1 ≤ peak → peak ≤ 85000 →
      let req : RegionReq := ⟨s.hart.ve.pc, u.clock, d, s.issue.p, s.issue.s, len, energy, peak, false⟩
      (exceedsQuota (withTl u { u.hart.tl with request := some req }) energy = true →
        exec (.tbegin d a) s = .next (hgave u d (BitVec.allOnes 64))) ∧
      (exceedsQuota (withTl u { u.hart.tl with request := some req }) energy = false →
        exec (.tbegin d a) s = .next (stall (withTl u { u.hart.tl with request := some { req with admitted := true } }))))) ∧
  (∀ (s : State) (g : Region), s.issue.side = .vector → s.hart.cs.hstat.timed = true → s.hart.writes = [] →
    s.hart.tl.region = some g → s.hart.tl.queue = [] → (∀ vf, s.fnOf s.hart.asid ≠ some (some vf)) →
    ∃ r, exec .tend s = .next r ∧ r.hart.cs.hstat.timed = false ∧ r.hart.tl.region = none ∧
      r.hart.tl.lastLen = g.len ∧ r.hart.tl.lastCyc = s.clock - g.start ∧ r.hart.tl.lastResv = g.energy ∧
      SameRegisters s r ∧ Retired s r)

/-- SIG (R246, R248 to R251) outside timed regions. SIGD sets the configuration, VTYPE and VL for a dimension of 1 to 16 and
a depth of 1 to 4 whose signature has at most 65,536 elements, and gives that number; any other request makes VTYPE
ill-formed, VL 0 and gives 0. The commands are queued on groups t8 and t12; SIGADD takes its increment at issue. -/
def Obligations.SignatureWordsComplete : Prop :=
  ∀ (s : State) (d a : BitVec 5),
    (Issuing s .vector → d.toNat < 16 → a.toNat < 16 →
      let x := (hRead s.hart a.toNat).toNat
      let dim := x % 32
      let n := x / 256 % 8
      let size := ((List.range n).map (fun k => dim ^ (k + 1))).sum
      let ok : Prop := x < 2 ^ 11 ∧ x / 32 % 8 = 0 ∧ 1 ≤ dim ∧ dim ≤ 16 ∧ 1 ≤ n ∧ n ≤ 4 ∧ size ≤ 65536
      let out (vt : Option VType) (vl : Nat) (cfg : Nat × Nat) (v : Nat) := Host.Outcome.next (hgave
        { s with hart := { s.hart with cs := { s.hart.cs with vtype := vt, vl := vl }, tl := { s.hart.tl with cfg := cfg } } }
        d (BitVec.ofNat 64 v))
      (¬ ok → exec (.sigd d a) s = out none 0 s.hart.tl.cfg 0) ∧
      (ok → exec (.sigd d a) s = out (some { s.hart.cs.vtype.getD default with et := .f32, lg := 0, bs := 0, hm := .bsc, hd := 0 }) dim (dim, n) size)) ∧
    (∀ t, VectorIssuing s t → EngineReady s 1 → s.hart.tl.cfg ≠ (0, 0) →
      let g : BitVec 5 → Prop := fun r => r = 8 ∨ r = 12
      let at_ (r : BitVec 5) := (hRead s.hart r.toNat).toNat
      (g d → exec (.siginit d) s = .next (issued s (.sigInit d.toNat))) ∧
      (g d → t.et = .f32 → s.hart.cs.vl = s.hart.tl.cfg.1 → t.aligned a = true →
        exec (.sigadd d a) s = .next (issued s (.sigAdd d.toNat ((List.range s.hart.tl.cfg.1).map (source s t a))))) ∧
      (g d → g a →
        exec (.sigmul d a) s = .next (issued s (.sigMul d.toNat a.toNat)) ∧
        exec (.siglog d a) s = .next (issued s (.sigLog d.toNat a.toNat))) ∧
      (g d → a.toNat < 16 → at_ a % 4 = 0 → exec (.sigld d a) s = .next (issued s (.sigLd d.toNat (at_ a)))) ∧
      (d.toNat < 16 → g a → at_ d % 4 = 0 → exec (.sigst d a) s = .next (issued s (.sigSt a.toNat (at_ d)))))

namespace Sys2Proof

/-! ### Fabric streams -/

/-- Fabric register a holds the live binding f: its group's generation is the binding's, and it is not aborted (R312); no
delivery is held behind a fault, and no captured packet is one it can take. -/
structure Live (s : State) (a : BitVec 5) (f : FabReg) : Prop where
  named : a.toNat < 8
  bound : vget s.hart.f a.toNat none = some f
  sound : f.aborted = false
  fresh : (s.group f.group).gen = f.gen
  free  : f.stuck = []
  drained : nextCaptured f = none

end Sys2Proof

/-- FAB outside timed regions, with no delivery held back (R285, R286, R302, R310 to R320). FBIND binds a register to a well
formed record and its shape records and joins the rank to its group, which becomes ACTIVE with its last rank; FREL unbinds
it. FSEND of a SEND binding sends the strip to its peer as packets of consecutive elements and moves the position; FRECV
and FRECVOP set VL to the strip's length and take the strip's elements, or its combined records, once they are all there,
and wait until then, FRECVOP with its own elements sent; FCOUNT gives the sum of the counts it received from every rank;
FA2A moves the counted parts of a source of the binding's element width; FWAIT ends once the binding has finished, with the
elements delivered into its buffer. A word that has something for another rank sends it where the fabric port serves it, and
waits otherwise. -/
def Obligations.FabricWordsComplete : Prop :=
  ∀ (s : State) (t : VType) (d a b : BitVec 5) (f : FabReg), VectorIssuing s t → s.hart.cs.vprog = 0 →
    let h := s.hart
    let i := a.toNat
    let n := min h.cs.vl (f.len - f.pos)
    let data := source s t b
    let at_ := hRead h a.toNat
    let port : Arb := .fabric h.place.core
    let served (sends : Bool) (v : State) : Prop := if sends then takeUnit s port = some v else v = s
    let turned (sends : Bool) (o : Host.Outcome State Fault Refusal) : Prop :=
      sends = true → takeUnit s port = none → o = .next (awaitUnit s port)
    let passed (r : State) : Prop := ∃ g, vget r.hart.f i none = some g ∧ g.pos = f.pos + n
    (∀ v u bv u' cv u'' buf src w, d.toNat < 8 → a.toNat < 16 → vget h.f d.toNat none = none → at_.toNat % 64 = 0 →
      let y := v / 256 ^ 0x10 % 2 ^ 64
      let z := v / 256 ^ 0x18 % 2 ^ 64
      orderedRead s h .other at_.toNat 64 = .ok (v, u) → loadTsrIf u (y != 0) y = .ok (bv, u') →
      loadTsrIf u' (z != 0 || v / 256 ^ 3 % 256 == 4) z = .ok (cv, u'') → fsrOf v at_ = some f →
      checkTsr y bv = .ok buf → checkTsr z cv = .ok src → (∀ r, buf = some r → bufferOk f r = true) →
      checkJoin u'' f at_.toNat = .ok () → orderedWrite u'' u''.hart .other (at_.toNat + 7) 1 0 = .ok w →
      w.hart = h → w.issue = s.issue → (w.group f.group).held = [] →
      ∃ r, exec (.fbind d a) s = .next r ∧ Retired s r ∧
        vget r.hart.f d.toNat none = some { f with buf := buf, src := src } ∧
        (r.group f.group).joined = (w.group f.group).joined ||| (1#64 <<< f.rank) ∧
        (r.group f.group).state = (if (w.group f.group).state = .open_ ∧
          (∀ k < (w.group f.group).nrank, ((w.group f.group).joined ||| (1#64 <<< f.rank)).getLsbD k = true)
          then .active else (w.group f.group).state)) ∧
    (i < 8 → vget h.f i none = none → exec (.frel a) s = .next (retire s)) ∧
    (Live s a f →
      (∃ r, exec (.frel a) s = .next r ∧ Retired s r ∧ vget r.hart.f i none = none) ∧
      (t.aligned b = true → bindingFits s a t = true → f.pattern = .send → f.sent ≤ f.pos → f.peer.toNat < 64 → f.pos + n ≤ f.len →
        f.peer.toNat ≠ f.rank → (s.group f.group).locals.getLsbD f.peer.toNat = true →
        turned (decide (0 < n)) (exec (.fsend a b) s) ∧ ∀ v, served (decide (0 < n)) v → ∃ r ps, exec (.fsend a b) s = .next r ∧ Retired s r ∧ passed r ∧ r.hart.cs.vl = n ∧ r.transit = s.transit ++ ps ∧
          (∀ p ∈ ps, ∃ k l, p = ⟨f.group, f.gen.toNat, f.rank, f.peer.toNat, .elems (f.pos + k) l⟩ ∧
            l = (List.range' k l.length).map data ∧ l.length * f.et.width ≤ 8192) ∧
          (ps.map (fun p => match p.body with
            | .elems _ l => l
            | _ => [])).flatten = (List.range n).map data) ∧
      (t.aligned d = true → bindingFits s a t = true → f.mayReceive = true → f.buf = none → f.pos + n ≤ f.len →
        (f.results f.pos n = none → exec (.frecv d a) s = .next (stall (setVl s n))) ∧
        (∀ l fl, f.results f.pos n = some (l, fl) → ∃ r, exec (.frecv d a) s = .next r ∧
          LoadedGroup s r t d n (l.map some) ∧ passed r ∧ r.hart.cs.vflags = h.cs.vflags ||| arriving h.cs s.clock fl ∧
          r.hart.cs.first = h.cs.first)) ∧
      (t.aligned d = true → t.aligned b = true → bindingFits s a t = true → f.mayCombine = true →
        turned (mustSend f 0 n) (exec (.frecvop d a b) s)) ∧
      (∀ v u g, t.aligned d = true → t.aligned b = true → bindingFits s a t = true → f.mayCombine = true → f.buf = none →
        served (mustSend f 0 n) v → sendStrip (setVl v n) i f data 0 n = .ok u → u.issue = s.issue → u.clock = s.clock →
        u.hart = { v.hart with cs := { h.cs with vl := n }, f := u.hart.f } →
        vget u.hart.f i none = some g → g.pos = f.pos → g.stuck = [] → nextCaptured g = none → g.buf = none →
        (g.results f.pos n = none → exec (.frecvop d a b) s = .next (stall u)) ∧
        (∀ l fl, g.results f.pos n = some (l, fl) → ∃ r, exec (.frecvop d a b) s = .next r ∧
          LoadedGroup s r t d n (l.map some) ∧ passed r ∧ r.hart.cs.vflags = h.cs.vflags ||| arriving h.cs s.clock fl ∧
          r.hart.cs.first = h.cs.first)) ∧
      (d.toNat < 16 → bindingFits s a t = true → f.pattern = .a2a → f.phase = .bound →
        turned (decide (1 < (s.group f.group).nrank)) (exec (.fcount d a) s)) ∧
      (∀ p v u w g x z, d.toNat < 16 → bindingFits s a t = true → f.pattern = .a2a → f.phase = .bound →
        let ranks := (s.group f.group).nrank
        let mine := (List.range ranks).map (elem 32 v)
        served (decide (1 < ranks)) p → rangeRead p p.hart .other (lineFuel (4 * ranks)) f.counts (4 * ranks) = .ok (v, u) →
        sendCounts (setFab u i (some { f with sendN := mine })) i { f with sendN := mine } mine = .ok w → fabReg w i = some g →
        ∀ got, (List.range ranks).mapM (fun r => (g.got.find? (·.1 == r)).map (·.2)) = some got →
        countWrites w i g (entriesAt (g.counts + 256) got ++
          entriesAt (g.counts + 512) ((List.range ranks).map (fun r => (got.take r).sum))) = .ok (true, x) →
        drainAll (setFab x i ((fabReg x i).map (fun f => { f with recvN := got, phase := .counted }))) i = .ok z →
        exec (.fcount d a) s = .next (hgave z d (BitVec.ofNat 64 got.sum))) ∧
      (∀ src, bindingFits s a t = true → f.pattern = .a2a → f.phase = .counted → f.src = some src → src.et.width = f.et.width →
        f.sendN.sum ≤ src.count → f.recvN.sum ≤ (f.buf.map Tsr.count).getD 0 →
        let sends := (List.range f.sendN.length).any (fun j => j != f.rank && a2aPart f 0 f.sendN.sum j)
        turned sends (exec (.fa2a a) s) ∧ ∀ p l u w, served sends p →
        readSource src (List.range f.sendN.sum) p = .ok (l, none, u) → fabReg u i = some f →
        (List.range f.sendN.length).foldlM (fun s j => sendPayloads s i f j (partFor f 0 l j)) (setFab u i (some { f with sent := l.length })) = .ok w →
        exec (.fa2a a) s = .next (retire (settleBinding (setFab w i ((fabReg w i).map (fun f => { f with phase := .moving }))) i))) ∧
      (d.toNat < 16 →
        (f.finished = false → exec (.fwait d a) s = .next (stall s)) ∧
        (f.finished = true → ∃ r, exec (.fwait d a) s = .next r ∧ Retired s r ∧
          (∀ k : BitVec 5, k.toNat < 16 → hRead r.hart k.toNat =
            if k = d then BitVec.ofNat 64 (if f.buf = none then 0 else f.delivered) else hRead h k.toNat))))

/-! ### Banks -/

/-- BANK (R202, R211 to R216), outside timed regions, where the island of the hart's core is ON or no element is active.
BGATH loads, BSCAT stores, and BSCADD adds to, the elements that v[b] numbers in a bound stream, as vector accesses do,
and the pages log their requests (R229); VFPUSH of at most 64 elements puts them into the core's FIFO of 16 entries as one
entry, which leaves its adds to window levels to the island, and its arbiter charges the queue for the entry's island time
(R215, R285); it waits for a free entry and for its queue's turn there. BGATH follows the adds of its hart's earlier
requests (R210). What BSCAT, BSCADD and VFPUSH do to the columns is done at acceptance, with the word: that is the model's
reading (notes/assumptions/27). VFFREE gives the free entries; BLAT gives a column's latency, step, state and change
count, all ones for a column that does not exist, and for the hart's own column makes them its latency view. -/
def Obligations.BankWordsComplete : Prop :=
  ∀ (s : State) (t : VType) (d a b : BitVec 5) (m : BitVec 3), VectorIssuing s t → s.hart.cs.vprog = 0 →
    let h := s.hart
    let core := h.place.core
    let c := s.core core
    let vl := h.cs.vl
    let data := source s t d
    (∀ x, a.toNat < 16 → t.aligned d = true → t.aligned b = true → governFits h m = true →
      ((∃ i < vl, isActive h m i = true) → c.island = .on) → vget h.q a.toNat none = some x →
      let e := x.tsr.et
      let bit (i : Nat) : Int := ((8 * x.tsr.base + e.width * source s t b i : Nat) : Int)
      let addend (i : Nat) : Nat := if t.et = .bf16 ∧ e = .f32 then 2 ^ 16 * data i else data i
      (e.width = t.et.width → 8 ≤ e.width →
        (let f (s : State) (i : Nat) := gatherItem s t.et.width (bit i)
         (∀ s i, unreached s s.hart.uid = false →
           f s i = (elementRead s .gather t.et.width (bit i)).map (fun r => (r.1, noteRequest r.2 (bit i)))) ∧
         (∀ s i, unreached s s.hart.uid = true → f s i = .error .wait) ∧
         ∀ k l u, Walked s m f vl k l u → ∃ r, exec (.bgath d a b m) s = .next r ∧ Loaded s u r t d k l) ∧
        (let f (s : State) (i : Nat) := scatterItem s t.et.width (bit i) (data i)
         (∀ s i, (f s i).map (·.2) = (elementWrite s .gather t.et.width (bit i) (data i)).map (fun s => noteRequest s (bit i))) ∧
         ∀ k l u, Walked s m f vl k l u → ∃ r, exec (.bscat d a b m) s = .next r ∧ Stored s u r k ∧ SameFlags s r ∧
           r.hart.bank = h.bank ++ (if l.filterMap id = [] then [] else [⟨l.filterMap id⟩]))) ∧
      (addTarget e = true → t.et = e ∨ (t.et = .bf16 ∧ e = .f32) →
        (let f (s : State) (i : Nat) : Except Stop (BankItem × State) := do
           let (l, s) ← addLocate s (bit i) (e.width / 8) false
           .ok (acceptAdd s h l.loc e t.sat (addend i))
         (∀ s loc x, let y := addAt s (some h.uid) (core / 64) loc e t.sat x
           (acceptAdd s h loc e t.sat x).2 = y.2 ∧ (acceptAdd s h loc e t.sat x).1.flags = y.1) ∧
         ∀ k l u, Walked s m f vl k l u → ∃ r, exec (.bscadd d a b m) s = .next r ∧ Stored s u r k ∧ SameFlags s r ∧
           r.hart.bank = h.bank ++ (if l.filterMap id = [] then [] else [⟨l.filterMap id⟩])) ∧
        (vl ≤ 64 →
         let unit : Arb := .fifo core
         let f (s : State) (i : Nat) := pushPair s e t.sat (bit i) (addend i)
         let entry (l : List PushedPair) : FifoEntry :=
           { uid := h.uid, asid := h.asid, since := s.clock, sat := t.sat, adds := l.filterMap (·.add), flags := 0, items := l.filterMap (·.item),
             pairs := (l.filter (·.own)).length, forward := l.any (fun y => !y.own && y.add.isNone) }
         let push (v : State) (l : List PushedPair) : State :=
           if l = [] then v
           else runIsland ((chargeTurn v unit h.queue (32 * (24 + (if (v.core core).half then 2 else 1) *
             (l.filter (·.own)).length))).mapCore core (fun c => { c with fifo := c.fifo ++ [entry l] })) core
         ((∃ i < vl, isActive h m i = true) → 16 ≤ c.fifo.length ∨ takeUnit s unit = none →
           exec (.vfpush d a b m) s = .next (awaitUnit s unit)) ∧
         ∀ v, (if ∃ i < vl, isActive h m i = true then c.fifo.length < 16 ∧ takeUnit s unit = some v else v = s) →
           ∀ k l u, Walked v m f vl k l u → ∃ r, exec (.vfpush d a b m) s = .next r ∧ SameRegisters s r ∧ r.hart.cs.vl = k ∧
             SameFlags s r ∧ Retired s r ∧ r = retire (push (setVl u k) (l.filterMap id))))) ∧
    (d.toNat < 16 → exec (.vffree d) s = .next (hgave s d (BitVec.ofNat 64 (16 - c.fifo.length)))) ∧
    (d.toNat < 16 → a.toNat < 16 →
      let x := hRead h a.toNat
      let n := if x = BitVec.allOnes 64 then core else x.toNat
      let col := s.core n
      let lat := 96 + (if col.half then 64 else 0) + (if col.hot then 24 else 0)
      let step := if col.half then 16 else 8
      (s.product.cores ≤ n → exec (.blat d a) s = .next (hgave s d (BitVec.allOnes 64))) ∧
      (n < s.product.cores → exec (.blat d a) s = .next (hgave
        (if n = core then withTl s { h.tl with lat := lat, step := step } else s) d
        (BitVec.ofNat 64 (2 ^ 48 * col.chg.toNat + 2 ^ 47 * col.half.toNat + 2 ^ 46 * col.hot.toNat +
          2 ^ 45 * (decide (col.island ≠ .on)).toNat + 2 ^ 16 * lat + step)))))

/-! ### Device registers -/

/-- A write of a device register (R5, R38, R278 to R280, R307, R309, R325, R326): RW fields take the value's bits, bits
written as 1 clear W1C fields, and everything else keeps its value. Before DEVRDY the queue registers ignore writes. QBASE
and QSIZE take a value only while the queue is empty; QTAIL takes a tail no further from QHEAD than the ring is long, and
any other sets OVF and leaves it. A 0 written to COUNT of a context's fault record clears it (R272), and no other value
has an effect. Voxind gives a queue its context, a stack its format ranges, of which an enabled one abandons the moves of the
pages it overlaps (R230), and a package its route set. -/
def Obligations.DeviceRegistersTakeTheirFields : Prop :=
  ∀ (s : State) (v : Word),
    (∀ n, s.hart.resident = true → csrPriv s.hart.cs.hstat.hl n true = false →
      exec (.registerWrite (.csr n) v) s = .next (csrWrite s n v.toNat false)) ∧
    (∀ l < 24, ∃ t, exec (.registerWrite (.lstat l) v) s = .next t ∧ t = { s with links := t.links } ∧
      t.link l = { s.link l with retry := (s.link l).retry &&& ~~~(v.extractLsb' 32 32) } ∧ ∀ m, m ≠ l → t.link m = s.link m) ∧
    exec (.registerWrite .ctxBase v) s = .next { s with hub := { s.hub with ctxBase := v &&& 0x0000FFFFFFF00000 } } ∧
    exec (.registerWrite .grpBase v) s = .next { s with hub := { s.hub with grpBase := v &&& 0x0000FFFFFFC00000 } } ∧
    (∀ asid, exec (.registerWrite (.faultCount asid) 0) s =
        .next (s.mapCtx asid (fun c => { c with fault := { c.fault with count := 0 } })) ∧
      (v ≠ 0 → exec (.registerWrite (.faultCount asid) v) s = .next s)) ∧
    exec (.registerWrite .eccCnt v) s = .next { s with hub := { s.hub with eccCnt := s.hub.eccCnt &&& ~~~v } } ∧
    exec (.registerWrite (.hapCtx none) v) s = .next { s with hub := { s.hub with hapPf := v &&& 0x800000000000FFFF } } ∧
    (∀ n < 1024, ∃ t, exec (.registerWrite (.hapCtx (some n)) v) s = .next t ∧ t = { s with hub := { s.hub with hapVf := t.hub.hapVf } } ∧
      ∀ m, hapOf t (some m) = if m = n then v &&& 0x800000000000FFFF else hapOf s (some m)) ∧
    (∀ q < 4096, s.hub.devrdy = true →
      let x := s.queue q
      let became (t : State) (y : Queue) : Prop := t.queue q = y ∧ t = { s with queues := t.queues } ∧ ∀ p, p ≠ q → t.queue p = s.queue p
      (∃ t, exec (.registerWrite (.qstat q) v) s = .next t ∧ became t { x with
        ddone := x.ddone && !v.getLsbD 10, err := x.err && !v.getLsbD 9, ovf := x.ovf && !v.getLsbD 8 }) ∧
      (x.head = x.tail → s.queueHarts q = [] →
        ∃ t, exec (.qbaseWrite q v) s = .next t ∧ became t { x with base := v &&& 0x00FFFFFFFFFFFFC0 }) ∧
      (x.head ≠ x.tail → exec (.qbaseWrite q v) s = .next s ∧ exec (.qsizeWrite q v) s = .next s) ∧
      (x.head = x.tail → 4 ≤ v.toNat % 32 → v.toNat % 32 ≤ 16 →
        ∃ t, exec (.qsizeWrite q v) s = .next t ∧ became t { x with log2 := v.toNat % 32 }) ∧
      ((v.setWidth 32 - x.head).toNat ≤ 2 ^ x.log2 →
        ∃ t, exec (.qtailWrite q v) s = .next t ∧ became t { x with tail := v.setWidth 32 }) ∧
      (2 ^ x.log2 < (v.setWidth 32 - x.head).toNat →
        ∃ t, exec (.qtailWrite q v) s = .next t ∧ became t { x with ovf := true }) ∧
      (∀ asid < 65536, ∃ t, exec (.queueContextAssign q asid) s = .next t ∧ became t { x with asid := asid })) ∧
    (s.hub.devrdy = false → ∀ q, exec (.qbaseWrite q v) s = .next s ∧ exec (.qsizeWrite q v) s = .next s ∧
      exec (.qtailWrite q v) s = .next s ∧ exec (.registerWrite (.qstat q) v) s = .next s) ∧
    (∀ stack n k, stack < s.product.cores / 64 → n < 16 → k < 4 →
      let old := ((s.formats.find? (fun x => x.1 == stack && x.2.1 == n)).map (·.2.2)).getD (Vector.replicate 4 0)
      let bits : Word := ([0x0000FFFFFFFF0000, 0x0000FFFFFFFF0000, 0x000000008000031F, 0x0000FFFFFFFFFFFC] : List Word).getD k 0
      ∃ t, exec (.formatRangeWrite stack (0x100 + 32 * n + 8 * k) v) s = .next t ∧
        t = { s with formats := t.formats, moves := t.moves } ∧
        (formatRange (vset old k (v &&& bits)) = none → t.moves = s.moves) ∧
        t.formats.find? (fun x => x.1 == stack && x.2.1 == n) = some (stack, n, vset old k (v &&& bits))) ∧
    (∀ pkg links, (∀ l ∈ links, l < 24) → links.Nodup → (∃ l ∈ links, (s.link l).state = .up ∨ (s.link l).state = .degraded) →
      ∃ t, exec (.routeTableWrite pkg links) s = .next t ∧ t = { s with routes := t.routes } ∧ routeTo t pkg = links)

namespace Sys2Proof

/-- CONTEXTs that the events of a queue do not start by themselves: no hart of the queue stands on a core. -/
def noUnits (s : State) (q : Nat) : Prop := s.queueHarts q = []

/-- STATE of a queue from its records, its control bits, its units and the state it was in (R283): EMPTY without a record
that counts, else SUSPENDED with SUSP, else DRAINING with DRAIN. Else a queue that was RUNNING stays so while a unit is
placed or waits for placement, one that was SUSPENDED or DRAINING is RUNNING if a unit is placed, and any other is BOUND
until a unit is placed. -/
def queueStands (s : State) (q : Nat) (susp drain : Bool) : QueueState :=
  let placed : Prop := s.queueHarts q ≠ []
  let waits : Prop := ∃ l ∈ s.launches, l.queue = q ∧ l.taken = true ∧ l.placed < l.units
  open Classical in
  if queueBound s q = false then .empty
  else if susp then .suspended
  else if drain then .draining
  else match (s.queue q).state with
    | .running => if placed ∨ waits then .running else .bound
    | .suspended | .draining => if placed then .running else .bound
    | .empty | .bound => .bound

end Sys2Proof

/-- The events of queues (R56, R279, R281 to R288, R292, R294 to R296, R299). SUSP and DRAIN take their values, DRAIN
capturing QTAIL, and the queue the state they give it; a drained queue clears DRAIN and sets DDONE; a bind record is written,
and a core without harts takes its SPLIT. The next ring entry is taken as QHEAD passes it: one that does nothing is skipped,
a launch or a graph is started, and any other sets ERR. A unit is placed on the core and slot chosen for it with the
registers R294 gives it; an Ending hart with nothing left to do becomes Free, and its launch counts it; a token of a graph
passes its node. At an arbiter the queue that holds the turn keeps it while it has a ready request and a deficit above
zero; else the turn passes to the next queue of the order with a ready request, which gains its quantum, and a queue that
gives the turn up without a ready request keeps no deficit above zero; a served request's charge lowers its queue's
deficit, and the order keeps its queues. -/
def Obligations.QueueEventsTakeEffect : Prop :=
  ∀ (s : State) (q : Nat),
    let x := s.queue q
    (q < 4096 → s.hub.devrdy = true →
      (x.susp = false → ∃ u, u = { s with queues := u.queues } ∧ u.queue q = { x with susp := true, state := queueStands s q true x.drain } ∧
        exec (.qctlSusp q true) s = .next (if (u.queue q).state = .suspended then preemptQueue u q else u)) ∧
      (noUnits s q → x.susp = true → ∃ t, exec (.qctlSusp q false) s = .next t ∧
        t = { s with queues := t.queues } ∧ t.queue q = { x with susp := false, state := queueStands s q false x.drain })) ∧
    (∀ b : Bool, q < 4096 → s.hub.devrdy = true → x.drain ≠ b → ∃ t, exec (.qctlDrain q b) s = .next t ∧
      t.queue q = { x with drain := b, dtail := if b then x.tail else x.dtail, state := queueStands s q x.susp b }) ∧
    (x.state = .draining → x.head = x.dtail → entriesEnded s q = true → ∃ t, exec (.drainDone q) s = .next t ∧
      t.queue q = { x with drain := false, ddone := true, state := .bound }) ∧
    (∀ core n (v : Word), core < s.product.cores → n < 32 → ∃ t, exec (.bindRecordWrite core n v) s = .next t ∧
      (t.core core).binds.find? (fun b => b.n == n) =
        some ⟨n, v.getLsbD 12, v.extractLsb' 32 8, v.extractLsb' 30 2, v.setWidth 12⟩ ∧
      (t.core core).split = (if v.getLsbD 12 = true ∧ v.extractLsb' 32 8 ≠ 0 ∧ coreOccupied s core = false then
        v.extractLsb' 30 2 else (s.core core).split) ∧
      (∀ c, c ≠ core → t.core c = s.core c)) ∧
    (mayTake s q = true → x.device = [] → x.head ≠ (if x.state = .draining then x.dtail else x.tail) →
      ∀ v u, hubRead s x.asid (x.base.toNat + 64 * (x.head.toNat % 2 ^ x.log2)) 64 = .ok (v, u) →
      let w := u.mapQueue q (fun y => { y with head := y.head + 1 })
      let plain : Prop := v / 2 ^ 8 % 2 ^ 56 = 0 ∧ v / 2 ^ 128 = 0
      (v % 256 = 0 → plain → exec (.queueEntryTake q) s = .next w) ∧
      (∀ t, v % 256 = 1 ∨ v % 256 = 2 → plain → v < 2 ^ 512 →
        startRecord w q x.asid (v % 256) (BitVec.ofNat 64 (v / 2 ^ 64 % 2 ^ 64)) = .ok t → exec (.queueEntryTake q) s = .next t) ∧
      (v < 2 ^ 512 → 2 < v % 256 ∨ ¬ plain → ∃ t, exec (.queueEntryTake q) s = .next t ∧ (t.queue q).err = true)) ∧
    (∀ r rest u, mayTake s q = true → x.device = r :: rest → r.graph = false →
      chainCancelled (s.mapQueue q (fun y => { y with device := y.device.drop 1 })) x.asid r.counter = .ok (false, u) →
      exec (.queueEntryTake q) s = .next { u with launches := u.launches.map (fun l =>
        if l.handle == r.counter && l.asid == x.asid then { l with taken := true } else l) }) ∧
    (∀ (l : Launch) at_, s.launches.find? (fun y => y.handle == l.handle && y.asid == l.asid && mayPlace s y) = some l → l.place = 0 →
      choosePlace s l l.placed (fun _ => true) = some at_ → (s.core at_.core).island = .on →
      ∃ t h, exec (.unitPlace l.asid l.handle.toNat at_) s = .next t ∧ h ∈ t.parked ∧ h.place = at_ ∧ h.life = .running ∧
        h.asid = l.asid ∧ h.launch = l.handle ∧ h.sc.pc = l.code ∧ gRead h 1 = l.args ∧ gRead h 2 = BitVec.ofNat 64 l.placed ∧
        gRead h 3 = BitVec.ofNat 64 l.units ∧ gRead h 4 = l.handle ∧ gRead h 5 = BitVec.ofNat 64 (32 / 2 ^ l.split.toNat) ∧
        (∀ r, 6 ≤ r → r < 32 → gRead h r = 0) ∧ h.cs.hstat = {} ∧ h.sc.rstack = [exitEntry] ∧
        h.cs.htvec = l.handler &&& 0x00FFFFFFFFFFFFFC) ∧
    (∀ at_ t w, s.focus at_ = some t → mayFree t = true → frozenOut t = false → t.hart.f = Vector.replicate 8 none →
      unitEnded t.freeHart t.hart.asid t.hart.launch = .ok w →
      exec (.hartFree at_) s = .next w ∧ t.freeHart.hart.life = .free) ∧
    (∀ g k n v u y, s.graphs.find? (fun z => z.counter == g.counter && z.asid == g.asid && z.taken) = some g → g.tokens[k]? = some n →
      hubRead s g.asid (g.array.toNat + 32 * n) 32 = .ok (v, u) → nodeFields v = some y →
      (∀ w, tokenAt u g k n y = .ok w → exec (.graphNode g.asid g.counter.toNat k) s = .next w) ∧
      (∀ c w, y.kind = 2 → nodeWord u g.asid y.arg (fun v => v) = .ok (c, w) →
        successorOk g.nodes (if c = 0 then y.alt else y.next) = true →
        exec (.graphNode g.asid g.counter.toNat k) s = .next (moveToken w g k [if c = 0 then y.alt else y.next]))) ∧
    (∀ arb, ∃ t, exec (.arbiterTurn arb) s = .next t ∧ t = { s with arbiters := t.arbiters } ∧
      let a := arbiter s arb
      let b := arbiter t arb
      let ready := readyQueues s arb
      (∀ z, z ∈ b.order ↔ z ∈ a.order) ∧
      (∀ h rest, a.order = h :: rest → h ∈ ready → 0 < a.deficitOf h → b.order = a.order ∧ ∀ z, b.deficitOf z = a.deficitOf z) ∧
      ∀ h rest n, a.order = h :: rest → h ∉ ready ∨ a.deficitOf h ≤ 0 →
        (rest ++ [h]).find? ready.contains = some n →
        let left (z : Nat) : Int := if z = h ∧ h ∉ ready ∧ 0 < a.deficitOf h then 0 else a.deficitOf z
        let gained : Int := left n + quantum s arb n
        0 < gained → b.order.head? = some n ∧ ∀ z, b.deficitOf z = if z = n then gained else left z) ∧
    (∀ arb z (c : Nat), let t := chargeTurn s arb z c
      t = { s with arbiters := t.arbiters } ∧ (arbiter t arb).order = (arbiter s arb).order ∧
      ∀ y, (arbiter t arb).deficitOf y = if y = z ∧ z ∈ (arbiter s arb).order then (arbiter s arb).deficitOf y - c
        else (arbiter s arb).deficitOf y) ∧
    (∀ n, chargeSequencer s n =
      chargeTurn s (.sequencer s.hart.place.core s.hart.place.slot) s.hart.queue (n * activeLanes s s.hart))

namespace Sys2Proof

/-! ### Contexts and functions -/

/-- The harts that a pre-emption names: all of a context, or those of one launch of it. -/
def preempted (asid : Nat) (launch : Option Nat) (h : Hart) : Prop :=
  h.asid = asid ∧ ∀ l, launch = some l → h.launch = BitVec.ofNat 64 l

end Sys2Proof

/-- The events of contexts and functions (R206, R267 to R277, R297, R327). A free ASID is created with its root and
priority, bound to a function, and destroyed again from CREATED or BOUND, with its cached translations, its record's
fields but STATE staying as they are; a malformed record is refused and reported. PREEMPT halts every
hart it names; once the save of the last hart is complete the context is SAVED, or goes on to RESUMING where a resume was
kept; a resume of a SAVED context restores it unless its quota is used up (R277) or a SUSPENDED queue holds harts of it, and
of a RUNNING context whose halted harts cannot go on yet it is kept. That such a queue holds the whole context back, and that
a RUNNING context keeps a resume, are the model's readings of R279 and R283 (notes/assumptions/41, 69), and the fields that a
destroyed context's record keeps are its choice (notes/assumptions/16). A VF is enabled with no quota and no aperture context
(R326, R327); a write of QLEFT adds to its quota, in µJ; its reset cancels the jobs of its contexts, gives its queue registers
their reset values and takes its quota to 0. -/
def Obligations.ContextEventsTakeEffect : Prop :=
  ∀ (s : State) (asid : Nat),
    let others (t : State) : Prop := ∀ a, a ≠ asid → t.ctx? a = s.ctx? a
    (∀ (root : Word) (prio : BitVec 2) (reserved : Nat), s.ctx? asid = none → asid < 4096 →
      (root.toNat % 2 ^ 20 = 0 → root.toNat < 2 ^ 48 → reserved = 0 →
        ∃ t, exec (.contextCreate asid root prio reserved) s = .next t ∧
          t.ctx? asid = some { asid := asid, prio := prio, root := root.toNat } ∧ others t) ∧
      (root.toNat % 2 ^ 20 ≠ 0 ∨ 2 ^ 48 ≤ root.toNat ∨ reserved ≠ 0 →
        exec (.contextCreate asid root prio reserved) s = .next { s with refusals := s.refusals ++ [asid] })) ∧
    (∀ c, s.ctx? asid = some c →
      (c.state = .created → ∀ fn : Option Nat, (∀ n, fn = some n → n < 1024) → ∃ t, exec (.contextBind asid fn) s = .next t ∧
        t = { s with contexts := t.contexts } ∧ t.ctx? asid = some { c with fn := some fn, state := .bound } ∧ others t) ∧
      (c.state = .created ∨ c.state = .bound → ∃ t, exec (.contextDestroy asid) s = .next t ∧ t.ctx? asid = none ∧
        (∀ e ∈ t.tlb, e.asid ≠ asid) ∧ (c.held = [] → others t) ∧
        (t.freed.find? (fun x => x.asid == asid)).map (fun x => (x.used, x.hcause, x.fault, x.state)) =
          some (c.used, c.hcause, c.fault, .free)) ∧
      (c.state ≠ .created → c.state ≠ .bound → exec (.contextDestroy asid) s = .next s) ∧
      (c.state = .saved → s.exhausted asid = true ∨ heldSuspended s asid = true → exec (.contextResume asid) s = .next s) ∧
      (c.state = .saved → s.exhausted asid = false → heldSuspended s asid = false →
        ∀ w, continueResume (s.mapCtx asid (fun c => { c with state := .resuming })) asid = .ok w →
          exec (.contextResume asid) s = .next w) ∧
      (c.state = .halting → s.exhausted asid = false → ∃ t, exec (.contextResume asid) s = .next t ∧
        t = { s with contexts := t.contexts } ∧ t.ctx? asid = some { c with resume := true } ∧ others t) ∧
      (c.state = .running → mayResume s asid = true → partReady s asid = false → (∃ h ∈ s.harts, h.asid = asid ∧ h.halted = true) →
        ∃ t, exec (.contextResume asid) s = .next t ∧
          t = { s with contexts := t.contexts } ∧ t.ctx? asid = some { c with resume := true } ∧ others t) ∧
      (c.state = .running → partReady s asid = true → ∀ w, restoreContext (seatAll s asid) asid = .ok w →
        exec (.contextResume asid) s = .next w)) ∧
    (∀ launch, ∃ t, exec (.preempt asid launch) s = .next t ∧ ∀ h ∈ t.harts, preempted asid launch h → h.resident = false) ∧
    (∀ at_ t c, s.focusBy (fun h => h.place == at_ && h.halted && !h.saved) = some t → maySave t t.hart = true →
      t.hart.asid = asid → t.ctx? asid = some c →
      ∃ w, exec (.contextSaveComplete at_) s = .next w ∧ w.hart = { t.hart with saved := true } ∧ w.parked = t.parked ∧
        (c.state = .halting → (∀ h ∈ t.parked, h.asid = asid → h.halted = true ∧ h.saved = true) →
          (w.ctx? asid).map (·.state) = some (if c.resume then .resuming else .saved))) ∧
    (∀ counter t, cancelLevel s hubCore asid (BitVec.ofNat 64 counter) = .ok t → exec (.cancellation asid counter) s = .next t) ∧
    (∀ vf < 1024,
      (vf ∉ s.vfs → (∀ h ∈ s.harts, s.fnOf h.asid = some (some vf) → h.resident = false) →
        ∃ t, exec (.vfEnable vf true) s = .next t ∧ t.vfs = vf :: s.vfs ∧ t.left vf = 0 ∧ hapOf t (some vf) = 0) ∧
      (vf ∈ s.vfs → ∃ t, exec (.vfEnable vf false) s = .next t ∧ vf ∉ t.vfs ∧ hapOf t (some vf) = 0) ∧
      (s.hub.devrdy = true → vf ∈ s.vfs → ∀ v : Word,
        let sum : Int := s.left vf + v.toInt * 1000
        sum ≤ 2 ^ 63 * 1000 - 1 → -(2 ^ 63 * 1000 : Int) ≤ sum →
        ∃ u, u = { s with quota := u.quota, spent := u.spent } ∧ u.left vf = sum ∧ (∀ z, z ≠ vf → u.left z = s.left z) ∧
          (0 < sum → ∀ w, eachOf State.resumeContext (quotaSaved u vf) u = .ok w → exec (.qleftWrite (some vf) v) s = .next w) ∧
          (sum ≤ 0 → ∃ t, exec (.qleftWrite (some vf) v) s = .next t ∧
            ∀ h ∈ t.harts, s.fnOf h.asid = some (some vf) → h.resident = false)) ∧
      (∀ w, eachOf cancelContext ((s.contexts.filter (fun c => c.fn == some (some vf))).map (·.asid)) s = .ok w →
        ∃ t, exec (.functionLevelReset vf) s = .next t ∧ t.left vf = 0 ∧
          ∀ i < 4, t.queue (4 * vf + i) =
            { n := 4 * vf + i, asid := (w.queue (4 * vf + i)).asid, state := (t.queue (4 * vf + i)).state }))

/-! ### Harts between words -/

/-- The events of a hart that stand between its words (R54, R56, R71, R76, R344), for a hart that no timed region of its slot
holds back. The vector side takes the oldest block of its queue with its trip count and four arguments. A pending interrupt
of the lowest code is taken at level 0 where interrupts are on; an engine fault that no later vector-side word can take is
delivered. A WAIT whose deadline has come retires with the reason that came first, and of what came in one cycle with the
highest code; how an event that the machine sees later than it came is placed among them is the model's reading
(notes/assumptions/7). -/
def Obligations.HartEventsTakeEffect : Prop :=
  ∀ (s t : State) (at_ : Place), s.focus at_ = some t → frozenOut t = false →
    (∀ e rest, t.hart.cs.hstat.hl = false → t.hart.ve.block = none → t.hart.ve.blockQ = e :: rest →
      ∃ w, exec (.blockTake at_) s = .next w ∧ OnlyHart t w ∧
        hRead w.hart 0 = e.arg0 ∧ hRead w.hart 1 = e.arg1 ∧ hRead w.hart 2 = e.arg2 ∧ hRead w.hart 3 = e.arg3 ∧
        (∀ r, 4 ≤ r → hRead w.hart r = hRead t.hart r) ∧ vget w.hart.ve.lc 0 0 = e.trip ∧ w.hart.ve.pc = e.addr ∧
        w.hart.ve.block = some ⟨e.addr, e.seq⟩ ∧ w.hart.ve.blockQ = rest ∧
        w.hart.cs.hrpc = e.addr &&& 0x00FFFFFFFFFFFFFF ∧ w.hart.sc = t.hart.sc) ∧
    (∀ x, t.hart.cs.hstat.ie = true → t.hart.cs.hstat.hl = false → x ∈ t.hart.irqs → (∀ y ∈ t.hart.irqs, y ≠ x → x.code < y.code) →
      waitsHere t.hart = false → ¬ (vectorDone t.hart = true ∧ t.hart.tl.faults ≠ []) →
      exec (.trapDelivery at_) s = .next (takeTrap (t.mapHart (fun h => { h with irqs := h.irqs.erase x })) x .interrupt)) ∧
    (∀ x p rest, vectorDone t.hart = true → t.hart.tl.faults = (x, p) :: rest →
      exec (.trapDelivery at_) s = .next (takeTrap (t.mapHart (fun h => { h with tl := { h.tl with faults := rest } })) x .vector true
        (some t.hart.ve.lastPos))) ∧
    (∀ w due (d : BitVec 5), waitRecord t.hart = some w → w.live = true → w.addr = t.hart.sc.pc → w.deadline = some due →
      due ≤ t.clock → w.d = d.toNat → t.hart.writes = [] → t.hart.cs.hstat.timed = false → t.hart.poison = [] →
      ∃ u, exec (.waitTimeout at_) s = .next u ∧
        ScalarResult { t with issue := { side := .scalar, s := w.s } } u d
          (let irq : Prop := t.hart.cs.hstat.ie = true ∧ t.hart.irqs ≠ []
           if due < t.clock then (if irq ∧ t.hart.irqAt ≤ due then 2 else 0)
           else if irq then 2 else if t.hart.ve.replies ≠ [] then 1 else 0))

namespace Sys2Proof

/-! ### Events of the engines, of timed regions, of streams and of walks -/

/-- The events of engine commands (R49, R173, R181, R185, R188 to R190, R231, R251, R286), for the command at entry `k` of
the queue of the hart at a place. One without a start cycle begins when its engine and the scoreboard allow and the engine's
arbiter gives it its turn (notes/assumptions/24): it runs from this cycle and stamps the tiles it writes; without its turn
nothing happens. A running one takes its next step; in a region, a step that waits for a page's move is a late operand, but
a command that is never late waits, and its timing varies. One whose steps are done leaves the queue, with its flags merged
but for those that a write of this cycle clears. A waiting TBEGIN that is grantable opens its region and gives the cycles it
waited. Inside a region a command starts at its cycle if the checks of that cycle find nothing; a region that reaches its
length raises TIMING. The page of a later position of a stream is translated, unless four are held or the record forbids it:
its walk sets A, and a walk that fails leaves nothing (R121, R122). -/
def commandEventsTakeEffect : Prop :=
  ∀ (s t : State) (at_ : Place), s.focus at_ = some t →
    (∀ k c, t.hart.tl.queue[k]? = some c →
      let begun (u w : State) : Prop := w = beginCommand u k c ∧ (c.kind.unit ≠ .array →
        (w.hart.tl.queue[k]?).map (·.state) = some (.running t.clock) ∧
        ∀ tile ∈ c.kind.tiles, tile < 16 → ∀ n, c.seq = some n → vget w.hart.tl.stamp tile none = some n)
      (c.running = false → (c.start = none ∨ t.hart.cs.hstat.timed = false) → mayStart t (t.hart.tl.queue.take k) c = true →
        (∀ u, engineTurn t c = some u → u = { t with arbiters := u.arbiters } ∧
          ∃ w, exec (.engineCommandStart at_ k) s = .next w ∧ begun u w) ∧
        (engineTurn t c = none → exec (.engineCommandStart at_ k) s = .next s)) ∧
      (c.running = true → c.progress < c.steps t.hart → (t.hart.cs.hstat.timed = false ∨ columnMayBeLate t c = none) →
        (∀ w d, commandStep t c = .done w d → exec (.engineStep at_ k) s = .next
          (w.mapHart (fun h => setCommand h k { d with progress := c.progress + 1 }))) ∧
        (∀ w d x, commandStep t c = .fault w d x → exec (.engineStep at_ k) s = .next (engineFault w k d x)) ∧
        (t.hart.cs.hstat.timed = true → commandStep t c = .stop .wait → exec (.engineStep at_ k) s = .next (
          if neverLate c then t.mapHart (fun h => setCommand h k { c with varying := true })
          else takeTrap t (timing 0 (cycleOf t) (lateName t c)) .vector false (some c.qpos)))) ∧
      (c.running = true → c.steps t.hart ≤ c.progress → completionDue t c = true → commandHeld t c = false →
        ∃ w, exec (.engineCommandComplete at_ k) s = .next w ∧ w.hart.tl.queue = t.hart.tl.queue.eraseIdx k ∧
          w.hart.cs = { t.hart.cs with vflags := t.hart.cs.vflags |||
            (if t.hart.cs.clearedAt = t.clock then c.flags &&& ~~~t.hart.cs.cleared else c.flags) } ∧
          ((∀ x, c.kind ≠ .tld x) → SameMemory t w)) ∧
      (∀ r start, t.hart.tl.region = some r → c.start = some start → c.running = false → r.start + start ≤ t.clock →
        (timedChecks t k c = none → ∃ w, exec (.timedCommandStart at_ k) s = .next w ∧ begun t w) ∧
        (∀ x, timedChecks t k c = some x → exec (.timedCommandStart at_ k) s = .next (takeTrap t x .vector false (some c.qpos))))) ∧
    (∀ r, t.hart.tl.request = some r → grantable t r = true → mayIssue t.hart .vector = true → t.hart.tl.faults = [] →
      s.fnOf t.hart.asid = some none →
      ∃ w, exec (.regionGrant at_) s = .next w ∧
        w.hart.tl.region = some { start := t.clock + 1, len := r.len, energy := r.energy, peak := r.peak, alc := activeLanes t t.hart } ∧
        w.hart.tl.request = none ∧ w.hart.cs.hstat = { t.hart.cs.hstat with timed := true } ∧ w.hart.ve.pc = t.hart.ve.pc + 4 ∧
        (r.d.toNat < 16 → hRead w.hart r.d.toNat = BitVec.ofNat 64 (t.clock - r.since)) ∧ SameMemory t w) ∧
    (∀ r, t.hart.tl.region = some r → r.start + r.len ≤ t.clock → exec (.regionOverrun at_) s =
      .next (takeTrap t (timing 0 r.len 0xFFFFFFFF) .vector)) ∧
    (∀ q x ahead, vget t.hart.q q none = some x →
      let p := if x.tsr.wrap then (x.pos + ahead) % x.tsr.count else x.pos + ahead
      let va := (x.tsr.bitAddr p / 8).toNat
      (x.tsr.noahead = false → p < x.tsr.count → 0 ≤ x.tsr.bitAddr p → x.tsr.bitAddr p < 2 ^ 59 → x.ahead.length < 4 →
        (∀ e, walkedEntry t t.hart.place.core t.hart.asid va = some e → exec (.streamRunAhead at_ q ahead) s = .next
          ((markAccessed t (some e.at_)).mapHart (fun h => { h with q := vset h.q q (some { x with ahead := x.ahead ++ [⟨p, e⟩] }) }))) ∧
        (walkedEntry t t.hart.place.core t.hart.asid va = none → exec (.streamRunAhead at_ q ahead) s = .next t)) ∧
      ((x.tsr.noahead = true ∨ 4 ≤ x.ahead.length) → exec (.streamRunAhead at_ q ahead) s = .next t))

/-- The events of query contexts (R256, R260, R261, R265, R266): a running walk takes its next step, one read of a part of a
line or the work on the parts it has read; a read that faults ends it as FAULT. It drops a neighbour it has visited, and
ends PARTIAL or COMPLETE where nothing is left to expand. A walk whose owner is Halted goes on only to the end of the step
it is in; then its context can be reclaimed, and when it goes on it starts again from the entry, with one restart more
(notes/assumptions/67). -/
def walkEventsTakeEffect : Prop :=
  ∀ (s : State) (core n : Nat) (x : QueryCtx), queryAt s core n = some x → x.state = .running →
    (∀ h, s.harts.find? (fun h => h.uid == x.uid && (h.resident || (h.halted && !x.fetched.isEmpty))) = some h →
      x.reclaimed = false →
      (∀ y, walkMove x = .goOn y → exec (.walkStep core n) s = .next (setQuery s h.place.core { y with fetched := [] })) ∧
      (∀ y st fa w, walkMove x = .ended y st fa → endWalk s h y st fa = .ok w → exec (.walkStep core n) s = .next w) ∧
      (∀ y va k, walkMove x = .reads y va k →
        (∀ v w, pointRead s h .other va k = .ok (v, w) →
          exec (.walkStep core n) s = .next (setQuery w h.place.core { x with fetched := (va, k, v) :: x.fetched })) ∧
        (∀ tr w, pointRead s h .other va k = .error (.trap tr) → endWalk (noteWalk s tr) h y .fault tr.val = .ok w →
          exec (.walkStep core n) s = .next w)) ∧
      (x.begun = true → ∀ v p rest, x.pending = (v, p) :: rest → v ∈ x.visited →
        exec (.walkStep core n) s = .next (setQuery s h.place.core { x with pending := rest, fetched := [] })) ∧
      (x.begun = true → x.pending = [] → x.cand = [] → ∀ w,
        endWalk s h x (if x.best.length < x.desc.k then .partial_ else .complete) 0 = .ok w →
        exec (.walkStep core n) s = .next w)) ∧
    (x.fetched = [] → s.harts.any (fun h => h.uid == x.uid && h.halted) = true →
      exec (.queryContextReclaim core n) s = .next (setQuery s core { x with reclaimed := true }) ∧
      ((∀ h ∈ s.harts, h.uid = x.uid → h.resident = false) → exec (.walkStep core n) s = .next s)) ∧
    (∀ y, stepTarget s core n = some y → y.state = .running → y.reclaimed = true →
      s.harts.any (fun h => h.uid == y.uid && h.resident) = true →
      exec (.walkStep core n) s = .next (setQuery s core { y with
        begun := false, cand := [], best := [], visited := [], pending := [], fetched := [], x := 0, reclaimed := false,
        restarts := min 255 (y.restarts + 1) }))

end Sys2Proof

/-- The events of engine commands, timed regions, streams and query contexts have their effect (R49, R121, R122, R173,
R181, R185, R188 to R190, R260, R261, R265, R266, R286). -/
def Obligations.EngineEventsTakeEffect : Prop := commandEventsTakeEffect ∧ walkEventsTakeEffect

namespace Sys2Proof

/-! ### Events of power, energy and the columns -/

/-- The events of lanes, budgets, islands and columns (R196 to R203, R213 to R217). A droop leaves each unfrozen slot a
quarter fewer lanes, at least a quarter of those in service; 128 cycles later one more comes back in each. A cluster lends
a part of its budget that is not reserved, and takes it back (the model's choice: notes/assumptions/124). An idle dusking
island is gated, and a waking one is on after its time. A column's HALF or HOT changes once and is counted. A free island
performs the adds to window levels of the FIFO's next entry, in order, and the entry completes 24 cycles and one for each
pair of the core's own column later, two at half width, or later by a free number if pairs went elsewhere. A complete
entry leaves the FIFO, and a hart's earliest bank request completes, with their flags, once none of their elements is held
for want of a shadow (R215, R238) and no add before it in the hart's sequence is left to be made (R210), the context of an
entry paying for it; a BGATH of the core's own column arrives at its due cycle unless that is before its bound, and one
that still waits is late (R218). -/
def laneAndColumnEventsTakeEffect : Prop :=
  ∀ s : State,
    (∀ core < s.product.cores,
      let c := s.core core
      let slots := 2 ^ c.split.toNat
      let nsvc := servingLanes c.lanemap c.split
      let lanes (t : State) (f : Nat → Nat → Nat) : Prop := ∀ i < 8, vget (t.core core).active i 0 =
        if i < slots ∧ slotFrozen s core i = false then f (nsvc i) (vget c.active i 0) else vget c.active i 0
      (∃ t, exec (.droopDetect core) s = .next t ∧ t = { s with cores := t.cores } ∧
        lanes t (fun n a => max ((n + 3) / 4) (3 * a / 4)) ∧ (t.core core).restore = some (s.clock + 128)) ∧
      (∀ due, c.restore = some due → due ≤ s.clock → ∃ t, exec (.alcRestore core) s = .next t ∧ t = { s with cores := t.cores } ∧
        lanes t (fun n a => min n (a + 1)) ∧ (t.core core).restore =
          if ∃ i, i < slots ∧ vget (t.core core).active i 0 < nsvc i then some (s.clock + 128) else none) ∧
      (c.island = .dusking → c.fifo = [] → bankBusy s core = false →
        ∃ t, exec (.islandGate core) s = .next t ∧ t = { s with cores := t.cores } ∧ t.core core = { c with island := .gated }) ∧
      (∀ due dusk, c.island = .waking due dusk → due ≤ s.clock → ∃ t, exec (.islandWake core) s = .next t ∧
        t = { s with cores := t.cores } ∧ t.core core = { c with island := if dusk then .dusking else .on }) ∧
      (let chg := if s.hub.dawn = .ready then c.chg + 1 else c.chg
       (c.half = false → ∃ t, exec (.verticalPathDegrade core) s = .next t ∧ t.core core = { c with half := true, chg := chg }) ∧
       (∀ hot, c.hot ≠ hot → ∃ t, exec (.bankTemperatureChange core hot) s = .next t ∧
         t.core core = { c with hot := hot, chg := chg })) ∧
      (∀ e rest due, c.fifo = e :: rest → e.done = some due → due ≤ s.clock → itemsLate e.items = false →
        (∀ x ∈ rest, x.done = none) → exec (.vfifoEntryPerform core) s = .next (runIsland
          (((s.mapCore core (fun c => { c with fifo := rest })).mapHarts (fun h =>
            let fl := e.flags ||| itemFlags e.items
            if h.uid = e.uid ∧ h.life ≠ .free then
              { h with cs := { h.cs with vflags := h.cs.vflags ||| (if h.cs.clearedAt = s.clock then fl &&& ~~~h.cs.cleared else fl) } }
            else h)).owe { asid := e.asid }) core)) ∧
      (∀ e rest, c.fifo = e :: rest → e.done = none → (∀ x ∈ rest, x.done = none) →
        let u := s.mapCore core (fun c => { c with fifo := e :: rest })
        let r := e.adds.foldl (performAdd (core / 64) e) (e.flags, u)
        let free := s.clock + 24 + (if c.half then 2 else 1) * e.pairs
        (c.fifoFree ≤ s.clock → ∃ t late, exec (.vfifoEntryPerform core) s = .next t ∧ (e.forward = false → late = 0) ∧
          t.mem = r.2.mem ∧ (t.core core).fifo = { e with adds := [], flags := r.1, done := some (free + late) } :: rest ∧
          (t.core core).fifoFree = free) ∧
        (s.clock < c.fifoFree → ∃ t, exec (.vfifoEntryPerform core) s = .next t ∧ t = { s with cores := t.cores } ∧
          (t.core core) = c))) ∧
    (∀ a b n, a < s.product.clusters → b < s.product.clusters → a ≠ b →
      let moved (t : State) (x y : Nat) : Prop := vget t.noon x 0 = vget s.noon x 0 - n ∧ vget t.noon y 0 = vget s.noon y 0 + n ∧
        ∀ z, z ≠ x → z ≠ y → vget t.noon z 0 = vget s.noon z 0
      (reservedPeak s a + n ≤ vget s.noon a 0 → vget s.noon b 0 + n ≤ 85000 → ∃ t, exec (.noonLend a b n) s = .next t ∧
        t = { s with noon := t.noon } ∧ moved t a b) ∧
      (reservedPeak s b + n ≤ vget s.noon b 0 → vget s.noon a 0 + n ≤ 42500 → 42500 + n ≤ vget s.noon b 0 →
        ∃ t, exec (.noonRecall a b n) s = .next t ∧ moved t b a)) ∧
    (∀ at_ t r rest, s.focusBy (fun h => h.place == at_ && !h.saved && !unreached s h.uid &&
        (match h.bank with | r :: _ => !itemsLate r.items | [] => false)) = some t → t.hart.bank = r :: rest →
      exec (.bankRequestComplete at_) s = .next (t.mapHart (fun h =>
        let fl := itemFlags r.items
        { h with bank := rest, cs := { h.cs with
          vflags := h.cs.vflags ||| (if h.cs.clearedAt = t.clock then fl &&& ~~~h.cs.cleared else fl) } }))) ∧
    (∀ at_ t r, s.focus at_ = some t → t.hart.bgath = some r → r.arrived = false → r.due ≤ t.clock →
      let arrived (u : State) : State := u.mapHart (fun h => { h with bgath := some { r with arrived := true } })
      (r.waits = false → r.far = false → (r.own = true → r.bound ≤ r.due) → exec (.bgathDue at_) s = .next (arrived t)) ∧
      (r.waits = true → r.own = false → gatherAll t r.q r.b r.m = .error .wait →
        exec (.bgathDue at_) s = .next (takeTrap t (timing 0 (cycleOf t) r.d.toNat) .vector)) ∧
      (r.waits = false → r.far = true → r.own = false → exec (.bgathDue at_) s = .next (if t.choose.1
        then takeTrap t.choose.2 (timing 0 (cycleOf t) r.d.toNat) .vector else arrived t.choose.2)))

/-- The meter's events (R205, R206, R277). When an interval of 1 µs ends, every payer is charged what the meters measured
for it, a free amount (notes/assumptions/21), then every timed region, and the rest is the house account's; then each VF
whose quota is used up is halted. A payer's energy adds to the USED of its context and is debited from the quota of its
VF; that of no context goes to the house account; that of a save or restore which QUOTA caused is not debited; and that of
a timed region is debited by TBEGIN already. The payers are the contexts of resident harts, of halted ones not yet saved,
of queues to which a record that counts binds a slot, of FIFO entries, of launches and graphs, and those that worked in
the interval and may be gone. A stack's refresh energy is divided among the contexts in proportion to their pages, and the
rest goes to the house account. -/
def meterEventsChargeContexts : Prop :=
  ∀ s : State,
    (s.meter = none → exec .meterInterval s = .next s) ∧
    (∀ due, s.meter = some due → s.clock < due → exec .meterInterval s = .next s) ∧
    (∀ due, s.meter = some due → due ≤ s.clock →
      let y := (payers s).foldl chargePayer { s with meter := some (due + 1000), unpaid := [] }
      let x := (y.harts.filter (fun h => h.tl.region.isSome)).foldl chargeRegion y
      exec .meterInterval s = .next (quotaChecks { x.draw.2 with house := x.house + x.draw.1 })) ∧
    ((∀ e ∈ s.quota, 0 < e.2) → quotaChecks s = s) ∧
    (∀ p, p ∈ payers s ↔ p ∈ s.unpaid ∨
      (∃ h ∈ s.harts, h.asid = p.asid ∧ (h.resident = true ∧ p.exempt = false ∨ h.resident = false ∧ h.saved = false ∧
        (p.exempt = h.quotaHalt ∨ p.exempt = false ∧ h.bank ≠ []))) ∨
      (p.exempt = false ∧ ((∃ u ∈ s.cores, ∃ b ∈ u.binds, b.valid = true ∧ b.weight ≠ 0 ∧ b.split = u.split ∧
          (s.queue b.queue.toNat).asid = p.asid) ∨
        (∃ u ∈ s.cores, ∃ e ∈ u.fifo, e.asid = p.asid) ∨ (∃ l ∈ s.launches, l.asid = p.asid) ∨ (∃ g ∈ s.graphs, g.asid = p.asid)))) ∧
    ((∀ vf, s.left vf < 2 ^ 63 * 1000) → ∀ p : Payer,
      let n := s.draw.1
      let t := chargePayer s p
      (s.ctx? p.asid = none → t = { s.draw.2 with house := s.house + n }) ∧
      (∀ c, s.ctx? p.asid = some c → t.ctx? p.asid = some { c with used := c.used + n } ∧ t.house = s.house ∧
        (∀ a, a ≠ p.asid → t.ctx? a = s.ctx? a) ∧ ∀ vf, t.left vf = if p.exempt = false ∧ c.fn = some (some vf)
          then max (s.left vf - n) (-(2 ^ 63 * 1000)) else s.left vf)) ∧
    (∀ at_ t r c, s.focus at_ = some t → t.hart.tl.region = some r → s.ctx? t.hart.asid = some c →
      let w := chargeRegion t t.hart
      w.hart.tl.region = some { r with used := r.used + t.draw.1 } ∧
        w.ctx? t.hart.asid = some { c with used := c.used + t.draw.1 } ∧ w.quota = s.quota ∧ w.house = s.house) ∧
    (∀ stack n, (∀ c ∈ s.contexts, c.fn = some none) → (s.contexts.map (·.asid)).Nodup → (∀ e ∈ s.quota, 0 < e.2) →
      let part (c : Context) : Nat := n * pagesIn s stack walkLevels c.root / stackPages
      ∃ t, exec (.refreshEnergySplit [(stack, n)]) s = .next t ∧
        (∀ c ∈ s.contexts, t.ctx? c.asid = some { c with used := c.used + part c }) ∧
        t.house = s.house + (n - (s.contexts.map part).sum))

end Sys2Proof

/-- The events of lanes, budgets, islands, columns and the energy meter have their effect (R196 to R203, R205, R206,
R210, R213 to R218). -/
def Obligations.PowerEventsTakeEffect : Prop := laneAndColumnEventsTakeEffect ∧ meterEventsChargeContexts

namespace Sys2Proof

/-! ### Pages, snapshots, host access and memory errors -/

/-- The events of page tables (R222, R223, R226, R227, R229 to R232). PAGE_MAP writes the entry at the location it names,
for a page mapped on a fault only where R229 homes it, and none that reaches the device's own tables (R324); a frame that
no page is mapped to reads 0 from then on (notes/assumptions/42: a first mapping included), or takes the bytes that Voxind
moves to it. PAGE_UNMAP makes the entry 0, remembers the pages it stood for until their shootdown and abandons their
moves; both change no other entry. A shootdown is under way until it completes: no L1 keeps a line of a page it replaced,
no write to one is held, and no cached translation of its range is left, in a stream either. A sweep clears A, UO and GH
of a leaf and begins its count of misses anew. A page logs the cores of the last 64 L2 misses and bank requests to it, and
of its misses since the sweep. A migration of a page that may move (notes/assumptions/29: a frame that a larger page also
maps stays, and which accesses miss the L2 is free) starts on a trigger of R229 towards a free frame, which takes the
page's bytes; the hold drops the copies of the page, and the move is given up if more than one eighth of the page's lines
have been written meanwhile or something has come to hold the page; else the marked lines are copied again, and with the
switch, which copies what the hold let through, every entry of the frame names the new home, as do the records of barriers
and held writes, and the page's misses count anew. -/
def tableEventsTakeEffect : Prop :=
  ∀ (s : State) (asid va : Nat), s.mem.wf = true →
    (∀ (entry leaf : Word) how, physExists s.product entry.toNat = true → entry.toNat % 8 = 0 →
      (let bits := (s.ctx? asid).bind (fun c => entryLevel s va entry.toNat walkLevels c.root)
       let reaches : Prop := ∃ b, bits = some b ∧ ∃ l ∈ leavesUnder s asid va b entry.toNat leaf,
         leafHK l.e ≠ 2 ∧ holdsDeviceTable s (leafFrame l.e) (2 ^ l.bits) = true
       (reaches → exec (.pageMap asid va entry leaf how) s = .next s) ∧
       (¬ reaches → (∀ core, how = .onFault core → bits ≠ none → faultHome s asid core leaf = true) →
        ∃ t, exec (.pageMap asid va entry leaf how) s = .next t ∧ memRead t.mem entry.toNat 8 = leaf.toNat ∧
          (∀ b, bits = some b → b ≠ 39 → entryV leaf = true → entryLeaf leaf = true → leafWf s.product b leaf = true →
            leafHK leaf ≠ 2 → 16 ≤ b → ∀ i < 2 ^ b, leafFrame leaf + i < entry.toNat ∨ entry.toNat + 8 ≤ leafFrame leaf + i →
            ((∀ frame, how ≠ .copyOf frame) → (allLeaves s).all (fun l => !l.maps (leafFrame leaf) (2 ^ b)) = true →
              memByte t.mem (leafFrame leaf + i) = 0) ∧
            (∀ frame, how = .copyOf frame → frame % 128 = 0 →
              frame + 2 ^ b ≤ leafFrame leaf ∨ leafFrame leaf + 2 ^ b ≤ frame →
              memByte t.mem (leafFrame leaf + i) = memByte s.mem (frame + i)))) ∧
       (∀ core, how = .onFault core → bits ≠ none → faultHome s asid core leaf = false →
        exec (.pageMap asid va entry leaf how) s = .next s))) ∧
    (∀ (entry : Word) c bits, s.ctx? asid = some c → entryLevel s va entry.toNat walkLevels c.root = some bits →
      let old := leavesUnder s asid va bits entry.toNat (BitVec.ofNat 64 (memRead s.mem entry.toNat 8))
      ∃ t, exec (.pageUnmap asid va entry) s = .next t ∧ memRead t.mem entry.toNat 8 = 0 ∧
        (∀ a, a < entry.toNat ∨ entry.toNat + 8 ≤ a → memByte t.mem a = memByte s.mem a) ∧
        (∀ m, m ∈ t.moves ↔ m ∈ s.moves ∧ ∀ l ∈ old, l.at_ ≠ m.at_) ∧
        t.olds = s.olds ++ old.map (fun l => ⟨l.asid, l.va, l.bits, lineOf (leafLoc l.bits l.e l.va)⟩)) ∧
    (∀ len, exec (.shootdown asid va len) s = .next { s with shoots := s.shoots ++ [⟨asid, va, len⟩] }) ∧
    (∀ k x, s.shoots[k]? = some x →
      let gone := s.olds.filter (fun o => o.asid == x.asid && meetsPage x.va x.len o.base o.bits)
      let u := gone.foldl (fun s o => s.l1Flush (fun y => inFrame o.lines y.line)) s
      let held := u.contexts.any (fun c => c.held.any (fun w => gone.any (fun o => inFrame o.lines w.line)))
      let ofRange (e : TlbEntry) : Bool := e.asid == x.asid && meetsPage x.va x.len e.base e.bits
      (held = true → exec (.shootdownComplete k) s = .next u) ∧
      (held = false → ∃ t, exec (.shootdownComplete k) s = .next t ∧ t.shoots = s.shoots.eraseIdx k ∧
        t.tlb = s.tlb.filter (fun e => !ofRange e) ∧ (∀ o ∈ gone, ∀ y ∈ t.l1, inFrame o.lines y.line = false) ∧
        t.olds = s.olds.filter (fun o => !(o.asid == x.asid && meetsPage x.va x.len o.base o.bits)) ∧
        (∀ q r, vget t.hart.q q none = some r → ∀ a ∈ r.ahead, ofRange a.entry = false))) ∧
    (∀ at_, let e := BitVec.ofNat 64 (memRead s.mem at_ 8)
      physExists s.product at_ = true → entryV e = true → entryLeaf e = true → ∃ t, exec (.pageSweep [at_]) s = .next t ∧
        t = { s with mem := t.mem, swept := t.swept, sweeps := s.sweeps + 1, pageLogs := t.pageLogs } ∧
        memRead t.mem at_ 8 = (e &&& ~~~0x1A0).toNat ∧ lastSweep t at_ = s.sweeps + 1 ∧ (pageLog t at_).misses = []) ∧
    (∀ c at_ bits e core miss, s.ctx? asid = some c → walk s c.root va = .leaf at_ bits e → leafHK e ≠ 2 →
      let t := notePage s core asid va miss
      t = { s with pageLogs := t.pageLogs } ∧ (pageLog t at_).recent = (core :: (pageLog s at_).recent).take 64 ∧
        (pageLog t at_).misses = (if miss then core :: (pageLog s at_).misses else (pageLog s at_).misses) ∧
        ∀ x, x ≠ at_ → pageLog t x = pageLog s x) ∧
    (∀ c at_ bits e (leaf : Word), s.ctx? asid = some c → walk s c.root va = .leaf at_ bits e →
      let new := rehome e leaf
      let l : Leaf := ⟨asid, va / 2 ^ bits * 2 ^ bits, at_, bits, e⟩
      ((∀ m ∈ s.moves, m.at_ ≠ at_ ∧ meetsBytes (leafFrame e) (2 ^ bits) (m.frame, 2 ^ m.bits) = false ∧
          moveStack (m.page s).e m.leaf ≠ moveStack e new) →
        mayMigrate s l = true → leafWf s.product bits new = true → moveTrigger s l new = true →
        frameFree s (leafFrame new) (2 ^ bits) = true →
        ∃ t, exec (.migrationStart asid va leaf) s = .next t ∧ t.moves.getLast? = some
            { asid := asid, base := va / 2 ^ bits * 2 ^ bits, bits := bits, at_ := at_, frame := leafFrame e, leaf := new } ∧
          { asid := asid } ∈ t.unpaid ∧
          (∀ y ∈ t.l2, inFrame (lineOf (leafFrame e), 2 ^ bits / 128) y.line = true → y.dirty = 0) ∧
          (16 ≤ bits → leafFrame e + 2 ^ bits ≤ leafFrame new ∨ leafFrame new + 2 ^ bits ≤ leafFrame e → ∀ i < 2 ^ bits,
            memByte t.mem (leafFrame new + i) = memByte t.mem (leafFrame e + i))) ∧
      (mayMigrate s l = false ∨ moveTrigger s l new = false ∨ frameFree s (leafFrame new) (2 ^ bits) = false →
        exec (.migrationStart asid va leaf) s = .next s)) ∧
    (∀ k m, s.moves[k]? = some m →
      let frame := (lineOf m.frame, 2 ^ m.bits / 128)
      let f := flushFrame s m
      (m.phase = .copy → ∀ n, f.moves[k]? = some n →
        (2 ^ n.bits / 128 < 8 * n.marked.length ∨ mayMigrate f (n.page f) = false →
          exec (.migrationHold k) s = .next { f with moves := f.moves.eraseIdx k }) ∧
        (8 * n.marked.length ≤ 2 ^ n.bits / 128 → mayMigrate f (n.page f) = true →
          ∃ t, exec (.migrationHold k) s = .next t ∧ t.moves[k]? = some { n with phase := .hold, marked := [] } ∧
            (∀ y ∈ t.l1, inFrame frame y.line = false) ∧ (∀ y ∈ t.l2, inFrame frame y.line = false) ∧
            (n.frame = m.frame → n.bits = m.bits → n.leaf = m.leaf → (∀ x ∈ n.marked, inFrame frame x = true) →
              (lineOf m.frame + 2 ^ m.bits / 128 ≤ lineOf (leafFrame m.leaf) ∨
                lineOf (leafFrame m.leaf) + 2 ^ m.bits / 128 ≤ lineOf m.frame) →
              ∀ x ∈ n.marked, memLine t.mem (x - lineOf m.frame + lineOf (leafFrame m.leaf)) = memLine t.mem x))) ∧
      (m.phase = .hold → mayMigrate s (m.page s) = false →
        exec (.migrationSwitch k) s = .next { s with moves := s.moves.eraseIdx k }) ∧
      (m.phase = .hold → mayMigrate s (m.page s) = true →
        let u := ((f.moves[k]?).getD m).marked.foldl (recopyLine m) f
        let pages := m.page u :: aliases u (m.page u)
        let newLoc (a : Nat) : Nat := if m.frame ≤ a ∧ a < m.frame + 2 ^ m.bits then a - m.frame + leafFrame m.leaf else a
        ∃ t, exec (.migrationSwitch k) s = .next t ∧ t.moves = u.moves.eraseIdx k ∧
          (∀ l ∈ pages, (pageLog t l.at_).misses = []) ∧ (∀ x ∈ t.tlb, ∀ l ∈ pages, ¬ (x.asid = l.asid ∧ x.base = l.va)) ∧
          t.barriers = u.barriers.map (fun b => { b with loc := newLoc b.loc }) ∧
          (∀ a c, u.ctx? a = some c → ∃ d, t.ctx? a = some d ∧
            d.held.map (·.line) = c.held.map (fun w => lineOf (newLoc (128 * w.line)))) ∧
          (∀ a, (∀ l ∈ pages, a < l.at_ ∨ l.at_ + 8 ≤ a) → memByte t.mem a = memByte u.mem a) ∧
          (pages.Pairwise (fun x y => x.at_ + 8 ≤ y.at_ ∨ y.at_ + 8 ≤ x.at_) → ∀ l ∈ pages,
            m.frame ≤ leafFrame l.e → leafFrame l.e < m.frame + 2 ^ m.bits → memRead t.mem l.at_ 8 = (rehome l.e
              (BitVec.ofNat 64 (m.leaf.toNat / 2 ^ 48 * 2 ^ 48 +
                (leafFrame l.e - m.frame + leafFrame m.leaf) / 65536 % 2 ^ 32 * 65536))).toNat)))

/-- The victim queue of a stack (R228): it holds the near pages homed in the stack's columns, first those with UO, then those
with neither A nor GH, then those with A and no GH, then those with GH, and within a class the one whose last sweep is older
first; of two that the rule does not order, the one whose entry lies lower (notes/assumptions/29). The next page that is
taken is the first that nothing bars from migration, and near pages go to far memory in no other order. -/
def victimQueueIsOrdered : Prop :=
  ∀ (s : State) (stack : Nat),
    let cls (l : Leaf) : Nat := if leafUO l.e then 1 else if leafGH l.e then 4 else if leafA l.e then 3 else 2
    (∀ l, l ∈ victimQueue s stack ↔ l ∈ allLeaves s ∧ leafHK l.e = 0 ∧ leafHome l.e / 64 = stack) ∧
    (victimQueue s stack).Pairwise (fun a b => cls a < cls b ∨ cls a = cls b ∧ lastSweep s a.at_ ≤ lastSweep s b.at_) ∧
    (∀ l, nextVictim s stack = some l ↔ ∃ before after, victimQueue s stack = before ++ l :: after ∧ mayMigrate s l = true ∧
      ∀ x ∈ before, mayMigrate s x = false) ∧
    (∀ asid va c at_ bits e (leaf : Word), s.ctx? asid = some c → walk s c.root va = .leaf at_ bits e →
      leafHK e = 0 → leafHome e / 64 = stack → leafHK (rehome e leaf) = 1 →
      nextVictim s stack ≠ some ⟨asid, va / 2 ^ bits * 2 ^ bits, at_, bits, e⟩ → exec (.migrationStart asid va leaf) s = .next s)

end Sys2Proof

/-- The events of page tables, shootdowns, sweeps and migrations have their effect, and each stack takes its victims in
order (R222, R223, R226 to R232, R324). That a frame no page maps is zeroed is the model's choice
(notes/assumptions/42), and so are a larger page's bar on a move and which accesses miss the L2 (notes/assumptions/29).
-/
def Obligations.PageEventsTakeEffect : Prop := tableEventsTakeEffect ∧ victimQueueIsOrdered

/-- The events of snapshots, the host and memory errors (R80, R129, R137, R238, R240, R241, R328, R329, R332, R343). A
held write is performed once its line has its shadow, in the order of its agent, the writer's context owing its energy,
and discarded where the line has become a pool's, which is recorded of a write of the host or of a peer; a restoration is
over. A host access of bytes of one line, through an aperture that names a context, is made at its home, where scalar L1
copies play no part, the page's marks are set, D only as a write is performed, and the context owes its energy; or it is
refused and recorded, and a refused read gives all ones, as does any read before DEVRDY. The lines a scrub finds in its
column are poisoned, and so is every line behind a removed CXL port; Voxind logs it. -/
def Obligations.HostAndErrorEventsTakeEffect : Prop :=
  ∀ s : State,
    (∀ asid k c w, s.ctx? asid = some c → c.held[k]? = some w → (heldBehind c k w = true → exec (.shadowHeldWrite asid k) s = .next s) ∧
      (heldBehind c k w = false →
      let freed (u : State) : State := u.mapCtx asid (fun c => { c with held := c.held.eraseIdx k })
      (∀ u, s.guardWrite w.stack (128 * w.line) 128 = .ok u →
        let v := freed (u.owe { asid := w.asid })
        (w.bank = none → exec (.shadowHeldWrite asid k) s = .next ((match w.core with
          | some n => v.putLine (n / 64) w.line w.data w.dirty
          | none => markWritten (putHome v w.line w.data w.dirty) w.leafAt).clearPoison w.line w.dirty)) ∧
        (∀ who i, w.bank = some (who, i) →
          let r := performItem (markWritten v w.leafAt) who w.stack { i with loc := 128 * w.line + i.loc % 128 }
          exec (.shadowHeldWrite asid k) s = .next (match who with
            | some uid => settleItem r.2 uid i r.1
            | none => r.2))) ∧
      (∀ x, s.guardWrite w.stack (128 * w.line) 128 = .error (.shadow x) → exec (.shadowHeldWrite asid k) s = .next s) ∧
      (∀ x, s.guardWrite w.stack (128 * w.line) 128 = .error (.protect x) → w.bank = none →
        exec (.shadowHeldWrite asid k) s = .next (match w.core, x with
          | none, some (owner, a) => (freed s).record owner { cause := { sub := 1, code := causeProtect }, tval := BitVec.ofNat 64 a }
          | _, _ => freed s)))) ∧
    (∀ asid r c, s.ctx? asid = some c → ∃ t, exec (.lazyRestore asid r) s = .next t ∧ t = { s with contexts := t.contexts } ∧
      t.ctx? asid = some { c with pend := c.pend.filter (· != r) }) ∧
    (∀ fn va (bytes : List Byte), s.hub.devrdy = true → bytes ≠ [] →
      va % 128 + bytes.length ≤ 128 → va + bytes.length ≤ 2 ^ 48 →
      let ones : List Byte := List.replicate bytes.length 0xFF
      (∀ asid, apertureOf s fn = some asid →
        (∀ l, hostLocate s asid .read va = .ok l → exec (.hostDmaRead fn va bytes.length) s = .next
          (let r := hostGet (s.owe { asid := asid }) l bytes.length
           { r.2 with answer := .bytes r.1 })) ∧
        (∀ l, hostLocate s asid .write va = .ok l → exec (.hostDmaWrite fn va bytes) s =
          .next (hostPut (s.owe { asid := asid }) asid l bytes)) ∧
        (∀ x, hostLocate s asid .read va = .error (.trap x) → exec (.hostDmaRead fn va bytes.length) s =
          .next { refuseHost s asid .read x va with answer := .bytes ones }) ∧
        (∀ x, hostLocate s asid .write va = .error (.trap x) → exec (.hostDmaWrite fn va bytes) s =
          .next (refuseHost s asid .write x va))) ∧
      (apertureOf s fn = none → exec (.hostDmaRead fn va bytes.length) s = .next { s with answer := .bytes ones } ∧
        exec (.hostDmaWrite fn va bytes) s = .next s)) ∧
    (∀ fn va (bytes : List Byte), s.hub.devrdy = false ∨ 2 ^ 48 < va + bytes.length →
      exec (.hostDmaRead fn va bytes.length) s = .next { s with answer := .bytes (List.replicate bytes.length 0xFF) } ∧
      exec (.hostDmaWrite fn va bytes) s = .next s) ∧
    (∀ (u : State) (l : Located), let v := markAccess u l .read .other
      (∀ n, l.loc % 128 + n ≤ 128 → v.poolOf (lineOf l.loc) = none → v.poisoned (lineOf l.loc) = false →
        hostGet u l n = ((List.range n).map (fun i => memByte v.mem (l.loc + i)), v)) ∧
      (∀ asid (bytes : List Byte), l.loc % 128 + bytes.length ≤ 128 →
        (∀ g, u.mem.wf = true → u.guardWrite hubStack l.loc bytes.length = .ok g → g.mem = u.mem →
          ∃ w, hostPut u asid l bytes = markAccess w l .write .other ∧ w.l1 = g.l1 ∧
            ∀ i (h : i < bytes.length), memByte w.mem (l.loc + i) = bytes[i]) ∧
        (∀ owner, u.guardWrite hubStack l.loc bytes.length = .error (.shadow owner) →
          ∃ w : HeldWrite, hostPut u asid l bytes = v.mapCtx owner (fun c => { c with held := c.held ++ [w] }) ∧
            w.core = none ∧ w.bank = none ∧ w.asid = asid ∧ w.line = lineOf l.loc ∧ w.leafAt = l.leafAt ∧
            w.dirty = byteMask (l.loc % 128) bytes.length ∧
            ∀ i (h : i < bytes.length), w.data.extractLsb' (8 * (l.loc % 128 + i)) 8 = bytes[i]) ∧
        (∀ owner a, u.guardWrite hubStack l.loc bytes.length = .error (.protect (some (owner, a))) →
          hostPut u asid l bytes = v.record owner { cause := { sub := 1, code := causeProtect }, tval := BitVec.ofNat 64 a }))) ∧
    (∀ column bad, (∀ l ∈ bad, columnOf s.product (128 * l) = some column) → ∃ t, exec (.scrub column bad) s = .next t ∧
      (∀ l ∈ bad, t.poisoned l = true) ∧ (∀ l, l ∉ bad → t.poisoned l = s.poisoned l) ∧
      ((∃ l ∈ bad, s.poisoned l = false) → (none, 3) ∈ t.msix)) ∧
    (s.product.hasHub = true → ∀ port < 4, ∃ t, exec (.cxlRemoval port) s = .next t ∧ (none, 3) ∈ t.msix ∧
      ∀ l, lineOf (farBase + port * 2 ^ 40) ≤ l → l < lineOf (farBase + port * 2 ^ 40) + 2 ^ 33 → t.poisoned l = true)

/-! ### Links, groups and packets -/

/-- The events of links (R306, R307, R309). A link passes from DOWN to TRAIN; training leaves it UP with 8 lanes, DEGRADED
with 4 or 2, or DOWN; a degraded link trains again, and so does one that carries traffic and loses a lane or fails sixteen
times; DRAIN keeps its lanes; loss of signal takes it down. Each entry into TRAIN is counted, resent flits are counted, and
LINKDOWN becomes pending at a hart whose binding uses a link that carries no more. The PF is told of each change of state by
MSI-X vector 2 (R326). No other link changes. -/
def Obligations.LinkEventsTakeEffect : Prop :=
  ∀ (s : State), ∀ n < 24,
    let l := s.link n
    let carries : Prop := l.state = .up ∨ l.state = .degraded
    let others (t : State) : Prop := ∀ m, m ≠ n → t.link m = s.link m
    let becomes (i : Instr) (retry : BitVec 32) (x : LinkState) (lanes : Nat) : Prop := ∃ t, exec i s = .next t ∧ others t ∧
      t.link n = ⟨retry, if x = .train ∧ l.state ≠ .train then l.trains + 1 else l.trains, lanes, x⟩ ∧
      (x ≠ l.state → (none, 2) ∈ t.msix) ∧
      (carries → x ≠ .up → x ≠ .degraded → usesLink s s.hart n = true →
        ({ code := causeLinkdown, val := BitVec.ofNat 64 n } : Trap) ∈ t.hart.irqs)
    (l.state = .down → becomes (.linkEnable n) l.retry .train 0) ∧
    (l.state = .train → becomes (.linkTrainDone n 8) l.retry .up 8 ∧
      (∀ k, 4 ≤ k → k < 8 → becomes (.linkTrainDone n k) l.retry .degraded 4) ∧
      (∀ k, 2 ≤ k → k < 4 → becomes (.linkTrainDone n k) l.retry .degraded 2) ∧
      (∀ k, k < 2 → becomes (.linkTrainDone n k) l.retry .down 0) ∧ becomes (.linkTrainTimeout n) l.retry .down 0) ∧
    (l.state = .degraded → becomes (.linkRetrain n) l.retry .train 0) ∧
    (carries → becomes (.laneLoss n) l.retry .train 0 ∧ becomes (.linkDrain n) l.retry .drain l.lanes) ∧
    (l.state = .drain → becomes (.linkDrainDone n) l.retry .down 0) ∧
    becomes (.lossOfSignal n) l.retry .down 0 ∧
    (∀ k, let retry := BitVec.ofNat 32 (min (2 ^ 32 - 1) (l.retry.toNat + k))
      (carries ∨ l.state = .drain → becomes (.flitRetry n k false) retry l.state l.lanes) ∧
      (carries → becomes (.flitRetry n k true) retry .train 0))

/-- The events of groups and packets (R300, R301, R303, R304, R312, R321). A free id opens, with the packages of its ranks at
MAP; the notice of a remote rank sets its JOINED bit, and with the last one the group is ACTIVE; an abort reaches every bound
hart as GROUP, marks its bindings and discards what they had staged, captured or held back (notes/assumptions/46); a finished
group drains under a new generation and is free when its markers are back. A notice, an abort or a packet of another
generation is dropped and counted, and so is a packet of a group that is neither OPEN nor ACTIVE. None comes from a rank of
another package before its join notice. A packet for a rank that has not joined is held; another goes to its binding if that
can take it, the next of its sender's (R308), and else stays where it is. In ACTIVE a held packet goes to its binding in the
same way. -/
def Obligations.GroupEventsTakeEffect : Prop :=
  ∀ (s : State) (id : Nat), id < 65536 →
    let g := s.group id
    let others (t : State) : Prop := ∀ k, k ≠ id → t.group k = s.group k
    let counted (n : Nat) : BitVec 32 := BitVec.ofNat 32 (min (2 ^ 32 - 1) (g.drops.toNat + n))
    let dropped (i : Instr) : Prop := ∃ t, exec i s = .next t ∧ t = { s with groups := t.groups } ∧ others t ∧
      t.group id = { g with drops := counted 1 }
    let aborts (i : Instr) : Prop := ∃ t, exec i s = .next t ∧
      (t.group id).state = (if s.harts.all (fun h => (bindings h id g.gen).isEmpty) then .aborted else .aborting) ∧
      (bindings s.hart id g.gen ≠ [] → ({ code := causeGroup, sub := 2, val := groupVal id g.gen } : Trap) ∈ t.hart.irqs ∧
        ∀ b ∈ bindings t.hart id g.gen, b.2.aborted = true ∧ b.2.staged = [] ∧ b.2.stuck = [] ∧ b.2.captured = [])
    let all : Nat := 2 ^ g.nrank - 1
    let takes : Prop := g.state = .open_ ∨ g.state = .active
    (g.state = .free → ∀ nrank asid (locals mapAt : BitVec 64) members, 1 ≤ nrank → nrank ≤ 64 →
      let at_ := (mapAt &&& 0x00FFFFFFFFFFFFF0).toNat
      ∃ t, exec (.groupOpen id nrank asid locals mapAt members) s = .next t ∧
      t = { s with groups := t.groups, mem := t.mem, moves := t.moves } ∧ others t ∧
      t.group id = { g with nrank := nrank, asid := asid % 65536, state := .open_, locals := locals, joined := 0, mapAt := at_, drops := 0, held := [] } ∧
      (s.mem.wf = true → ∀ i (h : i < members.length), i < 64 → physExists s.product (at_ + 2 * i) = true →
        memRead t.mem (at_ + 2 * i) 2 = members[i] % 65536)) ∧
    (∀ rank, rank < g.nrank → rank < 64 → g.locals.getLsbD rank = false → g.held = [] → takes →
      let joined := g.joined ||| (1#64 <<< rank)
      ∃ t, exec (.joinNotice id g.gen.toNat rank) s = .next t ∧ others t ∧ t.group id = { g with joined := joined, state := if g.state = .open_ ∧ joined.toNat &&& all = all then .active else g.state }) ∧
    (takes → aborts (.groupAbort id) ∧ aborts (.groupAbortArrival id g.gen.toNat)) ∧
    (∀ gen, gen ≠ g.gen.toNat → dropped (.groupAbortArrival id gen) ∧ (∀ rank < 64, dropped (.joinNotice id gen rank))) ∧
    ((g.state = .active ∧ g.joined = 0) ∨ g.state = .aborted → ∃ t, exec (.groupFree id) s = .next t ∧ others t ∧
      t.group id = { g with state := .draining, gen := g.gen + 1, held := [], drops := counted g.held.length }) ∧
    (g.state = .draining → (∀ p ∈ s.transit, p.group ≠ id) → ∃ t, exec (.drainMarkerReturn id) s = .next t ∧ others t ∧
      t.group id = { g with state := .free }) ∧
    (∀ p : Packet, p.group = id →
      (g.state = .active → heldHere g p = true →
        (∀ u, routePacket s p = .ok (some u) → exec (.fabricPacketArrival p) s =
          .next (u.mapGroup id (fun x => { x with held := x.held.erase p }))) ∧
        (routePacket s p = .ok none → exec (.fabricPacketArrival p) s = .next s)) ∧
      (¬ (g.state = .active ∧ heldHere g p = true) →
        firstInTransit s p = true ∨ (p.src < 64 ∧ g.locals.getLsbD p.src = false) →
        let taken (u : State) : State := if firstInTransit s p then { u with transit := u.transit.erase p } else u
        ((p.gen ≠ g.gen.toNat ∨ ¬ takes) → ∃ t, exec (.fabricPacketArrival p) s = .next t ∧
          t = { taken s with groups := t.groups } ∧ others t ∧ t.group id = { g with drops := counted 1 }) ∧
        (p.gen = g.gen.toNat → takes → g.locals.getLsbD p.src = false → g.joined.getLsbD p.src = false →
          exec (.fabricPacketArrival p) s = .next s) ∧
        (p.gen = g.gen.toNat → takes → p.dst < 64 → g.locals.getLsbD p.dst = true →
          g.locals.getLsbD p.src = true ∨ g.joined.getLsbD p.src = true →
          (g.joined.getLsbD p.dst = false → ∃ t, exec (.fabricPacketArrival p) s = .next t ∧
            t = { taken s with groups := t.groups } ∧ others t ∧ t.group id = { g with held := g.held ++ [p] }) ∧
          (g.joined.getLsbD p.dst = true →
            (∀ u, routePacket s p = .ok (some u) → exec (.fabricPacketArrival p) s = .next (taken u)) ∧
            (routePacket s p = .ok none → exec (.fabricPacketArrival p) s = .next s)))))

/-! ### Dawn and reset -/

/-- Dawn and power-down (R15, R196, R201, R325, R328, R331). Power-down, and a start of Dawn, lose all the package holds: no
hart, context or queue is left, and memory outside far and peer memory, which lie outside the package, reads 0 (log entry 5).
Each state of Dawn is entered from the one before: a failed check stops it with its code, and at the end of LINKS, with no
link in training and every queue EMPTY, the device is READY and DEVRDY is set; the host is told of either by MSI-X vector 4
of the PF. The meters' first interval begins with METER (R204). -/
def Obligations.DawnBringsTheDeviceUp : Prop :=
  ∀ s : State,
    let h := s.hub
    let fails (i : Instr) (code : BitVec 8) : Prop := ∃ t, exec i s = .next t ∧ (none, 4) ∈ t.msix ∧ t.hub = { h with fail := true, fcode := code }
    let at_ (x : DawnState) : Prop := h.started = true ∧ h.dawn = x ∧ h.fail = false
    let lost (t : State) : Prop := t.harts = [] ∧ t.contexts = [] ∧ t.queues = [] ∧ t.l1 = [] ∧ t.l2 = [] ∧ t.hub.devrdy = false ∧
      (s.mem.wf = true → ∀ a, memByte t.mem a = if isFarLoc a || isPeerLoc a then memByte s.mem a else 0)
    (∃ t, exec .powerDown s = .next t ∧ lost t ∧ t.hub.dawn = .rom ∧ t.hub.started = false) ∧
    (∃ t, exec .dawnStart s = .next t ∧ lost t ∧ t.hub.dawn = .rom ∧ t.hub.started = true) ∧
    (at_ .rom → exec (.dawnRom true) s = .next { s with hub := { h with dawn := .voxind } } ∧ fails (.dawnRom false) 0) ∧
    (at_ .voxind → ∀ c g : Word, ∃ t, exec (.dawnVoxind c g) s = .next t ∧
      t.hub = { h with dawn := .trim, ctxBase := c &&& 0x0000FFFFFFF00000, grpBase := g &&& 0x0000FFFFFFC00000 } ∧
      ∀ i < s.product.clusters, vget t.noon i 0 = 42500) ∧
    (at_ .trim → ∀ l : List (Nat × BitVec 32),
      let map (c : Nat) : BitVec 32 := ((l.find? (fun x => x.1 == c)).map (fun x => x.2)).getD (BitVec.allOnes 32)
      ∃ t, exec (.dawnTrim l) s = .next t ∧ (∀ c < s.product.cores, (t.core c).lanemap = map c) ∧
        (if ∃ c, c < s.product.cores ∧ deadSlot (map c) = true then t.hub.fail = true ∧ t.hub.fcode = 2 else t.hub.dawn = .meminit)) ∧
    (at_ .meminit → fails (.dawnMeminit false) 3 ∧ ∃ t, exec (.dawnMeminit true) s = .next t ∧ t.hub = { h with dawn := .meter } ∧
      (s.mem.wf = true → ∀ a, memByte t.mem a = if columnOf s.product a = none then memByte s.mem a else 0)) ∧
    (at_ .meter → fails (.dawnMeter false) 4 ∧
      exec (.dawnMeter true) s = .next { s with timeZero := s.clock, meter := some (s.clock + 1000), hub := { h with dawn := .links } }) ∧
    (at_ .links → (∀ l ∈ s.links.toList, l.state ≠ .train) → (∀ q ∈ s.queues, q.state = .empty) →
      ∃ t, exec .dawnLinks s = .next t ∧ (none, 4) ∈ t.msix ∧ t.hub = { h with dawn := .ready, devrdy := true })

/-- The machine right after reset (R15, R278, R283, R307, R324, R325, R331): STATE is 0 (ROM) and Dawn has not begun,
DEVRDY, FAIL, FCODE and every hub register are 0, no context exists and no group, every queue is EMPTY with no control bit
set, every link is DOWN, no hart stands on a core, and memory is in its canonical form. (That a byte nothing has written
reads 0 is the model's choice: log entry 5.) -/
def Obligations.ResetLeavesNothingRunning : Prop :=
  let s := State.reset
  s.hub = {} ∧ s.hub.devrdy = false ∧ s.hub.dawn = .rom ∧ s.hub.started = false ∧ s.hub.fail = false ∧ s.hub.fcode = 0 ∧ s.hub.ctxBase = 0 ∧
  s.harts = [] ∧ s.contexts = [] ∧ (∀ id, (s.group id).state = .free) ∧
  (∀ q, (s.queue q).state = .empty ∧ (s.queue q).susp = false ∧ (s.queue q).drain = false ∧ (s.queue q).err = false ∧
    (s.queue q).head = (s.queue q).tail) ∧
  (∀ n, (s.link n).state = .down) ∧ (∀ a, memByte s.mem a = 0) ∧ s.mem.wf = true ∧ s.l1 = [] ∧ s.l2 = [] ∧ s.tlb = []

/-- Every step keeps memory in its canonical form (locations rise strictly, and no entry is what an unlisted location reads
as), so that equal memories are equal data (the model's own form of memory: log entry 6). -/
def Obligations.EveryStepKeepsMemoryCanonical : Prop :=
  ∀ s t : State, s.mem.wf = true → step s = .next t → t.mem.wf = true

/-! ### Register windows and tables -/

/-- The windows of registers, as the host and Voxind read and write them (R5, R38, R279, R309, R324 to R328): where each
register lies, the word it reads as, with the low byte first, and the event that a write of it is. An access of a width other
than 8 bytes is ignored, and reads as all ones (R279 says so of queue registers; that the others do is the model's choice,
notes/assumptions/115). Before DEVRDY a queue's registers and QLEFT read as all ones. A read-only register keeps its value.
The tables at CTXBASE and GRPBASE read as the records that the state holds (R267, R300). -/
def Obligations.RegisterWindowsReadAndWrite : Prop :=
  ∀ s : State,
    let q (n : Nat) := s.queue n
    let at_ (w : Window) (off : Nat) (r : BusReg) : Prop := windowReg s w off = some r
    let reads (r : BusReg) (n : Nat) : Prop := regWord s r = some (BitVec.ofNat 64 n)
    let writes (r : BusReg) (i : Word → Instr) : Prop := ∀ w off v, at_ w off r → runTurn s (.busWrite w off 8 v) = exec (i v) s
    let readOnly (r : BusReg) : Prop := ∀ w off v, at_ w off r → runTurn s (.busWrite w off 8 v) = .next s
    let bit (b : Bool) : Nat := if b then 1 else 0
    (∀ w off n, n ≠ 8 → runTurn s (.busRead w off n) = .next { s with answer := .bytes (List.replicate n 0xFF) } ∧
      ∀ v, runTurn s (.busWrite w off n v) = .next s) ∧
    (∀ w off r v, at_ w off r → regWord s r = some v → runTurn s (.busRead w off 8) = .next
      { s with answer := .bytes ((List.range 8).map (fun i => BitVec.ofNat 8 (v.toNat / 256 ^ i))) }) ∧
    (at_ .hub 0 .dawn ∧ at_ .hub 8 .ctxBase ∧ at_ .hub 0x10 .grpBase ∧ at_ .hub 0x18 .eccCnt ∧ at_ .hub 0x20 (.hap none) ∧
      (∀ n < 24, at_ .hub (0x400 + 0x20 * n) (.link n)) ∧
      (∀ n < 4096, ∀ off < 0x40, at_ .queues (0x1000 + 0x40 * n + off) (.queue n off)) ∧
      (∀ f ∈ s.vfs, at_ (.vf f) 0 .dawn ∧ at_ (.vf f) 8 (.qleft f) ∧ at_ (.vf f) 0x10 (.hap (some f)) ∧
        ∀ n < 4, ∀ off < 0x40, at_ (.vf f) (0x1000 + 0x40 * n + off) (.queue (4 * f + n) off)) ∧
      (∀ n < s.product.cores / 64, ∀ r < 16, ∀ k < 4, at_ (.controller n) (0x100 + 0x20 * r + 8 * k) (.range n (0x100 + 0x20 * r + 8 * k)))) ∧
    (reads .dawn (s.hub.retLanes.toNat * 2 ^ 32 + s.hub.fcode.toNat * 2 ^ 8 + bit s.hub.fail * 2 ^ 4 + bit s.hub.devrdy * 2 ^ 3 +
        (match s.hub.dawn with
          | .rom => 0 | .voxind => 1 | .trim => 2 | .meminit => 3 | .meter => 4 | .links => 5 | .ready => 6)) ∧
      regWord s .ctxBase = some s.hub.ctxBase ∧ regWord s .grpBase = some s.hub.grpBase ∧ regWord s .eccCnt = some s.hub.eccCnt ∧
      regWord s (.hap none) = some s.hub.hapPf ∧
      (∀ n, let l := s.link n
        reads (.link n) (l.retry.toNat * 2 ^ 32 + l.trains.toNat * 2 ^ 16 + l.lanes * 2 ^ 8 +
          (match l.state with | .down => 0 | .train => 1 | .up => 2 | .degraded => 3 | .drain => 4))) ∧
      (∀ f, regWord s (.qleft f) = some (if s.hub.devrdy then BitVec.ofInt 64 (s.left f / 1000) else BitVec.allOnes 64))) ∧
    (s.hub.devrdy = false → ∀ n off, regWord s (.queue n off) = some (BitVec.allOnes 64)) ∧
    (s.hub.devrdy = true → ∀ n,
      regWord s (.queue n 0) = some (q n).base ∧ reads (.queue n 8) (q n).log2 ∧ reads (.queue n 0x10) (q n).tail.toNat ∧
      reads (.queue n 0x18) (q n).head.toNat ∧ reads (.queue n 0x20) (bit (q n).drain * 2 + bit (q n).susp) ∧
      reads (.queue n 0x28) ((q n).dtail.toNat * 2 ^ 32 + (q n).asid % 65536 * 2 ^ 16 + bit (q n).ddone * 2 ^ 10 +
        bit (q n).err * 2 ^ 9 + bit (q n).ovf * 2 ^ 8 +
        (match (q n).state with | .empty => 0 | .bound => 1 | .running => 2 | .suspended => 3 | .draining => 4))) ∧
    (∀ r : Vector Word 4,
      let w := vget r 2 0
      let valid : Prop := (w.toNat % 32 ∈ [11, 12, 13, 19, 20]) ∧ w.toNat / 256 % 4 ≠ 0 ∧ 
        (vget r 0 0).toNat / 2 ^ 16 % 2 ^ 32 < (vget r 1 0).toNat / 2 ^ 16 % 2 ^ 32 ∧ w.getLsbD 31 = true
      (∀ k, k ≠ 2 → rangeWord r k = vget r k 0) ∧
      ((rangeWord r 2).getLsbD 31 = true ↔ valid) ∧ rangeWord r 2 &&& 0x7FFFFFFF = w &&& 0x7FFFFFFF) ∧
    (writes .ctxBase (.registerWrite .ctxBase) ∧ writes .grpBase (.registerWrite .grpBase) ∧
      writes .eccCnt (.registerWrite .eccCnt) ∧ readOnly .dawn ∧
      (∀ fn, writes (.hap fn) (.registerWrite (.hapCtx fn))) ∧ (∀ n, writes (.link n) (.registerWrite (.lstat n))) ∧
      (∀ f, writes (.qleft f) (.qleftWrite (some f))) ∧ (∀ n off, writes (.range n off) (.formatRangeWrite n off)) ∧
      (∀ n, writes (.queue n 0) (.qbaseWrite n) ∧ writes (.queue n 8) (.qsizeWrite n) ∧ writes (.queue n 0x10) (.qtailWrite n) ∧
        readOnly (.queue n 0x18) ∧ writes (.queue n 0x28) (.registerWrite (.qstat n)) ∧
        ∀ w off v t, at_ w off (.queue n 0x20) → exec (.qctlDrain n (v.getLsbD 1)) s = .next t →
          runTurn s (.busWrite w off 8 v) = exec (.qctlSusp n (v.getLsbD 0)) t)) ∧
    (s.hub.dawn ≠ .rom → s.hub.dawn ≠ .voxind →
      let ctx := s.hub.ctxBase.toNat
      let grp := s.hub.grpBase.toNat
      let byteOf (v i : Nat) : Byte := BitVec.ofNat 8 (v / 256 ^ i)
      (∀ asid < 4096, ∀ i < 256, ∀ c, s.ctx? asid = some c → physByte s (ctx + 256 * asid + i) =
        byteOf ((hctxOf c).toNat + c.root * 256 ^ 8 + c.used % 2 ^ 64 * 256 ^ 0x10 + c.state.code * 256 ^ 0x18 + c.hcause.toNat * 256 ^ 0x19 +
          (s.hartsOf c.asid).length * 256 ^ 0x20 + ((s.hartsOf c.asid).filter (fun h => h.halted && h.saved)).length * 256 ^ 0x24 +
          (c.fault.cause.toWord.toNat + c.fault.tval.toNat * 256 ^ 8 + c.fault.epc.toNat * 256 ^ 0x10 + c.fault.qpos.toNat * 256 ^ 0x18 +
            c.fault.where_.toNat * 256 ^ 0x20 + c.fault.count.toNat * 256 ^ 0x24 + c.fault.launch.toNat * 256 ^ 0x28) * 256 ^ 0x40) i) ∧
      (∀ id < 65536, ∀ i < 64, let g := s.group id
        (grp + 64 * id + i < ctx ∨ ctx + 256 * 4096 ≤ grp + 64 * id + i) → physByte s (grp + 64 * id + i) =
        byteOf (g.gen.toNat * 2 ^ 56 + g.nrank * 2 ^ 40 + g.asid * 2 ^ 16 +
          (match g.state with | .free => 0 | .open_ => 1 | .active => 2 | .aborting => 3 | .aborted => 4 | .draining => 5) +
          g.locals.toNat * 256 ^ 8 + g.joined.toNat * 256 ^ 0x10 + g.mapAt * 256 ^ 0x18 + g.drops.toNat * 256 ^ 0x24) i))
end

