-- ==== Sys2Proof/Tests/Slice0.lean ====
section
/-!
SUPPORT. Tests, each a named theorem: ill-formed terms that the check refuses, words written out from the spec's encodings,
and for every statement with hypotheses a concrete state and operands that meet them together.
-/

open Sys2Proof Sys2Proof.Machine


section

set_option maxRecDepth 20000
set_option Elab.async false

/-! ### Ill-formed instructions: one term for each check of `Instr.wellFormed` (R19, R24, R61, R69, R94, R161, R169, R245, R299) -/

theorem test_illformed_h : (Instr.vsett 3 16).wellFormed = false := by decide
theorem test_illformed_stream : (Instr.qpos 5 16).wellFormed = false := by decide
theorem test_illformed_fabric : (Instr.frel 8).wellFormed = false := by decide
theorem test_illformed_mask : (Instr.mset 8).wellFormed = false := by decide
theorem test_illformed_tile : (Instr.tzero 16).wellFormed = false := by decide
theorem test_illformed_operand_tile : (Instr.tld 8 2).wellFormed = false := by decide
theorem test_illformed_accumulator : (Instr.tst 3 7).wellFormed = false := by decide
theorem test_illformed_mma_operand : (Instr.mma 8 8 1 0).wellFormed = false := by decide
theorem test_illformed_mma_accumulator : (Instr.mma 7 0 1 0).wellFormed = false := by decide
theorem test_illformed_loop_counter : (Instr.vlcset 4 0).wellFormed = false := by decide
theorem test_illformed_signature_group : (Instr.siginit 9).wellFormed = false := by decide
theorem test_illformed_scope : (Instr.fence 6).wellFormed = false := by decide
theorem test_illformed_arguments : (Instr.vdisp 29 8 9).wellFormed = false := by decide
theorem test_illformed_pair : (Instr.cread 31 5).wellFormed = false := by decide
theorem test_illformed_softmax : (Instr.vsmax 2 1 14 0).wellFormed = false := by decide
theorem test_illformed_record : (Instr.hclean 13 4 1).wellFormed = false := by decide
theorem test_illformed_control : (Instr.csrx 7 0 0x00C).wellFormed = false := by decide

/-! ### Words written out from the spec’s encodings (R18 to R24 and each family’s table) -/

theorem test_decode_nop : decode 0x00000000#32 = .ok ⟨false, 0, .nop⟩ := by rfl
theorem test_decode_add : decode 0x00461100#32 = .ok ⟨false, 0, .add 3 1 2⟩ := by rfl
theorem test_decode_slt : decode 0x00861100#32 = .ok ⟨false, 0, .slt 3 1 2⟩ := by rfl
theorem test_decode_clz : decode 0x008A2006#32 = .ok ⟨false, 0, .clz 5 2⟩ := by rfl
theorem test_decode_addi : decode 0x00CA61FF#32 = .ok ⟨false, 0, .addi 5 6 (-1)⟩ := by rfl
theorem test_decode_jmp : decode 0x01FFFFFF#32 = .ok ⟨false, 0, .jmp (-1)⟩ := by rfl
theorem test_decode_call : decode 0x02000005#32 = .ok ⟨false, 0, .call 5⟩ := by rfl
theorem test_decode_jr : decode 0x02405000#32 = .ok ⟨false, 0, .jr 5⟩ := by rfl
theorem test_decode_ret : decode 0x02400002#32 = .ok ⟨false, 0, .ret⟩ := by rfl
theorem test_decode_csrx : decode 0x038E0006#32 = .ok ⟨false, 0, .csrx 7 0 0x006⟩ := by rfl
theorem test_decode_beqz : decode 0x018E0003#32 = .ok ⟨false, 0, .beqz 7 3⟩ := by rfl
theorem test_decode_lis : decode 0x010C0020#32 = .ok ⟨false, 0, .lis 6 32⟩ := by rfl
theorem test_decode_shim : decode 0x014C8000#32 = .ok ⟨false, 0, .shim 6 0x8000⟩ := by rfl
theorem test_decode_bnez : decode 0x018E7FFD#32 = .ok ⟨false, 0, .bnez 7 (-3)⟩ := by rfl
theorem test_decode_csrs : decode 0x03CE0104#32 = .ok ⟨false, 0, .csrs 7 0 0x104⟩ := by rfl
theorem test_decode_vdisp : decode 0x04188480#32 = .ok ⟨false, 0, .vdisp 12 8 9⟩ := by rfl
theorem test_decode_rqpop : decode 0x044A0000#32 = .ok ⟨false, 0, .rqpop 5⟩ := by rfl
theorem test_decode_ldW : decode 0x028A6804#32 = .ok ⟨false, 0, .ldW 5 6 4⟩ := by rfl
theorem test_decode_stD : decode 0x02CE17FF#32 = .ok ⟨false, 0, .stD 7 1 (-1)⟩ := by rfl
theorem test_decode_amoCas : decode 0x031054C7#32 = .ok ⟨false, 0, .amoCas 8 5 9 4⟩ := by rfl
theorem test_decode_amoAdd : decode 0x03085310#32 = .ok ⟨false, 0, .amoAdd 4 5 6 1⟩ := by rfl
theorem test_decode_acq : decode 0x03405000#32 = .ok ⟨false, 0, .acq 5⟩ := by rfl
theorem test_decode_rel : decode 0x03405001#32 = .ok ⟨false, 0, .rel 5⟩ := by rfl
theorem test_decode_bind : decode 0x034E5302#32 = .ok ⟨false, 0, .bind 7 5 6⟩ := by rfl
theorem test_decode_unbind : decode 0x03405303#32 = .ok ⟨false, 0, .unbind 5 6⟩ := by rfl
theorem test_decode_fence : decode 0x03400044#32 = .ok ⟨false, 0, .fence 4⟩ := by rfl
theorem test_decode_fenceV : decode 0x03400025#32 = .ok ⟨false, 0, .fenceV 2⟩ := by rfl
theorem test_decode_binit : decode 0x04C05320#32 = .ok ⟨false, 0, .binit 0 5 6 2⟩ := by rfl
theorem test_decode_barrive : decode 0x04D05021#32 = .ok ⟨false, 0, .barrive 8 5 2⟩ := by rfl
theorem test_decode_bwait : decode 0x04D05422#32 = .ok ⟨false, 0, .bwait 8 5 8 2⟩ := by rfl
theorem test_decode_btest : decode 0x04D25424#32 = .ok ⟨false, 0, .btest 9 5 8 2⟩ := by rfl
theorem test_decode_barw : decode 0x04C65023#32 = .ok ⟨false, 0, .barw 3 5 2⟩ := by rfl
theorem test_decode_snapBegin : decode 0x050E5300#32 = .ok ⟨false, 0, .snapBegin 7 5 6⟩ := by rfl
theorem test_decode_snapAccept : decode 0x05005001#32 = .ok ⟨false, 0, .snapAccept 5⟩ := by rfl
theorem test_decode_snapReject : decode 0x05005002#32 = .ok ⟨false, 0, .snapReject 5⟩ := by rfl
theorem test_decode_snapQuery : decode 0x05105003#32 = .ok ⟨false, 0, .snapQuery 8 5⟩ := by rfl
theorem test_decode_snapPool : decode 0x05105304#32 = .ok ⟨false, 0, .snapPool 8 5 6⟩ := by rfl
theorem test_decode_wqOpen : decode 0x05505000#32 = .ok ⟨false, 0, .wqOpen 8 5⟩ := by rfl
theorem test_decode_launch : decode 0x04905000#32 = .ok ⟨false, 0, .launch 8 5⟩ := by rfl
theorem test_decode_vadd : decode 0x080221A0#32 = .ok ⟨false, 0, .vadd 1 2 3 2⟩ := by rfl
theorem test_decode_vintsVsub : decode 0x08486191#32 = .ok ⟨false, 0, .vintsVsub 4 6 3 1⟩ := by rfl
theorem test_decode_vfadd : decode 0x08968600#32 = .ok ⟨false, 0, .vfadd 11 8 12 0⟩ := by rfl
theorem test_decode_vfltsVfmul : decode 0x08CC2202#32 = .ok ⟨false, 0, .vfltsVfmul 6 2 4 0⟩ := by rfl
theorem test_decode_vfma : decode 0x09109500#32 = .ok ⟨false, 0, .vfma 8 9 10 0⟩ := by rfl
theorem test_decode_vfshl : decode 0x09462102#32 = .ok ⟨false, 0, .vfshl 3 2 2 1⟩ := by rfl
theorem test_decode_log3 : decode 0x09C85368#32 = .ok ⟨false, 0, .log3High 4 5 6 0x68⟩ := by rfl
theorem test_decode_log3low : decode 0x098A6114#32 = .ok ⟨false, 0, .log3Low 5 6 2 0x14⟩ := by rfl
theorem test_decode_vgath : decode 0x0A0C2A02#32 = .ok ⟨false, 0, .vgath 6 2 20 0⟩ := by rfl
theorem test_decode_vfrsum : decode 0x0A488006#32 = .ok ⟨false, 0, .vfrsum 4 8 0⟩ := by rfl
theorem test_decode_cvtF4 : decode 0x0A848004#32 = .ok ⟨false, 0, .cvtF4 2 8 0⟩ := by rfl
theorem test_decode_cvtQ : decode 0x0A828A05#32 = .ok ⟨false, 0, .cvtQ 1 8 20 0⟩ := by rfl
theorem test_decode_vsmax : decode 0x0AC41205#32 = .ok ⟨false, 0, .vsmax 2 1 4 0⟩ := by rfl
theorem test_decode_mset : decode 0x0B400005#32 = .ok ⟨false, 0, .mset 0⟩ := by rfl
theorem test_decode_mpopc : decode 0x0B441008#32 = .ok ⟨false, 0, .mpopc 2 1⟩ := by rfl
theorem test_decode_vsetl : decode 0x0B822000#32 = .ok ⟨false, 0, .vsetl 1 2⟩ := by rfl
theorem test_decode_vend : decode 0x0B800002#32 = .ok ⟨false, 0, .vend⟩ := by rfl
theorem test_decode_vreply : decode 0x0B805003#32 = .ok ⟨false, 0, .vreply 5⟩ := by rfl
theorem test_decode_vjoin : decode 0x0B800005#32 = .ok ⟨false, 0, .vjoin⟩ := by rfl
theorem test_decode_vbdiv : decode 0x0BC28003#32 = .ok ⟨false, 0, .vbdiv 1 3⟩ := by rfl
theorem test_decode_vloop : decode 0x0BC93FFA#32 = .ok ⟨false, 0, .vloop 4 (-6)⟩ := by rfl
theorem test_decode_vlcnz : decode 0x0BC0FFFC#32 = .ok ⟨false, 0, .vlcnz 0 (-4)⟩ := by rfl
theorem test_decode_vld : decode 0x0C082000#32 = .ok ⟨false, 0, .vld 4 2 0⟩ := by rfl
theorem test_decode_vldx : decode 0x0C0C1401#32 = .ok ⟨false, 0, .vldx 6 1 8 0⟩ := by rfl
theorem test_decode_vldl : decode 0x0C043002#32 = .ok ⟨false, 0, .vldl 2 3 0⟩ := by rfl
theorem test_decode_vst : decode 0x0C483000#32 = .ok ⟨false, 0, .vst 4 3 0⟩ := by rfl
theorem test_decode_vsta : decode 0x0C545613#32 = .ok ⟨false, 0, .vsta 10 5 12 1⟩ := by rfl
theorem test_decode_qset : decode 0x0C847000#32 = .ok ⟨false, 0, .qset 2 7⟩ := by rfl
theorem test_decode_qadv : decode 0x0C841001#32 = .ok ⟨false, 0, .qadv 2 1⟩ := by rfl
theorem test_decode_qpos : decode 0x0C8A2002#32 = .ok ⟨false, 0, .qpos 5 2⟩ := by rfl
theorem test_decode_hbind : decode 0x0CC44300#32 = .ok ⟨false, 0, .hbind 2 4 6⟩ := by rfl
theorem test_decode_hgen : decode 0x0CC41006#32 = .ok ⟨false, 0, .hgen 2 1⟩ := by rfl
theorem test_decode_hsim : decode 0x0D088500#32 = .ok ⟨false, 0, .hsim 4 8 10⟩ := by rfl
theorem test_decode_isopen : decode 0x0D022183#32 = .ok ⟨false, 0, .isopen 1 2 3⟩ := by rfl
theorem test_decode_mma : decode 0x0DA00410#32 = .ok ⟨false, 0, .mma 8 0 1 16⟩ := by rfl
theorem test_decode_mmaz : decode 0x0DE00400#32 = .ok ⟨false, 0, .mmaz 8 0 1 0⟩ := by rfl
theorem test_decode_tld : decode 0x0D402000#32 = .ok ⟨false, 0, .tld 0 2⟩ := by rfl
theorem test_decode_tmov : decode 0x0D488283#32 = .ok ⟨false, 0, .tmov 4 8 5⟩ := by rfl
theorem test_decode_tbegin : decode 0x0E022000#32 = .ok ⟨false, 0, .tbegin 1 2⟩ := by rfl
theorem test_decode_tcopy : decode 0x0E064282#32 = .ok ⟨false, 0, .tcopy 3 4 5⟩ := by rfl
theorem test_decode_sigd : decode 0x0E422000#32 = .ok ⟨false, 0, .sigd 1 2⟩ := by rfl
theorem test_decode_siginit : decode 0x0E500001#32 = .ok ⟨false, 0, .siginit 8⟩ := by rfl
-- R248: SIGADD t8, v4 is the word 0x0E50_4002.
theorem test_decode_sigadd : decode 0x0E504002#32 = .ok ⟨false, 0, .sigadd 8 4⟩ := by rfl
theorem test_decode_frecvop : decode 0x0E8A1203#32 = .ok ⟨false, 0, .frecvop 5 1 4⟩ := by rfl
theorem test_decode_bgath : decode 0x0EC82300#32 = .ok ⟨false, 0, .bgath 4 2 6 0⟩ := by rfl
theorem test_decode_bscadd : decode 0x0EC82312#32 = .ok ⟨false, 0, .bscadd 4 2 6 1⟩ := by rfl
theorem test_decode_blat : decode 0x0ECA6005#32 = .ok ⟨false, 0, .blat 5 6⟩ := by rfl
theorem test_decode_vpopc : decode 0x0F022000#32 = .ok ⟨false, 0, .vpopc 1 2 0⟩ := by rfl
theorem test_decode_dusk : decode 0x00000010#32 = .ok ⟨false, 0, .dusk⟩ := by rfl
theorem test_decode_dawn : decode 0x00000011#32 = .ok ⟨false, 0, .dawn⟩ := by rfl
theorem test_decode_trap : decode 0x00000103#32 = .ok ⟨false, 0, .trap 3⟩ := by rfl
theorem test_decode_vclt : decode 0x0B061112#32 = .ok ⟨false, 0, .vclt 3 1 2 1⟩ := by rfl
theorem test_decode_vcmpsVceq : decode 0x0F461100#32 = .ok ⟨false, 0, .vcmpsVceq 3 1 2 0⟩ := by rfl

namespace Sys2Proof.Tests

/-! ### What a run gives

A witness for a hypothesis such as `f s = .ok x` with more said of `x` is a Boolean that the kernel evaluates: `okAnd (f s) p`
holds exactly if some `x` has `f s = .ok x` and `p x`. -/

def okAnd {ε α : Type} (r : Except ε α) (p : α → Bool) : Bool :=
  match r with
  | .ok x => p x
  | .error _ => false

def someAnd {α : Type} (r : Option α) (p : α → Bool) : Bool :=
  match r with
  | some x => p x
  | none => false

theorem okAnd_iff {ε α : Type} (r : Except ε α) (p : α → Bool) : okAnd r p = true ↔ ∃ x, r = .ok x ∧ p x = true := by
  cases r <;> simp [okAnd]

theorem someAnd_iff {α : Type} (r : Option α) (p : α → Bool) : someAnd r p = true ↔ ∃ x, r = some x ∧ p x = true := by
  cases r <;> simp [someAnd]

/-! ### Small states -/

/-- A hart runs on the scalar side, at level 0, on a package that holds nothing. -/
def scalarOn : State := { hart := { life := .running, sc := { pc := 0x10000 } }, issue := { side := .scalar } }

/-- The same, with some scalar registers set. -/
def scalarWith (l : List (Nat × Word)) : State :=
  { scalarOn with hart := { scalarOn.hart with sc := { scalarOn.hart.sc with
    g := l.foldl (fun g x => vset g x.1 x.2) (Vector.replicate 32 0) } } }

/-- A hart runs a block on the vector side with VTYPE `t`, VL `n` and some h registers set. -/
def vectorOn (t : VType) (n : Nat) (l : List (Nat × Word)) : State :=
  { hart := { life := .running, cs := { vtype := some t, vl := n },
              ve := { pc := 0x10000, block := some ⟨0x10000, 0⟩, h := l.foldl (fun h x => vset h x.1 x.2) (Vector.replicate 16 0) } },
    issue := { side := .vector } }

/-- The machine with a page of memory at address 0x10000, the hart on the scalar side with some registers set. -/
def placed (l : List (Nat × Word)) : State :=
  let s := placeWord State.reset 0
  { s with issue := { side := .scalar }, hart := { s.hart with sc := { s.hart.sc with
    g := l.foldl (fun g x => vset g x.1 x.2) (Vector.replicate 32 0) } } }

/-- The same with the hart on the vector side. -/
def placedVector (t : VType) (n : Nat) (l : List (Nat × Word)) : State :=
  let s := placeWord State.reset 0
  { s with issue := { side := .vector }, hart := { s.hart with
    cs := { s.hart.cs with vtype := some t, vl := n },
    ve := { s.hart.ve with h := l.foldl (fun h x => vset h x.1 x.2) (Vector.replicate 16 0) } } }

/-- The page's bytes from its start on. -/
def withBytes (s : State) (off n v : Nat) : State := { s with mem := memWrite s.mem (0x1000000 + off) n v }

theorem issuing_scalarWith (l) : Issuing (scalarWith l) .scalar := ⟨rfl, rfl, rfl, rfl, rfl⟩
theorem issuing_placed (l) : Issuing (placed l) .scalar := ⟨rfl, rfl, rfl, rfl, rfl⟩
theorem issuing_vectorOn (t n l) : VectorIssuing (vectorOn t n l) t := ⟨⟨rfl, rfl, rfl, rfl, rfl⟩, rfl⟩
theorem issuing_placedVector (t n l) : VectorIssuing (placedVector t n l) t := ⟨⟨rfl, rfl, rfl, rfl, rfl⟩, rfl⟩

/-! ### Words and their encoding: witnesses -/

theorem witness_EveryEncodedInstructionDecodesToItself :
    ∃ (x : Decoded) (w : BitVec 32), x.instr.wellFormed = true ∧ encode x = some w :=
  ⟨⟨true, 7, .vadd 1 2 3 2⟩, 0xF80221A0, rfl, rfl⟩

theorem witness_EveryDecodedWordIsItsEncoding : ∃ (w : BitVec 32) (x : Decoded), decode w = .ok x :=
  ⟨0x00461100, _, rfl⟩

noncomputable def placedAdd : State := State.reset.withFetchWord 32 0x00461100
noncomputable def placedVadd : State := State.reset.withFetchWord 32 0x080221A0

theorem witness_StepRunsTheDecodedWord_scalar : ∃ (s f g t : State) (p : Place) (sd : Side) (rest : List Turn) (w : BitVec 32)
    (x : Decoded),
    s.agenda = .side p sd :: rest ∧ dueBefore { s with agenda := rest } (.side p sd) = none ∧
    State.focus { s with agenda := rest } p = some f ∧ frozenOut f = false ∧ mayIssue f.hart sd = true ∧
    (sd = .scalar → dueInterrupt f.hart = none) ∧ (mayIssue f.hart .vector = true → f.hart.tl.faults = []) ∧
    (sd = .scalar → g = beginIssue f sd none) ∧ (sd = .vector → sequence (beginIssue f sd none) = some g) ∧
    fetchWord g = .ok (w, t) ∧ decode w = .ok x :=
  ⟨placedAdd, { placedAdd with agenda := [] }, beginIssue { placedAdd with agenda := [] } .scalar none, _, ⟨0, 0, 0⟩, .scalar, [], _, _, rfl, rfl, rfl, rfl, rfl, fun _ => rfl, fun _ => rfl, fun _ => rfl, nofun, rfl, rfl⟩

theorem witness_StepRunsTheDecodedWord_vector : ∃ (s f g t : State) (p : Place) (sd : Side) (rest : List Turn) (w : BitVec 32)
    (x : Decoded),
    s.agenda = .side p sd :: rest ∧ dueBefore { s with agenda := rest } (.side p sd) = none ∧
    State.focus { s with agenda := rest } p = some f ∧ frozenOut f = false ∧ mayIssue f.hart sd = true ∧
    (sd = .scalar → dueInterrupt f.hart = none) ∧ (mayIssue f.hart .vector = true → f.hart.tl.faults = []) ∧
    (sd = .scalar → g = beginIssue f sd none) ∧ (sd = .vector → sequence (beginIssue f sd none) = some g) ∧
    fetchWord g = .ok (w, t) ∧ decode w = .ok x :=
  ⟨placedVadd, { placedVadd with agenda := [] }, beginIssue { placedVadd with agenda := [] } .vector none, _, ⟨0, 0, 0⟩, .vector, [], _, _, rfl, rfl, rfl, rfl, rfl, nofun, fun _ => rfl, nofun, fun _ => rfl, rfl, rfl⟩

/-- A scalar-side word that always traps, and a vector-side word that traps in the same cycle for want of a VTYPE. -/
noncomputable def bothTrap : State :=
  let s := State.reset.withFetchWord 32 0x00000103
  { s with mem := memWrite s.mem 0x1000004 4 0x080221A0,
           hart := { s.hart with ve := { s.hart.ve with pc := 0x10004, block := some ⟨0x10004, 0⟩ } } }

/-- A turn's outcome is a state in which a trap was taken. -/
def endsInTrap (o : Outcome) : Bool :=
  match o with
  | .next v => v.issue.trapped
  | _ => false

theorem endsInTrap_iff (o : Outcome) : endsInTrap o = true ↔ ∃ v, o = .next v ∧ v.issue.trapped = true := by
  cases o <;> simp [endsInTrap]

theorem witness_StepRunsTheDecodedWord_traps :
    (let g := beginIssue { placedAdd with agenda := [] } .scalar none
     okAnd (fetchWord g) (fun r => decide (r.1 = 0x00461100) && !endsInTrap (exec (.add 3 1 2) (holdWord r.2 r.1))) = true) ∧
    (let g := beginIssue { bothTrap with agenda := [] } .scalar none
     bothTrap.agenda = .side ⟨0, 0, 0⟩ .scalar :: [] ∧
     okAnd (fetchWord g) (fun r => decide (r.1 = 0x00000103) && endsInTrap (exec (.trap 3) (holdWord r.2 r.1))) = true ∧
     someAnd (vectorTrap g) (fun _ => true) = true) := by
  decide +kernel

theorem witness_StepRunsTheDecodedWord_retire :
    (scalarWith []).issue.side = .scalar ∧ (vectorOn {} 4 []).issue.side = .vector ∧
    ({ vectorOn {} 4 [] with issue := { side := .vector, p := true } } : State).issue.p = true ∧
    (vectorOn {} 4 []).issue.p = false ∧ (∀ core, (placedAdd.l1.filter (fun (y : L1Line) => y.core == core)).length ≤ 6144) ∧
    (∀ stack slice, (placedAdd.l2.filter (fun (y : L2Line) => y.stack == stack && y.line % 4 == slice)).length ≤ 786432) :=
  ⟨rfl, rfl, rfl, rfl, fun _ => Nat.zero_le _, fun _ _ => Nat.zero_le _⟩

theorem witness_WordsThatMayNotRunTrap_majors :
    (0x16 ≤ (wordOp 0x05800000).toNat ∧ (wordOp 0x05800000).toNat ≤ 0x1F) ∧
    (0x16 ≤ (wordOp 0x07C00000).toNat ∧ (wordOp 0x07C00000).toNat ≤ 0x1F) ∧
    0x3E ≤ (wordOp 0x0F800000).toNat ∧ 0x3E ≤ (wordOp 0x0FC00000).toNat := by decide

theorem witness_WordsThatMayNotRunTrap_sides :
    ((Instr.add 1 2 3).mark = some .s ∧ (vectorOn {} 4 []).issue.side = .vector) ∧
    ((Instr.vadd 1 2 3 0).mark = some .v ∧ (scalarWith []).issue.side = .scalar) := ⟨⟨rfl, rfl⟩, ⟨rfl, rfl⟩⟩

/-! ### Scalar words: witnesses -/

theorem witness_ScalarResultsAreWritten : Issuing (scalarWith [(1, 5), (2, 0)]) .scalar := issuing_scalarWith _
theorem witness_ScalarBranchesGoWhereTheySay : Issuing (scalarWith [(1, 5)]) .scalar := issuing_scalarWith _

/-- A hart with this return stack. -/
def stacked (st : List Word) (l : List (Nat × Word)) : State :=
  let s := placed l
  { s with hart := { s.hart with sc := { s.hart.sc with rstack := st }, cs := { s.hart.cs with hrsp := 0x10008 } } }

theorem issuing_stacked (st l) : Issuing (stacked st l) .scalar := ⟨rfl, rfl, rfl, rfl, rfl⟩

theorem witness_CallsAndReturnsUseTheStack :
    (let s := stacked (List.replicate 15 4) [(5, 0x10040)]
     Issuing s .scalar ∧ (gRead s.hart 5).toNat % 4 = 0 ∧ s.hart.sc.rstack.length < 16) ∧
    (let s := stacked (List.replicate 16 4) [(5, 0x10040)]
     Issuing s .scalar ∧ s.hart.sc.rstack.length = 16 ∧ (gRead s.hart 5).toNat % 4 = 0 ∧
      okAnd (scalarWrite (discardWait s) s.hart.cs.hrsp.toNat 8 (s.hart.sc.rstack.getLastD 0).toNat) (fun _ => true) = true) ∧
    (let s := stacked [0x10040] []
     Issuing s .scalar ∧ s.hart.sc.rstack = [0x10040] ∧ (0x10040 : Word).toNat % 4 = 0) ∧
    (let s := stacked [BitVec.allOnes 64] []
     Issuing s .scalar ∧ s.hart.sc.rstack = [BitVec.allOnes 64] ∧ s.hart.cs.hstat.hl = false) ∧
    (let s := stacked [] []
     Issuing s .scalar ∧ s.hart.sc.rstack = [] ∧ okAnd (scalarRead (discardWait s) .read (s.hart.cs.hrsp - 8).toNat 8)
      (fun x => decide (x.1 % 4 = 0 ∧ x.1 < 2 ^ 64)) = true) :=
  ⟨⟨issuing_stacked _ _, by decide +kernel, by decide +kernel⟩, ⟨issuing_stacked _ _, by decide +kernel, by decide +kernel, by decide +kernel⟩,
   ⟨issuing_stacked _ _, rfl, by decide⟩, ⟨issuing_stacked _ _, rfl, rfl⟩, ⟨issuing_stacked _ _, rfl, by decide +kernel⟩⟩

theorem witness_CallsAndReturnsUseTheStack_traps :
    (Issuing (stacked [] [(5, 0x10042)]) .scalar ∧ (gRead (stacked [] [(5, 0x10042)]).hart 5).toNat % 4 ≠ 0) ∧
    (Issuing (stacked [0x10041] []) .scalar ∧ (0x10041 : Word).toNat % 4 ≠ 0 ∧ (0x10041 : Word) ≠ BitVec.allOnes 64) ∧
    (∃ s rest, Issuing s .scalar ∧ s.hart.sc.rstack = BitVec.allOnes 64 :: rest ∧ s.hart.cs.hstat.hl = true) :=
  ⟨⟨issuing_stacked _ _, by decide +kernel⟩, ⟨issuing_stacked _ _, by decide, by decide⟩,
   ⟨let s := stacked [BitVec.allOnes 64] []
    { s with hart := { s.hart with cs := { s.hart.cs with hstat := { hl := true } } } }, _, ⟨rfl, rfl, rfl, rfl, rfl⟩, rfl, rfl⟩⟩

theorem witness_MemoryReadsBackAWrite : Memory.wf [(8, 255)] = true := by decide +kernel

/-! ### Memory, loads and stores: witnesses -/

/-- The page's bytes set: offset, length and value of each piece. -/
def stored (s : State) (l : List (Nat × Nat × Nat)) : State :=
  { s with mem := l.foldl (fun m x => memWrite m (0x1000000 + x.1) x.2.1 x.2.2) s.mem }

/-- The machine with a page, bytes in it and scalar registers set. -/
def placedWith (b : List (Nat × Nat × Nat)) (l : List (Nat × Word)) : State := stored (placed l) b

/-- The same with the hart on the vector side. -/
def placedVectorWith (b : List (Nat × Nat × Nat)) (t : VType) (n : Nat) (l : List (Nat × Word)) : State :=
  stored (placedVector t n l) b

theorem issuing_placedWith (b l) : Issuing (placedWith b l) .scalar := ⟨rfl, rfl, rfl, rfl, rfl⟩
theorem issuing_placedVectorWith (b t n l) : VectorIssuing (placedVectorWith b t n l) t := ⟨⟨rfl, rfl, rfl, rfl, rfl⟩, rfl⟩

/-- No byte of `n` from the location on is one of the leaf entry's mark bytes. -/
def apart (l : Located) (a : Nat) : Bool :=
  match l.leafAt with
  | some p => a != p && a != p + 1
  | none => true

theorem notMarked_of_apart (l : Located) (a : Nat) (h : apart l a = true) : notMarked l a := by
  intro p hp
  simpa [apart, hp, bne_iff_ne] using h

theorem witness_ScalarAccessesAreOfTheirBytes :
    (let s := placed []
     s.mem.wf = true ∧ okAnd (scalarWrite s 0x10078 8 5) (fun _ => okAnd (locate s .write false 0x10078)
      (fun l => decide (l.loc % 128 + 8 ≤ 128) && apart l l.loc && apart l (l.loc + 8))) = true) ∧
    (let s := placedWith [(0x78, 8, 7)] []
     s.mem.wf = true ∧ okAnd (scalarRead s .read 0x10078 8) (fun _ => okAnd (locate s .read false 0x10078)
      (fun l => decide (l.loc % 128 + 8 ≤ 128) && (s.poolOf (lineOf l.loc)).isNone && apart l l.loc)) = true) := by
  decide +kernel

theorem witness_LoadsAndStoresComplete :
    (let s := placed [(6, 0x10000)]
     Issuing s .scalar ∧ (∃ f, (.ldD, 8, f) ∈ loadTable) ∧
      (gRead s.hart 6 + BitVec.ofInt 64 (8 * (1#9).toInt)).toNat % 8 = 0 ∧
      okAnd (scalarRead (discardWait s) .read 0x10008 8) (fun _ => true) = true ∧
      okAnd (scalarWrite (discardWait s) 0x10008 8 0) (fun _ => true) = true) ∧
    (let s := placed [(6, 0x10001)]
     Issuing s .scalar ∧ (.stD, 8) ∈ storeTable ∧ (gRead s.hart 6 + BitVec.ofInt 64 (8 * (1#9).toInt)).toNat % 8 ≠ 0) :=
  ⟨⟨issuing_placed _, ⟨_, by unfold loadTable; simp only [List.mem_cons]; exact .inr (.inr (.inr (.inr (.inr (.inr (.inl rfl))))))⟩,
     by decide +kernel, by decide +kernel, by decide +kernel⟩,
   ⟨issuing_placed _, by unfold storeTable; simp, by decide +kernel⟩⟩

theorem witness_AtomicsUpdateTheirDoubleword :
    (let s := placed [(5, 0x10008)]
     Issuing s .scalar ∧ s.mem.wf = true ∧ (5#3).toNat ≤ 5 ∧ (gRead s.hart 5).toNat % 8 = 0 ∧
      okAnd (locate (discardWait s) .write true 0x10008) (fun l =>
        decide (l.loc % 8 = 0 ∧ l.loc < s.product.cores * columnBytes) && (List.range 8).all (fun i => apart l (l.loc + i)) &&
        !requestsHold s none l.loc && !s.isSealed l.loc 8 && !s.poisoned (lineOf l.loc) && (s.poolOf (lineOf l.loc)).isNone && (s.tracker (lineOf l.loc)).isNone &&
        (s.l1Line? s.hart.place.core (lineOf l.loc)).isNone) = true) ∧
    (let s := placed [(5, 0x10004)]
     Issuing s .scalar ∧ s.mem.wf = true ∧ (gRead s.hart 5).toNat % 8 ≠ 0) :=
  ⟨⟨issuing_placed _, by decide +kernel⟩, ⟨issuing_placed _, by decide +kernel⟩⟩

/-! ### Synchronization: witnesses -/

theorem witness_ResultsGoToOneRegister :
    (scalarWith []).issue.side = .scalar ∧ (vectorOn {} 4 []).issue.side = .vector ∧ (15#5).toNat < 16 := ⟨rfl, rfl, by decide⟩

/-- An object line at 0x10100 with one region of 128 bytes at scope .clus, and that region's descriptor at 0x10200. -/
def object : List (Nat × Nat × Nat) := [(0x100, 16, 0x00020000000000800000000000010000), (0x200, 16, 0x00020000000000800000000000010000)]

/-- The object line as a word of scope at least `least` reads it satisfies `p`. -/
def objectReads (s : State) (least : Nat) (p : Nat → Nat → State → Bool) : Bool :=
  okAnd (readObject (discardWait s) .read least 0x10100) (fun x => p x.1 x.2.1 x.2.2)

theorem witness_FencesOrderAccesses :
    (let s := placedVector {} 4 []
     Issuing s .vector ∧ (5#3).toNat ≤ 5 ∧ vectorAccessesPending s = false ∧ vectorWritesPending s = false ∧
      (fenceActions (discardWait s) 5).holdsWrite s.hart.place.core (fun _ => true) = false) ∧
    (let s := placed []
     Issuing s .scalar ∧ (2#3).toNat ≤ 5 ∧ vectorWritesPending s = false ∧
      (fenceActions (discardWait s) 2).holdsWrite s.hart.place.core (fun _ => true) = false) ∧
    (let s := placedWith object [(5, 0x10100)]
     Issuing s .scalar ∧ vectorWritesPending s = false ∧ xRead s 5 = 0x10100 ∧ objectReads s 0 (fun _ v u =>
      someAnd (regionsOf v) (fun ds => scopeOf ds == some 2 &&
        !(acquireLines u 0 2 (covered u u.hart ds)).holdsWrite 0 (covered u u.hart ds) &&
        !(publishLines u 0 2 (covered u u.hart ds)).holdsWrite 0 (covered u u.hart ds))) = true) ∧
    (let s := placedVectorWith object {} 4 [(5, 0x10100)]
     Issuing s .vector ∧ vectorAccessesPending s = false ∧ vectorWritesPending s = false ∧ xRead s 5 = 0x10100 ∧
      objectReads s 0 (fun _ v u => someAnd (regionsOf v) (fun ds => scopeOf ds == some 2 &&
        !(acquireLines u 0 2 (covered u u.hart ds)).holdsWrite 0 (covered u u.hart ds) &&
        !(publishLines u 0 2 (covered u u.hart ds)).holdsWrite 0 (covered u u.hart ds))) = true) :=
  ⟨⟨(issuing_placedVector _ _ _).issuing, by decide +kernel⟩, ⟨issuing_placed _, by decide +kernel⟩,
   ⟨issuing_placedWith _ _, by decide +kernel⟩, ⟨(issuing_placedVectorWith _ _ _ _).issuing, by decide +kernel⟩⟩

/-- What BIND reads: the descriptor, the object line with the scope of its point, and its regions, for a descriptor in
use. -/
def bindReads (s : State) (x y : Nat) (p : Descriptor → Nat → Nat → Nat → State → List Descriptor → Bool) : Bool :=
  okAnd (readDescriptor (discardWait s) y) (fun v => someAnd (descriptor v.1) (fun r => r.len != 0 &&
    okAnd (readObject v.2 .read r.scope x) (fun o => someAnd (regionsOf o.2.1) (p r v.1 o.1 o.2.1 o.2.2))))

theorem witness_BindingEditsTheObject :
    -- the descriptor is in a slot already
    (let s := placedWith object [(5, 0x10100), (6, 0x10200)]
     Issuing s .scalar ∧ bindReads s 0x10100 0x10200 (fun _ v _ line _ _ => equalSlot line v == some 0) = true) ∧
    -- all eight slots are in use
    (let s := placedWith ((0x200, 16, 0x00020000000000800000000000010080) ::
        (List.range 8).map (fun i => (0x100 + 16 * i, 16, 0x00020000000000800000000000010000 + 256 * i))) [(5, 0x10100), (6, 0x10200)]
     Issuing s .scalar ∧ bindReads s 0x10100 0x10200 (fun r v _ line _ ds => (equalSlot line v).isNone &&
      ds.all (fun o => o.scope == r.scope) && (freeSlot line).isNone) = true) ∧
    -- a slot is free
    (let s := placedWith [(0x200, 16, 0x00020000000000800000000000010080)] [(5, 0x10100), (6, 0x10200)]
     Issuing s .scalar ∧ bindReads s 0x10100 0x10200 (fun r v sc line u ds => (equalSlot line v).isNone &&
      ds.all (fun o => o.scope == r.scope) && someAnd (freeSlot line) (fun n =>
        okAnd (awaitSide u .write 0x10100) (fun _ => true) && okAnd (writeObject u 0x10100 sc (16 * n) 16 v) (fun _ => true))) = true) ∧
    -- UNBIND of slot 7, of the whole line, and of no slot
    (let s := placedWith object []
     Issuing s .scalar ∧ okAnd (clearSlots (discardWait s) 0x10100 (16 * 7) 16) (fun _ => true) = true ∧
      okAnd (clearSlots (discardWait s) 0x10100 0 128) (fun _ => true) = true ∧ 7 < (8 : Word).toNat ∧ (8 : Word) ≠ BitVec.allOnes 64) :=
  ⟨⟨issuing_placedWith _ _, by decide +kernel⟩, ⟨issuing_placedWith _ _, by decide +kernel⟩,
   ⟨issuing_placedWith _ _, by decide +kernel⟩, ⟨issuing_placedWith _ _, by decide +kernel⟩⟩

/-- A barrier record at 0x10300 for `n` harts of which `k` have arrived, at scope .clus, with the phase 0 and the state `st`. -/
def barrierAt (n k st : Nat) (l : List (Nat × Word)) : State :=
  placedWith [(0x300, 32, n + k * 2 ^ 32 + (2 * st + 16) * 2 ^ 64)] l

theorem issuing_barrierAt (n k st l) : Issuing (barrierAt n k st l) .scalar := ⟨rfl, rfl, rfl, rfl, rfl⟩

/-- The record read at scope .clus satisfies `p`. -/
def barrierReads (s : State) (init : Bool) (p : BarRecord → State → Bool) : Bool :=
  okAnd (readBarrier (discardWait s) 0x10300 2 init) (fun x => p x.2.1 x.2.2)

def canWrite (u : State) (r : BarRecord) (init : Bool) : Bool := okAnd (writeBarrier u 0x10300 2 r init) (fun _ => true)

/-- The record is written, and the acquiring action that follows waits for nothing. -/
def writesAndAcquires (u : State) (r : BarRecord) : Bool :=
  okAnd (writeBarrier u 0x10300 2 r false) (fun z => !sideBusy z && !sideHeld (acquireSide z 2))

/-- The side's actions of scope .clus are performed, and what follows satisfies `p`. -/
def published (u : State) (p : State → Bool) : Bool := okAnd (publishSide u 2) (fun z => !sideHeld z && p z)

theorem witness_BarriersCountTheirArrivals :
    (scalarOn.hart.cs.hstat.timed = false) ∧
    -- BINIT of a filling record, of an armed one, and freeing one
    barrierReads (barrierAt 4 1 2 []) true (fun r _ => r.st == .filling) = true ∧
    barrierReads (barrierAt 4 0 1 []) true (fun r u => r.st == .armed && canWrite u ⟨4, 0, false, .armed, 2, 0⟩ true) = true ∧
    barrierReads (barrierAt 4 0 1 []) true (fun r u => r.st == .armed && canWrite u ⟨0, 0, false, .free, 0, 0⟩ true) = true ∧
    -- an arrival at an aborted record, one that is not the last, and the last
    barrierReads (barrierAt 2 0 3 []) false (fun r u => r.st == .aborted && published u (fun _ => true)) = true ∧
    barrierReads (barrierAt 2 0 1 []) false (fun r u => r.st == .armed && published u (fun p =>
      decide (r.arrived + 1 < r.count) && canWrite p { r with arrived := r.arrived + 1, st := .filling } false)) = true ∧
    barrierReads (barrierAt 2 1 2 []) false (fun r u => r.st == .filling && published u (fun p =>
      decide (r.count ≤ r.arrived + 1) && writesAndAcquires p { r with arrived := 0, phase := !r.phase, st := .armed })) = true ∧
    -- a wait with the token of the phase, and with the other
    barrierReads (barrierAt 2 1 2 []) false (fun r _ => r.phase == (4 : Word).getLsbD 0 && r.st != .aborted) = true ∧
    barrierReads (barrierAt 2 1 2 []) false (fun r u => r.phase != (5 : Word).getLsbD 0 && r.st != .aborted &&
      !sideBusy u && !sideHeld (acquireSide u 2)) = true ∧
    -- a word that waits for its phase, before and after its release, and on an aborted record
    (let wait : BarWait := { d := 8, tok := true, p := false }
     let w (s : State) : State := { s with hart := { s.hart with sc := { s.hart.sc with barw := some wait } } }
     let looks (s : State) (p : Nat → State → Bool) : Bool :=
      okAnd (barrierBytes (discardWait s) 0x10300 2) (fun x => p (bytesAt x.2.1 8 4) x.2.2)
     barWaiting (barrierAt 2 1 2 []) = none ∧ barWaiting (w (barrierAt 2 0 1 [])) = some wait ∧ wait.stage = .phase ∧
     looks (w (barrierAt 2 0 1 [])) (fun x u => x / 2 % 4 != 3 && (x % 2 == 1) != true && !sideBusy u && !sideHeld (acquireSide u 2)) = true ∧
     looks (w (barrierAt 2 0 3 [])) (fun x _ => x / 2 % 4 == 3) = true ∧
     (let u : BarWait := { d := 8, tok := false, p := false }
      let s := barrierAt 2 0 1 []
      looks { s with hart := { s.hart with sc := { s.hart.sc with barw := some u } } } (fun x _ => x / 2 % 4 != 3 && (x % 2 == 1) == u.tok) = true)) ∧
    2 ^ 24 - 1 < 2 ^ 24 := by decide +kernel

/-! ### Control registers, exceptions and system words: witnesses -/

/-- A hart at level 1 on the scalar side. -/
def levelOne : State := { scalarOn with hart := { scalarOn.hart with cs := { hstat := { hl := true } } } }

theorem witness_ControlRegisterWordsComplete :
    (Issuing scalarOn .scalar ∧ isControlRegister 0x003 = true ∧ scalarOn.hart.cs.hstat.hl = false) ∧
    (Issuing levelOne .scalar ∧ isControlRegister 0x210 = true ∧
      ¬ (levelOne.hart.cs.hstat.hl = false ∧ ((0x210 : BitVec 12) = 0x006 ∨ 0x001 ≤ (0x210 : BitVec 12) ∧ (0x210 : BitVec 12) ≤ 0x005))) ∧
    (Issuing (vectorOn {} 4 []) .vector ∧ (15#5).toNat < 16 ∧ isControlRegister 0x100 = true) ∧
    (scalarOn.hart.resident = true ∧ levelOne.hart.resident = true ∧ (3 : Word).toNat % 8 ≤ 4) := by
  refine ⟨⟨⟨rfl, rfl, rfl, rfl, rfl⟩, ?_⟩, ⟨⟨rfl, rfl, rfl, rfl, rfl⟩, ?_⟩, ⟨⟨rfl, rfl, rfl, rfl, rfl⟩, ?_⟩, ?_⟩ <;> decide

/-- A hart with a handler. -/
def handled : State := { scalarOn with hart := { scalarOn.hart with cs := { htvec := 0x20000 } } }

theorem witness_TrapsGoToHandlerOrSupervisor :
    (let s := handled
     let t : Trap := { code := 0x04 }
     s.hart.cs.hstat.hl = false ∧ s.hart.cs.htvec.toNat / 8 % 2 ^ 53 ≠ 0 ∧ s.hart.cs.hstat.timed = false ∧
     s.hart.tl.region = none ∧ s.hart.sc.barw = none ∧ s.hart.ve.barw = none ∧ t.mark = none ∧ t.report = none ∧ t.code ≠ 0x30) ∧
    -- a hart of the PF, and one of a VF with quota left
    (∀ hl vf : Bool,
     let c : Context := { asid := 0, fn := some (if vf then some 3 else none) }
     let s : State := { scalarOn with
       hart := { scalarOn.hart with cs := { hstat := { hl := hl } } }, contexts := [c], quota := [(3, 1)] }
     s.hart.resident = true ∧ s.hart.sc.barw = none ∧ s.hart.ve.barw = none ∧ ({ code := 0x01 } : Trap).mark = none ∧
     ({ code := 0x01 } : Trap).report = none ∧ s.ctx? s.hart.asid = some c ∧ c.fault.count = 0 ∧ c.requests = [] ∧
     (s.fnOf s.hart.asid = some none ∨ (s.hart.tl.region = none ∧ s.exhausted s.hart.asid = false)) ∧
     (s.hart.cs.hstat.hl = true ∨ s.hart.cs.htvec.toNat / 8 % 2 ^ 53 = 0)) := by decide +kernel

/-- The record of a WAIT at 0x10000 that waits for cycle 5. -/
def waited : WaitRec := { addr := 0x10000, d := 8, s := 0, deadline := some 5, live := true }

theorem witness_SystemWordsComplete :
    Issuing scalarOn .scalar ∧ Issuing (vectorOn {} 4 []) .vector ∧ scalarOn.hart.cs.hstat.hl = false ∧
    (Issuing levelOne .scalar ∧ levelOne.hart.cs.hstat.hl = true) ∧ vectorWritesPending (vectorOn {} 4 []) = false ∧
    -- WAIT: an interrupt with no deadline, one that came before a deadline that has passed, and one that came after it
    (let s := { scalarOn with hart := { scalarOn.hart with cs := { hstat := { ie := true } }, irqs := [{ code := 0x40 }] } }
     Issuing s .scalar ∧ s.hart.cs.hstat.ie = true ∧ s.hart.irqs ≠ []) ∧
    (∀ late : Bool,
     let s : State := { scalarOn with clock := 9, hart := { scalarOn.hart with
       cs := { hstat := { ie := true } }, irqs := [{ code := 0x40 }], irqAt := if late then 6 else 4,
       sc := { pc := 0x10000, wait0 := some waited } } }
     Issuing s .scalar ∧ s.hart.cs.hstat.ie = true ∧ s.hart.irqs ≠ [] ∧ waited.addr = s.hart.sc.pc ∧ waited.deadline = some 5 ∧
      waited.live = true ∧ 5 < s.clock ∧ (late = false ↔ s.hart.irqAt ≤ 5)) ∧
    -- a reply, and a deadline that is reached
    (let s := { scalarOn with hart := { scalarOn.hart with ve := { replies := [7] } } }
     Issuing s .scalar ∧ ¬ (s.hart.cs.hstat.ie = true ∧ s.hart.irqs ≠ []) ∧ s.hart.ve.replies ≠ []) ∧
    (let s : State := { scalarOn with clock := 5, hart := { scalarOn.hart with sc := { pc := 0x10000, wait0 := some waited } } }
     Issuing s .scalar ∧ ¬ (s.hart.cs.hstat.ie = true ∧ s.hart.irqs ≠ []) ∧ s.hart.ve.replies = [] ∧
      waited.addr = s.hart.sc.pc ∧ waited.deadline = some s.clock) := by
  refine ⟨⟨rfl, rfl, rfl, rfl, rfl⟩, ⟨rfl, rfl, rfl, rfl, rfl⟩, rfl, ⟨⟨rfl, rfl, rfl, rfl, rfl⟩, rfl⟩, by decide +kernel,
    ⟨⟨rfl, rfl, rfl, rfl, rfl⟩, rfl, nofun⟩,
    fun late => ⟨⟨rfl, rfl, rfl, rfl, rfl⟩, rfl, nofun, rfl, rfl, rfl, by cases late <;> decide, by cases late <;> decide⟩,
    ⟨⟨rfl, rfl, rfl, rfl, rfl⟩, nofun, nofun⟩,
    ⟨⟨rfl, rfl, rfl, rfl, rfl⟩, nofun, rfl, rfl, rfl⟩⟩

theorem witness_QueuesDispatchAndReply :
    (let s := scalarWith [(8, 0x10000), (9, 3)]
     Issuing s .scalar ∧ (28#5).toNat ≤ 28 ∧ (gRead s.hart 8).toNat % 4 = 0 ∧ s.hart.ve.blockQ.length < 32 ∧
      s.hart.ve.blockQ = [] ∧ s.hart.ve.block = none) ∧
    (let s := scalarWith [(8, 0x10002)]
     Issuing s .scalar ∧ (gRead s.hart 8).toNat % 4 ≠ 0) ∧
    (let s := { scalarOn with hart := { scalarOn.hart with ve := { replies := [7, 8] } } }
     Issuing s .scalar ∧ s.hart.ve.replies = 7 :: [8]) := by
  refine ⟨⟨⟨rfl, rfl, rfl, rfl, rfl⟩, ?_⟩, ⟨⟨rfl, rfl, rfl, rfl, rfl⟩, ?_⟩, ⟨⟨rfl, rfl, rfl, rfl, rfl⟩, rfl⟩⟩ <;> decide +kernel

/-! ### Work, snapshots and search: witnesses -/

/-- A kernel record of one unit at 0x10440, a launch record at 0x10400, a graph header at 0x104C0, and counters of levels 1
and 2 at 0x10480 and 0x10490. -/
def records : List (Nat × Nat × Nat) :=
  [(0x400, 64, 0x10440 + 0x10480 * 256 ^ 0x10), (0x440, 64, 0x10000 + 256 ^ 0x1C), (0x488, 8, 1), (0x498, 8, 2),
   (0x4C0, 64, 1 + 0x10490 * 256 ^ 8 + 0x10600 * 256 ^ 0x10)]

/-- A line of the page that an open range tracks without a pool, stored to: the L1's write of it is held for want of a
shadow. -/
def heldBack (s : State) : State :=
  mapOwnCtx { s with l1 := [⟨0, 0x20010, 5, 1, 0⟩] }
    (fun c => c.setRange 0 (some { base := 0x10800, len := 128, depth := 1, tracked := [(0x20010, 1)], shadows := [] }))

/-- What the L1 sends out at a scope is held, or none of it is. -/
def sends (s : State) (scope : Nat) (held : Bool) : Bool := (publishLines (discardWait s) 0 scope (fun _ => true)).holdsWrite 0 (fun _ => true) == held

theorem witness_LaunchesEnterTheDeviceList :
    sends (placedWith records [(5, 0x10400), (6, 0x104C0)]) 4 false = true ∧
    (Issuing (heldBack (placed [])) .scalar ∧ sends (heldBack (placed [])) 4 true = true) ∧
    (let s := placedWith records [(5, 0x10400), (6, 0x104C0)]
     let p := publishLines (discardWait s) s.hart.place.core 4 (fun _ => true)
     Issuing s .scalar ∧
      okAnd (readLaunch p 0 s.hart.queue 0x10400) (fun x => someAnd x.1 (fun y =>
        decide ((x.2.queue s.hart.queue).device.length < 64) && okAnd (startCounter x.2 x.2.hart.place.core 0 y.2) (fun z => z.1))) = true ∧
      okAnd (readGraph p 0 s.hart.queue 0x104C0) (fun x => someAnd x.1 (fun y =>
        decide ((x.2.queue s.hart.queue).device.length < 64) && okAnd (startCounter x.2 x.2.hart.place.core 0 y.2) (fun z => z.1))) = true) ∧
    -- a counter of the wrong level: a malformed record
    (let s := placedWith ((0x488, 8, 2) :: (0x498, 8, 1) :: [(0x400, 64, 0x10440 + 0x10490 * 256 ^ 0x10)]) [(5, 0x10400)]
     let p := publishLines (discardWait s) s.hart.place.core 4 (fun _ => true)
     Issuing s .scalar ∧ okAnd (readLaunch p 0 s.hart.queue 0x10400) (fun x => x.1.isNone) = true ∧
      okAnd (readGraph p 0 s.hart.queue 0x10400) (fun x => x.1.isNone) = true) ∧
    -- a level above that is cancelled
    (let s := placedWith ((0x488, 8, 0x104A1) :: (0x4A8, 8, 0x8000000000000002) :: records.eraseIdx 2) [(5, 0x10400)]
     let p := publishLines (discardWait s) s.hart.place.core 4 (fun _ => true)
     Issuing s .scalar ∧ okAnd (readLaunch p 0 s.hart.queue 0x10400) (fun x => someAnd x.1 (fun y =>
        decide ((x.2.queue s.hart.queue).device.length < 64) && okAnd (startCounter x.2 x.2.hart.place.core 0 y.2) (fun z => !z.1))) = true) :=
  ⟨by decide +kernel, ⟨⟨rfl, rfl, rfl, rfl, rfl⟩, by decide +kernel⟩, ⟨issuing_placedWith _ _, by decide +kernel⟩,
   ⟨issuing_placedWith _ _, by decide +kernel⟩, ⟨issuing_placedWith _ _, by decide +kernel⟩⟩

/-- A counter of level 3 at 0x10500 below one of level 4 at 0x10510. -/
def counters : List (Nat × Nat × Nat) := [(0x500, 8, 5), (0x508, 8, 0x10513), (0x510, 8, 9), (0x518, 8, 4)]

theorem witness_CountersSignalReadAndCancel :
    sends (placedWith counters []) 5 false = true ∧ sends (heldBack (placed [])) 5 true = true ∧
    -- CSIG with bit 63 set, on a level that has not ended
    (let s := placedWith counters [(5, 0x10500), (6, 0x8000000000000001)]
     Issuing s .scalar ∧ okAnd (checkCounter (publishLines (discardWait s) 0 5 (fun _ => true)) 0x10500 3) (fun p =>
      okAnd (counterGet p 0 0 true 0x10500) (fun (done, ctl, w) => !ctlCanc ctl && !ctlFin ctl &&
        okAnd (counterPut w 0 0 0x10500 (done + 1) (ctl ||| 0x4000000000000000)) (fun z => okAnd (passUp z 0 0 ctl) (fun _ => true)))) = true) ∧
    -- CREAD and CANCEL of a running and of a finished level
    (let s := placedWith counters [(5, 0x10500)]
     Issuing s .scalar ∧ (30#5) ≠ 31 ∧ okAnd (checkCounter (discardWait s) 0x10500 1) (fun p =>
      okAnd (counterGet p 0 0 false 0x10500) (fun (done, ctl, _) => decide (done = 5) && !ctlFin ctl) &&
      okAnd (counterGet (retire p) 0 0 false 0x10500) (fun (done, ctl, w) => !ctlFin ctl &&
        okAnd (counterPut w 0 0 0x10500 done (ctl ||| 0x8000000000000000)) (fun z =>
          okAnd (cancelBelow z 0 0x10500) (fun _ => true)))) = true) ∧
    (let s := placedWith [(0x500, 8, 5), (0x508, 8, 0x4000000000000003)] [(5, 0x10500)]
     Issuing s .scalar ∧ okAnd (checkCounter (discardWait s) 0x10500 1) (fun p =>
      okAnd (counterGet p 0 0 false 0x10500) (fun (_, ctl, _) => ctlFin ctl) &&
      okAnd (counterGet (retire p) 0 0 false 0x10500) (fun (_, ctl, _) => ctlFin ctl)) = true) :=
  ⟨by decide +kernel, by decide +kernel, ⟨issuing_placedWith _ _, by decide +kernel⟩, ⟨issuing_placedWith _ _, by decide +kernel⟩,
   ⟨issuing_placedWith _ _, by decide +kernel⟩⟩

/-- A context with ranges open and a pool. -/
def snapped (ranges : List (Option SnapRange)) (l : List (Nat × Word)) : State :=
  mapOwnCtx (placed l) (fun c => (List.range 16).foldl (fun c i => c.setRange i (ranges[i]?.join)) c)

theorem issuing_snapped (r l) : Issuing (snapped r l) .scalar := ⟨rfl, rfl, rfl, rfl, rfl⟩

def rangeAt (base depth : Nat) : SnapRange := { base := base, len := 0x1000, depth := depth, tracked := [], shadows := [] }

theorem witness_SnapshotWordsComplete :
    -- the same extent at depth 7 and at depth 8
    (let s := snapped [some (rangeAt 0x10000 7)] []
     let x : Nat := 0x10000
     let n : Nat := 0x1000
     Issuing s .scalar ∧ x % 128 = 0 ∧ n % 128 = 0 ∧ 0 < n ∧ n ≤ 2 ^ 48 ∧ x + n ≤ 2 ^ 56 ∧
      someAnd ((ctxOf s).findRange (fun r => r.base == x && r.len == n)) (fun y => decide (y.2.depth < 8)) = true) ∧
    (Issuing (snapped [some (rangeAt 0x10000 8)] []) .scalar ∧
      someAnd ((ctxOf (snapped [some (rangeAt 0x10000 8)] [])).findRange (fun r => r.base == 0x10000 && r.len == 0x1000))
        (fun y => y.2.depth == 8) = true) ∧
    -- a new extent, with a range free and with none
    (let c := ctxOf (snapped [some (rangeAt 0x20000 1)] [])
     (c.findRange (fun r => r.base == 0x10000 && r.len == 0x1000)).isNone = true ∧
     (c.findRange (fun r => extentsMeet r.base r.len 0x10000 0x1000)).isNone = true ∧ c.freeRange = some 1) ∧
    (let c := ctxOf (snapped ((List.range 16).map (fun i => some (rangeAt (0x20000 + 0x1000 * i) 1))) [])
     (c.findRange (fun r => extentsMeet r.base r.len 0x10000 0x1000)).isNone = true ∧ c.freeRange = none) ∧
    -- a current handle, of the outermost level and of a deeper one
    (let c := ctxOf (snapped [none, some (rangeAt 0x20000 1), some (rangeAt 0x30000 8)] [])
     someAnd (c.range 1) (fun y => decide (17 = 16 * y.depth + 1 ∧ 17 < 256)) = true ∧
     someAnd (c.range 2) (fun y => decide (130 = 16 * y.depth + 2 ∧ 130 < 256)) = true) ∧
    -- SNAP.POOL: no range open, one open, room for an extent, and none
    ((ctxOf (placed [])).ranges.toList.all (·.isNone) = true ∧
     (ctxOf (snapped [some (rangeAt 0x20000 1)] [])).ranges.toList.all (·.isNone) = false ∧
     (let s := placed []
      decide ((ctxOf s).pool.length < 8) = true ∧ okAnd (poolPages (discardWait s) 0x10000 0x1000 (piecesOf 0x10000 0x1000)) (fun _ => true) = true) ∧
     (let c : Context := { asid := 0, fn := some none, pool := List.replicate 8 ⟨0x20000, 0x80, []⟩ }
      8 ≤ c.pool.length)) := by
  refine ⟨⟨issuing_snapped _ _, ?_⟩, ⟨issuing_snapped _ _, ?_⟩, ?_⟩ <;> decide +kernel

/-- A query descriptor at 0x10540, and a hart whose query context 63 is in a state. -/
def query : List (Nat × Nat × Nat) :=
  [(0x540, 64, 0x10600 + 256 ^ 8 + 0x10700 * 256 ^ 0x10 + 4 * 256 ^ 0x18 + 16 * 256 ^ 0x1C + 256 ^ 0x20 + 256 ^ 0x22 + 0x10780 * 256 ^ 0x28)]

def queryIn (st : QueryState) (uid : Nat) : State :=
  { placedWith query [(5, 63)] with cores := [{ core := 0, queries :=
    [{ n := 63, uid := uid, asid := 0, desc := Option.getD (queryDesc (query.map (fun x => x.2.2)).sum) default, state := st }] }] }

/-- A core none of whose query contexts is free. -/
def allTaken : CoreUnit := { core := 0, queries := List.map (fun n => { n := n, uid := 1, asid := 1, desc := default }) (List.range 64) }

theorem witness_QueryContextsComplete :
    (let s := placedWith query [(5, 0x10540)]
     Issuing s .scalar ∧ (0x10540 : Nat) % 64 = 0 ∧ okAnd (pointRead (discardWait s) (discardWait s).hart .other 0x10540 64) (fun x =>
      (queryDesc x.1).isSome && freeQuery x.2 == some 0) = true) ∧
    (let s := { placedWith query [(5, 0x10540)] with cores := [allTaken] }
     Issuing s .scalar ∧ okAnd (pointRead (discardWait s) (discardWait s).hart .other 0x10540 64) (fun x =>
      (queryDesc x.1).isSome && (freeQuery x.2).isNone) = true) ∧
    (∀ st : QueryState, Issuing (queryIn st 0) .scalar ∧ (63 : Nat) < 64 ∧
      ∃ q, queryAt (queryIn st 0) 0 63 = some q ∧ q.uid = (queryIn st 0).hart.uid ∧ q.state = st) :=
  ⟨⟨issuing_placedWith _ _, by decide +kernel⟩, ⟨⟨rfl, rfl, rfl, rfl, rfl⟩, by decide +kernel⟩,
   fun _ => ⟨⟨rfl, rfl, rfl, rfl, rfl⟩, by decide, _, rfl, rfl, rfl⟩⟩

/-! ### Vector words: witnesses -/

theorem witness_ElementResultsFollowTheirRules :
    (let s := vectorOn { et := .i8 } 1024 []
     Issuing s .vector ∧ (31 : Nat) + 1 ≤ 32 ∧ 8 ∈ [1, 4, 8, 16, 32, 64] ∧ 8 * 1024 ≤ regBits s.hart * 1) ∧
    (let s := vectorOn { et := .i8 } 4 []
     Issuing s .vector ∧ s.hart.cs.vprog = 0 ∧ (List.replicate 4 (none : Option Nat)).length = 4 ∧ (7#5).toNat < 8 ∧
      s.hart.cs.vl ≤ regBits s.hart) := by
  refine ⟨⟨(issuing_vectorOn _ _ _).issuing, ?_⟩, ⟨(issuing_vectorOn _ _ _).issuing, ?_⟩⟩ <;> decide +kernel

/-- The usual operands of a vector word fit VTYPE: aligned groups, and a mask that governs. -/
def fits (s : State) (t : VType) (d a b : BitVec 5) (m : BitVec 3) : Bool :=
  t.aligned d && t.aligned a && t.aligned b && governFits s.hart m

theorem witness_IntegerVectorWordsComplete :
    (let t : VType := { et := .i8, lg := 3 }
     VectorIssuing (vectorOn t 8192 []) t ∧ fits (vectorOn t 8192 []) t 24 8 16 7 = true ∧ t.et.isInt = true ∧ (15#5).toNat < 16) ∧
    (let t : VType := { et := .b1 }
     VectorIssuing (vectorOn t 64 []) t ∧ fits (vectorOn t 64 []) t 31 30 29 0 = true ∧ t.et.isInt = false) := by
  refine ⟨⟨issuing_vectorOn _ _ _, ?_⟩, ⟨issuing_vectorOn _ _ _, ?_⟩⟩ <;> decide +kernel

theorem witness_FloatVectorWordsComplete :
    (∀ e : ElemType, let t : VType := { et := e, lg := 1 }
     VectorIssuing (vectorOn t 16 []) t ∧ fits (vectorOn t 16 []) t 30 2 4 1 = true) ∧
    (floatType false .f64 ∧ floatType true .e5m2 ∧ (15#5).toNat < 16 ∧ ElemType.isInt .i8 = true) := by
  refine ⟨fun e => ⟨issuing_vectorOn _ _ _, ?_⟩, .inr (.inr (.inr (.inl rfl))), .inr (.inr (.inr (.inr ⟨rfl, .inr rfl⟩))), by decide, rfl⟩
  cases e <;> decide +kernel

theorem witness_BitVectorWordsComplete :
    let t : VType := { et := .n64 }
    VectorIssuing (vectorOn t 16 []) t ∧ fits (vectorOn t 16 []) t 31 2 4 1 = true ∧ t.et.isInt = true ∧ (63#6).toNat < t.et.width :=
  ⟨issuing_vectorOn _ _ _, by decide +kernel⟩

theorem witness_MovesOfElementsComplete :
    let t : VType := { et := .i8, lg := 1 }
    VectorIssuing (vectorOn t 16 [(15, 16)]) t ∧ fits (vectorOn t 16 [(15, 16)]) t 30 28 26 1 = true ∧
      (28#5).toNat + t.group ≤ (30#5).toNat ∧ (15#5).toNat < 16 ∧ 8 ≤ t.et.width ∧ t.et.isInt = true ∧ (7#5).toNat < 8 ∧
      (vectorOn t 16 []).hart.cs.vl ≤ regBits (vectorOn t 16 []).hart :=
  ⟨issuing_vectorOn _ _ _, by decide +kernel⟩

theorem witness_ReductionsComplete :
    (∀ e : ElemType, let t : VType := { et := e }
     VectorIssuing (vectorOn t 16 []) t ∧ fits (vectorOn t 16 []) t 2 1 4 1 = true) ∧
    (ElemType.isInt .n64 = true ∧ ElemType.width .n64 = 64 ∧ ElemType.isInt .i32 = true ∧ ElemType.width .i32 ≠ 64 ∧ floatType false .f64) ∧
    ((13#5).toNat ≤ 13 ∧ (2#5).toNat + ({ et := .f32 } : VType).group ≤ (3#5).toNat) ∧
    -- a strip with no active element and one with some
    ((∀ i < 4, (fun _ => false : Nat → Bool) i = false) ∧ (∃ i < 4, (fun i => i == 3 : Nat → Bool) i = true)) := by
  refine ⟨fun e => ⟨issuing_vectorOn _ _ _, ?_⟩, ⟨rfl, rfl, rfl, by decide, .inr (.inr (.inr (.inl rfl)))⟩, by decide +kernel, fun _ _ => rfl,
    3, by decide, rfl⟩
  cases e <;> decide +kernel

theorem witness_ConversionsAndFunctionsComplete :
    (∀ e : ElemType, ∀ g : BitVec 2, let t : VType := { et := e, lg := g }
     VectorIssuing (vectorOn t 4 []) t ∧ governFits (vectorOn t 4 []).hart 0 = true ∧ t.aligned 8 = true ∧ t.aligned 16 = true) ∧
    -- CVT.Q to QN4 with a well-formed group record, and to I8
    (let t : VType := { et := .qn4, bs := 4 }
     let s := vectorOn t 64 []
     t.group * 32 / t.et.width ≤ 8 ∧ (8#5).toNat % (t.group * 32 / t.et.width) = 0 ∧ t.bs ≠ 0 ∧ t.aligned 1 = true ∧
      (List.range 64).all (fun i => decide (elem 32 (vget s.hart.ve.v 20 0).toNat (i / 128) < 2 ^ 24)) = true) ∧
    (let t : VType := { et := .i8, bs := 1, lg := 1 }
     t.et ∈ [.e2m1, .e4m3, .e5m2, .i4, .i8, .qn4, .qn8] ∧ t.group * 32 / t.et.width ≤ 8 ∧ (8#5).toNat % (t.group * 32 / t.et.width) = 0) := by
  refine ⟨fun e g => ⟨issuing_vectorOn _ _ _, ?_⟩, by decide +kernel, by decide +kernel⟩
  exact ⟨rfl, by cases e <;> revert g <;> decide, by cases e <;> revert g <;> decide⟩

theorem witness_ComparisonsAndMaskWordsComplete :
    let t : VType := { et := .f32 }
    VectorIssuing (vectorOn t 64 []) t ∧ fits (vectorOn t 64 []) t 7 1 2 7 = true ∧ (7#5).toNat < 8 ∧ (15#5).toNat < 16 ∧
      (vectorOn t 64 []).hart.cs.vl ≤ regBits (vectorOn t 64 []).hart ∧ floatType true t.et :=
  ⟨issuing_vectorOn _ _ _, by decide +kernel, by decide, by decide, by decide +kernel, .inr (.inr (.inl rfl))⟩

theorem witness_VsetlGrantsTheLength :
    Issuing (vectorOn { et := .i8 } 4 [(15, 100)]) .vector ∧ (15#5).toNat < 16 := ⟨(issuing_vectorOn _ _ _).issuing, by decide⟩

/-- VBDIV's live set and the selected part of it. -/
def divided (u k : Nat) : State :=
  let s := vectorOn {} 8 []
  { s with hart := { s.hart with ve := { s.hart.ve with m := vset (vset s.hart.ve.m 0 (BitVec.ofNat 65536 u)) 7 (BitVec.ofNat 65536 k) } } }

theorem witness_VbdivSplitsTheLiveSet :
    let tk (s : State) : Nat := (vget s.hart.ve.m 0 0).toNat % 2 ^ 8 &&& (vget s.hart.ve.m 7 0).toNat % 2 ^ 8
    let fl (s : State) : Nat := (vget s.hart.ve.m 0 0).toNat % 2 ^ 8 - tk s
    VectorIssuing (divided 3 5) {} ∧ (7#5).toNat < 8 ∧ (divided 3 5).hart.cs.vl ≤ regBits (divided 3 5).hart ∧
      (fl (divided 3 7) = 0 ∧ tk (divided 3 7) ≠ 0) ∧ tk (divided 3 4) = 0 ∧
      (fl (divided 3 5) ≠ 0 ∧ tk (divided 3 5) ≠ 0 ∧ (divided 3 5).hart.ve.frags.length < 4) :=
  ⟨⟨⟨rfl, rfl, rfl, rfl, rfl⟩, rfl⟩, by decide +kernel⟩

/-- A hart with fragments, and with a progress record of the VLOOP at its word. -/
def fragmented (fr : List Fragment) (lp : List LoopRec) : State :=
  let s := vectorOn {} 8 [(4, 100)]
  { s with hart := { s.hart with ve := { s.hart.ve with frags := fr, loops := lp } } }

theorem issuing_fragmented (f l) : Issuing (fragmented f l) .vector := ⟨rfl, rfl, rfl, rfl, rfl⟩

theorem witness_VectorControlWordsComplete :
    (vtypeRequestOk 32768 0x00000007 ∧ ¬ vtypeRequestOk 32768 0x00000017) ∧
    (let s := vectorOn {} 4 []
     Issuing s .vector ∧ s.hart.life ≠ .ending ∧ vectorWritesPending s = false ∧ s.hart.ve.replies.length < 16 ∧
      (3#5).toNat < 4 ∧ (15#5).toNat < 16 ∧ (7#5).toNat < 8 ∧ s.hart.cs.vl ≤ regBits s.hart ∧ s.hart.cs.vtype ≠ none) ∧
    (let s : State := { vectorOn {} 4 [] with hart := { (vectorOn {} 4 []).hart with life := .ending } }
     Issuing s .vector ∧ s.hart.life = .ending) ∧
    -- VLOOP without progress for the second time, and otherwise
    (let s := fragmented [] [⟨0x10000, 92, 1⟩]
     Issuing s .vector ∧ s.hart.ve.loops.find? (fun e => e.addr == s.hart.ve.pc) = some ⟨0x10000, 92, 1⟩ ∧
      (92 : Int) ≤ (hRead s.hart 4 - BitVec.ofNat 64 8).toInt) ∧
    (let s := fragmented [] [⟨0x10000, 100, 1⟩]
     Issuing s .vector ∧ s.hart.ve.loops.find? (fun e => e.addr == s.hart.ve.pc) = some ⟨0x10000, 100, 1⟩ ∧
      ¬ (100 : Int) ≤ (hRead s.hart 4 - BitVec.ofNat 64 8).toInt) ∧
    -- VJOIN and VEND: an empty buffer, a pending entry, a joining entry
    (Issuing (fragmented [] []) .vector ∧ (fragmented [] []).hart.ve.frags = [] ∧ (fragmented [] []).hart.ve.spilled = 0) ∧
    (∀ joining : Bool, Issuing (fragmented [⟨0x10008, 1, 8, 3, 1, joining⟩] []) .vector ∧
      (fragmented [⟨0x10008, 1, 8, 3, 1, joining⟩] []).hart.ve.frags = ⟨0x10008, 1, 8, 3, 1, joining⟩ :: [] ∧
      (fragmented [⟨0x10008, 1, 8, 3, 1, joining⟩] []).hart.ve.spilled = 0) := by
  refine ⟨⟨?_, ?_⟩, ⟨(issuing_vectorOn _ _ _).issuing, by decide +kernel⟩, ⟨⟨rfl, rfl, rfl, rfl, rfl⟩, rfl⟩,
    ⟨issuing_fragmented _ _, by decide +kernel⟩, ⟨issuing_fragmented _ _, by decide +kernel⟩, ⟨issuing_fragmented _ _, rfl, rfl⟩,
    fun _ => ⟨issuing_fragmented _ _, rfl, rfl⟩⟩ <;> unfold vtypeRequestOk <;> decide +kernel

/-! ### Vector memory: witnesses -/

theorem witness_ElementAccessesTouchOnlyTheirBits :
    let s := placedVector { et := .i8 } 4 []
    s.mem.wf = true ∧ (s.l1.all (fun y => y.dirty == 0)) = true ∧ 8 ∈ [1, 4, 8, 16, 32, 64] ∧
      (8 * 0x1007F) % 8 + 8 ≤ 8 * max 1 (8 / 8) ∧
      okAnd (locate s .read false 0x1007F) (fun l => decide (l.loc % 128 + max 1 (8 / 8) ≤ 128) && (s.poolOf (lineOf l.loc)).isNone &&
        okAnd (elementRead s .other 8 (8 * 0x1007F)) (fun _ => true)) = true ∧
      okAnd (locate s .write false 0x1007F) (fun _ => okAnd (elementWrite s .other 8 (8 * 0x1007F) 5) (fun _ => true)) = true ∧
      okAnd (locate s .write true 0x1007F) (fun l => (s.poolOf (lineOf l.loc)).isNone &&
        okAnd (elementUpdate s .gather 8 (8 * 0x1007F) (fun x => (x, 0))) (fun _ => true)) = true ∧
      (∀ push : Bool, okAnd (addLocate { s with poison := [lineOf 0x1000000] } (8 * 0x1007C) (32 / 8) push)
        (fun x => x.2.poisoned (lineOf x.1.loc)) = true) ∧
      okAnd (addLocate s (8 * 0x1007C) (32 / 8) false) (fun x => !s.poisoned (lineOf x.1.loc) && addTarget .i32 &&
        decide (ElemType.width .i32 = 32) && (List.range 4).all (fun k => apart x.1 (x.1.loc + k)) &&
        okAnd (x.2.guardWrite 0 x.1.loc 4) (fun _ => true)) = true := by decide +kernel

/-- q15 bound to a stream of `n` elements of a type from an address on. -/
def streamOf (e : ElemType) (base n : Nat) (l : List (Nat × Word)) : State :=
  let s := placedVector { et := e } 8 l
  { s with hart := { s.hart with q := vset s.hart.q 15 (some { tsr := ⟨base, e, 1, false, false, [n], [1]⟩, pos := 0 }) } }

theorem issuing_streamOf (e base n l) : VectorIssuing (streamOf e base n l) { et := e } := ⟨⟨rfl, rfl, rfl, rfl, rfl⟩, rfl⟩

/-- The access walk goes past element `k` of 8 without a fault, or stops at it. -/
def walksTo {α : Type} (s : State) (f : State → Nat → Except Stop (α × State)) (k : Nat) : Bool :=
  okAnd (accessElements (isActive s.hart 0) f (List.range 8) (inLanes s 8)) (fun x =>
    match x.2.1 with
    | none => k == 8
    | some (i, _) => i == k)

/-- On a stream at `base`, loads and stores by number, by index 0 and updates reach the element. -/
def streamWalks (s : State) (x : StreamReg) (k : Nat) : Bool :=
  let unit_ (r : Except Stop State) : Except Stop (Unit × State) := r.map (fun s => ((), s))
  walksTo s (fun s i => withAhead x (fun s => elementRead s (streamMark x) 32 (streamBit x i)) s) k &&
  walksTo s (fun s i => withAhead x (fun s => unit_ (elementWrite s (streamMark x) 32 (streamBit x i) 5)) s) k &&
  walksTo s (fun s i => elementUpdate s .gather 32 (streamBit x i) (fun old => (old, 0))) k

theorem witness_VectorAccessesComplete :
    -- all elements are accessed; those below element 4, which meets a fault; and a fault at element 0
    (let s := streamOf .i32 0x10000 8 []
     VectorIssuing s { et := .i32 } ∧ s.hart.cs.vprog = 0 ∧ fits s { et := .i32 } 31 (15 : BitVec 5) 30 0 = true ∧ (15#5).toNat < 16 ∧
      someAnd (vget s.hart.q 15 none) (fun x => x.tsr.et.width == 32 && onStream s x == 8 && streamWalks s x 8) = true) ∧
    (let s := streamOf .i32 0x1FFF0 8 []
     VectorIssuing s { et := .i32 } ∧ someAnd (vget s.hart.q 15 none) (fun x => streamWalks s x 4) = true) ∧
    (let s := streamOf .i32 0x20000 8 []
     VectorIssuing s { et := .i32 } ∧ someAnd (vget s.hart.q 15 none) (fun x => streamWalks s x 0) = true) ∧
    -- indexed accesses, and lane-private ones at an offset that is a multiple of 32
    (let s := streamOf .i32 0x10000 8 [(15, 4064)]
     someAnd (vget s.hart.q 15 none) (fun x =>
       walksTo s (fun s' i => elementRead s' .gather 32 (indexedBit s { et := .i32 } x 30 i)) 8) = true ∧
     (hRead s.hart (15#5).toNat).toNat % 32 = 0 ∧ walksTo s (fun s i => privateRead s 15 32 i) 8 = true ∧
     walksTo s (fun s i => (privateWrite s 15 32 i 5).map (fun s => ((), s))) 8 = true) ∧
    ElemType.i32 ∈ [.i32, .n32, .i64, .n64, .f32, .f64] := by
  refine ⟨⟨issuing_streamOf _ _ _ _, ?_⟩, ⟨issuing_streamOf _ _ _ _, ?_⟩, ⟨issuing_streamOf _ _ _ _, ?_⟩, ?_, ?_⟩ <;> decide +kernel

/-- A shape record of `n` 8-bit elements at 0x10200, and one with no dimension at 0x10240. -/
def shapes : List (Nat × Nat × Nat) :=
  [(0x200, 64, 0x10000 + 4 * 256 ^ 8 + 256 ^ 9 + 8 * 256 ^ 0x10 + 256 ^ 0x28), (0x240, 64, 0x10000)]

theorem witness_StreamWordsComplete :
    (let s := placedVectorWith shapes {} 4 [(7, 0x10200), (8, 0x10240)]
     Issuing s .vector ∧ (15#5).toNat < 16 ∧ (hRead s.hart 7).toNat % 64 = 0 ∧
      okAnd (orderedRead s s.hart .other 0x10200 64) (fun x => (tsrOf x.1).isSome && !x.2.hart.cs.hstat.timed) = true ∧
      okAnd (orderedRead s s.hart .other 0x10240 64) (fun x => (tsrOf x.1).isNone && !x.2.hart.cs.hstat.timed) = true ∧
      vget s.hart.q 15 none = none) ∧
    (vget (streamOf .i8 0x10000 8 []).hart.q 15 none).isSome = true :=
  ⟨⟨(issuing_placedVectorWith _ _ _ _).issuing, by decide +kernel⟩, by decide +kernel⟩

/-! ### Hypervectors and item stores: witnesses -/

theorem witness_HypervectorWordsComplete :
    (∀ m : HvModel, let t : VType := { hm := m, hd := 5 }
     let s := vectorOn t 4 [(15, 3)]
     VectorIssuing s t ∧ 64 * 2 ^ t.hd * t.hm.width ≤ regBits s.hart * t.group ∧ s.hart.cs.vprog.toNat % 2 ^ 32 ≤ 64 * 2 ^ t.hd ∧
      counterGroup s.hart t ≤ 8 ∧ (24 : Nat) % counterGroup s.hart t = 0 ∧ (8 : Nat) + counterGroup s.hart t ≤ 24) := by
  refine fun m => ⟨issuing_vectorOn _ _ _, ?_⟩
  cases m <;> decide +kernel

/-- A hart whose launch holds a grant of 64 KiB of core scratchpad, with bytes in it: offset, length, value. -/
def granted (t : VType) (b : List (Nat × Nat × Nat)) (stores : List StoreEntry) (l : List (Nat × Word)) : State :=
  let s := placedVector t 4 l
  { s with
    grants := [⟨1, 0, 0, .core, 0, 0x10000⟩],
    mem := b.foldl (fun m x => memWrite m (windowLoc 1 x.1) x.2.1 x.2.2) s.mem,
    cores := [{ core := 0, stores := stores }] }

theorem issuing_granted (t b st l) : VectorIssuing (granted t b st l) t := ⟨⟨rfl, rfl, rfl, rfl, rfl⟩, rfl⟩

/-- A store's header: state, capacity and count, for BSC of 64 components. -/
def header (st cap count : Nat) : Nat × Nat × Nat := (0, 128, st + cap * 256 ^ 4 + count * 256 ^ 8)

theorem granted_window (t b st l) (i : Nat) (h : inGrant (granted t b st l) coreBase (i + 1) = true) :
    windowOf (granted t b st l) (granted t b st l).hart (coreBase + i) = some (windowLoc 1 0 + i) := by
  have hg : grantOf (granted t b st l) (granted t b st l).hart .core = some ⟨1, 0, 0, .core, 0, 0x10000⟩ := rfl
  simp only [inGrant, coreGrant, hg, decide_eq_true_eq] at h
  have hc : coreBase + 0x10000 ≤ clusterBase := by decide
  have hb : coreBase + i - coreBase = 0 + i := by omega
  simp only [windowOf, hg]
  rw [if_neg (by omega), if_pos (by omega), if_pos (by omega), hb]
  simp only [windowLoc, Nat.add_assoc, Nat.zero_add, Nat.add_zero]


theorem witness_ItemStoreAndRecallWordsComplete :
    (∀ b st l, ∀ i, inGrant (granted {} b st l) coreBase (i + 1) = true →
      windowOf (granted {} b st l) (granted {} b st l).hart (coreBase + i) = some (windowLoc 1 0 + i)) ∧
    coreBase % 128 = 0 ∧ coreBase ≤ coreBase ∧ coreBase < clusterBase ∧
    -- HPROB: a recall of one item, an even count, and the two widths
    (64 * 2 ^ ({ hd := 6 } : VType).hd ≤ 4096 ∧ 4096 < 64 * 2 ^ ({ hd := 7 } : VType).hd) ∧
    -- ISOPEN: capacities out of range, an extent beyond the grant, a free store and one in use
    (let s := granted {} [] [] [(1, BitVec.ofNat 64 coreBase)]
     VectorIssuing s {} ∧ s.hart.tl.queue = [] ∧ (s.cores.all (fun c => c.fifo.all (fun e => e.uid != s.hart.uid || e.adds.isEmpty))) = true ∧
      64 * 2 ^ ({} : VType).hd * ({} : VType).hm.width ≤ regBits s.hart * ({} : VType).group ∧
      inGrant s coreBase (128 + 4096 * 8) = true ∧
      inGrant s coreBase (128 + 8177 * 8) = false ∧ okAnd (readHeader s {} coreBase false) (fun x => x.st == 0) = true) ∧
    (let s := granted {} [header 1 4 3] [] [(1, BitVec.ofNat 64 coreBase)]
     VectorIssuing s {} ∧ okAnd (readHeader s {} coreBase true) (fun x => x.st == 1 && decide (x.count < x.cap)) = true ∧
      inGrant s (coreBase + 128 + 3 * 8) 8 = true ∧ inGrant s coreBase 128 = true ∧ (coreGrant s).isSome = true ∧
      (s.core s.hart.place.core).stores.length < 16) ∧
    (let s := granted {} [header 1 4 4] (List.replicate 16 ⟨1, 1, 1, 0, 128⟩) [(1, BitVec.ofNat 64 coreBase)]
     VectorIssuing s {} ∧ okAnd (readHeader s {} coreBase true) (fun x => x.st == 1 && decide (x.cap ≤ x.count)) = true ∧
      16 ≤ (s.core s.hart.place.core).stores.length) ∧
    -- a sealed store of two items, for HCLEAN and HFACT, and an empty one
    (let s := granted {} [header 2 4 2] [⟨0, 0, 1, 0, 0x10000⟩]
        [(0, 2 + 5 * 2 ^ 16), (1, BitVec.ofNat 64 coreBase), (2, BitVec.ofNat 64 coreBase)]
     VectorIssuing s {} ∧ s.hart.cs.vprog = 0 ∧ storeAddr s 1 = .ok (hRead s.hart 1).toNat ∧
      okAnd (readHeader s {} coreBase true) (fun x => x.st == 2 && x.count == 2) = true ∧
      okAnd (readItem s {} coreBase 1) (fun _ => true) = true ∧ (12#5).toNat ≤ 12 ∧
      (let c := (hRead s.hart 0).toNat
       2 ≤ c % 8 ∧ c % 8 ≤ 4 ∧ 1 ≤ c / 2 ^ 16 ∧ c / 2 ^ 16 < 2 ^ 16 ∧ c / 8 % 2 ^ 13 = 0) ∧
      okAnd ((List.range 2).mapM (storeItems s {} 0 2)) (fun l => l.all (fun x => !x.isEmpty)) = true ∧
      -- the clean-up unit serves the hart, or is still occupied
      (takeUnit s (.cleanup 0)).isSome = true ∧
      (takeUnit { s with cores := s.cores.map (fun (c : CoreUnit) => { c with cleanFree := 1 }) } (.cleanup 0)).isNone = true) ∧
    (let s := granted {} [header 2 4 0] [⟨0, 0, 1, 0, 0x10000⟩] [(1, BitVec.ofNat 64 coreBase)]
     okAnd (readHeader s {} coreBase true) (fun x => x.st == 2 && x.count == 0) = true) := by
  refine ⟨fun _ _ _ i h => granted_window _ _ _ _ i h, by decide, by decide, by decide, by decide, ⟨issuing_granted _ _ _ _, ?_⟩,
    ⟨issuing_granted _ _ _ _, ?_⟩, ⟨issuing_granted _ _ _ _, ?_⟩, ⟨issuing_granted _ _ _ _, ?_⟩, ?_⟩ <;> decide +kernel

/-! ### Tiles, engines and signatures: witnesses -/

/-- Shape records of `n` rows of 8 elements with a type code, at 0x10200 and 0x10240, and words from 0x10000 on. -/
def matrices (code n : Nat) : List (Nat × Nat × Nat) :=
  let r := 0x10400 + code * 256 ^ 8 + 2 * 256 ^ 9 + 8 * 256 ^ 0x10 + n * 256 ^ 0x14 + 256 ^ 0x28 + 8 * 256 ^ 0x2C
  [(0x200, 64, r), (0x240, 64, r), (0x004, 4, 0x0DA00410)]

def engineOn (code n : Nat) (t : VType) (l : List (Nat × Word)) : State := placedVectorWith (matrices code n) t 4 l

theorem issuing_engineOn (c n t l) : VectorIssuing (engineOn c n t l) t := ⟨⟨rfl, rfl, rfl, rfl, rfl⟩, rfl⟩

def engineReady (s : State) (n : Nat) : Bool :=
  !regionElsewhere s && s.hart.tl.poison.isEmpty && decide (s.hart.tl.queue.length + n ≤ 8) && s.hart.tl.region.isNone

theorem engineReady_iff (s : State) (n : Nat) : engineReady s n = true ↔ EngineReady s n := by
  constructor
  · intro h
    simp only [engineReady, Bool.and_eq_true, Bool.not_eq_true', decide_eq_true_eq, List.isEmpty_iff, Option.isNone_iff_eq_none] at h
    exact ⟨h.1.1.1, h.1.1.2, h.1.2, h.2⟩
  · intro ⟨a, b, c, d⟩
    simp [engineReady, a, b, c, d]

theorem tilesIdle_of_empty (s : State) (ts : List Nat) (h : s.hart.tl.queue = []) : tilesIdle s ts := by
  intro c hc; rw [h] at hc; cases hc

/-- A hart with an operand tile bound, of a scaled type. -/
def withTile (s : State) (n : Nat) : State :=
  { s with hart := { s.hart with tl := { s.hart.tl with
    op := vset s.hart.tl.op n (.bound ⟨0x10400, .e4m3, 2, false, false, [8, 8], [1, 8]⟩ 0x10200 [] none) } } }

theorem witness_TileWordsComplete :
    (let s := engineOn 3 8 {} [(2, 0x10200)]
     VectorIssuing s {} ∧ engineReady s 1 = true ∧ tilesIdle s [7] ∧
      okAnd (readShape s 0x10200 0x10200) (fun x => operandShape x.1 && engineReady x.2 1 && x.2.hart.poison.isEmpty && decide (x.2.issue = s.issue)) = true) ∧
    (let s := engineOn 16 8 { et := .f32 } [(2, 0x10200)]
     VectorIssuing s { et := .f32 } ∧ engineReady s 1 = true ∧ tilesIdle s [8] ∧ ({ et := .f32 } : VType).aligned 31 = true ∧
      okAnd (readShape s 0x10200 0x10200) (fun x => storeShape x.1 0 && engineReady x.2 1 && x.2.hart.poison.isEmpty && !x.2.hart.cs.hstat.timed) = true) ∧
    (let s := withTile (engineOn 3 8 { bs := 4 } []) 7
     engineReady s 1 = true ∧ tilesIdle s [7] ∧ scaledType (opTile s.hart 7).shape.1 = true) := by
  refine ⟨⟨issuing_engineOn _ _ _ _, ?_, tilesIdle_of_empty _ _ rfl, ?_⟩, ⟨issuing_engineOn _ _ _ _, ?_, tilesIdle_of_empty _ _ rfl, ?_⟩,
    ⟨?_, tilesIdle_of_empty _ _ rfl, ?_⟩⟩ <;> decide +kernel

/-- A copy's control word for a tile, and for memory. -/
def copyControl (tile : Nat) : Word := BitVec.ofNat 64 (2 ^ 16 + 2 ^ 17 * tile)

theorem witness_EngineWordsComplete :
    (let s := withTile (withTile (engineOn 3 8 {} []) 0) 7
     VectorIssuing s {} ∧ engineReady s 1 = true ∧ 8 ≤ (8#4).toNat ∧ (7#4).toNat < 8 ∧ opTile s.hart 0 ≠ .unbound ∧
      opTile s.hart 7 ≠ .unbound) ∧
    -- a copy into t8 of an I8 and an F32 source, with the next word an MMA on t0 and t1
    (let s := withTile (withTile (engineOn 16 8 {} [(4, 0x10200), (5, copyControl 8)]) 0) 1
     let c := (hRead s.hart 5).toNat
     VectorIssuing s {} ∧ c < 2 ^ 21 ∧ c / 2 ^ 12 % 16 = 0 ∧ c.testBit 16 = true ∧ c / 2 ^ 17 % 16 = 8 ∧
      okAnd (readShape s 0x10200 0x10200) (fun x => decide (tileMode x.1.et 8 = some .plain) && tileHolds x.1 8 0 && engineReady x.2 1 &&
        decide (x.2.hart.ve.h = s.hart.ve.h) && !x.2.hart.cs.hstat.timed && okAnd (nextWord x.2) (fun y =>
          decide (y.2.hart = x.2.hart) && !regionElsewhere y.2 && decide (x.2.hart.tl.queue.length ≤ 6) &&
            (wordOp y.1 == 0x36 || wordOp y.1 == 0x37) && followWf y.1 &&
            okAnd (checkMma y.2 [8] (tileD y.1).toNat (tileA y.1).toNat (tileB y.1).toNat (wordOp y.1 == 0x37#6)) (fun _ => true))) = true) ∧
    -- a copy in memory
    (let s := engineOn 3 8 {} [(3, 0x10240), (4, 0x10200), (5, 0)]
     VectorIssuing s {} ∧ (hRead s.hart 5).toNat.testBit 16 = false ∧ okAnd (readShape s 0x10200 0x10200) (fun x =>
      okAnd (readShape x.2 0x10240 0x10200) (fun y => decide (memoryMode x.1.et y.1.et = some .plain) && x.1.count == y.1.count &&
        engineReady y.2 1 && !y.2.hart.cs.hstat.timed)) = true) ∧
    -- TWAIT behind a command
    ({ engineOn 3 8 {} [] with hart := { (engineOn 3 8 {} []).hart with tl := { queue := [{ kind := .tld 0, word := 0, qpos := 0, seq := none, expect := [], start := none, cfg := (0, 0), since := 0 }] } } } : State).hart.tl.queue ≠ [] ∧
    -- TBEGIN with quota and beyond it
    (let b := [(0x280, 16, 4096 + 10 * 2 ^ 32 + 85000 * 2 ^ 64)]
     let s := placedVectorWith b {} 4 [(2, 0x10280)]
     VectorIssuing s {} ∧ s.hart.tl.request = none ∧ s.hart.tl.queue = [] ∧ (hRead s.hart 2).toNat % 16 = 0 ∧
      okAnd (orderedRead s s.hart .other 0x10280 16) (fun x =>
        let v := x.1
        decide (x.2.hart = s.hart ∧ x.2.issue = s.issue ∧ v / 2 ^ 16 % 2 ^ 16 = 0 ∧ v / 2 ^ 96 % 2 ^ 32 = 0 ∧ 1 ≤ v % 2 ^ 16 ∧ v % 2 ^ 16 ≤ 4096 ∧
          1 ≤ v / 2 ^ 32 % 2 ^ 32 ∧ 1 ≤ v / 2 ^ 64 % 2 ^ 32 ∧ v / 2 ^ 64 % 2 ^ 32 ≤ 85000) && !exceedsQuota x.2 10 &&
          exceedsQuota { x.2 with contexts := [{ asid := 0, fn := some (some 3) }], quota := [(3, 9)] } 10) = true) ∧
    -- TEND of an open region
    (let s : State := { vectorOn {} 4 [] with hart := { (vectorOn {} 4 []).hart with
        cs := { hstat := { timed := true } }, tl := { region := some ⟨0, 4096, 10, 85000, 0, 32⟩ } } }
     s.issue.side = .vector ∧ s.hart.cs.hstat.timed = true ∧ s.hart.writes = [] ∧ s.hart.tl.region = some ⟨0, 4096, 10, 85000, 0, 32⟩ ∧
      s.hart.tl.queue = [] ∧ ∀ vf, s.fnOf s.hart.asid ≠ some (some vf)) := by
  refine ⟨⟨⟨⟨rfl, rfl, rfl, rfl, rfl⟩, rfl⟩, by decide +kernel, by decide, by decide, nofun, nofun⟩,
    ⟨⟨⟨rfl, rfl, rfl, rfl, rfl⟩, rfl⟩, by decide +kernel⟩, ⟨issuing_engineOn _ _ _ _, by decide +kernel⟩, nofun,
    ⟨issuing_placedVectorWith _ _ _ _, by decide +kernel⟩, ⟨rfl, rfl, rfl, rfl, rfl, nofun⟩⟩

theorem witness_SignatureWordsComplete :
    (let x (w : Nat) : Prop := w < 2 ^ 11 ∧ w / 32 % 8 = 0 ∧ 1 ≤ w % 32 ∧ w % 32 ≤ 16 ∧ 1 ≤ w / 256 % 8 ∧ w / 256 % 8 ≤ 4 ∧
       ((List.range (w / 256 % 8)).map (fun k => (w % 32) ^ (k + 1))).sum ≤ 65536
     x (16 + 256 * 3) ∧ ¬ x (16 + 256 * 4) ∧ ¬ x 0 ∧ ¬ x (17 + 256)) ∧
    (let s : State := { vectorOn { et := .f32 } 16 [(15, 0x10004)] with hart :=
        { (vectorOn { et := .f32 } 16 [(15, 0x10004)]).hart with tl := { cfg := (16, 3) } } }
     VectorIssuing s { et := .f32 } ∧ engineReady s 1 = true ∧ s.hart.tl.cfg ≠ (0, 0) ∧ s.hart.cs.vl = s.hart.tl.cfg.1 ∧
      ({ et := .f32 } : VType).aligned 31 = true ∧ (hRead s.hart 15).toNat % 4 = 0) := by
  refine ⟨by decide +kernel, ⟨⟨rfl, rfl, rfl, rfl, rfl⟩, rfl⟩, ?_⟩
  decide +kernel

/-! ### Fabric streams and banks: witnesses -/

/-- Rank 0 of group 1 with a binding in f7. -/
def binding (p : Pattern) (peer : BitVec 64) : FabReg :=
  { at_ := 0x10200, group := 1, gen := 0, pattern := p, op := 0, final := false, all := false, rank := 0, peer := peer, buf := none,
    src := none, counts := 0, len := if p = .a2a then 0 else 8, et := .i32, root := 0, opw := 0 }

/-- A hart of the group with these bytes and registers, and a register bound. -/
def fabricOn (b : List (Nat × Nat × Nat)) (f : Option FabReg) (l : List (Nat × Word)) : State :=
  let s := placedVectorWith b { et := .i32 } 8 l
  { s with
    hart := { s.hart with f := vset s.hart.f 7 f },
    groups := [{ id := 1, nrank := 2, asid := 0, state := .active, locals := 3, joined := 3 }] }

theorem issuing_fabricOn (b f l) : VectorIssuing (fabricOn b f l) { et := .i32 } := ⟨⟨rfl, rfl, rfl, rfl, rfl⟩, rfl⟩

theorem live_fabricOn (b l p peer) : Live (fabricOn b (some (binding p peer)) l) 7 (binding p peer) :=
  ⟨by decide, rfl, rfl, rfl, rfl, rfl⟩

/-- The machine as rank 0 of a group that is OPEN, with a well-formed record in memory: SEND of 8 I32 to rank 1, with a buffer
of 8 elements whose shape record stands at 0x10240. -/
def joinable : State :=
  let s := fabricOn [(0x200, 64, 1 + 256 ^ 8 + 0x10240 * 256 ^ 0x10 + 8 * 256 ^ 0x28 + 7 * 256 ^ 0x2C),
    (0x240, 64, 0x10400 + 7 * 256 ^ 8 + 256 ^ 9 + 8 * 256 ^ 0x10 + 256 ^ 0x28)] none [(2, 0x10200)]
  { s with groups := [{ id := 1, nrank := 2, asid := 0, state := .open_, locals := 1, joined := 2 }] }

/-- An all-to-all binding of two ranks, with the counts 3 and 2 to send at 0x10280 and the count 3 of rank 1 received. -/
def exchange : State :=
  fabricOn [(0x280, 8, 3 + 2 * 2 ^ 32)] (some { binding .a2a 0 with counts := 0x10280, got := [(1, 3)] }) []

/-- The same after its counts, with a source and a buffer of 8 elements. -/
def exchanged : FabReg :=
  let t (base : Nat) : Tsr := ⟨base, .i32, 1, false, false, [8], [1]⟩
  { binding .a2a 0 with src := some (t 0x10400), buf := some (t 0x10600), phase := .counted, sendN := [3, 2], recvN := [3, 3] }

theorem witness_FabricWordsComplete_binding :
    let s := joinable
    VectorIssuing s { et := .i32 } ∧ s.hart.cs.vprog = 0 ∧ (7#5).toNat < 8 ∧ vget s.hart.f 7 none = none ∧
      okAnd (orderedRead s s.hart .other 0x10200 64) (fun x =>
        let y := x.1 / 256 ^ 0x10 % 2 ^ 64
        let z := x.1 / 256 ^ 0x18 % 2 ^ 64
        decide (y ≠ 0 ∧ z = 0) && okAnd (loadTsrIf x.2 (y != 0) y) (fun b => okAnd (loadTsrIf b.2 (z != 0 || x.1 / 256 ^ 3 % 256 == 4) z)
          (fun c => someAnd (fsrOf x.1 0x10200) (fun f => decide (f.pattern = .send) && okAnd (checkTsr y b.1) (fun buf =>
            buf.all (bufferOk f) && okAnd (checkTsr z c.1) (fun _ =>
              okAnd (checkJoin c.2 f 0x10200) (fun _ => okAnd (orderedWrite c.2 c.2.hart .other (0x10200 + 7) 1 0) (fun w =>
                decide (w.hart = s.hart ∧ w.issue = s.issue) && (w.group f.group).held.isEmpty &&
                decide ((w.group f.group).state = .open_))))))))) = true :=
  ⟨⟨⟨rfl, rfl, rfl, rfl, rfl⟩, rfl⟩, by decide +kernel⟩

theorem witness_FabricWordsComplete_strips :
    -- FSEND to rank 1
    (let f := binding .send 1
     let s := fabricOn [] (some f) []
     VectorIssuing s { et := .i32 } ∧ Live s 7 f ∧ bindingFits s 7 { et := .i32 } = true ∧ f.sent ≤ f.pos ∧ f.peer.toNat < 64 ∧
      f.pos + min s.hart.cs.vl (f.len - f.pos) ≤ f.len ∧ f.peer.toNat ≠ f.rank ∧ (s.group f.group).locals.getLsbD f.peer.toNat = true ∧
      (takeUnit s (.fabric 0)).isSome = true ∧ (takeUnit { s with cores := [{ core := 0, portFree := 9 }] } (.fabric 0)).isNone = true) ∧
    -- FRECV without the strip's elements, and with them
    (let f := binding .recv 1
     Live (fabricOn [] (some f) []) 7 f ∧ f.mayReceive = true ∧ f.buf = none ∧ (f.results f.pos 8).isNone = true) ∧
    (let f := { binding .recv 1 with inbox := (List.range 8).map (fun i => (1, i, i)) }
     Live (fabricOn [] (some f) []) 7 f ∧ f.mayReceive = true ∧ f.buf = none ∧ (f.results f.pos 8).isSome = true) ∧
    -- FRECVOP of a reduction whose only operand is the rank's own
    (let f := binding .reduce 1
     let s := fabricOn [] (some f) []
     Live s 7 f ∧ bindingFits s 7 { et := .i32 } = true ∧ f.mayCombine = true ∧ mustSend f 0 8 = false ∧ okAnd (sendStrip (setVl s 8) 7 f (fun i => i) 0 8) (fun u =>
      decide (u.issue = s.issue ∧ u.clock = s.clock ∧ u.hart = { s.hart with cs := { s.hart.cs with vl := 8 }, f := u.hart.f }) &&
        someAnd (vget u.hart.f 7 none) (fun g =>
        g.pos == f.pos && g.stuck.isEmpty && (nextCaptured g).isNone && g.buf.isNone && (g.results f.pos 8).isSome)) = true) ∧
    -- FWAIT before and after the end of the binding
    ((binding .send 1).finished = false ∧ ({ binding .send 1 with finished := true } : FabReg).finished = true ∧
      Live (fabricOn [] (some { binding .send 1 with finished := true }) []) 7 { binding .send 1 with finished := true }) := by
  refine ⟨⟨issuing_fabricOn _ _ _, live_fabricOn _ _ _ _, ?_⟩, ⟨live_fabricOn _ _ _ _, ?_⟩, ⟨⟨by decide, rfl, rfl, rfl, rfl, rfl⟩, ?_⟩,
    ⟨live_fabricOn _ _ _ _, ?_⟩, rfl, rfl, ⟨by decide, rfl, rfl, rfl, rfl, rfl⟩⟩ <;> decide +kernel

theorem witness_FabricWordsComplete_exchange :
    (let s := exchange
     let f := { binding .a2a 0 with counts := 0x10280, got := [(1, 3)] }
     VectorIssuing s { et := .i32 } ∧ Live s 7 f ∧ bindingFits s 7 { et := .i32 } = true ∧ f.phase = .bound ∧
      someAnd (takeUnit s (.fabric 0)) (fun p => okAnd (rangeRead p p.hart .other (lineFuel 8) f.counts 8) (fun (v, u) =>
        let mine := (List.range 2).map (elem 32 v)
        okAnd (sendCounts (setFab u 7 (some { f with sendN := mine })) 7 { f with sendN := mine } mine) (fun w =>
          someAnd (fabReg w 7) (fun g => g.counts == f.counts &&
            someAnd ((List.range 2).mapM (fun r => (g.got.find? (·.1 == r)).map (·.2))) (fun got =>
              okAnd (countWrites w 7 g (entriesAt (g.counts + 256) got ++
                  entriesAt (g.counts + 512) ((List.range 2).map (fun r => (got.take r).sum)))) (fun x => x.1 &&
                okAnd (drainAll (setFab x.2 7 ((fabReg x.2 7).map (fun f => { f with recvN := got, phase := .counted }))) 7)
                  (fun _ => true))))))) = true) ∧
    (let f := exchanged
     let s := fabricOn [] (some f) []
     Live s 7 f ∧ bindingFits s 7 { et := .i32 } = true ∧ f.phase = .counted ∧ someAnd f.src (fun src =>
      decide (src.et.width = f.et.width ∧ f.sendN.sum ≤ src.count ∧ f.recvN.sum ≤ (f.buf.map Tsr.count).getD 0) &&
      (List.range f.sendN.length).any (fun j => j != f.rank && a2aPart f 0 f.sendN.sum j) &&
      someAnd (takeUnit s (.fabric 0)) (fun p => okAnd (readSource src (List.range f.sendN.sum) p) (fun (l, x, u) => x.isNone && decide (fabReg u 7 = some f) &&
        okAnd ((List.range f.sendN.length).foldlM (fun s j => sendPayloads s 7 f j (partFor f 0 l j))
          (setFab u 7 (some { f with sent := l.length }))) (fun _ => true)))) = true) :=
  ⟨⟨issuing_fabricOn _ _ _, ⟨by decide, rfl, rfl, rfl, rfl, rfl⟩, by decide +kernel⟩, ⟨⟨by decide, rfl, rfl, rfl, rfl, rfl⟩, by decide +kernel⟩⟩

theorem witness_BankWordsComplete :
    (let s := streamOf .i32 0x10000 8 []
     VectorIssuing s { et := .i32 } ∧ s.hart.cs.vprog = 0 ∧ (15#5).toNat < 16 ∧ fits s { et := .i32 } 31 2 4 0 = true ∧
      (s.core s.hart.place.core).island = .on ∧ (s.core s.hart.place.core).fifo.length < 16 ∧ s.hart.cs.vl ≤ 64 ∧ unreached s s.hart.uid = false ∧
      (takeUnit s (.fifo 0)).isSome = true ∧ addTarget .i32 = true ∧
      someAnd (vget s.hart.q 15 none) (fun x => x.tsr.et.width == 32 &&
        walksTo s (fun s' i => gatherItem s' 32 (((8 * x.tsr.base + 32 * source s { et := .i32 } 4 i : Nat) : Int))) 8 &&
        walksTo s (fun s' i => scatterItem s' 32 (((8 * x.tsr.base + 32 * source s { et := .i32 } 4 i : Nat) : Int)) 5) 8 &&
        walksTo s (fun s' i => pushPair s' .i32 false (((8 * x.tsr.base + 32 * source s { et := .i32 } 4 i : Nat) : Int)) 5) 8) = true) ∧
    -- a target of F32 for BF16 data, an island that is not ON with no active element, and BLAT's columns
    (addTarget .f32 = true ∧ isActive (vectorOn {} 4 []).hart 1 3 = false ∧
      State.reset.product.cores - 1 < State.reset.product.cores ∧ State.reset.product.cores ≤ State.reset.product.cores) :=
  ⟨⟨issuing_streamOf _ _ _ _, by decide +kernel⟩, by decide +kernel⟩

/-! ### Registers and events of the device: witnesses -/

/-- The device after Dawn. -/
def ready (s : State) : State := { s with hub := { s.hub with devrdy := true, dawn := .ready } }

/-- Queue 3 with a ring of 16 entries at 0x10800. -/
def ring (st : QueueState) : Queue := { n := 3, base := 0x10800, tail := 1, asid := 0, state := st }

theorem witness_DeviceRegistersTakeTheirFields :
    (scalarOn.hart.resident = true ∧ csrPriv levelOne.hart.cs.hstat.hl 0x003 true = false) ∧
    ((23 : Nat) < 24 ∧ (1023 : Nat) < 1024 ∧ (4095 : Nat) < 4096 ∧ (ready State.reset).hub.devrdy = true ∧ State.reset.hub.devrdy = false) ∧
    (let s := ready State.reset
     (s.queue 4095).head = (s.queue 4095).tail ∧ s.queueHarts 4095 = [] ∧ 4 ≤ (16 : Word).toNat % 32 ∧ (16 : Word).toNat % 32 ≤ 16 ∧
      ((16 : Word).setWidth 32 - (s.queue 4095).head).toNat ≤ 2 ^ (s.queue 4095).log2 ∧
      2 ^ (s.queue 4095).log2 < ((17 : Word).setWidth 32 - (s.queue 4095).head).toNat) ∧
    ({ ready State.reset with queues := [ring .bound] } : State).queue 3 = ring .bound ∧ (ring .bound).head ≠ (ring .bound).tail ∧
    (State.reset.product.cores / 64 - 1 < State.reset.product.cores / 64 ∧ (15 : Nat) < 16 ∧ (3 : Nat) < 4) ∧
    (formatRange (vset (Vector.replicate 4 0) 0 0xFFFF0000) = none ∧
      (formatRange (vset (vset (Vector.replicate 4 0) 1 0x10000) 2 0x8000010B)).isSome = true) ∧
    ([0, 23].Nodup ∧ (({ State.reset with links := vset State.reset.links 23 { state := .degraded } } : State).link 23).state = .degraded) := by
  decide +kernel

/-- A context that runs, and queue 3 with an entry that starts the launch at 0x10400. -/
def queued3 (st : QueueState) (entry : Nat) : State :=
  let s := placedWith ((0x800, 64, entry) :: records) []
  { ready s with queues := [ring st] }

/-- A launch of one unit, taken, on a core with a bind record for its queue. -/
def placeable : State :=
  let s := ready (placed [])
  { s with
    queues := [ring .bound],
    launches := [{ handle := 0x10480, asid := 0, queue := 3, code := 0x10000, handler := 0, args := 7, spill := 0, stack := 0,
                   affinity := 0, stride := 0, units := 1, energy := 0, dur := 0, spad := 0, csm := 0, chip := 0, split := 0,
                   place := 0, ups := [], taken := true }],
    cores := [{ core := 255, binds := [⟨0, true, 1, 0, 3⟩], lanemap := BitVec.allOnes 32 }] }

/-- A hart that is Ending and has nothing left to do, and its launch's counter. -/
def ending : State :=
  let s := placedWith records []
  { s with parked := [{ s.hart with life := .ending, launch := 0x10480, place := ⟨1, 0, 0⟩, ve := {} }] }

/-- A graph of two nodes with a token at node 0: an END node, or a condition. -/
def graphOn (kind arg : Nat) : State × Graph :=
  let g : Graph := { counter := 0x10490, asid := 0, queue := 3, nodes := 2, array := 0x10600, ups := [], tokens := [0], taken := true }
  ({ placedWith ((0x600, 32, kind + 1 * 256 ^ 2 + 1 * 256 ^ 4 + arg * 256 ^ 8) :: records) [] with graphs := [g] }, g)

def arbitrated : State := { State.reset with
  arbiters := [{ arb := .array 5, order := [3, 4], deficit := [(3, 100)] }], cores := [{ core := 5, binds := [⟨0, true, 1, 0, 3⟩] }] }

theorem witness_QueueEventsTakeEffect :
    (let s := ready State.reset
     (4095 : Nat) < 4096 ∧ s.hub.devrdy = true ∧ (s.queue 4095).susp = false ∧ s.queueHarts 4095 = [] ∧ (s.queue 4095).drain ≠ true) ∧
    (let s : State := { ready State.reset with queues := [{ n := 3, susp := true, state := .suspended }] }
     s.queueHarts 3 = [] ∧ (s.queue 3).susp = true) ∧
    (let s : State := { State.reset with queues := [{ ring .draining with drain := true, head := 1, dtail := 1 }] }
     (s.queue 3).state = .draining ∧ (s.queue 3).head = (s.queue 3).dtail ∧ entriesEnded s 3 = true) ∧
    (State.reset.product.cores - 1 < State.reset.product.cores ∧ (31 : Nat) < 32) ∧
    -- ring entries: one that does nothing, a launch, a graph, a reserved kind; in a queue that drains too
    (∀ st ∈ [QueueState.bound, .draining], ∀ entry ∈ [0, 1 + 0x10400 * 2 ^ 64, 2 + 0x104C0 * 2 ^ 64, 3],
     let s := { queued3 st entry with queues := [{ ring st with dtail := 1 }] }
     let x := s.queue 3
     mayTake s 3 = true ∧ x.device = [] ∧ x.head ≠ (if x.state = .draining then x.dtail else x.tail) ∧
      okAnd (hubRead s x.asid (x.base.toNat + 64 * (x.head.toNat % 2 ^ x.log2)) 64) (fun (v, u) =>
        v == entry && decide (v < 2 ^ 512) && (v % 256 == 0 || v % 256 == 3 || okAnd (startRecord
          (u.mapQueue 3 (fun y => { y with head := y.head + 1 })) 3 x.asid (v % 256) (BitVec.ofNat 64 (v / 2 ^ 64 % 2 ^ 64)))
          (fun _ => true))) = true) ∧
    (let s := { queued3 .bound 0 with queues := [{ ring .bound with device := [⟨false, 0x10480⟩] }] }
     mayTake s 3 = true ∧ (s.queue 3).device = ⟨false, 0x10480⟩ :: [] ∧
      okAnd (chainCancelled (s.mapQueue 3 (fun y => { y with device := y.device.drop 1 })) 0 0x10480) (fun x => !x.1) = true) := by
  refine ⟨by decide +kernel, by decide +kernel, by decide +kernel, by decide, ?_, by decide +kernel⟩
  intro st hst e he
  simp only [List.mem_cons, List.not_mem_nil, or_false] at hst he
  rcases hst with rfl | rfl <;> rcases he with rfl | rfl | rfl | rfl <;> decide +kernel

theorem witness_QueueEventsTakeEffect_units :
    (let s := placeable
     someAnd s.launches.head? (fun l => decide (s.launches.find? (fun y => y.handle == l.handle && y.asid == l.asid && mayPlace s y) = some l ∧ l.place = 0 ∧
       (s.core 255).island = .on ∧ l.handle = BitVec.ofNat 64 l.handle.toNat) && decide (choosePlace s l l.placed (fun _ => true) = some ⟨255, 0, 0⟩)) = true) ∧
    someAnd (ending.focus ⟨1, 0, 0⟩) (fun t => mayFree t && !frozenOut t && decide (t.hart.f = Vector.replicate 8 none) &&
      okAnd (unitEnded t.freeHart t.hart.asid t.hart.launch) (fun _ => true)) = true ∧
    (let (s, g) := graphOn 5 0
     s.graphs.find? (fun z => z.counter == g.counter && z.asid == g.asid && z.taken) = some g ∧ g.tokens[0]? = some 0 ∧
      okAnd (hubRead s g.asid g.array.toNat 32) (fun (v, u) => someAnd (nodeFields v) (fun y => okAnd (tokenAt u g 0 0 y) (fun _ => true))) = true) ∧
    (let (s, g) := graphOn 2 0x10700
     okAnd (hubRead s g.asid g.array.toNat 32) (fun (v, u) => someAnd (nodeFields v) (fun y => y.kind == 2 &&
       okAnd (nodeWord u g.asid y.arg (fun v => v)) (fun (c, _) => successorOk g.nodes (if c = 0 then y.alt else y.next)))) = true) ∧
    (let s := arbitrated
     (arbiter s (.array 5)).order = 3 :: [4] ∧ (4 : Nat) ∈ (arbiter s (.array 5)).order ∧
      (let credit : Int := (arbiter s (.array 5)).deficitOf 3 + (quantum s (.array 5) 3 : Int)
       0 < credit ∧ ¬ (true = true ∧ 0 < credit - 356))) := by
  decide +kernel

/-! ### Contexts, harts and engines between words: witnesses -/

def contextIn (st : CtxState) : State :=
  { placed [] with contexts := [{ asid := 0, fn := some (some 5), root := 0x100000, state := st }], vfs := [5], quota := [(5, 1000)] }

/-- A Halted hart at core 1 of a context that is being saved. -/
def saving : State :=
  let s := contextIn .halting
  { s with parked := [{ s.hart with life := .haltedRunning, place := ⟨1, 0, 0⟩ }], hart := {} }

theorem witness_ContextEventsTakeEffect :
    ((placed []).ctx? 4095 = none ∧ (4095 : Nat) < 4096 ∧ (0x0000FFFFFFF00000 : Word).toNat % 2 ^ 20 = 0 ∧
      (0x0000FFFFFFF00000 : Word).toNat < 2 ^ 48 ∧ (0x0000FFFFFFF00001 : Word).toNat % 2 ^ 20 ≠ 0 ∧ 2 ^ 48 ≤ (0x0001000000000000 : Word).toNat) ∧
    (∀ st : CtxState, someAnd ((contextIn st).ctx? 0) (fun c => decide (c.state = st) && c.held.isEmpty) = true ∧
      (contextIn st).exhausted 0 = false ∧ heldSuspended (contextIn st) 0 = false) ∧
    okAnd (continueResume ((contextIn .saved).mapCtx 0 (fun c => { c with state := .resuming })) 0) (fun _ => true) = true ∧
    ({ contextIn .saved with quota := [(5, 0)] } : State).exhausted 0 = true ∧
    someAnd (saving.focusBy (fun h => h.place == ⟨1, 0, 0⟩ && h.halted && !h.saved)) (fun t => maySave t t.hart && t.hart.asid == 0 &&
      someAnd (t.ctx? 0) (fun c => decide (c.state = .halting)) && t.parked.all (fun h => h.asid != 0 || (h.halted && h.saved))) = true ∧
    -- a resume of a RUNNING context whose halted hart is not yet saved, and one whose hart is
    (let s := contextIn .running
     let t := { s with hart := { s.hart with life := .haltedRunning } }
     let u := { s with hart := { s.hart with life := .haltedRunning, saved := true } }
     mayResume t 0 = true ∧ partReady t 0 = false ∧ t.harts.any (fun h => h.asid == 0 && h.halted) = true ∧ partReady u 0 = true ∧
      okAnd (restoreContext (seatAll u 0) 0) (fun _ => true) = true) ∧
    okAnd (cancelLevel (placedWith records []) hubCore 0 (BitVec.ofNat 64 0x10480)) (fun _ => true) = true ∧
    -- functions: the last VF disabled and one enabled, quotas that stay negative and become positive, and a reset
    (let s := contextIn .running
     1023 ∉ s.vfs ∧ (s.harts.all (fun h => s.fnOf h.asid != some (some 1023) || !h.resident)) = true ∧ 5 ∈ s.vfs) ∧
    (let s := ready (contextIn .saved)
     (s.left 5 : Int) + (3 : Word).toInt * 1000 ≤ 2 ^ 63 * 1000 - 1 ∧ 0 < (s.left 5 : Int) + (3 : Word).toInt * 1000 ∧
      (s.left 5 : Int) + (-3 : Word).toInt * 1000 ≤ 0 ∧ -(2 ^ 63 * 1000 : Int) ≤ (s.left 5 : Int) + (-3 : Word).toInt * 1000 ∧
      okAnd (eachOf State.resumeContext (quotaSaved s 5) s) (fun _ => true) = true ∧
      okAnd (eachOf cancelContext ((s.contexts.filter (fun c => c.fn == some (some 5))).map (·.asid)) s) (fun _ => true) = true) := by
  refine ⟨by decide +kernel, fun st => ?_, by decide +kernel, by decide +kernel, by decide +kernel, by decide +kernel, by decide +kernel,
    by decide +kernel, by decide +kernel⟩
  cases st <;> decide +kernel

/-- The hart at a place changed. -/
def hartAt (f : Hart → Hart) : State := let s := placed []; { s with hart := f s.hart }

def focused (s : State) (p : State → Bool) : Bool := someAnd (s.focus ⟨0, 0, 0⟩) (fun t => !frozenOut t && p t)

theorem witness_HartEventsTakeEffect :
    focused (hartAt (fun h => { h with ve := { blockQ := [⟨0x10000, 3, 1, 2, 3, 4, 0⟩] } }))
      (fun t => !t.hart.cs.hstat.hl && t.hart.ve.block.isNone && t.hart.ve.blockQ.length == 1) = true ∧
    focused (hartAt (fun h => { h with cs := { hstat := { ie := true } }, irqs := [{ code := 0x41 }, { code := 0x40 }] }))
      (fun t => t.hart.cs.hstat.ie && !t.hart.cs.hstat.hl && t.hart.irqs.contains { code := 0x40 } &&
        t.hart.irqs.all (fun y => y == { code := 0x40 } || decide ((0x40 : BitVec 8) < y.code)) && !waitsHere t.hart &&
        !(vectorDone t.hart && !t.hart.tl.faults.isEmpty)) = true ∧
    focused (hartAt (fun h => { h with life := .ending, ve := {}, tl := { faults := [({ code := 0x10 }, none)] } }))
      (fun t => vectorDone t.hart && t.hart.tl.faults.length == 1) = true ∧
    focused (hartAt (fun h => { h with sc := { h.sc with wait0 := some ⟨0x10000, 31, 0, some 0, true⟩ } }))
      (fun t => someAnd (waitRecord t.hart) (fun w => w.live && w.addr == t.hart.sc.pc && w.deadline == some t.clock && w.d == (31#5).toNat) &&
        t.hart.writes.isEmpty && !t.hart.cs.hstat.timed && t.hart.poison.isEmpty) = true := by decide +kernel

/-- An engine command. -/
def command (k : CmdKind) (start : Option Nat) (st : CmdState) (progress : Nat) : EngCmd :=
  { kind := k, word := 0, qpos := 0, seq := if k.tiles = [] then none else some 0, expect := k.readTiles.map (fun x => (x, 0)), start := start,
    state := st, progress := progress, cfg := (2, 2) }

def withQueue (l : List EngCmd) (r : Option Region) : State :=
  hartAt (fun h => { h with tl := { queue := l, next := 1, cfg := (2, 2), region := r } })

/-- The same inside a region, while the page moves. -/
def withQueueHeld (l : List EngCmd) : State :=
  let s := withQueue l (some ⟨0, 100, 10, 85000, 0, 32⟩)
  { s with hart := { s.hart with cs := { s.hart.cs with hstat := { timed := true } } },
           moves := [{ asid := 0, base := 0x10000, bits := 16, at_ := 0x400008, frame := 0x1000000, leaf := 0, phase := .hold }] }

/-- Two harts of a core with a command each: queue 4 holds the array's turn. -/
def contended (order : List Nat) (d : Int) : State :=
  let s := withQueue [command (.sigInit 8) none .waiting 0] none
  let h : Hart := { s.hart with queue := 0 }
  let other : Hart := { h with uid := 1, queue := 4, place := ⟨0, 1, 0⟩ }
  { s with hart := h, parked := other :: s.parked, cores := [{ core := 0, binds := [⟨0, true, 1, 0, 0⟩, ⟨4, true, 1, 0, 4⟩] }],
           arbiters := [{ arb := .array 0, order := order, deficit := [(4, d), (0, d)] }] }

/-- The turn at the array's arbiter stays where it is, passes on because it is in overdraft, or because it has no ready request. -/
theorem witness_QueueEventsTakeEffect_arbiters :
    (let s := contended [4, 0] 100
     let ready := readyQueues s (.array 0)
     (arbiter s (.array 0)).order = 4 :: [0] ∧ 4 ∈ ready ∧ 0 < (arbiter s (.array 0)).deficitOf 4) ∧
    (∀ h ∈ [4, 7], let s := contended [h, 0] (-100)
     let ready := readyQueues s (.array 0)
     let a := arbiter s (.array 0)
     a.order = h :: [0] ∧ (h ∉ ready ∨ a.deficitOf h ≤ 0) ∧ ([0] ++ [h]).find? ready.contains = some 0 ∧
       0 < (if 0 = h ∧ h ∉ ready ∧ 0 < a.deficitOf h then 0 else a.deficitOf 0) + (quantum s (.array 0) 0 : Int)) := by decide +kernel

theorem witness_EngineEventsTakeEffect_commands :
    -- a start, with its turn and without it, a step that goes on and one that faults, a completion
    focused (withQueue [command (.sigLd 8 0x10400) none .waiting 0] none) (fun t => someAnd t.hart.tl.queue[0]? (fun c =>
      !c.running && c.start.isNone && mayStart t (t.hart.tl.queue.take 0) c && decide (c.kind.unit ≠ .array) &&
        (engineTurn t c).isSome)) = true ∧
    focused (contended [4, 0] 100) (fun t => someAnd t.hart.tl.queue[0]? (fun c =>
      !c.running && c.start.isNone && mayStart t (t.hart.tl.queue.take 0) c && (engineTurn t c).isNone)) = true ∧
    -- a step in a region that waits for a page's move, of a command that is never late and of one that can be
    focused (withQueueHeld [command (.sigLd 8 0x10400) (some 0) (.running 0) 0]) (fun t => someAnd t.hart.tl.queue[0]? (fun c =>
      c.running && decide (c.progress < c.steps t.hart) && (columnMayBeLate t c).isNone && t.hart.cs.hstat.timed && neverLate c &&
      (match commandStep t c with
        | .stop .wait => true
        | _ => false))) = true ∧
    focused (withQueueHeld [command (.copyMem ⟨0x10400, .i32, 1, false, false, [8], [1]⟩ 0 ⟨0x10600, .i32, 1, false, false, [8], [1]⟩) (some 0) (.running 0) 0])
      (fun t => someAnd t.hart.tl.queue[0]? (fun c =>
      c.running && decide (c.progress < c.steps t.hart) && (columnMayBeLate t c).isNone && t.hart.cs.hstat.timed && !neverLate c &&
      (match commandStep t c with
        | .stop .wait => true
        | _ => false))) = true ∧
    focused (withQueue [command (.sigInit 8) none (.running 0) 0] none) (fun t => someAnd t.hart.tl.queue[0]? (fun c =>
      c.running && decide (c.progress < c.steps t.hart) && !t.hart.cs.hstat.timed && (match commandStep t c with
        | .done _ _ => true
        | _ => false))) = true ∧
    focused (withQueue [command (.sigLd 8 0x20000) none (.running 0) 0] none) (fun t => someAnd t.hart.tl.queue[0]? (fun c =>
      c.running && decide (c.progress < c.steps t.hart) && (match commandStep t c with
        | .fault _ _ _ => true
        | _ => false))) = true ∧
    focused (withQueue [command (.sigInit 8) none (.running 0) 1000] none) (fun t => someAnd t.hart.tl.queue[0]? (fun c =>
      c.running && decide (c.steps t.hart ≤ c.progress) && completionDue t c && !commandHeld t c)) = true ∧
    -- a command of a region that starts at its cycle, and one whose tile is not yet written
    focused (withQueue [command (.mma 8 0 1 true 0 false [] []) (some 0) .waiting 0] (some ⟨0, 100, 10, 85000, 0, 32⟩)) (fun t =>
      someAnd t.hart.tl.queue[0]? (fun c => c.start == some 0 && !c.running && (timedChecks t 0 c).isNone)) = true ∧
    focused (withQueue [command (.mma 8 0 1 true 0 false [] []) (some 0) (.running 0) 0, command (.mma 8 0 1 true 0 false [] []) (some 0) .waiting 0]
        (some ⟨0, 100, 10, 85000, 0, 32⟩)) (fun t =>
      someAnd t.hart.tl.queue[1]? (fun c => c.start == some 0 && !c.running && (timedChecks t 1 c).isSome)) = true ∧
    -- a grant, an overrun, and a stream that runs ahead
    focused (let s := hartAt (fun h => { h with ve := { h.ve with block := some ⟨0x10000, 0⟩ }, tl := { request := some ⟨0x10000, 0, 3, false, 0, 100, 10, 85000, true⟩ } }); { s with noon := vset s.noon 0 85000 })
      (fun t => someAnd t.hart.tl.request (grantable t) && mayIssue t.hart .vector && t.hart.tl.faults.isEmpty &&
        decide (t.fnOf t.hart.asid = some none)) = true ∧
    focused (let s := withQueue [] (some ⟨0, 100, 10, 85000, 0, 32⟩); { s with clock := 100 })
      (fun t => someAnd t.hart.tl.region (fun r => decide (r.start + r.len ≤ t.clock))) = true ∧
    (∀ base ∈ [0x10000, 0x20000], someAnd ((streamOf .i32 base 8 []).focus ⟨0, 0, 0⟩) (fun t => someAnd (vget t.hart.q 15 none) (fun x =>
      let p := x.pos + 7
      !x.tsr.noahead && decide (p < x.tsr.count ∧ 0 ≤ x.tsr.bitAddr p ∧ x.tsr.bitAddr p < 2 ^ 59) && x.ahead.isEmpty &&
      (walkedEntry t t.hart.place.core t.hart.asid (x.tsr.bitAddr p / 8).toNat).isSome == (base == 0x10000))) = true) := by decide +kernel

/-- A core whose query context 0 runs, with its graph in memory: one node without neighbours, or one that faults. -/
def walking (graph : Nat) (x : QueryCtx → QueryCtx) (life : Life) : State :=
  let s := stored (queryIn .running 0) [(0x600, 8, 0x10700)]
  let d := (queryDesc (query.map (fun x => x.2.2)).sum).getD default
  { s with hart := { s.hart with life := life },
           cores := [{ core := 0, queries := [x { n := 0, uid := 0, asid := 0, desc := { d with graph := graph }, state := .running }] }] }

theorem witness_WalkEventsTakeEffect :
    -- the entry's node has to be read, from memory or where that faults
    (let s := walking 0x10600 id .running
     someAnd (queryAt s 0 0) (fun x => decide (x.state = .running) && !x.reclaimed && someAnd (s.harts.find? (fun h => h.uid == x.uid &&
      (h.resident || (h.halted && !x.fetched.isEmpty)))) (fun h =>
      match walkMove x with
      | .reads _ va k => okAnd (pointRead s h .other va k) (fun _ => true)
      | _ => false)) = true) ∧
    (let s := walking 0x20000 id .running
     someAnd (queryAt s 0 0) (fun x => someAnd (s.harts.find? (fun h => h.uid == x.uid && h.resident)) (fun h =>
      match walkMove x with
      | .reads y va k => (match pointRead s h .other va k with
        | .error (.trap t) => okAnd (endWalk (noteWalk s t) h y .fault t.val) (fun _ => true)
        | _ => false)
      | _ => false)) = true) ∧
    -- a step that goes on, of a walk that is paused too, and one that ends the walk
    (∀ life ∈ [Life.running, .haltedRunning],
     let s := walking 0x10600 (fun x => { x with begun := true, pending := [(0, ⟨0, 0, true⟩)], visited := [0], fetched := [(0x10600, 128, 0)] }) life
     someAnd (queryAt s 0 0) (fun x => x.begun && x.pending == [(0, ⟨0, 0, true⟩)] && x.visited.contains 0 && !x.reclaimed &&
      (s.harts.find? (fun h => h.uid == x.uid && (h.resident || (h.halted && !x.fetched.isEmpty)))).isSome && (match walkMove x with
      | .goOn _ => true
      | _ => false)) = true) ∧
    (let s := walking 0x10600 (fun x => { x with begun := true }) .running
     someAnd (queryAt s 0 0) (fun x => x.begun && x.pending.isEmpty && x.cand.isEmpty && someAnd (s.harts.find? (fun h => h.uid == x.uid)) (fun h =>
      (match walkMove x with
      | .ended y st fa => okAnd (endWalk s h y st fa) (fun _ => true)
      | _ => false) && okAnd (endWalk s h x (if x.best.length < x.desc.k then .partial_ else .complete) 0) (fun _ => true))) = true) ∧
    -- a walk that is reclaimed, and one that starts again
    (let s := walking 0x10600 id .haltedRunning
     someAnd (queryAt s 0 0) (fun x => x.fetched.isEmpty) = true ∧ s.harts.any (fun h => h.uid == 0 && h.halted) = true ∧
      s.harts.all (fun h => h.uid != 0 || !h.resident) = true) ∧
    (let s := walking 0x10600 (fun x => { x with reclaimed := true }) .running
     someAnd (stepTarget s 0 0) (fun y => decide (y.state = .running) && y.reclaimed && s.harts.any (fun h => h.uid == y.uid && h.resident)) = true) := by
  decide +kernel

/-! ### Power, pages, the host, links and groups: witnesses -/

theorem memRead_zero (m : Memory) (a : Nat) : ∀ n, (∀ i < n, memByte m (a + i) = 0) → memRead m a n = 0
  | 0, _ => rfl
  | n + 1, h => by
    rw [memRead, memRead_zero m a n (fun i hi => h i (by omega)), h n (by omega)]
    simp

/-- The cells of the page's table entries. -/
def tableCells : Memory :=
  [(0x100000, 0x01), (0x100002, 0x20), (0x200000, 0x01), (0x200002, 0x30), (0x300000, 0x01), (0x300002, 0x40), (0x400008, 0x7F), (0x40000B, 0x01)]

theorem placed_mem (l) : (placed l).mem = tableCells := by
  have h : (placeWord State.reset 0).mem = tableCells := by decide +kernel
  exact h

theorem tableCells_gap (a : Nat) (h : 0x100003 ≤ a ∧ a < 0x200000 ∨ 0x200003 ≤ a ∧ a < 0x300000 ∨ 0x300003 ≤ a ∧ a < 0x400008 ∨ 0x40000C ≤ a) :
    memByte tableCells a = 0 := by
  have e : ∀ k : Nat, ∀ b m, memByte ((k, b) :: m) a = if a < k then 0 else if a = k then b else memByte m a := fun _ _ _ => rfl
  simp only [tableCells, e]
  rcases h with h | h | h | h <;> ((repeat first | rw [if_pos (by omega)] | rw [if_neg (by omega)]); try rfl)

theorem flatMap_range_one {α : Type} (f : Nat → List α) (k n : Nat) (hk : k < n) (h : ∀ i < n, i ≠ k → f i = []) :
    (List.range n).flatMap f = f k := by
  induction n with
  | zero => omega
  | succ n ih =>
    rw [List.range_succ, List.flatMap_append]
    simp only [List.flatMap_cons, List.flatMap_nil, List.append_nil]
    by_cases e : k = n
    · subst e
      have : (List.range k).flatMap f = [] := by
        rw [List.flatMap_eq_nil_iff]
        exact fun i hi => h i (by have := List.mem_range.mp hi; omega) (by have := List.mem_range.mp hi; omega)
      rw [this, List.nil_append]
    · rw [ih (by omega) (fun i hi hne => h i (by omega) hne), h n (by omega) (by omega), List.append_nil]

/-- A table in which one entry at most is not 0 has the pages of that entry. -/
theorem leavesFrom_one (s : State) (asid lo n : Nat) (rest : List (Nat × Nat)) (table va k : Nat) (hk : k < 2 ^ n)
    (h : ∀ i < 2 ^ n, i ≠ k → memRead s.mem (table + 8 * i) 8 = 0) :
    leavesFrom s asid ((lo, n) :: rest) table va =
      (let at_ := table + 8 * k
       let e := BitVec.ofNat 64 (memRead s.mem at_ 8)
       if !physExists s.product at_ || !entryV e then []
       else if entryLeaf e then (if lo != 39 && leafWf s.product lo e then [⟨asid, va + k * 2 ^ lo, at_, lo, e⟩] else [])
       else leavesFrom s asid rest (entryField e 8 40 * 2 ^ 8) (va + k * 2 ^ lo)) := by
  rw [leavesFrom]
  refine flatMap_range_one _ k _ hk (fun i hi hne => ?_)
  simp only [h i hi hne]
  simp [entryV]

theorem tablesFrom_one (s : State) (lo n : Nat) (rest : List (Nat × Nat)) (table k : Nat) (hk : k < 2 ^ n)
    (h : ∀ i < 2 ^ n, i ≠ k → memRead s.mem (table + 8 * i) 8 = 0) :
    tablesFrom s ((lo, n) :: rest) table = (table, 8 * 2 ^ n) ::
      (let e := BitVec.ofNat 64 (memRead s.mem (table + 8 * k) 8)
       if !physExists s.product (table + 8 * k) || !entryV e || entryLeaf e then [] else tablesFrom s rest (entryField e 8 40 * 2 ^ 8)) := by
  rw [tablesFrom]
  congr 1
  refine flatMap_range_one _ k _ hk (fun i hi hne => ?_)
  simp only [h i hi hne]
  simp [entryV]

/-- A state whose one context has the page's tables. -/
structure OnePage (s : State) : Prop where
  mem : s.mem = tableCells
  product : s.product = .package9404
  ctx : s.contexts.map (fun c => (c.asid, c.root)) = [(0, 0x100000)]

/-- The page. -/
def thePage : Leaf := ⟨0, 0x10000, 0x400008, 16, 0x100007F⟩

theorem onePage_gap {s : State} (o : OnePage s) (a : Nat) (h : 0x100003 ≤ a ∧ a + 8 ≤ 0x200000 ∨ 0x200003 ≤ a ∧ a + 8 ≤ 0x300000 ∨
    0x300003 ≤ a ∧ a + 8 ≤ 0x400008 ∨ 0x40000C ≤ a) : memRead s.mem a 8 = 0 :=
  memRead_zero _ _ _ (fun i hi => by rw [o.mem]; exact tableCells_gap _ (by omega))

theorem onePage_reads {s : State} (o : OnePage s) : memRead s.mem (0x100000 + 8 * 0) 8 = 0x200001 ∧
    memRead s.mem (0x200000 + 8 * 0) 8 = 0x300001 ∧ memRead s.mem (0x300000 + 8 * 0) 8 = 0x400001 ∧
    memRead s.mem (0x400000 + 8 * 1) 8 = 0x100007F := by
  rw [o.mem]; decide +kernel

theorem onePage_leaves {s : State} (o : OnePage s) (asid : Nat) :
    leavesFrom s asid walkLevels 0x100000 0 = [⟨asid, 0x10000, 0x400008, 16, 0x100007F⟩] := by
  obtain ⟨r1, r2, r3, r4⟩ := onePage_reads o
  have s1 := leavesFrom_one s asid 39 17 [(30, 9), (21, 9), (16, 5)] 0x100000 0 0 (Nat.two_pow_pos 17)
    (fun i hi hne => onePage_gap o _ (by omega))
  have s2 := leavesFrom_one s asid 30 9 [(21, 9), (16, 5)] 0x200000 0 0 (Nat.two_pow_pos 9) (fun i hi hne => onePage_gap o _ (by omega))
  have s3 := leavesFrom_one s asid 21 9 [(16, 5)] 0x300000 0 0 (Nat.two_pow_pos 9) (fun i hi hne => onePage_gap o _ (by omega))
  have s4 := leavesFrom_one s asid 16 5 [] 0x400000 0 1 (by norm_num) (fun i hi hne => onePage_gap o _ (by omega))
  have t1 : leavesFrom s asid [(39, 17), (30, 9), (21, 9), (16, 5)] 0x100000 0 =
      leavesFrom s asid [(30, 9), (21, 9), (16, 5)] 0x200000 0 := by rw [s1]; simp only [r1, o.product]; rfl
  have t2 : leavesFrom s asid [(30, 9), (21, 9), (16, 5)] 0x200000 0 = leavesFrom s asid [(21, 9), (16, 5)] 0x300000 0 := by
    rw [s2]; simp only [r2, o.product]; rfl
  have t3 : leavesFrom s asid [(21, 9), (16, 5)] 0x300000 0 = leavesFrom s asid [(16, 5)] 0x400000 0 := by
    rw [s3]; simp only [r3, o.product]; rfl
  refine (t1.trans (t2.trans t3)).trans (s4.trans ?_)
  simp only [r4, o.product]
  rfl

theorem onePage_tables {s : State} (o : OnePage s) : tablesFrom s walkLevels 0x100000 =
    [(0x100000, 8 * 2 ^ 17), (0x200000, 8 * 2 ^ 9), (0x300000, 8 * 2 ^ 9), (0x400000, 8 * 2 ^ 5)] := by
  obtain ⟨r1, r2, r3, r4⟩ := onePage_reads o
  have s1 := tablesFrom_one s 39 17 [(30, 9), (21, 9), (16, 5)] 0x100000 0 (Nat.two_pow_pos 17)
    (fun i hi hne => onePage_gap o _ (by omega))
  have s2 := tablesFrom_one s 30 9 [(21, 9), (16, 5)] 0x200000 0 (Nat.two_pow_pos 9) (fun i hi hne => onePage_gap o _ (by omega))
  have s3 := tablesFrom_one s 21 9 [(16, 5)] 0x300000 0 (Nat.two_pow_pos 9) (fun i hi hne => onePage_gap o _ (by omega))
  have s4 := tablesFrom_one s 16 5 [] 0x400000 1 (by norm_num) (fun i hi hne => onePage_gap o _ (by omega))
  have t1 : tablesFrom s [(39, 17), (30, 9), (21, 9), (16, 5)] 0x100000 =
      (0x100000, 8 * 2 ^ 17) :: tablesFrom s [(30, 9), (21, 9), (16, 5)] 0x200000 := by rw [s1]; simp only [r1, o.product]; rfl
  have t2 : tablesFrom s [(30, 9), (21, 9), (16, 5)] 0x200000 = (0x200000, 8 * 2 ^ 9) :: tablesFrom s [(21, 9), (16, 5)] 0x300000 := by
    rw [s2]; simp only [r2, o.product]; rfl
  have t3 : tablesFrom s [(21, 9), (16, 5)] 0x300000 = (0x300000, 8 * 2 ^ 9) :: tablesFrom s [(16, 5)] 0x400000 := by
    rw [s3]; simp only [r3, o.product]; rfl
  have t4 : tablesFrom s [(16, 5)] 0x400000 = [(0x400000, 8 * 2 ^ 5)] := by rw [s4]; simp only [r4, o.product]; rfl
  exact t1.trans (by rw [t2, t3, t4])

theorem onePage_allLeaves {s : State} (o : OnePage s) : allLeaves s = [thePage] := by
  have h : allLeaves s = (s.contexts.map (fun c => (c.asid, c.root))).flatMap (fun x => leavesFrom s x.1 walkLevels x.2 0) := by
    rw [List.flatMap_map]; rfl
  rw [h, o.ctx]
  simp only [List.flatMap_cons, List.flatMap_nil, List.append_nil, onePage_leaves o]
  rfl

theorem onePage_holdsTable {s : State} (o : OnePage s) (frame len : Nat) : holdsTable s frame len =
    [(0x100000, 8 * 2 ^ 17), (0x200000, 8 * 2 ^ 9), (0x300000, 8 * 2 ^ 9), (0x400000, 8 * 2 ^ 5)].any (meetsBytes frame len) := by
  have h : holdsTable s frame len = (s.contexts.map (fun c => (c.asid, c.root))).any (fun x => (tablesFrom s walkLevels x.2).any (meetsBytes frame len)) := by
    rw [List.any_map]; rfl
  rw [h, o.ctx]
  simp only [List.any_cons, List.any_nil, Bool.or_false, onePage_tables o]

theorem onePage_aliases {s : State} (o : OnePage s) : aliases s thePage = [] := by
  rw [aliases, onePage_allLeaves o]; rfl

theorem onePage_placed (l) : OnePage (placed l) := ⟨placed_mem l, rfl, rfl⟩

/-- An entry of a column's FIFO with one pair of the column and nothing left to add. -/
def fifoEntry (done : Option Nat) : FifoEntry :=
  { uid := 0, asid := 0, since := 0, sat := false, adds := [], flags := 0, pairs := 1, forward := false, done := done }

/-- A BGATH of a timed region, due now. -/
def gathering (own far : Bool) : BgathRec :=
  { addr := 0x10000, d := 4, q := 0, b := 0, m := 0, issued := 0, due := 0, vl := 4, start := 0, elems := [], strips := 1,
    own := own, far := far, hot := false, bound := 0 }

theorem witness_PowerEventsTakeEffect_units :
    (let s : State := { State.reset with cores := [{ core := 255, lanemap := BitVec.allOnes 32, restore := some 0, island := .waking 0 true }] }
     255 < s.product.cores ∧ (s.core 255).restore = some 0 ∧ (0 : Nat) ≤ s.clock ∧ (s.core 255).island = .waking 0 true ∧ (s.core 255).half = false ∧
      (s.core 255).hot ≠ true) ∧
    (let s : State := { State.reset with cores := [{ core := 255, island := .dusking }] }
     (s.core 255).island = .dusking ∧ (s.core 255).fifo = [] ∧ bankBusy s 255 = false) ∧
    (let s : State := { vectorOn {} 4 [] with cores := [{ core := 255, fifo := [fifoEntry none] }] }
     (s.core 255).fifo = fifoEntry none :: [] ∧ (s.core 255).island = .on ∧ s.hart.uid = 0 ∧ s.hart.life ≠ .free ∧
      (s.core 255).fifoFree ≤ s.clock) ∧
    -- an entry that is complete, and one that the island is not yet free for
    (let s : State := { vectorOn {} 4 [] with cores := [{ core := 255, fifo := [fifoEntry (some 0)] }] }
     (s.core 255).fifo = fifoEntry (some 0) :: [] ∧ 0 ≤ s.clock ∧
      itemsLate (fifoEntry (some 0)).items = false) ∧
    (let s : State := { vectorOn {} 4 [] with cores := [{ core := 255, fifo := [fifoEntry none], fifoFree := 1 }] }
     s.clock < (s.core 255).fifoFree) ∧
    (let s : State := { State.reset with noon := vset (vset (Vector.replicate 32 42500) 31 84999) 0 0 }
     (31 : Nat) < s.product.clusters ∧ reservedPeak s 31 + 1 ≤ vget s.noon 31 0 ∧ vget s.noon 0 0 + 1 ≤ 85000 ∧
      vget s.noon 0 0 + 1 ≤ 42500 ∧ 42500 + 1 ≤ vget s.noon 31 0) ∧
    someAnd ((hartAt (fun h => { h with bank := [⟨[]⟩] })).focusBy (fun h => h.place == ⟨0, 0, 0⟩ && !h.saved && !unreached (hartAt id) h.uid &&
        (match h.bank with
          | r :: _ => !itemsLate r.items
          | [] => false)))
      (fun t => t.hart.bank == [⟨[]⟩]) = true ∧
    -- a BGATH of the own column, before its bound or not, and one elsewhere that no bound covers
    focused (hartAt (fun h => { h with bgath := some (gathering true false) }))
      (fun t => someAnd t.hart.bgath (fun r => !r.arrived && !r.waits && decide (r.due ≤ t.clock) && !r.far && r.own && decide (r.bound ≤ r.due))) = true ∧
    focused (hartAt (fun h => { h with bgath := some (gathering false true) }))
      (fun t => someAnd t.hart.bgath (fun r => !r.arrived && !r.waits && decide (r.due ≤ t.clock) && r.far && !r.own)) = true ∧
    -- one that still waits at its due cycle, behind an add of its own source
    focused (let s := streamOf .i32 0x10000 8 []
      { s with hart := { s.hart with cs := { s.hart.cs with vtype := some { et := .i32 }, vl := 1 },
                                     bgath := some { gathering false false with q := 15, waits := true } },
               cores := [{ core := 0, fifo := [{ fifoEntry none with adds := [⟨coreBase, 0, .i32, 1⟩] }] }] })
      (fun t => someAnd t.hart.bgath (fun r => !r.arrived && decide (r.due ≤ t.clock) && r.waits && !r.own &&
        (match gatherAll t r.q r.b r.m with
          | .error .wait => true
          | _ => false))) = true := by decide +kernel

theorem witness_MeterEventsChargeContexts :
    (State.reset.meter = none ∧ (5 : Nat) ≠ 0) ∧ (let s : State := { State.reset with meter := some 5 }; s.meter = some 5 ∧ s.clock < 5) ∧
    (let s : State := { State.reset with meter := some 0 }; s.meter = some 0 ∧ 0 ≤ s.clock) ∧
    (let s := contextIn .running
     (s.quota.all (fun e => decide (0 < e.2))) = true ∧ (s.ctx? 0).isSome = true ∧ s.ctx? 7 = none ∧
      ∀ vf, s.left vf < 2 ^ 63 * 1000) ∧
    focused (withQueue [] (some ⟨0, 100, 10, 85000, 0, 32⟩)) (fun t => t.hart.tl.region.isSome && (t.ctx? t.hart.asid).isSome) = true ∧
    (let s := placed []
     (s.contexts.all (fun c => c.fn == some none)) = true ∧ (s.contexts.map (·.asid)).Nodup ∧ s.quota = []) := by
  refine ⟨by decide, by decide +kernel, by decide +kernel, ⟨by decide +kernel, by decide +kernel, by decide +kernel, fun vf => ?_⟩,
    by decide +kernel, by decide +kernel⟩
  have h : (contextIn .running).left vf = if vf = 5 then 1000 else 0 := by
    by_cases e : vf = 5
    · subst e; decide +kernel
    · have q : (contextIn .running).quota = [(5, 1000)] := rfl
      rw [if_neg e, State.left, q]
      simp [Ne.symm e]
  rw [h]
  split <;> norm_num

/-- A leaf for a page at a frame of a column: HOME and FRAME. -/
def leafAt (home frame : Nat) : Word := BitVec.ofNat 64 (home * 2 ^ 48 + frame + 0x7F)

theorem witness_PageEventsTakeEffect_map :
    (let s := placed []
     s.mem.wf = true ∧ physExists s.product (0x400010 : Word).toNat = true ∧ (0x400010 : Word).toNat % 8 = 0 ∧
      (s.ctx? 0).bind (fun c => entryLevel s 0x20000 0x400010 walkLevels c.root) = some 16 ∧
      faultHome s 0 0 (leafAt 0 0x1010000) = true ∧ faultHome s 0 1 (leafAt 0 0x1010000) = false ∧
      (let leaf := leafAt 0 0x1010000
       entryV leaf = true ∧ entryLeaf leaf = true ∧ leafWf s.product 16 leaf = true ∧ leafHK leaf ≠ 2 ∧ leafFrame leaf = 0x1010000 ∧
        0x400010 + 8 ≤ leafFrame leaf ∧ 0x1000000 % 128 = 0 ∧ 0x1000000 + 2 ^ 16 ≤ leafFrame leaf ∧
        -- the device's own tables are not there, or are
        (∀ l ∈ leavesUnder s 0 0x20000 16 0x400010 leaf, holdsDeviceTable s (leafFrame l.e) (2 ^ l.bits) = false) ∧
        (let t : State := { s with hub := { ctxBase := 0x1000000 } }
         ∃ l ∈ leavesUnder t 0 0x20000 16 0x400010 leaf, leafHK l.e ≠ 2 ∧ holdsDeviceTable t (leafFrame l.e) (2 ^ l.bits) = true)) ∧
      -- PAGE_UNMAP of the page, and its shootdown, with a held write or without
      (s.ctx? 0).bind (fun c => entryLevel s 0x10000 0x400008 walkLevels c.root) = some 16 ∧
      (∀ held : Bool,
       let w : HeldWrite := { core := none, asid := 0, line := lineOf 0x1000000 }
       let s : State := { s with
         shoots := [⟨0, 0x10000, 0x10000⟩], olds := [⟨0, 0x10000, 16, lineOf 0x1000000⟩],
         contexts := [{ asid := 0, fn := some none, root := 0x100000, held := if held then [w] else [] }] }
       let gone := s.olds.filter (fun o => o.asid == 0 && meetsPage 0x10000 0x10000 o.base o.bits)
       let u := gone.foldl (fun s o => s.l1Flush (fun y => inFrame o.lines y.line)) s
       (s.shoots[0]?).isSome = true ∧ gone.length = 1 ∧
         u.contexts.any (fun c => c.held.any (fun w => gone.any (fun o => inFrame o.lines w.line))) = held) ∧
      (let e := BitVec.ofNat 64 (memRead s.mem 0x400008 8)
       physExists s.product 0x400008 = true ∧ entryV e = true ∧ entryLeaf e = true ∧ leafFrame e = 0x1000000)) ∧
    (allLeaves (placed [])).all (fun l => !l.maps 0x1010000 (2 ^ 16)) = true :=
  ⟨by decide +kernel, by rw [onePage_allLeaves (onePage_placed [])]; decide⟩

/-- The page with 64 accesses of core 1 in its log, and a move of it to core 1's column. -/
def moving (l : List Migration) : State := { placed [] with pageLogs := [{ at_ := 0x400008, recent := List.replicate 64 1 }], moves := l }

def theMove (bits : Nat) (phase : MovePhase) (marked : List Nat) : Migration :=
  { asid := 0, base := 0x10000, bits := bits, at_ := 0x400008, frame := 0x1000000, leaf := leafAt 1 columnBytes, phase := phase, marked := marked }

theorem onePage_moving (l) : OnePage (moving l) := ⟨placed_mem [], rfl, rfl⟩

/-- The page may move where nothing holds it. -/
theorem onePage_mayMigrate {s : State} (o : OnePage s) : mayMigrate s thePage = !heldInPlace s 0x1000000 16 := by
  rw [mayMigrate, onePage_aliases o]
  have h : leafFrame thePage.e = 0x1000000 := by decide
  have b : thePage.bits = 16 := rfl
  have x : leafPIN thePage.e = false := by decide
  have y : leafHK thePage.e = 0 := by decide
  rw [h, b, x, y]
  simp

theorem page_of_move {s : State} (o : OnePage s) (phase marked) : (theMove 16 phase marked).page s = thePage := by
  rw [Migration.page]
  have h : memRead s.mem (theMove 16 phase marked).at_ 8 = 0x100007F := (onePage_reads o).2.2.2
  rw [h]
  rfl

theorem witness_PageEventsTakeEffect_move :
    (let s := moving []
     s.ctx? 0 ≠ none ∧ someAnd (s.ctx? 0) (fun c => match walk s c.root 0x10000 with
        | .leaf at_ bits e =>
          let new := rehome e (leafAt 1 columnBytes)
          at_ == 0x400008 && bits == 16 && e == thePage.e && leafWf s.product bits new && leafFrame new == columnBytes &&
            moveTrigger s thePage new && decide (0x1000000 + 2 ^ 16 ≤ leafFrame new)
        | _ => false) = true ∧ s.moves = [] ∧ moveTrigger (placed []) thePage (rehome thePage.e (leafAt 1 columnBytes)) = false) ∧
    mayMigrate (moving []) thePage = true ∧ frameFree (moving []) columnBytes (2 ^ 16) = true ∧
    -- a move whose page is copied, with few lines marked and with too many, and one whose page may not move
    (let m := theMove 16 .copy [lineOf 0x1000000]
     8 * m.marked.length ≤ 2 ^ m.bits / 128 ∧ inFrame (lineOf m.frame, 2 ^ m.bits / 128) (lineOf 0x1000000) = true ∧
      lineOf m.frame + 2 ^ m.bits / 128 ≤ lineOf (leafFrame m.leaf)) ∧
    2 ^ (theMove 16 .copy (List.replicate 65 0)).bits / 128 < 8 * (theMove 16 .copy (List.replicate 65 0)).marked.length ∧
    (∀ phase marked, mayMigrate (moving [theMove 16 phase marked]) ((theMove 16 phase marked).page (moving [theMove 16 phase marked])) = true) ∧
    (∀ phase, mayMigrate (moving [theMove 30 phase []]) ((theMove 30 phase []).page (moving [theMove 30 phase []])) = false) ∧
    -- no cache holds a copy of the page, so the flush of its frame changes nothing
    (∀ m, flushFrame (moving [m]) m = moving [m]) ∧
    (let m := theMove 16 .hold []
     m.frame ≤ leafFrame thePage.e ∧ leafFrame thePage.e < m.frame + 2 ^ m.bits ∧ aliases (moving [m]) (m.page (moving [m])) = []) := by
  refine ⟨by decide +kernel, ?_, ?_, by decide +kernel, by decide, fun phase marked => ?_, fun phase => ?_, ?_, by decide, by decide, ?_⟩
  · rw [onePage_mayMigrate (onePage_moving [])]; decide +kernel
  · rw [frameFree, onePage_allLeaves (onePage_moving []), onePage_holdsTable (onePage_moving [])]; decide
  · rw [page_of_move (onePage_moving _), onePage_mayMigrate (onePage_moving _)]; exact (by decide +kernel : (!heldInPlace (moving []) 0x1000000 16) = true)
  · have b : ((theMove 30 phase []).page (moving [theMove 30 phase []])).bits = 30 := rfl
    rw [mayMigrate, b]
    simp
  · exact fun _ => rfl
  · rw [page_of_move (onePage_moving _), onePage_aliases (onePage_moving _)]

/-- A shadow pool over the page, which holds it in place. -/
def pooled : State := { placed [] with contexts :=
  [{ asid := 0, fn := some none, root := 0x100000, state := .running, pool := [⟨0x10000, 0x10000, [(lineOf 0x1000000, 512)]⟩] }] }

/-- Near pages in their queue; a page that is held is not taken, and a move of it to far memory does not start. -/
theorem witness_VictimQueueIsOrdered :
    thePage ∈ allLeaves (placed []) ∧ leafHK thePage.e = 0 ∧ leafHome thePage.e / 64 = 0 ∧
    nextVictim (placed []) 0 = some thePage ∧
    (let s := pooled
     let leaf := BitVec.ofNat 64 (2 ^ 62 + farBase)
     someAnd (s.ctx? 0) (fun c => match walk s c.root 0x10000 with
        | .leaf at_ bits e => at_ == 0x400008 && bits == 16 && leafHK e == 0 && leafHome e / 64 == 0 && leafHK (rehome e leaf) == 1
        | _ => false) = true) ∧ nextVictim pooled 0 = none := by
  have v {s : State} (o : OnePage s) : victimQueue s 0 = [thePage] := by
    rw [victimQueue, onePage_allLeaves o]
    rw [(by decide : List.filter (fun l : Leaf => leafHK l.e == 0 && leafHome l.e / 64 == 0) [thePage] = [thePage])]
    exact List.mergeSort_singleton thePage
  have o : OnePage pooled := ⟨placed_mem [], rfl, rfl⟩
  refine ⟨?_, by decide, by decide, ?_, by decide +kernel, ?_⟩
  · rw [onePage_allLeaves (onePage_placed [])]; simp
  · rw [nextVictim, v (onePage_placed []), List.find?_cons, onePage_mayMigrate (onePage_placed []),
      (by decide +kernel : (!heldInPlace (placed []) 0x1000000 16) = true)]
  · rw [nextVictim, v o, List.find?_cons, onePage_mayMigrate o, (by decide +kernel : (!heldInPlace pooled 0x1000000 16) = false)]
    rfl

/-- A context with an open range over the page, and no shadow pool. -/
def tracked (held : List HeldWrite) : State := { placed [] with contexts :=
  [{ asid := 0, fn := some none, root := 0x100000, state := .running, held := held,
     ranges := vset (Vector.replicate 16 none) 0 (some ⟨0x10000, 0x10000, 1, [(lineOf 0x1000000, 512)], [], []⟩) }] }

theorem witness_HostAndErrorEventsTakeEffect :
    -- a held write that can be made, one of a bank request, one behind another of its agent, one of a line that waits for a
    -- shadow, and of a line of a pool one of a core and one of the host
    (let w : HeldWrite := { core := some 0, asid := 0, line := lineOf 0x1000000, dirty := 1 }
     let x : HeldWrite := { w with bank := some (some 0, { loc := 0x1000000, size := 4, before := 0, after := 5 }) }
     let y : HeldWrite := { w with core := none }
     let s := { placed [] with contexts := [{ asid := 0, fn := some none, root := 0x100000, state := .running, held := [w, x, w] }] }
     let c := (s.ctx? 0).getD default
     let t := { pooled with contexts := pooled.contexts.map (fun (c : Context) => { c with held := [w] }) }
     c.held[0]? = some w ∧ heldBehind c 0 w = false ∧ okAnd (s.guardWrite w.stack (128 * w.line) 128) (fun _ => true) = true ∧
      c.held[1]? = some x ∧ heldBehind c 1 x = false ∧ w.bank = none ∧ c.held[2]? = some w ∧ heldBehind c 2 w = true ∧ okAnd (s.guardWrite x.stack (128 * x.line) 128) (fun _ => true) = true ∧
      ((tracked [w]).ctx? 0).bind (fun c => c.held[0]?) = some w ∧ (match (tracked [w]).guardWrite w.stack (128 * w.line) 128 with
        | .error (.shadow _) => true
        | _ => false) = true ∧
      (t.ctx? 0).bind (fun c => c.held[0]?) = some w ∧ (match t.guardWrite w.stack (128 * w.line) 128 with
        | .error (.protect _) => true
        | _ => false) = true ∧ y.core = none ∧ (match t.guardWrite y.stack (128 * y.line) 128 with
        | .error (.protect (some _)) => true
        | _ => false) = true) ∧
    ((placed []).ctx? 0).isSome = true ∧
    (let s := { placed [] with hub := { devrdy := true, hapPf := 0x8000000000000000 } }
     s.hub.devrdy = true ∧ apertureOf s none = some 0 ∧ apertureOf s (some 0) = none ∧ [(1 : Byte), 2] ≠ [] ∧ 0x1007E % 128 + 2 ≤ 128 ∧
      0x1007E + 2 ≤ 2 ^ 48 ∧ 2 ^ 48 < 2 ^ 48 + [(1 : Byte), 2].length ∧ State.reset.hub.devrdy = false ∧
      okAnd (hostLocate s 0 .read 0x1007E) (fun l => okAnd (s.guardWrite hubStack l.loc 2) (fun v =>
        let u := markAccess s l .read .other
        decide (v.mem = s.mem) && s.mem.wf && decide (l.loc % 128 + 2 ≤ 128) && (u.poolOf (lineOf l.loc)).isNone && !u.poisoned (lineOf l.loc))) = true ∧
      okAnd (hostLocate s 0 .write 0x1007E) (fun _ => true) = true ∧
      (match hostLocate s 0 .read 0x20000, hostLocate s 0 .write 0x20000 with
       | .error (.trap _), .error (.trap _) => true
       | _, _ => false) = true ∧
      (match pooled.guardWrite hubStack 0x100007E 2 with
       | .error (.protect (some _)) => true
       | _ => false) = true ∧
      (match (tracked []).guardWrite hubStack 0x100007E 2 with
       | .error (.shadow _) => true
       | _ => false) = true) ∧
    (columnOf State.reset.product (128 * (lineOf columnBytes)) = some 1 ∧ State.reset.poisoned (lineOf columnBytes) = false ∧
      State.reset.product.hasHub = true ∧ (3 : Nat) < 4) := by decide +kernel

theorem witness_LinkEventsTakeEffect :
    (∀ x ∈ [LinkState.down, .train, .up, .degraded, .drain],
      (({ State.reset with links := vset State.reset.links 23 { state := x } } : State).link 23).state = x) ∧
    (23 : Nat) < 24 ∧ (2 : Nat) ≤ 3 ∧ (4 : Nat) ≤ 7 ∧ (1 : Nat) < 2 ∧
    -- a binding of the hart uses the link: its peer's package is number 7
    (let s := fabricOn [(0x300, 4, 7 * 2 ^ 16)] (some (binding .send 1)) []
     let s := { s with groups := [{ id := 1, nrank := 2, state := .active, locals := 1, joined := 3, mapAt := 0x1000300 }], routes := [(7, [23])],
                       links := vset s.links 23 { state := .up } }
     usesLink s s.hart 23 = true) := by
  refine ⟨?_, by decide, by decide, by decide, by decide, by decide +kernel⟩
  intro x hx
  simp only [List.mem_cons, List.not_mem_nil, or_false] at hx
  rcases hx with rfl | rfl | rfl | rfl | rfl <;> decide +kernel

/-- A packet of group 1 from rank 1, which is of another package, to rank 0. -/
def packet : Packet := ⟨1, 0, 1, 0, .elems 0 [5]⟩

def groupIn (st : GroupState) (joined : BitVec 64) (held : List Packet) : State :=
  { fabricOn [] (some (binding .recv 1)) [] with groups := [{ id := 1, nrank := 64, state := st, locals := 1, joined := joined, held := held }] }

/-- The rank has joined and its hart is not bound. -/
def groupUnbound (held : List Packet) : State :=
  { fabricOn [] none [] with groups := [{ id := 1, nrank := 64, state := .active, locals := 1, joined := 3, held := held }] }

def routed (s : State) (some_ : Bool) : Bool := okAnd (routePacket s packet) (fun x => x.isSome == some_)

theorem witness_GroupEventsTakeEffect :
    ((State.reset.group 65535).state = .free ∧ (65535 : Nat) < 65536 ∧ 1 ≤ 64 ∧ 64 ≤ 64 ∧
      physExists State.reset.product (((0x2000000000000002 : Word) &&& 0x00FFFFFFFFFFFFF0).toNat + 2 * 63) = true ∧ State.reset.mem.wf = true) ∧
    (let g := (groupIn .open_ 0 []).group 1
     63 < g.nrank ∧ g.locals.getLsbD 63 = false ∧ g.held = [] ∧ g.state = .open_ ∧ 1 ≠ g.gen.toNat ∧ bindings (groupIn .open_ 0 []).hart 1 g.gen ≠ []) ∧
    ((groupIn .active 0 []).group 1).state = .active ∧ ((groupIn .active 0 []).group 1).joined = 0 ∧ ((groupIn .aborted 1 []).group 1).state = .aborted ∧
    (((groupIn .draining 0 []).group 1).state = .draining ∧ (groupIn .draining 0 []).transit.all (fun p => p.group != 1) = true) ∧
    -- a held packet whose rank has joined, which its binding takes, and which finds none
    (heldHere ((groupIn .active 1 [packet]).group 1) packet = true ∧ routed (groupIn .active 1 [packet]) true = true) ∧
    (heldHere ((groupUnbound [packet]).group 1) packet = true ∧ routed (groupUnbound [packet]) false = true) ∧
    -- a packet that arrives: of another generation, in a state that takes none, for a rank that has not joined, from one that
    -- has not
    (let g := (groupIn .active 3 []).group 1
     packet.src < 64 ∧ packet.dst < 64 ∧ g.locals.getLsbD packet.src = false ∧ g.locals.getLsbD packet.dst = true ∧ packet.gen = g.gen.toNat ∧
      heldHere g packet = false ∧ heldHere g { packet with gen := 1 } = false ∧ g.joined.getLsbD packet.dst = true ∧
      g.joined.getLsbD packet.src = true ∧
      firstInTransit (groupIn .active 3 []) packet = false ∧ routed (groupIn .active 3 []) true = true ∧ routed (groupUnbound []) false = true) ∧
    ¬ (((groupIn .aborted 1 []).group 1).state = .open_ ∨ ((groupIn .aborted 1 []).group 1).state = .active) ∧
    ((groupIn .active 2 []).group 1).joined.getLsbD packet.dst = false ∧
    ((groupIn .active 1 []).group 1).joined.getLsbD packet.src = false := by decide +kernel

theorem witness_DawnBringsTheDeviceUp :
    (∀ x : DawnState, let s : State := { State.reset with hub := { dawn := x, started := true } }
     s.hub.started = true ∧ s.hub.dawn = x ∧ s.hub.fail = false ∧ s.mem.wf = true ∧ (∀ l ∈ s.links.toList, l.state ≠ .train) ∧
      (∀ q ∈ s.queues, q.state = .empty)) := by
  refine fun x => ⟨rfl, rfl, rfl, rfl, ?_, nofun⟩
  change ∀ l ∈ (Vector.replicate 24 ({} : Link)).toList, l.state ≠ .train
  decide +kernel

/-- Registers of each window and a group with its table, beside the contexts' table and before DEVRDY too. -/
theorem witness_RegisterWindowsReadAndWrite :
    (∀ rdy : Bool, let s : State := { placed [] with vfs := [3], hub := { devrdy := rdy, dawn := .ready, ctxBase := 0x2000000, grpBase := 0x4000000 } }
     3 ∈ s.vfs ∧ windowReg s .hub 0x6E0 = some (.link 23) ∧ windowReg s .queues (0x1000 + 0x40 * 4095 + 0x3F) = some (.queue 4095 0x3F) ∧
      windowReg s (.vf 3) (0x1000 + 0x40 * 3) = some (.queue 15 0) ∧ (regWord s (.link 23)).isSome = true ∧ s.hub.devrdy = rdy ∧
      s.hub.dawn ≠ .rom ∧ s.hub.dawn ≠ .voxind ∧ (s.ctx? 0).isSome = true ∧
      s.hub.ctxBase.toNat + 256 * 4096 ≤ s.hub.grpBase.toNat + 64 * 65535 + 63) ∧
    (let s := ready State.reset
     (match exec (.qctlDrain 4095 true) s with
      | .next _ => true
      | _ => false) = true ∧ windowReg s .queues (0x1000 + 0x40 * 4095 + 0x20) = some (.queue 4095 0x20)) := by
  refine ⟨fun rdy => ?_, by decide +kernel⟩
  cases rdy <;> decide +kernel

theorem step_placedAdd : (match step placedAdd with
    | .next _ => true
    | _ => false) = true := by decide +kernel

theorem witness_EveryStepKeepsMemoryCanonical : ∃ s t : State, s.mem.wf = true ∧ step s = .next t := by
  have h := step_placedAdd
  cases hs : step placedAdd with
  | next t => exact ⟨placedAdd, t, by decide +kernel, hs⟩
  | fault _ => rw [hs] at h; cases h
  | refused _ => rw [hs] at h; cases h

/-! ### One step on small states; the expected values are worked out by hand from the rules named -/

/-- The step answers a next state that satisfies `p`. -/
def nextHas (r : Host.Outcome State Fault Refusal) (p : State → Bool) : Bool :=
  match r with
  | .next t => p t
  | _ => false

-- R64: the most negative number divided by −1 is itself.
theorem test_div_overflow : nextHas (exec (.div 3 1 2) (scalarWith [(1, 0x8000000000000000), (2, 0xFFFFFFFFFFFFFFFF)]))
    (fun t => gRead t.hart 3 == 0x8000000000000000) = true := by decide +kernel
-- R64: −1 times 1 is −1, whose high half is −1; unsigned, the high half is 0.
theorem test_mulh_signed : nextHas (exec (.mulh 3 1 2) (scalarWith [(1, 0xFFFFFFFFFFFFFFFF), (2, 1)]))
    (fun t => gRead t.hart 3 == 0xFFFFFFFFFFFFFFFF) = true := by decide +kernel
theorem test_mulhn_unsigned : nextHas (exec (.mulhn 3 1 2) (scalarWith [(1, 0xFFFFFFFFFFFFFFFF), (2, 1)]))
    (fun t => gRead t.hart 3 == 0) = true := by decide +kernel
-- R65, R66: LIS 0x20 and SHIM 0x8000 build 0x408000.
theorem test_shim_appends : nextHas (exec (.shim 6 0x8000) (scalarWith [(6, 0x20)])) (fun t => gRead t.hart 6 == 0x408000) = true := by
  decide +kernel
-- R61: g0 reads 0 after a write, and the program counter moves on.
theorem test_g0_discards : nextHas (exec (.addi 0 1 5) (scalarWith [(1, 5)])) (fun t => gRead t.hart 0 == 0 && t.hart.sc.pc == 0x10004) = true := by
  decide +kernel
-- R67: BLTZ with −1 goes back by two words; with 0 it falls through.
theorem test_bltz_taken : nextHas (exec (.bltz 1 (-2)) (scalarWith [(1, 0xFFFFFFFFFFFFFFFF)])) (fun t => t.hart.sc.pc == 0xFFF8) = true := by
  decide +kernel
theorem test_bltz_not_taken : nextHas (exec (.bltz 1 (-2)) (scalarWith [])) (fun t => t.hart.sc.pc == 0x10004) = true := by decide +kernel
-- R128: a byte 0x80 loads as −128, and unsigned as 128.
theorem test_ldB_extends : nextHas (exec (.ldB 3 1 0) (placedWith [(0, 1, 0x80)] [(1, 0x10000)]))
    (fun t => gRead t.hart 3 == 0xFFFFFFFFFFFFFF80) = true := by decide +kernel
theorem test_ldBn_extends : nextHas (exec (.ldBn 3 1 0) (placedWith [(0, 1, 0x80)] [(1, 0x10000)])) (fun t => gRead t.hart 3 == 0x80) = true := by
  decide +kernel
-- R140: AMO.CAS stores where the old value is the one g[d] held, and gives the old value either way.
theorem test_cas_swaps : nextHas (exec (.amoCas 8 5 9 5) (placedWith [(8, 8, 7)] [(5, 0x10008), (8, 7), (9, 1)]))
    (fun t => gRead t.hart 8 == 7 && memRead t.mem 0x1000008 8 == 1) = true := by decide +kernel
theorem test_cas_keeps : nextHas (exec (.amoCas 8 5 9 5) (placedWith [(8, 8, 6)] [(5, 0x10008), (8, 7), (9, 1)]))
    (fun t => gRead t.hart 8 == 6 && memRead t.mem 0x1000008 8 == 6) = true := by decide +kernel
-- R73, R77: BREAK saves the address of its word and goes to the handler at level 1.
theorem test_break_enters : nextHas (exec .brk handled) (fun t => t.hart.sc.pc == 0x20000 && t.hart.cs.hepc == 0x10000 &&
    t.hart.cs.hcause.code == 0x04 && t.hart.cs.hstat.hl) = true := by decide +kernel
-- R33, R87: 127 + 1 as I8 wraps to −128, and with SAT stays 127 and raises SAT.
theorem test_vadd_wraps : nextHas (exec (.vadd 1 2 3 0) (let s := vectorOn { et := .i8 } 1 []
    { s with hart := { s.hart with ve := { s.hart.ve with v := vset (vset s.hart.ve.v 2 127) 3 1 } } }))
    (fun t => (vget t.hart.ve.v 1 0).toNat == 0x80 && t.hart.cs.vflags == 0) = true := by decide +kernel
theorem test_vadd_saturates : nextHas (exec (.vadd 1 2 3 0) (let s := vectorOn { et := .i8, sat := true } 1 []
    { s with hart := { s.hart with ve := { s.hart.ve with v := vset (vset s.hart.ve.v 2 127) 3 1 } } }))
    (fun t => (vget t.hart.ve.v 1 0).toNat == 127 && t.hart.cs.vflags == 0x20) = true := by decide +kernel
-- R35, R88: 1.0 + 2.0 in F32 is 3.0.
theorem test_vfadd_adds : nextHas (exec (.vfadd 1 2 3 0) (let s := vectorOn { et := .f32 } 1 []
    { s with hart := { s.hart with ve := { s.hart.ve with v := vset (vset s.hart.ve.v 2 0x3F800000) 3 0x40000000 } } }))
    (fun t => (vget t.hart.ve.v 1 0).toNat == 0x40400000) = true := by decide +kernel
-- R90: bits numbered d, a, b: TT 0x96 is the exclusive or of the three.
theorem test_log3_xor : nextHas (exec (.log3High 1 2 3 0x16) (let s := vectorOn { et := .n8 } 1 []
    { s with hart := { s.hart with ve := { s.hart.ve with v := vset (vset (vset s.hart.ve.v 1 0xF0) 2 0xCC) 3 0xAA } } }))
    (fun t => (vget t.hart.ve.v 1 0).toNat == 0x96) = true := by decide +kernel
-- R27, R99: VTYPE is ill-formed, so VSETL grants nothing.
theorem test_vsetl_illformed : nextHas (exec (.vsetl 1 2) (let s := vectorOn {} 4 [(2, 100)]
    { s with hart := { s.hart with cs := { s.hart.cs with vtype := none } } }))
    (fun t => t.hart.cs.vl == 0 && hRead t.hart 1 == 0) = true := by decide +kernel

end Sys2Proof.Tests

end
end

section
/-!
LAW. What it is for a computation to leave memory in its canonical form, and the rules by which that passes through
sequencing, branches and folds (R3; notes/assumptions/6). The development for O59 rests on them.
-/

namespace Sys2Proof.Machine

/-- The memory of a state is in its canonical form. -/
structure Canonical (s : State) : Prop where
  wf : s.mem.wf = true

/-- What a computation answers, where it answers at all, has a property. -/
def OkAll {ε α : Type} (P : α → Prop) (x : Except ε α) : Prop := ∀ a, x = .ok a → P a

/-- What an option holds, if anything, has a property. -/
def SomeAll {α : Type} (P : α → Prop) (x : Option α) : Prop := ∀ a, x = some a → P a

/-- The next state, where there is one, has canonical memory. -/
def NextCanonical (o : Outcome) : Prop := ∀ t, o = .next t → Canonical t

variable {ε α β : Type} {P : α → Prop} {Q : β → Prop}

theorem OkAll.ok {a : α} (h : P a) : OkAll P (.ok a : Except ε α) := by rintro _ ⟨⟩; exact h
theorem OkAll.ok_snd {a : α} {t : State} (h : Canonical t) : OkAll (fun x => Canonical x.2) (.ok (a, t) :
    Except ε (α × State)) :=
  .ok h
theorem OkAll.ok_snd_snd {a : α} {b : β} {t : State} (h : Canonical t) :
    OkAll (fun x => Canonical x.2.2) (.ok (a, b, t) : Except ε (α × β × State)) := .ok h
theorem OkAll.ok_fst {a : α} {t : State} (h : Canonical t) : OkAll (fun x => Canonical x.1) (.ok (t, a) :
    Except ε (State × α)) :=
  .ok h
theorem OkAll.ok_result {t : State} {w : List RegWrite} {p : Option Nat} (h : Canonical t) :
    OkAll (fun r => Canonical r.state) (.ok ⟨t, w, p⟩ : Except ε Result) := .ok h
theorem OkAll.error {e : ε} : OkAll P (.error e) := by rintro _ ⟨⟩
theorem OkAll.bind {x : Except ε β} {f : β → Except ε α} (hx : OkAll Q x) (hf : ∀ b, Q b → OkAll P (f b)) :
    OkAll P (x >>= f) := by
  cases x with
  | error e => exact .error
  | ok b => exact hf b (hx b rfl)
/-- A computation whose answer holds no state. -/
theorem OkAll.after {x : Except ε β} {f : β → Except ε α} (hf : ∀ b, OkAll P (f b)) : OkAll P (x >>= f) :=
  OkAll.bind (Q := fun _ => True) (fun _ _ => trivial) fun b _ => hf b
theorem OkAll.map {x : Except ε β} {f : β → α} (hx : OkAll Q x) (hf : ∀ b, Q b → P (f b)) : OkAll P (x.map f) := by
  cases x with
  | error e => exact .error
  | ok b => exact .ok (hf b (hx b rfl))
theorem OkAll.ite {c : Prop} [Decidable c] {x y : Except ε α} (hx : OkAll P x) (hy : OkAll P y) :
    OkAll P (if c then x else y) := by
  split
  · exact hx
  · exact hy

theorem SomeAll.some {a : α} (h : P a) : SomeAll P (some a) := by rintro _ ⟨⟩; exact h
theorem SomeAll.none : SomeAll P none := by rintro _ ⟨⟩
theorem SomeAll.ite {c : Prop} [Decidable c] {x y : Option α} (hx : SomeAll P x) (hy : SomeAll P y) :
    SomeAll P (if c then x else y) := by
  split
  · exact hx
  · exact hy
theorem SomeAll.map {x : Option β} {f : β → α} (hx : SomeAll Q x) (hf : ∀ b, Q b → P (f b)) : SomeAll P (x.map f) := by
  cases x with
  | none => exact .none
  | some b => exact .some (hf b (hx b rfl))

theorem SomeAll.findSome? {f : β → Option α} {l : List β} (hf : ∀ b, SomeAll P (f b)) : SomeAll P (l.findSome? f) := by
  intro a e
  obtain ⟨b, -, e⟩ := List.exists_of_findSome?_eq_some e
  exact hf b a e
theorem OkAll.foldlM {f : α → β → Except ε α} {l : List β} {a : α} (h : P a) (hf : ∀ a b, P a → OkAll P (f a b)) :
    OkAll P (l.foldlM f a) := by
  induction l generalizing a with
  | nil => exact .ok h
  | cons b l ih => exact .bind (hf a b h) fun a ha => ih ha

theorem NextCanonical.next {s : State} (h : Canonical s) : NextCanonical (.next s) := by rintro _ ⟨⟩; exact h
theorem NextCanonical.ite {c : Prop} [Decidable c] {x y : Outcome} (hx : NextCanonical x) (hy : NextCanonical y) :
    NextCanonical (if c then x else y) := by
  split
  · exact hx
  · exact hy
theorem NextCanonical.fault {f : Fault} : NextCanonical (.fault f) := by rintro _ ⟨⟩

/-- The state that a step of a command's elements leaves has canonical memory. -/
def LoopCanonical : Loop → Prop
  | .done s _ => Canonical s
  | .fault s _ _ => Canonical s
  | .stop _ => True

theorem LoopCanonical.done {s : State} {c : EngCmd} (h : Canonical s) : LoopCanonical (.done s c) := h
theorem LoopCanonical.fault {s : State} {c : EngCmd} {t : Trap} (h : Canonical s) : LoopCanonical (.fault s c t) := h
theorem LoopCanonical.stop {e : Stop} : LoopCanonical (.stop e) := trivial
theorem LoopCanonical.of_done {x : Loop} {s : State} {c : EngCmd} (h : LoopCanonical x) (e : x = .done s c) :
    Canonical s := by
  subst e; exact h
theorem LoopCanonical.of_fault {x : Loop} {s : State} {c : EngCmd} {t : Trap} (h : LoopCanonical x) (e : x = .fault s c t) :
    Canonical s := by
  subst e; exact h

/-- The states with which a side's turn begins have canonical memory. -/
def BegunCanonical : Begun → Prop
  | .over s => Canonical s
  | .word s => Canonical s
  | .interrupted s u => Canonical s ∧ Canonical u
  | .behindFault s u => Canonical s ∧ Canonical u

theorem BegunCanonical.of_over {x : Begun} {s : State} (h : BegunCanonical x) (e : x = .over s) : Canonical s := by
  subst e; exact h
theorem BegunCanonical.of_word {x : Begun} {s : State} (h : BegunCanonical x) (e : x = .word s) : Canonical s := by
  subst e; exact h
theorem BegunCanonical.of_interrupted {x : Begun} {s u : State} (h : BegunCanonical x) (e : x = .interrupted s u) :
    Canonical s ∧ Canonical u := by
  subst e; exact h
theorem BegunCanonical.of_behindFault {x : Begun} {s u : State} (h : BegunCanonical x) (e : x = .behindFault s u) :
    Canonical s ∧ Canonical u := by
  subst e; exact h

theorem Canonical.frame {s t : State} (h : Canonical s) (e : t.mem = s.mem) : Canonical t := ⟨e ▸ h.wf⟩
theorem Canonical.of_mem {t : State} {m : Memory} (h : m.wf = true) (e : t.mem = m) : Canonical t := ⟨e ▸ h⟩
theorem Canonical.ite {c : Prop} [Decidable c] {s t : State} (hs : Canonical s) (ht : Canonical t) :
    Canonical (if c then s else t) := by
  split
  · exact hs
  · exact ht
theorem Canonical.elim {s : State} {x : Option α} {f : α → State} (h : Canonical s) (hf : ∀ a, Canonical (f a)) :
    Canonical (x.elim s f) := by
  cases x with
  | none => exact h
  | some a => exact hf a
theorem Canonical.ite_fst {c : Prop} [Decidable c] {x : State × α} {t : State} {a : α} (hx : Canonical x.1) (ht : Canonical t) :
    Canonical (if c then x else (t, a)).1 := by
  split
  · exact hx
  · exact ht
theorem Canonical.getD {s : State} {x : Option State} (h : Canonical s) (hx : SomeAll Canonical x) :
    Canonical (x.getD s) := by
  cases x with
  | none => exact h
  | some t => exact hx t rfl
/-- A fold of steps that each keep a property keeps it. -/
theorem foldl_keeps {f : α → β → α} {l : List β} {a : α} (h : P a) (hf : ∀ a b, P a → P (f a b)) : P (l.foldl f a) := by
  induction l generalizing a with
  | nil => exact h
  | cons b l ih => exact ih (hf a b h)
theorem Canonical.foldl {f : State → α → State} {l : List α} {s : State} (h : Canonical s)
    (hf : ∀ s a, Canonical s → Canonical (f s a)) : Canonical (l.foldl f s) := by
  induction l generalizing s with
  | nil => exact h
  | cons a l ih => exact ih (hf s a h)

theorem OkAll.renameStop {f : Stop → Stop} {x : Except Stop α} (h : OkAll P x) : OkAll P (renameStop f x) := by
  cases x with
  | ok a => exact h
  | error e => exact .error

end Sys2Proof.Machine
end

section
/-!
LAW. Every step keeps memory canonical: one lemma for each function of the model that answers a state, in the order of
the model's files. Memory changes only by `memWrite` and `memPutLine`, whose laws are `wf_memWrite` and `wf_memPutLine`;
whatever leaves memory alone is `Canonical.frame`.
-/

namespace Sys2Proof.Machine

section
variable {s : State}

/-! ### The functions of Machine/Mem.lean -/

theorem Canonical.draw (h : Canonical s) : Canonical s.draw.2 := h.frame rfl
theorem Canonical.choose (h : Canonical s) : Canonical s.choose.2 := h.frame rfl
theorem Canonical.mapCtx {asid : Nat} {f : Context → Context} (h : Canonical s) : Canonical (s.mapCtx asid f) :=
  h.frame rfl
theorem Canonical.mapCore {n : Nat} {f : CoreUnit → CoreUnit} (h : Canonical s) : Canonical (s.mapCore n f) :=
  h.frame rfl
theorem Canonical.barMoves {lines : List (Nat × Nat)} (h : Canonical s) : Canonical (s.barMoves lines) :=
  .ite h (h.frame rfl)

theorem Canonical.arrayWrite {a n v : Nat} (h : Canonical s) :
    Canonical (s.arrayWrite a n v) := ⟨wf_memWrite h.wf _ _ _⟩

theorem Canonical.store {line : Nat} {m : Memory} (hm : m.wf = true) : Canonical (s.store line m) := ⟨hm⟩

theorem Canonical.putLine {stack line : Nat} {data : Line} {mask : BitVec 128} (h : Canonical s) :
    Canonical (s.putLine stack line data mask) := by
  unfold State.putLine
  split
  · exact h.frame rfl
  · exact Canonical.store (wf_memPutLine h.wf _ _ _)

theorem Canonical.noteWriter {stack line : Nat} {who : Option Nat} {mask : BitVec 128} (h : Canonical s) :
    Canonical (s.noteWriter stack line who mask) := by
  unfold State.noteWriter
  split
  · exact h
  · exact .ite (h.frame rfl) h

theorem Canonical.guardWrite {stack a n : Nat} (h : Canonical s) : OkAll Canonical (s.guardWrite stack a n) := by
  unfold State.guardWrite
  extract_lets
  split
  · exact .error
  · split
    · exact .error
    · split
      · exact .ok h
      · split
        · exact .ok h
        · split
          · exact .ok h
          · split
            · exact .ok h
            · split
              · exact .error
              · exact .ok h.mapCtx

theorem Canonical.clearPoison {line : Nat} {mask : BitVec 128} (h : Canonical s) :
    Canonical (s.clearPoison line mask) := .ite (h.frame rfl) h

theorem Canonical.l1Put {x : L1Line} (h : Canonical s) : Canonical (s.l1Put x) := h.frame rfl

theorem Canonical.writeBack {x : L1Line} (h : Canonical s) : Canonical (s.writeBack x) := by
  unfold State.writeBack
  split
  · exact h
  · extract_lets
    split
    · exact (h.guardWrite _ ‹_›).putLine
    · exact h.mapCtx
    · exact h

theorem Canonical.l1Flush {p : L1Line → Bool} (h : Canonical s) :
    Canonical (s.l1Flush p) := (h.frame (by rfl)).foldl (fun _ _ hs => hs.writeBack)

theorem Canonical.l1Clean {p : L1Line → Bool} (h : Canonical s) :
    Canonical (s.l1Clean p) := (h.frame (by rfl)).foldl (fun _ _ hs => hs.writeBack)

theorem Canonical.snoop {stack line : Nat} (h : Canonical s) : Canonical (s.snoop stack line) := h.l1Flush

theorem Canonical.l1Fill {core line : Nat} (h : Canonical s) : Canonical (s.l1Fill core line).2 := by
  unfold State.l1Fill
  split
  · exact h
  · extract_lets _ t
    have ht : Canonical t := .ite h.putLine h
    exact ht.l1Put

theorem Canonical.l2Flush {p : L2Line → Bool} (h : Canonical s) :
    Canonical (s.l2Flush p) := (h.frame (by rfl)).foldl (fun _ _ hs => Canonical.store (wf_memPutLine hs.wf _ _ _))

theorem Canonical.homeRead {stack a n : Nat} (h : Canonical s) : Canonical (s.homeRead stack a n).2 := by
  unfold State.homeRead
  extract_lets _ t
  have ht : Canonical t := h.snoop
  split
  · exact h
  · split
    · dsimp only
      exact ht.draw
    · exact .ite ht.putLine ht

theorem Canonical.homeWrite {who : Option Nat} {stack a n v : Nat} (h : Canonical s) :
    OkAll Canonical (s.homeWrite who stack a n v) := by
  unfold State.homeWrite
  extract_lets
  split
  · exact .ite .error (.ok h.arrayWrite)
  · split
    · exact .error
    · exact .ok (h.snoop.guardWrite _ ‹_›).putLine.noteWriter.clearPoison

theorem Canonical.l2Home {stack line : Nat} (h : Canonical s) : Canonical (s.l2Home stack line) := h.l2Flush

theorem Canonical.homeReadAt {stack a n : Nat} (h : Canonical s) : Canonical (s.homeReadAt stack a n).2 := by
  unfold State.homeReadAt
  dsimp only
  exact h.l2Home.homeRead.l2Home

theorem Canonical.homeWriteAt {who : Option Nat} {stack a n v : Nat} (h : Canonical s) :
    OkAll Canonical (s.homeWriteAt who stack a n v) := .map h.l2Home.homeWrite (fun _ hs => hs.l2Home)

theorem Canonical.elemRead {stack a n : Nat} (h : Canonical s) : Canonical (s.elemRead stack a n).2 := by
  unfold State.elemRead
  split
  · exact h.homeReadAt
  · exact h.homeRead

theorem Canonical.elemWrite {who : Option Nat} {stack a n v : Nat} (h : Canonical s) :
    OkAll Canonical (s.elemWrite who stack a n v) := .ite h.homeWriteAt h.homeWrite

theorem Canonical.l2Publish {uid : Nat} {p : L2Line → Bool} (h : Canonical s) :
    Canonical (s.l2Publish uid p) := (h.frame (by rfl)).foldl (fun _ _ hs => Canonical.store (wf_memPutLine hs.wf _ _ _))

theorem Canonical.l2Clean {p : L2Line → Bool} (h : Canonical s) :
    Canonical (s.l2Clean p) := (h.frame (by rfl)).foldl (fun _ _ hs => Canonical.store (wf_memPutLine hs.wf _ _ _))

/-! ### The functions of Machine/Translate.lean -/

theorem Canonical.markLeaf {at_ set clear : Nat} (h : Canonical s) :
    Canonical (markLeaf s at_ set clear) := .of_mem (wf_memWrite h.wf _ _ _) rfl

theorem Canonical.markAccessed {at_ : Option Nat} (h : Canonical s) : Canonical (markAccessed s at_) := by
  unfold Machine.markAccessed
  split
  · exact h.markLeaf
  · exact h

theorem Canonical.noteWalk {t : Trap} (h : Canonical s) : Canonical (noteWalk s t) := by
  unfold Machine.noteWalk
  extract_lets u
  have hu : Canonical u := h.markAccessed
  split
  · exact hu.frame rfl
  · exact hu

theorem Canonical.markAccess {l : Located} {k : AccessKind} {m : MarkKind} (h : Canonical s) :
    Canonical (markAccess s l k m) := by
  unfold Machine.markAccess
  split
  · exact h
  · extract_lets
    split <;> exact h.markLeaf

theorem Canonical.setPageLog {x : PageLog} (h : Canonical s) : Canonical (setPageLog s x) := h.frame rfl

/-- The definition is unfolded as a function, not at its arguments: the kernel, comparing the applied forms, would
evaluate the walk. -/
theorem Canonical.notePage {s : State} {core asid va : Nat} {miss : Bool} (h : Canonical s) :
    Canonical (notePage s core asid va miss) := by
  have e : Machine.notePage = Machine.notePage := rfl
  conv at e => rhs; delta Machine.notePage
  rw [e]
  beta_reduce
  generalize walk s (rootOf s asid) va = w
  cases w with
  | leaf at_ bits e => exact .ite h h.setPageLog
  | invalid => exact h
  | malformed => exact h
  | poisoned => exact h
  | hole pa => exact h

/-! ### The functions of Machine/Access.lean -/

theorem Canonical.mapHarts {f : Hart → Hart} (h : Canonical s) : Canonical (s.mapHarts f) := h.frame rfl
theorem Canonical.mapHart {f : Hart → Hart} (h : Canonical s) : Canonical (s.mapHart f) := h.frame rfl

theorem Canonical.focusBy {p : Hart → Bool} (h : Canonical s) : SomeAll Canonical (s.focusBy p) := by
  unfold State.focusBy
  split
  · exact .some h
  · split
    · exact .some (h.frame rfl)
    · exact .none

theorem Canonical.focus {p : Place} (h : Canonical s) : SomeAll Canonical (s.focus p) := h.focusBy

theorem Canonical.atPlace {p : Place} {f : State → State} (h : Canonical s)
    (hf : ∀ (u : State), Canonical u → Canonical (f u)) :
    Canonical (s.atPlace p f) := by
  unfold State.atPlace
  split
  · exact hf _ (h.focus _ ‹_›)
  · exact h

theorem Canonical.xWrite {r : Nat} {v : Word} (h : Canonical s) : Canonical (xWrite s r v) := by
  unfold Machine.xWrite
  split <;> exact h.mapHart

theorem Canonical.scalarRead {k : AccessKind} {va n : Nat} (h : Canonical s) :
    OkAll (fun x => Canonical x.2) (scalarRead s k va n) := by
  unfold Machine.scalarRead
  refine .after fun _ => .after fun _ => ?_
  split
  · exact .error
  · split
    · exact .ok_snd h
    · dsimp only
      exact .ite (.ok_snd h.markAccess.l1Fill.draw) (.ok_snd h.markAccess.l1Fill)

theorem Canonical.scalarWrite {va n v : Nat} (h : Canonical s) : OkAll Canonical (scalarWrite s va n v) := by
  unfold Machine.scalarWrite
  refine .after fun _ => .after fun _ => ?_
  split
  · exact .ite .error (.ok h.arrayWrite)
  · extract_lets
    split
    · exact .error
    · dsimp only
      exact .ok h.markAccess.l1Fill.l1Put
    · split
      · exact .error
      · extract_lets u
        have hu : Canonical u := (h.guardWrite _ ‹_›).markAccess.putLine
        dsimp only
        exact .ok hu.l1Fill.l1Put

theorem Canonical.pointRead {x : Hart} {mk : MarkKind} {va n : Nat} (h : Canonical s) :
    OkAll (fun x => Canonical x.2) (pointRead s x mk va n) := by
  unfold Machine.pointRead
  refine .after fun _ => .after fun _ => ?_
  split
  · exact .error
  · extract_lets t
    have ht : Canonical t := h.markAccess
    refine .ok ?_
    split
    · exact ht.elemRead
    · exact ht.homeRead

theorem Canonical.pointWrite {x : Hart} {mk : MarkKind} {va n v : Nat} (h : Canonical s) :
    OkAll Canonical (pointWrite s x mk va n v) := by
  unfold Machine.pointWrite
  refine .after fun l => ?_
  refine .after fun a => ?_
  extract_lets
  split
  · exact .error
  · rename_i e
    exact .ok ((OkAll.ite h.elemWrite h.homeWrite) _ e).markAccess

theorem Canonical.addAt {who : Option Nat} {stack loc : Nat} {e : ElemType} {sat : Bool} {x : Nat} (h : Canonical s) :
    Canonical (addAt s who stack loc e sat x).2 := by
  unfold Machine.addAt
  split
  · exact h.frame rfl
  · extract_lets
    dsimp only
    split
    · exact h.elemRead.elemWrite _ ‹_›
    · exact h.elemRead

theorem Canonical.performItem {who : Option Nat} {stack : Nat} {i : BankItem} (h : Canonical s) :
    Canonical (performItem s who stack i).2 := by
  unfold Machine.performItem
  split
  · exact h.addAt
  · split
    · exact h.elemWrite _ ‹_›
    · exact h

theorem Canonical.settleLine {core scope loc : Nat} (h : Canonical s) : Canonical (settleLine s core scope loc) := by
  unfold Machine.settleLine
  split
  · exact h
  · exact .ite h.l1Flush.l2Flush h.l1Flush

theorem Canonical.amoRead {core scope loc n : Nat} (h : Canonical s) : Canonical (amoRead s core scope loc n).2 := by
  unfold Machine.amoRead
  split
  · dsimp only
    exact h.draw
  · exact h

theorem Canonical.amoPut {core scope loc n v : Nat} (h : Canonical s) :
    OkAll Canonical (amoPut s core scope loc n v) := by
  unfold Machine.amoPut
  split
  · exact .ite .error (.ok h.arrayWrite)
  · split
    · exact .error
    · split
      · exact .ok (Canonical.store (wf_memWrite (h.guardWrite _ ‹_›).wf _ _ _))
      · exact .ok (h.guardWrite _ ‹_›).putLine

theorem Canonical.amoLocate {k : AccessKind} {update : Bool} {scope va : Nat} (h : Canonical s) :
    OkAll (fun x => Canonical x.2) (amoLocate s k update scope va) :=
  .after fun _ => .after fun _ => .ite .error (.ok_snd h.settleLine)

/-! ### The functions of Machine/Life.lean -/

theorem Canonical.raise {fn : Option Nat} {vector : Nat} (h : Canonical s) :
    Canonical (s.raise fn vector) := .ite h (h.frame rfl)

theorem Canonical.raiseFor {asid pf vf : Nat} (h : Canonical s) : Canonical (s.raiseFor asid pf vf) := by
  unfold State.raiseFor
  split
  · exact h.raise
  · exact h.raise
  · exact h

theorem Canonical.record {asid : Nat} {r : FaultRecord} (h : Canonical s) : Canonical (s.record asid r) := by
  unfold State.record
  split
  · exact h
  · exact .ite h.mapCtx.raiseFor h.mapCtx

theorem Canonical.loseTile {k : CmdKind} {t : Nat} (h : Canonical s) : Canonical (s.loseTile k t) := by
  unfold State.loseTile
  dsimp only
  exact h.draw.mapHart

theorem Canonical.setArbiter {a : Arbiter} (h : Canonical s) : Canonical (setArbiter s a) := h.frame rfl

theorem Canonical.chargeTurn {x : Arb} {q charge : Nat} (h : Canonical s) :
    Canonical (chargeTurn s x q charge) := .ite h.setArbiter h

theorem Canonical.chargeCycles {c : EngCmd} {n : Nat} (h : Canonical s) : Canonical (s.chargeCycles c n) := by
  unfold State.chargeCycles
  split
  · exact h.chargeTurn
  · exact h

theorem Canonical.chargeCommand {c : EngCmd} (h : Canonical s) : Canonical (s.chargeCommand c) := by
  unfold State.chargeCommand
  split
  · exact h
  · exact .ite h h.chargeCycles

theorem Canonical.chargeCommands (h : Canonical s) :
    Canonical s.chargeCommands := h.foldl (fun _ _ hs => hs.chargeCommand)

theorem Canonical.setLeft {vf : Nat} {x : Int} (h : Canonical s) : Canonical (s.setLeft vf x) := h.frame rfl

theorem Canonical.credit {asid : Nat} {amount : Int} (h : Canonical s) : Canonical (s.credit asid amount) := by
  unfold State.credit
  split
  · exact h.setLeft
  · exact h

theorem Canonical.owe {p : Payer} (h : Canonical s) : Canonical (s.owe p) := .ite h (h.frame rfl)
theorem Canonical.charge {asid nJ : Nat} (h : Canonical s) : Canonical (s.charge asid nJ) := h.mapCtx

theorem Canonical.releaseRegion (h : Canonical s) : Canonical s.releaseRegion := by
  unfold State.releaseRegion
  split
  · exact h
  · dsimp only
    exact h.draw.charge.credit.mapHart

theorem Canonical.abandonLanes (h : Canonical s) : Canonical s.abandonLanes := by
  unfold State.abandonLanes
  dsimp only
  refine (Canonical.ite ?_ h.draw).mapHart
  split
  · exact h.draw.mapHart
  · exact h.draw

theorem Canonical.abortRegion (h : Canonical s) : Canonical s.abortRegion := by
  unfold State.abortRegion
  split
  · exact h
  · extract_lets _ t u
    have ht : Canonical t := h.abandonLanes.chargeCommands
    have hu : Canonical u := ht.foldl (fun v _ hs => hs.foldl (fun _ _ hv => hv.loseTile))
    exact hu.mapHart.mapHart.releaseRegion

theorem Canonical.stopBoth (h : Canonical s) : Canonical s.stopBoth := (Canonical.ite h.l1Flush.l2Flush h).mapHart
theorem Canonical.settleArbiters (h : Canonical s) : Canonical s.settleArbiters := h.frame rfl

theorem Canonical.haltHart (h : Canonical s) :
    Canonical s.haltHart := h.stopBoth.abortRegion.chargeCommands.owe.mapHart.settleArbiters

theorem Canonical.onHarts {p : Hart → Bool} {f : State → State} {n : Nat}
    (hf : ∀ (u : State), Canonical u → Canonical (f u)) (h : Canonical s) :
    Canonical (State.onHarts p f n s) := by
  induction n generalizing s with
  | zero =>
    rw [State.onHarts]
    exact h
  | succ n ih =>
    rw [State.onHarts]
    split
    · exact ih (hf _ (h.focusBy _ ‹_›))
    · exact h

theorem Canonical.haltAll {p : Hart → Bool} (h : Canonical s) :
    Canonical (s.haltAll p) := Canonical.onHarts (fun _ hs => hs.haltHart) h

theorem Canonical.settleContext {asid : Nat} (h : Canonical s) : Canonical (s.settleContext asid) := by
  unfold State.settleContext
  split
  · exact h
  · extract_lets _ _ t
    have ht : Canonical t := h.foldl (fun _ _ hv => hv.record)
    exact .ite h (.ite h.mapCtx (.ite (.ite ht.mapCtx h.mapCtx) h))

theorem Canonical.quotaCheck {vf : Nat} (h : Canonical s) : Canonical (s.quotaCheck vf) := by
  unfold State.quotaCheck
  extract_lets _ _ _ _ t u v
  have ht : Canonical t := h.haltAll.mapHarts
  have hu : Canonical u := ht.foldl (fun _ _ hs => hs.record)
  have hv : Canonical v := hu.foldl (fun _ _ hs => hs.mapCtx.settleContext)
  exact .ite h (hv.frame (by rfl)).raise

theorem Canonical.quotaCheckFor {asid : Nat} (h : Canonical s) : Canonical (s.quotaCheckFor asid) := by
  unfold State.quotaCheckFor
  split
  · exact h.quotaCheck
  · exact h

theorem Canonical.mapGroup {id : Nat} {f : Group → Group} (h : Canonical s) : Canonical (s.mapGroup id f) := h.frame rfl
theorem Canonical.lateFault {uid : Nat} {t : Trap} (h : Canonical s) : Canonical (lateFault s uid t) := h.mapHarts
theorem Canonical.statusDone {w : StatusWrite} (h : Canonical s) : Canonical (statusDone s w) := .ite h.mapHarts h

theorem Canonical.tryStatus {w : StatusWrite} (h : Canonical s) : SomeAll Canonical (tryStatus s w) := by
  unfold Machine.tryStatus
  split
  · exact .some (h.pointWrite _ ‹_›).statusDone
  · exact .none
  · exact .some h.noteWalk.lateFault.statusDone
  · exact .some h.statusDone

theorem Canonical.statusWrite {w : StatusWrite} (h : Canonical s) :
    Canonical (statusWrite s w) := (h.frame (by rfl)).getD h.tryStatus

theorem Canonical.statusReady (h : Canonical s) :
    SomeAll Canonical (statusReady s) := .findSome? (fun _ => (h.frame (by rfl)).tryStatus)

theorem Canonical.abortStatus {x : Hart} {x1 : Nat × FabReg} (h : Canonical s) :
    Canonical (abortStatus x s x1) := .ite h h.statusWrite

theorem Canonical.settleGroup {id : Nat} (h : Canonical s) : Canonical (s.settleGroup id) := .ite h.mapGroup h

theorem Canonical.abortNow {id : Nat} (h : Canonical s) : Canonical (s.abortNow id) := by
  unfold State.abortNow
  extract_lets _ t u _ w
  have ht : Canonical t := h.mapGroup
  have hu : Canonical u := ht.foldl (fun x a hs => hs.foldl (fun _ _ hv => hv.abortStatus))
  have hw : Canonical w := hu.mapHarts
  exact hw.settleGroup

theorem Canonical.abortGroup {id : Nat} (h : Canonical s) : Canonical (s.abortGroup id) := .ite h.abortNow h
theorem Canonical.cancelGroup {id : Nat} (h : Canonical s) : Canonical (s.cancelGroup id) := .ite h h.abortNow
theorem Canonical.leaveRank {f : FabReg} (h : Canonical s) : Canonical (leaveRank s f) := .ite h.mapGroup h

theorem Canonical.freeGrants {launch : Word} {asid : Nat} (h : Canonical s) :
    Canonical (s.freeGrants launch asid) := h.frame rfl

theorem Canonical.mapQueue {n : Nat} {f : Queue → Queue} (h : Canonical s) : Canonical (s.mapQueue n f) := h.frame rfl
theorem Canonical.settleQueue {q : Nat} (h : Canonical s) : Canonical (s.settleQueue q) := .ite h.mapQueue h

theorem Canonical.freeHart (h : Canonical s) :
    Canonical s.freeHart := (h.owe.frame (by rfl)).freeGrants.settleContext.settleQueue.settleArbiters

theorem Canonical.retireUnit (h : Canonical s) : Canonical s.retireUnit := by
  unfold State.retireUnit
  extract_lets _ t u
  have ht : Canonical t := h.abortRegion.chargeCommands.foldl (fun _ _ hs => hs.abortGroup)
  have hu : Canonical u := ht.mapHart.freeHart
  exact hu.foldl (fun _ _ hs => hs.settleGroup)

/-! ### The functions of Machine/Arbiter.lean -/

theorem Canonical.joinArbiters {p : Place} {q : Nat} (h : Canonical s) : Canonical (joinArbiters s p q) := by
  unfold Machine.joinArbiters
  refine h.foldl (fun t a hs => ?_)
  exact hs.setArbiter

theorem Canonical.settleTurn {x : Arb} {ready : List Nat} (h : Canonical s) :
    Canonical (settleTurn s x ready) := .ite h h.setArbiter

theorem Canonical.occupyUnit {x : Arb} {n : Nat} (h : Canonical s) : Canonical (occupyUnit s x n) := by
  unfold Machine.occupyUnit
  extract_lets
  split
  · exact h.mapCore
  · exact h.mapCore
  · exact h

theorem Canonical.takeUnit {x : Arb} (h : Canonical s) : SomeAll Canonical (takeUnit s x) := by
  unfold Machine.takeUnit
  extract_lets ask
  have hask : ∀ (s : State), Canonical s → Canonical (ask s) := by
    intro t ht
    unfold ask
    exact ht.mapHart
  exact .ite .none (.ite (.some (hask _ h)) (.ite (.some (hask _ h.setArbiter)) .none))

theorem Canonical.chargeUnit {x : Arb} {n : Nat} (h : Canonical s) :
    Canonical (chargeUnit s x n) := h.chargeTurn.occupyUnit

theorem Canonical.chargeSequencer {n : Nat} (h : Canonical s) : Canonical (chargeSequencer s n) := h.chargeTurn

/-! ### The functions of Machine/Ops.lean -/

theorem Canonical.readyFrom {t : Nat} (h : Canonical s) : Canonical (readyFrom s t) := by
  unfold Machine.readyFrom
  split <;> exact h.mapHart

theorem Canonical.retireTo {next : Word} (h : Canonical s) : Canonical (retireTo s next) := by
  unfold Machine.retireTo
  extract_lets t
  have ht : Canonical t := h.readyFrom
  split
  · exact ht.mapHart
  · exact ht.chargeSequencer.mapHart

theorem Canonical.retire (h : Canonical s) : Canonical (retire s) := h.retireTo
theorem Canonical.stall (h : Canonical s) : Canonical (stall s) := h.readyFrom

theorem Canonical.awaitUnit {x : Arb} (h : Canonical s) : Canonical (awaitUnit s x) := by
  unfold Machine.awaitUnit
  exact h.stall.mapHart

theorem Canonical.atUnit {x : Arb} {body : State → Except Stop State}
    (h : Canonical s) (hbody : ∀ (u : State), Canonical u → OkAll Canonical (body u)) :
    OkAll Canonical (atUnit s x body) := by
  unfold Machine.atUnit
  split
  · exact hbody _ (h.takeUnit _ ‹_›)
  · exact .ok h.awaitUnit

theorem Canonical.deliver {t : Trap} {src : TrapSource} {eng : Bool} {qpos : Word} (h : Canonical s) :
    Canonical (deliver s t src eng qpos) := by
  unfold Machine.deliver
  extract_lets _ _ u _ v w
  have hu : Canonical u := h.stopBoth.abortRegion
  have hv : Canonical v := hu.mapHart
  have hw : Canonical w := .ite hv.settleGroup hv
  exact .ite hw.quotaCheckFor hw

theorem Canonical.takeTrap {t : Trap} {src : TrapSource} {eng : Bool} {at_ : Option Word} (h : Canonical s) :
    Canonical (takeTrap s t src eng at_) := by
  unfold Machine.takeTrap
  extract_lets _ u
  have hu : Canonical u := (h.frame (by rfl)).noteWalk
  split
  · exact hu.haltHart.record.settleContext.quotaCheckFor
  · exact .ite hu.retireUnit.record.quotaCheckFor hu.deliver

theorem Canonical.returnFromTrap (h : Canonical s) : Canonical (returnFromTrap s) := by
  unfold Machine.returnFromTrap
  exact h.retireTo.mapHart

theorem Canonical.discardWait (h : Canonical s) : Canonical (discardWait s) := by
  unfold Machine.discardWait
  split
  · exact h
  · exact h.mapHart

theorem Canonical.finish {x : Except Stop State} (h : Canonical s) (hx : OkAll Canonical x) :
    NextCanonical (finish s x) := by
  unfold Machine.finish
  split
  · exact .next (hx _ rfl)
  · exact .next h.takeTrap
  · exact .fault
  · exact .next h.stall

theorem Canonical.runInterlocked {mark : SideMark} {wf fit : Bool} {deny : State → Option Trap}
    {reads writes : List RegId} {body : State → Except Stop State} (h : Canonical s)
    (hbody : ∀ (u : State), Canonical u → OkAll Canonical (body u)) :
    NextCanonical (runInterlocked s mark wf fit deny reads writes body) := by
  unfold Machine.runInterlocked
  split
  · exact h.finish .error
  · extract_lets t
    have ht : Canonical t := h.mapHart
    split
    · exact .next ht.readyFrom
    · split
      · exact ht.finish .error
      · exact ht.finish (hbody _ ht)

theorem Canonical.runPlain {mark : SideMark} {wf fit : Bool} {reads writes : List RegId}
    {body : State → Except Stop State} (h : Canonical s) (hbody : ∀ (u : State), Canonical u → OkAll Canonical (body u))
    :
    NextCanonical (runPlain s mark wf fit reads writes body) := h.discardWait.runInterlocked (fun _ hs => hbody _ hs)

theorem Canonical.trapAfter {x : Stop} (h : Canonical s) : OkAll Canonical (trapAfter s x) := by
  unfold Machine.trapAfter
  split
  · exact .ok h.takeTrap
  · exact .error

theorem Canonical.perform {ws : List RegWrite} {lat : Timing} (h : Canonical s) : Canonical (s.perform ws lat) := by
  unfold State.perform
  extract_lets _ t
  have ht : Canonical t := .ite h (h.frame rfl)
  exact .ite ht.mapHart ht.mapHart

theorem Canonical.holdLanes {n : Nat} (h : Canonical s) : Canonical (holdLanes s n) := .ite h.mapHart h

theorem Canonical.enterLanes {before : Hart} {lat : Timing} (h : Canonical s) :
    Canonical (enterLanes s before lat) := .ite h.mapHart h

theorem Canonical.runFixed {mark : SideMark} {wf fit : Bool} {reads writes : List RegId} {lat : Timing}
    {body : State → Except Stop Result} (h : Canonical s)
    (hbody : ∀ (u : State), Canonical u → OkAll (fun x => Canonical x.state) (body u)) :
    NextCanonical (runFixed s mark wf fit reads writes lat body) := by
  unfold Machine.runFixed
  extract_lets t u
  have ht : Canonical t := h.discardWait
  have hu : Canonical u := ht.mapHart
  split
  · exact ht.finish .error
  · split
    · exact .next hu.readyFrom
    · split
      · exact hu.finish .error
      · split
        · exact hu.finish .error
        · split
          · exact hu.finish .error
          · split
            · exact .next ((hbody _ hu) _ ‹_›).perform.retire.enterLanes
            · exact .next ((hbody _ hu) _ ‹_›).mapHart.stall

/-! ### The functions of Machine/IntAlu.lean -/

theorem Canonical.scalarOp {rs : List (BitVec 5)} {d : BitVec 5} {lat : Nat} {f : Hart → Word} (h : Canonical s) :
    NextCanonical (scalarOp s rs d lat f) := h.runFixed (fun _ hs => .ok_result hs)

theorem Canonical.binaryOp {d a b : BitVec 5} {lat : Nat} {f : Word → Word → Word} (h : Canonical s) :
    NextCanonical (binaryOp s d a b lat f) := h.scalarOp

theorem Canonical.unaryOp {d a : BitVec 5} {lat : Nat} {f : Word → Word} (h : Canonical s) :
    NextCanonical (unaryOp s d a lat f) := h.scalarOp

theorem Canonical.execAdd {d a b : BitVec 5} (h : Canonical s) : NextCanonical (execAdd d a b s) := h.binaryOp
theorem Canonical.execSub {d a b : BitVec 5} (h : Canonical s) : NextCanonical (execSub d a b s) := h.binaryOp
theorem Canonical.execAnd {d a b : BitVec 5} (h : Canonical s) : NextCanonical (execAnd d a b s) := h.binaryOp
theorem Canonical.execOr {d a b : BitVec 5} (h : Canonical s) : NextCanonical (execOr d a b s) := h.binaryOp
theorem Canonical.execXor {d a b : BitVec 5} (h : Canonical s) : NextCanonical (execXor d a b s) := h.binaryOp
theorem Canonical.execAndn {d a b : BitVec 5} (h : Canonical s) : NextCanonical (execAndn d a b s) := h.binaryOp
theorem Canonical.execShl {d a b : BitVec 5} (h : Canonical s) : NextCanonical (execShl d a b s) := h.binaryOp
theorem Canonical.execShr {d a b : BitVec 5} (h : Canonical s) : NextCanonical (execShr d a b s) := h.binaryOp
theorem Canonical.execSra {d a b : BitVec 5} (h : Canonical s) : NextCanonical (execSra d a b s) := h.binaryOp
theorem Canonical.execMul {d a b : BitVec 5} (h : Canonical s) : NextCanonical (execMul d a b s) := h.binaryOp
theorem Canonical.execMulh {d a b : BitVec 5} (h : Canonical s) : NextCanonical (execMulh d a b s) := h.binaryOp
theorem Canonical.execMulhn {d a b : BitVec 5} (h : Canonical s) : NextCanonical (execMulhn d a b s) := h.binaryOp
theorem Canonical.execDiv {d a b : BitVec 5} (h : Canonical s) : NextCanonical (execDiv d a b s) := h.binaryOp
theorem Canonical.execDivn {d a b : BitVec 5} (h : Canonical s) : NextCanonical (execDivn d a b s) := h.binaryOp
theorem Canonical.execRem {d a b : BitVec 5} (h : Canonical s) : NextCanonical (execRem d a b s) := h.binaryOp
theorem Canonical.execRemn {d a b : BitVec 5} (h : Canonical s) : NextCanonical (execRemn d a b s) := h.binaryOp
theorem Canonical.execSlt {d a b : BitVec 5} (h : Canonical s) : NextCanonical (execSlt d a b s) := h.binaryOp
theorem Canonical.execSltn {d a b : BitVec 5} (h : Canonical s) : NextCanonical (execSltn d a b s) := h.binaryOp
theorem Canonical.execMin {d a b : BitVec 5} (h : Canonical s) : NextCanonical (execMin d a b s) := h.binaryOp
theorem Canonical.execMax {d a b : BitVec 5} (h : Canonical s) : NextCanonical (execMax d a b s) := h.binaryOp
theorem Canonical.execMinn {d a b : BitVec 5} (h : Canonical s) : NextCanonical (execMinn d a b s) := h.binaryOp
theorem Canonical.execMaxn {d a b : BitVec 5} (h : Canonical s) : NextCanonical (execMaxn d a b s) := h.binaryOp
theorem Canonical.execClz {d a : BitVec 5} (h : Canonical s) : NextCanonical (execClz d a s) := h.unaryOp
theorem Canonical.execCtz {d a : BitVec 5} (h : Canonical s) : NextCanonical (execCtz d a s) := h.unaryOp
theorem Canonical.execPopc {d a : BitVec 5} (h : Canonical s) : NextCanonical (execPopc d a s) := h.unaryOp
theorem Canonical.execRotl {d a b : BitVec 5} (h : Canonical s) : NextCanonical (execRotl d a b s) := h.binaryOp
theorem Canonical.execSel {d a b : BitVec 5} (h : Canonical s) : NextCanonical (execSel d a b s) := h.scalarOp

theorem Canonical.execAddi {d a : BitVec 5} {i : BitVec 9} (h : Canonical s) :
    NextCanonical (execAddi d a i s) := h.unaryOp

theorem Canonical.execAndi {d a : BitVec 5} {i : BitVec 9} (h : Canonical s) :
    NextCanonical (execAndi d a i s) := h.unaryOp

theorem Canonical.execOri {d a : BitVec 5} {i : BitVec 9} (h : Canonical s) :
    NextCanonical (execOri d a i s) := h.unaryOp

theorem Canonical.execXori {d a : BitVec 5} {i : BitVec 9} (h : Canonical s) :
    NextCanonical (execXori d a i s) := h.unaryOp

theorem Canonical.execSlti {d a : BitVec 5} {i : BitVec 9} (h : Canonical s) :
    NextCanonical (execSlti d a i s) := h.unaryOp

theorem Canonical.execShli {d a : BitVec 5} {i : BitVec 6} (h : Canonical s) :
    NextCanonical (execShli d a i s) := h.unaryOp

theorem Canonical.execShri {d a : BitVec 5} {i : BitVec 6} (h : Canonical s) :
    NextCanonical (execShri d a i s) := h.unaryOp

theorem Canonical.execSrai {d a : BitVec 5} {i : BitVec 6} (h : Canonical s) :
    NextCanonical (execSrai d a i s) := h.unaryOp

theorem Canonical.execLis {d : BitVec 5} {i : BitVec 17} (h : Canonical s) : NextCanonical (execLis d i s) := h.scalarOp

theorem Canonical.execShim {d : BitVec 5} {i : BitVec 17} (h : Canonical s) :
    NextCanonical (execShim d i s) := h.scalarOp

/-! ### The functions of Machine/Amo.lean -/

theorem Canonical.amoOp {d a b : BitVec 5} {c : BitVec 3} {f : Word → Word → Word → Word} (h : Canonical s) :
    NextCanonical (amoOp s d a b c f) := by
  unfold Machine.amoOp
  refine h.runPlain (fun u hs => ?_)
  extract_lets
  split
  · exact .error
  · refine .bind hs.amoLocate fun ⟨a2, t⟩ ht => ?_
    dsimp only
    split
    · exact .error
    · exact .ok (ht.amoRead.amoPut _ ‹_›).markAccess.mapHart.retire

theorem Canonical.execAmoAdd {d a b : BitVec 5} {c : BitVec 3} (h : Canonical s) :
    NextCanonical (execAmoAdd d a b c s) := h.amoOp

theorem Canonical.execAmoAnd {d a b : BitVec 5} {c : BitVec 3} (h : Canonical s) :
    NextCanonical (execAmoAnd d a b c s) := h.amoOp

theorem Canonical.execAmoOr {d a b : BitVec 5} {c : BitVec 3} (h : Canonical s) :
    NextCanonical (execAmoOr d a b c s) := h.amoOp

theorem Canonical.execAmoXor {d a b : BitVec 5} {c : BitVec 3} (h : Canonical s) :
    NextCanonical (execAmoXor d a b c s) := h.amoOp

theorem Canonical.execAmoMin {d a b : BitVec 5} {c : BitVec 3} (h : Canonical s) :
    NextCanonical (execAmoMin d a b c s) := h.amoOp

theorem Canonical.execAmoMax {d a b : BitVec 5} {c : BitVec 3} (h : Canonical s) :
    NextCanonical (execAmoMax d a b c s) := h.amoOp

theorem Canonical.execAmoSwap {d a b : BitVec 5} {c : BitVec 3} (h : Canonical s) :
    NextCanonical (execAmoSwap d a b c s) := h.amoOp

theorem Canonical.execAmoCas {d a b : BitVec 5} {c : BitVec 3} (h : Canonical s) :
    NextCanonical (execAmoCas d a b c s) := h.amoOp

theorem Canonical.execAmoFadd {d a b : BitVec 5} {c : BitVec 3} (h : Canonical s) :
    NextCanonical (execAmoFadd d a b c s) := h.amoOp

/-! ### The functions of Machine/Footprint.lean -/

theorem Canonical.clearCovered {bits : List Int} {w : Nat} (h : Canonical s) : Canonical (clearCovered s bits w) := by
  unfold Machine.clearCovered
  split
  · exact h
  · exact h.foldl (fun _ _ hs => hs.clearPoison)

theorem Canonical.orderedRead {x : Hart} {mk : MarkKind} {va n : Nat} (h : Canonical s) :
    OkAll (fun x => Canonical x.2) (orderedRead s x mk va n) := .after fun _ => h.pointRead

theorem Canonical.orderedWrite {x : Hart} {mk : MarkKind} {va n v : Nat} (h : Canonical s) :
    OkAll Canonical (orderedWrite s x mk va n v) := .after fun _ => h.pointWrite

theorem Canonical.rangeRead {x : Hart} {mk : MarkKind} {n n1 n2 : Nat} (h : Canonical s) :
    OkAll (fun x => Canonical x.2) (rangeRead s x mk n n1 n2) := by
  induction n generalizing s x mk n1 n2 with
  | zero =>
    rw [Machine.rangeRead]
    exact .ok_snd h
  | succ n ih =>
    rw [Machine.rangeRead]
    split
    · exact .ok_snd h
    · extract_lets
      exact .bind h.orderedRead fun ⟨a, t⟩ ht => .bind (ih ht) fun ⟨a2, u⟩ ht2 => .ok_snd ht2

theorem Canonical.rangeWrite {x : Hart} {mk : MarkKind} {n n1 n2 n3 : Nat} (h : Canonical s) :
    OkAll Canonical (rangeWrite s x mk n n1 n2 n3) := by
  induction n generalizing s x mk n1 n2 n3 with
  | zero =>
    rw [Machine.rangeWrite]
    exact .ok h
  | succ n ih =>
    rw [Machine.rangeWrite]
    split
    · exact .ok h
    · extract_lets
      exact .bind h.orderedWrite fun t ht => ih ht

theorem Canonical.varyTime (h : Canonical s) : Canonical (varyTime s) := by
  unfold Machine.varyTime
  split
  · dsimp only
    exact h.draw.mapHart
  · exact h

/-! ### The functions of Machine/Csr.lean -/

theorem Canonical.setResident {n : Nat} (h : Canonical s) : Canonical (setResident s n) := by
  induction n generalizing s with
  | zero =>
    rw [Machine.setResident]
    exact h.mapHart
  | succ n ih =>
    rw [Machine.setResident]
    split
    · exact h
    · split
      · exact h.mapHart
      · extract_lets t
        have ht : Canonical t := ih h
        dsimp only
        exact ht.draw.mapHart

theorem Canonical.writeVpfb {v : Nat} (h : Canonical s) : Canonical (writeVpfb s v) := h.mapHart.setResident

theorem Canonical.csrSet {x : BitVec 12} {v : Nat} (h : Canonical s) : Canonical (csrSet s x v) := by
  unfold Machine.csrSet
  extract_lets c put
  have hput : ∀ (c : ControlRegs), Canonical (put c) := by
    intro c2
    unfold put
    exact h.mapHart
  split
  · exact hput _
  · exact hput _
  · exact hput _
  · exact hput _
  · exact hput _
  · exact hput _
  · exact hput _
  · exact hput _
  · exact hput _
  · exact hput _
  · exact hput _
  · exact hput _
  · exact hput _
  · exact h.writeVpfb
  · exact hput _
  · exact h

theorem Canonical.noteCleared {x : BitVec 12} {src : Nat} (h : Canonical s) :
    Canonical (noteCleared s x src) := .ite h.mapHart h

theorem Canonical.csrWrite {x : BitVec 12} {src : Nat} {gain : Bool} (h : Canonical s) :
    Canonical (csrWrite s x src gain) := .ite h h.noteCleared.csrSet

theorem Canonical.csrOp {d a : BitVec 5} {x : BitVec 12} {gain : Bool} (h : Canonical s) :
    NextCanonical (csrOp s d a x gain) := h.discardWait.runInterlocked (fun _ hs => .ok hs.csrWrite.xWrite.retire)

theorem Canonical.execCsrx {d a : BitVec 5} {x : BitVec 12} (h : Canonical s) :
    NextCanonical (execCsrx d a x s) := h.csrOp

theorem Canonical.execCsrs {d a : BitVec 5} {x : BitVec 12} (h : Canonical s) :
    NextCanonical (execCsrs d a x s) := h.csrOp

theorem Canonical.csrEvent {x : BitVec 12} {v : Word} (h : Canonical s) :
    Canonical (csrEvent s x v) := .ite h h.csrWrite

theorem Canonical.execFrmWrite {v : BitVec 64} (h : Canonical s) : NextCanonical (execFrmWrite v s) := .next h.csrEvent

theorem Canonical.execVpfbWrite {v : BitVec 64} (h : Canonical s) :
    NextCanonical (execVpfbWrite v s) := .next h.csrEvent

theorem Canonical.execSpdiscWrite {v : BitVec 64} (h : Canonical s) :
    NextCanonical (execSpdiscWrite v s) := .next h.csrEvent

/-! ### The functions of Machine/Operands.lean -/

theorem Canonical.unstopped {mixed : Bool} (h : Canonical s) : Canonical (unstopped s mixed) := .ite (h.frame rfl) h

theorem Canonical.elementWise {t : VType} {d : Dest} {m : BitVec 3} {capable draws : Bool} {f : Nat → Nat → Nat × Flags}
    (h : Canonical s) :
    Canonical (elementWise s t d m capable draws f).state := by
  unfold Machine.elementWise
  extract_lets _ _ _ _ _ u
  have hu : Canonical u := h.mapHart
  exact hu

theorem Canonical.elementOp {t : VType} {d : Dest} {m : BitVec 3} {capable : Bool} {f : Nat → Nat × Flags}
    (h : Canonical s) :
    Canonical (elementOp s t d m capable f).state := h.elementWise

theorem Canonical.crossOp {t : VType} {d : Dest} {lanes : List (Option Nat)} (h : Canonical s) :
    Canonical (crossOp s t d lanes).state := by
  unfold Machine.crossOp
  split <;> exact h

theorem Canonical.wholeOp {writes : List RegWrite} {done : State → State}
    (h : Canonical s) (hdone : ∀ (u : State), Canonical u → Canonical (done u)) :
    Canonical (wholeOp s writes done).state := by
  unfold Machine.wholeOp
  split
  · exact h
  · exact hdone _ h

theorem Canonical.maskOp {t : VType} {d : BitVec 5} {m : BitVec 3} {f : Nat → Bool} (h : Canonical s) :
    Canonical (maskOp s t d m f).state := by
  unfold Machine.maskOp
  extract_lets
  exact h

theorem Canonical.vectorOp {wf : Bool} {fit : VType → Bool} {reads writes : VType → List RegId} {lat : VType → Timing}
    {body : State → VType → Result} (h : Canonical s)
    (hbody : ∀ (u : State) (a : VType), Canonical u → Canonical (body u a).state) :
    NextCanonical (vectorOp s wf fit reads writes lat body) := h.runFixed (fun _ hs => .ok (hbody _ _ hs))

/-! ### The functions of Machine/VInt.lean -/

theorem Canonical.vintWord {d a : BitVec 5} {b : SecondSource} {m : BitVec 3} {binary mul : Bool} {f : ElemOp}
    (h : Canonical s) :
    NextCanonical (vintWord s d a b m binary mul f) := by
  unfold Machine.vintWord
  refine h.vectorOp (fun t c hs => ?_)
  extract_lets
  exact hs.elementOp

theorem Canonical.execVadd {d a b : BitVec 5} {m : BitVec 3} (h : Canonical s) :
    NextCanonical (execVadd d a b m s) := h.vintWord

theorem Canonical.execVsub {d a b : BitVec 5} {m : BitVec 3} (h : Canonical s) :
    NextCanonical (execVsub d a b m s) := h.vintWord

theorem Canonical.execVmul {d a b : BitVec 5} {m : BitVec 3} (h : Canonical s) :
    NextCanonical (execVmul d a b m s) := h.vintWord

theorem Canonical.execVmulh {d a b : BitVec 5} {m : BitVec 3} (h : Canonical s) :
    NextCanonical (execVmulh d a b m s) := h.vintWord

theorem Canonical.execVmulhn {d a b : BitVec 5} {m : BitVec 3} (h : Canonical s) :
    NextCanonical (execVmulhn d a b m s) := h.vintWord

theorem Canonical.execVmin {d a b : BitVec 5} {m : BitVec 3} (h : Canonical s) :
    NextCanonical (execVmin d a b m s) := h.vintWord

theorem Canonical.execVmax {d a b : BitVec 5} {m : BitVec 3} (h : Canonical s) :
    NextCanonical (execVmax d a b m s) := h.vintWord

theorem Canonical.execVminn {d a b : BitVec 5} {m : BitVec 3} (h : Canonical s) :
    NextCanonical (execVminn d a b m s) := h.vintWord

theorem Canonical.execVmaxn {d a b : BitVec 5} {m : BitVec 3} (h : Canonical s) :
    NextCanonical (execVmaxn d a b m s) := h.vintWord

theorem Canonical.execVand {d a b : BitVec 5} {m : BitVec 3} (h : Canonical s) :
    NextCanonical (execVand d a b m s) := h.vintWord

theorem Canonical.execVor {d a b : BitVec 5} {m : BitVec 3} (h : Canonical s) :
    NextCanonical (execVor d a b m s) := h.vintWord

theorem Canonical.execVxor {d a b : BitVec 5} {m : BitVec 3} (h : Canonical s) :
    NextCanonical (execVxor d a b m s) := h.vintWord

theorem Canonical.execVandn {d a b : BitVec 5} {m : BitVec 3} (h : Canonical s) :
    NextCanonical (execVandn d a b m s) := h.vintWord

theorem Canonical.execVshl {d a b : BitVec 5} {m : BitVec 3} (h : Canonical s) :
    NextCanonical (execVshl d a b m s) := h.vintWord

theorem Canonical.execVshr {d a b : BitVec 5} {m : BitVec 3} (h : Canonical s) :
    NextCanonical (execVshr d a b m s) := h.vintWord

theorem Canonical.execVsra {d a b : BitVec 5} {m : BitVec 3} (h : Canonical s) :
    NextCanonical (execVsra d a b m s) := h.vintWord

theorem Canonical.execVintsVadd {d a b : BitVec 5} {m : BitVec 3} (h : Canonical s) :
    NextCanonical (execVintsVadd d a b m s) := h.vintWord

theorem Canonical.execVintsVsub {d a b : BitVec 5} {m : BitVec 3} (h : Canonical s) :
    NextCanonical (execVintsVsub d a b m s) := h.vintWord

theorem Canonical.execVintsVmul {d a b : BitVec 5} {m : BitVec 3} (h : Canonical s) :
    NextCanonical (execVintsVmul d a b m s) := h.vintWord

theorem Canonical.execVintsVmulh {d a b : BitVec 5} {m : BitVec 3} (h : Canonical s) :
    NextCanonical (execVintsVmulh d a b m s) := h.vintWord

theorem Canonical.execVintsVmulhn {d a b : BitVec 5} {m : BitVec 3} (h : Canonical s) :
    NextCanonical (execVintsVmulhn d a b m s) := h.vintWord

theorem Canonical.execVintsVmin {d a b : BitVec 5} {m : BitVec 3} (h : Canonical s) :
    NextCanonical (execVintsVmin d a b m s) := h.vintWord

theorem Canonical.execVintsVmax {d a b : BitVec 5} {m : BitVec 3} (h : Canonical s) :
    NextCanonical (execVintsVmax d a b m s) := h.vintWord

theorem Canonical.execVintsVminn {d a b : BitVec 5} {m : BitVec 3} (h : Canonical s) :
    NextCanonical (execVintsVminn d a b m s) := h.vintWord

theorem Canonical.execVintsVmaxn {d a b : BitVec 5} {m : BitVec 3} (h : Canonical s) :
    NextCanonical (execVintsVmaxn d a b m s) := h.vintWord

theorem Canonical.execVintsVand {d a b : BitVec 5} {m : BitVec 3} (h : Canonical s) :
    NextCanonical (execVintsVand d a b m s) := h.vintWord

theorem Canonical.execVintsVor {d a b : BitVec 5} {m : BitVec 3} (h : Canonical s) :
    NextCanonical (execVintsVor d a b m s) := h.vintWord

theorem Canonical.execVintsVxor {d a b : BitVec 5} {m : BitVec 3} (h : Canonical s) :
    NextCanonical (execVintsVxor d a b m s) := h.vintWord

theorem Canonical.execVintsVandn {d a b : BitVec 5} {m : BitVec 3} (h : Canonical s) :
    NextCanonical (execVintsVandn d a b m s) := h.vintWord

theorem Canonical.execVintsVshl {d a b : BitVec 5} {m : BitVec 3} (h : Canonical s) :
    NextCanonical (execVintsVshl d a b m s) := h.vintWord

theorem Canonical.execVintsVshr {d a b : BitVec 5} {m : BitVec 3} (h : Canonical s) :
    NextCanonical (execVintsVshr d a b m s) := h.vintWord

theorem Canonical.execVintsVsra {d a b : BitVec 5} {m : BitVec 3} (h : Canonical s) :
    NextCanonical (execVintsVsra d a b m s) := h.vintWord

/-! ### The functions of Machine/VFlt.lean -/

theorem Canonical.vfltWord {d a : BitVec 5} {b : SecondSource} {m : BitVec 3} {small : Bool} {c lat : Nat} {f : FloatOp}
    (h : Canonical s) :
    NextCanonical (vfltWord s d a b m small c lat f) := by
  unfold Machine.vfltWord
  refine h.vectorOp (fun t e hs => ?_)
  extract_lets
  exact hs.elementOp

theorem Canonical.vfltUnary {d a : BitVec 5} {m : BitVec 3} {small : Bool} {c lat : Nat}
    {f : FloatFormat → RoundMode → Nat → Nat × Flags} (h : Canonical s) :
    NextCanonical (vfltUnary s d a m small c lat f) := h.vfltWord

theorem Canonical.execVfadd {d a b : BitVec 5} {m : BitVec 3} (h : Canonical s) :
    NextCanonical (execVfadd d a b m s) := h.vfltWord

theorem Canonical.execVfsub {d a b : BitVec 5} {m : BitVec 3} (h : Canonical s) :
    NextCanonical (execVfsub d a b m s) := h.vfltWord

theorem Canonical.execVfmul {d a b : BitVec 5} {m : BitVec 3} (h : Canonical s) :
    NextCanonical (execVfmul d a b m s) := h.vfltWord

theorem Canonical.execVfdiv {d a b : BitVec 5} {m : BitVec 3} (h : Canonical s) :
    NextCanonical (execVfdiv d a b m s) := h.vfltWord

theorem Canonical.execVfmin {d a b : BitVec 5} {m : BitVec 3} (h : Canonical s) :
    NextCanonical (execVfmin d a b m s) := h.vfltWord

theorem Canonical.execVfmax {d a b : BitVec 5} {m : BitVec 3} (h : Canonical s) :
    NextCanonical (execVfmax d a b m s) := h.vfltWord

theorem Canonical.execVfltsVfadd {d a b : BitVec 5} {m : BitVec 3} (h : Canonical s) :
    NextCanonical (execVfltsVfadd d a b m s) := h.vfltWord

theorem Canonical.execVfltsVfsub {d a b : BitVec 5} {m : BitVec 3} (h : Canonical s) :
    NextCanonical (execVfltsVfsub d a b m s) := h.vfltWord

theorem Canonical.execVfltsVfmul {d a b : BitVec 5} {m : BitVec 3} (h : Canonical s) :
    NextCanonical (execVfltsVfmul d a b m s) := h.vfltWord

theorem Canonical.execVfltsVfdiv {d a b : BitVec 5} {m : BitVec 3} (h : Canonical s) :
    NextCanonical (execVfltsVfdiv d a b m s) := h.vfltWord

theorem Canonical.execVfltsVfmin {d a b : BitVec 5} {m : BitVec 3} (h : Canonical s) :
    NextCanonical (execVfltsVfmin d a b m s) := h.vfltWord

theorem Canonical.execVfltsVfmax {d a b : BitVec 5} {m : BitVec 3} (h : Canonical s) :
    NextCanonical (execVfltsVfmax d a b m s) := h.vfltWord

theorem Canonical.execVfsqrt {d a : BitVec 5} {m : BitVec 3} (h : Canonical s) :
    NextCanonical (execVfsqrt d a m s) := h.vfltUnary

theorem Canonical.execVfabs {d a : BitVec 5} {m : BitVec 3} (h : Canonical s) :
    NextCanonical (execVfabs d a m s) := h.vfltUnary

theorem Canonical.execVfneg {d a : BitVec 5} {m : BitVec 3} (h : Canonical s) :
    NextCanonical (execVfneg d a m s) := h.vfltUnary

theorem Canonical.execVadds {d a b : BitVec 5} {m : BitVec 3} (h : Canonical s) :
    NextCanonical (execVadds d a b m s) := h.vfltWord

theorem Canonical.execVsubs {d a b : BitVec 5} {m : BitVec 3} (h : Canonical s) :
    NextCanonical (execVsubs d a b m s) := h.vfltWord

/-! ### The functions of Machine/VFma.lean -/

theorem Canonical.vfmaWord {d a b : BitVec 5} {m : BitVec 3} {negProd negAdd : Bool} (h : Canonical s) :
    NextCanonical (vfmaWord s d a b m negProd negAdd) := by
  unfold Machine.vfmaWord
  refine h.vectorOp (fun t c hs => ?_)
  extract_lets
  exact hs.elementOp

theorem Canonical.execVfma {d a b : BitVec 5} {m : BitVec 3} (h : Canonical s) :
    NextCanonical (execVfma d a b m s) := h.vfmaWord

theorem Canonical.execVfms {d a b : BitVec 5} {m : BitVec 3} (h : Canonical s) :
    NextCanonical (execVfms d a b m s) := h.vfmaWord

theorem Canonical.execVfnma {d a b : BitVec 5} {m : BitVec 3} (h : Canonical s) :
    NextCanonical (execVfnma d a b m s) := h.vfmaWord

theorem Canonical.execVfnms {d a b : BitVec 5} {m : BitVec 3} (h : Canonical s) :
    NextCanonical (execVfnms d a b m s) := h.vfmaWord

theorem Canonical.execVmac {d a b : BitVec 5} {m : BitVec 3} (h : Canonical s) :
    NextCanonical (execVmac d a b m s) := by
  unfold Machine.execVmac
  refine h.vectorOp (fun t c hs => ?_)
  extract_lets
  exact hs.elementOp

theorem Canonical.execVdot4 {d a b : BitVec 5} {m : BitVec 3} (h : Canonical s) :
    NextCanonical (execVdot4 d a b m s) := by
  unfold Machine.execVdot4
  refine h.vectorOp (fun t c hs => ?_)
  extract_lets
  exact hs.elementOp

theorem Canonical.execVdot2 {d a b : BitVec 5} {m : BitVec 3} (h : Canonical s) :
    NextCanonical (execVdot2 d a b m s) := by
  unfold Machine.execVdot2
  refine h.vectorOp (fun t c hs => ?_)
  extract_lets
  exact hs.elementOp

/-! ### The functions of Machine/VFun.lean -/

theorem Canonical.funnelWord {d a b : BitVec 5} {k : BitVec 6} {f : Nat → Nat → Nat → Nat} (h : Canonical s) :
    NextCanonical (funnelWord s d a b k f) := by
  unfold Machine.funnelWord
  refine h.vectorOp (fun t c hs => ?_)
  extract_lets
  exact hs.elementOp

theorem Canonical.execVfshl {d a b : BitVec 5} {k : BitVec 6} (h : Canonical s) :
    NextCanonical (execVfshl d a b k s) := h.funnelWord

theorem Canonical.execVfshr {d a b : BitVec 5} {k : BitVec 6} (h : Canonical s) :
    NextCanonical (execVfshr d a b k s) := h.funnelWord

theorem Canonical.log3Word {d a b : BitVec 5} {tt : Nat} (h : Canonical s) : NextCanonical (log3Word s d a b tt) := by
  unfold Machine.log3Word
  refine h.vectorOp (fun t c hs => ?_)
  extract_lets
  exact hs.elementOp

theorem Canonical.execLog3Low {d a b : BitVec 5} {tt : BitVec 7} (h : Canonical s) :
    NextCanonical (execLog3Low d a b tt s) := h.log3Word

theorem Canonical.execLog3High {d a b : BitVec 5} {tt : BitVec 7} (h : Canonical s) :
    NextCanonical (execLog3High d a b tt s) := h.log3Word

theorem Canonical.vbitWord {d a b : BitVec 5} {m : BitVec 3} {f : Nat → Nat → Nat → Nat} (h : Canonical s) :
    NextCanonical (vbitWord s d a b m f) := by
  unfold Machine.vbitWord
  refine h.vectorOp (fun t c hs => ?_)
  extract_lets
  exact hs.elementOp

theorem Canonical.execVpopc {d a : BitVec 5} {m : BitVec 3} (h : Canonical s) :
    NextCanonical (execVpopc d a m s) := h.vbitWord

theorem Canonical.execVclz {d a : BitVec 5} {m : BitVec 3} (h : Canonical s) :
    NextCanonical (execVclz d a m s) := h.vbitWord

theorem Canonical.execVbrev {d a : BitVec 5} {m : BitVec 3} (h : Canonical s) :
    NextCanonical (execVbrev d a m s) := h.vbitWord

theorem Canonical.execVrotl {d a b : BitVec 5} {m : BitVec 3} (h : Canonical s) :
    NextCanonical (execVrotl d a b m s) := h.vbitWord

/-! ### The functions of Machine/VPerm.lean -/

theorem Canonical.vpermWord {wf : Bool} {fit : VType → Bool} {d : BitVec 5} {m : BitVec 3} {reads : VType → List RegId}
    {c lat : Nat} {lanes : State → VType → List (Option Nat)} (h : Canonical s) :
    NextCanonical (vpermWord s wf fit d m reads c lat lanes) := h.vectorOp (fun _ _ hs => hs.crossOp)

theorem Canonical.execVslup {d a b : BitVec 5} {m : BitVec 3} (h : Canonical s) :
    NextCanonical (execVslup d a b m s) := h.vpermWord

theorem Canonical.execVsldn {d a b : BitVec 5} {m : BitVec 3} (h : Canonical s) :
    NextCanonical (execVsldn d a b m s) := h.vpermWord

theorem Canonical.execVgath {d a b : BitVec 5} {m : BitVec 3} (h : Canonical s) :
    NextCanonical (execVgath d a b m s) := h.vpermWord

theorem Canonical.execVpush {d a b : BitVec 5} {m : BitVec 3} (h : Canonical s) :
    NextCanonical (execVpush d a b m s) := h.vpermWord

theorem Canonical.execVcmpr {d a : BitVec 5} {m : BitVec 3} (h : Canonical s) :
    NextCanonical (execVcmpr d a m s) := h.vpermWord

theorem Canonical.execVexpd {d a : BitVec 5} {m : BitVec 3} (h : Canonical s) :
    NextCanonical (execVexpd d a m s) := h.vpermWord

theorem Canonical.execVbcst {d b : BitVec 5} {m : BitVec 3} (h : Canonical s) :
    NextCanonical (execVbcst d b m s) := h.vpermWord

theorem Canonical.execVext {d a b : BitVec 5} (h : Canonical s) : NextCanonical (execVext d a b s) := by
  unfold Machine.execVext
  refine h.vectorOp (fun t c hs => ?_)
  extract_lets
  exact hs.wholeOp (fun _ hv => hv)

theorem Canonical.execVid {d : BitVec 5} {m : BitVec 3} (h : Canonical s) : NextCanonical (execVid d m s) := h.vpermWord

theorem Canonical.execViota {d a : BitVec 5} {m : BitVec 3} (h : Canonical s) :
    NextCanonical (execViota d a m s) := h.vpermWord

/-! ### The functions of Machine/VRed.lean -/

theorem Canonical.vredWord {d a : BitVec 5} {m : BitVec 3} {fit : ElemType → Bool}
    {f : Hart → VType → (Nat → Nat) → Nat × Raised} (h : Canonical s) :
    NextCanonical (vredWord s d a m fit f) := by
  unfold Machine.vredWord
  refine h.vectorOp (fun t b hs => ?_)
  extract_lets
  exact hs.wholeOp (fun _ hv => hv.mapHart)

theorem Canonical.execVrsum {d a : BitVec 5} {m : BitVec 3} (h : Canonical s) :
    NextCanonical (execVrsum d a m s) := h.vredWord

theorem Canonical.plainReduce {d a : BitVec 5} {m : BitVec 3} {fit : ElemType → Bool} {identity : ElemType → Nat}
    {f : ElemType → Nat → Nat → Nat} (h : Canonical s) :
    NextCanonical (plainReduce s d a m fit identity f) := h.vredWord

theorem Canonical.execVrmax {d a : BitVec 5} {m : BitVec 3} (h : Canonical s) :
    NextCanonical (execVrmax d a m s) := h.plainReduce

theorem Canonical.execVrmin {d a : BitVec 5} {m : BitVec 3} (h : Canonical s) :
    NextCanonical (execVrmin d a m s) := h.plainReduce

theorem Canonical.execVrand {d a : BitVec 5} {m : BitVec 3} (h : Canonical s) :
    NextCanonical (execVrand d a m s) := h.plainReduce

theorem Canonical.execVror {d a : BitVec 5} {m : BitVec 3} (h : Canonical s) :
    NextCanonical (execVror d a m s) := h.plainReduce

theorem Canonical.execVrxor {d a : BitVec 5} {m : BitVec 3} (h : Canonical s) :
    NextCanonical (execVrxor d a m s) := h.plainReduce

theorem Canonical.execVfrsum {d a : BitVec 5} {m : BitVec 3} (h : Canonical s) :
    NextCanonical (execVfrsum d a m s) := h.vredWord

theorem Canonical.execVfrmax {d a : BitVec 5} {m : BitVec 3} (h : Canonical s) :
    NextCanonical (execVfrmax d a m s) := h.vredWord

theorem Canonical.execVfrmin {d a : BitVec 5} {m : BitVec 3} (h : Canonical s) :
    NextCanonical (execVfrmin d a m s) := h.vredWord

theorem Canonical.execVsmax {d a b : BitVec 5} {m : BitVec 3} (h : Canonical s) :
    NextCanonical (execVsmax d a b m s) := by
  unfold Machine.execVsmax
  extract_lets
  refine h.vectorOp (fun t c hs => ?_)
  extract_lets _ _ _ v
  have hv : Canonical v.state := hs.crossOp
  split
  · exact hv
  · dsimp only
    exact hs.mapHart

/-! ### The functions of Machine/VCvt.lean -/

theorem Canonical.vcvtWord {d a : BitVec 5} {m : BitVec 3} {dst : ElemType → Option ElemType}
    {dgroup : Nat → Option Nat} (h : Canonical s) :
    NextCanonical (vcvtWord s d a m dst dgroup) := by
  unfold Machine.vcvtWord
  extract_lets
  refine h.vectorOp (fun u b hs => ?_)
  extract_lets _ _ t
  have ht : Canonical t := hs.unstopped
  exact ht.elementWise

theorem Canonical.execCvtN {d a : BitVec 5} {k : BitVec 1} {m : BitVec 3} (h : Canonical s) :
    NextCanonical (execCvtN d a k m s) := h.vcvtWord

theorem Canonical.execCvtW {d a : BitVec 5} {k : BitVec 1} {m : BitVec 3} (h : Canonical s) :
    NextCanonical (execCvtW d a k m s) := h.vcvtWord

theorem Canonical.execCvtFi {d a : BitVec 5} {k : BitVec 1} {m : BitVec 3} (h : Canonical s) :
    NextCanonical (execCvtFi d a k m s) := h.vcvtWord

theorem Canonical.execCvtIf {d a : BitVec 5} {k : BitVec 1} {m : BitVec 3} (h : Canonical s) :
    NextCanonical (execCvtIf d a k m s) := h.vcvtWord

theorem Canonical.execCvtF4 {d a : BitVec 5} {m : BitVec 3} (h : Canonical s) :
    NextCanonical (execCvtF4 d a m s) := h.vcvtWord

theorem Canonical.execCvtQ {d a b : BitVec 5} {m : BitVec 3} (h : Canonical s) :
    NextCanonical (execCvtQ d a b m s) := by
  unfold Machine.execCvtQ
  extract_lets
  refine h.runFixed (fun v hs => ?_)
  extract_lets _ _ _ u
  have hu : Canonical u := hs.unstopped
  exact .ite .error (.ok hu.elementWise)

theorem Canonical.vsfuWord {d a : BitVec 5} {m : BitVec 3} {f : FloatFormat → FloatVal → Nat × Flags}
    (h : Canonical s) :
    NextCanonical (vsfuWord s d a m f) := by
  unfold Machine.vsfuWord
  refine h.vectorOp (fun t b hs => ?_)
  extract_lets
  exact hs.elementOp

theorem Canonical.execVexp2 {d a : BitVec 5} {m : BitVec 3} (h : Canonical s) :
    NextCanonical (execVexp2 d a m s) := h.vsfuWord

theorem Canonical.execVlog2 {d a : BitVec 5} {m : BitVec 3} (h : Canonical s) :
    NextCanonical (execVlog2 d a m s) := h.vsfuWord

theorem Canonical.execVrcp {d a : BitVec 5} {m : BitVec 3} (h : Canonical s) :
    NextCanonical (execVrcp d a m s) := h.vsfuWord

theorem Canonical.execVrsq {d a : BitVec 5} {m : BitVec 3} (h : Canonical s) :
    NextCanonical (execVrsq d a m s) := h.vsfuWord

theorem Canonical.execVtanh {d a : BitVec 5} {m : BitVec 3} (h : Canonical s) :
    NextCanonical (execVtanh d a m s) := h.vsfuWord

/-! ### The functions of Machine/Engine.lean -/

theorem Canonical.installRecord {at_ : Word} {l : List Byte} (h : Canonical s) :
    Canonical (installRecord s at_ l) := h.mapHart

theorem Canonical.readRecord {at_ : Word} (h : Canonical s) : OkAll (fun x => Canonical x.2) (readRecord s at_) := by
  unfold Machine.readRecord
  split
  · exact .error
  · split
    · dsimp only
      split
      · exact .bind h.choose.orderedRead fun ⟨a, t⟩ ht => .ok_snd ht.installRecord
      · exact .ok_snd h.choose.installRecord
    · exact .bind h.orderedRead fun ⟨a, t⟩ ht => .ok_snd ht.installRecord

theorem Canonical.readShape {at_ : Word} {blame : Nat} (h : Canonical s) :
    OkAll (fun x => Canonical x.2) (readShape s at_ blame) := by
  unfold Machine.readShape
  refine .bind h.readRecord fun ⟨a, t⟩ ht => ?_
  dsimp only
  split
  · exact .ok_snd ht
  · exact .error

theorem Canonical.takeNumber {tiles : List Nat} (h : Canonical s) : Canonical (takeNumber s tiles).2 := by
  unfold Machine.takeNumber
  extract_lets
  dsimp only
  exact h.mapHart

theorem Canonical.enqueue {c : EngCmd} (h : Canonical s) : Canonical (enqueue s c) := by
  unfold Machine.enqueue
  extract_lets put
  have hput : ∀ (s : State) (c : EngCmd), Canonical s → Canonical (put s c) := by
    intro t c2 ht
    unfold put
    exact ht.mapHart
  exact .ite (hput _ _ h) (hput _ _ h.takeNumber)

theorem Canonical.engineFault {k : Nat} {c : EngCmd} {x : Trap} (h : Canonical s) :
    Canonical (engineFault s k c x) := by
  unfold Machine.engineFault
  extract_lets _ u v
  have hu : Canonical u := h.chargeCommand.mapHart
  have hv : Canonical v := by
    unfold v
    refine hu.foldl (fun w a hs => ?_)
    dsimp only
    exact hs.draw.mapHart
  exact .ite h.takeTrap (.ite hv.takeTrap hv.mapHart)

theorem Canonical.settleResult {r : Result} (hr : Canonical r.state) : Canonical (settleResult r) := by
  unfold Machine.settleResult
  split
  · exact hr.mapHart.retire
  · exact hr.mapHart.stall

theorem Canonical.engineWord {wf : Bool} {fit : VType → Bool} {reads writes : List RegId}
    {body : State → VType → Except Stop State} (h : Canonical s)
    (hbody : ∀ (u : State) (a : VType), Canonical u → OkAll Canonical (body u a)) :
    NextCanonical (engineWord s wf fit reads writes body) := h.runPlain (fun _ hs => hbody _ _ hs)

/-! ### The functions of Machine/Mma.lean -/

theorem Canonical.mmaWord {d a b : BitVec 4} {o : BitVec 10} {zero : Bool} (h : Canonical s) :
    NextCanonical (mmaWord s d a b o zero) := by
  unfold Machine.mmaWord
  refine h.engineWord (fun t c hs => ?_)
  exact .after fun _ => .after fun _ => .after fun _ => .ok hs.enqueue.retire

theorem Canonical.execMma {d a b : BitVec 4} {o : BitVec 10} (h : Canonical s) :
    NextCanonical (execMma d a b o s) := h.mmaWord

theorem Canonical.execMmaz {d a b : BitVec 4} {o : BitVec 10} (h : Canonical s) :
    NextCanonical (execMmaz d a b o s) := h.mmaWord

/-! ### The functions of Machine/Sync.lean -/

theorem Canonical.publishLines {core scope : Nat} {p : Nat → Bool} (h : Canonical s) :
    Canonical (publishLines s core scope p) := .ite (Canonical.ite h.l1Clean h).l2Clean (.ite h.l1Clean h)

theorem Canonical.acquireLines {core scope : Nat} {p : Nat → Bool} (h : Canonical s) :
    Canonical (acquireLines s core scope p) := .ite (Canonical.ite h.l1Flush h).l2Flush (.ite h.l1Flush h)

theorem Canonical.publishVector {uid core scope : Nat} (h : Canonical s) :
    Canonical (publishVector s uid core scope) := .ite h.l2Publish h

theorem Canonical.readObject {k : AccessKind} {least x : Nat} (h : Canonical s) :
    OkAll (fun x => Canonical x.2.2) (readObject s k least x) := by
  unfold Machine.readObject
  split
  · exact .error
  · refine .after fun _ => .bind h.amoLocate fun ⟨a2, t⟩ ht => ?_
    dsimp only
    exact .ok_snd_snd ht.settleLine.amoRead.markAccess

theorem Canonical.writeObject {x scope off n v : Nat} (h : Canonical s) :
    OkAll Canonical (writeObject s x scope off n v) := by
  unfold Machine.writeObject
  refine .after fun _ => ?_
  split
  · exact .error
  · exact .ok (h.settleLine.amoPut _ ‹_›).markAccess

theorem Canonical.readDescriptor {va : Nat} (h : Canonical s) :
    OkAll (fun x => Canonical x.2) (readDescriptor s va) := by
  unfold Machine.readDescriptor
  split
  · exact h.scalarRead
  · exact h.orderedRead

theorem Canonical.retirePerformed {core : Nat} {p : Nat → Bool} (h : Canonical s) :
    Canonical (retirePerformed s core p) := .ite h.stall h.retire

theorem Canonical.afterPublish {scope : Nat} {body : State → Except Stop State}
    (h : Canonical s) (hbody : ∀ (u : State), Canonical u → OkAll Canonical (body u)) :
    OkAll Canonical (afterPublish s scope body) := .ite (.ok h.publishLines.stall) (hbody _ h.publishLines)

theorem Canonical.execAcq {a : BitVec 5} (h : Canonical s) : NextCanonical (execAcq a s) := by
  unfold Machine.execAcq
  refine h.runPlain (fun u hs => ?_)
  extract_lets
  refine .bind hs.readObject fun ⟨a2, a3, t⟩ ht => .after fun _ => ?_
  split
  · exact .error
  · split
    · exact .ok ht.retire
    · exact .ok ht.acquireLines.retirePerformed

theorem Canonical.execRel {a : BitVec 5} (h : Canonical s) : NextCanonical (execRel a s) := by
  unfold Machine.execRel
  refine h.runPlain (fun u hs => ?_)
  extract_lets
  refine .bind hs.readObject fun ⟨a2, a3, t⟩ ht => .after fun _ => .after fun _ => ?_
  split
  · exact .ok ht.retire
  · exact .ok ht.publishLines.retirePerformed

theorem Canonical.execBind {d a b : BitVec 5} (h : Canonical s) : NextCanonical (execBind d a b s) := by
  unfold Machine.execBind
  refine h.runPlain (fun w hs => ?_)
  extract_lets
  split
  · exact .error
  · split
    · exact .error
    · refine .bind hs.readDescriptor fun ⟨a2, t⟩ ht => ?_
      dsimp only
      split
      · exact .error
      · split
        · exact .error
        · refine .bind ht.readObject fun ⟨a3, a4, u⟩ ht2 => .after fun _ => ?_
          split
          · exact .ok ht2.xWrite.retire
          · split
            · exact .error
            · split
              · exact .ok ht2.xWrite.retire
              · exact .after fun _ => .bind ht2.writeObject fun v ht3 => .ok ht3.xWrite.retire

theorem Canonical.clearSlots {x off n : Nat} (h : Canonical s) :
    OkAll Canonical (clearSlots s x off n) := .after fun _ => .bind h.amoLocate fun ⟨_, _⟩ ht => ht.writeObject

theorem Canonical.execUnbind {a b : BitVec 5} (h : Canonical s) : NextCanonical (execUnbind a b s) := by
  unfold Machine.execUnbind
  refine h.runPlain (fun u hs => ?_)
  extract_lets
  split
  · exact .error
  · split
    · exact .bind hs.clearSlots fun t ht => .ok ht.retire
    · split
      · exact .bind hs.clearSlots fun t ht => .ok ht.retire
      · exact .ok hs.retire

theorem Canonical.fenceActions {scope : Nat} (h : Canonical s) : Canonical (fenceActions s scope) := by
  unfold Machine.fenceActions
  exact h.publishLines.acquireLines

theorem Canonical.execFence {c : BitVec 3} (h : Canonical s) :
    NextCanonical (execFence c s) := h.runPlain (fun _ hs => .ite .error (.ok hs.fenceActions.retirePerformed))

theorem Canonical.execFenceV {c : BitVec 3} (h : Canonical s) : NextCanonical (execFenceV c s) := by
  unfold Machine.execFenceV
  refine h.runPlain (fun t hs => ?_)
  exact .after fun _ => .ok hs.publishVector.retire

/-! ### The functions of Machine/Snap.lean -/

theorem Canonical.mapOwnCtx {f : Context → Context} (h : Canonical s) : Canonical (mapOwnCtx s f) := h.mapCtx

theorem Canonical.threadBack {α : Type} {f : State → α → State × α} {x : List α}
    (hf : ∀ (u : State) (a : α), Canonical u → Canonical (f u a).1) (h : Canonical s) :
    Canonical (threadBack f s x).1 := by
  induction x generalizing s with
  | nil =>
    rw [Machine.threadBack]
    exact h
  | cons x l ih =>
    rw [Machine.threadBack]
    dsimp only
    exact hf _ _ (ih h)

theorem Canonical.threadOn {α : Type} {f : State → α → State × α} {x : List α}
    (hf : ∀ (u : State) (a : α), Canonical u → Canonical (f u a).1) (h : Canonical s) :
    Canonical (threadOn f s x).1 := by
  induction x generalizing s with
  | nil =>
    rw [Machine.threadOn]
    exact h
  | cons x l ih =>
    rw [Machine.threadOn]
    dsimp only
    exact ih (hf _ _ h)

theorem Canonical.onRequests {f : Nat → Nat → State → List BankItem → State × List BankItem} (h : Canonical s)
    (hf : ∀ a b u l, Canonical u → Canonical (f a b u l).1) : Canonical (onRequests f s) := by
  unfold Machine.onRequests
  dsimp only
  refine (h.foldl fun u a hu => ?_).foldl fun u a hu => ?_
  · split
    · exact hu
    · exact (hu.threadOn fun v r hv => hf _ _ v r.items hv).mapHarts
  · exact (hu.threadOn fun v e hv => hf _ _ v e.items hv).mapCore

theorem Canonical.putBack {stack a n v : Nat} (h : Canonical s) : Canonical (putBack s stack a n v) := h.putLine

theorem Canonical.rewindItem {lines : List (Nat × Nat)} {stack : Nat} {i : BankItem} (h : Canonical s) :
    Canonical (rewindItem lines stack s i).1 := by
  unfold Machine.rewindItem
  split
  · dsimp only
    split
    · exact h.choose.putBack
    · exact h.choose
  · exact h

theorem Canonical.redoItem {core uid : Nat} {i : BankItem} (h : Canonical s) : Canonical (redoItem core uid s i).1 := by
  unfold Machine.redoItem
  split
  · split
    · extract_lets
      exact h.mapCtx
    · exact h
    · dsimp only
      exact (h.guardWrite _ ‹_›).performItem
  · exact h

theorem Canonical.rewindRequests {lines : List (Nat × Nat)} (h : Canonical s) :
    Canonical (rewindRequests lines s) :=
  h.onRequests (fun _ _ _ _ hs => Canonical.threadBack (fun _ _ hv => hv.rewindItem) hs)

theorem Canonical.redoRequests (h : Canonical s) :
    Canonical (redoRequests s) := h.onRequests (fun _ _ _ _ hs => Canonical.threadOn (fun _ _ hv => hv.redoItem) hs)

theorem Canonical.beginLevel {lines : List (Nat × Nat)} {f : State → State} (h : Canonical s)
    (hf : ∀ (u : State), Canonical u → Canonical (f u)) :
    Canonical (beginLevel s lines f) := (hf _ h.barMoves.rewindRequests).redoRequests

theorem Canonical.execSnapBegin {d a b : BitVec 5} (h : Canonical s) : NextCanonical (execSnapBegin d a b s) := by
  unfold Machine.execSnapBegin
  refine h.runPlain (fun u hs => ?_)
  extract_lets _ _ _ give
  have hgive : ∀ (s : State) (v : Word), Canonical s → OkAll Canonical (give s v) := by
    intro t v ht
    unfold give
    exact .ok ht.mapHart.retire
  split
  · exact .error
  · split
    · exact .error
    · split
      · exact .ite .error (hgive _ _ (hs.beginLevel (fun _ hv => hv.mapOwnCtx)))
      · split
        · exact .error
        · split
          · exact hgive _ _ hs
          · exact hgive _ _ (hs.beginLevel (fun _ hv => hv.mapOwnCtx))

theorem Canonical.execSnapAccept {a : BitVec 5} (h : Canonical s) : NextCanonical (execSnapAccept a s) := by
  unfold Machine.execSnapAccept
  refine h.runPlain (fun t hs => ?_)
  extract_lets
  split
  · exact .error
  · exact .ok hs.mapOwnCtx.retire

theorem Canonical.restoreLine {x : Shadow} (h : Canonical s) : Canonical (restoreLine s x) := by
  have ht : Canonical (s.store x.line (memPutLine s.mem x.line x.data (BitVec.allOnes 128))) :=
    .store (wf_memPutLine h.wf _ _ _)
  unfold Machine.restoreLine
  generalize s.store x.line (memPutLine s.mem x.line x.data (BitVec.allOnes 128)) = t at ht
  exact (ht.frame (by rfl)).clearPoison

theorem Canonical.dropRange {x : SnapRange} (h : Canonical s) : Canonical (dropRange s x) := h.l1Flush

theorem Canonical.storeBack {r : Nat} {x : SnapRange} (h : Canonical s) :
    Canonical (storeBack s r x) := (h.foldl (fun _ _ hs => hs.restoreLine)).mapOwnCtx

theorem Canonical.rejectLevel {r : Nat} {x : SnapRange} (h : Canonical s) : Canonical (rejectLevel s r x) := by
  unfold Machine.rejectLevel
  dsimp only
  exact .ite h.choose.dropRange.storeBack h.choose.storeBack.dropRange

theorem Canonical.execSnapReject {a : BitVec 5} (h : Canonical s) : NextCanonical (execSnapReject a s) := by
  unfold Machine.execSnapReject
  refine h.runPlain (fun t hs => ?_)
  extract_lets
  split
  · exact .error
  · exact .ok hs.rejectLevel.retire

theorem Canonical.execSnapQuery {d a : BitVec 5} (h : Canonical s) : NextCanonical (execSnapQuery d a s) := by
  unfold Machine.execSnapQuery
  refine h.runPlain (fun t hs => ?_)
  exact .ite .error (.ok hs.mapHart.retire)

theorem Canonical.poolPages {base len : Nat} {x : List Nat} (h : Canonical s) :
    OkAll (fun x => Canonical x.2) (poolPages s base len x) := by
  induction x generalizing s base len with
  | nil =>
    rw [Machine.poolPages]
    exact .ok_snd h
  | cons x l ih =>
    rw [Machine.poolPages]
    dsimp only
    split
    · exact .error
    · split
      · exact .error
      · exact .after fun _ => .bind (ih h.markAccessed) fun ⟨a, t⟩ ht => .ok_snd ht

theorem Canonical.scrambleLine {line : Nat} (h : Canonical s) : Canonical (scrambleLine s line) := by
  refine ⟨?_⟩
  unfold Machine.scrambleLine
  dsimp only
  exact wf_memPutLine h.draw.wf _ _ _

theorem Canonical.emptyPool (h : Canonical s) :
    Canonical (emptyPool s) := (h.foldl (fun _ _ hs => hs.scrambleLine)).mapOwnCtx

theorem Canonical.execSnapPool {d a b : BitVec 5} (h : Canonical s) : NextCanonical (execSnapPool d a b s) := by
  unfold Machine.execSnapPool
  refine h.runPlain (fun u hs => ?_)
  extract_lets _ _ _ _ give
  have hgive : ∀ (s : State) (v : Word), Canonical s → OkAll Canonical (give s v) := by
    intro t v ht
    unfold give
    exact .ok ht.mapHart.retire
  split
  · exact hgive _ _ hs
  · split
    · exact .ite (hgive _ _ hs.emptyPool) (hgive _ _ hs)
    · split
      · exact .error
      · split
        · exact .error
        · split
          · exact hgive _ _ hs
          · exact .bind hs.poolPages fun ⟨a2, t⟩ ht => .ok ht.barMoves.mapOwnCtx.mapHart.retire

theorem Canonical.putHome {line : Nat} {data : Line} {mask : BitVec 128} (h : Canonical s) :
    Canonical (putHome s line data mask) := Canonical.store (wf_memPutLine h.wf _ _ _)

theorem Canonical.markWritten {at_ : Option Nat} (h : Canonical s) : Canonical (markWritten s at_) := by
  unfold Machine.markWritten
  split
  · exact h
  · exact .ite h.markLeaf h

theorem Canonical.settleItem {uid : Nat} {i : BankItem} {f : Flags} (h : Canonical s) :
    Canonical (settleItem s uid i f) := by
  unfold Machine.settleItem
  extract_lets _ t
  have ht : Canonical t := h.mapHarts
  exact ht.frame rfl

theorem Canonical.performHeld {w : HeldWrite} (h : Canonical s) : Canonical (performHeld s w) := by
  unfold Machine.performHeld
  split
  · dsimp only
    exact h.markWritten.performItem.elim fun _ => h.markWritten.performItem.settleItem
  · exact h.putLine.clearPoison
  · exact h.putHome.markWritten.clearPoison

theorem Canonical.dropHeld {w : HeldWrite} {owner : Option (Nat × Nat)} (h : Canonical s) :
    Canonical (dropHeld s w owner) := by
  unfold Machine.dropHeld
  split
  · exact h.settleItem
  · exact h.record
  · exact h

theorem Canonical.execShadowHeldWrite {asid k : Nat} (h : Canonical s) :
    NextCanonical (execShadowHeldWrite asid k s) := by
  unfold Machine.execShadowHeldWrite
  split
  · exact .next h
  · split
    · exact .next h
    · extract_lets freed
      have hfreed : ∀ (s : State), Canonical s → Canonical (freed s) := by
        intro t ht
        unfold freed
        exact ht.mapCtx
      split
      · exact .next h
      · split
        · exact .next h
        · exact .next (hfreed _ h).dropHeld
        · exact .next (hfreed _ (h.guardWrite _ ‹_›).owe).performHeld

theorem Canonical.execLazyRestore {asid range : Nat} (h : Canonical s) :
    NextCanonical (execLazyRestore asid range s) := .next h.mapCtx

/-! ### The functions of Machine/Branch.lean -/

theorem Canonical.pushStack {x : Word} (h : Canonical s) : OkAll Canonical (pushStack s x) := by
  unfold Machine.pushStack
  extract_lets
  split
  · exact .ok h.mapHart
  · exact .bind (OkAll.renameStop h.scalarWrite) fun t ht => .ok ht.mapHart

theorem Canonical.popStack (h : Canonical s) : OkAll (fun x => Canonical x.2) (popStack s) := by
  unfold Machine.popStack
  split
  · exact .ok_snd h.mapHart
  · extract_lets
    exact .bind (OkAll.renameStop h.scalarRead) fun ⟨a, t⟩ ht => .ok_snd ht.mapHart

theorem Canonical.branchIf {a : BitVec 5} {o : BitVec 14} {test : Word → Bool} (h : Canonical s) :
    NextCanonical (branchIf s a o test) := h.runPlain (fun _ hs => .ok (.ite hs.retireTo hs.retire))

theorem Canonical.execBeqz {a : BitVec 5} {o : BitVec 14} (h : Canonical s) :
    NextCanonical (execBeqz a o s) := h.branchIf

theorem Canonical.execBnez {a : BitVec 5} {o : BitVec 14} (h : Canonical s) :
    NextCanonical (execBnez a o s) := h.branchIf

theorem Canonical.execBltz {a : BitVec 5} {o : BitVec 14} (h : Canonical s) :
    NextCanonical (execBltz a o s) := h.branchIf

theorem Canonical.execBgez {a : BitVec 5} {o : BitVec 14} (h : Canonical s) :
    NextCanonical (execBgez a o s) := h.branchIf

theorem Canonical.execBgtz {a : BitVec 5} {o : BitVec 14} (h : Canonical s) :
    NextCanonical (execBgtz a o s) := h.branchIf

theorem Canonical.execBlez {a : BitVec 5} {o : BitVec 14} (h : Canonical s) :
    NextCanonical (execBlez a o s) := h.branchIf

theorem Canonical.execJmp {o : BitVec 22} (h : Canonical s) :
    NextCanonical (execJmp o s) := h.runPlain (fun _ hs => .ok hs.retireTo)

theorem Canonical.execCall {o : BitVec 22} (h : Canonical s) : NextCanonical (execCall o s) := by
  unfold Machine.execCall
  refine h.runPlain (fun u hs => ?_)
  extract_lets
  exact .bind hs.pushStack fun t ht => .ok ht.retireTo

theorem Canonical.execJr {a : BitVec 5} (h : Canonical s) : NextCanonical (execJr a s) := by
  unfold Machine.execJr
  refine h.runPlain (fun t hs => ?_)
  exact .ite .error (.ok hs.retireTo)

theorem Canonical.execCallr {a : BitVec 5} (h : Canonical s) : NextCanonical (execCallr a s) := by
  unfold Machine.execCallr
  refine h.runPlain (fun v hs => ?_)
  extract_lets
  split
  · exact .error
  · exact .bind hs.pushStack fun u ht => .ok ht.retireTo

theorem Canonical.execRet (h : Canonical s) : NextCanonical (execRet s) := by
  unfold Machine.execRet
  refine h.runPlain (fun u hs => ?_)
  refine .bind hs.popStack fun ⟨a, t⟩ ht => ?_
  dsimp only
  exact .ite (.ite .error (.ok ht.retireTo.mapHart)) (.ite .error (.ok ht.retireTo))

/-! ### The functions of Machine/VCmp.lean -/

theorem Canonical.vcmpWord {d a : BitVec 5} {b : SecondSource} {m : BitVec 3} {fit : ElemType → Bool}
    {f : ElemType → Nat → Nat → Bool} (h : Canonical s) :
    NextCanonical (vcmpWord s d a b m fit f) := by
  unfold Machine.vcmpWord
  refine h.vectorOp (fun t c hs => ?_)
  extract_lets
  exact hs.maskOp

theorem Canonical.intCompare {d a : BitVec 5} {b : SecondSource} {m : BitVec 3} {binary : Bool}
    {f : Nat → Nat → Nat → Bool} (h : Canonical s) :
    NextCanonical (intCompare s d a b m binary f) := h.vcmpWord

theorem Canonical.floatCompare {d a : BitVec 5} {b : SecondSource} {m : BitVec 3} {f : FloatVal → FloatVal → Bool}
    (h : Canonical s) :
    NextCanonical (floatCompare s d a b m f) := h.vcmpWord

theorem Canonical.execVceq {d a b : BitVec 5} {m : BitVec 3} (h : Canonical s) :
    NextCanonical (execVceq d a b m s) := h.intCompare

theorem Canonical.execVcne {d a b : BitVec 5} {m : BitVec 3} (h : Canonical s) :
    NextCanonical (execVcne d a b m s) := h.intCompare

theorem Canonical.execVclt {d a b : BitVec 5} {m : BitVec 3} (h : Canonical s) :
    NextCanonical (execVclt d a b m s) := h.intCompare

theorem Canonical.execVcle {d a b : BitVec 5} {m : BitVec 3} (h : Canonical s) :
    NextCanonical (execVcle d a b m s) := h.intCompare

theorem Canonical.execVcltn {d a b : BitVec 5} {m : BitVec 3} (h : Canonical s) :
    NextCanonical (execVcltn d a b m s) := h.intCompare

theorem Canonical.execVclen {d a b : BitVec 5} {m : BitVec 3} (h : Canonical s) :
    NextCanonical (execVclen d a b m s) := h.intCompare

theorem Canonical.execVfceq {d a b : BitVec 5} {m : BitVec 3} (h : Canonical s) :
    NextCanonical (execVfceq d a b m s) := h.floatCompare

theorem Canonical.execVfclt {d a b : BitVec 5} {m : BitVec 3} (h : Canonical s) :
    NextCanonical (execVfclt d a b m s) := h.floatCompare

theorem Canonical.execVfcle {d a b : BitVec 5} {m : BitVec 3} (h : Canonical s) :
    NextCanonical (execVfcle d a b m s) := h.floatCompare

theorem Canonical.execVfcun {d a b : BitVec 5} {m : BitVec 3} (h : Canonical s) :
    NextCanonical (execVfcun d a b m s) := h.floatCompare

theorem Canonical.execVcmpsVceq {d a b : BitVec 5} {m : BitVec 3} (h : Canonical s) :
    NextCanonical (execVcmpsVceq d a b m s) := h.intCompare

theorem Canonical.execVcmpsVcne {d a b : BitVec 5} {m : BitVec 3} (h : Canonical s) :
    NextCanonical (execVcmpsVcne d a b m s) := h.intCompare

theorem Canonical.execVcmpsVclt {d a b : BitVec 5} {m : BitVec 3} (h : Canonical s) :
    NextCanonical (execVcmpsVclt d a b m s) := h.intCompare

theorem Canonical.execVcmpsVcle {d a b : BitVec 5} {m : BitVec 3} (h : Canonical s) :
    NextCanonical (execVcmpsVcle d a b m s) := h.intCompare

theorem Canonical.execVcmpsVcltn {d a b : BitVec 5} {m : BitVec 3} (h : Canonical s) :
    NextCanonical (execVcmpsVcltn d a b m s) := h.intCompare

theorem Canonical.execVcmpsVclen {d a b : BitVec 5} {m : BitVec 3} (h : Canonical s) :
    NextCanonical (execVcmpsVclen d a b m s) := h.intCompare

theorem Canonical.execVcmpsVfceq {d a b : BitVec 5} {m : BitVec 3} (h : Canonical s) :
    NextCanonical (execVcmpsVfceq d a b m s) := h.floatCompare

theorem Canonical.execVcmpsVfclt {d a b : BitVec 5} {m : BitVec 3} (h : Canonical s) :
    NextCanonical (execVcmpsVfclt d a b m s) := h.floatCompare

theorem Canonical.execVcmpsVfcle {d a b : BitVec 5} {m : BitVec 3} (h : Canonical s) :
    NextCanonical (execVcmpsVfcle d a b m s) := h.floatCompare

theorem Canonical.execVcmpsVfcun {d a b : BitVec 5} {m : BitVec 3} (h : Canonical s) :
    NextCanonical (execVcmpsVfcun d a b m s) := h.floatCompare

theorem Canonical.vmopWord {d : BitVec 5} {srcs : List (BitVec 5)} {f : Hart → Nat → Bool} (h : Canonical s) :
    NextCanonical (vmopWord s d srcs f) := h.vectorOp (fun _ _ hs => hs.maskOp)

theorem Canonical.execMand {d a b : BitVec 5} (h : Canonical s) : NextCanonical (execMand d a b s) := h.vmopWord
theorem Canonical.execMor {d a b : BitVec 5} (h : Canonical s) : NextCanonical (execMor d a b s) := h.vmopWord
theorem Canonical.execMxor {d a b : BitVec 5} (h : Canonical s) : NextCanonical (execMxor d a b s) := h.vmopWord
theorem Canonical.execMandn {d a b : BitVec 5} (h : Canonical s) : NextCanonical (execMandn d a b s) := h.vmopWord
theorem Canonical.execMnot {d a : BitVec 5} (h : Canonical s) : NextCanonical (execMnot d a s) := h.vmopWord
theorem Canonical.execMset {d : BitVec 5} (h : Canonical s) : NextCanonical (execMset d s) := h.vmopWord
theorem Canonical.execMclr {d : BitVec 5} (h : Canonical s) : NextCanonical (execMclr d s) := h.vmopWord

theorem Canonical.maskToH {d a : BitVec 5} {f : Nat → Nat} (h : Canonical s) :
    NextCanonical (maskToH s d a f) := h.vectorOp (fun _ _ hs => hs.wholeOp (fun _ hv => hv))

theorem Canonical.execMfirst {d a : BitVec 5} (h : Canonical s) : NextCanonical (execMfirst d a s) := h.maskToH
theorem Canonical.execMpopc {d a : BitVec 5} (h : Canonical s) : NextCanonical (execMpopc d a s) := h.maskToH

theorem Canonical.execVmerge {d a b : BitVec 5} {m : BitVec 3} (h : Canonical s) :
    NextCanonical (execVmerge d a b m s) := by
  unfold Machine.execVmerge
  refine h.vectorOp (fun t c hs => ?_)
  extract_lets
  exact hs.elementOp

/-! ### The functions of Machine/VCtl.lean -/

theorem Canonical.execVsetl {d a : BitVec 5} (h : Canonical s) : NextCanonical (execVsetl d a s) := by
  unfold Machine.execVsetl
  refine h.runPlain (fun t hs => ?_)
  exact .ok hs.mapHart.retire

theorem Canonical.execVsett {d a : BitVec 5} (h : Canonical s) :
    NextCanonical (execVsett d a s) := h.runPlain (fun _ hs => .ok hs.mapHart.retire)

theorem Canonical.replyWord {x : Word} (h : Canonical s) :
    OkAll Canonical (replyWord s x) := .ite (.ok h.retire) (.ite .error (.ok h.mapHart.retire))

theorem Canonical.execVreply {a : BitVec 5} (h : Canonical s) :
    NextCanonical (execVreply a s) := h.runPlain (fun _ hs => hs.replyWord)

theorem Canonical.execVreplym {a : BitVec 5} (h : Canonical s) :
    NextCanonical (execVreplym a s) := h.runPlain (fun _ hs => hs.replyWord)

theorem Canonical.execVlcset {d a : BitVec 5} (h : Canonical s) :
    NextCanonical (execVlcset d a s) := h.runPlain (fun _ hs => .ok hs.mapHart.retire)

theorem Canonical.execValc {d : BitVec 5} (h : Canonical s) :
    NextCanonical (execValc d s) := h.runPlain (fun _ hs => .ok hs.mapHart.retire)

theorem Canonical.pushFragment {e : Fragment} (h : Canonical s) : OkAll Canonical (pushFragment s e) := by
  unfold Machine.pushFragment
  extract_lets
  split
  · exact .ok h.mapHart
  · exact .bind (OkAll.renameStop h.rangeWrite) fun t ht => .ok ht.mapHart

theorem Canonical.topFragment (h : Canonical s) : OkAll (fun x => Canonical x.2) (topFragment s) := by
  unfold Machine.topFragment
  split
  · exact .ok_snd h
  · split
    · exact .ok_snd h
    · extract_lets
      refine .bind (OkAll.renameStop h.rangeRead) fun ⟨a, t⟩ ht => ?_
      dsimp only
      split
      · exact .error
      · exact .ok_snd ht.mapHart

theorem Canonical.restoreMasks {e : Fragment} {v : VReg} (h : Canonical s) : Canonical (restoreMasks s e v) := h.mapHart

theorem Canonical.runFragment {e : Fragment} (h : Canonical s) :
    Canonical (runFragment s e) := h.mapHart.restoreMasks.retireTo

theorem Canonical.joinFragment {e : Fragment} (h : Canonical s) : Canonical (joinFragment s e) := h.mapHart.restoreMasks

theorem Canonical.execVjoin (h : Canonical s) : NextCanonical (execVjoin s) := by
  unfold Machine.execVjoin
  refine h.runPlain (fun u hs => ?_)
  refine .bind hs.topFragment fun ⟨a, t⟩ ht => ?_
  dsimp only
  split
  · exact .ok ht.retire
  · exact .after fun _ => .ite (.ok ht.joinFragment.retire) (.ok ht.runFragment)

theorem Canonical.endBlock (h : Canonical s) : Canonical (endBlock s) := h.retire.mapHart

theorem Canonical.endLoop {n : Nat} (h : Canonical s) : OkAll Canonical (endLoop s n) := by
  induction n generalizing s with
  | zero =>
    rw [Machine.endLoop]
    exact .ok h.endBlock
  | succ n ih =>
    rw [Machine.endLoop]
    refine .bind h.topFragment fun ⟨a, t⟩ ht => ?_
    dsimp only
    split
    · exact .ok ht.endBlock
    · exact .after fun _ => .ite (ih ht.joinFragment) (.ok ht.runFragment)

theorem Canonical.execVend (h : Canonical s) : NextCanonical (execVend s) := h.runPlain (fun _ hs => hs.endLoop)

theorem Canonical.maskBranch {a : BitVec 5} {o : BitVec 14} {test : Nat → Bool} (h : Canonical s) :
    NextCanonical (maskBranch s a o test) := h.runPlain (fun _ hs => .ok (.ite hs.retireTo hs.retire))

theorem Canonical.execVbany {a : BitVec 5} {o : BitVec 14} (h : Canonical s) :
    NextCanonical (execVbany a o s) := h.maskBranch

theorem Canonical.execVbnone {a : BitVec 5} {o : BitVec 14} (h : Canonical s) :
    NextCanonical (execVbnone a o s) := h.maskBranch

theorem Canonical.execVbdiv {a : BitVec 5} {o : BitVec 14} (h : Canonical s) : NextCanonical (execVbdiv a o s) := by
  unfold Machine.execVbdiv
  refine h.runPlain (fun u hs => ?_)
  extract_lets
  split
  · exact .ok hs.retireTo
  · split
    · exact .ok hs.retire
    · exact .bind hs.pushFragment fun t ht => .ok ht.mapHart.retireTo

theorem Canonical.execVlcnz {a : BitVec 5} {o : BitVec 14} (h : Canonical s) : NextCanonical (execVlcnz a o s) := by
  unfold Machine.execVlcnz
  refine h.runPlain (fun t hs => ?_)
  exact .ok (.ite hs.mapHart.retire hs.mapHart.retireTo)

theorem Canonical.execVloop {a : BitVec 5} {o : BitVec 14} (h : Canonical s) : NextCanonical (execVloop a o s) := by
  unfold Machine.execVloop
  refine h.runPlain (fun t hs => ?_)
  extract_lets
  split
  · exact .error
  · exact .ok (.ite hs.mapHart.retireTo hs.mapHart.retire)

theorem Canonical.execVjmp {o : BitVec 14} (h : Canonical s) :
    NextCanonical (execVjmp o s) := h.runPlain (fun _ hs => .ok hs.retireTo)

/-! ### The functions of Machine/VMem.lean -/

theorem Canonical.elementRead {mk : MarkKind} {w : Nat} {bit : Int} (h : Canonical s) :
    OkAll (fun x => Canonical x.2) (elementRead s mk w bit) := by
  unfold Machine.elementRead
  split
  · exact .error
  · extract_lets
    exact .bind h.orderedRead fun ⟨a, t⟩ ht => .ok_snd ht

theorem Canonical.elementWrite {mk : MarkKind} {w : Nat} {bit : Int} {x : Nat} (h : Canonical s) :
    OkAll Canonical (elementWrite s mk w bit x) := by
  unfold Machine.elementWrite
  split
  · exact .error
  · extract_lets
    split
    · exact h.orderedWrite
    · refine .after fun _ => .after fun _ => .after fun _ => ?_
      dsimp only
      exact h.homeRead.orderedWrite

theorem Canonical.elementUpdate {mk : MarkKind} {w : Nat} {bit : Int} {f : Nat → Nat × Flags} (h : Canonical s) :
    OkAll (fun x => Canonical x.2) (elementUpdate s mk w bit f) := by
  unfold Machine.elementUpdate
  split
  · exact .error
  · extract_lets
    refine .after fun _ => .after fun _ => .after fun _ => ?_
    split
    · exact .error
    · dsimp only
      split
      · exact .error
      · exact .ok_snd (h.elemRead.elemWrite _ ‹_›).markAccess

theorem Canonical.accessElements {α : Type} {act : Nat → Bool} {f : State → Nat → Except Stop (α × State)}
    {x : List Nat} (hf : ∀ (u : State) (a : Nat), Canonical u → OkAll (fun x => Canonical x.2) (f u a))
    (h : Canonical s) :
    OkAll (fun x => Canonical x.2.2) (accessElements act f x s) := by
  induction x generalizing s with
  | nil =>
    rw [Machine.accessElements]
    exact .ok_snd_snd h
  | cons x l ih =>
    rw [Machine.accessElements]
    split
    · split
      · exact .bind (ih ((hf _ _ h) _ ‹_›)) fun ⟨a, a2, u⟩ ht => .ok_snd_snd ht
      · exact .ite (.ok_snd_snd h) .error
      · exact .error
    · exact .bind (ih h) fun ⟨a, a2, t⟩ ht => .ok_snd_snd ht

theorem Canonical.setVl {n : Nat} (h : Canonical s) : Canonical (setVl s n) := h.mapHart

theorem Canonical.elementWord {α : Type} {n : Nat} {m : BitVec 3} {f : State → Nat → Except Stop (α × State)}
    {post : State → Nat → List (Option α) → Nat → Bool → State} (h : Canonical s)
    (hf : ∀ (u : State) (a : Nat), Canonical u → OkAll (fun x => Canonical x.2) (f u a))
    (hpost : ∀ (u : State) (a : Nat) (a2 : List (Option α)) (a3 : Nat) (a4 : Bool),
      Canonical u → Canonical (post u a a2 a3 a4))
    :
    OkAll Canonical (elementWord s n m f post) := by
  unfold Machine.elementWord
  extract_lets
  refine .bind (Canonical.accessElements (fun _ _ hs => hf _ _ hs) h) fun ⟨a, a2, t⟩ ht => ?_
  dsimp only
  split
  · exact .ite (.ok (hpost _ _ _ _ _ ht.noteWalk.setVl).retire.varyTime) .error
  · split
    · exact .ok (hpost _ _ _ _ _ ht.setVl).retire.varyTime
    · exact .ok (hpost _ _ _ _ _ ht).mapHart.stall

theorem Canonical.memoryWord {α : Type} {n : Nat} {m : BitVec 3} {f : State → Nat → Except Stop (α × State)}
    {post : State → Nat → List (Option α) → Nat → Bool → State} (h : Canonical s)
    (hf : ∀ (u : State) (a : Nat), Canonical u → OkAll (fun x => Canonical x.2) (f u a))
    (hpost : ∀ (u : State) (a : Nat) (a2 : List (Option α)) (a3 : Nat) (a4 : Bool),
      Canonical u → Canonical (post u a a2 a3 a4))
    :
    OkAll Canonical (memoryWord s n m f post) := by
  unfold Machine.memoryWord
  extract_lets
  split
  · exact .error
  · exact (h.frame (by rfl)).holdLanes.elementWord (fun _ _ hs => hf _ _ hs) (fun _ _ _ _ _ hs => hpost _ _ _ _ _ hs)

theorem Canonical.loadLanes {t : VType} {d : BitVec 5} {start : Nat} {l : List (Option Nat)} {n : Nat} {done : Bool}
    (h : Canonical s) :
    Canonical (loadLanes t d s start l n done) := by
  unfold Machine.loadLanes
  exact h.mapHart

theorem Canonical.setStream {q : BitVec 5} {x : Option StreamReg} (h : Canonical s) :
    Canonical (setStream s q x) := h.mapHart

theorem Canonical.advance {q : BitVec 5} {x : StreamReg} {n : Nat} (h : Canonical s) :
    Canonical (advance s q x n) := h.setStream

theorem Canonical.withAhead {α : Type} {x : StreamReg} {f : State → Except Stop (α × State)}
    (hf : ∀ (u : State), Canonical u → OkAll (fun x => Canonical x.2) (f u)) (h : Canonical s) :
    OkAll (fun x => Canonical x.2) (withAhead x f s) := by
  unfold Machine.withAhead
  refine .map (hf _ (h.frame rfl)) (fun a hs => ?_)
  exact hs.frame rfl

theorem Canonical.execVld {d a : BitVec 5} {m : BitVec 3} (h : Canonical s) : NextCanonical (execVld d a m s) := by
  unfold Machine.execVld
  extract_lets
  refine h.runPlain (fun u hs => ?_)
  split
  · exact .error
  · refine hs.memoryWord (fun v _ hv => Canonical.withAhead (fun _ hw => hw.elementRead) hv) (fun v b c e f hv => ?_)
    exact .ite hv.loadLanes.advance hv.loadLanes

theorem Canonical.execVldx {d a b : BitVec 5} {m : BitVec 3} (h : Canonical s) :
    NextCanonical (execVldx d a b m s) := by
  unfold Machine.execVldx
  extract_lets
  refine h.runPlain (fun u hs => ?_)
  split
  · exact .error
  · extract_lets
    exact hs.memoryWord (fun _ _ hv => hv.elementRead) (fun _ _ _ _ _ hv => hv.loadLanes)

theorem Canonical.privateRead {a : BitVec 5} {w i : Nat} (h : Canonical s) :
    OkAll (fun x => Canonical x.2) (privateRead s a w i) := by
  unfold Machine.privateRead
  refine .after fun _ => ?_
  dsimp only
  exact .ite .error (.ok_snd h)

theorem Canonical.privateWrite {a : BitVec 5} {w i x : Nat} (h : Canonical s) :
    OkAll Canonical (privateWrite s a w i x) := by
  unfold Machine.privateWrite
  refine .after fun _ => ?_
  dsimp only
  exact .ok h.arrayWrite

theorem Canonical.execVldl {d a : BitVec 5} {m : BitVec 3} (h : Canonical s) : NextCanonical (execVldl d a m s) := by
  unfold Machine.execVldl
  extract_lets
  refine h.runPlain (fun u hs => ?_)
  refine .after fun _ => ?_
  exact hs.memoryWord (fun _ _ hv => hv.privateRead) (fun _ _ _ _ _ hv => hv.loadLanes)

theorem Canonical.noResult {r : Except Stop State} (hr : OkAll Canonical r) :
    OkAll (fun x => Canonical x.2) (noResult r) := .map hr (fun _ hs => hs)

theorem Canonical.execVst {d a : BitVec 5} {m : BitVec 3} (h : Canonical s) : NextCanonical (execVst d a m s) := by
  unfold Machine.execVst
  extract_lets
  refine h.runPlain (fun u hs => ?_)
  split
  · exact .error
  · extract_lets
    refine hs.memoryWord (fun v _ hv => Canonical.withAhead (fun _ hw => Canonical.noResult hw.elementWrite) hv)
        (fun v b c e f hv => ?_)
    exact .ite hv.clearCovered.advance hv.clearCovered

theorem Canonical.execVstx {d a b : BitVec 5} {m : BitVec 3} (h : Canonical s) :
    NextCanonical (execVstx d a b m s) := by
  unfold Machine.execVstx
  extract_lets
  refine h.runPlain (fun u hs => ?_)
  split
  · exact .error
  · extract_lets
    exact hs.memoryWord (fun _ _ hv => Canonical.noResult hv.elementWrite) (fun _ _ _ _ _ hv => hv)

theorem Canonical.execVstl {d a : BitVec 5} {m : BitVec 3} (h : Canonical s) : NextCanonical (execVstl d a m s) := by
  unfold Machine.execVstl
  extract_lets
  refine h.runPlain (fun u hs => ?_)
  refine .after fun _ => ?_
  extract_lets
  exact hs.memoryWord (fun _ _ hv => Canonical.noResult hv.privateWrite) (fun _ _ _ _ _ hv => hv)

theorem Canonical.execVsta {d a b : BitVec 5} {m : BitVec 3} (h : Canonical s) :
    NextCanonical (execVsta d a b m s) := by
  unfold Machine.execVsta
  extract_lets
  refine h.runPlain (fun u hs => ?_)
  split
  · exact .error
  · extract_lets
    exact hs.memoryWord (fun _ _ hv => hv.elementUpdate) (fun _ _ _ _ _ hv => hv.mapHart)

theorem Canonical.execQset {d a : BitVec 5} (h : Canonical s) : NextCanonical (execQset d a s) := by
  unfold Machine.execQset
  refine h.runPlain (fun u hs => ?_)
  extract_lets
  split
  · exact .error
  · refine .bind hs.orderedRead fun ⟨a2, t⟩ ht => ?_
    dsimp only
    split
    · exact .error
    · exact .ok ht.setStream.retire.varyTime

theorem Canonical.execQadv {d a : BitVec 5} (h : Canonical s) : NextCanonical (execQadv d a s) := by
  unfold Machine.execQadv
  refine h.runPlain (fun t hs => ?_)
  split
  · exact .error
  · exact .ok hs.setStream.retire

theorem Canonical.execQpos {d a : BitVec 5} (h : Canonical s) : NextCanonical (execQpos d a s) := by
  unfold Machine.execQpos
  refine h.runPlain (fun t hs => ?_)
  split
  · exact .error
  · exact .ok hs.mapHart.retire

theorem Canonical.execQrel {d : BitVec 5} (h : Canonical s) :
    NextCanonical (execQrel d s) := h.runPlain (fun _ hs => .ok hs.setStream.retire)

/-! ### The functions of Machine/Bank.lean -/

theorem Canonical.bankWord {wf : Bool} {fit : VType → Bool} {d q : BitVec 5} {m : BitVec 3} {reads writes : List RegId}
    {body : State → StreamReg → Except Stop State} (h : Canonical s)
    (hbody : ∀ (u : State) (a : StreamReg), Canonical u → OkAll Canonical (body u a)) :
    NextCanonical (bankWord s wf fit d q m reads writes body) := by
  unfold Machine.bankWord
  refine h.runPlain (fun t hs => ?_)
  split
  · exact .error
  · rename_i x _ _
    extract_lets x3
    have hx3 : ∀ (x : Unit), OkAll Canonical (x3 x) := by
      intro x4
      unfold x3
      exact hbody _ _ hs
    split
    · exact .after fun _ => hx3 ()
    · exact hx3 ()

theorem Canonical.noteRequest {bit : Int} (h : Canonical s) : Canonical (noteRequest s bit) := .ite h h.notePage

theorem Canonical.gatherItem {w : Nat} {bit : Int} (h : Canonical s) :
    OkAll (fun x => Canonical x.2) (gatherItem s w bit) := .ite .error (.map h.elementRead (fun _ hs => hs.noteRequest))

theorem Canonical.gatherAll {q b : BitVec 5} {m : BitVec 3} (h : Canonical s) :
    OkAll (fun x => Canonical x.2.2) (gatherAll s q b m) := by
  unfold Machine.gatherAll
  split
  · exact .error
  · exact Canonical.accessElements (fun _ _ hs => hs.gatherItem) h

theorem Canonical.gatherInto {r : BgathRec} (h : Canonical s) : OkAll Canonical (gatherInto s r) := by
  unfold Machine.gatherInto
  split
  · exact .ok h.mapHart
  · exact .error
  · exact .ite (.ok (h.gatherAll _ ‹_›).noteWalk.mapHart) .error
  · exact .ok (h.gatherAll _ ‹_›).mapHart

theorem Canonical.timedGather {q d b : BitVec 5} {m : BitVec 3} (h : Canonical s) :
    OkAll Canonical (timedGather s q d b m) := by
  unfold Machine.timedGather
  split
  · split
    · exact .ok h.mapHart.setVl.loadLanes.retire
    · exact .error
  · exact .map h.gatherInto (fun _ hs => hs.readyFrom)

theorem Canonical.execBgath {d a b : BitVec 5} {m : BitVec 3} (h : Canonical s) :
    NextCanonical (execBgath d a b m s) := by
  unfold Machine.execBgath
  extract_lets
  split
  · exact h.runPlain (fun _ hs => hs.timedGather)
  · refine h.bankWord (fun u c hs => .ite hs.timedGather ?_)
    extract_lets
    exact hs.elementWord (fun _ _ hv => hv.gatherItem) (fun _ _ _ _ _ hv => hv.loadLanes)

theorem Canonical.settleGather {r : BgathRec} {waited : Bool} (h : Canonical s) :
    Canonical (settleGather s r waited) := by
  unfold Machine.settleGather
  dsimp only
  split
  · split
    · exact .ite h.choose.takeTrap h.choose.mapHart
    · split
      · exact .ite h.choose.choose.takeTrap h.choose.choose.mapHart
      · exact .ite h.choose.takeTrap h.choose.mapHart
  · split
    · exact .ite h.takeTrap h.mapHart
    · split
      · exact .ite h.choose.takeTrap h.choose.mapHart
      · exact .ite h.takeTrap h.mapHart

theorem Canonical.execBgathDue {at_ : Place} (h : Canonical s) : NextCanonical (execBgathDue at_ s) := by
  unfold Machine.execBgathDue
  refine .next (h.atPlace (fun t hs => ?_))
  split
  · exact hs
  · split
    · exact hs
    · split
      · exact hs.settleGather
      · split
        · exact (hs.gatherInto _ ‹_›).getD (.map (Q :=
  fun _ => True) (fun _ _ => trivial) (fun a _ => (hs.gatherInto _ ‹_›).settleGather))
        · exact hs.takeTrap
        · exact hs

theorem Canonical.acceptRequest {l : List BankItem} (h : Canonical s) : Canonical (acceptRequest s l) := h.mapHart

theorem Canonical.scatterItem {w : Nat} {bit : Int} {v : Nat} (h : Canonical s) :
    OkAll (fun x => Canonical x.2) (scatterItem s w bit v) := by
  unfold Machine.scatterItem
  extract_lets
  exact .bind h.elementWrite fun t ht => .ok_snd ht.noteRequest

theorem Canonical.execBscat {d a b : BitVec 5} {m : BitVec 3} (h : Canonical s) :
    NextCanonical (execBscat d a b m s) := by
  unfold Machine.execBscat
  extract_lets
  refine h.bankWord (fun u c hs => ?_)
  extract_lets
  refine hs.elementWord (fun _ _ hv => hv.scatterItem) (fun v e f g x hv => ?_)
  exact .ite hv hv.clearCovered.acceptRequest

theorem Canonical.addLocate {bit : Int} {n : Nat} {push : Bool} (h : Canonical s) :
    OkAll (fun x => Canonical x.2) (addLocate s bit n push) := by
  unfold Machine.addLocate
  extract_lets
  refine .after fun _ => .after fun _ => ?_
  split
  · exact .ite .error (.ok_snd h.noteRequest)
  · split
    · exact .error
    · exact .ok_snd (h.snoop.guardWrite _ ‹_›).markAccess.noteRequest

theorem Canonical.acceptAdd {x : Hart} {loc : Nat} {e : ElemType} {sat : Bool} {x1 : Nat} (h : Canonical s) :
    Canonical (acceptAdd s x loc e sat x1).2 := by
  unfold Machine.acceptAdd
  extract_lets
  dsimp only
  exact h.addAt

theorem Canonical.execBscadd {d a b : BitVec 5} {m : BitVec 3} (h : Canonical s) :
    NextCanonical (execBscadd d a b m s) := by
  unfold Machine.execBscadd
  extract_lets
  refine h.bankWord (fun v c hs => ?_)
  extract_lets
  refine hs.elementWord (fun w f hv => ?_) (fun w f g k x hv => ?_)
  · exact .bind hv.addLocate fun ⟨a2, u⟩ ht => .ok ht.acceptAdd
  · exact .ite hv hv.acceptRequest

theorem Canonical.execBankRequestComplete {at_ : Place} (h : Canonical s) :
    NextCanonical (execBankRequestComplete at_ s) := by
  unfold Machine.execBankRequestComplete
  split
  · exact .next h
  · exact .next (h.focusBy _ ‹_›).mapHart

theorem Canonical.pushPair {e : ElemType} {sat : Bool} {bit : Int} {x : Nat} (h : Canonical s) :
    OkAll (fun x => Canonical x.2) (pushPair s e sat bit x) := by
  unfold Machine.pushPair
  refine .bind h.addLocate fun ⟨a, t⟩ ht => ?_
  dsimp only
  exact .ite (.ok_snd ht) (.ok_snd ht.acceptAdd)

theorem Canonical.performAdd {stack : Nat} {e : FifoEntry} {acc : Flags × State} {a : PendingAdd}
    (hacc : Canonical acc.2) :
    Canonical (performAdd stack e acc a).2 := by
  unfold Machine.performAdd
  split
  · exact hacc.lateFault
  · dsimp only
    exact hacc.addAt

theorem Canonical.reachEntry {core : Nat} {e : FifoEntry} (h : Canonical s) : Canonical (reachEntry s core e).1 := by
  have hf : Canonical (e.adds.foldl (Machine.performAdd (core / 64) e) (e.flags, s)).2 :=
    foldl_keeps (P := fun x : Flags × State => Canonical x.2) h fun _ _ hx => hx.performAdd
  unfold Machine.reachEntry
  dsimp only
  refine Canonical.mapCore ?_
  split
  · exact hf.draw
  · exact hf

theorem Canonical.advanceFifo {core : Nat} {x : List FifoEntry} (h : Canonical s) :
    Canonical (advanceFifo s core x).1 := by
  induction x generalizing s core with
  | nil =>
    rw [Machine.advanceFifo]
    exact h
  | cons x l ih =>
    rw [Machine.advanceFifo]
    split
    · dsimp only
      exact ih h
    · split
      · dsimp only
        exact h.reachEntry
      · exact h

theorem Canonical.runIsland {core : Nat} (h : Canonical s) : Canonical (runIsland s core) := by
  unfold Machine.runIsland
  dsimp only
  exact h.advanceFifo.mapCore

theorem Canonical.execVfpush {d a b : BitVec 5} {m : BitVec 3} (h : Canonical s) :
    NextCanonical (execVfpush d a b m s) := by
  unfold Machine.execVfpush
  extract_lets
  refine h.bankWord (fun y c hs => ?_)
  extract_lets _ u _ _ _ push
  have hu : Canonical u := hs.frame rfl
  have hpush : ∀ (s : State), Canonical s → OkAll Canonical (push s) := by
    intro v ht
    unfold push
    refine ht.elementWord (fun _ _ hv => hv.pushPair) (fun z f g k x hv => ?_)
    extract_lets _ _ w
    have hw : Canonical w := hv.chargeTurn
    exact .ite hv hw.mapCore.runIsland
  split
  · exact hpush _ hu
  · exact .ite (hu.atUnit (fun _ hv => hpush _ hv)) (.ite .error (.ok hu.awaitUnit))

theorem Canonical.execVfifoEntryPerform {core : Nat} (h : Canonical s) :
    NextCanonical (execVfifoEntryPerform core s) := .next (h.mapCore.foldl (fun _ _ hs => hs.mapHarts.owe)).runIsland

theorem Canonical.execVffree {d : BitVec 5} (h : Canonical s) :
    NextCanonical (execVffree d s) := h.runPlain (fun _ hs => .ok hs.mapHart.retire)

theorem Canonical.execBlat {d a : BitVec 5} (h : Canonical s) : NextCanonical (execBlat d a s) := by
  unfold Machine.execBlat
  refine h.runPlain (fun u hs => ?_)
  extract_lets _ _ _ _ _ t
  have ht : Canonical t := .ite hs.mapHart hs
  exact .ite (.ok hs.mapHart.retire) (.ok ht.mapHart.retire)

theorem Canonical.columnChange {core : Nat} {f : CoreUnit → CoreUnit} (h : Canonical s) :
    Canonical (columnChange s core f) := by
  unfold Machine.columnChange
  exact h.mapCore.mapHarts

theorem Canonical.execVerticalPathDegrade {core : Nat} (h : Canonical s) :
    NextCanonical (execVerticalPathDegrade core s) := .ite (.next h) (.next h.columnChange)

theorem Canonical.execBankTemperatureChange {core : Nat} {hot : Bool} (h : Canonical s) :
    NextCanonical (execBankTemperatureChange core hot s) := .ite (.next h) (.next h.columnChange)

theorem Canonical.execIslandGate {core : Nat} (h : Canonical s) :
    NextCanonical (execIslandGate core s) := .ite (.next h.mapCore) (.next h)

theorem Canonical.execIslandWake {core : Nat} (h : Canonical s) : NextCanonical (execIslandWake core s) := by
  unfold Machine.execIslandWake
  split
  · exact .ite (.next h.mapCore) (.next h)
  · exact .next h

/-! ### The functions of Machine/Barrier.lean -/

theorem Canonical.noteBarrier {loc core scope : Nat} {r : BarRecord} {init : Bool} (h : Canonical s) :
    Canonical (noteBarrier s loc core scope r init) := by
  unfold Machine.noteBarrier
  extract_lets _ t
  have ht : Canonical t := h.frame rfl
  exact .ite ht (.ite (ht.frame rfl) (.ite h (h.frame rfl)))

theorem Canonical.barrierBytes {x scope : Nat} (h : Canonical s) :
    OkAll (fun x => Canonical x.2.2) (barrierBytes s x scope) := by
  unfold Machine.barrierBytes
  split
  · exact .error
  · refine .after fun _ => .bind h.amoLocate fun ⟨a2, t⟩ ht => ?_
    dsimp only
    exact .ok_snd_snd ht.amoRead.markAccess

theorem Canonical.readBarrier {x scope : Nat} {init : Bool} (h : Canonical s) :
    OkAll (fun x => Canonical x.2.2) (readBarrier s x scope init) := by
  unfold Machine.readBarrier
  refine .bind h.barrierBytes fun ⟨a, a2, t⟩ ht => ?_
  dsimp only
  split
  · exact .error
  · exact .ite .error (.ok_snd_snd ht.noteBarrier)

theorem Canonical.writeBarrier {x scope : Nat} {r : BarRecord} {init : Bool} (h : Canonical s) :
    OkAll Canonical (writeBarrier s x scope r init) := by
  unfold Machine.writeBarrier
  refine .after fun _ => ?_
  extract_lets
  split
  · exact .error
  · refine .ok (Canonical.noteBarrier ?_)
    exact (h.amoPut _ ‹_›).markAccess.frame rfl

theorem Canonical.publishSide {scope : Nat} (h : Canonical s) : OkAll Canonical (publishSide s scope) := by
  unfold Machine.publishSide
  split
  · exact .ok h.publishLines
  · exact .after fun _ => .ok h.publishVector

theorem Canonical.acquireSide {scope : Nat} (h : Canonical s) : Canonical (acquireSide s scope) := h.acquireLines

theorem Canonical.setBarWaiting {b : Option BarWait} (h : Canonical s) : Canonical (setBarWaiting s b) := by
  unfold Machine.setBarWaiting
  split <;> exact h.mapHart

theorem Canonical.retireBar {d : BitVec 5} {v : Word} (h : Canonical s) :
    Canonical (retireBar s d v) := h.setBarWaiting.xWrite.retire.varyTime

theorem Canonical.acquireAndRetire {d : BitVec 5} {c : BitVec 3} {w : BarWait} (h : Canonical s) :
    Canonical (acquireAndRetire s d c w) := by
  unfold Machine.acquireAndRetire
  extract_lets _ t
  have ht : Canonical t := h.acquireSide
  exact .ite h.setBarWaiting.stall (.ite ht.setBarWaiting.stall ht.retireBar)

theorem Canonical.execBinit {d a b : BitVec 5} {c : BitVec 3} (h : Canonical s) :
    NextCanonical (execBinit d a b c s) := by
  unfold Machine.execBinit
  refine h.runPlain (fun v hs => ?_)
  extract_lets
  refine .bind hs.readBarrier fun ⟨a2, a3, t⟩ ht => ?_
  dsimp only
  split
  · exact .error
  · split
    · exact .ok ht.retireBar
    · exact .bind ht.writeBarrier fun u ht2 => .ok ht2.retireBar

theorem Canonical.arriveAt {d a : BitVec 5} {c : BitVec 3} {wait : Bool} (h : Canonical s) :
    OkAll Canonical (arriveAt s d a c wait) := by
  unfold Machine.arriveAt
  extract_lets
  refine .bind h.readBarrier fun ⟨a2, a3, t⟩ ht => .bind ht.publishSide fun u ht2 => ?_
  split
  · exact .ok ht2.stall
  · dsimp only
    split
    · exact .ok ht2.retireBar
    · refine .bind ht2.writeBarrier fun v ht3 => ?_
      split
      · exact .ok ht3.acquireAndRetire
      · exact .ite (.ok ht3.setBarWaiting.stall) (.ok ht3.retireBar)

theorem Canonical.phaseTurn {d a : BitVec 5} {c : BitVec 3} {w : BarWait} (h : Canonical s) :
    OkAll Canonical (phaseTurn s d a c w) := by
  unfold Machine.phaseTurn
  refine .bind h.barrierBytes fun ⟨a2, a3, t⟩ ht => ?_
  exact .ite (.ok ht.retireBar) (.ite (.ok ht.acquireAndRetire) .error)

theorem Canonical.continueBar {d a : BitVec 5} {c : BitVec 3} {w : BarWait} (h : Canonical s) :
    OkAll Canonical (continueBar s d a c w) := .ite h.phaseTurn (.ok h.acquireAndRetire)

theorem Canonical.execBarrive {d a : BitVec 5} {c : BitVec 3} (h : Canonical s) :
    NextCanonical (execBarrive d a c s) := by
  unfold Machine.execBarrive
  refine h.runPlain (fun t hs => ?_)
  split
  · exact hs.continueBar
  · exact hs.arriveAt

theorem Canonical.execBwait {d a b : BitVec 5} {c : BitVec 3} (h : Canonical s) :
    NextCanonical (execBwait d a b c s) := by
  unfold Machine.execBwait
  refine h.runPlain (fun u hs => ?_)
  split
  · exact hs.continueBar
  · extract_lets
    refine .bind hs.readBarrier fun ⟨a2, a3, t⟩ ht => ?_
    dsimp only
    split
    · exact .ok ht.retireBar
    · exact .ite (.ok ht.acquireAndRetire) (.ok ht.setBarWaiting.stall)

theorem Canonical.execBarw {d a : BitVec 5} {c : BitVec 3} (h : Canonical s) : NextCanonical (execBarw d a c s) := by
  unfold Machine.execBarw
  refine h.runPlain (fun t hs => ?_)
  split
  · exact hs.continueBar
  · exact hs.arriveAt

theorem Canonical.execBtest {d a b : BitVec 5} {c : BitVec 3} (h : Canonical s) :
    NextCanonical (execBtest d a b c s) := by
  unfold Machine.execBtest
  refine h.runPlain (fun u hs => ?_)
  split
  · exact hs.continueBar
  · extract_lets
    refine .bind hs.readBarrier fun ⟨a2, a3, t⟩ ht => ?_
    exact .ite (.ok ht.retireBar) (.ite (.ok ht.acquireAndRetire) (.ok ht.retireBar))

theorem Canonical.abortBarrier {b : BarrierRef} {r : BarRecord} (h : Canonical s) : Canonical (abortBarrier s b r) := by
  unfold Machine.abortBarrier
  extract_lets _ t
  have ht : Canonical t := h.frame rfl
  split
  · exact ht.settleLine.amoPut _ ‹_›
  · exact ht.mapCtx
  · exact ht

theorem Canonical.abortBarriers {asid : Nat} {owner : Word} (h : Canonical s) :
    Canonical (abortBarriers s asid owner) := by
  unfold Machine.abortBarriers
  refine h.foldl (fun t a hs => ?_)
  split
  · exact .ite hs.abortBarrier hs
  · exact hs

theorem Canonical.releaseBarriers {asid : Nat} {owner : Word} (h : Canonical s) :
    Canonical (releaseBarriers s asid owner) := h.frame rfl

/-! ### The functions of Machine/Fetch.lean -/

theorem Canonical.takeInterrupt {t : Trap} (h : Canonical s) : Canonical (takeInterrupt s t) := h.mapHart.takeTrap

theorem Canonical.takeEngineFault (h : Canonical s) : SomeAll Canonical (takeEngineFault s) := by
  unfold Machine.takeEngineFault
  split
  · exact .none
  · exact .some h.mapHart.takeTrap

theorem Canonical.readWord {at_ : Word} (h : Canonical s) :
    OkAll (fun x => Canonical x.2) (readWord s at_) := .bind h.scalarRead fun ⟨_, _⟩ ht => .ok_snd ht

theorem Canonical.fetchWord (h : Canonical s) : OkAll (fun x => Canonical x.2) (fetchWord s) := by
  unfold Machine.fetchWord
  extract_lets
  split
  · exact .ok_snd h.mapHart
  · exact h.readWord

theorem Canonical.fetchAhead {sd : Side} (h : Canonical s) : Canonical (fetchAhead s sd) := by
  unfold Machine.fetchAhead
  extract_lets
  split
  · exact (h.readWord _ ‹_›).mapHart
  · exact h

theorem Canonical.beginIssue {sd : Side} {cut : Option Nat} (h : Canonical s) :
    Canonical (beginIssue s sd cut) := h.frame rfl

theorem Canonical.holdWord {w : BitVec 32} (h : Canonical s) : Canonical (holdWord s w) := h.frame rfl

theorem Canonical.refuseWord {e : DecodeError} (h : Canonical s) :
    NextCanonical (refuseWord s e) := h.discardWait.finish .error

theorem Canonical.takeBlock (h : Canonical s) : Canonical (takeBlock s) := by
  unfold Machine.takeBlock
  extract_lets
  split
  · exact h
  · split
    · exact h
    · exact h.mapHart

theorem Canonical.sequence (h : Canonical s) : SomeAll Canonical (sequence s) := by
  unfold Machine.sequence
  extract_lets
  exact .ite (.some h) (.ite (.some h.setArbiter) .none)

theorem Canonical.beginSide {sd : Side} {cut : Option Nat} (h : Canonical s) : BegunCanonical (beginSide s sd cut) := by
  unfold Machine.beginSide
  split
  · exact h
  split
  · cases sd with
    | scalar => exact h
    | vector => exact h.takeBlock
  extract_lets t fault
  have ht : Canonical t := h.beginIssue
  cases sd with
  | scalar =>
    have hf : SomeAll Canonical fault := .ite ht.takeEngineFault .none
    dsimp only
    split
    · exact hf _ ‹_›
    · exact ⟨ht, ht.takeInterrupt⟩
    · exact ⟨ht, hf _ ‹_›⟩
    · exact ht
  | vector =>
    dsimp only
    split
    · exact ht.takeEngineFault _ ‹_›
    · split
      · exact ht.sequence _ ‹_›
      · exact ht

theorem Canonical.tlbFill {core asid va : Nat} (h : Canonical s) : Canonical (tlbFill s core asid va) := by
  unfold Machine.tlbFill
  split
  · exact h
  · exact .ite h (h.frame rfl)

theorem Canonical.dropTranslations {p : TlbEntry → Bool} (h : Canonical s) :
    Canonical (dropTranslations s p) := (h.frame (by rfl)).mapHarts

theorem Canonical.tlbDrop {core asid base : Nat} (h : Canonical s) :
    Canonical (tlbDrop s core asid base) := h.dropTranslations

theorem Canonical.poisonLine {line : Nat} (h : Canonical s) : Canonical (poisonLine s line) := by
  unfold Machine.poisonLine
  split
  · exact h
  · exact h.raise.frame rfl

theorem Canonical.poisonRegister {kind n : Nat} (h : Canonical s) : Canonical (poisonRegister s kind n) := h.mapHart
theorem Canonical.countCorrected (h : Canonical s) : Canonical (countCorrected s) := h.raise.frame rfl

/-! ### The functions of Machine/Sig.lean -/

theorem Canonical.execSigd {d a : BitVec 5} (h : Canonical s) : NextCanonical (execSigd d a s) := by
  unfold Machine.execSigd
  refine h.runPlain (fun t hs => ?_)
  exact .ok hs.mapHart.retire

theorem Canonical.sigWord {wf : Bool} {fit : VType → Bool} {reads : List RegId} {plan : State → Except Stop CmdKind}
    (h : Canonical s) :
    NextCanonical (sigWord s wf fit reads plan) := by
  unfold Machine.sigWord
  refine h.engineWord (fun u b hs => ?_)
  refine .after fun _ => .after fun _ => .after fun _ => ?_
  extract_lets _ t
  have ht : Canonical t := hs.enqueue
  exact .ite (.ite (.ok ht.mapHart.retire) .error) (.ok hs.enqueue.retire)

theorem Canonical.execSiginit {d : BitVec 5} (h : Canonical s) : NextCanonical (execSiginit d s) := h.sigWord
theorem Canonical.execSigadd {d a : BitVec 5} (h : Canonical s) : NextCanonical (execSigadd d a s) := h.sigWord
theorem Canonical.execSigmul {d a : BitVec 5} (h : Canonical s) : NextCanonical (execSigmul d a s) := h.sigWord
theorem Canonical.execSiglog {d a : BitVec 5} (h : Canonical s) : NextCanonical (execSiglog d a s) := h.sigWord
theorem Canonical.execSigld {d a : BitVec 5} (h : Canonical s) : NextCanonical (execSigld d a s) := h.sigWord
theorem Canonical.execSigst {d a : BitVec 5} (h : Canonical s) : NextCanonical (execSigst d a s) := h.sigWord

/-! ### The functions of Machine/Teng.lean -/

theorem Canonical.planCopy {v : VType} {d a b : BitVec 5} (h : Canonical s) :
    OkAll (fun x => Canonical x.2) (planCopy s v d a b) := by
  unfold Machine.planCopy
  extract_lets
  split
  · exact .error
  · refine .bind h.readShape fun ⟨a2, t⟩ ht => ?_
    dsimp only
    split
    · split
      · exact .error
      · exact .ite .error (.ite .error (.ok_snd ht))
    · refine .bind ht.readShape fun ⟨a3, u⟩ ht2 => ?_
      split
      · exact .error
      · exact .ite .error (.ite .error (.ok_snd ht2))

theorem Canonical.execTcopy {d a b : BitVec 5} (h : Canonical s) : NextCanonical (execTcopy d a b s) := by
  unfold Machine.execTcopy
  refine h.engineWord (fun u c hs => ?_)
  refine .after fun _ => .bind hs.planCopy fun ⟨a3, t⟩ ht => .after fun _ => .after fun _ => ?_
  exact .ok ht.enqueue.retire

theorem Canonical.nextWord (h : Canonical s) : OkAll (fun x => Canonical x.2) (nextWord s) := by
  unfold Machine.nextWord
  extract_lets t
  have ht : Canonical t := h.mapHart
  refine .map (OkAll.renameStop ht.fetchWord) fun a ha => ?_
  dsimp only
  exact ha.mapHart

theorem Canonical.retirePair {w : BitVec 32} (h : Canonical s) :
    Canonical (retirePair s w) := (h.retire.frame (by rfl)).retire.readyFrom

theorem Canonical.execTcopyM {d a b : BitVec 5} (h : Canonical s) : NextCanonical (execTcopyM d a b s) := by
  unfold Machine.execTcopyM
  refine h.engineWord (fun v c hs => ?_)
  refine .after fun _ => .bind hs.planCopy fun ⟨a3, t⟩ ht => .bind ht.nextWord fun ⟨a4, u⟩ ht2 => ?_
  dsimp only
  split
  · exact .error
  · split
    · exact .error
    · refine .after fun _ => .after fun _ => .after fun _ => .after fun _ => ?_
      exact .ok ht2.enqueue.enqueue.retirePair

theorem Canonical.execRfence (h : Canonical s) :
    NextCanonical (execRfence s) := h.runPlain (fun _ hs => .ok hs.mapHart.retire)

theorem Canonical.execTwait (h : Canonical s) :
    NextCanonical (execTwait s) := h.runPlain (fun _ hs => .ite (.ok hs.retire) .error)

theorem Canonical.setRequest {r : Option RegionReq} (h : Canonical s) : Canonical (setRequest s r) := h.mapHart

theorem Canonical.awaitRegion {d : BitVec 5} {r : RegionReq} (h : Canonical s) :
    Canonical (awaitRegion s d r) := .ite h.stall (.ite h.setRequest.mapHart.retire h.setRequest.stall)

theorem Canonical.execTbegin {d a : BitVec 5} (h : Canonical s) : NextCanonical (execTbegin d a s) := by
  unfold Machine.execTbegin
  refine h.runPlain (fun u hs => ?_)
  extract_lets
  split
  · exact .ite (.ok hs.awaitRegion) (.ok hs.setRequest.stall)
  · split
    · exact .error
    · split
      · exact .error
      · refine .bind hs.orderedRead fun ⟨a2, t⟩ ht => ?_
        dsimp only
        split
        · exact .error
        · exact .ok ht.setRequest.awaitRegion

theorem Canonical.execTend (h : Canonical s) : NextCanonical (execTend s) := by
  unfold Machine.execTend
  refine h.runPlain (fun t hs => .ite (.ok hs.retire) (.ite .error ?_))
  exact .ok hs.mapHart.releaseRegion.retire.quotaCheckFor

/-! ### The functions of Machine/EvEngine.lean -/

theorem Canonical.engineBytes {strict : Bool} {va n : Nat} (h : Canonical s) :
    OkAll (fun x => Canonical x.2.2) (engineBytes s strict va n) := by
  unfold Machine.engineBytes
  refine .after fun _ => .after fun _ => ?_
  extract_lets x
  have hx : ∀ (y : Unit), OkAll (fun x => Canonical x.2.2) (x y) := by
    intro x3
    unfold x
    dsimp only
    exact .ok_snd_snd h.markAccess.homeRead
  split
  · exact .after fun _ => hx ()
  · exact hx ()

theorem Canonical.engineSpan {strict : Bool} {va n : Nat} (h : Canonical s) :
    OkAll (fun x => Canonical x.2.2) (engineSpan s strict va n) := by
  unfold Machine.engineSpan
  extract_lets
  refine .bind h.engineBytes fun ⟨a, a2, t⟩ ht => ?_
  dsimp only
  split
  · exact .ok_snd_snd ht
  · exact .bind ht.engineBytes fun ⟨a3, a4, u⟩ ht2 => .ok_snd_snd ht2

theorem Canonical.engineRead {strict : Bool} {w : Nat} {bit : Int} (h : Canonical s) :
    OkAll (fun x => Canonical x.2.2) (engineRead s strict w bit) := by
  unfold Machine.engineRead
  split
  · exact .error
  · extract_lets
    exact .bind h.engineBytes fun ⟨a, a2, t⟩ ht => .ok_snd_snd ht

theorem Canonical.poisonStops (h : Canonical s) : Canonical (poisonStops s).2 := by
  unfold Machine.poisonStops
  split
  · exact h
  · exact h.choose

theorem Canonical.engineWrite {w : Nat} {bit : Int} {x : Nat} (h : Canonical s) :
    OkAll Canonical (engineWrite s w bit x) := by
  unfold Machine.engineWrite
  split
  · exact .error
  · extract_lets
    refine .after fun _ => .after fun _ => ?_
    dsimp only
    split
    · exact .error
    · exact .ok (h.homeRead.homeWrite _ ‹_›).markAccess

theorem Canonical.eachElement {f : State → EngCmd → Nat → Except Stop (State × EngCmd)} {x : List Nat} {x1 : EngCmd}
    (hf : ∀ (u : State) (a : EngCmd) (a2 : Nat), Canonical u → OkAll (fun x => Canonical x.1) (f u a a2))
    (h : Canonical s) :
    LoopCanonical (eachElement f x s x1) := by
  induction x generalizing s x1 with
  | nil =>
    rw [Machine.eachElement]
    exact .done h
  | cons x l ih =>
    rw [Machine.eachElement]
    split
    · exact ih ((hf _ _ _ h) _ ‹_›)
    · exact .fault h.noteWalk
    · exact .stop

theorem Canonical.taintLines {bits : List Int} (h : Canonical s) : Canonical (taintLines s bits) := by
  unfold Machine.taintLines
  refine h.foldl (fun t a hs => .ite hs ?_)
  split
  · exact hs.poisonLine
  · exact hs

theorem Canonical.settleLines {bits : List Int} {w : Nat} {bad : Bool} (h : Canonical s) :
    Canonical (settleLines s bits w bad) := .ite h.taintLines h.clearCovered

theorem Canonical.stepCopyMem {c : EngCmd} {src : Tsr} {srcAt : Word} {dst : Tsr} (h : Canonical s) :
    LoopCanonical (stepCopyMem s c src srcAt dst) := by
  unfold Machine.stepCopyMem
  extract_lets
  dsimp only
  split
  · refine .done ((Canonical.eachElement (fun w b a hs => ?_) h.poisonStops).of_done ‹_›).settleLines
    refine .bind hs.engineRead fun ⟨a2, a3, u⟩ ht => .after fun _ => .bind ht.engineWrite fun v ht2 => ?_
    exact .ok_fst ht2
  · refine Canonical.eachElement (fun w b a hs => ?_) h.poisonStops
    refine .bind hs.engineRead fun ⟨a2, a3, t⟩ ht => .after fun _ => .bind ht.engineWrite fun u ht2 => ?_
    exact .ok_fst ht2

theorem Canonical.stepCopyTile {c : EngCmd} {src : Tsr} {srcAt : Word} {tile : Nat} {ts : BitVec 2} (h : Canonical s) :
    LoopCanonical (stepCopyTile s c src srcAt tile ts) := by
  unfold Machine.stepCopyTile
  extract_lets
  dsimp only
  refine Canonical.eachElement (fun u b a hs => ?_) h.poisonStops
  exact .bind hs.engineRead fun ⟨a2, a3, t⟩ ht => .after fun _ => .ok_fst ht.mapHart

theorem Canonical.stepTst {c : EngCmd} {tile : Nat} {dst : Tsr} {ts : BitVec 2} (h : Canonical s) :
    LoopCanonical (stepTst s c tile dst ts) := by
  unfold Machine.stepTst
  extract_lets _ _ r
  have hr : LoopCanonical r := by
    unfold r
    refine Canonical.eachElement (fun u b a hs => ?_) h
    extract_lets
    dsimp only
    exact .bind hs.engineWrite fun t ht => .ok_fst ht
  clear_value r
  split
  · exact .done (hr.of_done rfl).settleLines
  · exact hr

theorem Canonical.stepSigLd {c : EngCmd} {g a : Nat} (h : Canonical s) : LoopCanonical (stepSigLd s c g a) := by
  unfold Machine.stepSigLd
  dsimp only
  refine Canonical.eachElement (fun u b d hs => ?_) h.poisonStops
  exact .bind hs.engineRead fun ⟨a2, a3, t⟩ ht => .ok_fst ht.mapHart

theorem Canonical.stepSigSt {c : EngCmd} {g a : Nat} (h : Canonical s) : LoopCanonical (stepSigSt s c g a) := by
  unfold Machine.stepSigSt
  extract_lets _ _ r
  have hr : LoopCanonical r := by
    unfold r
    refine Canonical.eachElement (fun u b d hs => ?_) h
    exact .bind hs.engineWrite fun t ht => .ok_fst ht
  clear_value r
  split
  · exact .done (hr.of_done rfl).settleLines
  · exact hr

theorem Canonical.stepSig {c : EngCmd} (h : Canonical s) : LoopCanonical (stepSig s c) := by
  unfold Machine.stepSig
  split
  · exact .done h.mapHart
  · exact .done h

theorem Canonical.elementRecord {x : OpTile} {r k : Nat} (h : Canonical s) :
    OkAll (fun x => Canonical x.2.2) (elementRecord s x r k) := by
  unfold Machine.elementRecord
  dsimp only
  split
  · exact .bind h.engineSpan fun ⟨a, a2, t⟩ ht => .ite .error (.ok_snd_snd ht)
  · split <;> exact .ite .error (.ok_snd_snd h)

theorem Canonical.operandElem {x : OpTile} {r k : Nat} (h : Canonical s) :
    OkAll (fun x => Canonical x.2.2) (operandElem s x r k) := by
  unfold Machine.operandElem
  split
  · exact .ok_snd_snd h
  · exact h.engineRead
  · exact .ok_snd_snd h

theorem Canonical.fetchColumn {x : OpTile} {k : Nat} {x1 : List Nat} (h : Canonical s) :
    OkAll (fun x => Canonical x.2.2) (fetchColumn s x k x1) := by
  induction x1 generalizing s x k with
  | nil =>
    rw [Machine.fetchColumn]
    exact .ok_snd_snd h
  | cons x l ih =>
    rw [Machine.fetchColumn]
    refine .bind h.operandElem fun ⟨a, a2, t⟩ ht => .bind ht.elementRecord fun ⟨a3, a4, u⟩ ht2 => ?_
    exact .bind (ih ht2) fun ⟨a5, a6, v⟩ ht3 => .ok_snd_snd ht3

theorem Canonical.finishProduct {c : EngCmd} (h : Canonical s) : Canonical (finishProduct s c).1 := by
  unfold Machine.finishProduct
  split
  · extract_lets
    dsimp only
    exact h.mapHart
  · exact h

theorem Canonical.stepMma {c : EngCmd} (h : Canonical s) : LoopCanonical (stepMma s c) := by
  unfold Machine.stepMma
  split
  · rename_i x _ _ _ _ _ _ _ _ _
    extract_lets _ _ _ fetch
    have hfetch : OkAll (fun x => Canonical x.1) fetch := by
      unfold fetch
      refine .bind h.fetchColumn fun ⟨a, a2, t⟩ ht => .bind ht.fetchColumn fun ⟨a3, a4, u⟩ ht2 => ?_
      exact .ok_fst ht2
    clear_value fetch
    split
    · split
      · exact .done (hfetch _ rfl).finishProduct
      · exact .done (hfetch _ rfl)
    · exact .fault h.noteWalk
    · exact .stop
  · exact .done h

theorem Canonical.commandStep {c : EngCmd} (h : Canonical s) : LoopCanonical (commandStep s c) := by
  unfold Machine.commandStep
  split
  · exact h.stepMma
  · exact .done h
  · exact h.stepTst
  · exact h.stepCopyMem
  · exact h.stepCopyTile
  · exact h.stepSigLd
  · exact h.stepSigSt
  · exact h.stepSig

theorem Canonical.placeStaged {k : CmdKind} (h : Canonical s) : Canonical (placeStaged s k) := by
  unfold Machine.placeStaged
  split
  · exact h.mapHart
  · exact h

theorem Canonical.chargeStart {c : EngCmd} (h : Canonical s) : Canonical (chargeStart s c).1 := by
  unfold Machine.chargeStart
  split
  · exact h.chargeCycles
  · exact h

theorem Canonical.beginCommand {k : Nat} {c : EngCmd} (h : Canonical s) : Canonical (beginCommand s k c) := by
  unfold Machine.beginCommand
  dsimp only
  split
  · exact h.engineFault
  · exact (Canonical.ite_fst h.chargeStart.placeStaged.mapHart.finishProduct h.chargeStart.placeStaged.mapHart).mapHart

theorem Canonical.atCommand {p : Place} {k : Nat} {f : State → EngCmd → Outcome} (h : Canonical s)
    (hf : ∀ (u : State) (a : EngCmd), Canonical u → NextCanonical (f u a)) :
    NextCanonical (atCommand s p k f) := by
  unfold Machine.atCommand
  split
  · exact .next h
  · split
    · exact hf _ _ (h.focus _ ‹_›)
    · exact .next h

theorem Canonical.engineTurn {c : EngCmd} (h : Canonical s) : SomeAll Canonical (engineTurn s c) := by
  unfold Machine.engineTurn
  split
  · exact .some h
  · split
    · exact .some h
    · exact .ite (.some h.setArbiter) .none

theorem Canonical.execEngineCommandStart {at_ : Place} {k : Nat} (h : Canonical s) :
    NextCanonical (execEngineCommandStart at_ k s) := by
  unfold Machine.execEngineCommandStart
  refine h.atCommand (fun t b hs => .ite ?_ (.next h))
  split
  · exact .next (hs.engineTurn _ ‹_›).beginCommand
  · exact .next h

theorem Canonical.takeStep {k : Nat} {c : EngCmd} (h : Canonical s) : NextCanonical (takeStep s k c) := by
  unfold Machine.takeStep
  split
  · exact .next (h.commandStep.of_done ‹_›).mapHart
  · exact .next (h.commandStep.of_fault ‹_›).engineFault
  · exact .fault
  · exact .next h

theorem Canonical.timedStep {k : Nat} {c : EngCmd} (h : Canonical s) : NextCanonical (timedStep s k c) := by
  unfold Machine.timedStep
  split
  · exact .ite (.next h.mapHart) (.next h.takeTrap)
  · exact h.takeStep

theorem Canonical.execEngineStep {at_ : Place} {k : Nat} (h : Canonical s) :
    NextCanonical (execEngineStep at_ k s) := by
  unfold Machine.execEngineStep
  refine h.atCommand (fun t b hs => .ite (.next h) (.ite hs.takeStep ?_))
  split
  · exact hs.timedStep
  · dsimp only
    exact .ite (.next hs.choose.takeTrap) hs.choose.timedStep

theorem Canonical.pinLine {acc : List Pin × State} {va : Nat} (h : Canonical acc.2) : Canonical (pinLine acc va).2 := by
  unfold Machine.pinLine
  split
  · dsimp only
    exact h.barMoves.markAccess
  · exact h.noteWalk
  · exact h

theorem Canonical.pinTile {n : Nat} {t : Tsr} (h : Canonical s) : Canonical (pinTile s n t).2 := by
  have hl : Canonical ((pinAddrs t).foldl Machine.pinLine ([], s)).2 :=
    foldl_keeps (P := fun x : List Pin × State => Canonical x.2) h fun _ _ hx => hx.pinLine
  unfold Machine.pinTile
  dsimp only
  split
  · exact hl
  · exact h

theorem Canonical.settleAll {dst : Tsr} {bad : Bool} (h : Canonical s) :
    Canonical (settleAll s dst bad) := .ite h h.settleLines

theorem Canonical.completionEffect {c : EngCmd} (h : Canonical s) : Canonical (completionEffect s c) := by
  unfold Machine.completionEffect
  split
  · exact h.mapHart
  · split
    · dsimp only
      exact h.pinTile.mapHart
    · exact h
  · exact h.settleAll
  · exact h.settleAll
  · exact h.settleLines
  · exact h.mapHart
  · exact h.mapHart
  · exact h.mapHart
  · exact h.mapHart
  · exact h.mapHart
  · exact h.mapHart

theorem Canonical.completeCommand {k : Nat} {c : EngCmd} (h : Canonical s) :
    Canonical (completeCommand s k c) := h.completionEffect.mapHart

theorem Canonical.execEngineCommandComplete {at_ : Place} {k : Nat} (h : Canonical s) :
    NextCanonical (execEngineCommandComplete at_ k s) :=
  h.atCommand (fun _ _ hs => .ite (.next hs.chargeCommand.completeCommand) (.next h))

theorem Canonical.openRegion {r : RegionReq} (h : Canonical s) :
    Canonical (openRegion s r) := (h.setRequest.credit.frame (by rfl)).mapHart.retire.mapHart.quotaCheckFor

theorem Canonical.execRegionGrant {at_ : Place} (h : Canonical s) : NextCanonical (execRegionGrant at_ s) := by
  unfold Machine.execRegionGrant
  refine .next (h.atPlace (fun t hs => ?_))
  split
  · exact .ite hs.openRegion hs
  · exact hs

theorem Canonical.execRegionOverrun {at_ : Place} (h : Canonical s) : NextCanonical (execRegionOverrun at_ s) := by
  unfold Machine.execRegionOverrun
  refine .next (h.atPlace (fun t hs => ?_))
  split
  · exact .ite hs.takeTrap hs
  · exact hs

theorem Canonical.execTimedCommandStart {at_ : Place} {k : Nat} (h : Canonical s) :
    NextCanonical (execTimedCommandStart at_ k s) := by
  unfold Machine.execTimedCommandStart
  refine h.atCommand (fun t b hs => ?_)
  split
  · split
    · split
      · exact .next hs.takeTrap
      · exact .next hs.beginCommand
    · exact .next h
  · exact .next h

theorem Canonical.runAhead {q p : Nat} {x : StreamReg} (h : Canonical s) : Canonical (runAhead s q p x) := by
  unfold Machine.runAhead
  extract_lets
  split
  · exact h
  · split
    · exact h
    · exact h.markAccessed.mapHart

theorem Canonical.execStreamRunAhead {at_ : Place} {q ahead : Nat} (h : Canonical s) :
    NextCanonical (execStreamRunAhead at_ q ahead s) := by
  unfold Machine.execStreamRunAhead
  refine .next (h.atPlace (fun t hs => ?_))
  split
  · exact hs.runAhead
  · exact hs

/-! ### The functions of Machine/Walk.lean -/

theorem Canonical.walkWrite {x : Hart} {n n1 n2 n3 : Nat} (h : Canonical s) :
    OkAll (fun x => Canonical x.2) (walkWrite s x n n1 n2 n3) := by
  induction n generalizing s x n1 n2 n3 with
  | zero =>
    rw [Machine.walkWrite]
    exact .ok_snd h
  | succ n ih =>
    rw [Machine.walkWrite]
    split
    · exact .ok_snd h
    · extract_lets
      split
      · exact .ok_snd h
      · split
        · exact ih (h.pointWrite _ ‹_›)
        · exact .ok_snd h
        · exact .error

theorem Canonical.closeQuery {core : Nat} {x : QueryCtx} (h : Canonical s) :
    Canonical (closeQuery s core x) := h.mapCore

theorem Canonical.setQuery {core : Nat} {x : QueryCtx} (h : Canonical s) :
    Canonical (setQuery s core x) := h.closeQuery.mapCore

theorem Canonical.queryWord {a : BitVec 5} {writes : List RegId} {body : State → QueryCtx → Except Stop State}
    (h : Canonical s) (hbody : ∀ (u : State) (a2 : QueryCtx), Canonical u → OkAll Canonical (body u a2)) :
    NextCanonical (queryWord s a writes body) := by
  unfold Machine.queryWord
  refine h.runPlain (fun t hs => ?_)
  extract_lets
  split
  · exact hbody _ _ hs
  · exact .error

theorem Canonical.execWqOpen {d a : BitVec 5} (h : Canonical s) : NextCanonical (execWqOpen d a s) := by
  unfold Machine.execWqOpen
  refine h.runPlain (fun u hs => ?_)
  extract_lets
  split
  · exact .error
  · refine .bind hs.pointRead fun ⟨a2, t⟩ ht => ?_
    dsimp only
    split
    · exact .error
    · split
      · exact .ok ht.mapHart.retire
      · exact .ok ht.setQuery.mapHart.retire

theorem Canonical.execWqRun {a : BitVec 5} (h : Canonical s) : NextCanonical (execWqRun a s) := by
  unfold Machine.execWqRun
  refine h.queryWord (fun t b hs => ?_)
  exact .ite (.ok hs.retire) (hs.afterPublish (fun _ hv => .ok hv.setQuery.retire))

theorem Canonical.execWqPoll {d a : BitVec 5} (h : Canonical s) :
    NextCanonical (execWqPoll d a s) := h.queryWord (fun _ _ hs => .ok hs.mapHart.retire)

theorem Canonical.execWqResult {d a : BitVec 5} (h : Canonical s) : NextCanonical (execWqResult d a s) := by
  unfold Machine.execWqResult
  refine h.queryWord (fun t b hs => ?_)
  split
  · exact .error
  · exact .ok hs.mapHart.retire
  · exact .ok hs.l1Flush.mapHart.retire

theorem Canonical.execWqClose {a : BitVec 5} (h : Canonical s) :
    NextCanonical (execWqClose a s) := h.queryWord (fun _ _ hs => .ok hs.closeQuery.retire)

theorem Canonical.endWalk {x : Hart} {x1 : QueryCtx} {status : WalkStatus} {faddr : Word} (h : Canonical s) :
    OkAll Canonical (endWalk s x x1 status faddr) := by
  unfold Machine.endWalk
  extract_lets
  exact .bind h.walkWrite fun ⟨a, t⟩ ht => .ok ht.setQuery

theorem Canonical.stepWalk {x : Hart} {x1 : QueryCtx} (h : Canonical s) : OkAll Canonical (stepWalk s x x1) := by
  unfold Machine.stepWalk
  split
  · exact .ok h.setQuery
  · exact h.endWalk
  · split
    · exact .ok (h.pointRead _ ‹_›).setQuery
    · exact h.noteWalk.endWalk
    · exact .error

theorem Canonical.execWalkStep {core ctx : Nat} (h : Canonical s) : NextCanonical (execWalkStep core ctx s) := by
  unfold Machine.execWalkStep
  split
  · exact .next h
  · split
    · split
      · exact .next h.setQuery
      · split
        · exact .next (h.stepWalk _ ‹_›)
        · exact .fault
        · exact .next h
    · exact .next h

theorem Canonical.execQueryContextReclaim {core ctx : Nat} (h : Canonical s) :
    NextCanonical (execQueryContextReclaim core ctx s) := by
  unfold Machine.execQueryContextReclaim
  split
  · exact .next h
  · exact .ite (.next h.setQuery) (.next h)

/-! ### The functions of Machine/Fab.lean -/

theorem Canonical.setFab {i : Nat} {x : Option FabReg} (h : Canonical s) : Canonical (setFab s i x) := h.mapHart

theorem Canonical.loadTsr {at_ : Nat} (h : Canonical s) :
    OkAll (fun x => Canonical x.2) (loadTsr s at_) := .ite .error h.orderedRead

theorem Canonical.loadTsrIf {named : Bool} {at_ : Nat} (h : Canonical s) :
    OkAll (fun x => Canonical x.2) (loadTsrIf s named at_) := .ite (.map h.loadTsr (fun _ hs => hs)) (.ok_snd h)

theorem Canonical.bindingFault {t : Trap} (h : Canonical s) :
    Canonical (bindingFault s t) := .ite h.takeTrap (.ite h.takeTrap h.mapHart)

theorem Canonical.storeBytes {va n x : Nat} (h : Canonical s) : OkAll Canonical (storeBytes s va n x) := by
  unfold Machine.storeBytes
  split
  · exact .ite .error h.orderedWrite
  · exact h.orderedWrite

theorem Canonical.storeElement {f : FabReg} {pos x : Nat} (h : Canonical s) :
    OkAll Canonical (storeElement s f pos x) := .ite .error h.storeBytes

theorem Canonical.storeEach {f : State → Nat × Nat → Except Stop State} {x : List (Nat × Nat)}
    (hf : ∀ (u : State) (a : Nat × Nat), Canonical u → OkAll Canonical (f u a)) (h : Canonical s) :
    Canonical (storeEach f x s).2.2 := by
  induction x generalizing s with
  | nil =>
    rw [Machine.storeEach]
    exact h
  | cons x l ih =>
    rw [Machine.storeEach]
    split
    · exact ih ((hf _ _ h) _ ‹_›)
    · exact h

theorem Canonical.settleBinding {i : Nat} (h : Canonical s) : Canonical (settleBinding s i) := by
  unfold Machine.settleBinding
  split
  · exact h.statusWrite
  · exact h

theorem Canonical.commitBinding {i : Nat} (h : Canonical s) : OkAll Canonical (commitBinding s i) := by
  unfold Machine.commitBinding
  split
  · split
    · exact .ok (h.tryStatus _ ‹_›)
    · exact .error
  · exact .ok h

theorem Canonical.deliverBuffer {i : Nat} {l : List (Nat × Nat)} (h : Canonical s) :
    OkAll Canonical (deliverBuffer s i l) := by
  unfold Machine.deliverBuffer
  split
  · exact .ok h
  · split
    · exact .ok h.setFab
    · dsimp only
      split
      · split
        · refine (Canonical.setFab ?_).commitBinding
          split
          · exact h
          · exact Canonical.storeEach (fun _ _ hs => hs.storeElement) h
        · refine .ok (Canonical.setFab ?_).settleBinding
          split
          · exact h
          · exact Canonical.storeEach (fun _ _ hs => hs.storeElement) h
      · refine .ok (Canonical.setFab ?_).noteWalk.bindingFault
        split
        · exact h
        · exact Canonical.storeEach (fun _ _ hs => hs.storeElement) h
      · exact .error
      · exact .error

theorem Canonical.bufferArrival {i : Nat} {f : FabReg} {l : List (Nat × Nat)} {total : Nat} (h : Canonical s) :
    OkAll Canonical (bufferArrival s i f l total) := by
  unfold Machine.bufferArrival
  split
  · exact .ite h.setFab.deliverBuffer (.ok h.setFab)
  · exact h.setFab.deliverBuffer

theorem Canonical.acceptPayload {i src : Nat} {body : Payload} (h : Canonical s) :
    OkAll Canonical (acceptPayload s i src body) := by
  unfold Machine.acceptPayload
  split
  · exact .ok h
  · split
    · exact .ite h.bufferArrival (.ok h.setFab)
    · exact .ok h.setFab
    · exact h.bufferArrival

theorem Canonical.drainCaptured {whole : Bool} {i n : Nat} (h : Canonical s) :
    OkAll Canonical (drainCaptured whole i n s) := by
  induction n generalizing whole i s with
  | zero =>
    rw [Machine.drainCaptured]
    exact .ok h
  | succ n ih =>
    rw [Machine.drainCaptured]
    split
    · split
      · split
        · exact ih (h.setFab.acceptPayload _ ‹_›)
        · exact .ite .error (.ok h)
        · exact .error
      · exact .ok h
    · exact .ok h

theorem Canonical.drainAll {i : Nat} (h : Canonical s) : OkAll Canonical (drainAll s i) := h.drainCaptured

theorem Canonical.retryStuck {i : Nat} (h : Canonical s) : OkAll Canonical (retryStuck s i) := by
  unfold Machine.retryStuck
  extract_lets x
  have hx : ∀ (y : State), Canonical y → OkAll Canonical (x y) := by
    intro t ht
    unfold x
    exact ht.drainAll
  split
  · split
    · exact .bind (.ok h) fun t ht => hx _ ht
    · exact .bind h.setFab.deliverBuffer fun t ht => hx _ ht
  · exact .bind (.ok h) fun t ht => hx _ ht

theorem Canonical.atPort {sends : Bool} {body : State → Except Stop State}
    (h : Canonical s) (hbody : ∀ (u : State), Canonical u → OkAll Canonical (body u)) :
    OkAll Canonical (atPort s sends body) := .ite (h.atUnit (fun _ hs => hbody _ hs)) (hbody _ h)

theorem Canonical.sendPayloads {i : Nat} {f : FabReg} {dst : Nat} {l : List Payload} (h : Canonical s) :
    OkAll Canonical (sendPayloads s i f dst l) := by
  unfold Machine.sendPayloads
  split
  · exact .foldlM h (fun _ _ hs => hs.acceptPayload)
  · exact .ok (.ite (h.chargeUnit.frame rfl) h.chargeUnit)

theorem Canonical.sendElements {i : Nat} {f : FabReg} {pos : Nat} {l : List Nat} (h : Canonical s) :
    OkAll Canonical (sendElements s i f pos l) := .foldlM h (fun _ _ hs => hs.sendPayloads)

theorem Canonical.dropPacket {id n : Nat} (h : Canonical s) : Canonical (dropPacket s id n) := h.mapGroup

theorem Canonical.focusRank {id : Nat} {gen : BitVec 8} {rank : Nat} (h : Canonical s) :
    SomeAll (fun x => Canonical x.2) (focusRank s id gen rank) := by
  unfold Machine.focusRank
  extract_lets
  split
  · rename_i e
    exact .map (Q := fun _ => True) (fun _ _ => trivial) fun _ _ => h.focusBy _ e
  · exact .none

theorem Canonical.commitCaptured {i : Nat} (h : Canonical s) : OkAll Canonical (commitCaptured s i) := by
  unfold Machine.commitCaptured
  split
  · exact .ok h
  · split
    · exact .ok h
    · split
      · exact .ok (.ite (h.drainCaptured _ ‹_›) h)
      · exact h.drainCaptured

theorem Canonical.packetAt {i : Nat} {p : Packet} (h : Canonical s) : OkAll (SomeAll Canonical) (packetAt s i p) := by
  unfold Machine.packetAt
  split
  · exact .ok .none
  · split
    · exact .ite (.map h.setFab.owe.commitCaptured (fun _ hs => .some hs)) (.ok .none)
    · refine .bind h.drainAll fun t ht => ?_
      split
      · exact .ite (.map ht.acceptPayload (fun _ hs => .some hs)) (.ok .none)
      · exact .ok .none

theorem Canonical.routePacket {p : Packet} (h : Canonical s) : OkAll (SomeAll Canonical) (routePacket s p) := by
  unfold Machine.routePacket
  split
  · exact .ok .none
  · split
    · exact .ok .none
    · exact (h.focusRank _ ‹_›).packetAt

theorem Canonical.deliverOne {id : Nat} {x : List Packet} (h : Canonical s) :
    OkAll (SomeAll Canonical) (deliverOne id x s) := by
  induction x generalizing id s with
  | nil =>
    rw [Machine.deliverOne]
    exact .ok .none
  | cons x l ih =>
    rw [Machine.deliverOne]
    split
    · refine .bind h.routePacket fun a ht => ?_
      split
      · exact .ok (.some (ht _ rfl).mapGroup)
      · exact ih h
    · exact ih h

theorem Canonical.deliverHeld {id n : Nat} (h : Canonical s) : OkAll Canonical (deliverHeld id n s) := by
  induction n generalizing id s with
  | zero =>
    rw [Machine.deliverHeld]
    exact .ok h
  | succ n ih =>
    rw [Machine.deliverHeld]
    refine .bind h.deliverOne fun a ht => ?_
    split
    · exact ih (ht _ rfl)
    · exact .ok h

theorem Canonical.settleJoin {id : Nat} (h : Canonical s) :
    OkAll Canonical (settleJoin s id) := .ite (Canonical.ite h.mapGroup h).deliverHeld (.ok (.ite h.mapGroup h))

theorem Canonical.retryHeld {p : Packet} (h : Canonical s) : OkAll Canonical (retryHeld s p) := by
  unfold Machine.retryHeld
  refine .bind h.routePacket fun a ht => .ok ?_
  split
  · exact (ht _ rfl).mapGroup
  · exact h

theorem Canonical.arrive {p : Packet} {taken : State → State} (h : Canonical s)
    (ht : ∀ u, Canonical u → Canonical (taken u)) : OkAll Canonical (arrive s p taken) := by
  unfold Machine.arrive
  extract_lets
  split
  · exact .ok (ht _ h).dropPacket
  split
  · exact .ok h
  split
  · exact .ok (ht _ h).mapGroup
  refine .bind h.routePacket fun r hr => ?_
  cases r with
  | none => exact .ok h
  | some t => exact .ok (ht _ (hr _ rfl))

theorem Canonical.execFabricPacketArrival {pkt : Packet} (h : Canonical s) :
    NextCanonical (execFabricPacketArrival pkt s) := by
  unfold Machine.execFabricPacketArrival
  extract_lets _ _ r
  have hr : OkAll Canonical r := .ite h.retryHeld
      (.ite (h.arrive (fun _ hs => hs.frame rfl)) (.ite (.ok h) (h.arrive (fun _ hs => hs))))
  clear_value r
  split
  · exact .next (hr _ rfl)
  · exact .fault
  · exact .next h

theorem Canonical.fabWord {wf fit : Bool} {reads writes : List RegId} {body : State → Except Stop State}
    (h : Canonical s) (hbody : ∀ (u : State), Canonical u → OkAll Canonical (body u)) :
    NextCanonical (fabWord s wf fit reads writes body) := h.runPlain (fun _ hs => .ite .error (hbody _ hs))

theorem Canonical.stripPause {k : Nat} (h : Canonical s) : Canonical (stripPause s k) := h.mapHart.stall

theorem Canonical.execFbind {d a : BitVec 5} (h : Canonical s) : NextCanonical (execFbind d a s) := by
  unfold Machine.execFbind
  refine h.fabWord (fun y hs => ?_)
  extract_lets
  split
  · exact .error
  · split
    · exact .error
    · refine .bind hs.orderedRead fun ⟨a2, t⟩ ht => .bind ht.loadTsrIf fun ⟨a3, u⟩ ht2 => ?_
      refine .bind ht2.loadTsrIf fun ⟨a4, v⟩ ht3 => ?_
      dsimp only
      split
      · exact .error
      · refine .after fun _ => .after fun _ => ?_
        split
        · exact .error
        · refine .after fun _ => .bind ht3.orderedWrite fun w ht4 => ?_
          exact (ht4.frame (by rfl)).setFab.retire.mapGroup.settleJoin

theorem Canonical.releaseBinding {i : Nat} (h : Canonical s) : Canonical (releaseBinding s i) := by
  unfold Machine.releaseBinding
  split
  · exact h.setFab.leaveRank.settleGroup
  · exact h

theorem Canonical.execFrel {a : BitVec 5} (h : Canonical s) : NextCanonical (execFrel a s) := by
  unfold Machine.execFrel
  refine h.fabWord (fun t hs => ?_)
  split
  · exact .ok hs.retire
  · exact .after fun _ => .ok hs.releaseBinding.retire

theorem Canonical.sendStrip {i : Nat} {f : FabReg} {data : Nat → Nat} {lo hi : Nat} (h : Canonical s) :
    OkAll Canonical (sendStrip s i f data lo hi) := by
  unfold Machine.sendStrip
  extract_lets _ t
  have ht : Canonical t := h.setFab
  exact .ite (.ok h) ht.sendElements

theorem Canonical.passStrip {i n : Nat} (h : Canonical s) : Canonical (passStrip s i n) := by
  unfold Machine.passStrip
  split
  · exact h.setFab.settleBinding
  · exact h

theorem Canonical.execFsend {a b : BitVec 5} (h : Canonical s) : NextCanonical (execFsend a b s) := by
  unfold Machine.execFsend
  extract_lets
  refine h.fabWord (fun v hs => ?_)
  refine .after fun _ => ?_
  split
  · exact .error
  · extract_lets
    refine hs.atPort (fun w hv => ?_)
    exact .bind hv.setVl.sendStrip fun u ht => .ite (.ok ht.passStrip.retire) (.ok ht.stripPause)

theorem Canonical.keepStrip {i pos : Nat} {l : List Nat} (h : Canonical s) : OkAll Canonical (keepStrip s i pos l) := by
  unfold Machine.keepStrip
  split
  · exact .ok h
  · exact .ite (.ok h) h.deliverBuffer

theorem Canonical.takeStrip {t : VType} {d : BitVec 5} {i n : Nat} (h : Canonical s) :
    OkAll Canonical (takeStrip s t d i n) := by
  unfold Machine.takeStrip
  split
  · exact .error
  · extract_lets
    split
    · exact .error
    · extract_lets u
      have hu : Canonical u := h.setVl.loadLanes
      split
      · dsimp only
        exact .bind hu.keepStrip fun v ht => .ok ht.passStrip.mapHart.retire
      · exact .ok hu.stripPause

theorem Canonical.orStall {r : Except Stop State} (h : Canonical s) (hr : OkAll Canonical r) :
    OkAll Canonical (orStall s r) := by
  unfold Machine.orStall
  split
  · exact .ok h.stall
  · exact hr

theorem Canonical.execFrecv {d a : BitVec 5} (h : Canonical s) : NextCanonical (execFrecv d a s) := by
  unfold Machine.execFrecv
  extract_lets
  refine h.fabWord (fun v hs => ?_)
  refine .after fun _ => ?_
  split
  · exact .error
  · extract_lets
    exact .bind hs.setVl.retryStuck fun u ht => ht.orStall ht.takeStrip

theorem Canonical.execFrecvop {d a b : BitVec 5} (h : Canonical s) : NextCanonical (execFrecvop d a b s) := by
  unfold Machine.execFrecvop
  extract_lets
  refine h.fabWord (fun w hs => ?_)
  refine .after fun _ => ?_
  split
  · exact .error
  · extract_lets
    refine hs.atPort (fun y hv => ?_)
    refine .bind hv.setVl.sendStrip fun u ht => .bind ht.retryStuck fun v ht2 => ?_
    exact ht2.orStall ht2.takeStrip

theorem Canonical.countWrites {i : Nat} {f : FabReg} {l : List (Nat × Nat)} (h : Canonical s) :
    OkAll (fun x => Canonical x.2) (countWrites s i f l) := by
  unfold Machine.countWrites
  extract_lets
  dsimp only
  split
  · exact .ok_snd (Canonical.storeEach (fun _ _ hs => hs.storeBytes) h).setFab
  · exact .ok_snd (Canonical.storeEach (fun _ _ hs => hs.storeBytes) h).setFab.noteWalk.bindingFault
  · exact .error

theorem Canonical.sendCounts {i : Nat} {f : FabReg} {l : List Nat} (h : Canonical s) :
    OkAll Canonical (sendCounts s i f l) := .foldlM h (fun _ _ hs => hs.sendPayloads)

theorem Canonical.execFcount {d a : BitVec 5} (h : Canonical s) : NextCanonical (execFcount d a s) := by
  unfold Machine.execFcount
  refine h.fabWord (fun x hs => ?_)
  extract_lets
  refine .after fun _ => ?_
  split
  · exact .error
  · extract_lets
    refine .bind hs.retryStuck fun t ht => ht.atPort (fun y hv => ?_)
    refine .bind (Q := Canonical) ?_ ?_
    · split
      · exact .ok hv
      · exact .bind hv.rangeRead fun ⟨a2, u⟩ ht2 => ht2.setFab.sendCounts
    · intro u ht2
      extract_lets
      split
      · exact .ok ht2.stripPause
      · extract_lets
        refine .bind ht2.countWrites fun ⟨a2, v⟩ ht3 => ?_
        dsimp only
        split
        · exact .ok ht3.stripPause
        · exact .bind ht3.setFab.drainAll fun w ht4 => .ok ht4.mapHart.retire

theorem Canonical.readSource {t : Tsr} {x : List Nat} (h : Canonical s) :
    OkAll (fun x => Canonical x.2.2) (readSource t x s) := by
  induction x generalizing t s with
  | nil =>
    rw [Machine.readSource]
    exact .ok_snd_snd h
  | cons x l ih =>
    rw [Machine.readSource]
    split
    · exact .bind (ih (h.elementRead _ ‹_›)) fun ⟨a, a2, w⟩ ht => .ok_snd_snd ht
    · exact .ok_snd_snd h
    · exact .error

theorem Canonical.sentElements {f : FabReg} {src : Tsr} {l : List Nat} (h : Canonical s) :
    Canonical (sentElements s f src l).2 := by
  unfold Machine.sentElements
  split
  · exact h
  · dsimp only
    exact h.draw

theorem Canonical.execFa2a {a : BitVec 5} (h : Canonical s) : NextCanonical (execFa2a a s) := by
  unfold Machine.execFa2a
  refine h.fabWord (fun w hs => ?_)
  extract_lets
  refine .after fun _ => ?_
  split
  · exact .error
  · extract_lets
    split
    · exact .error
    · refine .bind hs.retryStuck fun t ht => ?_
      extract_lets
      refine ht.atPort (fun x hv => ?_)
      refine .bind hv.readSource fun ⟨a2, a3, u⟩ ht2 => ?_
      dsimp only
      refine .bind (.foldlM ht2.sentElements.setFab (fun _ _ hw => hw.sendPayloads)) fun v ht3 => ?_
      split
      · exact .ok ht3.mapHart.takeTrap
      · exact .ite (.ok ht3.setFab.settleBinding.retire) (.ok ht3.stripPause)

theorem Canonical.execFwait {d a : BitVec 5} (h : Canonical s) : NextCanonical (execFwait d a s) := by
  unfold Machine.execFwait
  refine h.fabWord (fun v hs => ?_)
  refine .after fun _ => .bind hs.retryStuck fun t ht => ?_
  split
  · exact .error
  · split
    · exact .ok ht.stall
    · extract_lets u
      have hu : Canonical u := by
        unfold u
        split
        · exact ht.acquireLines
        · exact ht
      exact .ok hu.mapHart.retire

/-! ### The functions of Machine/Sys.lean -/

theorem Canonical.execNop (h : Canonical s) : NextCanonical (execNop s) := h.runPlain (fun _ hs => .ok hs.retire)

theorem Canonical.execEret (h : Canonical s) :
    NextCanonical (execEret s) := h.runPlain (fun _ hs => .ite (.ok hs.returnFromTrap) .error)

theorem Canonical.setWaitRecord {w : Option WaitRec} (h : Canonical s) : Canonical (setWaitRecord s w) := h.mapHart

theorem Canonical.execWait {d a : BitVec 5} (h : Canonical s) : NextCanonical (execWait d a s) := by
  unfold Machine.execWait
  refine h.runInterlocked (fun t hs => ?_)
  extract_lets
  split
  · exact .ok hs.setWaitRecord.mapHart.retire
  · exact .ok hs.setWaitRecord.readyFrom

theorem Canonical.execBrk (h : Canonical s) : NextCanonical (execBrk s) := h.runPlain (fun _ _ => .error)

theorem Canonical.execTrap {n : BitVec 8} (h : Canonical s) :
    NextCanonical (execTrap n s) := h.runPlain (fun _ _ => .error)

theorem Canonical.execYield (h : Canonical s) :
    NextCanonical (execYield s) := h.runPlain (fun _ hs => .ok (Canonical.ite hs hs.mapHart).retire)

theorem Canonical.dropFetched (h : Canonical s) : Canonical (dropFetched s) := by
  unfold Machine.dropFetched
  split <;> exact h.mapHart

theorem Canonical.execFencei (h : Canonical s) :
    NextCanonical (execFencei s) := h.runPlain (fun _ hs => .ite .error (.ok hs.dropFetched.retire))

theorem Canonical.islandEvent {f : IslandState → IslandState} (h : Canonical s) :
    Canonical (islandEvent s f) := h.mapCore

theorem Canonical.execDusk (h : Canonical s) :
    NextCanonical (execDusk s) := h.runPlain (fun _ hs => .ok hs.islandEvent.retire)

theorem Canonical.execDawn (h : Canonical s) : NextCanonical (execDawn s) := by
  unfold Machine.execDawn
  refine h.runPlain (fun t hs => ?_)
  exact .ok (Canonical.ite hs.owe hs).islandEvent.retire

/-! ### The functions of Machine/Work.lean -/

theorem Canonical.hubRead {asid va n : Nat} (h : Canonical s) :
    OkAll (fun x => Canonical x.2) (hubRead s asid va n) := .after fun _ => .ite .error (.ok h.markAccess.homeReadAt)

theorem Canonical.counterGet {core asid : Nat} {update : Bool} {va : Nat} (h : Canonical s) :
    OkAll (fun x => Canonical x.2.2) (counterGet s core asid update va) := by
  unfold Machine.counterGet
  extract_lets
  refine .after fun _ => ?_
  split
  · exact .error
  · extract_lets t
    have ht : Canonical t := h.settleLine
    dsimp only
    exact .ok_snd_snd ht.amoRead.markAccess

theorem Canonical.counterPut {core asid va done : Nat} {ctl : Word} (h : Canonical s) :
    OkAll Canonical (counterPut s core asid va done ctl) := by
  unfold Machine.counterPut
  refine .after fun _ => ?_
  split
  · exact .error
  · exact .ok (h.amoPut _ ‹_›).markAccess

theorem Canonical.counterChain {core asid n n1 : Nat} {x : Word} (h : Canonical s) :
    OkAll (fun x => Canonical x.2) (counterChain s core asid n n1 x) := by
  induction n generalizing s core asid n1 x with
  | zero =>
    rw [Machine.counterChain]
    exact .ok_snd h
  | succ n ih =>
    rw [Machine.counterChain]
    refine .bind h.counterGet fun ⟨a, a2, t⟩ ht => ?_
    dsimp only
    split
    · exact .ok_snd ht
    · split
      · exact .ok_snd ht
      · split
        · exact .ok_snd ht
        · exact .bind (ih ht) fun ⟨a3, u⟩ ht2 => .ok_snd ht2

theorem Canonical.recordUpdate {asid va : Nat} {launch : Word} {t : Trap} (h : Canonical s) :
    Canonical (recordUpdate s asid va launch t) := h.noteWalk.record

theorem Canonical.hubUpdate {asid va : Nat} {launch : Word} {f : Nat → Word → Nat × Word} (h : Canonical s) :
    OkAll (fun x => Canonical x.2) (hubUpdate s asid va launch f) := by
  unfold Machine.hubUpdate
  have ha : OkAll (fun x => Canonical x.2) (do
      let (done, ctl, t) ← Machine.counterGet s hubCore asid true va
      let r := f done ctl
      let t ← Machine.counterPut t hubCore asid va r.1 r.2
      (.ok (if !ctlFin ctl && ctlFin r.2 then some r.2 else none, t) : Except Stop (Option Word × State))) := by
    refine .bind h.counterGet ?_
    rintro ⟨done, ctl, t⟩ ht
    exact .bind ht.counterPut fun u hu => .ok_snd hu
  dsimp only
  split
  · rename_i e
    exact .ok (ha _ e)
  · exact .ok_snd h.recordUpdate
  · exact .error

theorem Canonical.passUp {asid : Nat} {launch ctl : Word} (h : Canonical s) :
    OkAll Canonical (passUp s asid launch ctl) := .ite (.ok h) (.map h.hubUpdate (fun _ hs => hs))

theorem Canonical.readLaunch {asid queue : Nat} {at_ : Word} (h : Canonical s) :
    OkAll (fun x => Canonical x.2) (readLaunch s asid queue at_) := by
  unfold Machine.readLaunch
  split
  · exact .ok_snd h
  · refine .bind h.hubRead fun ⟨a, t⟩ ht => ?_
    dsimp only
    split
    · exact .ok_snd ht
    · refine .bind ht.hubRead fun ⟨a2, u⟩ ht2 => ?_
      split
      · exact .ok_snd ht2
      · split
        · exact .ok_snd ht2
        · refine .bind ht2.counterChain fun ⟨a3, v⟩ ht3 => ?_
          split
          · exact .ok_snd ht3
          · exact .ite (.ok_snd ht3) (.ok_snd ht3)

theorem Canonical.startCounter {core asid : Nat} {chain : List (Word × Word)} (h : Canonical s) :
    OkAll (fun x => Canonical x.2) (startCounter s core asid chain) := by
  unfold Machine.startCounter
  split
  · exact .ok_snd h
  · extract_lets
    exact .bind h.counterPut fun t ht => .ok_snd ht

theorem Canonical.readGraph {asid queue : Nat} {at_ : Word} (h : Canonical s) :
    OkAll (fun x => Canonical x.2) (readGraph s asid queue at_) := by
  unfold Machine.readGraph
  split
  · exact .ok_snd h
  · refine .bind h.hubRead fun ⟨a, t⟩ ht => ?_
    dsimp only
    split
    · exact .ok_snd ht
    · refine .bind ht.counterChain fun ⟨a2, u⟩ ht2 => ?_
      split
      · exact .ok_snd ht2
      · exact .ite (.ok_snd ht2) (.ok_snd ht2)

theorem Canonical.appendRequest {q : Nat} {r : DeviceReq} (h : Canonical s) :
    Canonical (appendRequest s q r) := h.mapQueue

theorem Canonical.execLaunch {d a : BitVec 5} (h : Canonical s) : NextCanonical (execLaunch d a s) := by
  unfold Machine.execLaunch
  refine h.runPlain (fun v hs => ?_)
  extract_lets
  refine hs.afterPublish (fun w hv => ?_)
  refine .bind hv.readLaunch fun ⟨a2, t⟩ ht => ?_
  dsimp only
  split
  · exact .error
  · split
    · exact .error
    · refine .bind ht.startCounter fun ⟨a2, u⟩ ht2 => ?_
      exact .ok (Canonical.ite (ht2.frame (by rfl)).appendRequest ht2).mapHart.retire

theorem Canonical.execLaunchg {d a : BitVec 5} (h : Canonical s) : NextCanonical (execLaunchg d a s) := by
  unfold Machine.execLaunchg
  refine h.runPlain (fun v hs => ?_)
  extract_lets
  refine hs.afterPublish (fun w hv => ?_)
  refine .bind hv.readGraph fun ⟨a2, t⟩ ht => ?_
  dsimp only
  split
  · exact .error
  · split
    · exact .error
    · refine .bind ht.startCounter fun ⟨a2, u⟩ ht2 => ?_
      exact .ok (Canonical.ite (ht2.frame (by rfl)).appendRequest ht2).mapHart.retire

theorem Canonical.checkCounter {x : Word} {low : Nat} (h : Canonical s) : OkAll Canonical (checkCounter s x low) := by
  unfold Machine.checkCounter
  split
  · exact .error
  · refine .bind h.counterChain fun ⟨a, t⟩ ht => ?_
    dsimp only
    split
    · exact .error
    · exact .ite .error (.ok ht)

theorem Canonical.execCsig {d a b : BitVec 5} (h : Canonical s) : NextCanonical (execCsig d a b s) := by
  unfold Machine.execCsig
  refine h.runPlain (fun y hs => ?_)
  extract_lets
  refine hs.afterPublish (fun z hv => ?_)
  refine .bind hv.checkCounter fun t ht => ?_
  split
  · exact .error
  · refine .bind ht.counterGet fun ⟨a2, a3, u⟩ ht2 => ?_
    dsimp only
    split
    · refine .bind (.ok ht2) fun w ht3 => ?_
      split
      · split
        · exact .bind ht3.passUp fun t2 ht4 => .ok ht4.mapHart.retire
        · exact .bind (.ok ht3) fun t2 ht4 => .ok ht4.mapHart.retire
      · split
        · exact .bind ht3.passUp fun t2 ht4 => .ok ht4.mapHart.retire
        · exact .bind (.ok ht3) fun t2 ht4 => .ok ht4.mapHart.retire
    · refine .bind ht2.counterPut fun w ht3 => ?_
      split
      · split
        · exact .bind ht3.passUp fun t2 ht4 => .ok ht4.mapHart.retire
        · exact .bind (.ok ht3) fun t2 ht4 => .ok ht4.mapHart.retire
      · split
        · exact .bind ht3.passUp fun t2 ht4 => .ok ht4.mapHart.retire
        · exact .bind (.ok ht3) fun t2 ht4 => .ok ht4.mapHart.retire

theorem Canonical.execCread {d a : BitVec 5} (h : Canonical s) : NextCanonical (execCread d a s) := by
  unfold Machine.execCread
  refine h.runPlain (fun v hs => ?_)
  extract_lets
  refine .bind hs.checkCounter fun t ht => .bind ht.counterGet fun ⟨a2, a3, u⟩ ht2 => ?_
  dsimp only
  split
  · exact .ite (.ok ht2.acquireLines.stall) (.ok ht2.acquireLines.mapHart.retire)
  · exact .ite (.ok ht2.stall) (.ok ht2.mapHart.retire)

theorem Canonical.markCancelled {asid : Nat} {counter launch : Word} (h : Canonical s) :
    OkAll Canonical (markCancelled s asid counter launch) := .map h.hubUpdate (fun _ hs => hs)

theorem Canonical.eachOf {α : Type} {f : State → α → Except Stop State} {x : List α}
    (hf : ∀ (u : State) (a : α), Canonical u → OkAll Canonical (f u a)) (h : Canonical s) :
    OkAll Canonical (eachOf f x s) := by
  induction x generalizing s with
  | nil =>
    rw [Machine.eachOf]
    exact .ok h
  | cons x l ih =>
    rw [Machine.eachOf]
    exact .bind (hf _ _ h) fun t ht => ih ht

theorem Canonical.mapGraph {asid : Nat} {counter : Word} {f : Graph → Graph} (h : Canonical s) :
    Canonical (mapGraph s asid counter f) := h.frame rfl

theorem Canonical.settleGraph {asid : Nat} {counter launch : Word} (h : Canonical s) :
    OkAll Canonical (settleGraph s asid counter launch) := by
  unfold Machine.settleGraph
  split
  · exact .ok h
  · extract_lets
    split
    · exact .ok h
    · refine .bind h.hubUpdate fun ⟨a, t⟩ ht => ?_
      dsimp only
      split
      · exact (ht.frame (by rfl)).passUp
      · exact .ok (ht.frame rfl)

theorem Canonical.settleGraphOf {l : Launch} (h : Canonical s) : OkAll Canonical (settleGraphOf s l) := by
  unfold Machine.settleGraphOf
  split
  · exact h.settleGraph
  · exact .ok h

theorem Canonical.cancelBelow {asid : Nat} {x : Word} (h : Canonical s) : OkAll Canonical (cancelBelow s asid x) := by
  unfold Machine.cancelBelow
  extract_lets
  refine .bind (Canonical.eachOf (fun _ _ hs => hs.markCancelled) h) fun t ht => ?_
  refine .bind (Canonical.eachOf (fun _ _ hs => hs.markCancelled) ht) fun u ht2 => ?_
  extract_lets _ v w t2 t3 t4
  have hv : Canonical v := ht2.frame rfl
  have hw : Canonical w := hv.foldl (fun _ _ hx => hx.abortBarriers)
  have hy : Canonical t2 := Canonical.onHarts (fun _ hx => hx.retireUnit) hw
  have ht3 : Canonical t3 := by
    unfold t3
    split
    · exact hy.record
    · exact hy
  have ht4 : Canonical t4 := ht3.quotaCheckFor
  refine .bind (Canonical.eachOf (fun _ _ hx => hx.settleGraphOf) ht4) fun t5 ht5 => ?_
  exact .ok (ht5.foldl (fun _ _ hx => hx.settleQueue))

theorem Canonical.cancelLevel {core asid : Nat} {x : Word} (h : Canonical s) :
    OkAll Canonical (cancelLevel s core asid x) := by
  unfold Machine.cancelLevel
  refine .bind h.counterGet fun ⟨a, a2, t⟩ ht => ?_
  dsimp only
  split
  · exact .ok ht
  · exact .bind ht.counterPut fun u ht2 => ht2.cancelBelow

theorem Canonical.execCancel {a : BitVec 5} (h : Canonical s) : NextCanonical (execCancel a s) := by
  unfold Machine.execCancel
  refine h.runPlain (fun u hs => ?_)
  extract_lets
  exact .bind hs.checkCounter fun t ht => ht.retire.cancelLevel

theorem Canonical.execCancellation {asid counter : Nat} (h : Canonical s) :
    NextCanonical (execCancellation asid counter s) := by
  unfold Machine.execCancellation
  split
  · exact .next (h.cancelLevel _ ‹_›)
  · exact .fault
  · exact .next h.recordUpdate
  · exact .next h

/-! ### The functions of Machine/EvHart.lean -/

theorem Canonical.lastFault (h : Canonical s) : SomeAll Canonical (lastFault s) := by
  unfold Machine.lastFault
  split
  · split
    · exact .some h.mapHart.takeTrap
    · exact .none
  · exact .none

theorem Canonical.execTrapDelivery {at_ : Place} (h : Canonical s) : NextCanonical (execTrapDelivery at_ s) := by
  unfold Machine.execTrapDelivery
  refine .next (h.atPlace (fun t hs => .ite hs ?_))
  split
  · exact hs.lastFault _ ‹_›
  · split
    · exact .ite hs hs.takeInterrupt
    · exact hs

theorem Canonical.execBlockTake {at_ : Place} (h : Canonical s) :
    NextCanonical (execBlockTake at_ s) := .next (h.atPlace (fun _ hs => .ite hs hs.takeBlock))

theorem Canonical.execWaitTimeout {at_ : Place} (h : Canonical s) : NextCanonical (execWaitTimeout at_ s) := by
  unfold Machine.execWaitTimeout
  refine .next (h.atPlace (fun t hs => .ite hs ?_))
  split
  · exact hs
  · split
    · split
      · exact (hs.frame (by rfl)).setWaitRecord.mapHart.retire
      · exact hs
    · exact hs

theorem Canonical.launchFinished {l : Launch} {ctl : Word} (h : Canonical s) :
    OkAll Canonical (launchFinished s l ctl) := by
  unfold Machine.launchFinished
  extract_lets t
  have ht : Canonical t := (h.frame (by rfl)).releaseBarriers
  refine .bind ht.passUp fun u ht2 => ?_
  split
  · exact .ok ht2
  · extract_lets v
    have hv : Canonical v := ht2.mapGraph
    exact .bind (.ite (.ok hv) (.map hv.hubUpdate (fun _ hs => hs))) fun w ht3 => ht3.settleGraph

theorem Canonical.unitEnded {asid : Nat} {handle : Word} (h : Canonical s) :
    OkAll Canonical (unitEnded s asid handle) := by
  unfold Machine.unitEnded
  extract_lets l
  refine .bind h.hubUpdate fun ⟨a, t⟩ ht => ?_
  dsimp only
  clear_value l
  split
  · exact ht.launchFinished
  · exact .ok ht

theorem Canonical.orLater {x : Except Stop State} (h : Canonical s) (hx : OkAll Canonical x) :
    NextCanonical (orLater s x) := by
  unfold Machine.orLater
  split
  · exact .next (hx _ rfl)
  · exact .fault
  · exact .next h

theorem Canonical.execHartFree {at_ : Place} (h : Canonical s) : NextCanonical (execHartFree at_ s) := by
  unfold Machine.execHartFree
  split
  · exact .next h
  · split
    · exact .next h
    · extract_lets u
      have hu : Canonical u := (h.focus _ ‹_›).foldl (fun _ _ hs => hs.releaseBinding)
      exact h.orLater hu.freeHart.unitEnded

theorem Canonical.makeGrants {l : Launch} {core : Nat} (h : Canonical s) :
    Canonical (makeGrants s l core) := h.foldl (fun _ _ hs => .ite hs (hs.frame rfl))

theorem Canonical.wakeContext {asid : Nat} (h : Canonical s) : Canonical (wakeContext s asid) := h.mapCtx

theorem Canonical.placeUnit {l : Launch} {u : Nat} {p : Place} (h : Canonical s) : Canonical (placeUnit s l u p) := by
  unfold Machine.placeUnit
  extract_lets t _ v w t2
  have ht : Canonical t := h.makeGrants
  have hv : Canonical v := ht.frame rfl
  have hw : Canonical w := hv.acquireLines
  have ht2 : Canonical t2 := hw.wakeContext.joinArbiters
  exact ht2.mapQueue

theorem Canonical.placeAll {group : Nat → Bool} {handle : Word} {asid n : Nat} {x : List Nat} (h : Canonical s) :
    SomeAll (fun x => Canonical x.1) (placeAll group handle asid n s x) := by
  induction n generalizing handle asid s x with
  | zero =>
    rw [Machine.placeAll]
    exact .some h
  | succ n ih =>
    rw [Machine.placeAll]
    split
    · exact .none
    · split
      · exact .none
      · exact ih h.placeUnit

theorem Canonical.placeGang {l : Launch} (h : Canonical s) :
    SomeAll (fun x => Canonical x.1) (placeGang s l) := .findSome? (fun _ => h.placeAll)

theorem Canonical.afterWake {t : State} {used : List Nat} (h : Canonical s) (ht : Canonical t) :
    Canonical (afterWake s t used) := .ite ht (h.foldl (fun _ _ hs => hs.mapCore))

theorem Canonical.execUnitPlace {asid launch : Nat} {at_ : Place} (h : Canonical s) :
    NextCanonical (execUnitPlace asid launch at_ s) := by
  unfold Machine.execUnitPlace
  split
  · exact .next h
  · split
    · split
      · exact .ite (.next (h.afterWake h.placeUnit)) (.next h)
      · exact .next h
    · split
      · exact .next (h.afterWake (h.placeGang _ ‹_›))
      · exact .next h

theorem Canonical.graphFault {g : Graph} {t : Trap} (h : Canonical s) :
    OkAll Canonical (graphFault s g t) := h.noteWalk.record.cancelBelow

theorem Canonical.moveToken {g : Graph} {k : Nat} {to_ : List Nat} (h : Canonical s) :
    Canonical (moveToken s g k to_) := h.mapGraph

theorem Canonical.nodeWord {asid va : Nat} {f : Nat → Nat} (h : Canonical s) :
    OkAll (fun x => Canonical x.2) (nodeWord s asid va f) := by
  unfold Machine.nodeWord
  refine .after fun _ => ?_
  split
  · exact .error
  · dsimp only
    split
    · exact .ok_snd h.amoRead.markAccess
    · refine .after fun _ => ?_
      split
      · exact .error
      · exact .ok_snd (h.amoRead.markAccess.amoPut _ ‹_›).markAccess

theorem Canonical.tokenAt {g : Graph} {k n : Nat} {x : NodeFields} (h : Canonical s) :
    OkAll Canonical (tokenAt s g k n x) := by
  have hgo : ∀ (s : State) (l : List Nat), Canonical s → OkAll Canonical (if l.all (successorOk g.nodes) then
      (.ok (Machine.moveToken s g k l) : Except Stop State)
    else .error (.trap (badrec 4 (g.array.toNat + 32 * n)))) := fun s l hs => .ite (.ok hs.moveToken) .error
  unfold Machine.tokenAt
  dsimp only
  split
  · refine .ite .error (.bind h.readLaunch ?_)
    rintro ⟨_ | ⟨l, chain⟩, t⟩ ht
    · exact .error
    · refine .bind ht.startCounter fun r hr => .ok ?_
      have hm : Canonical (Machine.moveToken r.2 g k []) := hr.moveToken
      exact .ite (hm.frame rfl) hm
  · exact .bind h.nodeWord fun _ ht => hgo _ _ ht
  · exact .bind h.nodeWord fun _ ht => hgo _ _ ht
  · exact hgo _ _ h.mapGraph
  · exact h.moveToken.mapGraph.settleGraph

theorem Canonical.execGraphNode {asid graph token : Nat} (h : Canonical s) :
    NextCanonical (execGraphNode asid graph token s) := by
  unfold Machine.execGraphNode
  split
  · exact .next h
  · split
    · exact .next h
    · extract_lets _ run
      have hrun : OkAll Canonical run := by
        unfold run
        refine .bind h.hubRead fun ⟨a, t⟩ ht => ?_
        dsimp only
        split
        · exact .error
        · exact ht.tokenAt
      clear_value run
      split
      · exact h.orLater h.graphFault
      · exact h.orLater hrun

theorem Canonical.raiseQueue {q : Nat} (h : Canonical s) : Canonical (raiseQueue s q) := .ite h.raise h.raise

theorem Canonical.skipEntry {q : Nat} {t : Trap} (h : Canonical s) :
    Canonical (skipEntry s q t) := h.noteWalk.record.mapQueue.raiseQueue

theorem Canonical.chainCancelled {asid : Nat} {counter : Word} (h : Canonical s) :
    OkAll (fun x => Canonical x.2) (chainCancelled s asid counter) := .bind h.counterChain fun ⟨_, _⟩ ht => .ok_snd ht

theorem Canonical.takeRequest {q : Nat} {r : DeviceReq} (h : Canonical s) : OkAll Canonical (takeRequest s q r) := by
  unfold Machine.takeRequest
  extract_lets _ t taken
  have ht : Canonical t := h.mapQueue
  have htaken : ∀ (s : State), Canonical s → Canonical (taken s) := by
    intro u ht2
    unfold taken
    exact .ite ht2.mapGraph (ht2.frame rfl)
  split
  · exact (ht.chainCancelled _ ‹_›).cancelBelow
  · exact .ok (htaken _ (ht.chainCancelled _ ‹_›))
  · exact .ok (htaken _ ht)
  · exact .error

theorem Canonical.startRecord {q asid kind : Nat} {at_ : Word} (h : Canonical s) :
    OkAll Canonical (startRecord s q asid kind at_) := by
  unfold Machine.startRecord
  split
  · refine .bind h.readLaunch fun ⟨a, t⟩ ht => ?_
    dsimp only
    split
    · exact .error
    · exact .bind ht.startCounter fun ⟨a, u⟩ ht2 => .ok (.ite (ht2.frame rfl) ht2)
  · refine .bind h.readGraph fun ⟨a, t⟩ ht => ?_
    dsimp only
    split
    · exact .error
    · exact .bind ht.startCounter fun ⟨a, u⟩ ht2 => .ok (.ite (ht2.frame rfl) ht2)

theorem Canonical.takeEntry {q : Nat} (h : Canonical s) : OkAll Canonical (takeEntry s q) := by
  unfold Machine.takeEntry
  extract_lets
  split
  · exact .ok h.mapQueue.skipEntry
  · exact .error
  · extract_lets u
    have hu : Canonical u := (h.hubRead _ ‹_›).mapQueue
    split
    · exact .ok hu.skipEntry
    · split
      · exact .ok hu
      · split
        · exact .ok hu.skipEntry
        · exact hu.startRecord

theorem Canonical.execQueueEntryTake {q : Nat} (h : Canonical s) : NextCanonical (execQueueEntryTake q s) := by
  unfold Machine.execQueueEntryTake
  split
  · exact .next h
  · extract_lets
    split
    · exact h.orLater h.takeRequest
    · exact .ite (.next h) (h.orLater h.takeEntry)

/-! ### The functions of Machine/EvCtx.lean -/

theorem Canonical.execContextCreate {asid : Nat} {root : BitVec 64} {prio : BitVec 2} {reserved : Nat}
    (h : Canonical s) :
    NextCanonical (execContextCreate asid root prio reserved s) := .ite (.next h) (.ite (.next (h.frame rfl)) (.next (h.frame rfl)))

theorem Canonical.execContextBind {asid : Nat} {fn : Option Nat} (h : Canonical s) :
    NextCanonical (execContextBind asid fn s) := by
  unfold Machine.execContextBind
  split
  · exact .next h
  · exact .ite (.next h.mapCtx) (.next h)

theorem Canonical.releaseHeld {w : HeldWrite} (h : Canonical s) : Canonical (releaseHeld s w) := by
  unfold Machine.releaseHeld
  split
  · exact h.dropHeld
  · exact h.dropHeld
  · exact (h.guardWrite _ ‹_›).performHeld

theorem Canonical.execContextDestroy {asid : Nat} (h : Canonical s) : NextCanonical (execContextDestroy asid s) := by
  unfold Machine.execContextDestroy
  split
  · exact .next h
  · split
    · exact .next h
    · extract_lets t u _ v
      have ht : Canonical t := h.mapCtx
      have hu : Canonical u := ht.foldl (fun _ _ hs => hs.releaseHeld)
      have hv : Canonical v := hu.foldl (fun _ _ hs => hs.scrambleLine)
      exact .next (hv.frame rfl)

theorem Canonical.lateRequest {asid : Nat} {r : FaultRecord} (h : Canonical s) :
    Canonical (lateRequest s asid r) := .ite h.record h.mapCtx

theorem Canonical.preempt {asid : Nat} {launch : Option Word} (h : Canonical s) :
    Canonical (s.preempt asid launch) := by
  unfold State.preempt
  extract_lets _ t
  have ht : Canonical t := h.haltAll
  split
  · split
    · exact h.lateRequest
    · exact h
  · exact ht.mapCtx.settleContext.quotaCheckFor

theorem Canonical.execPreempt {asid : Nat} {launch : Option Nat} (h : Canonical s) :
    NextCanonical (execPreempt asid launch s) := .next h.preempt

theorem Canonical.execContextSaveComplete {at_ : Place} (h : Canonical s) :
    NextCanonical (execContextSaveComplete at_ s) := by
  unfold Machine.execContextSaveComplete
  split
  · exact .next h
  · exact .ite (.next (h.focusBy _ ‹_›).mapHart.owe.settleContext) (.next h)

theorem Canonical.discardSegments {gid core : Nat} {segs : BitVec 8} (h : Canonical s) :
    Canonical (discardSegments s gid core segs) := by
  unfold Machine.discardSegments
  exact (Canonical.of_mem (wf_filter _ h.wf) (by rfl)).mapCore

theorem Canonical.discardFor {asid : Nat} {x : Word × Nat} (h : Canonical s) : Canonical (discardFor asid s x) := by
  unfold Machine.discardFor
  extract_lets _ t
  have ht : Canonical t := h.foldl (fun _ _ hs => hs.discardSegments)
  exact .ite h ht.mapHarts

theorem Canonical.seatHart (h : Canonical s) : Canonical (seatHart s) := by
  unfold Machine.seatHart
  split
  · exact h.mapHart
  · exact h

theorem Canonical.repin {t : Nat} (h : Canonical s) : Canonical (repin s t) := by
  unfold Machine.repin
  split
  · dsimp only
    exact h.pinTile.mapHart
  · exact h

theorem Canonical.wakeHart (h : Canonical s) :
    Canonical (wakeHart s) := (h.owe.mapHart.foldl (fun _ _ hs => hs.repin)).joinArbiters

theorem Canonical.drainHarts {x : List Nat} (h : Canonical s) : OkAll Canonical (drainHarts x s) := by
  induction x generalizing s with
  | nil =>
    rw [Machine.drainHarts]
    exact .ok h
  | cons x l ih =>
    rw [Machine.drainHarts]
    split
    · exact .bind (.foldlM (h.focusBy _ ‹_›) (fun _ _ hs => hs.drainAll)) fun u ht => ih ht
    · exact ih h

theorem Canonical.restoreContext {asid : Nat} (h : Canonical s) : OkAll Canonical (restoreContext s asid) := by
  unfold Machine.restoreContext
  extract_lets _ t u
  have ht : Canonical t := h.foldl (fun _ _ hv => hv.discardFor)
  have hu : Canonical u := Canonical.onHarts (fun _ hv => hv.wakeHart) ht
  exact hu.mapCtx.drainHarts

theorem Canonical.seatHarts {x : List Nat} (h : Canonical s) : Canonical (seatHarts x s) := by
  induction x generalizing s with
  | nil =>
    rw [Machine.seatHarts]
    exact h
  | cons x l ih =>
    rw [Machine.seatHarts]
    refine ih ?_
    split
    · exact (h.focusBy _ ‹_›).seatHart
    · exact h

theorem Canonical.seatAll {asid : Nat} (h : Canonical s) : Canonical (seatAll s asid) := h.seatHarts

theorem Canonical.continueResume {asid : Nat} (h : Canonical s) :
    OkAll Canonical (continueResume s asid) := .ite h.seatAll.restoreContext (.ok h.seatAll)

theorem Canonical.resumeContext {asid : Nat} (h : Canonical s) : OkAll Canonical (s.resumeContext asid) := by
  unfold State.resumeContext
  split
  · exact .ok h
  · split
    · exact .ite h.mapCtx.continueResume (.ok h)
    · exact .ok (.ite h h.mapCtx)
    · exact h.continueResume
    · exact .ite h.seatAll.restoreContext (.ok (.ite h.mapCtx h))
    · exact .ok h

theorem Canonical.execContextResume {asid : Nat} (h : Canonical s) :
    NextCanonical (execContextResume asid s) := h.orLater h.resumeContext

/-! ### The functions of Machine/EvFabric.lean -/

theorem Canonical.raiseLinkdown {n : Nat} (h : Canonical s) : Canonical (raiseLinkdown s n) := by
  unfold Machine.raiseLinkdown
  exact h.mapHarts

theorem Canonical.routeLoss {pkg : Nat} (h : Canonical s) :
    Canonical (routeLoss s pkg) := .ite h (h.foldl (fun _ _ hs => hs.abortGroup))

theorem Canonical.setLink {n : Nat} {x : LinkState} {lanes : Nat} (h : Canonical s) :
    Canonical (setLink s n x lanes) := by
  unfold Machine.setLink
  extract_lets _ _ t u
  have ht : Canonical t := h.frame rfl
  have hu : Canonical u := .ite ht.raise ht
  exact .ite (hu.raiseLinkdown.foldl (fun _ _ hs => hs.routeLoss)) hu

theorem Canonical.linkEvent {n : Nat} {p : LinkState → Bool} {f : State → State} (h : Canonical s)
    (hf : ∀ (u : State), Canonical u → Canonical (f u)) :
    NextCanonical (linkEvent s n p f) := .next (.ite (hf _ h) h)

theorem Canonical.execFlitRetry {link flits : Nat} {failed : Bool} (h : Canonical s) :
    NextCanonical (execFlitRetry link flits failed s) := by
  unfold Machine.execFlitRetry
  refine h.linkEvent (fun t hs => ?_)
  exact .ite (hs.frame (by rfl)).setLink (hs.frame rfl)

theorem Canonical.execLinkEnable {link : Nat} (h : Canonical s) :
    NextCanonical (execLinkEnable link s) := h.linkEvent (fun _ hs => hs.setLink)

theorem Canonical.execLinkTrainDone {link passing : Nat} (h : Canonical s) :
    NextCanonical (execLinkTrainDone link passing s) :=
  h.linkEvent (fun _ hs => .ite hs.setLink (.ite hs.setLink (.ite hs.setLink hs.setLink)))

theorem Canonical.execLinkTrainTimeout {link : Nat} (h : Canonical s) :
    NextCanonical (execLinkTrainTimeout link s) := h.linkEvent (fun _ hs => hs.setLink)

theorem Canonical.execLinkRetrain {link : Nat} (h : Canonical s) :
    NextCanonical (execLinkRetrain link s) := h.linkEvent (fun _ hs => hs.setLink)

theorem Canonical.execLaneLoss {link : Nat} (h : Canonical s) :
    NextCanonical (execLaneLoss link s) := h.linkEvent (fun _ hs => hs.setLink)

theorem Canonical.execLossOfSignal {link : Nat} (h : Canonical s) :
    NextCanonical (execLossOfSignal link s) := h.linkEvent (fun _ hs => hs.setLink)

theorem Canonical.execLinkDrain {link : Nat} (h : Canonical s) :
    NextCanonical (execLinkDrain link s) := h.linkEvent (fun _ hs => hs.setLink)

theorem Canonical.execLinkDrainDone {link : Nat} (h : Canonical s) :
    NextCanonical (execLinkDrainDone link s) := h.linkEvent (fun _ hs => hs.setLink)

theorem Canonical.execRouteTableWrite {pkg : Nat} {links : List Nat} (h : Canonical s) :
    NextCanonical (execRouteTableWrite pkg links s) := .next (h.frame (by rfl)).routeLoss

theorem Canonical.writeMap {at_ : Nat} {members : List Nat} (h : Canonical s) : Canonical (writeMap s at_ members) := by
  unfold Machine.writeMap
  refine h.foldl (fun t a hs => ?_)
  exact .ite (Canonical.store (wf_memWrite hs.wf _ _ _)) hs

theorem Canonical.execGroupOpen {id nrank asid : Nat} {locals mapAt : BitVec 64} {members : List Nat}
    (h : Canonical s) :
    NextCanonical (execGroupOpen id nrank asid locals mapAt members s) := by
  unfold Machine.execGroupOpen
  refine .next (.ite ?_ h)
  exact h.writeMap.mapGroup

theorem Canonical.execJoinNotice {id gen rank : Nat} (h : Canonical s) :
    NextCanonical (execJoinNotice id gen rank s) := by
  unfold Machine.execJoinNotice
  extract_lets
  split
  · exact .next h
  · split
    · exact .next h.dropPacket
    · split
      · exact .next h
      · split
        · exact .next (h.mapGroup.settleJoin _ ‹_›)
        · exact .fault
        · exact .next h

theorem Canonical.leaveNotice {id gen rank : Nat} (h : Canonical s) :
    Canonical (leaveNotice s id gen rank) := .ite h.mapGroup h

theorem Canonical.execGroupAbort {id : Nat} (h : Canonical s) :
    NextCanonical (execGroupAbort id s) := .next h.abortGroup

theorem Canonical.execGroupAbortArrival {id gen : Nat} (h : Canonical s) :
    NextCanonical (execGroupAbortArrival id gen s) := .ite (.next h) (.ite (.next h.dropPacket) (.next h.abortGroup))

theorem Canonical.execGroupFree {id : Nat} (h : Canonical s) :
    NextCanonical (execGroupFree id s) := .ite (.next h.mapGroup.dropPacket) (.next h)

theorem Canonical.execDrainMarkerReturn {id : Nat} (h : Canonical s) :
    NextCanonical (execDrainMarkerReturn id s) := .next (.ite h.mapGroup h)

/-! ### The functions of Machine/EvPage.lean -/

theorem Canonical.dropCopies {x : Nat × Nat} (h : Canonical s) : Canonical (dropCopies s x) := h.frame rfl

theorem Canonical.zeroFrame {frame bits : Nat} (h : Canonical s) :
    Canonical (zeroFrame s frame bits) := .of_mem (wf_filter _ h.dropCopies.wf) rfl

theorem Canonical.abandonMoves {l : List Leaf} (h : Canonical s) : Canonical (abandonMoves s l) := h.frame rfl
theorem Canonical.retirePages {l : List Leaf} (h : Canonical s) : Canonical (retirePages s l) := h.frame rfl

theorem Canonical.trackPage {l : Leaf} (h : Canonical s) : Canonical (trackPage s l) := by
  unfold Machine.trackPage
  split
  · exact h
  · refine h.foldl (fun t a hs => ?_)
    split
    · exact hs
    · extract_lets
      exact .ite hs.barMoves.mapCtx hs

theorem Canonical.zeroFresh {l : List Leaf} (h : Canonical s) :
    Canonical (zeroFresh s l) := h.foldl (fun _ _ hs => .ite hs.zeroFrame hs)

theorem Canonical.settleDemotion (h : Canonical s) : Canonical (settleDemotion s) := h.frame rfl

theorem Canonical.copyFrame {from_ to_ bits : Nat} (h : Canonical s) : Canonical (copyFrame s from_ to_ bits) :=
  ⟨wf_foldl _ (fun _ _ hm => wf_memSet hm _ _) _ _ h.zeroFrame.wf⟩

theorem Canonical.prepareFrames {l : List Leaf} {leaf : Bool} {x : MapHow} (h : Canonical s) :
    Canonical (prepareFrames s l leaf x) := by
  unfold Machine.prepareFrames
  split
  · rename_i frame
    split
    · refine h.foldl (fun t a hs => .ite hs ?_)
      exact hs.copyFrame.frame rfl
    · exact h.zeroFresh
  · exact h.zeroFresh

theorem Canonical.writeEntry {asid va bits at_ : Nat} {e : Word} (h : Canonical s) :
    Canonical (writeEntry s asid va bits at_ e) := by
  unfold Machine.writeEntry
  extract_lets _ t u
  have ht : Canonical t := h.retirePages.abandonMoves
  have hu : Canonical u := .of_mem (wf_memWrite ht.wf _ _ _) rfl
  exact hu.foldl (fun _ _ hs => hs.trackPage)

theorem Canonical.execPageMap {asid va : Nat} {entry leaf : BitVec 64} {how : MapHow} (h : Canonical s) :
    NextCanonical (execPageMap asid va entry leaf how s) := by
  unfold Machine.execPageMap
  extract_lets
  split
  · exact .next h
  · split
    · exact .next (.of_mem (wf_memWrite h.wf _ _ _) rfl)
    · exact .ite (.next h) (.next h.prepareFrames.writeEntry.settleDemotion)

theorem Canonical.execPageUnmap {asid va : Nat} {entry : BitVec 64} (h : Canonical s) :
    NextCanonical (execPageUnmap asid va entry s) := by
  unfold Machine.execPageUnmap
  extract_lets
  split
  · exact .next h
  · exact .next h.writeEntry.settleDemotion

theorem Canonical.execShootdown {asid va len : Nat} (h : Canonical s) :
    NextCanonical (execShootdown asid va len s) := .next (h.frame rfl)

theorem Canonical.untrackPage {asid : Nat} {x : Nat × Nat} (h : Canonical s) :
    Canonical (untrackPage s asid x) := h.mapCtx

theorem Canonical.execShootdownComplete {k : Nat} (h : Canonical s) : NextCanonical (execShootdownComplete k s) := by
  unfold Machine.execShootdownComplete
  split
  · exact .next h
  · extract_lets _ _ t u v
    have ht : Canonical t := h.foldl (fun _ _ hs => hs.l1Flush)
    have hu : Canonical u := ht.frame rfl
    have hv : Canonical v := hu.dropTranslations
    exact .ite (.next ht) (.next (hv.foldl (fun _ _ hs => hs.untrackPage)))

theorem Canonical.execPageSweep {entries : List Nat} (h : Canonical s) : NextCanonical (execPageSweep entries s) := by
  unfold Machine.execPageSweep
  extract_lets _ t
  have ht : Canonical t := by
    unfold t
    refine h.foldl (fun v a hs => ?_)
    extract_lets _ u
    have hu : Canonical u := hs.markLeaf
    exact .ite (hu.frame rfl) hs
  exact .next (ht.frame rfl)

theorem Canonical.l2Miss {core asid va : Nat} (h : Canonical s) : Canonical (l2Miss s core asid va) := h.notePage

theorem Canonical.execMigrationStart {asid va : Nat} {leaf : BitVec 64} (h : Canonical s) :
    NextCanonical (execMigrationStart asid va leaf s) := by
  unfold Machine.execMigrationStart
  split
  · extract_lets _ _ _ _ t u
    have ht : Canonical t := h.l1Clean.l2Clean
    have hu : Canonical u := ht.copyFrame.owe
    exact .ite (.next (hu.frame rfl)) (.next h)
  · exact .next h

theorem Canonical.recopyLine {m : Migration} {line : Nat} (h : Canonical s) : Canonical (recopyLine m s line) := by
  refine ⟨?_⟩
  unfold Machine.recopyLine
  dsimp only
  exact wf_memPutLine h.wf _ _ _

theorem Canonical.flushFrame {m : Migration} (h : Canonical s) : Canonical (flushFrame s m) := h.l1Flush.l2Flush

theorem Canonical.execMigrationHold {k : Nat} (h : Canonical s) : NextCanonical (execMigrationHold k s) := by
  unfold Machine.execMigrationHold
  split
  · exact .next h
  · split
    · exact .next h
    · extract_lets t
      have ht : Canonical t := h.flushFrame
      split
      · exact .next ht
      · split
        · exact .next (ht.frame rfl)
        · exact .next ((ht.foldl (fun _ _ hs => hs.recopyLine)).owe.frame rfl)

theorem Canonical.execMigrationSwitch {k : Nat} (h : Canonical s) : NextCanonical (execMigrationSwitch k s) := by
  unfold Machine.execMigrationSwitch
  split
  · exact .next h
  · split
    · exact .next h
    · split
      · exact .next (h.frame rfl)
      · extract_lets t u _ v
        have ht : Canonical t := h.flushFrame
        have hu : Canonical u := ht.foldl (fun _ _ hs => hs.recopyLine)
        have hv : Canonical v := .of_mem (wf_foldl _ (fun _ _ hm => wf_memWrite hm _ _ _) _ _ hu.wf) rfl
        exact .next hv.dropTranslations.settleDemotion

theorem Canonical.refusedPeer {l : Located} {va : Nat} {w : HeldWrite} {x : WriteStop} (h : Canonical s) :
    OkAll Canonical (refusedPeer s l va w x) := by
  unfold Machine.refusedPeer
  split
  · exact .ok h.markAccess.mapCtx
  · exact .ok h.markAccess.record
  · exact .error

theorem Canonical.peerLocate {asid : Nat} {k : AccessKind} {update : Bool} {va : Nat} (h : Canonical s) :
    OkAll (fun x => Canonical x.2) (peerLocate s asid k update va) := .after fun _ => .ok_snd h.owe

theorem Canonical.peerPut {asid : Nat} {l : Located} {mk : MarkKind} {va n v : Nat} (h : Canonical s) :
    OkAll Canonical (peerPut s asid l mk va n v) := by
  unfold Machine.peerPut
  split
  · exact .ok (h.homeWriteAt _ ‹_›).markAccess
  · exact h.refusedPeer

theorem Canonical.peerElement {asid : Nat} {op : PeerOp} {w va x : Nat} (h : Canonical s) :
    OkAll (fun x => Canonical x.2) (peerElement s asid op w va x) := by
  unfold Machine.peerElement
  extract_lets
  refine .bind h.peerLocate fun ⟨a, t⟩ ht => ?_
  dsimp only
  split
  · exact .ite .error (.ok ht.markAccess.homeReadAt)
  · exact .map ht.peerPut (fun _ hs => hs)
  · split
    · exact .ite (.ok_snd (ht.markAccess.frame rfl)) .error
    · split
      · exact .ok_snd (ht.homeReadAt.homeWriteAt _ ‹_›).markAccess
      · exact .bind ht.refusedPeer fun u ht2 => .ok_snd ht2.draw

theorem Canonical.servePeer {asid : Nat} {op : PeerOp} {w n : Nat} {x : List (Nat × Nat)} (h : Canonical s) :
    OkAll (fun x => Canonical x.2.2) (servePeer asid op w n x s) := by
  induction x generalizing asid op w n s with
  | nil =>
    rw [Machine.servePeer]
    exact .ok_snd_snd h
  | cons x l ih =>
    rw [Machine.servePeer]
    split
    · exact .bind (ih (h.peerElement _ ‹_›)) fun ⟨a, a2, u⟩ ht => .ok_snd_snd ht
    · exact .ok_snd_snd h.noteWalk
    · exact .error

theorem Canonical.answerPeer {asid : Nat} {op : PeerOp} {w : Nat} {l : List (Nat × Nat)} (h : Canonical s) :
    Canonical (answerPeer s asid op w l) := by
  unfold Machine.answerPeer
  split
  · exact (h.servePeer _ ‹_›).frame rfl
  · exact h

theorem Canonical.peerLine {asid va : Nat} {bytes : List Byte} {n : Nat} (h : Canonical s) :
    Canonical (peerLine s asid va bytes n) := by
  unfold Machine.peerLine
  extract_lets
  split
  · exact h
  split
  · rename_i t e
    refine OkAll.bind (P := Canonical) h.peerLocate ?_ _ e
    rintro ⟨l, u⟩ hu
    dsimp only
    split
    · split
      · exact .error
      · exact .ok (hu.markAccess.homeReadAt.frame rfl)
    · exact .bind hu.peerPut fun v hv => .ok (hv.frame rfl)
  · exact h.noteWalk.frame rfl
  · exact h

/-! ### The functions of Machine/EvPower.lean -/

theorem Canonical.adjustLanes {core : Nat} {f : Nat → Nat → Nat} (h : Canonical s) :
    Canonical (adjustLanes s core f) := h.mapCore

theorem Canonical.shrinkLanes {core : Nat} (h : Canonical s) : Canonical (shrinkLanes s core) := h.adjustLanes.mapCore

theorem Canonical.execDroopDetect {core : Nat} (h : Canonical s) :
    NextCanonical (execDroopDetect core s) := .next (.ite h.shrinkLanes h)

theorem Canonical.execAlcRestore {core : Nat} (h : Canonical s) : NextCanonical (execAlcRestore core s) := by
  unfold Machine.execAlcRestore
  split
  · split
    · exact .next h
    · exact .next h.adjustLanes.mapCore
  · exact .next h

theorem Canonical.moveBudget {from_ to_ amount : Nat} (h : Canonical s) :
    Canonical (moveBudget s from_ to_ amount) := h.frame rfl

theorem Canonical.execNoonLend {from_ to_ amount : Nat} (h : Canonical s) :
    NextCanonical (execNoonLend from_ to_ amount s) := .next (.ite h.moveBudget h)

theorem Canonical.execNoonRecall {from_ to_ amount : Nat} (h : Canonical s) :
    NextCanonical (execNoonRecall from_ to_ amount s) := by
  unfold Machine.execNoonRecall
  split
  · extract_lets t
    have ht : Canonical t := h.moveBudget
    dsimp only
    exact .next (.ite (ht.choose.foldl (fun _ _ hs => hs.shrinkLanes)) ht.choose)
  · exact .next h

theorem Canonical.chargeContext {x : Nat × Nat} (h : Canonical s) :
    Canonical (chargeContext s x) := .ite h.charge.credit (h.frame rfl)

theorem Canonical.chargePayer {p : Payer} (h : Canonical s) : Canonical (chargePayer s p) := by
  unfold Machine.chargePayer
  dsimp only
  exact .ite h.draw.charge h.draw.chargeContext

theorem Canonical.chargeRegion {x : Hart} (h : Canonical s) : Canonical (chargeRegion s x) := by
  unfold Machine.chargeRegion
  dsimp only
  exact h.draw.charge.mapHarts

theorem Canonical.quotaChecks (h : Canonical s) : Canonical (quotaChecks s) := h.foldl (fun _ _ hs => hs.quotaCheck)

theorem Canonical.execMeterInterval (h : Canonical s) : NextCanonical (execMeterInterval s) := by
  unfold Machine.execMeterInterval
  split
  · exact .next h
  · split
    · exact .next h
    · extract_lets t v
      have ht : Canonical t := (h.frame (by rfl)).foldl (fun _ _ hs => hs.chargePayer)
      have hv : Canonical v := ht.foldl (fun _ _ hs => hs.chargeRegion)
      dsimp only
      exact .next (hv.draw.frame (by rfl)).quotaChecks

theorem Canonical.splitRefresh {x : Nat × Nat} (h : Canonical s) :
    Canonical (splitRefresh s x) := (h.foldl (fun _ _ hs => hs.chargeContext)).frame rfl

theorem Canonical.execRefreshEnergySplit {energies : List (Nat × Nat)} (h : Canonical s) :
    NextCanonical (execRefreshEnergySplit energies s) := .next (h.foldl (fun _ _ hs => hs.splitRefresh)).quotaChecks

/-! ### The functions of Machine/EvQueue.lean -/

theorem Canonical.settleState {q : Nat} (h : Canonical s) : Canonical (s.settleState q) := h.mapQueue

theorem Canonical.queueWrite {q : Nat} {f : State → State} (h : Canonical s)
    (hf : ∀ (u : State), Canonical u → Canonical (f u)) :
    NextCanonical (queueWrite s q f) := .next (.ite (hf _ h) h)

theorem Canonical.execQbaseWrite {q : Nat} {v : BitVec 64} (h : Canonical s) :
    NextCanonical (execQbaseWrite q v s) := by
  unfold Machine.execQbaseWrite
  refine h.queueWrite (fun t hs => ?_)
  exact .ite hs.mapQueue hs

theorem Canonical.execQsizeWrite {q : Nat} {v : BitVec 64} (h : Canonical s) :
    NextCanonical (execQsizeWrite q v s) := by
  unfold Machine.execQsizeWrite
  refine h.queueWrite (fun t hs => ?_)
  exact .ite hs.mapQueue hs

theorem Canonical.execQtailWrite {q : Nat} {v : BitVec 64} (h : Canonical s) :
    NextCanonical (execQtailWrite q v s) := h.queueWrite (fun _ hs => hs.mapQueue)

theorem Canonical.preemptQueue {q : Nat} (h : Canonical s) :
    Canonical (preemptQueue s q) := h.foldl (fun _ _ hs => hs.preempt)

theorem Canonical.resumeQueue {q : Nat} (h : Canonical s) :
    OkAll Canonical (resumeQueue s q) := .ite h.resumeContext (.ok h)

theorem Canonical.execQctlSusp {q : Nat} {set : Bool} (h : Canonical s) : NextCanonical (execQctlSusp q set s) := by
  unfold Machine.execQctlSusp
  split
  · exact .next h
  · extract_lets t
    have ht : Canonical t := h.mapQueue.settleState
    exact .ite (.next (.ite ht.preemptQueue ht)) (ht.orLater ht.resumeQueue)

theorem Canonical.execQctlDrain {q : Nat} {set : Bool} (h : Canonical s) :
    NextCanonical (execQctlDrain q set s) := h.queueWrite (fun _ hs => .ite hs hs.mapQueue.settleState)

theorem Canonical.execDrainDone {q : Nat} (h : Canonical s) :
    NextCanonical (execDrainDone q s) := .ite (.next h.mapQueue.raiseQueue) (.next h)

theorem Canonical.execQueueContextAssign {q asid : Nat} (h : Canonical s) :
    NextCanonical (execQueueContextAssign q asid s) := .next (.ite h.mapQueue h)

theorem Canonical.execBindRecordWrite {core n : Nat} {v : BitVec 64} (h : Canonical s) :
    NextCanonical (execBindRecordWrite core n v s) := by
  unfold Machine.execBindRecordWrite
  split
  · exact .next h
  · exact .next (h.mapCore.foldl (fun _ _ hs => .ite hs hs.settleState))

theorem Canonical.execArbiterTurn {arb : Arb} (h : Canonical s) :
    NextCanonical (execArbiterTurn arb s) := .next h.settleTurn

/-! ### The functions of Machine/EvHost.lean -/

theorem Canonical.setHap {fn : Option Nat} {v : Word} (h : Canonical s) : Canonical (setHap s fn v) := by
  unfold Machine.setHap
  extract_lets
  split <;> exact h.frame rfl

theorem Canonical.execRegisterWrite {reg : DevReg} {v : BitVec 64} (h : Canonical s) :
    NextCanonical (execRegisterWrite reg v s) := by
  unfold Machine.execRegisterWrite
  refine .next ?_
  split
  · exact h.csrEvent
  · split
    · exact h.frame rfl
    · exact h
  · exact h.frame rfl
  · exact h.frame rfl
  · exact .ite h.mapCtx h
  · exact h.frame rfl
  · exact .ite h.setHap h
  · exact .ite h.mapQueue h

theorem Canonical.execFormatRangeWrite {stack off : Nat} {v : BitVec 64} (h : Canonical s) :
    NextCanonical (execFormatRangeWrite stack off v s) := by
  unfold Machine.execFormatRangeWrite
  extract_lets _ _ _ _ t
  have ht : Canonical t := by
    unfold t
    split
    · exact h.barMoves
    · exact h
  exact .ite (.next h) (.next (ht.frame rfl))

theorem Canonical.refuseHost {asid : Nat} {k : AccessKind} {t : Trap} {va : Nat} (h : Canonical s) :
    Canonical (refuseHost s asid k t va) := h.noteWalk.record

theorem Canonical.hostGet {l : Located} {n : Nat} (h : Canonical s) : Canonical (hostGet s l n).2 := by
  unfold Machine.hostGet
  extract_lets _ _ t
  have ht : Canonical t := h.markAccess
  dsimp only
  split
  · exact ht.draw
  · exact ht

theorem Canonical.hostPut {asid : Nat} {l : Located} {bytes : List Byte} (h : Canonical s) :
    Canonical (hostPut s asid l bytes) := by
  unfold Machine.hostPut
  extract_lets _ _ _ _ t
  have ht : Canonical t := h.markAccess
  split
  · exact (h.guardWrite _ ‹_›).putHome.clearPoison.markAccess
  · exact ht.mapCtx
  · exact ht.record
  · exact ht

theorem Canonical.hostPieces {ctx : Option Nat} {k : AccessKind}
    {f : State → Nat → Located → Nat → Nat → List Byte × State} {x : List (Nat × Nat × Nat)} (h : Canonical s)
    (hf : ∀ (u : State) (a : Nat) (a2 : Located) (a3 a4 : Nat), Canonical u → Canonical (f u a a2 a3 a4).2) :
    OkAll (fun x => Canonical x.2) (hostPieces s ctx k f x) := by
  induction x generalizing s ctx k with
  | nil =>
    rw [Machine.hostPieces]
    exact .ok_snd h
  | cons x l ih =>
    unfold Machine.hostPieces
    dsimp only
    refine .bind (Q := fun x => Canonical x.2) ?_ ?_
    · split
      · exact .ok_snd h
      · split
        · exact .ok (hf _ _ _ _ _ h.owe)
        · exact .ok_snd h.refuseHost
        · exact .error
    · rintro ⟨a, t⟩ ht
      exact .bind (ih ht) fun ⟨a2, u⟩ ht2 => .ok_snd ht2

theorem Canonical.hostAccess {fn : Option Nat} {k : AccessKind} {va len : Nat}
    {f : State → Nat → Located → Nat → Nat → List Byte × State} (h : Canonical s)
    (hf : ∀ (u : State) (a : Nat) (a2 : Located) (a3 a4 : Nat), Canonical u → Canonical (f u a a2 a3 a4).2) :
    OkAll (fun x => Canonical x.2) (hostAccess s fn k va len f) :=
  .ite (.ok_snd h) (h.hostPieces (fun _ _ _ _ _ hs => hf _ _ _ _ _ hs))

theorem Canonical.execHostDmaRead {fn : Option Nat} {va len : Nat} (h : Canonical s) :
    NextCanonical (execHostDmaRead fn va len s) := by
  unfold Machine.execHostDmaRead
  refine h.orLater ?_
  exact .bind (h.hostAccess (fun _ _ _ _ _ hs => hs.hostGet)) fun ⟨a, t⟩ ht => .ok (ht.frame rfl)

theorem Canonical.execHostDmaWrite {fn : Option Nat} {va : Nat} {bytes : List (BitVec 8)} (h : Canonical s) :
    NextCanonical (execHostDmaWrite fn va bytes s) := by
  unfold Machine.execHostDmaWrite
  refine h.orLater ?_
  exact .bind (h.hostAccess (fun _ _ _ _ _ hs => hs.hostPut)) fun ⟨a, t⟩ ht => .ok ht

theorem Canonical.execVfEnable {vf : Nat} {on : Bool} (h : Canonical s) : NextCanonical (execVfEnable vf on s) := by
  unfold Machine.execVfEnable
  split
  · exact .next h
  · exact .ite (.next (h.setHap.frame (by rfl)).quotaCheck) (.next (h.setHap.frame rfl))

theorem Canonical.execQleftWrite {fn : Option Nat} {v : BitVec 64} (h : Canonical s) :
    NextCanonical (execQleftWrite fn v s) := by
  unfold Machine.execQleftWrite
  split
  · exact .next h
  · split
    · exact .next h
    · extract_lets t
      have ht : Canonical t := h.setLeft
      split
      · exact ht.orLater (Canonical.eachOf (fun _ _ hs => hs.resumeContext) ht)
      · exact .next ht.quotaCheck

theorem Canonical.cancelJob {asid : Nat} {x : Word} (h : Canonical s) :
    OkAll Canonical (cancelJob asid s x) := .bind h.markCancelled fun _ ht => ht.cancelBelow

theorem Canonical.cancelContext {asid : Nat} (h : Canonical s) : OkAll Canonical (cancelContext s asid) := by
  unfold Machine.cancelContext
  refine .bind (Canonical.eachOf (fun _ _ hs => hs.cancelJob) h) fun t ht => ?_
  exact .ok (ht.foldl (fun _ _ hs => hs.cancelGroup))

theorem Canonical.resetQueue {q : Nat} (h : Canonical s) : Canonical (resetQueue s q) := h.mapQueue.settleState

theorem Canonical.execFunctionLevelReset {vf : Nat} (h : Canonical s) :
    NextCanonical (execFunctionLevelReset vf s) := by
  unfold Machine.execFunctionLevelReset
  split
  · exact .next h
  · extract_lets
    split
    · exact .fault
    · exact .next h
    · extract_lets u
      have hu : Canonical u :=
  ((Canonical.eachOf (fun _ _ hs => hs.cancelContext) h) _ ‹_›).foldl (fun _ _ hs => hs.resetQueue)
      exact .next (hu.frame rfl)

theorem Canonical.execScrub {column : Nat} {bad : List Nat} (h : Canonical s) :
    NextCanonical (execScrub column bad s) := .next (h.foldl (fun _ _ hs => hs.poisonLine))

theorem Canonical.execCxlRemoval {port : Nat} (h : Canonical s) : NextCanonical (execCxlRemoval port s) := by
  unfold Machine.execCxlRemoval
  split
  · exact .next h
  · exact .next (h.raise.frame rfl)

theorem Canonical.lostState (h : Canonical s) : Canonical (lostState s) := .of_mem (wf_filter _ h.wf) rfl
theorem Canonical.setDawn {x : DawnState} (h : Canonical s) : Canonical (setDawn s x) := h.frame rfl
theorem Canonical.failDawn {code : BitVec 8} (h : Canonical s) : Canonical (failDawn s code) := h.raise.frame rfl
theorem Canonical.execDawnStart (h : Canonical s) : NextCanonical (execDawnStart s) := .next (h.lostState.frame rfl)
theorem Canonical.execPowerDown (h : Canonical s) : NextCanonical (execPowerDown s) := .next h.lostState

theorem Canonical.execDawnRom {ok : Bool} (h : Canonical s) :
    NextCanonical (execDawnRom ok s) := .ite (.next h) (.ite (.next h.setDawn) (.next h.failDawn))

theorem Canonical.execDawnVoxind {ctxBase grpBase : BitVec 64} (h : Canonical s) :
    NextCanonical (execDawnVoxind ctxBase grpBase s) := .ite (.next h) (.next (h.frame rfl))

theorem Canonical.execDawnTrim {inService : List (Nat × BitVec 32)} (h : Canonical s) :
    NextCanonical (execDawnTrim inService s) := by
  unfold Machine.execDawnTrim
  split
  · exact .next h
  · extract_lets _ _ _ t _ u
    have ht : Canonical t := h.foldl (fun _ _ hs => hs.mapCore)
    have hu : Canonical u := ht.frame rfl
    exact .ite (.next hu.failDawn) (.next hu.setDawn)

theorem Canonical.execDawnMeminit {ok : Bool} (h : Canonical s) : NextCanonical (execDawnMeminit ok s) := by
  unfold Machine.execDawnMeminit
  split
  · exact .next h
  · exact .ite (.next h.failDawn) (.next (Canonical.of_mem (wf_filter _ h.wf) (by rfl)).setDawn)

theorem Canonical.execDawnMeter {ok : Bool} (h : Canonical s) :
    NextCanonical (execDawnMeter ok s) := .ite (.next h) (.ite (.next (h.frame (by rfl)).setDawn) (.next h.failDawn))

theorem Canonical.execDawnLinks (h : Canonical s) : NextCanonical (execDawnLinks s) := by
  unfold Machine.execDawnLinks
  split
  · exact .next (h.raise.frame rfl)
  · exact .next h

/-! ### The functions of Machine/Hva.lean -/

theorem Canonical.componentWise {t : VType} {reg group width : Nat} {zero : Bool} {f : Nat → Nat} (h : Canonical s) :
    Canonical (componentWise s t reg group width zero f).state := by
  unfold Machine.componentWise
  extract_lets
  exact h

theorem Canonical.hvOp {t : VType} {d : BitVec 5} {f : Nat → Nat} (h : Canonical s) :
    Canonical (hvOp s t d f).state := h.componentWise

theorem Canonical.hvWord {wf : Bool} {hvs : List (BitVec 5)} {reads : VType → List RegId} {d : BitVec 5} {c dc : Nat}
    {f : State → VType → Nat → Nat} (h : Canonical s) :
    NextCanonical (hvWord s wf hvs reads d c dc f) := h.vectorOp (fun _ _ hs => hs.hvOp)

theorem Canonical.execHbind {d a b : BitVec 5} (h : Canonical s) : NextCanonical (execHbind d a b s) := h.hvWord
theorem Canonical.execHunbind {d a b : BitVec 5} (h : Canonical s) : NextCanonical (execHunbind d a b s) := h.hvWord
theorem Canonical.execHnot {d a : BitVec 5} (h : Canonical s) : NextCanonical (execHnot d a s) := h.hvWord

theorem Canonical.rotateWord {d a b : BitVec 5} {src : Nat → Nat → Nat → Nat} (h : Canonical s) :
    NextCanonical (rotateWord s d a b src) := by
  unfold Machine.rotateWord
  refine h.vectorOp (fun t c hs => ?_)
  extract_lets
  split <;> exact hs

theorem Canonical.execHperm {d a b : BitVec 5} (h : Canonical s) : NextCanonical (execHperm d a b s) := h.rotateWord
theorem Canonical.execHpermn {d a b : BitVec 5} (h : Canonical s) : NextCanonical (execHpermn d a b s) := h.rotateWord

theorem Canonical.execHbacc {d a b : BitVec 5} (h : Canonical s) : NextCanonical (execHbacc d a b s) := by
  unfold Machine.execHbacc
  refine h.vectorOp (fun t c hs => ?_)
  extract_lets
  dsimp only
  exact hs.mapHart

theorem Canonical.execHbth {d a b : BitVec 5} (h : Canonical s) :
    NextCanonical (execHbth d a b s) := h.vectorOp (fun _ _ hs => hs.hvOp)

theorem Canonical.execHclr {d : BitVec 5} (h : Canonical s) :
    NextCanonical (execHclr d s) := h.vectorOp (fun _ _ hs => hs.componentWise)

theorem Canonical.execHgen {d a : BitVec 5} (h : Canonical s) : NextCanonical (execHgen d a s) := h.hvWord

/-! ### The functions of Machine/Hvb.lean -/

theorem Canonical.abandonable {done : Except Stop State} (h : Canonical s) (hdone : OkAll Canonical done) :
    OkAll Canonical (abandonable s done) := by
  unfold Machine.abandonable
  split
  · exact .ok h.stall
  · exact hdone

theorem Canonical.execHsim {d a b : BitVec 5} (h : Canonical s) :
    NextCanonical (execHsim d a b s) := h.runPlain (fun _ hs => hs.abandonable (.ok hs.mapHart.retire.varyTime))

theorem Canonical.storeWrite {at_ n v : Nat} (h : Canonical s) : Canonical (storeWrite s at_ n v) := by
  unfold Machine.storeWrite
  split
  · exact h.arrayWrite
  · exact h

theorem Canonical.storeWord {wf : Bool} {fit : VType → Bool} {reads writes : List RegId}
    {body : State → VType → Except Stop State} (h : Canonical s)
    (hbody : ∀ (u : State) (a : VType), Canonical u → OkAll Canonical (body u a)) :
    NextCanonical (storeWord s wf fit reads writes body) :=
  h.runPlain (fun _ hs => .map (hbody _ _ hs) (fun _ hv => hv.varyTime))

theorem Canonical.execIsopen {d a b : BitVec 5} (h : Canonical s) : NextCanonical (execIsopen d a b s) := by
  unfold Machine.execIsopen
  refine h.storeWord (fun v c hs => ?_)
  refine .after fun _ => ?_
  extract_lets _ _ done t
  have hdone : ∀ (s : State) (r : Nat), Canonical s → Canonical (done s r) := by
    intro u r ht
    unfold done
    exact ht.mapHart.retire
  have ht : Canonical t := hs.storeWrite
  split
  · exact .ok (hdone _ _ hs)
  · refine .after fun _ => ?_
    split
    · exact .ok (hdone _ _ hs)
    · exact .after fun _ => .ok (hdone _ _ ht.storeWrite)

theorem Canonical.execIsload {d a b : BitVec 5} (h : Canonical s) : NextCanonical (execIsload d a b s) := by
  unfold Machine.execIsload
  refine h.storeWord (fun v c hs => ?_)
  refine .after fun _ => .after fun _ => ?_
  extract_lets done _ _ t
  have hdone : ∀ (s : State) (r : Word), Canonical s → Canonical (done s r) := by
    intro u r ht
    unfold done
    exact ht.mapHart.retire
  have ht : Canonical t := hs.storeWrite
  split
  · exact .error
  · split
    · exact .ok (hdone _ _ hs)
    · split
      · exact .error
      · exact .after fun _ => .after fun _ => .ok (hdone _ _ ht.storeWrite)

theorem Canonical.execIsseal {d a : BitVec 5} (h : Canonical s) : NextCanonical (execIsseal d a s) := by
  unfold Machine.execIsseal
  refine h.storeWord (fun u b hs => ?_)
  refine .after fun _ => .after fun _ => ?_
  extract_lets done
  have hdone : ∀ (s : State) (r : Nat), Canonical s → Canonical (done s r) := by
    intro t r ht
    unfold done
    exact ht.mapHart.retire
  split
  · exact .error
  · split
    · exact .ok (hdone _ _ hs)
    · split
      · exact .ok (hdone _ _ hs)
      · split
        · exact .error
        · exact .after fun _ => .ok (hdone _ _ hs.storeWrite.mapCore)

theorem Canonical.execIsrel {a : BitVec 5} (h : Canonical s) : NextCanonical (execIsrel a s) := by
  unfold Machine.execIsrel
  refine h.storeWord (fun t b hs => ?_)
  refine .after fun _ => .after fun _ => ?_
  split
  · exact .ok hs.retire
  · exact .after fun _ => .ok hs.mapCore.storeWrite.retire

theorem Canonical.chargeCleanup {t : VType} {items : Nat} (h : Canonical s) :
    Canonical (chargeCleanup s t items) := h.chargeUnit

theorem Canonical.execHclean {d a b : BitVec 5} (h : Canonical s) : NextCanonical (execHclean d a b s) := by
  unfold Machine.execHclean
  extract_lets
  refine h.runPlain (fun u hs => ?_)
  refine .after fun _ => .after fun _ => ?_
  split
  · exact .error
  · refine hs.atUnit (fun v hv => ?_)
    extract_lets
    dsimp only
    split
    · exact .ite .error hv.chargeCleanup.mapHart.trapAfter
    · split
      · exact .ok hv.chargeCleanup.mapHart.retire.varyTime
      · exact .ok hv.chargeCleanup.mapHart.stall

theorem Canonical.execHfact {d a b : BitVec 5} (h : Canonical s) : NextCanonical (execHfact d a b s) := by
  unfold Machine.execHfact
  extract_lets
  refine h.runPlain (fun u hs => ?_)
  extract_lets
  split
  · exact .error
  · refine .after fun _ => ?_
    split
    · exact .error
    · refine hs.atUnit (fun v hv => ?_)
      extract_lets
      refine .after fun _ => ?_
      dsimp only
      split
      · refine .ok (Canonical.chargeCleanup ?_).mapHart.retire.varyTime
        split
        · exact hv.draw
        · exact hv
      · split
        · split
          · exact .ok hv.draw.chargeCleanup.stall
          · exact .ok hv.draw.chargeCleanup.mapHart.stall
        · exact .ite (.ok hv.chargeCleanup.stall) (.ok hv.chargeCleanup.mapHart.stall)
      · split
        · exact .ite .error hv.draw.chargeCleanup.mapHart.trapAfter
        · exact .ite .error hv.chargeCleanup.mapHart.trapAfter

theorem Canonical.execHprob {d a b : BitVec 5} (h : Canonical s) : NextCanonical (execHprob d a b s) := by
  unfold Machine.execHprob
  extract_lets
  refine h.runPlain (fun u hs => ?_)
  extract_lets
  refine hs.abandonable ?_
  dsimp only
  refine .ok (Canonical.mapHart ?_).retire.varyTime
  split
  · exact hs.choose
  · exact hs

/-! ### The functions of Machine/LoadStore.lean -/

theorem Canonical.loadOp {d a : BitVec 5} {i : BitVec 9} {z : Nat} {ext : Nat → Word} (h : Canonical s) :
    NextCanonical (loadOp s d a i z ext) := by
  unfold Machine.loadOp
  refine h.runPlain (fun u hs => ?_)
  extract_lets
  split
  · exact .error
  · exact .bind hs.scalarRead fun ⟨a2, t⟩ ht => .ok ht.mapHart.retire

theorem Canonical.storeOp {d a : BitVec 5} {i : BitVec 9} {z : Nat} (h : Canonical s) :
    NextCanonical (storeOp s d a i z) := by
  unfold Machine.storeOp
  refine h.runPlain (fun u hs => ?_)
  extract_lets
  split
  · exact .error
  · exact .bind hs.scalarWrite fun t ht => .ok ht.retire

theorem Canonical.execLdB {d a : BitVec 5} {i : BitVec 9} (h : Canonical s) :
    NextCanonical (execLdB d a i s) := h.loadOp

theorem Canonical.execLdBn {d a : BitVec 5} {i : BitVec 9} (h : Canonical s) :
    NextCanonical (execLdBn d a i s) := h.loadOp

theorem Canonical.execLdH {d a : BitVec 5} {i : BitVec 9} (h : Canonical s) :
    NextCanonical (execLdH d a i s) := h.loadOp

theorem Canonical.execLdHn {d a : BitVec 5} {i : BitVec 9} (h : Canonical s) :
    NextCanonical (execLdHn d a i s) := h.loadOp

theorem Canonical.execLdW {d a : BitVec 5} {i : BitVec 9} (h : Canonical s) :
    NextCanonical (execLdW d a i s) := h.loadOp

theorem Canonical.execLdWn {d a : BitVec 5} {i : BitVec 9} (h : Canonical s) :
    NextCanonical (execLdWn d a i s) := h.loadOp

theorem Canonical.execLdD {d a : BitVec 5} {i : BitVec 9} (h : Canonical s) :
    NextCanonical (execLdD d a i s) := h.loadOp

theorem Canonical.execStB {d a : BitVec 5} {i : BitVec 9} (h : Canonical s) :
    NextCanonical (execStB d a i s) := h.storeOp

theorem Canonical.execStH {d a : BitVec 5} {i : BitVec 9} (h : Canonical s) :
    NextCanonical (execStH d a i s) := h.storeOp

theorem Canonical.execStW {d a : BitVec 5} {i : BitVec 9} (h : Canonical s) :
    NextCanonical (execStW d a i s) := h.storeOp

theorem Canonical.execStD {d a : BitVec 5} {i : BitVec 9} (h : Canonical s) :
    NextCanonical (execStD d a i s) := h.storeOp

/-! ### The functions of Machine/Queues.lean -/

theorem Canonical.execVdisp {d a b : BitVec 5} (h : Canonical s) : NextCanonical (execVdisp d a b s) := by
  unfold Machine.execVdisp
  refine h.runPlain (fun t hs => ?_)
  extract_lets
  exact .ite .error (.ite .error (.ok hs.mapHart.retire))

theorem Canonical.execVdrain {d : BitVec 5} (h : Canonical s) : NextCanonical (execVdrain d s) := by
  unfold Machine.execVdrain
  refine h.runPlain (fun t hs => .ite .error ?_)
  exact .ok hs.mapHart.retire

theorem Canonical.execVqcnt {d : BitVec 5} (h : Canonical s) :
    NextCanonical (execVqcnt d s) := h.runPlain (fun _ hs => .ok hs.mapHart.retire)

theorem Canonical.execRqpop {d : BitVec 5} (h : Canonical s) : NextCanonical (execRqpop d s) := by
  unfold Machine.execRqpop
  refine h.runPlain (fun t hs => ?_)
  split
  · exact .error
  · exact .ok hs.mapHart.retire

theorem Canonical.execRqpeek {d : BitVec 5} (h : Canonical s) : NextCanonical (execRqpeek d s) := by
  unfold Machine.execRqpeek
  refine h.runPlain (fun t hs => ?_)
  split
  · exact .error
  · exact .ok hs.mapHart.retire

theorem Canonical.execRqcnt {d : BitVec 5} (h : Canonical s) :
    NextCanonical (execRqcnt d s) := h.runPlain (fun _ hs => .ok hs.mapHart.retire)

/-! ### The functions of Machine/Tile.lean -/

theorem Canonical.execTld {d a : BitVec 5} (h : Canonical s) : NextCanonical (execTld d a s) := by
  unfold Machine.execTld
  refine h.engineWord (fun v b hs => ?_)
  extract_lets
  refine .bind hs.readShape fun ⟨a2, u⟩ ht => ?_
  dsimp only
  split
  · exact .error
  · exact .after fun _ => .after fun _ => .ok ht.mapHart.enqueue.mapHart.retire

theorem Canonical.execTst {d a : BitVec 5} (h : Canonical s) : NextCanonical (execTst d a s) := by
  unfold Machine.execTst
  refine h.engineWord (fun u b hs => ?_)
  extract_lets
  refine .bind hs.readShape fun ⟨a2, t⟩ ht => ?_
  dsimp only
  split
  · exact .error
  · refine .after fun _ => .after fun _ => ?_
    exact .ite (.ite (.ok ht.enqueue.retire) .error) (.ok ht.enqueue.retire)

theorem Canonical.execTzero {d : BitVec 5} (h : Canonical s) : NextCanonical (execTzero d s) := by
  unfold Machine.execTzero
  refine h.engineWord (fun v b hs => ?_)
  extract_lets _ u
  have hu : Canonical u := hs.mapHart
  refine .after fun _ => ?_
  dsimp only
  exact .ok hu.takeNumber.mapHart.retire

theorem Canonical.execTmov {d a b : BitVec 5} (h : Canonical s) : NextCanonical (execTmov d a b s) := by
  unfold Machine.execTmov
  refine h.engineWord (fun t c hs => ?_)
  exact .after fun _ => .after fun _ => .ok hs.elementOp.settleResult

theorem Canonical.execTrel {d : BitVec 5} (h : Canonical s) : NextCanonical (execTrel d s) := by
  unfold Machine.execTrel
  refine h.engineWord (fun t b hs => ?_)
  exact .after fun _ => .ok hs.mapHart.retire

theorem Canonical.execTscl {d a : BitVec 5} (h : Canonical s) : NextCanonical (execTscl d a s) := by
  unfold Machine.execTscl
  refine h.engineWord (fun t b hs => ?_)
  refine .after fun _ => ?_
  extract_lets
  exact .ite .error (.ok hs.mapHart.retire)

/-! ### The functions of Machine/Dispatch.lean -/

/-- Each instruction and event of the model keeps memory canonical: one arm for each. -/
theorem Canonical.exec {i : Instr} (h : Canonical s) : NextCanonical (exec i s) := by
  unfold Machine.exec
  split
  · exact h.execNop
  · exact h.execEret
  · exact h.execWait
  · exact h.execBrk
  · exact h.execYield
  · exact h.execFencei
  · exact h.execDusk
  · exact h.execDawn
  · exact h.execTrap
  · exact h.execAdd
  · exact h.execSub
  · exact h.execAnd
  · exact h.execOr
  · exact h.execXor
  · exact h.execAndn
  · exact h.execShl
  · exact h.execShr
  · exact h.execSra
  · exact h.execMul
  · exact h.execMulh
  · exact h.execMulhn
  · exact h.execDiv
  · exact h.execDivn
  · exact h.execRem
  · exact h.execRemn
  · exact h.execSlt
  · exact h.execSltn
  · exact h.execMin
  · exact h.execMax
  · exact h.execMinn
  · exact h.execMaxn
  · exact h.execClz
  · exact h.execCtz
  · exact h.execPopc
  · exact h.execRotl
  · exact h.execSel
  · exact h.execAddi
  · exact h.execAndi
  · exact h.execOri
  · exact h.execXori
  · exact h.execShli
  · exact h.execShri
  · exact h.execSrai
  · exact h.execSlti
  · exact h.execLis
  · exact h.execShim
  · exact h.execBeqz
  · exact h.execBnez
  · exact h.execBltz
  · exact h.execBgez
  · exact h.execBgtz
  · exact h.execBlez
  · exact h.execJmp
  · exact h.execCall
  · exact h.execJr
  · exact h.execCallr
  · exact h.execRet
  · exact h.execLdB
  · exact h.execLdBn
  · exact h.execLdH
  · exact h.execLdHn
  · exact h.execLdW
  · exact h.execLdWn
  · exact h.execLdD
  · exact h.execStB
  · exact h.execStH
  · exact h.execStW
  · exact h.execStD
  · exact h.execAmoAdd
  · exact h.execAmoAnd
  · exact h.execAmoOr
  · exact h.execAmoXor
  · exact h.execAmoMin
  · exact h.execAmoMax
  · exact h.execAmoSwap
  · exact h.execAmoCas
  · exact h.execAmoFadd
  · exact h.execAcq
  · exact h.execRel
  · exact h.execBind
  · exact h.execUnbind
  · exact h.execFence
  · exact h.execFenceV
  · exact h.execCsrx
  · exact h.execCsrs
  · exact h.execFrmWrite
  · exact h.execVpfbWrite
  · exact h.execSpdiscWrite
  · exact h.execRegisterWrite
  · exact h.execVdisp
  · exact h.execVdrain
  · exact h.execVqcnt
  · exact h.execRqpop
  · exact h.execRqpeek
  · exact h.execRqcnt
  · exact h.execLaunch
  · exact h.execLaunchg
  · exact h.execCsig
  · exact h.execCancel
  · exact h.execCread
  · exact h.execBinit
  · exact h.execBarrive
  · exact h.execBwait
  · exact h.execBarw
  · exact h.execBtest
  · exact h.execSnapBegin
  · exact h.execSnapAccept
  · exact h.execSnapReject
  · exact h.execSnapQuery
  · exact h.execSnapPool
  · exact h.execWqOpen
  · exact h.execWqRun
  · exact h.execWqPoll
  · exact h.execWqResult
  · exact h.execWqClose
  · exact h.execVadd
  · exact h.execVsub
  · exact h.execVmul
  · exact h.execVmulh
  · exact h.execVmulhn
  · exact h.execVmin
  · exact h.execVmax
  · exact h.execVminn
  · exact h.execVmaxn
  · exact h.execVand
  · exact h.execVor
  · exact h.execVxor
  · exact h.execVandn
  · exact h.execVshl
  · exact h.execVshr
  · exact h.execVsra
  · exact h.execVintsVadd
  · exact h.execVintsVsub
  · exact h.execVintsVmul
  · exact h.execVintsVmulh
  · exact h.execVintsVmulhn
  · exact h.execVintsVmin
  · exact h.execVintsVmax
  · exact h.execVintsVminn
  · exact h.execVintsVmaxn
  · exact h.execVintsVand
  · exact h.execVintsVor
  · exact h.execVintsVxor
  · exact h.execVintsVandn
  · exact h.execVintsVshl
  · exact h.execVintsVshr
  · exact h.execVintsVsra
  · exact h.execVfadd
  · exact h.execVfsub
  · exact h.execVfmul
  · exact h.execVfdiv
  · exact h.execVfmin
  · exact h.execVfmax
  · exact h.execVfsqrt
  · exact h.execVfabs
  · exact h.execVfneg
  · exact h.execVadds
  · exact h.execVsubs
  · exact h.execVfltsVfadd
  · exact h.execVfltsVfsub
  · exact h.execVfltsVfmul
  · exact h.execVfltsVfdiv
  · exact h.execVfltsVfmin
  · exact h.execVfltsVfmax
  · exact h.execVfma
  · exact h.execVfms
  · exact h.execVfnma
  · exact h.execVfnms
  · exact h.execVmac
  · exact h.execVdot4
  · exact h.execVdot2
  · exact h.execVfshl
  · exact h.execVfshr
  · exact h.execLog3Low
  · exact h.execLog3High
  · exact h.execVslup
  · exact h.execVsldn
  · exact h.execVgath
  · exact h.execVpush
  · exact h.execVcmpr
  · exact h.execVexpd
  · exact h.execVbcst
  · exact h.execVext
  · exact h.execVid
  · exact h.execViota
  · exact h.execVrsum
  · exact h.execVrmax
  · exact h.execVrmin
  · exact h.execVrand
  · exact h.execVror
  · exact h.execVrxor
  · exact h.execVfrsum
  · exact h.execVfrmax
  · exact h.execVfrmin
  · exact h.execCvtN
  · exact h.execCvtW
  · exact h.execCvtFi
  · exact h.execCvtIf
  · exact h.execCvtF4
  · exact h.execCvtQ
  · exact h.execVexp2
  · exact h.execVlog2
  · exact h.execVrcp
  · exact h.execVrsq
  · exact h.execVtanh
  · exact h.execVsmax
  · exact h.execVceq
  · exact h.execVcne
  · exact h.execVclt
  · exact h.execVcle
  · exact h.execVcltn
  · exact h.execVclen
  · exact h.execVfceq
  · exact h.execVfclt
  · exact h.execVfcle
  · exact h.execVfcun
  · exact h.execVcmpsVceq
  · exact h.execVcmpsVcne
  · exact h.execVcmpsVclt
  · exact h.execVcmpsVcle
  · exact h.execVcmpsVcltn
  · exact h.execVcmpsVclen
  · exact h.execVcmpsVfceq
  · exact h.execVcmpsVfclt
  · exact h.execVcmpsVfcle
  · exact h.execVcmpsVfcun
  · exact h.execMand
  · exact h.execMor
  · exact h.execMxor
  · exact h.execMandn
  · exact h.execMnot
  · exact h.execMset
  · exact h.execMclr
  · exact h.execMfirst
  · exact h.execMpopc
  · exact h.execVmerge
  · exact h.execVsetl
  · exact h.execVsett
  · exact h.execVend
  · exact h.execVreply
  · exact h.execVreplym
  · exact h.execVjoin
  · exact h.execVlcset
  · exact h.execValc
  · exact h.execVbany
  · exact h.execVbnone
  · exact h.execVbdiv
  · exact h.execVlcnz
  · exact h.execVloop
  · exact h.execVjmp
  · exact h.execVld
  · exact h.execVldx
  · exact h.execVldl
  · exact h.execVst
  · exact h.execVstx
  · exact h.execVstl
  · exact h.execVsta
  · exact h.execQset
  · exact h.execQadv
  · exact h.execQpos
  · exact h.execQrel
  · exact h.execStreamRunAhead
  · exact h.execHbind
  · exact h.execHunbind
  · exact h.execHperm
  · exact h.execHpermn
  · exact h.execHbacc
  · exact h.execHbth
  · exact h.execHgen
  · exact h.execHnot
  · exact h.execHclr
  · exact h.execHsim
  · exact h.execHclean
  · exact h.execHfact
  · exact h.execIsopen
  · exact h.execIsload
  · exact h.execIsseal
  · exact h.execIsrel
  · exact h.execHprob
  · exact h.execTld
  · exact h.execTst
  · exact h.execTzero
  · exact h.execTmov
  · exact h.execTrel
  · exact h.execTscl
  · exact h.execMma
  · exact h.execMmaz
  · exact h.execTbegin
  · exact h.execTend
  · exact h.execTcopy
  · exact h.execTcopyM
  · exact h.execRfence
  · exact h.execTwait
  · exact h.execSigd
  · exact h.execSiginit
  · exact h.execSigadd
  · exact h.execSigmul
  · exact h.execSiglog
  · exact h.execSigld
  · exact h.execSigst
  · exact h.execFbind
  · exact h.execFsend
  · exact h.execFrecv
  · exact h.execFrecvop
  · exact h.execFcount
  · exact h.execFa2a
  · exact h.execFwait
  · exact h.execFrel
  · exact h.execBgath
  · exact h.execBscat
  · exact h.execBscadd
  · exact h.execVfpush
  · exact h.execVffree
  · exact h.execBlat
  · exact h.execVpopc
  · exact h.execVclz
  · exact h.execVbrev
  · exact h.execVrotl
  · exact h.execTrapDelivery
  · exact h.execBlockTake
  · exact h.execWaitTimeout
  · exact h.execPreempt
  · exact h.execContextSaveComplete
  · exact h.execContextResume
  · exact h.execContextCreate
  · exact h.execContextBind
  · exact h.execContextDestroy
  · exact h.execCancellation
  · exact h.execMeterInterval
  · exact h.execRefreshEnergySplit
  · exact h.execQueueEntryTake
  · exact h.execUnitPlace
  · exact h.execHartFree
  · exact h.execGraphNode
  · exact h.execArbiterTurn
  · exact h.execDroopDetect
  · exact h.execAlcRestore
  · exact h.execNoonLend
  · exact h.execNoonRecall
  · exact h.execIslandGate
  · exact h.execIslandWake
  · exact h.execVfifoEntryPerform
  · exact h.execBankRequestComplete
  · exact h.execVerticalPathDegrade
  · exact h.execBankTemperatureChange
  · exact h.execEngineCommandStart
  · exact h.execEngineStep
  · exact h.execEngineCommandComplete
  · exact h.execRegionGrant
  · exact h.execTimedCommandStart
  · exact h.execRegionOverrun
  · exact h.execBgathDue
  · exact h.execMigrationStart
  · exact h.execMigrationHold
  · exact h.execMigrationSwitch
  · exact h.execPageMap
  · exact h.execPageUnmap
  · exact h.execShootdown
  · exact h.execShootdownComplete
  · exact h.execPageSweep
  · exact h.execShadowHeldWrite
  · exact h.execLazyRestore
  · exact h.execWalkStep
  · exact h.execFlitRetry
  · exact h.execLinkEnable
  · exact h.execLinkTrainDone
  · exact h.execLinkTrainTimeout
  · exact h.execLinkRetrain
  · exact h.execLaneLoss
  · exact h.execLossOfSignal
  · exact h.execLinkDrain
  · exact h.execLinkDrainDone
  · exact h.execGroupOpen
  · exact h.execJoinNotice
  · exact h.execGroupAbort
  · exact h.execGroupAbortArrival
  · exact h.execGroupFree
  · exact h.execDrainMarkerReturn
  · exact h.execFabricPacketArrival
  · exact h.execQbaseWrite
  · exact h.execQsizeWrite
  · exact h.execQtailWrite
  · exact h.execQctlSusp
  · exact h.execQctlDrain
  · exact h.execDrainDone
  · exact h.execBindRecordWrite
  · exact h.execQleftWrite
  · exact h.execFunctionLevelReset
  · exact h.execHostDmaRead
  · exact h.execHostDmaWrite
  · exact h.execFormatRangeWrite
  · exact h.execDawnStart
  · exact h.execDawnRom
  · exact h.execDawnVoxind
  · exact h.execDawnTrim
  · exact h.execDawnMeminit
  · exact h.execDawnMeter
  · exact h.execDawnLinks
  · exact h.execPowerDown
  · exact h.execScrub
  · exact h.execCxlRemoval
  · exact h.execQueryContextReclaim
  · exact h.execRouteTableWrite
  · exact h.execQueueContextAssign
  · exact h.execVfEnable

/-! ### The functions of Machine/Bus.lean -/

theorem Canonical.busRead {w : Window} {off n : Nat} (h : Canonical s) : Canonical (busRead s w off n) := by
  unfold Machine.busRead
  split
  · exact h.frame rfl
  · split
    · exact h.frame rfl
    · dsimp only
      exact h.draw.frame rfl

theorem Canonical.voxindRead {pa n : Nat} (h : Canonical s) : Canonical (voxindRead s pa n) := .ite (h.frame rfl) h

/-! ### The functions of Machine/Schedule.lean -/

theorem Canonical.nextTurn (h : Canonical s) : Canonical (nextTurn s).2 := by
  unfold Machine.nextTurn
  split <;> exact h.frame rfl

theorem Canonical.quietTurn {x : Turn} (h : Canonical s) : Canonical (quietTurn s x) := by
  unfold Machine.quietTurn
  split
  · exact h.l1Flush
  · exact h.l2Flush
  · exact h.tlbFill
  · exact h.tlbDrop
  · exact h.getD h.statusReady
  · exact h.busRead
  · exact h.voxindRead
  · exact h.l2Miss
  · exact h.answerPeer
  · exact h.peerLine
  · exact h.leaveNotice
  · exact h.atPlace (fun _ hs => .ite hs.fetchAhead hs)
  · exact h.poisonLine
  · exact h.atPlace (fun _ hs => hs.poisonRegister)
  · exact h.countCorrected
  · exact h.frame rfl
  · exact h
  · exact h
  · exact h
  · exact h

theorem Canonical.shedL1 {core n : Nat} (h : Canonical s) : Canonical (shedL1 core n s) := by
  induction n generalizing core s with
  | zero =>
    rw [Machine.shedL1]
    exact h
  | succ n ih =>
    rw [Machine.shedL1]
    dsimp only
    refine ih ?_
    split
    · exact h.draw.l1Flush
    · exact h.draw

theorem Canonical.shedL2 {x : Nat × Nat} {n : Nat} (h : Canonical s) : Canonical (shedL2 x n s) := by
  induction n generalizing x s with
  | zero =>
    rw [Machine.shedL2]
    exact h
  | succ n ih =>
    rw [Machine.shedL2]
    dsimp only
    refine ih ?_
    split
    · exact h.draw.l2Flush
    · exact h.draw

theorem Canonical.fitCaches (h : Canonical s) : Canonical (fitCaches s) := by
  unfold Machine.fitCaches
  extract_lets _ _ t
  have ht : Canonical t := .ite h (h.foldl (fun _ _ hs => hs.shedL1))
  exact .ite ht (ht.foldl (fun _ _ hs => hs.shedL2))

/-! ### The functions of Machine/Step.lean -/

theorem Canonical.runFetched (h : Canonical s) : NextCanonical (runFetched s) := by
  unfold Machine.runFetched
  split
  · exact h.finish .error
  · rename_i e
    split
    · exact (h.fetchWord _ e).holdWord.refuseWord
    · exact (h.fetchWord _ e).holdWord.exec

theorem Canonical.vectorTrap (h : Canonical s) : SomeAll Canonical (vectorTrap s) := by
  have htr : ∀ v, Canonical v → SomeAll Canonical (if v.issue.trapped then some v else none) :=
    fun v hv => .ite (.some hv) .none
  have hb : BegunCanonical (Machine.beginSide { s with issue := {} } .vector none) := (h.frame (by rfl)).beginSide
  unfold Machine.vectorTrap
  dsimp only
  split
  · split
    · exact htr _ (hb.of_over ‹_›)
    · split
      · exact htr _ ((hb.of_word ‹_›).runFetched _ ‹_›)
      · exact .none
    · exact .none
  · exact .none

theorem Canonical.trapOrder {s v : State} (hv : Canonical v) (h : Canonical s) : Canonical (trapOrder s v) :=
  hv.getD h.vectorTrap

theorem Canonical.runSide {sd : Side} {cut : Option Nat} (h : Canonical s) : NextCanonical (runSide s sd cut) := by
  have hb : BegunCanonical (Machine.beginSide s sd cut) := h.beginSide
  unfold Machine.runSide
  split
  · exact .next (hb.of_over ‹_›)
  · have ht := hb.of_word ‹_›
    split
    · have hv := ht.runFetched _ ‹_›
      exact .next (.ite (hv.trapOrder ht) hv)
    · exact ht.runFetched
  · obtain ⟨ht, hu⟩ := hb.of_interrupted ‹_›
    split
    · have hv := ht.runFetched _ ‹_›
      exact .next ((Canonical.ite hv hu).trapOrder ht)
    · exact .next (hu.trapOrder ht)
  · obtain ⟨ht, hu⟩ := hb.of_behindFault ‹_›
    split
    · exact .next (.ite hu (ht.runFetched _ ‹_›))
    · exact ht.runFetched

theorem Canonical.runPlace {p : Place} {sd : Side} {cut : Option Nat} (h : Canonical s) :
    NextCanonical (runPlace s p sd cut) := by
  unfold Machine.runPlace
  split
  · exact (h.focus _ ‹_›).runSide
  · exact .next h

theorem Canonical.deliveredAt {x : Instr} (h : Canonical s) : SomeAll (fun x => Canonical x.2) (deliveredAt s x) := by
  unfold Machine.deliveredAt
  split
  · split
    · exact .ite (.some (h.focus _ ‹_›)) .none
    · exact .none
  · exact .none

theorem Canonical.runDelivery {i : Instr} {p : Place} {t : State} (h : Canonical s) (ht : Canonical t) :
    NextCanonical (runDelivery s i p t) := by
  unfold Machine.runDelivery
  split
  · exact h.runPlace
  · split
    · exact .next ((h.exec _ ‹_›).trapOrder ht)
    · exact h.exec

theorem Canonical.runEvents {l : List Instr} (h : Canonical s) : NextCanonical (runEvents l s) := by
  induction l generalizing s with
  | nil => exact .next h
  | cons i l ih =>
    rw [Machine.runEvents]
    split
    · exact ih (h.exec _ ‹_›)
    · exact h.exec

theorem Canonical.runTurn {x : Turn} (h : Canonical s) : NextCanonical (runTurn s x) := by
  unfold Machine.runTurn
  split
  · exact h.runPlace
  · exact h.runPlace
  · split
    · exact h.runDelivery (h.deliveredAt _ ‹_›)
    · exact h.exec
  · exact h.runEvents
  · exact .next h.quietTurn

theorem Canonical.settled {x : Host.Outcome State Fault Refusal} (hx : NextCanonical x) :
    NextCanonical (settled x) := by
  unfold Machine.settled
  split
  · exact .next (hx _ rfl).fitCaches
  · exact hx

theorem Canonical.step (h : Canonical s) : NextCanonical (step s) := by
  unfold Machine.step
  refine Canonical.settled ?_
  split
  · refine Canonical.runTurn ?_
    exact h.nextTurn.frame rfl
  · exact h.nextTurn.runTurn

end

/-- Settles O59: memory that is canonical before a step is canonical after it, function by function of the model. -/
theorem everyStepKeepsMemoryCanonical : Obligations.EveryStepKeepsMemoryCanonical := by
  unfold Obligations.EveryStepKeepsMemoryCanonical
  intro s t h e
  exact (Canonical.step ⟨h⟩ t e).wf

end Sys2Proof.Machine
end

section
/-!
LAW. Runs of bytes in memory: what a run reads as after a write (R3). Settles O9.
-/

namespace Sys2Proof.Machine

/-- A run written changes its own bytes, byte `i` of it to bits `8 i` and up of the value, and no other. -/
theorem memByte_memWrite {m : Memory} (h : m.wf = true) (a n v b : Nat) :
    memByte (memWrite m a n v) b = if a ≤ b ∧ b < a + n then BitVec.ofNat 8 (v / 256 ^ (b - a)) else memByte m b := by
  induction n with
  | zero => rw [if_neg (by omega), memWrite]
  | succ n ih =>
    rw [memWrite, memByte_memSet (wf_memWrite h ..), ih]
    by_cases hb : b = a + n
    · rw [if_pos hb, if_pos (by omega), hb, Nat.add_sub_cancel_left]
    · rw [if_neg hb]
      exact if_congr (by omega) rfl rfl

/-- A run of bytes that are those of a value reads as the value. -/
theorem memRead_of_bytes {m : Memory} {a n v : Nat} (h : ∀ i < n, memByte m (a + i) = BitVec.ofNat 8 (v / 256 ^ i)) :
    memRead m a n = v % 256 ^ n := by
  induction n with
  | zero => rw [memRead, pow_zero, Nat.mod_one]
  | succ n ih =>
    rw [memRead, ih fun i hi => h i (by omega), h n (by omega), Nat.mod_pow_succ, Nat.mul_comm, BitVec.toNat_ofNat]

/-- Settles O9: byte by byte, and a run reads as its bytes. -/
theorem memoryReadsBackAWrite : Obligations.MemoryReadsBackAWrite := by
  intro m a n v h
  have inside : ∀ i < n, memByte (memWrite m a n v) (a + i) = BitVec.ofNat 8 (v / 256 ^ i) := fun i hi => by
    rw [memByte_memWrite h, if_pos (by omega), Nat.add_sub_cancel_left]
  refine ⟨memRead_of_bytes inside, inside, fun b hb => ?_, wf_memWrite h a n v⟩
  rw [memByte_memWrite h, if_neg (by omega)]

end Sys2Proof.Machine
end

section
/-!
LAW. The fields of the control registers: what CSRX and CSRS make of them (R5, R43, R47, R62, R63, R68, R72). Settles
O17.
-/

namespace Sys2Proof.Machine

/-! ### The value that a write forms -/

/-- The value of a control register after a write, on words: `rw` are the bits that take or gain, `w1c` those that lose
ones. -/
def csrMerged (old src rw w1c : Word) (gain : Bool) : Word :=
  ((old &&& ~~~(src &&& w1c)) &&& ~~~rw) ||| ((if gain then old ||| src else src) &&& rw)

theorem csrMerge_toNat (old src rw w1c : Word) (gain : Bool) :
    csrMerge old.toNat src.toNat rw.toNat w1c.toNat gain = (csrMerged old src rw w1c gain).toNat := by
  have hnew : (if gain then old.toNat ||| src.toNat else src.toNat) = (if gain then old ||| src else src).toNat := by
    cases gain <;> simp
  have hones : 2 ^ 64 - 1 = (BitVec.allOnes 64).toNat := by decide
  have hmix : ∀ x y : Word, x ^^^ ((x ^^^ y) &&& rw) = (x &&& ~~~rw) ||| (y &&& rw) := fun x y => by
    ext i hi
    simp only [BitVec.getElem_xor, BitVec.getElem_and, BitVec.getElem_or, BitVec.getElem_not]
    cases x[i] <;> cases y[i] <;> cases rw[i] <;> rfl
  rw [csrMerge, mergeBits, hnew, hones]
  simp only [← BitVec.toNat_and, ← BitVec.toNat_xor, BitVec.allOnes_xor, hmix, csrMerged]

theorem getLsbD_csrMerged (old src rw w1c : Word) (gain : Bool) {i : Nat} (hi : i < 64) :
    (csrMerged old src rw w1c gain).getLsbD i =
      if rw.getLsbD i then gain && old.getLsbD i || src.getLsbD i
      else old.getLsbD i && !(src.getLsbD i && w1c.getLsbD i) := by
  simp only [csrMerged, BitVec.getLsbD_or, BitVec.getLsbD_and, BitVec.getLsbD_not, hi, decide_true, Bool.true_and]
  cases gain <;> cases rw.getLsbD i <;> simp

theorem csrMerged_plain (old src rw : Word) : csrMerged old src rw 0#64 false = (old &&& ~~~rw) ||| (src &&& rw) := by
  simp only [csrMerged, BitVec.and_zero, BitVec.not_zero, BitVec.and_allOnes, Bool.false_eq_true, if_false]

theorem csrMerged_gain (old src rw : Word) : csrMerged old src rw 0#64 true = old ||| (src &&& rw) := by
  simp only [csrMerged, BitVec.and_zero, BitVec.not_zero, BitVec.and_allOnes, if_true]
  ext i hi
  simp only [BitVec.getElem_or, BitVec.getElem_and, BitVec.getElem_not]
  cases old[i] <;> cases rw[i] <;> simp

/-- A register with a field that a write can change takes the value formed. -/
theorem csrWrite_eq_csrSet {u : State} {x : BitVec 12} {rw w1c : Word} (src : Word) (gain : Bool)
    (hrw : csrWritable u.hart.cs.hstat.hl x = rw.toNat) (hw1c : csrClearable x = w1c.toNat)
    (h0 : rw ≠ 0#64 ∨ w1c ≠ 0#64) :
    csrWrite u x src.toNat gain =
      csrSet (noteCleared u x src.toNat) x (csrMerged (csrRead u x) src rw w1c gain).toNat := by
  have hn : (csrWritable u.hart.cs.hstat.hl x == 0 && csrClearable x == 0) = false := by
    rw [hrw, hw1c, Bool.and_eq_false_iff, beq_eq_false_iff_ne, beq_eq_false_iff_ne]
    exact h0.imp (mt fun h => BitVec.eq_of_toNat_eq h) (mt fun h => BitVec.eq_of_toNat_eq h)
  rw [csrWrite]
  simp only [hn, Bool.false_eq_true, if_false]
  rw [hrw, hw1c, csrMerge_toNat]

theorem noteCleared_of_ne {u : State} {x : BitVec 12} (hx : x ≠ 0x104) (src : Nat) : noteCleared u x src = u :=
  if_neg (by simpa using hx)

/-- A register with no field that a write changes stays as it is. -/
theorem csrWrite_of_readOnly {u : State} {x : BitVec 12} (src : Nat) (gain : Bool)
    (hrw : csrWritable u.hart.cs.hstat.hl x = 0) (h1 : csrClearable x = 0) : csrWrite u x src gain = u := by
  simp [csrWrite, hrw, h1]

/-! ### Registers that hold a word, and HCAUSE -/

/-- The registers that hold the word they take: HEPC, HTVAL, HQPOS, HTVEC, HSCRATCH, HRPC, HRSP, HFSP and VPROG. -/
def wordControls : List (BitVec 12) := [0x002, 0x003, 0x004, 0x005, 0x006, 0x007, 0x008, 0x009, 0x10C]

theorem csrRead_csrSet_word {x : BitVec 12} (hx : x ∈ wordControls) (u : State) (v : Word) :
    csrRead (csrSet u x v.toNat) x = v := by
  simp only [wordControls, List.mem_cons, List.not_mem_nil, or_false] at hx
  rcases hx with rfl | rfl | rfl | rfl | rfl | rfl | rfl | rfl | rfl <;> exact BitVec.ofNat_toNat 64 v

/-- The bits of HCAUSE that are fields. -/
def hcauseBits : Word := 0xFC0000000000FFFF

theorem bitAt_add (b : Bool) (k : Nat) : bitAt b (k + 58) = 2 ^ 58 * bitAt b k := by
  cases b
  · rfl
  · exact (pow_add 2 k 58).trans (Nat.mul_comm ..)

/-- The six bits at the top of HCAUSE, as a number. -/
def hcauseTop (c : HCause) : Nat :=
  bitAt c.int 5 + bitAt c.vs 4 + bitAt c.vrs 3 + bitAt c.ta 2 + bitAt c.exit 1 + bitAt c.eng 0

theorem hcause_toWord_eq (c : HCause) :
    c.toWord = word (2 ^ 58 * hcauseTop c + (c.sub.toNat * 256 + c.code.toNat)) := by
  rw [HCause.toWord, bitAt_add c.int 5, bitAt_add c.vs 4, bitAt_add c.vrs 3, bitAt_add c.ta 2, bitAt_add c.exit 1,
    bitAt_add c.eng 0]
  exact congrArg word (by unfold hcauseTop; omega)

theorem getLsbD_word_split {hi lo i : Nat} (hlo : lo < 2 ^ 16) (h64 : i < 64) :
    (word (2 ^ 58 * hi + lo)).getLsbD i = if i < 58 then lo.testBit i else hi.testBit (i - 58) := by
  rw [word, BitVec.getLsbD_ofNat, Nat.testBit_two_pow_mul_add hi (by omega), decide_eq_true h64, Bool.true_and]

theorem hcauseBits_getLsbD : ∀ i < 64, hcauseBits.getLsbD i = decide (i < 16 ∨ 58 ≤ i) := by decide

theorem hcause_toWord_and_bits (c : HCause) : c.toWord &&& hcauseBits = c.toWord := by
  refine BitVec.eq_of_getLsbD_eq fun i hi => ?_
  rw [BitVec.getLsbD_and, hcauseBits_getLsbD i hi, hcause_toWord_eq, getLsbD_word_split (by omega) hi]
  have hlo : 16 ≤ i → (c.sub.toNat * 256 + c.code.toNat).testBit i = false := fun h =>
    Nat.testBit_lt_two_pow (Nat.lt_of_lt_of_le (by omega) (Nat.pow_le_pow_right (by omega) h))
  by_cases h16 : i < 16
  · simp [h16]
  · by_cases h58 : i < 58
    · simp [h58, hlo (by omega)]
    · simp [h58, show 58 ≤ i by omega]

theorem hcause_ofNat_toWord (v : Word) : (HCause.ofNat v.toNat).toWord = v &&& hcauseBits := by
  have hv := v.isLt
  have htop : hcauseTop (HCause.ofNat v.toNat) = v.toNat / 2 ^ 58 := by
    have hbit : ∀ k j, bitAt (v.toNat.testBit k) j = v.toNat / 2 ^ k % 2 * 2 ^ j := fun k j => by
      rw [Nat.testBit_eq_decide_div_mod_eq, bitAt]
      rcases Nat.mod_two_eq_zero_or_one (v.toNat / 2 ^ k) with h | h <;> simp [h]
    simp only [hcauseTop, HCause.ofNat, hbit]
    omega
  have hfoot : (BitVec.ofNat 8 (v.toNat / 256)).toNat * 256 + (BitVec.ofNat 8 v.toNat).toNat = v.toNat % 2 ^ 16 := by
    simp only [BitVec.toNat_ofNat]
    omega
  refine BitVec.eq_of_getLsbD_eq fun i hi => ?_
  rw [BitVec.getLsbD_and, hcauseBits_getLsbD i hi, hcause_toWord_eq, htop]
  simp only [HCause.ofNat, hfoot]
  rw [getLsbD_word_split (by omega) hi, Nat.testBit_mod_two_pow, Nat.testBit_div_two_pow]
  by_cases h16 : i < 16
  · simp [h16, show i < 58 by omega, BitVec.getLsbD]
  · by_cases h58 : i < 58
    · simp [h58, h16, show ¬ 58 ≤ i by omega]
    · simp [h58, show 58 ≤ i by omega, BitVec.getLsbD, show i - 58 + 58 = i by omega]

/-! ### The plain registers -/

/-- The bits of a plain register that a write can change, at a level. -/
def plainMask (e : BitVec 12 × Word × Word) (hl : Bool) : Word := if hl then e.2.2 else e.2.1

theorem csrWritable_plain {e : BitVec 12 × Word × Word} (he : e ∈ plainControls) (hl : Bool) :
    csrWritable hl e.1 = (plainMask e hl).toNat ∧ csrClearable e.1 = 0 ∧ e.1 ≠ 0x104 := by
  simp only [plainControls, List.mem_cons, List.not_mem_nil, or_false] at he
  rcases he with rfl | rfl | rfl | rfl | rfl | rfl | rfl | rfl | rfl | rfl <;> cases hl <;> exact ⟨rfl, rfl, by decide⟩

theorem plain_eq_hcause_or_word {e : BitVec 12 × Word × Word} (he : e ∈ plainControls) :
    e = (0x001, 0, hcauseBits) ∨ e.1 ∈ wordControls := by
  simp only [plainControls, List.mem_cons, List.not_mem_nil, or_false] at he
  rcases he with rfl | he
  · exact .inl rfl
  · right
    rcases he with rfl | rfl | rfl | rfl | rfl | rfl | rfl | rfl | rfl <;> decide

/-- A plain register reads as the value it is set to, where only its writable bits can differ from the old one. -/
theorem csrRead_csrSet_plain {e : BitVec 12 × Word × Word} (he : e ∈ plainControls) {u : State} {hl : Bool} {y : Word}
    (h0 : plainMask e hl ≠ 0#64) (hy : y &&& ~~~ plainMask e hl = csrRead u e.1 &&& ~~~ plainMask e hl) :
    csrRead (csrSet u e.1 y.toNat) e.1 = y := by
  rcases plain_eq_hcause_or_word he with rfl | hw
  · have hm : plainMask (0x001, 0, hcauseBits) hl = hcauseBits := by cases hl <;> simp_all [plainMask]
    have hold : csrRead u 0x001 &&& ~~~ hcauseBits = 0#64 := by
      rw [show csrRead u 0x001 = u.hart.cs.hcause.toWord from rfl, ← hcause_toWord_and_bits, BitVec.and_assoc,
        BitVec.and_not_self]
      exact BitVec.and_zero
    rw [hm] at hy
    have hsplit : y = (y &&& hcauseBits) ||| (y &&& ~~~ hcauseBits) := by
      ext i hi
      simp only [BitVec.getElem_or, BitVec.getElem_and, BitVec.getElem_not]
      cases y[i] <;> cases hcauseBits[i] <;> rfl
    calc csrRead (csrSet u 0x001 y.toNat) 0x001 = (HCause.ofNat y.toNat).toWord := rfl
      _ = y &&& hcauseBits := hcause_ofNat_toWord y
      _ = y := by rw [hsplit, hy, hold]; simp [BitVec.and_assoc]
  · exact csrRead_csrSet_word hw u y

theorem csrSet_plain_frame {e : BitVec 12 × Word × Word} (he : e ∈ plainControls) (u : State) (n : Nat) :
    csrSet u e.1 n = { u with hart := { u.hart with cs := (csrSet u e.1 n).hart.cs } } := by
  simp only [plainControls, List.mem_cons, List.not_mem_nil, or_false] at he
  rcases he with rfl | rfl | rfl | rfl | rfl | rfl | rfl | rfl | rfl | rfl <;> rfl

/-- A write of a plain register: nothing where its level may not write it, else the value formed. -/
theorem csrWrite_plain {e : BitVec 12 × Word × Word} (he : e ∈ plainControls) (u : State) (src : Word) (gain : Bool) :
    csrWrite u e.1 src.toNat gain = if plainMask e u.hart.cs.hstat.hl = 0#64 then u
      else csrSet u e.1 (csrMerged (csrRead u e.1) src (plainMask e u.hart.cs.hstat.hl) 0#64 gain).toNat := by
  obtain ⟨hrw, h1, hx⟩ := csrWritable_plain he u.hart.cs.hstat.hl
  split
  · next h => exact csrWrite_of_readOnly _ _ (by rw [hrw, h]; rfl) h1
  · next h => rw [csrWrite_eq_csrSet src gain hrw (w1c := 0#64) h1 (.inl h), noteCleared_of_ne hx]

theorem csrRead_csrWrite_plain {e : BitVec 12 × Word × Word} (he : e ∈ plainControls) (u : State) (src : Word)
    (gain : Bool) :
    csrRead (csrWrite u e.1 src.toNat gain) e.1 =
      csrMerged (csrRead u e.1) src (plainMask e u.hart.cs.hstat.hl) 0#64 gain := by
  rw [csrWrite_plain he]
  split
  · next h =>
    rw [h]
    cases gain
    · rw [csrMerged_plain, BitVec.not_zero, BitVec.and_allOnes, BitVec.and_zero, BitVec.or_zero]
    · rw [csrMerged_gain, BitVec.and_zero, BitVec.or_zero]
  · next h =>
    refine csrRead_csrSet_plain he h ?_
    cases gain
    · rw [csrMerged_plain]
      ext i hi
      simp only [BitVec.getElem_or, BitVec.getElem_and, BitVec.getElem_not]
      cases (plainMask e u.hart.cs.hstat.hl)[i] <;> simp
    · rw [csrMerged_gain]
      ext i hi
      simp only [BitVec.getElem_or, BitVec.getElem_and, BitVec.getElem_not]
      cases (plainMask e u.hart.cs.hstat.hl)[i] <;> simp

theorem csrWrite_plain_frame {e : BitVec 12 × Word × Word} (he : e ∈ plainControls) (u : State) (src : Word)
    (gain : Bool) :
    csrWrite u e.1 src.toNat gain =
      { u with hart := { u.hart with cs := (csrWrite u e.1 src.toNat gain).hart.cs } } := by
  rw [csrWrite_plain he]
  split
  · rfl
  · exact csrSet_plain_frame he u _

/-! ### The other registers -/

theorem csrWrite_readOnly {x : BitVec 12} (hx : x ∈ readOnlyControls) (u : State) (src : Nat) (gain : Bool) :
    csrWrite u x src gain = u := by
  have hbits : csrWritable u.hart.cs.hstat.hl x = 0 ∧ csrClearable x = 0 := by
    simp only [readOnlyControls, List.mem_cons, List.not_mem_nil, or_false] at hx
    rcases hx with rfl | rfl | rfl | rfl | rfl | rfl | rfl | rfl | rfl | rfl | rfl | rfl | rfl | rfl | rfl | rfl | rfl |
      rfl | rfl | rfl <;> exact ⟨rfl, rfl⟩
  exact csrWrite_of_readOnly src gain hbits.1 hbits.2

theorem csrRead_csrWrite_vflags (u : State) (src : Word) (gain : Bool) :
    csrRead (csrWrite u 0x104 src.toNat gain) 0x104 = csrRead u 0x104 &&& ~~~ src := by
  have hread : ∀ (s : State) (y : Word), csrRead (csrSet s 0x104 y.toNat) 0x104 = (y.setWidth 6).setWidth 64 :=
    fun s y => congrArg (BitVec.setWidth 64) (BitVec.ofNat_toNat 6 y)
  have hbits : ∀ i < 64, (0x3F#64).getLsbD i = decide (i < 6) := by decide
  rw [csrWrite_eq_csrSet src gain (rw := 0#64) (w1c := 0x3F#64) rfl rfl (.inr (by decide)), hread,
    show csrRead u 0x104 = u.hart.cs.vflags.setWidth 64 from rfl]
  refine BitVec.eq_of_getLsbD_eq fun i hi => ?_
  simp only [BitVec.getLsbD_setWidth, BitVec.getLsbD_and, BitVec.getLsbD_not, hi, decide_true, Bool.true_and,
    getLsbD_csrMerged _ _ _ _ _ hi, hbits i hi]
  by_cases h6 : i < 6
  · simp [h6]
  · simp [h6, BitVec.getLsbD_of_ge u.hart.cs.vflags i (by omega)]

/-- The fields of FRM that a write can change: SEED and MODE. -/
def frmBits : Word := 0xFFFFFFFF00000007

theorem frmBits_getLsbD : ∀ i < 64, frmBits.getLsbD i = decide (i < 3 ∨ 32 ≤ i) := by decide

theorem csrWrite_frm (u : State) (src : Word) :
    (csrWrite u 0x10B src.toNat false).hart.cs =
      writeFrm u.hart.cs (csrMerged (csrRead u 0x10B) src frmBits 0#64 false).toNat := by
  rw [csrWrite_eq_csrSet src false (rw := frmBits) (w1c := 0#64) rfl rfl (.inl (by decide))]
  rfl

theorem seed_writeFrm (c : ControlRegs) (y : Word) :
    (writeFrm c y.toNat).seed = if y.extractLsb' 32 32 = 0 then 1 else y.extractLsb' 32 32 := by
  have e : BitVec.ofNat 32 (y.toNat / 2 ^ 32) = y.extractLsb' 32 32 := by
    rw [← Nat.shiftRight_eq_div_pow]
    rfl
  simp only [writeFrm, e]

theorem mode_writeFrm (c : ControlRegs) (y : Word) :
    (writeFrm c y.toNat).mode = if 6 ≤ (y.extractLsb' 0 3).toNat then c.mode else y.extractLsb' 0 3 := by
  have e : (y.extractLsb' 0 3).toNat = y.toNat % 8 := by simp
  rw [e]
  rfl

/-- HSTAT reads with each field at its bit. -/
theorem hstat_toWord_getLsbD (x : HStat) : x.toWord.getLsbD 9 = x.disc ∧ x.toWord.getLsbD 7 = x.schk ∧
    x.toWord.getLsbD 6 = x.pie ∧ x.toWord.getLsbD 5 = x.phl ∧ x.toWord.getLsbD 0 = x.ie := by
  obtain ⟨disc, timed, schk, pie, phl, hl, ie⟩ := x
  revert disc timed schk pie phl hl ie
  decide

theorem csrWrite_hstat (u : State) (src : Word) :
    (csrWrite u 0x000 src.toNat false).hart.cs.hstat =
      writeHstat u.hart.cs.hstat
        (csrMerged (csrRead u 0x000) src (if u.hart.cs.hstat.hl then 0xE1#64 else 0x80#64) 0x200#64 false).toNat := by
  rw [csrWrite_eq_csrSet src false (rw := if u.hart.cs.hstat.hl then 0xE1#64 else 0x80#64) (w1c := 0x200#64)]
  · rfl
  · cases u.hart.cs.hstat.hl <;> rfl
  · rfl
  · exact .inr (by decide)

/-- Settles O17: each kind of register by its own lemma. -/
theorem controlRegistersTakeTheirFields : Obligations.ControlRegistersTakeTheirFields := by
  intro u src
  refine ⟨fun e he => ⟨?_, ?_, csrWrite_plain_frame he u src⟩, fun x hx => csrWrite_readOnly hx u _,
    csrRead_csrWrite_vflags u src, ?_, ?_⟩
  · exact (csrRead_csrWrite_plain he u src false).trans (csrMerged_plain ..)
  · exact (csrRead_csrWrite_plain he u src true).trans (csrMerged_gain ..)
  · have hseed : (csrMerged (csrRead u 0x10B) src frmBits 0#64 false).extractLsb' 32 32 = src.extractLsb' 32 32 := by
      refine BitVec.eq_of_getLsbD_eq fun i hi => ?_
      rw [BitVec.getLsbD_extractLsb', BitVec.getLsbD_extractLsb', getLsbD_csrMerged _ _ _ _ _ (by omega),
        frmBits_getLsbD _ (by omega), if_pos (decide_eq_true (by omega)), Bool.false_and, Bool.false_or]
    have hmode : (csrMerged (csrRead u 0x10B) src frmBits 0#64 false).extractLsb' 0 3 = src.extractLsb' 0 3 := by
      refine BitVec.eq_of_getLsbD_eq fun i hi => ?_
      rw [BitVec.getLsbD_extractLsb', BitVec.getLsbD_extractLsb', getLsbD_csrMerged _ _ _ _ _ (by omega),
        frmBits_getLsbD _ (by omega), if_pos (decide_eq_true (by omega)), Bool.false_and, Bool.false_or]
    dsimp only
    rw [csrWrite_frm, seed_writeFrm, mode_writeFrm, hseed, hmode]
    exact ⟨rfl, rfl⟩
  · dsimp only
    rw [csrWrite_hstat]
    obtain ⟨hdisc, -, hpie, hphl, hie⟩ := hstat_toWord_getLsbD u.hart.cs.hstat
    have hold : csrRead u 0x000 = u.hart.cs.hstat.toWord := rfl
    simp only [writeHstat, BitVec.testBit_toNat, hold, getLsbD_csrMerged _ _ _ _ _ (show 9 < 64 by decide),
      getLsbD_csrMerged _ _ _ _ _ (show 7 < 64 by decide), getLsbD_csrMerged _ _ _ _ _ (show 6 < 64 by decide),
      getLsbD_csrMerged _ _ _ _ _ (show 5 < 64 by decide), getLsbD_csrMerged _ _ _ _ _ (show 0 < 64 by decide),
      hdisc, hpie, hphl, hie]
    cases u.hart.cs.hstat.hl <;> simp

end Sys2Proof.Machine
end

section
/-!
LAW. Registers of the device: what reads back after a write, and what the write leaves alone (R5, R38, R278 to R280,
R307 to R309, R325, R326). Settles O47.
-/

namespace Sys2Proof.Machine

/-! ### The queues -/

/-- The first entry of a key, where the entries of another key are left out. -/
theorem find?_filter_ne {α : Type} {key : α → Nat} (l : List α) {p q : Nat} (hp : p ≠ q) :
    (l.filter (fun x => key x != q)).find? (fun x => key x == p) = l.find? (fun x => key x == p) := by
  rw [List.find?_filter]
  refine List.find?_congr fun x _ => ?_
  by_cases hx : key x = p <;> simp [hx, hp]

theorem queue_n (s : State) (q : Nat) : (s.queue q).n = q := by
  unfold State.queue
  cases h : s.queues.find? (·.n == q) with
  | none => rfl
  | some x => simpa using List.find?_some h

theorem queue_mapQueue_same (s : State) {q : Nat} {f : Queue → Queue} (hf : (f (s.queue q)).n = q) :
    (s.mapQueue q f).queue q = f (s.queue q) := by
  rw [State.queue, State.mapQueue, List.find?_cons_of_pos (by simpa using hf), Option.getD_some]

theorem queue_mapQueue_other (s : State) {p q : Nat} {f : Queue → Queue} (hf : (f (s.queue q)).n = q) (hp : p ≠ q) :
    (s.mapQueue q f).queue p = s.queue p := by
  rw [State.queue, State.mapQueue, List.find?_cons_of_neg (by simpa [hf] using hp.symm), find?_filter_ne _ hp,
    ← State.queue]

/-- Queue `q` has become `y`, and nothing else has changed. -/
def QueueBecame (s t : State) (q : Nat) (y : Queue) : Prop :=
  t.queue q = y ∧ t = { s with queues := t.queues } ∧ ∀ p, p ≠ q → t.queue p = s.queue p

theorem mapQueue_became (s : State) {q : Nat} {f : Queue → Queue} (hf : (f (s.queue q)).n = q) :
    QueueBecame s (s.mapQueue q f) q (f (s.queue q)) :=
  ⟨queue_mapQueue_same s hf, rfl, fun _ hp => queue_mapQueue_other s hf hp⟩

theorem queueWrite_ready {s : State} {q : Nat} (f : State → State) (hq : q < 4096) (hr : s.hub.devrdy = true) :
    queueWrite s q f = .next (f s) := by
  simp [queueWrite, queueCount, hq, hr]

theorem queueWrite_early {s : State} (q : Nat) (f : State → State) (hr : s.hub.devrdy = false) :
    queueWrite s q f = .next s := by
  simp [queueWrite, hr]

/-- A queue after a write of QTAIL (R280). -/
def tailWritten (v : Word) (x : Queue) : Queue :=
  if 2 ^ x.log2 < (v.setWidth 32 - x.head).toNat then { x with ovf := true } else { x with tail := v.setWidth 32 }

section
variable {s : State} {q : Nat} (v : Word) (hq : q < 4096) (hr : s.hub.devrdy = true)
include hq hr

theorem exec_qstatWrite : exec (.registerWrite (.qstat q) v) s = .next (s.mapQueue q (fun x => { x with
    ddone := x.ddone && !v.getLsbD 10, err := x.err && !v.getLsbD 9, ovf := x.ovf && !v.getLsbD 8 })) :=
  congrArg Host.Outcome.next (if_pos (by simp [queueCount, hq, hr]))

theorem exec_qbaseWrite : exec (.qbaseWrite q v) s =
    .next (if (s.queue q).head = (s.queue q).tail ∧ s.queueHarts q = [] then
      s.mapQueue q (fun x => { x with base := v &&& 0x00FFFFFFFFFFFFC0 }) else s) :=
  (queueWrite_ready _ hq hr).trans (congrArg _ (if_congr (by simp) rfl rfl))

theorem exec_qsizeWrite : exec (.qsizeWrite q v) s =
    .next (if (s.queue q).head = (s.queue q).tail ∧ 4 ≤ v.toNat % 32 ∧ v.toNat % 32 ≤ 16 then
      s.mapQueue q (fun x => { x with log2 := v.toNat % 32 }) else s) :=
  (queueWrite_ready _ hq hr).trans (congrArg _ (if_congr (by simp) rfl rfl))

theorem exec_qtailWrite : exec (.qtailWrite q v) s = .next (s.mapQueue q (tailWritten v)) :=
  queueWrite_ready (fun s => s.mapQueue q (tailWritten v)) hq hr

end

theorem exec_queueContextAssign {s : State} {q : Nat} (hq : q < 4096) (asid : Nat) :
    exec (.queueContextAssign q asid) s = .next (s.mapQueue q (fun x => { x with asid := asid % 65536 })) :=
  congrArg Host.Outcome.next (if_pos hq)

/-! ### Links, apertures, format ranges and routes -/

theorem link_vset_same (s : State) {l : Nat} (x : Link) (h : l < 24) :
    State.link { s with links := vset s.links l x } l = x :=
  vget_vset_same _ _ _ _ h

theorem link_vset_other (s : State) {l m : Nat} (x : Link) (h : m ≠ l) :
    State.link { s with links := vset s.links l x } m = s.link m :=
  vget_vset_other _ _ _ _ _ h

theorem hapOf_setHap (s : State) (n m : Nat) (v : Word) :
    hapOf (setHap s (some n) v) (some m) = if m = n then v &&& 0x800000000000FFFF else hapOf s (some m) := by
  simp only [hapOf, setHap]
  rw [List.find?_append]
  by_cases hm : m = n
  · subst hm
    have hnone : (s.hub.hapVf.filter (fun x => x.1 != m)).find? (·.1 == m) = none := List.find?_eq_none.mpr (by simp)
    rw [if_pos rfl, hnone, Option.or_none]
    split
    · next h0 => exact h0.symm
    · simp
  · have hskip : ∀ y : Word, ((if y = 0 then [] else [(n, y)]) : List (Nat × Word)).find? (·.1 == m) = none := fun y => by
      split <;> simp [Ne.symm hm]
    rw [if_neg hm, hskip, Option.none_or, find?_filter_ne (key := Prod.fst) _ hm]

theorem eraseDups_of_nodup {l : List Nat} (h : l.Nodup) : l.eraseDups = l := by
  induction l with
  | nil => rfl
  | cons a l ih =>
    obtain ⟨ha, hl⟩ := List.nodup_cons.mp h
    have hkeep : l.filter (fun b => !b == a) = l := List.filter_eq_self.mpr fun b hb => by
      simpa using fun e : b = a => ha (e ▸ hb)
    rw [List.eraseDups_cons, hkeep, ih hl]

/-- A route set with a link that carries traffic is written as it is, and no group is lost. -/
theorem exec_routeTableWrite {s : State} (pkg : Nat) {links : List Nat} (h24 : ∀ l ∈ links, l < 24) (hd : links.Nodup)
    (hup : ∃ l ∈ links, (s.link l).state = .up ∨ (s.link l).state = .degraded) :
    exec (.routeTableWrite pkg links) s =
      .next { s with routes := (pkg, links) :: s.routes.filter (fun r => r.1 != pkg) } := by
  have hlist : (links.filter (fun n => decide (n < 24))).eraseDups = links := by
    rw [List.filter_eq_self.mpr fun l hl => decide_eq_true (h24 l hl), eraseDups_of_nodup hd]
  obtain ⟨l, hl, hs⟩ := hup
  have hcarries : ∀ t : State, t.links = s.links → routeTo t pkg = links → routeLoss t pkg = t := fun t ht hr => by
    have hany : (routeTo t pkg).any (fun n => (t.link n).state.carries) = true := by
      rw [hr, List.any_eq_true]
      refine ⟨l, hl, ?_⟩
      rw [State.link, ht]
      rcases hs with e | e <;> rw [State.link] at e <;> rw [e] <;> rfl
    rw [routeLoss, if_pos hany]
  have hexec : exec (.routeTableWrite pkg links) s = execRouteTableWrite pkg links s := rfl
  rw [hexec, execRouteTableWrite, hlist]
  exact congrArg _ (hcarries _ rfl (by simp [routeTo]))

/-- The words of format-range register `n` of a stack. -/
def rangeWords (s : State) (stack n : Nat) : Vector Word 4 :=
  ((s.formats.find? (fun x => x.1 == stack && x.2.1 == n)).map (·.2.2)).getD (Vector.replicate 4 0)

theorem exec_formatRangeWrite {s : State} {stack n k : Nat} (v : Word) (hs : stack < s.product.cores / 64) (hn : n < 16)
    (hk : k < 4) :
    exec (.formatRangeWrite stack (0x100 + 32 * n + 8 * k) v) s =
      let r := vset (rangeWords s stack n) k (v &&& rangeBits k)
      let t := match formatRange r with
        | some f => s.barMoves [(f.base / 128, (f.limit - f.base + 127) / 128)]
        | none => s
      .next { t with formats := (stack, n, r) :: t.formats.filter (fun x => !(x.1 == stack && x.2.1 == n)) } := by
  have hexec : exec (.formatRangeWrite stack (0x100 + 32 * n + 8 * k) v) s =
      execFormatRangeWrite stack (0x100 + 32 * n + 8 * k) v s := rfl
  have hnum : (0x100 + 32 * n + 8 * k - 0x100) / 32 = n := by omega
  have hword : (0x100 + 32 * n + 8 * k) % 32 / 8 = k := by omega
  have hin : (decide (0x100 + 32 * n + 8 * k < 0x100) || decide (16 ≤ n) || (0x100 + 32 * n + 8 * k) % 8 != 0 ||
      decide (s.product.cores / 64 ≤ stack)) = false := by
    simp only [Bool.or_eq_false_iff, decide_eq_false_iff_not, bne_eq_false_iff_eq]
    omega
  rw [hexec, execFormatRangeWrite]
  simp only [hnum, hword, hin, Bool.false_eq_true, if_false]
  rfl

theorem barMoves_eq (s : State) (l : List (Nat × Nat)) : s.barMoves l = { s with moves := (s.barMoves l).moves } := by
  unfold State.barMoves
  split <;> rfl

theorem formatRangeWrite_effect {s : State} {stack n k : Nat} (v : Word) (hs : stack < s.product.cores / 64)
    (hn : n < 16) (hk : k < 4) : ∃ t, exec (.formatRangeWrite stack (0x100 + 32 * n + 8 * k) v) s = .next t ∧
      t = { s with formats := t.formats, moves := t.moves } ∧
      (formatRange (vset (rangeWords s stack n) k (v &&& rangeBits k)) = none → t.moves = s.moves) ∧
      t.formats.find? (fun x => x.1 == stack && x.2.1 == n) =
        some (stack, n, vset (rangeWords s stack n) k (v &&& rangeBits k)) := by
  refine ⟨_, exec_formatRangeWrite v hs hn hk, ?_, ?_, ?_⟩
  · dsimp only
    split
    · rw [barMoves_eq]
    · rfl
  · intro h
    rw [h]
  · simp

theorem rangeBits_eq {k : Nat} (hk : k < 4) : rangeBits k =
    ([0x0000FFFFFFFF0000, 0x0000FFFFFFFF0000, 0x000000008000031F, 0x0000FFFFFFFFFFFC] : List Word).getD k 0 := by
  interval_cases k <;> rfl

/-! ### The settling -/

theorem exec_csrWrite {s : State} {n : BitVec 12} (v : Word) (hres : s.hart.resident = true)
    (hpriv : csrPriv s.hart.cs.hstat.hl n true = false) :
    exec (.registerWrite (.csr n) v) s = .next (csrWrite s n v.toNat false) :=
  congrArg Host.Outcome.next (if_neg (by simp [hres, hpriv]))

theorem lstatWrite_effect (s : State) (v : Word) {l : Nat} (hl : l < 24) :
    ∃ t, exec (.registerWrite (.lstat l) v) s = .next t ∧ t = { s with links := t.links } ∧
      t.link l = { s.link l with retry := (s.link l).retry &&& ~~~(v.extractLsb' 32 32) } ∧
      ∀ m, m ≠ l → t.link m = s.link m := by
  have hhigh : (v >>> 32).setWidth 32 = v.extractLsb' 32 32 := by
    ext i hi
    simp
  refine ⟨_, congrArg Host.Outcome.next (if_pos hl), rfl, ?_, fun m hm => link_vset_other s _ hm⟩
  rw [link_vset_same s _ hl, hhigh]

theorem hapCtxWrite_effect (s : State) (v : Word) {n : Nat} (hn : n < 1024) :
    ∃ t, exec (.registerWrite (.hapCtx (some n)) v) s = .next t ∧
      t = { s with hub := { s.hub with hapVf := t.hub.hapVf } } ∧
      ∀ m, hapOf t (some m) = if m = n then v &&& 0x800000000000FFFF else hapOf s (some m) :=
  ⟨_, congrArg Host.Outcome.next (if_pos (decide_eq_true hn)), rfl, fun m => hapOf_setHap s n m v⟩

theorem queueWrites_early {s : State} (v : Word) (hr : s.hub.devrdy = false) (q : Nat) :
    exec (.qbaseWrite q v) s = .next s ∧ exec (.qsizeWrite q v) s = .next s ∧ exec (.qtailWrite q v) s = .next s ∧
      exec (.registerWrite (.qstat q) v) s = .next s :=
  ⟨queueWrite_early q _ hr, queueWrite_early q _ hr, queueWrite_early q (·.mapQueue q (tailWritten v)) hr,
    congrArg Host.Outcome.next (if_neg (by simp [hr]))⟩

/-- What a computation of `mapQueue` makes of queue `q`. -/
theorem became_of_exec {i : Instr} {s : State} {q : Nat} {f : Queue → Queue} (h : exec i s = .next (s.mapQueue q f))
    {y : Queue} (hy : f (s.queue q) = y) (hn : y.n = (s.queue q).n) :
    ∃ t, exec i s = .next t ∧ QueueBecame s t q y := by
  subst hy
  exact ⟨_, h, mapQueue_became s (hn.trans (queue_n s q))⟩

/-- Settles O47: each register by the lemma of its own write. -/
theorem deviceRegistersTakeTheirFields : Obligations.DeviceRegistersTakeTheirFields := by
  intro s v
  refine ⟨fun n => exec_csrWrite v, fun l => lstatWrite_effect s v, rfl, rfl,
    fun asid => ⟨rfl, fun hv => congrArg _ (if_neg hv)⟩, rfl, rfl, fun n => hapCtxWrite_effect s v,
    fun q hq hr => ?_, queueWrites_early v, fun stack n k hs hn hk => ?_,
    fun pkg links h24 hd hup => ⟨_, exec_routeTableWrite pkg h24 hd hup, rfl, by simp [routeTo]⟩⟩
  · refine ⟨became_of_exec (exec_qstatWrite v hq hr) rfl rfl, fun he hn => ?_, fun hne => ⟨?_, ?_⟩, fun he h4 h16 => ?_,
      fun h => ?_, fun h => ?_, fun asid ha => ?_⟩
    · exact became_of_exec ((exec_qbaseWrite v hq hr).trans (congrArg _ (if_pos ⟨he, hn⟩))) rfl rfl
    · exact (exec_qbaseWrite v hq hr).trans (congrArg _ (if_neg fun h => hne h.1))
    · exact (exec_qsizeWrite v hq hr).trans (congrArg _ (if_neg fun h => hne h.1))
    · exact became_of_exec ((exec_qsizeWrite v hq hr).trans (congrArg _ (if_pos ⟨he, h4, h16⟩))) rfl rfl
    · exact became_of_exec (exec_qtailWrite v hq hr) (if_neg (Nat.not_lt.mpr h)) rfl
    · exact became_of_exec (exec_qtailWrite v hq hr) (if_pos h) rfl
    · exact became_of_exec (exec_queueContextAssign hq asid) (by rw [Nat.mod_eq_of_lt ha]) rfl
  · have h := formatRangeWrite_effect v hs hn hk
    rw [rangeBits_eq hk] at h
    exact h

end Sys2Proof.Machine
end

section
/-!
LAW. The windows of registers and the tables in device memory: where each register lies, what it reads as, the event
that a write of it is, and the bytes of the tables (R5, R38, R267, R279, R300, R309, R324 to R328). Settles O60.
-/

namespace Sys2Proof.Machine

section
variable {s : State}

/-! ### Accesses of a window -/

theorem runTurn_busRead_eq (w : Window) (off n : Nat) : runTurn s (.busRead w off n) = .next (busRead s w off n) := rfl

theorem runTurn_busWrite_eq (w : Window) (off n : Nat) (v : Word) :
    runTurn s (.busWrite w off n v) = runEvents (busWrite s w off n v) s := rfl

theorem runTurn_busRead_width {n : Nat} (w : Window) (off : Nat) (hn : n ≠ 8) :
    runTurn s (.busRead w off n) = .next { s with answer := .bytes (List.replicate n 0xFF) } := by
  rw [runTurn_busRead_eq, busRead, if_pos hn]

theorem runTurn_busWrite_width {n : Nat} (w : Window) (off : Nat) (v : Word) (hn : n ≠ 8) :
    runTurn s (.busWrite w off n v) = .next s := by
  rw [runTurn_busWrite_eq, busWrite, if_pos hn, runEvents]

theorem runTurn_busRead_reg {w : Window} {off : Nat} {r : BusReg} {v : Word} (hr : windowReg s w off = some r)
    (hv : regWord s r = some v) : runTurn s (.busRead w off 8) = .next
      { s with answer := .bytes ((List.range 8).map (fun i => BitVec.ofNat 8 (v.toNat / 256 ^ i))) } := by
  have h : (windowReg s w off).bind (regWord s) = some v := by rw [hr]; exact hv
  rw [runTurn_busRead_eq, busRead, if_neg (by decide), h]
  rfl

theorem runEvents_cons_of_next {i : Instr} {l : List Instr} {t : State} (h : exec i s = .next t) :
    runEvents (i :: l) s = runEvents l t := by
  rw [runEvents, h]

theorem runEvents_singleton (i : Instr) : runEvents [i] s = exec i s := by
  rw [runEvents]
  split
  · next t h => rw [h, runEvents]
  · rfl

theorem writes_of_busWrite {r : BusReg} {i : Word → Instr}
    (h : ∀ w off v, windowReg s w off = some r → busWrite s w off 8 v = [i v]) (w : Window) (off : Nat) (v : Word)
    (hr : windowReg s w off = some r) : runTurn s (.busWrite w off 8 v) = exec (i v) s := by
  rw [runTurn_busWrite_eq, h w off v hr, runEvents_singleton]

theorem readOnly_of_busWrite {r : BusReg} (h : ∀ w off v, windowReg s w off = some r → busWrite s w off 8 v = [])
    (w : Window) (off : Nat) (v : Word) (hr : windowReg s w off = some r) :
    runTurn s (.busWrite w off 8 v) = .next s := by
  rw [runTurn_busWrite_eq, h w off v hr, runEvents]

/-- QCTL is written as two events, DRAIN and then SUSP. -/
theorem runTurn_busWrite_qctl {n : Nat} (w : Window) (off : Nat) (v : Word) (t : State)
    (hr : windowReg s w off = some (.queue n 0x20))
    (ht : exec (.qctlDrain n (v.getLsbD 1)) s = .next t) :
    runTurn s (.busWrite w off 8 v) = exec (.qctlSusp n (v.getLsbD 0)) t := by
  have h : busWrite s w off 8 v = [.qctlDrain n (v.getLsbD 1), .qctlSusp n (v.getLsbD 0)] := by
    simp [busWrite, hr]
  rw [runTurn_busWrite_eq, h, runEvents_cons_of_next ht, runEvents_singleton]

/-! ### Where registers lie -/

theorem windowReg_link {n : Nat} (h : n < 24) : windowReg s .hub (0x400 + 0x20 * n) = some (.link n) := by
  have e : windowReg s .hub (0x400 + 0x20 * n) = hubReg (0x400 + 0x20 * n) := rfl
  rw [e, hubReg]
  · rw [if_pos (by omega)]
    congr 2
    omega
  all_goals omega

theorem queueReg_at {first count n off : Nat} (hn : n < count) (ho : off < 0x40) :
    queueReg first count (0x1000 + 0x40 * n + off) = some (.queue (first + n) off) := by
  rw [queueReg, if_pos (by omega)]
  congr 2 <;> omega

theorem windowReg_queue {n off : Nat} (hn : n < 4096) (ho : off < 0x40) :
    windowReg s .queues (0x1000 + 0x40 * n + off) = some (.queue n off) := by
  have h := queueReg_at (first := 0) hn ho
  rw [Nat.zero_add] at h
  exact h

theorem windowReg_vf {f : Nat} (hf : f ∈ s.vfs) :
    windowReg s (.vf f) 0 = some .dawn ∧ windowReg s (.vf f) 8 = some (.qleft f) ∧
    windowReg s (.vf f) 0x10 = some (.hap (some f)) ∧
    ∀ n < 4, ∀ off < 0x40, windowReg s (.vf f) (0x1000 + 0x40 * n + off) = some (.queue (4 * f + n) off) := by
  have hin : ¬ (!s.vfs.contains f) = true := by simpa using hf
  refine ⟨if_neg hin, if_neg hin, if_neg hin, fun n hn off ho => (if_neg hin).trans ?_⟩
  split
  · omega
  · omega
  · omega
  · exact queueReg_at hn ho

theorem windowReg_range {n r k : Nat} (hn : n < s.product.cores / 64) (hr : r < 16) (hk : k < 4) :
    windowReg s (.controller n) (0x100 + 0x20 * r + 8 * k) = some (.range n (0x100 + 0x20 * r + 8 * k)) :=
  if_pos (by omega)

/-! ### The words of registers -/

theorem fields_cons (k v : Nat) (l : List (Nat × Nat)) : fields ((k, v) :: l) = v * 2 ^ k + fields l := rfl
theorem fields_nil : fields [] = 0 := rfl
theorem byteFields_cons (k v : Nat) (l : List (Nat × Nat)) :
    byteFields ((k, v) :: l) = v * 256 ^ k + byteFields l := rfl
theorem byteFields_nil : byteFields [] = 0 := rfl

theorem toNat_eq_ite (b : Bool) : b.toNat = if b then 1 else 0 := by cases b <;> rfl

theorem dawnWord_eq (u : Hub) : dawnWord u = BitVec.ofNat 64 (u.retLanes.toNat * 2 ^ 32 + u.fcode.toNat * 2 ^ 8 +
    (if u.fail then 1 else 0) * 2 ^ 4 + (if u.devrdy then 1 else 0) * 2 ^ 3 +
    (match u.dawn with
      | .rom => 0 | .voxind => 1 | .trim => 2 | .meminit => 3 | .meter => 4 | .links => 5 | .ready => 6)) := by
  have hstate : u.dawn.code = match u.dawn with
      | .rom => 0 | .voxind => 1 | .trim => 2 | .meminit => 3 | .meter => 4 | .links => 5 | .ready => 6 := by
    cases u.dawn <;> rfl
  rw [dawnWord, word, ← hstate, ← toNat_eq_ite, ← toNat_eq_ite]
  simp only [fields_cons, fields_nil, pow_zero, Nat.mul_one, Nat.add_zero, Nat.add_assoc]

theorem lstatWord_eq (l : Link) : lstatWord l = BitVec.ofNat 64 (l.retry.toNat * 2 ^ 32 + l.trains.toNat * 2 ^ 16 +
    l.lanes * 2 ^ 8 +
    (match l.state with | .down => 0 | .train => 1 | .up => 2 | .degraded => 3 | .drain => 4)) := by
  have hstate : l.state.code =
      match l.state with | .down => 0 | .train => 1 | .up => 2 | .degraded => 3 | .drain => 4 := by
    cases l.state <;> rfl
  rw [lstatWord, word, ← hstate]
  simp only [fields_cons, fields_nil, pow_zero, Nat.mul_one, Nat.add_zero, Nat.add_assoc]

theorem qstatWord_eq (x : Queue) : qstatWord x = BitVec.ofNat 64 (x.dtail.toNat * 2 ^ 32 + x.asid % 65536 * 2 ^ 16 +
    (if x.ddone then 1 else 0) * 2 ^ 10 + (if x.err then 1 else 0) * 2 ^ 9 + (if x.ovf then 1 else 0) * 2 ^ 8 +
    (match x.state with | .empty => 0 | .bound => 1 | .running => 2 | .suspended => 3 | .draining => 4)) := by
  have hstate : x.state.code =
      match x.state with | .empty => 0 | .bound => 1 | .running => 2 | .suspended => 3 | .draining => 4 := by
    cases x.state <;> rfl
  rw [qstatWord, word, ← hstate, ← toNat_eq_ite, ← toNat_eq_ite, ← toNat_eq_ite]
  simp only [fields_cons, fields_nil, pow_zero, Nat.mul_one, Nat.add_zero, Nat.add_assoc]

theorem setWidth_eq_ofNat (x : BitVec 32) : x.setWidth 64 = BitVec.ofNat 64 x.toNat := by
  rw [BitVec.ofNat_toNat]

theorem qctlWord_eq (x : Queue) : word (fields [(1, x.drain.toNat), (0, x.susp.toNat)]) =
    BitVec.ofNat 64 ((if x.drain then 1 else 0) * 2 + (if x.susp then 1 else 0)) := by
  rw [word, ← toNat_eq_ite, ← toNat_eq_ite]
  simp only [fields_cons, fields_nil, pow_zero, pow_one, Nat.mul_one, Nat.add_zero]

theorem regWord_queue_early (hr : s.hub.devrdy = false) (n off : Nat) :
    regWord s (.queue n off) = some (BitVec.allOnes 64) := by
  simp [regWord, hr, ones64]

theorem regWord_queue (hr : s.hub.devrdy = true) (n off : Nat) :
    regWord s (.queue n off) = queueWord (s.queue n) off := by
  simp [regWord, hr]

/-! ### Format ranges -/

/-- The codes of the formats that a range can declare (R38). -/
theorem rangeFormat_ofCode : ∀ n < 32,
    ((ElemType.ofCode n).elim false rangeFormat = true ↔ n ∈ [11, 12, 13, 19, 20]) := by decide

/-- The words of a format-range register declare a range. -/
def RangeDeclared (r : Vector Word 4) : Prop :=
  ((vget r 2 0).toNat % 32 ∈ [11, 12, 13, 19, 20]) ∧ (vget r 2 0).toNat / 256 % 4 ≠ 0 ∧
    (vget r 0 0).toNat / 2 ^ 16 % 2 ^ 32 < (vget r 1 0).toNat / 2 ^ 16 % 2 ^ 32 ∧ (vget r 2 0).getLsbD 31 = true

theorem formatRange_isSome (r : Vector Word 4) : (formatRange r).isSome = true ↔ RangeDeclared r := by
  have hfmt := rangeFormat_ofCode ((vget r 2 0).toNat % 32) (Nat.mod_lt _ (by decide))
  have hcode : rangeField (vget r 2 0) 0 5 = (vget r 2 0).toNat % 32 := by simp [rangeField]
  have hgs : rangeField (vget r 2 0) 8 2 = (vget r 2 0).toNat / 256 % 4 := rfl
  rw [RangeDeclared, ← hfmt, formatRange, hcode, hgs]
  cases ElemType.ofCode ((vget r 2 0).toNat % 32) with
  | none => simp
  | some e =>
    have hlt : rangeField (vget r 0 0) 16 32 * 65536 < rangeField (vget r 1 0) 16 32 * 65536 ↔
        (vget r 0 0).toNat / 2 ^ 16 % 2 ^ 32 < (vget r 1 0).toNat / 2 ^ 16 % 2 ^ 32 :=
      Nat.mul_lt_mul_right (by decide)
    have hsome : ∀ (p : Prop) [Decidable p] (f : FormatRange), (if p then some f else none).isSome = true ↔ p :=
      fun p _ f => by by_cases p <;> simp [*]
    simp only [hsome, Option.elim, Bool.and_eq_true, bne_iff_ne, decide_eq_true_eq, hlt]
    tauto

theorem rangeWord_of_ne (r : Vector Word 4) {k : Nat} (hk : k ≠ 2) : rangeWord r k = vget r k 0 := by
  simp [rangeWord, hk]

theorem rangeWord_enabled (r : Vector Word 4) : (rangeWord r 2).getLsbD 31 = true ↔ RangeDeclared r := by
  rw [← formatRange_isSome]
  cases h : formatRange r with
  | none => simp [rangeWord, h]
  | some f =>
    have hd : RangeDeclared r := (formatRange_isSome r).mp (by rw [h]; rfl)
    simpa [rangeWord, h] using hd.2.2.2

theorem rangeWord_fields (r : Vector Word 4) : rangeWord r 2 &&& 0x7FFFFFFF = vget r 2 0 &&& 0x7FFFFFFF := by
  simp only [rangeWord]
  split
  · rw [BitVec.and_assoc, BitVec.and_self]
  · rfl

/-! ### The tables -/

/-- Byte `i` of a number, the lowest first (R3). -/
def byteAt (i v : Nat) : Byte := BitVec.ofNat 8 (v / 256 ^ i)

theorem physByte_context {asid i : Nat} {c : Context} (hrom : s.hub.dawn ≠ .rom) (hvox : s.hub.dawn ≠ .voxind)
    (ha : asid < 4096) (hi : i < 256) (hc : s.ctx? asid = some c) :
    physByte s (s.hub.ctxBase.toNat + 256 * asid + i) = byteAt i (contextBytes s c) := by
  have hrow : (s.hub.ctxBase.toNat + 256 * asid + i - s.hub.ctxBase.toNat) / 256 = asid := by omega
  have hcol : (s.hub.ctxBase.toNat + 256 * asid + i - s.hub.ctxBase.toNat) % 256 = i := by omega
  have hrec : contextRecordAt s asid = contextBytes s c := by rw [contextRecordAt, hc]; rfl
  rw [physByte, tableByte, if_neg (by simp [hrom, hvox]), if_pos (by simp only [contextCount]; omega), hrow, hcol, hrec,
    Option.getD_some, byteAt]

theorem physByte_group {id i : Nat} (hrom : s.hub.dawn ≠ .rom) (hvox : s.hub.dawn ≠ .voxind) (hid : id < 65536)
    (hi : i < 64) (hout : s.hub.grpBase.toNat + 64 * id + i < s.hub.ctxBase.toNat ∨
      s.hub.ctxBase.toNat + 256 * 4096 ≤ s.hub.grpBase.toNat + 64 * id + i) :
    physByte s (s.hub.grpBase.toNat + 64 * id + i) = byteAt i (groupBytes (s.group id)) := by
  have hrow : (s.hub.grpBase.toNat + 64 * id + i - s.hub.grpBase.toNat) / 64 = id := by omega
  have hcol : (s.hub.grpBase.toNat + 64 * id + i - s.hub.grpBase.toNat) % 64 = i := by omega
  rw [physByte, tableByte, if_neg (by simp [hrom, hvox]), if_neg (by simp only [contextCount]; omega),
    if_pos (by simp only [groupCount]; omega), hrow, hcol, Option.getD_some, byteAt]

/-! The sums of fields are stated for any offsets: with the offsets written out, the kernel would unfold products with
numbers such as `256 ^ 64`. -/

theorem byteFields_five (a₀ a₁ a₂ a₃ a₄ k₁ k₂ k₃ k₄ : Nat) :
    byteFields [(0, a₀), (k₁, a₁), (k₂, a₂), (k₃, a₃), (k₄, a₄)] =
      a₀ + a₁ * 256 ^ k₁ + a₂ * 256 ^ k₂ + a₃ * 256 ^ k₃ + a₄ * 256 ^ k₄ := by
  simp only [byteFields_cons, byteFields_nil, pow_zero, Nat.mul_one, Nat.add_zero, Nat.add_assoc]

theorem byteFields_seven (a₀ a₁ a₂ a₃ a₄ a₅ a₆ k₁ k₂ k₃ k₄ k₅ k₆ : Nat) :
    byteFields [(0, a₀), (k₁, a₁), (k₂, a₂), (k₃, a₃), (k₄, a₄), (k₅, a₅), (k₆, a₆)] =
      a₀ + a₁ * 256 ^ k₁ + a₂ * 256 ^ k₂ + a₃ * 256 ^ k₃ + a₄ * 256 ^ k₄ + a₅ * 256 ^ k₅ + a₆ * 256 ^ k₆ := by
  simp only [byteFields_cons, byteFields_nil, pow_zero, Nat.mul_one, Nat.add_zero, Nat.add_assoc]

theorem byteFields_eight (a₀ a₁ a₂ a₃ a₄ a₅ a₆ a₇ k₁ k₂ k₃ k₄ k₅ k₆ k₇ : Nat) :
    byteFields [(0, a₀), (k₁, a₁), (k₂, a₂), (k₃, a₃), (k₄, a₄), (k₅, a₅), (k₆, a₆), (k₇, a₇)] =
      a₀ + a₁ * 256 ^ k₁ + a₂ * 256 ^ k₂ + a₃ * 256 ^ k₃ + a₄ * 256 ^ k₄ + a₅ * 256 ^ k₅ + a₆ * 256 ^ k₆ +
        a₇ * 256 ^ k₇ := by
  simp only [byteFields_cons, byteFields_nil, pow_zero, Nat.mul_one, Nat.add_zero, Nat.add_assoc]

theorem fields_four (a₀ a₁ a₂ a₃ k₁ k₂ k₃ : Nat) :
    fields [(k₃, a₃), (k₂, a₂), (k₁, a₁), (0, a₀)] = a₃ * 2 ^ k₃ + a₂ * 2 ^ k₂ + a₁ * 2 ^ k₁ + a₀ := by
  simp only [fields_cons, fields_nil, pow_zero, Nat.mul_one, Nat.add_zero, Nat.add_assoc]

theorem contextBytes_eq (c : Context) : contextBytes s c =
    (hctxOf c).toNat + c.root * 256 ^ 8 + c.used % 2 ^ 64 * 256 ^ 0x10 + c.state.code * 256 ^ 0x18 +
      c.hcause.toNat * 256 ^ 0x19 + (s.hartsOf c.asid).length * 256 ^ 0x20 +
      ((s.hartsOf c.asid).filter (fun h => h.halted && h.saved)).length * 256 ^ 0x24 +
      (c.fault.cause.toWord.toNat + c.fault.tval.toNat * 256 ^ 8 + c.fault.epc.toNat * 256 ^ 0x10 +
        c.fault.qpos.toNat * 256 ^ 0x18 + c.fault.where_.toNat * 256 ^ 0x20 + c.fault.count.toNat * 256 ^ 0x24 +
        c.fault.launch.toNat * 256 ^ 0x28) * 256 ^ 0x40 :=
  (byteFields_eight ..).trans (congrArg (_ + · * _) (byteFields_seven ..))

theorem groupBytes_eq (g : Group) : groupBytes g =
    g.gen.toNat * 2 ^ 56 + g.nrank * 2 ^ 40 + g.asid * 2 ^ 16 +
      (match g.state with | .free => 0 | .open_ => 1 | .active => 2 | .aborting => 3 | .aborted => 4 | .draining => 5) +
      g.locals.toNat * 256 ^ 8 + g.joined.toNat * 256 ^ 0x10 + g.mapAt * 256 ^ 0x18 + g.drops.toNat * 256 ^ 0x24 := by
  have hstate : g.state.code =
      match g.state with
      | .free => 0 | .open_ => 1 | .active => 2 | .aborting => 3 | .aborted => 4 | .draining => 5 := by
    cases g.state <;> rfl
  rw [← hstate, ← fields_four]
  exact byteFields_five ..

end

/-- Settles O60, part by part: accesses, where registers lie, what they read as, format ranges, writes, the tables. -/
theorem registerWindowsReadAndWrite : Obligations.RegisterWindowsReadAndWrite := by
  intro s
  refine ⟨fun w off n hn => ⟨runTurn_busRead_width w off hn, fun v => runTurn_busWrite_width w off v hn⟩,
    fun w off r v => runTurn_busRead_reg, ?_, ?_, regWord_queue_early, fun hr n => ?_, fun r => ?_, ?_,
    fun hrom hvox => ⟨fun asid ha i hi c hc => ?_, fun id hid i hi hout => ?_⟩⟩
  · exact ⟨rfl, rfl, rfl, rfl, rfl, fun n => windowReg_link, fun n hn off => windowReg_queue hn, fun f => windowReg_vf,
      fun n hn r hr k => windowReg_range hn hr⟩
  · exact ⟨congrArg _ (dawnWord_eq _), rfl, rfl, rfl, rfl, fun n => congrArg _ (lstatWord_eq _), fun f => rfl⟩
  · have reads : ∀ {off : Nat} {v w : Word}, queueWord (s.queue n) off = some v → v = w →
        regWord s (.queue n off) = some w := fun hv e => (regWord_queue hr n _).trans (hv.trans (congrArg _ e))
    exact ⟨reads rfl rfl, reads rfl rfl, reads rfl (setWidth_eq_ofNat _), reads rfl (setWidth_eq_ofNat _),
      reads rfl (qctlWord_eq _), reads rfl (qstatWord_eq _)⟩
  · exact ⟨fun k => rangeWord_of_ne r, rangeWord_enabled r, rangeWord_fields r⟩
  · refine ⟨writes_of_busWrite ?_, writes_of_busWrite ?_, writes_of_busWrite ?_, readOnly_of_busWrite ?_,
      fun fn => writes_of_busWrite ?_, fun n => writes_of_busWrite ?_, fun f => writes_of_busWrite ?_,
      fun n off => writes_of_busWrite ?_, fun n => ⟨writes_of_busWrite ?_, writes_of_busWrite ?_, writes_of_busWrite ?_,
        readOnly_of_busWrite ?_, writes_of_busWrite ?_, runTurn_busWrite_qctl⟩⟩
    all_goals
      intro w off v hr
      simp [busWrite, hr]
  · exact (physByte_context hrom hvox ha hi hc).trans (congrArg (byteAt i) (contextBytes_eq c))
  · exact (physByte_group hrom hvox hid hi hout).trans (congrArg (byteAt i) (groupBytes_eq _))

end Sys2Proof.Machine
end

section
/-!
LAW. The machine at reset, the stages of Dawn and power-down: what each loses, what it sets, and what it tells the host
(R15, R196, R201, R204, R325, R326, R328, R331). Settles O57 and O58.
-/

namespace Sys2Proof.Machine

/-! ### Memory that loses part of its locations -/

theorem memByte_filter_rising (p : Nat → Bool) {m : Memory} : ∀ {n : Nat}, risingFrom n m = true → ∀ a,
    memByte (m.filter (fun c => p c.1)) a = if p a then memByte m a else unlisted := by
  induction m with
  | nil => intros; simp [memByte]
  | cons c m ih =>
    obtain ⟨k, b⟩ := c
    intro n h a
    simp only [risingFrom, Bool.and_eq_true, decide_eq_true_eq] at h
    obtain ⟨-, hm⟩ := h
    have below : a < k → memByte (m.filter (fun c => p c.1)) a = unlisted ∧ memByte m a = unlisted := fun ha =>
      ⟨memByte_below (rising_filter _ hm) (by omega), memByte_below hm (by omega)⟩
    have at_ : memByte (m.filter (fun c => p c.1)) k = unlisted := memByte_below (rising_filter _ hm) (by omega)
    rcases Nat.lt_trichotomy a k with hak | rfl | hak
    · cases hp : p k <;> simp [hp, memByte, hak, below hak]
    · cases hp : p a <;> simp [hp, memByte, at_]
    · cases hp : p k <;> simp [hp, memByte, ih hm, Nat.not_lt_of_gt hak, Nat.ne_of_gt hak]

/-- The locations that a test keeps read as before, and every other reads as unlisted. -/
theorem memByte_filter (p : Nat → Bool) {m : Memory} (h : m.wf = true) (a : Nat) :
    memByte (m.filter (fun c => p c.1)) a = if p a then memByte m a else 0 := memByte_filter_rising p h a

/-! ### Units of the cores -/

theorem core_core (s : State) (n : Nat) : (s.core n).core = n := by
  unfold State.core
  cases h : s.cores.find? (·.core == n) with
  | none => rfl
  | some u => simpa using List.find?_some h

theorem core_mapCore_same (s : State) {n : Nat} {f : CoreUnit → CoreUnit} (hf : (f (s.core n)).core = n) :
    (s.mapCore n f).core n = f (s.core n) := by
  rw [State.core, State.mapCore, List.find?_cons_of_pos (by simpa using hf), Option.getD_some]

theorem core_mapCore_other (s : State) {m n : Nat} {f : CoreUnit → CoreUnit} (hf : (f (s.core n)).core = n) (hm : m ≠ n) :
    (s.mapCore n f).core m = s.core m := by
  rw [State.core, State.mapCore, List.find?_cons_of_neg (by simpa [hf] using hm.symm), find?_filter_ne _ hm, ← State.core]

/-! ### The host is told -/

theorem mem_msix_raise (s : State) (fn : Option Nat) (v : Nat) : (fn, v) ∈ (s.raise fn v).msix := by
  unfold State.raise
  split
  · next h => simpa using h
  · simp

@[simp] theorem raise_hub (s : State) (fn : Option Nat) (v : Nat) : (s.raise fn v).hub = s.hub := by
  unfold State.raise
  split <;> rfl

@[simp] theorem raise_cores (s : State) (fn : Option Nat) (v : Nat) : (s.raise fn v).cores = s.cores := by
  unfold State.raise
  split <;> rfl

theorem core_failDawn (s : State) (code : BitVec 8) (c : Nat) : (failDawn s code).core c = s.core c := by
  simp [failDawn, State.core]

/-- Dawn has stopped: the host is told by vector 4 of the PF, and FAIL and the code are all that the hub shows of it. -/
theorem failDawn_effect (s : State) (code : BitVec 8) : (none, 4) ∈ (failDawn s code).msix ∧
    (failDawn s code).hub = { s.hub with fail := true, fcode := code } :=
  ⟨mem_msix_raise s none 4, by simp [failDawn]⟩

/-! ### All state lost -/

/-- The package's own state is gone, and what lies outside it still reads as before (R331; notes/assumptions/5). -/
def Lost (s t : State) : Prop :=
  t.harts = [] ∧ t.contexts = [] ∧ t.queues = [] ∧ t.l1 = [] ∧ t.l2 = [] ∧ t.hub.devrdy = false ∧
    (s.mem.wf = true → ∀ a, memByte t.mem a = if isFarLoc a || isPeerLoc a then memByte s.mem a else 0)

theorem lost_lostState (s : State) : Lost s (lostState s) :=
  ⟨rfl, rfl, rfl, rfl, rfl, rfl, memByte_filter (fun a => isFarLoc a || isPeerLoc a)⟩

/-! ### The lane map of TRIM (R196) -/

/-- The lane map of a core as TRIM gets it: one that is not listed has all its lanes. -/
def trimMap (l : List (Nat × BitVec 32)) (c : Nat) : BitVec 32 :=
  ((l.find? (fun x => x.1 == c)).map (fun x => x.2)).getD (BitVec.allOnes 32)

/-- A core takes its lane map, with all the lanes in service active. -/
def trimCore (map : Nat → BitVec 32) (s : State) (c : Nat) : State :=
  s.mapCore c (fun u => { u with lanemap := map c, active := fullLanes (map c) u.split })

theorem lanemap_trimCore (map : Nat → BitVec 32) (s : State) (c d : Nat) :
    ((trimCore map s d).core c).lanemap = if c = d then map c else (s.core c).lanemap := by
  split
  · next h => subst h; rw [trimCore, core_mapCore_same s (core_core s c)]
  · next h => rw [trimCore, core_mapCore_other s (core_core s d) h]

theorem lanemap_foldl_trimCore (map : Nat → BitVec 32) (c : Nat) (l : List Nat) : ∀ s : State,
    ((l.foldl (trimCore map) s).core c).lanemap = if c ∈ l then map c else (s.core c).lanemap := by
  induction l with
  | nil => intro s; simp
  | cons d l ih =>
    intro s
    rw [List.foldl_cons, ih, lanemap_trimCore]
    by_cases hl : c ∈ l <;> simp [hl]

/-- The cores of the product with their lane maps, and the lanes that are retired counted. -/
def trimmed (map : Nat → BitVec 32) (s : State) : State :=
  let t := (List.range s.product.cores).foldl (trimCore map) s
  { t with hub := { t.hub with
      retLanes := BitVec.ofNat 32 ((List.range s.product.cores).map (fun c => 32 - popCount 32 (map c).toNat)).sum } }

theorem lanemap_trimmed (map : Nat → BitVec 32) (s : State) {c : Nat} (hc : c < s.product.cores) :
    ((trimmed map s).core c).lanemap = map c :=
  (lanemap_foldl_trimCore map c _ s).trans (if_pos (List.mem_range.mpr hc))

/-! ### The stages, each in its own state of Dawn -/

theorem inDawn_iff {s : State} {x : DawnState} :
    inDawn s x = true ↔ s.hub.started = true ∧ s.hub.dawn = x ∧ s.hub.fail = false := by
  simp [inDawn, and_assoc]

/-- A stage whose state Dawn is in does what the stage does. -/
theorem stage_runs {s : State} {x : DawnState} (h : inDawn s x = true) (o : Outcome) :
    (if !inDawn s x then .next s else o) = o := if_neg (by simp [h])

section
variable {s : State}

theorem exec_dawnRom (h : inDawn s .rom = true) (ok : Bool) :
    exec (.dawnRom ok) s = if ok then .next (setDawn s .voxind) else .next (failDawn s 0) := stage_runs h _

theorem exec_dawnVoxind (h : inDawn s .voxind = true) (c g : Word) : exec (.dawnVoxind c g) s = .next { s with
    noon := Vector.ofFn (fun (i : Fin 32) => if i.val < s.product.clusters then baseBudget else 0),
    hub := { s.hub with dawn := .trim, ctxBase := c &&& 0x0000FFFFFFF00000, grpBase := g &&& 0x0000FFFFFFC00000 } } :=
  stage_runs h _

theorem exec_dawnTrim (h : inDawn s .trim = true) (l : List (Nat × BitVec 32)) : exec (.dawnTrim l) s =
    if (List.range s.product.cores).any (fun c => deadSlot (trimMap l c)) then .next (failDawn (trimmed (trimMap l) s) 2)
    else .next (setDawn (trimmed (trimMap l) s) .meminit) := stage_runs h _

theorem exec_dawnMeminit_failed (h : inDawn s .meminit = true) : exec (.dawnMeminit false) s = .next (failDawn s 3) :=
  stage_runs h _

theorem exec_dawnMeminit (h : inDawn s .meminit = true) : exec (.dawnMeminit true) s = .next (setDawn { s with
    mem := s.mem.filter (fun c => (columnOf s.product c.1).isNone),
    poison := s.poison.filter (fun l => (columnOf s.product (128 * l)).isNone) } .meter) := stage_runs h _

theorem exec_dawnMeter (h : inDawn s .meter = true) (ok : Bool) : exec (.dawnMeter ok) s =
    if ok then .next (setDawn { s with timeZero := s.clock, meter := some (s.clock + meterCycles) } .links)
    else .next (failDawn s 4) := stage_runs h _

theorem exec_dawnLinks (h : inDawn s .links = true) (hl : ∀ l ∈ s.links.toList, l.state ≠ .train)
    (hq : ∀ q ∈ s.queues, q.state = .empty) : exec .dawnLinks s =
    .next { s.raise none 4 with hub := { (s.raise none 4).hub with dawn := .ready, devrdy := true } } :=
  if_pos (by
    have hlinks : s.links.toList.all (fun l => l.state != .train) = true :=
      List.all_eq_true.mpr fun l hm => bne_iff_ne.mpr (hl l hm)
    have hqueues : s.queues.all (fun q => q.state == .empty) = true :=
      List.all_eq_true.mpr fun q hm => beq_iff_eq.mpr (hq q hm)
    rw [h, hlinks, hqueues]
    rfl)

theorem noon_ofFn {n b : Nat} (hn : n ≤ 32) {i : Nat} (hi : i < n) :
    vget (Vector.ofFn (fun (i : Fin 32) => if i.val < n then b else 0)) i 0 = b := by
  simp [vget, hi, Nat.lt_of_lt_of_le hi hn]

theorem clusters_le (p : Product) : p.clusters ≤ 32 := by cases p <;> decide

theorem dawnTrim_effect (h : inDawn s .trim = true) (l : List (Nat × BitVec 32)) :
    ∃ t, exec (.dawnTrim l) s = .next t ∧ (∀ c < s.product.cores, (t.core c).lanemap = trimMap l c) ∧
      (if ∃ c, c < s.product.cores ∧ deadSlot (trimMap l c) = true then t.hub.fail = true ∧ t.hub.fcode = 2
      else t.hub.dawn = .meminit) := by
  have hany : (List.range s.product.cores).any (fun c => deadSlot (trimMap l c)) = true ↔
      ∃ c, c < s.product.cores ∧ deadSlot (trimMap l c) = true := by simp
  by_cases hdead : ∃ c, c < s.product.cores ∧ deadSlot (trimMap l c) = true
  · refine ⟨_, (exec_dawnTrim h l).trans (if_pos (hany.mpr hdead)), fun c hc => ?_, ?_⟩
    · rw [core_failDawn, lanemap_trimmed _ s hc]
    · rw [if_pos hdead]
      exact ⟨rfl, rfl⟩
  · refine ⟨_, (exec_dawnTrim h l).trans (if_neg (mt hany.mp hdead)), fun c hc => lanemap_trimmed _ s hc, ?_⟩
    rw [if_neg hdead]
    rfl

end

/-- Settles O57: power-down by what is lost, and each stage of Dawn by its lemma. -/
theorem dawnBringsTheDeviceUp : Obligations.DawnBringsTheDeviceUp := by
  intro s
  refine ⟨⟨_, rfl, lost_lostState s, rfl, rfl⟩, ⟨_, rfl, lost_lostState s, rfl, rfl⟩, fun h => ?_, fun h c g => ?_,
    fun h l => ?_, fun h => ?_, fun h => ?_, fun h hl hq => ?_⟩
  all_goals have hd := inDawn_iff.mpr h
  · exact ⟨exec_dawnRom hd true, _, exec_dawnRom hd false, failDawn_effect s 0⟩
  · exact ⟨_, exec_dawnVoxind hd c g, rfl, fun i hi => noon_ofFn (clusters_le _) hi⟩
  · exact dawnTrim_effect hd l
  · refine ⟨⟨_, exec_dawnMeminit_failed hd, failDawn_effect s 3⟩, _, exec_dawnMeminit hd, rfl, fun hwf a => ?_⟩
    refine (memByte_filter (fun a => (columnOf s.product a).isNone) hwf a).trans (if_congr ?_ rfl rfl)
    exact Option.isNone_iff_eq_none
  · exact ⟨⟨_, exec_dawnMeter hd false, failDawn_effect s 4⟩, exec_dawnMeter hd true⟩
  · refine ⟨_, exec_dawnLinks hd hl hq, mem_msix_raise s none 4, ?_⟩
    rw [raise_hub]

/-! ### Reset -/

theorem link_reset (n : Nat) : (State.reset.link n).state = .down := by
  have h : State.reset.link n = {} :=
    (List.getD_eq_getElem?_getD ..).trans (List.getElem?_getD_replicate_default_eq ({} : Link) 24 n)
  rw [h]

/-- Settles O58: reset is the state of defaults. -/
theorem resetLeavesNothingRunning : Obligations.ResetLeavesNothingRunning :=
  ⟨rfl, rfl, rfl, rfl, rfl, rfl, rfl, rfl, rfl, fun _ => rfl, fun _ => ⟨rfl, rfl, rfl, rfl, rfl⟩, link_reset, fun _ => rfl,
    rfl, rfl, rfl, rfl⟩

end Sys2Proof.Machine
end

section
/-!
LAW. A side's turn: the word at its program counter is run, and a word that retires is left behind (R9, R12, R16, R17,
R21, R63, R76). Settles O4.
-/

namespace Sys2Proof.Machine

/-! ### Caches within their sizes -/

/-- Caches within their sizes lose no line. -/
theorem fitCaches_of_fit {u : State} (h1 : ∀ core, (u.l1.filter (fun (y : L1Line) => y.core == core)).length ≤ l1Lines)
    (h2 : ∀ x, (inSlice u x).length ≤ sliceLines) : fitCaches u = u := by
  have hl1 : ∀ l : List Nat,
      l.foldl (fun t c => shedL1 c ((u.l1.filter (fun (y : L1Line) => y.core == c)).length - l1Lines) t) u = u :=
    List.foldl_fixed' fun c => by simp only [Nat.sub_eq_zero_of_le (h1 c), shedL1]
  have hl2 : ∀ l : List (Nat × Nat), l.foldl (fun t x => shedL2 x ((inSlice u x).length - sliceLines) t) u = u :=
    List.foldl_fixed' fun x => by simp only [Nat.sub_eq_zero_of_le (h2 x), shedL2]
  simp only [fitCaches, hl1, ite_self, hl2]

/-! ### The turn of a side -/

theorem takeEngineFault_nil {s : State} (h : s.hart.tl.faults = []) : takeEngineFault s = none := by
  rw [takeEngineFault, h]

/-- The scalar side with a word to issue, and nothing due in its place, goes on to the word. -/
theorem beginSide_scalar {f : State} (hfree : frozenOut f = false) (hmay : mayIssue f.hart .scalar = true)
    (hint : dueInterrupt f.hart = none) (hfault : mayIssue f.hart .vector = true → f.hart.tl.faults = []) :
    beginSide f .scalar none = .word (beginIssue f .scalar none) := by
  have hnone : (if mayIssue f.hart .vector then takeEngineFault (beginIssue f .scalar none) else none) = none := by
    split
    · next h => exact takeEngineFault_nil (hfault h)
    · rfl
  have hhart : (beginIssue f .scalar none).hart = f.hart := rfl
  simp only [beginSide, hfree, hmay, hhart, hint, hnone, ite_self, Bool.not_true, Bool.false_eq_true, if_false]

/-- The vector side with a word to issue and no engine fault due goes on to the word where the sequencer serves the
hart. -/
theorem beginSide_vector {f g : State} (hfree : frozenOut f = false) (hmay : mayIssue f.hart .vector = true)
    (hfault : f.hart.tl.faults = []) (hseq : sequence (beginIssue f .vector none) = some g) :
    beginSide f .vector none = .word g := by
  have hnone : takeEngineFault (beginIssue f .vector none) = none := takeEngineFault_nil hfault
  simp only [beginSide, hfree, hmay, hnone, hseq, Bool.not_true, Bool.false_eq_true, if_false]

/-- The turn of the agenda, where nothing is due before it. -/
theorem step_side {s f : State} {p : Place} {sd : Side} {rest : List Turn} (hag : s.agenda = .side p sd :: rest)
    (hdue : dueBefore { s with agenda := rest } (.side p sd) = none)
    (hfocus : State.focus { s with agenda := rest } p = some f) : step s = settled (runSide f sd none) := by
  have hturn : nextTurn s = (.side p sd, { s with agenda := rest }) := by rw [nextTurn, hag]
  simp only [step, hturn, hdue, runTurn, runPlace, hfocus]

theorem runFetched_decoded {g t : State} {w : BitVec 32} {x : Decoded} (hfetch : fetchWord g = .ok (w, t))
    (hdec : decode w = .ok x) : runFetched g = exec x.instr (holdWord t w) := by
  simp only [runFetched, hfetch, hdec]

/-- Once its word has been run, a side's turn is over: a trap of the scalar side stands behind one of the vector side. -/
theorem runSide_next {f g v : State} {sd : Side} (h : beginSide f sd none = .word g) (ho : runFetched g = .next v) :
    runSide f sd none = .next (if v.issue.trapped && sd == .scalar then trapOrder g v else v) := by
  simp only [runSide, h, ho]

/-- A word that does not trap, a word of the vector side, and a trap with none of the vector side before it stand. -/
theorem runSide_stands {f g : State} {sd : Side} {o : Outcome} (h : beginSide f sd none = .word g) (ho : runFetched g = o)
    (hs : sd = .vector ∨ ¬ (∃ v, o = .next v ∧ v.issue.trapped = true) ∨ vectorTrap g = none) :
    runSide f sd none = o := by
  cases o with
  | next v =>
    rw [runSide_next h ho]
    rcases hs with rfl | hs | hs
    · simp
    · have hv : v.issue.trapped = false := by simpa using hs
      simp [hv]
    · simp [trapOrder, hs]
  | fault _ => simp only [runSide, h, ho]
  | refused _ => simp only [runSide, h, ho]

/-- A trap of a scalar-side word gives way to one of the vector side in the same cycle. -/
theorem runSide_behind {f g u v : State} (h : beginSide f .scalar none = .word g) (ho : runFetched g = .next u)
    (htrap : u.issue.trapped = true) (hv : vectorTrap g = some v) : runSide f .scalar none = .next v := by
  rw [runSide_next h ho]
  simp [htrap, trapOrder, hv]

theorem sideTurn_runsWord : turnRunsTheDecodedWord := by
  refine ⟨fun s f g t p sd rest w x hag hdue hfocus hfree hmay hint hfault hgs hgv hfetch hdec => ?_, fun u h1 h2 => ?_⟩
  · have hbegin : beginSide f sd none = .word g := by
      cases sd with
      | scalar => rw [hgs rfl]; exact beginSide_scalar hfree hmay (hint rfl) hfault
      | vector => exact beginSide_vector hfree hmay (hfault hmay) (hgv rfl)
    have hrun := runFetched_decoded hfetch hdec
    have hstep := step_side hag hdue hfocus
    refine ⟨fun hs => hstep.trans (congrArg settled (runSide_stands hbegin hrun hs)), ?_⟩
    rintro v rfl ⟨u, hu, htrap⟩ hv
    exact hstep.trans (congrArg settled (runSide_behind hbegin (hrun.trans hu) htrap hv))
  · exact congrArg Host.Outcome.next (fitCaches_of_fit h1 fun x => h2 x.1 x.2)

/-! ### Retirement -/

theorem regAddr_toNat (a : Word) : (regAddr 0 a).toNat = a.toNat % 2 ^ 56 := by
  rw [regAddr, BitVec.toNat_and]
  exact Nat.and_two_pow_sub_one_eq_mod a.toNat 56

theorem retire_movesOn : retirementMovesToTheNextWord := by
  intro s
  refine ⟨fun h => ?_, fun h => ?_, retire_mem s, retire_parked s⟩
  · rw [retire, retireTo_scalar s _ h, pcOf, h]
    exact ⟨rfl, rfl, rfl, rfl⟩
  · rw [retire, retireTo_vector s _ h, pcOf, h]
    refine ⟨rfl, rfl, rfl, rfl, fun hp => ?_, fun hp => ?_⟩
    · simp [hp]
    · simp [hp, regAddr_toNat]

/-- Settles O4: a side's turn, and retirement. -/
theorem stepRunsTheDecodedWord : Obligations.StepRunsTheDecodedWord := ⟨sideTurn_runsWord, retire_movesOn⟩

end Sys2Proof.Machine
end

section
/-!
LAW. Words and their instructions: encoder and decoder agree, and the words that may not run trap (R16 to R24, R77).
Settles O1, O2, O3 and O5.
-/

namespace Sys2Proof

open Machine

/-! ### From an instruction to its word and back -/

theorem Laws.roundTrip (i : Instr) : Laws.RoundTrip.Statement i := by
  cases i with
  | nop => exact Laws.RoundTrip.nop
  | eret => exact Laws.RoundTrip.eret
  | wait d a => exact Laws.RoundTrip.wait d a
  | brk => exact Laws.RoundTrip.brk
  | yield => exact Laws.RoundTrip.yield
  | fencei => exact Laws.RoundTrip.fencei
  | dusk => exact Laws.RoundTrip.dusk
  | dawn => exact Laws.RoundTrip.dawn
  | trap n => exact Laws.RoundTrip.trap n
  | add d a b => exact Laws.RoundTrip.add d a b
  | sub d a b => exact Laws.RoundTrip.sub d a b
  | and d a b => exact Laws.RoundTrip.and d a b
  | or d a b => exact Laws.RoundTrip.or d a b
  | xor d a b => exact Laws.RoundTrip.xor d a b
  | andn d a b => exact Laws.RoundTrip.andn d a b
  | shl d a b => exact Laws.RoundTrip.shl d a b
  | shr d a b => exact Laws.RoundTrip.shr d a b
  | sra d a b => exact Laws.RoundTrip.sra d a b
  | mul d a b => exact Laws.RoundTrip.mul d a b
  | mulh d a b => exact Laws.RoundTrip.mulh d a b
  | mulhn d a b => exact Laws.RoundTrip.mulhn d a b
  | div d a b => exact Laws.RoundTrip.div d a b
  | divn d a b => exact Laws.RoundTrip.divn d a b
  | rem d a b => exact Laws.RoundTrip.rem d a b
  | remn d a b => exact Laws.RoundTrip.remn d a b
  | slt d a b => exact Laws.RoundTrip.slt d a b
  | sltn d a b => exact Laws.RoundTrip.sltn d a b
  | min d a b => exact Laws.RoundTrip.min d a b
  | max d a b => exact Laws.RoundTrip.max d a b
  | minn d a b => exact Laws.RoundTrip.minn d a b
  | maxn d a b => exact Laws.RoundTrip.maxn d a b
  | clz d a => exact Laws.RoundTrip.clz d a
  | ctz d a => exact Laws.RoundTrip.ctz d a
  | popc d a => exact Laws.RoundTrip.popc d a
  | rotl d a b => exact Laws.RoundTrip.rotl d a b
  | sel d a b => exact Laws.RoundTrip.sel d a b
  | addi d a i => exact Laws.RoundTrip.addi d a i
  | andi d a i => exact Laws.RoundTrip.andi d a i
  | ori d a i => exact Laws.RoundTrip.ori d a i
  | xori d a i => exact Laws.RoundTrip.xori d a i
  | shli d a i => exact Laws.RoundTrip.shli d a i
  | shri d a i => exact Laws.RoundTrip.shri d a i
  | srai d a i => exact Laws.RoundTrip.srai d a i
  | slti d a i => exact Laws.RoundTrip.slti d a i
  | lis d i => exact Laws.RoundTrip.lis d i
  | shim d i => exact Laws.RoundTrip.shim d i
  | beqz a o => exact Laws.RoundTrip.beqz a o
  | bnez a o => exact Laws.RoundTrip.bnez a o
  | bltz a o => exact Laws.RoundTrip.bltz a o
  | bgez a o => exact Laws.RoundTrip.bgez a o
  | bgtz a o => exact Laws.RoundTrip.bgtz a o
  | blez a o => exact Laws.RoundTrip.blez a o
  | jmp o => exact Laws.RoundTrip.jmp o
  | call o => exact Laws.RoundTrip.call o
  | jr a => exact Laws.RoundTrip.jr a
  | callr a => exact Laws.RoundTrip.callr a
  | ret => exact Laws.RoundTrip.ret
  | ldB d a i => exact Laws.RoundTrip.ldB d a i
  | ldBn d a i => exact Laws.RoundTrip.ldBn d a i
  | ldH d a i => exact Laws.RoundTrip.ldH d a i
  | ldHn d a i => exact Laws.RoundTrip.ldHn d a i
  | ldW d a i => exact Laws.RoundTrip.ldW d a i
  | ldWn d a i => exact Laws.RoundTrip.ldWn d a i
  | ldD d a i => exact Laws.RoundTrip.ldD d a i
  | stB d a i => exact Laws.RoundTrip.stB d a i
  | stH d a i => exact Laws.RoundTrip.stH d a i
  | stW d a i => exact Laws.RoundTrip.stW d a i
  | stD d a i => exact Laws.RoundTrip.stD d a i
  | amoAdd d a b c => exact Laws.RoundTrip.amoAdd d a b c
  | amoAnd d a b c => exact Laws.RoundTrip.amoAnd d a b c
  | amoOr d a b c => exact Laws.RoundTrip.amoOr d a b c
  | amoXor d a b c => exact Laws.RoundTrip.amoXor d a b c
  | amoMin d a b c => exact Laws.RoundTrip.amoMin d a b c
  | amoMax d a b c => exact Laws.RoundTrip.amoMax d a b c
  | amoSwap d a b c => exact Laws.RoundTrip.amoSwap d a b c
  | amoCas d a b c => exact Laws.RoundTrip.amoCas d a b c
  | amoFadd d a b c => exact Laws.RoundTrip.amoFadd d a b c
  | acq a => exact Laws.RoundTrip.acq a
  | rel a => exact Laws.RoundTrip.rel a
  | bind d a b => exact Laws.RoundTrip.bind d a b
  | unbind a b => exact Laws.RoundTrip.unbind a b
  | fence c => exact Laws.RoundTrip.fence c
  | fenceV c => exact Laws.RoundTrip.fenceV c
  | csrx d a x => exact Laws.RoundTrip.csrx d a x
  | csrs d a x => exact Laws.RoundTrip.csrs d a x
  | vdisp d a b => exact Laws.RoundTrip.vdisp d a b
  | vdrain d => exact Laws.RoundTrip.vdrain d
  | vqcnt d => exact Laws.RoundTrip.vqcnt d
  | rqpop d => exact Laws.RoundTrip.rqpop d
  | rqpeek d => exact Laws.RoundTrip.rqpeek d
  | rqcnt d => exact Laws.RoundTrip.rqcnt d
  | launch d a => exact Laws.RoundTrip.launch d a
  | launchg d a => exact Laws.RoundTrip.launchg d a
  | csig d a b => exact Laws.RoundTrip.csig d a b
  | cancel a => exact Laws.RoundTrip.cancel a
  | cread d a => exact Laws.RoundTrip.cread d a
  | binit d a b c => exact Laws.RoundTrip.binit d a b c
  | barrive d a c => exact Laws.RoundTrip.barrive d a c
  | bwait d a b c => exact Laws.RoundTrip.bwait d a b c
  | barw d a c => exact Laws.RoundTrip.barw d a c
  | btest d a b c => exact Laws.RoundTrip.btest d a b c
  | snapBegin d a b => exact Laws.RoundTrip.snapBegin d a b
  | snapAccept a => exact Laws.RoundTrip.snapAccept a
  | snapReject a => exact Laws.RoundTrip.snapReject a
  | snapQuery d a => exact Laws.RoundTrip.snapQuery d a
  | snapPool d a b => exact Laws.RoundTrip.snapPool d a b
  | wqOpen d a => exact Laws.RoundTrip.wqOpen d a
  | wqRun a => exact Laws.RoundTrip.wqRun a
  | wqPoll d a => exact Laws.RoundTrip.wqPoll d a
  | wqResult d a => exact Laws.RoundTrip.wqResult d a
  | wqClose a => exact Laws.RoundTrip.wqClose a
  | vadd d a b m => exact Laws.RoundTrip.vadd d a b m
  | vsub d a b m => exact Laws.RoundTrip.vsub d a b m
  | vmul d a b m => exact Laws.RoundTrip.vmul d a b m
  | vmulh d a b m => exact Laws.RoundTrip.vmulh d a b m
  | vmulhn d a b m => exact Laws.RoundTrip.vmulhn d a b m
  | vmin d a b m => exact Laws.RoundTrip.vmin d a b m
  | vmax d a b m => exact Laws.RoundTrip.vmax d a b m
  | vminn d a b m => exact Laws.RoundTrip.vminn d a b m
  | vmaxn d a b m => exact Laws.RoundTrip.vmaxn d a b m
  | vand d a b m => exact Laws.RoundTrip.vand d a b m
  | vor d a b m => exact Laws.RoundTrip.vor d a b m
  | vxor d a b m => exact Laws.RoundTrip.vxor d a b m
  | vandn d a b m => exact Laws.RoundTrip.vandn d a b m
  | vshl d a b m => exact Laws.RoundTrip.vshl d a b m
  | vshr d a b m => exact Laws.RoundTrip.vshr d a b m
  | vsra d a b m => exact Laws.RoundTrip.vsra d a b m
  | vintsVadd d a b m => exact Laws.RoundTrip.vintsVadd d a b m
  | vintsVsub d a b m => exact Laws.RoundTrip.vintsVsub d a b m
  | vintsVmul d a b m => exact Laws.RoundTrip.vintsVmul d a b m
  | vintsVmulh d a b m => exact Laws.RoundTrip.vintsVmulh d a b m
  | vintsVmulhn d a b m => exact Laws.RoundTrip.vintsVmulhn d a b m
  | vintsVmin d a b m => exact Laws.RoundTrip.vintsVmin d a b m
  | vintsVmax d a b m => exact Laws.RoundTrip.vintsVmax d a b m
  | vintsVminn d a b m => exact Laws.RoundTrip.vintsVminn d a b m
  | vintsVmaxn d a b m => exact Laws.RoundTrip.vintsVmaxn d a b m
  | vintsVand d a b m => exact Laws.RoundTrip.vintsVand d a b m
  | vintsVor d a b m => exact Laws.RoundTrip.vintsVor d a b m
  | vintsVxor d a b m => exact Laws.RoundTrip.vintsVxor d a b m
  | vintsVandn d a b m => exact Laws.RoundTrip.vintsVandn d a b m
  | vintsVshl d a b m => exact Laws.RoundTrip.vintsVshl d a b m
  | vintsVshr d a b m => exact Laws.RoundTrip.vintsVshr d a b m
  | vintsVsra d a b m => exact Laws.RoundTrip.vintsVsra d a b m
  | vfadd d a b m => exact Laws.RoundTrip.vfadd d a b m
  | vfsub d a b m => exact Laws.RoundTrip.vfsub d a b m
  | vfmul d a b m => exact Laws.RoundTrip.vfmul d a b m
  | vfdiv d a b m => exact Laws.RoundTrip.vfdiv d a b m
  | vfmin d a b m => exact Laws.RoundTrip.vfmin d a b m
  | vfmax d a b m => exact Laws.RoundTrip.vfmax d a b m
  | vfsqrt d a m => exact Laws.RoundTrip.vfsqrt d a m
  | vfabs d a m => exact Laws.RoundTrip.vfabs d a m
  | vfneg d a m => exact Laws.RoundTrip.vfneg d a m
  | vadds d a b m => exact Laws.RoundTrip.vadds d a b m
  | vsubs d a b m => exact Laws.RoundTrip.vsubs d a b m
  | vfltsVfadd d a b m => exact Laws.RoundTrip.vfltsVfadd d a b m
  | vfltsVfsub d a b m => exact Laws.RoundTrip.vfltsVfsub d a b m
  | vfltsVfmul d a b m => exact Laws.RoundTrip.vfltsVfmul d a b m
  | vfltsVfdiv d a b m => exact Laws.RoundTrip.vfltsVfdiv d a b m
  | vfltsVfmin d a b m => exact Laws.RoundTrip.vfltsVfmin d a b m
  | vfltsVfmax d a b m => exact Laws.RoundTrip.vfltsVfmax d a b m
  | vfma d a b m => exact Laws.RoundTrip.vfma d a b m
  | vfms d a b m => exact Laws.RoundTrip.vfms d a b m
  | vfnma d a b m => exact Laws.RoundTrip.vfnma d a b m
  | vfnms d a b m => exact Laws.RoundTrip.vfnms d a b m
  | vmac d a b m => exact Laws.RoundTrip.vmac d a b m
  | vdot4 d a b m => exact Laws.RoundTrip.vdot4 d a b m
  | vdot2 d a b m => exact Laws.RoundTrip.vdot2 d a b m
  | vfshl d a b k => exact Laws.RoundTrip.vfshl d a b k
  | vfshr d a b k => exact Laws.RoundTrip.vfshr d a b k
  | log3Low d a b t => exact Laws.RoundTrip.log3Low d a b t
  | log3High d a b t => exact Laws.RoundTrip.log3High d a b t
  | vslup d a b m => exact Laws.RoundTrip.vslup d a b m
  | vsldn d a b m => exact Laws.RoundTrip.vsldn d a b m
  | vgath d a b m => exact Laws.RoundTrip.vgath d a b m
  | vpush d a b m => exact Laws.RoundTrip.vpush d a b m
  | vcmpr d a m => exact Laws.RoundTrip.vcmpr d a m
  | vexpd d a m => exact Laws.RoundTrip.vexpd d a m
  | vbcst d b m => exact Laws.RoundTrip.vbcst d b m
  | vext d a b => exact Laws.RoundTrip.vext d a b
  | vid d m => exact Laws.RoundTrip.vid d m
  | viota d a m => exact Laws.RoundTrip.viota d a m
  | vrsum d a m => exact Laws.RoundTrip.vrsum d a m
  | vrmax d a m => exact Laws.RoundTrip.vrmax d a m
  | vrmin d a m => exact Laws.RoundTrip.vrmin d a m
  | vrand d a m => exact Laws.RoundTrip.vrand d a m
  | vror d a m => exact Laws.RoundTrip.vror d a m
  | vrxor d a m => exact Laws.RoundTrip.vrxor d a m
  | vfrsum d a m => exact Laws.RoundTrip.vfrsum d a m
  | vfrmax d a m => exact Laws.RoundTrip.vfrmax d a m
  | vfrmin d a m => exact Laws.RoundTrip.vfrmin d a m
  | cvtN d a k m => exact Laws.RoundTrip.cvtN d a k m
  | cvtW d a k m => exact Laws.RoundTrip.cvtW d a k m
  | cvtFi d a k m => exact Laws.RoundTrip.cvtFi d a k m
  | cvtIf d a k m => exact Laws.RoundTrip.cvtIf d a k m
  | cvtF4 d a m => exact Laws.RoundTrip.cvtF4 d a m
  | cvtQ d a b m => exact Laws.RoundTrip.cvtQ d a b m
  | vexp2 d a m => exact Laws.RoundTrip.vexp2 d a m
  | vlog2 d a m => exact Laws.RoundTrip.vlog2 d a m
  | vrcp d a m => exact Laws.RoundTrip.vrcp d a m
  | vrsq d a m => exact Laws.RoundTrip.vrsq d a m
  | vtanh d a m => exact Laws.RoundTrip.vtanh d a m
  | vsmax d a b m => exact Laws.RoundTrip.vsmax d a b m
  | vceq d a b m => exact Laws.RoundTrip.vceq d a b m
  | vcne d a b m => exact Laws.RoundTrip.vcne d a b m
  | vclt d a b m => exact Laws.RoundTrip.vclt d a b m
  | vcle d a b m => exact Laws.RoundTrip.vcle d a b m
  | vcltn d a b m => exact Laws.RoundTrip.vcltn d a b m
  | vclen d a b m => exact Laws.RoundTrip.vclen d a b m
  | vfceq d a b m => exact Laws.RoundTrip.vfceq d a b m
  | vfclt d a b m => exact Laws.RoundTrip.vfclt d a b m
  | vfcle d a b m => exact Laws.RoundTrip.vfcle d a b m
  | vfcun d a b m => exact Laws.RoundTrip.vfcun d a b m
  | vcmpsVceq d a b m => exact Laws.RoundTrip.vcmpsVceq d a b m
  | vcmpsVcne d a b m => exact Laws.RoundTrip.vcmpsVcne d a b m
  | vcmpsVclt d a b m => exact Laws.RoundTrip.vcmpsVclt d a b m
  | vcmpsVcle d a b m => exact Laws.RoundTrip.vcmpsVcle d a b m
  | vcmpsVcltn d a b m => exact Laws.RoundTrip.vcmpsVcltn d a b m
  | vcmpsVclen d a b m => exact Laws.RoundTrip.vcmpsVclen d a b m
  | vcmpsVfceq d a b m => exact Laws.RoundTrip.vcmpsVfceq d a b m
  | vcmpsVfclt d a b m => exact Laws.RoundTrip.vcmpsVfclt d a b m
  | vcmpsVfcle d a b m => exact Laws.RoundTrip.vcmpsVfcle d a b m
  | vcmpsVfcun d a b m => exact Laws.RoundTrip.vcmpsVfcun d a b m
  | mand d a b => exact Laws.RoundTrip.mand d a b
  | mor d a b => exact Laws.RoundTrip.mor d a b
  | mxor d a b => exact Laws.RoundTrip.mxor d a b
  | mandn d a b => exact Laws.RoundTrip.mandn d a b
  | mnot d a => exact Laws.RoundTrip.mnot d a
  | mset d => exact Laws.RoundTrip.mset d
  | mclr d => exact Laws.RoundTrip.mclr d
  | mfirst d a => exact Laws.RoundTrip.mfirst d a
  | mpopc d a => exact Laws.RoundTrip.mpopc d a
  | vmerge d a b m => exact Laws.RoundTrip.vmerge d a b m
  | vsetl d a => exact Laws.RoundTrip.vsetl d a
  | vsett d a => exact Laws.RoundTrip.vsett d a
  | vend => exact Laws.RoundTrip.vend
  | vreply a => exact Laws.RoundTrip.vreply a
  | vreplym a => exact Laws.RoundTrip.vreplym a
  | vjoin => exact Laws.RoundTrip.vjoin
  | vlcset d a => exact Laws.RoundTrip.vlcset d a
  | valc d => exact Laws.RoundTrip.valc d
  | vbany a o => exact Laws.RoundTrip.vbany a o
  | vbnone a o => exact Laws.RoundTrip.vbnone a o
  | vbdiv a o => exact Laws.RoundTrip.vbdiv a o
  | vlcnz a o => exact Laws.RoundTrip.vlcnz a o
  | vloop a o => exact Laws.RoundTrip.vloop a o
  | vjmp o => exact Laws.RoundTrip.vjmp o
  | vld d a m => exact Laws.RoundTrip.vld d a m
  | vldx d a b m => exact Laws.RoundTrip.vldx d a b m
  | vldl d a m => exact Laws.RoundTrip.vldl d a m
  | vst d a m => exact Laws.RoundTrip.vst d a m
  | vstx d a b m => exact Laws.RoundTrip.vstx d a b m
  | vstl d a m => exact Laws.RoundTrip.vstl d a m
  | vsta d a b m => exact Laws.RoundTrip.vsta d a b m
  | qset d a => exact Laws.RoundTrip.qset d a
  | qadv d a => exact Laws.RoundTrip.qadv d a
  | qpos d a => exact Laws.RoundTrip.qpos d a
  | qrel d => exact Laws.RoundTrip.qrel d
  | hbind d a b => exact Laws.RoundTrip.hbind d a b
  | hunbind d a b => exact Laws.RoundTrip.hunbind d a b
  | hperm d a b => exact Laws.RoundTrip.hperm d a b
  | hpermn d a b => exact Laws.RoundTrip.hpermn d a b
  | hbacc d a b => exact Laws.RoundTrip.hbacc d a b
  | hbth d a b => exact Laws.RoundTrip.hbth d a b
  | hgen d a => exact Laws.RoundTrip.hgen d a
  | hnot d a => exact Laws.RoundTrip.hnot d a
  | hclr d => exact Laws.RoundTrip.hclr d
  | hsim d a b => exact Laws.RoundTrip.hsim d a b
  | hclean d a b => exact Laws.RoundTrip.hclean d a b
  | hfact d a b => exact Laws.RoundTrip.hfact d a b
  | isopen d a b => exact Laws.RoundTrip.isopen d a b
  | isload d a b => exact Laws.RoundTrip.isload d a b
  | isseal d a => exact Laws.RoundTrip.isseal d a
  | isrel a => exact Laws.RoundTrip.isrel a
  | hprob d a b => exact Laws.RoundTrip.hprob d a b
  | tld d a => exact Laws.RoundTrip.tld d a
  | tst d a => exact Laws.RoundTrip.tst d a
  | tzero d => exact Laws.RoundTrip.tzero d
  | tmov d a b => exact Laws.RoundTrip.tmov d a b
  | trel d => exact Laws.RoundTrip.trel d
  | tscl d a => exact Laws.RoundTrip.tscl d a
  | mma d a b o => exact Laws.RoundTrip.mma d a b o
  | mmaz d a b o => exact Laws.RoundTrip.mmaz d a b o
  | tbegin d a => exact Laws.RoundTrip.tbegin d a
  | tend => exact Laws.RoundTrip.tend
  | tcopy d a b => exact Laws.RoundTrip.tcopy d a b
  | tcopyM d a b => exact Laws.RoundTrip.tcopyM d a b
  | rfence => exact Laws.RoundTrip.rfence
  | twait => exact Laws.RoundTrip.twait
  | sigd d a => exact Laws.RoundTrip.sigd d a
  | siginit d => exact Laws.RoundTrip.siginit d
  | sigadd d a => exact Laws.RoundTrip.sigadd d a
  | sigmul d a => exact Laws.RoundTrip.sigmul d a
  | siglog d a => exact Laws.RoundTrip.siglog d a
  | sigld d a => exact Laws.RoundTrip.sigld d a
  | sigst d a => exact Laws.RoundTrip.sigst d a
  | fbind d a => exact Laws.RoundTrip.fbind d a
  | fsend a b => exact Laws.RoundTrip.fsend a b
  | frecv d a => exact Laws.RoundTrip.frecv d a
  | frecvop d a b => exact Laws.RoundTrip.frecvop d a b
  | fcount d a => exact Laws.RoundTrip.fcount d a
  | fa2a a => exact Laws.RoundTrip.fa2a a
  | fwait d a => exact Laws.RoundTrip.fwait d a
  | frel a => exact Laws.RoundTrip.frel a
  | bgath d a b m => exact Laws.RoundTrip.bgath d a b m
  | bscat d a b m => exact Laws.RoundTrip.bscat d a b m
  | bscadd d a b m => exact Laws.RoundTrip.bscadd d a b m
  | vfpush d a b m => exact Laws.RoundTrip.vfpush d a b m
  | vffree d => exact Laws.RoundTrip.vffree d
  | blat d a => exact Laws.RoundTrip.blat d a
  | vpopc d a m => exact Laws.RoundTrip.vpopc d a m
  | vclz d a m => exact Laws.RoundTrip.vclz d a m
  | vbrev d a m => exact Laws.RoundTrip.vbrev d a m
  | vrotl d a b m => exact Laws.RoundTrip.vrotl d a b m
  | _ => exact Laws.roundTrip_event rfl

/-- Settles O2: by the round trip of each instruction. -/
theorem everyEncodedInstructionDecodesToItself : Obligations.EveryEncodedInstructionDecodesToItself := by
  rintro ⟨p, s, i⟩ w hwf he
  exact Laws.roundTrip i p s w hwf he

/-- The mark, the stall count and the 28 bits below them are the whole word. -/
theorem joinWord_fields (w : BitVec 32) : joinWord (wordP w) (wordS w) (wordBody w) = w := by
  apply BitVec.eq_of_getLsbD_eq
  intro j hj
  simp only [wordP, wordS, wordBody, joinWord, BitVec.getLsbD_append, BitVec.getLsbD_extractLsb']
  split
  · simp [*]
  · split
    · simp [*, Nat.add_sub_cancel' (Nat.not_lt.mp ‹_›)]
    · obtain rfl : j = 31 := by omega
      simp

/-- Settles O3: the decoder compares the payload with the one the encoder writes. -/
theorem everyDecodedWordIsItsEncoding : Obligations.EveryDecodedWordIsItsEncoding := by
  intro w x h
  unfold decode at h
  split at h
  · cases h
  · split at h
    · cases h
    · next i _ =>
      split at h
      · next hi =>
        obtain ⟨hwf, hbody⟩ := Bool.and_eq_true_iff.mp hi
        cases h
        refine ⟨?_, hwf⟩
        rw [encode, eq_of_beq hbody]
        exact congrArg some (joinWord_fields w)
      · cases h

/-- Settles O1: each word is the one the encoder writes, and the two that are refused are evaluated. -/
theorem wordsDecodeAsTheSpecWritesThem : Obligations.WordsDecodeAsTheSpecWritesThem := by
  have written (x : Decoded) (w : BitVec 32) := everyEncodedInstructionDecodesToItself x w
  exact ⟨written _ _ rfl rfl, written _ _ rfl rfl, written _ _ rfl rfl, written _ _ rfl rfl, written _ _ rfl rfl,
    written _ _ rfl rfl, written _ _ rfl rfl, written _ _ rfl rfl, written _ _ rfl rfl, written _ _ rfl rfl,
    written _ _ rfl rfl, written _ _ rfl rfl, written _ _ rfl rfl, rfl, rfl⟩

/-! ### The major opcode of a payload -/

theorem major_body (b : BitVec 28) : b.extractLsb' 22 6 = wordOp (joinWord false 0 b) :=
  (BitVec.extractLsb'_append_eq_of_add_le (by decide)).symm

@[simp] theorem major_packA (op : BitVec 6) (d a b : BitVec 5) (m : BitVec 3) (f : BitVec 4) :
    (packA op d a b m f).extractLsb' 22 6 = op := by
  rw [major_body, wordOp_packA]
@[simp] theorem major_packI (op : BitVec 6) (d a : BitVec 5) (f : BitVec 3) (i : BitVec 9) :
    (packI op d a f i).extractLsb' 22 6 = op := by
  rw [major_body, wordOp_packI]
@[simp] theorem major_packU (op : BitVec 6) (d : BitVec 5) (i : BitVec 17) :
    (packU op d i).extractLsb' 22 6 = op := by
  rw [major_body, wordOp_packU]
@[simp] theorem major_packJ (op : BitVec 6) (o : BitVec 22) :
    (packJ op o).extractLsb' 22 6 = op := by
  rw [major_body, wordOp_packJ]
@[simp] theorem major_packZ (op : BitVec 6) (a : BitVec 5) (c : BitVec 3) (o : BitVec 14) :
    (packZ op a c o).extractLsb' 22 6 = op := by
  rw [major_body, wordOp_packZ]
@[simp] theorem major_packX (op : BitVec 6) (d a : BitVec 5) (x : BitVec 12) :
    (packX op d a x).extractLsb' 22 6 = op := by
  rw [major_body, wordOp_packX]
@[simp] theorem major_packL (op : BitVec 6) (d a b : BitVec 5) (t : BitVec 7) :
    (packL op d a b t).extractLsb' 22 6 = op := by
  rw [major_body, wordOp_packL]
@[simp] theorem major_packK (op : BitVec 6) (d a b : BitVec 5) (k : BitVec 6) (f : BitVec 1) :
    (packK op d a b k f).extractLsb' 22 6 = op := by
  rw [major_body, wordOp_packK]
@[simp] theorem major_packE (op : BitVec 6) (d a b : BitVec 4) (o : BitVec 10) :
    (packE op d a b o).extractLsb' 22 6 = op := by
  rw [major_body, wordOp_packE]

/-! ### Words that may not run -/

/-- What a word with a side mark answers where the mark shuts its side out: ILLSIDE, whatever it would do (R20). -/
def RefusesSide (k : SideMark) (s : State) (o : Outcome) : Prop :=
  markAdmits k s.issue.side = false → o = .next (takeTrap (discardWait s) (illside s) (sourceOf s.issue.side))

section
variable {s : State}

theorem RefusesSide.runPlain {k : SideMark} {wf fit : Bool} {reads writes : List RegId}
    {body : State → Except Stop State} : RefusesSide k s (runPlain s k wf fit reads writes body) := fun h => by
  simp [Machine.runPlain, runInterlocked, precheck, h, finish, illside, wordVal]

theorem RefusesSide.runFixed {k : SideMark} {wf fit : Bool} {reads writes : List RegId} {lat : Timing}
    {body : State → Except Stop Result} : RefusesSide k s (runFixed s k wf fit reads writes lat body) := fun h => by
  simp [Machine.runFixed, precheck, h, finish, illside, wordVal]

theorem RefusesSide.scalarOp {rs : List (BitVec 5)} {d : BitVec 5} {lat : Nat} {f : Hart → Word} :
    RefusesSide .s s (scalarOp s rs d lat f) := .runFixed
theorem RefusesSide.binaryOp {d a b : BitVec 5} {lat : Nat} {f : Word → Word → Word} :
    RefusesSide .s s (binaryOp s d a b lat f) := .scalarOp
theorem RefusesSide.unaryOp {d a : BitVec 5} {lat : Nat} {f : Word → Word} :
    RefusesSide .s s (unaryOp s d a lat f) := .scalarOp
theorem RefusesSide.branchIf {a : BitVec 5} {o : BitVec 14} {test : Word → Bool} :
    RefusesSide .s s (branchIf s a o test) := .runPlain
theorem RefusesSide.loadOp {d a : BitVec 5} {i : BitVec 9} {z : Nat} {ext : Nat → Word} :
    RefusesSide .s s (loadOp s d a i z ext) := .runPlain
theorem RefusesSide.storeOp {d a : BitVec 5} {i : BitVec 9} {z : Nat} :
    RefusesSide .s s (storeOp s d a i z) := .runPlain
theorem RefusesSide.amoOp {d a b : BitVec 5} {c : BitVec 3} {f : Word → Word → Word → Word} :
    RefusesSide .s s (amoOp s d a b c f) := .runPlain
theorem RefusesSide.queryWord {a : BitVec 5} {writes : List RegId} {body : State → QueryCtx → Except Stop State} :
    RefusesSide .s s (queryWord s a writes body) := .runPlain
theorem RefusesSide.vectorOp {wf : Bool} {fit : VType → Bool} {reads writes : VType → List RegId}
    {lat : VType → Timing} {body : State → VType → Result} :
    RefusesSide .v s (vectorOp s wf fit reads writes lat body) := by
  dsimp only [Machine.vectorOp]; exact .runFixed
theorem RefusesSide.vintWord {d a : BitVec 5} {b : SecondSource} {m : BitVec 3} {binary mul : Bool} {f : ElemOp} :
    RefusesSide .v s (vintWord s d a b m binary mul f) := .vectorOp
theorem RefusesSide.vfltWord {d a : BitVec 5} {b : SecondSource} {m : BitVec 3} {small : Bool} {c lat : Nat}
    {f : FloatOp} :
    RefusesSide .v s (vfltWord s d a b m small c lat f) := .vectorOp
theorem RefusesSide.vfltUnary {d a : BitVec 5} {m : BitVec 3} {small : Bool} {c lat : Nat}
    {f : FloatFormat → RoundMode → Nat → Nat × Flags} :
    RefusesSide .v s (vfltUnary s d a m small c lat f) := .vfltWord
theorem RefusesSide.vfmaWord {d a b : BitVec 5} {m : BitVec 3} {negProd negAdd : Bool} :
    RefusesSide .v s (vfmaWord s d a b m negProd negAdd) := .vectorOp
theorem RefusesSide.funnelWord {d a b : BitVec 5} {k : BitVec 6} {f : Nat → Nat → Nat → Nat} :
    RefusesSide .v s (funnelWord s d a b k f) := .vectorOp
theorem RefusesSide.log3Word {d a b : BitVec 5} {tt : Nat} : RefusesSide .v s (log3Word s d a b tt) := .vectorOp
theorem RefusesSide.vpermWord {wf : Bool} {fit : VType → Bool} {d : BitVec 5} {m : BitVec 3}
    {reads : VType → List RegId} {c lat : Nat} {lanes : State → VType → List (Option Nat)} :
    RefusesSide .v s (vpermWord s wf fit d m reads c lat lanes) := .vectorOp
theorem RefusesSide.vredWord {d a : BitVec 5} {m : BitVec 3} {fit : ElemType → Bool}
    {f : Hart → VType → (Nat → Nat) → Nat × Raised} :
    RefusesSide .v s (vredWord s d a m fit f) := .vectorOp
theorem RefusesSide.plainReduce {d a : BitVec 5} {m : BitVec 3} {fit : ElemType → Bool}
    {identity : ElemType → Nat} {f : ElemType → Nat → Nat → Nat} :
    RefusesSide .v s (plainReduce s d a m fit identity f) := .vredWord
theorem RefusesSide.vcvtWord {d a : BitVec 5} {m : BitVec 3} {dst : ElemType → Option ElemType}
    {dgroup : Nat → Option Nat} :
    RefusesSide .v s (vcvtWord s d a m dst dgroup) := by
  dsimp only [Machine.vcvtWord]; exact .vectorOp
theorem RefusesSide.vsfuWord {d a : BitVec 5} {m : BitVec 3} {f : FloatFormat → FloatVal → Nat × Flags} :
    RefusesSide .v s (vsfuWord s d a m f) := .vectorOp
theorem RefusesSide.vcmpWord {d a : BitVec 5} {b : SecondSource} {m : BitVec 3} {fit : ElemType → Bool}
    {f : ElemType → Nat → Nat → Bool} :
    RefusesSide .v s (vcmpWord s d a b m fit f) := .vectorOp
theorem RefusesSide.intCompare {d a : BitVec 5} {b : SecondSource} {m : BitVec 3} {binary : Bool}
    {f : Nat → Nat → Nat → Bool} :
    RefusesSide .v s (intCompare s d a b m binary f) := .vcmpWord
theorem RefusesSide.floatCompare {d a : BitVec 5} {b : SecondSource} {m : BitVec 3} {f : FloatVal → FloatVal → Bool} :
    RefusesSide .v s (floatCompare s d a b m f) := .vcmpWord
theorem RefusesSide.vmopWord {d : BitVec 5} {srcs : List (BitVec 5)} {f : Hart → Nat → Bool} :
    RefusesSide .v s (vmopWord s d srcs f) := .vectorOp
theorem RefusesSide.maskToH {d a : BitVec 5} {f : Nat → Nat} : RefusesSide .v s (maskToH s d a f) := .vectorOp
theorem RefusesSide.maskBranch {a : BitVec 5} {o : BitVec 14} {test : Nat → Bool} :
    RefusesSide .v s (maskBranch s a o test) := .runPlain
theorem RefusesSide.hvWord {wf : Bool} {hvs : List (BitVec 5)} {reads : VType → List RegId} {d : BitVec 5}
    {c dc : Nat} {f : State → VType → Nat → Nat} :
    RefusesSide .v s (hvWord s wf hvs reads d c dc f) := .vectorOp
theorem RefusesSide.rotateWord {d a b : BitVec 5} {src : Nat → Nat → Nat → Nat} :
    RefusesSide .v s (rotateWord s d a b src) := .vectorOp
theorem RefusesSide.storeWord {wf : Bool} {fit : VType → Bool} {reads : List RegId} {writes : List RegId}
    {body : State → VType → Except Stop State} :
    RefusesSide .v s (storeWord s wf fit reads writes body) := .runPlain
theorem RefusesSide.engineWord {wf : Bool} {fit : VType → Bool} {reads writes : List RegId}
    {body : State → VType → Except Stop State} :
    RefusesSide .v s (engineWord s wf fit reads writes body) := .runPlain
theorem RefusesSide.mmaWord {d a b : BitVec 4} {o : BitVec 10} {zero : Bool} :
    RefusesSide .v s (mmaWord s d a b o zero) := .engineWord
theorem RefusesSide.sigWord {wf : Bool} {fit : VType → Bool} {reads : List RegId}
    {plan : State → Except Stop CmdKind} :
    RefusesSide .v s (sigWord s wf fit reads plan) := .engineWord
theorem RefusesSide.fabWord {wf fit : Bool} {reads writes : List RegId} {body : State → Except Stop State} :
    RefusesSide .v s (fabWord s wf fit reads writes body) := .runPlain
theorem RefusesSide.bankWord {wf : Bool} {fit : VType → Bool} {d q : BitVec 5} {m : BitVec 3}
    {reads writes : List RegId} {body : State → StreamReg → Except Stop State} :
    RefusesSide .v s (bankWord s wf fit d q m reads writes body) := .runPlain
theorem RefusesSide.vbitWord {d a b : BitVec 5} {m : BitVec 3} {f : Nat → Nat → Nat → Nat} :
    RefusesSide .v s (vbitWord s d a b m f) := .vectorOp

end

theorem major_of_mark {i : Instr} {b : BitVec 28} {k : SideMark} (hb : i.body = some b) (hk : i.mark = some k) :
    majorMark (b.extractLsb' 22 6) = some k := by
  rwa [Instr.mark, hb] at hk

theorem mark_event {i : Instr} {k : SideMark} (hb : i.body = none) : i.mark ≠ some k := by
  rw [Instr.mark, hb]; exact nofun

/-- Every word refuses a side that its mark shuts out: its meaning is one of the two ways of running a word, with that
mark. -/
theorem exec_refusesSide {i : Instr} {k : SideMark} (hk : i.mark = some k) (s : State) : RefusesSide k s (exec i s) := by
  cases i with
  | add | sub | and | or | xor | andn | shl | shr | sra | mul | mulh | mulhn | div | divn | rem | remn | slt | sltn
  | min | max | minn | maxn | rotl =>
    obtain rfl : SideMark.s = k := by simpa [majorMark] using major_of_mark rfl hk
    dsimp only [exec]
    exact .binaryOp
  | clz | ctz | popc | addi | andi | ori | xori | shli | shri | srai | slti =>
    obtain rfl : SideMark.s = k := by simpa [majorMark] using major_of_mark rfl hk
    dsimp only [exec]
    exact .unaryOp
  | sel | lis | shim =>
    obtain rfl : SideMark.s = k := by simpa [majorMark] using major_of_mark rfl hk
    dsimp only [exec]
    exact .scalarOp
  | beqz | bnez | bltz | bgez | bgtz | blez =>
    obtain rfl : SideMark.s = k := by simpa [majorMark] using major_of_mark rfl hk
    dsimp only [exec]
    exact .branchIf
  | jmp | call | jr | callr | ret | vdisp | vdrain | vqcnt | rqpop | rqpeek | rqcnt | launch | launchg | csig
  | cancel | cread | snapBegin | snapAccept | snapReject | snapQuery | snapPool | wqOpen =>
    obtain rfl : SideMark.s = k := by simpa [majorMark] using major_of_mark rfl hk
    dsimp only [exec]
    exact .runPlain
  | ldB | ldBn | ldH | ldHn | ldW | ldWn | ldD =>
    obtain rfl : SideMark.s = k := by simpa [majorMark] using major_of_mark rfl hk
    dsimp only [exec]
    exact .loadOp
  | stB | stH | stW | stD =>
    obtain rfl : SideMark.s = k := by simpa [majorMark] using major_of_mark rfl hk
    dsimp only [exec]
    exact .storeOp
  | amoAdd | amoAnd | amoOr | amoXor | amoMin | amoMax | amoSwap | amoCas | amoFadd =>
    obtain rfl : SideMark.s = k := by simpa [majorMark] using major_of_mark rfl hk
    dsimp only [exec]
    exact .amoOp
  | wqRun | wqPoll | wqResult | wqClose =>
    obtain rfl : SideMark.s = k := by simpa [majorMark] using major_of_mark rfl hk
    dsimp only [exec]
    exact .queryWord
  | vadd | vsub | vmul | vmulh | vmulhn | vmin | vmax | vminn | vmaxn | vand | vor | vxor | vandn | vshl | vshr
  | vsra | vintsVadd | vintsVsub | vintsVmul | vintsVmulh | vintsVmulhn | vintsVmin | vintsVmax | vintsVminn
  | vintsVmaxn | vintsVand | vintsVor | vintsVxor | vintsVandn | vintsVshl | vintsVshr | vintsVsra =>
    obtain rfl : SideMark.v = k := by simpa [majorMark] using major_of_mark rfl hk
    dsimp only [exec]
    exact .vintWord
  | vfadd | vfsub | vfmul | vfdiv | vfmin | vfmax | vadds | vsubs | vfltsVfadd | vfltsVfsub | vfltsVfmul | vfltsVfdiv
  | vfltsVfmin | vfltsVfmax =>
    obtain rfl : SideMark.v = k := by simpa [majorMark] using major_of_mark rfl hk
    dsimp only [exec]
    exact .vfltWord
  | vfsqrt | vfabs | vfneg =>
    obtain rfl : SideMark.v = k := by simpa [majorMark] using major_of_mark rfl hk
    dsimp only [exec]
    exact .vfltUnary
  | vfma | vfms | vfnma | vfnms =>
    obtain rfl : SideMark.v = k := by simpa [majorMark] using major_of_mark rfl hk
    dsimp only [exec]
    exact .vfmaWord
  | vmac | vdot4 | vdot2 | vext | vmerge | hbacc | hbth | hclr =>
    obtain rfl : SideMark.v = k := by simpa [majorMark] using major_of_mark rfl hk
    dsimp only [exec]
    exact .vectorOp
  | vfshl | vfshr =>
    obtain rfl : SideMark.v = k := by simpa [majorMark] using major_of_mark rfl hk
    dsimp only [exec]
    exact .funnelWord
  | log3Low | log3High =>
    obtain rfl : SideMark.v = k := by simpa [majorMark] using major_of_mark rfl hk
    dsimp only [exec]
    exact .log3Word
  | vslup | vsldn | vgath | vpush | vcmpr | vexpd | vbcst | vid | viota =>
    obtain rfl : SideMark.v = k := by simpa [majorMark] using major_of_mark rfl hk
    dsimp only [exec]
    exact .vpermWord
  | vrsum | vfrsum | vfrmax | vfrmin =>
    obtain rfl : SideMark.v = k := by simpa [majorMark] using major_of_mark rfl hk
    dsimp only [exec]
    exact .vredWord
  | vrmax | vrmin | vrand | vror | vrxor =>
    obtain rfl : SideMark.v = k := by simpa [majorMark] using major_of_mark rfl hk
    dsimp only [exec]
    exact .plainReduce
  | cvtN | cvtW | cvtFi | cvtIf | cvtF4 =>
    obtain rfl : SideMark.v = k := by simpa [majorMark] using major_of_mark rfl hk
    dsimp only [exec]
    exact .vcvtWord
  | vexp2 | vlog2 | vrcp | vrsq | vtanh =>
    obtain rfl : SideMark.v = k := by simpa [majorMark] using major_of_mark rfl hk
    dsimp only [exec]
    exact .vsfuWord
  | vceq | vcne | vclt | vcle | vcltn | vclen | vcmpsVceq | vcmpsVcne | vcmpsVclt | vcmpsVcle | vcmpsVcltn
  | vcmpsVclen =>
    obtain rfl : SideMark.v = k := by simpa [majorMark] using major_of_mark rfl hk
    dsimp only [exec]
    exact .intCompare
  | vfceq | vfclt | vfcle | vfcun | vcmpsVfceq | vcmpsVfclt | vcmpsVfcle | vcmpsVfcun =>
    obtain rfl : SideMark.v = k := by simpa [majorMark] using major_of_mark rfl hk
    dsimp only [exec]
    exact .floatCompare
  | mand | mor | mxor | mandn | mnot | mset | mclr =>
    obtain rfl : SideMark.v = k := by simpa [majorMark] using major_of_mark rfl hk
    dsimp only [exec]
    exact .vmopWord
  | mfirst | mpopc =>
    obtain rfl : SideMark.v = k := by simpa [majorMark] using major_of_mark rfl hk
    dsimp only [exec]
    exact .maskToH
  | vsetl | vsett | vend | vreply | vreplym | vjoin | vlcset | valc | vbdiv | vlcnz | vloop | vjmp | vld | vldx
  | vldl | vst | vstx | vstl | vsta | qset | qadv | qpos | qrel | hsim | hclean | hfact | hprob | tbegin | tend
  | rfence | twait | sigd | vffree | blat =>
    obtain rfl : SideMark.v = k := by simpa [majorMark] using major_of_mark rfl hk
    dsimp only [exec]
    exact .runPlain
  | vbany | vbnone =>
    obtain rfl : SideMark.v = k := by simpa [majorMark] using major_of_mark rfl hk
    dsimp only [exec]
    exact .maskBranch
  | hbind | hunbind | hgen | hnot =>
    obtain rfl : SideMark.v = k := by simpa [majorMark] using major_of_mark rfl hk
    dsimp only [exec]
    exact .hvWord
  | hperm | hpermn =>
    obtain rfl : SideMark.v = k := by simpa [majorMark] using major_of_mark rfl hk
    dsimp only [exec]
    exact .rotateWord
  | isopen | isload | isseal | isrel =>
    obtain rfl : SideMark.v = k := by simpa [majorMark] using major_of_mark rfl hk
    dsimp only [exec]
    exact .storeWord
  | tld | tst | tzero | tmov | trel | tscl | tcopy | tcopyM =>
    obtain rfl : SideMark.v = k := by simpa [majorMark] using major_of_mark rfl hk
    dsimp only [exec]
    exact .engineWord
  | mma | mmaz =>
    obtain rfl : SideMark.v = k := by simpa [majorMark] using major_of_mark rfl hk
    dsimp only [exec]
    exact .mmaWord
  | siginit | sigadd | sigmul | siglog | sigld | sigst =>
    obtain rfl : SideMark.v = k := by simpa [majorMark] using major_of_mark rfl hk
    dsimp only [exec]
    exact .sigWord
  | fbind | fsend | frecv | frecvop | fcount | fa2a | fwait | frel =>
    obtain rfl : SideMark.v = k := by simpa [majorMark] using major_of_mark rfl hk
    dsimp only [exec]
    exact .fabWord
  | bscat | bscadd | vfpush =>
    obtain rfl : SideMark.v = k := by simpa [majorMark] using major_of_mark rfl hk
    dsimp only [exec]
    exact .bankWord
  | vpopc | vclz | vbrev | vrotl =>
    obtain rfl : SideMark.v = k := by simpa [majorMark] using major_of_mark rfl hk
    dsimp only [exec]
    exact .vbitWord
  | vsmax =>
    obtain rfl : SideMark.v = k := by simpa [majorMark] using major_of_mark rfl hk
    dsimp only [exec, execVsmax]
    exact .vectorOp
  | cvtQ =>
    obtain rfl : SideMark.v = k := by simpa [majorMark] using major_of_mark rfl hk
    dsimp only [exec, execCvtQ]
    exact .runFixed
  | bgath =>
    obtain rfl : SideMark.v = k := by simpa [majorMark] using major_of_mark rfl hk
    dsimp only [exec, execBgath]
    split
    · exact .runPlain
    · exact .bankWord
  | nop | eret | wait | brk | yield | fencei | dusk | dawn | trap | acq | rel | bind | unbind | fence | fenceV | csrx
  | csrs | binit | barrive | bwait | barw | btest =>
    obtain rfl : SideMark.b = k := by simpa [majorMark] using major_of_mark rfl hk
    exact nofun
  | _ => exact absurd hk (mark_event rfl)

theorem wrongSide_raisesIllside : wordsOfTheOtherSideRaiseIllside := by
  rintro i s (⟨hk, hs⟩ | ⟨hk, hs⟩)
  · exact exec_refusesSide hk s (by rw [hs]; rfl)
  · exact exec_refusesSide hk s (by rw [hs]; rfl)

theorem majorMark_reserved : ∀ op : BitVec 6,
    ((0x16 ≤ op.toNat ∧ op.toNat ≤ 0x1F) ∨ 0x3E ≤ op.toNat) → majorMark op = none := by decide

theorem reservedMajors_areIllegal : reservedMajorsAreIllegal := by
  intro w h
  refine ⟨?_, fun s => by simp [refuseWord, finish, decodeTrap, illegal, wordVal, holdWord, causeIllegal]⟩
  rw [decode, majorMark_reserved _ h]

/-- Settles O5: reserved majors by their numbers, and the other words by the side on which they run. -/
theorem wordsThatMayNotRunTrap : Obligations.WordsThatMayNotRunTrap :=
  ⟨reservedMajors_areIllegal, wrongSide_raisesIllside⟩

end Sys2Proof
end

section
/-!
LAW. Retirement as one equation for each side, and the words of the scalar side that only jump or write one register
(R16, R19, R20, R61, R63, R67, R285). Settles O7 and O13.
-/

namespace Sys2Proof.Machine

/-! ### A retired word, as one state -/

theorem retireTo_scalar_eq {s : State} (h : s.issue.side = .scalar) (pc : Word) :
    retireTo s pc = { s with hart := { s.hart with
      sc := { s.hart.sc with pc := pc, readyAt := s.clock + 1 + s.issue.s.toNat },
      cs := { s.hart.cs with instret := s.hart.cs.instret + 1 } } } := by
  simp [retireTo, readyFrom, h, State.mapHart]

/-- A sequencer's charge changes its arbiter alone. -/
theorem chargeSequencer_eq (s : State) (n : Nat) :
    chargeSequencer s n = { s with arbiters := (chargeSequencer s n).arbiters } := by
  unfold chargeSequencer chargeTurn
  dsimp only
  split <;> rfl

/-- What a sequencer charges depends on the hart's place, its queue and its timed region alone. -/
theorem chargeSequencer_congr {s u : State} (n : Nat) (ha : u.arbiters = s.arbiters) (hc : u.cores = s.cores)
    (hp : u.hart.place = s.hart.place) (hq : u.hart.queue = s.hart.queue) (hr : u.hart.tl.region = s.hart.tl.region) :
    (chargeSequencer u n).arbiters = (chargeSequencer s n).arbiters := by
  have hl : activeLanes u u.hart = activeLanes s s.hart := by simp only [activeLanes, hp, hr, State.core, hc]
  have hx (x : Arb) : arbiter u x = arbiter s x := by simp only [arbiter, ha]
  unfold chargeSequencer chargeTurn
  simp only [hl, hp, hq, hx]
  split
  · simp only [setArbiter, ha]
  · exact ha

/-- The cycle of the next issue does not bear on the charge. -/
theorem chargeSequencer_readyFrom (s : State) (t n : Nat) :
    chargeSequencer (readyFrom s t) n =
      { s with hart := (readyFrom s t).hart, arbiters := (chargeSequencer s n).arbiters } := by
  rw [chargeSequencer_eq, chargeSequencer_congr (s := s)]
  all_goals (unfold readyFrom; split <;> rfl)

theorem retireTo_vector_eq {s : State} (h : s.issue.side = .vector) (pc : Word) :
    retireTo s pc = { s with
      arbiters := (chargeSequencer s s.issue.beats).arbiters,
      hart := { s.hart with
        ve := { s.hart.ve with pc := pc, lastPos := qposOf s.hart, inLanes := none,
                               readyAt := s.clock + 1 + s.issue.s.toNat },
        cs := { s.hart.cs with instret := s.hart.cs.instret + 1, vprog := 0,
                               hrpc := if s.issue.p then regAddr 0 s.hart.ve.pc else s.hart.cs.hrpc } } } := by
  simp only [retireTo, readyFrom_issue, h, chargeSequencer_readyFrom]
  simp only [readyFrom, h]
  rfl

/-- A vector-side word that has left the hart `h'` retires: where `h'` differs from the hart it was issued for in nothing
that the charge and the position depend on, that is a `VectorStep`. -/
theorem vectorStep_retireTo {s : State} (h : s.issue.side = .vector) (h' : Hart) (pc : Word) (hp : h'.place = s.hart.place)
    (hq : h'.queue = s.hart.queue) (hr : h'.tl.region = s.hart.tl.region) (hb : h'.ve.block = s.hart.ve.block)
    (hpc : h'.ve.pc = s.hart.ve.pc) : VectorStep s (retireTo { s with hart := h' } pc) h' pc := by
  have hpos : qposOf h' = qposOf s.hart := by simp only [qposOf, hb, hpc]
  have hc := chargeSequencer_congr (s := s) (u := { s with hart := h' }) s.issue.beats rfl rfl hp hq hr
  unfold VectorStep
  rw [retireTo_vector_eq (s := { s with hart := h' }) h, chargeSequencer_eq s, hc]
  simp only [hpos, hpc, regAddr]
  rfl

theorem Retired_retire (u : State) : Retired u (retire u) := by
  cases h : u.issue.side with
  | scalar => simp only [Retired, retire, retireTo_scalar_eq h, pcOf, h, and_self]
  | vector => simp only [Retired, retire, retireTo_vector_eq h, pcOf, h, and_self]

/-! ### Branches and jumps (R67) -/

/-- The hart of a scalar-side word once the WAIT record of its level is discarded (R71). -/
theorem discardWait_scalar {s : State} (h : s.issue.side = .scalar) :
    discardWait s = { s with hart := { s.hart with sc := { s.hart.sc with
      wait0 := if s.hart.cs.hstat.hl then s.hart.sc.wait0 else none,
      wait1 := if s.hart.cs.hstat.hl then none else s.hart.sc.wait1 } } } := by
  simp only [discardWait, h, State.mapHart]
  split <;> rfl

theorem scalarJump_retireTo {s : State} (h : s.issue.side = .scalar) (pc : Word) :
    ScalarJump s (retireTo (discardWait s) pc) pc := by
  rw [retireTo_scalar_eq (by simp [h]), discardWait_scalar h]
  exact ⟨rfl, rfl, rfl⟩

theorem relTarget_scalar {s : State} {n : Nat} (h : s.issue.side = .scalar) (o : BitVec n) :
    relTarget (discardWait s) o = s.hart.sc.pc + BitVec.ofInt 64 (4 * o.toInt) := by
  rw [discardWait_scalar h]
  simp [relTarget, pcOf, h, BitVec.signExtend, BitVec.ofInt_mul]

theorem retire_scalar {s : State} (h : s.issue.side = .scalar) :
    retire (discardWait s) = retireTo (discardWait s) (s.hart.sc.pc + 4) := by
  simp only [retire, pcOf, discardWait_issue, h]
  rw [discardWait_scalar h]

/-- A branch on a test of g[a] that is `p` of its signed value. -/
theorem branchIf_goes {s : State} (h : Issuing s .scalar) (a : BitVec 5) (o : BitVec 14) {test : Word → Bool}
    {p : Int → Bool} (hp : ∀ x, test x = p x.toInt) :
    ∃ t, branchIf s a o test = .next t ∧
      ScalarJump s t (if p (gRead s.hart a.toNat).toInt then s.hart.sc.pc + BitVec.ofInt 64 (4 * o.toInt)
        else s.hart.sc.pc + 4) := by
  have hg : gRead (discardWait s).hart a.toNat = gRead s.hart a.toNat := by rw [discardWait_scalar h.side]; rfl
  refine ⟨_, runPlain_of h rfl rfl rfl, ?_⟩
  rw [hg, hp, relTarget_scalar h.side, retire_scalar h.side, ← apply_ite (retireTo (discardWait s))]
  exact scalarJump_retireTo h.side _

theorem exec_jmp {s : State} (h : Issuing s .scalar) (j : BitVec 22) :
    exec (.jmp j) s = .next (retireTo (discardWait s) (relTarget (discardWait s) j)) := by
  dsimp only [exec, execJmp]
  exact runPlain_of h rfl rfl rfl

theorem exec_branch (s : State) (a : BitVec 5) (o : BitVec 14) : ∀ e ∈ branchTable,
    ∃ test, exec (e.1 a o) s = branchIf s a o test ∧ ∀ x, test x = e.2 x.toInt := by
  simp only [branchTable, List.forall_mem_cons, List.not_mem_nil, false_imp_iff, implies_true, and_true]
  dsimp only [exec, execBeqz, execBnez, execBltz, execBgez, execBgtz, execBlez]
  refine ⟨⟨_, rfl, fun x => ?_⟩, ⟨_, rfl, fun x => ?_⟩, ⟨_, rfl, fun x => ?_⟩, ⟨_, rfl, fun x => ?_⟩,
    ⟨_, rfl, fun x => ?_⟩, ⟨_, rfl, fun x => ?_⟩⟩
  all_goals simp [BitVec.slt, ← BitVec.toInt_inj, bne, ← decide_not]

/-- Settles O7: each branch by its comparison, JMP by its target. -/
theorem scalarBranchesGoWhereTheySay : Obligations.ScalarBranchesGoWhereTheySay := by
  intro s a o j h
  refine ⟨fun e he => ?_, _, exec_jmp h j, ?_⟩
  · obtain ⟨test, hx, hp⟩ := exec_branch s a o e he
    rw [hx]
    exact branchIf_goes h a o hp
  · rw [relTarget_scalar h.side]
    exact scalarJump_retireTo h.side _

/-! ### A result in one register (R19, R20, R61) -/

theorem oneScalar_gave {u : State} (h : u.issue.side = .scalar) (d : BitVec 5) (v : Word) :
    OneScalar u (gave u d v) d v := by
  intro r
  have hg : gRead (gave u d v).hart r.toNat = gRead (gWrite u.hart d.toNat v) r.toNat := by
    rw [gave, retire, retireTo_scalar_eq (by simpa using h)]; rfl
  rw [hg, gRead_gWrite _ _ _ _ d.isLt]
  exact ite_congr (by simp [← BitVec.toNat_inj]) (fun _ => rfl) fun _ =>
    ite_congr (by rw [BitVec.toNat_inj]) (fun _ => rfl) fun _ => rfl

theorem hRead_hgave {u : State} (h : u.issue.side = .vector) {d : BitVec 5} (hd : d.toNat < 16) (v : Word) (r : BitVec 5) :
    hRead (hgave u d v).hart r.toNat = if r = d then v else hRead u.hart r.toNat := by
  have hh : hRead (hgave u d v).hart r.toNat = hRead (hWrite u.hart d.toNat v) r.toNat := by
    rw [hgave, retire, retireTo_vector_eq (by simpa using h)]; rfl
  rw [hh, hRead_hWrite _ _ _ _ hd]
  exact ite_congr (by rw [BitVec.toNat_inj]) (fun _ => rfl) fun _ => rfl

@[simp] theorem hWrite_v (h : Hart) (r : Nat) (v : Word) : (hWrite h r v).ve.v = h.ve.v := by simp [hWrite]
@[simp] theorem hWrite_m (h : Hart) (r : Nat) (v : Word) : (hWrite h r v).ve.m = h.ve.m := by simp [hWrite]
@[simp] theorem hWrite_lc (h : Hart) (r : Nat) (v : Word) : (hWrite h r v).ve.lc = h.ve.lc := by simp [hWrite]

@[simp] theorem hWrite_pc (h : Hart) (r : Nat) (v : Word) : (hWrite h r v).ve.pc = h.ve.pc := by simp [hWrite]

@[simp] theorem gWrite_pc (h : Hart) (r : Nat) (v : Word) : (gWrite h r v).sc.pc = h.sc.pc := by
  unfold gWrite
  split <;> simp

/-- Settles O13: what one register holds after its write, and that retirement leaves everything else. -/
theorem resultsGoToOneRegister : Obligations.ResultsGoToOneRegister := by
  intro u d v
  refine ⟨fun h => ⟨by simp only [xgave, xWrite, h, gave], oneScalar_gave h d v, ?_⟩,
    fun h => ⟨by simp only [xgave, xWrite, h, hgave], fun hd => hRead_hgave h hd v, ?_⟩⟩
  · rw [OnlyHart, Retired, gave, retire, retireTo_scalar_eq (by simpa using h)]
    simp [State.mapHart, pcOf, h]
  · rw [OnlyHartBeats, chargeSequencer_eq u, Retired, hgave, retire, retireTo_vector_eq (by simpa using h)]
    have hi : { u.issue with side := .vector } = u.issue := by rw [← h]
    simp [State.mapHart, pcOf, h, chargeSequencer_congr (s := u), hi]

end Sys2Proof.Machine
end

section
/-!
LAW. Vector-side words of fixed latency that issue with nothing in their way (R28, R82 to R86), and the integer words of
VINT and VINTS (R33, R87). Settles O27.
-/

namespace Sys2Proof.Machine

/-! ### Words that are not stopped part-way -/

/-- The result of a word that ends, outside timed regions. -/
structure Whole (r : Result) : Prop where
  part : r.part = none
  untimed : r.state.hart.cs.hstat.timed = false

theorem VectorIssuing.vtypeOf {s : State} {t : VType} (h : VectorIssuing s t) : vtypeOf s = t := by
  simp [Machine.vtypeOf, h.vtype]

theorem VectorIssuing.fits {s : State} {t : VType} (h : VectorIssuing s t) (test : VType → Bool) : fits s test = test t := by
  simp [Machine.fits, h.vtype]

theorem Issuing.runFixed {s : State} (h : Issuing s .vector) {wf fit : Bool} {reads writes : List RegId} {lat : Timing}
    {body : State → Except Stop Result} {r : Result} (hw : wf = true) (hf : fit = true) (hb : body s = .ok r)
    (hr : Whole r) : Ended (runFixed s .v wf fit reads writes lat body) r :=
  ⟨lat, runFixed_of h rfl hw hf (by rwa [discardWait_vector s h.side]) hr.part hr.untimed⟩

theorem Ended.congr {o : Outcome} {r r' : Result} (h : Ended o r) (e : r = r') : Ended o r' := e ▸ h

/-- A word that depends on VTYPE, fits it, and is not stopped part-way ends with what its body gives. -/
theorem VectorIssuing.vectorOp {s : State} {t : VType} (h : VectorIssuing s t) {wf : Bool} {fit : VType → Bool}
    {reads writes : VType → List RegId} {lat : VType → Timing} {body : State → VType → Result} (hw : wf = true)
    (hf : fit t = true) (hr : Whole (body s t)) : Ended (vectorOp s wf fit reads writes lat body) (body s t) := by
  dsimp only [Machine.vectorOp]
  rw [h.vtypeOf]
  exact h.issuing.runFixed hw (by rwa [h.fits]) rfl hr

theorem stopOf_uncut {s : State} (h : s.issue.cut = none) (n : Nat) : stopOf s n = n := by simp [stopOf, h]

@[simp] theorem noteFlags_hstat (h : Hart) (start : Nat) (done : Bool) (r : Raised) :
    (noteFlags h start done r).cs.hstat = h.cs.hstat := by
  unfold noteFlags
  dsimp only
  split <;> rfl

theorem Issuing.elementWise {s : State} {sd : Side} (h : Issuing s sd) {t : VType} {d : Dest} {m : BitVec 3}
    {capable draws : Bool} {f : Nat → Nat → Nat × Flags} : Whole (elementWise s t d m capable draws f) where
  part := by simp [Machine.elementWise, stopOf_uncut h.uncut]
  untimed := by
    rw [← h.untimed]
    simp only [Machine.elementWise, mapHart_hart]
    split <;> simp

theorem Issuing.elementOp {s : State} {sd : Side} (h : Issuing s sd) {t : VType} {d : Dest} {m : BitVec 3} {capable : Bool}
    {f : Nat → Nat × Flags} : Whole (elementOp s t d m capable f) :=
  h.elementWise

theorem Issuing.crossOp {s : State} {sd : Side} (h : Issuing s sd) {t : VType} {d : Dest} {lanes : List (Option Nat)} :
    Whole (crossOp s t d lanes) := by
  unfold Machine.crossOp abandonOf
  simp only [h.uncut, ite_self]
  exact ⟨rfl, h.untimed⟩

theorem Issuing.maskOp {s : State} {sd : Side} (h : Issuing s sd) {t : VType} {d : BitVec 5} {m : BitVec 3}
    {f : Nat → Bool} : Whole (maskOp s t d m f) :=
  ⟨by simp [Machine.maskOp, stopOf_uncut h.uncut], h.untimed⟩

theorem Issuing.wholeOp {s : State} {sd : Side} (h : Issuing s sd) (ws : List RegWrite) (f : State → State) :
    wholeOp s ws f = ⟨f s, ws, none⟩ := by
  simp [Machine.wholeOp, abandonOf, h.uncut]

/-! ### Elements as numbers of a width (R32, R33) -/

theorem elem_lt (w v i : Nat) : elem w v i < 2 ^ w := Nat.mod_lt _ (Nat.two_pow_pos w)

theorem width_pos (e : ElemType) : 0 < e.width := by cases e <;> decide

theorem toSigned_eq {w x : Nat} (hw : 0 < w) (hx : x < 2 ^ w) : toSigned w x = (BitVec.ofNat w x).toInt := by
  have h2 : 2 ^ w = 2 * 2 ^ (w - 1) := by rw [← Nat.pow_succ']; congr 1; omega
  have hc : ((2 ^ w : Nat) : Int) = (2 : Int) ^ w := by norm_cast
  rw [BitVec.toInt_eq_toNat_cond, BitVec.toNat_ofNat, Nat.mod_eq_of_lt hx, toSigned, hc]
  exact ite_congr (by rw [h2]; simp) (fun _ => rfl) fun _ => rfl

theorem lowBits_eq (w : Nat) (v : Int) : lowBits w v = (BitVec.ofInt w v).toNat := by
  rw [BitVec.toNat_ofInt, lowBits]

theorem toInteger_eq (t : VType) {x : Nat} (hx : x < 2 ^ t.et.width) :
    toInteger t.et.isSigned t.et.width x = integerValue t x := by
  rw [toInteger, toSigned_eq (width_pos _) hx, integerValue]

theorem minInteger_le_max (signed : Bool) (w : Nat) : minInteger signed w ≤ maxInteger signed w := by
  have h1 := Nat.two_pow_pos (w - 1)
  have h2 := Nat.two_pow_pos w
  cases signed <;> simp only [minInteger, maxInteger, if_true, if_false, Bool.false_eq_true] <;> omega

/-- The nearest value of a type, by its two bounds. -/
theorem clampInteger_eq (signed : Bool) {w : Nat} (v : Int) :
    clampInteger signed w v = (max (minInteger signed w) (min (maxInteger signed w) v),
      decide (max (minInteger signed w) (min (maxInteger signed w) v) ≠ v)) := by
  have hb := minInteger_le_max signed w
  unfold clampInteger
  split
  · exact Prod.ext (by simp; omega) (by simp; omega)
  · split
    · exact Prod.ext (by simp; omega) (by simp; omega)
    · exact Prod.ext (by simp; omega) (by simp; omega)

theorem minInteger_eq (signed : Bool) (w : Nat) : minInteger signed w = if signed then -2 ^ (w - 1) else 0 := by
  simp [minInteger]

theorem maxInteger_eq (signed : Bool) (w : Nat) :
    maxInteger signed w = if signed then 2 ^ (w - 1) - 1 else 2 ^ w - 1 := by
  simp [maxInteger]

theorem assignInteger_eq (t : VType) (v : Int) : assignInteger t.sat t.et.isSigned t.et.width v = assigned t v := by
  unfold assignInteger assigned
  dsimp only
  rw [← minInteger_eq, ← maxInteger_eq]
  cases t.sat with
  | false => simp [lowBits_eq]
  | true => simp [clampInteger_eq, lowBits_eq, flagSAT]

theorem exactOp_eq (f : Int → Int → Int) (t : VType) {x y : Nat} (hx : x < 2 ^ t.et.width) (hy : y < 2 ^ t.et.width) :
    exactOp f t x y = assigned t (f (integerValue t x) (integerValue t y)) := by
  rw [exactOp, assignInteger_eq, toInteger_eq t hx, toInteger_eq t hy]

theorem mulhElem_eq {w x y : Nat} (hw : 0 < w) (hx : x < 2 ^ w) (hy : y < 2 ^ w) :
    mulhElem w x y = (BitVec.ofInt w ((BitVec.ofNat w x).toInt * (BitVec.ofNat w y).toInt / 2 ^ w)).toNat := by
  rw [mulhElem, toSigned_eq hw hx, toSigned_eq hw hy, lowBits_eq]
  norm_cast

theorem minElem_eq {w x y : Nat} (hw : 0 < w) (hx : x < 2 ^ w) (hy : y < 2 ^ w) :
    minElem w x y = if (BitVec.ofNat w x).toInt ≤ (BitVec.ofNat w y).toInt then x else y := by
  rw [minElem, toSigned_eq hw hx, toSigned_eq hw hy, ← ite_not]
  simp only [not_lt]

theorem maxElem_eq {w x y : Nat} (hw : 0 < w) (hx : x < 2 ^ w) (hy : y < 2 ^ w) :
    maxElem w x y = if (BitVec.ofNat w y).toInt ≤ (BitVec.ofNat w x).toInt then x else y := by
  rw [maxElem, toSigned_eq hw hx, toSigned_eq hw hy, ← ite_not]
  simp only [not_lt]

theorem andnElem_eq {w x y : Nat} (hx : x < 2 ^ w) (hy : y < 2 ^ w) :
    andnElem w x y = (BitVec.ofNat w x &&& ~~~(BitVec.ofNat w y)).toNat := by
  have hn : (2 ^ w - 1) ^^^ y = 2 ^ w - 1 - y := by
    refine Nat.eq_of_testBit_eq fun i => ?_
    rw [Nat.testBit_xor, Nat.testBit_two_pow_sub_one, Nat.sub_sub, Nat.add_comm 1 y, Nat.testBit_two_pow_sub_succ hy]
    by_cases hi : i < w
    · simp [hi]
    · simp [hi, Nat.testBit_lt_two_pow (Nat.lt_of_lt_of_le hy (Nat.pow_le_pow_right (by omega) (by omega : w ≤ i)))]
  rw [BitVec.toNat_and, BitVec.toNat_not, BitVec.toNat_ofNat, BitVec.toNat_ofNat, Nat.mod_eq_of_lt hx, Nat.mod_eq_of_lt hy,
    andnElem, hn]

theorem shlElem_eq {w x y : Nat} (hx : x < 2 ^ w) : shlElem w x y = (BitVec.ofNat w x <<< (y % w)).toNat := by
  rw [BitVec.toNat_shiftLeft, BitVec.toNat_ofNat, Nat.mod_eq_of_lt hx, Nat.shiftLeft_eq, shlElem]

theorem shrElem_eq {w x y : Nat} (hx : x < 2 ^ w) : shrElem w x y = (BitVec.ofNat w x >>> (y % w)).toNat := by
  rw [BitVec.toNat_ushiftRight, BitVec.toNat_ofNat, Nat.mod_eq_of_lt hx, Nat.shiftRight_eq_div_pow, shrElem]

theorem sraElem_eq {w x y : Nat} (hw : 0 < w) (hx : x < 2 ^ w) :
    sraElem w x y = ((BitVec.ofNat w x).sshiftRight (y % w)).toNat := by
  rw [sraElem, toSigned_eq hw hx, lowBits_eq, BitVec.sshiftRight, Int.shiftRight_eq_div_pow]

/-! ### The words of VINT and VINTS (R87) -/

theorem isH_iff {r : BitVec 5} : isH r = true ↔ r.toNat < 16 := by simp [isH, BitVec.lt_def]

theorem secondSource_lt (b : SecondSource) (h : Hart) (t : VType) (i : Nat) : b.read h t i < 2 ^ t.et.width := by
  cases b with
  | group b => exact elem_lt _ _ _
  | scalar b => exact Nat.mod_lt _ (Nat.two_pow_pos _)

theorem vintWord_ended {s : State} {t : VType} (h : VectorIssuing s t) {d a : BitVec 5} {m : BitVec 3} {b : SecondSource}
    {binary mul : Bool} {f : ElemOp} {g : Nat → Nat → Nat × Flags} (hd : t.aligned d = true) (ha : t.aligned a = true)
    (hm : governFits s.hart m = true) (he : t.et.isInt = true ∨ (binary = true ∧ t.et = .b1)) (hw : b.wf = true)
    (hb : b.aligned t = true) (hf : ∀ x y, x < 2 ^ t.et.width → y < 2 ^ t.et.width → f t x y = g x y) :
    Ended (vintWord s d a b m binary mul f)
      (elementOp s t (t.dest s.hart d) m t.sat (fun i => g (source s t a i) (b.read s.hart t i))) := by
  unfold vintWord
  refine (h.vectorOp hw ?_ h.issuing.elementOp).congr <| congrArg (elementOp s t _ m t.sat) <| funext fun i =>
    hf _ _ (elem_lt _ _ _) (secondSource_lt b s.hart t i)
  obtain he | ⟨hb1, he⟩ := he
  · simp [he, hd, ha, hb, hm]
  · simp [he, hb1, hd, ha, hb, hm]

/-- Each row of VINT and VINTS is `vintWord` with an operation that agrees with the row's on the elements of a type. -/
theorem exec_vint (s : State) (d a b : BitVec 5) (m : BitVec 3) : ∀ e ∈ vintTable, ∃ mul f,
    exec (e.1 d a b m) s = vintWord s d a (.group b) m e.2.2.1 mul f ∧
    exec (e.2.1 d a b m) s = vintWord s d a (.scalar b) m e.2.2.1 mul f ∧
    ∀ (t : VType) (x y : Nat), x < 2 ^ t.et.width → y < 2 ^ t.et.width → f t x y = e.2.2.2 t x y := by
  simp only [vintTable, List.forall_mem_cons, List.not_mem_nil, false_imp_iff, implies_true, and_true]
  have hw (t : VType) := width_pos t.et
  refine ⟨⟨_, _, rfl, rfl, fun t x y hx hy => exactOp_eq _ t hx hy⟩,
    ⟨_, _, rfl, rfl, fun t x y hx hy => exactOp_eq _ t hx hy⟩,
    ⟨_, _, rfl, rfl, fun t x y hx hy => exactOp_eq _ t hx hy⟩,
    ⟨_, _, rfl, rfl, fun t x y hx hy => congrArg (·, 0) (mulhElem_eq (hw t) hx hy)⟩,
    ⟨_, _, rfl, rfl, fun t x y hx hy => rfl⟩,
    ⟨_, _, rfl, rfl, fun t x y hx hy => congrArg (·, 0) (minElem_eq (hw t) hx hy)⟩,
    ⟨_, _, rfl, rfl, fun t x y hx hy => congrArg (·, 0) (maxElem_eq (hw t) hx hy)⟩,
    ⟨_, _, rfl, rfl, fun t x y hx hy => rfl⟩, ⟨_, _, rfl, rfl, fun t x y hx hy => rfl⟩,
    ⟨_, _, rfl, rfl, fun t x y hx hy => rfl⟩, ⟨_, _, rfl, rfl, fun t x y hx hy => rfl⟩,
    ⟨_, _, rfl, rfl, fun t x y hx hy => rfl⟩,
    ⟨_, _, rfl, rfl, fun t x y hx hy => congrArg (·, 0) (andnElem_eq hx hy)⟩,
    ⟨_, _, rfl, rfl, fun t x y hx hy => congrArg (·, 0) (shlElem_eq hx)⟩,
    ⟨_, _, rfl, rfl, fun t x y hx hy => congrArg (·, 0) (shrElem_eq hx)⟩,
    ⟨_, _, rfl, rfl, fun t x y hx hy => congrArg (·, 0) (sraElem_eq (hw t) hx)⟩⟩

/-- Settles O27: each row runs as `vintWord`, with its two second sources. -/
theorem integerVectorWordsComplete : Obligations.IntegerVectorWordsComplete := by
  intro s t d a b m h hd ha hm e he ht
  obtain ⟨mul, f, hg, hs, hf⟩ := exec_vint s d a b m e he
  refine ⟨fun hb => ?_, fun hb => ?_⟩
  · rw [hg]
    exact vintWord_ended h hd ha hm ht rfl hb (hf t)
  · rw [hs]
    exact vintWord_ended h hd ha hm ht (isH_iff.2 hb) rfl (hf t)

end Sys2Proof.Machine
end

section
/-!
LAW. The float words of VFLT, VFLTS and VFMA, and the dot products (R35, R42, R88, R89). Settles O28.
-/

namespace Sys2Proof.Machine

theorem floatFit_of {small : Bool} {e : ElemType} (h : floatType small e) : floatFit small e = true := by
  obtain rfl | rfl | rfl | rfl | ⟨rfl, rfl | rfl⟩ := h <;> simp [floatFit]

/-! ### VFLT and VFLTS (R88) -/

theorem vfltWord_ended {s : State} {t : VType} (h : VectorIssuing s t) {d a : BitVec 5} {m : BitVec 3} {b : SecondSource}
    {small : Bool} {c lat : Nat} {f : FloatOp} (hd : t.aligned d = true) (ha : t.aligned a = true)
    (hm : governFits s.hart m = true) (he : floatType small t.et) (hw : b.wf = true) (hb : b.aligned t = true) :
    Ended (vfltWord s d a b m small c lat f) (elementOp s t (t.dest s.hart d) m true
      (fun i => f (floatFormat t.et) (arithMode s.hart) (source s t a i) (b.read s.hart t i))) := by
  unfold vfltWord
  refine h.vectorOp hw ?_ h.issuing.elementOp
  simp [floatFit_of he, hd, ha, hb, hm]

theorem vfltUnary_ended {s : State} {t : VType} (h : VectorIssuing s t) {d a : BitVec 5} {m : BitVec 3} {small : Bool}
    {c lat : Nat} {f : FloatFormat → RoundMode → Nat → Nat × Flags} (hd : t.aligned d = true) (ha : t.aligned a = true)
    (hm : governFits s.hart m = true) (he : floatType small t.et) :
    Ended (vfltUnary s d a m small c lat f) (elementOp s t (t.dest s.hart d) m true
      (fun i => f (floatFormat t.et) (arithMode s.hart) (source s t a i))) := by
  unfold vfltUnary
  exact vfltWord_ended h hd ha hm he rfl ha

/-- Each row of VFLT and VFLTS is `vfltWord` with the row's operation. -/
theorem exec_vflt (s : State) (d a b : BitVec 5) (m : BitVec 3) : ∀ e ∈ vfltTable, ∃ c lat,
    exec (e.1 d a b m) s = vfltWord s d a (.group b) m e.2.2.1 c lat e.2.2.2 ∧
    exec (e.2.1 d a b m) s = vfltWord s d a (.scalar b) m e.2.2.1 c lat e.2.2.2 := by
  simp only [vfltTable, List.forall_mem_cons, List.not_mem_nil, false_imp_iff, implies_true, and_true]
  exact ⟨⟨_, _, rfl, rfl⟩, ⟨_, _, rfl, rfl⟩, ⟨_, _, rfl, rfl⟩, ⟨_, _, rfl, rfl⟩, ⟨_, _, rfl, rfl⟩, ⟨_, _, rfl, rfl⟩⟩

/-! ### VFMA (R89) -/

/-- A word of VFMA reads three groups of its type: it fits VTYPE where its type and its fields do. -/
theorem threeGroups_fit {t : VType} {d a b : BitVec 5} {p q : Bool} (hp : p = true) (hd : t.aligned d = true)
    (ha : t.aligned a = true) (hb : t.aligned b = true) (hq : q = true) :
    (p && t.aligned d && t.aligned a && t.aligned b && q) = true := by
  simp [hp, hd, ha, hb, hq]

theorem vfmaWord_ended {s : State} {t : VType} (h : VectorIssuing s t) {d a b : BitVec 5} {m : BitVec 3}
    {negProd negAdd : Bool} (hd : t.aligned d = true) (ha : t.aligned a = true) (hb : t.aligned b = true)
    (hm : governFits s.hart m = true) (he : floatType false t.et) :
    Ended (vfmaWord s d a b m negProd negAdd) (elementOp s t (t.dest s.hart d) m true
      (fun i => (floatFormat t.et).fma (arithMode s.hart) negProd negAdd (source s t a i) (source s t b i) (source s t d i))) := by
  unfold vfmaWord
  exact h.vectorOp rfl (threeGroups_fit (floatFit_of he) hd ha hb hm) h.issuing.elementOp

theorem execVmac_ended {s : State} {t : VType} (h : VectorIssuing s t) {d a b : BitVec 5} {m : BitVec 3}
    (hd : t.aligned d = true) (ha : t.aligned a = true) (hb : t.aligned b = true) (hm : governFits s.hart m = true)
    (he : t.et.isInt = true) : Ended (execVmac d a b m s) (elementOp s t (t.dest s.hart d) m true (fun i => assigned t
      (integerValue t (source s t d i) + integerValue t (source s t a i) * integerValue t (source s t b i)))) := by
  unfold execVmac
  refine (h.vectorOp rfl (threeGroups_fit he hd ha hb hm) h.issuing.elementOp).congr <|
    congrArg (elementOp s t _ m true) <| funext fun i => ?_
  rw [assignInteger_eq, toInteger_eq t (elem_lt _ _ _), toInteger_eq t (elem_lt _ _ _), toInteger_eq t (elem_lt _ _ _)]
  rfl

/-- The products of the elements below the length, added one by one, are their sum with 0 for the others. -/
theorem foldl_dotIndices (vl k j : Nat) (f : Nat → Int) (z : Int) :
    (dotIndices vl k j).foldl (fun acc i => acc + f i) z =
      ((List.range k).map (fun n => if k * j + n < vl then f (k * j + n) else 0)).sum + z := by
  unfold dotIndices
  generalize List.range k = l
  induction l generalizing z with
  | nil => simp
  | cons n l ih =>
    by_cases hn : k * j + n < vl
    · simp only [List.filterMap_cons, hn, if_true, List.foldl_cons, ih, List.map_cons, List.sum_cons]
      ring
    · simp only [List.filterMap_cons, hn, if_false, ih, List.map_cons, List.sum_cons]
      ring

/-- The type of the 32-bit elements that VDOT4 adds to. -/
def wideType (t : VType) : VType := { t with et := if t.et = .i8 then .i32 else .n32 }

theorem execVdot4_ended {s : State} {t : VType} (h : VectorIssuing s t) {d a b : BitVec 5} {m : BitVec 3}
    (hd : t.aligned d = true) (ha : t.aligned a = true) (hb : t.aligned b = true) (hm : governFits s.hart m = true)
    (he : t.et = .i8 ∨ t.et = .n8) : Ended (execVdot4 d a b m s) (elementOp s t (t.dotDest s.hart d 4) m true (fun j =>
      assigned (wideType t) (((List.range 4).map (fun k => if 4 * j + k < s.hart.cs.vl then
          integerValue t (source s t a (4 * j + k)) * integerValue t (source s t b (4 * j + k)) else 0)).sum +
        integerValue (wideType t) (elem 32 (groupBits s.hart d.toNat t.group) j)))) := by
  have hw : t.et.width = 8 := by obtain he | he := he <;> rw [he] <;> rfl
  have hww : (wideType t).et.width = 32 := by unfold wideType; dsimp only; split <;> rfl
  have hws : (wideType t).et.isSigned = t.et.isSigned := by obtain he | he := he <;> simp [wideType, he, ElemType.isSigned]
  have hf : (t.et == .i8 || t.et == .n8) = true := by simpa using he
  have hz (j : Nat) : toInteger t.et.isSigned 32 (elem 32 (groupBits s.hart d.toNat t.group) j) =
      integerValue (wideType t) (elem 32 (groupBits s.hart d.toNat t.group) j) := by
    rw [← toInteger_eq _ (by rw [hww]; exact elem_lt _ _ _), hws, hww]
  have hx (r : BitVec 5) (i : Nat) : toInteger t.et.isSigned 8 (elem 8 (groupBits s.hart r.toNat t.group) i) =
      integerValue t (source s t r i) := by
    rw [source, ← toInteger_eq _ (elem_lt _ _ _), hw]
  unfold execVdot4
  refine (h.vectorOp rfl (threeGroups_fit hf hd ha hb hm) h.issuing.elementOp).congr <|
    congrArg (elementOp s t _ m true) <| funext fun j => ?_
  rw [foldl_dotIndices, hz, ← assignInteger_eq, hww, hws]
  simp only [hx, wideType]

theorem execVdot2_ended {s : State} {t : VType} (h : VectorIssuing s t) {d a b : BitVec 5} {m : BitVec 3}
    (hd : t.aligned d = true) (ha : t.aligned a = true) (hb : t.aligned b = true) (hm : governFits s.hart m = true)
    (he : t.et = .f16 ∨ t.et = .bf16) :
    Ended (execVdot2 d a b m s) (elementOp s t (t.dotDest s.hart d 2) m true (fun j =>
      let p (n : Nat) : Option FloatVal :=
        mulExact ((floatFormat t.et).value (if n < s.hart.cs.vl then source s t a n else 0))
          ((floatFormat t.et).value (if n < s.hart.cs.vl then source s t b n else 0))
      (floatFormat .f32).fusedSum (arithMode s.hart) [p (2 * j), p (2 * j + 1),
        some ((floatFormat .f32).value (elem 32 (groupBits s.hart d.toNat t.group) j))])) := by
  have hw : t.et.width = 16 := by obtain he | he := he <;> rw [he] <;> rfl
  have hf : (t.et == .f16 || t.et == .bf16) = true := by simpa using he
  unfold execVdot2
  refine (h.vectorOp rfl (threeGroups_fit hf hd ha hb hm) h.issuing.elementOp).congr ?_
  simp only [floatVal, source, hw]

/-- Settles O28: each word by the equation of its group, with the operation of its row. -/
theorem floatVectorWordsComplete : Obligations.FloatVectorWordsComplete := by
  intro s t d a b m h hd ha hm
  dsimp only
  refine ⟨fun e he ht => ?_, fun ht => ?_, fun ht => ⟨?_, ?_, fun hb => ⟨?_, ?_⟩⟩, fun hb =>
    ⟨fun ht => ⟨?_, ?_, ?_, ?_⟩, execVmac_ended h hd ha hb hm, execVdot4_ended h hd ha hb hm, execVdot2_ended h hd ha hb hm⟩⟩
  · obtain ⟨c, lat, hg, hs⟩ := exec_vflt s d a b m e he
    rw [hg, hs]
    exact ⟨fun hb => vfltWord_ended h hd ha hm ht rfl hb, fun hb => vfltWord_ended h hd ha hm ht (isH_iff.2 hb) rfl⟩
  · change Ended (execVfsqrt d a m s) _
    unfold execVfsqrt
    exact vfltUnary_ended h hd ha hm ht
  · change Ended (execVfabs d a m s) _
    unfold execVfabs
    exact vfltUnary_ended h hd ha hm ht
  · change Ended (execVfneg d a m s) _
    unfold execVfneg
    exact vfltUnary_ended h hd ha hm ht
  · change Ended (execVadds d a b m s) _
    unfold execVadds
    exact vfltWord_ended h hd ha hm ht rfl hb
  · change Ended (execVsubs d a b m s) _
    unfold execVsubs
    exact vfltWord_ended h hd ha hm ht rfl hb
  all_goals exact vfmaWord_ended h hd ha hb hm ht

end Sys2Proof.Machine
end

section
/-!
LAW. Bits of a number as a list of positions, and the comparisons and mask words (R102 to R105). Settles O33.
-/

namespace Sys2Proof.Machine

/-! ### The positions of the ones of a number -/

/-- Positions above the last one do not matter to the list of the ones. -/
theorem filter_range_of_lt {p : Nat → Bool} {n k : Nat} (hnk : n ≤ k) (hp : ∀ i, p i = true → i < n) :
    (List.range k).filter p = (List.range n).filter p := by
  obtain ⟨j, rfl⟩ := Nat.exists_eq_add_of_le hnk
  rw [List.range_add, List.filter_append, List.append_right_eq_self.2]
  refine List.filter_eq_nil_iff.2 fun i hi hpi => ?_
  obtain ⟨x, -, rfl⟩ := List.mem_map.1 hi
  exact absurd (hp _ hpi) (by omega)

theorem filter_testBit_succ (w x : Nat) : (List.range (w + 1)).filter x.testBit =
    (if x % 2 = 1 then [0] else []) ++ ((List.range w).filter (x / 2).testBit).map (· + 1) := by
  have hs : x.testBit ∘ Nat.succ = (x / 2).testBit := funext fun i => Nat.testBit_succ x i
  rw [List.range_succ_eq_map, List.filter_cons, List.filter_map, hs, Nat.testBit_zero]
  by_cases h : x % 2 = 1 <;> simp [h]

theorem popCount_eq_length (w x : Nat) : popCount w x = ((List.range w).filter x.testBit).length := by
  induction w generalizing x with
  | zero => rfl
  | succ w ih =>
    rw [filter_testBit_succ, popCount, ih, List.length_append, List.length_map]
    by_cases h : x % 2 = 1
    · simp [h]
    · simp [Nat.mod_two_ne_one.1 h]

/-- The trailing zeros of a number other than 0 are the position of its lowest one. -/
theorem head_filter_testBit {w x : Nat} (h0 : x ≠ 0) (hx : x < 2 ^ w) :
    ((List.range w).filter x.testBit).head? = some (trailingZeros w x) := by
  induction w generalizing x with
  | zero => exact absurd hx (by simpa [Nat.pos_iff_ne_zero] using h0)
  | succ w ih =>
    rw [filter_testBit_succ, trailingZeros]
    by_cases h : x % 2 = 1
    · simp [h]
    · have := ih (x := x / 2) (by omega) (by rw [Nat.pow_succ] at hx; omega)
      simp [h, this, Nat.add_comm]

/-- The ones of the low `n` bits of a number, counted or found within the width that holds them. -/
theorem filter_mod_two_pow (v n : Nat) :
    (List.range ((v % 2 ^ n).log2 + 1)).filter (v % 2 ^ n).testBit = (List.range n).filter v.testBit := by
  have hlow (i : Nat) (h : (v % 2 ^ n).testBit i = true) : i < (v % 2 ^ n).log2 + 1 ∧ i < n := by
    refine ⟨?_, by simpa using (Bool.and_eq_true_iff.1 ((Nat.testBit_mod_two_pow v n i).symm.trans h)).1⟩
    by_contra hi
    rw [Nat.testBit_lt_two_pow (Nat.lt_of_lt_of_le Nat.lt_log2_self (Nat.pow_le_pow_right (by omega) (by omega)))] at h
    cases h
  have hn : (List.range n).filter v.testBit = (List.range n).filter (v % 2 ^ n).testBit :=
    List.filter_congr fun i hi => by simp [Nat.testBit_mod_two_pow, List.mem_range.1 hi]
  rw [hn, ← filter_range_of_lt (Nat.le_add_right _ n) fun i h => (hlow i h).1,
    ← filter_range_of_lt (Nat.le_add_left n _) fun i h => (hlow i h).2]

/-! ### VCMP and VCMPS (R104) -/

theorem isMask_iff {r : BitVec 5} : isMask r = true ↔ r.toNat < 8 := by simp [isMask, BitVec.lt_def]

theorem vcmpWord_ended {s : State} {t : VType} (h : VectorIssuing s t) {d a : BitVec 5} {m : BitVec 3} {b : SecondSource}
    {fit : ElemType → Bool} {f : ElemType → Nat → Nat → Bool} {g : Nat → Nat → Bool} (hd : d.toNat < 8)
    (ha : t.aligned a = true) (hm : s.hart.cs.vl ≤ regBits s.hart) (he : fit t.et = true) (hw : b.wf = true)
    (hb : b.aligned t = true) (hf : ∀ x y, x < 2 ^ t.et.width → y < 2 ^ t.et.width → f t.et x y = g x y) :
    Ended (vcmpWord s d a b m fit f) (maskOp s t d m (fun i => g (source s t a i) (b.read s.hart t i))) := by
  unfold vcmpWord
  refine (h.vectorOp ?_ ?_ h.issuing.maskOp).congr <| congrArg (maskOp s t d m) <| funext fun i =>
    hf _ _ (elem_lt _ _ _) (secondSource_lt b s.hart t i)
  · simp [isMask_iff.2 hd, hw]
  · simp [he, ha, hb, maskFits, hm]

/-- Each row of VCMP and VCMPS is `vcmpWord`, with the row's types and its relation. -/
theorem exec_vcmp (s : State) (d a b : BitVec 5) (m : BitVec 3) : ∀ e ∈ vcmpTable, ∃ fit f,
    exec (e.1 d a b m) s = vcmpWord s d a (.group b) m fit f ∧
    exec (e.2.1 d a b m) s = vcmpWord s d a (.scalar b) m fit f ∧ (∀ et, e.2.2.1 et → fit et = true) ∧
    ∀ (t : VType) (x y : Nat), x < 2 ^ t.et.width → y < 2 ^ t.et.width → f t.et x y = e.2.2.2 t x y := by
  simp only [vcmpTable, List.forall_mem_cons, List.not_mem_nil, false_imp_iff, implies_true, and_true]
  dsimp only [exec, execVceq, execVcne, execVclt, execVcle, execVcltn, execVclen, execVfceq, execVfclt, execVfcle, execVfcun,
    execVcmpsVceq, execVcmpsVcne, execVcmpsVclt, execVcmpsVcle, execVcmpsVcltn, execVcmpsVclen, execVcmpsVfceq,
    execVcmpsVfclt, execVcmpsVfcle, execVcmpsVfcun, intCompare, floatCompare]
  have hs (t : VType) {x : Nat} (hx : x < 2 ^ t.et.width) := toSigned_eq (width_pos t.et) hx
  have hany (et : ElemType) (h : et.isInt = true ∨ et = .b1) : (et.isInt || (true && et == .b1)) = true := by simpa using h
  have hint (et : ElemType) (h : et.isInt = true) : (et.isInt || (false && et == .b1)) = true := by simpa using h
  have hfl (et : ElemType) (h : floatType true et) : floatFit true et = true := floatFit_of h
  refine ⟨⟨_, _, rfl, rfl, hany, fun t x y hx hy => rfl⟩, ⟨_, _, rfl, rfl, hany, fun t x y hx hy => rfl⟩,
    ⟨_, _, rfl, rfl, hint, fun t x y hx hy => by rw [hs t hx, hs t hy]⟩,
    ⟨_, _, rfl, rfl, hint, fun t x y hx hy => by rw [hs t hx, hs t hy]⟩,
    ⟨_, _, rfl, rfl, hint, fun t x y hx hy => rfl⟩, ⟨_, _, rfl, rfl, hint, fun t x y hx hy => rfl⟩,
    ⟨_, _, rfl, rfl, hfl, fun t x y hx hy => rfl⟩, ⟨_, _, rfl, rfl, hfl, fun t x y hx hy => rfl⟩,
    ⟨_, _, rfl, rfl, hfl, fun t x y hx hy => rfl⟩, ⟨_, _, rfl, rfl, hfl, fun t x y hx hy => rfl⟩⟩

/-! ### VMOP (R105) -/

theorem vmopWord_ended {s : State} {t : VType} (h : VectorIssuing s t) {d : BitVec 5} {srcs : List (BitVec 5)}
    {f : Hart → Nat → Bool} (hd : d.toNat < 8) (hs : ∀ r ∈ srcs, r.toNat < 8) (hm : s.hart.cs.vl ≤ regBits s.hart) :
    Ended (vmopWord s d srcs f) (maskOp s t d 0 (f s.hart)) := by
  unfold vmopWord
  refine h.vectorOp ?_ ?_ h.issuing.maskOp
  · simpa [isMask_iff.2 hd] using fun r hr => isMask_iff.2 (hs r hr)
  · simpa [maskFits] using hm

theorem maskToH_ended {s : State} {t : VType} (h : VectorIssuing s t) {d a : BitVec 5} {f : Nat → Nat} {v : Word}
    (hd : d.toNat < 16) (ha : a.toNat < 8) (hm : s.hart.cs.vl ≤ regBits s.hart)
    (hv : f (maskBits s.hart a.toNat % 2 ^ s.hart.cs.vl) = v.toNat) : Ended (maskToH s d a f) (toH s d v) := by
  unfold maskToH
  refine (h.vectorOp ?_ ?_ ?_).congr ((h.issuing.wholeOp _ _).trans (by rw [hv]; rfl))
  · simp [isMask_iff.2 ha, isH_iff.2 hd]
  · simpa [maskFits] using hm
  · rw [h.issuing.wholeOp]
    exact ⟨rfl, h.issuing.untimed⟩

/-- The positions of the ones of m[a] below VL. -/
abbrev maskOnes (h : Hart) (a : BitVec 5) : List Nat :=
  (List.range h.cs.vl).filter ((vget h.ve.m a.toNat 0).getLsbD ·)

theorem regBits_lt (h : Hart) : regBits h < 2 ^ 64 :=
  (Nat.div_le_self _ _).trans_lt (by norm_num)

theorem firstOne_toNat {h : Hart} {a : BitVec 5} (hm : h.cs.vl ≤ regBits h) :
    let v := maskBits h a.toNat % 2 ^ h.cs.vl
    (if v = 0 then 2 ^ 64 - 1 else trailingZeros (v.log2 + 1) v) = (match (maskOnes h a).head? with
      | some i => BitVec.ofNat 64 i
      | none => BitVec.allOnes 64).toNat := by
  intro v
  have hs : maskOnes h a = (List.range (v.log2 + 1)).filter v.testBit := (filter_mod_two_pow _ _).symm
  by_cases h0 : v = 0
  · simp [hs, h0]
  · have ht := head_filter_testBit h0 Nat.lt_log2_self
    have hl : trailingZeros (v.log2 + 1) v < h.cs.vl := by
      have := List.mem_of_mem_head? (hs ▸ ht : (maskOnes h a).head? = _)
      exact List.mem_range.1 (List.mem_filter.1 this).1
    rw [hs, ht, if_neg h0, BitVec.toNat_ofNat, Nat.mod_eq_of_lt (by have := regBits_lt h; omega)]

theorem countOnes_toNat {h : Hart} {a : BitVec 5} (hm : h.cs.vl ≤ regBits h) :
    let v := maskBits h a.toNat % 2 ^ h.cs.vl
    popCount (v.log2 + 1) v = (BitVec.ofNat 64 (maskOnes h a).length).toNat := by
  intro v
  have hl : (maskOnes h a).length ≤ h.cs.vl := (List.length_filter_le _ _).trans (by simp)
  rw [popCount_eq_length, filter_mod_two_pow, BitVec.toNat_ofNat, Nat.mod_eq_of_lt (by have := regBits_lt h; omega)]
  rfl

theorem execVmerge_ended {s : State} {t : VType} (h : VectorIssuing s t) {d a b : BitVec 5} {m : BitVec 3}
    (hd : t.aligned d = true) (ha : t.aligned a = true) (hb : t.aligned b = true) (hm : governFits s.hart m = true) :
    Ended (execVmerge d a b m s) (elementOp s t (t.dest s.hart d) 0 false
      (fun i => (if isActive s.hart m i then source s t b i else source s t a i, 0))) := by
  unfold execVmerge
  exact h.vectorOp rfl (by simp [hd, ha, hb, hm]) h.issuing.elementOp

/-- Settles O33: comparisons by their rows, mask words bit by bit, and the summaries by the list of the ones. -/
theorem comparisonsAndMaskWordsComplete : Obligations.ComparisonsAndMaskWordsComplete := by
  intro s t d a b m h
  refine ⟨fun hm => ⟨fun hd ha e he ht => ?_, fun hd => ⟨fun ha hb => ?_, fun ha => ?_, ?_, ?_⟩, fun hd ha => ⟨?_, ?_⟩⟩,
    fun hd ha hb hm => execVmerge_ended h hd ha hb hm⟩
  · obtain ⟨fit, f, hg, hs, hfit, hf⟩ := exec_vcmp s d a b m e he
    rw [hg, hs]
    exact ⟨fun hb => vcmpWord_ended h hd ha hm (hfit _ ht) rfl hb (hf t),
      fun hb => vcmpWord_ended h hd ha hm (hfit _ ht) (isH_iff.2 hb) rfl (hf t)⟩
  · have hab : ∀ r ∈ [a, b], r.toNat < 8 := by simp [ha, hb]
    dsimp only [exec, execMand, execMor, execMxor, execMandn]
    exact ⟨vmopWord_ended h hd hab hm, vmopWord_ended h hd hab hm, vmopWord_ended h hd hab hm, vmopWord_ended h hd hab hm⟩
  · dsimp only [exec, execMnot]
    exact vmopWord_ended h hd (by simp [ha]) hm
  · dsimp only [exec, execMset]
    exact vmopWord_ended h hd (by simp) hm
  · dsimp only [exec, execMclr]
    exact vmopWord_ended h hd (by simp) hm
  · dsimp only [exec, execMfirst]
    exact maskToH_ended h hd ha hm (firstOne_toNat hm)
  · dsimp only [exec, execMpopc]
    exact maskToH_ended h hd ha hm (countOnes_toNat hm)

end Sys2Proof.Machine
end

section
/-!
LAW. The words of VPERM, lane by lane (R83, R92). Settles O30.
-/

namespace Sys2Proof.Machine

theorem apart_of {t : VType} {d a : BitVec 5} (h : d.toNat + t.group ≤ a.toNat ∨ a.toNat + t.group ≤ d.toNat) :
    t.apart d a = true := by
  simp only [VType.apart, overlap, Bool.not_eq_true', decide_eq_false_iff_not]
  omega

theorem vpermWord_ended {s : State} {t : VType} (h : VectorIssuing s t) {wf : Bool} {fit : VType → Bool} {d : BitVec 5}
    {m : BitVec 3} {reads : VType → List RegId} {c lat : Nat} {lanes : State → VType → List (Option Nat)} (hw : wf = true)
    (hf : fit t = true) (hd : t.aligned d = true) (hm : governFits s.hart m = true) :
    Ended (vpermWord s wf fit d m reads c lat lanes) (crossOp s t (t.dest s.hart d) (lanes s t)) := by
  unfold vpermWord
  exact h.vectorOp hw (by simp [hf, hd, hm]) h.issuing.crossOp

/-! ### The lanes of the words that gather and spread -/

/-- VPUSH: after the first `k` elements, place `i` holds the value of the last of them that named it. -/
theorem pushLanes_eq (act : Nat → Bool) (x y : Nat → Nat) (vl k : Nat) :
    (List.range k).foldl (fun l i => if act i && decide (y i < vl) then l.set (y i) (some (x i)) else l)
      (List.replicate vl none) =
    (List.range vl).map (fun i => (((List.range k).filter (fun j => act j && y j == i)).getLast?).map x) := by
  induction k with
  | zero => simp
  | succ k ih =>
    rw [List.range_succ, List.foldl_append, ih, List.foldl_cons, List.foldl_nil]
    refine List.ext_getElem (by split <;> simp) fun i hi hi' => ?_
    have hvl : i < vl := by simpa using hi'
    by_cases ha : act k = true
    · by_cases hy : y k = i
      · simp [ha, hy, hvl, List.filter_append]
      · by_cases hk : y k < vl <;> simp [ha, hy, hk, List.filter_append]
    · simp [ha, List.filter_append]

/-- VCMPR: the values of a list of elements at the bottom, and `off` in the places above them. -/
theorem packedLanes_eq (l : List Nat) (x : Nat → Nat) (off : Option Nat) {vl : Nat} (hl : l.length ≤ vl) :
    l.map (fun i => some (x i)) ++ List.replicate (vl - (l.map (fun i => some (x i))).length) off =
    (List.range vl).map (fun i => match l[i]? with
      | some j => some (x j)
      | none => off) := by
  refine List.ext_getElem (by simp; omega) fun i hi hi' => ?_
  by_cases h : i < l.length
  · simp [h]
  · simp [List.getElem_append, h]

/-- VEXPD: an active element takes the source element that the number of active elements below it names. -/
theorem expandLanes_eq (act : Nat → Bool) (x : Nat → Nat) (off : Option Nat) (n a : Nat) :
    expandLanes act x off (List.range' a n) ((List.range a).countP act) =
    (List.range' a n).map (fun i => if act i then some (x ((List.range i).countP act)) else off) := by
  induction n generalizing a with
  | zero => rfl
  | succ n ih =>
    have ha := ih (a + 1)
    rw [List.range_succ, List.countP_append] at ha
    by_cases h : act a = true
    · simp [List.range'_succ, expandLanes, h, ← ha]
    · simp [List.range'_succ, expandLanes, h, ← ha]

theorem onesBelow_eq (v i : Nat) : onesBelow v i = (List.range i).countP v.testBit := by
  rw [onesBelow, popCount_eq_length, List.countP_eq_length_filter]

theorem width_le (e : ElemType) : e.width ≤ 64 := by cases e <;> decide

/-- An element extended by its class (R92, R93). -/
theorem extendElem_eq (t : VType) {x : Nat} (hx : x < 2 ^ t.et.width) :
    extendElem t.et x = (BitVec.ofInt 64 (integerValue t x)).toNat := by
  unfold extendElem integerValue
  split
  · rw [toSigned_eq (width_pos _) hx, lowBits_eq]
  · have := hx.trans_le (Nat.pow_le_pow_right (by omega) (width_le t.et))
    simp [BitVec.ofInt_natCast, Nat.mod_eq_of_lt this]

theorem execVext_ended {s : State} {t : VType} (h : VectorIssuing s t) {d a b : BitVec 5} (hd : d.toNat < 16)
    (ha : t.aligned a = true) (hb : b.toNat < 16) : Ended (execVext d a b s) (toH s d
      (if (hRead s.hart b.toNat).toNat < s.hart.cs.vl then
        BitVec.ofInt 64 (integerValue t (source s t a (hRead s.hart b.toNat).toNat)) else 0)) := by
  unfold execVext
  refine (h.vectorOp (by simp [isH_iff.2 hd, isH_iff.2 hb]) ha ?_).congr ((h.issuing.wholeOp _ _).trans ?_)
  · rw [h.issuing.wholeOp]
    exact ⟨rfl, h.issuing.untimed⟩
  · rw [toH, apply_ite BitVec.toNat, source, ← extendElem_eq t (elem_lt _ _ _)]
    rfl

/-- Settles O30: each word by its lanes. -/
theorem movesOfElementsComplete : Obligations.MovesOfElementsComplete := by
  intro s t d a b m h hm
  refine ⟨fun hd => ⟨fun ha hda => ?_, fun hb => ?_, fun hi h8 => ?_⟩, fun ha hd hb => execVext_ended h hd ha hb⟩
  · dsimp only [exec, execVslup, execVsldn, execVgath, execVpush, execVcmpr, execVexpd]
    have hone : (t.aligned a && t.apart d a) = true := by simp [ha, apart_of hda]
    refine ⟨fun hb => ⟨?_, ?_⟩, fun h8 hb hdb => ?_, ?_, ?_⟩
    · exact vpermWord_ended h (isH_iff.2 hb) hone hd hm
    · exact vpermWord_ended h (isH_iff.2 hb) hone hd hm
    · have htwo : (decide (8 ≤ t.et.width) && t.aligned a && t.aligned b && t.apart d a && t.apart d b) = true := by
        simp [h8, ha, hb, apart_of hda, apart_of hdb]
      exact ⟨vpermWord_ended h rfl htwo hd hm,
        (vpermWord_ended h rfl htwo hd hm).congr (congrArg (crossOp s t _) (pushLanes_eq _ _ _ _ _))⟩
    · exact (vpermWord_ended h rfl hone hd hm).congr (congrArg (crossOp s t _)
        (packedLanes_eq _ _ _ ((List.length_filter_le _ _).trans (by simp))))
    · refine (vpermWord_ended h rfl hone hd hm).congr (congrArg (crossOp s t _) ?_)
      rw [List.range_eq_range']
      exact expandLanes_eq _ _ _ _ 0
  · dsimp only [exec, execVbcst]
    exact vpermWord_ended h (isH_iff.2 hb) rfl hd hm
  · have hf : indexFit t = true := by simp [indexFit, hi, h8]
    dsimp only [exec, execVid, execViota]
    refine ⟨vpermWord_ended h rfl hf hd hm, fun ha hv => ?_⟩
    refine (vpermWord_ended h (isMask_iff.2 ha) (by simp [hf, maskFits, hv]) hd hm).congr (congrArg (crossOp s t _) ?_)
    simp only [onesBelow_eq]
    rfl

end Sys2Proof.Machine
end

section
/-!
LAW. Conversions and special functions (R50 to R52, R94). Settles O32.
-/

namespace Sys2Proof.Machine

/-- A word that nothing asks to stop is not kept from stopping. -/
theorem unstopped_uncut {s : State} (h : s.issue.cut = none) (mixed : Bool) : unstopped s mixed = s := by
  unfold unstopped
  split
  · rw [← h]
  · rfl

theorem vcvtWord_ended {s : State} {t : VType} (h : VectorIssuing s t) {d a : BitVec 5} {m : BitVec 3}
    {dst : ElemType → Option ElemType} {dgroup : Nat → Option Nat} {r : ElemType} {g : Nat} (hr : dst t.et = some r)
    (hg : dgroup t.group = some g) (ha : t.aligned a = true) (hd : d.toNat % g = 0) (hm : governFits s.hart m = true) :
    Ended (vcvtWord s d a m dst dgroup) (elementWise s t ⟨d.toNat, g, r.width, s.hart.cs.vl⟩ m true (s.hart.cs.mode == 5#3)
      (fun i draw => convertElem t.sat (roundMode s.hart draw) t.et r (source s t a i))) := by
  have hu := unstopped_uncut h.issuing.uncut
  dsimp only [vcvtWord]
  refine (h.vectorOp rfl ?_ ?_).congr ?_
  · simp [hr, hg, ha, hd, hm]
  · rw [hu]
    exact h.issuing.elementWise
  · rw [hu, hr, hg]
    rfl

theorem narrowType_of : ∀ e ∈ narrowPairs, narrowType e.1 e.2.1 = some e.2.2 := by decide
theorem widenType_of : ∀ e ∈ widenPairs, widenType e.1 e.2.1 = some e.2.2 := by decide
theorem toIntType_of : ∀ e ∈ toIntegerPairs, toIntType e.1 e.2.1 = some e.2.2 := by decide
theorem toFloatType_of : ∀ e ∈ toFloatPairs, toFloatType e.1 e.2.1 = some e.2.2 := by decide

theorem vsfuWord_ended {s : State} {t : VType} (h : VectorIssuing s t) {d a : BitVec 5} {m : BitVec 3}
    {f : FloatFormat → FloatVal → Nat × Flags} (he : t.et = .f16 ∨ t.et = .bf16 ∨ t.et = .f32) (hd : t.aligned d = true)
    (ha : t.aligned a = true) (hm : governFits s.hart m = true) :
    Ended (vsfuWord s d a m f) (elementOp s t (t.dest s.hart d) m true
      (fun i => f (floatFormat t.et) ((floatFormat t.et).value (source s t a i)))) := by
  unfold vsfuWord
  refine h.vectorOp rfl ?_ h.issuing.elementOp
  obtain he | he | he := he <;> simp [he, hd, ha, hm]

/-! ### CVT.Q (R37, R52) -/

theorem isQuant_iff (e : ElemType) : e.isQuant = true ↔ e = .qn4 ∨ e = .qn8 := by cases e <;> simp [ElemType.isQuant]

theorem quantiseFit_of {e : ElemType} (h : e ∈ [ElemType.e2m1, .e4m3, .e5m2, .i4, .i8, .qn4, .qn8]) :
    quantiseFit e = true := by
  revert h e
  decide

/-- The group record of a block of a quantised type is well formed (R37). -/
theorem recordBad_of {e : ElemType} {r : Nat} (he : e = .qn4 ∨ e = .qn8)
    (h : r < 2 ^ 24 ∧ (e = .qn4 → r / 2 ^ 16 % 256 < 16)) : recordBad e.width r = false := by
  obtain ⟨h24, h16⟩ := h
  obtain rfl | rfl := he
  · have := h16 rfl
    simp only [recordBad, ElemType.width, Bool.or_eq_false_iff, Bool.and_eq_false_iff, decide_eq_false_iff_not]
    omega
  · simp only [recordBad, ElemType.width, Bool.or_eq_false_iff, Bool.and_eq_false_iff, decide_eq_false_iff_not]
    exact ⟨by omega, .inl rfl⟩

/-- The scale of the block of element `i` (R36, R37). -/
abbrev blockScale (s : State) (t : VType) (b : BitVec 5) (i : Nat) : Nat :=
  elem (if t.et = .qn4 ∨ t.et = .qn8 then 32 else 8) (vget s.hart.ve.v b.toNat 0).toNat (i / (8 * 2 ^ t.bs))

theorem blockScale_eq (s : State) {t : VType} (b : BitVec 5) (hbs : t.bs ≠ 0) (i : Nat) :
    elem (scaleWidth t.et) (vget s.hart.ve.v b.toNat 0).toNat (i / t.block) = blockScale s t b i := by
  simp only [scaleWidth, isQuant_iff, VType.block, if_neg hbs]

theorem execCvtQ_ended {s : State} {t : VType} (h : VectorIssuing s t) {d a b : BitVec 5} {m : BitVec 3}
    (he : t.et ∈ [ElemType.e2m1, .e4m3, .e5m2, .i4, .i8, .qn4, .qn8]) (hbs : t.bs ≠ 0)
    (hg8 : t.group * 32 / t.et.width ≤ 8) (ha : a.toNat % (t.group * 32 / t.et.width) = 0) (hd : t.aligned d = true)
    (hm : governFits s.hart m = true) (hrec : ∀ i < s.hart.cs.vl, isActive s.hart m i = true →
      t.et = .qn4 ∨ t.et = .qn8 → blockScale s t b i < 2 ^ 24 ∧ (t.et = .qn4 → blockScale s t b i / 2 ^ 16 % 256 < 16)) :
    Ended (execCvtQ d a b m s) (elementWise s t (t.dest s.hart d) m true (s.hart.cs.mode == 5#3) (fun i draw =>
      quantiseElem (roundMode s.hart draw) t.et
        (elem 32 (groupBits s.hart a.toNat (t.group * 32 / t.et.width)) i) (blockScale s t b i))) := by
  have hgood : (t.et.isQuant && (activeElems s.hart m).any (fun i => recordBad t.et.width (blockScale s t b i))) = false := by
    by_cases hq : t.et = .qn4 ∨ t.et = .qn8
    · simp only [activeElems, Bool.and_eq_false_iff, List.any_eq_false, List.mem_filter, List.mem_range, and_imp]
      exact .inr fun i hi hact => by simp [recordBad_of hq (hrec i hi hact hq)]
    · simp [Bool.eq_false_iff.2 (mt (isQuant_iff _).1 hq)]
  dsimp only [execCvtQ]
  rw [h.vtypeOf]
  refine h.issuing.runFixed rfl ?_ ?_ h.issuing.elementWise
  · simp [h.fits, quantiseFit_of he, hbs, hg8, ha, hd, hm]
  · simp only [blockScale_eq s b hbs, hgood, unstopped_uncut h.issuing.uncut]
    rfl

/-- Settles O32: the pairs of R51 by their tables, CVT.Q by its records, VSFU by its function. -/
theorem conversionsAndFunctionsComplete : Obligations.ConversionsAndFunctionsComplete := by
  intro s t d a b k m h hm
  refine ⟨fun ha => ⟨?_, ?_, ?_, ?_, ?_, ?_⟩, fun he hbs hg8 hag hd hrec => execCvtQ_ended h he hbs hg8 hag hd hm hrec⟩
  · rintro e he ht rfl hd
    dsimp only [exec, execCvtN]
    exact vcvtWord_ended h (ht ▸ narrowType_of e he) rfl ha hd hm
  · rintro e he ht rfl hg hd
    dsimp only [exec, execCvtW]
    exact vcvtWord_ended h (ht ▸ widenType_of e he) (if_neg (by omega)) ha hd hm
  · rintro e he ht rfl hd
    dsimp only [exec, execCvtFi]
    exact vcvtWord_ended h (ht ▸ toIntType_of e he) rfl ha (by simpa [VType.aligned] using hd) hm
  · rintro e he ht rfl hd
    dsimp only [exec, execCvtIf]
    exact vcvtWord_ended h (ht ▸ toFloatType_of e he) rfl ha (by simpa [VType.aligned] using hd) hm
  · intro ht hd
    dsimp only [exec, execCvtF4]
    exact vcvtWord_ended h (by simp [ht]) rfl ha hd hm
  · intro he hd
    dsimp only [exec, execVexp2, execVlog2, execVrcp, execVrsq, execVtanh]
    exact ⟨vsfuWord_ended h he hd ha hm, vsfuWord_ended h he hd ha hm, vsfuWord_ended h he hd ha hm,
      vsfuWord_ended h he hd ha hm, vsfuWord_ended h he hd ha hm⟩

end Sys2Proof.Machine
end

section
/-!
LAW. What a set of raised flags leaves in VFLAGS and the first-exception registers (R48), and the pairwise tree (R45).
-/

namespace Sys2Proof.Machine

/-! ### Raised flags (R48) -/

/-- Flag number `k` is raised with index `i`. -/
def Raises (rs : Raised) (i k : Nat) : Prop := ∃ f, (i, f) ∈ rs ∧ f.getLsbD k = true

@[simp] theorem raises_nil (i k : Nat) : Raises [] i k ↔ False := by simp [Raises]

@[simp] theorem raises_cons (x : Nat × Flags) (rs : Raised) (i k : Nat) :
    Raises (x :: rs) i k ↔ (x.1 = i ∧ x.2.getLsbD k = true) ∨ Raises rs i k := by
  obtain ⟨j, g⟩ := x
  simp only [Raises, List.mem_cons, Prod.mk.injEq]
  constructor
  · rintro ⟨f, ⟨rfl, rfl⟩ | h, hk⟩
    · exact .inl ⟨rfl, hk⟩
    · exact .inr ⟨f, h, hk⟩
  · rintro (⟨rfl, hk⟩ | ⟨f, h, hk⟩)
    · exact ⟨g, .inl ⟨rfl, rfl⟩, hk⟩
    · exact ⟨f, .inr h, hk⟩

@[simp] theorem raises_append (a b : Raised) (i k : Nat) : Raises (a ++ b) i k ↔ Raises a i k ∨ Raises b i k := by
  induction a with
  | nil => simp
  | cons x a ih => simp [ih, or_assoc]

/-- No flags at all raise nothing. -/
theorem raises_nonzero (n : Nat) (z : Flags) (i k : Nat) :
    Raises (if z = 0 then [] else [(n, z)]) i k ↔ Raises [(n, z)] i k := by
  split
  · next hz => simp [hz]
  · rfl

theorem raises_flatMap {l : List Nat} (g : Nat → Raised) (i k : Nat) :
    Raises (l.flatMap g) i k ↔ ∃ j ∈ l, Raises (g j) i k := by
  induction l with
  | nil => simp
  | cons j l ih => simp [ih]

theorem union_getLsbD (rs : Raised) (k : Nat) : rs.union.getLsbD k = rs.any (fun r => r.2.getLsbD k) := by
  have h (a : Flags) : (rs.foldl (fun a x => a ||| x.2) a).getLsbD k = (a.getLsbD k || rs.any (fun r => r.2.getLsbD k)) := by
    induction rs generalizing a with
    | nil => simp
    | cons x rs ih => simp [ih, Bool.or_assoc]
  exact (h 0).trans (by simp)

theorem first_eq (rs : Raised) (k : Nat) :
    rs.first k = ((rs.filter (fun r => r.2.getLsbD k)).map (·.1)).foldl min (2 ^ 64 - 1) := by
  rw [List.foldl_map, List.foldl_filter, Raised.first]

theorem first_le_iff (rs : Raised) (k n : Nat) : rs.first k ≤ n ↔ 2 ^ 64 - 1 ≤ n ∨ ∃ i ≤ n, Raises rs i k := by
  unfold Raised.first
  generalize 2 ^ 64 - 1 = a
  induction rs generalizing a with
  | nil => simp
  | cons x rs ih =>
    rw [List.foldl_cons, ih]
    by_cases hx : x.2.getLsbD k = true
    · simp only [hx, if_true, inf_le_iff, raises_cons, and_true, and_or_left, exists_or, or_assoc, exists_eq_right']
    · simp [hx]

/-- What flags leave behind depends only on which indices raise which of them. -/
theorem noteFlags_congr {a b : Raised} (h : ∀ i k, Raises a i k ↔ Raises b i k) (x : Hart) (start : Nat) (done : Bool) :
    noteFlags x start done a = noteFlags x start done b := by
  have hany (rs : Raised) (k : Nat) : rs.any (fun r => r.2.getLsbD k) = true ↔ ∃ i, Raises rs i k := by
    simp [Raises, List.any_eq_true]
  have hu : a.union = b.union := BitVec.eq_of_getLsbD_eq fun k _ => by
    rw [union_getLsbD, union_getLsbD, Bool.eq_iff_iff, hany, hany]
    simp [h]
  have hf (k : Nat) : a.first k = b.first k := eq_of_forall_ge_iff fun n => by simp [first_le_iff, h]
  have hp : partMinima x start a = partMinima x start b := by simp [partMinima, hf]
  simp [noteFlags, hu, hp]

theorem noteFlags_vflags (h : Hart) (rs : Raised) (k : Nat) : (noteFlags h 0 true rs).cs.vflags.getLsbD k =
    (h.cs.vflags.getLsbD k || rs.any (fun r => r.2.getLsbD k)) := by
  rw [← union_getLsbD, ← BitVec.getLsbD_or]
  rfl

theorem noteFlags_first (h : Hart) (rs : Raised) {k : Nat} (hk : k < 6) : vget (noteFlags h 0 true rs).cs.first k 0 =
    BitVec.ofNat 64 (((rs.filter (fun r => r.2.getLsbD k)).map (·.1)).foldl min (2 ^ 64 - 1)) := by
  have hm : min (2 ^ 64 - 1) (rs.first k) = rs.first k := min_eq_right ((first_le_iff rs k _).2 (.inl le_rfl))
  rw [← first_eq, ← hm]
  simp [noteFlags, mergeFlags, partMinima, vget, hk, word]

/-! ### The pairwise tree (R45) -/

theorem treeSize_eq (vl : Nat) : treeSize vl = 2 ^ Nat.clog 2 vl := by
  unfold treeSize
  split
  · rw [Nat.clog_of_right_le_one (by omega)]; rfl
  · refine congrArg (2 ^ ·) (eq_of_forall_ge_iff fun y => ?_)
    rw [Nat.clog_le_iff_le_pow (by omega), Nat.succ_le_iff, Nat.log2_lt (by omega)]
    omega

/-- The lowest live position below position `j` of a level. -/
def lowestLive (live : Nat → Bool) (n j : Nat) : Option Nat :=
  ((List.range (2 ^ n)).find? (fun i => live (2 ^ n * j + i))).map (2 ^ n * j + ·)

/-- Position `j` of a level of the tree, as the model holds it. -/
def pairNode (op : Nat → Nat → Nat × Flags) (leaf : Nat → Nat) (live : Nat → Bool) (n j : Nat) : TreeNode :=
  ⟨pairTree (fun p q => (op p q).1) leaf n j, lowestLive live n j⟩

theorem lowerIndex_lowestLive (live : Nat → Bool) (n j : Nat) :
    lowerIndex (lowestLive live n (2 * j)) (lowestLive live n (2 * j + 1)) = lowestLive live (n + 1) j := by
  have hr : List.range (2 ^ (n + 1)) = List.range (2 ^ n) ++ (List.range (2 ^ n)).map (2 ^ n + ·) := by
    rw [Nat.pow_succ, Nat.mul_two, List.range_add]
  have h0 : 2 ^ (n + 1) * j = 2 ^ n * (2 * j) := by ring
  have h1 (i : Nat) : 2 ^ n * (2 * j + 1) + i = 2 ^ n * (2 * j) + (2 ^ n + i) := by ring
  simp only [lowestLive, hr, List.find?_append, List.find?_map, Function.comp_def, h1, h0]
  cases hl : (List.range (2 ^ n)).find? (fun i => live (2 ^ n * (2 * j) + i)) with
  | none => cases (List.range (2 ^ n)).find? (fun i => live (2 ^ n * (2 * j) + (2 ^ n + i))) <;> rfl
  | some x =>
    have hx : x < 2 ^ n := List.mem_range.1 (List.mem_of_find?_eq_some hl)
    cases (List.range (2 ^ n)).find? (fun i => live (2 ^ n * (2 * j) + (2 ^ n + i))) with
    | none => rfl
    | some y => exact congrArg some (Nat.min_eq_left (by dsimp only; omega))

/-- The flags of the step that makes position `j` of level `n + 1`. -/
def stepRaised (op : Nat → Nat → Nat × Flags) (leaf : Nat → Nat) (live : Nat → Bool) (n j : Nat) : Raised :=
  (treeStep op (pairNode op leaf live n (2 * j)) (pairNode op leaf live n (2 * j + 1))).2

theorem treeStep_node (op : Nat → Nat → Nat × Flags) (leaf : Nat → Nat) (live : Nat → Bool) (n j : Nat) :
    (treeStep op (pairNode op leaf live n (2 * j)) (pairNode op leaf live n (2 * j + 1))).1 =
      pairNode op leaf live (n + 1) j := by
  simp only [treeStep, pairNode, lowerIndex_lowestLive, pairTree]

theorem treeLevel_nodes (op : Nat → Nat → Nat × Flags) (leaf : Nat → Nat) (live : Nat → Bool) (n a k : Nat) :
    treeLevel op ((List.range' (2 * a) (2 * k)).map (pairNode op leaf live n)) =
      ((List.range' a k).map (pairNode op leaf live (n + 1)), (List.range' a k).flatMap (stepRaised op leaf live n)) := by
  induction k generalizing a with
  | zero => rfl
  | succ k ih =>
    have h2 : 2 * (k + 1) = 2 * k + 1 + 1 := by ring
    have ha : 2 * a + 1 + 1 = 2 * (a + 1) := by ring
    rw [h2, List.range'_succ, List.range'_succ, List.range'_succ, ha, List.map_cons, List.map_cons, treeLevel, ih, treeStep_node]
    rfl

/-- A step counts where a live position feeds it. -/
theorem raises_stepRaised (op : Nat → Nat → Nat × Flags) (leaf : Nat → Nat) (live : Nat → Bool) (n j i k : Nat) :
    Raises (pairRaised op leaf live (n + 1) j) i k ↔ Raises (pairRaised op leaf live n (2 * j)) i k ∨
      Raises (pairRaised op leaf live n (2 * j + 1)) i k ∨ Raises (stepRaised op leaf live n j) i k := by
  rw [pairRaised, raises_append, raises_append, or_assoc, stepRaised, treeStep]
  simp only [pairNode, lowerIndex_lowestLive]
  refine or_congr_right (or_congr_right ?_)
  unfold lowestLive
  cases (List.range (2 ^ (n + 1))).find? (fun i => live (2 ^ (n + 1) * j + i)) with
  | none => simp
  | some x =>
    exact (raises_nonzero _ _ _ _).symm

theorem exists_lt_two_mul {p : Nat → Prop} {k : Nat} : (∃ j < 2 * k, p j) ↔ ∃ j < k, p (2 * j) ∨ p (2 * j + 1) := by
  constructor
  · rintro ⟨j, hj, hp⟩
    obtain h | h := Nat.even_or_odd' j |>.choose_spec
    · exact ⟨_, by omega, .inl (h ▸ hp)⟩
    · exact ⟨_, by omega, .inr (h ▸ hp)⟩
  · rintro ⟨j, hj, hp | hp⟩
    · exact ⟨2 * j, by omega, hp⟩
    · exact ⟨2 * j + 1, by omega, hp⟩

/-- All levels above level `n`, from its 2^m positions up. -/
theorem treeLevels_nodes (op : Nat → Nat → Nat × Flags) (leaf : Nat → Nat) (live : Nat → Bool) (m n : Nat) :
    (treeLevels op m ((List.range' 0 (2 ^ m)).map (pairNode op leaf live n))).1 = [pairNode op leaf live (n + m) 0] ∧
    ∀ i k, Raises (pairRaised op leaf live (n + m) 0) i k ↔
      (∃ j < 2 ^ m, Raises (pairRaised op leaf live n j) i k) ∨
      Raises (treeLevels op m ((List.range' 0 (2 ^ m)).map (pairNode op leaf live n))).2 i k := by
  induction m generalizing n with
  | zero => simp [treeLevels]
  | succ m ih =>
    obtain ⟨hv, hr⟩ := ih (n + 1)
    have hl := treeLevel_nodes op leaf live n 0 (2 ^ m)
    rw [Nat.mul_zero] at hl
    have hn : n + 1 + m = n + (m + 1) := by ring
    rw [Nat.pow_succ, Nat.mul_comm _ 2]
    simp only [treeLevels, hl, ← hn]
    refine ⟨hv, fun i k => ?_⟩
    rw [hr, raises_append, raises_flatMap]
    simp only [raises_stepRaised, List.mem_range'_1, Nat.zero_le, true_and, Nat.zero_add, exists_lt_two_mul]
    constructor
    · rintro (⟨j, hj, h | h | h⟩ | h)
      · exact .inl ⟨j, hj, .inl h⟩
      · exact .inl ⟨j, hj, .inr h⟩
      · exact .inr (.inl ⟨j, hj, h⟩)
      · exact .inr (.inr h)
    · rintro (⟨j, hj, h | h⟩ | ⟨j, hj, h⟩ | h)
      · exact .inl ⟨j, hj, .inl h⟩
      · exact .inl ⟨j, hj, .inr (.inl h)⟩
      · exact .inl ⟨j, hj, .inr (.inr h)⟩
      · exact .inr h

/-- The tree over the active elements below VL: its value, and the flags its steps raise. -/
theorem treeOf_eq (op : Nat → Nat → Nat × Flags) (identity vl : Nat) (act : Nat → Bool) (x : Nat → Nat) :
    let live (i : Nat) : Bool := decide (i < vl) && act i
    let leaf (i : Nat) : Nat := if live i then x i else identity
    (treeOf op identity vl act x).1 = pairTree (fun p q => (op p q).1) leaf (Nat.clog 2 vl) 0 ∧
    ∀ i k, Raises (treeOf op identity vl act x).2 i k ↔ Raises (pairRaised op leaf live (Nat.clog 2 vl) 0) i k := by
  intro live leaf
  obtain ⟨hv, hr⟩ := treeLevels_nodes op leaf live (Nat.clog 2 vl) 0
  have hl : (List.range (2 ^ Nat.clog 2 vl)).map (fun i =>
      if decide (i < vl) && act i then (⟨x i, some i⟩ : TreeNode) else ⟨identity, none⟩) =
      (List.range' 0 (2 ^ Nat.clog 2 vl)).map (pairNode op leaf live 0) := by
    rw [← List.range_eq_range']
    refine List.map_congr_left fun i _ => ?_
    cases hi : live i <;> simp [pairNode, lowestLive, pairTree, leaf, hi] <;> simpa [live] using hi
  unfold treeOf
  simp only [treeSize_eq, hl, Nat.log2_two_pow]
  refine ⟨by rw [hv, Nat.zero_add]; rfl, fun i k => ?_⟩
  rw [Nat.zero_add] at hr
  simp [hr, pairRaised]

end Sys2Proof.Machine
end

section
/-!
LAW. The reductions of VRED (R45, R48, R93).
-/

namespace Sys2Proof.Machine

/-! ### Whole writes of h registers -/

theorem applyWrite_whole_h (h : Hart) (n v : Nat) :
    applyWrite h (RegWrite.whole (.h n) v) = hWrite h n (BitVec.ofNat 64 v) := by
  unfold applyWrite RegWrite.whole mergeBits
  dsimp only
  congr 1
  have h1 : BitVec.ofNat 64 (2 ^ 64 - 1) = BitVec.allOnes 64 := rfl
  rw [BitVec.ofNat_xor, BitVec.ofNat_and, BitVec.ofNat_xor, h1, BitVec.and_allOnes, ← BitVec.xor_assoc, BitVec.xor_self,
    BitVec.zero_xor]

/-- Results that write the same come to the same. -/
theorem Ended.congr_writes {o : Outcome} {r r' : Result} (h : Ended o r) (hs : r.state = r'.state)
    (hw : ∀ x, applyWrites x r.writes = applyWrites x r'.writes) : Ended o r' := by
  obtain ⟨lat, rfl⟩ := h
  exact ⟨lat, by simp only [written, hs, hw]⟩

/-- What a reduction does: `v` into h[d], and the flags of `rs`. -/
abbrev reduced (s : State) (d : BitVec 5) (rs : Raised) (v : Word) : Result :=
  { toH s d v with state := s.mapHart (fun h => noteFlags h 0 true rs) }

theorem vredWord_ended {s : State} {t : VType} (h : VectorIssuing s t) {d a : BitVec 5} {m : BitVec 3}
    {fit : ElemType → Bool} {f : Hart → VType → (Nat → Nat) → Nat × Raised} {v : Word} {rs : Raised} (hd : d.toNat < 16)
    (ha : t.aligned a = true) (hm : governFits s.hart m = true) (he : fit t.et = true)
    (hv : BitVec.ofNat 64 (f s.hart t (source s t a)).1 = v)
    (hr : ∀ i k, Raises (f s.hart t (source s t a)).2 i k ↔ Raises rs i k) :
    Ended (vredWord s d a m fit f) (reduced s d rs v) := by
  unfold vredWord
  refine ((h.vectorOp (isH_iff.2 hd) (by simp [he, ha, hm]) ?_).congr (h.issuing.wholeOp _ _)).congr_writes ?_ fun x => ?_
  · rw [h.issuing.wholeOp]
    exact ⟨rfl, by simpa using h.issuing.untimed⟩
  · exact congrArg s.mapHart (funext fun x => noteFlags_congr hr x 0 true)
  · simp only [applyWrites, List.foldl_cons, List.foldl_nil, applyWrite_whole_h, toH, BitVec.ofNat_toNat, BitVec.setWidth_eq]
    rw [← hv]
    rfl

/-! ### Sums, extrema and logical reductions (R93) -/

theorem bitsOrInt_of {e : ElemType} (h : e.isInt = true ∨ e = .b1) : bitsOrInt e = true := by
  obtain h | h := h <;> simp [bitsOrInt, h]

theorem sum_elements (s : State) (t : VType) (a : BitVec 5) (l : List Nat) :
    l.foldl (fun acc i => acc + toInteger t.et.isSigned t.et.width (source s t a i)) 0 =
      (l.map (fun i => integerValue t (source s t a i))).sum := by
  have hv (i : Nat) := toInteger_eq t (elem_lt t.et.width (groupBits s.hart a.toNat t.group) i)
  simp only [source, hv, List.sum_eq_foldl, List.foldl_map]

theorem ofNat_lowBits (v : Int) : BitVec.ofNat 64 (lowBits 64 v) = BitVec.ofInt 64 v := by
  rw [lowBits_eq, BitVec.ofNat_toNat, BitVec.setWidth_eq]

theorem ofNat_extendElem (t : VType) {x : Nat} (hx : x < 2 ^ t.et.width) :
    BitVec.ofNat 64 (extendElem t.et x) = BitVec.ofInt 64 (integerValue t x) := by
  rw [extendElem_eq t hx, BitVec.ofNat_toNat, BitVec.setWidth_eq]

theorem execVrsum_narrow {s : State} {t : VType} (h : VectorIssuing s t) {d a : BitVec 5} {m : BitVec 3}
    (hd : d.toNat < 16) (ha : t.aligned a = true) (hm : governFits s.hart m = true) (he : t.et.isInt = true ∨ t.et = .b1)
    (hw : t.et.width ≠ 64) : Ended (execVrsum d a m s) (reduced s d []
      (BitVec.ofInt 64 ((activeElems s.hart m).map (fun i => integerValue t (source s t a i))).sum)) := by
  unfold execVrsum
  refine vredWord_ended h hd ha hm (bitsOrInt_of he) ?_ fun i k => ?_
  · simp [hw, sum_elements, ofNat_lowBits]
  · simp [hw]

theorem execVrsum_wide {s : State} {t : VType} (h : VectorIssuing s t) {d a : BitVec 5} {m : BitVec 3}
    (hd : d.toNat < 16) (ha : t.aligned a = true) (hm : governFits s.hart m = true) (he : t.et.isInt = true ∨ t.et = .b1)
    (hw : t.et.width = 64) :
    let z := assigned t ((activeElems s.hart m).map (fun i => integerValue t (source s t a i))).sum
    Ended (execVrsum d a m s) (reduced s d (if z.2 = 0 then [] else [((activeElems s.hart m).headD 0, z.2)])
      (BitVec.ofNat 64 z.1)) := by
  intro z
  have hz : assignInteger t.sat t.et.isSigned 64 ((activeElems s.hart m).map (fun i => integerValue t (source s t a i))).sum =
    z := by rw [← hw, assignInteger_eq]
  have hs := sum_elements s t a (activeElems s.hart m)
  rw [hw] at hs
  unfold execVrsum
  refine vredWord_ended h hd ha hm (bitsOrInt_of he) ?_ fun i k => ?_
  · simp [hw, hs, hz]
  · simp [hw, hs, hz]

/-- A fold of elements by an operation that stays in the type. -/
theorem plainReduce_ended {s : State} {t : VType} (h : VectorIssuing s t) {d a : BitVec 5} {m : BitVec 3}
    {fit : ElemType → Bool} {identity : ElemType → Nat} {f : ElemType → Nat → Nat → Nat} (hd : d.toNat < 16)
    (ha : t.aligned a = true) (hm : governFits s.hart m = true) (he : fit t.et = true)
    (h0 : identity t.et < 2 ^ t.et.width)
    (hf : ∀ x y, x < 2 ^ t.et.width → y < 2 ^ t.et.width → f t.et x y < 2 ^ t.et.width) :
    Ended (plainReduce s d a m fit identity f) (reduced s d [] (BitVec.ofInt 64 (integerValue t
      ((activeElems s.hart m).foldl (fun r i => f t.et r (source s t a i)) (identity t.et))))) := by
  unfold plainReduce
  refine vredWord_ended h hd ha hm he (ofNat_extendElem t ?_) fun i k => Iff.rfl
  exact List.foldlRecOn (motive := (· < 2 ^ t.et.width)) _ _ h0 fun r hr i _ => hf r _ hr (elem_lt _ _ _)

theorem integerValue_lowBits {t : VType} {v : Int} (hlo : minInteger t.et.isSigned t.et.width ≤ v)
    (hhi : v ≤ maxInteger t.et.isSigned t.et.width) : integerValue t (lowBits t.et.width v) = v := by
  have hw := width_pos t.et
  have h2 : 2 ^ t.et.width = 2 * 2 ^ (t.et.width - 1) := by rw [← Nat.pow_succ']; congr 1; omega
  have hp := Nat.two_pow_pos (t.et.width - 1)
  rw [lowBits_eq, integerValue]
  generalize t.et.width = w at *
  cases hs : t.et.isSigned with
  | true =>
    simp only [hs, minInteger, maxInteger, if_true] at hlo hhi ⊢
    rw [BitVec.ofNat_toNat, BitVec.setWidth_eq, BitVec.toInt_ofInt, Int.bmod_eq_of_le]
    all_goals omega
  | false =>
    simp only [hs, minInteger, maxInteger, if_false, Bool.false_eq_true] at hlo hhi ⊢
    rw [BitVec.toNat_ofInt, Int.emod_eq_of_lt hlo (by omega), Int.toNat_of_nonneg hlo]

/-- A fold of patterns has the value of the fold of values. -/
theorem integerValue_foldl (s : State) (t : VType) (a : BitVec 5) {f : Nat → Nat → Nat} {g : Int → Int → Int} {z : Nat}
    (hz : z < 2 ^ t.et.width)
    (hf : ∀ x y, x < 2 ^ t.et.width → y < 2 ^ t.et.width →
      f x y < 2 ^ t.et.width ∧ integerValue t (f x y) = g (integerValue t x) (integerValue t y)) (l : List Nat) :
    integerValue t (l.foldl (fun r i => f r (source s t a i)) z) =
      l.foldl (fun r i => g r (integerValue t (source s t a i))) (integerValue t z) := by
  induction l generalizing z with
  | nil => rfl
  | cons i l ih =>
    obtain ⟨hlt, hv⟩ := hf z (source s t a i) hz (elem_lt _ _ _)
    rw [List.foldl_cons, List.foldl_cons, ih hlt, hv]

theorem maxOf_value (t : VType) (x y : Nat) (hx : x < 2 ^ t.et.width) (hy : y < 2 ^ t.et.width) :
    maxOf t.et x y < 2 ^ t.et.width ∧ integerValue t (maxOf t.et x y) = max (integerValue t x) (integerValue t y) := by
  simp only [maxOf, toInteger_eq t hx, toInteger_eq t hy]
  split
  · exact ⟨hy, (max_eq_right (by omega)).symm⟩
  · exact ⟨hx, (max_eq_left (by omega)).symm⟩

theorem minOf_value (t : VType) (x y : Nat) (hx : x < 2 ^ t.et.width) (hy : y < 2 ^ t.et.width) :
    minOf t.et x y < 2 ^ t.et.width ∧ integerValue t (minOf t.et x y) = min (integerValue t x) (integerValue t y) := by
  simp only [minOf, toInteger_eq t hx, toInteger_eq t hy]
  split
  · exact ⟨hy, (min_eq_right (by omega)).symm⟩
  · exact ⟨hx, (min_eq_left (by omega)).symm⟩

theorem lowBits_lt (w : Nat) (v : Int) : lowBits w v < 2 ^ w := by
  rw [lowBits_eq]
  exact BitVec.isLt _

/-- A reduction whose steps are those of integers in the class of the type, from the value `v` on. -/
theorem plainReduce_value {s : State} {t : VType} (h : VectorIssuing s t) {d a : BitVec 5} {m : BitVec 3}
    {fit : ElemType → Bool} {identity : ElemType → Nat} {f : ElemType → Nat → Nat → Nat} {g : Int → Int → Int} {v : Int}
    (hd : d.toNat < 16) (ha : t.aligned a = true) (hm : governFits s.hart m = true) (he : fit t.et = true)
    (hi : identity t.et = lowBits t.et.width v) (hlo : minInteger t.et.isSigned t.et.width ≤ v)
    (hhi : v ≤ maxInteger t.et.isSigned t.et.width)
    (hf : ∀ x y, x < 2 ^ t.et.width → y < 2 ^ t.et.width →
      f t.et x y < 2 ^ t.et.width ∧ integerValue t (f t.et x y) = g (integerValue t x) (integerValue t y)) :
    Ended (plainReduce s d a m fit identity f) (reduced s d [] (BitVec.ofInt 64
      ((activeElems s.hart m).foldl (fun r i => g r (integerValue t (source s t a i))) v))) := by
  have hz : identity t.et < 2 ^ t.et.width := hi ▸ lowBits_lt _ _
  refine (plainReduce_ended h hd ha hm he hz fun x y hx hy => (hf x y hx hy).1).congr ?_
  rw [integerValue_foldl s t a hz hf, hi, integerValue_lowBits hlo hhi]

/-! ### Float trees (R35, R45) -/

theorem raises_append_nonzero (rs : Raised) (n : Nat) (z : Flags) (i k : Nat) :
    Raises (if z = 0 then rs else rs ++ [(n, z)]) i k ↔ Raises rs i k ∨ Raises [(n, z)] i k := by
  rw [← raises_nonzero, ← raises_append]
  split <;> simp

theorem raises_and_nonzero {p : Prop} [Decidable p] (n : Nat) (z : Flags) (i k : Nat) :
    Raises (if p ∧ z ≠ 0 then [(n, z)] else []) i k ↔ p ∧ Raises [(n, z)] i k := by
  rw [← raises_nonzero n z, ite_and, ite_not]
  split <;> simp_all

theorem floatTree_eq (f : FloatFormat) (op : Nat → Nat → Nat × Flags) (identity vl : Nat) (act : Nat → Bool) (x : Nat → Nat) :
    let live (i : Nat) : Bool := decide (i < vl) && act i
    let leaf (i : Nat) : Nat := if live i then x i else identity
    let z := pairTree (fun p q => (op p q).1) leaf (Nat.clog 2 vl) 0
    let alone : Raised := if vl ≤ 1 ∧ (f.value z).nvIfSignalling ≠ 0 then [(0, (f.value z).nvIfSignalling)] else []
    (floatTree f op identity vl act x).1 = (if (f.value z).isNaN then f.canonicalNaN else z) ∧
    ∀ i k, Raises (floatTree f op identity vl act x).2 i k ↔
      Raises (pairRaised op leaf live (Nat.clog 2 vl) 0 ++ alone) i k := by
  intro live leaf z alone
  obtain ⟨hv, hr⟩ := treeOf_eq op identity vl act x
  have hz : (treeOf op identity vl act x).1 = z := hv
  have hone : (treeSize vl == 1) = decide (vl ≤ 1) := by
    unfold treeSize
    split
    · next h => simp [h]
    · next h =>
      have := Nat.one_lt_two_pow (n := (vl - 1).log2 + 1) (by omega)
      rw [beq_false_of_ne (by omega), decide_eq_false h]
  unfold floatTree
  simp only [hz, hone]
  refine ⟨trivial, fun i k => ?_⟩
  rw [raises_append, ← hr, raises_append_nonzero, raises_and_nonzero]
  by_cases h1 : vl ≤ 1 <;> simp [h1]

theorem vredTree_ended {s : State} {t : VType} (h : VectorIssuing s t) {d a : BitVec 5} {m : BitVec 3} (hd : d.toNat < 16)
    (ha : t.aligned a = true) (hm : governFits s.hart m = true) (he : floatType false t.et)
    {op : Hart → FloatFormat → Nat → Nat → Nat × Flags} {identity : FloatFormat → Nat} :
    let f := floatFormat t.et
    let live (i : Nat) : Bool := decide (i < s.hart.cs.vl) && isActive s.hart m i
    let leaf (i : Nat) : Nat := if live i then source s t a i else identity f
    let z := pairTree (fun p q => (op s.hart f p q).1) leaf (Nat.clog 2 s.hart.cs.vl) 0
    let alone : Raised := if s.hart.cs.vl ≤ 1 ∧ (f.value z).nvIfSignalling ≠ 0 then [(0, (f.value z).nvIfSignalling)] else []
    Ended (vredWord s d a m (floatFit false) (fun h t x => floatTree (floatFormat t.et) (op h (floatFormat t.et))
        (identity (floatFormat t.et)) h.cs.vl (isActive h m) x))
      (reduced s d (pairRaised (op s.hart f) leaf live (Nat.clog 2 s.hart.cs.vl) 0 ++ alone)
        (BitVec.ofNat 64 (if (f.value z).isNaN then f.canonicalNaN else z))) := by
  intro f live leaf z alone
  obtain ⟨hv, hr⟩ := floatTree_eq f (op s.hart f) (identity f) s.hart.cs.vl (isActive s.hart m) (source s t a)
  exact vredWord_ended h hd ha hm (floatFit_of he) (congrArg (BitVec.ofNat 64) hv) hr

end Sys2Proof.Machine
end

section
/-!
LAW. The strip softmax and the words of VRED (R35, R45, R48, R93, R95). Settles O31.
-/

namespace Sys2Proof.Machine

/-! ### NaNs of F32 in the steps of the strip softmax (R35) -/

/-- The format of F32. -/
abbrev f32 : FloatFormat := floatFormat .f32

/-- A tree's result: a NaN becomes the canonical one. -/
abbrev cleaned (f : FloatFormat) (z : Nat) : Nat := if (f.value z).isNaN then f.canonicalNaN else z

theorem value_canonicalNaN : f32.value f32.canonicalNaN = .nan false := by decide

theorem nvIfSignalling_of_not_nan {v : FloatVal} (h : v.isNaN = false) : v.nvIfSignalling = 0 := by
  cases v with
  | nan s => cases h
  | inf n => rfl
  | fin n m e => rfl

theorem cleaned_nan {f : FloatFormat} {z : Nat} (h : (f.value z).isNaN = true) : cleaned f z = f.canonicalNaN := if_pos h

theorem cleaned_other {f : FloatFormat} {z : Nat} (h : (f.value z).isNaN = false) : cleaned f z = z := by simp [cleaned, h]

/-- A greater or lesser of two patterns does not depend on which NaN the second one is, and a signalling one raises NV. -/
theorem minMax_cleaned (b : Bool) (x z : Nat) : (f32.minMax b x (cleaned f32 z)).1 = (f32.minMax b x z).1 ∧
    (f32.minMax b x z).2 = (f32.minMax b x (cleaned f32 z)).2 ||| (f32.value z).nvIfSignalling := by
  cases hz : (f32.value z).isNaN with
  | false => simp [cleaned_other hz, nvIfSignalling_of_not_nan hz]
  | true =>
    have hc : (FloatVal.nan false).nvIfSignalling = 0 := rfl
    have hn : (FloatVal.nan false).isNaN = true := rfl
    simp only [cleaned_nan hz, hz, if_true, FloatFormat.minMax, value_canonicalNaN, hn, hc]
    cases hx : (f32.value x).isNaN <;> simp

theorem fma_cleaned (so c z : Nat) : (f32.fma .rne false false so c (cleaned f32 z)).1 = (f32.fma .rne false false so c z).1 ∧
    (f32.fma .rne false false so c z).2 =
      (f32.fma .rne false false so c (cleaned f32 z)).2 ||| (f32.value z).nvIfSignalling := by
  cases hz : (f32.value z).isNaN with
  | false => simp [cleaned_other hz, nvIfSignalling_of_not_nan hz]
  | true =>
    rw [cleaned_nan hz]
    simp only [FloatFormat.fma, value_canonicalNaN, FloatFormat.fusedSum]
    cases hv : f32.value z with
    | inf n => simp [hv, FloatVal.isNaN] at hz
    | fin n m e => simp [hv, FloatVal.isNaN] at hz
    | nan sig =>
      generalize mulExact (f32.value so) (f32.value c) = p
      rcases p with _ | ⟨⟨_ | _⟩ | _ | _⟩ <;> cases sig <;> simp [FloatVal.nvIfSignalling]

/-- A magnitude up to infinity is no NaN. -/
theorem pack_not_signalling (neg : Bool) {code : Nat} (h : code ≤ f32.infCode) :
    (f32.value (f32.pack neg code)).nvIfSignalling = 0 := by
  have hi : f32.infCode = 255 * 2 ^ 23 := rfl
  have hx : f32.pack neg code / 2 ^ 23 % 2 ^ 8 = 255 → f32.pack neg code % 2 ^ 23 = 0 := by
    have hp : f32.pack neg code = (if neg then 2 ^ 31 else 0) + code := rfl
    cases neg <;> simp only [hp, if_true, if_false, Bool.false_eq_true] <;> omega
  refine nvIfSignalling_of_not_nan ?_
  unfold FloatFormat.value
  generalize f32.pack neg code = x at hx
  simp only [floatFormat, Bool.true_and, Bool.not_true, Bool.false_and, Bool.false_eq_true, if_false, beq_iff_eq]
  norm_num at hx ⊢
  by_cases h255 : x / 8388608 % 256 = 255
  · simp [h255, hx h255, FloatVal.isNaN]
  · rw [if_neg h255]
    split <;> rfl

theorem canonicalNaN_not_signalling : (f32.value f32.canonicalNaN).nvIfSignalling = 0 := by decide

theorem minMax_not_signalling (b : Bool) (x y : Nat) : (f32.value (f32.minMax b x y).1).nvIfSignalling = 0 := by
  unfold FloatFormat.minMax
  dsimp only
  cases hx : (f32.value x).isNaN <;> cases hy : (f32.value y).isNaN
  · have hx := nvIfSignalling_of_not_nan hx
    have hy := nvIfSignalling_of_not_nan hy
    simp only [Bool.and_false, Bool.false_eq_true, if_false]
    split <;> cases b <;> assumption
  · exact nvIfSignalling_of_not_nan hx
  · exact nvIfSignalling_of_not_nan hy
  · exact canonicalNaN_not_signalling

theorem overflow_not_signalling (mode : RoundMode) (sat neg : Bool) :
    (f32.value (f32.overflow mode sat neg).1).nvIfSignalling = 0 := by
  have hb (c : Bool) : (if c then f32.infCode else f32.maxCode) ≤ f32.infCode := by cases c <;> decide
  exact pack_not_signalling neg (hb _)

/-- A magnitude that is within the format, or overflows. -/
theorem magnitude_not_signalling (mode : RoundMode) (sat neg : Bool) (code : Nat) (fl : Flags) : (f32.value
    (if f32.maxCode < code then f32.overflow mode sat neg else (f32.pack neg code, fl)).1).nvIfSignalling = 0 := by
  split
  · exact overflow_not_signalling _ _ _
  · next h => exact pack_not_signalling _ ((not_lt.1 h).trans (by decide))

theorem round_not_signalling (mode : RoundMode) (sat : Bool) (x : Exact) :
    (f32.value (f32.round mode sat x).1).nvIfSignalling = 0 := by
  unfold FloatFormat.round
  dsimp only
  split
  · exact pack_not_signalling _ (Nat.zero_le _)
  · exact magnitude_not_signalling _ _ _ _ _

theorem roundSum_not_signalling (mode : RoundMode) (sat : Bool) (ts : List Term) :
    (f32.value (f32.roundSum mode sat ts).1).nvIfSignalling = 0 := by
  unfold FloatFormat.roundSum
  dsimp only
  split
  · split
    · exact pack_not_signalling _ (Nat.zero_le _)
    · split <;> exact pack_not_signalling _ (Nat.zero_le _)
  · exact round_not_signalling _ _ _

theorem add_not_signalling (mode : RoundMode) (x y : Nat) : (f32.value (f32.add mode x y).1).nvIfSignalling = 0 := by
  unfold FloatFormat.add FloatFormat.addVal
  split
  · exact canonicalNaN_not_signalling
  · exact canonicalNaN_not_signalling
  · exact canonicalNaN_not_signalling
  · split
    · exact pack_not_signalling _ le_rfl
    · exact canonicalNaN_not_signalling
  · exact pack_not_signalling _ le_rfl
  · exact pack_not_signalling _ le_rfl
  · exact roundSum_not_signalling _ _ _

/-- A tree of more than one position gives what a step gave. -/
theorem pairTree_not_signalling {op : Nat → Nat → Nat × Flags} (h : ∀ p q, (f32.value (op p q).1).nvIfSignalling = 0)
    (leaf : Nat → Nat) {vl : Nat} (hv : 1 < vl) :
    (f32.value (pairTree (fun p q => (op p q).1) leaf (Nat.clog 2 vl) 0)).nvIfSignalling = 0 := by
  obtain ⟨n, hn⟩ := Nat.exists_eq_add_of_lt (Nat.clog_pos one_lt_two hv)
  rw [hn, Nat.zero_add]
  exact h _ _

/-! ### The strip softmax (R95) -/

theorem raises_map_nonzero (l : List Nat) (z : Nat → Flags) (i k : Nat) :
    Raises (l.filterMap (fun j => if z j = 0 then none else some (j, z j))) i k ↔ Raises (l.map (fun j => (j, z j))) i k := by
  induction l with
  | nil => simp
  | cons j l ih =>
    rw [List.filterMap_cons, List.map_cons, raises_cons, ← ih]
    by_cases hj : z j = 0
    · simp only [hj]
      simp
    · simp only [if_neg hj, raises_cons]

/-- What a strip with an active element gives, by the trees of its maximum and of its weights. -/
theorem softmax_of_cons {vl mo so first : Nat} {act : Nat → Bool} {x : Nat → Nat} {rest : List Nat}
    (h : (List.range vl).filter act = first :: rest) :
    let q := softmax vl mo so act x
    let mx := floatTree f32 (f32.minMax true) 0xFF800000 vl act x
    let t := floatTree f32 (f32.add .rne) 0x80000000 vl act q.weight
    let c : Nat × Flags := if q.mn = 0xFF800000 then (one32, 0) else expDiff mo q.mn
    let own (i : Nat) : Flags := (expDiff (x i) q.mn).2 ||| (if (f32.value (x i)).isNaN then flagNV else 0)
    q.mn = (f32.minMax true mo mx.1).1 ∧ (q.weight = fun i => (expDiff (x i) q.mn).1) ∧ q.c = c.1 ∧
    q.sn = (f32.fma .rne false false so c.1 t.1).1 ∧
    q.raised = mx.2 ++ (first :: rest).filterMap (fun i => if own i = 0 then none else some (i, own i)) ++ t.2 ++
      [(first, (f32.minMax true mo mx.1).2 ||| c.2 ||| (f32.fma .rne false false so c.1 t.1).2)] := by
  have h1 : f32.pack true f32.infCode = 0xFF800000 := by decide
  have h2 : f32.pack true 0 = 0x80000000 := by decide
  unfold softmax
  simp only [h, h1, h2, beq_iff_eq]
  exact ⟨trivial, trivial, trivial, trivial, trivial⟩

/-- The flags of a NaN that one position alone gives belong to the lowest element, as those of the step that takes it. -/
theorem raises_strip {mx t own own' p₁ p₂ : Raised} {first vl : Nat} {nv₁ nv₂ a b c : Flags}
    (h₁ : ∀ i k, Raises mx i k ↔ Raises (p₁ ++ if vl ≤ 1 ∧ nv₁ ≠ 0 then [(0, nv₁)] else []) i k)
    (h₂ : ∀ i k, Raises t i k ↔ Raises (p₂ ++ if vl ≤ 1 ∧ nv₂ ≠ 0 then [(0, nv₂)] else []) i k)
    (ho : ∀ i k, Raises own i k ↔ Raises own' i k) (hf : vl ≤ 1 → first = 0) (hn₁ : 1 < vl → nv₁ = 0)
    (hn₂ : 1 < vl → nv₂ = 0) (i k : Nat) : Raises (mx ++ own ++ t ++ [(first, a ||| c ||| b)]) i k ↔
      Raises (p₁ ++ own' ++ p₂ ++ [(first, (a ||| nv₁) ||| c ||| (b ||| nv₂))]) i k := by
  have hone (nv : Flags) (hn : 1 < vl → nv = 0) : (vl ≤ 1 ∧ Raises [(0, nv)] i k) ↔ first = i ∧ nv.getLsbD k = true := by
    by_cases hv : vl ≤ 1
    · simp [hv, hf hv]
    · simp [hv, hn (by omega)]
  simp only [raises_append, h₁, h₂, ho, raises_and_nonzero, hone nv₁ hn₁, hone nv₂ hn₂]
  simp only [raises_cons, raises_nil, or_false, BitVec.getLsbD_or, Bool.or_eq_true, and_or_left]
  exact Iff.of_eq (by ac_rfl)

theorem softmax_of_none {vl mo so : Nat} {act : Nat → Bool} {x : Nat → Nat} (h : ∀ i < vl, act i = false) :
    softmax vl mo so act x = ⟨mo, so, one32, fun _ => 0, []⟩ := by
  have hs : (List.range vl).filter act = [] := by simpa using h
  simp only [softmax, hs]

theorem softmax_strip : softmaxOfOneStrip := by
  intro vl mo so act x
  refine ⟨fun h => by simp [softmax_of_none h, one32], fun ⟨i₀, hi₀, ha₀⟩ => ?_⟩
  obtain ⟨first, rest, hsel⟩ := List.exists_cons_of_ne_nil
    (List.ne_nil_of_mem (List.mem_filter.2 ⟨List.mem_range.2 hi₀, ha₀⟩))
  have hfirst (hv : vl ≤ 1) : first = 0 := by
    have := List.mem_range.1 (List.mem_filter.1 (hsel ▸ List.mem_cons_self : first ∈ (List.range vl).filter act)).1
    omega
  obtain ⟨hmn, hw, hc, hs, hr⟩ := softmax_of_cons (mo := mo) (so := so) (x := x) hsel
  generalize softmax vl mo so act x = q at hmn hw hc hs hr ⊢
  obtain ⟨hz1, hr1⟩ := floatTree_eq f32 (f32.minMax true) 0xFF800000 vl act x
  obtain ⟨hz2, hr2⟩ := floatTree_eq f32 (f32.add .rne) 0x80000000 vl act q.weight
  have hn1 (hv : 1 < vl) := pairTree_not_signalling (minMax_not_signalling true)
    (fun i => if (decide (i < vl) && act i) = true then x i else 0xFF800000) hv
  have hn2 (hv : 1 < vl) := pairTree_not_signalling (add_not_signalling .rne)
    (fun i => if (decide (i < vl) && act i) = true then q.weight i else 0x80000000) hv
  have hlive (i : Nat) : (i < vl ∧ act i = true) = ((decide (i < vl) && act i) = true) := by simp
  simp only [hlive]
  generalize pairTree (fun p r => (f32.minMax true p r).1) _ _ _ = strip at hz1 hr1 hn1 ⊢
  generalize pairTree (fun p r => (f32.add .rne p r).1) _ _ _ = sum at hz2 hr2 hn2 ⊢
  rw [hz1, (minMax_cleaned true mo strip).1] at hmn
  rw [hz2, (fma_cleaned so _ sum).1, ← hc] at hs
  refine ⟨hmn, fun i => congrFun hw i, hc.trans (apply_ite Prod.fst _ _ _), hs, fun h => noteFlags_congr (fun i k => ?_) h 0 true⟩
  have hc2 : (if q.mn = 0xFF800000 then (one32, 0) else expDiff mo q.mn).2 =
    if q.mn = 0xFF800000 then 0 else (expDiff mo q.mn).2 := apply_ite Prod.snd _ _ _
  rw [hr, hsel, hc2, ← hc, hz1, hz2, (minMax_cleaned true mo strip).2, (fma_cleaned so q.c sum).2]
  exact raises_strip hr1 hr2 (raises_map_nonzero _ _) hfirst hn1 hn2 i k

/-! ### The words of VRED -/

theorem execVsmax_ended {s : State} {t : VType} (h : VectorIssuing s t) {d a b : BitVec 5} {m : BitVec 3}
    (hb : b.toNat ≤ 13) (he : t.et = .f32) (hd : t.aligned d = true) (ha : t.aligned a = true)
    (hda : d.toNat + t.group ≤ a.toNat ∨ a.toNat + t.group ≤ d.toNat) (hm : governFits s.hart m = true) :
    let q := softmax s.hart.cs.vl (scalarElem s.hart b 32) ((hRead s.hart (b.toNat + 1)).toNat % 2 ^ 32)
      (isActive s.hart m) (source s t a)
    Ended (execVsmax d a b m s) ⟨s.mapHart (fun h => noteFlags h 0 true q.raised),
      (crossOp s t (t.dest s.hart d) (laneMap s t m (fun i => some (q.weight i)))).writes ++
        [RegWrite.whole (.h b.toNat) q.mn, RegWrite.whole (.h (b.toNat + 1)) q.sn, RegWrite.whole (.h (b.toNat + 2)) q.c],
      none⟩ := by
  intro q
  have hx : source s t a = elem 32 (groupBits s.hart a.toNat t.group) := by
    funext i
    simp [source, he, ElemType.width]
  have hp (l : List (Option Nat)) : (crossOp s t (t.dest s.hart d) l).part = none := h.issuing.crossOp.part
  have hi : isSmaxIndex b = true := by simpa [isSmaxIndex, BitVec.le_def] using hb
  dsimp only [execVsmax]
  refine (h.vectorOp hi ?_ ?_).congr ?_
  · simp [he, hd, ha, apart_of hda, hm]
  · simp only [hp]
    exact ⟨rfl, by simpa using h.issuing.untimed⟩
  · simp only [hp, ← hx]
    rfl

theorem foldsOfElements : foldsOfElementsComplete := by
  refine ⟨fun h rs => ⟨noteFlags_vflags h rs, fun k hk => noteFlags_first h rs hk⟩, ?_⟩
  intro s t d a b m h hm ha
  refine ⟨fun hd => ⟨fun he => ⟨fun hw => ?_, fun hw => ?_, ?_, ?_, ?_⟩, fun he => ⟨?_, ?_⟩, fun he => ⟨?_, ?_, ?_⟩⟩,
    fun hb he hd hda => execVsmax_ended h hb he hd ha hda hm⟩
  · exact execVrsum_narrow h hd ha hm he hw
  · exact execVrsum_wide h hd ha hm he hw
  · dsimp only [exec, execVrand]
    exact plainReduce_ended h hd ha hm (bitsOrInt_of he) (Nat.sub_lt (Nat.two_pow_pos _) one_pos)
      fun x y _ hy => Nat.and_lt_two_pow x hy
  · dsimp only [exec, execVror]
    exact plainReduce_ended h hd ha hm (bitsOrInt_of he) (Nat.two_pow_pos _) fun x y hx hy => Nat.or_lt_two_pow hx hy
  · dsimp only [exec, execVrxor]
    exact plainReduce_ended h hd ha hm (bitsOrInt_of he) (Nat.two_pow_pos _) fun x y hx hy => Nat.xor_lt_two_pow hx hy
  · dsimp only [exec, execVrmax]
    rw [← minInteger_eq]
    exact plainReduce_value h hd ha hm he rfl le_rfl (minInteger_le_max _ _) (maxOf_value t)
  · dsimp only [exec, execVrmin]
    rw [← maxInteger_eq]
    exact plainReduce_value h hd ha hm he rfl (minInteger_le_max _ _) le_rfl (minOf_value t)
  · exact vredTree_ended h hd ha hm he (op := fun h f => f.add (arithMode h)) (identity := fun f => f.pack true 0)
  · exact vredTree_ended h hd ha hm he (op := fun _ f => f.minMax true) (identity := fun f => f.pack true f.infCode)
  · exact vredTree_ended h hd ha hm he (op := fun _ f => f.minMax false) (identity := fun f => f.pack false f.infCode)

/-- Settles O31: the folds and trees of VRED, and the strip softmax by its two trees. -/
theorem reductionsComplete : Obligations.ReductionsComplete := ⟨foldsOfElements, softmax_strip⟩

end Sys2Proof.Machine
end

section
/-!
LAW. The system words (R24, R54, R71, R74, R202, R203). Settles O20.
-/

namespace Sys2Proof.Machine

/-! ### What retirement leaves alone -/

theorem sameMemory_retire (u : State) : SameMemory u (retire u) := by simp [SameMemory]

theorem retire_registers (u : State) : SameRegisters u (retire u) := by
  cases h : u.issue.side with
  | scalar => rw [retire, retireTo_scalar_eq h]; exact ⟨rfl, rfl, rfl, rfl, rfl⟩
  | vector => rw [retire, retireTo_vector_eq h]; exact ⟨rfl, rfl, rfl, rfl, rfl⟩

theorem discardWait_registers (s : State) : SameRegisters s (discardWait s) := by
  cases h : s.issue.side with
  | scalar => rw [discardWait_scalar h]; exact ⟨rfl, rfl, rfl, rfl, rfl⟩
  | vector => rw [discardWait_vector s h]; exact ⟨rfl, rfl, rfl, rfl, rfl⟩

theorem sameRegisters_trans {s t u : State} (h : SameRegisters s t) (h' : SameRegisters t u) : SameRegisters s u := by
  obtain ⟨hg, hh, hl, hv, hm⟩ := h
  obtain ⟨hg', hh', hl', hv', hm'⟩ := h'
  exact ⟨hg'.trans hg, hh'.trans hh, hl'.trans hl, hv'.trans hv, hm'.trans hm⟩

theorem pcOf_discardWait (s : State) : pcOf (discardWait s) = pcOf s := by
  cases h : s.issue.side with
  | scalar => rw [discardWait_scalar h]; rfl
  | vector => rw [discardWait_vector s h]

theorem onlyHartBeats_of {s t : State} {h' : Hart} {pc : Word} (h : VectorStep s t h' pc) :
    OnlyHartBeats s t s.issue.beats := by
  rw [OnlyHartBeats, h, chargeSequencer_eq]

/-- Any word that retires from the hart it was issued for, but for what it did outside the program counters, INSTRET and
the registers. -/
theorem retired_of {s u : State} (hr : SameRegisters (discardWait s) u) (hm : SameMemory (discardWait s) u)
    (hp : pcOf u = pcOf (discardWait s)) (hi : u.hart.cs.instret = s.hart.cs.instret) :
    SameRegisters s (retire u) ∧ SameMemory s (retire u) ∧ Retired s (retire u) := by
  obtain ⟨hpc, hin⟩ := Retired_retire u
  refine ⟨sameRegisters_trans (sameRegisters_trans (discardWait_registers s) hr) (retire_registers u), ?_, ?_, ?_⟩
  · simpa [SameMemory] using hm
  · rw [hpc, hp, pcOf_discardWait]
  · rw [hin, hi]

/-! ### A scalar result -/

theorem gWrite_eq (h : Hart) (r : Nat) (v : Word) : gWrite h r v = { h with
    sc := { h.sc with g := (gWrite h r v).sc.g }
    stale := if r = 0 then h.stale else h.stale.filter (· != .g r) } := by
  unfold gWrite refresh
  by_cases hr : r = 0
  · simp [hr]
  · by_cases hs : h.stale = []
    · simp [hr, hs]
    · simp [hr, hs]

theorem scalarResult_gave {s : State} (h : s.issue.side = .scalar) (d : BitVec 5) (v : Word) :
    ScalarResult s (gave (discardWait s) d v) d v := by
  have hside : (discardWait s).issue.side = .scalar := by simpa using h
  have hg (r : BitVec 5) : gRead (discardWait s).hart r.toNat = gRead s.hart r.toNat := by rw [discardWait_scalar h]; rfl
  have hd : (d.toNat = 0) = (d = 0) := by simp [← BitVec.toNat_inj]
  refine ⟨?_, fun r => ?_, ?_⟩
  · rw [ScalarStep, gave, retire, retireTo_scalar_eq (by simpa using h)]
    simp only [mapHart_hart]
    rw [gWrite_eq, discardWait_scalar h]
    simp [State.mapHart, pcOf, h]
  · rw [oneScalar_gave hside, hg]
  · rw [gave, retire, retireTo_scalar_eq (by simpa using h)]
    simp only [mapHart_hart]
    rw [gWrite_eq, discardWait_scalar h]
    simp [hd]

/-! ### Traps of the system words (R71) -/

/-- A word whose fields do not fit its side. -/
theorem runInterlocked_illegal {s : State} {sd : Side} (h : s.issue.side = sd) {mark : SideMark} {wf fit : Bool}
    {deny : State → Option Trap} {reads writes : List RegId} {body : State → Except Stop State}
    (hm : markAdmits mark sd = true) (hw : wf = false) : runInterlocked s mark wf fit deny reads writes body =
      .next (takeTrap s { code := 0x01, val := s.issue.word.setWidth 64 } (sourceOf sd)) := by
  unfold runInterlocked
  simp only [precheck, h, hm, hw, Bool.not_true, Bool.not_false, Bool.false_eq_true, if_false, if_true, finish]
  rfl

theorem systemTraps : systemWordsRaiseTheirTraps := by
  intro s sd n d a h
  have hm : markAdmits .b sd = true := by cases sd <;> rfl
  have hside : (discardWait s).issue.side = sd := h.discard.side
  dsimp only [exec, execBrk, execTrap, execEret, execWait]
  refine ⟨?_, ?_, ?_, ?_⟩
  · rw [runPlain_of h hm rfl rfl, finish, hside]
    rfl
  · rw [runPlain_of h hm rfl rfl, finish, hside]
    rfl
  · rintro rfl
    have hw : (s.issue.side == Side.scalar) = false := by simp [h.side]
    refine ⟨(runInterlocked_illegal hside rfl hw).trans (by simp [sourceOf]), ?_⟩
    rw [runInterlocked_illegal h.side rfl hw, discardWait_vector s h.side]
    rfl
  · rintro rfl hl
    have hw : (s.issue.side == Side.scalar) = true := by simp [h.side]
    have hl' : (discardWait s).hart.cs.hstat.hl = false := by simpa using hl
    rw [runPlain_of h hm hw rfl, hl', if_neg (by simp), finish, hside, priv, wordVal, discardWait_issue]
    rfl

/-! ### ERET (R54, R71, R74) -/

theorem eretReturns : eretReturnsFromTheHandler := by
  intro s h hl
  have hw : (s.issue.side == Side.scalar) = true := by simp [h.side]
  have hl' : (discardWait s).hart.cs.hstat.hl = true := by simpa using hl
  refine ⟨returnFromTrap (discardWait s), ?_, ?_⟩
  · dsimp only [exec, execEret]
    rw [runPlain_of h rfl hw rfl, if_pos hl']
    rfl
  · dsimp only [returnFromTrap]
    rw [retireTo_scalar_eq (by simpa using h.side), discardWait_scalar h.side]
    refine ⟨rfl, fun he => ⟨?_, ?_⟩, fun he => ?_, fun hv hb => ?_, fun hv => ?_, ?_, ?_, rfl⟩
    · simp [State.mapHart, he]
    · simp [State.mapHart, he]
    · simp [State.mapHart, he]
    · simp [State.mapHart, hv, hb, Option.isSome_iff_ne_none, restartPoint]
    · simp [State.mapHart, hv]
    · simp only [SameRegisters, State.mapHart]
      split <;> simp
    · exact ⟨rfl, rfl, rfl⟩

/-! ### The island of a core (R202, R203) -/

theorem islandEvent_core (s : State) (f : IslandState → IslandState) :
    ((islandEvent s f).core s.hart.place.core).island = f (s.core s.hart.place.core).island := by
  rw [islandEvent, core_mapCore_same s (core_core s _)]

theorem core_congr {s t : State} (h : t.cores = s.cores) (n : Nat) : t.core n = s.core n := by simp only [State.core, h]

theorem discardWait_place (s : State) : (discardWait s).hart.place = s.hart.place := by
  cases h : s.issue.side with
  | scalar => rw [discardWait_scalar h]
  | vector => rw [discardWait_vector s h]

theorem discardWait_asid (s : State) : (discardWait s).hart.asid = s.hart.asid := by
  cases h : s.issue.side with
  | scalar => rw [discardWait_scalar h]
  | vector => rw [discardWait_vector s h]

/-- A word that only has an event of its core's island. -/
theorem island_word {s u : State} (hu : u = { discardWait s with unpaid := u.unpaid }) (f : IslandState → IslandState) :
    let t := retire (islandEvent u f)
    SameRegisters s t ∧ SameMemory s t ∧ Retired s t ∧ t.unpaid = u.unpaid ∧
      (t.core s.hart.place.core).island = f (s.core s.hart.place.core).island := by
  intro t
  have hh : u.hart = (discardWait s).hart := by rw [hu]
  have hp : u.hart.place = s.hart.place := by rw [hh, discardWait_place]
  have hc : u.cores = s.cores := by rw [hu]; exact discardWait_cores s
  have hw : (islandEvent u f).hart = (discardWait s).hart := hh
  have hi : (islandEvent u f).issue = s.issue := by rw [hu]; exact discardWait_issue s
  have hm : SameMemory (discardWait s) (islandEvent u f) := by rw [hu]; exact ⟨rfl, rfl, rfl⟩
  obtain ⟨hregs, hmem, hret⟩ := retired_of (s := s) (u := islandEvent u f) (by rw [SameRegisters, hw]; simp) hm
    (by rw [pcOf, hw, hi, pcOf, discardWait_issue]) (by rw [hw]; simp)
  refine ⟨hregs, hmem, hret, by simp [t, islandEvent], ?_⟩
  rw [core_congr (retire_cores _), ← hp, islandEvent_core, core_congr hc]

/-! ### WAIT (R71) -/

theorem setWaitRecord_none {s : State} (h : s.issue.side = .scalar) : setWaitRecord s none = discardWait s := by
  simp only [setWaitRecord, discardWait, h]

/-- A WAIT whose reason is there completes with it. -/
theorem execWait_reason {s : State} (h : Issuing s .scalar) (d a : BitVec 5) {r : Word}
    (hr : waitReason s (match (waitRecord s.hart).filter (fun w => w.addr == s.hart.sc.pc) with
      | some w => w.deadline
      | none => if (gRead s.hart a.toNat).toNat = 0 then none else some (s.clock + (gRead s.hart a.toNat).toNat))
      (((waitRecord s.hart).filter (fun w => w.addr == s.hart.sc.pc)).any (·.live)) = some r) :
    ∃ t, exec (.wait d a) s = .next t ∧ ScalarResult s t d r := by
  refine ⟨_, ?_, scalarResult_gave h.side d r⟩
  have hw : (s.issue.side == Side.scalar) = true := by simp [h.side]
  dsimp only [exec, execWait]
  rw [runInterlocked_of h rfl hw rfl rfl]
  have hz : (gRead s.hart a.toNat = 0) = ((gRead s.hart a.toNat).toNat = 0) := by simp [← BitVec.toNat_inj]
  cases hrec : waitRecord s.hart with
  | none =>
    rw [hrec] at hr
    simp only [Option.filter_none, Option.any_none] at hr
    simp only [hz, hr, setWaitRecord_none h.side]
    rfl
  | some w =>
    rw [hrec] at hr
    cases ha : w.addr == s.hart.sc.pc with
    | true =>
      simp only [Option.filter_some, ha, if_true, Option.any_some] at hr
      simp only [ha, if_true, hr, setWaitRecord_none h.side]
      rfl
    | false =>
      simp only [Option.filter_some, ha, Bool.false_eq_true, if_false, Option.any_none] at hr
      simp only [ha, Bool.false_eq_true, if_false, hz, hr, setWaitRecord_none h.side]
      rfl

/-- Of the events of a WAIT in one cycle the highest counts; a deadline of an earlier cycle came first, unless the interrupt
came before it. -/
theorem waitReason_two {s : State} {deadline : Option Nat} {live : Bool}
    (hi : s.hart.cs.hstat.ie = true ∧ s.hart.irqs ≠ [])
    (hd : ∀ x, deadline = some x → s.clock ≤ x ∨ (live = true ∧ s.hart.irqAt ≤ x)) :
    waitReason s deadline live = some 2 := by
  obtain ⟨hie, hirq⟩ := hi
  cases deadline with
  | none => simp [waitReason, hie, hirq]
  | some x =>
    obtain hx | ⟨hl, hx⟩ := hd x rfl
    · simp [waitReason, hie, hirq, not_lt.2 hx]
    · simp [waitReason, hie, hirq, hl, hx]

theorem waitReason_one {s : State} {deadline : Option Nat} {live : Bool}
    (hi : ¬ (s.hart.cs.hstat.ie = true ∧ s.hart.irqs ≠ [])) (hr : s.hart.ve.replies ≠ [])
    (hd : ∀ x, deadline = some x → s.clock ≤ x) : waitReason s deadline live = some 1 := by
  have hirq : (s.hart.cs.hstat.ie && !s.hart.irqs.isEmpty) = false := by simpa using hi
  cases deadline with
  | none => simp [waitReason, hirq, hr]
  | some x => simp [waitReason, hirq, hr, not_lt.2 (hd x rfl)]

theorem waitReason_zero {s : State} {x : Nat} {live : Bool}
    (h : (x < s.clock ∧ ¬ ((s.hart.cs.hstat.ie = true ∧ s.hart.irqs ≠ []) ∧ live = true ∧ s.hart.irqAt ≤ x)) ∨
      (x = s.clock ∧ ¬ (s.hart.cs.hstat.ie = true ∧ s.hart.irqs ≠ []) ∧ s.hart.ve.replies = [])) :
    waitReason s (some x) live = some 0 := by
  obtain ⟨hx, hn⟩ | ⟨rfl, hn, hr⟩ := h
  · have hb : (s.hart.cs.hstat.ie && !s.hart.irqs.isEmpty && live && decide (s.hart.irqAt ≤ x)) = false := by
      rw [Bool.eq_false_iff]
      simpa [and_assoc] using hn
    simp [waitReason, hx, hb]
  · have hirq : (s.hart.cs.hstat.ie && !s.hart.irqs.isEmpty) = false := by simpa using hn
    simp [waitReason, hirq, hr]

/-! ### The words that only retire, and the events of the island -/

theorem owe_eq (s : State) (p : Payer) : s.owe p = { s with unpaid := (s.owe p).unpaid } := by
  unfold State.owe
  split <;> rfl

theorem mem_owe (s : State) (p : Payer) : p ∈ (s.owe p).unpaid := by
  unfold State.owe
  split
  · next h => simpa using h
  · simp

theorem exec_dawn {s : State} {sd : Side} (h : Issuing s sd) : ∃ u, exec .dawn s =
    .next (retire (islandEvent u (dawnIsland s.clock))) ∧ u = { discardWait s with unpaid := u.unpaid } ∧
      ((s.core s.hart.place.core).island = .gated → { asid := s.hart.asid } ∈ u.unpaid) := by
  have hm : markAdmits .b sd = true := by cases sd <;> rfl
  have hc : (discardWait s).core (discardWait s).hart.place.core = s.core s.hart.place.core := by
    rw [discardWait_place, core_congr (discardWait_cores s)]
  have hclk (p : Payer) : ((discardWait s).owe p).clock = s.clock := by rw [owe_eq]; exact discardWait_clock s
  dsimp only [exec, execDawn]
  rw [runPlain_of h hm rfl rfl, hc, discardWait_asid]
  by_cases hg : (s.core s.hart.place.core).island = .gated
  · refine ⟨(discardWait s).owe { asid := s.hart.asid }, ?_, owe_eq _ _, fun _ => mem_owe _ _⟩
    simp only [hg, beq_self_eq_true, if_true, finish, hclk]
  · exact ⟨discardWait s, by simp [hg, finish], rfl, fun h => absurd h hg⟩

theorem dropFetched_word {s : State} {sd : Side} (h : Issuing s sd) : let t := retire (dropFetched (discardWait s))
    (sd = .scalar → t.hart.sc.fetched = [] ∧ OnlyHart s t) ∧
    (sd = .vector → t.hart.ve.fetched = [] ∧ OnlyHartBeats s t s.issue.beats) ∧
    SameRegisters s t ∧ SameMemory s t ∧ Retired s t := by
  intro t
  have hside := h.side
  have hregs : SameRegisters (discardWait s) (dropFetched (discardWait s)) := by
    unfold dropFetched
    split <;> exact ⟨rfl, rfl, rfl, rfl, rfl⟩
  have hmem : SameMemory (discardWait s) (dropFetched (discardWait s)) := by
    unfold dropFetched
    split <;> exact ⟨rfl, rfl, rfl⟩
  have hpc : pcOf (dropFetched (discardWait s)) = pcOf (discardWait s) := by
    unfold dropFetched
    cases sd <;> simp [pcOf, hside]
  have hin : (dropFetched (discardWait s)).hart.cs.instret = s.hart.cs.instret := by
    unfold dropFetched
    split <;> simp
  refine ⟨?_, ?_, retired_of hregs hmem hpc hin⟩
  · rintro rfl
    have hd : dropFetched (discardWait s) = { discardWait s with hart := { (discardWait s).hart with
        sc := { (discardWait s).hart.sc with fetched := [] } } } := by simp [dropFetched, hside, State.mapHart]
    simp only [t, hd]
    rw [retire, retireTo_scalar_eq (by simpa using hside), discardWait_scalar hside]
    exact ⟨rfl, rfl⟩
  · rintro rfl
    have hd : dropFetched (discardWait s) = { s with hart := { s.hart with ve := { s.hart.ve with fetched := [] } } } := by
      simp [dropFetched, hside, State.mapHart, discardWait_vector s hside]
    have hv := vectorStep_retireTo hside { s.hart with ve := { s.hart.ve with fetched := [] } } (s.hart.ve.pc + 4)
      rfl rfl rfl rfl rfl
    simp only [t, hd, retire, pcOf, hside]
    exact ⟨by rw [hv], onlyHartBeats_of hv⟩

theorem plainSystemWords : plainSystemWordsComplete := by
  intro s sd d a h
  have hm : markAdmits .b sd = true := by cases sd <;> rfl
  refine ⟨?_, ?_, fun hw => ⟨retire (dropFetched (discardWait s)), ?_, dropFetched_word h⟩, ?_, ?_, ?_⟩
  · dsimp only [exec, execNop]
    rw [runPlain_of h hm rfl rfl]
    rfl
  · have ht : (discardWait s).hart.cs.hstat.timed = false := by simpa using h.untimed
    dsimp only [exec, execYield]
    rw [runPlain_of h hm rfl rfl, ht]
    simp [finish]
  · dsimp only [exec, execFencei]
    rw [runPlain_of h hm rfl rfl, if_neg]
    · rfl
    · cases sd with
      | scalar => simp [h.side]
      | vector => simp [h.side, discardWait_vector s h.side, hw rfl]
  · obtain ⟨hregs, hmem, hret, -, hisl⟩ := island_word (s := s) (u := discardWait s) rfl duskIsland
    refine ⟨retire (islandEvent (discardWait s) duskIsland), ?_, hregs, hmem, hret, hisl⟩
    dsimp only [exec, execDusk]
    rw [runPlain_of h hm rfl rfl]
    rfl
  · obtain ⟨u, hx, hu, hpay⟩ := exec_dawn h
    obtain ⟨hregs, hmem, hret, hun, hisl⟩ := island_word hu (dawnIsland s.clock)
    exact ⟨_, hx, hregs, hmem, hret, fun hg => hun ▸ hpay hg, hisl⟩
  · rintro rfl
    refine ⟨fun hi hd => execWait_reason h d a (waitReason_two hi fun x hx => ?_),
      fun hi hr hd => execWait_reason h d a (waitReason_one hi hr hd), fun x hd hx => execWait_reason h d a ?_⟩
    · obtain hx | ⟨-, hl, hx⟩ := hd x hx
      · exact .inl hx
      · exact .inr ⟨hl, hx⟩
    · exact (congrArg (waitReason s · _) hd).trans (waitReason_zero hx)

/-- Settles O20: the traps, the return, and the words that retire. -/
theorem systemWordsComplete : Obligations.SystemWordsComplete := ⟨systemTraps, plainSystemWords, eretReturns⟩

end Sys2Proof.Machine
end

section
/-!
LAW. The control words of the vector unit and its branches (R27, R56, R58, R59, R100, R101, R109, R112, R113). Settles O36.
-/

namespace Sys2Proof.Machine

/-! ### Interlocked words of the vector side -/

theorem Issuing.runPlain {s : State} (h : Issuing s .vector) {wf fit : Bool} {reads writes : List RegId}
    {body : State → Except Stop State} (hw : wf = true) (hf : fit = true) :
    runPlain s .v wf fit reads writes body = finish s (body s) := by
  rw [runPlain_of h rfl hw hf, discardWait_vector s h.side]

theorem relTarget_vector {s : State} {n : Nat} (h : s.issue.side = .vector) (o : BitVec n) :
    relTarget s o = s.hart.ve.pc + BitVec.ofInt 64 (4 * o.toInt) := by
  simp [relTarget, pcOf, h, BitVec.signExtend, BitVec.ofInt_mul]

/-- Where a vector-side word leaves the hart that `f` gives, with what the sequencer and the position depend on kept. -/
structure Keeps (f : Hart → Hart) (h : Hart) : Prop where
  place : (f h).place = h.place
  queue : (f h).queue = h.queue
  region : (f h).tl.region = h.tl.region
  block : (f h).ve.block = h.ve.block
  pc : (f h).ve.pc = h.ve.pc

theorem vectorStep_jump {s : State} (h : s.issue.side = .vector) {f : Hart → Hart} (hf : Keeps f s.hart) (pc : Word) :
    VectorStep s (retireTo (s.mapHart f) pc) (f s.hart) pc :=
  vectorStep_retireTo h (f s.hart) pc hf.place hf.queue hf.region hf.block hf.pc

theorem vectorStep_retire {s : State} (h : s.issue.side = .vector) {f : Hart → Hart} (hf : Keeps f s.hart) :
    VectorStep s (retire (s.mapHart f)) (f s.hart) (s.hart.ve.pc + 4) := by
  have hpc : pcOf (s.mapHart f) = s.hart.ve.pc := by simp [pcOf, h, hf.pc]
  rw [retire, hpc]
  exact vectorStep_jump h hf _

/-- A branch, from the hart that `f` leaves. -/
theorem vectorStep_branch {s : State} {n : Nat} (h : s.issue.side = .vector) {f : Hart → Hart} (hf : Keeps f s.hart)
    (o : BitVec n) (p : Prop) [Decidable p] :
    VectorStep s (if p then retireTo (s.mapHart f) (relTarget s o) else retire (s.mapHart f)) (f s.hart)
      (if p then s.hart.ve.pc + BitVec.ofInt 64 (4 * o.toInt) else s.hart.ve.pc + 4) := by
  rw [relTarget_vector h]
  split
  · exact vectorStep_jump h hf _
  · exact vectorStep_retire h hf

theorem retired_vectorStep {s t : State} {h' : Hart} (h : s.issue.side = .vector)
    (hv : VectorStep s t h' (s.hart.ve.pc + 4)) (hi : h'.cs.instret = s.hart.cs.instret) : Retired s t := by
  rw [hv]
  simp [Retired, pcOf, h, hi]

theorem keeps_id (h : Hart) : Keeps id h := ⟨rfl, rfl, rfl, rfl, rfl⟩

theorem mapHart_id (s : State) : s.mapHart id = s := rfl

/-- With no poisoned register a write of an h register leaves its hart as `withH` says. -/
theorem hWrite_clean {h : Hart} (hc : h.poison = []) (d : BitVec 5) (v : Word) : hWrite h d.toNat v = withH h d v := by
  unfold hWrite mendPoison refresh withH
  simp only [hc, List.isEmpty_nil, if_true]
  split
  · next hs => simp only [List.isEmpty_iff.1 hs, List.filter_nil]
  · rfl

theorem keeps_hWrite (h : Hart) (r : Nat) (v : Hart → Word) : Keeps (fun x => hWrite x r (v x)) h := by
  constructor <;> simp [hWrite]

/-! ### VSETT (R27, R100) -/

theorem elemType_ofCode (n : Nat) : (ElemType.ofCode n).map ElemType.code = if n ≤ 21 then some n else none := by
  by_cases hn : n ≤ 21
  · interval_cases n <;> rfl
  · rw [if_neg hn]
    unfold ElemType.ofCode
    split <;> first | omega | rfl

theorem hvModel_ofCode (n : Nat) : (HvModel.ofCode n).map HvModel.code = if n ≤ 2 then some n else none := by
  by_cases hn : n ≤ 2
  · interval_cases n <;> rfl
  · rw [if_neg hn]
    unfold HvModel.ofCode
    split <;> first | omega | rfl

theorem isQuant_code (e : ElemType) : e.isQuant = true ↔ e.code = 19 ∨ e.code = 20 := by cases e <;> decide

theorem hvWidth_code (m : HvModel) : m.width = if m.code = 0 then 1 else if m.code = 1 then 8 else 4 := by cases m <;> rfl

theorem toNat_beq_one (n : Nat) : (n % 2 == 1).toNat = n % 2 := by
  obtain h | h := Nat.mod_two_eq_zero_or_one n <;> simp [h]

/-- The type a request's fields name, where its ET and HM are codes (R25). -/
def requestedType (n : Nat) (et : ElemType) (hm : HvModel) : VType :=
  { sat := n / 2 ^ 21 % 2 == 1, maskz := n / 2 ^ 20 % 2 == 1, tail := n / 2 ^ 19 % 2 == 1, hd := n / 2 ^ 15 % 16,
    hm := hm, bs := n / 2 ^ 10 % 8, ts := BitVec.ofNat 2 (n / 2 ^ 8), lg := BitVec.ofNat 2 (n / 2 ^ 5), et := et }

theorem requestedType_toWord {w : Word} {et : ElemType} {hm : HvModel} (he : et.code = w.toNat % 32)
    (hh : hm.code = w.toNat / 2 ^ 13 % 4) (hn : w.toNat < 2 ^ 22) (hlg : w.toNat / 2 ^ 5 % 8 ≤ 3) :
    (requestedType w.toNat et hm).toWord = w := by
  refine BitVec.eq_of_toNat_eq ?_
  simp only [VType.toWord, requestedType, word, toNat_beq_one, BitVec.toNat_ofNat, he, hh]
  omega

/-- The checks of a request whose ET and HM are codes (R27). -/
theorem vtypeRequestOk_iff {bits : Nat} {w : Word} {et : ElemType} {hm : HvModel} (he : et.code = w.toNat % 32)
    (he' : w.toNat % 32 ≤ 21) (hh : hm.code = w.toNat / 2 ^ 13 % 4) (hh' : w.toNat / 2 ^ 13 % 4 ≤ 2) :
    vtypeRequestOk bits w ↔ ¬ (2 ^ 22 ≤ w.toNat ∨ 3 < w.toNat / 2 ^ 5 % 8 ∨ 4 < (requestedType w.toNat et hm).bs ∨
        10 < (requestedType w.toNat et hm).hd) ∧
      ¬ (et.isQuant ∧ (requestedType w.toNat et hm).bs < 2) ∧
      ¬ bits * (requestedType w.toNat et hm).group < (requestedType w.toNat et hm).dim * hm.width := by
  have hlg : w.toNat / 2 ^ 5 % 8 ≤ 3 → w.toNat / 2 ^ 5 % 4 = w.toNat / 2 ^ 5 % 8 := by omega
  simp only [vtypeRequestOk, requestedType, VType.group, VType.dim, hvWidth_code, isQuant_code, he, hh, BitVec.toNat_ofNat,
    not_or, not_and, not_lt, not_le, pow_zero, Nat.div_one]
  norm_num at hlg hh' ⊢
  constructor
  · rintro ⟨hn, -, hg, hbs, -, hhd, hq, hdim⟩
    exact ⟨⟨hn, hg, hbs, hhd⟩, hq, hlg hg ▸ hdim⟩
  · rintro ⟨⟨hn, hg, hbs, hhd⟩, hq, hdim⟩
    exact ⟨hn, he', hg, hbs, hh', hhd, hq, hlg hg ▸ hdim⟩

/-- A request with every field in range is the type that reads as it; any other is none (R27). -/
theorem ofWord_eq (bits : Nat) (w : Word) :
    (vtypeRequestOk bits w → ∃ t, VType.ofWord bits w = some t ∧ t.toWord = w) ∧
    (¬ vtypeRequestOk bits w → VType.ofWord bits w = none) := by
  have he := elemType_ofCode (w.toNat % 32)
  have hh := hvModel_ofCode (w.toNat / 2 ^ 13 % 4)
  unfold VType.ofWord
  dsimp only
  cases hE : ElemType.ofCode (w.toNat % 32) with
  | none =>
    have : 21 < w.toNat % 32 := by
      rw [hE] at he
      by_contra hc
      rw [if_pos (by omega)] at he
      cases he
    exact ⟨fun ⟨_, h5, _⟩ => absurd h5 (by simpa using this), fun _ => rfl⟩
  | some et =>
    cases hM : HvModel.ofCode (w.toNat / 2 ^ 13 % 4) with
    | none =>
      have : 2 < w.toNat / 2 ^ 13 % 4 := by
        rw [hM] at hh
        by_contra hc
        rw [if_pos (by omega)] at hh
        cases hh
      exact ⟨fun ⟨_, _, _, _, h5, _⟩ => absurd h5 (by simpa using this), fun _ => rfl⟩
    | some hm =>
      rw [hE] at he
      rw [hM] at hh
      obtain ⟨he21, he⟩ : w.toNat % 32 ≤ 21 ∧ et.code = w.toNat % 32 := by simpa using he
      obtain ⟨hh2, hh⟩ : w.toNat / 2 ^ 13 % 4 ≤ 2 ∧ hm.code = w.toNat / 2 ^ 13 % 4 := by simpa using hh
      rw [vtypeRequestOk_iff he he21 hh hh2]
      refine ⟨fun ⟨h1, h2, h3⟩ => ⟨requestedType w.toNat et hm, ?_, ?_⟩, fun hn => ?_⟩
      · exact (if_neg h1).trans ((if_neg h2).trans (if_neg h3))
      · exact requestedType_toWord he hh (by omega) (by omega)
      · by_cases h1 : 2 ^ 22 ≤ w.toNat ∨ 3 < w.toNat / 2 ^ 5 % 8 ∨ 4 < (requestedType w.toNat et hm).bs ∨
          10 < (requestedType w.toNat et hm).hd
        · exact if_pos h1
        · by_cases h2 : et.isQuant ∧ (requestedType w.toNat et hm).bs < 2
          · exact (if_neg h1).trans (if_pos h2)
          · exact (if_neg h1).trans ((if_neg h2).trans (if_pos (by tauto)))

/-- VTYPE and VL by themselves, as VSETT leaves them. -/
abbrev withVtype (h : Hart) (vt : Option VType) (n : Nat) : Hart := { h with cs := { h.cs with vtype := vt, vl := n } }

theorem setVtype_eq (h : Hart) (w : Word) :
    ∃ vt n, setVtype h w = withVtype h vt n ∧ (¬ vtypeRequestOk (regBits h) w → vt = none ∧ n = 0) ∧
      (vtypeRequestOk (regBits h) w → vtypeWord vt = w ∧
        ∀ ty, vt = some ty → n = ty.whole (min h.cs.vl (ty.vlmax (regBits h)))) := by
  obtain ⟨hok, hbad⟩ := ofWord_eq (regBits h) w
  by_cases h1 : vtypeRequestOk (regBits h) w
  · obtain ⟨t, ht, hw⟩ := hok h1
    refine ⟨some t, _, by rw [setVtype, ht], fun h => absurd h1 h, fun _ => ⟨hw, ?_⟩⟩
    rintro _ ⟨⟩
    rfl
  · exact ⟨none, 0, by rw [setVtype, hbad h1], fun _ => ⟨rfl, rfl⟩, fun h => absurd h h1⟩

theorem vsettSets : vsettSetsVtype := by
  intro s d a h hd ha w
  obtain ⟨vt, n, hset, hbad, hok⟩ := setVtype_eq s.hart w
  have hset' : setVtype s.hart (hRead s.hart a.toNat) = withVtype s.hart vt n := hset
  obtain ⟨u, hx, hv⟩ : ∃ u, exec (.vsett d a) s = .next u ∧
      VectorStep s u (hWrite (withVtype s.hart vt n) d.toNat (word n)) (s.hart.ve.pc + 4) := by
    have hv := vectorStep_retire h.side
      (f := fun x => hWrite (setVtype x (hRead x a.toNat)) d.toNat (word (setVtype x (hRead x a.toNat)).cs.vl))
      (by constructor <;> simp only [hset'] <;> simp [hWrite])
    simp only [hset'] at hv
    refine ⟨_, ?_, hv⟩
    dsimp only [exec, execVsett]
    rw [h.runPlain (by simp [isH_iff.2 ha, isH_iff.2 hd]) rfl]
    rfl
  have hret : Retired s u := retired_vectorStep h.side hv (by simp)
  have hhart : u.hart.ve.h = (hWrite (withVtype s.hart vt n) d.toNat (word n)).ve.h := by rw [hv]
  have hcs : u.hart.cs.vtype = vt ∧ u.hart.cs.vl = n := by rw [hv]; simp
  obtain ⟨hvt, hn⟩ := hcs
  have hread (r : Nat) : hRead u.hart r = if r = d.toNat then word n else hRead s.hart r := by
    rw [hRead, hhart]
    exact hRead_hWrite _ _ _ r hd
  have hcsr : csrRead u 0x101 = vtypeWord vt := by rw [← hvt]; rfl
  refine ⟨u, hx, ?_, fun r _ hr => ?_, fun hr => ?_, fun hr => ?_, onlyHartBeats_of hv, ?_, ?_, ?_, hret⟩
  · rw [hread, if_pos rfl, hn]
    rfl
  · rw [hread, if_neg hr]
  · obtain ⟨rfl, rfl⟩ := hbad hr
    exact ⟨hcsr, hn⟩
  · obtain ⟨hw, hvl⟩ := hok hr
    refine ⟨hcsr.trans hw, fun ty hty => ?_⟩
    rw [hn, hvl ty (hvt ▸ hty), VType.whole, VType.block]
    split <;> rfl
  · rw [hv]; simp
  · rw [hv]; simp
  · rw [hv]; simp

/-! ### Replies and counters (R58, R59, R100, R101) -/

theorem replyWord_ends {s : State} (h : Issuing s .vector) (x : Word) :
    (s.hart.life = .ending → ∃ t, finish s (replyWord s x) = .next t ∧ VectorStep s t s.hart (s.hart.ve.pc + 4)) ∧
    (s.hart.life ≠ .ending → vectorWritesPending s = false → s.hart.ve.replies.length < 16 →
      ∃ t, finish s (replyWord s x) = .next t ∧
        VectorStep s t { s.hart with ve := { s.hart.ve with replies := s.hart.ve.replies ++ [x] } } (s.hart.ve.pc + 4)) := by
  refine ⟨fun hl => ⟨_, ?_, vectorStep_retire h.side (keeps_id s.hart)⟩, fun hl hw hn => ?_⟩
  · rw [replyWord, if_pos (by simpa using hl)]
    rfl
  · have hfull : (vectorWritesPending s || decide (16 ≤ s.hart.ve.replies.length)) = false := by simp [hw, hn]
    refine ⟨_, ?_, vectorStep_retire h.side
      (f := fun h => { h with ve := { h.ve with replies := h.ve.replies ++ [x] } }) ⟨rfl, rfl, rfl, rfl, rfl⟩⟩
    rw [replyWord, if_neg (by simpa using hl), hfull]
    rfl

/-- All of the low `n` bits of a number are ones where their count is `n`. -/
theorem allOnes_iff (v n : Nat) : v % 2 ^ n = 2 ^ n - 1 ↔ ((List.range n).filter v.testBit).length = n := by
  have hl : ((List.range n).filter v.testBit).length = n ↔ ∀ i < n, v.testBit i = true := by
    conv_lhs => rhs; rw [← List.length_range (n := n)]
    rw [List.length_filter_eq_length_iff]
    simp
  rw [hl]
  constructor
  · intro h i hi
    have := congrArg (Nat.testBit · i) h
    simpa [Nat.testBit_mod_two_pow, hi, Nat.testBit_two_pow_sub_one] using this
  · intro h
    refine Nat.eq_of_testBit_eq fun i => ?_
    rw [Nat.testBit_mod_two_pow, Nat.testBit_two_pow_sub_one]
    by_cases hi : i < n
    · simp [hi, h i hi]
    · simp [hi]

theorem regBits_le (h : Hart) : regBits h ≤ 65536 := Nat.div_le_self _ _

/-- The lowest one of a number, or all ones of 20 bits, by the list of its ones. -/
theorem lowestOne_eq {v n : Nat} (hn : n ≤ 65536) :
    (if v % 2 ^ n = 0 then 0xFFFFF else trailingZeros ((v % 2 ^ n).log2 + 1) (v % 2 ^ n)) % 2 ^ 20 =
      match ((List.range n).filter v.testBit).head? with
      | some i => i
      | none => 0xFFFFF := by
  rw [← filter_mod_two_pow]
  by_cases h0 : v % 2 ^ n = 0
  · rw [if_pos h0, h0]
    rfl
  · have ht := head_filter_testBit h0 Nat.lt_log2_self
    have hi := List.mem_of_mem_head? (filter_mod_two_pow v n ▸ ht : _ = some _)
    have := List.mem_range.1 (List.mem_filter.1 hi).1
    rw [if_neg h0, ht, Nat.mod_eq_of_lt (by omega)]

theorem ones_eq_nil_iff (v n : Nat) : (List.range n).filter v.testBit = [] ↔ v % 2 ^ n = 0 := by
  rw [← filter_mod_two_pow]
  constructor
  · intro h
    by_contra h0
    have := head_filter_testBit h0 Nat.lt_log2_self
    rw [h] at this
    cases this
  · intro h
    rw [h]
    rfl

theorem maskSummary_eq (h : Hart) (a : BitVec 5) :
    let n := min h.cs.vl (regBits h)
    let ones := (List.range n).filter (fun i => (vget h.ve.m a.toNat 0).getLsbD i)
    maskSummary h a = BitVec.ofNat 64 ((if ones ≠ [] then 2 ^ 63 else 0) + (if 0 < n ∧ ones.length = n then 2 ^ 62 else 0) +
      (match ones.head? with
       | some i => i
       | none => 0xFFFFF) * 2 ^ 20 + ones.length) := by
  intro n ones
  have hn : n ≤ 65536 := (min_le_right _ _).trans (regBits_le h)
  have hlen : ones.length ≤ n := (List.length_filter_le _ _).trans (by simp)
  have hany : (maskBits h a.toNat % 2 ^ n != 0) = decide (ones ≠ []) := by
    rw [Bool.eq_iff_iff, bne_iff_ne, decide_eq_true_iff]
    exact not_congr (ones_eq_nil_iff (maskBits h a.toNat) n).symm
  have hall : (decide (0 < n) && maskBits h a.toNat % 2 ^ n == 2 ^ n - 1) = decide (0 < n ∧ ones.length = n) := by
    rw [Bool.eq_iff_iff, Bool.and_eq_true, beq_iff_eq, allOnes_iff, decide_eq_true_iff, decide_eq_true_iff]
    rfl
  have hcount : popCount ((maskBits h a.toNat % 2 ^ n).log2 + 1) (maskBits h a.toNat % 2 ^ n) % 2 ^ 20 = ones.length := by
    rw [popCount_eq_length, filter_mod_two_pow, Nat.mod_eq_of_lt (by exact hlen.trans_lt (by omega))]
    rfl
  unfold maskSummary word
  dsimp only
  change BitVec.ofNat 64 (bitAt (maskBits h a.toNat % 2 ^ n != 0) 63 +
    bitAt (decide (0 < n) && maskBits h a.toNat % 2 ^ n == 2 ^ n - 1) 62 +
    (if maskBits h a.toNat % 2 ^ n = 0 then 0xFFFFF else
      trailingZeros ((maskBits h a.toNat % 2 ^ n).log2 + 1) (maskBits h a.toNat % 2 ^ n)) % 2 ^ 20 * 2 ^ 20 +
    popCount ((maskBits h a.toNat % 2 ^ n).log2 + 1) (maskBits h a.toNat % 2 ^ n) % 2 ^ 20) = _
  rw [hany, hall, hcount, lowestOne_eq hn]
  simp only [bitAt, decide_eq_true_iff]
  rfl

theorem repliesAndCounters : repliesAndCountersComplete := by
  intro s d a h
  refine ⟨fun ha => ?_, fun ha => ?_, fun hd ha => ⟨_, ?_, vectorStep_retire h.side
    (f := fun x => { x with ve := { x.ve with lc := vset x.ve.lc d.toNat (hRead x a.toNat) } }) ⟨rfl, rfl, rfl, rfl, rfl⟩⟩,
    fun hd => ?_⟩
  · dsimp only [exec, execVreply]
    rw [h.runPlain (isH_iff.2 ha) rfl]
    exact replyWord_ends h _
  · dsimp only [exec, execVreplym]
    rw [h.runPlain (isMask_iff.2 ha) rfl, maskSummary_eq]
    exact replyWord_ends h _
  · dsimp only [exec, execVlcset]
    have hd' : isLoopCounter d = true := by simpa [isLoopCounter, BitVec.lt_def] using hd
    rw [h.runPlain (by simp [hd', isH_iff.2 ha]) rfl]
    rfl
  · have hv := vectorStep_retire h.side (keeps_hWrite s.hart d.toNat fun x => word (activeLanes s x))
    refine ⟨_, ?_, hWrite_clean h.clean d _ ▸ hv⟩
    dsimp only [exec, execValc]
    rw [h.runPlain (isH_iff.2 hd) rfl]
    rfl

/-! ### Branches (R112, R113) -/

theorem fits_some {s : State} (h : s.hart.cs.vtype ≠ none) (b : Bool) : fits s (fun _ => b) = b := by
  unfold fits
  cases hv : s.hart.cs.vtype with
  | none => exact absurd hv h
  | some t => rfl

theorem any_below_iff (h : Hart) (a : BitVec 5) (n : Nat) :
    (∃ i < n, (vget h.ve.m a.toNat 0).getLsbD i = true) ↔ maskBits h a.toNat % 2 ^ n ≠ 0 := by
  rw [← not_iff_not, not_not, ← ones_eq_nil_iff]
  simp only [List.filter_eq_nil_iff, List.mem_range, not_exists, not_and]
  rfl

/-- A branch on a mask goes to its target where its test holds of the bits below VL. -/
theorem maskBranch_goes {s : State} (h : Issuing s .vector) {a : BitVec 5} (o : BitVec 14) {test : Nat → Bool}
    (ha : a.toNat < 8) (hm : s.hart.cs.vl ≤ regBits s.hart) (hv : s.hart.cs.vtype ≠ none) :
    ∃ t, maskBranch s a o test = .next t ∧ VectorStep s t s.hart
      (if test (maskBits s.hart a.toNat % 2 ^ s.hart.cs.vl) then s.hart.ve.pc + BitVec.ofInt 64 (4 * o.toInt)
        else s.hart.ve.pc + 4) := by
  unfold maskBranch
  rw [h.runPlain (isMask_iff.2 ha) (by simp [fits_some hv, maskFits, hm])]
  exact ⟨_, rfl, vectorStep_branch h.side (keeps_id s.hart) o _⟩

/-- The records a VLOOP at `pc` that left `r` keeps; none for NOPROGRESS. -/
theorem loopProgress_eq (l : List LoopRec) (pc : Word) (r : Int) :
    ((∃ e, l.find? (fun e => e.addr == pc) = some e ∧ e.last ≤ r ∧ e.n = 1) → loopProgress l pc r = none) ∧
    ((∀ e, l.find? (fun e => e.addr == pc) = some e → e.last ≤ r → e.n ≠ 1) → ∃ kept, loopProgress l pc r = some kept ∧
      kept.head? = some ⟨pc, r, match l.find? (fun e => e.addr == pc) with
        | some e => if e.last ≤ r then e.n + 1 else 0
        | none => 0⟩) := by
  unfold loopProgress
  cases l.find? (fun e => e.addr == pc) with
  | none => exact ⟨fun ⟨_, he, _⟩ => (nomatch he), fun _ => ⟨_, rfl, rfl⟩⟩
  | some e =>
    refine ⟨?_, fun h => ?_⟩
    · rintro ⟨_, ⟨⟩, hl, hn⟩
      simp [hl, hn]
    · have h2 : (if e.last ≤ r then e.n + 1 else 0) ≠ 2 := by
        split
        · next hl =>
          have := h e rfl hl
          omega
        · decide
      exact ⟨_, if_neg h2, rfl⟩

theorem execVloop_ends {s : State} (h : Issuing s .vector) {a : BitVec 5} (o : BitVec 14) (ha : a.toNat < 16)
    (hv : s.hart.cs.vtype ≠ none) :
    let pc := s.hart.ve.pc
    let r := hRead s.hart a.toNat - BitVec.ofNat 64 s.hart.cs.vl
    let found := s.hart.ve.loops.find? (fun e => e.addr == pc)
    (∀ e, found = some e → e.last ≤ r.toInt → e.n = 1 →
      execVloop a o s = .next (takeTrap s { code := 0x28, val := BitVec.ofNat 64 s.hart.cs.vl } .vector)) ∧
    ((∀ e, found = some e → e.last ≤ r.toInt → e.n ≠ 1) →
      ∃ t loops, execVloop a o s = .next t ∧
        VectorStep s t (withH { s.hart with ve := { s.hart.ve with loops := loops } } a r)
          (if 0 < r.toInt then pc + BitVec.ofInt 64 (4 * o.toInt) else pc + 4) ∧
        (0 < r.toInt → loops.head? = some ⟨pc, r.toInt, match found with
          | some e => if e.last ≤ r.toInt then e.n + 1 else 0
          | none => 0⟩) ∧
        (r.toInt ≤ 0 → ∀ e ∈ loops, e.addr ≠ pc)) := by
  intro pc r found
  obtain ⟨hno, hgo⟩ := loopProgress_eq s.hart.ve.loops pc r.toInt
  unfold execVloop
  rw [h.runPlain (isH_iff.2 ha) (fits_some hv true)]
  dsimp only
  refine ⟨fun e he hl hn => ?_, fun hp => ?_⟩
  · have hnone : loopProgress s.hart.ve.loops s.hart.ve.pc (hRead s.hart a.toNat - word s.hart.cs.vl).toInt = none :=
      hno ⟨e, he, hl, hn⟩
    rw [hnone, finish, h.side]
    rfl
  · obtain ⟨kept, hl, hhead⟩ := hgo hp
    have hsome : loopProgress s.hart.ve.loops s.hart.ve.pc (hRead s.hart a.toNat - word s.hart.cs.vl).toInt = some kept := hl
    have hk (loops : List LoopRec) : Keeps (fun x => hWrite { x with ve := { x.ve with loops := loops } } a.toNat r) s.hart := by
      constructor <;> simp [hWrite]
    have hw (loops : List LoopRec) : hWrite { s.hart with ve := { s.hart.ve with loops := loops } } a.toNat r =
        withH { s.hart with ve := { s.hart.ve with loops := loops } } a r :=
      hWrite_clean (h := { s.hart with ve := { s.hart.ve with loops := loops } }) h.clean a r
    have hstep := vectorStep_branch h.side
      (hk (if 0 < r.toInt then kept else kept.filter (fun x => x.addr != pc))) o (0 < r.toInt)
    rw [hw] at hstep
    rw [hsome]
    refine ⟨_, _, rfl, hstep, fun hr => ?_, fun hr e he => ?_⟩
    · rw [if_pos hr]
      exact hhead
    · rw [if_neg (by omega)] at he
      simpa using (List.mem_filter.1 he).2

/-! ### Joins (R109) -/

/-- The hart with the low bits of a mask register replaced, before its register is noted as written. -/
def maskWritten (h : Hart) (r n v : Nat) : Hart :=
  { h with ve := { h.ve with m := vset h.ve.m r (BitVec.ofNat 65536
    (mergeBits (vget h.ve.m r 0).toNat v (2 ^ min n (regBits h) - 1))) } }

theorem setMaskBelow_def (h : Hart) (r n v : Nat) : setMaskBelow h r n v =
    if covers h (2 ^ min n (regBits h) - 1) then mendPoison (refresh (maskWritten h r n v) (.m r)) 1 r
    else refresh (maskWritten h r n v) (.m r) := rfl

theorem setMaskBelow_eq (h : Hart) (r n v : Nat) : setMaskBelow h r n v = { h with
    ve := { h.ve with m := (setMaskBelow h r n v).ve.m }
    stale := (setMaskBelow h r n v).stale
    poison := (setMaskBelow h r n v).poison } := by
  rw [setMaskBelow_def]
  unfold refresh mendPoison maskWritten
  dsimp only
  split_ifs <;> rfl

/-- The hart with another buffer of fragments. -/
abbrev withFrags (h : Hart) (l : List Fragment) : Hart := { h with ve := { h.ve with frags := l } }

theorem refresh_frags (h : Hart) (l : List Fragment) (r : RegId) :
    refresh (withFrags h l) r = withFrags (refresh h r) l := by
  unfold refresh
  dsimp only
  split <;> rfl

theorem mendPoison_frags (h : Hart) (l : List Fragment) (k n : Nat) :
    mendPoison (withFrags h l) k n = withFrags (mendPoison h k n) l := by
  unfold mendPoison
  dsimp only
  split <;> rfl

theorem maskWritten_frags (h : Hart) (l : List Fragment) (r n v : Nat) :
    maskWritten (withFrags h l) r n v = withFrags (maskWritten h r n v) l := rfl

/-- A write of a mask register does not bear on the fragments. -/
theorem setMaskBelow_frags (h : Hart) (l : List Fragment) (r n v : Nat) :
    setMaskBelow (withFrags h l) r n v = withFrags (setMaskBelow h r n v) l := by
  have hc (m : Nat) : covers (withFrags h l) m = covers h m := rfl
  have hb : regBits (withFrags h l) = regBits h := rfl
  simp only [setMaskBelow_def, hc, hb, maskWritten_frags, refresh_frags, mendPoison_frags]
  split <;> rfl

theorem keeps_setMaskBelow {f : Hart → Hart} {h : Hart} (hf : Keeps f h) (r n v : Nat) :
    Keeps (fun x => setMaskBelow (f x) r n v) h :=
  have e := setMaskBelow_eq (f h) r n v
  ⟨(congrArg Hart.place e).trans hf.place, (congrArg Hart.queue e).trans hf.queue,
    (congrArg (·.tl.region) e).trans hf.region, (congrArg (·.ve.block) e).trans hf.block,
    (congrArg (·.ve.pc) e).trans hf.pc⟩

/-- The masks that an entry brings back, of the live set and of m[K]. -/
abbrev restored (h : Hart) (e : Fragment) (v : VReg) : Hart :=
  setMaskBelow (setMaskBelow h 0 e.vlp v.toNat) e.k.toNat e.vlp v.toNat

theorem restored_frags (h : Hart) (l : List Fragment) (e : Fragment) (v : VReg) :
    restored (withFrags h l) e v = withFrags (restored h e v) l := by
  simp only [restored, setMaskBelow_frags]

theorem keeps_restored (h : Hart) (l : List Fragment) (e : Fragment) (v : VReg) :
    Keeps (fun x => withFrags (restored x e v) l) h :=
  have hk := keeps_setMaskBelow (keeps_setMaskBelow (keeps_id h) 0 e.vlp v.toNat) e.k.toNat e.vlp v.toNat
  ⟨hk.place, hk.queue, hk.region, hk.block, hk.pc⟩

theorem topFragment_none {s : State} (hf : s.hart.ve.frags = []) (hs : s.hart.ve.spilled = 0) :
    topFragment s = .ok (none, s) := by
  simp [topFragment, hf, hs]

theorem topFragment_cons {s : State} {e : Fragment} {rest : List Fragment} (hf : s.hart.ve.frags = e :: rest) :
    topFragment s = .ok (some e, s) := by
  simp [topFragment, hf]

theorem awaitWrites_quiet {s : State} (h : s.hart.writes = []) (l : List RegId) : awaitWrites s l = .ok () := by
  simp [awaitWrites, lastDue_quiet _ _ h]

/-- A waiting fragment runs with its entry JOINING. -/
theorem runFragment_step {s : State} (h : Issuing s .vector) {e : Fragment} {rest : List Fragment}
    (hf : s.hart.ve.frags = e :: rest) : VectorStep s (runFragment s e)
      (withFrags (restored s.hart e e.f) ({ e with joining := true } :: rest)) (e.pc &&& 0xFFFFFFFFFFFFFFFC) := by
  have he : restoreMasks (s.mapHart (fun h => { h with ve := { h.ve with
      frags := { e with joining := true } :: h.ve.frags.tail } })) e e.f =
      s.mapHart (fun x => withFrags (restored x e e.f) ({ e with joining := true } :: rest)) := by
    simp only [restoreMasks, State.mapHart, hf, List.tail_cons, ← restored_frags]
  dsimp only [runFragment]
  rw [he]
  exact vectorStep_jump h.side (keeps_restored s.hart _ e e.f) _

theorem joinFragment_eq {s : State} {e : Fragment} {rest : List Fragment} (hf : s.hart.ve.frags = e :: rest) :
    joinFragment s e = s.mapHart (fun x => withFrags (restored x e e.u) rest) := by
  simp only [joinFragment, restoreMasks, State.mapHart, hf, List.tail_cons, ← restored_frags]

theorem execVjoin_cons {s : State} (h : Issuing s .vector) {e : Fragment} {rest : List Fragment}
    (hf : s.hart.ve.frags = e :: rest) : execVjoin s =
      .next (if e.joining then retire (joinFragment s e) else runFragment s e) := by
  unfold execVjoin
  rw [h.runPlain rfl rfl, topFragment_cons hf]
  change finish s (awaitWrites s [.m 0, .m e.k.toNat] >>= fun _ => _) = _
  rw [awaitWrites_quiet h.quiet]
  cases e.joining <;> rfl

theorem endLoop_cons {s : State} {e : Fragment} {rest : List Fragment} (hf : s.hart.ve.frags = e :: rest)
    (hq : s.hart.writes = []) (k : Nat) : endLoop s (k + 1) =
      if e.joining then endLoop (joinFragment s e) k else .ok (runFragment s e) := by
  rw [endLoop, topFragment_cons hf]
  change (awaitWrites s [.m 0, .m e.k.toNat] >>= fun _ => _) = _
  rw [awaitWrites_quiet hq]
  rfl

/-- The block ends with the word. -/
theorem endBlock_step {s : State} (h : s.issue.side = .vector) {f : Hart → Hart} (hf : Keeps f s.hart) :
    (endBlock (s.mapHart f)).hart.ve.block = none ∧ VectorStep s (endBlock (s.mapHart f))
      { f s.hart with ve := { (f s.hart).ve with block := none } } (s.hart.ve.pc + 4) := by
  have hv := vectorStep_retire h hf
  refine ⟨rfl, ?_⟩
  rw [VectorStep, endBlock, hv]
  rfl

theorem vectorBranchesAndJoins : vectorBranchesAndJoinsComplete := by
  intro s a o h
  refine ⟨fun ha hm hv => ?_, fun ha => ?_, fun ha hv => execVloop_ends h o ha hv, ?_, fun hf hs => ?_, fun e rest hf => ?_⟩
  · obtain ⟨t, ht, hst⟩ := maskBranch_goes h o (test := fun v => v != 0) ha hm hv
    obtain ⟨u, hu, hsu⟩ := maskBranch_goes h o (test := fun v => v == 0) ha hm hv
    rw [any_below_iff]
    refine ⟨fun hn => ⟨⟨t, ht, ?_⟩, ⟨u, hu, ?_⟩⟩, fun hn => ⟨⟨t, ht, ?_⟩, ⟨u, hu, ?_⟩⟩⟩
    · simpa [hn] using hst
    · simpa [hn] using hsu
    · simpa [not_not.1 hn] using hst
    · simpa [not_not.1 hn] using hsu
  · intro c c'
    have hl : isLoopCounter a = true := by simpa [isLoopCounter, BitVec.lt_def] using ha
    have hv := vectorStep_branch h.side
      (f := fun x => { x with ve := { x.ve with lc := vset x.ve.lc a.toNat c' } }) ⟨rfl, rfl, rfl, rfl, rfl⟩ o (c' ≠ 0)
    rw [ite_not, ite_not] at hv
    refine ⟨_, ?_, hv⟩
    dsimp only [exec, execVlcnz]
    rw [h.runPlain hl rfl]
    rfl
  · dsimp only [exec, execVjmp]
    rw [h.runPlain rfl rfl, relTarget_vector h.side]
    exact ⟨_, rfl, vectorStep_jump h.side (keeps_id s.hart) _⟩
  · obtain ⟨hb, hv⟩ := endBlock_step h.side (keeps_id s.hart)
    have hfuel : s.hart.ve.frags.length + s.hart.ve.spilled.toNat = 0 := by simp [hf, hs]
    dsimp only [exec, execVjoin, execVend]
    rw [h.runPlain rfl rfl, h.runPlain rfl rfl, topFragment_none hf hs, hfuel]
    exact ⟨⟨_, rfl, vectorStep_retire h.side (keeps_id s.hart)⟩, _, rfl, hb, hv⟩
  · obtain ⟨k, hk⟩ : ∃ k, s.hart.ve.frags.length + s.hart.ve.spilled.toNat = k + 1 :=
      ⟨rest.length + s.hart.ve.spilled.toNat, by rw [hf, List.length_cons]; omega⟩
    dsimp only [exec, execVend]
    rw [execVjoin_cons h hf, h.runPlain rfl rfl, hk, endLoop_cons hf h.quiet]
    refine ⟨fun hj => ?_, fun hj => ?_⟩
    · simp only [hj, Bool.false_eq_true, if_false]
      exact ⟨⟨_, rfl, runFragment_step h hf⟩, _, rfl, runFragment_step h hf⟩
    · simp only [hj, if_true, joinFragment_eq hf]
      refine ⟨⟨_, rfl, vectorStep_retire h.side (keeps_restored s.hart rest e e.u)⟩, fun hr hs => ?_⟩
      obtain rfl : k = 0 := by
        rw [hf, hr, hs] at hk
        simpa using hk.symm
      exact ⟨_, rfl, (endBlock_step h.side (keeps_restored s.hart rest e e.u)).2⟩

/-- Settles O36: VSETT, the replies and counters, and the branches and joins. -/
theorem vectorControlWordsComplete : Obligations.VectorControlWordsComplete :=
  ⟨vsettSets, repliesAndCounters, vectorBranchesAndJoins⟩

end Sys2Proof.Machine
end

section
/-!
LAW. A scatter-add whose flag comes with an element number of 2^64 (R48, R125). VL is a number without a bound in the model,
and so is the list that memory is: a list that is not in the canonical form can give up one entry at each write to a byte,
and so read differently after any number of writes of one value. Refutes O38.
-/

namespace Sys2Proof.Machine

/-! ### Memory that wears down -/

/-- The location of the word whose highest byte wears down: the first of a window level. -/
def worn : Nat := windowLoc 0 0

/-- Byte 3 of the word reads 0 until `n` writes of 0 have removed as many entries, and 0x7F then; byte 2 reads 0xA0. -/
def wearing (n : Nat) : Memory := (worn + 2, 0xA0) :: (List.replicate n (worn + 3, 0) ++ [(worn + 3, 0x7F)])

/-- What is left when the last value has become a quiet NaN. -/
def wornOut : Memory := memWrite (wearing 0) worn 4 0x7FC00000

theorem memRead_wearing_succ (n : Nat) : memRead (wearing (n + 1)) worn 4 = 0x00A00000 := by
  simp [wearing, memRead, memByte, List.replicate_succ, unlisted]

theorem memRead_wearing_zero : memRead (wearing 0) worn 4 = 0x7FA00000 := by decide +kernel

theorem memWrite_wearing_succ (n : Nat) : memWrite (wearing (n + 1)) worn 4 0x00A00000 = wearing n := by
  simp [wearing, memWrite, memSet, List.replicate_succ, unlisted]

/-! ### The hart whose VSTA adds 0 to that word -/

/-- The stream of the one word of the hart's window. -/
def wornStream : StreamReg := { tsr := ⟨coreBase, .f32, 1, false, false, [1], [1]⟩, pos := 0 }

/-- The vector side stands at a word on that stream with `n` + 1 elements, each with 0 as its data and as its index. -/
def wearingState (n : Nat) : State :=
  { hart := { life := .running, cs := { vtype := some { et := .f32 }, vl := n + 1 },
              ve := { pc := 0x10000, block := some ⟨0x10000, 0⟩ }, q := vset (Vector.replicate 16 none) 0 (some wornStream) },
    mem := wearing n, grants := [⟨0, 0, 0, .core, 0, 4⟩], issue := { side := .vector } }

theorem issuing_wearingState (n : Nat) : VectorIssuing (wearingState n) { et := .f32 } := ⟨⟨rfl, rfl, rfl, rfl, rfl⟩, rfl⟩

/-- The same in the lanes, where memory is `m`. -/
def wearingLanes (n : Nat) (m : Memory) : State := { inLanes (wearingState n) (n + 1) with mem := m }

/-- The update that each element makes: +0 is added to the word at the start of the window. -/
def addZero (s : State) (_ : Nat) : Except Stop (Flags × State) :=
  elementUpdate s .gather 32 ((8 * coreBase : Nat) : Int) (fun old => (floatFormat .f32).add .rne old 0)

theorem locate_wearingLanes (n : Nat) (m : Memory) : locate (wearingLanes n m) .write true coreBase = .ok { loc := worn } := rfl

theorem awaitEngines_wearingLanes (n : Nat) (m : Memory) :
    awaitEngines (wearingLanes n m) (wearingLanes n m).hart .write coreBase = .ok () := rfl

theorem awaitIsland_wearingLanes (n : Nat) (m : Memory) :
    awaitIsland (wearingLanes n m) (some (wearingLanes n m).hart.uid) worn = .ok () := rfl

theorem poisoned_wearingLanes (n : Nat) (m : Memory) : (wearingLanes n m).poisoned (lineOf worn) = false := rfl

theorem elemRead_wearingLanes (n : Nat) (m : Memory) :
    (wearingLanes n m).elemRead 0 worn 4 = (memRead m worn 4, wearingLanes n m) := rfl

theorem elemWrite_wearingLanes (n v : Nat) (m : Memory) (who : Option Nat) :
    (wearingLanes n m).elemWrite who 0 worn 4 v = .ok (wearingLanes n (memWrite m worn 4 v)) := rfl

theorem addZero_wearingLanes (n : Nat) (m : Memory) (i : Nat) : addZero (wearingLanes n m) i =
    .ok (((floatFormat .f32).add .rne (memRead m worn 4) 0).2,
      wearingLanes n (memWrite m worn 4 ((floatFormat .f32).add .rne (memRead m worn 4) 0).1)) := by
  have hstack : (wearingLanes n m).hart.place.core / 64 = 0 := Nat.zero_div 64
  have hva : (((8 * coreBase : Nat) : Int) / 8).toNat = coreBase := by decide
  rw [addZero, elementUpdate, if_neg (by decide)]
  simp only [hva, awaitEngines_wearingLanes, locate_wearingLanes, awaitIsland_wearingLanes, poisoned_wearingLanes, hstack,
    elemRead_wearingLanes, elemWrite_wearingLanes, bind, Except.bind, Bool.false_eq_true, if_false, Nat.reduceDiv]
  rfl

theorem addZero_succ (n k i : Nat) : addZero (wearingLanes n (wearing (k + 1))) i = .ok (0, wearingLanes n (wearing k)) := by
  have h : (floatFormat .f32).add .rne 0x00A00000 0 = (0x00A00000, 0) := by decide +kernel
  rw [addZero_wearingLanes, memRead_wearing_succ, h, memWrite_wearing_succ]

theorem addZero_zero (n i : Nat) : addZero (wearingLanes n (wearing 0)) i = .ok (flagNV, wearingLanes n wornOut) := by
  have h : (floatFormat .f32).add .rne 0x7FA00000 0 = (0x7FC00000, flagNV) := by decide +kernel
  rw [addZero_wearingLanes, memRead_wearing_zero, h, wornOut]

/-- What the elements raise: the last of `n` + 1 raises NV. -/
def lastRaises (n : Nat) : List (Option Flags) := List.replicate n (some 0) ++ [some flagNV]

theorem accessElements_wearing (n k i : Nat) (act : Nat → Bool) (hact : ∀ j, act j = true) :
    accessElements act addZero (List.range' i (k + 1)) (wearingLanes n (wearing k)) =
      .ok (lastRaises k, none, wearingLanes n wornOut) := by
  induction k generalizing i with
  | zero => simp [accessElements, hact, addZero_zero, lastRaises]; rfl
  | succ k ih =>
    rw [List.range'_succ, accessElements, if_pos (hact i), addZero_succ]
    simp only [ih]
    rfl

/-! ### What the word leaves -/

/-- The flags of a word's elements with their numbers. -/
def numbered (l : List (Option Flags)) : Raised := l.zipIdx.filterMap (fun y => y.1.map (fun f => (0 + y.2, f)))

theorem numbered_lastRaises_first {n : Nat} (h : 2 ^ 64 ≤ n) (k : Nat) : (numbered (lastRaises n)).first k = 2 ^ 64 - 1 := by
  refine le_antisymm ((first_le_iff _ _ _).2 (.inl le_rfl)) (le_of_not_gt fun hlt => ?_)
  obtain hle | ⟨i, hi, f, hmem, hk⟩ := (first_le_iff _ _ _).1 (Nat.le_sub_one_of_lt hlt)
  · omega
  · obtain ⟨⟨y, j⟩, hy, hf⟩ := List.mem_filterMap.1 hmem
    have hj := List.getElem?_eq_some_iff.1 (List.mk_mem_zipIdx_iff_getElem?.1 hy)
    obtain ⟨hlen, hy⟩ := hj
    obtain ⟨g, rfl, hg⟩ := Option.map_eq_some_iff.1 hf
    obtain ⟨rfl, rfl⟩ := Prod.mk.inj hg
    have hjn : j < n := by omega
    simp [lastRaises, hjn] at hy
    simp [← hy] at hk

theorem dataElem_wearingState (n i : Nat) : dataElem (wearingState n).hart { et := .f32 } 0 i = 0 := by
  have hv : (vget (wearingState n).hart.ve.v 0 0).toNat = 0 := by simp [wearingState, vget]
  have hg : groupBits (wearingState n).hart 0 1 = 0 := by
    rw [groupBits, groupBits, Nat.zero_add, hv, Nat.zero_mod, Nat.zero_mul]
  change elem 32 (groupBits (wearingState n).hart 0 1) i = 0
  rw [hg, elem, Nat.zero_div, Nat.zero_mod]

theorem indexedElement_wearingState (n i : Nat) :
    indexedElement (wearingState n).hart { et := .f32 } wornStream 0 i = ((8 * coreBase : Nat) : Int) := by
  have h := dataElem_wearingState n i
  rw [dataElem] at h
  rw [indexedElement, h]
  decide

/-- The update of the word's elements is `addZero`. -/
theorem update_wearingState (n : Nat) :
    (fun s i => elementUpdate s .gather 32 (indexedElement (wearingState n).hart { et := .f32 } wornStream 0 i)
      (fun old => scatterAdd .f32 false old (dataElem (wearingState n).hart { et := .f32 } 0 i))) = addZero := by
  funext s i
  rw [indexedElement_wearingState, dataElem_wearingState]
  rfl

/-- What the word does with what its elements raise. -/
def noteScatter (s : State) (start : Nat) (l : List (Option Flags)) (_ : Nat) (done : Bool) : State :=
  s.mapHart (fun h => noteFlags h start done (l.zipIdx.filterMap (fun y => y.1.map (fun f => (start + y.2, f)))))

theorem elementWord_wearing (n : Nat) : elementWord (wearingLanes n (wearing n)) (n + 1) 0 addZero noteScatter =
    .ok (varyTime (retire (noteScatter (setVl (wearingLanes n wornOut) (n + 1)) 0 (lastRaises n) (n + 1) true))) := by
  have hwalk := accessElements_wearing n n 0 (isActive (wearingLanes n (wearing n)).hart 0) fun _ => rfl
  have hstart : startOf (wearingLanes n (wearing n)) = 0 := rfl
  have hstop : stopOf (wearingLanes n (wearing n)) (n + 1) = n + 1 := rfl
  simp only [elementWord, hstart, hstop, Nat.sub_zero, hwalk, bind, Except.bind, le_refl, if_true]

theorem exec_vsta_wearing (n : Nat) : exec (.vsta 0 0 0 0) (wearingState n) =
    .next (varyTime (retire (noteScatter (setVl (wearingLanes n wornOut) (n + 1)) 0 (lastRaises n) (n + 1) true))) := by
  have hword := elementWord_wearing n
  rw [← update_wearingState n] at hword
  change execVsta 0 0 0 0 (wearingState n) = _
  dsimp only [execVsta]
  refine ((issuing_wearingState n).issuing.runPlain rfl rfl).trans ?_
  exact congrArg (finish _) hword

theorem retire_first (s : State) : (retire s).hart.cs.first = s.hart.cs.first := by
  cases hs : s.issue.side with
  | scalar => simp [retire, retireTo, readyFrom, hs]
  | vector =>
    simp only [retire, retireTo, readyFrom, hs, mapHart_issue, mapHart_hart]
    rw [chargeSequencer_eq]
    rfl

theorem varyTime_first (s : State) : (varyTime s).hart.cs.first = s.hart.cs.first := by
  unfold varyTime
  split
  · rfl
  · rfl

/-- The model keeps all ones for an element number that 64 bits do not hold. -/
theorem first_vsta_wearing {n : Nat} (h : 2 ^ 64 ≤ n) {r : State} (hr : exec (.vsta 0 0 0 0) (wearingState n) = .next r) :
    vget r.hart.cs.first 0 0 = BitVec.allOnes 64 := by
  rw [exec_vsta_wearing] at hr
  obtain rfl := Host.Outcome.next.inj hr
  rw [varyTime_first, retire_first]
  refine (noteFlags_first _ (numbered (lastRaises n)) (by decide)).trans ?_
  rw [← first_eq, numbered_lastRaises_first h]
  decide

/-! ### What the statement asks for -/

theorem find_lastRaises (n : Nat) : (List.range (lastRaises n).length).find?
    (fun i => ((lastRaises n)[i]?.join.getD 0).getLsbD 0) = some n := by
  rw [List.find?_range_eq_some]
  refine ⟨by simp [lastRaises, flagNV], by simp [lastRaises], fun i hi => ?_⟩
  simp [lastRaises, List.getElem?_append, hi]

theorem walked_wearing (n : Nat) : Walked (inLanes (wearingState n) (n + 1)) 0 (fun s i => elementUpdate s .gather 32
    (indexedBit (wearingState n) { et := .f32 } wornStream 0 i)
    (fun old => accumulated { et := .f32 } old (source (wearingState n) { et := .f32 } 0 i))) (n + 1) (n + 1)
    (lastRaises n) (wearingLanes n wornOut) := by
  have hd (i : Nat) : source (wearingState n) { et := .f32 } 0 i = 0 := dataElem_wearingState n i
  have hi (i : Nat) : indexedBit (wearingState n) { et := .f32 } wornStream 0 i = ((8 * coreBase : Nat) : Int) := by
    rw [indexedBit, hd]
    decide
  refine .inl ⟨rfl, ?_⟩
  simp only [hd, hi]
  rw [List.range_eq_range']
  exact accessElements_wearing n n 0 _ fun _ => rfl

/-- Refutes O38: VSTA of 2^64 + 1 elements, all of whose data and indices are 0, adds +0 to one word of a window level, in
a memory whose list is not canonical, so that the word reads 0x00A00000 at the first 2^64 elements and the signalling NaN
0x7FA00000 at the last. That element, number 2^64, is the only one that raises NV. The model leaves all ones in the first
first-exception register, where the statement has the element's number mod 2^64, 0. A VL of 2^64 or more is beyond every
VLMAX, and no step leaves such a memory; the statement's hypotheses exclude neither. -/
theorem not_vectorAccessesComplete : ¬ Obligations.VectorAccessesComplete := by
  unfold Obligations.VectorAccessesComplete
  rintro ⟨-, hstores⟩
  generalize hn : 2 ^ 64 = n
  obtain ⟨r, hr, -, -, -, hfirst⟩ := ((hstores (wearingState n) { et := .f32 } 0 0 0 0 (issuing_wearingState n) rfl rfl rfl
    (by decide)).1 wornStream rfl rfl).2.2 (by decide) rfl |>.1 _ _ _ (walked_wearing n)
  have h0 := hfirst 0 (by decide)
  rw [find_lastRaises, first_vsta_wearing hn.le hr, ← hn] at h0
  exact absurd h0 (by decide)

end Sys2Proof.Machine
end

section
/-!
LAW. A gather by a hart whose stack is numbered as the hub's (R120, R129, R233). The accesses of the hub are performed at the
home: a copy of the line is written back there and dropped first. The model knows the hub by the number of its stack, and a
hart may stand on a core of that stack. Refutes O37.
-/

namespace Sys2Proof.Machine

/-- The leaf of the first page of far memory: readable, homed at CXL port 0. -/
def farLeaf : Word := 0x4000100000000007

/-- A hart of core 1024, which no product has and whose stack is the hub's, with the translation of its page 0 to the first
page of far memory, and with a clean copy of the page's first line in the L2 of its stack that differs from the home. -/
def hubCoreState : State :=
  { hart := { place := ⟨hubCore, 0, 0⟩, life := .running },
    l2 := [{ stack := hubStack, line := lineOf farBase, data := 1, dirty := 0 }],
    tlb := [{ core := hubCore, asid := 0, base := 0, bits := 16, at_ := 0, leaf := farLeaf }] }

/-- Where its address 0 lies. -/
def farFirst : Located := { loc := farBase, leafAt := some 0, leaf := farLeaf, bits := 16, fresh := true }

theorem locate_hubCoreState : locate hubCoreState .read false 0 = .ok farFirst := by rfl

/-- A gather of the byte at address 0 reads the home, which holds 0. -/
theorem elementRead_hubCoreState : ∃ u, elementRead hubCoreState .gather 8 (0 : Nat) = .ok (0, u) := by
  have h : (elementRead hubCoreState .gather 8 (0 : Nat)).map (·.1) = .ok 0 := by decide +kernel
  generalize elementRead hubCoreState .gather 8 (0 : Nat) = r at h
  match r, h with
  | .ok (_, u), rfl => exact ⟨u, rfl⟩

/-- The vector accesses of the stack see the copy's byte there. -/
theorem vectorSees_hubCoreState : vectorSees hubCoreState hubStack farBase = 1 := by decide +kernel

theorem notMarked_farFirst : notMarked farFirst farBase := by
  intro p hp
  obtain rfl : 0 = p := Option.some.inj hp
  decide

/-- Refutes O37: a gather by a hart of core 1024, whose stack is the hub's, reads the byte of the home, 0, where the vector
accesses of that stack see the byte 1 of its clean copy of the line. No product has such a core; the statement's hypotheses
do not exclude it. -/
theorem not_elementAccessesTouchOnlyTheirBits : ¬ Obligations.ElementAccessesTouchOnlyTheirBits := by
  unfold Obligations.ElementAccessesTouchOnlyTheirBits
  intro h
  obtain ⟨u, hu⟩ := elementRead_hubCoreState
  obtain ⟨-, hbits, -⟩ := (h hubCoreState u .gather 8 0 0 farFirst (fun x => (x, 0)) 0 hubCoreState .i8 false false none
    rfl (fun _ hy => absurd hy List.not_mem_nil) (by decide) (by decide) (fun _ => by decide) (by decide)).1
    locate_hubCoreState rfl hu
  have h0 : Nat.testBit 0 0 = (vectorSees hubCoreState hubStack farBase).testBit 0 := hbits 0 (by decide) notMarked_farFirst
  rw [vectorSees_hubCoreState] at h0
  exact absurd h0 (by decide)

end Sys2Proof.Machine
end

section
/-!
LAW. The events of engine commands, timed regions, streams and query contexts (R121, R122, R173, R185, R188 to R190, R260,
R265, R266, R286). Settles O51.
-/

namespace Sys2Proof.Machine

/-! ### The arbiters of the engines (R285, R286) -/

theorem chargeTurn_eq (s : State) (x : Arb) (q n : Nat) :
    chargeTurn s x q n = { s with arbiters := (chargeTurn s x q n).arbiters } := by
  unfold chargeTurn
  dsimp only
  split <;> rfl

theorem chargeCycles_eq (s : State) (c : EngCmd) (n : Nat) :
    s.chargeCycles c n = { s with arbiters := (s.chargeCycles c n).arbiters } := by
  unfold State.chargeCycles
  split
  · exact chargeTurn_eq s _ _ _
  · rfl

theorem chargeCommand_eq (s : State) (c : EngCmd) :
    s.chargeCommand c = { s with arbiters := (s.chargeCommand c).arbiters } := by
  unfold State.chargeCommand
  split
  · rfl
  · split
    · rfl
    · exact chargeCycles_eq s c _

/-- A turn given changes only the arbiters. -/
theorem engineTurn_eq {t u : State} {c : EngCmd} (h : engineTurn t c = some u) : u = { t with arbiters := u.arbiters } := by
  unfold engineTurn at h
  split at h
  · cases h; rfl
  · dsimp only at h
    split at h
    · cases h; rfl
    · split at h
      · cases h; rfl
      · cases h

/-! ### A command of the queue -/

section Command

variable {s t : State} {p : Place} {k : Nat} {c : EngCmd}

/-- An event of entry `k` of the queue acts on the hart in focus and that entry. -/
theorem atCommand_of (hf : s.focus p = some t) (hc : t.hart.tl.queue[k]? = some c) (f : State → EngCmd → Outcome) :
    atCommand s p k f = f t c := by
  simp only [atCommand, hf, hc]

theorem startable_of (hr : c.running = false) (hs : c.start = none ∨ t.hart.cs.hstat.timed = false)
    (hm : mayStart t (t.hart.tl.queue.take k) c = true) : startable t k c = true := by
  rcases hs with hs | hs <;> simp [startable, hr, hs, hm]

/-! ### Starts (R173, R185) -/

theorem exec_engineCommandStart_turn {u : State} (hf : s.focus p = some t) (hc : t.hart.tl.queue[k]? = some c)
    (h : startable t k c = true) (hu : engineTurn t c = some u) :
    exec (.engineCommandStart p k) s = .next (beginCommand u k c) := by
  change execEngineCommandStart p k s = _
  rw [execEngineCommandStart, atCommand_of hf hc, if_pos h, hu]

theorem exec_engineCommandStart_noTurn (hf : s.focus p = some t) (hc : t.hart.tl.queue[k]? = some c)
    (h : startable t k c = true) (hu : engineTurn t c = none) : exec (.engineCommandStart p k) s = .next s := by
  change execEngineCommandStart p k s = _
  rw [execEngineCommandStart, atCommand_of hf hc, if_pos h, hu]

theorem chargeStart_state (s : State) (c : EngCmd) :
    (chargeStart s c).1 = { s with arbiters := (chargeStart s c).1.arbiters } := by
  unfold chargeStart
  split
  · exact chargeCycles_eq s c _
  · rfl

theorem chargeStart_command (s : State) (c : EngCmd) :
    (chargeStart s c).2 = { c with charged := (chargeStart s c).2.charged } := by
  unfold chargeStart
  split <;> rfl

/-- Staging a tile finds its room and changes neither the queue nor anything outside the hart. -/
theorem placeStaged_eq (s : State) (k : CmdKind) : placeStaged s k = { s with hart := { s.hart with
    tl := { s.hart.tl with outside := (placeStaged s k).hart.tl.outside } } } := by
  unfold placeStaged
  split <;> rfl

theorem openTile_queue (h : Hart) (k : CmdKind) : (openTile h k).tl.queue = h.tl.queue := by
  unfold openTile
  split
  · split <;> rfl
  · rfl

/-- A tile among those stamped bears the number. -/
theorem vget_stamps {tiles : List Nat} {tile : Nat} (hlt : tile < 16) (n : BitVec 16) (v : Vector (Option (BitVec 16)) 16)
    (h : tile ∈ tiles ∨ vget v tile none = some n) :
    vget (tiles.foldl (fun v x => vset v x (some n)) v) tile none = some n := by
  induction tiles generalizing v with
  | nil => exact h.resolve_left List.not_mem_nil
  | cons x rest ih =>
    refine ih _ ?_
    by_cases hx : tile = x
    · exact .inr (hx ▸ vget_vset_same _ _ _ _ hlt)
    · rw [vget_vset_other _ _ _ _ _ hx]
      exact h.imp_left fun hm => (List.mem_cons.1 hm).resolve_left hx

/-- A command that starts, as it stands in the queue from then on, and the state that its engine's charge leaves. -/
def started (s : State) (c : EngCmd) : State × EngCmd :=
  chargeStart s { c with state := .running s.clock, varying := variesInTime s c }

theorem started_command (s : State) (c : EngCmd) : (started s c).2 = { c with
    state := .running s.clock, varying := variesInTime s c, charged := (started s c).2.charged } :=
  chargeStart_command s _

theorem started_hart (s : State) (c : EngCmd) : (started s c).1.hart = s.hart := by
  rw [started, chargeStart_state]

/-- The hart as a command that starts has opened and stamped the tiles it writes. -/
def openedHart (u : State) (c : EngCmd) : Hart :=
  let h := openTile (placeStaged u c.kind).hart c.kind
  match c.seq with
  | some n => stampTiles h c.kind.tiles n
  | none => h

theorem openedHart_queue (u : State) (c : EngCmd) : (openedHart u c).tl.queue = u.hart.tl.queue := by
  unfold openedHart
  split
  · exact (openTile_queue _ _).trans (by rw [placeStaged_eq])
  · exact (openTile_queue _ _).trans (by rw [placeStaged_eq])

theorem openedHart_stamp (u : State) {n : BitVec 16} (hn : c.seq = some n) {tile : Nat} (ht : tile ∈ c.kind.tiles)
    (hlt : tile < 16) : vget (openedHart u c).tl.stamp tile none = some n := by
  rw [openedHart, hn]
  exact vget_stamps hlt n _ (.inl ht)

theorem finishProduct_engine (s : State) (h : c.kind.unit ≠ .array) : finishProduct s c = (s, c) := by
  unfold finishProduct
  split
  · next hk => exact absurd (congrArg CmdKind.unit hk) h
  · rfl

/-- A command of another engine than the array has no check at its start. -/
theorem beginCommand_engine (s : State) (k : Nat) (h : c.kind.unit ≠ .array) :
    (beginCommand s k c).hart = setCommand (openedHart (started s c).1 (started s c).2) k (started s c).2 := by
  have hkind : (started s c).2.kind.unit ≠ .array := by rw [started_command]; exact h
  unfold beginCommand
  split
  · next hm => exact absurd (congrArg CmdKind.unit hm) h
  · rw [started] at hkind ⊢
    dsimp only
    generalize chargeStart s _ = x at hkind ⊢
    obtain ⟨u, d⟩ := x
    dsimp only at hkind ⊢
    rw [finishProduct_engine _ hkind, ite_self]
    rfl

/-- A command of another engine than the array runs from its start's clock on and stamps the tiles it writes. -/
theorem beginCommand_runs (hk : k < s.hart.tl.queue.length) (h : c.kind.unit ≠ .array) :
    ((beginCommand s k c).hart.tl.queue[k]?).map (·.state) = some (.running s.clock) ∧
      ∀ tile ∈ c.kind.tiles, tile < 16 → ∀ n, c.seq = some n →
        vget (beginCommand s k c).hart.tl.stamp tile none = some n := by
  rw [beginCommand_engine s k h]
  constructor
  · change Option.map _ ((openedHart _ _).tl.queue.set k _)[k]? = _
    rw [openedHart_queue, started_hart, List.getElem?_set_self hk, started_command]
    rfl
  · intro tile ht hlt n hn
    rw [started_command]
    exact openedHart_stamp (c := { c with state := _, varying := _, charged := _ }) _ hn ht hlt

/-! ### Steps (R173, R189, R190, R231) -/

/-- A running command with steps left takes one, inside a region as `timedStep` says. -/
theorem exec_engineStep (hf : s.focus p = some t) (hc : t.hart.tl.queue[k]? = some c) (hr : c.running = true)
    (hp : c.progress < c.steps t.hart) (hl : t.hart.cs.hstat.timed = false ∨ columnMayBeLate t c = none) :
    exec (.engineStep p k) s = if t.hart.cs.hstat.timed then timedStep t k c else takeStep t k c := by
  change execEngineStep p k s = _
  rw [execEngineStep, atCommand_of hf hc, if_neg (by simp [hr, hp])]
  cases ht : t.hart.cs.hstat.timed with
  | false => rfl
  | true => rw [hl.resolve_left (by simp [ht])]; rfl

theorem timedStep_of_ne (h : commandStep t c ≠ .stop .wait) : timedStep t k c = takeStep t k c := by
  unfold timedStep
  split
  · contradiction
  · rfl

theorem exec_engineStep_takes (hf : s.focus p = some t) (hc : t.hart.tl.queue[k]? = some c) (hr : c.running = true)
    (hp : c.progress < c.steps t.hart) (hl : t.hart.cs.hstat.timed = false ∨ columnMayBeLate t c = none)
    (h : commandStep t c ≠ .stop .wait) : exec (.engineStep p k) s = takeStep t k c := by
  rw [exec_engineStep hf hc hr hp hl, timedStep_of_ne h, ite_self]

/-! ### Completion (R49, R80, R170, R171) -/

/-- A hart's control registers and engine queue are as before. -/
def SameControl (h g : Hart) : Prop := g.cs = h.cs ∧ g.tl.queue = h.tl.queue

theorem SameControl.refl (h : Hart) : SameControl h h := ⟨rfl, rfl⟩

theorem SameControl.trans {h g f : Hart} (hg : SameControl h g) (gf : SameControl g f) : SameControl h f :=
  ⟨gf.1.trans hg.1, gf.2.trans hg.2⟩

theorem SameControl.foldl {α : Type} {f : Hart → α → Hart} (hf : ∀ h x, SameControl h (f h x)) (l : List α) (h : Hart) :
    SameControl h (l.foldl f h) :=
  List.foldlRecOn (motive := SameControl h) l f (.refl h) fun g hg x _ => hg.trans (hf g x)

theorem sameControl_setPins (h : Hart) (n : Nat) (pins : List Pin) : SameControl h (setPins h n pins) := by
  unfold setPins
  split <;> exact ⟨rfl, rfl⟩

theorem sameControl_settleTilePoison (h : Hart) (n : Nat) (bad : Bool) : SameControl h (settleTilePoison h n bad) :=
  ⟨mendPoison_cs _ _ _, by rw [settleTilePoison, mendPoison_tl]⟩

theorem sameControl_zeroTail (h : Hart) (g v : Nat) : SameControl h (zeroTail h g v) := by
  unfold zeroTail
  refine SameControl.foldl (fun h i => ?_) _ h
  exact ⟨rfl, rfl⟩

/-- The end of a signature command: its group's tail is zeroed and its tiles' poison is settled. -/
theorem sameControl_group (h : Hart) (g v : Nat) (bad : Bool) :
    SameControl h ((groupTiles g).foldl (fun h n => settleTilePoison h n bad) (zeroTail h g v)) :=
  (sameControl_zeroTail h g v).trans (.foldl (fun h n => sameControl_settleTilePoison h n bad) _ _)

/-- Nothing but which lines are poisoned, and what the host is told of it, differs. -/
def OnlyPoison (s t : State) : Prop := t = { s with poison := t.poison, mended := t.mended, msix := t.msix }

theorem OnlyPoison.refl (s : State) : OnlyPoison s s := rfl

theorem OnlyPoison.trans {s t u : State} (hst : OnlyPoison s t) (htu : OnlyPoison t u) : OnlyPoison s u := by
  rw [OnlyPoison, htu, hst]

theorem OnlyPoison.foldl {α : Type} {f : State → α → State} (hf : ∀ s x, OnlyPoison s (f s x)) (l : List α) (s : State) :
    OnlyPoison s (l.foldl f s) :=
  List.foldlRecOn (motive := OnlyPoison s) l f (.refl s) fun t ht x _ => ht.trans (hf t x)

theorem onlyPoison_poisonLine (s : State) (line : Nat) : OnlyPoison s (poisonLine s line) := by
  unfold poisonLine State.raise
  split
  · exact .refl s
  · split <;> rfl

theorem onlyPoison_clearPoison (s : State) (line : Nat) (mask : BitVec 128) : OnlyPoison s (s.clearPoison line mask) := by
  unfold State.clearPoison
  split <;> rfl

theorem onlyPoison_taintLines (s : State) (bits : List Int) : OnlyPoison s (taintLines s bits) := by
  refine .foldl (fun s b => ?_) bits s
  split
  · exact .refl s
  · split
    · exact onlyPoison_poisonLine s _
    · exact .refl s

theorem onlyPoison_clearCovered (s : State) (bits : List Int) (w : Nat) : OnlyPoison s (clearCovered s bits w) := by
  unfold clearCovered
  split
  · exact .refl s
  · exact .foldl (fun s line => onlyPoison_clearPoison s line _) _ s

theorem onlyPoison_settleLines (s : State) (bits : List Int) (w : Nat) (bad : Bool) :
    OnlyPoison s (settleLines s bits w bad) := by
  unfold settleLines
  split
  · exact onlyPoison_taintLines s bits
  · exact onlyPoison_clearCovered s bits w

theorem onlyPoison_settleAll (s : State) (dst : Tsr) (bad : Bool) : OnlyPoison s (settleAll s dst bad) := by
  unfold settleAll
  split
  · exact .refl s
  · exact onlyPoison_settleLines s _ _ bad

/-- The clock, and the control registers and the queue of the hart in focus, are as before. -/
def SameCommand (s t : State) : Prop := SameControl s.hart t.hart ∧ t.clock = s.clock

theorem SameCommand.refl (s : State) : SameCommand s s := ⟨.refl _, rfl⟩

theorem SameCommand.trans {s t u : State} (hst : SameCommand s t) (htu : SameCommand t u) : SameCommand s u :=
  ⟨hst.1.trans htu.1, htu.2.trans hst.2⟩

theorem OnlyPoison.sameCommand (h : OnlyPoison s t) : SameCommand s t ∧ SameMemory s t := by
  rw [h]
  exact ⟨⟨.refl _, rfl⟩, rfl, rfl, rfl⟩

theorem sameCommand_mapHart (s : State) {f : Hart → Hart} (h : SameControl s.hart (f s.hart)) :
    SameCommand s (s.mapHart f) ∧ SameMemory s (s.mapHart f) := ⟨⟨h, rfl⟩, rfl, rfl, rfl⟩

theorem sameCommand_markAccessed (s : State) (a : Option Nat) : SameCommand s (markAccessed s a) := by
  cases a <;> exact ⟨.refl _, rfl⟩

theorem sameCommand_noteWalk (s : State) (x : Trap) : SameCommand s (noteWalk s x) := by
  unfold noteWalk
  split
  · exact (sameCommand_markAccessed s x.mark).trans ⟨.refl _, rfl⟩
  · exact sameCommand_markAccessed s x.mark

theorem sameCommand_markAccess (s : State) (l : Located) (a : AccessKind) (m : MarkKind) :
    SameCommand s (markAccess s l a m) := by
  unfold markAccess
  split
  · exact ⟨.refl _, rfl⟩
  · cases m <;> exact ⟨.refl _, rfl⟩

theorem sameCommand_barMoves (s : State) (lines : List (Nat × Nat)) : SameCommand s (s.barMoves lines) := by
  rw [barMoves_eq]
  exact ⟨.refl _, rfl⟩

/-- A line pinned marks its page's entry, or reports a malformed one. -/
theorem sameCommand_pinLine (acc : List Pin × State) (va : Nat) : SameCommand acc.2 (pinLine acc va).2 := by
  unfold pinLine
  split
  · exact (sameCommand_barMoves acc.2 _).trans (sameCommand_markAccess _ _ _ _)
  · exact sameCommand_noteWalk acc.2 _
  · exact ⟨.refl _, rfl⟩

theorem sameCommand_pinTile (s : State) (n : Nat) (x : Tsr) : SameCommand s (pinTile s n x).2 := by
  unfold pinTile
  dsimp only
  split
  · exact List.foldlRecOn (motive := fun acc => SameCommand s acc.2) (pinAddrs x) pinLine (b := ([], s)) (.refl s)
      fun acc h va _ => h.trans (sameCommand_pinLine acc va)
  · exact ⟨.refl _, rfl⟩

/-- Any command but TLD changes at its end no memory, and none changes the clock, the control registers or the queue. -/
theorem completionEffect_same (s : State) (c : EngCmd) : SameCommand s (completionEffect s c) ∧
    ((∀ x, c.kind ≠ .tld x) → SameMemory s (completionEffect s c)) := by
  unfold completionEffect
  split
  case h_1 => exact (sameCommand_mapHart s ((sameControl_setPins _ _ _).trans (sameControl_setPins _ _ _))).imp_right fun h _ => h
  case h_2 x hk =>
    refine ⟨?_, fun h => absurd hk (h x)⟩
    split
    · exact (sameCommand_pinTile s x _).trans (sameCommand_mapHart _ (sameControl_setPins _ _ _)).1
    · exact ⟨.refl _, rfl⟩
  case h_3 => exact (onlyPoison_settleAll s _ _).sameCommand.imp_right fun h _ => h
  case h_4 => exact (onlyPoison_settleAll s _ _).sameCommand.imp_right fun h _ => h
  case h_5 => exact (onlyPoison_settleLines s _ _ _).sameCommand.imp_right fun h _ => h
  case h_6 => exact (sameCommand_mapHart s (sameControl_settleTilePoison _ _ _)).imp_right fun h _ => h
  all_goals exact (sameCommand_mapHart s (sameControl_group _ _ _ _)).imp_right fun h _ => h

theorem chargeCommand_same (s : State) (c : EngCmd) :
    SameCommand s (s.chargeCommand c) ∧ SameMemory s (s.chargeCommand c) := by
  rw [chargeCommand_eq]
  exact ⟨.refl _, rfl, rfl, rfl⟩

theorem sameMemory_trans {s t u : State} (hst : SameMemory s t) (htu : SameMemory t u) : SameMemory s u := by
  obtain ⟨hm, h1, h2⟩ := hst
  obtain ⟨hm', h1', h2'⟩ := htu
  exact ⟨hm'.trans hm, h1'.trans h1, h2'.trans h2⟩

theorem mergeEngine_cs (now : Nat) (h : Hart) (f : Flags) :
    (mergeEngine now h f).cs = { h.cs with vflags := h.cs.vflags ||| arriving h.cs now f } := rfl

theorem exec_engineCommandComplete (hf : s.focus p = some t) (hc : t.hart.tl.queue[k]? = some c) (hr : c.running = true)
    (hp : c.steps t.hart ≤ c.progress) (hd : completionDue t c = true) (hh : commandHeld t c = false) :
    exec (.engineCommandComplete p k) s = .next (completeCommand (t.chargeCommand c) k c) := by
  change execEngineCommandComplete p k s = _
  rw [execEngineCommandComplete, atCommand_of hf hc, if_pos (by simp [hr, hp, hd, hh])]

/-- A completion frees the entry and merges the command's flags but for those that a write of this cycle clears (R49). -/
theorem completeCommand_takes (t : State) (k : Nat) (c : EngCmd) :
    let w := completeCommand (t.chargeCommand c) k c
    w.hart.tl.queue = t.hart.tl.queue.eraseIdx k ∧
      w.hart.cs = { t.hart.cs with vflags := t.hart.cs.vflags |||
        (if t.hart.cs.clearedAt = t.clock then c.flags &&& ~~~t.hart.cs.cleared else c.flags) } ∧
      ((∀ x, c.kind ≠ .tld x) → SameMemory t w) := by
  obtain ⟨hcharge, hcharged⟩ := chargeCommand_same t c
  have heffect := completionEffect_same (t.chargeCommand c) c
  rw [completeCommand]
  generalize completionEffect (t.chargeCommand c) c = e at heffect
  obtain ⟨heffect, hmem⟩ := heffect
  obtain ⟨⟨hcs, hqueue⟩, -⟩ := hcharge.trans heffect
  refine ⟨congrArg (·.eraseIdx k) hqueue, ?_, fun h => sameMemory_trans hcharged (hmem h)⟩
  have hdrop : (dropCommand e.hart k).cs = t.hart.cs := hcs
  rw [mapHart_hart, mergeEngine_cs, hdrop, hcharge.2, arriving]

/-! ### Starts at a cycle (R189, R190) -/

theorem exec_timedCommandStart {r : Region} {start : Nat} (hf : s.focus p = some t) (hc : t.hart.tl.queue[k]? = some c)
    (hreg : t.hart.tl.region = some r) (hs : c.start = some start) (hr : c.running = false) (hdue : r.start + start ≤ t.clock) :
    (timedChecks t k c = none → exec (.timedCommandStart p k) s = .next (beginCommand t k c)) ∧
      ∀ x, timedChecks t k c = some x →
        exec (.timedCommandStart p k) s = .next (takeTrap t x .vector false (some c.qpos)) := by
  change (_ → execTimedCommandStart p k s = _) ∧ ∀ x, _ → execTimedCommandStart p k s = _
  rw [execTimedCommandStart, atCommand_of hf hc, hreg, hs]
  dsimp only
  rw [if_pos (by simp [hr, hdue])]
  exact ⟨fun h => by rw [h], fun x h => by rw [h]⟩

end Command

/-! ### Regions (R187, R188) -/

section Region

variable {s t : State} {p : Place}

theorem atPlace_of (hf : s.focus p = some t) (f : State → State) : s.atPlace p f = f t := by
  simp only [State.atPlace, hf]

/-- Which hart is in focus changes no context. -/
theorem focus_contexts (hf : s.focus p = some t) : t.contexts = s.contexts := by
  unfold State.focus State.focusBy at hf
  split at hf
  · cases hf; rfl
  · split at hf
    · cases hf; rfl
    · cases hf

theorem fnOf_congr (h : t.contexts = s.contexts) (asid : Nat) : t.fnOf asid = s.fnOf asid := by
  simp only [State.fnOf, State.ctx?, h]

/-- The PF's quota is unlimited (R206): nothing is taken from it, and it is never used up. -/
theorem credit_pf {asid : Nat} (h : s.fnOf asid = some none) (n : Int) : s.credit asid n = s := by
  simp only [State.credit, h]

theorem quotaCheckFor_pf {asid : Nat} (h : s.fnOf asid = some none) : s.quotaCheckFor asid = s := by
  simp only [State.quotaCheckFor, h]

/-- The state in which the TBEGIN of a request that is granted retires, with the cycles it waited in its register. -/
def granted (t : State) (r : RegionReq) : State :=
  { setRequest t none with issue := { side := .vector, p := r.p, s := r.s } }.mapHart
    (fun h => hWrite h r.d.toNat (word (t.clock - r.since)))

/-- The hart in the region of a request. -/
def inRegion (t : State) (r : RegionReq) (h : Hart) : Hart := { h with
  cs := { h.cs with hstat := { h.cs.hstat with timed := true } },
  tl := { h.tl with region := some { start := t.clock + 1, len := r.len, energy := r.energy, peak := r.peak,
                                     alc := activeLanes t t.hart } } }

/-- A region of the PF opens as its TBEGIN retires. -/
theorem openRegion_pf (h : t.fnOf t.hart.asid = some none) (r : RegionReq) :
    openRegion t r = (retire (granted t r)).mapHart (inRegion t r) := by
  have hcredit : (setRequest t none).credit t.hart.asid (-(r.energy : Int)) = setRequest t none :=
    credit_pf (s := setRequest t none) h _
  have hfn : ((retire (granted t r)).mapHart (inRegion t r)).fnOf t.hart.asid = some none := by
    rw [← h]
    exact fnOf_congr (by rw [mapHart_contexts, retire_contexts]; rfl) _
  have hasid : ((retire (granted t r)).mapHart (inRegion t r)).hart.asid = t.hart.asid := by
    change (retire (granted t r)).hart.asid = _
    rw [retire, retireTo_vector _ _ rfl]
    exact hWrite_asid _ _ _
  refine Eq.trans ?_ (quotaCheckFor_pf (hasid ▸ hfn))
  have hclock : (retire (granted t r)).clock = t.clock := retire_clock _
  rw [openRegion, hcredit]
  change State.quotaCheckFor ((retire (granted t r)).mapHart (fun h => { h with
    cs := { h.cs with hstat := { h.cs.hstat with timed := true } },
    tl := { h.tl with region := some { start := (retire (granted t r)).clock + 1, len := r.len, energy := r.energy,
                                       peak := r.peak, alc := activeLanes t t.hart } } })) _ = _
  rw [hclock]
  rfl

theorem exec_regionGrant {r : RegionReq} (hf : s.focus p = some t) (hr : t.hart.tl.request = some r)
    (hg : grantable t r = true) (hi : mayIssue t.hart .vector = true) (hq : t.hart.tl.faults = []) :
    exec (.regionGrant p) s = .next (openRegion t r) := by
  change execRegionGrant p s = _
  rw [execRegionGrant, atPlace_of hf, hr]
  dsimp only
  rw [if_pos (by simp [hg, hi, hq])]

theorem retire_granted (t : State) (r : RegionReq) : (retire (granted t r)).hart.tl.request = none ∧
    (retire (granted t r)).hart.cs.hstat = t.hart.cs.hstat ∧ (retire (granted t r)).hart.ve.pc = t.hart.ve.pc + 4 ∧
    (retire (granted t r)).hart.ve.h = (granted t r).hart.ve.h := by
  have hpc : pcOf (granted t r) = t.hart.ve.pc := hWrite_pc _ _ _
  have htl : (granted t r).hart.tl = { t.hart.tl with request := none } := hWrite_tl _ _ _
  have hcs : (granted t r).hart.cs = t.hart.cs := hWrite_cs _ _ _
  rw [retire, retireTo_vector _ _ rfl, hpc]
  exact ⟨congrArg (·.request) htl, congrArg (·.hstat) hcs, rfl, rfl⟩

/-- The register of a granted TBEGIN holds the cycles it waited. -/
theorem hRead_granted (t : State) {r : RegionReq} (hd : r.d.toNat < 16) :
    hRead (granted t r).hart r.d.toNat = BitVec.ofNat 64 (t.clock - r.since) := by
  refine (hRead_hWrite _ _ _ _ hd).trans ?_
  rw [if_pos rfl, word]

theorem exec_regionOverrun {r : Region} (hf : s.focus p = some t) (hr : t.hart.tl.region = some r)
    (h : r.start + r.len ≤ t.clock) :
    exec (.regionOverrun p) s = .next (takeTrap t (timing 0 r.len 0xFFFFFFFF) .vector) := by
  change execRegionOverrun p s = _
  rw [execRegionOverrun, atPlace_of hf, hr]
  dsimp only
  have hlen : r.len ≤ regionCycle t r := Nat.le_sub_of_add_le (by omega)
  rw [if_pos hlen]

end Region

/-! ### Streams (R121, R122) -/

section Stream

variable {s t : State} {p : Place} {x : StreamReg} {q n : Nat}

theorem exec_streamRunAhead (hf : s.focus p = some t) (hx : vget t.hart.q q none = some x) (ahead : Nat) :
    exec (.streamRunAhead p q ahead) s =
      .next (runAhead t q (if x.tsr.wrap then (x.pos + ahead) % x.tsr.count else x.pos + ahead) x) := by
  change execStreamRunAhead p q ahead s = _
  rw [execStreamRunAhead, atPlace_of hf, hx]

/-- A stream that may not run ahead, or holds four translations, walks for no page. -/
theorem runAhead_full (h : x.tsr.noahead = true ∨ 4 ≤ x.ahead.length) : runAhead t q n x = t := by
  unfold runAhead
  dsimp only
  rw [if_pos]
  rcases h with h | h <;> simp [h, aheadSize]

/-- A stream with room walks for the page of a position that it has not passed. -/
theorem runAhead_room (hno : x.tsr.noahead = false) (hpos : x.tsr.wrap = false → x.pos ≤ n) (hn : n < x.tsr.count)
    (h0 : 0 ≤ x.tsr.bitAddr n) (hlt : x.tsr.bitAddr n < 2 ^ 59) (hroom : x.ahead.length < 4) :
    (∀ e, walkedEntry t t.hart.place.core t.hart.asid (x.tsr.bitAddr n / 8).toNat = some e → runAhead t q n x =
      (markAccessed t (some e.at_)).mapHart (fun h => { h with
        q := vset h.q q (some { x with ahead := x.ahead ++ [⟨n, e⟩] }) })) ∧
    (walkedEntry t t.hart.place.core t.hart.asid (x.tsr.bitAddr n / 8).toNat = none → runAhead t q n x = t) := by
  have hpassed : ¬ (n < x.pos ∧ (!x.tsr.wrap) = true) := fun ⟨hlt, hw⟩ => by
    have := hpos (by simpa using hw)
    omega
  unfold runAhead
  dsimp only
  rw [hno, decide_eq_false hpassed, decide_eq_false (not_le.2 hn), decide_eq_false (not_lt.2 h0), decide_eq_false (not_le.2 hlt),
    decide_eq_false (show ¬ aheadSize ≤ x.ahead.length from not_le.2 hroom), if_neg (by decide)]
  exact ⟨fun e he => by rw [he], fun he => by rw [he]⟩

end Stream

/-! ### Query contexts (R256, R260, R261, R265, R266) -/

section Walk

variable {s : State} {core n : Nat} {x : QueryCtx} {h : Hart}

/-- The hart whose walk a query context holds, which is resident, or Halted amid a step. -/
def walksFor (x : QueryCtx) (h : Hart) : Bool := h.uid == x.uid && (h.resident || (h.halted && !x.fetched.isEmpty))

theorem stepTarget_of_queryAt (hx : queryAt s core n = some x) : stepTarget s core n = some x := by
  rw [stepTarget, hx, Option.some_or]

theorem exec_walkStep {w : State} (hx : queryAt s core n = some x) (hrun : x.state = .running)
    (hh : s.harts.find? (walksFor x) = some h) (hrec : x.reclaimed = false) (hw : stepWalk s h x = .ok w) :
    exec (.walkStep core n) s = .next w := by
  change execWalkStep core n s = _
  rw [execWalkStep, stepTarget_of_queryAt hx]
  dsimp only
  delta walksFor at hh
  rw [hh, hrun]
  simp only [hrec, hw, Bool.false_eq_true, if_false]

/-- A walk whose owner is not resident stands still at the end of a step. -/
theorem exec_walkStep_paused (hx : queryAt s core n = some x) (hfetched : x.fetched = [])
    (hgone : ∀ h ∈ s.harts, h.uid = x.uid → h.resident = false) : exec (.walkStep core n) s = .next s := by
  have hnone : s.harts.find? (walksFor x) = none := by
    refine List.find?_eq_none.2 fun h hh hw => ?_
    obtain ⟨huid, hres⟩ : h.uid = x.uid ∧ h.resident = true := by simpa [walksFor, hfetched] using hw
    exact absurd hres (by simp [hgone h hh huid])
  change execWalkStep core n s = _
  rw [execWalkStep, stepTarget_of_queryAt hx]
  dsimp only
  delta walksFor at hnone
  rw [hnone]

/-- A walk whose context was reclaimed starts again once its owner is resident. -/
theorem exec_walkStep_restarts (hx : stepTarget s core n = some x) (hrun : x.state = .running) (hrec : x.reclaimed = true)
    (hres : s.harts.any (fun h => h.uid == x.uid && h.resident) = true) :
    exec (.walkStep core n) s = .next
      (setQuery s core { x.fresh with reclaimed := false, restarts := min 255 (x.restarts + 1) }) := by
  obtain ⟨g, hg, hown⟩ := List.any_eq_true.1 hres
  simp only [Bool.and_eq_true] at hown
  have hwalks : walksFor x g = true := by simp [walksFor, hown]
  obtain ⟨h, hh⟩ := Option.isSome_iff_exists.1 (List.find?_isSome.2 ⟨g, hg, hwalks⟩)
  change execWalkStep core n s = _
  rw [execWalkStep, hx]
  dsimp only
  delta walksFor at hh
  rw [hh, hrun]
  simp only [hrec, if_true]

/-- The place of a walk that has stopped at the end of a step, and whose owner is Halted, can be given up. -/
theorem exec_queryContextReclaim (hx : queryAt s core n = some x) (hrun : x.state = .running) (hfetched : x.fetched = [])
    (hhalted : s.harts.any (fun h => h.uid == x.uid && h.halted) = true) :
    exec (.queryContextReclaim core n) s = .next (setQuery s core { x with reclaimed := true }) := by
  change execQueryContextReclaim core n s = _
  rw [execQueryContextReclaim, hx]
  dsimp only
  rw [if_pos (by simp only [hrun, hfetched, hhalted]; rfl)]

/-- A neighbour that the walk has visited is dropped. -/
theorem walkMove_visited {v : Nat} {k : WalkKey} {rest : List (Nat × WalkKey)} (hb : x.begun = true)
    (hp : x.pending = (v, k) :: rest) (hv : v ∈ x.visited) : walkMove x = .goOn { x with pending := rest } := by
  simp [walkMove, hb, hp, hv]

/-- A walk with nothing left to expand ends. -/
theorem walkMove_done (hb : x.begun = true) (hp : x.pending = []) (hc : x.cand = []) :
    walkMove x = .ended x (if x.best.length < x.desc.k then .partial_ else .complete) 0 := by
  simp [walkMove, hb, hp, expandNext, hc, lowestKey, finalStatus]

end Walk

/-! ### The statements -/

theorem commandEvents : commandEventsTakeEffect := by
  intro s t p hf
  refine ⟨fun k c hc => ?_, fun r hr hg hi hq hfn => ?_, fun r hr h => exec_regionOverrun hf hr h, fun q x ahead hx => ?_⟩
  · intro begun
    have hbegun (u : State) (hu : u = { t with arbiters := u.arbiters }) : begun u (beginCommand u k c) := by
      have hlt : k < u.hart.tl.queue.length := by rw [hu]; exact (List.getElem?_eq_some_iff.1 hc).1
      have hclock : u.clock = t.clock := by rw [hu]
      exact ⟨rfl, fun h => hclock ▸ beginCommand_runs hlt h⟩
    refine ⟨fun hr hs hm => ⟨fun u hu => ?_, exec_engineCommandStart_noTurn hf hc (startable_of hr hs hm)⟩,
      fun hr hp hl => ⟨fun w d hd => ?_, fun w d x hd => ?_, fun ht hd => ?_⟩,
      fun hr hp hd hh => ⟨_, exec_engineCommandComplete hf hc hr hp hd hh, completeCommand_takes t k c⟩,
      fun r start hreg hs hr hdue => ?_⟩
    · exact ⟨engineTurn_eq hu, _, exec_engineCommandStart_turn hf hc (startable_of hr hs hm) hu, hbegun u (engineTurn_eq hu)⟩
    · rw [exec_engineStep_takes hf hc hr hp hl (by rw [hd]; nofun), takeStep, hd]
    · rw [exec_engineStep_takes hf hc hr hp hl (by rw [hd]; nofun), takeStep, hd]
    · rw [exec_engineStep hf hc hr hp hl, if_pos ht, timedStep, hd]
      exact (apply_ite Host.Outcome.next _ _ _).symm
    · obtain ⟨hgo, hstop⟩ := exec_timedCommandStart hf hc hreg hs hr hdue
      exact ⟨fun h => ⟨_, hgo h, hbegun t rfl⟩, hstop⟩
  · have hpf : t.fnOf t.hart.asid = some none := (fnOf_congr (focus_contexts hf) _).trans hfn
    obtain ⟨hreq, hstat, hpc, hh⟩ := retire_granted t r
    refine ⟨_, exec_regionGrant hf hr hg hi hq, ?_⟩
    rw [openRegion_pf hpf]
    refine ⟨rfl, hreq, congrArg (fun x => { x with timed := true }) hstat, hpc, fun hd => ?_, sameMemory_retire (granted t r)⟩
    rw [← hRead_granted t hd]
    exact congrArg (vget · r.d.toNat 0) hh
  · intro n va
    rw [exec_streamRunAhead hf hx]
    have hpos (hw : x.tsr.wrap = false) : x.pos ≤ n := by simp [n, hw]
    refine ⟨fun hno hn h0 hlt hroom => ?_, fun h => congrArg _ (runAhead_full h)⟩
    obtain ⟨hwalk, hnone⟩ := runAhead_room (t := t) (q := q) hno hpos hn h0 hlt hroom
    exact ⟨fun e he => congrArg _ (hwalk e he), fun he => congrArg _ (hnone he)⟩

theorem walkEvents : walkEventsTakeEffect := by
  intro s core n x hx hrun
  refine ⟨fun h hh hrec => ?_, fun hfetched hhalted =>
    ⟨exec_queryContextReclaim hx hrun hfetched hhalted, exec_walkStep_paused hx hfetched⟩, fun y hy hrun hrec hres => ?_⟩
  · have hstep {w : State} (hw : stepWalk s h x = .ok w) := exec_walkStep hx hrun hh hrec hw
    refine ⟨fun y hm => hstep ?_, fun y st fa w hm hw => hstep ?_,
      fun y va k hm => ⟨fun v w hv => hstep ?_, fun tr w hv hw => hstep ?_⟩,
      fun hb v k rest hp hv => hstep ?_, fun hb hp hc w hw => hstep ?_⟩
    · rw [stepWalk, hm]
    · rw [stepWalk, hm]
      exact hw
    · simp only [stepWalk, hm, hv]
    · simp only [stepWalk, hm, hv]
      exact hw
    · rw [stepWalk, walkMove_visited hb hp hv]
    · rw [stepWalk, walkMove_done hb hp hc]
      exact hw
  · rw [exec_walkStep_restarts hy hrun hrec hres, QueryCtx.fresh, hrun]

/-- Settles O51: each event by the equation of its arm, and what a start, a completion and a grant leave by the fields that
their parts leave alone. -/
theorem engineEventsTakeEffect : Obligations.EngineEventsTakeEffect := ⟨commandEvents, walkEvents⟩

end Sys2Proof.Machine
end

section
/-!
LAW. The words of INT, INT2, INTI, LIS and SHIM: one scalar-side word of fixed latency writes one register, and what each
computes is the formula of its row (R61, R64 to R66). Settles O6.
-/

namespace Sys2Proof.Machine

/-! ### A scalar-side word of fixed latency -/

theorem applyWrite_whole_g (h : Hart) (n v : Nat) :
    applyWrite h (RegWrite.whole (.g n) v) = gWrite h n (BitVec.ofNat 64 v) := by
  unfold applyWrite RegWrite.whole mergeBits
  dsimp only
  congr 1
  have hones : BitVec.ofNat 64 (2 ^ 64 - 1) = BitVec.allOnes 64 := rfl
  rw [BitVec.ofNat_xor, BitVec.ofNat_and, BitVec.ofNat_xor, hones, BitVec.and_allOnes, ← BitVec.xor_assoc, BitVec.xor_self,
    BitVec.zero_xor]

/-- A scalar register reads the same once the WAIT record of the level is discarded. -/
theorem gRead_discardWait (s : State) (r : Nat) : gRead (discardWait s).hart r = gRead s.hart r := by
  cases h : s.issue.side with
  | scalar => rw [discardWait_scalar h]; rfl
  | vector => rw [discardWait_vector s h]

/-- A scalar-side word of fixed latency completes with its result in g[d]. -/
theorem scalarOp_gives {s : State} (h : Issuing s .scalar) (rs : List (BitVec 5)) (d : BitVec 5) (lat : Nat)
    (f : Hart → Word) :
    ∃ t, scalarOp s rs d lat f = .next t ∧ ScalarResult s t d (f (discardWait s).hart) := by
  refine ⟨gave (discardWait s) d (f (discardWait s).hart), ?_, scalarResult_gave h.side d _⟩
  unfold scalarOp
  rw [runFixed_of h rfl rfl rfl rfl rfl h.discard.untimed]
  simp only [written, if_true, applyWrites, List.foldl_cons, List.foldl_nil, applyWrite_whole_g, BitVec.ofNat_toNat,
    BitVec.setWidth_eq, gave]

theorem binaryOp_gives {s : State} (h : Issuing s .scalar) (d a b : BitVec 5) (lat : Nat) (f : Word → Word → Word) :
    ∃ t, binaryOp s d a b lat f = .next t ∧ ScalarResult s t d (f (gRead s.hart a.toNat) (gRead s.hart b.toNat)) := by
  have hop := scalarOp_gives h [a, b] d lat (fun h => f (gRead h a.toNat) (gRead h b.toNat))
  rwa [gRead_discardWait, gRead_discardWait] at hop

theorem unaryOp_gives {s : State} (h : Issuing s .scalar) (d a : BitVec 5) (lat : Nat) (f : Word → Word) :
    ∃ t, unaryOp s d a lat f = .next t ∧ ScalarResult s t d (f (gRead s.hart a.toNat)) := by
  have hop := scalarOp_gives h [a] d lat (fun h => f (gRead h a.toNat))
  rwa [gRead_discardWait] at hop

/-! ### The formulas of R64 and R65 -/

theorem mulHigh_eq (x y : Word) : mulHigh x y = ((x.signExtend 128 * y.signExtend 128) >>> 64).setWidth 64 := by
  have hmul : x.signExtend 128 * y.signExtend 128 = BitVec.ofInt 128 (x.toInt * y.toInt) := (BitVec.ofInt_mul _ _).symm
  rw [hmul, mulHigh]
  apply BitVec.eq_of_toNat_eq
  rw [BitVec.toNat_ofInt, BitVec.toNat_setWidth, BitVec.toNat_ushiftRight, BitVec.toNat_ofInt, Nat.shiftRight_eq_div_pow]
  omega

theorem mulHighN_eq (x y : Word) : mulHighN x y = ((x.setWidth 128 * y.setWidth 128) >>> 64).setWidth 64 := by
  have hlt : x.toNat * y.toNat < 2 ^ 128 := (Nat.mul_lt_mul'' x.isLt y.isLt).trans_eq (by norm_num)
  apply BitVec.eq_of_toNat_eq
  simp only [mulHighN, BitVec.toNat_ofNat, BitVec.toNat_setWidth, BitVec.toNat_ushiftRight, BitVec.toNat_mul,
    Nat.shiftRight_eq_div_pow]
  rw [Nat.mod_eq_of_lt (x.isLt.trans (by decide)), Nat.mod_eq_of_lt (y.isLt.trans (by decide)),
    Nat.mod_eq_of_lt (a := x.toNat * y.toNat) hlt]

theorem divSigned_eq (x y : Word) : divSigned x y = if y = 0 then BitVec.allOnes 64 else x.sdiv y := by
  have hq : BitVec.ofInt 64 (x.toInt.tdiv y.toInt) = x.sdiv y :=
    BitVec.eq_of_toInt_eq (by rw [BitVec.toInt_ofInt, BitVec.toInt_sdiv])
  rw [divSigned, hq, ones64]

theorem divUnsigned_eq (x y : Word) : divUnsigned x y = if y = 0 then BitVec.allOnes 64 else x / y := by
  have hq : BitVec.ofNat 64 (x.toNat / y.toNat) = x / y := by
    rw [← BitVec.toNat_udiv, BitVec.ofNat_toNat, BitVec.setWidth_eq]
  rw [divUnsigned, hq, ones64]

theorem remSigned_eq (x y : Word) : remSigned x y = if y = 0 then x else x.srem y := by
  rw [remSigned, ← BitVec.toInt_srem, BitVec.ofInt_toInt]

theorem remUnsigned_eq (x y : Word) : remUnsigned x y = if y = 0 then x else x % y := by
  have hr : BitVec.ofNat 64 (x.toNat % y.toNat) = x % y := by
    rw [← BitVec.toNat_umod, BitVec.ofNat_toNat, BitVec.setWidth_eq]
  rw [remUnsigned, hr]

theorem toNat_setWidth_six (y : Word) : (y.setWidth 6).toNat = shiftOf y := BitVec.toNat_setWidth ..

theorem ofBool_slt (x y : Word) : ofBool (x.slt y) = if x.toInt < y.toInt then 1 else 0 := by
  simp [ofBool, BitVec.slt_eq_decide]

theorem ofBool_ult (x y : Word) : ofBool (x.ult y) = if x < y then 1 else 0 := by
  simp [ofBool, BitVec.ult_eq_decide, BitVec.lt_def]

/-- MIN and MAX choose by a strict comparison, and where the values are equal either choice is one value. -/
theorem minSigned_eq (x y : Word) : (if x.slt y then x else y) = if x.toInt ≤ y.toInt then x else y := by
  by_cases h : x.toInt = y.toInt
  · rw [BitVec.eq_of_toInt_eq h, ite_self, ite_self]
  · simp [BitVec.slt_eq_decide, Int.lt_iff_le_and_ne, h]

theorem maxSigned_eq (x y : Word) : (if x.slt y then y else x) = if x.toInt ≤ y.toInt then y else x := by
  by_cases h : x.toInt = y.toInt
  · rw [BitVec.eq_of_toInt_eq h, ite_self, ite_self]
  · simp [BitVec.slt_eq_decide, Int.lt_iff_le_and_ne, h]

theorem minUnsigned_eq (x y : Word) : (if x.ult y then x else y) = if x ≤ y then x else y := by
  by_cases h : x = y
  · rw [h, ite_self, ite_self]
  · simp [BitVec.ult_eq_decide, BitVec.le_def, Nat.lt_iff_le_and_ne, BitVec.toNat_inj, h]

theorem maxUnsigned_eq (x y : Word) : (if x.ult y then y else x) = if x ≤ y then y else x := by
  by_cases h : x = y
  · rw [h, ite_self, ite_self]
  · simp [BitVec.ult_eq_decide, BitVec.le_def, Nat.lt_iff_le_and_ne, BitVec.toNat_inj, h]

/-! ### Leading and trailing zeros, and ones -/

/-- A test that the numbers below `k` pass and `k` does not takes the first `k`. -/
theorem length_takeWhile_range {p : Nat → Bool} {n k : Nat} (hk : k < n) (hlow : ∀ i < k, p i = true) (hp : p k = false) :
    ((List.range n).takeWhile p).length = k := by
  obtain ⟨j, rfl⟩ := Nat.exists_eq_add_of_lt hk
  have hrange : List.range (k + j + 1) = List.range k ++ k :: (List.range j).map (k + 1 + ·) := by
    rw [Nat.add_right_comm, List.range_add, List.range_succ, List.append_assoc, List.singleton_append]
  rw [hrange, List.takeWhile_append_of_pos (fun i hi => hlow i (List.mem_range.1 hi)),
    List.takeWhile_cons_of_neg (by simp [hp]), List.append_nil, List.length_range]

theorem trailingZeros_eq_length (w x : Nat) :
    trailingZeros w x = ((List.range w).takeWhile (fun i => !x.testBit i)).length := by
  induction w generalizing x with
  | zero => rfl
  | succ w ih =>
    have hs : (fun i => !x.testBit i) ∘ Nat.succ = fun i => !(x / 2).testBit i :=
      funext fun i => congrArg (!·) (Nat.testBit_succ x i)
    rw [trailingZeros, List.range_succ_eq_map, List.takeWhile_cons, Nat.testBit_zero, List.takeWhile_map, hs]
    by_cases h : x % 2 = 1
    · simp [h]
    · simp [h, ih, Nat.add_comm]

theorem leadingZeros_eq_length (x : Word) :
    leadingZeros 64 x.toNat = ((List.range 64).takeWhile (fun i => !x.getMsbD i)).length := by
  unfold leadingZeros
  by_cases h0 : x.toNat = 0
  · have hz : x = 0 := BitVec.eq_of_toNat_eq h0
    simp [hz, List.takeWhile_eq_self_iff.2]
  · have hlog : x.toNat.log2 < 64 := (Nat.log2_lt h0).2 x.isLt
    rw [if_neg (by simpa using h0)]
    refine (length_takeWhile_range (by omega) (fun i hi => ?_) ?_).symm
    · have hbig : x.toNat < 2 ^ (63 - i) := (Nat.log2_lt h0).1 (by omega)
      simp [BitVec.getMsbD, BitVec.getLsbD, Nat.testBit_lt_two_pow hbig]
    · have hi : 63 - (64 - 1 - x.toNat.log2) = x.toNat.log2 := by omega
      simp [BitVec.getMsbD, BitVec.getLsbD, hi, Nat.testBit_log2 h0]
      omega

/-! ### The rows of the tables -/

/-- SEL has a third source, the old g[d]. -/
theorem execSel_eq (s : State) (d a b : BitVec 5) : execSel d a b s =
    scalarOp s [a, b, d] d 1 (fun h => if gRead h d.toNat ≠ 0 then gRead h a.toNat else gRead h b.toNat) := by
  simp only [execSel, bne_iff_ne]

theorem scalarArithmetic_writes : scalarArithmeticWritesItsResult := by
  intro s d a b h
  have hsel := scalarOp_gives h [a, b, d] d 1
    (fun h => if gRead h d.toNat ≠ 0 then gRead h a.toNat else gRead h b.toNat)
  simp only [gRead_discardWait, ← execSel_eq] at hsel
  have hbin := fun lat f => binaryOp_gives h d a b lat f
  have hun := fun f => unaryOp_gives h d a 1 f
  refine ⟨?_, ?_⟩
  · simp only [scalarTable, List.forall_mem_cons, List.not_mem_nil, false_imp_iff, implies_true, and_true, toNat_setWidth_six,
      ← mulHigh_eq, ← mulHighN_eq, ← divSigned_eq, ← divUnsigned_eq, ← remSigned_eq, ← remUnsigned_eq, ← ofBool_slt,
      ← ofBool_ult, ← minSigned_eq, ← maxSigned_eq, ← minUnsigned_eq, ← maxUnsigned_eq]
    dsimp only [exec, execAdd, execSub, execAnd, execOr, execXor, execAndn, execShl, execShr, execSra, execMul, execMulh,
      execMulhn, execDiv, execDivn, execRem, execRemn, execSlt, execSltn, execMin, execMax, execMinn, execMaxn, execRotl]
    exact ⟨hbin _ _, hbin _ _, hbin _ _, hbin _ _, hbin _ _, hbin _ _, hbin _ _, hbin _ _, hbin _ _, hbin _ _, hbin _ _,
      hbin _ _, hbin _ _, hbin _ _, hbin _ _, hbin _ _, hbin _ _, hbin _ _, hbin _ _, hbin _ _, hbin _ _, hbin _ _,
      hbin _ _, hsel⟩
  · simp only [scalarUnaryTable, List.forall_mem_cons, List.not_mem_nil, false_imp_iff, implies_true, and_true]
    simp only [← leadingZeros_eq_length, BitVec.getLsbD, ← trailingZeros_eq_length, List.countP_eq_length_filter,
      ← popCount_eq_length]
    dsimp only [exec, execClz, execCtz, execPopc]
    exact ⟨hun _, hun _, hun _⟩

theorem scalarImmediates_write : scalarImmediatesWriteTheirResult := by
  intro s d a i n k h
  have hun := fun f => unaryOp_gives h d a 1 f
  have hlis := scalarOp_gives h [] d 1 (fun _ => k.signExtend 64)
  have hshim := scalarOp_gives h [d] d 1 (fun h => (gRead h d.toNat <<< 17) ||| k.setWidth 64)
  rw [gRead_discardWait] at hshim
  simp only [scalarSignedTable, scalarShiftTable, List.forall_mem_cons, List.not_mem_nil, false_imp_iff, implies_true,
    and_true, ← ofBool_slt]
  dsimp only [exec, execAddi, execAndi, execOri, execXori, execSlti, execShli, execShri, execSrai, execLis, execShim]
  exact ⟨⟨hun _, hun _, hun _, hun _, hun _⟩, ⟨hun _, hun _, hun _⟩, hlis, hshim⟩

/-- Settles O6: each word is one operation of fixed latency, and its formula that of its row. -/
theorem scalarResultsAreWritten : Obligations.ScalarResultsAreWritten :=
  ⟨scalarArithmetic_writes, scalarImmediates_write⟩

end Sys2Proof.Machine
end

section
/-!
LAW. JR, CALL, CALLR and RET: what the return stack and its spill area give and take (R16, R54, R60, R67). Settles O8.
-/

namespace Sys2Proof.Machine

/-! ### A scalar read leaves the hart as it is -/

@[simp] theorem putLine_hart (s : State) (stack line : Nat) (data : Line) (mask : BitVec 128) :
    (s.putLine stack line data mask).hart = s.hart := by
  unfold State.putLine
  split <;> rfl

@[simp] theorem l1Fill_hart (s : State) (core line : Nat) : (s.l1Fill core line).2.hart = s.hart := by
  unfold State.l1Fill
  split
  · rfl
  · rw [l1Put_hart]
    split
    · exact putLine_hart _ _ _ _ _
    · rfl

@[simp] theorem markAccess_hart (s : State) (l : Located) (k : AccessKind) (m : MarkKind) :
    (markAccess s l k m).hart = s.hart := by
  unfold markAccess
  split
  · rfl
  · cases m <;> rfl

theorem scalarRead_hart (s : State) (k : AccessKind) (va n : Nat) :
    OkAll (fun x => x.2.hart = s.hart) (scalarRead s k va n) := by
  unfold scalarRead
  refine .after fun l => .after fun _ => .ite .error (.ite (.ok rfl) ?_)
  have hfill : ((markAccess s l k .other).l1Fill s.hart.place.core (lineOf l.loc)).2.hart = s.hart := by
    rw [l1Fill_hart, markAccess_hart]
  exact .ite (.ok hfill) (.ok hfill)

/-! ### The scalar side goes on elsewhere -/

theorem pcOf_scalar {s : State} (h : s.issue.side = .scalar) : pcOf (discardWait s) = s.hart.sc.pc := by
  rw [pcOf_discardWait, pcOf, h]

theorem withStack_discardWait {s : State} (h : s.issue.side = .scalar) (st : List Word) (sp : Word) :
    withStack (discardWait s) st sp = discardWait (withStack s st sp) := by
  rw [discardWait_scalar h, discardWait_scalar (s := withStack s st sp) h]
  rfl

theorem discardWait_stack (s : State) : (discardWait s).hart.sc.rstack = s.hart.sc.rstack := by
  cases h : s.issue.side with
  | scalar => rw [discardWait_scalar h]
  | vector => rw [discardWait_vector s h]

/-- A word that leaves another return stack and goes on at `pc`. -/
theorem scalarJump_withStack {s : State} (h : s.issue.side = .scalar) (st : List Word) (sp pc : Word) :
    ScalarJump (withStack s st sp) (retireTo (withStack (discardWait s) st sp) pc) pc := by
  rw [withStack_discardWait h]
  exact scalarJump_retireTo (s := withStack s st sp) h pc

/-! ### Push and pop (R60) -/

theorem pushStack_held {s : State} (h : s.hart.sc.rstack.length < 16) (x : Word) :
    pushStack s x = .ok (withStack s (x :: s.hart.sc.rstack) s.hart.cs.hrsp) := by
  rw [pushStack, if_pos h]
  rfl

theorem pushStack_spills {s u : State} (h : s.hart.sc.rstack.length = 16) (x : Word)
    (hw : scalarWrite s s.hart.cs.hrsp.toNat 8 (s.hart.sc.rstack.getLastD 0).toNat = .ok u) :
    pushStack s x = .ok (withStack u (x :: s.hart.sc.rstack.dropLast) (regAddr 3 (s.hart.cs.hrsp + 8))) := by
  rw [pushStack, if_neg (by omega)]
  simp only [hw]
  rfl

theorem popStack_cons {s : State} {x : Word} {rest : List Word} (h : s.hart.sc.rstack = x :: rest) :
    popStack s = .ok (x, withStack s rest s.hart.cs.hrsp) := by
  rw [popStack, h]
  rfl

theorem popStack_refills {s u : State} {v : Nat} (h : s.hart.sc.rstack = [])
    (hr : scalarRead s .read (s.hart.cs.hrsp - 8).toNat 8 = .ok (v, u)) :
    popStack s = .ok (BitVec.ofNat 64 v, withStack u [] (regAddr 3 (s.hart.cs.hrsp - 8))) := by
  have hst : u.hart.sc.rstack = [] := by rw [scalarRead_hart s _ _ _ _ hr, h]
  rw [popStack, h]
  simp only [hr, renameStop, withStack, ← hst]
  rfl

/-! ### The words -/

theorem execJr_of {s : State} (h : Issuing s .scalar) (a : BitVec 5) : execJr a s =
    if (gRead s.hart a.toNat).toNat % 4 = 0 then .next (retireTo (discardWait s) (gRead s.hart a.toNat))
    else .next (takeTrap (discardWait s) { code := 0x07, val := gRead s.hart a.toNat } .scalar) := by
  unfold execJr
  rw [runPlain_of h rfl rfl rfl, gRead_discardWait]
  by_cases ha : (gRead s.hart a.toNat).toNat % 4 = 0
  · simp [ha, finish]
  · simp [ha, finish, h.side, sourceOf, misalign, word, causeMisalign]

theorem execCallr_of {s : State} (h : Issuing s .scalar) (a : BitVec 5) : execCallr a s =
    if (gRead s.hart a.toNat).toNat % 4 = 0 then
      finish (discardWait s) ((pushStack (discardWait s) (s.hart.sc.pc + 4)).map (retireTo · (gRead s.hart a.toNat)))
    else .next (takeTrap (discardWait s) { code := 0x07, val := gRead s.hart a.toNat } .scalar) := by
  unfold execCallr
  rw [runPlain_of h rfl rfl rfl, gRead_discardWait, pcOf_scalar h.side]
  by_cases ha : (gRead s.hart a.toNat).toNat % 4 = 0
  · rw [if_pos ha, if_neg (by simpa using ha)]
    cases pushStack (discardWait s) (s.hart.sc.pc + 4) <;> rfl
  · simp [ha, finish, h.side, sourceOf, misalign, word, causeMisalign]

theorem execCall_of {s : State} (h : Issuing s .scalar) (o : BitVec 22) : execCall o s =
    finish (discardWait s) ((pushStack (discardWait s) (s.hart.sc.pc + 4)).map
      (retireTo · (s.hart.sc.pc + BitVec.ofInt 64 (4 * o.toInt)))) := by
  unfold execCall
  rw [runPlain_of h rfl rfl rfl, pcOf_scalar h.side, relTarget_scalar h.side]
  cases pushStack (discardWait s) (s.hart.sc.pc + 4) <;> rfl

/-- RET once its entry is popped. -/
theorem execRet_of {s t : State} {x : Word} (h : Issuing s .scalar) (hp : popStack (discardWait s) = .ok (x, t)) :
    execRet s =
      if x = BitVec.allOnes 64 then
        if s.hart.cs.hstat.hl then
          .next (takeTrap (discardWait s) { code := 0x01, val := s.issue.word.setWidth 64 } .scalar)
        else .next ((retireTo t (pcOf t)).mapHart (fun h => { h with life := .ending }))
      else if x.toNat % 4 = 0 then .next (retireTo t x)
      else .next (takeTrap (discardWait s) { code := 0x07, val := x } .scalar) := by
  unfold execRet
  rw [runPlain_of h rfl rfl rfl, hp]
  dsimp only [bind, Except.bind]
  by_cases hx : x = BitVec.allOnes 64
  · rw [if_pos hx, if_pos (by rw [hx]; rfl), discardWait_timed]
    by_cases hl : s.hart.cs.hstat.hl = true
    · simp [hl, finish, h.side, sourceOf, illegal, wordVal, causeIllegal]
    · simp [hl, finish]
  · rw [if_neg hx, if_neg (by rw [beq_iff_eq]; exact hx)]
    by_cases ha : x.toNat % 4 = 0
    · simp [ha, finish]
    · simp [ha, finish, h.side, sourceOf, misalign, word, causeMisalign]

theorem ne_allOnes {x : Word} (h : x.toNat % 4 = 0) : x ≠ BitVec.allOnes 64 := by
  rintro rfl
  exact absurd h (by decide)

theorem callsPush_returnsPop : callsPushAndReturnsPop := by
  intro s a o h
  have hside := h.side
  have hst := discardWait_stack s
  have hsp : (discardWait s).hart.cs.hrsp = s.hart.cs.hrsp := by rw [discardWait_timed]
  dsimp only [exec]
  refine ⟨fun ha => ?_, fun hlen => ?_, fun hlen u hu => ?_, fun x rest hx ha => ?_, fun rest hx hl => ?_,
    fun hx v u hr ha hv => ?_⟩
  · exact ⟨_, by rw [execJr_of h, if_pos ha], scalarJump_retireTo hside _⟩
  · have hpush := pushStack_held (s := discardWait s) (by rwa [hst]) (s.hart.sc.pc + 4)
    rw [hst, hsp] at hpush
    refine ⟨⟨_, by rw [execCall_of h, hpush]; rfl, scalarJump_withStack hside _ _ _⟩, fun ha => ?_⟩
    exact ⟨_, by rw [execCallr_of h, if_pos ha, hpush]; rfl, scalarJump_withStack hside _ _ _⟩
  · have hpush := pushStack_spills (s := discardWait s) (by rwa [hst]) (s.hart.sc.pc + 4) (by rwa [hst, hsp])
    rw [hst, hsp] at hpush
    exact ⟨by rw [execCall_of h, hpush]; rfl, fun ha => by rw [execCallr_of h, if_pos ha, hpush]; rfl⟩
  · have hpop := popStack_cons (hst.trans hx)
    rw [hsp] at hpop
    exact ⟨_, by rw [execRet_of h hpop, if_neg (ne_allOnes ha), if_pos ha], scalarJump_withStack hside _ _ _⟩
  · have hpop := popStack_cons (hst.trans hx)
    rw [hsp] at hpop
    refine ⟨_, s.hart.sc.pc, by rw [execRet_of h hpop, if_pos rfl, if_neg (by simp [hl])], rfl, ?_⟩
    have hside' : (withStack s rest s.hart.cs.hrsp).issue.side = .scalar := hside
    rw [withStack_discardWait hside, pcOf_scalar hside', retireTo_scalar_eq (by simpa using hside'), discardWait_scalar hside']
    exact ⟨rfl, rfl, rfl⟩
  · have hpop := popStack_refills (hst.trans hx) (by rwa [hsp])
    rw [hsp] at hpop
    have hn : (BitVec.ofNat 64 v).toNat % 4 = 0 := by rw [BitVec.toNat_ofNat, Nat.mod_eq_of_lt hv, ha]
    rw [execRet_of h hpop, if_neg (ne_allOnes hn), if_pos hn]

theorem badTargets_trap : badTargetsTrap := by
  intro s a h
  have hst := discardWait_stack s
  dsimp only [exec]
  refine ⟨fun ha => ⟨by rw [execJr_of h, if_neg ha], by rw [execCallr_of h, if_neg ha]⟩, fun x rest hx ha hne => ?_,
    fun rest hx hl => ?_⟩
  · rw [execRet_of h (popStack_cons (hst.trans hx)), if_neg hne, if_neg ha]
  · rw [execRet_of h (popStack_cons (hst.trans hx)), if_pos rfl, if_pos hl]

/-- Settles O8: push and pop by whether the hart holds the entry, then where each word goes. -/
theorem callsAndReturnsUseTheStack : Obligations.CallsAndReturnsUseTheStack := ⟨callsPush_returnsPop, badTargets_trap⟩

end Sys2Proof.Machine
end

section
/-!
LAW. CSRX, CSRS and the rows of the table that write a control register (R43, R62, R68, R111, R276). Settles O18.
-/

namespace Sys2Proof.Machine

/-! ### Privilege (R62, R68) -/

/-- An interlocked word with nothing in its way whose check of privilege fails. -/
theorem runInterlocked_denied {s : State} {sd : Side} (h : Issuing s sd) {mark : SideMark} {wf fit : Bool}
    {deny : State → Option Trap} {reads writes : List RegId} {body : State → Except Stop State} {t : Trap}
    (hm : markAdmits mark sd = true) (hw : wf = true) (hf : fit = true) (hd : deny s = some t) :
    runInterlocked s mark wf fit deny reads writes body = .next (takeTrap s t (sourceOf sd)) := by
  unfold runInterlocked
  rw [precheck_none h hm hw hf]
  dsimp only
  rw [commitWrites_mapHart s _ h.quiet, lastDue_quiet _ _ h.quiet, hd]
  simp only [Option.some_or, finish, h.side]

theorem csrPriv_iff (hl : Bool) (x : BitVec 12) (write : Bool) : csrPriv hl x write = true ↔
    hl = false ∧ (x = 0x006 ∨ 0x001 ≤ x ∧ x ≤ 0x005 ∧ write = true) := by
  have hrange : (1 ≤ x.toNat ∧ x.toNat ≤ 5) ↔ (0x001 ≤ x ∧ x ≤ 0x005) := by simp [BitVec.le_def]
  simp only [csrPriv, Bool.and_eq_true, Bool.or_eq_true, beq_iff_eq, Bool.not_eq_true', decide_eq_true_eq, hrange]
  tauto

/-! ### CSRX and CSRS (R68) -/

theorem xRead_discardWait (s : State) (r : Nat) : xRead (discardWait s) r = xRead s r := by
  simp only [xRead, discardWait_issue, gRead_discardWait]
  split
  · rfl
  · next h => rw [discardWait_vector s h]

theorem xOk_of {s : State} {sd : Side} (h : s.issue.side = sd) {d a : BitVec 5}
    (hr : sd = .vector → d.toNat < 16 ∧ a.toNat < 16) : xOk s [d, a] = true := by
  cases sd with
  | scalar => rw [xOk, h]
  | vector =>
    obtain ⟨hd, ha⟩ := hr rfl
    simp [xOk, h, isH_iff.2 hd, isH_iff.2 ha]

/-- CSRX and CSRS write where the access is not privileged, and raise PRIV where it is. -/
theorem csrOp_of {s : State} {sd : Side} (h : Issuing s sd) {d a : BitVec 5} {x : BitVec 12} (gain : Bool)
    (hr : sd = .vector → d.toNat < 16 ∧ a.toNat < 16) (hx : isControlRegister x = true) :
    csrOp s d a x gain =
      if csrPriv s.hart.cs.hstat.hl x (!gain || (xRead s a.toNat).toNat != 0) then
        .next (takeTrap (discardWait s) { code := 0x06, val := s.issue.word.setWidth 64 } (sourceOf sd))
      else .next (xgave (csrWrite (discardWait s) x (xRead s a.toNat).toNat gain) d (csrRead (discardWait s) x)) := by
  have hm : markAdmits .b sd = true := by cases sd <;> rfl
  have hw : (isControlRegister x && xOk s [d, a]) = true := by rw [hx, xOk_of h.side hr]; rfl
  unfold csrOp
  split
  · next hp =>
    have hd : (if csrPriv (discardWait s).hart.cs.hstat.hl x (!gain || (xRead (discardWait s) a.toNat).toNat != 0) then
        some (priv (discardWait s)) else none) = some { code := 0x06, val := s.issue.word.setWidth 64 } := by
      rw [discardWait_timed, xRead_discardWait, if_pos hp, priv, wordVal, discardWait_issue]
      rfl
    exact runInterlocked_denied h.discard hm hw rfl hd
  · next hp =>
    have hd : (if csrPriv (discardWait s).hart.cs.hstat.hl x (!gain || (xRead (discardWait s) a.toNat).toNat != 0) then
        some (priv (discardWait s)) else none) = none := by
      rw [discardWait_timed, xRead_discardWait, if_neg hp]
    rw [← xRead_discardWait]
    exact runInterlocked_of h.discard hm hw rfl hd

theorem csrWords_complete : csrWordsComplete := by
  intro s sd d a x h hr hx
  dsimp only [exec, execCsrx, execCsrs]
  have hne : ((xRead s a.toNat).toNat != 0) = true ↔ xRead s a.toNat ≠ 0 := by simp [← BitVec.toNat_inj]
  have hp0 := csrPriv_iff s.hart.cs.hstat.hl x (!false || (xRead s a.toNat).toNat != 0)
  have hp1 := csrPriv_iff s.hart.cs.hstat.hl x (!true || (xRead s a.toNat).toNat != 0)
  rw [Bool.not_false, Bool.true_or, eq_self, and_true] at hp0
  rw [Bool.not_true, Bool.false_or, hne] at hp1
  rw [csrOp_of h false hr hx, csrOp_of h true hr hx]
  exact ⟨fun hn => if_neg (hn ∘ hp0.1), fun hn => if_neg (hn ∘ hp1.1), fun hl hp => if_pos (hp0.2 ⟨hl, hp⟩),
    fun hl hp => if_pos (hp1.2 ⟨hl, hp⟩)⟩

/-! ### VPFB (R111) -/

/-- SPILLED and RES of a value that a write forms are those of the source. -/
theorem csrMerged_frmBits (old src : Word) :
    (csrMerged old src frmBits 0#64 false).extractLsb' 32 32 = src.extractLsb' 32 32 ∧
    (csrMerged old src frmBits 0#64 false).extractLsb' 0 3 = src.extractLsb' 0 3 := by
  have hbit (i : Nat) (hi : i < 64) (hf : i < 3 ∨ 32 ≤ i) :
      (csrMerged old src frmBits 0#64 false).getLsbD i = src.getLsbD i := by
    rw [getLsbD_csrMerged _ _ _ _ _ hi, frmBits_getLsbD i hi, decide_eq_true hf]
    simp
  refine ⟨BitVec.eq_of_getLsbD_eq fun i hi => ?_, BitVec.eq_of_getLsbD_eq fun i hi => ?_⟩
  · simp only [BitVec.getLsbD_extractLsb', hbit (32 + i) (by omega) (.inr (by omega))]
  · simp only [BitVec.getLsbD_extractLsb', hbit (0 + i) (by omega) (.inl (by omega))]

theorem setResident_spilled (n : Nat) (s : State) : (setResident s n).hart.ve.spilled = s.hart.ve.spilled := by
  induction n generalizing s with
  | zero => rfl
  | succ n ih =>
    rw [setResident]
    dsimp only
    split
    · rfl
    · split
      · rfl
      · exact ih s

/-- A lower number drops the topmost entries. -/
theorem setResident_drops {s : State} {n : Nat} (hn : n ≤ s.hart.ve.frags.length) (h4 : n ≤ 4) :
    (setResident s n).hart.ve.frags = s.hart.ve.frags.drop (s.hart.ve.frags.length - n) := by
  cases n with
  | zero => simp [setResident]
  | succ n => rw [setResident, if_neg (by omega), if_pos hn]; rfl

/-- As many entries as RES says, up to four. -/
theorem setResident_length {n : Nat} (s : State) (h4 : n ≤ 4) : (setResident s n).hart.ve.frags.length = n := by
  induction n with
  | zero => rfl
  | succ n ih =>
    by_cases hn : n + 1 ≤ s.hart.ve.frags.length
    · rw [setResident_drops hn h4, List.length_drop]
      omega
    · rw [setResident, if_neg (by omega), if_neg hn]
      exact congrArg (· + 1) (ih (by omega))

theorem csrSet_vpfb (s : State) (v : Nat) : csrSet s 0x10D v = writeVpfb s v := rfl

theorem csrWrite_vpfb {s : State} (hl : s.hart.cs.hstat.hl = true) (v : Word) :
    csrWrite s 0x10D v.toNat false = setResident
      (s.mapHart (fun h => { h with ve := { h.ve with spilled := v.extractLsb' 32 32 } })) (v.toNat % 8) := by
  obtain ⟨hspilled, hres⟩ := csrMerged_frmBits (csrRead s 0x10D) v
  have hdiv (y : Word) : BitVec.ofNat 32 (y.toNat / 2 ^ 32) = y.extractLsb' 32 32 := by
    rw [← Nat.shiftRight_eq_div_pow]
    rfl
  have hmod (y : Word) : y.toNat % 8 = (y.extractLsb' 0 3).toNat := by simp
  rw [csrWrite_eq_csrSet v false (rw := frmBits) (w1c := 0#64) (by rw [hl]; rfl) rfl (.inl (by decide)),
    noteCleared_of_ne (by decide)]
  rw [csrSet_vpfb, writeVpfb, hdiv, hspilled, hmod, hres, ← hmod]

/-! ### SPDISC (R276) -/

theorem csrWrite_spdisc (s : State) (v : Word) :
    (csrWrite s 0x210 v.toNat false).hart.cs.spdisc = v.setWidth 8 &&& grantedSegments s s.hart := by
  have hmask : ∀ i < 8, (0xFF#64).getLsbD i = true := by decide
  have hlow : (csrMerged (csrRead s 0x210) v 0xFF#64 0#64 false).setWidth 8 = v.setWidth 8 := by
    refine BitVec.eq_of_getLsbD_eq fun i hi => ?_
    rw [BitVec.getLsbD_setWidth, BitVec.getLsbD_setWidth, getLsbD_csrMerged _ _ _ _ _ (by omega), hmask i hi, if_pos rfl,
      Bool.false_and, Bool.false_or]
  rw [csrWrite_eq_csrSet v false (rw := 0xFF#64) (w1c := 0#64) rfl rfl (.inl (by decide)), noteCleared_of_ne (by decide)]
  exact congrArg (· &&& grantedSegments s s.hart) hlow

/-! ### The rows -/

theorem csrEvent_resident {s : State} (hres : s.hart.resident = true) {x : BitVec 12} (v : Word)
    (hp : csrPriv s.hart.cs.hstat.hl x true = false) : csrEvent s x v = csrWrite s x v.toNat false :=
  if_neg (by simp [hres, hp])

theorem registerWriteRows_write : registerWriteRowsWriteAsCsrx := by
  intro s v hres
  have hpriv (x : BitVec 12) (hx : csrPriv false x true = false) : csrPriv s.hart.cs.hstat.hl x true = false := by
    cases s.hart.cs.hstat.hl with
    | false => exact hx
    | true => rfl
  have hrow (x : BitVec 12) (hx : csrPriv false x true = false) := csrEvent_resident hres v (hpriv x hx)
  refine ⟨congrArg Host.Outcome.next (hrow 0x10B (by decide)), congrArg Host.Outcome.next (hrow 0x210 (by decide)),
    csrWrite_spdisc s v, fun hl => ⟨congrArg Host.Outcome.next (hrow 0x10D (by decide)), ?_, fun h4 => ?_, fun hn h4 => ?_⟩, fun hl => ?_⟩
  · rw [csrWrite_vpfb hl, setResident_spilled]
    rfl
  · rw [csrWrite_vpfb hl, setResident_length _ h4]
  · rw [csrWrite_vpfb hl, setResident_drops (n := v.toNat % 8) (by exact hn) h4]
    rfl
  · have hro : csrWrite s 0x10D v.toNat false = s := csrWrite_of_readOnly _ _ (by rw [hl]; rfl) rfl
    exact congrArg Host.Outcome.next ((hrow 0x10D (by decide)).trans hro)

/-- Settles O18: the words by their privilege, and the rows by the registers they write. -/
theorem controlRegisterWordsComplete : Obligations.ControlRegisterWordsComplete :=
  ⟨csrWords_complete, registerWriteRows_write⟩

end Sys2Proof.Machine
end

section
/-!
LAW. The words of VQ and RQ (R56, R58, R69, R70). Settles O21.
-/

namespace Sys2Proof.Machine

@[simp] theorem discardWait_ve (s : State) : (discardWait s).hart.ve = s.hart.ve := by
  cases h : s.issue.side with
  | scalar => rw [discardWait_scalar h]
  | vector => rw [discardWait_vector s h]

/-! ### VDISP (R56, R69) -/

/-- The vector side once VDISP has appended its entry. -/
def dispatched (h : Hart) (d a b : BitVec 5) : VectorSide :=
  { h.ve with
    blockQ := h.ve.blockQ ++ [⟨gRead h a.toNat, gRead h b.toNat, gRead h d.toNat, gRead h (d.toNat + 1),
      gRead h (d.toNat + 2), gRead h (d.toNat + 3), h.ve.seq⟩],
    seq := h.ve.seq + 1, lastSeq := some h.ve.seq }

theorem dispatched_discardWait (s : State) (d a b : BitVec 5) :
    dispatched (discardWait s).hart d a b = dispatched s.hart d a b := by
  simp only [dispatched, discardWait_ve, gRead_discardWait]

theorem execVdisp_dispatches {s : State} (h : Issuing s .scalar) {d a b : BitVec 5} (hd : d.toNat ≤ 28)
    (ha : (gRead s.hart a.toNat).toNat % 4 = 0) (hq : s.hart.ve.blockQ.length < 32) : execVdisp d a b s =
      .next (retire ((discardWait s).mapHart (fun h => { h with ve := dispatched s.hart d a b }))) := by
  unfold execVdisp
  rw [runPlain_of h rfl (by simpa [isArgBase, BitVec.le_def] using hd) rfl, ← dispatched_discardWait]
  dsimp only
  rw [if_neg (by simp [gRead_discardWait, ha]), if_neg (by rw [discardWait_ve]; omega)]
  rfl

theorem execVdisp_misaligned {s : State} (h : Issuing s .scalar) {d a : BitVec 5} (b : BitVec 5) (hd : d.toNat ≤ 28)
    (ha : (gRead s.hart a.toNat).toNat % 4 ≠ 0) : execVdisp d a b s =
      .next (takeTrap (discardWait s) { code := 0x07, val := gRead s.hart a.toNat } .scalar) := by
  unfold execVdisp
  rw [runPlain_of h rfl (by simpa [isArgBase, BitVec.le_def] using hd) rfl]
  simp only [gRead_discardWait]
  rw [if_pos (by simpa using ha)]
  simp [finish, h.side, sourceOf, misalign, word, causeMisalign]

/-- A word that retires from another vector side changes nothing else but what its retirement does. -/
theorem retire_withVe {s : State} (h : s.issue.side = .scalar) (ve : VectorSide) :
    let t := retire ((discardWait s).mapHart (fun h => { h with ve := ve }))
    t.hart.ve = ve ∧ t.hart.sc.g = s.hart.sc.g ∧ OnlyHart s t ∧ Retired s t := by
  dsimp only
  rw [retire, retireTo_scalar_eq (by simpa using h), discardWait_scalar h]
  refine ⟨rfl, rfl, rfl, ?_, rfl⟩
  simp only [pcOf, State.mapHart, h]

/-! ### The words that give a value -/

/-- A scalar-side word that gives `v` and leaves the vector side `ve` is one that only gives `v` where `ve` stood before. -/
theorem scalarResult_withVe {s : State} (h : s.issue.side = .scalar) (ve : VectorSide) (d : BitVec 5) (v : Word) :
    ScalarResult (s.mapHart (fun h => { h with ve := ve }))
      (gave ((discardWait s).mapHart (fun h => { h with ve := ve })) d v) d v := by
  have hside : (s.mapHart (fun h => { h with ve := ve })).issue.side = .scalar := h
  have hmap : (discardWait s).mapHart (fun h => { h with ve := ve }) =
      discardWait (s.mapHart (fun h => { h with ve := ve })) := by
    rw [discardWait_scalar h, discardWait_scalar hside]
    rfl
  rw [hmap]
  exact scalarResult_gave hside d v

theorem execVdrain_of {s : State} (h : Issuing s .scalar) (d : BitVec 5) (hq : s.hart.ve.blockQ = [])
    (hb : s.hart.ve.block = none) : execVdrain d s = .next (gave (discardWait s) d (match s.hart.ve.lastSeq with
      | some k => k.setWidth 64
      | none => BitVec.allOnes 64)) := by
  unfold execVdrain
  rw [runPlain_of h rfl rfl rfl, discardWait_ve, if_neg (by simp [hq, hb])]
  rfl

theorem execRqpeek_of {s : State} (h : Issuing s .scalar) (d : BitVec 5) {x : Word} {rest : List Word}
    (hr : s.hart.ve.replies = x :: rest) : execRqpeek d s = .next (gave (discardWait s) d x) := by
  unfold execRqpeek
  rw [runPlain_of h rfl rfl rfl]
  simp only [discardWait_ve, hr]
  rfl

theorem execRqpop_of {s : State} (h : Issuing s .scalar) (d : BitVec 5) {x : Word} {rest : List Word}
    (hr : s.hart.ve.replies = x :: rest) : execRqpop d s =
      .next (gave ((discardWait s).mapHart (fun h => { h with ve := { s.hart.ve with replies := rest } })) d x) := by
  unfold execRqpop
  rw [runPlain_of h rfl rfl rfl]
  simp only [discardWait_ve, hr]
  rw [← discardWait_ve s]
  rfl

/-- Settles O21: VDISP by the alignment of its block, and the other words by the value they give. -/
theorem queuesDispatchAndReply : Obligations.QueuesDispatchAndReply := by
  intro s d a b h
  dsimp only [exec, execVqcnt, execRqcnt]
  refine ⟨fun hd ha hq => ⟨_, execVdisp_dispatches h hd ha hq, retire_withVe h.side _⟩,
    fun hd ha => execVdisp_misaligned h b hd ha,
    fun hq hb => ⟨_, execVdrain_of h d hq hb, scalarResult_gave h.side d _⟩, ?_, ?_,
    fun x rest hr => ⟨⟨_, execRqpeek_of h d hr, scalarResult_gave h.side d _⟩,
      _, execRqpop_of h d hr, scalarResult_withVe h.side _ d x⟩⟩
  · rw [← discardWait_ve s]
    exact ⟨_, runPlain_of h rfl rfl rfl, scalarResult_gave h.side d _⟩
  · rw [← discardWait_ve s]
    exact ⟨_, runPlain_of h rfl rfl rfl, scalarResult_gave h.side d _⟩

end Sys2Proof.Machine
end

section
/-!
LAW. What taking a trap leaves: at the handler, and at the supervisor, where a hart is halted or its unit retired and the
fault record of its context filled (R54, R73, R75, R77, R272). Settles O19.
-/

namespace Sys2Proof.Machine

/-! ### A hart with no BAR word under way stops at its boundaries -/

theorem settleBarw_none {h : Hart} (hs : h.sc.barw = none) (hv : h.ve.barw = none) : settleBarw h = h := by
  simp only [settleBarw, hs, hv]

theorem stopBoth_none {s : State} (hs : s.hart.sc.barw = none) (hv : s.hart.ve.barw = none) :
    s.stopBoth = s.mapHart stopSides := by
  simp [State.stopBoth, lastStopped, hs, hv]

theorem abortRegion_none {s : State} (h : s.hart.tl.region = none) : s.abortRegion = s := by
  rw [State.abortRegion, h]

theorem unbindGroup_other {h : Hart} {t : Trap} (w : BitVec 32) (ht : t.code ≠ 0x30) : unbindGroup h t w = h := by
  rw [unbindGroup, show (t.code == causeGroup) = false from beq_false_of_ne ht]
  rfl

/-- A trap whose access has walked for nothing only notes that it was taken. -/
theorem noteWalk_none {s : State} {t : Trap} (hm : t.mark = none) (hr : t.report = none) : noteWalk s t = s := by
  rw [noteWalk, hm, hr, markAccessed]

/-! ### Delivery to the handler (R73) -/

/-- The control registers of a hart whose trap is delivered outside a timed region. -/
def handlerControls (h : Hart) (t : Trap) (src : TrapSource) : ControlRegs :=
  { h.cs with
    hcause := { int := src == .interrupt, vs := src == .vector, vrs := false, ta := false, exit := h.life == .ending,
                eng := false, sub := t.sub, code := t.code },
    htval := t.val,
    hqpos := if src = .vector then qposOf h else h.cs.hqpos,
    hepc := if h.life == .ending then 0 else h.sc.pc &&& 0x00FFFFFFFFFFFFFC,
    hstat := { h.cs.hstat with pie := h.cs.hstat.ie, phl := h.cs.hstat.hl, hl := true, ie := false } }

/-- The hart in focus at its handler, with what it waited for to be executed afresh. -/
def handlerHart (s : State) (t : Trap) (src : TrapSource) : Hart :=
  { stopSides s.hart with
    life := .handler,
    sc := { (stopSides s.hart).sc with pc := s.hart.cs.htvec, readyAt := max s.hart.sc.readyAt (s.clock + 1) },
    ve := { s.hart.ve with loops := [] },
    cs := handlerControls s.hart t src }

theorem deliver_untimed {s : State} {t : Trap} {src : TrapSource} (htimed : s.hart.cs.hstat.timed = false)
    (hreg : s.hart.tl.region = none) (hs : s.hart.sc.barw = none) (hv : s.hart.ve.barw = none) (hcode : t.code ≠ 0x30) :
    deliver s t src false (qposOf s.hart) = { s with hart := handlerHart s t src } := by
  have hstop : (s.mapHart stopSides).abortRegion = s.mapHart stopSides := abortRegion_none (by
    simp [stopSides, stopWaits, settleBarw_none hs hv, hreg])
  have hcause : (t.code == causeGroup) = false := beq_false_of_ne hcode
  unfold deliver
  simp only [stopBoth_none hs hv, hstop, htimed, hcause, Bool.false_eq_true, if_false, unbindGroup_other _ hcode]
  simp only [State.mapHart, handlerHart, stopSides, stopWaits, settleBarw_none hs hv, handlerControls, htimed, epcOf, beq_iff_eq]
  rfl

theorem traps_enterTheHandler : trapsEnterTheHandler := by
  intro s t src hl hvec htimed hreg hs hv hm hr hcode
  have hhandler : noHandler s.hart = false := beq_false_of_ne hvec
  have htake : takeTrap s t src = { s with hart := handlerHart s t src, issue := { s.issue with trapped := true } } := by
    unfold takeTrap
    rw [noteWalk_none hm hr]
    simp only [hl, hhandler, Bool.false_eq_true, if_false, Option.getD_none]
    exact deliver_untimed htimed hreg hs hv hcode
  dsimp only
  rw [htake]
  simp [handlerHart, handlerControls, stopSides, stopWaits, settleBarw_none hs hv, SameRegisters, SameMemory]

/-! ### What stands of a context while its hart stops (R269, R272) -/

/-- A context of this ASID stands, bound as `fn` and with the fault record `f`, with no PREEMPT request, and the quotas
are `q`. -/
structure ContextStands (a : Nat) (fn : Option (Option Nat)) (f : FaultRecord) (q : List (Nat × Int)) (s : State) :
    Prop where
  ctx : ∃ c, s.ctx? a = some c ∧ c.fn = fn ∧ c.fault = f ∧ c.requests = []
  quota : s.quota = q

/-- A function with quota: the PF, whose quota is unlimited, or a VF with some left (R206). -/
def HasQuota (fn : Option (Option Nat)) (q : List (Nat × Int)) : Prop :=
  fn = some none ∨ ∀ vf, fn = some (some vf) → 0 < ((q.find? (·.1 == vf)).map (·.2)).getD 0

theorem ctx?_mapCtx {s : State} {a b : Nat} {g : Context → Context} (hg : ∀ c, (g c).asid = c.asid) :
    (s.mapCtx b g).ctx? a = (s.ctx? a).map (fun c => if c.asid == b then g c else c) := by
  have hp : ((fun c : Context => c.asid == a) ∘ fun c => if c.asid == b then g c else c) = fun c => c.asid == a := by
    funext c
    dsimp only [Function.comp]
    split
    · rw [hg]
    · rfl
  rw [State.ctx?, mapCtx_contexts, List.find?_map, hp]
  rfl

section
variable {a : Nat} {fn : Option (Option Nat)} {f : FaultRecord} {q : List (Nat × Int)} {s : State}

theorem ContextStands.frame {t : State} (h : ContextStands a fn f q s) (hc : t.contexts = s.contexts)
    (hq : t.quota = s.quota) : ContextStands a fn f q t := by
  refine ⟨?_, hq.trans h.quota⟩
  rw [State.ctx?, hc]
  exact h.ctx

theorem ContextStands.ite {p : Prop} [Decidable p] {u v : State} (hu : ContextStands a fn f q u)
    (hv : ContextStands a fn f q v) : ContextStands a fn f q (if p then u else v) := by
  split
  · exact hu
  · exact hv

/-- A change of contexts that keeps what the fault record is about. -/
theorem ContextStands.mapCtx {b : Nat} {g : Context → Context} (h : ContextStands a fn f q s)
    (ha : ∀ c, (g c).asid = c.asid) (hg : ∀ c, (g c).fn = c.fn ∧ (g c).fault = c.fault)
    (hr : ∀ c, c.requests = [] → (g c).requests = []) : ContextStands a fn f q (s.mapCtx b g) := by
  obtain ⟨⟨c, hc, hfn, hf, hreq⟩, hq⟩ := h
  refine ⟨⟨_, by rw [ctx?_mapCtx ha, hc]; rfl, ?_⟩, hq⟩
  obtain ⟨hgf, hgr⟩ := hg c
  dsimp only
  split
  · exact ⟨hgf.trans hfn, hgr.trans hf, hr c hreq⟩
  · exact ⟨hfn, hf, hreq⟩

/-! #### Accesses at the vector point -/

theorem ContextStands.guardWrite {stack b n : Nat} (h : ContextStands a fn f q s) :
    OkAll (ContextStands a fn f q) (s.guardWrite stack b n) := by
  unfold State.guardWrite
  extract_lets
  refine .ite .error ?_
  split
  · exact .error
  · split
    · exact .ok h
    · split
      · exact .ok h
      · split
        · exact .ok h
        · exact .ite (.ok h) (.ite .error (.ok (h.mapCtx (fun _ => rfl) (fun _ => ⟨rfl, rfl⟩) fun _ hr => hr)))

theorem ContextStands.putLine {stack line : Nat} {data : Line} {mask : BitVec 128} (h : ContextStands a fn f q s) :
    ContextStands a fn f q (s.putLine stack line data mask) := .ite (h.frame rfl rfl) (h.frame rfl rfl)

theorem ContextStands.writeBack {x : L1Line} (h : ContextStands a fn f q s) : ContextStands a fn f q (s.writeBack x) := by
  unfold State.writeBack
  refine .ite h ?_
  extract_lets
  split
  · exact (h.guardWrite _ ‹_›).putLine
  · exact h.mapCtx (fun _ => rfl) (fun _ => ⟨rfl, rfl⟩) fun _ hr => hr
  · exact h

theorem ContextStands.snoop {stack line : Nat} (h : ContextStands a fn f q s) :
    ContextStands a fn f q (s.snoop stack line) := foldl_keeps (h.frame rfl rfl) fun _ _ hs => hs.writeBack

theorem ContextStands.noteWriter {stack line : Nat} {who : Option Nat} {mask : BitVec 128} (h : ContextStands a fn f q s) :
    ContextStands a fn f q (s.noteWriter stack line who mask) := by
  unfold State.noteWriter
  split
  · exact h
  · exact .ite (h.frame rfl rfl) h

theorem ContextStands.clearPoison {line : Nat} {mask : BitVec 128} (h : ContextStands a fn f q s) :
    ContextStands a fn f q (s.clearPoison line mask) := .ite (h.frame rfl rfl) h

theorem ContextStands.homeWrite {who : Option Nat} {stack b n v : Nat} (h : ContextStands a fn f q s) :
    OkAll (ContextStands a fn f q) (s.homeWrite who stack b n v) := by
  unfold State.homeWrite
  extract_lets
  refine .ite (.ite .error (.ok (h.frame rfl rfl))) ?_
  split
  · exact .error
  · exact .ok (h.snoop.guardWrite _ ‹_›).putLine.noteWriter.clearPoison

theorem ContextStands.markAccess {l : Located} {k : AccessKind} {m : MarkKind} (h : ContextStands a fn f q s) :
    ContextStands a fn f q (markAccess s l k m) := by
  unfold Machine.markAccess
  split
  · exact h
  · cases m <;> exact h.frame rfl rfl

theorem ContextStands.pointWrite {x : Hart} {va n v : Nat} (h : ContextStands a fn f q s) :
    OkAll (ContextStands a fn f q) (pointWrite s x .other va n v) := by
  unfold Machine.pointWrite
  refine .after fun l => .after fun _ => ?_
  extract_lets
  split
  · exact .error
  · exact .ok (h.homeWrite _ ‹_›).markAccess

/-! #### The abort of a group (R304, R312) -/

theorem ContextStands.noteWalk {t : Trap} (h : ContextStands a fn f q s) : ContextStands a fn f q (noteWalk s t) := by
  have hm : ContextStands a fn f q (markAccessed s t.mark) := by
    unfold markAccessed
    split
    · exact h.frame rfl rfl
    · exact h
  unfold Machine.noteWalk
  dsimp only
  split
  · exact hm.frame rfl rfl
  · exact hm

theorem ContextStands.statusDone {w : StatusWrite} (h : ContextStands a fn f q s) :
    ContextStands a fn f q (statusDone s w) := .ite (h.frame rfl rfl) h

theorem ContextStands.lateFault {uid : Nat} {t : Trap} (h : ContextStands a fn f q s) :
    ContextStands a fn f q (lateFault s uid t) := h.frame rfl rfl

theorem ContextStands.tryStatus {w : StatusWrite} (h : ContextStands a fn f q s) :
    SomeAll (ContextStands a fn f q) (tryStatus s w) := by
  unfold Machine.tryStatus
  split
  · exact .some (h.pointWrite _ ‹_›).statusDone
  · exact .none
  · exact .some h.noteWalk.lateFault.statusDone
  · exact .some h.statusDone

theorem ContextStands.statusWrite {w : StatusWrite} (h : ContextStands a fn f q s) :
    ContextStands a fn f q (statusWrite s w) := by
  unfold Machine.statusWrite
  cases ht : Machine.tryStatus s w with
  | none => exact h.frame rfl rfl
  | some t => exact h.tryStatus t ht

theorem ContextStands.settleGroup {id : Nat} (h : ContextStands a fn f q s) : ContextStands a fn f q (s.settleGroup id) :=
  .ite (h.frame rfl rfl) h

theorem ContextStands.abortGroup {id : Nat} (h : ContextStands a fn f q s) :
    ContextStands a fn f q (s.abortGroup id) := by
  unfold State.abortGroup State.abortNow
  extract_lets _ t u _ w
  have ht : ContextStands a fn f q t := h.frame rfl rfl
  have hu : ContextStands a fn f q u :=
    foldl_keeps ht fun _ _ hs => foldl_keeps hs fun _ _ hv => .ite hv hv.statusWrite
  have hw : ContextStands a fn f q w := hu.frame rfl rfl
  exact .ite hw.settleGroup h

/-! #### The end of a timed region, and of a hart -/

theorem ContextStands.chargeCommands (h : ContextStands a fn f q s) : ContextStands a fn f q s.chargeCommands := by
  refine foldl_keeps h fun t c ht => ?_
  unfold State.chargeCommand State.chargeCycles
  split
  · exact ht
  · refine .ite ht ?_
    split
    · exact ht.frame (chargeTurn_contexts _ _ _ _) (chargeTurn_quota _ _ _ _)
    · exact ht

theorem ContextStands.owe {p : Payer} (h : ContextStands a fn f q s) : ContextStands a fn f q (s.owe p) :=
  .ite h (h.frame rfl rfl)

theorem credit_contexts (s : State) (b : Nat) (x : Int) : (s.credit b x).contexts = s.contexts := by
  unfold State.credit
  split <;> rfl

/-- The end of a region returns what is left of its reservation to its function's quota. -/
theorem ContextStands.releaseRegion (h : ContextStands a fn f q s) : ∃ q', ContextStands a fn f q' s.releaseRegion := by
  unfold State.releaseRegion
  split
  · exact ⟨q, h⟩
  · have hu : ContextStands a fn f q (s.draw.2.charge s.draw.2.hart.asid s.draw.1) :=
      (h.frame (t := s.draw.2) rfl rfl).mapCtx (fun _ => rfl) (fun _ => ⟨rfl, rfl⟩) fun _ hr => hr
    refine ⟨_, ?_, rfl⟩
    dsimp only
    rw [State.ctx?, mapHart_contexts, credit_contexts]
    exact hu.ctx

theorem ContextStands.abandonLanes (h : ContextStands a fn f q s) : ContextStands a fn f q s.abandonLanes := by
  have hd : ContextStands a fn f q s.draw.2 := h.frame rfl rfl
  unfold State.abandonLanes
  dsimp only
  refine ContextStands.frame (ContextStands.ite ?_ hd) rfl rfl
  split
  · exact hd.frame rfl rfl
  · exact hd

theorem ContextStands.abortRegion (h : ContextStands a fn f q s) : ∃ q', ContextStands a fn f q' s.abortRegion := by
  unfold State.abortRegion
  split
  · exact ⟨q, h⟩
  · extract_lets _ t u
    have ht : ContextStands a fn f q t := h.abandonLanes.chargeCommands
    have hu : ContextStands a fn f q u :=
      foldl_keeps ht fun _ _ hs => foldl_keeps hs fun _ _ hv => hv.frame rfl rfl
    refine ContextStands.releaseRegion (q := q) ?_
    exact hu.frame rfl rfl

theorem ContextStands.raiseFor {b pf vf : Nat} (h : ContextStands a fn f q s) :
    ContextStands a fn f q (s.raiseFor b pf vf) := by
  unfold State.raiseFor State.raise
  split
  · exact .ite h (h.frame rfl rfl)
  · exact .ite h (h.frame rfl rfl)
  · exact h

/-- A change of another context. -/
theorem ContextStands.mapCtx_other {b : Nat} {g : Context → Context} (h : ContextStands a fn f q s) (hb : b ≠ a)
    (ha : ∀ c, (g c).asid = c.asid) : ContextStands a fn f q (s.mapCtx b g) := by
  obtain ⟨⟨c, hc, hstands⟩, hq⟩ := h
  have hne : (c.asid == b) = false := by
    have hca : c.asid = a := by simpa using List.find?_some hc
    simpa [hca] using Ne.symm hb
  exact ⟨⟨c, by rw [ctx?_mapCtx ha, hc, Option.map_some, hne]; rfl, hstands⟩, hq⟩

theorem ContextStands.record_other {b : Nat} {r : FaultRecord} (h : ContextStands a fn f q s) (hb : b ≠ a) :
    ContextStands a fn f q (s.record b r) := by
  unfold State.record
  split
  · exact h
  · refine .ite (ContextStands.raiseFor ?_) ?_
    · exact h.mapCtx_other hb fun _ => rfl
    · exact h.mapCtx_other hb fun _ => rfl

/-- A context with no PREEMPT request to record changes in its state alone as it follows its harts. -/
theorem ContextStands.settleContext {b : Nat} (h : ContextStands a fn f q s) :
    ContextStands a fn f q (s.settleContext b) := by
  unfold State.settleContext
  split
  · exact h
  · next x hx =>
    dsimp only
    by_cases hb : b = a
    · obtain ⟨c, hc, -, -, hreq⟩ := h.ctx
      obtain rfl : x = c := Option.some.inj (hx.symm.trans (hb ▸ hc))
      have hmap (g : Context → CtxState) (r : Context → Bool) (l : Context → List FaultRecord)
          (hl : ∀ c, c.requests = [] → l c = []) :
          ContextStands a fn f q (s.mapCtx b (fun c => { c with state := g c, resume := r c, requests := l c })) :=
        h.mapCtx (fun _ => rfl) (fun _ => ⟨rfl, rfl⟩) hl
      simp only [hreq, List.foldl_nil]
      exact .ite h (.ite (hmap _ _ _ fun _ _ => rfl)
        (.ite (.ite (hmap _ _ _ fun _ _ => rfl) (hmap _ _ _ fun _ hr => hr)) h))
    · have hrec : ContextStands a fn f q (x.requests.foldl (fun s r => s.record b r) s) :=
        foldl_keeps h fun _ _ hs => hs.record_other hb
      exact .ite h (.ite (h.mapCtx_other hb fun _ => rfl)
        (.ite (.ite (hrec.mapCtx_other hb fun _ => rfl) (h.mapCtx_other hb fun _ => rfl)) h))

theorem ContextStands.settleQueue {n : Nat} (h : ContextStands a fn f q s) : ContextStands a fn f q (s.settleQueue n) :=
  .ite (h.frame rfl rfl) h

theorem ContextStands.settleArbiters (h : ContextStands a fn f q s) : ContextStands a fn f q s.settleArbiters :=
  h.frame rfl rfl

theorem ContextStands.freeHart (h : ContextStands a fn f q s) : ContextStands a fn f q s.freeHart := by
  unfold State.freeHart
  extract_lets x t u
  have hu : ContextStands a fn f q (u.freeGrants x.launch x.asid) := (h.owe (p := { asid := x.asid })).frame rfl rfl
  exact hu.settleContext.settleQueue.settleArbiters

/-! #### The hart in focus is halted, or its unit retired (R54, R270) -/

theorem ContextStands.haltHart (hs : s.hart.sc.barw = none) (hv : s.hart.ve.barw = none)
    (h : ContextStands a fn f q (s.mapHart stopSides).abortRegion) : ContextStands a fn f q s.haltHart := by
  unfold State.haltHart
  rw [stopBoth_none hs hv]
  refine ContextStands.settleArbiters ?_
  exact h.chargeCommands.owe.frame rfl rfl

theorem ContextStands.retireUnit (h : ContextStands a fn f q s.abortRegion) : ContextStands a fn f q s.retireUnit := by
  unfold State.retireUnit
  extract_lets _ t u
  have ht : ContextStands a fn f q t := foldl_keeps h.chargeCommands fun _ _ hs => hs.abortGroup
  have hu : ContextStands a fn f q u := ContextStands.freeHart (ht.frame rfl rfl)
  exact foldl_keeps hu fun _ _ hs => hs.settleGroup

/-- The first event since the record was cleared fills it. -/
theorem ContextStands.record {r : FaultRecord} (h : ContextStands a fn f q s) (h0 : f.count = 0) :
    ContextStands a fn { r with count := 1 } q (s.record a r) := by
  obtain ⟨⟨c, hc, hfn, hf, hreq⟩, hq⟩ := h
  have hca : c.asid = a := by simpa using List.find?_some hc
  unfold State.record
  rw [hc]
  simp only [hf, h0, if_true]
  refine ContextStands.raiseFor ⟨⟨{ c with fault := { r with count := 1 } }, ?_, hfn, rfl, hreq⟩, hq⟩
  refine (ctx?_mapCtx (g := fun c => { c with fault := { r with count := 1 } }) fun _ => rfl).trans ?_
  simp [hc, hca]

/-- No QUOTA event follows for a context of the PF, or of a VF with quota left. -/
theorem ContextStands.quotaCheckFor (h : ContextStands a fn f q s) (hq : HasQuota fn q) : s.quotaCheckFor a = s := by
  obtain ⟨⟨c, hc, rfl, -, -⟩, rfl⟩ := h
  have hfn : s.fnOf a = c.fn := by rw [State.fnOf, hc]; rfl
  unfold State.quotaCheckFor
  split
  · next vf hvf =>
    have hleft : 0 < s.left vf := by
      obtain hn | hq := hq
      · rw [hfn, hn] at hvf
        cases hvf
      · exact hq vf (hfn ▸ hvf)
    simp [State.quotaCheck, hleft]
  · rfl

/-- The abort of a region leaves the context with quota where it is the PF's, or there is no region. -/
theorem ContextStands.abortRegion_quota (h : ContextStands a fn f q s)
    (hq : fn = some none ∨ (s.hart.tl.region = none ∧ HasQuota fn q)) :
    ∃ q', ContextStands a fn f q' s.abortRegion ∧ HasQuota fn q' := by
  obtain hpf | ⟨hreg, hq⟩ := hq
  · obtain ⟨q', h'⟩ := h.abortRegion
    exact ⟨q', h', .inl hpf⟩
  · rw [abortRegion_none hreg]
    exact ⟨q, h, hq⟩

end

/-! ### The life of a hart that stops -/

@[simp] theorem applyWrite_life (h : Hart) (w : RegWrite) : (applyWrite h w).life = h.life := by
  unfold applyWrite
  cases w.reg <;> simp only [gWrite_life, hWrite_life] <;> split <;> simp

theorem commitEach_life (p : PendingWrite → Bool) (n : Nat) (h : Hart) : (commitEach p n h).life = h.life := by
  induction n generalizing h with
  | zero => rfl
  | succ n ih =>
    rw [commitEach]
    split
    · rfl
    · rw [ih, commitWrite, applyWrite_life]

theorem stopSides_life {h : Hart} (hs : h.sc.barw = none) (hv : h.ve.barw = none) : (stopSides h).life = h.life := by
  simp [stopSides, stopWaits, settleBarw_none hs hv]

theorem loseContents_life (h : Hart) (k : CmdKind) (t bits : Nat) : (loseContents h k t bits).life = h.life := by
  unfold loseContents
  split <;> rfl

theorem chargeCommands_hart (s : State) : s.chargeCommands.hart = s.hart := by
  refine foldl_keeps (P := fun t : State => t.hart = s.hart) rfl fun t c ht => ?_
  unfold State.chargeCommand State.chargeCycles
  split
  · exact ht
  · split
    · exact ht
    · split
      · rw [chargeTurn_hart, ht]
      · exact ht

theorem releaseRegion_life (s : State) : s.releaseRegion.hart.life = s.hart.life := by
  unfold State.releaseRegion State.credit
  split
  · rfl
  · dsimp only
    split <;> rfl

theorem abandonLanes_life (s : State) : s.abandonLanes.hart.life = s.hart.life := by
  unfold State.abandonLanes
  dsimp only
  rw [mapHart_hart]
  dsimp only
  split
  · split <;> rfl
  · rfl

theorem abortRegion_life (s : State) : s.abortRegion.hart.life = s.hart.life := by
  unfold State.abortRegion
  split
  · rfl
  · dsimp only
    rw [releaseRegion_life]
    simp only [mapHart_hart]
    rw [commitWrites, commitEach_life]
    refine foldl_keeps (P := fun t : State => t.hart.life = s.hart.life) ?_ fun _ _ hs => ?_
    · rw [chargeCommands_hart, abandonLanes_life]
    · refine foldl_keeps (P := fun t : State => t.hart.life = s.hart.life) hs fun t _ ht => ?_
      exact (loseContents_life _ _ _ _).trans ht

theorem haltHart_life {s : State} (hs : s.hart.sc.barw = none) (hv : s.hart.ve.barw = none) :
    s.haltHart.hart.life = s.hart.life.halt := by
  have hlife : (s.mapHart stopSides).abortRegion.chargeCommands.hart.life = s.hart.life := by
    rw [chargeCommands_hart, abortRegion_life, mapHart_hart, stopSides_life hs hv]
  unfold State.haltHart
  rw [stopBoth_none hs hv, owe_eq]
  exact congrArg Life.halt hlife

@[simp] theorem record_hart (s : State) (a : Nat) (r : FaultRecord) : (s.record a r).hart = s.hart := by
  unfold State.record State.raiseFor State.raise
  split
  · rfl
  · dsimp only
    split
    · split
      · split <;> rfl
      · split <;> rfl
      · rfl
    · rfl

@[simp] theorem settleContext_hart (s : State) (a : Nat) : (s.settleContext a).hart = s.hart := by
  have hrec (l : List FaultRecord) : (l.foldl (fun s r => s.record a r) s).hart = s.hart :=
    foldl_keeps (P := fun t : State => t.hart = s.hart) rfl fun t _ ht => by rw [record_hart, ht]
  unfold State.settleContext
  split
  · rfl
  · dsimp only
    split
    · rfl
    · split
      · rfl
      · split
        · split
          · exact hrec _
          · rfl
        · rfl

theorem freeHart_hart (s : State) : s.freeHart.hart = {} := by
  have hq (t : State) (n : Nat) : (t.settleQueue n).hart = t.hart := by
    unfold State.settleQueue
    split <;> rfl
  unfold State.freeHart
  exact (hq _ _).trans (settleContext_hart _ _)

theorem retireUnit_hart (s : State) : s.retireUnit.hart = {} := by
  unfold State.retireUnit
  refine foldl_keeps (P := fun t : State => t.hart = {}) (freeHart_hart _) fun t f ht => ?_
  unfold State.settleGroup
  dsimp only
  split <;> exact ht

/-! ### The supervisor (R75, R272) -/

theorem halted_halt {h : Hart} {l : Life} (hh : h.life = l.halt) (hl : l = .running ∨ l = .handler ∨ l = .ending) :
    h.halted = true := by
  obtain rfl | rfl | rfl := hl <;> simp [Hart.halted, hh, Life.halt]

theorem resident_iff {h : Hart} : h.resident = true ↔ h.life = .running ∨ h.life = .handler ∨ h.life = .ending := by
  simp [Hart.resident, or_assoc]

/-- A trap at level 1 halts the hart, and one without a handler retires its unit. -/
theorem takeTrap_supervisor {s : State} {t : Trap} {src : TrapSource} (hs : s.hart.sc.barw = none)
    (hv : s.hart.ve.barw = none) (hm : t.mark = none) (hr : t.report = none)
    (hwhy : s.hart.cs.hstat.hl = true ∨ s.hart.cs.htvec.toNat / 8 % 2 ^ 53 = 0) :
    let u : State := { s with issue := { s.issue with trapped := true } }
    let a := s.hart.asid
    let r := trapRecord s.hart t src false (qposOf s.hart)
    takeTrap s t src = if s.hart.cs.hstat.hl then ((u.haltHart.record a r).settleContext a).quotaCheckFor a
      else (u.retireUnit.record a r).quotaCheckFor a := by
  unfold takeTrap
  rw [noteWalk_none hm hr]
  simp only [settleBarw_none hs hv, Option.getD_none]
  split
  · rfl
  · next hl => rw [if_pos (by simpa [noHandler, hl] using hwhy)]

theorem hasQuota_of {s : State} {a : Nat} {c : Context} (hc : s.ctx? a = some c) (h : s.exhausted a = false) :
    HasQuota c.fn s.quota := by
  refine .inr fun vf hvf => ?_
  have hfn : s.fnOf a = some (some vf) := by rw [State.fnOf, hc]; exact hvf
  have hleft : ¬ s.left vf ≤ 0 := by simpa [State.exhausted, hfn] using h
  exact not_le.1 hleft

theorem unhandledTraps_goToTheSupervisor : unhandledTrapsGoToTheSupervisor := by
  intro s t src c hres hs hv hm hr hc hcount hreq hquota hwhy
  let u : State := { s with issue := { s.issue with trapped := true } }
  have hu : ContextStands s.hart.asid c.fn c.fault s.quota u := ⟨⟨c, hc, rfl, rfl, hreq⟩, rfl⟩
  have hstops : ContextStands s.hart.asid c.fn c.fault s.quota (u.mapHart stopSides) := hu.frame rfl rfl
  have hpays : c.fn = some none ∨ (s.hart.tl.region = none ∧ HasQuota c.fn s.quota) :=
    hquota.imp (fun h => by rwa [State.fnOf, hc] at h) (And.imp_right (hasQuota_of hc))
  have hregion : (stopSides s.hart).tl.region = s.hart.tl.region := by
    simp [stopSides, stopWaits, settleBarw_none hs hv]
  dsimp only
  rw [takeTrap_supervisor hs hv hm hr hwhy]
  split
  · next hl =>
    obtain ⟨q, hq, hpaid⟩ := hstops.abortRegion_quota (hregion ▸ hpays)
    have hend := ((ContextStands.haltHart (s := u) hs hv hq).record (r := trapRecord s.hart t src false (qposOf s.hart)) hcount).settleContext
      (b := s.hart.asid)
    rw [hend.quotaCheckFor hpaid]
    have hlife := haltHart_life (s := u) hs hv
    obtain ⟨c', hc', -, hf, -⟩ := hend.ctx
    refine ⟨fun _ => ?_, fun h => absurd (hl.symm.trans h) (by decide), c', hc', hf.trans ?_⟩
    · rw [settleContext_hart, record_hart]
      exact ⟨hlife, halted_halt hlife (resident_iff.1 hres)⟩
    · simp [trapRecord, epcOf, regAddr]
  · next hl =>
    obtain ⟨q, hq, hpaid⟩ := hu.abortRegion_quota hpays
    have hend := hq.retireUnit.record (r := trapRecord s.hart t src false (qposOf s.hart)) hcount
    rw [hend.quotaCheckFor hpaid]
    obtain ⟨c', hc', -, hf, -⟩ := hend.ctx
    refine ⟨fun h => absurd h hl, fun _ => ?_, c', hc', hf.trans ?_⟩
    · rw [record_hart, retireUnit_hart]
    · simp [trapRecord, epcOf, regAddr]

/-- Settles O19: delivery as one state, and what stands of the context while its hart stops. -/
theorem trapsGoToHandlerOrSupervisor : Obligations.TrapsGoToHandlerOrSupervisor :=
  ⟨traps_enterTheHandler, unhandledTraps_goToTheSupervisor⟩

end Sys2Proof.Machine
end

section
/-!
LAW. The events of a hart between its words (R54, R56, R71, R76, R344). Settles O50.
-/

namespace Sys2Proof.Machine

theorem focus_resident {s t : State} {p : Place} (h : s.focus p = some t) : t.hart.resident = true := by
  unfold State.focus State.focusBy at h
  split at h
  · next hp =>
    cases h
    exact (Bool.and_eq_true_iff.1 (Bool.and_eq_true_iff.1 hp).2).2
  · split at h
    · next x hx =>
      cases h
      exact (Bool.and_eq_true_iff.1 (List.find?_some (p := fun h : Hart => h.place == p && h.resident) hx)).2
    · cases h

/-! ### A block is taken (R56) -/

/-- The hart that has taken a block. -/
def blockTaken (h : Hart) (e : BlockEntry) (rest : List BlockEntry) : Hart :=
  let u := hWrite (hWrite (hWrite (hWrite h 0 e.arg0) 1 e.arg1) 2 e.arg2) 3 e.arg3
  { u with
    ve := { u.ve with lc := vset u.ve.lc 0 e.trip, pc := e.addr, block := some ⟨e.addr, e.seq⟩, blockQ := rest, loops := [] },
    cs := { u.cs with hrpc := regAddr 0 e.addr } }

theorem takeBlock_of {t : State} {e : BlockEntry} {rest : List BlockEntry} (hr : t.hart.resident = true)
    (hl : t.hart.cs.hstat.hl = false) (hb : t.hart.ve.block = none) (hq : t.hart.ve.blockQ = e :: rest) :
    takeBlock t = t.mapHart (fun h => blockTaken h e rest) := by
  unfold takeBlock
  dsimp only
  rw [if_neg (by simp [hr, hl, hb]), hq]
  rfl

theorem hRead_blockTaken (h : Hart) (e : BlockEntry) (rest : List BlockEntry) (r : Nat) : hRead (blockTaken h e rest) r =
    if r = 3 then e.arg3 else if r = 2 then e.arg2 else if r = 1 then e.arg1 else if r = 0 then e.arg0 else hRead h r := by
  rw [← hRead_hWrite _ 0 _ _ (by decide), ← hRead_hWrite _ 1 _ _ (by decide), ← hRead_hWrite _ 2 _ _ (by decide),
    ← hRead_hWrite _ 3 _ _ (by decide)]
  rfl

/-! ### An interrupt or an engine fault is delivered (R76, R344) -/

/-- The interrupt that stands so far, and another: the one of the lower code. -/
def lowerCode (a : Option Trap) (t : Trap) : Option Trap :=
  match a with
  | some x => if t.code < x.code then some t else a
  | none => some t

theorem dueInterrupt_eq (h : Hart) :
    dueInterrupt h = if h.cs.hstat.ie && !h.cs.hstat.hl then h.irqs.foldl lowerCode none else none := rfl

theorem lowerCode_lowest {x : Trap} {a : Option Trap} (ha : ∀ y, a = some y → y ≠ x → x.code < y.code) :
    lowerCode a x = some x := by
  cases a with
  | none => rfl
  | some y =>
    by_cases hy : y = x
    · simp [lowerCode, hy]
    · simp [lowerCode, ha y rfl hy]

theorem lowerCode_keeps {x t : Trap} (h : x.code < t.code) : lowerCode (some x) t = some x := by
  simp [lowerCode, BitVec.not_lt, BitVec.le_of_lt h]

theorem lowerCode_mem (a : Option Trap) (t : Trap) : lowerCode a t = some t ∨ lowerCode a t = a := by
  cases a with
  | none => exact .inl rfl
  | some y =>
    simp only [lowerCode]
    split
    · exact .inl rfl
    · exact .inr rfl

/-- The interrupt whose code is below that of every other is the one that a fold by the lower code finds. -/
theorem foldl_lowerCode {x : Trap} (l : List Trap) (a : Option Trap) (hlow : ∀ y ∈ l, y ≠ x → x.code < y.code)
    (ha : ∀ y, a = some y → y ≠ x → x.code < y.code) (hx : x ∈ l ∨ a = some x) : l.foldl lowerCode a = some x := by
  induction l generalizing a with
  | nil => simpa using hx
  | cons t l ih =>
    obtain ⟨ht, hl⟩ := List.forall_mem_cons.1 hlow
    refine ih _ hl (fun y hy hne => ?_) ?_
    · obtain h | h := lowerCode_mem a t
      · obtain rfl : t = y := Option.some.inj (h.symm.trans hy)
        exact ht hne
      · exact ha y (h.symm.trans hy) hne
    · by_cases hxt : t = x
      · exact .inr (hxt ▸ lowerCode_lowest (hxt ▸ ha))
      · obtain hx | rfl := hx
        · exact .inl ((List.mem_cons.1 hx).resolve_left (Ne.symm hxt))
        · exact .inr (lowerCode_keeps (ht hxt))

theorem lastFault_none {t : State} (h : ¬ (vectorDone t.hart = true ∧ t.hart.tl.faults ≠ [])) : lastFault t = none := by
  unfold lastFault
  split
  · next hd =>
    split
    · next hf => exact absurd ⟨hd, by simp [hf]⟩ h
    · rfl
  · rfl

section
variable {s t : State} {p : Place}

theorem exec_blockTake {e : BlockEntry} {rest : List BlockEntry} (hf : s.focus p = some t) (hfree : frozenOut t = false)
    (hl : t.hart.cs.hstat.hl = false) (hb : t.hart.ve.block = none) (hq : t.hart.ve.blockQ = e :: rest) :
    exec (.blockTake p) s = .next (t.mapHart (fun h => blockTaken h e rest)) := by
  change execBlockTake p s = _
  rw [execBlockTake, atPlace_of hf, hfree, takeBlock_of (focus_resident hf) hl hb hq]
  rfl

theorem exec_trapDelivery_interrupt {x : Trap} (hf : s.focus p = some t) (hfree : frozenOut t = false)
    (hd : dueInterrupt t.hart = some x) (hw : waitsHere t.hart = false)
    (hv : ¬ (vectorDone t.hart = true ∧ t.hart.tl.faults ≠ [])) :
    exec (.trapDelivery p) s = .next (takeTrap (t.mapHart (fun h => { h with irqs := h.irqs.erase x })) x .interrupt) := by
  change execTrapDelivery p s = _
  simp only [execTrapDelivery, atPlace_of hf, hfree, lastFault_none hv, hd, hw, Bool.false_eq_true, if_false]
  rfl

theorem exec_trapDelivery_fault {x : Trap} {at_ : Option Word} {rest : List (Trap × Option Word)} (hf : s.focus p = some t)
    (hfree : frozenOut t = false) (hv : vectorDone t.hart = true) (hq : t.hart.tl.faults = (x, at_) :: rest) :
    exec (.trapDelivery p) s = .next (takeTrap (t.mapHart (fun h => { h with tl := { h.tl with faults := rest } })) x .vector
      true (some t.hart.ve.lastPos)) := by
  change execTrapDelivery p s = _
  simp only [execTrapDelivery, atPlace_of hf, hfree, lastFault, hv, hq, Bool.false_eq_true, if_false, if_true]

/-! ### A WAIT times out (R71) -/

theorem waitsHere_of {w : WaitRec} {h : Hart} (hw : waitRecord h = some w) (hl : w.live = true) (ha : w.addr = h.sc.pc) :
    waitsHere h = true := by
  have hrec : (if h.cs.hstat.hl then h.sc.wait1 else h.sc.wait0) = some w := hw
  rw [waitsHere, hrec]
  simp [hl, ha]

/-- The reason of a WAIT that waits and whose deadline has come. -/
theorem waitReason_due {due : Nat} (h : due ≤ t.clock) : waitReason t (some due) true = some
    (let irq : Prop := t.hart.cs.hstat.ie = true ∧ t.hart.irqs ≠ []
     if due < t.clock then (if irq ∧ t.hart.irqAt ≤ due then 2 else 0)
     else if irq then 2 else if t.hart.ve.replies ≠ [] then 1 else 0) := by
  dsimp only
  by_cases hlt : due < t.clock
  · rw [if_pos hlt]
    split
    · next hi => exact waitReason_two hi.1 fun x hx => .inr ⟨rfl, Option.some.inj hx ▸ hi.2⟩
    · next hi => exact waitReason_zero (.inl ⟨hlt, fun hn => hi ⟨hn.1, hn.2.2⟩⟩)
  · have hnow : due = t.clock := le_antisymm h (not_lt.1 hlt)
    have hd : ∀ x, some due = some x → t.clock ≤ x := fun x hx => by rw [← Option.some.inj hx, hnow]
    rw [if_neg hlt]
    split
    · next hi => exact waitReason_two hi fun x hx => .inl (hd x hx)
    · next hi =>
      split
      · next hr => exact waitReason_one hi hr hd
      · next hr => exact waitReason_zero (.inr ⟨hnow, hi, not_not.1 hr⟩)

theorem exec_waitTimeout {w : WaitRec} {due : Nat} {r : Word} {d : BitVec 5} (hf : s.focus p = some t)
    (hfree : frozenOut t = false) (hw : waitRecord t.hart = some w) (hl : w.live = true) (ha : w.addr = t.hart.sc.pc)
    (hdue : w.deadline = some due) (hclk : due ≤ t.clock) (hd : w.d = d.toNat)
    (hr : waitReason t (some due) true = some r) : exec (.waitTimeout p) s =
      .next (gave (discardWait { t with issue := { side := .scalar, s := w.s } }) d r) := by
  change execWaitTimeout p s = _
  simp only [execWaitTimeout, atPlace_of hf, hfree, waitsHere_of hw hl ha, hw, hdue, hl, hr, hclk, if_true, Bool.not_true,
    Bool.or_self, Bool.false_eq_true, if_false, hd]
  rw [← setWaitRecord_none (by rfl)]
  rfl

end

/-- Settles O50: each event by what it does to the hart in focus. -/
theorem hartEventsTakeEffect : Obligations.HartEventsTakeEffect := by
  intro s t p hf hfree
  refine ⟨fun e rest hl hb hq => ⟨_, exec_blockTake hf hfree hl hb hq, ?_⟩, fun x hie hl hx hlow hw hv => ?_,
    fun x at_ rest hv hq => exec_trapDelivery_fault hf hfree hv hq, fun w due d hw hl ha hdue hclk hd _ _ _ =>
      ⟨_, exec_waitTimeout hf hfree hw hl ha hdue hclk hd (waitReason_due hclk), scalarResult_gave (by rfl) d _⟩⟩
  · simp only [mapHart_hart, hRead_blockTaken]
    refine ⟨rfl, rfl, rfl, rfl, rfl, fun r hr => ?_, ?_, rfl, rfl, rfl, rfl, ?_⟩
    · rw [if_neg (by omega), if_neg (by omega), if_neg (by omega), if_neg (by omega)]
    · exact vget_vset_same _ _ _ _ (by decide)
    · simp [blockTaken]
  · refine exec_trapDelivery_interrupt hf hfree ?_ hw hv
    rw [dueInterrupt_eq, if_pos (by simp [hie, hl])]
    exact foldl_lowerCode _ _ hlow nofun (.inl hx)

end Sys2Proof.Machine
end

section
/-!
LAW. The queues: their control bits, their bind records and the entries of their rings (R278 to R284).
-/

namespace Sys2Proof.Machine

/-! ### The state of a queue (R283) -/

theorem queueBusy_iff (s : State) (q : Nat) : queueBusy s q = true ↔ s.queueHarts q ≠ [] ∨
    ∃ l ∈ s.launches, l.queue = q ∧ l.taken = true ∧ l.placed < l.units := by
  simp [queueBusy, and_assoc]

/-- A queue's STATE with other control bits is what R283 gives for these bits. -/
theorem stateOfQueue_of {s u : State} {q : Nat} (hcores : u.cores = s.cores) (hharts : u.harts = s.harts)
    (hlaunches : u.launches = s.launches) (hstate : (u.queue q).state = (s.queue q).state) :
    stateOfQueue u q = queueStands s q (u.queue q).susp (u.queue q).drain := by
  have hbound : queueBound u q = queueBound s q := by rw [queueBound, hcores, queueBound]
  have hplaced : u.queueHarts q = s.queueHarts q := by rw [State.queueHarts, hharts, State.queueHarts]
  have hbusy : queueBusy u q = queueBusy s q := by rw [queueBusy, hplaced, hlaunches, queueBusy]
  unfold stateOfQueue queueStands
  dsimp only
  rw [hbound, hstate, hbusy, hplaced]
  refine if_congr (by simp) rfl (if_congr Iff.rfl rfl (if_congr Iff.rfl rfl ?_))
  cases (s.queue q).state with
  | empty | bound => rfl
  | running => exact if_congr (queueBusy_iff s q) rfl rfl
  | suspended | draining => exact if_congr (by simp) rfl rfl

/-- A queue with other control bits, settled: nothing else has changed. -/
theorem settled_controls (s : State) {q : Nat} (f : Queue → Queue) (hn : (f (s.queue q)).n = q)
    (hstate : (f (s.queue q)).state = (s.queue q).state) :
    ((s.mapQueue q f).settleState q).queue q = { f (s.queue q) with
      state := queueStands s q (f (s.queue q)).susp (f (s.queue q)).drain } := by
  have hq := queue_mapQueue_same s hn
  have hst := stateOfQueue_of (s := s) (u := s.mapQueue q f) rfl rfl rfl (by rw [hq]; exact hstate)
  rw [State.settleState, queue_mapQueue_same _ (by rw [hq]; exact hn), hst, hq]

theorem exec_qctlSusp_set {s : State} {q : Nat} (hq : q < 4096) (hr : s.hub.devrdy = true) (hx : (s.queue q).susp = false) :
    let u := (s.mapQueue q (fun x => { x with susp := true })).settleState q
    exec (.qctlSusp q true) s = .next (if (u.queue q).state = .suspended then preemptQueue u q else u) := by
  change execQctlSusp q true s = _
  rw [execQctlSusp, if_neg (by simp [queueCount, hq, hr, hx])]
  simp

/-- No hart of the queue stands, so that none of its launches is resumed. -/
theorem resumeQueue_noUnits {s : State} {q : Nat} (h : s.queueHarts q = []) : resumeQueue s q = .ok s := by
  refine if_neg ?_
  simp only [State.queueHarts, List.filter_eq_nil_iff, beq_iff_eq] at h
  simp only [State.hartsOf, List.any_filter, List.any_eq_true, Bool.and_eq_true, beq_iff_eq, not_exists, not_and]
  exact fun x hx _ _ => h x hx

theorem exec_qctlSusp_clear {s : State} {q : Nat} (hq : q < 4096) (hr : s.hub.devrdy = true) (hx : (s.queue q).susp = true)
    (hu : s.queueHarts q = []) :
    exec (.qctlSusp q false) s = .next ((s.mapQueue q (fun x => { x with susp := false })).settleState q) := by
  change execQctlSusp q false s = _
  rw [execQctlSusp, if_neg (by simp [queueCount, hq, hr, hx])]
  dsimp only
  rw [if_neg Bool.false_ne_true, resumeQueue_noUnits (by exact hu), orLater]

/-- A queue whose DRAIN has been written. -/
def drainWritten (b : Bool) (x : Queue) : Queue := { x with drain := b, dtail := if b then x.tail else x.dtail }

theorem exec_qctlDrain {s : State} {q : Nat} {b : Bool} (hq : q < 4096) (hr : s.hub.devrdy = true)
    (hx : (s.queue q).drain ≠ b) :
    exec (.qctlDrain q b) s = .next ((s.mapQueue q (drainWritten b)).settleState q) := by
  change execQctlDrain q b s = _
  rw [execQctlDrain, queueWrite_ready _ hq hr]
  exact congrArg Host.Outcome.next (if_neg (by simpa using hx))

@[simp] theorem raise_queues (s : State) (fn : Option Nat) (v : Nat) : (s.raise fn v).queues = s.queues := by
  unfold State.raise
  split <;> rfl

theorem queue_congr {s t : State} (h : t.queues = s.queues) (q : Nat) : t.queue q = s.queue q := by
  simp only [State.queue, h]

@[simp] theorem queue_raiseQueue (s : State) (p q : Nat) : (raiseQueue s p).queue q = s.queue q := by
  refine queue_congr ?_ q
  unfold raiseQueue
  split <;> exact raise_queues _ _ _

theorem exec_drainDone {s : State} {q : Nat} (hst : (s.queue q).state = .draining) (hh : (s.queue q).head = (s.queue q).dtail)
    (he : entriesEnded s q = true) : exec (.drainDone q) s =
      .next (raiseQueue (s.mapQueue q (fun x => { x with drain := false, ddone := true, state := .bound })) q) :=
  if_pos (by simp [hst, hh, he])

/-! ### Bind records (R284) -/

/-- The record that a value written describes. -/
def bindOf (n : Nat) (v : Word) : BindRecord :=
  ⟨n, v.getLsbD 12, v.extractLsb' 32 8, v.extractLsb' 30 2, v.setWidth 12⟩

/-- A core with record `b` in the place of the one of its number, and with the SPLIT of `b` where it takes it. -/
def bindWritten (b : BindRecord) (takes : Bool) (u : CoreUnit) : CoreUnit :=
  { u with
    split := if takes then b.split else u.split,
    active := if takes && u.split != b.split then fullLanes u.lanemap b.split else u.active,
    binds := b :: u.binds.filter (fun x => x.n != b.n) }

/-- A record that is written leaves its core with it, and but for it only the states of queues change. -/
theorem exec_bindRecordWrite {s : State} {core n : Nat} (v : Word) (hc : core < s.product.cores) (hn : n < 32) :
    ∃ t, exec (.bindRecordWrite core n v) s = .next t ∧ t.cores = (s.mapCore core (bindWritten (bindOf n v)
      ((bindOf n v).valid && (bindOf n v).weight != 0 && !coreOccupied s core))).cores := by
  change ∃ t, execBindRecordWrite core n v s = .next t ∧ _
  have hw : (v >>> 32).setWidth 8 = v.extractLsb' 32 8 := by ext; simp
  have hs : (v >>> 30).setWidth 2 = v.extractLsb' 30 2 := by ext; simp
  rw [execBindRecordWrite, if_neg (by simp [hc, hn]), hw, hs]
  refine ⟨_, rfl, foldl_keeps (P := fun t : State => t.cores = _) rfl fun t p ht => ?_⟩
  split <;> exact ht

theorem bindWritten_find (b : BindRecord) (takes : Bool) (u : CoreUnit) :
    (bindWritten b takes u).binds.find? (fun x => x.n == b.n) = some b :=
  List.find?_cons_of_pos (by simp)

theorem bindRecordWrite_effect {s : State} {core n : Nat} (v : Word) (hc : core < s.product.cores) (hn : n < 32) :
    ∃ t, exec (.bindRecordWrite core n v) s = .next t ∧
      (t.core core).binds.find? (fun b => b.n == n) = some (bindOf n v) ∧
      (t.core core).split = (if v.getLsbD 12 = true ∧ v.extractLsb' 32 8 ≠ 0 ∧ coreOccupied s core = false then
        v.extractLsb' 30 2 else (s.core core).split) ∧
      ∀ c, c ≠ core → t.core c = s.core c := by
  obtain ⟨t, ht, hcores⟩ := exec_bindRecordWrite v hc hn
  refine ⟨t, ht, ?_, ?_, fun c hne => ?_⟩
  · rw [core_congr hcores, core_mapCore_same s (core_core s core)]
    exact bindWritten_find (bindOf n v) _ _
  · rw [core_congr hcores, core_mapCore_same s (core_core s core)]
    exact if_congr (by simp [bindOf, and_assoc]) rfl rfl
  · rw [core_congr hcores, core_mapCore_other s (core_core s core) hne]

/-! ### Ring entries (R281, R282) -/

/-- A ring entry whose reserved bytes are zero. -/
def plainEntry (v : Nat) : Prop := v / 2 ^ 8 % 2 ^ 56 = 0 ∧ v / 2 ^ 128 = 0

theorem bytesAt_kind (v : Nat) : bytesAt v 0 1 = v % 256 := by simp [bytesAt]

theorem bytesAt_upper {v : Nat} (hv : v < 2 ^ 512) : bytesAt v 0x10 48 = v / 2 ^ 128 := by
  have hsum : 128 + 8 * 48 = 512 := rfl
  have hle : v / 2 ^ 128 < 2 ^ (8 * 48) := Nat.div_lt_of_lt_mul (by rwa [← pow_add, hsum])
  rw [bytesAt, show (256 : Nat) ^ 0x10 = 2 ^ 128 by norm_num, show 256 = 2 ^ 8 by norm_num, ← pow_mul]
  exact Nat.mod_eq_of_lt hle

theorem entry_reserved {v : Nat} (h : plainEntry v) : bytesAt v 1 7 = 0 ∧ bytesAt v 0x10 48 = 0 := by
  obtain ⟨hlow, hhigh⟩ := h
  constructor
  · exact hlow
  · rw [bytesAt, show (256 : Nat) ^ 0x10 = 2 ^ 128 by norm_num, hhigh, Nat.zero_mod]

theorem entry_refused {v : Nat} (hv : v < 2 ^ 512) (h : 2 < v % 256 ∨ ¬ plainEntry v) :
    2 < bytesAt v 0 1 ∨ bytesAt v 1 7 ≠ 0 ∨ bytesAt v 0x10 48 ≠ 0 := by
  rw [bytesAt_kind, bytesAt_upper hv]
  exact h.imp_right fun h => Decidable.not_and_iff_or_not.1 h

/-- A skipped entry sets ERR of its queue. -/
theorem skipEntry_err (s : State) (q : Nat) (t : Trap) : ((skipEntry s q t).queue q).err = true := by
  unfold skipEntry
  dsimp only
  rw [queue_raiseQueue, queue_mapQueue_same _ (queue_n _ q)]

section
variable {s u : State} {q v : Nat}

/-- Where a queue may take an entry and its device list is empty, the next ring entry is taken. -/
theorem exec_queueEntryTake_ring (hm : mayTake s q = true) (hd : (s.queue q).device = [])
    (hh : (s.queue q).head ≠ (if (s.queue q).state = .draining then (s.queue q).dtail else (s.queue q).tail)) :
    exec (.queueEntryTake q) s = orLater s (takeEntry s q) := by
  change execQueueEntryTake q s = _
  rw [execQueueEntryTake, if_neg (by simp [hm])]
  dsimp only
  rw [hd]
  refine if_neg ?_
  simpa using hh

variable (hread : hubRead s (s.queue q).asid ((s.queue q).base.toNat + 64 * ((s.queue q).head.toNat % 2 ^ (s.queue q).log2)) 64 =
  .ok (v, u))
include hread

theorem takeEntry_nothing (hk : v % 256 = 0) (hp : plainEntry v) :
    takeEntry s q = .ok (u.mapQueue q (fun y => { y with head := y.head + 1 })) := by
  obtain ⟨hlow, hhigh⟩ := entry_reserved hp
  unfold takeEntry
  dsimp only
  rw [hread]
  dsimp only
  rw [if_neg (by simp [bytesAt_kind, hk, hlow, hhigh]), if_pos (by rw [bytesAt_kind, hk])]

theorem takeEntry_record {t : State} (hk : v % 256 = 1 ∨ v % 256 = 2) (hp : plainEntry v)
    (hs : startRecord (u.mapQueue q (fun y => { y with head := y.head + 1 })) q (s.queue q).asid (v % 256)
      (BitVec.ofNat 64 (v / 2 ^ 64 % 2 ^ 64)) = .ok t) : takeEntry s q = .ok t := by
  obtain ⟨hlow, hhigh⟩ := entry_reserved hp
  have hat : bytesAt v 8 8 = v / 2 ^ 64 % 2 ^ 64 := rfl
  unfold takeEntry
  dsimp only
  rw [hread]
  dsimp only
  rw [if_neg (by rw [bytesAt_kind]; omega), if_neg (by rw [bytesAt_kind]; omega), bytesAt_kind, hat, hs]

theorem takeEntry_skipped (hv : v < 2 ^ 512) (h : 2 < v % 256 ∨ ¬ plainEntry v) :
    ∃ t, takeEntry s q = .ok t ∧ (t.queue q).err = true := by
  unfold takeEntry
  dsimp only
  rw [hread]
  dsimp only
  rw [if_pos (entry_refused hv h)]
  exact ⟨_, rfl, skipEntry_err _ q _⟩

end

/-- A launch of the device list is taken. -/
theorem takeRequest_launch {s u : State} {q : Nat} {r : DeviceReq} (hg : r.graph = false)
    (hc : chainCancelled (s.mapQueue q (fun y => { y with device := y.device.drop 1 })) (s.queue q).asid r.counter = .ok (false, u)) :
    takeRequest s q r = .ok { u with launches := u.launches.map (fun l =>
      if l.handle == r.counter && l.asid == (s.queue q).asid then { l with taken := true } else l) } := by
  unfold takeRequest
  dsimp only
  rw [hc]
  simp [hg]

theorem exec_queueEntryTake_device {s : State} {q : Nat} {r : DeviceReq} {rest : List DeviceReq} (hm : mayTake s q = true)
    (hd : (s.queue q).device = r :: rest) : exec (.queueEntryTake q) s = orLater s (takeRequest s q r) := by
  change execQueueEntryTake q s = _
  rw [execQueueEntryTake, if_neg (by simp [hm])]
  dsimp only
  rw [hd]

end Sys2Proof.Machine
end

section
/-!
LAW. The arbiters: deficits, the turn and its order, and the charge of a served request (R285, R286).
-/

namespace Sys2Proof.Machine

/-! ### Arbiters and deficits -/

theorem arbiter_arb (s : State) (x : Arb) : (arbiter s x).arb = x := by
  unfold arbiter
  cases h : s.arbiters.find? (·.arb == x) with
  | none => rfl
  | some a => simpa using List.find?_some h

theorem arbiter_setArbiter {s : State} {a : Arbiter} {x : Arb} (h : a.arb = x) : arbiter (setArbiter s a) x = a := by
  rw [arbiter, setArbiter, List.find?_cons_of_pos (by simpa using h), Option.getD_some]

/-- The deficit of a queue as set, and those of the others as before. -/
theorem deficitOf_setDeficit (a : Arbiter) (q : Nat) (d : Int) (y : Nat) :
    (a.setDeficit q d).deficitOf y = if y = q then d else a.deficitOf y := by
  unfold Arbiter.deficitOf Arbiter.setDeficit
  split
  · next h => simp [h]
  · next h => rw [List.find?_cons_of_neg (by simpa using Ne.symm h), find?_filter_ne _ h]

theorem chargeTurn_effect (s : State) (arb : Arb) (z c : Nat) :
    chargeTurn s arb z c = { s with arbiters := (chargeTurn s arb z c).arbiters } ∧
    (arbiter (chargeTurn s arb z c) arb).order = (arbiter s arb).order ∧
    ∀ y, (arbiter (chargeTurn s arb z c) arb).deficitOf y =
      if y = z ∧ z ∈ (arbiter s arb).order then (arbiter s arb).deficitOf y - c else (arbiter s arb).deficitOf y := by
  unfold chargeTurn
  dsimp only
  by_cases hz : z ∈ (arbiter s arb).order
  · have harb : ((arbiter s arb).setDeficit z ((arbiter s arb).deficitOf z - c)).arb = arb := arbiter_arb s arb
    rw [if_pos (by simpa using hz), arbiter_setArbiter harb]
    refine ⟨rfl, rfl, fun y => ?_⟩
    rw [deficitOf_setDeficit]
    by_cases hy : y = z
    · simp [hy, hz]
    · simp [hy]
  · rw [if_neg (by simpa using hz)]
    exact ⟨rfl, rfl, fun y => (if_neg fun h => hz h.2).symm⟩

/-! ### The turn (R286) -/

theorem mem_rotateTo (order : List Nat) (q z : Nat) : z ∈ rotateTo order q ↔ z ∈ order := by
  conv_rhs => rw [← List.takeWhile_append_dropWhile (p := (· != q)) (l := order)]
  rw [rotateTo, List.mem_append, List.mem_append, or_comm]

theorem head?_rotateTo {order : List Nat} {q : Nat} (h : q ∈ order) : (rotateTo order q).head? = some q := by
  induction order with
  | nil => cases h
  | cons a l ih =>
    by_cases ha : a = q
    · simp [rotateTo, ha]
    · have hl : rotateTo (a :: l) q = l.dropWhile (· != q) ++ (a :: l.takeWhile (· != q)) := by simp [rotateTo, ha]
      have hd : l.dropWhile (· != q) ≠ [] := by
        simpa using (List.mem_cons.1 h).resolve_left (Ne.symm ha)
      have := ih ((List.mem_cons.1 h).resolve_left (Ne.symm ha))
      rw [hl, List.head?_append_of_ne_nil _ hd]
      rwa [rotateTo, List.head?_append_of_ne_nil _ hd] at this

/-- A queue that gives the turn up with no ready request keeps no deficit above zero. -/
def givenUp (ready : List Nat) (a : Arbiter) (h : Nat) : Arbiter :=
  if !ready.contains h && decide (0 < a.deficitOf h) then a.setDeficit h 0 else a

theorem deficitOf_givenUp (ready : List Nat) (a : Arbiter) (h z : Nat) : (givenUp ready a h).deficitOf z =
    if z = h ∧ h ∉ ready ∧ 0 < a.deficitOf h then 0 else a.deficitOf z := by
  unfold givenUp
  by_cases hup : h ∉ ready ∧ 0 < a.deficitOf h
  · rw [if_pos (by simpa using hup), deficitOf_setDeficit]
    exact if_congr (by simp [hup]) rfl rfl
  · rw [if_neg (by simpa using hup), if_neg fun hz => hup hz.2]

@[simp] theorem givenUp_order (ready : List Nat) (a : Arbiter) (h : Nat) : (givenUp ready a h).order = a.order := by
  unfold givenUp
  split <;> rfl

@[simp] theorem givenUp_arb (ready : List Nat) (a : Arbiter) (h : Nat) : (givenUp ready a h).arb = a.arb := by
  unfold givenUp
  split <;> rfl

section
variable {s : State} {ready : List Nat} {a : Arbiter} {h : Nat} {rest : List Nat} (ho : a.order = h :: rest)
include ho

theorem passTurn_none (hn : (rest ++ [h]).find? ready.contains = none) : passTurn s ready a = givenUp ready a h := by
  unfold passTurn
  rw [ho]
  dsimp only
  rw [hn, ← givenUp]

theorem passTurn_some {n : Nat} (hn : (rest ++ [h]).find? ready.contains = some n) : passTurn s ready a =
    { givenUp ready a h with order := rotateTo a.order n }.setDeficit n
      ((givenUp ready a h).deficitOf n + quantum s a.arb n) := by
  unfold passTurn
  rw [ho]
  dsimp only
  rw [hn, ← givenUp, givenUp_order, givenUp_arb, ho]

end

theorem passTurn_keeps (s : State) (ready : List Nat) (a : Arbiter) :
    (passTurn s ready a).arb = a.arb ∧ ∀ z, z ∈ (passTurn s ready a).order ↔ z ∈ a.order := by
  cases ho : a.order with
  | nil => simp [passTurn, ho]
  | cons h rest =>
    cases hn : (rest ++ [h]).find? ready.contains with
    | none => simp [passTurn_none ho hn, ho]
    | some n =>
      rw [passTurn_some ho hn]
      exact ⟨givenUp_arb ready a h, fun z => by simp only [Arbiter.setDeficit, mem_rotateTo, ho]⟩

/-- Turns that pass change neither the arbiter nor the queues of its order. -/
theorem passTurns_keeps (s : State) (ready : List Nat) (fuel : Nat) (a : Arbiter) :
    (passTurns s ready fuel a).arb = a.arb ∧ ∀ z, z ∈ (passTurns s ready fuel a).order ↔ z ∈ a.order := by
  induction fuel generalizing a with
  | zero => exact ⟨rfl, fun z => Iff.rfl⟩
  | succ fuel ih =>
    unfold passTurns
    split
    · exact ⟨rfl, fun z => Iff.rfl⟩
    · obtain ⟨harb, hmem⟩ := ih (passTurn s ready a)
      obtain ⟨harb', hmem'⟩ := passTurn_keeps s ready a
      exact ⟨harb.trans harb', fun z => (hmem z).trans (hmem' z)⟩

theorem passTurns_holds {ready : List Nat} {a : Arbiter} (h : turnHolds a ready = true) (s : State) (fuel : Nat) :
    passTurns s ready fuel a = a := by
  cases fuel with
  | zero => rfl
  | succ fuel => exact if_pos h

theorem turnHolds_iff {ready : List Nat} {a : Arbiter} {h : Nat} (ho : a.order.head? = some h) :
    turnHolds a ready = true ↔ h ∈ ready ∧ 0 < a.deficitOf h := by
  obtain ⟨rest, ho⟩ := List.head?_eq_some_iff.1 ho
  simp [turnHolds, ho]

/-- There are turns to pass where a queue with a ready request stands. -/
theorem turnFuel_pos {ready : List Nat} {n : Nat} (hn : n ∈ ready) (s : State) (a : Arbiter) : 0 < turnFuel s ready a := by
  refine Nat.mul_pos (Nat.lt_of_lt_of_le ?_ (List.le_sum_of_mem (List.mem_map_of_mem hn))) (Nat.succ_pos _)
  exact Nat.succ_pos _

/-- The turn passes to the next queue with a ready request, and stays there where its quantum brings it above zero. -/
theorem turnOf_passed {s : State} {arb : Arb} {ready : List Nat} {h n : Nat} {rest : List Nat}
    (ho : (arbiter s arb).order = h :: rest) (hgive : h ∉ ready ∨ (arbiter s arb).deficitOf h ≤ 0)
    (hn : (rest ++ [h]).find? ready.contains = some n)
    (hgain : 0 < (givenUp ready (arbiter s arb) h).deficitOf n + quantum s arb n) :
    (turnOf s arb ready).order.head? = some n ∧ ∀ z, (turnOf s arb ready).deficitOf z =
      if z = n then (givenUp ready (arbiter s arb) h).deficitOf n + quantum s arb n
      else (givenUp ready (arbiter s arb) h).deficitOf z := by
  have hready : n ∈ ready := by simpa using List.find?_some hn
  have hmem : n ∈ (arbiter s arb).order := by
    have := List.mem_of_find?_eq_some hn
    rw [ho]
    simpa [or_comm] using this
  have hpass := passTurn_some (s := s) ho hn
  rw [arbiter_arb] at hpass
  have hhead : (passTurn s ready (arbiter s arb)).order.head? = some n := by
    rw [hpass]
    exact head?_rotateTo hmem
  have hdef (z : Nat) : (passTurn s ready (arbiter s arb)).deficitOf z =
      if z = n then (givenUp ready (arbiter s arb) h).deficitOf n + quantum s arb n
      else (givenUp ready (arbiter s arb) h).deficitOf z := by
    rw [hpass]
    exact deficitOf_setDeficit _ _ _ _
  have hstart : ¬ turnHolds (arbiter s arb) ready = true := by
    rw [turnHolds_iff (h := h) (by rw [ho]; rfl)]
    exact fun ⟨hin, hpos⟩ => hgive.elim (fun hout => hout hin) (fun hle => by omega)
  have hstop : turnHolds (passTurn s ready (arbiter s arb)) ready = true := by
    rw [turnHolds_iff hhead, hdef, if_pos rfl]
    exact ⟨hready, hgain⟩
  have hturn : turnOf s arb ready = passTurn s ready (arbiter s arb) := by
    unfold turnOf
    dsimp only
    obtain ⟨fuel, hfuel⟩ := Nat.exists_eq_succ_of_ne_zero (turnFuel_pos hready s (arbiter s arb)).ne'
    rw [hfuel, passTurns, if_neg hstart, passTurns_holds hstop]
  rw [hturn]
  exact ⟨hhead, hdef⟩

/-- The arbiter after its turn has been settled. -/
theorem arbiter_settleTurn (s : State) (arb : Arb) (ready : List Nat) :
    settleTurn s arb ready = { s with arbiters := (settleTurn s arb ready).arbiters } ∧
    arbiter (settleTurn s arb ready) arb = turnOf s arb ready := by
  have harb : (turnOf s arb ready).arb = arb := (passTurns_keeps _ _ _ _).1.trans (arbiter_arb s arb)
  unfold settleTurn
  split
  · next he =>
    refine ⟨rfl, (passTurns_holds ?_ s _).symm⟩
    simp [turnHolds, List.isEmpty_iff.1 he]
  · exact ⟨rfl, arbiter_setArbiter harb⟩

end Sys2Proof.Machine
end

section
/-!
LAW. Units and graphs: a unit's start state, the end of a unit, and the tokens of a graph (R54, R292 to R296). Settles O48.
-/

namespace Sys2Proof.Machine

/-! ### The start state of a unit (R55, R294) -/

theorem vget_replicate {α : Type} (n i : Nat) (x : α) : vget (Vector.replicate n x) i x = x := by
  rw [vget, Vector.toList_replicate, List.getD_eq_getElem?_getD, List.getElem?_replicate]
  split <;> rfl

theorem word_toNat (a : Word) : word a.toNat = a := by simp [word]

section
variable (s : State) (l : Launch) (u : Nat) (p : Place)

/-- The g registers that a unit starts with. -/
theorem gRead_startHart (r : Nat) : gRead (startHart s l u p) r =
    if r = 0 then 0 else if r = 5 then word (lanesOf l.split) else if r = 4 then l.handle else if r = 3 then word l.units
    else if r = 2 then word u else if r = 1 then l.args else 0 := by
  have hclear (h : Hart) (hg : h.sc.g = Vector.replicate 32 0) : gRead h r = 0 := by
    rw [gRead, hg, vget_replicate, ite_self]
  unfold startHart
  simp only [List.foldl_cons, List.foldl_nil]
  rw [gRead_gWrite _ 5 _ _ (by decide), gRead_gWrite _ 4 _ _ (by decide), gRead_gWrite _ 3 _ _ (by decide),
    gRead_gWrite _ 2 _ _ (by decide), gRead_gWrite _ 1 _ _ (by decide), hclear _ rfl]
  split
  · rfl
  · rfl

theorem startHart_unit : (startHart s l u p).place = p ∧ (startHart s l u p).life = .running ∧
    (startHart s l u p).asid = l.asid ∧ (startHart s l u p).launch = l.handle := by
  simp [startHart]

theorem startHart_controls : (startHart s l u p).sc.pc = l.code ∧ (startHart s l u p).sc.rstack = [exitEntry] ∧
    (startHart s l u p).cs.hstat = {} ∧ (startHart s l u p).cs.htvec = regAddr 2 l.handler := by
  simp [startHart, gWrite]

end

/-! ### Placement (R292, R293) -/

@[simp] theorem putLine_parked (s : State) (stack line : Nat) (data : Line) (mask : BitVec 128) :
    (s.putLine stack line data mask).parked = s.parked := by
  unfold State.putLine
  split <;> rfl

theorem guardWrite_parked (s : State) (stack a n : Nat) : OkAll (fun t => t.parked = s.parked) (s.guardWrite stack a n) := by
  unfold State.guardWrite
  refine .ite .error ?_
  split
  · exact .error
  · split
    · exact .ok rfl
    · split
      · exact .ok rfl
      · split
        · exact .ok rfl
        · exact .ite (.ok rfl) (.ite .error (.ok rfl))

@[simp] theorem writeBack_parked (s : State) (x : L1Line) : (s.writeBack x).parked = s.parked := by
  unfold State.writeBack
  split
  · rfl
  · dsimp only
    split
    · next t ht => rw [putLine_parked, guardWrite_parked s _ _ _ t ht]
    · rfl
    · rfl

@[simp] theorem l1Flush_parked (s : State) (p : L1Line → Bool) : (s.l1Flush p).parked = s.parked :=
  foldl_keeps (P := fun t : State => t.parked = s.parked) rfl fun t x ht => by rw [writeBack_parked, ht]

@[simp] theorem l2Flush_parked (s : State) (p : L2Line → Bool) : (s.l2Flush p).parked = s.parked :=
  foldl_keeps (P := fun t : State => t.parked = s.parked) rfl fun _ _ ht => ht

@[simp] theorem acquireLines_parked (s : State) (core scope : Nat) (p : Nat → Bool) :
    (acquireLines s core scope p).parked = s.parked := by
  unfold acquireLines
  dsimp only
  split
  · rw [l2Flush_parked]
    split
    · exact l1Flush_parked _ _
    · rfl
  · split
    · exact l1Flush_parked _ _
    · rfl

@[simp] theorem joinArbiters_parked (s : State) (p : Place) (q : Nat) : (joinArbiters s p q).parked = s.parked :=
  foldl_keeps (P := fun t : State => t.parked = s.parked) rfl fun _ _ ht => ht

@[simp] theorem mapQueue_parked (s : State) (q : Nat) (f : Queue → Queue) : (s.mapQueue q f).parked = s.parked := rfl

/-- A unit that is placed stands among the harts in its start state. -/
theorem placeUnit_parks (s : State) (l : Launch) (u : Nat) (p : Place) :
    ∃ v, startHart v l u p ∈ (placeUnit s l u p).parked := by
  refine ⟨makeGrants s l p.core, ?_⟩
  unfold placeUnit
  dsimp only
  rw [mapQueue_parked, joinArbiters_parked, wakeContext, mapCtx_parked, acquireLines_parked]
  exact List.mem_append_right _ (List.mem_singleton.2 rfl)

/-- Where the island of the core is ON, nothing is woken first. -/
theorem afterWake_on {s : State} {c : Nat} (h : (s.core c).island = .on) (t : State) : afterWake s t [c] = t :=
  if_pos (by simp [h])

theorem exec_unitPlace {s : State} {l : Launch} {at_ : Place}
    (hl : s.launches.find? (fun y => y.handle == l.handle && y.asid == l.asid && mayPlace s y) = some l) (hp : l.place = 0)
    (hc : choosePlace s l l.placed (fun _ => true) = some at_) (hi : (s.core at_.core).island = .on) :
    exec (.unitPlace l.asid l.handle.toNat at_) s = .next (placeUnit s l l.placed at_) := by
  have hw : word l.handle.toNat = l.handle := word_toNat _
  change execUnitPlace l.asid l.handle.toNat at_ s = _
  rw [execUnitPlace, hw, hl]
  dsimp only
  rw [if_pos hp, hc]
  dsimp only
  rw [if_pos rfl, afterWake_on hi]

/-- A single unit is placed with the registers R294 gives it. -/
theorem unitPlace_effect {s : State} {l : Launch} {at_ : Place}
    (hl : s.launches.find? (fun y => y.handle == l.handle && y.asid == l.asid && mayPlace s y) = some l) (hp : l.place = 0)
    (hc : choosePlace s l l.placed (fun _ => true) = some at_) (hi : (s.core at_.core).island = .on) :
    ∃ t h, exec (.unitPlace l.asid l.handle.toNat at_) s = .next t ∧ h ∈ t.parked ∧ h.place = at_ ∧ h.life = .running ∧
      h.asid = l.asid ∧ h.launch = l.handle ∧ h.sc.pc = l.code ∧ gRead h 1 = l.args ∧ gRead h 2 = BitVec.ofNat 64 l.placed ∧
      gRead h 3 = BitVec.ofNat 64 l.units ∧ gRead h 4 = l.handle ∧ gRead h 5 = BitVec.ofNat 64 (32 / 2 ^ l.split.toNat) ∧
      (∀ r, 6 ≤ r → r < 32 → gRead h r = 0) ∧ h.cs.hstat = {} ∧ h.sc.rstack = [exitEntry] ∧
      h.cs.htvec = l.handler &&& 0x00FFFFFFFFFFFFFC := by
  obtain ⟨v, hv⟩ := placeUnit_parks s l l.placed at_
  obtain ⟨hplace, hlife, hasid, hlaunch⟩ := startHart_unit v l l.placed at_
  obtain ⟨hpc, hstack, hstat, hvec⟩ := startHart_controls v l l.placed at_
  have hg := gRead_startHart v l l.placed at_
  refine ⟨_, _, exec_unitPlace hl hp hc hi, hv, hplace, hlife, hasid, hlaunch, hpc, hg 1, hg 2, hg 3, hg 4, hg 5,
    fun r hlow _ => ?_, hstat, hstack, hvec⟩
  rw [hg r, if_neg (by omega), if_neg (by omega), if_neg (by omega), if_neg (by omega), if_neg (by omega), if_neg (by omega)]

/-! ### The end of a unit (R54) -/

theorem releaseBinding_unbound {s : State} (h : s.hart.f = Vector.replicate 8 none) (i : Nat) : releaseBinding s i = s := by
  rw [releaseBinding, fabReg, h, vget_replicate]

/-- A hart that is Ending, has nothing left to do and holds no binding becomes Free, and its launch counts it. -/
theorem exec_hartFree {s t w : State} {at_ : Place} (hf : s.focus at_ = some t) (hm : mayFree t = true)
    (hr : frozenOut t = false) (hb : t.hart.f = Vector.replicate 8 none)
    (hw : unitEnded t.freeHart t.hart.asid t.hart.launch = .ok w) : exec (.hartFree at_) s = .next w := by
  have hkeep : (List.range 8).foldl releaseBinding t = t :=
    foldl_keeps (P := fun u : State => u = t) rfl fun u i hu => by rw [hu, releaseBinding_unbound hb]
  change execHartFree at_ s = _
  rw [execHartFree, hf]
  dsimp only
  rw [if_neg (by simp [hm, hr]), hkeep, hw, orLater]

/-! ### Graph nodes (R295, R296) -/

section
variable {s u w : State} {g : Graph} {k n v : Nat} {y : NodeFields}

/-- A token at a well-formed node does what the node says. -/
theorem exec_graphNode (hg : s.graphs.find? (fun z => z.counter == g.counter && z.asid == g.asid && z.taken) = some g)
    (ht : g.tokens[k]? = some n) (hr : hubRead s g.asid (g.array.toNat + 32 * n) 32 = .ok (v, u)) (hn : nodeFields v = some y)
    (hw : tokenAt u g k n y = .ok w) : exec (.graphNode g.asid g.counter.toNat k) s = .next w := by
  have hc : word g.counter.toNat = g.counter := word_toNat _
  change execGraphNode g.asid g.counter.toNat k s = _
  rw [execGraphNode, hc, hg]
  dsimp only
  rw [ht]
  dsimp only
  rw [hr]
  dsimp only [bind, Except.bind]
  rw [hn]
  dsimp only
  rw [hw]
  dsimp only [orLater]

/-- A token at a condition node goes to the successor that the condition word chooses. -/
theorem tokenAt_condition {c : Nat} (hk : y.kind = 2) (hc : nodeWord u g.asid y.arg (fun v => v) = .ok (c, w))
    (hs : successorOk g.nodes (if c = 0 then y.alt else y.next) = true) :
    tokenAt u g k n y = .ok (moveToken w g k [if c = 0 then y.alt else y.next]) := by
  unfold tokenAt
  rw [hk]
  dsimp only
  rw [hc]
  exact if_pos (by simp [hs])

end

/-- Settles O48: one lemma for each event above, put together. -/
theorem queueEventsTakeEffect : Obligations.QueueEventsTakeEffect := by
  unfold Obligations.QueueEventsTakeEffect
  intro s q
  refine ⟨fun hq hr => ⟨fun hx => ?_, fun hu hx => ?_⟩, fun b hq hr hx => ?_, fun hst hh he => ?_,
    fun core n v hc hn => bindRecordWrite_effect v hc hn, fun hm hd hh v u hread => ⟨fun hk hp => ?_, fun t hk hp _ hs => ?_,
    fun hv hk => ?_⟩, fun r rest u hm hd hg hc => ?_, fun l at_ hl hp hc hi => unitPlace_effect hl hp hc hi,
    fun at_ t w hf hm hz hb hw => ⟨exec_hartFree hf hm hz hb hw, by rw [freeHart_hart]⟩,
    fun g k n v u y hg ht hr hn => ⟨fun w hw => exec_graphNode hg ht hr hn hw, fun c w hk hc hs =>
      exec_graphNode hg ht hr hn (tokenAt_condition hk hc hs)⟩,
    fun arb => ?_, fun arb z c => chargeTurn_effect s arb z c, fun n => rfl⟩
  · exact ⟨_, rfl, settled_controls s _ (queue_n s q) rfl, exec_qctlSusp_set hq hr hx⟩
  · exact ⟨_, exec_qctlSusp_clear hq hr hx hu, rfl, settled_controls s _ (queue_n s q) rfl⟩
  · exact ⟨_, exec_qctlDrain hq hr hx, settled_controls s (drainWritten b) (queue_n s q) rfl⟩
  · refine ⟨_, exec_drainDone hst hh he, ?_⟩
    rw [queue_raiseQueue, queue_mapQueue_same s (queue_n s q)]
  · rw [exec_queueEntryTake_ring hm hd hh, takeEntry_nothing hread hk hp, orLater]
  · rw [exec_queueEntryTake_ring hm hd hh, takeEntry_record hread hk hp hs, orLater]
  · obtain ⟨t, ht, herr⟩ := takeEntry_skipped hread hv hk
    exact ⟨t, by rw [exec_queueEntryTake_ring hm hd hh, ht, orLater], herr⟩
  · rw [exec_queueEntryTake_device hm hd, takeRequest_launch hg hc, orLater]
  · obtain ⟨hframe, harb⟩ := arbiter_settleTurn s arb (readyQueues s arb)
    refine ⟨settleTurn s arb (readyQueues s arb), rfl, hframe, ?_⟩
    dsimp only
    rw [harb]
    refine ⟨(passTurns_keeps _ _ _ _).2, fun h rest ho hin hpos => ?_, fun h rest n ho hgive hn hgain => ?_⟩
    · rw [turnOf, passTurns_holds ((turnHolds_iff (by rw [ho]; rfl)).2 ⟨hin, hpos⟩)]
      exact ⟨rfl, fun z => rfl⟩
    · simp only [← deficitOf_givenUp] at hgain ⊢
      exact turnOf_passed ho hgive hn hgain

end Sys2Proof.Machine
end

section
/-!
LAW. Held writes, the host's accesses at the home of a line, and lines that errors strike (R80, R129, R137, R238, R240,
R241, R328, R329, R332, R343). Settles O54.
-/

namespace Sys2Proof.Machine

/-! ### The bytes of a number (R3) -/

theorem byteAt_div (i k v : Nat) : byteAt i (v / 256 ^ k) = byteAt (k + i) v := by
  rw [byteAt, byteAt, Nat.div_div_eq_div_mul, pow_add]

theorem byteAt_mul (i k v : Nat) : byteAt (k + i) (v * 256 ^ k) = byteAt i v := by
  rw [← byteAt_div, Nat.mul_div_cancel _ (by positivity)]

/-- A digit that a carry from above does not reach. -/
theorem byteAt_add_mul {i n : Nat} (hi : i < n) (v y : Nat) : byteAt i (v + y * 256 ^ n) = byteAt i v := by
  obtain ⟨k, rfl⟩ := Nat.exists_eq_add_of_lt hi
  have hsplit : v + y * 256 ^ (i + k + 1) = v + 256 ^ i * (256 * (y * 256 ^ k)) := by ring
  rw [byteAt, byteAt, hsplit, Nat.add_mul_div_left _ _ (by positivity)]
  apply BitVec.eq_of_toNat_eq
  simp

theorem byteAt_mod {i n : Nat} (hi : i < n) (v : Nat) : byteAt i (v % 256 ^ n) = byteAt i v := by
  conv_rhs => rw [← Nat.mod_add_div v (256 ^ n), Nat.mul_comm (256 ^ n), byteAt_add_mul hi]

/-- The bytes of a value are those it was made of. -/
theorem byteAt_bytesValue (l : List Byte) (i : Nat) (hi : i < l.length) : byteAt i (bytesValue l) = l[i] := by
  induction l generalizing i with
  | nil => cases hi
  | cons b l ih =>
    have hcons : bytesValue (b :: l) = b.toNat + bytesValue l * 256 ^ 1 := by
      rw [pow_one, Nat.mul_comm]
      rfl
    cases i with
    | zero =>
      rw [hcons, byteAt_add_mul Nat.one_pos, byteAt, pow_zero, Nat.div_one, BitVec.ofNat_toNat, BitVec.setWidth_eq]
      rfl
    | succ i =>
      have hrest : (b.toNat + bytesValue l * 256 ^ 1) / 256 ^ 1 = bytesValue l := by
        have := b.isLt
        omega
      calc byteAt (i + 1) (bytesValue (b :: l)) = byteAt i (bytesValue l) := by
            rw [hcons, Nat.add_comm i, ← byteAt_div, hrest]
        _ = (b :: l)[i + 1] := ih i (Nat.lt_of_succ_lt_succ hi)

theorem memRead_lt (m : Memory) (a n : Nat) : memRead m a n < 256 ^ n := by
  induction n with
  | zero => exact Nat.one_pos
  | succ n ih =>
    have hb : (memByte m (a + n)).toNat * 256 ^ n ≤ 255 * 256 ^ n :=
      Nat.mul_le_mul_right _ (Nat.le_of_lt_succ (memByte m (a + n)).isLt)
    rw [memRead, pow_succ]
    omega

/-- The bytes of a run are those of memory. -/
theorem byteAt_memRead (m : Memory) (a : Nat) {i n : Nat} (hi : i < n) : byteAt i (memRead m a n) = memByte m (a + i) := by
  induction n with
  | zero => cases hi
  | succ n ih =>
    rw [memRead]
    rcases Nat.lt_succ_iff_lt_or_eq.1 hi with hlt | rfl
    · rw [byteAt_add_mul hlt, ih hlt]
    · rw [byteAt, Nat.add_mul_div_right _ _ (by positivity), Nat.div_eq_of_lt (memRead_lt m a i), Nat.zero_add,
        BitVec.ofNat_toNat, BitVec.setWidth_eq]

/-! ### The bytes of a line (R13) -/

theorem lineOf_offset (a : Nat) : 128 * lineOf a + a % 128 = a := Nat.div_add_mod a 128

theorem getLsbD_byteMask {off n i : Nat} (hi : i < n) (hn : off + n ≤ 128) : (byteMask off n).getLsbD (off + i) = true := by
  rw [byteMask, BitVec.getLsbD_ofNat, Nat.testBit_mul_two_pow, Nat.add_sub_cancel_left, Nat.testBit_two_pow_sub_one]
  simp only [Bool.and_eq_true, decide_eq_true_eq]
  omega

theorem byteAt_toNat_ofNat {i n : Nat} (hi : i < n) (v : Nat) : byteAt i (BitVec.ofNat (8 * n) v).toNat = byteAt i v := by
  rw [BitVec.toNat_ofNat, pow_mul]
  exact byteAt_mod hi v

theorem byteAt_toNat_line {i : Nat} (hi : i < 128) (v : Nat) : byteAt i (BitVec.ofNat 1024 v).toNat = byteAt i v :=
  byteAt_toNat_ofNat hi v

theorem extractLsb'_line {i : Nat} (hi : i < 128) (v : Nat) : (BitVec.ofNat 1024 v).extractLsb' (8 * i) 8 = byteAt i v := by
  have hat : (2 : Nat) ^ (8 * i) = 256 ^ i := pow_mul 2 8 i
  rw [← byteAt_toNat_line hi, BitVec.extractLsb', Nat.shiftRight_eq_div_pow, hat, byteAt]

/-- Bytes that are to be written from a location on, where they stand in its line. -/
def dataAt (a : Nat) (bytes : List Byte) : Line := BitVec.ofNat 1024 (bytesValue bytes * 256 ^ (a % 128))

theorem extractLsb'_dataAt {bytes : List Byte} {a : Nat} (hn : a % 128 + bytes.length ≤ 128) (i : Nat)
    (h : i < bytes.length) : (dataAt a bytes).extractLsb' (8 * (a % 128 + i)) 8 = bytes[i] := by
  rw [dataAt, extractLsb'_line (by omega), byteAt_mul, byteAt_bytesValue _ _ h]

theorem byteAt_lineBytes (m : Memory) (line : Nat) {off n i : Nat} (hi : i < n) (hn : off + n ≤ 128) :
    byteAt i (lineBytes (memLine m line) off n) = memByte m (128 * line + off + i) := by
  rw [lineBytes, byteAt_mod hi, byteAt_div, memLine, byteAt_toNat_line (by omega), byteAt_memRead _ _ (by omega),
    Nat.add_assoc]

/-- A byte after some of the first `n` bytes from `a` on have been set. -/
theorem memByte_foldl_memSet {m : Memory} (h : m.wf = true) (a : Nat) (p : Nat → Bool) (x : Nat → Byte) (i n : Nat) :
    memByte ((List.range n).foldl (fun acc k => if p k then memSet acc (a + k) (x k) else acc) m) (a + i) =
      if i < n ∧ p i = true then x i else memByte m (a + i) := by
  induction n with
  | zero => rw [List.range_zero, List.foldl_nil, if_neg (by omega)]
  | succ n ih =>
    have hwf : Memory.wf ((List.range n).foldl (fun acc k => if p k then memSet acc (a + k) (x k) else acc) m) = true :=
      wf_foldl _ (fun u k hu => by
        split
        · exact wf_memSet hu _ _
        · exact hu) _ m h
    rw [List.range_succ, List.foldl_append, List.foldl_cons, List.foldl_nil]
    cases hp : p n with
    | false =>
      have hne : p i = true → i ≠ n := by
        rintro hi rfl
        simp [hp] at hi
      rw [if_neg Bool.false_ne_true, ih]
      exact if_congr (and_congr_left fun hi => by have := hne hi; omega) rfl rfl
    | true =>
      rw [if_pos rfl, memByte_memSet hwf, ih]
      by_cases hi : i = n
      · subst hi
        rw [if_pos rfl, if_pos ⟨Nat.lt_succ_self i, hp⟩]
      · rw [if_neg (by omega)]
        exact if_congr (by rw [Nat.lt_succ_iff_lt_or_eq, or_iff_left hi]) rfl rfl

/-- A line written under a mask reads as the data there, and elsewhere as before. -/
theorem memByte_memPutLine {m : Memory} (h : m.wf = true) (line : Nat) (data : Line) (mask : BitVec 128) {i : Nat}
    (hi : i < 128) : memByte (memPutLine m line data mask) (128 * line + i) =
      if mask.getLsbD i = true then data.extractLsb' (8 * i) 8 else memByte m (128 * line + i) :=
  (memByte_foldl_memSet h (128 * line) (fun k => mask.getLsbD k) (fun k => data.extractLsb' (8 * k) 8) i 128).trans
    (if_congr (and_iff_right hi) rfl rfl)

/-! ### Held writes (R238, R240, R241) -/

section
variable {s : State} {asid k : Nat} {c : Context} {w : HeldWrite}

/-- A held write taken from the list of its context. -/
def withoutHeld (asid k : Nat) (s : State) : State := s.mapCtx asid (fun c => { c with held := c.held.eraseIdx k })

theorem exec_shadowHeldWrite_behind (hc : s.ctx? asid = some c) (hw : c.held[k]? = some w) (hb : heldBehind c k w = true) :
    exec (.shadowHeldWrite asid k) s = .next s := by
  change execShadowHeldWrite asid k s = _
  simp only [execShadowHeldWrite, hc, hw, hb, if_true]

theorem exec_shadowHeldWrite_ok {u : State} (hc : s.ctx? asid = some c) (hw : c.held[k]? = some w)
    (hb : heldBehind c k w = false) (hg : s.guardWrite w.stack (128 * w.line) 128 = .ok u) :
    exec (.shadowHeldWrite asid k) s = .next (performHeld (withoutHeld asid k (u.owe { asid := w.asid })) w) := by
  change execShadowHeldWrite asid k s = _
  simp only [execShadowHeldWrite, hc, hw, hb, hg, Bool.false_eq_true, if_false, withoutHeld]

theorem exec_shadowHeldWrite_shadow {x : Nat} (hc : s.ctx? asid = some c) (hw : c.held[k]? = some w)
    (hb : heldBehind c k w = false) (hg : s.guardWrite w.stack (128 * w.line) 128 = .error (.shadow x)) :
    exec (.shadowHeldWrite asid k) s = .next s := by
  change execShadowHeldWrite asid k s = _
  simp only [execShadowHeldWrite, hc, hw, hb, hg, Bool.false_eq_true, if_false]

theorem exec_shadowHeldWrite_protect {x : Option (Nat × Nat)} (hc : s.ctx? asid = some c) (hw : c.held[k]? = some w)
    (hb : heldBehind c k w = false) (hg : s.guardWrite w.stack (128 * w.line) 128 = .error (.protect x)) :
    exec (.shadowHeldWrite asid k) s = .next (dropHeld (withoutHeld asid k s) w x) := by
  change execShadowHeldWrite asid k s = _
  simp only [execShadowHeldWrite, hc, hw, hb, hg, Bool.false_eq_true, if_false, withoutHeld]

/-- A held write of a core goes to the point of its stack. -/
theorem performHeld_core {n : Nat} (hb : w.bank = none) (hn : w.core = some n) :
    performHeld s w = (s.putLine (n / 64) w.line w.data w.dirty).clearPoison w.line w.dirty := by
  simp only [performHeld, hb, hn]

/-- A held write of the host or of a peer goes to the home, and D is set. -/
theorem performHeld_outside (hb : w.bank = none) (hn : w.core = none) :
    performHeld s w = (markWritten (putHome s w.line w.data w.dirty) w.leafAt).clearPoison w.line w.dirty := by
  simp only [performHeld, hb, hn]

/-- A held element of a bank request is performed, and settled at the hart that made it. -/
theorem performHeld_item {who : Option Nat} {i : BankItem} (hb : w.bank = some (who, i)) :
    let r := performItem (markWritten s w.leafAt) who w.stack { i with loc := 128 * w.line + i.loc % 128 }
    performHeld s w = who.elim r.2 (fun uid => settleItem r.2 uid i r.1) := by
  simp only [performHeld, hb]

/-- A write of a core that meets a pool's extent is discarded. -/
theorem dropHeld_core {n : Nat} {x : Option (Nat × Nat)} (hb : w.bank = none) (hn : w.core = some n) :
    dropHeld s w x = s := by
  simp only [dropHeld, hb, hn]

/-- One of the host or of a peer that meets a sealed store is discarded. -/
theorem dropHeld_unowned (hb : w.bank = none) : dropHeld s w none = s := by
  unfold dropHeld
  rw [hb]
  cases w.core <;> rfl

/-- One of the host or of a peer that meets a pool's extent is recorded of the extent's owner. -/
theorem dropHeld_outside {owner va : Nat} (hb : w.bank = none) (hn : w.core = none) :
    dropHeld s w (some (owner, va)) = s.record owner { cause := { sub := 1, code := causeProtect }, tval := word va } := by
  simp only [dropHeld, hb, hn]

/-- A restoration that is over leaves PEND. -/
theorem ctx?_lazyRestored (r : Nat) (hc : s.ctx? asid = some c) :
    (s.mapCtx asid (fun c => { c with pend := c.pend.filter (· != r) })).ctx? asid =
      some { c with pend := c.pend.filter (· != r) } := by
  have ha : (c.asid == asid) = true := by simpa using List.find?_some hc
  rw [ctx?_mapCtx (g := fun c => { c with pend := c.pend.filter (· != r) }) (fun _ => rfl), hc, Option.map_some, if_pos ha]

end

/-! ### Accesses of the host (R137, R328, R343) -/

section
variable {s : State} {fn : Option Nat} {asid va n : Nat} {k : AccessKind}
  {f : State → Nat → Located → Nat → Nat → List Byte × State}

/-- Bytes of one line are one piece. -/
theorem piecesFor_line (hn : 0 < n) (hline : va % 128 + n ≤ 128) : piecesFor va n = [(va, 0, n)] := by
  have hmin : min n (128 - va % 128) = n := by omega
  rw [piecesFor, linePieces, if_neg (by omega)]
  dsimp only
  rw [hmin, Nat.sub_self]
  cases n / 128 + 1 <;> rfl

/-- Before DEVRDY, and beyond the end of the aperture, nothing is accessed. -/
theorem hostAccess_outside (h : s.hub.devrdy = false ∨ 2 ^ 48 < va + n) :
    hostAccess s fn k va n f = .ok (List.replicate n 0xFF, s) := by
  rw [hostAccess, if_pos (by simpa using h)]

/-- An access of bytes of one line, through the aperture, is one piece. -/
theorem hostAccess_line (hrdy : s.hub.devrdy = true) (hn : 0 < n) (hline : va % 128 + n ≤ 128) (hend : va + n ≤ 2 ^ 48) :
    hostAccess s fn k va n f = hostPieces s (apertureOf s fn) k f [(va, 0, n)] := by
  rw [hostAccess, if_neg (by simpa [hrdy] using hend), piecesFor_line hn hline]

theorem hostPieces_unbound : hostPieces s none k f [(va, 0, n)] = .ok (List.replicate n 0xFF, s) := by
  simp only [hostPieces, bind, Except.bind, List.append_nil]

theorem hostPieces_located {l : Located} (hl : hostLocate s asid k va = .ok l) :
    hostPieces s (some asid) k f [(va, 0, n)] = .ok (f (s.owe { asid := asid }) asid l 0 n) := by
  simp only [hostPieces, hl, bind, Except.bind, List.append_nil]

theorem hostPieces_refused {x : Trap} (hx : hostLocate s asid k va = .error (.trap x)) :
    hostPieces s (some asid) k f [(va, 0, n)] = .ok (List.replicate n 0xFF, refuseHost s asid k x va) := by
  simp only [hostPieces, hx, bind, Except.bind, List.append_nil]

theorem exec_hostDmaRead {r : List Byte × State}
    (h : hostAccess s fn .read va n (fun s _ l _ n => hostGet s l n) = .ok r) :
    exec (.hostDmaRead fn va n) s = .next { r.2 with answer := .bytes r.1 } := by
  change execHostDmaRead fn va n s = _
  rw [execHostDmaRead, h]
  rfl

theorem exec_hostDmaWrite {bytes : List Byte} {r : List Byte × State}
    (h : hostAccess s fn .write va bytes.length
      (fun s asid l at_ n => ([], hostPut s asid l ((bytes.drop at_).take n))) = .ok r) :
    exec (.hostDmaWrite fn va bytes) s = .next r.2 := by
  change execHostDmaWrite fn va bytes s = _
  rw [execHostDmaWrite, h]
  rfl

end

/-! ### Bytes of one line at the home, for the host (R129, R223, R238, R241) -/

section
variable {u g : State} {l : Located} {bytes : List Byte} {asid : Nat}

/-- What is neither of a pool nor poisoned reads as it stands at the home once the page is marked. -/
theorem hostGet_home {n : Nat} (hn : l.loc % 128 + n ≤ 128)
    (hpool : (markAccess u l .read .other).poolOf (lineOf l.loc) = none)
    (hclean : (markAccess u l .read .other).poisoned (lineOf l.loc) = false) :
    hostGet u l n = ((List.range n).map (fun i => memByte (markAccess u l .read .other).mem (l.loc + i)),
      markAccess u l .read .other) := by
  have hbytes : ∀ i ∈ List.range n,
      BitVec.ofNat 8 (lineBytes (memLine (markAccess u l .read .other).mem (lineOf l.loc)) (l.loc % 128) n / 256 ^ i) =
        memByte (markAccess u l .read .other).mem (l.loc + i) := fun i hi =>
    (byteAt_lineBytes _ _ (List.mem_range.1 hi) hn).trans (by rw [lineOf_offset])
  simp only [hostGet, hpool, hclean, Option.isSome_none, Bool.or_self, Bool.false_eq_true, if_false]
  rw [List.map_congr_left hbytes]

theorem sameMemory_clearPoison (s : State) (line : Nat) (mask : BitVec 128) : SameMemory s (s.clearPoison line mask) :=
  (onlyPoison_clearPoison s line mask).sameCommand.2

/-- Bytes of one line written at its home for the host; a line written whole loses its poison. -/
def hostWritten (g : State) (a : Nat) (bytes : List Byte) : State :=
  (putHome g (lineOf a) (dataAt a bytes) (byteMask (a % 128) bytes.length)).clearPoison (lineOf a)
    (byteMask (a % 128) bytes.length)

/-- A write of the host that is held until its line has its shadow. -/
def hostHeld (asid : Nat) (l : Located) (bytes : List Byte) : HeldWrite :=
  { core := none, asid := asid, line := lineOf l.loc, data := dataAt l.loc bytes,
    dirty := byteMask (l.loc % 128) bytes.length, leafAt := l.leafAt }

theorem hostWritten_l1 (g : State) (a : Nat) (bytes : List Byte) : (hostWritten g a bytes).l1 = g.l1 :=
  (sameMemory_clearPoison (putHome g _ _ _) _ _).2.1

theorem memByte_hostWritten {a : Nat} (hn : a % 128 + bytes.length ≤ 128) (hwf : g.mem.wf = true) (i : Nat)
    (h : i < bytes.length) : memByte (hostWritten g a bytes).mem (a + i) = bytes[i] := by
  have hmem : (hostWritten g a bytes).mem =
      memPutLine g.mem (lineOf a) (dataAt a bytes) (byteMask (a % 128) bytes.length) :=
    (sameMemory_clearPoison (putHome g _ _ _) _ _).1
  have hloc : a + i = 128 * lineOf a + (a % 128 + i) := by rw [← Nat.add_assoc, lineOf_offset]
  rw [hmem, hloc, memByte_memPutLine hwf _ _ _ (by omega), if_pos (getLsbD_byteMask h hn), extractLsb'_dataAt hn i h]

/-- A write of the host that may be made is made at the home, and D is set. -/
theorem hostPut_home (hg : u.guardWrite hubStack l.loc bytes.length = .ok g) :
    hostPut u asid l bytes = markAccess (hostWritten g l.loc bytes) l .write .other := by
  simp only [hostPut, hg, hostWritten, dataAt]

/-- A write of the host to a line that waits for a shadow is held. -/
theorem hostPut_shadow {owner : Nat} (hg : u.guardWrite hubStack l.loc bytes.length = .error (.shadow owner)) :
    hostPut u asid l bytes = (markAccess u l .read .other).mapCtx owner
      (fun c => { c with held := c.held ++ [hostHeld asid l bytes] }) := by
  simp only [hostPut, hg, hostHeld, dataAt]

/-- A write of the host to a pool's extent is discarded, and recorded of the extent's owner. -/
theorem hostPut_protect {owner a : Nat}
    (hg : u.guardWrite hubStack l.loc bytes.length = .error (.protect (some (owner, a)))) :
    hostPut u asid l bytes = (markAccess u l .read .other).record owner
      { cause := { sub := 1, code := causeProtect }, tval := word a } := by
  simp only [hostPut, hg]

end

/-! ### Lines that errors strike (R80, R329, R332) -/

theorem raise_eq (s : State) (fn : Option Nat) (v : Nat) : s.raise fn v = { s with msix := (s.raise fn v).msix } := by
  unfold State.raise
  split <;> rfl

theorem mem_msix_raise_of_mem {s : State} {x : Option Nat × Nat} (fn : Option Nat) (v : Nat) (h : x ∈ s.msix) :
    x ∈ (s.raise fn v).msix := by
  unfold State.raise
  split
  · exact h
  · exact List.mem_append_left _ h

/-- An error in a line poisons it, and no other line. -/
theorem poisoned_poisonLine (s : State) (line l : Nat) :
    (poisonLine s line).poisoned l = true ↔ l = line ∨ s.poisoned l = true := by
  unfold poisonLine
  split
  · next h => exact ⟨.inr, fun hl => hl.elim (fun e => e ▸ h) id⟩
  · rw [raise_eq]
    simp [State.poisoned, or_assoc]

theorem mem_msix_poisonLine {s : State} {x : Option Nat × Nat} (line : Nat) (h : x ∈ s.msix) :
    x ∈ (poisonLine s line).msix := by
  unfold poisonLine
  split
  · exact h
  · exact mem_msix_raise_of_mem none 3 h

/-- Voxind logs a line that an error strikes and that was not poisoned. -/
theorem logged_poisonLine {s : State} {line : Nat} (h : s.poisoned line = false) : (none, 3) ∈ (poisonLine s line).msix := by
  rw [poisonLine, if_neg (by simp [h])]
  exact mem_msix_raise s none 3

theorem poisoned_foldl_poisonLine (bad : List Nat) (s : State) (l : Nat) :
    (bad.foldl poisonLine s).poisoned l = true ↔ l ∈ bad ∨ s.poisoned l = true := by
  induction bad generalizing s with
  | nil => simp
  | cons x bad ih =>
    rw [List.foldl_cons, ih, poisoned_poisonLine, List.mem_cons]
    tauto

theorem logged_foldl_poisonLine {bad : List Nat} {s : State} (h : ∃ l ∈ bad, s.poisoned l = false) :
    (none, 3) ∈ (bad.foldl poisonLine s).msix := by
  induction bad generalizing s with
  | nil => simp at h
  | cons x bad ih =>
    cases hx : s.poisoned x with
    | false =>
      rw [List.foldl_cons]
      exact foldl_keeps (P := fun t : State => ((none, 3) : Option Nat × Nat) ∈ t.msix) (logged_poisonLine hx)
        fun _ l => mem_msix_poisonLine l
    | true =>
      obtain ⟨l, hl, hclean⟩ := h
      have hne : l ≠ x := by
        rintro rfl
        simp [hx] at hclean
      refine ih ⟨l, (List.mem_cons.1 hl).resolve_left hne, ?_⟩
      rw [poisonLine, if_pos hx]
      exact hclean

theorem exec_scrub {s : State} {column : Nat} {bad : List Nat} (h : ∀ l ∈ bad, columnOf s.product (128 * l) = some column) :
    exec (.scrub column bad) s = .next (bad.foldl poisonLine s) := by
  change execScrub column bad s = _
  rw [execScrub, List.filter_eq_self.2 fun l hl => by simpa using h l hl]

/-- A line in an interval that is lost anew is poisoned, also one that had been written whole since an earlier loss. -/
theorem poisoned_lost {s : State} {x : Nat × Nat} {l : Nat} (hx : inFrame x l = true) :
    ({ s with lost := s.lost.filter (· != x) ++ [x], mended := s.mended.filter (fun l => !inFrame x l) } : State).poisoned l =
      true := by
  have hlost : inLines (s.lost.filter (· != x) ++ [x]) l = true := by
    rw [inLines, List.any_append, Bool.or_eq_true]
    exact .inr (by simpa [inFrame] using hx)
  have hmended : (s.mended.filter (fun l => !inFrame x l)).contains l = false := by simp [hx]
  rw [State.poisoned, hlost, hmended, Bool.not_false, Bool.and_self, Bool.or_true]

theorem exec_cxlRemoval {s : State} {port : Nat} (hhub : s.product.hasHub = true) (hp : port < 4) :
    ∃ t, exec (.cxlRemoval port) s = .next t ∧ (none, 3) ∈ t.msix ∧
      ∀ l, lineOf (farBase + port * 2 ^ 40) ≤ l → l < lineOf (farBase + port * 2 ^ 40) + 2 ^ 33 → t.poisoned l = true := by
  refine ⟨_, (if_neg ?_ : execCxlRemoval port s = _), mem_msix_raise s none 3, fun l hlo hhi =>
    poisoned_lost (s := s.raise none 3) (decide_eq_true ⟨hlo, hhi⟩)⟩
  simpa [hhub] using hp

/-- Settles O54: held writes by what the guard of their line answers, the host's accesses by their translation and then by
what they do to the bytes of the line, and errors by the lines they poison. -/
theorem hostAndErrorEventsTakeEffect : Obligations.HostAndErrorEventsTakeEffect := by
  unfold Obligations.HostAndErrorEventsTakeEffect
  intro s
  refine ⟨?heldWrites, ?restorations, ?hostAccesses, ?nothingAccessed, ?bytesOfLines, ?scrubs, ?removals⟩
  case heldWrites =>
    refine fun asid k c w hc hw => ⟨exec_shadowHeldWrite_behind hc hw, fun hb => ⟨fun u hg => ?_,
      fun x => exec_shadowHeldWrite_shadow hc hw hb, fun x hg hbank => ?_⟩⟩
    · rw [exec_shadowHeldWrite_ok hc hw hb hg]
      refine ⟨fun hbank => ?_, fun who i hbank => ?_⟩
      · cases hn : w.core with
        | none => exact congrArg _ (performHeld_outside hbank hn)
        | some n => exact congrArg _ (performHeld_core hbank hn)
      · rw [performHeld_item hbank]
        cases who <;> rfl
    · rw [exec_shadowHeldWrite_protect hc hw hb hg]
      cases hn : w.core with
      | some n => exact congrArg _ (dropHeld_core hbank hn)
      | none =>
        cases x with
        | none => exact congrArg _ (dropHeld_unowned hbank)
        | some x => exact congrArg _ (dropHeld_outside hbank hn)
  case restorations => exact fun asid r c hc => ⟨_, rfl, rfl, ctx?_lazyRestored r hc⟩
  case hostAccesses =>
    intro fn va bytes hrdy hne hline hend
    have access {k : AccessKind} {f : State → Nat → Located → Nat → Nat → List Byte × State} :
        hostAccess s fn k va bytes.length f = hostPieces s (apertureOf s fn) k f [(va, 0, bytes.length)] :=
      hostAccess_line hrdy (List.length_pos_iff.2 hne) hline hend
    refine ⟨fun asid hap => ?_, fun hap => ?_⟩
    · rw [hap] at access
      refine ⟨fun l hl => exec_hostDmaRead (access.trans (hostPieces_located hl)),
        fun l hl => (exec_hostDmaWrite (access.trans (hostPieces_located hl))).trans ?_,
        fun x hx => exec_hostDmaRead (access.trans (hostPieces_refused hx)),
        fun x hx => exec_hostDmaWrite (access.trans (hostPieces_refused hx))⟩
      rw [List.drop_zero, List.take_length]
    · rw [hap] at access
      exact ⟨exec_hostDmaRead (access.trans hostPieces_unbound), exec_hostDmaWrite (access.trans hostPieces_unbound)⟩
  case nothingAccessed =>
    exact fun fn va bytes h => ⟨exec_hostDmaRead (hostAccess_outside h), exec_hostDmaWrite (hostAccess_outside h)⟩
  case bytesOfLines =>
    refine fun u l => ⟨fun n => hostGet_home, fun asid bytes hn => ⟨fun g hwf hg hmem => ?_, fun owner hg => ?_,
      fun owner a => hostPut_protect⟩⟩
    · exact ⟨hostWritten g l.loc bytes, hostPut_home hg, hostWritten_l1 .., memByte_hostWritten hn (hmem ▸ hwf)⟩
    · exact ⟨hostHeld asid l bytes, hostPut_shadow hg, rfl, rfl, rfl, rfl, rfl, rfl, extractLsb'_dataAt hn⟩
  case scrubs =>
    refine fun column bad hcol => ⟨_, exec_scrub hcol, fun l hl => (poisoned_foldl_poisonLine bad s l).2 (.inl hl),
      fun l hl => ?_, logged_foldl_poisonLine⟩
    rw [Bool.eq_iff_iff, poisoned_foldl_poisonLine, or_iff_right hl]
  case removals => exact fun hhub port => exec_cxlRemoval hhub

end Sys2Proof.Machine
end

section
/-!
LAW. VFUN, LOG3 and VBIT2: the results bit by bit (R90, R91, R96). Settles O29.
-/

namespace Sys2Proof.Machine

/-! ### A number as the sum of its bits -/

theorem mod_two_pow_eq_sum (x w : Nat) :
    x % 2 ^ w = ((List.range w).map (fun j => if x.testBit j then 2 ^ j else 0)).sum := by
  induction w with
  | zero => simp [Nat.mod_one]
  | succ w ih =>
    rw [Nat.mod_pow_succ, ih, ← Nat.toNat_testBit, List.range_succ, List.map_append, List.sum_append]
    cases h : x.testBit w <;> simp [h]

theorem eq_sum_of_testBit {w x : Nat} {f : Nat → Bool} (h : ∀ j, x.testBit j = (decide (j < w) && f j)) :
    x = ((List.range w).map (fun j => if f j then 2 ^ j else 0)).sum := by
  have hx : x % 2 ^ w = x := Nat.mod_eq_of_lt (Nat.lt_pow_two_of_testBit x fun j hj => by simp [h, Nat.not_lt.2 hj])
  rw [← hx, mod_two_pow_eq_sum]
  exact congrArg List.sum (List.map_congr_left fun j hj => by simp [h, List.mem_range.1 hj])

/-! ### The funnel shifts (R90) -/

theorem testBit_concat {w y : Nat} (x j : Nat) (hy : y < 2 ^ w) :
    (x * 2 ^ w + y).testBit j = if j < w then y.testBit j else x.testBit (j - w) := by
  rw [Nat.mul_comm, Nat.testBit_two_pow_mul_add x hy]

theorem funnelLeft_eq {w k y : Nat} (x : Nat) (hk : k < w) (hy : y < 2 ^ w) :
    (x * 2 ^ w + y) * 2 ^ k / 2 ^ w % 2 ^ w = ((List.range w).map (fun j =>
      if (if k ≤ j then x.testBit (j - k) else y.testBit (w + j - k)) then 2 ^ j else 0)).sum := by
  refine eq_sum_of_testBit fun j => ?_
  have hle : k ≤ j + w := by omega
  rw [Nat.testBit_mod_two_pow, Nat.testBit_div_two_pow, Nat.testBit_mul_two_pow, testBit_concat _ _ hy]
  by_cases hj : k ≤ j
  · have hsub : j + w - k - w = j - k := by omega
    simp [hle, hj, hsub, show ¬ j + w - k < w by omega]
  · simp [hle, hj, Nat.add_comm w j, show j + w - k < w by omega]

theorem funnelRight_eq {w y : Nat} (x k : Nat) (hy : y < 2 ^ w) :
    (x * 2 ^ w + y) / 2 ^ k % 2 ^ w = ((List.range w).map (fun j =>
      if (if j + k < w then y.testBit (j + k) else x.testBit (j + k - w)) then 2 ^ j else 0)).sum := by
  refine eq_sum_of_testBit fun j => ?_
  rw [Nat.testBit_mod_two_pow, Nat.testBit_div_two_pow, testBit_concat _ _ hy]

theorem funnelWord_ended {s : State} {t : VType} (h : VectorIssuing s t) {d a b : BitVec 5} {k : BitVec 6}
    {f : Nat → Nat → Nat → Nat} {g : Nat → Nat} (hd : t.aligned d = true) (ha : t.aligned a = true)
    (hb : t.aligned b = true) (he : t.et.isInt = true) (hk : k.toNat < t.et.width)
    (hf : ∀ i, f t.et.width (source s t a i * 2 ^ t.et.width + source s t b i) k.toNat = g i) :
    Ended (funnelWord s d a b k f) (elementOp s t (t.dest s.hart d) 0 false (fun i => (g i, 0))) := by
  unfold funnelWord
  refine (h.vectorOp rfl (by simp [he, hk, hd, ha, hb]) h.issuing.elementOp).congr <|
    congrArg (elementOp s t _ 0 false) <| funext fun i => congrArg (·, 0) (hf i)

/-! ### LOG3 (R91) -/

/-- A union of the members of a list that a test takes, bit by bit. -/
theorem testBit_foldl_or (l : List Nat) (p : Nat → Bool) (g : Nat → Nat) (acc j : Nat) :
    (l.foldl (fun acc i => if p i then acc ||| g i else acc) acc).testBit j =
      (acc.testBit j || l.any (fun i => p i && (g i).testBit j)) := by
  induction l generalizing acc with
  | nil => simp
  | cons i l ih => cases h : p i <;> simp [ih, h, Bool.or_assoc]

/-- A source or its complement, as `b` says, agrees with `b` in the bits that it has set. -/
theorem testBit_pick {w x : Nat} (hx : x < 2 ^ w) (b : Bool) (j : Nat) :
    (if b then x else (2 ^ w - 1) ^^^ x).testBit j = (decide (j < w) && x.testBit j == b) := by
  by_cases hj : j < w
  · cases b <;> simp [hj, Nat.testBit_xor, Nat.testBit_two_pow_sub_one]
  · have hlow : x.testBit j = false :=
      Nat.testBit_lt_two_pow (hx.trans_le (Nat.pow_le_pow_right (by omega) (by omega)))
    cases b <;> simp [hj, hlow, Nat.testBit_xor, Nat.testBit_two_pow_sub_one]

/-- Of the eight rows of a table, that with the number of three bits is the one that agrees with them. -/
theorem any_rows (p : Nat → Bool) (x y z : Bool) :
    (List.range 8).any (fun i => p i && (x == (i / 4 % 2 == 1) && y == (i / 2 % 2 == 1) && z == (i % 2 == 1))) =
      p (4 * x.toNat + 2 * y.toNat + z.toNat) := by
  cases x <;> cases y <;> cases z <;> simp [List.range_succ]

theorem truthTable_eq (tt : BitVec 8) {w x y z : Nat} (hx : x < 2 ^ w) (hy : y < 2 ^ w) (hz : z < 2 ^ w) :
    truthTable tt.toNat w x y z = ((List.range w).map (fun j =>
      if tt.getLsbD (4 * (x.testBit j).toNat + 2 * (y.testBit j).toNat + (z.testBit j).toNat) then 2 ^ j else 0)).sum := by
  refine eq_sum_of_testBit fun j => ?_
  have hp (i : Nat) : (tt.toNat / 2 ^ i % 2 == 1) = tt.getLsbD i := by
    rw [BitVec.getLsbD, Nat.testBit_eq_decide_div_mod_eq, beq_eq_decide]
  rw [truthTable, testBit_foldl_or, Nat.zero_testBit, Bool.false_or, ← any_rows tt.getLsbD]
  simp only [Nat.testBit_and, testBit_pick hx, testBit_pick hy, testBit_pick hz, hp]
  by_cases hj : j < w <;> simp [hj]

theorem log3Word_ended {s : State} {t : VType} (h : VectorIssuing s t) {d a b : BitVec 5} {n : Nat} {tt : BitVec 8}
    (hd : t.aligned d = true) (ha : t.aligned a = true) (hb : t.aligned b = true) (hn : n = tt.toNat) :
    Ended (log3Word s d a b n) (elementOp s t (t.dest s.hart d) 0 false
      (fun i => (((List.range t.et.width).map (fun j => if tt.getLsbD (4 * ((source s t d i).testBit j).toNat +
        2 * ((source s t a i).testBit j).toNat + ((source s t b i).testBit j).toNat) then 2 ^ j else 0)).sum, 0))) := by
  subst hn
  unfold log3Word
  refine (h.vectorOp rfl (by simp [hd, ha, hb]) h.issuing.elementOp).congr <|
    congrArg (elementOp s t _ 0 false) <| funext fun i => congrArg (·, 0) (truthTable_eq tt ?_ ?_ ?_)
  all_goals exact elem_lt _ _ _

/-! ### VBIT2 (R96) -/

theorem popCount_eq_countP (w x : Nat) : popCount w x = (List.range w).countP (fun j => x.testBit j) := by
  rw [popCount_eq_length, List.countP_eq_length_filter]

theorem leadingZeros_eq_takeWhile {w x : Nat} (hx : x < 2 ^ w) :
    leadingZeros w x = ((List.range w).takeWhile (fun j => !x.testBit (w - 1 - j))).length := by
  unfold leadingZeros
  by_cases h0 : x = 0
  · simp [h0, List.takeWhile_eq_self_iff.2]
  · have hlog : x.log2 < w := (Nat.log2_lt h0).2 hx
    rw [if_neg (by simpa using h0)]
    refine (length_takeWhile_range (by omega) (fun i hi => ?_) ?_).symm
    · have hbig : x < 2 ^ (w - 1 - i) := (Nat.log2_lt h0).1 (by omega)
      simp [Nat.testBit_lt_two_pow hbig]
    · have hi : w - 1 - (w - 1 - x.log2) = x.log2 := by omega
      simp [hi, Nat.testBit_log2 h0]

theorem reverseBits_lt (w x : Nat) : reverseBits w x < 2 ^ w := by
  induction w generalizing x with
  | zero => simp [reverseBits]
  | succ w ih =>
    have := ih (x / 2)
    have := Nat.mul_le_mul_right (2 ^ w) (by omega : x % 2 ≤ 1)
    rw [reverseBits, Nat.pow_succ]
    omega

theorem testBit_reverseBits (w x j : Nat) : (reverseBits w x).testBit j = (decide (j < w) && x.testBit (w - 1 - j)) := by
  induction w generalizing x with
  | zero => simp [reverseBits]
  | succ w ih =>
    rw [reverseBits, testBit_concat _ _ (reverseBits_lt w _), ih]
    obtain hj | rfl | hj := Nat.lt_trichotomy j w
    · have hs : w - j = (w - 1 - j) + 1 := by omega
      simp [hj, hs, Nat.testBit_succ, show j < w + 1 by omega]
    · simp [Nat.testBit_zero]
    · have h0 : (x % 2).testBit (j - w) = false :=
        Nat.testBit_lt_two_pow ((Nat.mod_lt _ (by omega)).trans_le (Nat.le_self_pow (by omega) 2))
      simp [h0, show ¬ j < w by omega, show ¬ j < w + 1 by omega]

theorem reverseBits_eq (w x : Nat) :
    reverseBits w x = ((List.range w).map (fun j => if x.testBit (w - 1 - j) then 2 ^ j else 0)).sum :=
  eq_sum_of_testBit (testBit_reverseBits w x)

theorem rotateLeft_eq {w x : Nat} (k : Nat) (hw : 0 < w) (hx : x < 2 ^ w) :
    rotateLeft w x k = ((BitVec.ofNat w x).rotateLeft k).toNat := by
  have hk := Nat.mod_lt k hw
  have hsplit : 2 ^ w = 2 ^ (k % w) * 2 ^ (w - k % w) := by rw [← Nat.pow_add]; congr 1; omega
  have hhigh : x / 2 ^ (w - k % w) < 2 ^ (k % w) := Nat.div_lt_of_lt_mul (by rwa [Nat.mul_comm, ← hsplit])
  rw [BitVec.toNat_rotateLeft, BitVec.toNat_ofNat, Nat.mod_eq_of_lt hx, Nat.shiftLeft_eq, Nat.shiftRight_eq_div_pow,
    rotateLeft, Nat.mul_comm, hsplit, Nat.mul_mod_mul_left, Nat.two_pow_add_eq_or_of_lt hhigh]

theorem vbitWord_ended {s : State} {t : VType} (h : VectorIssuing s t) {d a b : BitVec 5} {m : BitVec 3}
    {f : Nat → Nat → Nat → Nat} {g : Nat → Nat} (hd : t.aligned d = true) (ha : t.aligned a = true)
    (hb : t.aligned b = true) (hm : governFits s.hart m = true) (he : t.et.isInt = true)
    (hf : ∀ i, f t.et.width (source s t a i) (source s t b i) = g i) :
    Ended (vbitWord s d a b m f) (elementOp s t (t.dest s.hart d) m false (fun i => (g i, 0))) := by
  unfold vbitWord
  refine (h.vectorOp rfl (by simp [he, hd, ha, hb, hm]) h.issuing.elementOp).congr <|
    congrArg (elementOp s t _ m false) <| funext fun i => congrArg (·, 0) (hf i)

/-- Settles O29: the words by their groups, and each result by its bits. -/
theorem bitVectorWordsComplete : Obligations.BitVectorWordsComplete := by
  intro s t d a b m k n h hd ha hm
  dsimp only [exec, execVfshl, execVfshr, execLog3Low, execLog3High, execVrotl, execVpopc, execVclz, execVbrev]
  refine ⟨fun hb => ⟨fun he hk => ⟨?_, ?_⟩, ?_, ?_, fun he => ?_⟩, fun he => ⟨?_, ?_, ?_⟩⟩
  · exact funnelWord_ended h hd ha hb he hk fun i => funnelLeft_eq _ hk (elem_lt _ _ _)
  · exact funnelWord_ended h hd ha hb he hk fun i => funnelRight_eq _ _ (elem_lt _ _ _)
  · exact log3Word_ended h hd ha hb (by revert n; decide)
  · exact log3Word_ended h hd ha hb (by revert n; decide)
  · exact vbitWord_ended h hd ha hb hm he fun i => rotateLeft_eq _ (width_pos _) (elem_lt _ _ _)
  · exact vbitWord_ended h hd ha ha hm he fun i => popCount_eq_countP _ _
  · exact vbitWord_ended h hd ha ha hm he fun i => leadingZeros_eq_takeWhile (elem_lt _ _ _)
  · exact vbitWord_ended h hd ha ha hm he fun i => reverseBits_eq _ _

end Sys2Proof.Machine
end

section
/-!
LAW. Writes of vector and mask registers bit by bit, and the elements of a group under packed lanes and the tail (R32, R82).
-/

namespace Sys2Proof.Machine

/-! ### Register writes bit by bit -/

theorem testBit_mergeBits (old new mask p : Nat) :
    (mergeBits old new mask).testBit p = if mask.testBit p then new.testBit p else old.testBit p := by
  rw [mergeBits, Nat.testBit_xor, Nat.testBit_and, Nat.testBit_xor]
  cases mask.testBit p <;> simp

/-- Bit `p` of a vector or mask register once a write has been merged into it. -/
theorem getLsbD_merged (old : BitVec 65536) (value mask : Nat) {p : Nat} (hp : p < 65536) :
    (BitVec.ofNat 65536 (mergeBits old.toNat value mask)).getLsbD p =
      if mask.testBit p then value.testBit p else old.getLsbD p := by
  rw [BitVec.getLsbD_ofNat, testBit_mergeBits, decide_eq_true hp, Bool.true_and, BitVec.getLsbD]

theorem applyWrite_v_ve (h : Hart) (n value mask : Nat) : (applyWrite h ⟨.v n, value, mask⟩).ve =
    { h.ve with v := vset h.ve.v n (BitVec.ofNat 65536 (mergeBits (vget h.ve.v n 0).toNat value mask)) } := by
  unfold applyWrite
  dsimp only [regValue]
  split <;> simp

theorem applyWrite_m_ve (h : Hart) (n value mask : Nat) : (applyWrite h ⟨.m n, value, mask⟩).ve =
    { h.ve with m := vset h.ve.m n (BitVec.ofNat 65536 (mergeBits (vget h.ve.m n 0).toNat value mask)) } := by
  unfold applyWrite
  dsimp only [regValue]
  split <;> simp

/-- A hart differs from another in its vector and mask registers, and in the marks of its registers, alone. -/
def OnlyVectorRegisters (h h' : Hart) : Prop :=
  h' = { h with ve := { h.ve with v := h'.ve.v, m := h'.ve.m }, stale := h'.stale, poison := h'.poison }

theorem OnlyVectorRegisters.refl (h : Hart) : OnlyVectorRegisters h h := rfl

theorem OnlyVectorRegisters.trans {h h' h'' : Hart} (h1 : OnlyVectorRegisters h h') (h2 : OnlyVectorRegisters h' h'') :
    OnlyVectorRegisters h h'' := by
  unfold OnlyVectorRegisters at h1 h2 ⊢
  rw [h1] at h2
  exact h2

theorem applyWrite_only (h : Hart) {w : RegWrite} (hw : (∃ n, w.reg = .v n) ∨ ∃ n, w.reg = .m n) :
    OnlyVectorRegisters h (applyWrite h w) := by
  unfold OnlyVectorRegisters applyWrite refresh mendPoison
  obtain ⟨n, hn⟩ | ⟨n, hn⟩ := hw <;> rw [hn] <;> dsimp only <;> split_ifs <;> rfl

theorem applyWrites_only (h : Hart) {ws : List RegWrite} (hws : ∀ w ∈ ws, (∃ n, w.reg = .v n) ∨ ∃ n, w.reg = .m n) :
    OnlyVectorRegisters h (applyWrites h ws) := by
  induction ws generalizing h with
  | nil => exact .refl h
  | cons w ws ih =>
    exact (applyWrite_only h (hws w (by simp))).trans (ih _ fun x hx => hws x (by simp [hx]))

/-! ### Groups of vector registers (R32) -/

theorem groupWrites_succ (h : Hart) (r g value mask : Nat) :
    groupWrites h r (g + 1) value mask = groupWrites h r g value mask ++
      (if mask / 2 ^ (regBits h * g) % 2 ^ regBits h = 0 then [] else
        [⟨.v (r + g), value / 2 ^ (regBits h * g) % 2 ^ regBits h, mask / 2 ^ (regBits h * g) % 2 ^ regBits h⟩]) := by
  unfold groupWrites
  rw [List.range_succ, List.filterMap_append]
  by_cases hm : mask / 2 ^ (regBits h * g) % 2 ^ regBits h = 0 <;> simp [hm]

theorem groupWrites_reg {h : Hart} {r g value mask : Nat} {w : RegWrite} (hw : w ∈ groupWrites h r g value mask) :
    ∃ n, w.reg = .v n := by
  obtain ⟨k, -, hk⟩ := List.mem_filterMap.1 hw
  dsimp only at hk
  split at hk
  · cases hk
  · cases hk
    exact ⟨_, rfl⟩

theorem applyWrites_append (h : Hart) (a b : List RegWrite) : applyWrites h (a ++ b) = applyWrites (applyWrites h a) b :=
  List.foldl_append

theorem groupWrites_m (x h : Hart) (r g value mask : Nat) :
    (applyWrites x (groupWrites h r g value mask)).ve.m = x.ve.m := by
  induction g with
  | zero => rfl
  | succ g ih =>
    rw [groupWrites_succ, applyWrites_append]
    split
    · exact ih
    · simp only [applyWrites, List.foldl_cons, List.foldl_nil, applyWrite_v_ve]
      exact ih

/-- Registers outside the group are as before. -/
theorem groupWrites_other (x h : Hart) {r g k : Nat} (value mask : Nat) (hk : k < r ∨ r + g ≤ k) :
    vget (applyWrites x (groupWrites h r g value mask)).ve.v k 0 = vget x.ve.v k 0 := by
  induction g with
  | zero => rfl
  | succ g ih =>
    rw [groupWrites_succ, applyWrites_append, ← ih (by omega)]
    split
    · rfl
    · simp only [applyWrites, List.foldl_cons, List.foldl_nil, applyWrite_v_ve]
      exact vget_vset_other _ _ _ _ _ (by omega)

/-- Bit `p` of register `k` of the group is the bit of the value where the mask has a one. -/
theorem groupWrites_bit (x h : Hart) {r g k p : Nat} (value mask : Nat) (hr : r + g ≤ 32) (hk : k < g)
    (hp : p < regBits h) : (vget (applyWrites x (groupWrites h r g value mask)).ve.v (r + k) 0).getLsbD p =
      if mask.testBit (regBits h * k + p) then value.testBit (regBits h * k + p) else (vget x.ve.v (r + k) 0).getLsbD p := by
  have hbit (n : Nat) : (n / 2 ^ (regBits h * k) % 2 ^ regBits h).testBit p = n.testBit (regBits h * k + p) := by
    rw [Nat.testBit_mod_two_pow, Nat.testBit_div_two_pow, decide_eq_true hp, Bool.true_and, Nat.add_comm p]
  induction g with
  | zero => omega
  | succ g ih =>
    rw [groupWrites_succ, applyWrites_append]
    obtain hlt | rfl : k < g ∨ k = g := by omega
    · rw [← ih (by omega) hlt]
      split
      · rfl
      · simp only [applyWrites, List.foldl_cons, List.foldl_nil, applyWrite_v_ve]
        rw [vget_vset_other _ _ _ _ _ (by omega)]
    · rw [← groupWrites_other x h value mask (.inr (le_refl (r + k))), ← hbit mask, ← hbit value]
      split
      · next h0 => simp [h0, applyWrites]
      · simp only [applyWrites, List.foldl_cons, List.foldl_nil, applyWrite_v_ve]
        rw [vget_vset_same _ _ _ _ (by omega), getLsbD_merged _ _ _ (hp.trans_le (regBits_le h))]

/-- Bit `p` of the group that begins at v[r]. -/
def groupBit (h : Hart) (r p : Nat) : Bool := (vget h.ve.v (r + p / regBits h) 0).getLsbD (p % regBits h)

theorem regBits_eq_pow (h : Hart) : regBits h = 2 ^ (16 - h.split.toNat) :=
  Nat.pow_div (x := 2) (m := 16) (n := h.split.toNat) (by omega) (by omega)

theorem regBits_pos (h : Hart) : 0 < regBits h := by
  rw [regBits_eq_pow]
  exact Nat.two_pow_pos _

/-- The widths of elements divide a register. -/
theorem width_dvd_regBits (h : Hart) {w : Nat} (hw : w ∈ [1, 4, 8, 16, 32, 64]) : w ∣ regBits h := by
  have hpow : ∃ n ≤ 6, w = 2 ^ n := by
    simp only [List.mem_cons, List.not_mem_nil, or_false] at hw
    obtain rfl | rfl | rfl | rfl | rfl | rfl := hw
    exacts [⟨0, by decide⟩, ⟨2, by decide⟩, ⟨3, by decide⟩, ⟨4, by decide⟩, ⟨5, by decide⟩, ⟨6, by decide⟩]
  obtain ⟨n, hn, rfl⟩ := hpow
  rw [regBits_eq_pow]
  exact Nat.pow_dvd_pow 2 (by omega)

theorem groupBit_groupWrites {x h : Hart} {r g p : Nat} (value mask : Nat) (hx : x.split = h.split) (hr : r + g ≤ 32)
    (hp : p < regBits h * g) : groupBit (applyWrites x (groupWrites h r g value mask)) r p =
      if mask.testBit p then value.testBit p else groupBit x r p := by
  have ho := applyWrites_only x fun w hw => .inl (groupWrites_reg (h := h) (r := r) (g := g) (value := value) (mask := mask) hw)
  have hs : (applyWrites x (groupWrites h r g value mask)).split = h.split := (congrArg Hart.split ho).trans hx
  have hb : regBits (applyWrites x (groupWrites h r g value mask)) = regBits h := by rw [regBits, hs, regBits]
  have hbx : regBits x = regBits h := by rw [regBits, hx, regBits]
  rw [groupBit, hb, groupWrites_bit x h value mask hr (Nat.div_lt_of_lt_mul hp) (Nat.mod_lt _ (regBits_pos h)),
    Nat.div_add_mod, groupBit, hbx]

/-- An element's bits are bits of its group. -/
theorem testBit_element {h : Hart} {w : Nat} (r i j : Nat) (hw : w ∣ regBits h) :
    (element h r w i).testBit j = (decide (j < w) && groupBit h r (w * i + j)) := by
  rw [element, Nat.testBit_mod_two_pow, Nat.testBit_div_two_pow, groupBit, BitVec.getLsbD]
  by_cases hj : j < w
  · obtain ⟨c, hc⟩ := hw
    have hd : (w * i + j) / regBits h = w * i / regBits h := by
      rw [hc, ← Nat.div_div_eq_div_mul, ← Nat.div_div_eq_div_mul, Nat.mul_add_div (by omega), Nat.div_eq_of_lt hj,
        Nat.mul_div_cancel_left _ (by omega), Nat.add_zero]
    have hm : (w * i + j) % regBits h = w * i % regBits h + j := by
      have h1 := Nat.div_add_mod (w * i + j) (regBits h)
      have h2 := Nat.div_add_mod (w * i) (regBits h)
      rw [hd] at h1
      omega
    rw [hd, hm, Nat.add_comm j]
  · simp [hj]

theorem element_congr {h h' : Hart} (hv : h'.ve.v = h.ve.v) (hs : h'.split = h.split) (r w i : Nat) :
    element h' r w i = element h r w i := by
  simp only [element, regBits, hv, hs]

/-! ### Packed lanes and the tail (R82) -/

theorem testBit_packLanes {w j : Nat} (l : List (Option Nat)) (i : Nat) (hj : j < w) :
    (packLanes w l).1.testBit (w * i + j) = (l[i]?.join.getD 0).testBit j ∧
    (packLanes w l).2.testBit (w * i + j) = l[i]?.join.isSome := by
  induction l generalizing i with
  | nil => simp [packLanes]
  | cons x l ih =>
    have hcons (a b k : Nat) (ha : a < 2 ^ w) : (a + 2 ^ w * b).testBit (w * k + j) =
        if k = 0 then a.testBit j else b.testBit (w * (k - 1) + j) := by
      rw [Nat.add_comm, Nat.testBit_two_pow_mul_add b ha]
      cases k with
      | zero => simp [hj]
      | succ k =>
        have hsub : w * (k + 1) + j - w = w * k + j := by rw [Nat.mul_add_one]; omega
        have hge : ¬ w * (k + 1) + j < w := by rw [Nat.mul_add_one]; omega
        simp [hge, hsub]
    have hpos := Nat.two_pow_pos w
    have hzero (b k : Nat) := Nat.zero_add (2 ^ w * b) ▸ hcons 0 b k hpos
    have hlow (v : Nat) : (v % 2 ^ w).testBit j = v.testBit j := by simp [Nat.testBit_mod_two_pow, hj]
    have hones : (2 ^ w - 1).testBit j = true := by simp [Nat.testBit_two_pow_sub_one, hj]
    cases x with
    | none =>
      change (2 ^ w * (packLanes w l).1).testBit _ = _ ∧ (2 ^ w * (packLanes w l).2).testBit _ = _
      rw [hzero, hzero]
      cases i with
      | zero => simp
      | succ i => simpa using ih i
    | some v =>
      change (v % 2 ^ w + 2 ^ w * (packLanes w l).1).testBit _ = _ ∧ (2 ^ w - 1 + 2 ^ w * (packLanes w l).2).testBit _ = _
      rw [hcons _ _ _ (Nat.mod_lt _ hpos), hcons _ _ _ (by omega)]
      cases i with
      | zero => simp [hlow, hones]
      | succ i => simpa using ih i

/-- A run of ones that ends at bit `n`, and begins at bit `k` if that is below `n`. -/
theorem testBit_run (n k p : Nat) : (2 ^ n - 2 ^ min n k).testBit p = (decide (k ≤ p) && decide (p < n)) := by
  have hm : min n k ≤ n := min_le_left n k
  have hsplit : 2 ^ n - 2 ^ min n k = 2 ^ min n k * (2 ^ (n - min n k) - 1) := by
    rw [Nat.mul_sub, ← Nat.pow_add, Nat.mul_one, Nat.add_sub_cancel' hm]
  rw [hsplit, Nat.testBit_two_pow_mul, Nat.testBit_two_pow_sub_one]
  rw [Bool.eq_iff_iff]
  simp only [Bool.and_eq_true, decide_eq_true_eq]
  omega

theorem testBit_tailMask (h : Hart) (t : VType) (d : Dest) (p : Nat) : (tailMask h t d).testBit p =
    (decide (t.tail ∧ d.count ≠ 0 ∧ d.width * d.count ≤ p) && decide (p < regBits h * d.group)) := by
  unfold tailMask
  by_cases ht : t.tail = true ∧ d.count ≠ 0
  · simp [ht, testBit_run]
  · have hf : (t.tail && d.count != 0) = false := by simpa using ht
    simp only [hf, Bool.false_eq_true, if_false, Nat.zero_testBit, ← and_assoc, ht, false_and, decide_false, Bool.false_and]

/-- The lane of element `i` where the lanes begin at element `start`. -/
def laneAt (start : Nat) (lanes : List (Option Nat)) (i : Nat) : Option Nat :=
  if start ≤ i then lanes[i - start]?.join else none

/-- A bit of packed lanes moved up to their first element. -/
theorem testBit_packed {w j : Nat} (start : Nat) (lanes : List (Option Nat)) (i : Nat) (hj : j < w) :
    ((packLanes w lanes).1 * 2 ^ (w * start)).testBit (w * i + j) = ((laneAt start lanes i).getD 0).testBit j ∧
    ((packLanes w lanes).2 * 2 ^ (w * start)).testBit (w * i + j) = (laneAt start lanes i).isSome := by
  rw [Nat.testBit_mul_two_pow, Nat.testBit_mul_two_pow, laneAt]
  by_cases hi : start ≤ i
  · have hge : w * start ≤ w * i + j := (Nat.mul_le_mul_left w hi).trans (Nat.le_add_right _ _)
    have hsub : w * i + j - w * start = w * (i - start) + j := by rw [Nat.mul_sub]; have := Nat.mul_le_mul_left w hi; omega
    simpa [hge, hsub, hi] using testBit_packLanes lanes (i - start) hj
  · have hlt : ¬ w * start ≤ w * i + j := by
      have := Nat.mul_le_mul_left w (by omega : i + 1 ≤ start)
      rw [Nat.mul_add_one] at this
      omega
    simp [hlt, hi]

/-- An element of the destination holds the value of its lane; without one it is 0 in the tail and the old value elsewhere. -/
theorem element_destWrites {x h : Hart} {t : VType} {d : Dest} {start i : Nat} {lanes : List (Option Nat)}
    (hx : x.split = h.split) (hr : d.reg + d.group ≤ 32) (hw : d.width ∣ regBits h)
    (hi : d.width * (i + 1) ≤ regBits h * d.group) :
    element (applyWrites x (destWrites h t d start lanes true)) d.reg d.width i =
      ((laneAt start lanes i).map (· % 2 ^ d.width)).getD
        (if t.tail ∧ d.count ≠ 0 ∧ d.count ≤ i then 0 else element x d.reg d.width i) := by
  have ho := applyWrites_only x (ws := destWrites h t d start lanes true) fun w hw => .inl (groupWrites_reg hw)
  have hb : regBits (applyWrites x (destWrites h t d start lanes true)) = regBits h := by
    rw [regBits, congrArg Hart.split ho, regBits, ← hx]
  have hbx : regBits x = regBits h := by rw [regBits, hx, regBits]
  refine Nat.eq_of_testBit_eq fun j => ?_
  rw [testBit_element _ _ _ (hb ▸ hw)]
  by_cases hj : j < d.width
  · have hp : d.width * i + j < regBits h * d.group := by rw [Nat.mul_add_one] at hi; omega
    obtain ⟨hval, hmask⟩ := testBit_packed start lanes i hj
    have htail : d.width * d.count ≤ d.width * i + j ↔ d.count ≤ i := by
      refine ⟨fun hle => ?_, fun hle => (Nat.mul_le_mul_left _ hle).trans (Nat.le_add_right _ _)⟩
      by_contra hlt
      have := Nat.mul_le_mul_left d.width (by omega : i + 1 ≤ d.count)
      rw [Nat.mul_add_one] at this
      omega
    rw [destWrites, groupBit_groupWrites _ _ hx hr hp, Nat.testBit_or, hmask, hval, if_pos rfl, testBit_tailMask]
    simp only [htail, hp, hj, decide_true, Bool.true_and, Bool.and_true]
    cases laneAt start lanes i with
    | some v => simp [Nat.testBit_mod_two_pow, hj]
    | none =>
      by_cases ht : t.tail ∧ d.count ≠ 0 ∧ d.count ≤ i
      · simp [ht]
      · simp [ht, testBit_element _ _ _ (hbx ▸ hw), hj]
  · have hlow (v : Nat) (hv : v < 2 ^ d.width) : v.testBit j = false :=
      Nat.testBit_lt_two_pow (hv.trans_le (Nat.pow_le_pow_right (by omega) (by omega)))
    rw [decide_eq_false hj, Bool.false_and, hlow]
    cases laneAt start lanes i with
    | some v => exact Nat.mod_lt _ (Nat.two_pow_pos _)
    | none =>
      rw [Option.map_none, Option.getD_none]
      split
      · exact Nat.two_pow_pos _
      · exact Nat.mod_lt _ (Nat.two_pow_pos _)

end Sys2Proof.Machine
end

section
/-!
LAW. The draws, lanes and flags of an element-wise word (R44, R47, R48, R82).
-/

namespace Sys2Proof.Machine

/-! ### Draws and lanes of an element-wise word (R44, R82) -/

/-- The generator after the active ones of `n` elements from `start` on have drawn. -/
def drawsOver (act : Nat → Bool) (seed : BitVec 32) (start n : Nat) : BitVec 32 :=
  ((List.range' start n).filter act).foldl (fun x _ => nextSeed x) seed

theorem drawsOver_zero (act : Nat → Bool) (seed : BitVec 32) (start : Nat) : drawsOver act seed start 0 = seed := rfl

theorem drawsOver_succ (act : Nat → Bool) (seed : BitVec 32) (start n : Nat) : drawsOver act seed start (n + 1) =
    drawsOver act (if act start then nextSeed seed else seed) (start + 1) n := by
  rw [drawsOver, List.range'_succ, List.filter_cons]
  split <;> rfl

/-- The generator as element `i` reads it. -/
def drawAt (act : Nat → Bool) (draws : Bool) (seed : BitVec 32) (start i : Nat) : BitVec 32 :=
  if draws then nextSeed (drawsOver act seed start (i - start)) else seed

/-- Each listed element that is active has the result of its own draw, and the generator is left after the last. -/
theorem computeLanes_range (act : Nat → Bool) (draws : Bool) (f : Nat → Nat → Nat × Flags) (start n : Nat)
    (seed : BitVec 32) : computeLanes act draws f (List.range' start n) seed =
      ((List.range' start n).map (fun i =>
        (i, if act i then some (f i (seedDraw (drawAt act draws seed start i))) else none)),
       if draws then drawsOver act seed start n else seed) := by
  induction n generalizing start seed with
  | zero => simp [computeLanes, drawsOver_zero]
  | succ n ih =>
    have hrest (y : BitVec 32) (hy : y = if act start then (if draws then nextSeed seed else seed) else seed) :
        computeLanes act draws f (List.range' (start + 1) n) y =
        ((List.range' (start + 1) n).map (fun i =>
          (i, if act i then some (f i (seedDraw (drawAt act draws seed start i))) else none)),
         if draws then drawsOver act seed start (n + 1) else seed) := by
      rw [ih, drawsOver_succ]
      refine Prod.ext (List.map_congr_left fun i hi => ?_) ?_
      · have hs : i - start = (i - (start + 1)) + 1 := by have := (List.mem_range'_1.1 hi).1; omega
        have hd : drawAt act draws y (start + 1) i = drawAt act draws seed start i := by
          rw [drawAt, drawAt, hs, drawsOver_succ, hy]
          cases draws <;> simp
        rw [hd]
      · rw [hy]
        cases draws <;> simp
    have hhead : drawAt act draws seed start start = if draws then nextSeed seed else seed := by
      rw [drawAt, Nat.sub_self, drawsOver_zero]
    rw [List.range'_succ, computeLanes, List.map_cons, hhead]
    by_cases ha : act start = true
    · simp only [ha, if_true] at hrest ⊢
      rw [hrest _ rfl]
    · simp only [ha, Bool.false_eq_true, if_false] at hrest ⊢
      rw [hrest _ rfl]

theorem laneAt_map_range' (start n i : Nat) (g : Nat → Option Nat) :
    laneAt start ((List.range' start (n - start)).map g) i = if start ≤ i ∧ i < n then g i else none := by
  rw [laneAt, List.getElem?_map]
  by_cases hs : start ≤ i
  · by_cases hn : i < n
    · simp [hs, hn, show i - start < n - start by omega]
    · rw [List.getElem?_eq_none (by rw [List.length_range']; omega)]
      simp [hn]
  · simp [hs]

/-! ### Flags of an element-wise word (R47, R48) -/

theorem raises_raisedBy (l : List (Nat × Option (Nat × Flags))) (i k : Nat) :
    Raises (raisedBy l) i k ↔ ∃ r, (i, some r) ∈ l ∧ r.2.getLsbD k = true := by
  constructor
  · rintro ⟨f, hf, hk⟩
    obtain ⟨⟨j, o⟩, hx, he⟩ := List.mem_filterMap.1 hf
    cases o with
    | none => cases he
    | some r =>
      dsimp only at he
      split at he
      · cases he
      · cases he
        exact ⟨r, hx, hk⟩
  · rintro ⟨r, hr, hk⟩
    have hz : r.2 ≠ 0 := by rintro h0; simp [h0] at hk
    exact ⟨r.2, List.mem_filterMap.2 ⟨_, hr, if_neg hz⟩, hk⟩

/-- Of computed lanes, the active ones raise the flags of their results. -/
theorem raises_lanes {l : List Nat} {act : Nat → Bool} {F : Nat → Nat × Flags} (i k : Nat) :
    Raises (raisedBy (l.map (fun i => (i, if act i then some (F i) else none)))) i k ↔
      i ∈ l ∧ (act i && (F i).2.getLsbD k) = true := by
  simp only [raises_raisedBy, List.mem_map, Prod.mk.injEq, Bool.and_eq_true]
  constructor
  · rintro ⟨r, ⟨j, hj, rfl, hr⟩, hk⟩
    obtain ⟨ha, hr⟩ := Option.ite_none_right_eq_some.1 hr
    cases hr
    exact ⟨hj, ha, hk⟩
  · rintro ⟨hi, ha, hk⟩
    exact ⟨F i, ⟨i, hi, rfl, if_pos ha⟩, hk⟩

theorem union_getLsbD_iff (rs : Raised) (k : Nat) : rs.union.getLsbD k = true ↔ ∃ i, Raises rs i k := by
  simp [union_getLsbD, Raises, List.any_eq_true]

/-- The lowest index that raises a flag is the first of the numbers below `n` that does. -/
theorem first_eq_find {rs : Raised} {n k : Nat} {raised : Nat → Bool} (hn : n ≤ 2 ^ 64 - 1)
    (h : ∀ i, Raises rs i k ↔ i < n ∧ raised i = true) :
    rs.first k = ((List.range n).find? raised).getD (2 ^ 64 - 1) := by
  refine eq_of_forall_ge_iff fun c => ?_
  rw [first_le_iff]
  simp only [h]
  cases hf : (List.range n).find? raised with
  | none =>
    have hno : ∀ i, i < n → raised i ≠ true := by simpa using hf
    constructor
    · rintro (hc | ⟨i, -, hi, hr⟩)
      · exact hc
      · exact absurd hr (hno i hi)
    · exact .inl
  | some x =>
    obtain ⟨hx, hmem, hlow⟩ := List.find?_range_eq_some.1 hf
    constructor
    · rintro (hc | ⟨i, hi, -, hr⟩)
      · have := List.mem_range.1 hmem
        rw [Option.getD_some]; omega
      · rw [Option.getD_some]
        by_contra hlt
        have := hlow i (by omega)
        simp [hr] at this
    · exact fun hc => .inr ⟨x, hc, List.mem_range.1 hmem, hx⟩

theorem noteFlags_eq (h : Hart) (start : Nat) (done : Bool) (rs : Raised) :
    noteFlags h start done rs = { h with cs := (noteFlags h start done rs).cs } := by
  unfold noteFlags mergeFlags
  split <;> rfl

theorem vget_partMinima (h : Hart) (start : Nat) (rs : Raised) {k : Nat} (hk : k < 6) :
    vget (partMinima h start rs) k 0 =
      if start ≠ 0 ∧ vget h.cs.firstPart k 0 < BitVec.ofNat 64 (rs.first k) then vget h.cs.firstPart k 0
      else BitVec.ofNat 64 (rs.first k) := by
  have hle : rs.first k ≤ 2 ^ 64 - 1 := (first_le_iff rs k _).2 (.inl le_rfl)
  have hv : vget (partMinima h start rs) k 0 =
      word (min (if start = 0 then 2 ^ 64 - 1 else (vget h.cs.firstPart k 0).toNat) (rs.first k)) := by
    simp [partMinima, vget, hk]
  have hn : (BitVec.ofNat 64 (rs.first k)).toNat = rs.first k := by rw [BitVec.toNat_ofNat, Nat.mod_eq_of_lt (by omega)]
  simp only [hv, BitVec.lt_def, hn, word]
  by_cases h0 : start = 0
  · rw [if_pos h0, min_eq_right hle, if_neg fun h => h.1 h0]
  · rw [if_neg h0]
    by_cases hlt : (vget h.cs.firstPart k 0).toNat < rs.first k
    · rw [min_eq_left hlt.le, if_pos ⟨h0, hlt⟩, BitVec.ofNat_toNat, BitVec.setWidth_eq]
    · rw [min_eq_right (Nat.not_lt.1 hlt), if_neg fun h => hlt h.2]

end Sys2Proof.Machine
end

section
/-!
LAW. What a vector-side word of fixed latency leaves when it ends: its hart, its destination and its flags (R16, R47, R48, R63,
R82, R86, R103, R285). Settles O26.
-/

namespace Sys2Proof.Machine

/-! ### A word that ends (R16, R63, R285) -/

theorem OnlyVectorRegisters.keeps {x y : Hart} (ho : OnlyVectorRegisters x y) : Keeps (fun _ => y) x :=
  ⟨(congrArg Hart.place ho :), (congrArg Hart.queue ho :), (congrArg (·.tl.region) ho :), (congrArg (·.ve.block) ho :),
    (congrArg (·.ve.pc) ho :)⟩

/-- What a vector-side word leaves from its result's hart `x` and register writes `ws`: `x` with the writes made, but that
the word has retired, and nothing outside the hart but the charge for its beats. -/
structure Leaves (s u : State) (x : Hart) (ws : List RegWrite) : Prop where
  beats : ∃ n, OnlyHartBeats s u n
  retired : Retired s u
  v : u.hart.ve.v = (applyWrites x ws).ve.v
  m : u.hart.ve.m = (applyWrites x ws).ve.m
  h : u.hart.ve.h = s.hart.ve.h
  lc : u.hart.ve.lc = s.hart.ve.lc
  sc : u.hart.sc = s.hart.sc
  split : u.hart.split = s.hart.split
  vprog : u.hart.cs.vprog = 0
  seed : u.hart.cs.seed = x.cs.seed
  vflags : u.hart.cs.vflags = x.cs.vflags
  first : u.hart.cs.first = x.cs.first

/-- The beats that a word holds the lanes do not bear on the charge but by their number. -/
theorem onlyHartBeats_vectorStep {s u : State} {h' : Hart} {pc : Word} {n : Nat}
    (hv : VectorStep { s with issue := { s.issue with beats := n } } u h' pc) : OnlyHartBeats s u n := by
  have hc := chargeSequencer_congr (s := s) (u := { s with issue := { s.issue with beats := n } }) n rfl rfl rfl rfl rfl
  unfold VectorStep at hv
  unfold OnlyHartBeats
  rw [chargeSequencer_eq, hc] at hv
  rw [chargeSequencer_eq, hv]

/-- A word that differs from its state in the hart `x` alone retires with its register writes made. -/
theorem written_vectorStep {s : State} (hs : s.issue.side = .vector) (lat : Timing) {r : Result} {x : Hart}
    (hr : r.state = s.mapHart fun _ => x) (hk : Keeps (fun _ => applyWrites x r.writes) s.hart) :
    ∃ n, VectorStep { s with issue := { s.issue with beats := n } } (written lat r) (applyWrites x r.writes)
      (s.hart.ve.pc + 4) := by
  have hstep (n : Nat) := vectorStep_retire (s := { s with issue := { s.issue with beats := n } }) hs hk
  refine ⟨if lat.beats = 0 then s.issue.beats else lat.beats, ?_⟩
  have hw : written lat r = retire (State.mapHart { s with issue := { s.issue with
      beats := if lat.beats = 0 then s.issue.beats else lat.beats } } fun _ => applyWrites x r.writes) := by
    unfold written
    rw [hr]
    split <;> rfl
  rw [hw]
  exact hstep _

/-- A word whose result differs from its state in control registers alone, and writes vector and mask registers alone. -/
theorem written_leaves {s : State} (hs : s.issue.side = .vector) (lat : Timing) {r : Result} {x : Hart}
    (hr : r.state = s.mapHart fun _ => x) (hx : x = { s.hart with cs := x.cs }) (hi : x.cs.instret = s.hart.cs.instret)
    (hw : ∀ w ∈ r.writes, (∃ n, w.reg = .v n) ∨ ∃ n, w.reg = .m n) : Leaves s (written lat r) x r.writes := by
  have ho := applyWrites_only x hw
  have hkx : Keeps (fun _ => x) s.hart :=
    ⟨(congrArg Hart.place hx :), (congrArg Hart.queue hx :), (congrArg (·.tl.region) hx :), (congrArg (·.ve.block) hx :),
      (congrArg (·.ve.pc) hx :)⟩
  have hk : Keeps (fun _ => applyWrites x r.writes) s.hart :=
    ⟨ho.keeps.place.trans hkx.place, ho.keeps.queue.trans hkx.queue, ho.keeps.region.trans hkx.region,
      ho.keeps.block.trans hkx.block, ho.keeps.pc.trans hkx.pc⟩
  obtain ⟨n, hv⟩ := written_vectorStep hs lat hr hk
  exact {
    beats := ⟨n, onlyHartBeats_vectorStep hv⟩
    retired := retired_vectorStep (s := { s with issue := { s.issue with beats := n } }) hs hv
      ((congrArg (·.cs.instret) ho :).trans hi)
    v := (congrArg (·.hart.ve.v) hv :)
    m := (congrArg (·.hart.ve.m) hv :)
    h := (congrArg (·.hart.ve.h) hv :).trans ((congrArg (·.ve.h) ho :).trans (congrArg (·.ve.h) hx :))
    lc := (congrArg (·.hart.ve.lc) hv :).trans ((congrArg (·.ve.lc) ho :).trans (congrArg (·.ve.lc) hx :))
    sc := (congrArg (·.hart.sc) hv :).trans ((congrArg Hart.sc ho :).trans (congrArg Hart.sc hx :))
    split := (congrArg (·.hart.split) hv :).trans ((congrArg Hart.split ho :).trans (congrArg Hart.split hx :))
    vprog := (congrArg (·.hart.cs.vprog) hv :)
    seed := (congrArg (·.hart.cs.seed) hv :).trans (congrArg (·.cs.seed) ho :)
    vflags := (congrArg (·.hart.cs.vflags) hv :).trans (congrArg (·.cs.vflags) ho :)
    first := (congrArg (·.hart.cs.first) hv :).trans (congrArg (·.cs.first) ho :) }

/-! ### Element-wise words (R82, R86) -/

/-- What an element-wise word computes for element `i`, with its draw. -/
def resultAt (s : State) (m : BitVec 3) (draws : Bool) (f : Nat → Nat → Nat × Flags) (i : Nat) : Nat × Flags :=
  f i (seedDraw (drawAt (isActive s.hart m) draws s.hart.cs.seed (startOf s) i))

/-- The lanes that an element-wise word computes when it is not stopped part-way. -/
def computedLanes (s : State) (d : Dest) (m : BitVec 3) (draws : Bool) (f : Nat → Nat → Nat × Flags) :
    List (Nat × Option (Nat × Flags)) :=
  (List.range' (startOf s) (d.count - startOf s)).map (fun i =>
    (i, if isActive s.hart m i then some (resultAt s m draws f i) else none))

/-- The control registers once an element-wise word has drawn. -/
def drawnRegs (s : State) (d : Dest) (m : BitVec 3) (draws : Bool) : ControlRegs :=
  { s.hart.cs with seed :=
      if draws then drawsOver (isActive s.hart m) s.hart.cs.seed (startOf s) (d.count - startOf s) else s.hart.cs.seed }

/-- The hart once an element-wise word has drawn and, if it is flag-capable, noted its flags. -/
def wordHart (s : State) (d : Dest) (m : BitVec 3) (capable draws : Bool) (f : Nat → Nat → Nat × Flags) : Hart :=
  let h := { s.hart with cs := drawnRegs s d m draws }
  if capable then noteFlags h (startOf s) true (raisedBy (computedLanes s d m draws f)) else h

section
variable {s : State} (hcut : s.issue.cut = none) (t : VType) (d : Dest) (m : BitVec 3) (capable draws : Bool)
  (f : Nat → Nat → Nat × Flags)
include hcut

theorem elementWise_writes : (elementWise s t d m capable draws f).writes = destWrites s.hart t d (startOf s)
    ((List.range' (startOf s) (d.count - startOf s)).map (fun i =>
      if isActive s.hart m i then some (resultAt s m draws f i).1 else inactiveLane t)) true := by
  unfold elementWise
  dsimp only
  rw [stopOf_uncut hcut, computeLanes_range, List.map_map, decide_eq_true le_rfl]
  refine congrArg (destWrites s.hart t d (startOf s) · true) (List.map_congr_left fun i _ => ?_)
  rw [Function.comp_apply]
  by_cases ha : isActive s.hart m i = true
  · simp only [if_pos ha]
    rfl
  · simp only [if_neg ha]

theorem elementWise_state :
    (elementWise s t d m capable draws f).state = s.mapHart fun _ => wordHart s d m capable draws f := by
  unfold elementWise
  dsimp only
  rw [stopOf_uncut hcut, computeLanes_range, decide_eq_true le_rfl]
  rfl

end

/-- An element raises a flag of an element-wise word where it is done, active, and its result has the flag. -/
theorem raises_computedLanes (s : State) (d : Dest) (m : BitVec 3) (draws : Bool) (f : Nat → Nat → Nat × Flags) (i k : Nat) :
    Raises (raisedBy (computedLanes s d m draws f)) i k ↔ i < d.count ∧
      (decide (startOf s ≤ i) && isActive s.hart m i && (resultAt s m draws f i).2.getLsbD k) = true := by
  have hm : i ∈ List.range' (startOf s) (d.count - startOf s) ↔ i < d.count ∧ startOf s ≤ i := by
    rw [List.mem_range'_1]
    omega
  rw [computedLanes, raises_lanes, hm, Bool.and_assoc, Bool.and_eq_true (decide _), decide_eq_true_iff, and_assoc]

section
variable (s : State) (d : Dest) (m : BitVec 3) (capable draws : Bool) (f : Nat → Nat → Nat × Flags)

theorem wordHart_eq : wordHart s d m capable draws f = { s.hart with cs := (wordHart s d m capable draws f).cs } := by
  cases capable with
  | false => rfl
  | true =>
    exact noteFlags_eq { s.hart with cs := drawnRegs s d m draws } (startOf s) true (raisedBy (computedLanes s d m draws f))

theorem wordHart_instret : (wordHart s d m capable draws f).cs.instret = s.hart.cs.instret := by
  cases capable <;> rfl

theorem wordHart_seed : (wordHart s d m capable draws f).cs.seed = (drawnRegs s d m draws).seed := by
  cases capable <;> rfl

theorem wordHart_vflags (k : Nat) : (wordHart s d m capable draws f).cs.vflags.getLsbD k = (s.hart.cs.vflags.getLsbD k ||
    (capable && (List.range d.count).any (fun i =>
      decide (startOf s ≤ i) && isActive s.hart m i && (resultAt s m draws f i).2.getLsbD k))) := by
  cases capable with
  | false => simp [wordHart, drawnRegs]
  | true =>
    have hu : (raisedBy (computedLanes s d m draws f)).union.getLsbD k = (List.range d.count).any (fun i =>
        decide (startOf s ≤ i) && isActive s.hart m i && (resultAt s m draws f i).2.getLsbD k) := by
      rw [Bool.eq_iff_iff, union_getLsbD_iff, List.any_eq_true]
      simp only [raises_computedLanes, List.mem_range]
    rw [Bool.true_and, ← hu, ← BitVec.getLsbD_or]
    rfl

theorem wordHart_first {k : Nat} (hk : k < 6) (hn : d.count ≤ 2 ^ 64 - 1) :
    vget (wordHart s d m true draws f).cs.first k 0 =
      let lowest : Word := BitVec.ofNat 64 (((List.range d.count).find? (fun i =>
        decide (startOf s ≤ i) && isActive s.hart m i && (resultAt s m draws f i).2.getLsbD k)).getD (2 ^ 64 - 1))
      let before := vget s.hart.cs.firstPart k 0
      if startOf s ≠ 0 ∧ before < lowest then before else lowest := by
  have hm := vget_partMinima { s.hart with cs := drawnRegs s d m draws } (startOf s)
    (raisedBy (computedLanes s d m draws f)) hk
  rw [first_eq_find hn fun i => raises_computedLanes s d m draws f i k] at hm
  exact hm

end

/-! ### Destinations of a word that ends -/

section
variable {s u : State} {x : Hart} {t : VType} {d : Dest} {start : Nat} {lanes : List (Option Nat)}
  (hl : Leaves s u x (destWrites s.hart t d start lanes true))
include hl

theorem Leaves.element (hx : x = { s.hart with cs := x.cs }) (hr : d.reg + d.group ≤ 32)
    (hw : d.width ∈ [1, 4, 8, 16, 32, 64]) {i : Nat} (hi : d.width * (i + 1) ≤ regBits s.hart * d.group) :
    element u.hart d.reg d.width i = ((laneAt start lanes i).map (· % 2 ^ d.width)).getD
      (if t.tail ∧ d.count ≠ 0 ∧ d.count ≤ i then 0 else element s.hart d.reg d.width i) := by
  have ho := applyWrites_only x (ws := destWrites s.hart t d start lanes true) fun w hw => .inl (groupWrites_reg hw)
  have hxs : x.split = s.hart.split := (congrArg Hart.split hx :)
  have hxv : x.ve.v = s.hart.ve.v := (congrArg (·.ve.v) hx :)
  have hus : u.hart.split = (applyWrites x (destWrites s.hart t d start lanes true)).split :=
    hl.split.trans (hxs.symm.trans (congrArg Hart.split ho :).symm)
  rw [element_congr hl.v hus, element_destWrites hxs hr (width_dvd_regBits _ hw) hi,
    element_congr hxv hxs]

theorem Leaves.onlyGroup (hx : x = { s.hart with cs := x.cs }) : OnlyGroup s u d.reg d.group := by
  refine ⟨fun k _ hk => ?_, ?_, hl.h, hl.lc, hl.sc, hl.beats⟩
  · rw [hl.v, destWrites, groupWrites_other _ _ _ _ hk]
    exact congrArg (vget · k 0) (congrArg (·.ve.v) hx :)
  · rw [hl.m, destWrites, groupWrites_m]
    exact (congrArg (·.ve.m) hx :)

end

/-! ### Mask registers (R103) -/

/-- The bits of a mask register that a word writes. -/
def maskOfWrites (h : Hart) (t : VType) (start : Nat) (lanes : List (Option Nat)) : Nat :=
  (packLanes 1 lanes).2 * 2 ^ start |||
    (if t.tail && h.cs.vl != 0 then 2 ^ regBits h - 2 ^ min (regBits h) h.cs.vl else 0)

theorem maskWrites_eq (h : Hart) (t : VType) (r start : Nat) (lanes : List (Option Nat)) :
    maskWrites h t r start lanes true = if maskOfWrites h t start lanes = 0 then [] else
      [⟨.m r, (packLanes 1 lanes).1 * 2 ^ start, maskOfWrites h t start lanes⟩] := rfl

theorem maskWrites_reg {h : Hart} {t : VType} {r start : Nat} {lanes : List (Option Nat)} {w : RegWrite}
    (hw : w ∈ maskWrites h t r start lanes true) : ∃ n, w.reg = .m n := by
  rw [maskWrites_eq] at hw
  split at hw
  · cases hw
  · rw [List.mem_singleton.1 hw]
    exact ⟨_, rfl⟩

theorem maskWrites_v (x h : Hart) (t : VType) (r start : Nat) (lanes : List (Option Nat)) :
    (applyWrites x (maskWrites h t r start lanes true)).ve.v = x.ve.v := by
  rw [maskWrites_eq]
  split
  · rfl
  · simp only [applyWrites, List.foldl_cons, List.foldl_nil, applyWrite_m_ve]

theorem maskWrites_other (x h : Hart) (t : VType) {r k : Nat} (start : Nat) (lanes : List (Option Nat)) (hk : k ≠ r) :
    vget (applyWrites x (maskWrites h t r start lanes true)).ve.m k 0 = vget x.ve.m k 0 := by
  rw [maskWrites_eq]
  split
  · rfl
  · simp only [applyWrites, List.foldl_cons, List.foldl_nil, applyWrite_m_ve]
    exact vget_vset_other _ _ _ _ _ hk

/-- A bit of the destination holds the value of its lane; without one it is 0 in the tail and the old value elsewhere. -/
theorem maskWrites_bit (x : Hart) {h : Hart} (t : VType) {r i : Nat} (start : Nat) (lanes : List (Option Nat)) (hr : r < 8)
    (hi : i < regBits h) : (vget (applyWrites x (maskWrites h t r start lanes true)).ve.m r 0).getLsbD i =
      ((laneAt start lanes i).map (·.testBit 0)).getD
        ((vget x.ve.m r 0).getLsbD i && !(decide (h.cs.vl ≤ i) && (t.tail && h.cs.vl != 0))) := by
  have hmerged : (vget (applyWrites x (maskWrites h t r start lanes true)).ve.m r 0).getLsbD i =
      if (maskOfWrites h t start lanes).testBit i then ((packLanes 1 lanes).1 * 2 ^ start).testBit i
      else (vget x.ve.m r 0).getLsbD i := by
    rw [maskWrites_eq]
    split
    · next h0 => simp [h0, applyWrites]
    · simp only [applyWrites, List.foldl_cons, List.foldl_nil, applyWrite_m_ve]
      rw [vget_vset_same _ _ _ _ hr, getLsbD_merged _ _ _ (hi.trans_le (regBits_le h))]
  obtain ⟨hval, hmask⟩ := testBit_packed start lanes i one_pos
  rw [Nat.one_mul, Nat.one_mul, Nat.add_zero] at hval hmask
  have htail : (if (t.tail && h.cs.vl != 0) = true then 2 ^ regBits h - 2 ^ min (regBits h) h.cs.vl else 0).testBit i =
      (decide (h.cs.vl ≤ i) && (t.tail && h.cs.vl != 0)) := by
    split
    · next ht => simp [testBit_run, hi, ht]
    · next ht => simp [ht]
  rw [hmerged, maskOfWrites, Nat.testBit_or, hval, hmask, htail]
  cases laneAt start lanes i with
  | some v => simp
  | none => cases decide (h.cs.vl ≤ i) && (t.tail && h.cs.vl != 0) <;> simp

/-! ### The three kinds of words -/

theorem elementwise_followRules : elementwiseResultsFollowMaskAndTail := by
  intro s t d m capable draws g h hr hw hcount lat u start active drawn f
  have hws := elementWise_writes h.uncut t d m capable draws g
  have hl : Leaves s u (wordHart s d m capable draws g) (elementWise s t d m capable draws g).writes :=
    written_leaves h.side lat (elementWise_state h.uncut t d m capable draws g) (wordHart_eq ..) (wordHart_instret ..)
      fun w hw => .inl (groupWrites_reg (hws ▸ hw))
  rw [hws] at hl
  refine ⟨fun i hi => ?_, hl.onlyGroup (wordHart_eq ..), hl.retired, hl.vprog, hl.seed.trans (wordHart_seed ..),
    fun k => ?_, ?_, ?_⟩
  · rw [hl.element (wordHart_eq ..) hr hw hi, laneAt_map_range']
    change _ = if i < d.count then (if i < startOf s then element s.hart d.reg d.width i else
      if isActive s.hart m i = true then (resultAt s m draws g i).1 % 2 ^ d.width
      else inactiveValue t (element s.hart d.reg d.width i)) else
        if t.tail ∧ d.count ≠ 0 then 0 else element s.hart d.reg d.width i
    by_cases hlt : i < d.count
    · by_cases hs : i < startOf s
      · simp [hlt, hs, Nat.not_le.2]
      · by_cases ha : isActive s.hart m i = true
        · simp [hlt, hs, Nat.not_lt.1 hs, ha]
        · by_cases hz : t.maskz = true <;>
            simp [hlt, hs, Nat.not_lt.1 hs, ha, hz, inactiveLane, inactiveValue]
    · simp [hlt, Nat.not_lt.1 hlt]
  · rw [hl.vflags]
    exact wordHart_vflags s d m capable draws g k
  · rintro rfl
    exact hl.first
  · rintro rfl k hk
    have hn : d.count ≤ 2 ^ 64 - 1 := by
      have hpos : 1 ≤ d.width := by
        simp only [List.mem_cons, List.not_mem_nil, or_false] at hw
        omega
      have h1 := Nat.mul_le_mul_right d.count hpos
      have h2 := Nat.mul_le_mul (regBits_le s.hart) (by omega : d.group ≤ 32)
      omega
    extract_lets raised lowest before
    have hlow : lowest = BitVec.ofNat 64 (((List.range d.count).find? raised).getD (2 ^ 64 - 1)) := by
      unfold lowest
      cases (List.range d.count).find? raised <;> rfl
    rw [hl.first, hlow]
    exact wordHart_first s d m draws g hk hn

theorem crossOp_uncut {s : State} (hcut : s.issue.cut = none) (t : VType) (d : Dest) (lanes : List (Option Nat)) :
    crossOp s t d lanes = ⟨s, destWrites s.hart t d 0 lanes true, none⟩ := by
  rw [crossOp, abandonOf, hcut, ite_self]

theorem maskOp_uncut {s : State} (hcut : s.issue.cut = none) (t : VType) (d : BitVec 5) (m : BitVec 3) (f : Nat → Bool) :
    maskOp s t d m f = ⟨s, maskWrites s.hart t d.toNat (startOf s)
      ((List.range' (startOf s) (s.hart.cs.vl - startOf s)).map (fun i =>
        if isActive s.hart m i then some (f i).toNat else inactiveLane t)) true, none⟩ := by
  simp [maskOp, stopOf_uncut hcut]

theorem cross_followRules {s : State} {t : VType} (h : Issuing s .vector) {d : Dest} {lanes : List (Option Nat)}
    (hr : d.reg + d.group ≤ 32) (hw : d.width ∈ [1, 4, 8, 16, 32, 64]) (hlen : lanes.length = d.count) (lat : Timing) :
    let u := written lat (crossOp s t d lanes)
    (∀ i, d.width * (i + 1) ≤ regBits s.hart * d.group → element u.hart d.reg d.width i =
      if i < d.count then lanes[i]?.join.elim (element s.hart d.reg d.width i) (· % 2 ^ d.width)
      else if t.tail ∧ d.count ≠ 0 then 0 else element s.hart d.reg d.width i) ∧
    OnlyGroup s u d.reg d.group ∧ Retired s u ∧ u.hart.cs.vflags = s.hart.cs.vflags ∧
    u.hart.cs.first = s.hart.cs.first := by
  rw [crossOp_uncut h.uncut]
  intro u
  have hl : Leaves s u s.hart (destWrites s.hart t d 0 lanes true) :=
    written_leaves h.side lat rfl rfl rfl fun w hw => .inl (groupWrites_reg hw)
  refine ⟨fun i hi => ?_, hl.onlyGroup rfl, hl.retired, hl.vflags, hl.first⟩
  rw [hl.element rfl hr hw hi, laneAt, if_pos (Nat.zero_le i), Nat.sub_zero]
  by_cases hlt : i < d.count
  · rw [if_pos hlt, if_neg fun hle => by omega]
    cases lanes[i]?.join <;> rfl
  · have hnone : lanes[i]?.join = none := by rw [List.getElem?_eq_none (by omega)]; rfl
    simp [hlt, hnone, Nat.not_lt.1 hlt]

theorem mask_followRules {s : State} {t : VType} (h : Issuing s .vector) (hp : s.hart.cs.vprog = 0) {d : BitVec 5}
    {m : BitVec 3} {f : Nat → Bool} (hd : d.toNat < 8) (lat : Timing) :
    let u := written lat (maskOp s t d m f)
    (∀ i, i < regBits s.hart → (vget u.hart.ve.m d.toNat 0).getLsbD i =
      if i < s.hart.cs.vl then
        (if isActive s.hart m i = true then f i else ((vget s.hart.ve.m d.toNat 0).getLsbD i && !t.maskz))
      else ((vget s.hart.ve.m d.toNat 0).getLsbD i && !(t.tail && s.hart.cs.vl != 0))) ∧
    (∀ k, k ≠ d.toNat → vget u.hart.ve.m k 0 = vget s.hart.ve.m k 0) ∧ u.hart.ve.v = s.hart.ve.v ∧
    u.hart.ve.h = s.hart.ve.h ∧ (∃ n, OnlyHartBeats s u n) ∧ Retired s u ∧ u.hart.cs.vflags = s.hart.cs.vflags ∧
    u.hart.cs.first = s.hart.cs.first := by
  have hstart : startOf s = 0 := by rw [startOf, hp]; rfl
  rw [maskOp_uncut h.uncut]
  intro u
  have hl : Leaves s u s.hart (maskWrites s.hart t d.toNat (startOf s)
      ((List.range' (startOf s) (s.hart.cs.vl - startOf s)).map (fun i =>
        if isActive s.hart m i then some (f i).toNat else inactiveLane t)) true) :=
    written_leaves h.side lat rfl rfl rfl fun w hw => .inr (maskWrites_reg hw)
  refine ⟨fun i hi => ?_, fun k hk => ?_, ?_, hl.h, hl.beats, hl.retired, hl.vflags, hl.first⟩
  · rw [hl.m, maskWrites_bit _ _ _ _ hd hi, laneAt_map_range', hstart]
    by_cases hlt : i < s.hart.cs.vl
    · by_cases ha : isActive s.hart m i = true
      · cases f i <;> simp [hlt, ha]
      · by_cases hz : t.maskz = true <;> simp [hlt, ha, hz, inactiveLane]
    · simp [hlt, Nat.not_lt.1 hlt]
  · rw [hl.m, maskWrites_other _ _ _ _ _ hk]
  · rw [hl.v, maskWrites_v]

theorem isActive_iff (h : Hart) (m : BitVec 3) (i : Nat) :
    isActive h m i = true ↔ m = 0 ∨ (vget h.ve.m m.toNat 0).getLsbD i = true := by
  rw [isActive, Bool.or_eq_true, beq_iff_eq]
  rfl

theorem crossAndMask_followRules : crossAndMaskResultsFollowTheirRules := by
  intro s t h hp
  refine ⟨fun d lanes hr hw hlen _ lat => ?_, fun d m f hd _ lat => ?_⟩
  · obtain ⟨hbits, hrest⟩ := cross_followRules (t := t) h hr hw hlen lat
    refine ⟨fun i hi => (hbits i hi).trans ?_, hrest⟩
    cases lanes[i]?.join <;> rfl
  · obtain ⟨hbits, hother, hrest⟩ := mask_followRules (t := t) (m := m) (f := f) h hp hd lat
    refine ⟨fun i hi => (hbits i hi).trans ?_, fun k _ hk => hother k hk, hrest⟩
    simp only [isActive_iff]

/-- Settles O26: element-wise words by their lanes, draws and flags, and the others by their lanes alone. -/
theorem elementResultsFollowTheirRules : Obligations.ElementResultsFollowTheirRules :=
  ⟨elementwise_followRules, crossAndMask_followRules⟩

end Sys2Proof.Machine
end

section
/-!
LAW. Granted lengths, and the split of the live set by a branch that diverges (R27, R99, R106, R108). Settles O34 and O35.
-/

namespace Sys2Proof.Machine

/-! ### VSETL (R99) -/

theorem toNat_toInt_of_pos {x : Word} (h : 0 < x.toInt) : x.toInt.toNat = x.toNat :=
  BitVec.toNat_toInt_of_sle (BitVec.sle_iff_toInt_le.2 h.le)

theorem VType.whole_eq (t : VType) (n : Nat) : t.whole n = if t.bs = 0 then n else n - n % (8 * 2 ^ t.bs) := by
  rw [VType.whole, VType.block]
  split <;> rfl

theorem grantedLength_none {h : Hart} (hv : h.cs.vtype = none) (avl : Word) : grantedLength h avl = 0 := by
  rw [grantedLength, hv]

theorem grantedLength_some {h : Hart} {t : VType} (hv : h.cs.vtype = some t) (avl : Word) :
    grantedLength h avl = if avl.toInt ≤ 0 then 0 else t.whole (min avl.toInt.toNat (t.vlmax (regBits h))) := by
  rw [grantedLength, hv]
  exact ite_congr rfl (fun _ => rfl) fun hp => by rw [toNat_toInt_of_pos (not_le.1 hp)]

/-- VSETL sets VL and h[d] to the length granted, and nothing else. -/
theorem execVsetl_step {s : State} (h : Issuing s .vector) {d a : BitVec 5} (hd : d.toNat < 16) (ha : a.toNat < 16) {n : Nat}
    (hn : grantedLength s.hart (hRead s.hart a.toNat) = n) : ∃ t, execVsetl d a s = .next t ∧
      VectorStep s t (withH { s.hart with cs := { s.hart.cs with vl := n } } d (BitVec.ofNat 64 n)) (s.hart.ve.pc + 4) := by
  have hv := vectorStep_retire h.side
    (f := fun x => hWrite { x with cs := { x.cs with vl := n } } d.toNat (word n)) (by constructor <;> simp [hWrite])
  have hw := hWrite_clean (h := { s.hart with cs := { s.hart.cs with vl := n } }) h.clean d (word n)
  refine ⟨_, ?_, hw ▸ hv⟩
  rw [execVsetl, h.runPlain (by simp [isH_iff.2 hd, isH_iff.2 ha]) rfl, hn]
  rfl

/-- Settles O34: the length is that of R99 with and without a well-formed VTYPE. -/
theorem vsetlGrantsTheLength : Obligations.VsetlGrantsTheLength := by
  intro s d a h hd ha avl granted
  refine execVsetl_step h hd ha ?_
  cases hv : s.hart.cs.vtype with
  | none =>
    rw [grantedLength_none hv]
    simp only [granted, hv]
  | some t =>
    rw [grantedLength_some hv, VType.whole_eq]
    simp only [granted, hv]
    rfl

/-! ### Bits of a mask register below a length (R108) -/

/-- Removing from a number the bits it shares with another, and adding them again. -/
theorem xor_and_add_and (a b : Nat) : (a ^^^ (a &&& b)) + (a &&& b) = a := by
  induction a using Nat.div2Induction generalizing b with
  | ind a ih =>
    obtain rfl | hpos := Nat.eq_zero_or_pos a
    · simp
    · have hhalf := ih hpos (b / 2)
      rw [← Nat.and_div_two, ← Nat.xor_div_two] at hhalf
      have hxor : (a ^^^ (a &&& b)) % 2 = (a + (a &&& b)) % 2 := Nat.xor_mod_two_eq
      have hand : (a &&& b) % 2 ≤ a % 2 := (Nat.and_mod_two_pow (n := 1)).trans_le Nat.and_le_left
      omega

theorem xor_and_eq_sub (a b : Nat) : a ^^^ (a &&& b) = a - (a &&& b) :=
  Nat.eq_sub_of_add_eq (xor_and_add_and a b)

/-- Only the bits below `n` of a mask bear on which of the elements below `n` it selects. -/
theorem mod_and_mod (a b n : Nat) : a % 2 ^ n &&& b % 2 ^ n = a % 2 ^ n &&& b := by
  rw [← Nat.and_mod_two_pow, ← Nat.and_two_pow_sub_one_eq_mod, ← Nat.and_two_pow_sub_one_eq_mod, Nat.and_right_comm]

theorem mergeBits_below (old v n : Nat) : mergeBits old v (2 ^ n - 1) = old / 2 ^ n * 2 ^ n + v % 2 ^ n := by
  refine Nat.eq_of_testBit_eq fun i => ?_
  rw [testBit_mergeBits, Nat.testBit_two_pow_sub_one, mul_comm, Nat.testBit_two_pow_mul_add _ (Nat.mod_lt _ (Nat.two_pow_pos n))]
  by_cases hi : i < n
  · simp [hi]
  · simp [hi, Nat.testBit_div_two_pow, Nat.sub_add_cancel (not_lt.1 hi)]

theorem refresh_eq (h : Hart) (r : RegId) : refresh h r = { h with stale := h.stale.filter (· != r) } := by
  unfold refresh
  split
  · next hs => rw [List.isEmpty_iff.1 hs, List.filter_nil, ← List.isEmpty_iff.1 hs]
  · rfl

theorem mendPoison_clean {h : Hart} (hc : h.poison = []) (k n : Nat) : mendPoison h k n = h := by
  rw [mendPoison, hc]
  rfl

/-- The hart with the bits of a mask register below `n` replaced; the register holds its latest write (R31). -/
abbrev withMaskBelow (h : Hart) (r n v : Nat) : Hart :=
  { h with stale := h.stale.filter (· != .m r), ve := { h.ve with m := vset h.ve.m r (maskBelow (vget h.ve.m r 0) n v) } }

theorem setMaskBelow_clean {h : Hart} (hc : h.poison = []) {n : Nat} (hn : n ≤ regBits h) (r v : Nat) :
    setMaskBelow h r n v = withMaskBelow h r n v := by
  have hm : refresh (maskWritten h r n v) (.m r) = withMaskBelow h r n v := by
    rw [refresh_eq, maskWritten, min_eq_left hn, mergeBits_below]
    rfl
  rw [setMaskBelow_def, hm, mendPoison_clean (h := withMaskBelow h r n v) hc, ite_self]

/-! ### VBDIV (R108) -/

/-- An entry pushed onto a buffer with room for it is the newest. -/
theorem pushFragment_room {s : State} (h : s.hart.ve.frags.length < 4) (e : Fragment) :
    pushFragment s e = .ok (s.mapHart fun x => withFrags x (e :: s.hart.ve.frags)) := by
  rw [pushFragment, if_pos h]

/-- VBDIV by the live elements that take the branch and the others: all of one kind, or some of both. -/
theorem execVbdiv_eq {s : State} {t : VType} (h : VectorIssuing s t) {a : BitVec 5} (o : BitVec 14) (ha : a.toNat < 8)
    (hm : s.hart.cs.vl ≤ regBits s.hart) {u tk : Nat} (hu : maskBits s.hart 0 % 2 ^ s.hart.cs.vl = u)
    (htk : u &&& maskBits s.hart a.toNat = tk) :
    execVbdiv a o s = finish s (
      if u - tk = 0 ∧ tk ≠ 0 then .ok (retireTo s (relTarget s o))
      else if tk = 0 then .ok (retire s)
      else do
        let v ← pushFragment s ⟨pcOf s + 4, a.setWidth 3, s.hart.cs.vl, BitVec.ofNat 65536 u, BitVec.ofNat 65536 (u - tk), false⟩
        .ok (retireTo (v.mapHart fun x => setMaskBelow (setMaskBelow x 0 s.hart.cs.vl tk) a.toNat s.hart.cs.vl tk)
          (relTarget s o))) := by
  subst hu htk
  rw [execVbdiv, h.issuing.runPlain (isMask_iff.2 ha) (by simp [h.fits, maskFits, hm]), ← xor_and_eq_sub]

/-- The hart after a split: the fragment of the elements that do not branch is pushed, and those that do are the live set
below `n` and the mask of their code. -/
abbrev splitHart (h : Hart) (l : List Fragment) (a : BitVec 5) (n tk : Nat) : Hart :=
  setMaskBelow (setMaskBelow (withFrags h l) 0 n tk) a.toNat n tk

theorem splitHart_eq {h : Hart} (hc : h.poison = []) {n : Nat} (hn : n ≤ regBits h) (l : List Fragment) (a : BitVec 5)
    (tk : Nat) : splitHart h l a n tk = withMaskBelow (withMaskBelow (withFrags h l) 0 n tk) a.toNat n tk := by
  rw [splitHart, setMaskBelow_clean (h := withFrags h l) hc hn]
  exact setMaskBelow_clean (h := withMaskBelow (withFrags h l) 0 n tk) hc hn _ _

theorem keeps_splitHart (h : Hart) (l : List Fragment) (a : BitVec 5) (n tk : Nat) :
    Keeps (fun x => splitHart x l a n tk) h :=
  keeps_setMaskBelow (keeps_setMaskBelow (f := fun x => withFrags x l) ⟨rfl, rfl, rfl, rfl, rfl⟩ 0 n tk) a.toNat n tk

/-- A branch with the live set split leaves the buffer `l`, the two masks, and nothing else of the hart but its place. -/
theorem vectorStep_splitHart {s : State} (h : Issuing s .vector) {n : Nat} (hn : n ≤ regBits s.hart) (l : List Fragment)
    (a : BitVec 5) (tk : Nat) (pc : Word) :
    let r := retireTo (s.mapHart fun x => splitHart x l a n tk) pc
    r.hart.ve.frags = l ∧ VectorStep s r
      (withMaskBelow (withMaskBelow (withFrags s.hart r.hart.ve.frags) 0 n tk) a.toNat n tk) pc := by
  intro r
  have hv : VectorStep s r (splitHart s.hart l a n tk) pc := vectorStep_jump h.side (keeps_splitHart s.hart l a n tk) pc
  rw [splitHart_eq h.clean hn] at hv
  have hl : r.hart.ve.frags = l := congrArg (·.hart.ve.frags) hv
  exact ⟨hl, by rwa [hl]⟩

/-- Settles O35: the three cases of the split, the last through the fragment pushed and the two masks set. -/
theorem vbdivSplitsTheLiveSet : Obligations.VbdivSplitsTheLiveSet := by
  intro s t a o h ha hm vl u tk fl pc target
  have hs := h.issuing.side
  have htk : u &&& maskBits s.hart a.toNat = tk := (mod_and_mod _ _ _).symm
  have hpc : pcOf s = pc := by simp [pcOf, hs, pc]
  dsimp only [exec]
  rw [execVbdiv_eq h o ha hm (show _ = u from rfl) htk, relTarget_vector hs, hpc]
  refine ⟨fun hfl h0 => ?_, fun h0 => ?_, fun hfl h0 hroom => ?_⟩
  · rw [if_pos ⟨hfl, h0⟩]
    exact ⟨_, rfl, vectorStep_jump hs (keeps_id s.hart) _⟩
  · rw [if_neg fun hc => hc.2 h0, if_pos h0]
    exact ⟨_, rfl, vectorStep_retire hs (keeps_id s.hart)⟩
  · rw [if_neg fun hc => hfl hc.1, if_neg h0, pushFragment_room hroom]
    exact ⟨_, rfl, vectorStep_splitHart h.issuing hm
      (⟨pc + 4, a.setWidth 3, vl, BitVec.ofNat 65536 u, BitVec.ofNat 65536 fl, false⟩ :: s.hart.ve.frags) a tk target⟩

end Sys2Proof.Machine
end

section
/-!
LAW. The bytes that a core's scalar side reads, and what a scalar load and store leave of them (R3, R117, R128, R129, R134,
R223, R237, R238). Settles O10.
-/

namespace Sys2Proof.Machine

/-! ### Bytes of a line under a mask -/

theorem lineBytes_one (d : Line) (i : Nat) : lineBytes d i 1 = (byteAt i d.toNat).toNat := by
  rw [lineBytes, byteAt, BitVec.toNat_ofNat, pow_one]

/-- A byte of a line is given by its eight bits. -/
theorem byteAt_line_eq_iff {x y : Line} {i : Nat} :
    byteAt i x.toNat = byteAt i y.toNat ↔ ∀ k < 8, x.getLsbD (8 * i + k) = y.getLsbD (8 * i + k) := by
  have hat : (256 : Nat) ^ i = 2 ^ (8 * i) := (pow_mul 2 8 i).symm
  have hbit (z : Line) (k : Nat) (hk : k < 8) : (byteAt i z.toNat).getLsbD k = z.getLsbD (8 * i + k) := by
    rw [byteAt, BitVec.getLsbD_ofNat, decide_eq_true hk, Bool.true_and, hat, Nat.testBit_div_two_pow, BitVec.getLsbD,
      Nat.add_comm]
  rw [BitVec.eq_of_getLsbD_eq_iff]
  exact forall₂_congr fun k hk => by rw [hbit x k hk, hbit y k hk]

/-- The bits that a byte mask covers are those of its bytes. -/
theorem getLsbD_bitsOfMask (mask : BitVec 128) {i k : Nat} (hi : i < 128) (hk : k < 8) :
    (bitsOfMask mask).getLsbD (8 * i + k) = mask.getLsbD i := by
  have hbyte (j : Nat) : (BitVec.ofNat 1024 (255 * 2 ^ (8 * j))).getLsbD (8 * i + k) = decide (j = i) := by
    have h255 : 255 = 2 ^ 8 - 1 := rfl
    rw [BitVec.getLsbD_ofNat, h255, Nat.testBit_mul_two_pow, Nat.testBit_two_pow_sub_one]
    simp only [← Bool.decide_and, decide_eq_decide]
    omega
  have hfold (n : Nat) : ((List.range n).foldl
      (fun acc j => if mask.getLsbD j then acc ||| BitVec.ofNat 1024 (255 * 2 ^ (8 * j)) else acc) (0 : Line)).getLsbD
        (8 * i + k) = (decide (i < n) && mask.getLsbD i) := by
    induction n with
    | zero => simp
    | succ n ih =>
      have hlast : (decide (i < n + 1) && mask.getLsbD i) =
          ((decide (i < n) && mask.getLsbD i) || (decide (n = i) && mask.getLsbD n)) := by
        by_cases hn : n = i
        · simp [hn]
        · have hlt : i < n + 1 ↔ i < n := by omega
          simp [hlt, hn]
      rw [List.range_succ, List.foldl_append, List.foldl_cons, List.foldl_nil, hlast]
      cases hm : mask.getLsbD n with
      | true => rw [if_pos rfl, BitVec.getLsbD_or, ih, hbyte, Bool.and_true]
      | false => rw [if_neg Bool.false_ne_true, ih, Bool.and_false, Bool.or_false]
  rw [bitsOfMask, hfold, decide_eq_true hi, Bool.true_and]

theorem getLsbD_mergeLine (old new : Line) (mask : BitVec 128) {i k : Nat} (hi : i < 128) (hk : k < 8) :
    (mergeLine old new mask).getLsbD (8 * i + k) =
      if mask.getLsbD i = true then new.getLsbD (8 * i + k) else old.getLsbD (8 * i + k) := by
  have hlt : 8 * i + k < 1024 := by omega
  simp only [mergeLine, BitVec.getLsbD_or, BitVec.getLsbD_and, BitVec.getLsbD_not, getLsbD_bitsOfMask mask hi hk, hlt]
  cases mask.getLsbD i <;> simp

/-- A merged line holds the new bytes under the mask, and the old ones elsewhere. -/
theorem byteAt_mergeLine (old new : Line) (mask : BitVec 128) {i : Nat} (hi : i < 128) :
    byteAt i (mergeLine old new mask).toNat =
      if mask.getLsbD i = true then byteAt i new.toNat else byteAt i old.toNat := by
  have hbits := fun k hk => getLsbD_mergeLine old new mask hi (k := k) hk
  split
  · next hm => exact byteAt_line_eq_iff.2 fun k hk => by rw [hbits k hk, if_pos hm]
  · next hm => exact byteAt_line_eq_iff.2 fun k hk => by rw [hbits k hk, if_neg hm]

theorem byteAt_memLine (m : Memory) (a : Nat) : byteAt (a % 128) (memLine m (lineOf a)).toNat = memByte m a := by
  have hlt : a % 128 < 128 := Nat.mod_lt a (by decide)
  rw [memLine, byteAt_toNat_line hlt, byteAt_memRead _ _ hlt, lineOf_offset]

/-- The mask of bytes of one line covers those bytes, and no other of the line. -/
theorem getLsbD_byteMask_iff {off n i : Nat} (hn : off + n ≤ 128) :
    (byteMask off n).getLsbD i = true ↔ off ≤ i ∧ i < off + n := by
  rw [byteMask, BitVec.getLsbD_ofNat, Nat.testBit_mul_two_pow, Nat.testBit_two_pow_sub_one]
  simp only [Bool.and_eq_true, decide_eq_true_eq]
  omega

/-- The locations of `n` bytes of one line are those of the line that the bytes' mask covers. -/
theorem mem_byteMask_iff {b n a : Nat} (hn : b % 128 + n ≤ 128) :
    (lineOf a = lineOf b ∧ (byteMask (b % 128) n).getLsbD (a % 128) = true) ↔ b ≤ a ∧ a < b + n := by
  rw [getLsbD_byteMask_iff hn, lineOf, lineOf]
  omega

/-- A line lies in the windows whole or not at all. -/
theorem isWindowLoc_congr {a b : Nat} (h : lineOf a = lineOf b) : isWindowLoc a = isWindowLoc b := by
  simp only [lineOf] at h
  simp only [isWindowLoc, decide_eq_decide, Nat.reducePow]
  omega

/-- A line written under a mask leaves every other byte of memory. -/
theorem memByte_memPutLine_other {m : Memory} (hwf : m.wf = true) {line b : Nat} {mask : BitVec 128}
    (h : ¬ (lineOf b = line ∧ mask.getLsbD (b % 128) = true)) (data : Line) :
    memByte (memPutLine m line data mask) b = memByte m b := by
  have hkeeps : (memPutLine m line data mask).wf = true ∧ memByte (memPutLine m line data mask) b = memByte m b := by
    refine foldl_keeps (P := fun u : Memory => u.wf = true ∧ memByte u b = memByte m b) ⟨hwf, rfl⟩ fun u i hu => ?_
    split
    · next hm =>
      have hi : i < 128 := BitVec.lt_of_getLsbD hm
      have hb : b ≠ 128 * line + i := by
        rintro rfl
        have hmod : (128 * line + i) % 128 = i := by omega
        exact h ⟨by rw [lineOf]; omega, by rwa [hmod]⟩
      exact ⟨wf_memSet hu.1 _ _, by rw [memByte_memSet hu.1, if_neg hb, hu.2]⟩
    · exact hu
  exact hkeeps.2

/-! ### The byte that a core reads -/

/-- A line as a core's scalar side reads it: its L1 copy, or the point below the L1 with the core's held bytes over it. -/
def seenLine (s : State) (core line : Nat) : Line :=
  match s.l1Line? core line with
  | some x => x.data
  | none => s.withHeld core line (s.pointLine (core / 64) line)

/-- The byte of a location at the point of a stack. -/
def pointByte (s : State) (stack a : Nat) : Byte := byteAt (a % 128) (s.pointLine stack (lineOf a)).toNat

/-- What decides the byte that a core reads at a location is the same in both states (`SeenAlike.seenByte`). -/
structure SeenAlike (s t : State) (core a : Nat) : Prop where
  l1    : t.l1 = s.l1
  held  : t.contexts.map (·.held) = s.contexts.map (·.held)
  mem   : memByte t.mem a = memByte s.mem a
  point : pointByte t (core / 64) a = pointByte s (core / 64) a

theorem seenByte_eq (s : State) (core a : Nat) : seenByte s core a =
    if isWindowLoc a = true then (memByte s.mem a).toNat else (byteAt (a % 128) (seenLine s core (lineOf a)).toNat).toNat := by
  rw [seenByte, seenLine]
  split
  · rfl
  · cases s.l1Line? core (lineOf a) <;> exact lineBytes_one _ _

theorem seenLine_none {s : State} {core line : Nat} (h : s.l1Line? core line = none) :
    seenLine s core line = s.withHeld core line (s.pointLine (core / 64) line) := by rw [seenLine, h]

theorem seenLine_some {s : State} {core line : Nat} {x : L1Line} (h : s.l1Line? core line = some x) :
    seenLine s core line = x.data := by rw [seenLine, h]

/-- The bytes that one held write lays over a line for a core. -/
def heldOver (core line : Nat) (d : Line) (w : HeldWrite) : Line :=
  if w.core == some core && w.line == line && w.bank.isNone then mergeLine d w.data w.dirty else d

theorem withHeld_eq (s : State) (core line : Nat) (d : Line) :
    s.withHeld core line d = (s.contexts.map (·.held)).foldl (fun d l => l.foldl (heldOver core line) d) d := by
  rw [List.foldl_map]
  rfl

/-- Held bytes lie over a line byte by byte. -/
theorem byteAt_withHeld (s : State) (core line : Nat) {d e : Line} {i : Nat} (hi : i < 128)
    (h : byteAt i d.toNat = byteAt i e.toNat) :
    byteAt i (s.withHeld core line d).toNat = byteAt i (s.withHeld core line e).toNat := by
  have hstep (x y : Line) (w : HeldWrite) (hxy : byteAt i x.toNat = byteAt i y.toNat) :
      byteAt i (heldOver core line x w).toNat = byteAt i (heldOver core line y w).toNat := by
    unfold heldOver
    split
    · rw [byteAt_mergeLine _ _ _ hi, byteAt_mergeLine _ _ _ hi, hxy]
    · exact hxy
  have hlist (l : List HeldWrite) (x y : Line) (hxy : byteAt i x.toNat = byteAt i y.toNat) :
      byteAt i (l.foldl (heldOver core line) x).toNat = byteAt i (l.foldl (heldOver core line) y).toNat := by
    induction l generalizing x y with
    | nil => exact hxy
    | cons w l ih => exact ih _ _ (hstep x y w hxy)
  rw [withHeld_eq, withHeld_eq]
  generalize s.contexts.map (·.held) = ls
  induction ls generalizing d e with
  | nil => exact h
  | cons l ls ih => exact ih (hlist l d e h)

theorem withHeld_congr {s t : State} (h : t.contexts.map (·.held) = s.contexts.map (·.held)) (core line : Nat) (d : Line) :
    t.withHeld core line d = s.withHeld core line d := by rw [withHeld_eq, withHeld_eq, h]

theorem SeenAlike.seenByte {s t : State} {core a : Nat} (h : SeenAlike s t core a) :
    seenByte t core a = seenByte s core a := by
  have hl1 : t.l1Line? core (lineOf a) = s.l1Line? core (lineOf a) := by rw [State.l1Line?, h.l1, State.l1Line?]
  rw [seenByte_eq, seenByte_eq, h.mem]
  refine if_congr Iff.rfl rfl (congrArg _ ?_)
  cases hx : s.l1Line? core (lineOf a) with
  | some x => rw [seenLine_some (hl1.trans hx), seenLine_some hx]
  | none =>
    rw [seenLine_none (hl1.trans hx), seenLine_none hx, withHeld_congr h.held]
    exact byteAt_withHeld s core (lineOf a) (Nat.mod_lt a (by decide)) h.point

theorem SeenAlike.refl (s : State) (core a : Nat) : SeenAlike s s core a := ⟨rfl, rfl, rfl, rfl⟩

theorem SeenAlike.trans {s t u : State} {core a : Nat} (h : SeenAlike s t core a) (h' : SeenAlike t u core a) :
    SeenAlike s u core a :=
  ⟨h'.l1.trans h.l1, h'.held.trans h.held, h'.mem.trans h.mem, h'.point.trans h.point⟩

/-- The point of a stack has a byte from its copy of the line or from memory. -/
theorem pointByte_congr {s t : State} {a : Nat} (hl2 : t.l2 = s.l2) (hm : memByte t.mem a = memByte s.mem a) (stack : Nat) :
    pointByte t stack a = pointByte s stack a := by
  rw [pointByte, pointByte, State.pointLine, State.pointLine, hl2]
  split
  · rfl
  · rw [byteAt_memLine, byteAt_memLine, hm]

theorem SeenAlike.of_mem {s t : State} {core a : Nat} (hl1 : t.l1 = s.l1) (hl2 : t.l2 = s.l2)
    (hc : t.contexts.map (·.held) = s.contexts.map (·.held)) (hm : memByte t.mem a = memByte s.mem a) :
    SeenAlike s t core a := ⟨hl1, hc, hm, pointByte_congr hl2 hm _⟩

/-! ### What leaves the byte at a location -/

/-- The marks of an access lie in the two bytes of the leaf entry. -/
theorem seenAlike_markAccess {s : State} (hs : Canonical s) {l : Located} {a : Nat} (h : notMarked l a)
    (k : AccessKind) (core : Nat) : SeenAlike s (markAccess s l k .other) core a := by
  unfold markAccess
  split
  · exact .refl s core a
  · next p hp =>
    obtain ⟨h0, h1⟩ := h p hp
    exact .of_mem rfl rfl rfl ((memByte_memWrite hs.wf p 2 _ a).trans (if_neg (by omega)))

/-- A shadow that is taken leaves memory, the copies of lines and the held writes. -/
theorem guardWrite_keeps (s : State) (stack a n : Nat) : OkAll (fun t => t = { s with contexts := t.contexts } ∧
    t.contexts.map (·.held) = s.contexts.map (·.held)) (s.guardWrite stack a n) := by
  unfold State.guardWrite
  extract_lets
  split
  · exact .error
  · split
    · exact .error
    · split
      · exact .ok ⟨rfl, rfl⟩
      · split
        · exact .ok ⟨rfl, rfl⟩
        · split
          · exact .ok ⟨rfl, rfl⟩
          · refine .ite (.ok ⟨rfl, rfl⟩) (.ite .error (.ok ⟨rfl, ?_⟩))
            rw [mapCtx_contexts, List.map_map]
            exact List.map_congr_left fun c _ => by dsimp only [Function.comp]; split <;> rfl

theorem seenAlike_guardWrite {s g : State} {stack b n : Nat} (h : s.guardWrite stack b n = .ok g) (core a : Nat) :
    SeenAlike s g core a := by
  obtain ⟨hg, hheld⟩ := guardWrite_keeps s stack b n g h
  rw [hg]
  exact .of_mem rfl rfl hheld rfl

/-- A search does not miss what only a filter that spares all it looks for has removed. -/
theorem find?_filter_of_imp {α : Type} {p q : α → Bool} (h : ∀ x, q x = true → p x = true) (l : List α) :
    (l.filter p).find? q = l.find? q := by
  rw [List.find?_filter]
  refine congrArg (fun f => l.find? f) (funext fun x => ?_)
  cases hq : q x with
  | true => simp [h x hq]
  | false => simp

/-- The contents of a copied line at the point of a stack after a write there. -/
theorem pointLine_putLine_copied {s : State} {line : Nat} (hc : isCopied (128 * line) = true) (stack : Nat) (data : Line)
    (mask : BitVec 128) (line' : Nat) : (s.putLine stack line data mask).pointLine stack line' =
      if line' = line then mergeLine (s.pointLine stack line) data mask else s.pointLine stack line' := by
  by_cases hl : line' = line
  · subst hl
    simp [State.putLine, State.pointLine, hc]
  · have hfind : (s.l2.filter (fun x => !(x.stack == stack && x.line == line))).find?
        (fun x => x.stack == stack && x.line == line') = s.l2.find? (fun x => x.stack == stack && x.line == line') :=
      find?_filter_of_imp (fun x hx => by
        have hx' : x.line = line' := (by simpa using hx : x.stack = stack ∧ x.line = line').2
        simp [hx', hl]) s.l2
    simp [-List.find?_filter, -Bool.not_and, State.putLine, State.pointLine, hc, hl, Ne.symm hl, hfind]

/-- A write at the point leaves every byte but those of its line under its mask. -/
theorem seenAlike_putLine {s : State} (hs : Canonical s) {core line a : Nat} {mask : BitVec 128}
    (h : ¬ (lineOf a = line ∧ mask.getLsbD (a % 128) = true)) (data : Line) :
    SeenAlike s (s.putLine (core / 64) line data mask) core a := by
  have hlt : a % 128 < 128 := Nat.mod_lt a (by decide)
  cases hc : isCopied (128 * line) with
  | true =>
    have hput := pointLine_putLine_copied hc (s := s) (core / 64) data mask (lineOf a)
    have hput' : s.putLine (core / 64) line data mask = { s with l2 := (s.putLine (core / 64) line data mask).l2 } := by
      simp [State.putLine, hc]
    refine ⟨by rw [hput'], by rw [hput'], by rw [hput'], ?_⟩
    rw [pointByte, hput, pointByte]
    split
    · next hl => rw [byteAt_mergeLine _ _ _ hlt, if_neg fun hm => h ⟨hl, hm⟩, hl]
    · rfl
  | false =>
    have hput : s.putLine (core / 64) line data mask = s.store line (memPutLine s.mem line data mask) := by
      simp [State.putLine, hc]
    rw [hput]
    exact .of_mem rfl rfl rfl (memByte_memPutLine_other hs.wf h data)

/-! ### A line brought into the L1, and a write there -/

theorem l1Line?_l1Put (s : State) (x : L1Line) (line : Nat) :
    (s.l1Put x).l1Line? x.core line = if line = x.line then some x else s.l1Line? x.core line := by
  rw [State.l1Line?, l1Put_l1, State.l1Line?]
  by_cases hl : line = x.line
  · simp [hl]
  · rw [if_neg hl, List.find?_cons_of_neg (by simp [Ne.symm hl])]
    refine find?_filter_of_imp (fun y hy => ?_) s.l1
    have hy' : y.line = line := (by simpa using hy : y.core = x.core ∧ y.line = line).2
    simp [hy', hl]

theorem seenLine_l1Put {s : State} {core : Nat} {x : L1Line} (hx : x.core = core) (line : Nat) :
    seenLine (s.l1Put x) core line = if line = x.line then x.data else seenLine s core line := by
  subst hx
  have hput := l1Line?_l1Put s x line
  split
  · next hl => exact seenLine_some (by rw [hput, if_pos hl])
  · next hl =>
    rw [if_neg hl] at hput
    unfold seenLine
    rw [hput]
    rfl

theorem seenByte_l1Put {s : State} {core : Nat} {x : L1Line} (hx : x.core = core) (a : Nat) :
    seenByte (s.l1Put x) core a = if isWindowLoc a = false ∧ lineOf a = x.line then (byteAt (a % 128) x.data.toNat).toNat
      else seenByte s core a := by
  rw [seenByte_eq, seenByte_eq, seenLine_l1Put hx]
  cases isWindowLoc a with
  | true => simp
  | false => by_cases hl : lineOf a = x.line <;> simp [hl]

theorem l1Fill_line (s : State) (core line : Nat) : (s.l1Fill core line).1.core = core ∧
    (s.l1Fill core line).1.line = line ∧ (s.l1Fill core line).1.data = seenLine s core line := by
  unfold State.l1Fill
  cases hx : s.l1Line? core line with
  | some x =>
    obtain ⟨hcore, hline⟩ : x.core = core ∧ x.line = line := by simpa using List.find?_some hx
    exact ⟨hcore, hline, (seenLine_some hx).symm⟩
  | none => exact ⟨rfl, rfl, (seenLine_none hx).symm⟩

/-- A line brought into the L1 reads as before, and so does every other. -/
theorem seenByte_l1Fill {s : State} (hs : Canonical s) (core line a : Nat) :
    seenByte (s.l1Fill core line).2 core a = seenByte s core a := by
  unfold State.l1Fill
  cases hx : s.l1Line? core line with
  | some x => rfl
  | none =>
    have hcopy : seenByte (if isCopied (128 * line) = true then s.putLine (core / 64) line 0 0 else s) core a =
        seenByte s core a := by
      split
      · exact (seenAlike_putLine hs (by simp) 0).seenByte
      · rfl
    dsimp only
    rw [seenByte_l1Put rfl, hcopy]
    split
    · next h => rw [seenByte_eq, h.1, h.2, seenLine_none hx, if_neg Bool.false_ne_true]
    · rfl

/-- Bytes written under a mask to a line in the L1, which is brought there first. -/
def l1Stored (t : State) (core line : Nat) (data : Line) (mask dirty : BitVec 128) (asid : Nat) : State :=
  let f := t.l1Fill core line
  f.2.l1Put { f.1 with data := mergeLine f.1.data data mask, dirty := dirty, asid := asid }

/-- A write in the L1 changes the bytes under its mask, and no other. -/
theorem seenByte_l1Stored {t : State} (ht : Canonical t) {b : Nat} (hb : isWindowLoc b = false) (core : Nat) (data : Line)
    (mask dirty : BitVec 128) (asid a : Nat) : seenByte (l1Stored t core (lineOf b) data mask dirty asid) core a =
      if lineOf a = lineOf b ∧ mask.getLsbD (a % 128) = true then (byteAt (a % 128) data.toNat).toNat
      else seenByte t core a := by
  obtain ⟨hcore, hline, hdata⟩ := l1Fill_line t core (lineOf b)
  have hput := seenByte_l1Put (s := (t.l1Fill core (lineOf b)).2) (x := { (t.l1Fill core (lineOf b)).1 with
    data := mergeLine (t.l1Fill core (lineOf b)).1.data data mask, dirty := dirty, asid := asid }) hcore a
  refine hput.trans ?_
  dsimp only
  rw [hline]
  by_cases hl : lineOf a = lineOf b
  · have ha : isWindowLoc a = false := (isWindowLoc_congr hl).trans hb
    rw [if_pos ⟨ha, hl⟩, byteAt_mergeLine _ _ _ (Nat.mod_lt a (by decide)), hdata, ← hl, apply_ite BitVec.toNat,
      seenByte_eq t, ha, if_neg Bool.false_ne_true]
    exact if_congr (by simp) rfl rfl
  · rw [if_neg fun h => hl h.2, if_neg fun h => hl h.1, seenByte_l1Fill ht]

/-! ### What the accesses of the scalar side do -/

/-- A write in one line goes to the array of a window; or to the core's L1, and for a tracked line, after its shadow, to the
point below too (R128, R237). -/
theorem scalarWrite_cases {s u : State} {va n v : Nat} {l : Located} (hw : scalarWrite s va n v = .ok u)
    (hl : locate s .write false va = .ok l) :
    let core := s.hart.place.core
    let line := lineOf l.loc
    let data : Line := BitVec.ofNat 1024 (v * 256 ^ (l.loc % 128))
    let mask := byteMask (l.loc % 128) n
    (isWindowLoc l.loc = true ∧ u = s.arrayWrite l.loc n v) ∨
    (isWindowLoc l.loc = false ∧ ∃ t dirty asid, u = l1Stored t core line data mask dirty asid ∧
      (t = markAccess s l .write .other ∨ ∃ g, s.guardWrite (core / 64) l.loc n = .ok g ∧
        t = (markAccess g l .write .other).putLine (core / 64) line data mask)) := by
  intro core line data mask
  rw [scalarWrite, hl] at hw
  dsimp only [bind, Except.bind] at hw
  cases hi : awaitIsland s none l.loc with
  | error e => rw [hi] at hw; cases hw
  | ok x =>
    rw [hi] at hw
    dsimp only at hw
    cases hwin : isWindowLoc l.loc with
    | true =>
      rw [if_pos hwin] at hw
      split at hw
      · cases hw
      · exact .inl ⟨rfl, (Except.ok.inj hw).symm⟩
    | false =>
      rw [if_neg (by simp [hwin])] at hw
      refine .inr ⟨rfl, ?_⟩
      split at hw
      · cases hw
      · exact ⟨_, _, _, (Except.ok.inj hw).symm, .inl rfl⟩
      · split at hw
        · cases hw
        · next g hg => exact ⟨_, _, _, (Except.ok.inj hw).symm, .inr ⟨g, hg, rfl⟩⟩

/-- A read in one line is of the array of a window; or of the core's L1, into which the line is brought: a line of a shadow
pool reads as a free value (R128, R241). -/
theorem scalarRead_cases {s u : State} {k : AccessKind} {va n v : Nat} {l : Located}
    (hr : scalarRead s k va n = .ok (v, u)) (hl : locate s k false va = .ok l) :
    let f := (markAccess s l k .other).l1Fill s.hart.place.core (lineOf l.loc)
    (isWindowLoc l.loc = true ∧ v = memRead s.mem l.loc n ∧ u = s) ∨
    (isWindowLoc l.loc = false ∧ f.2.poolOf (lineOf l.loc) = none ∧ v = lineBytes f.1.data (l.loc % 128) n ∧ u = f.2) ∨
    (isWindowLoc l.loc = false ∧ f.2.poolOf (lineOf l.loc) ≠ none ∧ u = f.2.draw.2) := by
  intro f
  rw [scalarRead, hl] at hr
  dsimp only [bind, Except.bind] at hr
  cases hi : awaitIsland s none l.loc with
  | error e => rw [hi] at hr; cases hr
  | ok x =>
    rw [hi] at hr
    dsimp only at hr
    split at hr
    · cases hr
    · cases hwin : isWindowLoc l.loc with
      | true =>
        rw [if_pos hwin] at hr
        obtain ⟨rfl, rfl⟩ := Prod.mk.inj (Except.ok.inj hr)
        exact .inl ⟨rfl, rfl, rfl⟩
      | false =>
        rw [if_neg (by simp [hwin])] at hr
        refine .inr ?_
        cases hp : f.2.poolOf (lineOf l.loc) with
        | none =>
          rw [if_neg (by simp [f, hp])] at hr
          obtain ⟨rfl, rfl⟩ := Prod.mk.inj (Except.ok.inj hr)
          exact .inl ⟨rfl, rfl, rfl, rfl⟩
        | some o =>
          rw [if_pos (by simp [f, hp])] at hr
          obtain ⟨-, rfl⟩ := Prod.mk.inj (Except.ok.inj hr)
          exact .inr ⟨rfl, Option.some_ne_none o, rfl⟩

/-! ### Accesses that change memory and the copies of lines only -/

/-- Nothing but memory, the copies of its lines, the moves' marks and the counter of free values differs. -/
def OnlyMemory (s t : State) : Prop := t = withMemoryOf s t

theorem OnlyMemory.refl (s : State) : OnlyMemory s s := rfl

theorem OnlyMemory.trans {s t u : State} (hst : OnlyMemory s t) (htu : OnlyMemory t u) : OnlyMemory s u := by
  rw [OnlyMemory, htu, hst]
  rfl

theorem OnlyMemory.contexts {s t : State} (h : OnlyMemory s t) : t.contexts = s.contexts := congrArg (·.contexts) h

theorem onlyMemory_markAccess (s : State) (l : Located) (k : AccessKind) (m : MarkKind) :
    OnlyMemory s (markAccess s l k m) := by
  unfold markAccess
  split
  · exact .refl s
  · cases m <;> rfl

theorem onlyMemory_putLine (s : State) (stack line : Nat) (data : Line) (mask : BitVec 128) :
    OnlyMemory s (s.putLine stack line data mask) := by
  unfold State.putLine
  split <;> rfl

theorem onlyMemory_l1Put (s : State) (x : L1Line) : OnlyMemory s (s.l1Put x) := rfl

theorem onlyMemory_l1Fill (s : State) (core line : Nat) : OnlyMemory s (s.l1Fill core line).2 := by
  unfold State.l1Fill
  split
  · exact .refl s
  · dsimp only
    split
    · exact (onlyMemory_putLine s _ _ _ _).trans (onlyMemory_l1Put _ _)
    · exact onlyMemory_l1Put s _

theorem onlyMemory_l1Stored (t : State) (core line : Nat) (data : Line) (mask dirty : BitVec 128) (asid : Nat) :
    OnlyMemory t (l1Stored t core line data mask dirty asid) :=
  (onlyMemory_l1Fill t core line).trans (onlyMemory_l1Put _ _)

theorem poolOf_congr {s t : State} (h : t.contexts = s.contexts) (line : Nat) : t.poolOf line = s.poolOf line := by
  rw [State.poolOf, State.poolOf, h]

/-! ### Stores and loads change and read their own bytes -/

theorem toNat_byteAt (i v : Nat) : (byteAt i v).toNat = v / 256 ^ i % 256 := by rw [byteAt, BitVec.toNat_ofNat]

theorem scalarStores_changeOnlyTheirBytes : scalarStoresChangeOnlyTheirBytes := by
  intro s u va n v l hwf hw hl hn a ha
  have hs : Canonical s := ⟨hwf⟩
  obtain ⟨hwin, rfl⟩ | ⟨hwin, t, dirty, asid, rfl, ht⟩ := scalarWrite_cases hw hl
  · have hmem := memByte_memWrite hwf l.loc n v a
    split
    · next hin =>
      have hwa : isWindowLoc a = true := by rw [← hwin]; exact isWindowLoc_congr ((mem_byteMask_iff hn).2 hin).1
      rw [if_pos hin] at hmem
      rw [seenByte_eq, if_pos hwa, State.arrayWrite, hmem, BitVec.toNat_ofNat]
    · next hin =>
      rw [if_neg hin] at hmem
      exact (SeenAlike.of_mem (s := s) (t := s.arrayWrite l.loc n v) rfl rfl rfl hmem).seenByte
  · have hcan : Canonical t := by
      obtain rfl | ⟨g, hg, rfl⟩ := ht
      · exact hs.markAccess
      · exact (hs.guardWrite g hg).markAccess.putLine
    rw [seenByte_l1Stored hcan hwin]
    refine (if_congr (mem_byteMask_iff hn) rfl rfl).trans ?_
    split
    · next hin =>
      have hat : a % 128 = l.loc % 128 + (a - l.loc) := by omega
      rw [byteAt_toNat_line (Nat.mod_lt a (by decide)), hat, byteAt_mul, toNat_byteAt]
    · next hin =>
      have hmark : notMarked l a := ha.resolve_right hin
      obtain rfl | ⟨g, hg, rfl⟩ := ht
      · exact (seenAlike_markAccess hs hmark .write _).seenByte
      · exact ((seenAlike_guardWrite hg _ a).trans ((seenAlike_markAccess (hs.guardWrite g hg) hmark .write _).trans
          (seenAlike_putLine (hs.guardWrite g hg).markAccess (fun h => hin ((mem_byteMask_iff hn).1 h)) _))).seenByte

theorem scalarLoads_returnTheirBytes : scalarLoadsReturnTheirBytes := by
  intro s u va n v l hwf hr hl hn hpool
  obtain ⟨hwin, rfl, rfl⟩ | ⟨hwin, -, rfl, rfl⟩ | ⟨-, hp, -⟩ := scalarRead_cases hr hl
  · refine ⟨memRead_lt _ _ _, fun i hi _ => ?_, fun a _ => rfl⟩
    have hwa : isWindowLoc (l.loc + i) = true := by
      rw [← hwin]
      exact isWindowLoc_congr ((mem_byteMask_iff hn).2 ⟨by omega, by omega⟩).1
    rw [seenByte_eq, if_pos hwa, ← toNat_byteAt, byteAt_memRead _ _ hi]
  · have hs : Canonical s := ⟨hwf⟩
    have hmarked (a : Nat) (ha : notMarked l a) := (seenAlike_markAccess hs ha .read s.hart.place.core).seenByte
    refine ⟨Nat.mod_lt _ (by positivity), fun i hi ha => ?_, fun a ha => ?_⟩
    · obtain ⟨-, -, hdata⟩ := l1Fill_line (markAccess s l .read .other) s.hart.place.core (lineOf l.loc)
      have hline : lineOf (l.loc + i) = lineOf l.loc := ((mem_byteMask_iff hn).2 ⟨by omega, by omega⟩).1
      have hat : (l.loc + i) % 128 = l.loc % 128 + i := by omega
      rw [← hmarked _ ha, seenByte_eq, isWindowLoc_congr hline, hwin, if_neg Bool.false_ne_true, hline, hat, ← hdata,
        ← toNat_byteAt, lineBytes, byteAt_mod hi, byteAt_div]
    · rw [seenByte_l1Fill hs.markAccess, hmarked a ha]
  · rw [poolOf_congr ((onlyMemory_markAccess s l .read .other).trans (onlyMemory_l1Fill _ _ _)).contexts] at hp
    exact absurd hpool hp

/-- Settles O10: a store by where its bytes go, a load by where they are read. -/
theorem scalarAccessesAreOfTheirBytes : Obligations.ScalarAccessesAreOfTheirBytes :=
  ⟨scalarStores_changeOnlyTheirBytes, scalarLoads_returnTheirBytes⟩

end Sys2Proof.Machine
end

section
/-!
LAW. LD and ST: where they complete, and where they raise MISALIGN (R77, R128). Settles O11.
-/

namespace Sys2Proof.Machine

/-! ### What a scalar access leaves -/

theorem onlyMemory_scalarRead (s : State) (k : AccessKind) (va n : Nat) :
    OkAll (fun x => OnlyMemory s x.2) (scalarRead s k va n) := by
  intro ⟨v, u⟩ hr
  cases hl : locate s k false va with
  | error e => rw [scalarRead, hl] at hr; cases hr
  | ok l =>
    have hfill : OnlyMemory s ((markAccess s l k .other).l1Fill s.hart.place.core (lineOf l.loc)).2 :=
      (onlyMemory_markAccess s l k .other).trans (onlyMemory_l1Fill _ _ _)
    obtain ⟨-, -, rfl⟩ | ⟨-, -, -, rfl⟩ | ⟨-, -, rfl⟩ := scalarRead_cases hr hl
    · exact .refl u
    · exact hfill
    · exact hfill.trans rfl

/-- A store may also take a shadow, which a context holds, and release barriers' table entries (R142, R238). -/
theorem scalarWrite_leaves (s : State) (va n v : Nat) :
    OkAll (fun u => u = { withMemoryOf s u with contexts := u.contexts, barriers := u.barriers }) (scalarWrite s va n v) := by
  intro u hw
  cases hl : locate s .write false va with
  | error e => rw [scalarWrite, hl] at hw; cases hw
  | ok l =>
    obtain ⟨-, rfl⟩ | ⟨-, t, dirty, asid, hu, ht⟩ := scalarWrite_cases hw hl
    · rfl
    · have hstored : OnlyMemory t u := hu ▸ onlyMemory_l1Stored t _ _ _ _ _ _
      obtain rfl | ⟨g, hg, rfl⟩ := ht
      · have hm : OnlyMemory s u := (onlyMemory_markAccess s l .write .other).trans hstored
        rw [OnlyMemory] at hm
        rw [hm]
        rfl
      · have hm : OnlyMemory g u := ((onlyMemory_markAccess g l .write .other).trans (onlyMemory_putLine _ _ _ _ _)).trans
          hstored
        obtain ⟨hctx, -⟩ := guardWrite_keeps s _ _ _ g hg
        rw [OnlyMemory] at hm
        rw [hm, hctx]
        rfl

/-! ### The words -/

section
variable {s u : State} {d a : BitVec 5} {i : BitVec 9} {z v : Nat} {ext : Nat → Word}

theorem scalarAddr_eq (h : Hart) (a : BitVec 5) (i : BitVec 9) (z : Nat) :
    scalarAddr h a i z = gRead h a.toNat + BitVec.ofInt 64 (z * i.toInt) := by
  rw [scalarAddr, BitVec.signExtend, BitVec.mul_comm, BitVec.ofInt_mul, BitVec.ofInt_natCast]

theorem scalarAddr_discardWait : scalarAddr (discardWait s).hart a i z = scalarAddr s.hart a i z := by
  rw [scalarAddr, gRead_discardWait, scalarAddr]

/-- A word of the scalar side that traps in its course. -/
theorem finish_misalign (h : Issuing s .scalar) (va : Word) : finish (discardWait s) (.error (.trap (misalign va.toNat))) =
    .next (takeTrap (discardWait s) { code := 0x07, val := va } .scalar) := by
  rw [finish, h.discard.side, misalign, word_toNat]
  rfl

theorem loadOp_misaligned (h : Issuing s .scalar) (hz : (scalarAddr s.hart a i z).toNat % z ≠ 0) : loadOp s d a i z ext =
    .next (takeTrap (discardWait s) { code := 0x07, val := scalarAddr s.hart a i z } .scalar) := by
  rw [loadOp, runPlain_of h rfl rfl rfl, scalarAddr_discardWait]
  dsimp only
  rw [if_pos (by simpa using hz), finish_misalign h]

theorem loadOp_reads (h : Issuing s .scalar) (hz : (scalarAddr s.hart a i z).toNat % z = 0)
    (hr : scalarRead (discardWait s) .read (scalarAddr s.hart a i z).toNat z = .ok (v, u)) :
    loadOp s d a i z ext = .next (gave u d (ext v)) := by
  rw [loadOp, runPlain_of h rfl rfl rfl, scalarAddr_discardWait]
  dsimp only
  rw [if_neg (by simpa using hz), hr]
  rfl

theorem storeOp_misaligned (h : Issuing s .scalar) (hz : (scalarAddr s.hart a i z).toNat % z ≠ 0) : storeOp s d a i z =
    .next (takeTrap (discardWait s) { code := 0x07, val := scalarAddr s.hart a i z } .scalar) := by
  rw [storeOp, runPlain_of h rfl rfl rfl, scalarAddr_discardWait]
  dsimp only
  rw [if_pos (by simpa using hz), finish_misalign h]

theorem storeOp_writes (h : Issuing s .scalar) (hz : (scalarAddr s.hart a i z).toNat % z = 0)
    (hw : scalarWrite (discardWait s) (scalarAddr s.hart a i z).toNat z ((gRead s.hart d.toNat).toNat % 256 ^ z) = .ok u) :
    storeOp s d a i z = .next (retire u) := by
  rw [storeOp, runPlain_of h rfl rfl rfl, scalarAddr_discardWait, gRead_discardWait]
  dsimp only
  rw [if_neg (by simpa using hz), hw]
  rfl

end

theorem exec_load (s : State) (d a : BitVec 5) (i : BitVec 9) :
    ∀ e ∈ loadTable, exec (e.1 d a i) s = loadOp s d a i e.2.1 e.2.2 := by
  simp only [loadTable, List.forall_mem_cons, List.not_mem_nil, false_imp_iff, implies_true, and_true]
  exact ⟨rfl, rfl, rfl, rfl, rfl, rfl, rfl⟩

theorem exec_store (s : State) (d a : BitVec 5) (i : BitVec 9) :
    ∀ e ∈ storeTable, exec (e.1 d a i) s = storeOp s d a i e.2 := by
  simp only [storeTable, List.forall_mem_cons, List.not_mem_nil, false_imp_iff, implies_true, and_true]
  exact ⟨rfl, rfl, rfl, rfl⟩

/-- The result of a load, beside what its access left. -/
theorem scalarResult_read {s u : State} (h : s.issue.side = .scalar) (hu : OnlyMemory (discardWait s) u) (d : BitVec 5)
    (v : Word) : ScalarResult (withMemoryOf s u) (gave u d v) d v := by
  have hdiscard : u = discardWait (withMemoryOf s u) := by
    rw [discardWait_scalar (s := withMemoryOf s u) h]
    rw [OnlyMemory, discardWait_scalar h] at hu
    exact hu
  have hres := scalarResult_gave (s := withMemoryOf s u) h d v
  rwa [← hdiscard] at hres

/-- The retirement of a store, beside what its access left. -/
theorem scalarJump_written {s u : State} (h : s.issue.side = .scalar)
    (hu : u = { withMemoryOf (discardWait s) u with contexts := u.contexts, barriers := u.barriers }) :
    ScalarJump { withMemoryOf s u with contexts := u.contexts, barriers := u.barriers } (retire u) (s.hart.sc.pc + 4) := by
  generalize hs' : ({ withMemoryOf s u with contexts := u.contexts, barriers := u.barriers } : State) = s'
  have hside : s'.issue.side = .scalar := by rw [← hs']; exact h
  have hpc : s'.hart.sc.pc = s.hart.sc.pc := by rw [← hs']; rfl
  have hdiscard : u = discardWait s' := by
    rw [discardWait_scalar hside, ← hs']
    rw [discardWait_scalar h] at hu
    exact hu
  rw [hdiscard, retire_scalar hside, hpc]
  exact scalarJump_retireTo hside _

theorem scalarLoads_writeTheirResult : scalarLoadsWriteTheirResult := by
  intro s d a i h e he va
  have hva : scalarAddr s.hart a i e.2.1 = va := scalarAddr_eq ..
  rw [exec_load s d a i e he]
  refine ⟨fun hz => ?_, fun hz v u hr => ?_⟩
  · rw [← hva] at hz ⊢
    exact loadOp_misaligned h hz
  · rw [← hva] at hz hr
    have hres := scalarResult_read h.side (onlyMemory_scalarRead _ _ _ _ _ hr) d (e.2.2 v)
    have hmem : withMemoryOf s (gave u d (e.2.2 v)) = withMemoryOf s u := by simp [withMemoryOf, gave]
    exact ⟨gave u d (e.2.2 v), loadOp_reads h hz hr, by rwa [hmem], retire_mem _, retire_l1 _, retire_l2 _⟩

theorem scalarStores_storeTheirBytes : scalarStoresStoreTheirBytes := by
  intro s d a i h e he va
  have hva : scalarAddr s.hart a i e.2 = va := scalarAddr_eq ..
  rw [exec_store s d a i e he]
  refine ⟨fun hz => ?_, fun hz u hw => ?_⟩
  · rw [← hva] at hz ⊢
    exact storeOp_misaligned h hz
  · rw [← hva] at hz hw
    have hjump := scalarJump_written h.side (scalarWrite_leaves _ _ _ _ u hw)
    have hmem : withMemoryOf s (retire u) = withMemoryOf s u := by simp [withMemoryOf]
    exact ⟨retire u, storeOp_writes h hz hw, by rwa [hmem, retire_contexts, retire_barriers], retire_mem u, retire_l1 u,
      retire_l2 u, retire_contexts u, retire_barriers u⟩

/-- Settles O11: loads by what their read leaves, stores by what their write leaves. -/
theorem loadsAndStoresComplete : Obligations.LoadsAndStoresComplete :=
  ⟨scalarLoads_writeTheirResult, scalarStores_storeTheirBytes⟩

end Sys2Proof.Machine
end

section
/-!
LAW. QSET, QADV, QPOS and QREL (R77, R119, R121, R127). Settles O39.
-/

namespace Sys2Proof.Machine

section
variable {s u : State} {d a : BitVec 5} {v : Nat} {x : StreamReg}

theorem isStream_iff {r : BitVec 5} : isStream r = true ↔ r.toNat < 16 := by simp [isStream, BitVec.lt_def]

theorem streamAndH (hd : d.toNat < 16) (ha : a.toNat < 16) : (isStream d && isH a) = true := by
  rw [isStream_iff.2 hd, isH_iff.2 ha, Bool.and_self]

theorem hAndStream (hd : d.toNat < 16) (ha : a.toNat < 16) : (isH d && isStream a) = true := by
  rw [isH_iff.2 hd, isStream_iff.2 ha, Bool.and_self]

/-- A word of the vector side that traps in its course. -/
theorem finish_trap_vector (h : Issuing s .vector) (x : Trap) :
    finish s (.error (.trap x)) = .next (takeTrap s x .vector) := by
  rw [finish, h.side]
  rfl

/-- Outside timed regions no word varies the time of the next. -/
theorem varyTime_untimed (h : s.hart.cs.hstat.timed = false) : varyTime s = s := by
  rw [varyTime, if_neg (by simp [h])]

/-- QSET, once its record is read. -/
theorem execQset_read (h : Issuing s .vector) (hd : d.toNat < 16) (ha : a.toNat < 16)
    (hal : (hRead s.hart a.toNat).toNat % 64 = 0)
    (hr : orderedRead s s.hart .other (hRead s.hart a.toNat).toNat 64 = .ok (v, u)) :
    (∀ x, tsrOf v = some x →
      execQset d a s = .next (varyTime (retire (setStream u d (some { tsr := x, pos := 0 }))))) ∧
    (tsrOf v = none → execQset d a s =
      .next (takeTrap s { code := 0x08, val := BitVec.ofNat 64 (hRead s.hart a.toNat).toNat } .vector)) := by
  rw [execQset, h.runPlain (streamAndH hd ha) rfl, if_neg (by simpa using hal), hr]
  dsimp only [bind, Except.bind]
  refine ⟨fun x hx => ?_, fun hx => ?_⟩
  · rw [hx]
    rfl
  · rw [hx]
    exact finish_trap_vector h _

theorem execQadv_bound (h : Issuing s .vector) (hd : d.toNat < 16) (ha : a.toNat < 16) (hx : streamReg s d = some x) :
    execQadv d a s =
      .next (retire (setStream s d (some (x.at (movePosition x (hRead s.hart a.toNat).toInt))))) := by
  rw [execQadv, h.runPlain (streamAndH hd ha) rfl, hx]
  rfl

theorem execQadv_unbound (h : Issuing s .vector) (hd : d.toNat < 16) (ha : a.toNat < 16) (hx : streamReg s d = none) :
    execQadv d a s = .next (takeTrap s { code := 0x08 } .vector) := by
  rw [execQadv, h.runPlain (streamAndH hd ha) rfl, hx]
  exact finish_trap_vector h _

theorem execQpos_bound (h : Issuing s .vector) (hd : d.toNat < 16) (ha : a.toNat < 16) (hx : streamReg s a = some x) :
    execQpos d a s = .next (hgave s d (BitVec.ofNat 64 x.pos)) := by
  rw [execQpos, h.runPlain (hAndStream hd ha) rfl, hx]
  rfl

theorem execQpos_unbound (h : Issuing s .vector) (hd : d.toNat < 16) (ha : a.toNat < 16) (hx : streamReg s a = none) :
    execQpos d a s = .next (takeTrap s { code := 0x08 } .vector) := by
  rw [execQpos, h.runPlain (hAndStream hd ha) rfl, hx]
  exact finish_trap_vector h _

theorem execQrel_eq (h : Issuing s .vector) (hd : d.toNat < 16) : execQrel d s = .next (retire (setStream s d none)) := by
  rw [execQrel, h.runPlain (isStream_iff.2 hd) rfl]
  rfl

end

/-- Settles O39: QSET by the record it reads, QADV and QPOS by whether their register is bound. -/
theorem streamWordsComplete : Obligations.StreamWordsComplete := by
  unfold Obligations.StreamWordsComplete
  intro s d a h hd ha rebound unbound at_
  refine ⟨fun v u hal hr ht => ?_, fun x => execQadv_bound h hd ha, fun x => execQpos_bound h hd ha, execQadv_unbound h hd ha,
    execQpos_unbound h hd ha, execQrel_eq h hd⟩
  obtain ⟨hbinds, hrefuses⟩ := execQset_read h hd ha hal hr
  refine ⟨fun x hx => (hbinds x hx).trans ?_, hrefuses⟩
  rw [varyTime_untimed (by rw [retire_timed]; exact ht)]
  rfl

end Sys2Proof.Machine
end

section
/-!
LAW. The atomic access to a doubleword of the package's columns, and the words of AMO (R129, R140, R223). Settles O12.
-/

namespace Sys2Proof.Machine

/-! ### The atomic access (R129, R132) -/

theorem cores_le (p : Product) : p.cores ≤ 256 := by cases p <;> decide

/-- The columns lie below the windows, far memory and the peers (R324). -/
theorem columnLoc {p : Product} {a : Nat} (h : a < p.cores * columnBytes) : isWindowLoc a = false ∧ isCopied a = false := by
  have hlow : a < farBase := h.trans_le ((Nat.mul_le_mul_right columnBytes (cores_le p)).trans (by decide))
  have hbelow {n : Nat} (hn : farBase ≤ n) : ¬ n ≤ a := Nat.not_le.2 (hlow.trans_le hn)
  refine ⟨decide_eq_false fun hw => hbelow (by decide) hw.1, Bool.or_eq_false_iff.2 ⟨?_, ?_⟩⟩
  · exact decide_eq_false fun hw => hbelow le_rfl hw.1
  · exact decide_eq_false (hbelow (by decide))

theorem l1Flush_absent {s : State} {p : L1Line → Bool} (h : ∀ x ∈ s.l1, p x = false) : s.l1Flush p = s := by
  have hnone : s.l1.filter p = [] := List.filter_eq_nil_iff.2 fun x hx => by simp [h x hx]
  have hall : s.l1.filter (fun x => !p x) = s.l1 := List.filter_eq_self.2 fun x hx => by simp [h x hx]
  rw [State.l1Flush, hnone, hall]
  rfl

/-- A line of which neither the core's L1 nor the stack's L2 has a copy is settled as it is. -/
theorem settleLine_absent {s : State} {core loc : Nat} (hl1 : s.l1Line? core (lineOf loc) = none)
    (hcopied : isCopied loc = false) (scope : Nat) : settleLine s core scope loc = s := by
  have hflush : s.l1Flush (fun x => x.core == core && x.line == lineOf loc) = s :=
    l1Flush_absent fun x hx => by simpa using List.find?_eq_none.1 hl1 x hx
  unfold settleLine
  split
  · rfl
  · dsimp only
    rw [hflush, if_neg (by simp [hcopied])]

/-- Bytes of a line of memory are the run of them. -/
theorem lineBytes_memLine (m : Memory) {a n : Nat} (hn : a % 128 + n ≤ 128) :
    lineBytes (memLine m (lineOf a)) (a % 128) n = memRead m a n := by
  have hbytes : ∀ i < n, memByte m (a + i) = byteAt i (lineBytes (memLine m (lineOf a)) (a % 128) n) := fun i hi => by
    rw [byteAt_lineBytes m _ hi hn, lineOf_offset]
  rw [memRead_of_bytes hbytes, lineBytes, Nat.mod_mod]

/-- A doubleword of the columns that a scalar-side AMO may update at its home: no shadow, seal, poison or bank request
stands in its way, and the core's L1 has no copy of its line. -/
structure FreeDoubleword (s : State) (loc : Nat) : Prop where
  aligned   : loc % 8 = 0
  column    : loc < s.product.cores * columnBytes
  unsealed  : s.isSealed loc 8 = false
  sound     : s.poisoned (lineOf loc) = false
  noPool    : s.poolOf (lineOf loc) = none
  untracked : s.tracker (lineOf loc) = none
  uncached  : s.l1Line? s.hart.place.core (lineOf loc) = none
  unheld    : requestsHold s none loc = false

/-- Nothing but memory, its lines' copies and the moves' marks differs, and memory differs in `n` bytes, which are those of
a value. -/
structure Stored (s t : State) (loc n v : Nat) : Prop where
  only  : OnlyMemory s t
  bytes : ∀ x, memByte t.mem x = if loc ≤ x ∧ x < loc + n then byteAt (x - loc) v else memByte s.mem x

/-- A line that is homed in the columns is written in memory. -/
theorem stored_putLine {s : State} (hwf : s.mem.wf = true) {loc n : Nat} (hcopied : isCopied (128 * lineOf loc) = false)
    (hn : loc % 128 + n ≤ 128) (stack v : Nat) : Stored s (s.putLine stack (lineOf loc)
      (BitVec.ofNat 1024 (v * 256 ^ (loc % 128))) (byteMask (loc % 128) n)) loc n v := by
  refine ⟨onlyMemory_putLine s _ _ _ _, fun x => ?_⟩
  rw [State.putLine, if_neg (by simp [hcopied]), State.store]
  dsimp only
  split
  · next hx =>
    obtain ⟨hline, hmask⟩ := (mem_byteMask_iff hn).2 hx
    have hlt : x % 128 < 128 := Nat.mod_lt x (by decide)
    have hput := memByte_memPutLine hwf (lineOf x) (BitVec.ofNat 1024 (v * 256 ^ (loc % 128))) (byteMask (loc % 128) n) hlt
    have hat : x % 128 = loc % 128 + (x - loc) := by omega
    rw [if_pos hmask, extractLsb'_line hlt, lineOf_offset] at hput
    rw [← hline, hput, hat, byteAt_mul]
  · next hx => exact memByte_memPutLine_other hwf (fun h => hx ((mem_byteMask_iff hn).1 h)) _

section
variable {s : State} {loc : Nat} (hf : FreeDoubleword s loc)
include hf

theorem FreeDoubleword.inLine : loc % 128 + 8 ≤ 128 := by
  have := hf.aligned
  omega

theorem FreeDoubleword.notCopied : isCopied (128 * lineOf loc) = false :=
  (columnLoc ((Nat.mul_div_le loc 128).trans_lt hf.column)).2

theorem FreeDoubleword.amoLocate_eq (hside : s.issue.side = .scalar) {l : Located} (hloc : l.loc = loc) {k : AccessKind}
    {update : Bool} {va : Nat} (hl : locate s k update va = .ok l) (scope : Nat) :
    amoLocate s k update scope va = .ok (l, s) := by
  subst hloc
  have hsettle := settleLine_absent hf.uncached (columnLoc hf.column).2 scope
  rw [amoLocate, hl]
  simp [bind, Except.bind, hside, awaitIsland, hf.unheld, hf.sound, hsettle]

/-- The old doubleword is that of memory, whatever the scope. -/
theorem FreeDoubleword.amoRead_eq (core scope : Nat) : amoRead s core scope loc 8 = (memRead s.mem loc 8, s) := by
  have hget : amoGet s core scope loc 8 = memRead s.mem loc 8 := by
    unfold amoGet
    split
    · rfl
    · split
      · rfl
      · rw [State.pointLine, if_neg (by simp [hf.notCopied]), lineBytes_memLine _ hf.inLine]
  rw [amoRead, hf.noPool, if_neg (by simp), hget]

theorem FreeDoubleword.guardWrite_eq (stack : Nat) : s.guardWrite stack loc 8 = .ok s := by
  simp [State.guardWrite, hf.unsealed, hf.noPool, hf.untracked]

/-- The new doubleword is stored in memory, whatever the scope. -/
theorem FreeDoubleword.amoPut_stored (hwf : s.mem.wf = true) (core scope v : Nat) :
    ∃ t, amoPut s core scope loc 8 v = .ok t ∧ Stored s t loc 8 v := by
  simp only [amoPut, (columnLoc hf.column).1, Bool.false_eq_true, if_false, hf.guardWrite_eq]
  split
  · exact ⟨_, rfl, rfl, memByte_memWrite hwf loc 8 v⟩
  · exact ⟨_, rfl, stored_putLine hwf hf.notCopied hf.inLine _ v⟩

end

/-- The marks of the access lie outside the bytes it stores. -/
theorem Stored.markAccess {s t : State} {l : Located} {n v : Nat} (h : Stored s t l.loc n v) (ht : Canonical t)
    (hm : ∀ i < n, notMarked l (l.loc + i)) (k : AccessKind) :
    OnlyMemory s (markAccess t l k .other) ∧ memRead (markAccess t l k .other).mem l.loc n = v % 256 ^ n ∧
    ∀ x, notMarked l x → (x < l.loc ∨ l.loc + n ≤ x) → memByte (markAccess t l k .other).mem x = memByte s.mem x := by
  have hmark (x : Nat) (hx : notMarked l x) := (seenAlike_markAccess ht hx k 0).mem
  refine ⟨h.only.trans (onlyMemory_markAccess t l k .other), memRead_of_bytes fun i hi => ?_, fun x hx hout => ?_⟩
  · rw [hmark _ (hm i hi), h.bytes, if_pos (by omega), Nat.add_sub_cancel_left, byteAt]
  · rw [hmark x hx, h.bytes, if_neg (by omega)]

/-! ### The words (R140) -/

section
variable {s : State} {d a b : BitVec 5} {c : BitVec 3} {f : Word → Word → Word → Word}

theorem isScope_of {c : BitVec 3} (h : c.toNat ≤ 5) : isScope c = true := by
  simp only [isScope, BitVec.lt_def, decide_eq_true_eq]
  exact Nat.lt_succ_of_le h

theorem amoOp_misaligned (h : Issuing s .scalar) (hc : c.toNat ≤ 5) (hz : (gRead s.hart a.toNat).toNat % 8 ≠ 0) :
    amoOp s d a b c f = .next (takeTrap (discardWait s) { code := 0x07, val := gRead s.hart a.toNat } .scalar) := by
  rw [amoOp, runPlain_of h rfl (isScope_of hc) rfl, gRead_discardWait]
  dsimp only
  rw [if_pos (by simpa using hz), finish_misalign h]

/-- An AMO gives the old doubleword once the new one is put. -/
theorem amoOp_puts (h : Issuing s .scalar) (hc : c.toNat ≤ 5) (hz : (gRead s.hart a.toNat).toNat % 8 = 0) {l : Located}
    (hl : locate (discardWait s) .write true (gRead s.hart a.toNat).toNat = .ok l)
    (hf : FreeDoubleword (discardWait s) l.loc) {t : State}
    (hput : amoPut (discardWait s) (discardWait s).hart.place.core c.toNat l.loc 8
      (f (BitVec.ofNat 64 (memRead s.mem l.loc 8)) (gRead s.hart b.toNat) (gRead s.hart d.toNat)).toNat = .ok t) :
    amoOp s d a b c f =
      .next (gave (markAccess t l .write .other) d (BitVec.ofNat 64 (memRead s.mem l.loc 8))) := by
  rw [← discardWait_mem] at hput ⊢
  rw [amoOp, runPlain_of h rfl (isScope_of hc) rfl]
  simp only [gRead_discardWait]
  rw [if_neg (by simpa using hz), hf.amoLocate_eq h.discard.side rfl hl]
  dsimp only [bind, Except.bind]
  rw [hf.amoRead_eq]
  dsimp only [word]
  rw [hput]
  rfl

end

/-- The WAIT record that a word discards does not bear on the doubleword. -/
theorem freeDoubleword_discardWait {s : State} (h : s.issue.side = .scalar) {loc : Nat} (hf : FreeDoubleword s loc) :
    FreeDoubleword (discardWait s) loc := by
  have hheld : requestsHold (discardWait s) none loc = requestsHold s none loc := by
    rw [discardWait_scalar h]
    cases hfree : s.hart.life == Life.free <;> simp only [requestsHold, State.harts, hfree] <;> rfl
  refine ⟨hf.aligned, by simpa using hf.column, ?_, ?_, ?_, ?_, ?_, hheld.trans hf.unheld⟩ <;> rw [discardWait_scalar h]
  exacts [hf.unsealed, hf.sound, hf.noPool, hf.untracked, hf.uncached]

theorem exec_amo (s : State) (d a b : BitVec 5) (c : BitVec 3) :
    ∀ e ∈ amoTable, exec (e.1 d a b c) s = amoOp s d a b c e.2 := by
  have hmin : execAmoMin d a b c s = amoOp s d a b c (fun o x _ => if x.toInt < o.toInt then x else o) := by
    simp only [execAmoMin, BitVec.slt, decide_eq_true_eq]
  have hmax : execAmoMax d a b c s = amoOp s d a b c (fun o x _ => if o.toInt < x.toInt then x else o) := by
    simp only [execAmoMax, BitVec.slt, decide_eq_true_eq]
  have hcas : execAmoCas d a b c s = amoOp s d a b c (fun o x e => if o = e then x else o) := by
    simp only [execAmoCas, beq_iff_eq]
  simp only [amoTable, List.forall_mem_cons, List.not_mem_nil, false_imp_iff, implies_true, and_true]
  exact ⟨rfl, rfl, rfl, rfl, hmin, hmax, rfl, hcas, rfl⟩

/-- Settles O12: every row is one atomic access, which finds and stores its doubleword in memory. -/
theorem atomicsUpdateTheirDoubleword : Obligations.AtomicsUpdateTheirDoubleword := by
  unfold Obligations.AtomicsUpdateTheirDoubleword
  intro s d a b c h hwf hc e he va
  rw [exec_amo s d a b c e he]
  refine ⟨amoOp_misaligned h hc, fun l hz hl hal hcol hm hseal hsound hpool htrack hl1 hheld => ?_⟩
  have hf := freeDoubleword_discardWait h.side ⟨hal, hcol, hseal, hsound, hpool, htrack, hl1, hheld⟩
  have hcan : Canonical (discardWait s) := ⟨by rwa [discardWait_mem]⟩
  obtain ⟨t, hput, hst⟩ := hf.amoPut_stored hcan.wf (discardWait s).hart.place.core c.toNat
    (e.2 (BitVec.ofNat 64 (memRead s.mem l.loc 8)) (gRead s.hart b.toNat) (gRead s.hart d.toNat)).toNat
  obtain ⟨honly, hnew, hrest⟩ := hst.markAccess (hcan.amoPut _ hput) hm .write
  have hmem (v : Word) : withMemoryOf s (gave (markAccess t l .write .other) d v) =
      withMemoryOf s (markAccess t l .write .other) := by simp [withMemoryOf, gave]
  refine ⟨_, amoOp_puts h hc hz hl hf hput, ?_, ?_, fun x hx hout => ?_⟩
  · rw [hmem]
    exact scalarResult_read h.side honly d _
  · have hsize : 256 ^ 8 = 2 ^ 64 := rfl
    rw [gave, retire_mem, mapHart_mem, hnew, hsize, Nat.mod_eq_of_lt (BitVec.isLt _)]
  · rw [gave, retire_mem, mapHart_mem, hrest x hx hout, discardWait_mem]

end Sys2Proof.Machine
end

section
/-!
LAW. The publishing and acquiring actions, and the words that are built from them: FENCE, FENCE.V, ACQ and REL (R130 to
R134, R138, R139, R238). Settles O14.
-/

namespace Sys2Proof.Machine

/-! ### Accesses that a context may hold a trace of -/

/-- Nothing but memory, the copies of its lines, the moves' marks, the counter of free values and what contexts hold, shadows
and held writes, differs. -/
def OnlyAccess (s t : State) : Prop := t = { withMemoryOf s t with contexts := t.contexts }

theorem OnlyAccess.refl (s : State) : OnlyAccess s s := rfl

theorem OnlyAccess.trans {s t u : State} (hst : OnlyAccess s t) (htu : OnlyAccess t u) : OnlyAccess s u := by
  rw [OnlyAccess, htu, hst]
  rfl

theorem OnlyAccess.ite {s t u : State} {c : Prop} [Decidable c] (ht : OnlyAccess s t) (hu : OnlyAccess s u) :
    OnlyAccess s (if c then t else u) := by
  split
  · exact ht
  · exact hu

theorem OnlyAccess.hart {s t : State} (h : OnlyAccess s t) : t.hart = s.hart := congrArg (·.hart) h

theorem OnlyAccess.issue {s t : State} (h : OnlyAccess s t) : t.issue = s.issue := congrArg (·.issue) h

theorem OnlyMemory.onlyAccess {s t : State} (h : OnlyMemory s t) : OnlyAccess s t := by
  rw [OnlyMemory] at h
  rw [h]
  rfl

/-- A word that retires after accesses of its own has moved on by one word, and the registers are as before. -/
theorem OnlyAccess.retired {s u : State} (h : OnlyAccess (discardWait s) u) :
    pcOf (retire u) = pcOf s + 4 ∧ SameRegisters s (retire u) := by
  have hpc : pcOf u = pcOf (discardWait s) := by simp only [pcOf, h.hart, h.issue]
  have hregs : SameRegisters (discardWait s) u := by simp only [SameRegisters, h.hart, and_self]
  exact ⟨by rw [(Retired_retire u).1, hpc, pcOf_discardWait],
    sameRegisters_trans (sameRegisters_trans (discardWait_registers s) hregs) (retire_registers u)⟩

section
variable (s : State)

theorem onlyAccess_guardWrite (stack a n : Nat) : OkAll (OnlyAccess s) (s.guardWrite stack a n) := by
  intro t ht
  obtain ⟨hctx, -⟩ := guardWrite_keeps s stack a n t ht
  rw [hctx]
  rfl

theorem onlyAccess_writeBack (x : L1Line) : OnlyAccess s (s.writeBack x) := by
  unfold State.writeBack
  split
  · exact .refl s
  · dsimp only
    split
    · next t ht => exact (onlyAccess_guardWrite s _ _ _ t ht).trans (onlyMemory_putLine t _ _ _ _).onlyAccess
    · rfl
    · exact .refl s

theorem onlyAccess_l1Flush (p : L1Line → Bool) : OnlyAccess s (s.l1Flush p) :=
  foldl_keeps (P := OnlyAccess s) rfl fun t x ht => ht.trans (onlyAccess_writeBack t x)

theorem onlyAccess_l1Clean (p : L1Line → Bool) : OnlyAccess s (s.l1Clean p) :=
  foldl_keeps (P := OnlyAccess s) rfl fun t x ht => ht.trans (onlyAccess_writeBack t x)

theorem onlyAccess_l2Flush (p : L2Line → Bool) : OnlyAccess s (s.l2Flush p) :=
  foldl_keeps (P := OnlyAccess s) rfl fun _ _ ht => ht.trans rfl

theorem onlyAccess_l2Clean (p : L2Line → Bool) : OnlyAccess s (s.l2Clean p) :=
  foldl_keeps (P := OnlyAccess s) rfl fun _ _ ht => ht.trans rfl

theorem onlyAccess_l2Publish (uid : Nat) (p : L2Line → Bool) : OnlyAccess s (s.l2Publish uid p) :=
  foldl_keeps (P := OnlyAccess s) rfl fun _ _ ht => ht.trans rfl

theorem onlyAccess_acquireLines (core scope : Nat) (p : Nat → Bool) : OnlyAccess s (acquireLines s core scope p) :=
  have h := OnlyAccess.ite (c := scopeClus ≤ scope) (onlyAccess_l1Flush s _) (.refl s)
  .ite (h.trans (onlyAccess_l2Flush _ _)) h

theorem onlyAccess_publishLines (core scope : Nat) (p : Nat → Bool) : OnlyAccess s (publishLines s core scope p) :=
  have h := OnlyAccess.ite (c := scopeClus ≤ scope) (onlyAccess_l1Clean s _) (.refl s)
  .ite (h.trans (onlyAccess_l2Clean _ _)) h

theorem onlyAccess_publishVector (uid core scope : Nat) : OnlyAccess s (publishVector s uid core scope) :=
  .ite (onlyAccess_l2Publish s uid _) (.refl s)

theorem onlyAccess_fenceActions (scope : Nat) : OnlyAccess s (fenceActions s scope) :=
  (onlyAccess_publishLines s s.hart.place.core scope (fun _ => true)).trans
    (onlyAccess_acquireLines _ s.hart.place.core scope (fun _ => true))

theorem onlyAccess_settleLine (core scope loc : Nat) : OnlyAccess s (settleLine s core scope loc) :=
  .ite (.refl s) (.ite ((onlyAccess_l1Flush s _).trans (onlyAccess_l2Flush _ _)) (onlyAccess_l1Flush s _))

theorem onlyAccess_amoRead (core scope loc n : Nat) : OnlyAccess s (amoRead s core scope loc n).2 := by
  unfold amoRead
  split
  · rfl
  · exact .refl s

theorem onlyAccess_readObject (k : AccessKind) (least x : Nat) :
    OkAll (fun r => OnlyAccess s r.2.2) (readObject s k least x) := by
  have hlocate : OkAll (fun r => OnlyAccess s r.2) (amoLocate s .read false scopeStack x) :=
    .after fun l => .after fun _ => .ite .error (.ok (onlyAccess_settleLine s _ _ _))
  unfold readObject
  refine .ite .error (.after fun _ => .bind hlocate fun ⟨l, t⟩ ht => .ok ?_)
  exact ((ht.trans (onlyAccess_settleLine t _ _ _)).trans (onlyAccess_amoRead _ _ _ _ _)).trans
    (onlyMemory_markAccess _ l .read .other).onlyAccess

end

/-! ### What the actions leave in the caches (R130) -/

section
variable (s : State)

theorem writeBack_l1 (x : L1Line) : (s.writeBack x).l1 = s.l1 := by
  unfold State.writeBack
  split
  · rfl
  · dsimp only
    split
    · next t ht =>
      obtain ⟨hctx, -⟩ := guardWrite_keeps s _ _ _ t ht
      rw [hctx]
      unfold State.putLine
      split <;> rfl
    · rfl
    · rfl

theorem l1Flush_l1 (p : L1Line → Bool) : (s.l1Flush p).l1 = s.l1.filter (fun x => !p x) :=
  foldl_keeps (P := fun t : State => t.l1 = s.l1.filter (fun x => !p x)) rfl fun t x ht => (writeBack_l1 t x).trans ht

theorem l1Clean_l1 (p : L1Line → Bool) :
    (s.l1Clean p).l1 = s.l1.map (fun x => if p x then { x with dirty := 0 } else x) :=
  foldl_keeps (P := fun t : State => t.l1 = s.l1.map (fun x => if p x then { x with dirty := 0 } else x)) rfl
    fun t x ht => (writeBack_l1 t x).trans ht

theorem l2Flush_l1 (p : L2Line → Bool) : (s.l2Flush p).l1 = s.l1 :=
  foldl_keeps (P := fun t : State => t.l1 = s.l1) rfl fun _ _ ht => ht

theorem l2Clean_l1 (p : L2Line → Bool) : (s.l2Clean p).l1 = s.l1 :=
  foldl_keeps (P := fun t : State => t.l1 = s.l1) rfl fun _ _ ht => ht

theorem l2Publish_l1 (uid : Nat) (p : L2Line → Bool) : (s.l2Publish uid p).l1 = s.l1 :=
  foldl_keeps (P := fun t : State => t.l1 = s.l1) rfl fun _ _ ht => ht

theorem l2Flush_l2 (p : L2Line → Bool) : (s.l2Flush p).l2 = s.l2.filter (fun y => !p y) :=
  foldl_keeps (P := fun t : State => t.l2 = s.l2.filter (fun y => !p y)) rfl fun _ _ ht => ht

/-- A line of the L2 whose dirty bytes of one hart's vector side have been written home. -/
def L2Line.published (uid : Nat) (y : L2Line) : L2Line := { y with dirty := y.dirty &&& ~~~(y.own uid) }

theorem l2Publish_l2 (uid : Nat) (p : L2Line → Bool) :
    (s.l2Publish uid p).l2 = s.l2.map (fun y => if p y then y.published uid else y) :=
  foldl_keeps (P := fun t : State => t.l2 = s.l2.map (fun y => if p y then y.published uid else y)) rfl fun _ _ ht => ht

theorem published_own (uid : Nat) (y : L2Line) : (y.published uid).own uid = 0 := by
  rw [L2Line.own, L2Line.published, L2Line.own]
  generalize ((y.vec.find? (·.1 == uid)).map (·.2)).getD 0 = mine
  ext i hi
  simp only [BitVec.getElem_and, BitVec.getElem_not]
  cases y.dirty[i] <;> cases mine[i] <;> simp

theorem scopeReaches_iff (scope line : Nat) : scopeReaches scope line = true ↔
    4 ≤ scope ∧ isFarLoc (128 * line) = true ∨ 5 ≤ scope ∧ isPeerLoc (128 * line) = true := by
  rw [scopeReaches, Bool.or_eq_true, Bool.and_eq_true, Bool.and_eq_true, decide_eq_true_iff, decide_eq_true_iff]
  rfl

variable {s} {core scope : Nat} {p : Nat → Bool}

/-- No line that is acquired stays in the core's L1. -/
theorem acquireLines_l1 (hc : 2 ≤ scope) {x : L1Line} (hx : x ∈ (acquireLines s core scope p).l1) (hcore : x.core = core) :
    p x.line = false := by
  have hl1 : (acquireLines s core scope p).l1 = s.l1.filter (fun x => !(x.core == core && p x.line)) := by
    unfold acquireLines
    rw [if_pos (show scopeClus ≤ scope from hc)]
    dsimp only
    split
    · rw [l2Flush_l1, l1Flush_l1]
    · exact l1Flush_l1 s _
  rw [hl1] at hx
  simpa [hcore] using (List.mem_filter.1 hx).2

/-- No line that is acquired and that the scope reaches stays in the stack's L2. -/
theorem acquireLines_l2 (hd : 4 ≤ scope) {y : L2Line} (hy : y ∈ (acquireLines s core scope p).l2)
    (hstack : y.stack = core / 64) (hp : p y.line = true) :
    ¬ (4 ≤ scope ∧ isFarLoc (128 * y.line) = true ∨ 5 ≤ scope ∧ isPeerLoc (128 * y.line) = true) := by
  rw [← scopeReaches_iff, Bool.not_eq_true]
  unfold acquireLines at hy
  rw [if_pos (show scopeDev ≤ scope from hd), l2Flush_l2] at hy
  simpa [hstack, hp] using (List.mem_filter.1 hy).2

/-- No line that is published stays dirty in the core's L1. -/
theorem publishLines_l1 (hc : 2 ≤ scope) {x : L1Line} (hx : x ∈ (publishLines s core scope p).l1) (hcore : x.core = core)
    (hp : p x.line = true) : x.dirty = 0 := by
  have hl1 : (publishLines s core scope p).l1 =
      s.l1.map (fun x => if x.core == core && p x.line then { x with dirty := 0 } else x) := by
    unfold publishLines
    rw [if_pos (show scopeClus ≤ scope from hc)]
    dsimp only
    split
    · rw [l2Clean_l1, l1Clean_l1]
    · exact l1Clean_l1 s _
  rw [hl1] at hx
  obtain ⟨z, -, hz⟩ := List.mem_map.1 hx
  split at hz
  · rw [← hz]
  · next hnot => exact absurd (by simp [hz, hcore, hp]) hnot

theorem publishVector_l1 (uid : Nat) : (publishVector s uid core scope).l1 = s.l1 := by
  unfold publishVector
  split
  · exact l2Publish_l1 s uid _
  · rfl

/-- Of the stack's lines that the scope reaches the vector side's bytes are home, and other lines are as before. -/
theorem publishVector_l2 (uid : Nat) : (publishVector s uid core scope).l2 =
    s.l2.map (fun y => if y.stack == core / 64 && scopeReaches scope y.line then y.published uid else y) := by
  unfold publishVector
  split
  · exact l2Publish_l2 s uid _
  · next hd =>
    have hnone (line : Nat) : scopeReaches scope line = false := by
      rw [scopeDev] at hd
      rw [← Bool.not_eq_true, scopeReaches_iff]
      omega
    simp [hnone]

end

/-! ### Words of either side (R20, R135, R136) -/

theorem Issuing.runShared {s : State} {sd : Side} (h : Issuing s sd) {wf : Bool} {reads writes : List RegId}
    {body : State → Except Stop State} (hw : wf = true) :
    Machine.runPlain s .b wf true reads writes body = finish (discardWait s) (body (discardWait s)) :=
  runPlain_of h (by cases sd <;> rfl) hw rfl

theorem xOk_all {s : State} {sd : Side} (h : s.issue.side = sd) {rs : List (BitVec 5)}
    (hr : sd = .vector → ∀ r ∈ rs, r.toNat < 16) : xOk s rs = true := by
  cases sd with
  | scalar => rw [xOk, h]
  | vector =>
    rw [xOk, h]
    exact List.all_eq_true.2 fun r hm => isH_iff.2 (hr rfl r hm)

theorem vectorWritesPending_discardWait (s : State) : vectorWritesPending (discardWait s) = vectorWritesPending s := by
  cases h : s.issue.side with
  | scalar => rw [discardWait_scalar h]; rfl
  | vector => rw [discardWait_vector s h]

/-- A word that has nothing to wait for on the vector side does not wait on either. -/
theorem accesses_performed {s : State} {sd : Side} (h : Issuing s sd) (hw : sd = .vector → vectorAccessesPending s = false) :
    ¬ ((discardWait s).issue.side == .vector && vectorAccessesPending (discardWait s)) = true := by
  rw [h.discard.side]
  cases sd with
  | scalar => exact Bool.false_ne_true
  | vector => simp [discardWait_vector s h.side, hw rfl]

theorem waitWrites_performed {s : State} (hw : vectorWritesPending s = false) : waitWrites (discardWait s) = .ok () := by
  rw [waitWrites, vectorWritesPending_discardWait, hw]
  rfl

theorem retirePerformed_of {s : State} {core : Nat} {p : Nat → Bool} (h : s.holdsWrite core p = false) :
    retirePerformed s core p = retire s := by
  rw [retirePerformed, h]
  rfl

/-! ### FENCE and FENCE.V (R134) -/

theorem execFence_retires {s : State} {sd : Side} (h : Issuing s sd) {c : BitVec 3} (hc : c.toNat ≤ 5)
    (hw : sd = .vector → vectorAccessesPending s = false)
    (hheld : (fenceActions (discardWait s) c.toNat).holdsWrite s.hart.place.core (fun _ => true) = false) :
    execFence c s = .next (retire (fenceActions (discardWait s) c.toNat)) := by
  rw [← discardWait_place] at hheld
  rw [execFence, h.runShared (isScope_of hc), if_neg (accesses_performed h hw), retirePerformed_of hheld]
  rfl

theorem execFenceV_retires {s : State} {sd : Side} (h : Issuing s sd) {c : BitVec 3} (hc : c.toNat ≤ 5)
    (hw : vectorWritesPending s = false) : execFenceV c s = .next (retire
      (publishVector (discardWait s) (discardWait s).hart.uid (discardWait s).hart.place.core c.toNat)) := by
  rw [execFenceV, h.runShared (isScope_of hc), waitWrites_performed hw]
  rfl

theorem discardWait_uid (s : State) : (discardWait s).hart.uid = s.hart.uid := by
  cases h : s.issue.side with
  | scalar => rw [discardWait_scalar h]
  | vector => rw [discardWait_vector s h]

theorem fences_publishAndInvalidate : fencesPublishAndInvalidate := by
  intro s sd c h hc core
  refine ⟨fun hw hheld => ?_, fun hw => ?_⟩
  · obtain ⟨hpc, hregs⟩ := (onlyAccess_fenceActions (discardWait s) c.toNat).retired
    refine ⟨_, execFence_retires h hc hw hheld, hpc, hregs, ?_⟩
    rw [retire_l1, retire_l2, fenceActions, discardWait_place]
    refine ⟨fun h2 x hx hcore => absurd (acquireLines_l1 h2 hx hcore) (by simp), fun h4 y hy hstack => ?_,
      fun h5 y hy hstack => ?_⟩
    · exact Bool.eq_false_iff.2 fun hfar => acquireLines_l2 h4 hy hstack rfl (.inl ⟨h4, hfar⟩)
    · exact Bool.eq_false_iff.2 fun hpeer => acquireLines_l2 (Nat.le_of_succ_le h5) hy hstack rfl (.inr ⟨h5, hpeer⟩)
  · obtain ⟨hpc, hregs⟩ := (onlyAccess_publishVector (discardWait s) (discardWait s).hart.uid
      (discardWait s).hart.place.core c.toNat).retired
    refine ⟨_, execFenceV_retires h hc hw, hpc, hregs, ?_⟩
    rw [retire_l1, retire_l2, publishVector_l1, publishVector_l2, discardWait_l1, discardWait_l2, discardWait_place,
      discardWait_uid]
    refine ⟨rfl, fun y hy hstack hreach => ?_, fun y hy => ?_⟩
    · obtain ⟨x, -, hx⟩ := List.mem_map.1 hy
      split at hx
      · rw [← hx, published_own]
      · next hnot => exact absurd (by simp [hx, hstack, core, (scopeReaches_iff _ _).2 hreach]) hnot
    · obtain ⟨x, hx, rfl⟩ := List.mem_map.1 hy
      refine ⟨x, hx, ?_⟩
      split
      · refine ⟨rfl, rfl, rfl, ?_⟩
        rw [L2Line.published, BitVec.and_assoc, BitVec.and_self]
      · exact ⟨rfl, rfl, rfl, rfl⟩

/-! ### ACQ and REL (R132, R133) -/

theorem objectRegions_of {v : Nat} {ds : List Descriptor} (h : regionsOf v = some ds) (x : Nat) :
    objectRegions x v = .ok ds := by
  rw [objectRegions, h]

section
variable {s u : State} {sd : Side} {a : BitVec 5} {n v sc : Nat} {ds : List Descriptor} (h : Issuing s sd)
  (ha : sd = .vector → a.toNat < 16)
  (hread : readObject (discardWait s) .read 0 (xRead s a.toNat).toNat = .ok (n, v, u)) (hds : regionsOf v = some ds)
  (hsc : scopeOf ds = some sc)
include hread

theorem place_readObject : u.hart.place.core = s.hart.place.core := by
  rw [(onlyAccess_readObject _ _ _ _ _ hread).hart, discardWait_place]

include h ha hds hsc

theorem execAcq_retires (hw : sd = .vector → vectorAccessesPending s = false)
    (hheld : (acquireLines u s.hart.place.core sc (covered u u.hart ds)).holdsWrite s.hart.place.core
      (covered u u.hart ds) = false) :
    execAcq a s = .next (retire (acquireLines u s.hart.place.core sc (covered u u.hart ds))) := by
  rw [execAcq, h.runShared (xOk_all h.side (by simpa using ha)), xRead_discardWait]
  dsimp only [bind, Except.bind]
  rw [hread]
  dsimp only
  rw [objectRegions_of hds]
  dsimp only
  rw [if_neg (accesses_performed h hw), hsc]
  dsimp only
  rw [place_readObject hread, retirePerformed_of hheld]
  rfl

theorem execRel_retires (hw : vectorWritesPending s = false)
    (hheld : (publishLines u s.hart.place.core sc (covered u u.hart ds)).holdsWrite s.hart.place.core
      (covered u u.hart ds) = false) :
    execRel a s = .next (retire (publishLines u s.hart.place.core sc (covered u u.hart ds))) := by
  rw [execRel, h.runShared (xOk_all h.side (by simpa using ha)), xRead_discardWait]
  dsimp only [bind, Except.bind]
  rw [hread]
  dsimp only
  rw [objectRegions_of hds]
  dsimp only
  rw [waitWrites_performed hw, hsc]
  dsimp only
  rw [place_readObject hread, retirePerformed_of hheld]
  rfl

end

theorem acquireAndRelease_anObject : acquireAndReleaseAnObject := by
  intro s sd a n v u ds sc h ha hread hds hsc core
  have hu : OnlyAccess (discardWait s) u := onlyAccess_readObject _ _ _ _ _ hread
  refine ⟨fun hw hheld => ?_, fun hw hheld => ?_⟩
  · obtain ⟨hpc, hregs⟩ := (hu.trans (onlyAccess_acquireLines u core sc (covered u u.hart ds))).retired
    refine ⟨_, execAcq_retires h ha hread hds hsc hw hheld, hpc, hregs, fun h2 x hx hcore => ?_⟩
    rw [retire_l1] at hx
    exact acquireLines_l1 h2 hx hcore
  · obtain ⟨hpc, hregs⟩ := (hu.trans (onlyAccess_publishLines u core sc (covered u u.hart ds))).retired
    refine ⟨_, execRel_retires h ha hread hds hsc hw hheld, hpc, hregs, fun h2 x hx hcore hp => ?_⟩
    rw [retire_l1] at hx
    exact publishLines_l1 h2 hx hcore hp

/-- Settles O14: each word retires once its actions are performed, and they leave the caches as the scope says. -/
theorem fencesOrderAccesses : Obligations.FencesOrderAccesses :=
  ⟨fences_publishAndInvalidate, acquireAndRelease_anObject⟩

end Sys2Proof.Machine
end

section
/-!
LAW. BIND and UNBIND: the slot that a descriptor takes in an object's line, and the slots that are cleared (R131, R132, R138,
R139). Settles O15.
-/

namespace Sys2Proof.Machine

/-! ### BIND -/

/-- What BIND does with the object's line once it has read it: the descriptor `v`, which stands for `r`, keeps its slot or
takes the lowest free one (R138). -/
def bindSlot (u : State) (d : BitVec 5) (x point line v : Nat) (r : Descriptor) (ds : List Descriptor) : Except Stop State :=
  match equalSlot line v with
  | some n => .ok (xgave u d (word n))
  | none =>
    if ds.any (fun o => o.scope != r.scope) then .error (.trap (badrec 2 x))
    else match freeSlot line with
      | none => .ok (xgave u d ones64)
      | some n => do
        awaitSide u .write x
        let z ← writeObject u x point (16 * n) 16 v
        .ok (xgave z d (word n))

section
variable {u : State} {d : BitVec 5} {x point line v n : Nat} {r : Descriptor} {ds : List Descriptor}

theorem bindSlot_held (hn : equalSlot line v = some n) : bindSlot u d x point line v r ds = .ok (xgave u d (word n)) := by
  rw [bindSlot, hn]

/-- A descriptor that the line does not hold goes by the free slots, where the scopes agree. -/
theorem bindSlot_new (he : equalSlot line v = none) (hscope : ∀ o ∈ ds, o.scope = r.scope) :
    (freeSlot line = none → bindSlot u d x point line v r ds = .ok (xgave u d (BitVec.allOnes 64))) ∧
    (∀ n z, freeSlot line = some n → awaitSide u .write x = .ok () → writeObject u x point (16 * n) 16 v = .ok z →
      bindSlot u d x point line v r ds = .ok (xgave z d (word n))) := by
  have hagree : ¬ ds.any (fun o => o.scope != r.scope) = true := by simpa using hscope
  refine ⟨fun hf => ?_, fun n z hf hwait hw => ?_⟩
  · rw [bindSlot, he]
    dsimp only
    rw [if_neg hagree, hf]
    rfl
  · rw [bindSlot, he]
    dsimp only
    rw [if_neg hagree, hf]
    dsimp only [bind, Except.bind]
    rw [hwait]
    dsimp only
    rw [hw]

end

/-- BIND once it has read its descriptor, which is well formed and in use, and the object's line. -/
theorem execBind_of {s w u : State} {sd : Side} (h : Issuing s sd) {d a b : BitVec 5}
    (hreg : sd = .vector → d.toNat < 16 ∧ a.toNat < 16 ∧ b.toNat < 16) {v point line : Nat} {r : Descriptor}
    {ds : List Descriptor} (hx : (xRead s a.toNat).toNat % 128 = 0) (hy : (xRead s b.toNat).toNat % 16 = 0)
    (hv : readDescriptor (discardWait s) (xRead s b.toNat).toNat = .ok (v, w)) (hr : descriptor v = some r)
    (hlen : r.len ≠ 0) (ho : readObject w .read r.scope (xRead s a.toNat).toNat = .ok (point, line, u))
    (hds : regionsOf line = some ds) :
    execBind d a b s = finish (discardWait s) (bindSlot u d (xRead s a.toNat).toNat point line v r ds) := by
  rw [execBind, h.runShared (xOk_all h.side (by simpa using hreg)), xRead_discardWait, xRead_discardWait]
  dsimp only [bind, Except.bind]
  rw [if_neg (by simpa using hx), if_neg (by simpa using hy), hv]
  dsimp only
  rw [hr]
  dsimp only
  rw [if_neg (by simpa using hlen), ho]
  dsimp only
  rw [objectRegions_of hds]
  rfl

/-! ### UNBIND -/

/-- UNBIND of an aligned object goes by the number of the slot. -/
theorem execUnbind_of {s : State} {sd : Side} (h : Issuing s sd) {a b : BitVec 5}
    (hreg : sd = .vector → a.toNat < 16 ∧ b.toNat < 16) (hx : (xRead s a.toNat).toNat % 128 = 0) : execUnbind a b s = finish (discardWait s)
    (if (xRead s b.toNat).toNat ≤ 7 then
      (clearSlots (discardWait s) (xRead s a.toNat).toNat (16 * (xRead s b.toNat).toNat) 16).map retire
    else if xRead s b.toNat = BitVec.allOnes 64 then
      (clearSlots (discardWait s) (xRead s a.toNat).toNat 0 128).map retire
    else .ok (retire (discardWait s))) := by
  rw [execUnbind, h.runShared (xOk_all h.side (by simpa using hreg)), xRead_discardWait, xRead_discardWait]
  dsimp only [bind, Except.bind]
  rw [if_neg (by simpa using hx)]
  simp only [beq_iff_eq]
  rfl

/-- Settles O15: BIND by what it reads and where the descriptor stands in the line, UNBIND by the slot's number. -/
theorem bindingEditsTheObject : Obligations.BindingEditsTheObject := by
  unfold Obligations.BindingEditsTheObject
  intro s sd d a b h hreg x y
  refine ⟨fun v w r point line u ds hx hy hv hr hlen ho hds => ?_, fun hx => ?_⟩
  · rw [show exec (.bind d a b) s = execBind d a b s from rfl, execBind_of h hreg hx hy hv hr hlen ho hds]
    refine ⟨fun n hn => ?_, fun he hscope hf => ?_, fun n z he hscope hf hwait hw => ?_⟩
    · rw [bindSlot_held hn]
      rfl
    · rw [(bindSlot_new he hscope).1 hf]
      rfl
    · rw [(bindSlot_new he hscope).2 n z hf hwait hw]
      rfl
  · rw [show exec (.unbind a b) s = execUnbind a b s from rfl, execUnbind_of h (fun hs => (hreg hs).2) hx]
    refine ⟨fun z hy hz => ?_, fun z hy hz => ?_, fun hy hne => ?_⟩
    · rw [if_pos hy, hz]
      rfl
    · have hlarge : ¬ y.toNat ≤ 7 := by rw [hy]; decide
      rw [if_neg hlarge, if_pos hy, hz]
      rfl
    · rw [if_neg (Nat.not_le.2 hy), if_neg hne]
      rfl

end Sys2Proof.Machine
end

section
/-!
LAW. BINIT, BARRIVE, BWAIT, BARW and BTEST: what each word makes of the record that it reads, and what a word that waits
makes of the record's state and phase (R141 to R147). Settles O16.
-/

namespace Sys2Proof.Machine

/-! ### The side's wait, and the end of a word of BAR -/

section
variable {u z : State} {d : BitVec 5} {c : BitVec 3} {w : BarWait} {v : Word}

theorem barWaiting_discardWait (s : State) : barWaiting (discardWait s) = barWaiting s := by
  cases h : s.issue.side with
  | scalar => rw [discardWait_scalar h]; rfl
  | vector => rw [discardWait_vector s h]

theorem setBarWaiting_cs (u : State) (b : Option BarWait) : (setBarWaiting u b).hart.cs = u.hart.cs := by
  unfold setBarWaiting
  split <;> rfl

theorem xWrite_cs (u : State) (r : Nat) (v : Word) : (xWrite u r v).hart.cs = u.hart.cs := by
  unfold xWrite
  split
  · exact gWrite_cs u.hart r v
  · exact hWrite_cs u.hart r v

/-- Outside timed regions a word of BAR ends as any word with a result does, and its side waits no longer. -/
theorem retireBar_untimed (h : u.hart.cs.hstat.timed = false) : retireBar u d v = xgave (setBarWaiting u none) d v := by
  rw [retireBar, varyTime_untimed, xgave]
  rw [retire_timed, xWrite_cs, setBarWaiting_cs, h]

theorem barResult_eq (st : BarStatus) (tok : Bool) : barResult st tok = BitVec.ofNat 64 (2 * st.code + tok.toNat) := by
  rw [barResult, Nat.mul_comm]

/-- A word that acquires retires with its report where the acquiring action has nothing to wait for (R145). -/
theorem acquireAndRetire_of (hw : sideBusy z = false ∧ sideHeld (acquireSide z c.toNat) = false) :
    acquireAndRetire z d c w =
      retireBar (acquireSide z c.toNat) d (barResult (if w.stage == .last then .last else .released) w.tok) := by
  obtain ⟨hbusy, hheld⟩ := hw
  rw [acquireAndRetire, if_neg (ne_true_of_eq_false hbusy), if_neg (ne_true_of_eq_false hheld)]

end

/-! ### BINIT -/

section
variable {s u : State} {sd : Side} {d a b : BitVec 5} {c : BitVec 3} {l : Located} {r : BarRecord} (h : Issuing s sd)
  (hreg : sd = .vector → d.toNat < 16 ∧ a.toNat < 16 ∧ b.toNat < 16) (hc : c.toNat ≤ 5)
include h hreg hc

/-- Either side admits the scope and the three registers of the word. -/
theorem threeFields_ok : (isScope c && xOk s [d, a, b]) = true := by
  rw [isScope_of hc, xOk_all h.side (by simpa using hreg)]
  rfl

/-- BINIT with a count in range, once it has read its record. -/
theorem execBinit_of (hread : readBarrier (discardWait s) (xRead s a.toNat).toNat c.toNat true = .ok (l, r, u))
    (hn : (xRead s b.toNat).toNat < 2 ^ 24) : execBinit d a b c s = finish (discardWait s)
      (if r.st == .filling then .ok (retireBar u d 1)
       else (writeBarrier u (xRead s a.toNat).toNat c.toNat
         (BarRecord.init (xRead s b.toNat).toNat c.toNat u.hart.launch.toNat) true).map (retireBar · d 0)) := by
  rw [execBinit, h.runShared (threeFields_ok h hreg hc), xRead_discardWait, xRead_discardWait]
  dsimp only [bind, Except.bind]
  rw [hread]
  dsimp only
  rw [if_neg (Nat.not_le.2 hn)]
  rfl

end

/-! ### Arrivals (R143, R145) -/

/-- What follows an arrival that was counted: the last one acquires, and another waits if `wait` says so. -/
def afterArrival (z : State) (d : BitVec 5) (c : BitVec 3) (wait tok : Bool) (st : BarStatus) : State :=
  if st == .last then acquireAndRetire z d c { d := d.toNat, tok := tok, p := z.issue.p, stage := .last, once := !wait }
  else if wait then stall (setBarWaiting z (some { d := d.toNat, tok := tok, p := z.issue.p }))
  else retireBar z d (barResult st tok)

theorem arrive_aborted {r : BarRecord} (h : r.st = .aborted) : r.arrive = (r, .aborted) := by
  rw [BarRecord.arrive, h]
  rfl

theorem arrive_notLast {r : BarRecord} (h : r.st ≠ .aborted) (hn : r.arrived + 1 < r.count) :
    r.arrive = ({ r with arrived := r.arrived + 1, st := .filling }, .arrived) := by
  rw [BarRecord.arrive, if_neg (by simpa using h), if_pos hn]

theorem arrive_last {r : BarRecord} (h : r.st ≠ .aborted) (hn : r.count ≤ r.arrived + 1) :
    r.arrive = ({ r with arrived := 0, phase := !r.phase, st := .armed }, .last) := by
  rw [BarRecord.arrive, if_neg (by simpa using h), if_neg (Nat.not_lt.2 hn)]

section
variable {s u p z : State} {d a : BitVec 5} {c : BitVec 3} {l : Located} {r r' : BarRecord} {st : BarStatus} {wait : Bool}
  (hread : readBarrier s (xRead s a.toNat).toNat c.toNat false = .ok (l, r, u)) (hpub : publishSide u c.toNat = .ok p)
  (hheld : sideHeld p = false)
include hread hpub hheld

/-- An arrival once it has read its record and its side's writes are published goes by how the record takes it. -/
theorem arriveAt_of (harrive : r.arrive = (r', st)) : arriveAt s d a c wait =
    if st == .aborted then .ok (retireBar p d (barResult st r.phase))
    else (writeBarrier p (xRead s a.toNat).toNat c.toNat r' false).map (afterArrival · d c wait r.phase st) := by
  rw [arriveAt]
  dsimp only [bind, Except.bind]
  rw [hread]
  dsimp only
  rw [hpub]
  dsimp only
  rw [if_neg (ne_true_of_eq_false hheld), harrive]
  cases writeBarrier p (xRead s a.toNat).toNat c.toNat r' false with
  | error => rfl
  | ok z => simp only [Except.map, afterArrival, apply_ite Except.ok]

theorem arriveAt_aborted (hst : r.st = .aborted) :
    arriveAt s d a c wait = .ok (retireBar p d (barResult .aborted r.phase)) :=
  arriveAt_of hread hpub hheld (arrive_aborted hst)

/-- An arrival that is not the last counts itself. -/
theorem arriveAt_notLast (hst : r.st ≠ .aborted) (hn : r.arrived + 1 < r.count)
    (hz : writeBarrier p (xRead s a.toNat).toNat c.toNat { r with arrived := r.arrived + 1, st := .filling } false = .ok z) :
    arriveAt s d a c wait = .ok (afterArrival z d c wait r.phase .arrived) := by
  rw [arriveAt_of hread hpub hheld (arrive_notLast hst hn), hz]
  rfl

/-- The last arrival turns the phase, acquires and reports LAST, whether or not the word would wait. -/
theorem arriveAt_last (hst : r.st ≠ .aborted) (hn : r.count ≤ r.arrived + 1)
    (hz : writeBarrier p (xRead s a.toNat).toNat c.toNat { r with arrived := 0, phase := !r.phase, st := .armed } false =
      .ok z) (hw : sideBusy z = false ∧ sideHeld (acquireSide z c.toNat) = false) :
    arriveAt s d a c wait = .ok (retireBar (acquireSide z c.toNat) d (barResult .last r.phase)) := by
  rw [arriveAt_of hread hpub hheld (arrive_last hst hn), hz]
  exact congrArg Except.ok (acquireAndRetire_of hw)

end

/-! ### Looks at the phase (R143, R147) -/

/-- What BWAIT and BTEST make of the record `r` that they read with the token `tok`; `pending` is the state of a word that
finds its own phase. -/
def afterLook (u : State) (d : BitVec 5) (c : BitVec 3) (r : BarRecord) (w : BarWait) (pending : State) : State :=
  if r.st == .aborted then retireBar u d (barResult .aborted w.tok)
  else if r.phase != w.tok then acquireAndRetire u d c { w with stage := .released }
  else pending

section
variable {u pending : State} {d : BitVec 5} {c : BitVec 3} {r : BarRecord} {w : BarWait}

theorem afterLook_aborted (hst : r.st = .aborted) :
    afterLook u d c r w pending = retireBar u d (barResult .aborted w.tok) := by
  rw [afterLook, hst]
  rfl

theorem afterLook_released (hst : r.st ≠ .aborted) (hp : r.phase ≠ w.tok)
    (hw : sideBusy u = false ∧ sideHeld (acquireSide u c.toNat) = false) :
    afterLook u d c r w pending = retireBar (acquireSide u c.toNat) d (barResult .released w.tok) := by
  rw [afterLook, if_neg (by simpa using hst), if_pos (by simpa using hp), acquireAndRetire_of hw]
  rfl

theorem afterLook_pending (hst : r.st ≠ .aborted) (hp : r.phase = w.tok) : afterLook u d c r w pending = pending := by
  rw [afterLook, if_neg (by simpa using hst), if_neg (by simpa using hp)]

end

/-- A word that waits for its phase looks at the record's state and phase alone. -/
theorem continueBar_phase {s u : State} {d a : BitVec 5} {c : BitVec 3} {l : Located} {v : Nat} {w : BarWait}
    (hw : w.stage = .phase) (hread : barrierBytes s (xRead s a.toNat).toNat c.toNat = .ok (l, v, u)) :
    continueBar s d a c w =
      if bytesAt v 8 4 / 2 % 4 = 3 then .ok (retireBar u d (barResult .aborted w.tok))
      else if (bytesAt v 8 4 % 2 == 1) != w.tok then .ok (acquireAndRetire u d c { w with stage := .released })
      else .error .wait := by
  rw [continueBar, if_pos (by rw [hw]; rfl), phaseTurn]
  dsimp only [bind, Except.bind]
  rw [hread]

/-! ### The words that arrive or wait -/

section
variable {s u : State} {sd : Side} {d a b : BitVec 5} {c : BitVec 3} {l : Located} {r : BarRecord} {w : BarWait}
  (h : Issuing s sd) (hreg : sd = .vector → d.toNat < 16 ∧ a.toNat < 16 ∧ b.toNat < 16) (hc : c.toNat ≤ 5)

section
include h hreg hc

/-- Either side admits the scope and the two registers of an arrival. -/
theorem twoFields_ok : (isScope c && xOk s [d, a]) = true := by
  rw [isScope_of hc, xOk_of h.side fun hs => ⟨(hreg hs).1, (hreg hs).2.1⟩]
  rfl

theorem execBarrive_arrives (hnone : barWaiting s = none) :
    execBarrive d a c s = finish (discardWait s) (arriveAt (discardWait s) d a c false) := by
  rw [execBarrive, h.runShared (twoFields_ok h hreg hc), barWaiting_discardWait, hnone]

theorem execBarw_arrives (hnone : barWaiting s = none) :
    execBarw d a c s = finish (discardWait s) (arriveAt (discardWait s) d a c true) := by
  rw [execBarw, h.runShared (twoFields_ok h hreg hc), barWaiting_discardWait, hnone]

theorem execBarw_continues (hwait : barWaiting s = some w) :
    execBarw d a c s = finish (discardWait s) (continueBar (discardWait s) d a c w) := by
  rw [execBarw, h.runShared (twoFields_ok h hreg hc), barWaiting_discardWait, hwait]

theorem execBwait_continues (hwait : barWaiting s = some w) :
    execBwait d a b c s = finish (discardWait s) (continueBar (discardWait s) d a c w) := by
  rw [execBwait, h.runShared (threeFields_ok h hreg hc), barWaiting_discardWait, hwait]

end

/-- The wait of a word that has not arrived, for the other phase of the token that it is given. -/
def givenWait (s : State) (d b : BitVec 5) : BarWait :=
  { d := d.toNat, tok := (xRead s b.toNat).getLsbD 0, p := s.issue.p, arrived := false }

variable (hnone : barWaiting s = none)
  (hread : readBarrier (discardWait s) (xRead s a.toNat).toNat c.toNat false = .ok (l, r, u))
include h hreg hc hnone hread

/-- BWAIT, once it has read its record, begins its wait where it finds its own phase. -/
theorem execBwait_looks : execBwait d a b c s =
    .next (afterLook u d c r (givenWait s d b) (stall (setBarWaiting u (some (givenWait s d b))))) := by
  rw [execBwait, h.runShared (threeFields_ok h hreg hc), barWaiting_discardWait, hnone]
  dsimp only [bind, Except.bind]
  rw [xRead_discardWait, xRead_discardWait, discardWait_issue, hread]
  dsimp only
  rw [← apply_ite Except.ok, ← apply_ite Except.ok]
  rfl

/-- BTEST, once it has read its record, reports PENDING where it finds its own phase. -/
theorem execBtest_looks : execBtest d a b c s =
    .next (afterLook u d c r (givenWait s d b) (retireBar u d (barResult .pending (givenWait s d b).tok))) := by
  rw [execBtest, h.runShared (threeFields_ok h hreg hc), barWaiting_discardWait, hnone]
  dsimp only [bind, Except.bind]
  rw [xRead_discardWait, xRead_discardWait, discardWait_issue, hread]
  dsimp only
  rw [← apply_ite Except.ok, ← apply_ite Except.ok]
  rfl

end

/-- Settles O16: each word by the record that it reads, and a word that waits by the record's state and phase. -/
theorem barriersCountTheirArrivals : Obligations.BarriersCountTheirArrivals := by
  unfold Obligations.BarriersCountTheirArrivals
  intro s sd d a b c h hreg hc x y result acquired
  have hx : (xRead (discardWait s) a.toNat).toNat = x := by rw [xRead_discardWait]
  have hresult (st : BarStatus) (tok : Bool) : result st tok = barResult st tok := (barResult_eq st tok).symm
  simp only [hresult]
  refine ⟨fun u v htimed => retireBar_untimed htimed, fun l r u hread hn => ?_, fun hnone l r u hread => ⟨?_, ?_⟩,
    fun w hwait hphase l v u hread => ?_⟩
  · rw [show exec (.binit d a b c) s = execBinit d a b c s from rfl, execBinit_of h hreg hc hread hn]
    refine ⟨fun hst => ?_, fun z hst hz => ?_⟩
    · rw [hst]
      rfl
    · rw [if_neg (by simpa using hst), BarRecord.init]
      simp only [beq_iff_eq]
      rw [hz]
      rfl
  · intro p hpub hheld
    rw [← hx] at hread
    rw [show exec (.barrive d a c) s = execBarrive d a c s from rfl, show exec (.barw d a c) s = execBarw d a c s from rfl,
      execBarrive_arrives h hreg hc hnone, execBarw_arrives h hreg hc hnone]
    refine ⟨fun hst => ?_, fun z hst hn hz => ?_, fun z hst hn hz hw => ?_⟩
    · rw [arriveAt_aborted hread hpub hheld hst, arriveAt_aborted hread hpub hheld hst]
      exact ⟨rfl, rfl⟩
    · rw [← hx] at hz
      rw [arriveAt_notLast hread hpub hheld hst hn hz, arriveAt_notLast hread hpub hheld hst hn hz]
      exact ⟨rfl, rfl⟩
    · rw [← hx] at hz
      rw [arriveAt_last hread hpub hheld hst hn hz hw, arriveAt_last hread hpub hheld hst hn hz hw]
      exact ⟨rfl, rfl⟩
  · rw [show exec (.bwait d a b c) s = execBwait d a b c s from rfl,
      show exec (.btest d a b c) s = execBtest d a b c s from rfl, execBwait_looks h hreg hc hnone hread, execBtest_looks h hreg hc hnone hread]
    refine ⟨fun hst => ?_, fun hst hp hw => ?_, fun hst hp => ?_⟩
    · rw [afterLook_aborted hst, afterLook_aborted hst]
      exact ⟨rfl, rfl⟩
    · rw [afterLook_released hst hp hw, afterLook_released hst hp hw]
      exact ⟨rfl, rfl⟩
    · rw [afterLook_pending hst hp, afterLook_pending hst hp]
      exact ⟨rfl, rfl⟩
  · rw [← hx] at hread
    rw [show exec (.bwait d a b c) s = execBwait d a b c s from rfl, show exec (.barw d a c) s = execBarw d a c s from rfl,
      execBwait_continues h hreg hc hwait, execBarw_continues h hreg hc hwait, continueBar_phase hphase hread]
    refine ⟨fun hst => ?_, fun hst hp hw => ?_, fun hst hp => ?_⟩
    · rw [if_pos hst]
      exact ⟨rfl, rfl⟩
    · rw [if_neg hst, if_pos (by simpa using hp), acquireAndRetire_of hw]
      exact ⟨rfl, rfl⟩
    · rw [if_neg hst, if_neg (by simpa using hp)]
      exact ⟨rfl, rfl⟩

end Sys2Proof.Machine
end

section
/-!
LAW. LAUNCH, LAUNCHG, CSIG, CREAD and CANCEL: what each word makes of the record or counter that it reads, once the scalar
side's writes are published (R130, R238, R287 to R299). Settles O22 and O23.
-/

namespace Sys2Proof.Machine

/-! ### Scalar-side words that publish first -/

theorem Issuing.runPlainScalar {s : State} (h : Issuing s .scalar) {wf : Bool} {reads writes : List RegId}
    {body : State → Except Stop State} (hw : wf = true) :
    Machine.runPlain s .s wf true reads writes body = finish (discardWait s) (body (discardWait s)) :=
  runPlain_of h rfl hw rfl

theorem afterPublish_eq (s : State) (scope : Nat) (body : State → Except Stop State) :
    afterPublish s scope body =
      if (publishLines s s.hart.place.core scope (fun _ => true)).holdsWrite s.hart.place.core (fun _ => true) then
        .ok (stall (publishLines s s.hart.place.core scope (fun _ => true)))
      else body (publishLines s s.hart.place.core scope (fun _ => true)) := by
  rw [afterPublish, (onlyAccess_publishLines ..).hart]

@[simp] theorem discardWait_queue (s : State) : (discardWait s).hart.queue = s.hart.queue := by
  unfold discardWait
  split
  · rfl
  · simp only [mapHart_hart]; split <;> rfl

theorem finish_trap_scalar {s : State} (h : Issuing s .scalar) (x : Trap) :
    finish (discardWait s) (.error (.trap x)) = .next (takeTrap (discardWait s) x .scalar) := by
  rw [finish, h.discard.side]
  rfl

/-! ### LAUNCH and LAUNCHG (R289 to R291, R295, R299) -/

/-- A request at the end of a queue's device list. -/
theorem device_appendRequest (s : State) (q : Nat) (r : DeviceReq) :
    ((appendRequest s q r).queue q).device = (s.queue q).device ++ [r] := by
  rw [appendRequest, queue_mapQueue_same s (queue_n s q)]

/-- What LAUNCH leaves: a launch that goes on is live, at the end of its queue's device list. -/
def launchEntered (z : State) (q : Nat) (l : Launch) (go : Bool) : State :=
  if go then appendRequest { z with launches := z.launches ++ [l] } q ⟨false, l.handle⟩ else z

/-- What LAUNCHG leaves. -/
def graphEntered (z : State) (q : Nat) (g : Graph) (go : Bool) : State :=
  if go then appendRequest { z with graphs := z.graphs ++ [g] } q ⟨true, g.counter⟩ else z

theorem launchEntered_effect (z : State) (q : Nat) (l : Launch) (go : Bool) :
    (go = false → launchEntered z q l go = z) ∧
    (go = true → (launchEntered z q l go).launches = z.launches ++ [l] ∧
      ((launchEntered z q l go).queue q).device = (z.queue q).device ++ [⟨false, l.handle⟩]) := by
  refine ⟨fun h => by rw [h]; rfl, fun h => ?_⟩
  rw [h]
  exact ⟨rfl, device_appendRequest ..⟩

theorem graphEntered_effect (z : State) (q : Nat) (g : Graph) (go : Bool) :
    (go = false → graphEntered z q g go = z) ∧
    (go = true → (graphEntered z q g go).graphs = z.graphs ++ [g] ∧
      ((graphEntered z q g go).queue q).device = (z.queue q).device ++ [⟨true, g.counter⟩]) := by
  refine ⟨fun h => by rw [h]; rfl, fun h => ?_⟩
  rw [h]
  exact ⟨rfl, device_appendRequest ..⟩

/-- What LAUNCH does once the scalar side's writes are published; `s` is the state of its issue. -/
def launchBody (s : State) (d a : BitVec 5) (p : State) : Except Stop State := do
  let (x, w) ← readLaunch p s.hart.asid s.hart.queue (gRead s.hart a.toNat)
  match x with
  | none => .error (.trap (badrec 3 (gRead s.hart a.toNat).toNat))
  | some (l, chain) =>
    if deviceList ≤ (w.queue s.hart.queue).device.length then .error .wait
    else do
      let (go, z) ← startCounter w w.hart.place.core s.hart.asid chain
      .ok (gave (launchEntered z s.hart.queue l go) d l.handle)

/-- What LAUNCHG does once the scalar side's writes are published. -/
def launchgBody (s : State) (d a : BitVec 5) (p : State) : Except Stop State := do
  let (x, w) ← readGraph p s.hart.asid s.hart.queue (gRead s.hart a.toNat)
  match x with
  | none => .error (.trap (badrec 4 (gRead s.hart a.toNat).toNat))
  | some (g, chain) =>
    if deviceList ≤ (w.queue s.hart.queue).device.length then .error .wait
    else do
      let (go, z) ← startCounter w w.hart.place.core s.hart.asid chain
      .ok (gave (graphEntered z s.hart.queue g go) d g.counter)

theorem execLaunch_of {s : State} (h : Issuing s .scalar) (d a : BitVec 5) :
    execLaunch d a s = finish (discardWait s) (afterPublish (discardWait s) 4 (launchBody s d a)) := by
  rw [execLaunch, h.runPlainScalar rfl, discardWait_asid, discardWait_queue, gRead_discardWait]
  rfl

theorem execLaunchg_of {s : State} (h : Issuing s .scalar) (d a : BitVec 5) :
    execLaunchg d a s = finish (discardWait s) (afterPublish (discardWait s) 4 (launchgBody s d a)) := by
  rw [execLaunchg, h.runPlainScalar rfl, discardWait_asid, discardWait_queue, gRead_discardWait]
  rfl

section
variable {s p w z : State} {d a : BitVec 5} {go : Bool} {chain : List (Word × Word)}

theorem launchBody_starts {l : Launch}
    (hx : readLaunch p s.hart.asid s.hart.queue (gRead s.hart a.toNat) = .ok (some (l, chain), w))
    (hroom : (w.queue s.hart.queue).device.length < 64)
    (hstart : startCounter w w.hart.place.core s.hart.asid chain = .ok (go, z)) :
    launchBody s d a p = .ok (gave (launchEntered z s.hart.queue l go) d l.handle) := by
  rw [launchBody]
  dsimp only [bind, Except.bind]
  rw [hx]
  dsimp only
  rw [if_neg (Nat.not_le.2 hroom : ¬ deviceList ≤ _), hstart]

theorem launchgBody_starts {g : Graph}
    (hx : readGraph p s.hart.asid s.hart.queue (gRead s.hart a.toNat) = .ok (some (g, chain), w))
    (hroom : (w.queue s.hart.queue).device.length < 64)
    (hstart : startCounter w w.hart.place.core s.hart.asid chain = .ok (go, z)) :
    launchgBody s d a p = .ok (gave (graphEntered z s.hart.queue g go) d g.counter) := by
  rw [launchgBody]
  dsimp only [bind, Except.bind]
  rw [hx]
  dsimp only
  rw [if_neg (Nat.not_le.2 hroom : ¬ deviceList ≤ _), hstart]

theorem launchBody_malformed (hx : readLaunch p s.hart.asid s.hart.queue (gRead s.hart a.toNat) = .ok (none, w)) :
    launchBody s d a p = .error (.trap { code := 0x08, sub := 3, val := gRead s.hart a.toNat }) := by
  rw [launchBody]
  dsimp only [bind, Except.bind]
  rw [hx, badrec, word_toNat]
  rfl

theorem launchgBody_malformed (hx : readGraph p s.hart.asid s.hart.queue (gRead s.hart a.toNat) = .ok (none, w)) :
    launchgBody s d a p = .error (.trap { code := 0x08, sub := 4, val := gRead s.hart a.toNat }) := by
  rw [launchgBody]
  dsimp only [bind, Except.bind]
  rw [hx, badrec, word_toNat]
  rfl

end

/-- Settles O22: the word waits for held writes, and else goes by what it reads and how its counter starts. -/
theorem launchesEnterTheDeviceList : Obligations.LaunchesEnterTheDeviceList := by
  unfold Obligations.LaunchesEnterTheDeviceList
  intro s d a h u at_ p
  have hlaunch := execLaunch_of h d a
  have hlaunchg := execLaunchg_of h d a
  rw [show exec (.launch d a) s = execLaunch d a s from rfl, show exec (.launchg d a) s = execLaunchg d a s from rfl]
  refine ⟨fun hheld => ?_, fun hfree => ?_⟩
  · rw [hlaunch, hlaunchg, afterPublish_eq, afterPublish_eq, discardWait_place, if_pos hheld, if_pos hheld]
    exact ⟨rfl, rfl⟩
  · rw [hlaunch, hlaunchg, afterPublish_eq, afterPublish_eq, discardWait_place, if_neg (ne_true_of_eq_false hfree),
      if_neg (ne_true_of_eq_false hfree)]
    refine ⟨fun l chain w z go hr hroom hstart => ?_, fun g chain w z go hr hroom hstart => ?_, fun w hr => ?_, fun w hr => ?_⟩
    · rw [launchBody_starts hr hroom hstart]
      exact ⟨_, rfl, launchEntered_effect ..⟩
    · rw [launchgBody_starts hr hroom hstart]
      exact ⟨_, rfl, graphEntered_effect ..⟩
    · rw [launchBody_malformed hr, finish_trap_scalar h]
    · rw [launchgBody_malformed hr, finish_trap_scalar h]

/-! ### CSIG (R288, R299) -/

theorem ctlFin_ctlSetFin (c : Word) : ctlFin (ctlSetFin c) = true := by
  rw [ctlFin, ctlSetFin, BitVec.getLsbD_or, Bool.or_eq_true]
  exact .inr (by decide)

/-- CSIG sets FIN where bit 63 of its operand is 1 and the counter had neither FIN nor CANC. -/
theorem setsFin_iff (ctl : Word) (b : Bool) :
    (!ctlCanc ctl && !ctlFin ctl && ctlFin (if b then ctlSetFin ctl else ctl)) = true ↔
      ctlCanc ctl = false ∧ ctlFin ctl = false ∧ b = true := by
  cases b with
  | false => simp
  | true => simp [ctlFin_ctlSetFin]

/-- What CSIG does once the scalar side's writes are published. -/
def csigBody (s : State) (d a b : BitVec 5) (sent : State) : Except Stop State := do
  let x := gRead s.hart a.toNat
  let v := gRead s.hart b.toNat
  let p ← checkCounter sent x 3
  if v.toNat / 2 ^ 48 % 2 ^ 15 ≠ 0 then .error (.trap (badrec 4 x.toNat))
  else do
    let (done, ctl, w) ← counterGet p s.hart.place.core s.hart.asid true x.toNat
    let ctl' := if v.getLsbD 63 then ctlSetFin ctl else ctl
    let z ← if ctlCanc ctl then .ok w
      else counterPut w s.hart.place.core s.hart.asid x.toNat (done + v.toNat % 2 ^ 48) ctl'
    let y ← if !ctlCanc ctl && !ctlFin ctl && ctlFin ctl' then passUp z s.hart.asid s.hart.launch ctl else .ok z
    .ok (gave y d (word done))

theorem execCsig_of {s : State} (h : Issuing s .scalar) (d a b : BitVec 5) : execCsig d a b s = finish (discardWait s) (afterPublish (discardWait s) 5 (csigBody s d a b)) := by
  have hlaunch : (discardWait s).hart.launch = s.hart.launch := by rw [discardWait_scalar h.side]
  rw [execCsig, h.runPlainScalar rfl, gRead_discardWait, gRead_discardWait]
  dsimp only
  rw [discardWait_place, discardWait_asid, hlaunch]
  rfl

section
variable {s sent p w z y : State} {d a b : BitVec 5} {done : Nat} {ctl : Word}

/-- CSIG once its counter is checked and read, and its update and what it passes on are made. -/
theorem csigBody_signals (hcheck : checkCounter sent (gRead s.hart a.toNat) 3 = .ok p)
    (hv : (gRead s.hart b.toNat).toNat / 2 ^ 48 % 2 ^ 15 = 0)
    (hget : counterGet p s.hart.place.core s.hart.asid true (gRead s.hart a.toNat).toNat = .ok (done, ctl, w))
    (hput : if ctlCanc ctl then z = w else counterPut w s.hart.place.core s.hart.asid (gRead s.hart a.toNat).toNat
      (done + (gRead s.hart b.toNat).toNat % 2 ^ 48) (if (gRead s.hart b.toNat).getLsbD 63 then ctlSetFin ctl else ctl) = .ok z)
    (hpass : if ctlCanc ctl = false ∧ ctlFin ctl = false ∧ (gRead s.hart b.toNat).getLsbD 63 = true then
      passUp z s.hart.asid s.hart.launch ctl = .ok y else y = z) :
    csigBody s d a b sent = .ok (gave y d (word done)) := by
  rw [csigBody]
  dsimp only [bind, Except.bind]
  rw [hcheck]
  dsimp only
  rw [if_neg (not_not.2 hv), hget]
  dsimp only
  simp only [setsFin_iff]
  by_cases hc : ctlCanc ctl = true
  · rw [if_pos hc] at hput ⊢
    subst hput
    have hset : ¬ (ctlCanc ctl = false ∧ ctlFin ctl = false ∧ (gRead s.hart b.toNat).getLsbD 63 = true) :=
      fun h => ne_true_of_eq_false h.1 hc
    rw [if_neg hset] at hpass ⊢
    rw [hpass]
  · rw [if_neg hc] at hput ⊢
    rw [hput]
    dsimp only
    split at hpass
    next hset => rw [if_pos hset, hpass]
    next hset => rw [if_neg hset, hpass]

end

/-! ### CREAD and CANCEL (R288, R297, R299) -/

section
variable {s p w z : State} {d a : BitVec 5} {done : Nat} {ctl : Word} (h : Issuing s .scalar)
include h

theorem execCread_reads (hd : d ≠ 31) (hcheck : checkCounter (discardWait s) (gRead s.hart a.toNat) 1 = .ok p)
    (hget : counterGet p p.hart.place.core p.hart.asid false (gRead s.hart a.toNat).toNat = .ok (done, ctl, w))
    (hz : z = if ctlFin ctl then acquireLines w w.hart.place.core 4 (fun _ => true) else w) :
    execCread d a s = .next (if ctlFin ctl = true ∧ z.holdsWrite z.hart.place.core (fun _ => true) = true then stall z
      else retire (z.mapHart (fun h => gWrite (gWrite h d.toNat (word done)) (d.toNat + 1) ctl))) := by
  rw [execCread, h.runPlainScalar (by simpa using hd), gRead_discardWait]
  dsimp only [bind, Except.bind]
  rw [hcheck]
  dsimp only
  rw [hget]
  dsimp only
  cases hfin : ctlFin ctl with
  | false =>
    rw [hfin] at hz
    rw [hz]
    rfl
  | true =>
    rw [hfin] at hz
    subst hz
    rw [← apply_ite Except.ok]
    simp only [Bool.true_and, true_and]
    rfl

theorem execCancel_of (hcheck : checkCounter (discardWait s) (gRead s.hart a.toNat) 1 = .ok p) :
    execCancel a s = finish (discardWait s)
      (cancelLevel (retire p) p.hart.place.core p.hart.asid (gRead s.hart a.toNat)) := by
  rw [execCancel, h.runPlainScalar rfl, gRead_discardWait]
  dsimp only [bind, Except.bind]
  rw [hcheck]

end

theorem cancelLevel_finished {s w : State} {core asid done : Nat} {x ctl : Word}
    (hget : counterGet s core asid false x.toNat = .ok (done, ctl, w)) (hfin : ctlFin ctl = true) :
    cancelLevel s core asid x = .ok w := by
  rw [cancelLevel]
  dsimp only [bind, Except.bind]
  rw [hget]
  exact if_pos hfin

theorem cancelLevel_live {s w z : State} {core asid done : Nat} {x ctl : Word}
    (hget : counterGet s core asid false x.toNat = .ok (done, ctl, w)) (hfin : ctlFin ctl = false)
    (hput : counterPut w core asid x.toNat done (ctlSetCanc ctl) = .ok z) : cancelLevel s core asid x = cancelBelow z asid x := by
  rw [cancelLevel]
  dsimp only [bind, Except.bind]
  rw [hget]
  dsimp only
  rw [if_neg (ne_true_of_eq_false hfin), hput]

/-- Settles O23: each word by what it reads of its counter. -/
theorem countersSignalReadAndCancel : Obligations.CountersSignalReadAndCancel := by
  unfold Obligations.CountersSignalReadAndCancel
  intro s d a b h u x v core asid sent
  rw [show exec (.csig d a b) s = execCsig d a b s from rfl, execCsig_of h, afterPublish_eq, discardWait_place]
  refine ⟨fun hheld => ?_, fun p done ctl w z y hfree hcheck hv hget hput hpass => ?_,
    fun hd p done ctl w hcheck hget => execCread_reads h hd hcheck hget rfl, fun p done ctl w hcheck hget => ?_⟩
  · rw [if_pos hheld]
    rfl
  · rw [if_neg (ne_true_of_eq_false hfree), csigBody_signals hcheck hv hget hput hpass]
    rfl
  · rw [show exec (.cancel a) s = execCancel a s from rfl, execCancel_of h hcheck]
    refine ⟨fun hfin => ?_, fun hfin z y hput hbelow => ?_⟩
    · rw [cancelLevel_finished hget hfin]
      rfl
    · rw [cancelLevel_live hget hfin hput, hbelow]
      rfl

end Sys2Proof.Machine
end

section
/-!
LAW. SNAP.BEGIN, SNAP.ACCEPT, SNAP.REJECT, SNAP.QUERY and SNAP.POOL by the snapshot table of the hart's context and the
fields of their operands (R234 to R244). Settles O24.
-/

namespace Sys2Proof.Machine

/-! ### The context of the hart, and bank requests (R238) -/

theorem ctxOf_discardWait (s : State) : ctxOf (discardWait s) = ctxOf s := by
  rw [ctxOf, ctxOf, State.ctx?, State.ctx?, discardWait_contexts, discardWait_asid]

/-- With no bank request under way there is no element to put back or to perform later. -/
theorem onRequests_none {s : State} (hb : s.harts.all (·.bank.isEmpty) = true) (hf : s.cores.all (·.fifo.isEmpty) = true)
    (f : Nat → Nat → State → List BankItem → State × List BankItem) : onRequests f s = s := by
  have hharts : s.harts.filter (fun h => !h.bank.isEmpty) = [] := by
    rw [List.filter_eq_nil_iff]
    intro h hm
    simp [List.all_eq_true.1 hb h hm]
  have hcores : s.cores.filter (fun c => !c.fifo.isEmpty) = [] := by
    rw [List.filter_eq_nil_iff]
    intro c hm
    simp [List.all_eq_true.1 hf c hm]
  rw [onRequests]
  dsimp only
  rw [hharts, hcores]
  rfl

theorem banks_discardWait (s : State) :
    (discardWait s).harts.all (·.bank.isEmpty) = s.harts.all (·.bank.isEmpty) := by
  cases h : s.issue.side with
  | scalar => rw [discardWait_scalar h, State.harts, State.harts]; dsimp only; split <;> rfl
  | vector => rw [discardWait_vector s h]

/-- With no bank request under way a level opens, and only moves of its lines' pages are abandoned (R230, R238). -/
theorem beginLevel_quiet {s : State} (hb : s.harts.all (·.bank.isEmpty) = true) (hf : s.cores.all (·.fifo.isEmpty) = true)
    (lines : List (Nat × Nat)) (g : Context → Context) :
    beginLevel s lines (fun s => mapOwnCtx s g) = mapOwnCtx (s.barMoves lines) g := by
  have hbar : onRequests (fun core _ s l => threadBack (rewindItem lines (core / 64)) s l) (s.barMoves lines) =
      s.barMoves lines := by
    apply onRequests_none <;> rw [barMoves_eq] <;> assumption
  rw [beginLevel, rewindRequests, hbar]
  apply onRequests_none <;> rw [mapOwnCtx, State.mapCtx, barMoves_eq] <;> assumption

/-- A handle that is current names its range. -/
theorem handleRange_current {s : State} {a : BitVec 5} {r : Nat} {y : SnapRange} (hr : (ctxOf s).range r = some y) (hlt : r < 16)
    (hx : (gRead s.hart a.toNat).toNat = 16 * y.depth + r) (h256 : (gRead s.hart a.toNat).toNat < 256) :
    handleRange (discardWait s) (gRead s.hart a.toNat) = some (r, y) := by
  have hmod : (gRead s.hart a.toNat).toNat % 16 = r := by omega
  have hdiv : y.depth = (gRead s.hart a.toNat).toNat / 16 := by omega
  rw [handleRange, ctxOf_discardWait, hmod]
  rw [hr]
  dsimp only
  rw [if_pos ⟨h256, hdiv⟩]

/-! ### SNAP.BEGIN (R235, R243) -/

section
variable {s : State} {d a b : BitVec 5} (h : Issuing s .scalar)

/-- What SNAP.BEGIN does with a base and a length of whole lines in range. -/
def openLevel (u : State) (d : BitVec 5) (x n : Nat) : Except Stop State :=
  let c := ctxOf u
  match c.findRange (fun r => r.base == x && r.len == n) with
  | some (r, y) =>
    if y.depth = 8 then .error (.trap { code := 0x19, val := 8 })
    else .ok (gave (beginLevel u y.tracked (fun s => mapOwnCtx s (fun c => c.setRange r (some { y with depth := y.depth + 1 }))))
      d (snapHandle r (y.depth + 1)))
  | none =>
    if (c.findRange (fun r => extentsMeet r.base r.len x n)).isSome then .error (.trap (badrec 2 x))
    else match c.freeRange with
      | none => .ok (gave u d ones64)
      | some r => .ok (gave (beginLevel u (trackedLines u c.root x n) (fun s => mapOwnCtx s (fun c' => c'.setRange r
          (some { base := x, len := n, depth := 1, tracked := trackedLines u c.root x n, shadows := [] })))) d (snapHandle r 1))

include h

theorem execSnapBegin_of (hx : (gRead s.hart a.toNat).toNat % 128 = 0) (hn : (gRead s.hart b.toNat).toNat % 128 = 0)
    (hpos : 0 < (gRead s.hart b.toNat).toNat) (hle : (gRead s.hart b.toNat).toNat ≤ 2 ^ 48)
    (hend : (gRead s.hart a.toNat).toNat + (gRead s.hart b.toNat).toNat ≤ 2 ^ 56) :
    execSnapBegin d a b s = finish (discardWait s)
      (openLevel (discardWait s) d (gRead s.hart a.toNat).toNat (gRead s.hart b.toNat).toNat) := by
  rw [execSnapBegin, h.runPlainScalar rfl, gRead_discardWait, gRead_discardWait]
  dsimp only
  rw [if_neg (by simp [hx, hn]), if_neg (by omega)]
  rfl

/-! ### SNAP.ACCEPT, SNAP.REJECT and SNAP.QUERY (R239, R240, R243) -/

theorem execSnapAccept_of {r : Nat} {y : SnapRange}
    (hh : handleRange (discardWait s) (gRead s.hart a.toNat) = some (r, y)) :
    execSnapAccept a s = .next (retire (mapOwnCtx (discardWait s) (fun c => acceptLevel c r y))) := by
  rw [execSnapAccept, h.runPlainScalar rfl, gRead_discardWait]
  dsimp only
  rw [hh]
  rfl

theorem execSnapReject_of {r : Nat} {y : SnapRange}
    (hh : handleRange (discardWait s) (gRead s.hart a.toNat) = some (r, y)) :
    execSnapReject a s = .next (retire (rejectLevel (discardWait s) r y)) := by
  rw [execSnapReject, h.runPlainScalar rfl, gRead_discardWait]
  dsimp only
  rw [hh]
  rfl

theorem execSnapQuery_of (hx : (gRead s.hart a.toNat).toNat < 16) : execSnapQuery d a s =
    .next (gave (discardWait s) d (snapStatus (ctxOf s) (gRead s.hart a.toNat).toNat)) := by
  rw [execSnapQuery, h.runPlainScalar rfl, gRead_discardWait, ctxOf_discardWait]
  dsimp only
  rw [if_neg (Nat.not_le.2 hx)]
  rfl

/-! ### SNAP.POOL (R241, R243) -/

/-- What SNAP.POOL does with its operands. -/
def poolWord (u : State) (d : BitVec 5) (c : Context) (x : Nat) (y : Word) : Except Stop State :=
  if y.toNat = 0 then .ok (gave u d (word c.freeLines))
  else if y == ones64 && x == 0 then
    if c.ranges.toList.all (·.isNone) then .ok (gave (emptyPool u) d 0) else .ok (gave u d ones64)
  else if x % 128 != 0 then .error (.trap (misalign x))
  else if y.toNat % 128 != 0 then .error (.trap (misalign x))
  else if 8 ≤ c.pool.length || c.pool.any (fun e => extentsMeet e.base e.len x y.toNat) then .ok (gave u d ones64)
  else do
    let (lines, w) ← poolPages u x y.toNat (piecesOf x y.toNat)
    let t := mapOwnCtx (w.barMoves lines) (fun c => { c with pool := c.pool ++ [⟨x, y.toNat, lines⟩] })
    .ok (gave t d (word (ctxOf t).freeLines))

theorem execSnapPool_of : execSnapPool d a b s = finish (discardWait s)
    (poolWord (discardWait s) d (ctxOf s) (gRead s.hart a.toNat).toNat (gRead s.hart b.toNat)) := by
  rw [execSnapPool, h.runPlainScalar rfl, gRead_discardWait, gRead_discardWait, ctxOf_discardWait]
  rfl

end

section
variable {u : State} {d : BitVec 5} {c : Context} {x : Nat} {y : Word}

theorem poolWord_status (h : y.toNat = 0) : poolWord u d c x y = .ok (gave u d (word c.freeLines)) := if_pos h

theorem poolWord_empties (h : y.toNat = 2 ^ 64 - 1) (hx : x = 0) : poolWord u d c x y =
    .ok (if c.ranges.toList.all (·.isNone) then gave (emptyPool u) d 0 else gave u d ones64) := by
  have hy : y = ones64 := BitVec.eq_of_toNat_eq h
  rw [poolWord, if_neg (by omega), if_pos (by simp [hy, hx]), ← apply_ite Except.ok]

/-- An extent of whole lines is added where the pool has room and no extent of it overlaps. -/
theorem poolWord_adds (hpos : 0 < y.toNat) (hn : y.toNat % 128 = 0) (hx : x % 128 = 0) : poolWord u d c x y =
    if 8 ≤ c.pool.length ∨ c.pool.any (fun e => extentsMeet e.base e.len x y.toNat) = true then .ok (gave u d ones64)
    else (do
      let (lines, w) ← poolPages u x y.toNat (piecesOf x y.toNat)
      let t := mapOwnCtx (w.barMoves lines) (fun c => { c with pool := c.pool ++ [⟨x, y.toNat, lines⟩] })
      .ok (gave t d (word (ctxOf t).freeLines))) := by
  have hy : y ≠ ones64 := by
    rintro rfl
    exact absurd hn (by decide)
  rw [poolWord, if_neg (by omega), if_neg (by simp [hy]), if_neg (by simp [hx]), if_neg (by simp [hn])]
  simp only [Bool.or_eq_true, decide_eq_true_eq]

end

/-- Settles O24: each word by the table and its operands. -/
theorem snapshotWordsComplete : Obligations.SnapshotWordsComplete := by
  unfold Obligations.SnapshotWordsComplete
  intro s d a b h u x n c same
  have hc : ctxOf u = c := ctxOf_discardWait s
  refine ⟨fun hb hf lines g => ?_, fun hx hn hpos hle hend => ?_, fun r y hr hlt hxr h256 => ?_, fun hx => ?_, fun hn => ?_,
    fun hn hx => ?_, fun hpos hn hx => ?_⟩
  · exact beginLevel_quiet ((banks_discardWait s).trans hb) (by simpa [u] using hf) lines g
  · rw [show exec (.snapBegin d a b) s = execSnapBegin d a b s from rfl, execSnapBegin_of h hx hn hpos hle hend]
    refine ⟨fun r y hsame hlt => ?_, fun r y hsame h8 => ?_, fun hsame hmeet => ⟨fun r hfree => ?_, fun hfree => ?_⟩⟩
    · rw [openLevel, hc]
      rw [show c.findRange (fun r => r.base == x && r.len == n) = some (r, y) from hsame]
      dsimp only
      rw [if_neg (by omega)]
      rfl
    · rw [openLevel, hc]
      rw [show c.findRange (fun r => r.base == x && r.len == n) = some (r, y) from hsame]
      dsimp only
      rw [if_pos h8, finish_trap_scalar h]
    · rw [openLevel, hc]
      rw [show c.findRange (fun r => r.base == x && r.len == n) = none from hsame]
      dsimp only
      rw [hmeet, hfree]
      rfl
    · rw [openLevel, hc]
      rw [show c.findRange (fun r => r.base == x && r.len == n) = none from hsame]
      dsimp only
      rw [hmeet, hfree]
      rfl
  · have hh := handleRange_current hr hlt hxr h256
    rw [show exec (.snapAccept a) s = execSnapAccept a s from rfl, show exec (.snapReject a) s = execSnapReject a s from rfl,
      execSnapAccept_of h hh, execSnapReject_of h hh]
    refine ⟨?_, rfl⟩
    refine congrArg (fun f => Host.Outcome.next (retire (mapOwnCtx u f))) (funext fun c => ?_)
    rw [acceptLevel, closeLevel]
    split <;> rfl
  · exact execSnapQuery_of h hx
  · rw [show exec (.snapPool d a b) s = execSnapPool d a b s from rfl, execSnapPool_of h, poolWord_status hn]
    rfl
  · rw [show exec (.snapPool d a b) s = execSnapPool d a b s from rfl, execSnapPool_of h, poolWord_empties hn hx]
    rfl
  · rw [show exec (.snapPool d a b) s = execSnapPool d a b s from rfl, execSnapPool_of h, poolWord_adds hpos hn hx]
    refine ⟨fun hfull => ?_, fun hroom hapart lines w hpages => ?_⟩
    · rw [if_pos hfull]
      rfl
    · rw [if_neg (not_or.2 ⟨Nat.not_le.2 hroom, ne_true_of_eq_false hapart⟩)]
      dsimp only [bind, Except.bind]
      rw [hpages]
      rfl

end Sys2Proof.Machine
end

section
/-!
LAW. WQ.OPEN by the descriptor it reads and the core's free query contexts; WQ.RUN, WQ.POLL, WQ.RESULT and WQ.CLOSE by the
state of the hart's own context (R257, R259, R261, R264). Settles O25.
-/

namespace Sys2Proof.Machine

section
variable {s : State} {d a : BitVec 5} (h : Issuing s .scalar)

theorem ownQuery_discardWait (v : Word) : ownQuery (discardWait s) v = ownQuery s v := by
  have hcore (n : Nat) : (discardWait s).core n = s.core n := by rw [State.core, State.core, discardWait_cores]
  rw [ownQuery, ownQuery, discardWait_place, discardWait_uid, hcore]

include h

/-- A word with the number of one of the hart's own contexts is its body. -/
theorem queryWord_own {writes : List RegId} {body : State → QueryCtx → Except Stop State} {q : QueryCtx}
    (hq : ownQuery s (gRead s.hart a.toNat) = some q) :
    queryWord s a writes body = finish (discardWait s) (body (discardWait s) q) := by
  rw [queryWord, h.runPlainScalar rfl, gRead_discardWait]
  dsimp only
  rw [ownQuery_discardWait, hq]

/-! ### WQ.OPEN -/

/-- WQ.OPEN of a well-formed descriptor goes by the lowest free context. -/
theorem execWqOpen_reads {v : Nat} {w : State} {q : QueryDesc} (hx : (gRead s.hart a.toNat).toNat % 64 = 0)
    (hr : pointRead (discardWait s) (discardWait s).hart .other (gRead s.hart a.toNat).toNat 64 = .ok (v, w))
    (hq : queryDesc v = some q) :
    (freeQuery w = none → execWqOpen d a s = .next (gave w d (BitVec.allOnes 64))) ∧
    (∀ n, freeQuery w = some n → execWqOpen d a s = .next
      (gave (setQuery w w.hart.place.core { n := n, uid := w.hart.uid, asid := w.hart.asid, desc := q }) d (word n))) := by
  rw [execWqOpen, h.runPlainScalar rfl, gRead_discardWait]
  dsimp only [bind, Except.bind]
  rw [if_neg (by simp [hx]), hr]
  dsimp only
  rw [hq]
  dsimp only
  refine ⟨fun hf => ?_, fun n hf => ?_⟩
  · rw [hf]
    rfl
  · rw [hf]
    rfl

/-! ### WQ.RUN, WQ.POLL, WQ.RESULT and WQ.CLOSE -/

variable {q : QueryCtx} (hq : ownQuery s (gRead s.hart a.toNat) = some q)
include hq

theorem execWqRun_running (hrun : q.state = .running) : execWqRun a s = .next (retire (discardWait s)) := by
  rw [execWqRun, queryWord_own h hq]
  dsimp only
  rw [if_pos (by simp [hrun])]
  rfl

theorem execWqRun_starts (hrun : q.state ≠ .running) :
    execWqRun a s = finish (discardWait s) (afterPublish (discardWait s) 2 (fun p => .ok (retire
      (setQuery p s.hart.place.core { q.fresh with restarts := 0, reclaimed := false })))) := by
  rw [execWqRun, queryWord_own h hq]
  dsimp only
  rw [if_neg (by simpa using hrun), discardWait_place]
  rfl

theorem execWqPoll_gives : execWqPoll d a s = .next (gave (discardWait s) d q.poll) := by
  rw [execWqPoll, queryWord_own h hq]
  rfl

theorem execWqResult_open (hst : q.state = .open_) : execWqResult d a s = .next (gave (discardWait s) d q.poll) := by
  rw [execWqResult, queryWord_own h hq, hst]
  rfl

theorem execWqResult_running (hst : q.state = .running) : execWqResult d a s = .next (stall (discardWait s)) := by
  rw [execWqResult, queryWord_own h hq, hst]
  rfl

theorem execWqResult_done (hst : q.state = .done) : execWqResult d a s = .next (gave ((discardWait s).l1Flush
    (fun y => y.core == s.hart.place.core && (resultLines (discardWait s) q.desc).contains y.line)) d q.poll) := by
  rw [execWqResult, queryWord_own h hq, hst]
  dsimp only
  rw [discardWait_place]
  rfl

theorem execWqClose_frees : execWqClose a s = .next (retire (closeQuery (discardWait s) s.hart.place.core q)) := by
  rw [execWqClose, queryWord_own h hq, discardWait_place]
  rfl

end

/-- Settles O25: WQ.OPEN by what it reads, the other words by the state of the context. -/
theorem queryContextsComplete : Obligations.QueryContextsComplete := by
  unfold Obligations.QueryContextsComplete
  intro s d a h u x core
  refine ⟨fun hx v w q hr hq => execWqOpen_reads h hx hr hq, fun q hq => ?_⟩
  have hpoll : exec (.wqPoll d a) s = .next (gave u d q.poll) := execWqPoll_gives h hq
  refine ⟨execWqRun_running h hq, fun hrun => ?_, fun hst => ⟨⟨_, hpoll, ?_⟩, ⟨_, execWqResult_open h hq hst, ?_⟩⟩,
    fun hst => ⟨⟨_, hpoll, ?_⟩, execWqResult_running h hq hst⟩, fun hst => ⟨⟨_, hpoll, ?_⟩, ?_⟩, execWqClose_frees h hq⟩
  · rw [show exec (.wqRun a) s = execWqRun a s from rfl, execWqRun_starts h hq hrun, afterPublish_eq, discardWait_place,
      ← apply_ite Except.ok]
    rfl
  · rw [QueryCtx.poll, hst]
    exact scalarResult_gave h.side d 0xFE
  · rw [QueryCtx.poll, hst]
    exact scalarResult_gave h.side d 0xFE
  · rw [QueryCtx.poll, hst]
    exact scalarResult_gave h.side d 0xFF
  · rw [QueryCtx.poll, hst]
    exact scalarResult_gave h.side d q.status
  · rw [show exec (.wqResult d a) s = execWqResult d a s from rfl, execWqResult_done h hq hst, QueryCtx.poll, hst]

end Sys2Proof.Machine
end

section
/-!
LAW. What the words of the engines share: the queue, the scoreboard and the checks of tiles, where nothing stands in a word's
way (R173, R185, R186, R188). The words of SIG (R246 to R251) and of TILE (R169 to R180). Settles O44 and O42.
-/

namespace Sys2Proof.Machine

/-! ### Words of the vector side -/

theorem Issuing.runPlainVector {s : State} (h : Issuing s .vector) {wf fit : Bool} {reads writes : List RegId}
    {body : State → Except Stop State} (hw : wf = true) (hf : fit = true) :
    Machine.runPlain s .v wf fit reads writes body = finish s (body s) := by
  rw [runPlain_of h rfl hw hf, discardWait_vector s h.side]

/-- A word of the engines that fits VTYPE is its body. -/
theorem VectorIssuing.engineWord {s : State} {t : VType} (h : VectorIssuing s t) {wf : Bool} {fit : VType → Bool}
    {reads writes : List RegId} {body : State → VType → Except Stop State} (hw : wf = true) (hf : fit t = true) :
    Machine.engineWord s wf fit reads writes body = finish s (body s t) := by
  rw [Machine.engineWord, h.vtypeOf]
  exact h.issuing.runPlainVector hw ((h.fits fit).trans hf)

theorem hAndH {d a : BitVec 5} (hd : d.toNat < 16) (ha : a.toNat < 16) : (isH d && isH a) = true := by
  rw [isH_iff.2 hd, isH_iff.2 ha]
  rfl

theorem isOperandTile_iff {r : BitVec 5} : isOperandTile r = true ↔ r.toNat < 8 := by simp [isOperandTile, BitVec.lt_def]
theorem isTile_iff {r : BitVec 5} : isTile r = true ↔ r.toNat < 16 := by simp [isTile, BitVec.lt_def]
theorem isAccTile_iff {r : BitVec 5} : isAccTile r = true ↔ 8 ≤ r.toNat ∧ r.toNat < 16 := by
  simp [isAccTile, BitVec.lt_def, BitVec.le_def]

/-! ### Nothing in the way of a command (R173, R185, R186, R188) -/

section
variable {s : State} {n : Nat}

theorem awaitQueue_ready (h : EngineReady s n) : awaitQueue s n = .ok () := by
  have hroom : ¬ queueSize < s.hart.tl.queue.length + n := Nat.not_lt.2 h.room
  simp [awaitQueue, h.alone, hroom]

/-- No tile is poisoned, so that no read of one traps. -/
theorem checkTiles_ready (h : EngineReady s n) (hc : s.hart.poison = []) (ts : List Nat) :
    checkTiles s ts = .ok () := by
  have hp (l : List Nat) : poisonedTile s.hart l = none := by
    rw [poisonedTile, List.find?_eq_none.2 (by simp [h.clean])]
    simp [hc]
  rw [checkTiles, hp]

/-- No command under way touches a tile, so that a word that reads or writes it does not wait. -/
theorem awaitTiles_idle {ts reads writes : List Nat} (h : tilesIdle s ts) (hr : ∀ x ∈ reads, x ∈ ts)
    (hw : ∀ x ∈ writes, x ∈ ts) : awaitTiles s reads writes = .ok () := by
  have hclash : s.hart.tl.queue.any (fun c => tilesClash c reads writes) = false := by
    rw [List.any_eq_false]
    intro c hc hclash
    simp only [tilesClash, Bool.or_eq_true, List.any_eq_true, List.contains_iff_mem] at hclash
    obtain ⟨x, hx, hx' | hx'⟩ | ⟨x, hx, hx'⟩ := hclash
    · exact (h c hc x (hr x hx')).1 hx
    · exact (h c hc x (hw x hx')).1 hx
    · exact (h c hc x (hw x hx')).2 hx
  rw [awaitTiles, if_neg (ne_true_of_eq_false hclash)]

/-- A new command takes its place in the queue as `queued` says. -/
theorem enqueue_newCommand (s : State) (k : CmdKind) (st : CmdState) :
    enqueue s { newCommand s k none with state := st } = withTl s (queued s k st) := by
  cases hk : k.tiles with
  | nil =>
    rw [enqueue, queued]
    simp only [newCommand, hk]
    rfl
  | cons x l =>
    rw [enqueue, queued]
    simp only [newCommand, hk]
    rfl

end

/-! ### SIG (R246 to R251) -/

/-- The size of a signature is the sum of the powers of its dimension. -/
theorem sigSize_eq (d : Nat) : ∀ n, sigSize d n = ((List.range n).map (fun k => d ^ (k + 1))).sum
  | 0 => rfl
  | n + 1 => by rw [sigSize, sigSize_eq d n, List.range_succ]; simp

/-- What SIGD checks. -/
def sigRequestOk (x : Nat) : Prop :=
  x < 2 ^ 11 ∧ x / 32 % 8 = 0 ∧ 1 ≤ x % 32 ∧ x % 32 ≤ 16 ∧ 1 ≤ x / 256 % 8 ∧ x / 256 % 8 ≤ 4 ∧
    sigSize (x % 32) (x / 256 % 8) ≤ 65536

theorem sigRequestOk_iff (x : Nat) : sigRequestOk x ↔
    ¬ (2 ^ 11 ≤ x ∨ x / 32 % 8 ≠ 0 ∨ (!configOk (x % 32) (x / 256 % 8)) = true) := by
  simp only [sigRequestOk, configOk, not_or, Nat.not_le, ne_eq, not_not, Bool.not_eq_true', Bool.not_eq_false,
    Bool.and_eq_true, decide_eq_true_eq, and_assoc]

theorem sigVtype_eq (old : Option VType) :
    sigVtype old = { old.getD default with et := .f32, lg := 0, bs := 0, hm := .bsc, hd := 0 } := by
  cases old <;> rfl

/-- What SIGD leaves: its configuration, VTYPE, VL and its result. -/
def configured (s : State) (d : BitVec 5) (vt : Option VType) (vl : Nat) (cfg : Nat × Nat) (v : Nat) : State :=
  hgave { s with hart := { s.hart with cs := { s.hart.cs with vtype := vt, vl := vl }, tl := { s.hart.tl with cfg := cfg } } }
    d (BitVec.ofNat 64 v)

section
variable {s : State} {d a : BitVec 5} (h : Issuing s .vector) (hd : d.toNat < 16) (ha : a.toNat < 16)
include h hd ha

theorem execSigd_refused (hbad : ¬ sigRequestOk (hRead s.hart a.toNat).toNat) :
    execSigd d a s = .next (configured s d none 0 s.hart.tl.cfg 0) := by
  rw [execSigd, h.runPlainVector (hAndH hd ha) rfl]
  dsimp only
  simp only [if_pos (not_not.1 (mt (sigRequestOk_iff _).2 hbad))]
  rfl

theorem execSigd_accepted (hok : sigRequestOk (hRead s.hart a.toNat).toNat) :
    let x := (hRead s.hart a.toNat).toNat
    execSigd d a s = .next (configured s d (some (sigVtype s.hart.cs.vtype)) (x % 32) (x % 32, x / 256 % 8)
      (sigSize (x % 32) (x / 256 % 8))) := by
  rw [execSigd, h.runPlainVector (hAndH hd ha) rfl]
  dsimp only
  simp only [if_neg ((sigRequestOk_iff _).1 hok)]
  rfl

end

/-- A signature command outside timed regions is queued, where nothing stands in its way. -/
theorem VectorIssuing.sigWord {s : State} {t : VType} (h : VectorIssuing s t) (hr : EngineReady s 1)
    (hcfg : s.hart.tl.cfg ≠ (0, 0)) {wf : Bool} {fit : VType → Bool} {reads : List RegId}
    {plan : State → Except Stop CmdKind} {k : CmdKind} (hw : wf = true) (hf : fit t = true) (hp : plan s = .ok k) :
    Machine.sigWord s wf fit reads plan = .next (issued s k) := by
  rw [Machine.sigWord, h.engineWord hw (by simp [hf, hcfg])]
  dsimp only [bind, Except.bind]
  rw [hp]
  dsimp only
  rw [checkTiles_ready hr h.issuing.clean, awaitQueue_ready hr]
  dsimp only
  rw [if_neg (by simp [h.issuing.untimed])]
  exact congrArg (fun x => Host.Outcome.next (retire x)) (enqueue_newCommand s k .waiting)

theorem isGroup_of {r : BitVec 5} (h : r = 8 ∨ r = 12) : isGroup r = true := by
  rcases h with rfl | rfl <;> rfl

theorem sigAddr_of {s : State} {r : BitVec 5} (h : (hRead s.hart r.toNat).toNat % 4 = 0) :
    sigAddr s r = .ok (hRead s.hart r.toNat).toNat := if_neg (by simp [h])

/-- Settles O44: SIGD by its request, and each command by what it queues. -/
theorem signatureWordsComplete : Obligations.SignatureWordsComplete := by
  unfold Obligations.SignatureWordsComplete
  intro s d a
  constructor
  · intro h hd ha x dim n size ok out
    have hok : ok ↔ sigRequestOk x := by rw [sigRequestOk, sigSize_eq]
    refine ⟨fun hbad => execSigd_refused h hd ha (mt hok.2 hbad), fun hgood => ?_⟩
    rw [show exec (.sigd d a) s = execSigd d a s from rfl, execSigd_accepted h hd ha (hok.1 hgood), sigVtype_eq, sigSize_eq]
    rfl
  · intro t h hr hcfg g at_
    refine ⟨fun hd => ?_, fun hd het hvl hal => ?_, fun hd ha => ⟨?_, ?_⟩, fun hd ha hx => ?_, fun hd ha hx => ?_⟩
    · rw [show exec (.siginit d) s = execSiginit d s from rfl, execSiginit]
      exact h.sigWord (plan := fun _ => .ok (.sigInit d.toNat)) hr hcfg (isGroup_of hd) rfl rfl
    · rw [show exec (.sigadd d a) s = execSigadd d a s from rfl, execSigadd]
      refine h.sigWord hr hcfg (isGroup_of hd) (by simp [het, hvl, hal]) ?_
      rw [h.vtypeOf]
      refine congrArg (fun f => Except.ok (CmdKind.sigAdd d.toNat ((List.range s.hart.tl.cfg.1).map f))) (funext fun i => ?_)
      rw [source, het]
      rfl
    · rw [show exec (.sigmul d a) s = execSigmul d a s from rfl, execSigmul]
      exact h.sigWord (plan := fun _ => .ok (.sigMul d.toNat a.toNat)) hr hcfg (by rw [isGroup_of hd, isGroup_of ha]; rfl) rfl rfl
    · rw [show exec (.siglog d a) s = execSiglog d a s from rfl, execSiglog]
      exact h.sigWord (plan := fun _ => .ok (.sigLog d.toNat a.toNat)) hr hcfg (by rw [isGroup_of hd, isGroup_of ha]; rfl) rfl rfl
    · rw [show exec (.sigld d a) s = execSigld d a s from rfl, execSigld]
      refine h.sigWord hr hcfg (by rw [isGroup_of hd, isH_iff.2 ha]; rfl) rfl ?_
      rw [sigAddr_of hx]
      rfl
    · rw [show exec (.sigst d a) s = execSigst d a s from rfl, execSigst]
      refine h.sigWord hr hcfg (by rw [isH_iff.2 hd, isGroup_of ha]; rfl) rfl ?_
      rw [sigAddr_of hx]
      rfl

/-! ### TILE (R169 to R171, R179, R180) -/

/-- A tile that is written whole stays free of poison where no tile is poisoned. -/
theorem settleTilePoison_clean {h : Hart} (ht : h.tl.poison = []) (hp : h.poison = []) (n : Nat) :
    settleTilePoison h n false = h := by
  have htl : { h.tl with poison := [] } = h.tl := by rw [← ht]
  rw [settleTilePoison, ht]
  simp only [List.filter_nil, Bool.false_eq_true, if_false]
  rw [htl, mendPoison, if_pos (by rw [hp]; rfl)]

section
variable {s u : State} {t : VType} {d a b : BitVec 5} {r : Tsr}

/-- The tile side with operand tile `d` replaced. -/
def tileBound (tl : TileSide) (d : BitVec 5) (x : OpTile) : TileSide := { tl with op := vset tl.op d.toNat x }

/-- The tile side with tile `d` stamped (R185). -/
def tileStamped (tl : TileSide) (d : BitVec 5) (n : BitVec 16) : TileSide := { tl with stamp := vset tl.stamp d.toNat (some n) }

/-- TLD binds the tile, and its pins are made in the background. -/
theorem execTld_binds (h : VectorIssuing s t) (hd : d.toNat < 8) (ha : a.toNat < 16)
    (hread : readShape s (hRead s.hart a.toNat) (hRead s.hart a.toNat).toNat = .ok (r, u)) (hshape : operandShape r = true)
    (hu : EngineReady u 1) (hc : u.hart.poison = []) (hidle : tilesIdle u [d.toNat]) :
    execTld d a s = .next (retire (withTl u (tileStamped (tileBound (queued u (.tld d.toNat) (.running u.clock)) d
      (.bound r (hRead s.hart a.toNat) [] none)) d u.hart.tl.next))) := by
  rw [execTld, h.engineWord (by rw [isOperandTile_iff.2 hd, isH_iff.2 ha]; rfl) rfl]
  dsimp only [bind, Except.bind]
  rw [hread]
  dsimp only
  rw [if_neg (by simp [hshape]), awaitQueue_ready hu]
  dsimp only
  rw [awaitTiles_idle hidle (by simp) (by simp)]
  dsimp only
  rw [show u.mapHart (fun h => settleTilePoison (setOp h d.toNat (.bound r (hRead s.hart a.toNat) [] none)) d.toNat false) =
    withTl u (tileBound u.hart.tl d (.bound r (hRead s.hart a.toNat) [] none)) from
      congrArg (fun x => { u with hart := x })
        (settleTilePoison_clean (h := setOp u.hart d.toNat (.bound r (hRead s.hart a.toNat) [] none)) hu.clean hc d.toNat)]
  rw [enqueue_newCommand]
  have hlast : vget (vset u.hart.tl.producer d.toNat u.hart.tl.next) d.toNat 0 = u.hart.tl.next :=
    vget_vset_same _ _ _ _ (by omega)
  exact congrArg (fun n => Host.Outcome.next (retire (withTl u (tileStamped (tileBound
    (queued u (.tld d.toNat) (.running u.clock)) d (.bound r (hRead s.hart a.toNat) [] none)) d n)))) hlast

theorem execTst_queues (h : VectorIssuing s t) (hd : d.toNat < 16) (ha : 8 ≤ a.toNat) (ha' : a.toNat < 16)
    (hread : readShape s (hRead s.hart d.toNat) (hRead s.hart d.toNat).toNat = .ok (r, u)) (hshape : storeShape r t.ts = true)
    (hu : EngineReady u 1) (hc : u.hart.poison = []) (huntimed : u.hart.cs.hstat.timed = false) :
    execTst d a s = .next (issued u (.tst a.toNat r t.ts)) := by
  rw [execTst, h.engineWord (by rw [isAccTile_iff.2 ⟨ha, ha'⟩, isH_iff.2 hd]; rfl) rfl]
  dsimp only [bind, Except.bind]
  rw [hread]
  dsimp only
  rw [if_neg (by simp [hshape]), checkTiles_ready hu hc, awaitQueue_ready hu]
  dsimp only
  rw [if_neg (by simp [huntimed])]
  exact congrArg (fun x => Host.Outcome.next (retire x)) (enqueue_newCommand u _ .waiting)

/-- The tile side after TZERO of tile `d`, whose contents are empty already: it has a number, and is stamped with it. -/
def tileNumbered (tl : TileSide) (d : BitVec 5) : TileSide :=
  tileStamped { tl with next := tl.next + 1, producer := vset tl.producer d.toNat tl.next } d tl.next

section
variable (h : VectorIssuing s t) (hr : EngineReady s 1) (hidle : tilesIdle s [d.toNat])
include h hr hidle

theorem execTzero_empties (hd : d.toNat < 16) : execTzero d s = .next (retire (withTl s (tileNumbered
    (if 8 ≤ d.toNat then { s.hart.tl with acc := vset s.hart.tl.acc (d.toNat - 8) (BitVec.ofNat 524288 0) }
      else tileBound s.hart.tl d (.staged none 0 0 [] [] none)) d))) := by
  rw [execTzero, h.engineWord (isTile_iff.2 hd) rfl]
  dsimp only [bind, Except.bind]
  rw [awaitTiles_idle hidle (by simp) (by simp)]
  dsimp only
  by_cases h8 : 8 ≤ d.toNat
  · simp only [if_pos h8]
    rw [show s.mapHart (fun g => settleTilePoison (setAcc g d.toNat 0) d.toNat false) =
      withTl s { s.hart.tl with acc := vset s.hart.tl.acc (d.toNat - 8) (BitVec.ofNat 524288 0) } from
        congrArg (fun x => { s with hart := x })
          (settleTilePoison_clean (h := setAcc s.hart d.toNat 0) hr.clean h.issuing.clean d.toNat)]
    rfl
  · simp only [if_neg h8]
    rw [show s.mapHart (fun g => settleTilePoison (setOp g d.toNat (.staged none 0 0 [] [] none)) d.toNat false) =
      withTl s (tileBound s.hart.tl d (.staged none 0 0 [] [] none)) from
        congrArg (fun x => { s with hart := x })
          (settleTilePoison_clean (h := setOp s.hart d.toNat (.staged none 0 0 [] [] none)) hr.clean h.issuing.clean d.toNat)]
    rfl

omit hr in
theorem execTrel_releases (hd : d.toNat < 8) : execTrel d s = .next (retire (withTl s (tileBound s.hart.tl d .unbound))) := by
  rw [execTrel, h.engineWord (isOperandTile_iff.2 hd) rfl]
  dsimp only [bind, Except.bind]
  rw [awaitTiles_idle hidle (by simp) (by simp)]
  rfl

omit hr in
theorem execTscl_attaches (hd : d.toNat < 8) (ha : a.toNat < 16) (hbs : t.bs = 2 ∨ t.bs = 3 ∨ t.bs = 4)
    (hty : scaledType (opTile s.hart d.toNat).shape.1 = true) :
    execTscl d a s = .next (retire (withTl s (tileBound s.hart.tl d (attachScale (opTile s.hart d.toNat)
      (if hRead s.hart a.toNat = 0 then none else some ⟨(hRead s.hart a.toNat).toNat, 8 * 2 ^ t.bs⟩))))) := by
  have hblock : t.block = 8 * 2 ^ t.bs := if_neg (by omega)
  have hzero : ((hRead s.hart a.toNat).toNat = 0) = (hRead s.hart a.toNat = 0) := by simp [← BitVec.toNat_inj]
  rw [execTscl, h.engineWord (by rw [isOperandTile_iff.2 hd, isH_iff.2 ha]; rfl) (by simpa [or_assoc] using hbs)]
  dsimp only [bind, Except.bind]
  rw [awaitTiles_idle hidle (by simp) (by simp)]
  dsimp only
  rw [if_neg (by simp [hty])]
  simp only [hzero, hblock]
  rfl

end

/-- TMOV of an accumulator that no command touches moves its elements. -/
theorem execTmov_moves (h : VectorIssuing s t) (hr : EngineReady s 1) (ha : 8 ≤ a.toNat) (ha' : a.toNat < 16)
    (hb : b.toNat < 16) (het : t.et = .f32 ∨ t.et = .i32 ∨ t.et = .n32) (hal : t.aligned d = true)
    (hidle : tilesIdle s [a.toNat]) : Ended (execTmov d a b s) (elementOp s t (t.dest s.hart d) 0#3 false (fun i =>
      (if (hRead s.hart b.toNat).toNat + i < tileElems then accElem s.hart a.toNat ((hRead s.hart b.toNat).toNat + i) else 0,
        0))) := by
  rw [execTmov, h.engineWord (by rw [isAccTile_iff.2 ⟨ha, ha'⟩, isH_iff.2 hb]; rfl)
    (by rw [hal]; rcases het with het | het | het <;> rw [het] <;> rfl)]
  dsimp only [bind, Except.bind]
  rw [checkTiles_ready hr h.issuing.clean]
  dsimp only
  rw [awaitTiles_idle hidle (by simp) (by simp)]
  dsimp only
  rw [settleResult, h.issuing.elementOp.part]
  exact ⟨⟨0, 0⟩, rfl⟩

end

/-- Settles O42: each word by what it leaves of the tile side, TMOV by its elements. -/
theorem tileWordsComplete : Obligations.TileWordsComplete := by
  unfold Obligations.TileWordsComplete
  intro s t d a b h hr n at_ op stamped
  refine ⟨fun r u hd ha hread hshape hu hc hidle _ => execTld_binds h hd ha hread hshape hu hc hidle,
    fun r u hd ha ha' hread hshape hu hc huntimed => execTst_queues h hd ha ha' hread hshape hu hc huntimed,
    fun hidle => ?_, fun ha ha' hb het hal hidle => execTmov_moves h hr ha ha' hb het hal hidle⟩
  refine ⟨fun hd => ?_, fun h8 hd => ?_, fun hd => execTrel_releases h hidle hd,
    fun hd ha hbs hty => execTscl_attaches h hidle hd ha hbs hty⟩
  · rw [show exec (.tzero d) s = execTzero d s from rfl, execTzero_empties h hr hidle (by omega), if_neg (by omega)]
    rfl
  · rw [show exec (.tzero d) s = execTzero d s from rfl, execTzero_empties h hr hidle hd, if_pos h8]
    rfl

end Sys2Proof.Machine
end

section
/-!
LAW. What a read of the vector side changes, the words of MMA and TENG, and the end of a timed region (R176, R181 to R189,
R206, R207). Settles O43.
-/

namespace Sys2Proof.Machine

/-! ### Reads at the vector point (R117, R129, R241) -/

section
variable (s : State)

theorem onlyAccess_homeRead (stack a n : Nat) : OnlyAccess s (s.homeRead stack a n).2 := by
  have hs : OnlyAccess s (s.snoop stack (lineOf a)) := onlyAccess_l1Flush s _
  unfold State.homeRead
  dsimp only
  split
  · exact .refl s
  · split
    · exact hs.trans rfl
    · exact hs.trans (.ite (onlyMemory_putLine _ _ _ _ _).onlyAccess (.refl _))

theorem onlyAccess_homeReadAt (stack a n : Nat) : OnlyAccess s (s.homeReadAt stack a n).2 :=
  ((onlyAccess_l2Flush s _).trans (onlyAccess_homeRead _ stack a n)).trans (onlyAccess_l2Flush _ _)

theorem onlyAccess_elemRead (stack a n : Nat) : OnlyAccess s (s.elemRead stack a n).2 := by
  unfold State.elemRead
  split
  · exact onlyAccess_homeReadAt s stack a n
  · exact onlyAccess_homeRead s stack a n

theorem onlyAccess_pointRead (h : Hart) (mk : MarkKind) (va n : Nat) :
    OkAll (fun r => OnlyAccess s r.2) (pointRead s h mk va n) := by
  unfold pointRead
  refine .after fun l => .after fun _ => .ite .error (.ok ?_)
  have hm : OnlyAccess s (markAccess s l .read mk) := (onlyMemory_markAccess s l .read mk).onlyAccess
  split
  · exact hm.trans (onlyAccess_elemRead _ _ _ _)
  · exact hm.trans (onlyAccess_homeRead _ _ _ _)

theorem onlyAccess_orderedRead (h : Hart) (mk : MarkKind) (va n : Nat) :
    OkAll (fun r => OnlyAccess s r.2) (orderedRead s h mk va n) :=
  .after fun _ => onlyAccess_pointRead s h mk va n

/-- The hart with another record cache (R184). -/
def withRecords (h : Hart) (l : List (Word × List Byte)) : Hart := { h with tl := { h.tl with records := l } }

/-- The word at hand goes on after a read through the record cache: the hart differs in its cache alone. -/
def ReadsRecord (t : State) : Prop := t.issue = s.issue ∧ ∃ l, t.hart = withRecords s.hart l

variable {s} in
theorem readsRecord_install {t : State} (h : OnlyAccess s t) (at_ : Word) (l : List Byte) :
    ReadsRecord s (installRecord t at_ l) :=
  ⟨h.issue, _, by rw [installRecord, mapHart_hart, h.hart]; rfl⟩

theorem readsRecord_readRecord (at_ : Word) : OkAll (fun r => ReadsRecord s r.2) (readRecord s at_) := by
  have hread (t : State) (h : OnlyAccess s t) : OkAll (fun r => ReadsRecord s r.2) (do
      let (v, w) ← orderedRead t t.hart .other at_.toNat 64
      .ok (v, installRecord w at_ (recordBytes v))) :=
    .bind (onlyAccess_orderedRead t t.hart .other at_.toNat 64) fun _ hw => .ok (readsRecord_install (h.trans hw) _ _)
  unfold readRecord
  refine .ite .error ?_
  split
  · exact .ite (hread _ rfl) (.ok (readsRecord_install (rfl : OnlyAccess s s.choose.2) _ _))
  · exact hread s (.refl s)

theorem readsRecord_readShape (at_ : Word) (blame : Nat) : OkAll (fun r => ReadsRecord s r.2) (readShape s at_ blame) := by
  unfold readShape
  refine .bind (readsRecord_readRecord s at_) fun ⟨v, t⟩ ht => ?_
  dsimp only
  split
  · exact .ok ht
  · exact .error

end

/-- A fetch leaves the word at hand's side as it is. -/
theorem issue_fetchWord (s : State) : OkAll (fun r => r.2.issue = s.issue) (fetchWord s) := by
  unfold fetchWord
  dsimp only
  split
  · exact .ok rfl
  · unfold readWord
    exact .bind (onlyMemory_scalarRead s .fetch _ 4) fun _ ht => .ok (OnlyAccess.issue (OnlyMemory.onlyAccess ht))

theorem issue_nextWord (s : State) : OkAll (fun r => r.2.issue = s.issue) (nextWord s) := by
  unfold nextWord
  exact .map (.renameStop (issue_fetchWord _)) fun _ h => h

/-! ### MMA, MMAZ, TCOPY and TCOPY.M (R176, R181, R182) -/

section
variable {s u v : State} {t : VType} {d a b : BitVec 5} {src dst : Tsr}

theorem checkLate_noRegion (h : s.hart.tl.region = none) (start tile : Nat) : checkLate s start tile = .ok () := by
  rw [checkLate, h]

theorem startCycle_untimed (h : s.hart.cs.hstat.timed = false) (start : Nat) : startCycle s start = none := by
  rw [startCycle, h]
  rfl

theorem mmaWord_queues {d a b : BitVec 4} {o : BitVec 10} {zero : Bool} (h : VectorIssuing s t) (hr : EngineReady s 1)
    (hd : 8 ≤ d.toNat) (ha : a.toNat < 8) (hb : b.toNat < 8) (hta : opTile s.hart a.toNat ≠ .unbound)
    (htb : opTile s.hart b.toNat ≠ .unbound) :
    mmaWord s d a b o zero = .next (issued s (.mma d.toNat a.toNat b.toNat zero t.ts t.sat [] [])) := by
  have hwf : (isAccTile4 d && isOperandTile4 a && isOperandTile4 b) = true := by
    simp [isAccTile4, isOperandTile4, BitVec.lt_def, BitVec.le_def, hd, ha, hb]
  have hcheck : checkMma s [] d.toNat a.toNat b.toNat zero = .ok () := by
    rw [checkMma, if_neg (by simp [unboundTile, hta, htb])]
    exact checkTiles_ready hr h.issuing.clean _
  rw [mmaWord, h.engineWord hwf rfl]
  dsimp only [bind, Except.bind]
  rw [hcheck]
  dsimp only
  rw [checkLate_noRegion hr.noRegion, awaitQueue_ready hr, startCycle_untimed h.issuing.untimed]
  exact congrArg (fun x => Host.Outcome.next (retire x)) (enqueue_newCommand s _ .waiting)

/-- With no write under way and no poisoned register a word reads at once what it learns in its course to read. -/
theorem awaitReads_quiet (hq : s.hart.writes = []) (hc : s.hart.poison = []) (l : List RegId) : awaitReads s l = .ok () := by
  rw [awaitReads, awaitWrites_quiet hq, poisonedRead_clean _ _ hc]
  rfl

/-- The plan of a copy into a tile. -/
theorem planCopy_tile {m : CopyMode} (hc : (hRead s.hart b.toNat).toNat < 2 ^ 21)
    (hres : (hRead s.hart b.toNat).toNat / 2 ^ 12 % 16 = 0)
    (hread : readShape s (hRead s.hart a.toNat) (hRead s.hart a.toNat).toNat = .ok (src, u))
    (hbit : (hRead s.hart b.toNat).toNat.testBit 16 = true)
    (hm : tileMode src.et ((hRead s.hart b.toNat).toNat / 2 ^ 17 % 16) = some m)
    (hholds : tileHolds src ((hRead s.hart b.toNat).toNat / 2 ^ 17 % 16) t.ts = true)
    (hscale : m = .widen → sourceUnscaled u src = false) :
    planCopy s t d a b = .ok (⟨.copyTile src (hRead s.hart a.toNat) ((hRead s.hart b.toNat).toNat / 2 ^ 17 % 16) t.ts,
      (hRead s.hart b.toNat).toNat / 2 ^ 17 % 16, (hRead s.hart b.toNat).toNat % 4096⟩, u) := by
  have hs : ¬ (m == .widen && sourceUnscaled u src) = true := by
    cases m with
    | plain => exact Bool.false_ne_true
    | widen => simp [hscale rfl]
  rw [planCopy]
  dsimp only [bind, Except.bind]
  rw [if_neg (by omega), hread]
  dsimp only
  rw [if_pos hbit, hm]
  dsimp only
  rw [if_neg (by rw [hholds]; exact Bool.false_ne_true), if_neg hs]

/-- The plan of a copy to memory. -/
theorem planCopy_memory {m : CopyMode} (hc : (hRead s.hart b.toNat).toNat < 2 ^ 21)
    (hres : (hRead s.hart b.toNat).toNat / 2 ^ 12 % 16 = 0)
    (hread : readShape s (hRead s.hart a.toNat) (hRead s.hart a.toNat).toNat = .ok (src, u))
    (hbit : (hRead s.hart b.toNat).toNat.testBit 16 = false) (hh : u.hart.ve.h = s.hart.ve.h)
    (hread' : readShape u (hRead s.hart d.toNat) (hRead s.hart a.toNat).toNat = .ok (dst, v))
    (hm : memoryMode src.et dst.et = some m) (hcount : src.count = dst.count)
    (hscale : m = .widen → sourceUnscaled v src = false) :
    planCopy s t d a b = .ok (⟨.copyMem src (hRead s.hart a.toNat) dst, 16, (hRead s.hart b.toNat).toNat % 4096⟩, v) := by
  have hs : ¬ (m == .widen && sourceUnscaled v src) = true := by
    cases m with
    | plain => exact Bool.false_ne_true
    | widen => simp [hscale rfl]
  have hd : hRead u.hart d.toNat = hRead s.hart d.toNat := by rw [hRead, hRead, hh]
  rw [planCopy]
  dsimp only [bind, Except.bind]
  rw [if_neg (by omega), hread]
  dsimp only
  rw [if_neg (ne_true_of_eq_false hbit), hd, hread']
  dsimp only
  rw [hm]
  dsimp only
  rw [if_neg (by simp [hcount]), if_neg hs]

theorem hAndHAndH (hd : d.toNat < 16) (ha : a.toNat < 16) (hb : b.toNat < 16) : (isH d && isH a && isH b) = true := by
  rw [isH_iff.2 hd, isH_iff.2 ha, isH_iff.2 hb]
  rfl

/-- A copy that is planned is queued. -/
theorem execTcopy_queues {p : CopyPlan} (h : VectorIssuing s t) (hd : d.toNat < 16) (ha : a.toNat < 16) (hb : b.toNat < 16)
    (hp : planCopy s t d a b = .ok (p, u)) (hu : EngineReady u 1) (huntimed : u.hart.cs.hstat.timed = false) :
    execTcopy d a b s = .next (issued u p.kind) := by
  rw [execTcopy, h.engineWord (hAndHAndH hd ha hb) rfl]
  dsimp only [bind, Except.bind]
  rw [awaitReads_quiet h.issuing.quiet h.issuing.clean]
  dsimp only
  rw [hp]
  dsimp only
  rw [checkLate_noRegion hu.noRegion, awaitQueue_ready hu, copyCommand, startCycle_untimed huntimed]
  exact congrArg (fun x => Host.Outcome.next (retire x)) (enqueue_newCommand u _ .waiting)

/-- The command of the word after a TCOPY.M (R182). -/
def followKind (t : VType) (w : BitVec 32) : CmdKind :=
  .mma (tileD w).toNat (tileA w).toNat (tileB w).toNat (wordOp w == 0x37#6) t.ts t.sat [] []

/-- The state in which a TCOPY.M has queued its pair. -/
def pairQueued (v : State) (t : VType) (p : CopyPlan) (w : BitVec 32) : State :=
  let x := enqueue v (newCommand v p.kind none)
  let c := newCommand x (followKind t w) none
  enqueue x { c with word := w, qpos := c.qpos + 4, follow := true }

/-- A copy and the product in the next word are queued as a pair. -/
theorem execTcopyM_queues {p : CopyPlan} {w : BitVec 32} (h : VectorIssuing s t) (hd : d.toNat < 16) (ha : a.toNat < 16)
    (hb : b.toNat < 16) (hp : planCopy s t d a b = .ok (p, u)) (hnext : nextWord u = .ok (w, v))
    (hop : wordOp w = 0x36 ∨ wordOp w = 0x37) (hwf : followWf w = true)
    (hcheck : checkMma v p.kind.tiles (tileD w).toNat (tileA w).toNat (tileB w).toNat (wordOp w == 0x37#6) = .ok ())
    (hv : v.hart.tl.region = none) (helse : regionElsewhere v = false) (hroom : v.hart.tl.queue.length ≤ 6)
    (huntimed : v.hart.cs.hstat.timed = false) :
    execTcopyM d a b s = .next (retirePair (pairQueued v t p w) w) := by
  have hawait : awaitQueue v 2 = .ok () := by
    have : ¬ queueSize < v.hart.tl.queue.length + 2 := by rw [queueSize]; omega
    simp [awaitQueue, helse, this]
  have hkeeps : (enqueue v (newCommand v p.kind none)).hart.cs = v.hart.cs := by
    rw [show newCommand v p.kind none = { newCommand v p.kind none with state := .waiting } from rfl, enqueue_newCommand]
    rfl
  have hop' : ¬ (wordOp w != 0x36#6 && wordOp w != 0x37#6) = true := by
    rcases hop with hop | hop <;> simp [hop]
  rw [execTcopyM, h.engineWord (hAndHAndH hd ha hb) rfl]
  dsimp only [bind, Except.bind]
  rw [awaitReads_quiet h.issuing.quiet h.issuing.clean]
  dsimp only
  rw [hp]
  dsimp only
  rw [hnext]
  dsimp only
  rw [if_neg hop', if_neg (by simp [hwf]), hcheck]
  dsimp only
  rw [checkLate_noRegion hv, checkLate_noRegion hv, hawait, copyCommand, startCycle_untimed huntimed,
    startCycle_untimed (s := enqueue v (newCommand v p.kind none)) (by rw [hkeeps, huntimed])]
  rfl

/-- A command put into the queue leaves the control registers and the vector side, and its kind comes last. -/
theorem enqueue_effect (v : State) (c : EngCmd) : (enqueue v c).issue = v.issue ∧ (enqueue v c).hart.cs = v.hart.cs ∧
    (enqueue v c).hart.ve = v.hart.ve ∧ (enqueue v c).hart.tl.queue.map (·.kind) = v.hart.tl.queue.map (·.kind) ++ [c.kind] := by
  rw [enqueue]
  dsimp only
  split <;> simp [takeNumber]

theorem retire_queue {x : State} (hx : x.issue.side = .vector) : (retire x).hart.tl.queue = x.hart.tl.queue := by
  rw [retire, retireTo_vector_eq hx]

/-- A retired pair of words leaves the queue, and is behind both words. -/
theorem retirePair_retires {x : State} (hx : x.issue.side = .vector) (w : BitVec 32) :
    pcOf (retirePair x w) = x.hart.ve.pc + 8 ∧ (retirePair x w).hart.cs.instret = x.hart.cs.instret + 2 ∧
    (retirePair x w).hart.tl.queue = x.hart.tl.queue := by
  obtain ⟨hpc, hinst⟩ := Retired_retire x
  let y : State := { retire x with issue := { (retire x).issue with word := w, p := wordP w, s := wordS w } }
  obtain ⟨hpc', hinst'⟩ := Retired_retire y
  have hy : y.issue.side = .vector := (congrArg Issue.side (retire_issue x)).trans hx
  have hz : (retire y).issue.side = .vector := by rw [retire_issue, hy]
  have hr (n : Nat) : readyFrom (retire y) n = (retire y).mapHart (fun h => { h with ve := { h.ve with readyAt := n } }) := by
    rw [readyFrom, hz]
  have hpcs {z : State} (h : z.issue.side = .vector) : pcOf z = z.hart.ve.pc := by rw [pcOf, h]
  have hpcy : y.hart.ve.pc = x.hart.ve.pc + 4 := by
    rw [← hpcs hx, ← hpc, hpcs (by rw [retire_issue, hx])]
  rw [hpcs hz, hpcs hy, hpcy] at hpc'
  rw [show retirePair x w = _ from hr _, hpcs (z := (retire y).mapHart _) hz]
  refine ⟨?_, ?_, ?_⟩
  · rw [mapHart_hart, hpc', BitVec.add_assoc]
    rfl
  · rw [mapHart_hart, hinst', show y.hart.cs.instret = _ from hinst, BitVec.add_assoc]
    rfl
  · rw [mapHart_hart, retire_queue hy]
    exact retire_queue hx

/-- A pair that retires has passed both words, and both commands stand at the end of the queue. -/
theorem retirePair_effect (hside : v.issue.side = .vector) (p : CopyPlan) (w : BitVec 32) :
    let r := retirePair (pairQueued v t p w) w
    pcOf r = v.hart.ve.pc + 8 ∧ r.hart.cs.instret = v.hart.cs.instret + 2 ∧
    r.hart.tl.queue.map (·.kind) = v.hart.tl.queue.map (·.kind) ++ [p.kind, followKind t w] := by
  obtain ⟨hi, hcs, hve, hq⟩ := enqueue_effect v (newCommand v p.kind none)
  obtain ⟨hi', hcs', hve', hq'⟩ := enqueue_effect (enqueue v (newCommand v p.kind none))
    { newCommand (enqueue v (newCommand v p.kind none)) (followKind t w) none with
      word := w, qpos := (newCommand (enqueue v (newCommand v p.kind none)) (followKind t w) none).qpos + 4, follow := true }
  have hx : (pairQueued v t p w).issue.side = .vector := by
    rw [pairQueued, hi', hi, hside]
  obtain ⟨hpc, hinst, hqueue⟩ := retirePair_retires hx w
  refine ⟨?_, ?_, ?_⟩
  · rw [hpc, pairQueued, hve', hve]
  · rw [hinst, pairQueued, hcs', hcs]
  · rw [hqueue, pairQueued, hq', hq, List.append_assoc]
    rfl

end

/-! ### RFENCE, TWAIT and TBEGIN (R183, R184, R187, R188) -/

section
variable {s u : State} (h : Issuing s .vector) {d a : BitVec 5}
include h

theorem execRfence_empties : execRfence s = .next (retire (withTl s { s.hart.tl with records := [] })) := by
  rw [execRfence, h.runPlainVector rfl rfl]
  rfl

theorem execTwait_empty (hq : s.hart.tl.queue = []) : execTwait s = .next (retire s) := by
  rw [execTwait, h.runPlainVector rfl rfl, if_pos (by rw [hq]; rfl)]
  rfl

theorem execTwait_waits (hq : s.hart.tl.queue ≠ []) : execTwait s = .next (stall s) := by
  rw [execTwait, h.runPlainVector rfl rfl, if_neg (by simpa using hq)]
  rfl

theorem execTend_untimed : execTend s = .next (retire s) := by
  rw [execTend, h.runPlainVector rfl rfl, if_pos (by rw [h.untimed]; rfl)]
  rfl

/-- TBEGIN of a record that R187 admits makes its request. -/
theorem execTbegin_requests {v : Nat} (hd : d.toNat < 16) (ha : a.toNat < 16) (hnone : s.hart.tl.request = none)
    (hal : (hRead s.hart a.toNat).toNat % 16 = 0)
    (hread : orderedRead s s.hart .other (hRead s.hart a.toNat).toNat 16 = .ok (v, u))
    (hrec : regionRecord v = some (v % 2 ^ 16, v / 2 ^ 32 % 2 ^ 32, v / 2 ^ 64 % 2 ^ 32)) :
    let r : RegionReq := ⟨u.hart.ve.pc, u.clock, d, u.issue.p, u.issue.s, v % 2 ^ 16, v / 2 ^ 32 % 2 ^ 32,
      v / 2 ^ 64 % 2 ^ 32, false⟩
    execTbegin d a s = .next (awaitRegion (setRequest u (some r)) d r) := by
  rw [execTbegin, h.runPlainVector (hAndH hd ha) rfl]
  dsimp only [bind, Except.bind]
  rw [hnone]
  dsimp only
  rw [if_neg (by simp [h.untimed]), if_neg (by simp [hal]), hread]
  dsimp only
  rw [hrec]
  rfl

end

/-- A request that is made and cleared again leaves a hart without one as it was. -/
theorem setRequest_cleared {u : State} (h : u.hart.tl.request = none) (r : Option RegionReq) :
    setRequest (setRequest u r) none = u := by
  show { u with hart := { u.hart with tl := { u.hart.tl with request := none } } } = u
  rw [← h]

/-- The record of a region within the bounds of R187. -/
theorem regionRecord_of {v : Nat} (h16 : v / 2 ^ 16 % 2 ^ 16 = 0) (h96 : v / 2 ^ 96 % 2 ^ 32 = 0) (hlen : 1 ≤ v % 2 ^ 16)
    (hlen' : v % 2 ^ 16 ≤ 4096) (hen : 1 ≤ v / 2 ^ 32 % 2 ^ 32) (hpk : 1 ≤ v / 2 ^ 64 % 2 ^ 32)
    (hpk' : v / 2 ^ 64 % 2 ^ 32 ≤ 85000) :
    regionRecord v = some (v % 2 ^ 16, v / 2 ^ 32 % 2 ^ 32, v / 2 ^ 64 % 2 ^ 32) := by
  have h0 : bytesAt v 0 2 = v % 2 ^ 16 := by simp [bytesAt]
  have h2 : bytesAt v 2 2 = v / 2 ^ 16 % 2 ^ 16 := by simp [bytesAt]
  have h4 : bytesAt v 4 4 = v / 2 ^ 32 % 2 ^ 32 := by simp [bytesAt]
  have h8 : bytesAt v 8 4 = v / 2 ^ 64 % 2 ^ 32 := by simp [bytesAt]
  have h12 : bytesAt v 0x0C 4 = v / 2 ^ 96 % 2 ^ 32 := by simp [bytesAt]
  rw [regionRecord, h0, h2, h4, h8, h12, if_neg (by omega)]

/-! ### TEND (R188, R206, R207) -/

section
variable {s t : State} {asid : Nat}

/-- A context without a VF has no quota to add to or to check (R206, R207). -/
theorem credit_noVf (h : ∀ vf, s.fnOf asid ≠ some (some vf)) (n : Int) : s.credit asid n = s := by
  unfold State.credit
  split
  · next vf hf => exact absurd hf (h vf)
  · rfl

theorem quotaCheckFor_noVf (h : ∀ vf, s.fnOf asid ≠ some (some vf)) : s.quotaCheckFor asid = s := by
  unfold State.quotaCheckFor
  split
  · next vf hf => exact absurd hf (h vf)
  · rfl

/-- What a context has used says nothing of its function. -/
theorem fnOf_charge (s : State) (b n asid : Nat) : (s.charge b n).fnOf asid = s.fnOf asid := by
  rw [State.fnOf, State.fnOf, State.charge, ctx?_mapCtx (g := fun c => { c with used := c.used + n }) fun _ => rfl]
  cases s.ctx? asid with
  | none => rfl
  | some c =>
    rw [Option.map_some]
    split <;> rfl

/-- The hart out of its region. -/
def regionLeft (s : State) (g : Region) (h : Hart) : Hart := { h with
  cs := { h.cs with hstat := { h.cs.hstat with timed := false } },
  tl := { h.tl with region := none, lastLen := g.len, lastCyc := s.clock - g.start, lastResv := g.energy } }

/-- A region of a hart whose function has no quota ends: the free tail is charged, and the hart leaves it. -/
theorem releaseRegion_noVf {g : Region} (hg : s.hart.tl.region = some g) (h : ∀ vf, s.fnOf s.hart.asid ≠ some (some vf)) :
    s.releaseRegion = (s.draw.2.charge s.hart.asid s.draw.1).mapHart (regionLeft s g) := by
  rw [State.releaseRegion, hg]
  dsimp only
  rw [credit_noVf (by rw [fnOf_charge]; exact h)]
  rfl

theorem execTend_closes {g : Region} (hside : s.issue.side = .vector) (htimed : s.hart.cs.hstat.timed = true)
    (hq : s.hart.writes = []) (hg : s.hart.tl.region = some g) (hqueue : s.hart.tl.queue = [])
    (h : ∀ vf, s.fnOf s.hart.asid ≠ some (some vf)) :
    execTend s = .next (retire ((s.draw.2.charge s.hart.asid s.draw.1).mapHart (regionLeft s g))) := by
  have hrun (body : State → Except Stop State) : runPlain s .v true true [] [] body = finish s (body s) := by
    rw [runPlain, discardWait_vector s hside, runInterlocked, precheck, hside]
    simp only [markAdmits, Bool.not_true, Bool.false_eq_true, if_false]
    rw [commitWrites_mapHart s _ hq, lastDue_quiet _ _ hq]
    have hp : poisonedRead s.hart [] = none := by
      unfold poisonedRead
      split <;> rfl
    rw [hp]
    rfl
  have hfn : ∀ vf, (retire ((s.draw.2.charge s.hart.asid s.draw.1).mapHart (regionLeft s g))).fnOf s.hart.asid ≠
      some (some vf) := by
    intro vf
    rw [fnOf_congr (t := retire _) (s := s.draw.2.charge s.hart.asid s.draw.1) (by rw [retire_contexts]; rfl), fnOf_charge]
    exact h vf
  rw [execTend, hrun, if_neg (by simp [htimed]), if_neg (by simp [hqueue])]
  dsimp only
  rw [commitWrites_mapHart s _ hq, releaseRegion_noVf hg h]
  exact congrArg Host.Outcome.next (quotaCheckFor_noVf hfn)

/-- What the hart holds once its TEND has retired. -/
theorem retire_regionLeft (hside : s.issue.side = .vector) (g : Region) (n : Nat) :
    let r := retire ((s.draw.2.charge s.hart.asid n).mapHart (regionLeft s g))
    r.hart.cs.hstat.timed = false ∧ r.hart.tl.region = none ∧ r.hart.tl.lastLen = g.len ∧
      r.hart.tl.lastCyc = s.clock - g.start ∧ r.hart.tl.lastResv = g.energy ∧ SameRegisters s r ∧ Retired s r := by
  have hu : ((s.draw.2.charge s.hart.asid n).mapHart (regionLeft s g)).issue.side = .vector := hside
  have hpc : pcOf ((s.draw.2.charge s.hart.asid n).mapHart (regionLeft s g)) = pcOf s := by
    rw [pcOf, pcOf, hu, hside]
    rfl
  obtain ⟨hpc', hinst⟩ := Retired_retire ((s.draw.2.charge s.hart.asid n).mapHart (regionLeft s g))
  dsimp only
  refine ⟨?_, ?_, ?_, ?_, ?_, ?_, by rw [hpc', hpc], hinst⟩
  all_goals rw [retire, retireTo_vector_eq hu]
  · rfl
  · rfl
  · rfl
  · rfl
  · rfl
  · exact ⟨rfl, rfl, rfl, rfl, rfl⟩

end

/-- Settles O43: products, copies and pairs by what they queue, TBEGIN by its request, TEND by the end of its region. -/
theorem engineWordsComplete : Obligations.EngineWordsComplete := by
  unfold Obligations.EngineWordsComplete
  refine ⟨fun s t d a b h => ⟨?_, ?_, ?_, ?_, ?_, ?_, ?_⟩, ?_⟩
  · intro d a b o hr hd ha hb hta htb
    constructor
    · rw [show exec (.mma d a b o) s = mmaWord s d a b o false from rfl, mmaWord_queues h hr hd ha hb hta htb]
    · rw [show exec (.mmaz d a b o) s = mmaWord s d a b o true from rfl, mmaWord_queues h hr hd ha hb hta htb]
  · intro src u m hd ha hb c at_ tile hc hres hread hh huntimed
    have hexec : exec (.tcopy d a b) s = execTcopy d a b s := rfl
    refine ⟨fun hbit hm hholds hscale hu => ?_, fun dst v hbit hread' hv hm hcount hscale hvr => ?_⟩
    case refine_2 =>
      rw [hexec, execTcopy_queues h hd ha hb (planCopy_memory hc hres hread hbit hh hread' hm hcount hscale) hvr hv]
    have hplan := planCopy_tile (d := d) (t := t) hc hres hread hbit hm hholds hscale
    refine ⟨by rw [hexec, execTcopy_queues h hd ha hb hplan hu huntimed], fun w v hnext hvh helse hroom hop hwf hcheck => ?_⟩
    obtain ⟨hissue, l, hu'⟩ := readsRecord_readShape s _ _ _ hread
    have hside : v.issue.side = .vector := by
      rw [issue_nextWord u _ hnext, hissue, h.issuing.side]
    have hpc : pcOf s = s.hart.ve.pc := by simp only [pcOf, h.issuing.side]
    obtain ⟨hr1, hr2, hr3⟩ := retirePair_effect (t := t) hside ⟨.copyTile src at_ tile t.ts, tile, c % 4096⟩ w
    have hqueued := execTcopyM_queues h hd ha hb hplan hnext hop hwf hcheck (by rw [hvh, hu.noRegion]) helse
      (by rw [hvh]; exact hroom) (by rw [hvh, huntimed])
    refine ⟨_, (show exec (.tcopyM d a b) s = execTcopyM d a b s from rfl).trans hqueued, ?_, ?_, ?_⟩
    · rw [hr1, hpc, hvh, hu']
      rfl
    · rw [hr2, hvh, hu']
      rfl
    · rw [hr3, hvh]
      rfl
  · rw [show exec .rfence s = execRfence s from rfl, execRfence_empties h.issuing]
  · intro hq
    rw [show exec .twait s = execTwait s from rfl, execTwait_empty h.issuing hq]
  · intro hq
    rw [show exec .twait s = execTwait s from rfl, execTwait_waits h.issuing hq]
  · rw [show exec .tend s = execTend s from rfl, execTend_untimed h.issuing]
  · intro v u hd ha hnone hqueue at_ hal hread huh hui len energy peak h16 h96 hlen hlen' hen hpk hpk' req
    have hbegin := execTbegin_requests h.issuing hd ha hnone hal hread (regionRecord_of h16 h96 hlen hlen' hen hpk hpk')
    dsimp only at hbegin
    rw [hui, huh] at hbegin
    rw [show exec (.tbegin d a) s = execTbegin d a s from rfl, hbegin, awaitRegion]
    have hidle : ¬ (!(setRequest u (some req)).hart.tl.queue.isEmpty || req.admitted) = true := by
      simp [setRequest, huh, hqueue, req]
    rw [if_neg hidle]
    refine ⟨fun hex => ?_, fun hex => ?_⟩
    · rw [if_pos (show exceedsQuota (setRequest u (some req)) req.energy = true from hex), setRequest_cleared (by rw [huh, hnone])]
      rfl
    · rw [if_neg (ne_true_of_eq_false (show exceedsQuota (setRequest u (some req)) req.energy = false from hex))]
      rfl
  · intro s g hside htimed hq hg hqueue hfn
    exact ⟨_, (show exec .tend s = execTend s from rfl).trans (execTend_closes hside htimed hq hg hqueue hfn), retire_regionLeft hside g _⟩

end Sys2Proof.Machine
end

section
/-!
LAW. What the write of a STATUS byte and the abort of a group leave as it is, and the events of links (R304, R306, R307,
R309, R312). Settles O55.
-/

namespace Sys2Proof.Machine

/-! ### What a write at the vector point leaves alone -/

/-- Groups, links, raised vectors and harts: what an access leaves as it is. -/
def aside (s : State) : List Group × Vector Link 24 × List (Option Nat × Nat) × Hart × List Hart :=
  (s.groups, s.links, s.msix, s.hart, s.parked)

section
variable {s : State}

theorem OnlyAccess.aside {t : State} (h : OnlyAccess s t) : aside t = aside s := by
  rw [OnlyAccess] at h
  rw [h]
  rfl

theorem aside_noteWriter (s : State) (stack line : Nat) (who : Option Nat) (mask : BitVec 128) :
    aside (s.noteWriter stack line who mask) = aside s := by
  unfold State.noteWriter
  split
  · rfl
  · split <;> rfl

theorem aside_clearPoison (s : State) (line : Nat) (mask : BitVec 128) : aside (s.clearPoison line mask) = aside s := by
  unfold State.clearPoison
  split <;> rfl

theorem aside_homeWrite {who : Option Nat} {stack a n v : Nat} :
    OkAll (fun t => aside t = aside s) (s.homeWrite who stack a n v) := by
  unfold State.homeWrite
  dsimp only
  refine .ite (.ite .error (.ok rfl)) ?_
  split
  · exact .error
  · next u hu =>
    refine .ok ?_
    have hs : OnlyAccess s u := (onlyAccess_l1Flush s _).trans (onlyAccess_guardWrite _ stack a n u hu)
    have hput := (hs.trans (onlyMemory_putLine u stack (lineOf a) (BitVec.ofNat 1024 (v * 256 ^ (a % 128)))
      (byteMask (a % 128) n)).onlyAccess).aside
    exact ((aside_clearPoison _ _ _).trans (aside_noteWriter _ _ _ _ _)).trans hput

theorem aside_pointWrite {h : Hart} {va n v : Nat} : OkAll (fun t => aside t = aside s) (pointWrite s h .other va n v) := by
  unfold pointWrite
  refine .after fun l => .after fun _ => ?_
  dsimp only
  split
  · exact .error
  · next u hu => exact .ok (((onlyMemory_markAccess u l .write .other).onlyAccess.aside).trans (aside_homeWrite _ hu))

theorem aside_noteWalk (t : Trap) : aside (noteWalk s t) = aside s := by
  unfold noteWalk markAccessed
  dsimp only
  split <;> split <;> rfl

end

/-! ### What the write of a STATUS byte does to harts (R311, R312) -/

/-- The hart has the bindings it had, though some may be finished, and every interrupt that pended. -/
structure KeepsBindings (h h' : Hart) : Prop where
  life : h'.life = h.life
  irqs : ∀ x ∈ h.irqs, x ∈ h'.irqs
  bound : ∀ id gen, (bindings h' id gen).isEmpty = (bindings h id gen).isEmpty

theorem KeepsBindings.refl (h : Hart) : KeepsBindings h h := ⟨rfl, fun _ hx => hx, fun _ _ => rfl⟩

theorem KeepsBindings.trans {h h' h'' : Hart} (a : KeepsBindings h h') (b : KeepsBindings h' h'') : KeepsBindings h h'' :=
  ⟨b.life.trans a.life, fun x hx => b.irqs x (a.irqs x hx), fun id gen => (b.bound id gen).trans (a.bound id gen)⟩

/-- A binding of the group's generation. -/
def ofGroup (id : Nat) (gen : BitVec 8) (f : FabReg) : Bool := f.group == id && f.gen == gen

theorem bindings_isEmpty (h : Hart) (id : Nat) (gen : BitVec 8) :
    (bindings h id gen).isEmpty = (List.range 8).all fun i => ((vget h.f i none).map (ofGroup id gen)) != some true := by
  rw [Bool.eq_iff_iff, List.isEmpty_iff, bindings, List.filterMap_eq_nil_iff, List.all_eq_true]
  refine forall₂_congr fun i _ => ?_
  cases vget h.f i none with
  | none => simp
  | some f =>
    cases hf : ofGroup id gen f with
    | false => simp [show (f.group == id && f.gen == gen) = false from hf, hf]
    | true => simp [show (f.group == id && f.gen == gen) = true from hf, hf]

/-- Harts whose registers are of the same groups have the same bindings in each. -/
theorem keepsBindings_of {h h' : Hart} (hl : h'.life = h.life) (hi : ∀ x ∈ h.irqs, x ∈ h'.irqs)
    (hf : ∀ i < 8, ∀ id gen, (vget h'.f i none).map (ofGroup id gen) = (vget h.f i none).map (ofGroup id gen)) :
    KeepsBindings h h' := by
  refine ⟨hl, hi, fun id gen => ?_⟩
  rw [bindings_isEmpty, bindings_isEmpty, Bool.eq_iff_iff, List.all_eq_true, List.all_eq_true]
  refine forall₂_congr fun i hir => ?_
  rw [hf i (List.mem_range.1 hir)]

/-- Each hart keeps its bindings; groups, links and raised vectors are as before. -/
structure StatusWritten (s t : State) : Prop where
  groups : t.groups = s.groups
  links : t.links = s.links
  msix : t.msix = s.msix
  hart : KeepsBindings s.hart t.hart
  parked : List.Forall₂ KeepsBindings s.parked t.parked

section
variable {s t u : State}

theorem forall₂_keepsBindings_refl (l : List Hart) : List.Forall₂ KeepsBindings l l :=
  List.forall₂_same.2 fun h _ => .refl h

theorem StatusWritten.of_aside (h : aside t = aside s) : StatusWritten s t := by
  simp only [aside, Prod.mk.injEq] at h
  obtain ⟨hg, hl, hm, hh, hp⟩ := h
  exact ⟨hg, hl, hm, hh ▸ .refl _, hp ▸ forall₂_keepsBindings_refl _⟩

theorem forall₂_keepsBindings_trans {l l' l'' : List Hart} (h : List.Forall₂ KeepsBindings l l')
    (h' : List.Forall₂ KeepsBindings l' l'') : List.Forall₂ KeepsBindings l l'' := by
  induction h generalizing l'' with
  | nil =>
    cases h'
    exact .nil
  | cons hab _ ih =>
    cases h' with
    | cons hbc ht => exact .cons (hab.trans hbc) (ih ht)

theorem StatusWritten.trans (h : StatusWritten s t) (h' : StatusWritten t u) : StatusWritten s u :=
  ⟨h'.groups.trans h.groups, h'.links.trans h.links, h'.msix.trans h.msix, h.hart.trans h'.hart,
    forall₂_keepsBindings_trans h.parked h'.parked⟩

theorem forall₂_keepsBindings_map {f : Hart → Hart} (hf : ∀ h, KeepsBindings h (f h)) (l : List Hart) :
    List.Forall₂ KeepsBindings l (l.map f) := by
  induction l with
  | nil => exact .nil
  | cons h l ih => exact .cons (hf h) ih

theorem statusWritten_mapHarts (s : State) {f : Hart → Hart} (hf : ∀ h, KeepsBindings h (f h)) :
    StatusWritten s (s.mapHarts f) :=
  ⟨rfl, rfl, rfl, hf s.hart, forall₂_keepsBindings_map hf s.parked⟩

theorem statusWritten_lateFault (s : State) (uid : Nat) (t : Trap) : StatusWritten s (lateFault s uid t) := by
  refine statusWritten_mapHarts s fun h => ?_
  split
  · exact ⟨rfl, fun _ hx => hx, fun _ _ => rfl⟩
  · exact .refl h

theorem statusWritten_statusDone (s : State) (w : StatusWrite) : StatusWritten s (statusDone s w) := by
  unfold statusDone
  split
  · refine statusWritten_mapHarts s fun h => ?_
    split
    · refine keepsBindings_of rfl (fun _ hx => hx) fun i hi id gen => ?_
      have hv (g : Fin 8 → Option FabReg) : vget (Vector.ofFn g) i none = g ⟨i, hi⟩ := by simp [vget, hi]
      rw [hv]
      dsimp only
      split
      · rw [Option.map_map]
        rfl
      · rfl
    · exact .refl h
  · exact .of_aside rfl

theorem statusWritten_tryStatus (s : State) (w : StatusWrite) : SomeAll (StatusWritten s) (tryStatus s w) := by
  unfold tryStatus
  split
  · next u hu => exact .some ((StatusWritten.of_aside (aside_pointWrite _ hu)).trans (statusWritten_statusDone _ _))
  · exact .none
  · exact .some (((StatusWritten.of_aside (aside_noteWalk _)).trans (statusWritten_lateFault _ _ _)).trans
      (statusWritten_statusDone _ _))
  · exact .some (statusWritten_statusDone _ _)

theorem statusWritten_abortStatus (h : Hart) (s : State) (x : Nat × FabReg) : StatusWritten s (abortStatus h s x) := by
  unfold abortStatus statusWrite
  split
  · exact .of_aside rfl
  · cases ht : tryStatus s (statusOf h x.1 x.2 2) with
    | none => exact .of_aside rfl
    | some t => exact statusWritten_tryStatus s _ t ht

end

/-! ### The abort of a group (R304, R312) -/

/-- Links and raised vectors are as before, and every interrupt of the hart in focus still pends. -/
structure KeepsReports (s t : State) : Prop where
  links : t.links = s.links
  msix : t.msix = s.msix
  irqs : ∀ x ∈ s.hart.irqs, x ∈ t.hart.irqs

section
variable {s t u : State}

theorem KeepsReports.refl (s : State) : KeepsReports s s := ⟨rfl, rfl, fun _ hx => hx⟩

theorem KeepsReports.trans (h : KeepsReports s t) (h' : KeepsReports t u) : KeepsReports s u :=
  ⟨h'.links.trans h.links, h'.msix.trans h.msix, fun x hx => h'.irqs x (h.irqs x hx)⟩

theorem StatusWritten.reports (h : StatusWritten s t) : KeepsReports s t := ⟨h.links, h.msix, h.hart.irqs⟩

theorem mem_irqs_raiseIrq (now : Nat) (h : Hart) (t : Trap) : t ∈ (raiseIrq now h t).irqs := by
  unfold raiseIrq
  split
  · next hc => simpa using hc
  · simp

theorem irqs_raiseIrq (now : Nat) (h : Hart) (t : Trap) : ∀ x ∈ h.irqs, x ∈ (raiseIrq now h t).irqs := by
  intro x hx
  unfold raiseIrq
  split
  · exact hx
  · exact List.mem_append_left _ hx

/-- The state in which the STATUS bytes of a group's bindings have been written. -/
def abortMarked (s : State) (id : Nat) : State :=
  let u := s.mapGroup id (fun g => { g with state := .aborting })
  u.harts.foldl (fun v h => (bindings h id (s.group id).gen).foldl (abortStatus h) v) u

/-- A register of an aborted binding (R304, R312). -/
def abortedReg (id : Nat) (gen : BitVec 8) (x : Option FabReg) : Option FabReg :=
  match x with
  | some f => if f.group == id && f.gen == gen then some { f with aborted := true, staged := [], stuck := [], captured := [] }
    else some f
  | none => none

/-- A hart that learns of the abort of a group. -/
def abortHart (now id : Nat) (gen : BitVec 8) (h : Hart) : Hart :=
  if (bindings h id gen).isEmpty then h else
    let h := raiseIrq now h { code := causeGroup, sub := 2, val := groupVal id gen }
    { h with f := h.f.map (abortedReg id gen) }

theorem abortNow_eq (s : State) (id : Nat) : s.abortNow id =
    ((abortMarked s id).mapHarts (abortHart (abortMarked s id).clock id (s.group id).gen)).settleGroup id := rfl

theorem statusWritten_abortMarked (s : State) (id : Nat) :
    StatusWritten (s.mapGroup id (fun g => { g with state := .aborting })) (abortMarked s id) :=
  foldl_keeps (P := StatusWritten (s.mapGroup id (fun g => { g with state := .aborting }))) (.of_aside rfl) fun _ h hv =>
    foldl_keeps hv fun _ x hw => hw.trans (statusWritten_abortStatus h _ x)

theorem f_raiseIrq (now : Nat) (h : Hart) (t : Trap) : (raiseIrq now h t).f = h.f := by
  unfold raiseIrq
  split <;> rfl

theorem life_raiseIrq (now : Nat) (h : Hart) (t : Trap) : (raiseIrq now h t).life = h.life := by
  unfold raiseIrq
  split <;> rfl

/-- An aborted binding is one of its group as before. -/
theorem abortedReg_ofGroup (id k : Nat) (gen g : BitVec 8) (x : Option FabReg) :
    (abortedReg id gen x).map (ofGroup k g) = x.map (ofGroup k g) := by
  unfold abortedReg
  split
  · split <;> rfl
  · rfl

theorem vget_map {n : Nat} (f : Option FabReg → Option FabReg) (hf : f none = none) (v : Vector (Option FabReg) n) (i : Nat) :
    vget (v.map f) i none = f (vget v i none) := by
  unfold vget
  by_cases h : i < n <;> simp [h, hf]

theorem keepsBindings_abortHart (now id : Nat) (gen : BitVec 8) (h : Hart) : KeepsBindings h (abortHart now id gen h) := by
  unfold abortHart
  split
  · exact .refl h
  · refine keepsBindings_of (life_raiseIrq ..) (irqs_raiseIrq _ _ _) fun i _ k g => ?_
    dsimp only
    rw [f_raiseIrq, vget_map _ rfl, abortedReg_ofGroup]

theorem keepsReports_settleGroup (s : State) (id : Nat) : KeepsReports s (s.settleGroup id) := by
  unfold State.settleGroup
  dsimp only
  split
  · exact ⟨rfl, rfl, fun _ hx => hx⟩
  · exact .refl s

theorem keepsReports_abortGroup (s : State) (id : Nat) : KeepsReports s (s.abortGroup id) := by
  have hnow : KeepsReports s (s.abortNow id) := by
    rw [abortNow_eq]
    have h0 : KeepsReports s (s.mapGroup id (fun g => { g with state := .aborting })) := ⟨rfl, rfl, fun _ hx => hx⟩
    exact ((h0.trans (statusWritten_abortMarked s id).reports).trans
      (statusWritten_mapHarts _ (keepsBindings_abortHart _ _ _)).reports).trans (keepsReports_settleGroup _ _)
  unfold State.abortGroup
  split
  · exact hnow
  · exact .refl s

end

/-! ### Links (R306, R307, R309) -/

section
variable {s : State} {n : Nat}

theorem keepsReports_routeLoss (s : State) (pkg : Nat) : KeepsReports s (routeLoss s pkg) := by
  unfold routeLoss
  split
  · exact .refl s
  · exact foldl_keeps (P := KeepsReports s) (.refl s) fun t id ht => ht.trans (keepsReports_abortGroup t id)

theorem linkEvent_of {p : LinkState → Bool} {f : State → State} (hn : n < 24) (hp : p (s.link n).state = true) :
    linkEvent s n p f = .next (f s) := by
  rw [linkEvent, if_pos (by simp [hn, hp])]

/-- What becomes of link `n` and of those that hear of it, where it passes to state `x` with `lanes` in service. -/
def LinkBecomes (s : State) (n : Nat) (retry : BitVec 32) (x : LinkState) (lanes : Nat) (t : State) : Prop :=
  (∀ m, m ≠ n → t.link m = s.link m) ∧
  t.link n = ⟨retry, if x = .train ∧ (s.link n).state ≠ .train then (s.link n).trains + 1 else (s.link n).trains, lanes, x⟩ ∧
  (x ≠ (s.link n).state → (none, 2) ∈ t.msix) ∧
  ((s.link n).state = .up ∨ (s.link n).state = .degraded → x ≠ .up → x ≠ .degraded → usesLink s s.hart n = true →
    ({ code := causeLinkdown, val := BitVec.ofNat 64 n } : Trap) ∈ t.hart.irqs)

theorem carries_iff {x : LinkState} : x.carries = true ↔ x = .up ∨ x = .degraded := by
  cases x <;> decide

theorem KeepsReports.link {t : State} (h : KeepsReports s t) (m : Nat) : t.link m = s.link m := by
  rw [State.link, State.link, h.links]

/-- A link that has passed to a state. -/
def linkIn (l : Link) (x : LinkState) (lanes : Nat) : Link := { l with
  state := x, lanes := lanes, trains := if x == .train && l.state != .train then l.trains + 1 else l.trains }

/-- The link in its new state, the PF told of it. -/
def linkSet (s : State) (n : Nat) (x : LinkState) (lanes : Nat) : State :=
  let t := { s with links := vset s.links n (linkIn (s.link n) x lanes) }
  if (s.link n).state != x then t.raise none 2 else t

theorem setLink_eq (s : State) (n : Nat) (x : LinkState) (lanes : Nat) : setLink s n x lanes =
    if (s.link n).state.carries && !x.carries then
      (((linkSet s n x lanes).routes.filter (fun r => r.2.contains n)).map (·.1)).foldl routeLoss
        (raiseLinkdown (linkSet s n x lanes) n)
    else linkSet s n x lanes := rfl

theorem linkSet_eq (s : State) (n : Nat) (x : LinkState) (lanes : Nat) : ∃ msix, linkSet s n x lanes =
    { s with links := vset s.links n (linkIn (s.link n) x lanes), msix := msix } := by
  unfold linkSet State.raise
  dsimp only
  split
  · split <;> exact ⟨_, rfl⟩
  · exact ⟨_, rfl⟩

theorem link_linkSet (hn : n < 24) (x : LinkState) (lanes m : Nat) :
    (linkSet s n x lanes).link m = if m = n then linkIn (s.link n) x lanes else s.link m := by
  obtain ⟨msix, h⟩ := linkSet_eq s n x lanes
  rw [h, State.link]
  split
  · next hm => rw [hm, vget_vset_same _ _ _ _ hn]
  · next hm => exact vget_vset_other _ _ _ _ _ hm

/-- LINKDOWN pends at a hart whose bindings use the link. -/
theorem mem_irqs_raiseLinkdown {t : State} (huses : usesLink t t.hart n = true) :
    ({ code := causeLinkdown, val := BitVec.ofNat 64 n } : Trap) ∈ (raiseLinkdown t n).hart.irqs := by
  rw [raiseLinkdown, mapHarts_hart, if_pos huses]
  exact mem_irqs_raiseIrq _ _ _

theorem linkBecomes_setLink (hn : n < 24) (x : LinkState) (lanes : Nat) :
    LinkBecomes s n (s.link n).retry x lanes (setLink s n x lanes) := by
  have hlink (t : State) (h : ∀ m, t.link m = (linkSet s n x lanes).link m) :
      (∀ m, m ≠ n → t.link m = s.link m) ∧ t.link n = ⟨(s.link n).retry, if x = .train ∧ (s.link n).state ≠ .train then
        (s.link n).trains + 1 else (s.link n).trains, lanes, x⟩ := by
    refine ⟨fun m hm => by rw [h, link_linkSet hn, if_neg hm], ?_⟩
    rw [h, link_linkSet hn, if_pos rfl]
    simp [linkIn]
  have htold (hx : x ≠ (s.link n).state) : (none, 2) ∈ (linkSet s n x lanes).msix := by
    unfold linkSet
    dsimp only
    rw [if_pos (by simpa using Ne.symm hx)]
    exact mem_msix_raise _ _ _
  rw [setLink_eq]
  split
  · have hkeeps : KeepsReports (raiseLinkdown (linkSet s n x lanes) n)
        ((((linkSet s n x lanes).routes.filter (fun r => r.2.contains n)).map (·.1)).foldl routeLoss
          (raiseLinkdown (linkSet s n x lanes) n)) :=
      foldl_keeps (P := KeepsReports _) (.refl _) fun t pkg ht => ht.trans (keepsReports_routeLoss t pkg)
    obtain ⟨hothers, hset⟩ := hlink _ fun m => hkeeps.link m
    refine ⟨hothers, hset, fun hx => by rw [hkeeps.msix]; exact htold hx, fun _ _ _ huses => hkeeps.irqs _ ?_⟩
    obtain ⟨msix, heq⟩ := linkSet_eq s n x lanes
    exact mem_irqs_raiseLinkdown (by rw [heq]; exact huses)
  · next hc =>
    obtain ⟨hothers, hset⟩ := hlink _ fun _ => rfl
    refine ⟨hothers, hset, htold, fun hold hup hdeg => absurd ?_ hc⟩
    have hx : x.carries = false := Bool.eq_false_iff.2 fun h => (carries_iff.1 h).elim hup hdeg
    rw [carries_iff.2 hold, hx]
    rfl

/-- What a link is after training with `k` lanes (R307). -/
def trained (s : State) (n k : Nat) : State :=
  if k = 8 then setLink s n .up 8
  else if 4 ≤ k then setLink s n .degraded 4
  else if 2 ≤ k then setLink s n .degraded 2
  else setLink s n .down 0

/-- The state in which resent flits of a link are counted. -/
def flitsResent (s : State) (n k : Nat) : State := { s with
  links := vset s.links n { s.link n with retry := BitVec.ofNat 32 (min (2 ^ 32 - 1) ((s.link n).retry.toNat + k)) } }

theorem execFlitRetry_eq (hn : n < 24) (k : Nat) (failed : Bool)
    (h : ((s.link n).state.carries || (s.link n).state == .drain) = true) : execFlitRetry n k failed s =
      .next (if failed && (s.link n).state.carries then setLink (flitsResent s n k) n .train 0 else flitsResent s n k) :=
  linkEvent_of hn h

theorem link_flitsResent_same (hn : n < 24) (k : Nat) : (flitsResent s n k).link n =
    { s.link n with retry := BitVec.ofNat 32 (min (2 ^ 32 - 1) ((s.link n).retry.toNat + k)) } :=
  link_vset_same s _ hn

theorem link_flitsResent_other {m : Nat} (k : Nat) (h : m ≠ n) : (flitsResent s n k).link m = s.link m :=
  link_vset_other s _ h

theorem linkBecomes_flitsResent (hn : n < 24) (k : Nat) :
    LinkBecomes s n (BitVec.ofNat 32 (min (2 ^ 32 - 1) ((s.link n).retry.toNat + k))) (s.link n).state (s.link n).lanes
      (flitsResent s n k) := by
  refine ⟨fun m hm => link_flitsResent_other k hm, ?_, fun h => absurd rfl h, fun h hup hdeg => (h.elim hup hdeg).elim⟩
  rw [link_flitsResent_same hn, if_neg fun h => h.2 h.1]

theorem linkBecomes_flitsFailed (hn : n < 24) (k : Nat) :
    LinkBecomes s n (BitVec.ofNat 32 (min (2 ^ 32 - 1) ((s.link n).retry.toNat + k))) .train 0
      (setLink (flitsResent s n k) n .train 0) := by
  obtain ⟨hothers, hset, htold, hdown⟩ := linkBecomes_setLink (s := flitsResent s n k) hn .train 0
  rw [link_flitsResent_same hn] at hset htold hdown
  exact ⟨fun m hm => (hothers m hm).trans (link_flitsResent_other k hm), hset, htold, hdown⟩

end

/-- Settles O55: each event passes its link to a state through setLink, or counts the flits resent. -/
theorem linkEventsTakeEffect : Obligations.LinkEventsTakeEffect := by
  unfold Obligations.LinkEventsTakeEffect
  intro s n hn l carries others becomes
  have hset {i : Instr} {p : LinkState → Bool} {x : LinkState} {lanes : Nat}
      (he : exec i s = linkEvent s n p (fun s => setLink s n x lanes)) (hp : p l.state = true) : becomes i l.retry x lanes :=
    ⟨_, he.trans (linkEvent_of hn hp), linkBecomes_setLink hn x lanes⟩
  have htrain {k : Nat} {x : LinkState} {lanes : Nat} (hl : l.state = .train) (hk : k ≤ 8)
      (hx : trained s n k = setLink s n x lanes) : becomes (.linkTrainDone n k) l.retry x lanes := by
    refine ⟨trained s n k, linkEvent_of (p := fun x => x == .train && decide (k ≤ 8)) (f := (trained · n k)) hn ?_, ?_⟩
    · rw [show (s.link n).state = .train from hl]
      simpa using hk
    · rw [hx]
      exact linkBecomes_setLink hn x lanes
  refine ⟨fun hl => ?_, fun hl => ⟨?_, fun k h4 h8 => ?_, fun k h2 h4 => ?_, fun k h2 => ?_, ?_⟩, fun hl => ?_,
    fun hl => ⟨?_, ?_⟩, fun hl => ?_, ?_, fun k => ⟨fun hl => ?_, fun hl => ?_⟩⟩
  · exact hset (i := .linkEnable n) (p := (· == .down)) rfl (beq_iff_eq.2 hl)
  · exact htrain hl (by omega) rfl
  · exact htrain hl (by omega) (by rw [trained, if_neg (by omega), if_pos h4])
  · exact htrain hl (by omega) (by rw [trained, if_neg (by omega), if_neg (by omega), if_pos h2])
  · exact htrain hl (by omega) (by rw [trained, if_neg (by omega), if_neg (by omega), if_neg (by omega)])
  · exact hset (i := .linkTrainTimeout n) (p := (· == .train)) rfl (beq_iff_eq.2 hl)
  · exact hset (i := .linkRetrain n) (p := (· == .degraded)) rfl (beq_iff_eq.2 hl)
  · exact hset (i := .laneLoss n) rfl (carries_iff.2 hl)
  · exact hset (i := .linkDrain n) rfl (carries_iff.2 hl)
  · exact hset (i := .linkDrainDone n) (p := (· == .drain)) rfl (beq_iff_eq.2 hl)
  · exact hset (i := .lossOfSignal n) (p := fun _ => true) rfl rfl
  · have hp : (l.state.carries || l.state == .drain) = true := by
      rw [Bool.or_eq_true, carries_iff, beq_iff_eq]
      exact hl
    exact ⟨_, execFlitRetry_eq hn k false hp, linkBecomes_flitsResent hn k⟩
  · have hc := carries_iff.2 hl
    refine ⟨_, execFlitRetry_eq hn k true (by rw [show (s.link n).state.carries = true from hc, Bool.true_or]), ?_⟩
    rw [if_pos (by rw [show (s.link n).state.carries = true from hc, Bool.and_true])]
    exact linkBecomes_flitsFailed hn k

end Sys2Proof.Machine
end

section
/-!
LAW. The group table, and the events of groups and packets (R300, R301, R303, R304, R308, R312, R321). Settles O56.
-/

namespace Sys2Proof.Machine

/-! ### The group table -/

section
variable {s : State} {id : Nat}

theorem group_id (s : State) (id : Nat) : (s.group id).id = id := by
  unfold State.group
  cases h : s.groups.find? (·.id == id) with
  | none => rfl
  | some x => simpa using List.find?_some h

theorem group_mapGroup_same (s : State) {f : Group → Group} (hf : (f (s.group id)).id = id) :
    (s.mapGroup id f).group id = f (s.group id) := by
  rw [State.group, State.mapGroup, List.find?_cons_of_pos (by simpa using hf), Option.getD_some]

theorem group_mapGroup_other (s : State) {k : Nat} {f : Group → Group} (hf : (f (s.group id)).id = id) (hk : k ≠ id) :
    (s.mapGroup id f).group k = s.group k := by
  rw [State.group, State.mapGroup, List.find?_cons_of_neg (by simpa [hf] using hk.symm), find?_filter_ne _ hk, ← State.group]

theorem group_congr {t : State} (h : t.groups = s.groups) (k : Nat) : t.group k = s.group k := by
  rw [State.group, State.group, h]

/-- Group `id` has become `x`, and no other group has changed. -/
def GroupBecame (s t : State) (id : Nat) (x : Group) : Prop := (∀ k, k ≠ id → t.group k = s.group k) ∧ t.group id = x

theorem groupBecame_mapGroup (s : State) {f : Group → Group} (hf : (f (s.group id)).id = (s.group id).id) :
    GroupBecame s (s.mapGroup id f) id (f (s.group id)) :=
  have hid := hf.trans (group_id s id)
  ⟨fun _ hk => group_mapGroup_other s hid hk, group_mapGroup_same s hid⟩

/-- A group changed twice. -/
theorem GroupBecame.mapGroup {t : State} {x : Group} {f : Group → Group} (h : GroupBecame s t id x) (hf : (f x).id = x.id) :
    GroupBecame s (t.mapGroup id f) id (f x) := by
  obtain ⟨hothers, hx⟩ := h
  subst hx
  obtain ⟨hothers', hx'⟩ := groupBecame_mapGroup t hf
  exact ⟨fun k hk => (hothers' k hk).trans (hothers k hk), hx'⟩

theorem GroupBecame.of_groups {t u : State} {x : Group} (h : t.groups = s.groups) (hu : GroupBecame t u id x) :
    GroupBecame s u id x :=
  ⟨fun k hk => (hu.1 k hk).trans (group_congr h k), hu.2⟩

theorem groupBecame_dropPacket (s : State) (id n : Nat) : GroupBecame s (dropPacket s id n) id { s.group id with
    drops := BitVec.ofNat 32 (min (2 ^ 32 - 1) ((s.group id).drops.toNat + n)) } :=
  groupBecame_mapGroup s rfl

end

/-! ### GROUP_OPEN (R300) -/

section
variable {s : State}

/-- A package id put at its place of MAP, where there is memory. -/
def putMember (at_ : Nat) (s : State) (x : Nat × Nat) : State :=
  if physExists s.product (at_ + 2 * x.2) then s.store (lineOf (at_ + 2 * x.2)) (memWrite s.mem (at_ + 2 * x.2) 2 x.1) else s

theorem putMember_eq (at_ : Nat) (s : State) (x : Nat × Nat) :
    ∃ moves, putMember at_ s x = { s with
      mem := if physExists s.product (at_ + 2 * x.2) then memWrite s.mem (at_ + 2 * x.2) 2 x.1 else s.mem, moves := moves } := by
  unfold putMember
  split <;> exact ⟨_, rfl⟩

/-- The ids written from entry `k` on leave what lies below entry `k`, and each reads back. -/
theorem putMembers_effect (at_ : Nat) (l : List Nat) : ∀ (k : Nat) (s : State),
    let t := (l.zipIdx k).foldl (putMember at_) s
    t = { s with mem := t.mem, moves := t.moves } ∧
    (s.mem.wf = true → (∀ b < at_ + 2 * k, memByte t.mem b = memByte s.mem b) ∧
      ∀ i (h : i < l.length), physExists s.product (at_ + 2 * (k + i)) = true →
        memRead t.mem (at_ + 2 * (k + i)) 2 = l[i] % 65536) := by
  induction l with
  | nil =>
    intro k s
    exact ⟨rfl, fun _ => ⟨fun _ _ => rfl, fun i h => absurd h (Nat.not_lt_zero i)⟩⟩
  | cons x l ih =>
    intro k s
    obtain ⟨moves, hput⟩ := putMember_eq at_ s (x, k)
    obtain ⟨hrest, hmem⟩ := ih (k + 1) (putMember at_ s (x, k))
    rw [List.zipIdx_cons, List.foldl_cons]
    dsimp only
    have hproduct : (putMember at_ s (x, k)).product = s.product := by rw [hput]
    refine ⟨hrest.trans (by rw [hput]), fun hwf => ?_⟩
    have hwf' : (putMember at_ s (x, k)).mem.wf = true := by
      rw [hput]
      dsimp only
      split
      · exact wf_memWrite hwf _ _ _
      · exact hwf
    obtain ⟨hbelow, hread⟩ := hmem hwf'
    refine ⟨fun b hb => ?_, fun i hi hphys => ?_⟩
    · rw [hbelow b (by omega), hput]
      dsimp only
      split
      · rw [memByte_memWrite hwf, if_neg (by omega)]
      · rfl
    · cases i with
      | zero =>
        refine (memRead_of_bytes (v := x) fun j hj => ?_).trans rfl
        rw [Nat.add_zero] at hphys ⊢
        rw [hbelow _ (by omega), hput]
        dsimp only
        rw [if_pos hphys, memByte_memWrite hwf, if_pos (by omega), Nat.add_zero, Nat.add_sub_cancel_left]
      | succ i =>
        rw [show k + (i + 1) = k + 1 + i by omega]
        exact hread i (by simpa using hi) (by rw [hproduct, show k + 1 + i = k + (i + 1) by omega]; exact hphys)

theorem writeMap_effect (s : State) (at_ : Nat) (members : List Nat) :
    writeMap s at_ members = { s with mem := (writeMap s at_ members).mem, moves := (writeMap s at_ members).moves } ∧
    (s.mem.wf = true → ∀ i (h : i < members.length), i < 64 → physExists s.product (at_ + 2 * i) = true →
      memRead (writeMap s at_ members).mem (at_ + 2 * i) 2 = members[i] % 65536) := by
  obtain ⟨hrest, hmem⟩ := putMembers_effect at_ (members.take 64) 0 s
  refine ⟨hrest, fun hwf i hi h64 hphys => ?_⟩
  have hread := (hmem hwf).2 i (by rw [List.length_take]; omega) (by rw [Nat.zero_add]; exact hphys)
  rw [Nat.zero_add, List.getElem_take] at hread
  exact hread

end

/-! ### Aborts (R304, R312) -/

section
variable {s t : State}

theorem StatusWritten.harts_bound (h : StatusWritten s t) (id : Nat) (gen : BitVec 8) :
    t.harts.all (fun x => (bindings x id gen).isEmpty) = s.harts.all (fun x => (bindings x id gen).isEmpty) := by
  have hparked : ∀ {l l' : List Hart}, List.Forall₂ KeepsBindings l l' →
      l'.all (fun x => (bindings x id gen).isEmpty) = l.all (fun x => (bindings x id gen).isEmpty) := by
    intro l l' hl
    induction hl with
    | nil => rfl
    | cons hx _ ih => rw [List.all_cons, List.all_cons, hx.bound, ih]
  rw [State.harts, State.harts, List.all_append, List.all_append, hparked h.parked, h.hart.life]
  split
  · rfl
  · rw [List.all_cons, List.all_cons, h.hart.bound]

/-- The bindings of a hart that has learned of the abort have nothing staged, captured or held back. -/
theorem bindings_abortHart {now id : Nat} {gen : BitVec 8} {h : Hart} (hb : bindings h id gen ≠ []) :
    ({ code := causeGroup, sub := 2, val := groupVal id gen } : Trap) ∈ (abortHart now id gen h).irqs ∧
    ∀ b ∈ bindings (abortHart now id gen h) id gen,
      b.2.aborted = true ∧ b.2.staged = [] ∧ b.2.stuck = [] ∧ b.2.captured = [] := by
  rw [abortHart, if_neg (by simpa using hb)]
  refine ⟨mem_irqs_raiseIrq _ _ _, fun b hmem => ?_⟩
  obtain ⟨i, -, hi⟩ := List.mem_filterMap.1 hmem
  dsimp only at hi
  rw [f_raiseIrq, vget_map _ rfl] at hi
  cases hf : vget h.f i none with
  | none => simp [hf, abortedReg] at hi
  | some f =>
    rw [hf, abortedReg] at hi
    by_cases hg : (f.group == id && f.gen == gen) = true
    · rw [if_pos hg] at hi
      dsimp only at hi
      rw [if_pos hg] at hi
      obtain rfl := Option.some.inj hi
      exact ⟨rfl, rfl, rfl, rfl⟩
    · rw [if_neg hg] at hi
      dsimp only at hi
      rw [if_neg hg] at hi
      cases hi

theorem hart_settleGroup (s : State) (id : Nat) : (s.settleGroup id).hart = s.hart := by
  unfold State.settleGroup
  dsimp only
  split <;> rfl

theorem abortNow_effect (s : State) (id : Nat) :
    ((s.abortNow id).group id).state =
      (if s.harts.all (fun h => (bindings h id (s.group id).gen).isEmpty) then .aborted else .aborting) ∧
    (bindings s.hart id (s.group id).gen ≠ [] →
      ({ code := causeGroup, sub := 2, val := groupVal id (s.group id).gen } : Trap) ∈ (s.abortNow id).hart.irqs ∧
      ∀ b ∈ bindings (s.abortNow id).hart id (s.group id).gen,
        b.2.aborted = true ∧ b.2.staged = [] ∧ b.2.stuck = [] ∧ b.2.captured = []) := by
  have hmarked := statusWritten_abortMarked s id
  have hharts := (hmarked.trans (statusWritten_mapHarts _ (keepsBindings_abortHart (abortMarked s id).clock id
    (s.group id).gen)))
  have hgroup := (group_congr hharts.groups id).trans
    (group_mapGroup_same s (f := fun g => { g with state := .aborting }) (group_id s id))
  rw [abortNow_eq]
  refine ⟨?_, fun hb => ?_⟩
  · rw [State.settleGroup]
    rw [hgroup, hharts.harts_bound id]
    have hh : (s.mapGroup id (fun g => { g with state := .aborting })).harts = s.harts := rfl
    rw [hh]
    cases s.harts.all (fun h => (bindings h id (s.group id).gen).isEmpty) with
    | true =>
      rw [if_pos rfl, if_pos (by simp), group_mapGroup_same _ (group_id _ id)]
    | false =>
      rw [if_neg (by simp), if_neg Bool.false_ne_true, hgroup]
  · rw [hart_settleGroup, mapHarts_hart]
    refine bindings_abortHart fun hnone => hb ?_
    have hbound := hmarked.hart.bound id (s.group id).gen
    rw [hnone] at hbound
    exact List.isEmpty_iff.1 hbound.symm

end

/-! ### Packets at the router (R301, R303, R308) -/

section
variable {s u : State} {p : Packet}

/-- A held packet tried again with success. -/
def heldDelivered (p : Packet) (u : State) : State := u.mapGroup p.group (fun g => { g with held := g.held.erase p })

theorem exec_packet_held (hactive : (s.group p.group).state = .active) (hheld : heldHere (s.group p.group) p = true)
    {r : Option State} (hr : routePacket s p = .ok r) :
    exec (.fabricPacketArrival p) s = .next (r.elim s (heldDelivered p)) := by
  have hexec : exec (.fabricPacketArrival p) s = execFabricPacketArrival p s := rfl
  have hretry : retryHeld s p = .ok (r.elim s (heldDelivered p)) := by
    rw [retryHeld, hr]
    cases r <;> rfl
  rw [hexec, execFabricPacketArrival, if_pos (by simp [hactive, hheld]), hretry]

/-- The state with the packet taken from those under way, if it is one. -/
def takenPacket (s : State) (p : Packet) (u : State) : State :=
  if firstInTransit s p then { u with transit := u.transit.erase p } else u

theorem exec_packet_arrives (hheld : ¬ ((s.group p.group).state = .active ∧ heldHere (s.group p.group) p = true))
    (hfrom : firstInTransit s p = true ∨ (p.src < 64 ∧ (s.group p.group).locals.getLsbD p.src = false))
    (ha : arrive s p (takenPacket s p) = .ok u) : exec (.fabricPacketArrival p) s = .next u := by
  have hexec : exec (.fabricPacketArrival p) s = execFabricPacketArrival p s := rfl
  have hheld' : ¬ ((s.group p.group).state == .active && heldHere (s.group p.group) p) = true := by
    simpa using hheld
  rw [hexec, execFabricPacketArrival]
  rw [if_neg hheld']
  cases hf : firstInTransit s p with
  | true =>
    have ht : takenPacket s p = fun u => { u with transit := u.transit.erase p } := funext fun u => if_pos hf
    rw [if_pos rfl, ← ht, ha]
  | false =>
    obtain ⟨hlt, hl⟩ := hfrom.resolve_left (by simp [hf])
    have ht : takenPacket s p = id := funext fun u => if_neg (by simp [hf])
    rw [if_neg Bool.false_ne_true, if_neg (by simp [hl]; omega), ← ht, ha]

theorem arrive_dropped (taken : State → State)
    (h : p.gen ≠ (s.group p.group).gen.toNat ∨ ¬ ((s.group p.group).state = .open_ ∨ (s.group p.group).state = .active)) :
    arrive s p taken = .ok (dropPacket (taken s) p.group 1) := by
  rw [arrive, if_pos (by simpa [not_or] using h)]

/-- A packet of the current generation, for a group that takes some. -/
structure Admitted (s : State) (p : Packet) : Prop where
  gen : p.gen = (s.group p.group).gen.toNat
  takes : (s.group p.group).state = .open_ ∨ (s.group p.group).state = .active

theorem arrive_admitted (taken : State → State) (h : Admitted s p) : arrive s p taken =
    if !(p.dst < 64 && (s.group p.group).locals.getLsbD p.dst) ||
        !((s.group p.group).locals.getLsbD p.src || (s.group p.group).joined.getLsbD p.src) then .ok s
    else if !(s.group p.group).joined.getLsbD p.dst then
      .ok ((taken s).mapGroup p.group (fun g => { g with held := g.held ++ [p] }))
    else (routePacket s p).bind fun r => .ok (r.elim s taken) := by
  have hg := h.gen
  rw [arrive, if_neg (by rcases h.takes with ht | ht <;> simp [hg, ht])]
  rfl

/-- No packet comes from a rank of another package before its join notice. -/
theorem arrive_unannounced (taken : State → State) (h : Admitted s p)
    (hsrc : (s.group p.group).locals.getLsbD p.src = false) (hjoined : (s.group p.group).joined.getLsbD p.src = false) :
    arrive s p taken = .ok s := by
  rw [arrive_admitted taken h, if_pos (by simp [hsrc, hjoined])]

theorem arrive_expected (taken : State → State) (h : Admitted s p) (hdst : p.dst < 64)
    (hlocal : (s.group p.group).locals.getLsbD p.dst = true)
    (hsrc : (s.group p.group).locals.getLsbD p.src = true ∨ (s.group p.group).joined.getLsbD p.src = true) :
    arrive s p taken = if !(s.group p.group).joined.getLsbD p.dst then
      .ok ((taken s).mapGroup p.group (fun g => { g with held := g.held ++ [p] }))
    else (routePacket s p).bind fun r => .ok (r.elim s taken) := by
  rw [arrive_admitted taken h, if_neg (by rcases hsrc with hs | hs <;> simp [hdst, hlocal, hs])]

theorem groups_takenPacket (s : State) (p : Packet) (u : State) : (takenPacket s p u).groups = u.groups := by
  unfold takenPacket
  split <;> rfl

end

/-! ### JOIN_NOTICE and GROUP_FREE (R301, R303) -/

section
variable {s : State} {id rank : Nat}

/-- The group ACTIVE if it is OPEN and every rank has joined. -/
def joinActive (s : State) (id : Nat) : State :=
  if (s.group id).state == .open_ && decide ((s.group id).joined.toNat &&& (2 ^ (s.group id).nrank - 1) =
    2 ^ (s.group id).nrank - 1) then s.mapGroup id (fun g => { g with state := .active }) else s

theorem settleJoin_eq (s : State) (id : Nat) : settleJoin s id =
    if ((joinActive s id).group id).state == .active then deliverHeld id (s.group id).held.length (joinActive s id)
    else .ok (joinActive s id) := rfl

theorem groupBecame_joinActive (s : State) (id : Nat) : GroupBecame s (joinActive s id) id { s.group id with
    state := if (s.group id).state = .open_ ∧ (s.group id).joined.toNat &&& (2 ^ (s.group id).nrank - 1) =
      2 ^ (s.group id).nrank - 1 then .active else (s.group id).state } := by
  rw [joinActive]
  by_cases hc : (s.group id).state = .open_ ∧ (s.group id).joined.toNat &&& (2 ^ (s.group id).nrank - 1) =
      2 ^ (s.group id).nrank - 1
  · rw [if_pos (by simpa using hc), if_pos hc]
    exact groupBecame_mapGroup s rfl
  · rw [if_neg (by simpa using hc), if_neg hc]
    exact ⟨fun _ _ => rfl, rfl⟩

/-- With nothing held, a group whose ranks have all joined becomes ACTIVE, and that is all. -/
theorem settleJoin_nothingHeld (hheld : (s.group id).held = []) : settleJoin s id = .ok (joinActive s id) := by
  rw [settleJoin_eq, hheld]
  split <;> rfl

theorem exec_joinNotice_joins (hid : id < 65536) (hrank : rank < (s.group id).nrank) (h64 : rank < 64)
    (hremote : (s.group id).locals.getLsbD rank = false) (hheld : (s.group id).held = [])
    (htakes : (s.group id).state = .open_ ∨ (s.group id).state = .active) :
    let joined := (s.group id).joined ||| (1#64 <<< rank)
    ∃ t, exec (.joinNotice id (s.group id).gen.toNat rank) s = .next t ∧ GroupBecame s t id { s.group id with
      joined := joined,
      state := if (s.group id).state = .open_ ∧ joined.toNat &&& (2 ^ (s.group id).nrank - 1) = 2 ^ (s.group id).nrank - 1
        then .active else (s.group id).state } := by
  have hexec : exec (.joinNotice id (s.group id).gen.toNat rank) s = execJoinNotice id (s.group id).gen.toNat rank s := rfl
  let u := s.mapGroup id (fun g => { g with joined := g.joined ||| (1#64 <<< rank) })
  have hu : GroupBecame s u id { s.group id with joined := (s.group id).joined ||| (1#64 <<< rank) } :=
    groupBecame_mapGroup s rfl
  obtain ⟨hothers, hjoined⟩ := hu
  have ht := settleJoin_nothingHeld (s := u) (id := id) (by rw [hjoined]; exact hheld)
  obtain ⟨hothers', hset⟩ := groupBecame_joinActive u id
  rw [hjoined] at hset
  refine ⟨_, ?_, fun k hk => (hothers' k hk).trans (hothers k hk), hset⟩
  rw [hexec, execJoinNotice, if_neg (by simp [groupCount, hid, h64]), if_neg (by rcases htakes with h | h <;> simp [h]),
    if_neg (by rcases htakes with h | h <;> simp [h, hremote, hrank]), show settleJoin _ id = _ from ht]

theorem exec_joinNotice_stale {gen : Nat} (hid : id < 65536) (h64 : rank < 64) (hgen : gen ≠ (s.group id).gen.toNat) :
    exec (.joinNotice id gen rank) s = .next (dropPacket s id 1) := by
  have hexec : exec (.joinNotice id gen rank) s = execJoinNotice id gen rank s := rfl
  rw [hexec, execJoinNotice, if_neg (by simp [groupCount, hid, h64]), if_pos (by simp [hgen])]

theorem exec_groupAbortArrival_stale {gen : Nat} (hid : id < 65536) (hgen : gen ≠ (s.group id).gen.toNat) :
    exec (.groupAbortArrival id gen) s = .next (dropPacket s id 1) := by
  have hexec : exec (.groupAbortArrival id gen) s = execGroupAbortArrival id gen s := rfl
  rw [hexec, execGroupAbortArrival, if_neg (by simp [groupCount, hid]), if_pos (by simp [hgen])]

theorem abortGroup_takes (htakes : (s.group id).state = .open_ ∨ (s.group id).state = .active) :
    s.abortGroup id = s.abortNow id := by
  rw [State.abortGroup, if_pos (by simpa using htakes)]

theorem exec_groupAbortArrival_takes (hid : id < 65536)
    (htakes : (s.group id).state = .open_ ∨ (s.group id).state = .active) :
    exec (.groupAbortArrival id (s.group id).gen.toNat) s = .next (s.abortNow id) := by
  have hexec : exec (.groupAbortArrival id (s.group id).gen.toNat) s =
    execGroupAbortArrival id (s.group id).gen.toNat s := rfl
  rw [hexec, execGroupAbortArrival, if_neg (by simp [groupCount, hid]), if_neg (by rcases htakes with h | h <;> simp [h]), abortGroup_takes htakes]

theorem exec_groupFree (h : ((s.group id).state = .active ∧ (s.group id).joined = 0) ∨ (s.group id).state = .aborted) :
    ∃ t, exec (.groupFree id) s = .next t ∧ GroupBecame s t id { s.group id with
      state := .draining, gen := (s.group id).gen + 1, held := [],
      drops := BitVec.ofNat 32 (min (2 ^ 32 - 1) ((s.group id).drops.toNat + (s.group id).held.length)) } := by
  have hfreed : GroupBecame s (s.mapGroup id (fun g => { g with state := .draining, gen := g.gen + 1, held := [] })) id
      { s.group id with state := .draining, gen := (s.group id).gen + 1, held := [] } := groupBecame_mapGroup s rfl
  refine ⟨_, ?_, hfreed.mapGroup (f := fun g => { g with
    drops := BitVec.ofNat 32 (min (2 ^ 32 - 1) (g.drops.toNat + (s.group id).held.length)) }) rfl⟩
  have hexec : exec (.groupFree id) s = execGroupFree id s := rfl
  rw [hexec, execGroupFree, if_pos (by simpa using h)]
  rfl

end

/-- Settles O56: the group table by its own lemmas, an abort by what it leaves of the bindings, packets at the router. -/
theorem groupEventsTakeEffect : Obligations.GroupEventsTakeEffect := by
  unfold Obligations.GroupEventsTakeEffect
  intro s id hid g others counted dropped aborts all takes
  have hdropped {i : Instr} (h : exec i s = .next (dropPacket s id 1)) : dropped i :=
    ⟨_, h, rfl, (groupBecame_dropPacket s id 1).1, (groupBecame_dropPacket s id 1).2⟩
  have haborts {i : Instr} (h : exec i s = .next (s.abortNow id)) : aborts i := ⟨_, h, abortNow_effect s id⟩
  refine ⟨?_, ?_, fun htakes => ⟨?_, ?_⟩, fun gen hgen => ⟨?_, fun rank hrank => ?_⟩, fun h => ?_, fun hstate hquiet => ?_, ?_⟩
  · intro hfree nrank asid locals mapAt members hlo hhi at_
    obtain ⟨hrest, hmem⟩ := writeMap_effect s at_ members
    let u := writeMap s at_ members
    have hgroups : u.groups = s.groups := by rw [show u = _ from hrest]
    obtain ⟨hothers, hopened⟩ := GroupBecame.of_groups hgroups (groupBecame_mapGroup (id := id) u (f := fun g => { g with
      nrank := nrank, asid := asid % 65536, state := .open_, locals := locals, joined := 0, mapAt := at_, drops := 0, held := [] })
      rfl)
    refine ⟨_, congrArg Host.Outcome.next (if_pos ?_), ?_, hothers, ?_, hmem⟩
    · simp [groupCount, hid, hlo, hhi, show (s.group id).state = .free from hfree]
    · rw [State.mapGroup, show writeMap s _ members = _ from hrest]
    · rw [hopened, group_congr hgroups]
  · intro rank hrank h64 hremote hheld htakes joined
    obtain ⟨t, ht, hothers, hset⟩ := exec_joinNotice_joins hid hrank h64 hremote hheld htakes
    exact ⟨t, ht, hothers, hset⟩
  · exact haborts ((show exec (.groupAbort id) s = .next (s.abortGroup id) from rfl).trans
      (congrArg Host.Outcome.next (abortGroup_takes htakes)))
  · exact haborts (exec_groupAbortArrival_takes hid htakes)
  · exact hdropped (exec_groupAbortArrival_stale hid hgen)
  · exact hdropped (exec_joinNotice_stale hid hrank hgen)
  · obtain ⟨t, ht, hothers, hset⟩ := exec_groupFree h
    exact ⟨t, ht, hothers, hset⟩
  · obtain ⟨hothers, hset⟩ := groupBecame_mapGroup (id := id) s (f := fun g => { g with state := .free }) rfl
    refine ⟨_, congrArg Host.Outcome.next (if_pos ?_), hothers, hset⟩
    simpa [show (s.group id).state = .draining from hstate] using hquiet
  · rintro p rfl
    refine ⟨fun hactive hheld => ⟨fun u hu => exec_packet_held hactive hheld hu, fun hnone =>
      exec_packet_held hactive hheld hnone⟩, fun hheld hfrom => ?_⟩
    intro taken
    have hbecame (f : Group → Group) (hf : (f (s.group p.group)).id = (s.group p.group).id) :
        GroupBecame s ((takenPacket s p s).mapGroup p.group f) p.group (f (s.group p.group)) := by
      have hg := groups_takenPacket s p s
      have h := GroupBecame.of_groups hg (groupBecame_mapGroup (id := p.group) (takenPacket s p s) (f := f)
        (by rw [group_congr hg]; exact hf))
      rwa [group_congr hg] at h
    refine ⟨fun hdrop => ?_, fun hgen htakes hsrc hjoined => ?_, fun hgen htakes hdst hlocal hsrc => ⟨fun hj => ?_,
      fun hj => ⟨fun u hu => ?_, fun hnone => ?_⟩⟩⟩
    · obtain ⟨hothers, hset⟩ := hbecame (fun g => { g with drops := BitVec.ofNat 32 (min (2 ^ 32 - 1) (g.drops.toNat + 1)) }) rfl
      exact ⟨_, exec_packet_arrives hheld hfrom (arrive_dropped _ hdrop), rfl, hothers, hset⟩
    · exact exec_packet_arrives hheld hfrom (arrive_unannounced _ ⟨hgen, htakes⟩ hsrc hjoined)
    · obtain ⟨hothers, hset⟩ := hbecame (fun g => { g with held := g.held ++ [p] }) rfl
      refine ⟨_, exec_packet_arrives hheld hfrom ((arrive_expected _ ⟨hgen, htakes⟩ hdst hlocal hsrc).trans
        (if_pos ?_)), rfl, hothers, hset⟩
      simpa using hj
    · refine exec_packet_arrives hheld hfrom ((arrive_expected _ ⟨hgen, htakes⟩ hdst hlocal hsrc).trans ?_)
      rw [if_neg (by simpa using hj), hu]
      rfl
    · refine exec_packet_arrives hheld hfrom ((arrive_expected _ ⟨hgen, htakes⟩ hdst hlocal hsrc).trans ?_)
      rw [if_neg (by simpa using hj), hnone]
      rfl

end Sys2Proof.Machine
end

section
/-!
LAW. Groups and counter vectors by element, and the words of HVA (R48, R86, R150 to R157). Settles O40.
-/

namespace Sys2Proof.Machine

/-! ### Groups read by element (R32, R150) -/

section
variable (h : Hart) (r : Nat)

theorem groupBits_lt : ∀ g, groupBits h r g < 2 ^ (regBits h * g)
  | 0 => by rw [groupBits, Nat.mul_zero]; exact Nat.one_pos
  | g + 1 => by
    have hreg : (vget h.ve.v (r + g) 0).toNat % 2 ^ regBits h + 1 ≤ 2 ^ regBits h := Nat.mod_lt _ (Nat.two_pow_pos _)
    calc groupBits h r (g + 1)
        < 2 ^ (regBits h * g) + (vget h.ve.v (r + g) 0).toNat % 2 ^ regBits h * 2 ^ (regBits h * g) :=
          Nat.add_lt_add_right (groupBits_lt g) _
      _ = ((vget h.ve.v (r + g) 0).toNat % 2 ^ regBits h + 1) * 2 ^ (regBits h * g) := by ring
      _ ≤ 2 ^ regBits h * 2 ^ (regBits h * g) := Nat.mul_le_mul_right _ hreg
      _ = 2 ^ (regBits h * (g + 1)) := by rw [← Nat.pow_add, Nat.mul_add_one, Nat.add_comm]

theorem testBit_groupBits {g p : Nat} (hp : p < regBits h * g) : (groupBits h r g).testBit p = groupBit h r p := by
  induction g with
  | zero => exact absurd hp (Nat.not_lt_zero p)
  | succ g ih =>
    rw [groupBits, Nat.add_comm, Nat.mul_comm, Nat.testBit_two_pow_mul_add _ (groupBits_lt h r g)]
    by_cases hlow : p < regBits h * g
    · rw [if_pos hlow, ih hlow]
    · have hin : p - regBits h * g < regBits h := by rw [Nat.mul_add_one] at hp; omega
      have hdiv : p / regBits h = g := by
        rw [Nat.div_eq_of_lt_le] <;> [rw [Nat.mul_comm]; rw [Nat.mul_comm]] <;> omega
      have hmod : p % regBits h = p - regBits h * g := by
        have := Nat.div_add_mod p (regBits h)
        rw [hdiv] at this
        omega
      rw [if_neg hlow, Nat.testBit_mod_two_pow, decide_eq_true hin, Bool.true_and, groupBit, hdiv, hmod]
      rfl

theorem elem_groupBits {w g i : Nat} (hw : w ∣ regBits h) (hi : w * (i + 1) ≤ regBits h * g) :
    elem w (groupBits h r g) i = element h r w i := by
  refine Nat.eq_of_testBit_eq fun j => ?_
  rw [elem, Nat.testBit_mod_two_pow, Nat.testBit_div_two_pow, testBit_element r i j hw, Nat.add_comm j]
  by_cases hj : j < w
  · rw [testBit_groupBits h r (by rw [Nat.mul_add_one] at hi; omega)]
  · simp [hj]

end

theorem element_lt (h : Hart) (r w i : Nat) : element h r w i < 2 ^ w := Nat.mod_lt _ (Nat.two_pow_pos _)

/-- Registers of a group that starts where it must. -/
theorem group_inside {r : BitVec 5} {g : Nat} (hg : g ∣ 32) (hr : r.toNat % g = 0) : r.toNat + g ≤ 32 := by
  obtain ⟨c, hc⟩ := hg
  obtain ⟨k, hk⟩ := Nat.dvd_of_mod_eq_zero hr
  have hlt : k < c := by
    by_contra hle
    have := Nat.mul_le_mul_left g (Nat.not_lt.1 hle)
    have := r.isLt
    omega
  have := Nat.mul_le_mul_left g (Nat.succ_le_of_lt hlt)
  rw [Nat.mul_add_one] at this
  omega

theorem group_dvd (t : VType) : t.group ∣ 32 :=
  (Nat.pow_dvd_pow 2 (by have := t.lg.isLt; omega : t.lg.toNat ≤ 3)).trans (by decide)

/-! ### Counter vectors (R151) -/

theorem powerAtLeast_of {n : Nat} (h : powerAtLeast n ≤ 32) : n ≤ powerAtLeast n ∧ powerAtLeast n ∣ 32 := by
  unfold powerAtLeast at h ⊢
  cases hf : ([1, 2, 4, 8, 16, 32] : List Nat).find? (fun p => decide (n ≤ p)) with
  | none =>
    rw [hf, Option.getD_none] at h
    omega
  | some p =>
    rw [Option.getD_some]
    have hmem := List.mem_of_find?_eq_some hf
    simp only [List.mem_cons, List.not_mem_nil, or_false] at hmem
    refine ⟨by simpa using List.find?_some hf, ?_⟩
    obtain rfl | rfl | rfl | rfl | rfl | rfl := hmem <;> decide

theorem counterGroup_of {h : Hart} {t : VType} (hg : counterGroup h t ≤ 32) :
    counterGroup h t ∣ 32 ∧ t.counterBits ≤ regBits h * counterGroup h t := by
  obtain ⟨hle, hdvd⟩ := powerAtLeast_of hg
  refine ⟨hdvd, ?_⟩
  have hdiv : (t.counterBits + regBits h - 1) / regBits h ≤ counterGroup h t := (le_max_right _ _).trans hle
  have hpos := regBits_pos h
  have hlt := Nat.lt_mul_div_succ (t.counterBits + regBits h - 1) hpos
  have := Nat.mul_le_mul_left (regBits h) hdiv
  rw [Nat.mul_add_one] at hlt
  omega

theorem counterFits_of {h : Hart} {t : VType} {r : BitVec 5} (hg : counterGroup h t ≤ 32)
    (hr : r.toNat % counterGroup h t = 0) : counterFits h t r = true := by
  rw [counterFits, decide_eq_true hg, hr]
  rfl

theorem dim_pos (t : VType) : 0 < t.dim := Nat.mul_pos (by omega) (Nat.two_pow_pos _)

theorem counterAt_eq {h : Hart} {t : VType} (r : BitVec 5) {i : Nat} (hg : counterGroup h t ≤ 32)
    (hi : i < t.hm.counters * t.dim) :
    counterAt h t r i = (BitVec.ofNat 16 (element h r.toNat 16 i)).toInt := by
  obtain ⟨-, hbits⟩ := counterGroup_of hg
  have hin : 16 * (i + 1) ≤ regBits h * counterGroup h t := by
    refine (Nat.mul_le_mul_left 16 hi).trans ?_
    rw [← Nat.mul_assoc]
    exact hbits
  rw [counterAt, elem_groupBits h r.toNat (width_dvd_regBits h (by decide)) hin,
    toSigned_eq (by omega) (element_lt h r.toNat 16 i)]

theorem hvWidth_mem (hm : HvModel) : hm.width ∈ [1, 4, 8, 16, 32, 64] := by cases hm <;> decide

theorem hvComp_eq {h : Hart} {t : VType} (r : BitVec 5) {j : Nat} (hfit : t.dim * t.hm.width ≤ regBits h * t.group)
    (hj : j < t.dim) : hvComp h t r j = element h r.toNat t.hm.width j := by
  refine elem_groupBits h r.toNat (width_dvd_regBits h (hvWidth_mem t.hm)) ?_
  rw [Nat.mul_comm]
  exact (Nat.mul_le_mul_right _ hj).trans hfit

/-! ### What a word that runs by component leaves (R86, R157) -/

theorem compWrites_eq (h : Hart) (reg group width start : Nat) (lanes : List Nat) {n : Nat} (hn : n ≠ 0) (zero : Bool) :
    compWrites h reg group width start lanes (width * n) zero =
      destWrites h { tail := zero } ⟨reg, group, width, n⟩ start (lanes.map some) true := by
  rw [compWrites, destWrites, tailMask]
  cases zero <;> simp [hn]

/-- A length is no part of what a word writes. -/
theorem written_vl {s : State} (hs : s.issue.side = .vector) (lat : Timing) {r : Result} {x : Hart}
    (hr : r.state = s.mapHart fun _ => x) (hw : ∀ w ∈ r.writes, (∃ n, w.reg = .v n) ∨ ∃ n, w.reg = .m n) :
    (written lat r).hart.cs.vl = x.cs.vl := by
  have hcs : (applyWrites x r.writes).cs = x.cs := (congrArg Hart.cs (applyWrites_only x hw) :)
  have hretire (u : State) (hu : u.issue.side = .vector) : (retire u).hart.cs.vl = u.hart.cs.vl := by
    rw [retire, retireTo_vector_eq hu]
  unfold written
  dsimp only
  rw [hretire]
  · split <;> rw [mapHart_hart, hr] <;> exact congrArg ControlRegs.vl hcs
  · split <;> rw [mapHart_issue, hr] <;> exact hs

section
variable {s : State} {x : Hart} {r : Result} {reg group width start n : Nat} {zero : Bool} {f : Nat → Nat}

/-- A word whose result is `x` and component writes leaves the components, and the flags of `x`. -/
theorem componentsWritten_of (h : Issuing s .vector) (lat : Timing) (hr : r.state = s.mapHart fun _ => x)
    (hx : x = { s.hart with cs := x.cs }) (hi : x.cs.instret = s.hart.cs.instret) (hvl : x.cs.vl = s.hart.cs.vl)
    (hws : r.writes = compWrites s.hart reg group width start ((List.range' start (n - start)).map f) (width * n) zero)
    (hin : reg + group ≤ 32) (hw : width ∈ [1, 4, 8, 16, 32, 64]) (hn : n ≠ 0) (hstart : start ≤ n) :
    ComponentsWritten s (written lat r) reg group width n start zero f ∧
    (written lat r).hart.cs.vflags = x.cs.vflags ∧ (written lat r).hart.cs.first = x.cs.first := by
  rw [compWrites_eq s.hart reg group width start _ hn zero, List.map_map] at hws
  have hv : ∀ w ∈ r.writes, (∃ n, w.reg = .v n) ∨ ∃ n, w.reg = .m n := fun w hw => .inl (groupWrites_reg (hws ▸ hw))
  have hl := written_leaves h.side lat hr hx hi hv
  rw [hws] at hl
  refine ⟨⟨fun j hj => ?_, hl.onlyGroup hx, (written_vl h.side lat hr hv).trans hvl, hl.retired⟩, hl.vflags, hl.first⟩
  rw [hl.element (d := ⟨reg, group, width, n⟩) hx hin hw hj, laneAt_map_range']
  by_cases hlow : j < start
  · simp [hlow, Nat.not_le.2 hlow, show ¬ n ≤ j by omega]
  · by_cases hlt : j < n
    · simp [hlow, Nat.not_lt.1 hlow, hlt, Nat.not_le.2 hlt]
    · cases zero <;> simp [hlow, hlt, Nat.not_lt.1 hlt, hn]

end

/-! ### The element-wise words of hypervectors (R154, R156) -/

section
variable {s : State} {t : VType} (h : VectorIssuing s t)
include h

/-- A component-wise word ends. -/
theorem VectorIssuing.componentWise (reg group width : Nat) (zero : Bool) (f : Nat → Nat) :
    componentWise s t reg group width zero f = ⟨s, compWrites s.hart reg group width (startOf s)
      ((List.range' (startOf s) (t.dim - startOf s)).map f) (width * t.dim) zero, none⟩ := by
  rw [Machine.componentWise]
  simp only [stopOf_uncut h.issuing.uncut, le_refl, decide_true, Bool.and_true, if_true]

/-- A word that ends with component writes. -/
theorem VectorIssuing.hvEnded {o : Outcome} {d : BitVec 5} {start : Nat} {f g : Nat → Nat}
    (ho : Ended o ⟨s, compWrites s.hart d.toNat t.group t.hm.width start
      ((List.range' start (t.dim - start)).map f) (t.hm.width * t.dim) true, none⟩)
    (hd : d.toNat % t.group = 0) (hstart : start ≤ t.dim) (hfg : ∀ j < t.dim, f j = g j) :
    ∃ r, o = .next r ∧ ComponentsWritten s r d.toNat t.group t.hm.width t.dim start true g ∧ SameFlags s r := by
  obtain ⟨lat, ho⟩ := ho
  have hmap : (List.range' start (t.dim - start)).map f = (List.range' start (t.dim - start)).map g := by
    refine List.map_congr_left fun j hj => hfg j ?_
    have := (List.mem_range'_1.1 hj).2
    omega
  rw [hmap] at ho
  obtain ⟨hc, hflags, hfirst⟩ := componentsWritten_of (s := s) (x := s.hart) (r := ⟨s, _, none⟩) h.issuing lat rfl rfl rfl rfl rfl
    (group_inside (group_dvd t) hd) (hvWidth_mem t.hm) (dim_pos t).ne' hstart
  exact ⟨_, ho, hc, hflags, hfirst⟩

theorem VectorIssuing.hvWord {wf : Bool} {hvs : List (BitVec 5)} {reads : VType → List RegId} {d : BitVec 5} {c dc : Nat}
    {f : State → VType → Nat → Nat} {g : Nat → Nat} (hwf : wf = true) (hfit : hvs.all t.aligned = true)
    (hd : d.toNat % t.group = 0) (hstart : startOf s ≤ t.dim) (hfg : ∀ j < t.dim, f s t j = g j) :
    ∃ r, Machine.hvWord s wf hvs reads d c dc f = .next r ∧
      ComponentsWritten s r d.toNat t.group t.hm.width t.dim (startOf s) true g ∧ SameFlags s r := by
  have heq : hvOp s t d (f s t) = _ := h.componentWise d.toNat t.group t.hm.width true (f s t)
  refine h.hvEnded ((h.vectorOp hwf hfit ?_).congr heq) hd hstart hfg
  rw [heq]
  exact ⟨rfl, h.issuing.untimed⟩

end

theorem aligned_of {t : VType} {r : BitVec 5} (h : r.toNat % t.group = 0) : t.aligned r = true := by
  rw [VType.aligned, h]
  rfl

theorem all_aligned_pair {t : VType} {d a : BitVec 5} (hd : d.toNat % t.group = 0) (ha : a.toNat % t.group = 0) :
    ([d, a] : List (BitVec 5)).all t.aligned = true := by
  simp [aligned_of hd, aligned_of ha]

theorem all_aligned_triple {t : VType} {d a b : BitVec 5} (hd : d.toNat % t.group = 0) (ha : a.toNat % t.group = 0)
    (hb : b.toNat % t.group = 0) : ([d, a, b] : List (BitVec 5)).all t.aligned = true := by
  simp [aligned_of hd, aligned_of ha, aligned_of hb]

/-! ### Component operations (R154) -/

section
variable {hm : HvModel} {x y : Nat}

theorem hvSign_eq (hx : x < 2 ^ hm.width) : hvSign hm x = plusMinus hm x := by
  cases hm with
  | bsc =>
    have : x = 0 ∨ x = 1 := by have : x < 2 := hx; omega
    obtain rfl | rfl := this <;> rfl
  | map => rfl
  | phase => rfl

theorem plusMinus_sign (hm : HvModel) (x : Nat) : plusMinus hm x = 1 ∨ plusMinus hm x = -1 := by
  unfold plusMinus
  split <;> split <;> simp

theorem sign_mul {u v : Int} (hu : u = 1 ∨ u = -1) (hv : v = 1 ∨ v = -1) : u * v = 1 ∨ u * v = -1 := by
  obtain rfl | rfl := hu <;> obtain rfl | rfl := hv <;> simp

theorem sign_neg {u : Int} (hu : u = 1 ∨ u = -1) : -u = 1 ∨ -u = -1 := by
  obtain rfl | rfl := hu <;> simp

theorem hvOfSign_eq {v : Int} (hv : v = 1 ∨ v = -1) : hvOfSign hm v = ofPlusMinus hm v := by
  obtain rfl | rfl := hv <;> cases hm <;> rfl

theorem bindComp_eq : x < 2 ^ hm.width → y < 2 ^ hm.width → bindComp hm x y = match hm with
    | .bsc => if x = y then 0 else 1
    | .map => ofPlusMinus hm (plusMinus hm x * plusMinus hm y)
    | .phase => (x + y) % 16 := by
  intro hx hy
  cases hm with
  | bsc =>
    have hx2 : x < 2 := hx
    have hy2 : y < 2 := hy
    dsimp only [bindComp]
    split <;> omega
  | map =>
    dsimp only [bindComp]
    rw [hvSign_eq hx, hvSign_eq hy, hvOfSign_eq (sign_mul (plusMinus_sign _ _) (plusMinus_sign _ _))]
  | phase => rfl

theorem unbindComp_eq : x < 2 ^ hm.width → y < 2 ^ hm.width → unbindComp hm x y = match hm with
    | .bsc => if x = y then 0 else 1
    | .map => ofPlusMinus hm (plusMinus hm x * plusMinus hm y)
    | .phase => (((x : Int) - y) % 16).toNat := by
  intro hx hy
  cases hm with
  | bsc => exact bindComp_eq hx hy
  | map => exact bindComp_eq hx hy
  | phase =>
    have hy16 : y < 16 := hy
    dsimp only [unbindComp]
    omega

theorem notComp_eq : x < 2 ^ hm.width → notComp hm x = match hm with
    | .bsc => 1 - x
    | .map => ofPlusMinus hm (-plusMinus hm x)
    | .phase => (x + 8) % 16 := by
  intro hx
  cases hm with
  | bsc =>
    have hx2 : x < 2 := hx
    dsimp only [notComp]
    omega
  | map =>
    dsimp only [notComp]
    rw [hvSign_eq hx, hvOfSign_eq (sign_neg (plusMinus_sign _ _))]
  | phase => rfl

end

/-! ### Rotations (R154) -/

/-- A rotation ends with the components of its source in their new places. -/
theorem VectorIssuing.rotateWord {s : State} {t : VType} (h : VectorIssuing s t) {d a b : BitVec 5}
    {src : Nat → Nat → Nat → Nat} {g : Nat → Nat} (hb : b.toNat < 16) (hd : d.toNat % t.group = 0)
    (ha : a.toNat % t.group = 0) (hapart : d.toNat + t.group ≤ a.toNat ∨ a.toNat + t.group ≤ d.toNat)
    (hg : ∀ j < t.dim, hvComp s.hart t a (src t.dim ((hRead s.hart b.toNat).toNat % t.dim) j) = g j) :
    ∃ r, rotateWord s d a b src = .next r ∧
      ComponentsWritten s r d.toNat t.group t.hm.width t.dim 0 true g ∧ SameFlags s r := by
  have hover : overlap d.toNat t.group a.toNat t.group = false := by
    rw [overlap, decide_eq_false_iff_not]
    omega
  refine h.hvEnded (start := 0) (f := fun j => hvComp s.hart t a (src t.dim ((hRead s.hart b.toNat).toNat % t.dim) j))
    ((h.vectorOp (isH_iff.2 hb) ?_ ?_).congr ?_) hd (Nat.zero_le _) hg
  · rw [aligned_of hd, aligned_of ha, hover]
    rfl
  · simp only [abandonOf, h.issuing.uncut, ite_self]
    exact ⟨rfl, h.issuing.untimed⟩
  · simp only [abandonOf, h.issuing.uncut, ite_self, VType.hvBits, Nat.mul_comm t.dim, List.range_eq_range', Nat.sub_zero]

theorem rotate_back {j k n : Nat} (hn : 0 < n) : (j + n - k % n) % n = (((j : Int) - k) % n).toNat := by
  have hk : k % n < n := Nat.mod_lt _ hn
  have hsplit := Nat.div_add_mod k n
  have hcast : ((j + n - k % n : Nat) : Int) = j + n - (k % n : Nat) := by omega
  have hk' : (k : Int) = n * (k / n : Nat) + (k % n : Nat) := by exact_mod_cast hsplit.symm
  have hint : ((j : Int) - k) ≡ ((j + n - k % n : Nat) : Int) [ZMOD n] := by
    refine Int.modEq_iff_dvd.2 ⟨1 + (k / n : Nat), ?_⟩
    rw [hcast]
    linear_combination hk'
  rw [hint.eq, ← Int.natCast_mod, Int.toNat_natCast]

/-! ### HGEN (R156) -/

/-- Four bits of a number from bit `a` on, one by one. -/
theorem nibble_eq_sum (n a : Nat) :
    n / 2 ^ a % 16 = ((List.range 4).map (fun k => if n.testBit (a + k) then 2 ^ k else 0)).sum := by
  have hbit (k : Nat) (hk : k < 4) : n.testBit (a + k) = (n / 2 ^ a % 16).testBit k := by
    rw [show 16 = 2 ^ 4 from rfl, Nat.testBit_mod_two_pow, Nat.testBit_div_two_pow, decide_eq_true hk, Bool.true_and,
      Nat.add_comm]
  have hsum : ∀ m < 16, m = ((List.range 4).map (fun k => if m.testBit k then 2 ^ k else 0)).sum := by decide
  refine (hsum _ (Nat.mod_lt _ (by omega))).trans (congrArg List.sum (List.map_congr_left fun k hk => ?_))
  rw [hbit k (List.mem_range.1 hk)]

theorem seedBlock_eq (seed : Word) (j : Nat) : seedBlock seed j =
    let z0 := seed + (BitVec.ofNat 64 j + 1) * 0x9E3779B97F4A7C15#64
    let z1 := (z0 ^^^ (z0 >>> 30)) * 0xBF58476D1CE4E5B9#64
    let z2 := (z1 ^^^ (z1 >>> 27)) * 0x94D049BB133111EB#64
    z2 ^^^ (z2 >>> 31) := by
  unfold seedBlock
  rw [BitVec.ofNat_add]
  rfl

/-- Bit `j` of the stream of a seed. -/
def seedBit (seed : Word) (j : Nat) : Bool := (seedBlock seed (j / 64)).getLsbD (j % 64)

theorem nibble_eq_seedBits (seed : Word) (j : Nat) : (seedBlock seed (j / 16)).toNat / 2 ^ (4 * (j % 16)) % 16 =
    ((List.range 4).map (fun k => if seedBit seed (4 * j + k) then 2 ^ k else 0)).sum := by
  generalize hx : seedBlock seed (j / 16) = x
  rw [nibble_eq_sum]
  refine congrArg List.sum (List.map_congr_left fun k hk => ?_)
  have hk4 := List.mem_range.1 hk
  rw [seedBit, show (4 * j + k) / 64 = j / 16 by omega, show (4 * j + k) % 64 = 4 * (j % 16) + k by omega, hx,
    BitVec.testBit_toNat]

theorem seedComp_eq (hm : HvModel) (seed : Word) (j : Nat) : seedComp hm seed j = match hm with
    | .phase => ((List.range 4).map (fun k => if seedBit seed (4 * j + k) then 2 ^ k else 0)).sum
    | m => ofPlusMinus m (if seedBit seed j then 1 else -1) := by
  have hsign (b : Bool) : (if b then 1 else -1 : Int) = 1 ∨ (if b then 1 else -1 : Int) = -1 := by cases b <;> simp
  cases hm with
  | bsc => exact hvOfSign_eq (hm := .bsc) (hsign (seedBit seed j))
  | map => exact hvOfSign_eq (hm := .map) (hsign (seedBit seed j))
  | phase => exact nibble_eq_seedBits seed j

/-! ### Counters (R155) -/

/-- Two counters packed into a component are two lanes of half its width. -/
theorem packLanes_pairs {G : Nat → Nat} (hG : ∀ i, G i < 65536) : ∀ k start : Nat,
    packLanes 32 (((List.range' start k).map (fun j => packCounters [G (2 * j), G (2 * j + 1)])).map some) =
      packLanes 16 (((List.range' (2 * start) (2 * k)).map G).map some)
  | 0, _ => rfl
  | k + 1, start => by
    have ih := packLanes_pairs hG k (start + 1)
    have h1 := hG (2 * start)
    have h2 := hG (2 * start + 1)
    have hpack (w v : Nat) (l : List (Option Nat)) : packLanes w (some v :: l) =
        (v % 2 ^ w + 2 ^ w * (packLanes w l).1, 2 ^ w - 1 + 2 ^ w * (packLanes w l).2) := rfl
    rw [List.range'_succ, show 2 * (k + 1) = 2 * k + 1 + 1 by omega, List.range'_succ, List.range'_succ,
      show 2 * start + 1 + 1 = 2 * (start + 1) by omega]
    simp only [List.map_cons, hpack]
    rw [ih]
    simp only [packCounters, List.foldr_cons, List.foldr_nil]
    refine Prod.ext ?_ ?_ <;> dsimp only <;> omega

/-- The writes of packed counters, one by one. -/
theorem compWrites_counters (h : Hart) (hm : HvModel) {G : Nat → Nat} (hG : ∀ i, G i < 65536) (reg group start k n : Nat)
    (zero : Bool) : compWrites h reg group (16 * hm.counters) start ((List.range' start k).map (fun j =>
        packCounters ((List.range hm.counters).map (fun i => G (hm.counters * j + i))))) (16 * hm.counters * n) zero =
      compWrites h reg group 16 (hm.counters * start) ((List.range' (hm.counters * start) (hm.counters * k)).map G)
        (16 * (hm.counters * n)) zero := by
  have hone : compWrites h reg group (16 * 1) start ((List.range' start k).map (fun j =>
        packCounters ((List.range 1).map (fun i => G (1 * j + i))))) (16 * 1 * n) zero =
      compWrites h reg group 16 (1 * start) ((List.range' (1 * start) (1 * k)).map G) (16 * (1 * n)) zero := by
    simp [packCounters, List.range_succ]
  cases hm with
  | bsc => exact hone
  | map => exact hone
  | phase =>
    have hpairs := packLanes_pairs hG k start
    have hlist (j : Nat) : (List.range 2).map (fun i => G (2 * j + i)) = [G (2 * j), G (2 * j + 1)] := rfl
    simp only [HvModel.counters, hlist]
    rw [compWrites, compWrites, show 16 * 2 = 32 from rfl, hpairs, show 32 * start = 16 * (2 * start) by omega,
      show 32 * n = 16 * (2 * n) by omega]

theorem counters_eq (hm : HvModel) : hm.counters = if hm = .phase then 2 else 1 := by cases hm <;> rfl

section
variable {s : State} {t : VType} (h : VectorIssuing s t) (hg : counterGroup s.hart t ≤ 32)
include h hg

/-- A word over counters leaves them one by one. -/
theorem VectorIssuing.countersEnded {d : BitVec 5} {r : Result} {x : Hart} {G : Nat → Nat} {zero : Bool}
    (hd : d.toNat % counterGroup s.hart t = 0) (hstart : startOf s ≤ t.dim) (lat : Timing)
    (hr : r.state = s.mapHart fun _ => x) (hx : x = { s.hart with cs := x.cs }) (hi : x.cs.instret = s.hart.cs.instret)
    (hvl : x.cs.vl = s.hart.cs.vl) (hG : ∀ i, G i < 65536)
    (hws : r.writes = compWrites s.hart d.toNat (counterGroup s.hart t) (16 * t.hm.counters) (startOf s)
      ((List.range' (startOf s) (t.dim - startOf s)).map (fun j =>
        packCounters ((List.range t.hm.counters).map (fun i => G (t.hm.counters * j + i))))) (16 * t.hm.counters * t.dim) zero) :
    ComponentsWritten s (written lat r) d.toNat (counterGroup s.hart t) 16 (t.hm.counters * t.dim)
      (t.hm.counters * startOf s) zero G ∧
    (written lat r).hart.cs.vflags = x.cs.vflags ∧ (written lat r).hart.cs.first = x.cs.first := by
  have hp : 0 < t.hm.counters := by cases t.hm <;> decide
  rw [compWrites_counters _ _ hG, Nat.mul_sub] at hws
  exact componentsWritten_of h.issuing lat hr hx hi hvl hws (group_inside (counterGroup_of hg).1 hd) (by decide)
    (Nat.mul_pos hp (dim_pos t)).ne' (Nat.mul_le_mul_left _ hstart)

/-- HCLR zeroes the counters and the bits above them. -/
theorem execHclr_zeroes {d : BitVec 5} (hd : d.toNat % counterGroup s.hart t = 0) (hstart : startOf s ≤ t.dim) :
    ∃ r, execHclr d s = .next r ∧ ComponentsWritten s r d.toNat (counterGroup s.hart t) 16 (t.hm.counters * t.dim)
      (t.hm.counters * startOf s) true (fun _ => 0) ∧ SameFlags s r := by
  have heq := h.componentWise d.toNat (counterGroup s.hart t) (16 * t.hm.counters) true (fun _ => 0)
  have hzero (j : Nat) : 0 = packCounters ((List.range t.hm.counters).map (fun i => (fun _ => 0) (t.hm.counters * j + i))) := by
    cases t.hm <;> rfl
  have hended : Ended (execHclr d s)
      (componentWise s t d.toNat (counterGroup s.hart t) (16 * t.hm.counters) true (fun _ => 0)) :=
    h.vectorOp rfl (counterFits_of hg hd) (by rw [heq]; exact ⟨rfl, h.issuing.untimed⟩)
  obtain ⟨lat, ho⟩ := hended.congr heq
  obtain ⟨hc, hflags, hfirst⟩ := h.countersEnded hg (r := ⟨s, _, none⟩) (x := s.hart) (G := fun _ => 0) (zero := true) hd hstart lat
    rfl rfl rfl rfl (fun _ => by omega) (congrArg (fun f => compWrites s.hart d.toNat (counterGroup s.hart t)
      (16 * t.hm.counters) (startOf s) ((List.range' (startOf s) (t.dim - startOf s)).map f) (16 * t.hm.counters * t.dim) true)
      (funext hzero))
  exact ⟨_, ho, hc, hflags, hfirst⟩

end

/-! ### HBACC (R48, R155) -/

/-- What a component of unit weight adds to counter `i` (R155). -/
def counterStep (hm : HvModel) (x : Nat → Nat) (i : Nat) : Int :=
  if hm = .phase then (if i % 2 = 0 then cosTable (x (i / 2)) else cosTable (x (i / 2) + 12)) else plusMinus hm (x i)

theorem counterAdds_eq {hm : HvModel} {x : Nat → Nat} {j : Nat} (hx : x j < 2 ^ hm.width) :
    counterAdds hm (x j) = (List.range hm.counters).map (fun i => counterStep hm x (hm.counters * j + i)) := by
  cases hm with
  | bsc =>
    have hs : hvSign .bsc (x j) = plusMinus .bsc (x j) := hvSign_eq hx
    simp [counterAdds, HvModel.counters, List.range_succ, counterStep, hs]
  | map =>
    have hs : hvSign .map (x j) = plusMinus .map (x j) := hvSign_eq hx
    simp [counterAdds, HvModel.counters, List.range_succ, counterStep, hs]
  | phase =>
    have h0 : (2 * j + 1) / 2 = j := by omega
    simp [counterAdds, HvModel.counters, List.range_succ, counterStep, sinTable, h0]

/-- An exact counter clamped to 16 bits. -/
def clamped16 (v : Int) : Nat := (BitVec.ofInt 16 (max (-32768) (min 32767 v))).toNat

theorem clamped16_lt (v : Int) : clamped16 v < 65536 := (BitVec.ofInt 16 (max (-32768) (min 32767 v))).isLt

theorem assignInteger_counter (v : Int) :
    assignInteger true true 16 v = (clamped16 v, if v < -32768 ∨ 32767 < v then flagSAT else 0) := by
  have hmin : minInteger true 16 = -32768 := by decide
  have hmax : maxInteger true 16 = 32767 := by decide
  rw [assignInteger, if_pos rfl, clampInteger, hmin, hmax, clamped16]
  dsimp only
  rw [lowBits_eq]
  by_cases hlo : v < -32768
  · simp [hlo, show max (-32768) (min 32767 v) = -32768 by omega]
  · by_cases hhi : 32767 < v
    · simp [hlo, hhi, show max (-32768) (min 32767 v) = 32767 by omega]
    · simp [hlo, hhi, show max (-32768) (min 32767 v) = v by omega]

section
variable {s : State} {t : VType} {d a : BitVec 5} {w : Int}

/-- Counter `i` with the weighted reading of its component added, exactly. -/
def exactCounter (h : Hart) (t : VType) (d a : BitVec 5) (w : Int) (i : Nat) : Int :=
  (BitVec.ofNat 16 (element h d.toNat 16 i)).toInt + w * counterStep t.hm (element h a.toNat t.hm.width) i

/-- The counter would leave its 16 bits. -/
def overflows (v : Int) : Bool := decide (v < -32768 ∨ 32767 < v)

theorem addCounters_eq {h : Hart} {j : Nat} (hfit : t.dim * t.hm.width ≤ regBits h * t.group)
    (hg : counterGroup h t ≤ 32) (hj : j < t.dim) : addCounters h t d a w j =
    (packCounters ((List.range t.hm.counters).map (fun i => clamped16 (exactCounter h t d a w (t.hm.counters * j + i)))),
      ((List.range t.hm.counters).map (fun i =>
        if overflows (exactCounter h t d a w (t.hm.counters * j + i)) then flagSAT else 0)).foldl (fun f x => f ||| x) 0) := by
  have hcount : countersOf h t d j = (List.range t.hm.counters).map (fun i =>
      (BitVec.ofNat 16 (element h d.toNat 16 (t.hm.counters * j + i))).toInt) := by
    refine List.map_congr_left fun i hi => counterAt_eq d hg ?_
    have := Nat.mul_le_mul_left t.hm.counters hj
    have := List.mem_range.1 hi
    rw [Nat.mul_succ] at *
    omega
  have hadds := counterAdds_eq (hm := t.hm) (x := element h a.toNat t.hm.width) (element_lt h a.toNat t.hm.width j)
  rw [addCounters, hcount, hvComp_eq a hfit hj, hadds, List.zip_map']
  simp only [List.map_map, List.foldl_map, Function.comp_def, assignInteger_counter, overflows, decide_eq_true_eq]
  rfl

theorem getLsbD_flagSAT (k : Nat) : flagSAT.getLsbD k = (k == 5) := by
  by_cases hk : k < 6
  · interval_cases k <;> rfl
  · rw [BitVec.getLsbD_of_ge _ _ (by omega), eq_comm, beq_eq_false_iff_ne]
    omega

/-- SAT is raised where one of some counters overflows. -/
theorem getLsbD_foldl_sat (q : Nat → Bool) (l : List Nat) (k : Nat) :
    ((l.map (fun i => if q i then flagSAT else 0)).foldl (fun f x => f ||| x) 0).getLsbD k = (k == 5 && l.any q) := by
  have hacc (f : Flags) : ((l.map (fun i => if q i then flagSAT else 0)).foldl (fun f x => f ||| x) f).getLsbD k =
      (f.getLsbD k || (k == 5 && l.any q)) := by
    induction l generalizing f with
    | nil => simp
    | cons x l ih =>
      rw [List.map_cons, List.foldl_cons, ih, BitVec.getLsbD_or, List.any_cons]
      cases q x
      · simp
      · cases hk : (k == 5) <;> simp [getLsbD_flagSAT, hk]
  simpa using hacc 0

/-- The lowest index that raises a flag, where places that rise with their number raise it. -/
theorem first_eq_find_key {rs : Raised} {n k : Nat} {key : Nat → Nat} {q : Nat → Bool} (hkey : Monotone key)
    (hn : ∀ m < n, key m ≤ 2 ^ 64 - 1) (h : ∀ i, Raises rs i k ↔ ∃ m < n, q m = true ∧ key m = i) :
    rs.first k = (((List.range n).find? q).map key).getD (2 ^ 64 - 1) := by
  refine eq_of_forall_ge_iff fun c => ?_
  rw [first_le_iff]
  simp only [h]
  cases hf : (List.range n).find? q with
  | none =>
    have hno : ∀ m, m < n → q m ≠ true := by simpa using hf
    constructor
    · rintro (hc | ⟨i, -, m, hm, hq, -⟩)
      · exact hc
      · exact absurd hq (hno m hm)
    · exact .inl
  | some x =>
    obtain ⟨hx, hmem, hlow⟩ := List.find?_range_eq_some.1 hf
    have hxn := List.mem_range.1 hmem
    rw [Option.map_some, Option.getD_some]
    constructor
    · rintro (hc | ⟨i, hi, m, -, hq, rfl⟩)
      · exact (hn x hxn).trans hc
      · refine (hkey ?_).trans hi
        by_contra hlt
        have := hlow m (by omega)
        simp [hq] at this
    · exact fun hc => .inr ⟨key x, hc, x, hxn, hx, rfl⟩

/-- The components that HBACC does, each with the flags it raises. -/
def accRaised (s : State) (t : VType) (d a : BitVec 5) (w : Int) : Raised :=
  ((List.range' (startOf s) (t.dim - startOf s)).map (fun j => (j, (addCounters s.hart t d a w j).2))).filter (fun x => x.2 != 0)

/-- Counter `i` is done and overflows. -/
def saturates (s : State) (t : VType) (d a : BitVec 5) (w : Int) (i : Nat) : Bool :=
  decide (t.hm.counters * startOf s ≤ i ∧ (exactCounter s.hart t d a w i < -32768 ∨ 32767 < exactCounter s.hart t d a w i))

theorem counters_pos (hm : HvModel) : 0 < hm.counters := by cases hm <;> decide

theorem raises_accRaised (hfit : t.dim * t.hm.width ≤ regBits s.hart * t.group) (hg : counterGroup s.hart t ≤ 32) (i k : Nat) :
    Raises (accRaised s t d a w) i k ↔ ∃ m < t.hm.counters * t.dim, (k == 5 && saturates s t d a w m) = true ∧
      m / t.hm.counters = i := by
  have hp := counters_pos t.hm
  have hflag {j : Nat} (hj : j < t.dim) : (addCounters s.hart t d a w j).2.getLsbD k =
      (k == 5 && (List.range t.hm.counters).any (fun i => overflows (exactCounter s.hart t d a w (t.hm.counters * j + i)))) := by
    rw [addCounters_eq hfit hg hj, getLsbD_foldl_sat]
  constructor
  · rintro ⟨f, hf, hk⟩
    obtain ⟨hmem, -⟩ := List.mem_filter.1 hf
    obtain ⟨j, hj, he⟩ := List.mem_map.1 hmem
    obtain ⟨rfl, rfl⟩ := Prod.mk.inj he
    obtain ⟨hlo, hhi⟩ := List.mem_range'_1.1 hj
    have hjd : j < t.dim := by omega
    rw [hflag hjd, Bool.and_eq_true, List.any_eq_true] at hk
    obtain ⟨h5, q, hq, hover⟩ := hk
    have hqp := List.mem_range.1 hq
    have hstart := Nat.mul_le_mul_left t.hm.counters hlo
    have hend := Nat.mul_le_mul_left t.hm.counters hjd
    rw [Nat.mul_succ] at hend
    refine ⟨t.hm.counters * j + q, by omega, ?_, ?_⟩
    · rw [h5, Bool.true_and, saturates, decide_eq_true_iff]
      exact ⟨by omega, of_decide_eq_true hover⟩
    · rw [Nat.mul_add_div hp, Nat.div_eq_of_lt hqp, Nat.add_zero]
  · rintro ⟨m, hm, hk, rfl⟩
    rw [Bool.and_eq_true, saturates, decide_eq_true_iff] at hk
    obtain ⟨h5, hlo, hover⟩ := hk
    have hjd : m / t.hm.counters < t.dim := Nat.div_lt_of_lt_mul hm
    have hjs : startOf s ≤ m / t.hm.counters := (Nat.le_div_iff_mul_le hp).2 (by rw [Nat.mul_comm]; exact hlo)
    have hbit : (addCounters s.hart t d a w (m / t.hm.counters)).2.getLsbD k = true := by
      rw [hflag hjd, h5, Bool.true_and, List.any_eq_true]
      refine ⟨m % t.hm.counters, List.mem_range.2 (Nat.mod_lt _ hp), ?_⟩
      rw [Nat.div_add_mod]
      exact decide_eq_true hover
    refine ⟨_, List.mem_filter.2 ⟨List.mem_map.2 ⟨m / t.hm.counters, List.mem_range'_1.2 ⟨hjs, by omega⟩, rfl⟩, ?_⟩, hbit⟩
    rw [bne_iff_ne]
    intro h0
    dsimp only at h0
    simp [h0] at hbit

theorem counters_le (hg : counterGroup s.hart t ≤ 32) : t.hm.counters * t.dim ≤ 2 ^ 64 - 1 := by
  have hbits := (counterGroup_of hg).2
  have hregs := Nat.mul_le_mul (regBits_le s.hart) hg
  have hcount : t.counterBits = 16 * (t.hm.counters * t.dim) := Nat.mul_assoc _ _ _
  omega

/-- HBACC raises SAT where a counter that it does overflows, and no other flag. -/
theorem union_accRaised (hfit : t.dim * t.hm.width ≤ regBits s.hart * t.group) (hg : counterGroup s.hart t ≤ 32) (k : Nat) :
    (accRaised s t d a w).union.getLsbD k = (k == 5 && (List.range (t.hm.counters * t.dim)).any (saturates s t d a w)) := by
  rw [Bool.eq_iff_iff, union_getLsbD_iff, Bool.and_eq_true, List.any_eq_true]
  simp only [raises_accRaised hfit hg, List.mem_range, Bool.and_eq_true]
  constructor
  · rintro ⟨-, m, hm, ⟨h5, hs⟩, -⟩
    exact ⟨h5, m, hm, hs⟩
  · rintro ⟨h5, m, hm, hs⟩
    exact ⟨_, m, hm, ⟨h5, hs⟩, rfl⟩

/-- The lowest component of which HBACC clamps a counter. -/
theorem first_accRaised (hfit : t.dim * t.hm.width ≤ regBits s.hart * t.group) (hg : counterGroup s.hart t ≤ 32) (k : Nat) :
    BitVec.ofNat 64 ((accRaised s t d a w).first k) =
      match (if k = 5 then (List.range (t.hm.counters * t.dim)).find? (saturates s t d a w) else none) with
      | some i => BitVec.ofNat 64 (i / t.hm.counters)
      | none => BitVec.allOnes 64 := by
  rw [first_eq_find_key (key := (· / t.hm.counters)) (fun _ _ => Nat.div_le_div_right)
    (fun m hm => (Nat.div_le_self _ _).trans (hm.le.trans (counters_le hg))) (fun i => raises_accRaised hfit hg i k)]
  by_cases h5 : k = 5
  · subst h5
    simp only [beq_self_eq_true, Bool.true_and, if_true]
    cases (List.range (t.hm.counters * t.dim)).find? (saturates s t d a w) <;> rfl
  · have hk : (k == 5) = false := beq_eq_false_iff_ne.2 h5
    have hnone : (List.range (t.hm.counters * t.dim)).find? (fun m => k == 5 && saturates s t d a w m) = none := by
      simp [hk]
    rw [hnone, if_neg h5]
    rfl

/-- HBACC adds the weighted reading of each component to its counters (R155). -/
theorem VectorIssuing.execHbacc (h : VectorIssuing s t) {b : BitVec 5}
    (hfit : t.dim * t.hm.width ≤ regBits s.hart * t.group) (hg : counterGroup s.hart t ≤ 32)
    (hd : d.toNat % counterGroup s.hart t = 0) (ha : a.toNat % t.group = 0) (hb : b.toNat < 16)
    (hapart : d.toNat + counterGroup s.hart t ≤ a.toNat ∨ a.toNat + t.group ≤ d.toNat) (hstart : startOf s ≤ t.dim)
    (hw : w = ((hRead s.hart b.toNat).setWidth 16).toInt) :
    ∃ r, Machine.execHbacc d a b s = .next r ∧
      ComponentsWritten s r d.toNat (counterGroup s.hart t) 16 (t.hm.counters * t.dim) (t.hm.counters * startOf s) false
        (fun i => clamped16 (exactCounter s.hart t d a w i)) ∧
      r.hart.cs.vflags = s.hart.cs.vflags ||| (accRaised s t d a w).union ∧
      r.hart.cs.first = partMinima s.hart (startOf s) (accRaised s t d a w) := by
  have hover : overlap d.toNat (counterGroup s.hart t) a.toNat t.group = false := by
    rw [overlap, decide_eq_false_iff_not]
    omega
  have hweight : toSigned 16 ((hRead s.hart b.toNat).toNat % 65536) = w := by
    rw [hw, show 65536 = 2 ^ 16 from rfl, toSigned_eq (w := 16) (by omega) (Nat.mod_lt _ (by omega))]
    congr 1
    refine BitVec.eq_of_toNat_eq ?_
    simp
  have hcomp := h.componentWise d.toNat (counterGroup s.hart t) (16 * t.hm.counters) false (fun j => (addCounters s.hart t d a w j).1)
  let x : Hart := noteFlags s.hart (startOf s) true (accRaised s t d a w)
  let r : Result := ⟨s.mapHart fun _ => x, compWrites s.hart d.toNat (counterGroup s.hart t) (16 * t.hm.counters) (startOf s)
    ((List.range' (startOf s) (t.dim - startOf s)).map (fun j => (addCounters s.hart t d a w j).1))
    (16 * t.hm.counters * t.dim) false, none⟩
  have hbody : Ended (Machine.execHbacc d a b s) r := by
    unfold Machine.execHbacc
    refine (h.vectorOp (isH_iff.2 hb) ?_ ?_).congr ?_
    · rw [counterFits_of hg hd, aligned_of ha, hover]
      rfl
    · dsimp only
      rw [hweight, hcomp]
      exact ⟨rfl, by rw [mapHart_hart, noteFlags_hstat, h.issuing.untimed]⟩
    · dsimp only
      rw [hweight, hcomp, stopOf_uncut h.issuing.uncut]
      rfl
  obtain ⟨lat, ho⟩ := hbody
  have hmap : (List.range' (startOf s) (t.dim - startOf s)).map (fun j => (addCounters s.hart t d a w j).1) =
      (List.range' (startOf s) (t.dim - startOf s)).map (fun j => packCounters ((List.range t.hm.counters).map (fun i =>
        clamped16 (exactCounter s.hart t d a w (t.hm.counters * j + i))))) := by
    refine List.map_congr_left fun j hj => ?_
    have := (List.mem_range'_1.1 hj).2
    rw [addCounters_eq hfit hg (by omega)]
  obtain ⟨hc, hflags, hfirst⟩ := h.countersEnded hg (r := r) (x := x) (G := fun i => clamped16 (exactCounter s.hart t d a w i))
    (zero := false) hd hstart lat rfl (noteFlags_eq ..) rfl rfl (fun _ => clamped16_lt _)
    (congrArg (fun l => compWrites s.hart d.toNat (counterGroup s.hart t) (16 * t.hm.counters) (startOf s) l
      (16 * t.hm.counters * t.dim) false) hmap)
  exact ⟨_, ho, hc, hflags, hfirst⟩

end

/-! ### HBTH (R155) -/

/-- The greatest of some numbers is at most `c` if each of them is. -/
theorem foldl_max_le_iff (f : Nat → Int) (l : List Nat) (a c : Int) :
    l.foldl (fun m k => max m (f k)) a ≤ c ↔ a ≤ c ∧ ∀ k ∈ l, f k ≤ c := by
  induction l generalizing a with
  | nil => simp
  | cons x l ih => rw [List.foldl_cons, ih, max_le_iff, List.forall_mem_cons, and_assoc]

/-- A number of a list is the greatest if none is greater. -/
theorem eq_foldl_max_iff (f : Nat → Int) {k : Nat} (hk : k < 16) :
    (f k == (List.range 16).foldl (fun m k => max m (f k)) (f 0)) = (List.range 16).all (fun i => decide (f i ≤ f k)) := by
  have hle := (foldl_max_le_iff f (List.range 16) (f 0) _).1 le_rfl
  rw [Bool.eq_iff_iff, beq_iff_eq, List.all_eq_true]
  simp only [decide_eq_true_eq]
  constructor
  · intro he i hi
    rw [he]
    exact hle.2 i hi
  · intro hall
    refine le_antisymm (hle.2 k (List.mem_range.2 hk)) ((foldl_max_le_iff f _ _ _).2 ⟨hall 0 (by simp), hall⟩)

theorem threshold_phase (u v : Int) (y : Nat) : threshold .phase [u, v] y =
    match (List.range 16).filter (fun k => (List.range 16).all (fun i =>
      decide (u * cosTable i + v * cosTable (i + 12) ≤ u * cosTable k + v * cosTable (k + 12)))) with
    | [k] => k
    | _ => y := by
  have hfilter : (List.range 16).filter (fun k => u * cosTable k + v * sinTable k ==
      (List.range 16).foldl (fun m k => max m (u * cosTable k + v * sinTable k)) (u * cosTable 0 + v * sinTable 0)) =
      (List.range 16).filter (fun k => (List.range 16).all (fun i =>
        decide (u * cosTable i + v * cosTable (i + 12) ≤ u * cosTable k + v * cosTable (k + 12)))) :=
    List.filter_congr fun k hk => eq_foldl_max_iff (fun k => u * cosTable k + v * sinTable k) (List.mem_range.1 hk)
  refine Eq.trans ?_ (congrArg (fun l : List Nat => match l with
    | [k] => k
    | _ => y) hfilter)
  rfl

theorem threshold_sign {hm : HvModel} (hp : hm ≠ .phase) (c : Int) {y : Nat} (hy : y < 2 ^ hm.width) :
    threshold hm [c] y = ofPlusMinus hm (if 0 < c then 1 else if c < 0 then -1 else plusMinus hm y) := by
  have hsign : threshold hm [c] y =
      if 0 < c then hvOfSign hm 1 else if c < 0 then hvOfSign hm (-1) else hvOfSign hm (hvSign hm y) := by
    cases hm with
    | phase => exact absurd rfl hp
    | bsc => rfl
    | map => rfl
  rw [hsign, hvSign_eq hy, hvOfSign_eq (.inl rfl), hvOfSign_eq (.inr rfl), hvOfSign_eq (plusMinus_sign hm y)]
  split
  · rfl
  · split <;> rfl

/-- HBTH thresholds the counters of each component (R155). -/
theorem VectorIssuing.execHbth {s : State} {t : VType} (h : VectorIssuing s t) {d a b : BitVec 5}
    (hfit : t.dim * t.hm.width ≤ regBits s.hart * t.group) (hg : counterGroup s.hart t ≤ 32)
    (ha : a.toNat % counterGroup s.hart t = 0) (hd : d.toNat % t.group = 0) (hb : b.toNat % t.group = 0)
    (had : a.toNat + counterGroup s.hart t ≤ d.toNat ∨ d.toNat + t.group ≤ a.toNat)
    (hab : a.toNat + counterGroup s.hart t ≤ b.toNat ∨ b.toNat + t.group ≤ a.toNat) (hstart : startOf s ≤ t.dim)
    {g : Nat → Nat} (hgj : ∀ j < t.dim, threshold t.hm ((List.range t.hm.counters).map (fun i =>
      (BitVec.ofNat 16 (element s.hart a.toNat 16 (t.hm.counters * j + i))).toInt)) (element s.hart b.toNat t.hm.width j) = g j) :
    ∃ r, Machine.execHbth d a b s = .next r ∧
      ComponentsWritten s r d.toNat t.group t.hm.width t.dim (startOf s) true g ∧ SameFlags s r := by
  have hover {q : BitVec 5} (hq : a.toNat + counterGroup s.hart t ≤ q.toNat ∨ q.toNat + t.group ≤ a.toNat) :
      overlap a.toNat (counterGroup s.hart t) q.toNat t.group = false := by
    rw [overlap, decide_eq_false_iff_not]
    omega
  have heq : hvOp s t d (fun j => threshold t.hm (countersOf s.hart t a j) (hvComp s.hart t b j)) = _ :=
    h.componentWise d.toNat t.group t.hm.width true _
  have hended : Ended (Machine.execHbth d a b s)
      (hvOp s t d (fun j => threshold t.hm (countersOf s.hart t a j) (hvComp s.hart t b j))) := by
    unfold Machine.execHbth
    refine h.vectorOp rfl ?_ ?_
    · rw [counterFits_of hg ha, aligned_of hd, aligned_of hb, hover had, hover hab]
      rfl
    · rw [heq]
      exact ⟨rfl, h.issuing.untimed⟩
  refine h.hvEnded (hended.congr heq) hd hstart fun j hj => ?_
  have hcount : countersOf s.hart t a j = (List.range t.hm.counters).map (fun i =>
      (BitVec.ofNat 16 (element s.hart a.toNat 16 (t.hm.counters * j + i))).toInt) := by
    refine List.map_congr_left fun i hi => counterAt_eq a hg ?_
    have := Nat.mul_le_mul_left t.hm.counters hj
    have := List.mem_range.1 hi
    rw [Nat.mul_succ] at *
    omega
  rw [hcount, hvComp_eq b hfit hj, hgj j hj]

/-- Settles O40: the words over hypervectors by component, those over counters by counter. -/
theorem hypervectorWordsComplete : Obligations.HypervectorWordsComplete := by
  unfold Obligations.HypervectorWordsComplete
  intro s t d a b h hfit hstart hart n cb p gc start x y pm code c out fits apart
  have hfit' : t.dim * t.hm.width ≤ regBits s.hart * t.group := hfit
  have hp : p = t.hm.counters := (counters_eq t.hm).symm
  have hx (r : BitVec 5) (j : Nat) := element_lt s.hart r.toNat t.hm.width j
  have hc {r : BitVec 5} {j : Nat} (hj : j < t.dim) := hvComp_eq r hfit' hj
  have hout {i : Instr} {from_ : Nat} {f : Nat → Nat} (o : Outcome) (he : exec i s = o) (hr : ∃ r, o = .next r ∧
      ComponentsWritten s r d.toNat t.group t.hm.width t.dim from_ true f ∧ SameFlags s r) : out i from_ f := by
    rw [← he] at hr
    exact hr
  refine ⟨fun hd ha => ⟨fun hb => ⟨?_, ?_⟩, ?_, fun hb hapart => ⟨?_, ?_⟩⟩, fun hd ha => ?_, fun hg => ⟨fun hd => ?_,
    fun hd ha hb hapart => ?_, fun ha hd hb had hab => ?_⟩⟩
  · refine hout (i := .hbind d a b) (execHbind d a b s) rfl
      (h.hvWord rfl (all_aligned_triple hd ha hb) hd hstart fun j hj => ?_)
    rw [hc hj, hc hj]
    exact bindComp_eq (hx a j) (hx b j)
  · refine hout (i := .hunbind d a b) (execHunbind d a b s) rfl
      (h.hvWord rfl (all_aligned_triple hd ha hb) hd hstart fun j hj => ?_)
    rw [hc hj, hc hj]
    exact unbindComp_eq (hx a j) (hx b j)
  · refine hout (i := .hnot d a) (execHnot d a s) rfl (h.hvWord rfl (all_aligned_pair hd ha) hd hstart fun j hj => ?_)
    rw [hc hj]
    exact notComp_eq (hx a j)
  · refine hout (i := .hperm d a b) (execHperm d a b s) rfl (h.rotateWord hb hd ha hapart fun j hj => ?_)
    rw [hc (Nat.mod_lt _ (dim_pos t)), rotate_back (dim_pos t)]
    rfl
  · refine hout (i := .hpermn d a b) (execHpermn d a b s) rfl (h.rotateWord hb hd ha hapart fun j hj => ?_)
    rw [hc (Nat.mod_lt _ (dim_pos t)), Nat.add_mod_mod]
    rfl
  · intro block bit
    have hbit : bit = seedBit (hRead s.hart a.toNat) := funext fun j =>
      congrArg (BitVec.getLsbD · (j % 64)) (seedBlock_eq (hRead s.hart a.toNat) (j / 64)).symm
    rw [hbit]
    exact hout (i := .hgen d a) (execHgen d a s) rfl (h.hvWord (hvs := [d]) (isH_iff.2 ha) (by simp [aligned_of hd]) hd hstart
      fun j _ => seedComp_eq t.hm (hRead s.hart a.toNat) j)
  · obtain ⟨r, hr, hwritten, hsame⟩ := execHclr_zeroes h hg hd hstart
    rw [hp]
    exact ⟨r, hr, hwritten, hsame⟩
  · obtain ⟨r, hr, hwritten, hflags, hfirst⟩ := h.execHbacc (w := ((hRead s.hart b.toNat).setWidth 16).toInt) hfit' hg hd ha hb
      hapart hstart rfl
    intro w exact_
    have hsat : (fun i => decide (p * start ≤ i ∧ (exact_ i < -32768 ∨ 32767 < exact_ i))) = saturates s t d a w := by
      rw [hp]
      rfl
    refine ⟨r, hr, hp ▸ hwritten, fun k => ?_, fun k hk => ?_⟩
    · rw [hflags, BitVec.getLsbD_or, hsat, hp]
      exact congrArg _ (union_accRaised hfit' hg k)
    · rw [hsat, hp, hfirst, vget_partMinima _ _ _ hk, first_accRaised hfit' hg]
      rfl
  · refine hout (i := .hbth d a b) (execHbth d a b s) rfl (h.execHbth hfit' hg ha hd hb had hab hstart fun j hj => ?_)
    by_cases hm : t.hm = .phase
    · have h2 : t.hm.counters = 2 := by rw [hm]; rfl
      rw [h2, if_pos hm, congrArg threshold hm]
      exact threshold_phase _ _ _
    · have h1 : t.hm.counters = 1 := by rw [counters_eq, if_neg hm]
      rw [h1, if_neg hm, Nat.one_mul]
      exact threshold_sign hm _ (hx b j)

end Sys2Proof.Machine
end

section
/-!
LAW. The halt of harts and what follows for their contexts, and the events of contexts and functions (R206, R267 to R277,
R297, R327). Settles O49.
-/

namespace Sys2Proof.Machine

/-! ### What a hart is keeps, whatever its registers hold -/

/-- Whose work a hart does, and how far its life is. -/
def owner (h : Hart) : Nat × Word × Life := (h.asid, h.launch, h.life)

theorem owner_gWrite (h : Hart) (r : Nat) (v : Word) : owner (gWrite h r v) = owner h := by simp [owner]

theorem owner_hWrite (h : Hart) (r : Nat) (v : Word) : owner (hWrite h r v) = owner h := by simp [owner]

theorem owner_applyWrite (h : Hart) (w : RegWrite) : owner (applyWrite h w) = owner h := by
  unfold applyWrite
  cases w.reg with
  | g n => exact owner_gWrite ..
  | h n => exact owner_hWrite ..
  | v n => dsimp only; split <;> simp [owner]
  | m n => dsimp only; split <;> simp [owner]

theorem owner_commitEach (p : PendingWrite → Bool) (n : Nat) (h : Hart) : owner (commitEach p n h) = owner h := by
  induction n generalizing h with
  | zero => rfl
  | succ n ih =>
    rw [commitEach]
    split
    · rfl
    · exact (ih _).trans (owner_applyWrite ..)

/-- The scalar half of a hart that stops at a barrier (R147). -/
def settleScalarBar (h : Hart) : Hart :=
  match h.sc.barw with
  | none => h
  | some b =>
    if b.arrived then
      let h := gWrite h b.d b.settled
      { h with sc := { h.sc with pc := h.sc.pc + 4, barw := none }, cs := { h.cs with instret := h.cs.instret + 1 } }
    else { h with sc := { h.sc with barw := none } }

/-- The vector half. -/
def settleVectorBar (h : Hart) : Hart :=
  match h.ve.barw with
  | none => h
  | some b =>
    if b.arrived then
      let h := hWrite h b.d b.settled
      { h with ve := { h.ve with pc := h.ve.pc + 4, lastPos := qposOf h, barw := none },
               cs := { h.cs with instret := h.cs.instret + 1, hrpc := if b.p then regAddr 0 h.ve.pc else h.cs.hrpc } }
    else { h with ve := { h.ve with barw := none } }

theorem settleBarw_eq (h : Hart) : settleBarw h = settleVectorBar (settleScalarBar h) := rfl

theorem owner_settleBarw (h : Hart) : owner (settleBarw h) = owner h := by
  have hscalar : owner (settleScalarBar h) = owner h := by
    unfold settleScalarBar
    split
    · rfl
    · split
      · exact owner_gWrite ..
      · rfl
  have hvector (x : Hart) : owner (settleVectorBar x) = owner x := by
    unfold settleVectorBar
    split
    · rfl
    · split
      · exact owner_hWrite ..
      · rfl
  rw [settleBarw_eq, hvector, hscalar]

/-- Only the hart in focus may differ, and it does the same work. -/
structure KeepsOwners (s t : State) : Prop where
  parked : t.parked = s.parked
  owner : owner t.hart = owner s.hart

section
variable {s t u : State}

theorem KeepsOwners.refl (s : State) : KeepsOwners s s := ⟨rfl, rfl⟩

theorem KeepsOwners.trans (h : KeepsOwners s t) (h' : KeepsOwners t u) : KeepsOwners s u :=
  ⟨h'.parked.trans h.parked, h'.owner.trans h.owner⟩

theorem OnlyAccess.owners (h : OnlyAccess s t) : KeepsOwners s t :=
  ⟨(congrArg State.parked h :), congrArg Machine.owner h.hart⟩

theorem keepsOwners_mapHart (s : State) {f : Hart → Hart} (h : owner (f s.hart) = owner s.hart) : KeepsOwners s (s.mapHart f) :=
  ⟨rfl, h⟩

theorem keepsOwners_chargeCommands (s : State) : KeepsOwners s s.chargeCommands := by
  refine ⟨?_, congrArg owner (chargeCommands_hart s)⟩
  refine foldl_keeps (P := fun t : State => t.parked = s.parked) rfl fun t c ht => ?_
  unfold State.chargeCommand State.chargeCycles
  split
  · exact ht
  · split
    · exact ht
    · split
      · rw [chargeTurn_parked, ht]
      · exact ht

theorem keepsOwners_abandonLanes (s : State) : KeepsOwners s s.abandonLanes := by
  unfold State.abandonLanes
  dsimp only
  split
  · split <;> exact ⟨rfl, rfl⟩
  · exact ⟨rfl, rfl⟩

theorem keepsOwners_loseTile (s : State) (k : CmdKind) (t : Nat) : KeepsOwners s (s.loseTile k t) := by
  refine ⟨rfl, ?_⟩
  have hlose (b : Nat) : owner (loseContents s.hart k t b) = owner s.hart := by
    unfold loseContents
    split <;> rfl
  exact hlose _

theorem keepsOwners_releaseRegion (s : State) : KeepsOwners s s.releaseRegion := by
  unfold State.releaseRegion State.credit
  split
  · exact .refl s
  · dsimp only
    split <;> exact ⟨rfl, rfl⟩

theorem keepsOwners_abortRegion (s : State) : KeepsOwners s s.abortRegion := by
  unfold State.abortRegion
  split
  · exact .refl s
  · dsimp only
    have hlost (q : List EngCmd) (t : State) : KeepsOwners t
        (q.foldl (fun s c => c.kind.tiles.foldl (fun s t => s.loseTile c.kind t) s) t) :=
      foldl_keeps (P := KeepsOwners t) (.refl t) fun _ c hs =>
        foldl_keeps hs fun v x hv => hv.trans (keepsOwners_loseTile v c.kind x)
    refine KeepsOwners.trans ?_ (keepsOwners_releaseRegion _)
    refine (((keepsOwners_abandonLanes s).trans (keepsOwners_chargeCommands _)).trans (hlost s.hart.tl.queue _)).trans ?_
    exact ⟨rfl, owner_commitEach ..⟩

theorem keepsOwners_stopBoth (s : State) : KeepsOwners s s.stopBoth := by
  have hsides (t : State) : KeepsOwners t (t.mapHart stopSides) := ⟨rfl, owner_settleBarw _⟩
  unfold State.stopBoth
  dsimp only
  split
  · exact ((onlyAccess_l1Flush s _).trans (onlyAccess_l2Flush _ _)).owners.trans (hsides _)
  · exact hsides s

theorem keepsOwners_owe (s : State) (p : Payer) : KeepsOwners s (s.owe p) := by
  rw [owe_eq]
  exact ⟨rfl, rfl⟩

/-- The hart in focus is Halted, and no other hart changes. -/
theorem haltHart_effect (s : State) : s.haltHart.parked = s.parked ∧
    owner s.haltHart.hart = (s.hart.asid, s.hart.launch, s.hart.life.halt) := by
  have h := (((keepsOwners_stopBoth s).trans (keepsOwners_abortRegion _)).trans (keepsOwners_chargeCommands _)).trans
    (keepsOwners_owe _ { asid := s.hart.asid })
  obtain ⟨hparked, howner⟩ := h
  obtain ⟨hasid, hlaunch, hlife⟩ : _ ∧ _ ∧ _ := by simpa only [owner, Prod.mk.injEq] using howner
  exact ⟨hparked, Prod.ext hasid (Prod.ext hlaunch (congrArg Life.halt hlife))⟩

end

/-! ### Every hart of a kind is Halted (R54, R270) -/

section
variable {s t : State} {p : Hart → Bool}

theorem resident_lives {h : Hart} (hr : h.resident = true) : (h.life == .free) = false := by
  unfold Hart.resident at hr
  cases hl : h.life <;> simp_all

theorem not_resident_halt {h h' : Hart} (hh : h'.life = h.life.halt) : h'.resident = false := by
  unfold Hart.resident
  rw [hh]
  cases h.life <;> rfl

/-- The hart brought into focus is one that satisfies the test, and the harts are the same. -/
theorem focusBy_some (hp : ∀ h, p h = true → (h.life == .free) = false) (hf : s.focusBy p = some t) :
    p t.hart = true ∧ t.harts.Perm s.harts := by
  unfold State.focusBy at hf
  split at hf
  · next hc =>
    obtain rfl := Option.some.inj hf
    exact ⟨(Bool.and_eq_true_iff.1 hc).2, .refl _⟩
  · split at hf
    · next h hfind =>
      obtain rfl := Option.some.inj hf
      have hph := List.find?_some hfind
      refine ⟨hph, ?_⟩
      have hperm : s.parked.Perm (h :: s.parked.eraseP p) := by
        obtain ⟨-, l, r, hl, hno⟩ := List.find?_eq_some_iff_append.1 hfind
        rw [hl, List.eraseP_append_right _ fun b hb => by simpa using hno b hb, List.eraseP_cons_of_pos hph]
        exact List.perm_middle
      rw [State.harts, State.harts, if_neg (by simpa using hp h hph)]
      exact (List.perm_middle.symm.trans (hperm.symm.append_left _) :)
    · cases hf

theorem focusBy_none (hf : s.focusBy p = none) : ∀ h ∈ s.harts, p h = false := by
  unfold State.focusBy at hf
  split at hf
  · cases hf
  · next hc =>
    split at hf
    · cases hf
    · next hfind =>
      intro h hh
      rw [State.harts, List.mem_append] at hh
      obtain hh | hh := hh
      · split at hh
        · cases hh
        · next hl =>
          obtain rfl := List.mem_singleton.1 hh
          simpa [beq_eq_false_iff_ne.1 (Bool.eq_false_iff.2 hl)] using hc
      · simpa using List.find?_eq_none.1 hfind h hh

theorem harts_lives (h : (s.hart.life == .free) = false) : s.harts = s.hart :: s.parked := by
  rw [State.harts, h]
  rfl

/-- The harts once the one in focus is Halted. -/
theorem harts_haltHart (hr : t.hart.resident = true) :
    t.haltHart.harts = t.haltHart.hart :: t.parked ∧ t.haltHart.hart.resident = false := by
  obtain ⟨hparked, howner⟩ := haltHart_effect t
  simp only [owner, Prod.mk.injEq] at howner
  obtain ⟨-, -, hlife⟩ := howner
  refine ⟨?_, not_resident_halt hlife⟩
  rw [harts_lives, hparked]
  rw [hlife]
  have hlives := resident_lives hr
  cases hl : t.hart.life <;> simp_all [Life.halt]

variable (hp : ∀ h, p h = true → h.resident = true)
include hp

/-- A hart that is Halted is no longer one of those to be Halted. -/
theorem countP_haltHart (hf : s.focusBy p = some t) : t.haltHart.harts.countP p + 1 = s.harts.countP p := by
  obtain ⟨hpt, hperm⟩ := focusBy_some (fun h hh => resident_lives (hp h hh)) hf
  obtain ⟨hharts, hres⟩ := harts_haltHart (hp _ hpt)
  have hgone : ¬ p t.haltHart.hart = true := fun h => by
    rw [hp _ h] at hres
    cases hres
  rw [← hperm.countP_eq p, harts_lives (resident_lives (hp _ hpt)), hharts, List.countP_cons_of_neg hgone,
    List.countP_cons_of_pos hpt]

/-- With as much fuel as there are such harts, none is left. -/
theorem onHarts_haltHart_none (n : Nat) (s : State) (hn : s.harts.countP p ≤ n) :
    ∀ h ∈ (State.onHarts p State.haltHart n s).harts, p h = false := by
  induction n generalizing s with
  | zero =>
    intro h hh
    have h0 := List.countP_eq_zero.1 (Nat.le_zero.1 hn) h hh
    exact Bool.eq_false_iff.2 h0
  | succ n ih =>
    rw [State.onHarts]
    split
    · next t hf =>
      have hcount := countP_haltHart hp hf
      exact ih _ (by omega)
    · next hf => exact focusBy_none hf

/-- What holds of every hart that is not resident stays true of all harts as some are Halted. -/
theorem onHarts_haltHart_keeps {q : Hart → Prop} (hq : ∀ h, h.resident = false → q h) (n : Nat) (s : State)
    (hs : ∀ h ∈ s.harts, q h) : ∀ h ∈ (State.onHarts p State.haltHart n s).harts, q h := by
  induction n generalizing s with
  | zero => exact hs
  | succ n ih =>
    rw [State.onHarts]
    split
    · next t hf =>
      obtain ⟨hpt, hperm⟩ := focusBy_some (fun h hh => resident_lives (hp h hh)) hf
      obtain ⟨hharts, hres⟩ := harts_haltHart (hp _ hpt)
      refine ih _ fun h hh => ?_
      rw [hharts, List.mem_cons] at hh
      obtain rfl | hh := hh
      · exact hq _ hres
      · refine hs h (hperm.mem_iff.1 ?_)
        rw [harts_lives (resident_lives (hp _ hpt))]
        exact List.mem_cons_of_mem _ hh
    · exact hs

end

section
variable (s : State) (p : Hart → Bool)

theorem haltAll_halts : ∀ h ∈ (s.haltAll p).harts, p h = true → h.resident = false := by
  intro h hh hph
  have hnone := onHarts_haltHart_none (p := fun h => p h && h.resident) (fun h hh => (Bool.and_eq_true_iff.1 hh).2)
    s.harts.length s List.countP_le_length h hh
  simpa [hph] using hnone

theorem haltAll_keeps {q : Hart → Prop} (hq : ∀ h, h.resident = false → q h) (hs : ∀ h ∈ s.harts, q h) :
    ∀ h ∈ (s.haltAll p).harts, q h :=
  onHarts_haltHart_keeps (p := fun h => p h && h.resident) (fun _ hh => (Bool.and_eq_true_iff.1 hh).2) hq _ s hs

end

/-! ### What follows for contexts leaves the harts (R207, R269, R272) -/

/-- Every hart is as before. -/
def SameHarts (s t : State) : Prop := t.hart = s.hart ∧ t.parked = s.parked

section
variable {s t u : State}

theorem SameHarts.refl (s : State) : SameHarts s s := ⟨rfl, rfl⟩

theorem SameHarts.trans (h : SameHarts s t) (h' : SameHarts t u) : SameHarts s u :=
  ⟨h'.1.trans h.1, h'.2.trans h.2⟩

theorem SameHarts.harts (h : SameHarts s t) : t.harts = s.harts := by
  rw [State.harts, State.harts, h.1, h.2]

theorem sameHarts_raise (s : State) (fn : Option Nat) (v : Nat) : SameHarts s (s.raise fn v) := by
  rw [raise_eq]
  exact ⟨rfl, rfl⟩

theorem sameHarts_record (s : State) (a : Nat) (r : FaultRecord) : SameHarts s (s.record a r) := by
  refine ⟨record_hart s a r, ?_⟩
  unfold State.record State.raiseFor State.raise
  dsimp only
  split
  · rfl
  · split
    · split
      · split <;> rfl
      · split <;> rfl
      · rfl
    · rfl

theorem sameHarts_records (s : State) (l : List FaultRecord) (a : Nat) :
    SameHarts s (l.foldl (fun s r => s.record a r) s) :=
  foldl_keeps (P := SameHarts s) (.refl s) fun u r hu => hu.trans (sameHarts_record u a r)

theorem sameHarts_settleContext (s : State) (a : Nat) : SameHarts s (s.settleContext a) := by
  refine ⟨settleContext_hart s a, ?_⟩
  unfold State.settleContext
  split
  · rfl
  · dsimp only
    split
    · rfl
    · split
      · rfl
      · split
        · split
          · exact (sameHarts_records s _ a).2
          · rfl
        · rfl

theorem harts_mapHarts {f : Hart → Hart} (hf : ∀ h, (f h).life = h.life) : (s.mapHarts f).harts = s.harts.map f := by
  rw [State.harts, State.harts, mapHarts_hart, mapHarts_parked, hf, List.map_append]
  split <;> rfl

/-- The hart does work of a VF. -/
def ofVf (s : State) (vf : Nat) (h : Hart) : Bool := s.fnOf h.asid == some (some vf)

/-- The check of a quota does nothing, or every hart of the VF is Halted, and some are marked so. -/
theorem quotaCheck_cases (s : State) (vf : Nat) :
    (s.quotaCheck vf = s ∧ (0 < s.left vf ∨ s.harts.filter (fun h => ofVf s vf h && h.resident) = [])) ∨
    ∃ f : Hart → Hart, (∀ h, f h = h ∨ f h = { h with quotaHalt := true }) ∧
      (s.quotaCheck vf).harts = (s.haltAll (ofVf s vf)).harts.map f := by
  unfold State.quotaCheck
  extract_lets mine first named asids u v w
  split
  · next hskip =>
    refine .inl ⟨rfl, ?_⟩
    simp only [Bool.or_eq_true, Bool.and_eq_true, decide_eq_true_eq, List.isEmpty_iff] at hskip
    exact hskip.imp_right And.left
  · refine .inr ⟨fun h => if first.any (·.uid == h.uid) then { h with quotaHalt := true } else h, fun h => ?_, ?_⟩
    · dsimp only
      split
      · exact .inr rfl
      · exact .inl rfl
    · have hv : SameHarts u v := foldl_keeps (P := SameHarts u) (.refl u) fun x a hx => hx.trans (sameHarts_record x a _)
      have hw : SameHarts v w := foldl_keeps (P := SameHarts v) (.refl v) fun x a hx =>
        (hx.trans (t := x) (u := x.mapCtx a _) ⟨rfl, rfl⟩).trans (sameHarts_settleContext _ a)
      rw [((hv.trans hw).trans (sameHarts_raise { w with spent := w.spent.filter (· != vf) } (some vf) 5)).harts]
      exact harts_mapHarts fun h => by split <;> rfl

/-- What holds of every hart that is not resident, whatever its quotaHalt, stays true as a quota is checked. -/
theorem quotaCheck_keeps {q : Hart → Prop} (hq : ∀ h, h.resident = false → q h)
    (hb : ∀ h, q h → q { h with quotaHalt := true }) {vf : Nat} (hs : ∀ h ∈ s.harts, q h) :
    ∀ h ∈ (s.quotaCheck vf).harts, q h := by
  obtain ⟨hsame, -⟩ | ⟨f, hf, hharts⟩ := quotaCheck_cases s vf
  · rw [hsame]
    exact hs
  · rw [hharts]
    intro h hh
    obtain ⟨x, hx, rfl⟩ := List.mem_map.1 hh
    have hqx := haltAll_keeps s (ofVf s vf) hq hs x hx
    obtain he | he := hf x <;> rw [he]
    · exact hqx
    · exact hb x hqx

/-- A VF whose quota is used up has no resident hart after the check. -/
theorem quotaCheck_halts {vf : Nat} (hleft : s.left vf ≤ 0) :
    ∀ h ∈ (s.quotaCheck vf).harts, s.fnOf h.asid = some (some vf) → h.resident = false := by
  obtain ⟨hsame, hskip⟩ | ⟨f, hf, hharts⟩ := quotaCheck_cases s vf
  · rw [hsame]
    intro h hh hfn
    have hmem := List.filter_eq_nil_iff.1 (hskip.resolve_left (by omega)) h hh
    simpa [ofVf, hfn] using hmem
  · rw [hharts]
    intro h hh
    obtain ⟨x, hx, rfl⟩ := List.mem_map.1 hh
    have hhalted := haltAll_halts s (ofVf s vf) x hx
    obtain he | he := hf x <;> rw [he] <;> exact fun hfn => hhalted (beq_iff_eq.2 hfn)

theorem quotaCheckFor_keeps {q : Hart → Prop} (hq : ∀ h, h.resident = false → q h)
    (hb : ∀ h, q h → q { h with quotaHalt := true }) {a : Nat} (hs : ∀ h ∈ s.harts, q h) :
    ∀ h ∈ (s.quotaCheckFor a).harts, q h := by
  unfold State.quotaCheckFor
  split
  · exact quotaCheck_keeps hq hb hs
  · exact hs

end

/-! ### PREEMPT (R269, R270, R272) -/

section
variable {s : State} {asid : Nat}

/-- The harts that a PREEMPT names. -/
def named (asid : Nat) (launch : Option Word) (h : Hart) : Bool :=
  h.asid == asid && (match launch with
    | some l => h.launch == l
    | none => true)

theorem named_iff (launch : Option Nat) (h : Hart) : named asid (launch.map word) h = true ↔ preempted asid launch h := by
  unfold named preempted
  cases launch with
  | none => simp
  | some l => simp [word]

theorem firstByWhere_none {l : List Hart} (h : firstByWhere l = none) : l = [] := by
  rw [firstByWhere, List.head?_eq_none_iff] at h
  exact List.eq_nil_of_length_eq_zero (by rw [← List.length_mergeSort, h]; rfl)

theorem sameHarts_lateRequest (s : State) (asid : Nat) (r : FaultRecord) : SameHarts s (lateRequest s asid r) := by
  unfold lateRequest
  split
  · exact sameHarts_record s asid r
  · exact ⟨rfl, rfl⟩

/-- No hart that a PREEMPT names is resident after it. -/
theorem preempt_halts (s : State) (asid : Nat) (launch : Option Word) :
    ∀ h ∈ (s.preempt asid launch).harts, named asid launch h = true → h.resident = false := by
  have hq (h : Hart) (hr : h.resident = false) : named asid launch h = true → h.resident = false := fun _ => hr
  unfold State.preempt
  extract_lets nm
  split
  · next hnone =>
    have hquiet : ∀ h ∈ s.harts, named asid launch h = true → h.resident = false := by
      intro h hh hn
      have hmem := List.filter_eq_nil_iff.1 (firstByWhere_none hnone) h hh
      simpa [show nm h = true from hn] using hmem
    split
    · rw [(sameHarts_lateRequest s asid _).harts]
      exact hquiet
    · exact hquiet
  · refine quotaCheckFor_keeps hq (fun _ hx => hx) ?_
    rw [(sameHarts_settleContext _ asid).harts]
    exact haltAll_halts s nm

end

/-! ### CONTEXT_CREATE, CONTEXT_BIND and CONTEXT_DESTROY (R267, R269) -/

section
variable {s t : State} {asid : Nat} {c : Context}

theorem ctx_asid (h : s.ctx? asid = some c) : c.asid = asid := by simpa using List.find?_some h

theorem ctx?_mapCtx_same {g : Context → Context} (hg : ∀ c, (g c).asid = c.asid) (h : s.ctx? asid = some c) :
    (s.mapCtx asid g).ctx? asid = some (g c) := by
  rw [ctx?_mapCtx hg, h, Option.map_some, if_pos (by simpa using ctx_asid h)]

theorem ctx?_mapCtx_other {g : Context → Context} (hg : ∀ c, (g c).asid = c.asid) {a : Nat} (ha : a ≠ asid) :
    (s.mapCtx asid g).ctx? a = s.ctx? a := by
  rw [ctx?_mapCtx hg]
  cases hc : s.ctx? a with
  | none => rfl
  | some c => rw [Option.map_some, if_neg (by simpa [ctx_asid hc] using ha)]

theorem createable (hnone : s.ctx? asid = none) (hlt : asid < 4096) :
    ¬ ((s.ctx? asid).isSome || decide (contextCount ≤ asid)) = true := by
  rw [hnone, decide_eq_false (by rw [contextCount]; omega)]
  exact Bool.false_ne_true

theorem execContextCreate_malformed {root : Word} {prio : BitVec 2} {reserved : Nat} (hnone : s.ctx? asid = none)
    (hlt : asid < 4096) (hbad : root.toNat % 2 ^ 20 ≠ 0 ∨ 2 ^ 48 ≤ root.toNat ∨ reserved ≠ 0) :
    execContextCreate asid root prio reserved s = .next { s with refusals := s.refusals ++ [asid] } := by
  have hbad' : (decide (reserved ≠ 0) || !rootOk root) = true := by
    simp only [rootOk, Bool.or_eq_true, Bool.not_eq_true', Bool.and_eq_false_iff, decide_eq_true_eq, decide_eq_false_iff_not,
      beq_eq_false_iff_ne]
    omega
  rw [execContextCreate, if_neg (createable hnone hlt), if_pos (by simpa using hbad')]

theorem execContextCreate_creates {root : Word} {prio : BitVec 2} (hnone : s.ctx? asid = none) (hlt : asid < 4096)
    (hal : root.toNat % 2 ^ 20 = 0) (hroot : root.toNat < 2 ^ 48) :
    ∃ t, execContextCreate asid root prio 0 s = .next t ∧
      t.ctx? asid = some { asid := asid, prio := prio, root := root.toNat } ∧ ∀ a, a ≠ asid → t.ctx? a = s.ctx? a := by
  have hok : rootOk root = true := by
    rw [rootOk, hal, decide_eq_true hroot]
    rfl
  rw [execContextCreate, if_neg (createable hnone hlt), if_neg (by simp [hok])]
  refine ⟨_, rfl, ?_, fun a ha => ?_⟩
  · rw [State.ctx?, List.find?_append, show s.contexts.find? (·.asid == asid) = none from hnone]
    simp
  · rw [State.ctx?, List.find?_append]
    simp [State.ctx?, Ne.symm ha]

theorem execContextBind_binds {fn : Option Nat} (h : s.ctx? asid = some c) (hstate : c.state = .created)
    (hfn : ∀ n, fn = some n → n < 1024) :
    execContextBind asid fn s = .next (s.mapCtx asid (fun c => { c with fn := some fn, state := .bound })) := by
  unfold execContextBind
  rw [h]
  cases fn with
  | none => simp [hstate]
  | some n => simp [hstate, hfn n rfl]

theorem contexts_scrambleLine (s : State) (line : Nat) : (scrambleLine s line).contexts = s.contexts := by
  unfold scrambleLine
  rfl

theorem contexts_scrambleLines (l : List Nat) (s : State) : (l.foldl scrambleLine s).contexts = s.contexts :=
  foldl_keeps (P := fun t : State => t.contexts = s.contexts) rfl fun t line ht => (contexts_scrambleLine t line).trans ht

theorem execContextDestroy_effect (h : s.ctx? asid = some c) (hstate : c.state = .created ∨ c.state = .bound) :
    ∃ t, execContextDestroy asid s = .next t ∧ t.ctx? asid = none ∧ (∀ e ∈ t.tlb, e.asid ≠ asid) ∧
      (c.held = [] → ∀ a, a ≠ asid → t.ctx? a = s.ctx? a) ∧
      (t.freed.find? (fun x => x.asid == asid)).map (fun x => (x.used, x.hcause, x.fault, x.state)) =
        some (c.used, c.hcause, c.fault, .free) := by
  have hgo : ¬ (!(c.state == .bound || c.state == .created)) = true := by
    obtain hs | hs := hstate <;> simp [hs]
  unfold execContextDestroy
  rw [h]
  dsimp only
  rw [if_neg hgo]
  refine ⟨_, rfl, ?_, fun e he => ?_, fun hheld a ha => ?_, ?_⟩
  · rw [State.ctx?, List.find?_eq_none]
    intro x hx
    simpa using (List.mem_filter.1 hx).2
  · simpa using (List.mem_filter.1 he).2
  · rw [hheld, List.foldl_nil, State.ctx?, contexts_scrambleLines]
    refine (find?_filter_ne (key := Context.asid) _ ha).trans ?_
    exact ctx?_mapCtx_other (g := fun c => { c with ranges := Vector.replicate 16 none, pend := [], held := [] })
      (fun _ => rfl) ha
  · rw [List.find?_cons_of_pos (by simpa using ctx_asid h)]
    rfl

end

/-! ### CONTEXT_SAVE_COMPLETE (R269, R273, R274) -/

section
variable {s t : State} {asid : Nat} {c : Context}

theorem ctx?_raise (s : State) (fn : Option Nat) (v a : Nat) : (s.raise fn v).ctx? a = s.ctx? a := by
  rw [raise_eq]
  rfl

theorem ctx?_raiseFor (s : State) (b pf vf a : Nat) : (s.raiseFor b pf vf).ctx? a = s.ctx? a := by
  unfold State.raiseFor
  split
  · exact ctx?_raise ..
  · exact ctx?_raise ..
  · rfl

/-- A record of a fault changes nothing of a context but its fault record. -/
theorem ctx?_record (r : FaultRecord) (h : s.ctx? asid = some c) :
    ∃ f, (s.record asid r).ctx? asid = some { c with fault := f } := by
  let f : FaultRecord := if c.fault.count = 0 then { r with count := 1 } else
    { c.fault with count := if c.fault.count = BitVec.allOnes 32 then c.fault.count else c.fault.count + 1 }
  have hrec : (s.record asid r).ctx? asid = (s.mapCtx asid (fun x => { x with fault :=
      if c.fault.count = 0 then { r with count := 1 } else
        { x.fault with count := if c.fault.count = BitVec.allOnes 32 then c.fault.count else c.fault.count + 1 } })).ctx? asid := by
    unfold State.record
    rw [h]
    dsimp only
    split
    · exact ctx?_raiseFor _ _ _ _ _
    · rfl
  exact ⟨f, hrec.trans (ctx?_mapCtx_same (fun _ => rfl) h)⟩

theorem ctx?_records (l : List FaultRecord) (h : s.ctx? asid = some c) :
    ∃ f, (l.foldl (fun s r => s.record asid r) s).ctx? asid = some { c with fault := f } := by
  induction l generalizing s c with
  | nil => exact ⟨_, h⟩
  | cons r l ih =>
    obtain ⟨f, hf⟩ := ctx?_record r h
    obtain ⟨f', hf'⟩ := ih hf
    exact ⟨f', hf'⟩

/-- A context all of whose harts are Halted and saved is SAVED, or goes on to be resumed. -/
theorem settleContext_saves (h : s.ctx? asid = some c) (hstate : c.state = .halting) (hsome : s.hartsOf asid ≠ [])
    (hall : ∀ x ∈ s.hartsOf asid, x.halted = true ∧ x.saved = true) :
    ((s.settleContext asid).ctx? asid).map (·.state) = some (if c.resume then .resuming else .saved) := by
  obtain ⟨f, hf⟩ := ctx?_records c.requests h
  unfold State.settleContext
  rw [h]
  dsimp only
  rw [if_neg (by simp [hstate]), if_neg (by simpa using hsome),
    if_pos (by simpa [hstate] using fun x hx => (hall x hx).1), if_pos (by simpa using fun x hx => (hall x hx).2),
    ctx?_mapCtx_same (g := fun c => { c with state := if c.resume then .resuming else .saved, resume := false, requests := [] })
      (fun _ => rfl) hf]
  rfl

theorem execContextSaveComplete_saves {at_ : Place} (hf : s.focusBy (fun h => h.place == at_ && h.halted && !h.saved) = some t)
    (hmay : maySave t t.hart = true) : execContextSaveComplete at_ s = .next
      (((t.mapHart (fun h => { h with saved := true })).owe ⟨t.hart.asid, t.hart.quotaHalt⟩).settleContext t.hart.asid) := by
  rw [execContextSaveComplete, hf]
  dsimp only
  rw [if_pos hmay]

theorem halted_lives {h : Hart} (hr : h.halted = true) : (h.life == .free) = false := by
  unfold Hart.halted at hr
  cases hl : h.life <;> simp_all

end

/-! ### CONTEXT_RESUME (R269, R277, R283) -/

section
variable {s : State} {asid : Nat} {c : Context} (h : s.ctx? asid = some c)
include h

theorem resumeContext_saved (hstate : c.state = .saved) : s.resumeContext asid =
    if mayResume s asid then continueResume (s.mapCtx asid (fun c => { c with state := .resuming })) asid else .ok s := by
  unfold State.resumeContext
  rw [h]
  dsimp only
  rw [hstate]

theorem resumeContext_halting (hstate : c.state = .halting) (hquota : s.exhausted asid = false) :
    s.resumeContext asid = .ok (s.mapCtx asid (fun c => { c with resume := true })) := by
  unfold State.resumeContext
  rw [h]
  dsimp only
  rw [hstate]
  dsimp only
  rw [hquota]
  rfl

theorem resumeContext_running (hstate : c.state = .running) : s.resumeContext asid =
    if partReady s asid then restoreContext (seatAll s asid) asid
    else .ok (if mayResume s asid && (s.hartsOf asid).any Hart.halted then s.mapCtx asid (fun c => { c with resume := true }) else s) := by
  unfold State.resumeContext
  rw [h]
  dsimp only
  rw [hstate]

end

/-! ### Functions and their quotas (R206, R326, R327) -/

section
variable {s t : State} {vf : Nat}

theorem left_setLeft (s : State) (vf z : Nat) (x : Int) : (s.setLeft vf x).left z = if z = vf then x else s.left z := by
  unfold State.setLeft State.left
  dsimp only
  split
  · next h =>
    rw [List.find?_cons_of_pos (by simp [h])]
    rfl
  · next h =>
    rw [List.find?_cons_of_neg (by simpa using Ne.symm h), find?_filter_ne (key := Prod.fst) _ h]

theorem addQuota_within {l n : Int} (hhi : l + n ≤ 2 ^ 63 * 1000 - 1) (hlo : -(2 ^ 63 * 1000 : Int) ≤ l + n) :
    addQuota l n = l + n := by
  rw [addQuota, if_neg (by omega), if_neg (by omega)]

theorem quotaCheck_idle (hquiet : ∀ h ∈ s.harts, s.fnOf h.asid = some (some vf) → h.resident = false)
    (hspent : s.spent.contains vf = false) : s.quotaCheck vf = s := by
  have hfirst : s.harts.filter (fun h => s.fnOf h.asid == some (some vf) && h.resident) = [] := by
    refine List.filter_eq_nil_iff.2 fun h hh => ?_
    by_cases hfn : s.fnOf h.asid = some (some vf)
    · simp [hquiet h hh hfn]
    · simp [hfn]
  unfold State.quotaCheck
  dsimp only
  rw [hfirst, if_pos (by simp only [List.isEmpty_nil, hspent, Bool.not_false, Bool.and_true, Bool.or_true])]

/-- A VF is enabled with no quota and no aperture context. -/
theorem execVfEnable_on (hvf : vf < 1024) (hoff : vf ∉ s.vfs)
    (hquiet : ∀ h ∈ s.harts, s.fnOf h.asid = some (some vf) → h.resident = false) :
    execVfEnable vf true s = .next { setHap s (some vf) 0 with
      vfs := vf :: s.vfs, quota := (vf, 0) :: s.quota.filter (fun x => x.1 != vf), spent := s.spent.filter (· != vf) } := by
  have hgo : ¬ (decide (1024 ≤ vf) || s.vfs.contains vf == true) = true := by simp [hoff, hvf]
  rw [execVfEnable, if_neg (by simpa using hgo)]
  dsimp only
  rw [if_pos rfl, quotaCheck_idle]
  · rfl
  · exact hquiet
  · simp

theorem execVfEnable_off (hvf : vf < 1024) (hon : vf ∈ s.vfs) :
    execVfEnable vf false s = .next { setHap s (some vf) 0 with vfs := s.vfs.filter (· != vf) } := by
  rw [execVfEnable, if_neg (by simp [hon, hvf])]
  rfl

theorem execQleftWrite_adds (hrdy : s.hub.devrdy = true) (hon : vf ∈ s.vfs) {v : Word}
    (hhi : s.left vf + v.toInt * 1000 ≤ 2 ^ 63 * 1000 - 1) (hlo : -(2 ^ 63 * 1000 : Int) ≤ s.left vf + v.toInt * 1000) :
    execQleftWrite (some vf) v s = (let u := s.setLeft vf (s.left vf + v.toInt * 1000)
      if 0 < s.left vf + v.toInt * 1000 then orLater u (eachOf State.resumeContext (quotaSaved u vf) u)
      else .next (u.quotaCheck vf)) := by
  rw [execQleftWrite, if_neg (by simp [hrdy, hon]), addQuota_within hhi hlo]
  dsimp only
  rw [left_setLeft, if_pos rfl]

/-- The registers of a queue at their reset values, and no other queue changes. -/
theorem queue_resetQueue (s : State) (q : Nat) :
    (resetQueue s q).queue q = { n := q, asid := (s.queue q).asid, state := ((resetQueue s q).queue q).state } ∧
    ∀ p, p ≠ q → (resetQueue s q).queue p = s.queue p := by
  let u := s.mapQueue q (fun x => { n := q, asid := (s.queue q).asid, state := x.state })
  have hu : u.queue q = { n := q, asid := (s.queue q).asid, state := (s.queue q).state } := queue_mapQueue_same s rfl
  have hset : (resetQueue s q).queue q = { u.queue q with state := stateOfQueue u q } :=
    queue_mapQueue_same u (f := fun x => { x with state := stateOfQueue u q }) (queue_n u q)
  refine ⟨by rw [hset, hu], fun p hp => ?_⟩
  exact (queue_mapQueue_other u (f := fun x => { x with state := stateOfQueue u q }) (queue_n u q) hp).trans
    (queue_mapQueue_other s (f := fun x => { n := q, asid := (s.queue q).asid, state := x.state }) rfl hp)

/-- The four queues of a VF reset. -/
def resetQueues (s : State) (b : Nat) : State := [0, 1, 2, 3].foldl (fun s i => resetQueue s (b + i)) s

theorem queue_resetQueues (s : State) (b : Nat) {i : Nat} (hi : i < 4) : (resetQueues s b).queue (b + i) =
    { n := b + i, asid := (s.queue (b + i)).asid, state := ((resetQueues s b).queue (b + i)).state } := by
  have hset (u : State) (q : Nat) := (queue_resetQueue u q).1
  have hother (u : State) {p q : Nat} (h : p ≠ q) := (queue_resetQueue u q).2 p h
  unfold resetQueues
  rw [List.foldl_cons, List.foldl_cons, List.foldl_cons, List.foldl_cons, List.foldl_nil]
  interval_cases i
  · rw [hother _ (show b + 0 ≠ b + 3 by omega), hother _ (show b + 0 ≠ b + 2 by omega), hother _ (show b + 0 ≠ b + 1 by omega)]
    exact hset s _
  · rw [hother _ (show b + 1 ≠ b + 3 by omega), hother _ (show b + 1 ≠ b + 2 by omega)]
    conv_lhs => rw [hset]
    rw [hother s (show b + 1 ≠ b + 0 by omega)]
  · rw [hother _ (show b + 2 ≠ b + 3 by omega)]
    conv_lhs => rw [hset]
    rw [hother _ (show b + 2 ≠ b + 1 by omega), hother s (show b + 2 ≠ b + 0 by omega)]
  · conv_lhs => rw [hset]
    rw [hother _ (show b + 3 ≠ b + 2 by omega), hother _ (show b + 3 ≠ b + 1 by omega), hother s (show b + 3 ≠ b + 0 by omega)]

/-- The quota of a VF taken to 0. -/
def quotaCleared (s : State) (vf : Nat) : State :=
  { s with quota := (vf, 0) :: s.quota.filter (fun x => x.1 != vf), spent := s.spent.filter (· != vf) }

theorem queue_quotaCleared (s : State) (vf q : Nat) : (quotaCleared s vf).queue q = s.queue q := rfl

theorem execFunctionLevelReset_resets {w : State} (hvf : vf < 1024)
    (hw : eachOf cancelContext ((s.contexts.filter (fun c => c.fn == some (some vf))).map (·.asid)) s = .ok w) :
    execFunctionLevelReset vf s = .next (quotaCleared (resetQueues w (4 * vf)) vf) := by
  rw [execFunctionLevelReset, if_neg (by omega)]
  dsimp only
  rw [hw]
  rfl

theorem left_of_quota {l : List (Nat × Int)} (h : s.quota = (vf, 0) :: l) : s.left vf = 0 := by
  unfold State.left
  rw [h, List.find?_cons_of_pos (by simp)]
  rfl

end

/-- Settles O49: contexts by what each event does to their records and harts, functions by their quota and queues. -/
theorem contextEventsTakeEffect : Obligations.ContextEventsTakeEffect := by
  unfold Obligations.ContextEventsTakeEffect
  intro s asid others
  refine ⟨fun root prio reserved hnone hlt => ⟨fun hal hroot hzero => ?_, fun hbad => ?_⟩, fun c hc => ?_, fun launch => ?_,
    fun at_ t c hf hmay hasid hc => ?_, fun counter t ht => ?_, fun vf hvf => ⟨fun hoff hquiet => ?_, fun hon => ?_,
    fun hrdy hon v => ?_, fun w hw => ?_⟩⟩
  · subst hzero
    obtain ⟨t, ht, hnew, hothers⟩ := execContextCreate_creates (prio := prio) hnone hlt hal hroot
    exact ⟨t, ht, hnew, hothers⟩
  · exact execContextCreate_malformed hnone hlt hbad
  · have hresume (g : Context → Context) (hg : ∀ c, (g c).asid = c.asid) : (s.mapCtx asid g).ctx? asid = some (g c) ∧
        others (s.mapCtx asid g) := ⟨ctx?_mapCtx_same hg hc, fun a ha => ctx?_mapCtx_other hg ha⟩
    have hexec : exec (.contextResume asid) s = orLater s (s.resumeContext asid) := rfl
    refine ⟨fun hstate fn hfn => ?_, fun hstate => ?_, fun hcr hbd => ?_, fun hstate hbar => ?_, fun hstate hquota hheld w hw => ?_,
      fun hstate hquota => ?_, fun hstate hmay hpart hhalted => ?_, fun hstate hpart w hw => ?_⟩
    · obtain ⟨hset, hothers⟩ := hresume (fun c => { c with fn := some fn, state := .bound }) fun _ => rfl
      exact ⟨_, execContextBind_binds hc hstate hfn, rfl, hset, hothers⟩
    · obtain ⟨t, ht, hgone, htlb, hheld, hfreed⟩ := execContextDestroy_effect hc hstate
      exact ⟨t, ht, hgone, htlb, hheld, hfreed⟩
    · rw [show exec (.contextDestroy asid) s = execContextDestroy asid s from rfl, execContextDestroy, hc]
      dsimp only
      rw [if_pos (by simp [hcr, hbd])]
    · have hmay : mayResume s asid = false := by
        rw [mayResume]
        obtain h | h := hbar <;> simp [h]
      rw [hexec, resumeContext_saved hc hstate, hmay]
      rfl
    · have hmay : mayResume s asid = true := by simp [mayResume, hquota, hheld]
      rw [hexec, resumeContext_saved hc hstate, if_pos hmay, hw]
      rfl
    · obtain ⟨hset, hothers⟩ := hresume (fun c => { c with resume := true }) fun _ => rfl
      refine ⟨_, ?_, rfl, hset, hothers⟩
      rw [hexec, resumeContext_halting hc hstate hquota]
      rfl
    · obtain ⟨hset, hothers⟩ := hresume (fun c => { c with resume := true }) fun _ => rfl
      obtain ⟨x, hx, hxa, hxh⟩ := hhalted
      have hany : (s.hartsOf asid).any Hart.halted = true :=
        List.any_eq_true.2 ⟨x, List.mem_filter.2 ⟨hx, beq_iff_eq.2 hxa⟩, hxh⟩
      refine ⟨_, ?_, rfl, hset, hothers⟩
      rw [hexec, resumeContext_running hc hstate, hpart, hmay, hany]
      rfl
    · rw [hexec, resumeContext_running hc hstate, if_pos hpart, hw]
      rfl
  · exact ⟨_, rfl, fun h hh hp => preempt_halts s asid _ h hh ((named_iff launch h).2 hp)⟩
  · obtain ⟨hpt, -⟩ := focusBy_some (fun h hh => halted_lives (by simp only [Bool.and_eq_true] at hh; exact hh.1.2)) hf
    simp only [Bool.and_eq_true] at hpt
    replace hpt := hpt.1.symm
    let u := (t.mapHart (fun h => { h with saved := true })).owe ⟨t.hart.asid, t.hart.quotaHalt⟩
    have hu : u.hart = { t.hart with saved := true } ∧ u.parked = t.parked ∧ u.contexts = t.contexts := by
      rw [show u = _ from owe_eq _ _]
      exact ⟨rfl, rfl, rfl⟩
    obtain ⟨huh, hup, huc⟩ := hu
    obtain ⟨hh, hp⟩ := sameHarts_settleContext u t.hart.asid
    refine ⟨_, execContextSaveComplete_saves hf hmay, hh.trans huh, hp.trans hup, fun hstate hrest => ?_⟩
    have hlife : (u.hart.life == .free) = false := by
      rw [huh]
      exact halted_lives hpt.1
    rw [← hasid] at hc hrest ⊢
    refine settleContext_saves (s := u) (by rw [State.ctx?, huc]; exact hc) hstate ?_ ?_
    · rw [State.hartsOf, harts_lives hlife, huh, List.filter_cons_of_pos (by simp)]
      exact List.cons_ne_nil _ _
    · intro x hx
      obtain ⟨hmem, hxa⟩ := List.mem_filter.1 hx
      rw [harts_lives hlife, huh, hup, List.mem_cons] at hmem
      obtain rfl | hmem := hmem
      · exact ⟨hpt.1, rfl⟩
      · exact hrest x hmem (beq_iff_eq.1 hxa)
  · rw [show exec (.cancellation asid counter) s = execCancellation asid counter s from rfl, execCancellation,
      show word counter = BitVec.ofNat 64 counter from rfl, ht]
  · refine ⟨_, execVfEnable_on hvf hoff hquiet, rfl, left_of_quota rfl, ?_⟩
    exact (hapOf_setHap s vf vf 0).trans (by rw [if_pos rfl]; rfl)
  · refine ⟨_, execVfEnable_off hvf hon, by simp, ?_⟩
    exact (hapOf_setHap s vf vf 0).trans (by rw [if_pos rfl]; rfl)
  · intro sum hhi hlo
    have hexec := execQleftWrite_adds hrdy hon hhi hlo
    refine ⟨s.setLeft vf sum, rfl, by rw [left_setLeft, if_pos rfl], fun z hz => by rw [left_setLeft, if_neg hz],
      fun hpos w hw => ?_, fun hneg => ?_⟩
    · refine hexec.trans ?_
      dsimp only
      rw [if_pos hpos, hw]
      rfl
    · refine ⟨(s.setLeft vf sum).quotaCheck vf, hexec.trans ?_, ?_⟩
      · dsimp only
        rw [if_neg (by omega)]
      · exact quotaCheck_halts (s := s.setLeft vf sum) (by rw [left_setLeft, if_pos rfl]; exact hneg)
  · refine ⟨_, execFunctionLevelReset_resets hvf hw, left_of_quota rfl, fun i hi => ?_⟩
    rw [queue_quotaCleared]
    exact queue_resetQueues w (4 * vf) hi

end Sys2Proof.Machine
end

section
/-!
LAW. A bank request that completes while a word of its hart is in the lanes (R49, R213): the model also takes the
flags of the request out of those that the word in the lanes is to take back if it does not end. Refutes O52.
-/

namespace Sys2Proof.Machine

/-- An element of a bank request that has raised NV, at location 0. -/
def flaggedItem : BankItem := { loc := 0, size := 4, before := 0, after := 0, flags := flagNV }

/-- A word in the lanes, at address 0, whose flag is NV. -/
def flaggedWord : LaneWord := ⟨0, 0, 0, Vector.replicate 6 0, Vector.replicate 6 0, 0, flagNV⟩

/-- A hart with such a word in its lanes and with one bank request under way, whose one element raised the same flag. -/
def flaggedState : State :=
  { hart := { life := .running, bank := [⟨[flaggedItem]⟩], ve := { inLanes := some flaggedWord } } }

/-- The flags that the word in the lanes of the hart in focus is to take back. -/
def takenBack (o : Outcome) : Option Flags :=
  match o with
  | .next t => t.hart.ve.inLanes.map (·.flags)
  | _ => none

theorem takenBack_bankRequestComplete : takenBack (exec (.bankRequestComplete ⟨0, 0, 0⟩) flaggedState) = some 0 := by
  decide +kernel

/-- Refutes O52: a hart's earliest bank request completes with NV in its flags while a word with NV in its flags is in the
hart's lanes. The model merges NV into VFLAGS and takes it out of the flags of the word in the lanes, so that it stands
whatever becomes of that word (R49); the statement gives every field of the state after the event, and has the word in the
lanes keep its flags. Its hypotheses do not exclude a word in the lanes. -/
theorem not_powerEventsTakeEffect : ¬ Obligations.PowerEventsTakeEffect := by
  unfold Obligations.PowerEventsTakeEffect
  rintro ⟨hlanes, -⟩
  obtain ⟨-, -, hrequest, -⟩ := hlanes flaggedState
  have h := hrequest ⟨0, 0, 0⟩ flaggedState ⟨[flaggedItem]⟩ [] rfl rfl
  have hflags := takenBack_bankRequestComplete
  rw [h] at hflags
  exact absurd hflags (by decide)

end Sys2Proof.Machine
end

section
/-!
LAW. What the accesses of bank words keep, how a word that walks over its elements ends, and the words of BANK (R124, R202,
R210 to R216). Settles O46.
-/

namespace Sys2Proof.Machine

/-! ### Accesses keep the hart in focus, the word at hand and the clock -/

/-- The hart in focus, the word at hand and the clock are as before. -/
structure SameFocus (s t : State) : Prop where
  hart : t.hart = s.hart
  issue : t.issue = s.issue
  clock : t.clock = s.clock

section
variable {s t u : State}

theorem SameFocus.refl (s : State) : SameFocus s s := ⟨rfl, rfl, rfl⟩

theorem SameFocus.trans (h : SameFocus s t) (h' : SameFocus t u) : SameFocus s u :=
  ⟨h'.hart.trans h.hart, h'.issue.trans h.issue, h'.clock.trans h.clock⟩

theorem OnlyAccess.sameFocus (h : OnlyAccess s t) : SameFocus s t := ⟨h.hart, h.issue, (congrArg State.clock h :)⟩

theorem sameFocus_markAccess (s : State) (l : Located) (k : AccessKind) (m : MarkKind) : SameFocus s (markAccess s l k m) :=
  (onlyMemory_markAccess s l k m).onlyAccess.sameFocus

theorem sameFocus_noteWriter (s : State) (stack line : Nat) (who : Option Nat) (mask : BitVec 128) :
    SameFocus s (s.noteWriter stack line who mask) := by
  unfold State.noteWriter
  split
  · exact .refl s
  · split
    · exact ⟨rfl, rfl, rfl⟩
    · exact .refl s

theorem sameFocus_clearPoison (s : State) (line : Nat) (mask : BitVec 128) : SameFocus s (s.clearPoison line mask) := by
  unfold State.clearPoison
  split
  · exact ⟨rfl, rfl, rfl⟩
  · exact .refl s

theorem sameFocus_homeWrite (s : State) (who : Option Nat) (stack a n v : Nat) :
    OkAll (SameFocus s) (s.homeWrite who stack a n v) := by
  unfold State.homeWrite
  dsimp only
  refine .ite (.ite .error (.ok ⟨rfl, rfl, rfl⟩)) ?_
  split
  · exact .error
  · next u hu =>
    have hs : OnlyAccess s u := (onlyAccess_l1Flush s _).trans (onlyAccess_guardWrite _ stack a n u hu)
    have hput := hs.trans (onlyMemory_putLine u stack (lineOf a) (BitVec.ofNat 1024 (v * 256 ^ (a % 128)))
      (byteMask (a % 128) n)).onlyAccess
    exact .ok (hput.sameFocus.trans ((sameFocus_noteWriter _ _ _ _ _).trans (sameFocus_clearPoison _ _ _)))

theorem sameFocus_l2Home (s : State) (stack line : Nat) : SameFocus s (s.l2Home stack line) :=
  (onlyAccess_l2Flush s _).sameFocus

theorem sameFocus_elemWrite (s : State) (who : Option Nat) (stack a n v : Nat) :
    OkAll (SameFocus s) (s.elemWrite who stack a n v) := by
  unfold State.elemWrite
  refine .ite ?_ (sameFocus_homeWrite s who stack a n v)
  exact .map (sameFocus_homeWrite _ who stack a n v) fun w hw =>
    (sameFocus_l2Home s _ _).trans (hw.trans (sameFocus_l2Home w _ _))

theorem sameFocus_pointWrite (s : State) (h : Hart) (mk : MarkKind) (va n v : Nat) :
    OkAll (SameFocus s) (pointWrite s h mk va n v) := by
  unfold pointWrite
  refine .after fun l => .after fun _ => ?_
  dsimp only
  have hw : OkAll (SameFocus s) (if mk == .gather then s.elemWrite (some h.uid) (h.place.core / 64) l.loc n v
      else s.homeWrite (some h.uid) (h.place.core / 64) l.loc n v) :=
    .ite (sameFocus_elemWrite s _ _ _ _ _) (sameFocus_homeWrite s _ _ _ _ _)
  split
  · exact .error
  · next u hu => exact .ok ((hw u hu).trans (sameFocus_markAccess u l .write mk))

theorem sameFocus_orderedWrite (s : State) (h : Hart) (mk : MarkKind) (va n v : Nat) :
    OkAll (SameFocus s) (orderedWrite s h mk va n v) := .after fun _ => sameFocus_pointWrite s h mk va n v

theorem sameFocus_elementRead (s : State) (mk : MarkKind) (w : Nat) (bit : Int) :
    OkAll (fun r => SameFocus s r.2) (elementRead s mk w bit) := by
  unfold elementRead
  refine .ite .error ?_
  exact .bind (onlyAccess_orderedRead s s.hart mk _ _) fun _ hr => .ok (OnlyAccess.sameFocus hr)

theorem sameFocus_elementWrite (s : State) (mk : MarkKind) (w : Nat) (bit : Int) (x : Nat) :
    OkAll (SameFocus s) (elementWrite s mk w bit x) := by
  unfold elementWrite
  refine .ite .error (.ite (sameFocus_orderedWrite s _ _ _ _ _) ?_)
  refine .after fun _ => .after fun l => .after fun _ => ?_
  have hr := (onlyAccess_homeRead s (s.hart.place.core / 64) l.loc 1).sameFocus
  exact fun u hu => hr.trans (sameFocus_orderedWrite _ _ _ _ _ _ u hu)

theorem SameFocus.ite {c : Prop} [Decidable c] (ht : SameFocus s t) (hu : SameFocus s u) : SameFocus s (if c then t else u) := by
  split
  · exact ht
  · exact hu

theorem sameFocus_notePage (s : State) (core asid va : Nat) (miss : Bool) : SameFocus s (notePage s core asid va miss) := by
  have e : Machine.notePage = Machine.notePage := rfl
  conv at e => rhs; delta Machine.notePage
  rw [e]
  beta_reduce
  generalize walk s (rootOf s asid) va = w
  cases w with
  | leaf at_ bits e => exact .ite (.refl s) ⟨rfl, rfl, rfl⟩
  | invalid => exact .refl s
  | malformed => exact .refl s
  | poisoned => exact .refl s
  | hole pa => exact .refl s

theorem sameFocus_noteRequest (s : State) (bit : Int) : SameFocus s (noteRequest s bit) :=
  .ite (.refl s) (sameFocus_notePage s _ _ _ _)

theorem sameFocus_noteWalk (s : State) (x : Trap) : SameFocus s (noteWalk s x) := by
  unfold noteWalk markAccessed
  dsimp only
  split <;> split <;> exact ⟨rfl, rfl, rfl⟩

/-! ### The accesses of bank words (R213, R214) -/

theorem sameFocus_gatherItem (s : State) (w : Nat) (bit : Int) : OkAll (fun r => SameFocus s r.2) (gatherItem s w bit) := by
  unfold gatherItem
  refine .ite .error (.map (sameFocus_elementRead s .gather w bit) fun r hr => ?_)
  exact hr.trans (sameFocus_noteRequest _ _)

theorem sameFocus_scatterItem (s : State) (w : Nat) (bit : Int) (v : Nat) :
    OkAll (fun r => SameFocus s r.2) (scatterItem s w bit v) := by
  unfold scatterItem
  exact .bind (sameFocus_elementWrite s .gather w bit v) fun u hu => .ok (hu.trans (sameFocus_noteRequest _ _))

theorem sameFocus_addLocate (s : State) (bit : Int) (n : Nat) (push : Bool) :
    OkAll (fun r => SameFocus s r.2) (addLocate s bit n push) := by
  unfold addLocate
  refine .after fun _ => .after fun l => .ite (.ite .error (.ok (sameFocus_noteRequest s bit))) ?_
  split
  · exact .error
  · next u hu =>
    have hs : OnlyAccess s u := (onlyAccess_l1Flush s _).trans (onlyAccess_guardWrite _ _ _ _ u hu)
    exact .ok (hs.sameFocus.trans ((sameFocus_markAccess u l _ .gather).trans (sameFocus_noteRequest _ bit)))

theorem sameFocus_addAt (s : State) (who : Option Nat) (stack loc : Nat) (e : ElemType) (sat : Bool) (x : Nat) :
    SameFocus s (addAt s who stack loc e sat x).2 := by
  unfold addAt
  split
  · exact ⟨rfl, rfl, rfl⟩
  · have hr := (onlyAccess_elemRead s stack loc (e.width / 8)).sameFocus
    dsimp only
    split
    · next u hu => exact hr.trans (sameFocus_elemWrite _ _ _ _ _ _ u hu)
    · exact hr

theorem sameFocus_acceptAdd (s : State) (h : Hart) (loc : Nat) (e : ElemType) (sat : Bool) (x : Nat) :
    SameFocus s (acceptAdd s h loc e sat x).2 := sameFocus_addAt s _ _ loc e sat x

theorem sameFocus_pushPair (s : State) (e : ElemType) (sat : Bool) (bit : Int) (x : Nat) :
    OkAll (fun r => SameFocus s r.2) (pushPair s e sat bit x) := by
  unfold pushPair
  refine .bind (sameFocus_addLocate s bit _ true) fun r hr => .ite (.ok hr) (.ok ?_)
  exact hr.trans (sameFocus_acceptAdd _ _ _ e sat x)

/-! ### The walk over a word's elements (R124) -/

section
variable {α : Type} {act : Nat → Bool} {f : State → Nat → Except Stop (α × State)}

theorem sameFocus_accessElements (hf : ∀ s i, OkAll (fun r => SameFocus s r.2) (f s i)) (l : List Nat) (s : State) :
    OkAll (fun r => SameFocus s r.2.2) (accessElements act f l s) := by
  induction l generalizing s with
  | nil => exact .ok (.refl s)
  | cons i l ih =>
    unfold accessElements
    split
    · split
      · next x t hx => exact .bind (ih t) fun _ hr => .ok ((hf s i _ hx).trans hr)
      · split
        · exact .ok (.refl s)
        · exact .error
      · exact .error
    · exact .bind (ih s) fun _ hr => .ok hr

/-- The results of a walk are as many as its elements, or those below the one that faults. -/
theorem length_accessElements (first : Nat) (n : Nat) (s : State) :
    OkAll (fun r => (r.2.1 = none → r.1.length = n) ∧ ∀ k x, r.2.1 = some (k, x) → first + r.1.length = k)
      (accessElements act f (List.range' first n) s) := by
  induction n generalizing first s with
  | zero => exact .ok ⟨fun _ => rfl, fun _ _ h => nomatch h⟩
  | succ n ih =>
    have hnext (t : State) (y : Option α) : OkAll (fun r : List (Option α) × Option (Nat × Trap) × State =>
        (r.2.1 = none → r.1.length = n + 1) ∧ ∀ k x, r.2.1 = some (k, x) → first + r.1.length = k) (do
          let (l, e, t) ← accessElements act f (List.range' (first + 1) n) t
          .ok (y :: l, e, t)) := by
      refine .bind (ih (first + 1) t) fun r hr => .ok ⟨fun h => ?_, fun k x h => ?_⟩
      · exact congrArg (· + 1) (hr.1 h)
      · rw [List.length_cons, ← hr.2 k x h]
        omega
    rw [List.range'_succ]
    unfold accessElements
    split
    · split
      · exact hnext _ _
      · split
        · refine .ok ⟨fun h => (nomatch h), fun k x h => ?_⟩
          exact (congrArg Prod.fst (Option.some.inj h) :)
        · exact .error
      · exact .error
    · exact hnext _ _

end

section
variable {α : Type} {m : BitVec 3} {f : State → Nat → Except Stop (α × State)} {n k : Nat} {l : List (Option α)}

theorem sameFocus_of_walked (h : Walked s m f n k l u) (hf : ∀ s i, OkAll (fun r => SameFocus s r.2) (f s i)) :
    SameFocus s u := by
  obtain ⟨-, h⟩ | ⟨x, v, h, rfl, -⟩ := h
  · exact sameFocus_accessElements hf _ s _ h
  · exact (sameFocus_accessElements hf _ s _ h :).trans (sameFocus_noteWalk v x)

theorem length_of_walked (h : Walked s m f n k l u) : l.length = k := by
  obtain ⟨rfl, h⟩ | ⟨x, v, h, -, -⟩ := h
  · rw [List.range_eq_range'] at h
    exact (length_accessElements 0 _ s _ h).1 rfl
  · rw [List.range_eq_range'] at h
    exact (Nat.zero_add _).symm.trans ((length_accessElements 0 _ s _ h).2 k x rfl)

/-- A word that is not a resumed one and is not stopped part way ends as its walk says. -/
theorem elementWord_walked (hp : s.hart.cs.vprog = 0) (hc : s.issue.cut = none) (h : Walked s m f n k l u)
    (post : State → Nat → List (Option α) → Nat → Bool → State) :
    elementWord s n m f post = .ok (varyTime (retire (post (setVl u k) 0 l k true))) := by
  have hstart : startOf s = 0 := by rw [startOf, hp]; rfl
  have hstop : stopOf s n = n := by rw [stopOf, hc]
  rw [elementWord]
  simp only [hstart, hstop, Nat.sub_zero, ← List.range_eq_range']
  obtain ⟨rfl, h⟩ | ⟨x, v, h, rfl, j, hj, hact⟩ := h
  · rw [h]
    exact if_pos (le_refl _)
  · rw [h]
    refine if_pos (List.any_eq_true.2 ⟨j, List.mem_range.2 hj, hact⟩)

end

end

/-! ### Words of BANK where they issue (R202, R212) -/

section
variable {s u w : State} {t : VType} {d a b : BitVec 5} {m : BitVec 3} {x : StreamReg} {k : Nat}

/-- A word on a bound stream that fits VTYPE runs, with its island ON or without an active element. -/
theorem VectorIssuing.bankWord (h : VectorIssuing s t) (hp : s.hart.cs.vprog = 0) (ha : a.toNat < 16)
    {fit : VType → Bool} (hfit : fit t = true) (hx : vget s.hart.q a.toNat none = some x)
    (hon : (∃ i < s.hart.cs.vl, isActive s.hart m i = true) → (s.core s.hart.place.core).island = .on)
    (reads writes : List RegId) (body : State → StreamReg → Except Stop State) :
    Machine.bankWord s true fit d a m reads writes body = finish s (body s x) := by
  have hactive : anyActive s m = true → (islandOf s).island = .on := by
    intro hact
    obtain ⟨i, hi, hact⟩ := List.any_eq_true.1 hact
    have hstart : startOf s = 0 := by rw [startOf, hp]; rfl
    rw [hstart, Nat.sub_zero, List.mem_range'_1] at hi
    exact hon ⟨i, by omega, hact⟩
  rw [Machine.bankWord, h.issuing.runPlainVector (show (true && isStream a) = true from isStream_iff.2 ha) ((h.fits fit).trans hfit),
    streamReg, hx]
  dsimp only
  by_cases hact : anyActive s m = true
  · rw [if_pos hact, checkIsland, if_pos (by rw [hactive hact]; rfl)]
    rfl
  · rw [if_neg hact]

theorem targetOf_bound (hx : vget s.hart.q a.toNat none = some x) : targetOf s a = some x.tsr.et := by
  rw [targetOf, streamReg, hx]
  rfl

theorem gatherFits_bound (hd : t.aligned d = true) (hb : t.aligned b = true) (hm : governFits s.hart m = true)
    (hx : vget s.hart.q a.toNat none = some x) (hw : x.tsr.et.width = t.et.width) (h8 : 8 ≤ x.tsr.et.width) :
    gatherFits s d a b m t = true := by
  rw [gatherFits, targetOf_bound hx, dataFits, hd, hb, hm]
  simp [hw, hw ▸ h8]

theorem addFits_bound (hd : t.aligned d = true) (hb : t.aligned b = true) (hm : governFits s.hart m = true)
    (hx : vget s.hart.q a.toNat none = some x) (hw : addTarget x.tsr.et = true)
    (he : t.et = x.tsr.et ∨ (t.et = .bf16 ∧ x.tsr.et = .f32)) : addFits s d a b m t = true := by
  rw [addFits, targetOf_bound hx, dataFits, hd, hb, hm]
  obtain he | ⟨he, he'⟩ := he
  · simp [hw, he]
  · rw [he'] at hw ⊢
    simp [hw, he]

theorem bankElement_eq (i : Nat) :
    bankElement s.hart t x b i = ((8 * x.tsr.base + x.tsr.et.width * source s t b i : Nat) : Int) := by
  rw [bankElement, Nat.mul_comm x.tsr.base, Nat.mul_comm _ x.tsr.et.width]
  rfl

theorem widenData_eq (e : ElemType) (v : Nat) :
    widenData t e v = if t.et = .bf16 ∧ e = .f32 then 2 ^ 16 * v else v := by
  rw [widenData, Nat.mul_comm v]
  simp

/-! ### How the words end (R82, R124, R213) -/

theorem varyTime_retire (hs : u.issue.side = .vector) {f : Hart → Hart} (hk : Keeps f u.hart)
    (ht : (f u.hart).cs.hstat.timed = false) : varyTime (retire (u.mapHart f)) = retire (u.mapHart f) := by
  refine varyTime_untimed ?_
  rw [vectorStep_retire hs hk]
  exact ht

/-- What a load leaves of a hart after `k` elements. -/
def loadEnd (t : VType) (d : BitVec 5) (k : Nat) (l : List (Option Nat)) (h : Hart) : Hart :=
  let x := { h with cs := { h.cs with vl := k } }
  applyWrites x (destWrites x t ⟨d.toNat, t.group, t.et.width, k⟩ 0
    (l.map (fun y => match y with
      | some v => some v
      | none => inactiveLane t)) true)

theorem loadLanes_setVl (l : List (Option Nat)) : loadLanes t d (setVl u k) 0 l k true = u.mapHart (loadEnd t d k l) := rfl

theorem loadEnd_only (l : List (Option Nat)) (h : Hart) :
    OnlyVectorRegisters { h with cs := { h.cs with vl := k } } (loadEnd t d k l h) :=
  applyWrites_only _ fun _ hw => .inl (groupWrites_reg hw)

theorem keeps_loadEnd (l : List (Option Nat)) (h : Hart) : Keeps (loadEnd t d k l) h := by
  obtain ⟨hplace, hqueue, hregion, hblock, hpc⟩ := (loadEnd_only (t := t) (d := d) (k := k) l h).keeps
  exact ⟨hplace, hqueue, hregion, hblock, hpc⟩

theorem width_mem (e : ElemType) : e.width ∈ [1, 4, 8, 16, 32, 64] := by cases e <;> decide

theorem element_loadEnd {h : Hart} {l : List (Option Nat)} (hd : t.aligned d = true) (hl : l.length = k) {i : Nat}
    (hi : t.et.width * (i + 1) ≤ regBits h * t.group) :
    element (loadEnd t d k l h) d.toNat t.et.width i =
      if i < k then (match l[i]?.join with
        | some v => v % 2 ^ t.et.width
        | none => inactiveValue t (element h d.toNat t.et.width i))
      else if t.tail ∧ k ≠ 0 then 0 else element h d.toNat t.et.width i := by
  have hin : d.toNat + t.group ≤ 32 := group_inside (group_dvd t) (by simpa [VType.aligned] using hd)
  rw [loadEnd, element_destWrites (h := { h with cs := { h.cs with vl := k } }) (d := ⟨d.toNat, t.group, t.et.width, k⟩) rfl hin
    (width_dvd_regBits _ (width_mem t.et)) hi, laneAt]
  dsimp only
  rw [if_pos (Nat.zero_le i), Nat.sub_zero]
  by_cases hik : i < k
  · rw [if_pos hik, List.getElem?_map, List.getElem?_eq_getElem (hl.symm ▸ hik)]
    have hnot : ¬ (t.tail = true ∧ k ≠ 0 ∧ k ≤ i) := fun hc => Nat.not_le.2 hik hc.2.2
    cases hv : l[i] with
    | some v => rfl
    | none =>
      simp only [Option.map_some, Option.join_some, inactiveLane, inactiveValue, if_neg hnot]
      cases t.maskz with
      | true => exact Nat.zero_mod _
      | false => rfl
  · rw [if_neg hik, List.getElem?_eq_none (by rw [List.length_map]; omega)]
    simp only [Option.join_none, Option.map_none, Option.getD_none, Nat.le_of_not_lt hik, and_true]
    rfl

/-- A load that retires after its walk ends as `Loaded` says. -/
theorem loaded_retire (h : VectorIssuing s t) (hu : SameFocus s u) (hd : t.aligned d = true) {l : List (Option Nat)}
    (hl : l.length = k) : Loaded s u (varyTime (retire (loadLanes t d (setVl u k) 0 l k true))) t d k l := by
  have hs : u.issue.side = .vector := hu.issue ▸ h.issuing.side
  have hk : Keeps (loadEnd t d k l) u.hart := keeps_loadEnd l u.hart
  have ho : OnlyVectorRegisters { u.hart with cs := { u.hart.cs with vl := k } } (loadEnd t d k l u.hart) := loadEnd_only l _
  have hstep := vectorStep_retire hs hk
  have ht : (loadEnd t d k l u.hart).cs.hstat.timed = false := by
    rw [(congrArg (·.cs.hstat) ho :), hu.hart]
    exact h.issuing.untimed
  rw [loadLanes_setVl, varyTime_retire hs hk ht]
  generalize retire (u.mapHart (loadEnd t d k l)) = r at hstep
  have hv : r.hart.ve.v = (loadEnd t d k l u.hart).ve.v := (congrArg (·.hart.ve.v) hstep :)
  have hsplit : r.hart.split = (loadEnd t d k l u.hart).split := (congrArg (·.hart.split) hstep :)
  have hret : Retired u r := retired_vectorStep hs hstep ((congrArg (·.cs.instret) ho :))
  refine ⟨⟨fun i hi => ?_, fun j hj hout => ?_, ?_, ?_, ?_, ?_, ?_, ?_⟩, ?_⟩
  · rw [element_congr hv hsplit, hu.hart]
    exact element_loadEnd hd hl hi
  · rw [hv, hu.hart]
    exact groupWrites_other _ _ _ _ hout
  · rw [(congrArg (·.hart.ve.m) hstep :), ← hu.hart]
    exact groupWrites_m _ _ _ _ _ _
  · rw [(congrArg (·.hart.ve.h) hstep :), ← hu.hart]
    exact (congrArg (·.ve.h) ho :)
  · rw [(congrArg (·.hart.ve.lc) hstep :), ← hu.hart]
    exact (congrArg (·.ve.lc) ho :)
  · rw [(congrArg (·.hart.sc) hstep :), ← hu.hart]
    exact (congrArg (·.sc) ho :)
  · rw [(congrArg (·.hart.cs.vl) hstep :)]
    exact (congrArg (·.cs.vl) ho :)
  · simpa only [Retired, pcOf, hu.hart, hu.issue] using hret
  · rw [hstep]

/-- The lines that lost their poison differ, and nothing else. -/
def OnlyCleared (s t : State) : Prop := t = { s with poison := t.poison, mended := t.mended }

theorem onlyCleared_clearPoison (s : State) (line : Nat) (mask : BitVec 128) : OnlyCleared s (s.clearPoison line mask) := by
  unfold State.clearPoison
  split <;> rfl

theorem OnlyCleared.trans {r : State} (h : OnlyCleared u w) (h' : OnlyCleared w r) : OnlyCleared u r := by
  rw [OnlyCleared] at h h' ⊢
  rw [h] at h'
  exact h'

theorem onlyCleared_clearCovered (s : State) (bits : List Int) (n : Nat) : OnlyCleared s (clearCovered s bits n) := by
  unfold clearCovered
  dsimp only
  split
  · rfl
  · exact foldl_keeps (P := OnlyCleared s) rfl fun w line hw => OnlyCleared.trans hw (onlyCleared_clearPoison w line _)

/-- What a bank request leaves of its hart after `k` elements. -/
def requestEnd (k : Nat) (l : List BankItem) (h : Hart) : Hart :=
  { h with cs := { h.cs with vl := k }, bank := h.bank ++ if l = [] then [] else [⟨l⟩] }

/-- A store or an add that retires after its walk ends as `Stored` says, with its request under way. -/
theorem stored_retire (h : VectorIssuing s t) (hu : SameFocus s u) (hw : OnlyCleared u w) (l : List BankItem) :
    let r := varyTime (retire (w.mapHart (requestEnd k l)))
    Sys2Proof.Stored s u r k ∧ SameFlags s r ∧ r.hart.bank = s.hart.bank ++ if l = [] then [] else [⟨l⟩] := by
  have hhart : w.hart = u.hart := (congrArg State.hart hw :)
  have hissue : w.issue = u.issue := (congrArg State.issue hw :)
  have hs : w.issue.side = .vector := by rw [hissue, hu.issue]; exact h.issuing.side
  have hk : Keeps (requestEnd k l) w.hart := ⟨rfl, rfl, rfl, rfl, rfl⟩
  have hstep := vectorStep_retire hs hk
  have ht : (requestEnd k l w.hart).cs.hstat.timed = false := by
    change w.hart.cs.hstat.timed = false
    rw [hhart, hu.hart]
    exact h.issuing.untimed
  have hsame : w.hart = s.hart := hhart.trans hu.hart
  intro r
  have hr : r = retire (w.mapHart (requestEnd k l)) := varyTime_retire hs hk ht
  rw [← hr] at hstep
  have hret : Retired w r := retired_vectorStep hs hstep rfl
  have hcharge : (chargeSequencer w w.issue.beats).arbiters = (chargeSequencer u u.issue.beats).arbiters := by
    rw [hissue]
    exact chargeSequencer_congr _ (congrArg State.arbiters hw :) (congrArg State.cores hw :)
      (congrArg Hart.place hhart) (congrArg Hart.queue hhart) (congrArg (·.tl.region) hhart)
  refine ⟨⟨⟨?_, ?_, ?_, ?_, ?_⟩, ?_, (congrArg (·.hart.cs.vl) hstep :), ?_⟩, ⟨?_, ?_⟩, ?_⟩
  · exact (congrArg (·.hart.sc.g) hstep :).trans (congrArg (·.sc.g) hsame)
  · exact (congrArg (·.hart.ve.h) hstep :).trans (congrArg (·.ve.h) hsame)
  · exact (congrArg (·.hart.ve.lc) hstep :).trans (congrArg (·.ve.lc) hsame)
  · exact (congrArg (·.hart.ve.v) hstep :).trans (congrArg (·.ve.v) hsame)
  · exact (congrArg (·.hart.ve.m) hstep :).trans (congrArg (·.ve.m) hsame)
  · rw [VectorStep, chargeSequencer_eq, hcharge] at hstep
    rw [hstep, chargeSequencer_eq u, hw]
  · simpa only [Retired, pcOf, hsame, hissue.trans hu.issue] using hret
  · exact (congrArg (·.hart.cs.vflags) hstep :).trans (congrArg (·.cs.vflags) hsame)
  · exact (congrArg (·.hart.cs.first) hstep :).trans (congrArg (·.cs.first) hsame)
  · exact (congrArg (·.hart.bank) hstep :).trans (by rw [requestEnd, hsame])

/-- A state with the lines that lost their poison in another. -/
def clearedAs (s t : State) : State := { s with poison := t.poison, mended := t.mended }

theorem acceptRequest_setVl {l : List BankItem} (hl : l ≠ []) :
    acceptRequest (setVl u k) l = u.mapHart (requestEnd k l) := by
  have hend : requestEnd k l u.hart = { u.hart with cs := { u.hart.cs with vl := k }, bank := u.hart.bank ++ [⟨l⟩] } := by
    rw [requestEnd, if_neg hl]
  exact congrArg (fun x => { u with hart := x }) hend.symm

theorem setVl_requestEnd : setVl u k = u.mapHart (requestEnd k []) := by
  have hend : requestEnd k [] u.hart = { u.hart with cs := { u.hart.cs with vl := k } } := by
    rw [requestEnd, if_pos rfl, List.append_nil]
  exact congrArg (fun x => { u with hart := x }) hend.symm

theorem acceptRequest_clearCovered {l : List BankItem} (hl : l ≠ []) (bits : List Int) (n : Nat) :
    acceptRequest (clearCovered (setVl u k) bits n) l =
      (clearedAs u (clearCovered (setVl u k) bits n)).mapHart (requestEnd k l) := by
  rw [← acceptRequest_setVl hl]
  conv_lhs => rw [onlyCleared_clearCovered (setVl u k) bits n]
  rfl

/-! ### BGATH, BSCAT and BSCADD (R213, R214) -/

/-- The results of a walk hold a request's items, and no item is without a result. -/
theorem filterMap_zipIdx_isEmpty {α β : Type} (l : List (Option α)) (f : Nat → β) :
    (l.zipIdx.filterMap (fun y : Option α × Nat => y.1.map (fun _ => f y.2))).isEmpty = (l.filterMap id).isEmpty := by
  have hmap : l.filterMap id = l.zipIdx.filterMap (fun y => y.1) := by
    conv_lhs => rw [← List.zipIdx_map_fst 0 l, List.filterMap_map]
    rfl
  rw [hmap, Bool.eq_iff_iff, List.isEmpty_iff, List.isEmpty_iff, List.filterMap_eq_nil_iff, List.filterMap_eq_nil_iff]
  exact forall₂_congr fun y _ => Option.map_eq_none_iff

variable (h : VectorIssuing s t) (hp : s.hart.cs.vprog = 0) (ha : a.toNat < 16) (hd : t.aligned d = true)
  (hb : t.aligned b = true) (hm : governFits s.hart m = true) (hx : vget s.hart.q a.toNat none = some x)
  (hon : (∃ i < s.hart.cs.vl, isActive s.hart m i = true) → (s.core s.hart.place.core).island = .on)
include h hp ha hd hb hm hx hon

/-- The bit address of the element of the stream that index element `i` names. -/
abbrev streamBits (s : State) (t : VType) (x : StreamReg) (b : BitVec 5) (i : Nat) : Int :=
  ((8 * x.tsr.base + x.tsr.et.width * source s t b i : Nat) : Int)

theorem execBgath_walked (hw : x.tsr.et.width = t.et.width) (h8 : 8 ≤ x.tsr.et.width) {l : List (Option Nat)}
    (hwalk : Walked s m (fun s' i => gatherItem s' t.et.width (streamBits s t x b i)) s.hart.cs.vl k l u) :
    ∃ r, exec (.bgath d a b m) s = .next r ∧ Loaded s u r t d k l := by
  refine ⟨_, ?_, loaded_retire h (sameFocus_of_walked hwalk fun _ _ => sameFocus_gatherItem _ _ _) hd
    (length_of_walked hwalk)⟩
  have hu := h.issuing.untimed
  rw [show exec (.bgath d a b m) s = execBgath d a b m s from rfl, execBgath, hu, Bool.false_and, if_neg Bool.false_ne_true,
    h.bankWord hp ha (gatherFits_bound hd hb hm hx hw h8) hx hon]
  simp only [hu, Bool.false_eq_true, if_false, h.vtypeOf, bankElement_eq]
  rw [elementWord_walked hp h.issuing.uncut hwalk]
  rfl

theorem execBscat_walked (hw : x.tsr.et.width = t.et.width) (h8 : 8 ≤ x.tsr.et.width) {l : List (Option BankItem)}
    (hwalk : Walked s m (fun s' i => scatterItem s' t.et.width (streamBits s t x b i) (source s t d i)) s.hart.cs.vl k l u) :
    ∃ r, exec (.bscat d a b m) s = .next r ∧ Sys2Proof.Stored s u r k ∧ SameFlags s r ∧
      r.hart.bank = s.hart.bank ++ if l.filterMap id = [] then [] else [⟨l.filterMap id⟩] := by
  let bits := l.zipIdx.filterMap (fun y : Option BankItem × Nat => y.1.map (fun _ => streamBits s t x b (0 + y.2)))
  have hempty : bits.isEmpty = (l.filterMap id).isEmpty := filterMap_zipIdx_isEmpty l fun i => streamBits s t x b (0 + i)
  have hfocus : SameFocus s u := sameFocus_of_walked hwalk fun _ _ => sameFocus_scatterItem _ _ _ _
  have hword : exec (.bscat d a b m) s = .next (varyTime (retire (if bits.isEmpty then setVl u k
      else acceptRequest (clearCovered (setVl u k) bits t.et.width) (l.filterMap id)))) := by
    rw [show exec (.bscat d a b m) s = execBscat d a b m s from rfl, execBscat]
    dsimp only
    rw [h.vtypeOf, h.bankWord hp ha (gatherFits_bound hd hb hm hx hw h8) hx hon]
    simp only [bankElement_eq]
    exact congrArg (finish s) (elementWord_walked hp h.issuing.uncut hwalk _)
  rw [hword, hempty]
  by_cases hl : l.filterMap id = []
  · rw [hl]
    exact ⟨_, congrArg (fun z => Host.Outcome.next (varyTime (retire z))) setVl_requestEnd,
      stored_retire (w := u) h hfocus rfl []⟩
  · rw [List.isEmpty_eq_false_iff.2 hl]
    exact ⟨_, congrArg (fun z => Host.Outcome.next (varyTime (retire z))) (acceptRequest_clearCovered hl bits t.et.width),
      stored_retire (w := clearedAs u _) h hfocus rfl (l.filterMap id)⟩

/-- An element of BSCADD: located as an add, and added to. -/
abbrev addItem (s : State) (t : VType) (x : StreamReg) (d b : BitVec 5) (s' : State) (i : Nat) : Except Stop (BankItem × State) := do
  let (l, s') ← addLocate s' (streamBits s t x b i) (x.tsr.et.width / 8) false
  .ok (acceptAdd s' s.hart l.loc x.tsr.et t.sat
    (if t.et = .bf16 ∧ x.tsr.et = .f32 then 2 ^ 16 * source s t d i else source s t d i))

theorem execBscadd_walked (hw : addTarget x.tsr.et = true) (he : t.et = x.tsr.et ∨ (t.et = .bf16 ∧ x.tsr.et = .f32))
    {l : List (Option BankItem)} (hwalk : Walked s m (addItem s t x d b) s.hart.cs.vl k l u) :
    ∃ r, exec (.bscadd d a b m) s = .next r ∧ Sys2Proof.Stored s u r k ∧ SameFlags s r ∧
      r.hart.bank = s.hart.bank ++ if l.filterMap id = [] then [] else [⟨l.filterMap id⟩] := by
  have hfocus : SameFocus s u := sameFocus_of_walked hwalk fun s' i =>
    .bind (sameFocus_addLocate s' _ _ false) fun _ hr => .ok (hr.trans (sameFocus_acceptAdd _ _ _ _ _ _))
  have hword : exec (.bscadd d a b m) s = .next (varyTime (retire (if (l.filterMap id).isEmpty then setVl u k
      else acceptRequest (setVl u k) (l.filterMap id)))) := by
    rw [show exec (.bscadd d a b m) s = execBscadd d a b m s from rfl, execBscadd]
    dsimp only
    rw [h.vtypeOf, h.bankWord hp ha (addFits_bound hd hb hm hx hw he) hx hon]
    simp only [bankElement_eq, widenData_eq]
    exact congrArg (finish s) (elementWord_walked hp h.issuing.uncut hwalk _)
  rw [hword]
  by_cases hl : l.filterMap id = []
  · rw [hl]
    exact ⟨_, congrArg (fun z => Host.Outcome.next (varyTime (retire z))) setVl_requestEnd,
      stored_retire (w := u) h hfocus rfl []⟩
  · rw [List.isEmpty_eq_false_iff.2 hl]
    exact ⟨_, congrArg (fun z => Host.Outcome.next (varyTime (retire z))) (acceptRequest_setVl hl),
      stored_retire (w := u) h hfocus rfl (l.filterMap id)⟩

/-! ### VFPUSH (R215, R285) -/

/-- The entry of a VFPUSH of the hart in focus. -/
def pushEntry (s : State) (t : VType) (now : Nat) (l : List PushedPair) : FifoEntry :=
  { uid := s.hart.uid, asid := s.hart.asid, since := now, sat := t.sat, adds := l.filterMap (·.add), flags := 0,
    items := l.filterMap (·.item), pairs := (l.filter (·.own)).length, forward := l.any (fun y => !y.own && y.add.isNone) }

/-- The pairs that a VFPUSH accepted, put into the FIFO. -/
def pushPairs (s : State) (t : VType) (w : State) (l : List PushedPair) : State :=
  if l.isEmpty then w
  else
    let core := s.hart.place.core
    let entry := pushEntry s t w.clock l
    runIsland ((chargeTurn w (.fifo core) s.hart.queue (32 * islandTime (islandOf w) entry)).mapCore core
      (fun c => { c with fifo := c.fifo ++ [entry] })) core

/-- A pair of a VFPUSH. -/
abbrev pushItem (s : State) (t : VType) (x : StreamReg) (d b : BitVec 5) (s' : State) (i : Nat) :
    Except Stop (PushedPair × State) :=
  pushPair s' x.tsr.et t.sat (streamBits s t x b i)
    (if t.et = .bf16 ∧ x.tsr.et = .f32 then 2 ^ 16 * source s t d i else source s t d i)

/-- The walk of a VFPUSH and its entry. -/
def pushWord (s : State) (t : VType) (x : StreamReg) (d b : BitVec 5) (m : BitVec 3) (w : State) : Except Stop State :=
  elementWord w s.hart.cs.vl m (pushItem s t x d b) (fun w _ l _ _ => pushPairs s t w (l.filterMap id))

theorem exec_vfpush (hw : addTarget x.tsr.et = true) (he : t.et = x.tsr.et ∨ (t.et = .bf16 ∧ x.tsr.et = .f32))
    (hvl : s.hart.cs.vl ≤ 64) : exec (.vfpush d a b m) s = finish s (
      if anyActive s m then
        if (s.core s.hart.place.core).fifo.length < 16 then atUnit s (.fifo s.hart.place.core) (pushWord s t x d b m)
        else .ok (awaitUnit s (.fifo s.hart.place.core))
      else pushWord s t x d b m s) := by
  have hfit : (addFits s d a b m t && decide (s.hart.cs.vl ≤ 64)) = true := by
    rw [addFits_bound hd hb hm hx hw he, decide_eq_true hvl]
    rfl
  have hcut : { s.issue with cut := none } = s.issue := by
    rw [← h.issuing.uncut]
  rw [show exec (.vfpush d a b m) s = execVfpush d a b m s from rfl, execVfpush]
  dsimp only
  rw [h.vtypeOf, h.bankWord hp ha (fit := fun t => addFits s d a b m t && decide (s.hart.cs.vl ≤ 64)) hfit hx hon]
  simp only [bankElement_eq, widenData_eq, hcut, h.issuing.untimed, Bool.false_eq_true, if_false]
  cases anyActive s m <;> rfl

end

/-! ### The island leaves the hart but its late faults (R159, R215) -/

/-- The hart in focus but its late faults, the word at hand and the clock are as before. -/
structure SameButFaults (s t : State) : Prop where
  hart : t.hart = { s.hart with tl := { s.hart.tl with faults := t.hart.tl.faults } }
  issue : t.issue = s.issue
  clock : t.clock = s.clock

section
variable {s t u : State}

theorem SameFocus.butFaults (h : SameFocus s t) : SameButFaults s t :=
  ⟨by rw [h.hart], h.issue, h.clock⟩

theorem SameButFaults.trans (h : SameButFaults s t) (h' : SameButFaults t u) : SameButFaults s u := by
  refine ⟨?_, h'.issue.trans h.issue, h'.clock.trans h.clock⟩
  have hu := h'.hart
  rw [h.hart] at hu
  exact hu

theorem sameButFaults_lateFault (s : State) (uid : Nat) (x : Trap) : SameButFaults s (lateFault s uid x) := by
  refine ⟨?_, rfl, rfl⟩
  unfold lateFault
  rw [mapHarts_hart]
  split <;> rfl

theorem sameButFaults_performAdd (stack : Nat) (e : FifoEntry) (acc : Flags × State) (a : PendingAdd) :
    SameButFaults acc.2 (performAdd stack e acc a).2 := by
  unfold performAdd
  split
  · exact sameButFaults_lateFault _ _ _
  · exact (sameFocus_addAt acc.2 _ _ _ _ _ _).butFaults

theorem sameButFaults_reachEntry (s : State) (core : Nat) (e : FifoEntry) : SameButFaults s (reachEntry s core e).1 := by
  have hadds : SameButFaults s (e.adds.foldl (performAdd (core / 64) e) (e.flags, s)).2 :=
    foldl_keeps (P := fun acc : Flags × State => SameButFaults s acc.2) (SameFocus.refl s).butFaults
      fun acc a hacc => hacc.trans (sameButFaults_performAdd _ e acc a)
  unfold reachEntry
  dsimp only
  refine hadds.trans ?_
  split <;> exact ⟨rfl, rfl, rfl⟩

theorem sameButFaults_advanceFifo (s : State) (core : Nat) (l : List FifoEntry) :
    SameButFaults s (advanceFifo s core l).1 := by
  induction l generalizing s with
  | nil => exact (SameFocus.refl s).butFaults
  | cons e l ih =>
    unfold advanceFifo
    split
    · exact ih s
    · split
      · exact sameButFaults_reachEntry s core e
      · exact (SameFocus.refl s).butFaults

theorem sameButFaults_runIsland (s : State) (core : Nat) : SameButFaults s (runIsland s core) :=
  (sameButFaults_advanceFifo s core _).trans ⟨rfl, rfl, rfl⟩

theorem sameButFaults_pushPairs (s : State) (t : VType) (w : State) (l : List PushedPair) :
    SameButFaults w (pushPairs s t w l) := by
  unfold pushPairs
  split
  · exact (SameFocus.refl w).butFaults
  · refine SameButFaults.trans (SameFocus.butFaults ⟨?_, ?_, ?_⟩) (sameButFaults_runIsland _ _)
    · rw [mapCore_hart, chargeTurn_hart]
    · rw [mapCore_issue, (chargeTurn_eq _ _ _ _)]
    · rw [mapCore_clock, (chargeTurn_eq _ _ _ _)]

end

section
variable {s v u : State} {t : VType} {d a b : BitVec 5} {m : BitVec 3} {x : StreamReg} {k : Nat}

/-- A unit that serves a word takes its request away and sets its arbiter. -/
theorem takeUnit_eq {unit : Arb} (h : takeUnit s unit = some v) :
    v = { s with hart := { s.hart with ask := none }, arbiters := v.arbiters } := by
  unfold takeUnit at h
  dsimp only at h
  split at h
  · exact nomatch h
  · split at h
    · obtain rfl := Option.some.inj h
      rfl
    · split at h
      · obtain rfl := Option.some.inj h
        rfl
      · exact nomatch h

theorem anyActive_iff (hp : s.hart.cs.vprog = 0) :
    anyActive s m = true ↔ ∃ i < s.hart.cs.vl, isActive s.hart m i = true := by
  have hstart : startOf s = 0 := by rw [startOf, hp]; rfl
  rw [anyActive, hstart, Nat.sub_zero, ← List.range_eq_range', List.any_eq_true]
  simp only [List.mem_range]

theorem pushPairs_eq {w : State} (hc : w.clock = s.clock) (hpl : w.hart.place = s.hart.place) (l : List PushedPair) :
    pushPairs s t w l = if l = [] then w
      else runIsland ((chargeTurn w (.fifo s.hart.place.core) s.hart.queue
        (32 * (24 + (if (w.core s.hart.place.core).half then 2 else 1) * (l.filter (·.own)).length))).mapCore s.hart.place.core
          (fun c => { c with fifo := c.fifo ++ [pushEntry s t s.clock l] })) s.hart.place.core := by
  rw [pushPairs, hc]
  dsimp only
  rw [islandTime, islandOf, hpl]
  cases l <;> rfl

/-- What a vector-side word that retires leaves of the control registers it shares with the state it retires from. -/
theorem retire_vectorControl {z : State} (hs : z.issue.side = .vector) :
    (retire z).hart.cs.vl = z.hart.cs.vl ∧ (retire z).hart.cs.vflags = z.hart.cs.vflags ∧
      (retire z).hart.cs.first = z.hart.cs.first ∧ (retire z).hart.cs.hstat = z.hart.cs.hstat := by
  rw [retire, retireTo_vector_eq hs]
  exact ⟨rfl, rfl, rfl, rfl⟩

/-- A VFPUSH that the unit serves, or one without an active element, ends with its pairs put into the FIFO. -/
theorem pushWord_walked (h : VectorIssuing s t) (hp : s.hart.cs.vprog = 0)
    (hv : v.hart = { s.hart with ask := v.hart.ask } ∧ v.issue = s.issue ∧ v.clock = s.clock) {l : List (Option PushedPair)}
    (hwalk : Walked v m (pushItem s t x d b) s.hart.cs.vl k l u) :
    let r := retire (pushPairs s t (setVl u k) (l.filterMap id))
    finish s (pushWord s t x d b m v) = .next r ∧ SameRegisters s r ∧ r.hart.cs.vl = k ∧ SameFlags s r ∧ Retired s r ∧
      u.hart = v.hart ∧ u.clock = s.clock := by
  obtain ⟨hhart, hissue, hclock⟩ := hv
  have hu : SameFocus v u := sameFocus_of_walked hwalk fun s' i => sameFocus_pushPair s' _ _ _ _
  have hz := sameButFaults_pushPairs s t (setVl u k) (l.filterMap id)
  have hword : pushWord s t x d b m v =
      .ok (varyTime (retire (pushPairs s t (setVl u k) (l.filterMap id)))) :=
    elementWord_walked (by rw [hhart]; exact hp) (by rw [hissue]; exact h.issuing.uncut) hwalk _
  generalize pushPairs s t (setVl u k) (l.filterMap id) = z at hz hword
  have hzi : z.issue = s.issue := hz.issue.trans (hu.issue.trans hissue)
  have hzs : z.issue.side = .vector := by rw [hzi]; exact h.issuing.side
  have hzh : z.hart = { s.hart with
      cs := { s.hart.cs with vl := k }, ask := v.hart.ask, tl := { s.hart.tl with faults := z.hart.tl.faults } } := by
    rw [hz.hart, setVl, mapHart_hart, hu.hart, hhart]
  obtain ⟨hvl, hflags, hfirst, hstat⟩ := retire_vectorControl hzs
  obtain ⟨hg, hh, hlc, hv, hm⟩ := retire_registers z
  obtain ⟨hpc, hinst⟩ := Retired_retire z
  have htimed : (retire z).hart.cs.hstat.timed = false := by
    rw [hstat, hzh]
    exact h.issuing.untimed
  rw [varyTime_untimed htimed] at hword
  refine ⟨by rw [hword]; rfl, ⟨?_, ?_, ?_, ?_, ?_⟩, hvl.trans (congrArg (·.cs.vl) hzh :), ⟨?_, ?_⟩, ⟨?_, ?_⟩, hu.hart, ?_⟩
  · exact hg.trans (congrArg (·.sc.g) hzh :)
  · exact hh.trans (congrArg (·.ve.h) hzh :)
  · exact hlc.trans (congrArg (·.ve.lc) hzh :)
  · exact hv.trans (congrArg (·.ve.v) hzh :)
  · exact hm.trans (congrArg (·.ve.m) hzh :)
  · exact hflags.trans (congrArg (·.cs.vflags) hzh :)
  · exact hfirst.trans (congrArg (·.cs.first) hzh :)
  · rw [hpc, pcOf, pcOf, hzi, h.issuing.side]
    exact congrArg (· + 4) (congrArg (·.ve.pc) hzh :)
  · exact hinst.trans (congrArg (·.cs.instret + 1) hzh :)
  · exact hu.clock.trans hclock

/-! ### VFFREE and BLAT (R215, R216) -/

theorem exec_vffree (h : Issuing s .vector) (hd : d.toNat < 16) : exec (.vffree d) s =
    .next (hgave s d (BitVec.ofNat 64 (16 - (s.core s.hart.place.core).fifo.length))) := by
  rw [show exec (.vffree d) s = execVffree d s from rfl, execVffree, h.runPlainVector (isH_iff.2 hd) rfl]
  rfl

theorem latencyWord_eq (c : CoreUnit) : latencyWord c =
    BitVec.ofNat 64 (2 ^ 48 * c.chg.toNat + 2 ^ 47 * c.half.toNat + 2 ^ 46 * c.hot.toNat +
      2 ^ 45 * (decide (c.island ≠ .on)).toNat + 2 ^ 16 * (96 + (if c.half then 64 else 0) + (if c.hot then 24 else 0)) +
      (if c.half then 16 else 8)) := by
  have hon : (c.island != .on) = decide (c.island ≠ .on) := by rw [bne, beq_eq_decide, decide_not]
  rw [latencyWord, word, columnFigures, hon]
  dsimp only
  simp only [Nat.mul_comm]

/-- The column that BLAT names. -/
def namedColumn (s : State) (a : BitVec 5) : Nat :=
  if hRead s.hart a.toNat = BitVec.allOnes 64 then s.hart.place.core else (hRead s.hart a.toNat).toNat

theorem exec_blat (h : Issuing s .vector) (hd : d.toNat < 16) (ha : a.toNat < 16) : exec (.blat d a) s =
    .next (if s.product.cores ≤ namedColumn s a then hgave s d (BitVec.allOnes 64)
      else
        let f := columnFigures (s.core (namedColumn s a))
        hgave (if namedColumn s a = s.hart.place.core then withTl s { s.hart.tl with lat := f.1, step := f.2 } else s) d
          (latencyWord (s.core (namedColumn s a)))) := by
  have hn : (if (hRead s.hart a.toNat == ones64) = true then s.hart.place.core else (hRead s.hart a.toNat).toNat) =
      namedColumn s a := by
    simp only [namedColumn, beq_iff_eq]
    rfl
  rw [show exec (.blat d a) s = execBlat d a s from rfl, execBlat, h.runPlainVector (hAndH hd ha) rfl]
  dsimp only
  rw [hn]
  by_cases hc : s.product.cores ≤ namedColumn s a
  · rw [if_pos hc, if_pos hc]
    rfl
  · rw [if_neg hc, if_neg hc]
    by_cases ho : namedColumn s a = s.hart.place.core
    · rw [if_pos (beq_iff_eq.2 ho), if_pos ho]
      rfl
    · rw [if_neg (mt beq_iff_eq.1 ho), if_neg ho]
      rfl

end

/-! ### The words of BANK -/

/-- Settles O46, by the walk over the elements: no access of it changes the hart, the word at hand or the clock, so that the
word ends from the state that the walk leaves. -/
theorem bankWordsComplete : Obligations.BankWordsComplete := by
  unfold Obligations.BankWordsComplete
  intro s t d a b m h hp
  dsimp only
  refine ⟨fun x ha hd hb hm hon hx => ⟨fun hw h8 => ⟨⟨?_, ?_, ?_⟩, ?_, ?_⟩, fun hadd he => ⟨⟨?_, ?_⟩, fun hvl => ⟨?_, ?_⟩⟩⟩,
    exec_vffree h.issuing, fun hd ha => ⟨fun hn => ?_, fun hn => ?_⟩⟩
  · intro s' i hquiet
    rw [gatherItem, hquiet]
    rfl
  · intro s' i hbusy
    rw [gatherItem, hbusy]
    rfl
  · exact fun k l u hwalk => execBgath_walked h hp ha hd hb hm hx hon hw h8 hwalk
  · intro s' i
    rw [scatterItem]
    dsimp only [bind, Except.bind]
    cases elementWrite s' .gather t.et.width (streamBits s t x b i) (source s t d i) <;> rfl
  · exact fun k l u hwalk => execBscat_walked h hp ha hd hb hm hx hon hw h8 hwalk
  · exact fun _ _ _ => ⟨rfl, rfl⟩
  · exact fun k l u hwalk => execBscadd_walked h hp ha hd hb hm hx hon hadd he hwalk
  · intro hact hwait
    rw [exec_vfpush h hp ha hd hb hm hx hon hadd he hvl, if_pos ((anyActive_iff hp).2 hact)]
    by_cases hroom : (s.core s.hart.place.core).fifo.length < 16
    · rw [if_pos hroom, atUnit, hwait.resolve_left (Nat.not_le.2 hroom)]
      rfl
    · rw [if_neg hroom]
      rfl
  · intro v hv k l u hwalk
    have hserved : exec (.vfpush d a b m) s = finish s (pushWord s t x d b m v) ∧
        v.hart = { s.hart with ask := v.hart.ask } ∧ v.issue = s.issue ∧ v.clock = s.clock := by
      rw [exec_vfpush h hp ha hd hb hm hx hon hadd he hvl]
      by_cases hact : ∃ i < s.hart.cs.vl, isActive s.hart m i = true
      · rw [if_pos hact] at hv
        obtain ⟨hroom, htake⟩ := hv
        rw [if_pos ((anyActive_iff hp).2 hact), if_pos hroom, atUnit, htake]
        have hv := takeUnit_eq htake
        exact ⟨rfl, (congrArg State.hart hv :).trans (by rw [(congrArg (·.hart.ask) hv :)]), (congrArg State.issue hv :),
          (congrArg State.clock hv :)⟩
      · rw [if_neg hact] at hv
        rw [if_neg (mt (anyActive_iff hp).1 hact), hv]
        exact ⟨rfl, rfl, rfl, rfl⟩
    obtain ⟨hexec, hkept⟩ := hserved
    obtain ⟨hend, hregs, hk, hflags, hret, hhart, hclock⟩ := pushWord_walked h hp hkept hwalk
    have hplace : (setVl u k).hart.place = s.hart.place := by
      rw [setVl, mapHart_hart, hhart, hkept.1]
    exact ⟨_, hexec.trans hend, hregs, hk, hflags, hret, 
      congrArg retire (pushPairs_eq (w := setVl u k) hclock hplace (l.filterMap id))⟩
  · exact (exec_blat h.issuing hd ha).trans (congrArg Host.Outcome.next (if_pos hn))
  · refine (exec_blat h.issuing hd ha).trans (congrArg Host.Outcome.next ((if_neg (Nat.not_le.2 hn)).trans ?_))
    dsimp only
    rw [latencyWord_eq]
    rfl

end Sys2Proof.Machine
end

section
/-!
LAW. Frames zeroed and copied byte by byte, and the events of page tables and of their sweeps (R222 to R229, R232, R324).
-/

namespace Sys2Proof.Machine

/-! ### Bytes moved from one run to another -/

/-- The bytes of a list put into a memory, each moved from a run that starts at `f` to one that starts at `t`. -/
def shifted (f t : Nat) (cells m : Memory) : Memory := cells.foldl (fun m c => memSet m (c.1 - f + t) c.2) m

theorem memByte_shifted_above {f t j : Nat} {cells : Memory} {n : Nat} (hr : risingFrom n cells = true) (hn : f + j < n)
    {m : Memory} (hm : m.wf = true) : memByte (shifted f t cells m) (t + j) = memByte m (t + j) := by
  induction cells generalizing n m with
  | nil => rfl
  | cons c cells ih =>
    obtain ⟨k, b⟩ := c
    simp only [risingFrom, Bool.and_eq_true, decide_eq_true_eq] at hr
    obtain ⟨⟨hk, -⟩, hr⟩ := hr
    refine (ih hr (by omega) (wf_memSet hm _ _)).trans ?_
    rw [memByte_memSet hm, if_neg (by dsimp only; omega)]

/-- Into a memory that reads 0 there, each byte of the list comes as it stands in the list. -/
theorem memByte_shifted {f t j : Nat} {cells : Memory} {n : Nat} (hr : risingFrom n cells = true) (hn : f ≤ n)
    {m : Memory} (hm : m.wf = true) (h0 : memByte m (t + j) = unlisted) :
    memByte (shifted f t cells m) (t + j) = memByte cells (f + j) := by
  induction cells generalizing n m with
  | nil => exact h0
  | cons c cells ih =>
    obtain ⟨k, b⟩ := c
    simp only [risingFrom, Bool.and_eq_true, decide_eq_true_eq] at hr
    obtain ⟨⟨hk, -⟩, hr⟩ := hr
    by_cases hkj : f + j = k
    · refine (memByte_shifted_above hr (by omega) (wf_memSet hm _ _)).trans ?_
      rw [memByte_memSet hm, if_pos (by dsimp only; omega), memByte, if_neg (by omega), if_pos hkj]
    · have hm' : memByte (memSet m (k - f + t) b) (t + j) = unlisted := by
        rw [memByte_memSet hm, if_neg (by omega), h0]
      refine (ih hr (by omega) (wf_memSet hm _ _) hm').trans ?_
      rw [memByte]
      by_cases hlt : f + j < k
      · rw [if_pos hlt]
        exact memByte_below hr (by omega)
      · rw [if_neg hlt, if_neg hkj]

/-! ### Frames (R226, R232) -/

theorem inFrame_frameLines {frame bits a : Nat} (hf : frame % 128 = 0) (hb : 16 ≤ bits) :
    inFrame (frameLines frame bits) (lineOf a) = decide (frame ≤ a ∧ a < frame + 2 ^ bits) := by
  have hp : 2 ^ bits = 128 * (2 ^ bits / 128) := by
    have hdvd : 2 ^ 7 ∣ 2 ^ bits := Nat.pow_dvd_pow 2 (by omega)
    exact (Nat.mul_div_cancel' hdvd).symm
  rw [inFrame, decide_eq_decide]
  simp only [frameLines, lineOf]
  omega

theorem leafFrame_aligned (e : Word) : leafFrame e % 128 = 0 := by rw [leafFrame]; omega

section
variable {s : State} {frame from_ to_ bits a i : Nat}

theorem memByte_zeroFrame (h : s.mem.wf = true) : memByte (zeroFrame s frame bits).mem a =
    if inFrame (frameLines frame bits) (lineOf a) then 0 else memByte s.mem a := by
  refine (memByte_filter (fun a => !inFrame (frameLines frame bits) (lineOf a)) h a).trans ?_
  cases inFrame (frameLines frame bits) (lineOf a) <;> rfl

theorem copyFrame_mem : (copyFrame s from_ to_ bits).mem = shifted from_ to_
    (s.mem.filter (fun c => inFrame (frameLines from_ bits) (lineOf c.1))) (zeroFrame s to_ bits).mem := rfl

/-- A rising list whose bytes all lie from `n` on. -/
theorem risingFrom_of_le {m : Memory} {n k : Nat} (h : risingFrom k m = true) (hn : ∀ c ∈ m, n ≤ c.1) : risingFrom n m = true := by
  cases m with
  | nil => rfl
  | cons c m =>
    simp only [risingFrom, Bool.and_eq_true, decide_eq_true_eq] at h ⊢
    exact ⟨⟨hn c (List.mem_cons_self ..), h.1.2⟩, h.2⟩

/-- A byte of the frame copied to is that of the frame copied from. -/
theorem memByte_copyFrame (h : s.mem.wf = true) (hb : 16 ≤ bits) (hfrom : from_ % 128 = 0) (hto : to_ % 128 = 0)
    (hi : i < 2 ^ bits) : memByte (copyFrame s from_ to_ bits).mem (to_ + i) = memByte s.mem (from_ + i) := by
  have hcells := memByte_filter (fun a => inFrame (frameLines from_ bits) (lineOf a)) h (from_ + i)
  rw [inFrame_frameLines hfrom hb, if_pos (decide_eq_true (by omega))] at hcells
  rw [copyFrame_mem, ← hcells]
  refine memByte_shifted (n := from_) (risingFrom_of_le (rising_filter _ h) fun c hc => ?_) (le_refl _)
    (Canonical.zeroFrame ⟨h⟩).wf ?_
  · have hin := (List.mem_filter.1 hc).2
    rw [inFrame_frameLines hfrom hb, decide_eq_true_eq] at hin
    exact hin.1
  · rw [memByte_zeroFrame h, inFrame_frameLines hto hb, if_pos (decide_eq_true (by omega))]
    rfl

/-- Outside the frame copied to, every byte is as before. -/
theorem memByte_copyFrame_other (h : s.mem.wf = true) (hb : 16 ≤ bits) (hfrom : from_ % 128 = 0) (hto : to_ % 128 = 0)
    (ha : a < to_ ∨ to_ + 2 ^ bits ≤ a) : memByte (copyFrame s from_ to_ bits).mem a = memByte s.mem a := by
  have hzero : memByte (zeroFrame s to_ bits).mem a = memByte s.mem a := by
    rw [memByte_zeroFrame h, inFrame_frameLines hto hb, if_neg (by rw [decide_eq_true_eq]; omega)]
  rw [copyFrame_mem, ← hzero]
  refine (List.foldlRecOn (motive := fun m : Memory => m.wf = true ∧ memByte m a = memByte (zeroFrame s to_ bits).mem a)
    _ _ ⟨(Canonical.zeroFrame ⟨h⟩).wf, rfl⟩ fun m hm c hc => ⟨wf_memSet hm.1 _ _, ?_⟩).2
  have hin := (List.mem_filter.1 hc).2
  rw [inFrame_frameLines hfrom hb, decide_eq_true_eq] at hin
  rw [memByte_memSet hm.1, if_neg (by omega), hm.2]

end

/-! ### An entry written (R222, R226, R236) -/

section
variable {s : State} {asid va bits at_ : Nat} {e : Word} {entry leaf : Word} {how : MapHow}

theorem trackPage_mem (s : State) (l : Leaf) : (trackPage s l).mem = s.mem := by
  unfold trackPage
  split
  · rfl
  · refine foldl_keeps (P := fun t : State => t.mem = s.mem) rfl fun t r ht => ?_
    dsimp only
    split
    · exact ht
    · split
      · rw [mapCtx_mem, barMoves_eq]
        exact ht
      · exact ht

theorem writeEntry_mem (s : State) : (writeEntry s asid va bits at_ e).mem = memWrite s.mem at_ 8 e.toNat :=
  foldl_keeps (P := fun t : State => t.mem = memWrite s.mem at_ 8 e.toNat) rfl fun t l ht => (trackPage_mem t l).trans ht

/-- An entry that has been written reads back, and no other byte has changed. -/
theorem writeEntry_reads (h : s.mem.wf = true) : memRead (writeEntry s asid va bits at_ e).mem at_ 8 = e.toNat ∧
    ∀ a, a < at_ ∨ at_ + 8 ≤ a → memByte (writeEntry s asid va bits at_ e).mem a = memByte s.mem a := by
  rw [writeEntry_mem]
  obtain ⟨hread, -, hother, -⟩ := memoryReadsBackAWrite s.mem at_ 8 e.toNat h
  exact ⟨hread.trans (Nat.mod_eq_of_lt e.isLt), hother⟩

/-- A leaf entry stands for its own page. -/
theorem leavesUnder_leaf (hv : entryV e = true) (hl : entryLeaf e = true) (hb : bits ≠ 39)
    (hwf : leafWf s.product bits e = true) :
    leavesUnder s asid va bits at_ e = [⟨asid, va / 2 ^ bits * 2 ^ bits, at_, bits, e⟩] := by
  simp [leavesUnder, hv, hl, hb, hwf]

/-- An entry that is not valid stands for no page. -/
theorem leavesUnder_invalid (hv : entryV e = false) : leavesUnder s asid va bits at_ e = [] := by simp [leavesUnder, hv]

/-- A page would reach the device's own tables through the entry. -/
def reachesTables (s : State) (asid va bits at_ : Nat) (e : Word) : Bool :=
  (leavesUnder s asid va bits at_ e).any (fun l => leafHK l.e != 2 && holdsDeviceTable s (leafFrame l.e) (2 ^ l.bits))

theorem reachesTables_iff : reachesTables s asid va bits at_ e = true ↔
    ∃ l ∈ leavesUnder s asid va bits at_ e, leafHK l.e ≠ 2 ∧ holdsDeviceTable s (leafFrame l.e) (2 ^ l.bits) = true := by
  simp [reachesTables]

/-- Voxind places a page where R229 has it. -/
def mapPlaced (s : State) (asid : Nat) (leaf : Word) : MapHow → Bool
  | .onFault core => faultHome s asid core leaf
  | _ => true

/-- The level of the entry on the context's walk. -/
def levelOf (s : State) (asid va at_ : Nat) : Option Nat :=
  (s.ctx? asid).bind (fun c => entryLevel s va at_ walkLevels c.root)

section
variable (hp : physExists s.product entry.toNat = true) (h8 : entry.toNat % 8 = 0)
include hp h8

theorem exec_pageMap_outside (hl : levelOf s asid va entry.toNat = none) :
    exec (.pageMap asid va entry leaf how) s = .next { s with mem := memWrite s.mem entry.toNat 8 leaf.toNat } := by
  rw [show exec (.pageMap asid va entry leaf how) s = execPageMap asid va entry leaf how s from rfl]
  unfold execPageMap
  dsimp only
  rw [levelOf] at hl
  rw [if_neg (by simp [hp, h8]), hl]

theorem exec_pageMap (hl : levelOf s asid va entry.toNat = some bits) : exec (.pageMap asid va entry leaf how) s = .next (
    if (!mapPlaced s asid leaf how || reachesTables s asid va bits entry.toNat leaf) = true then s
    else settleDemotion (writeEntry (prepareFrames s (leavesUnder s asid va bits entry.toNat leaf) (entryLeaf leaf) how)
      asid va bits entry.toNat leaf)) := by
  rw [show exec (.pageMap asid va entry leaf how) s = execPageMap asid va entry leaf how s from rfl]
  unfold execPageMap
  dsimp only
  rw [levelOf] at hl
  rw [if_neg (by simp [hp, h8]), hl]
  dsimp only
  rw [apply_ite Host.Outcome.next]
  cases how <;> rfl

end

/-- A frame that no page is mapped to is zeroed before a page is mapped to it. -/
theorem memByte_prepareFrames_fresh (h : s.mem.wf = true) {x : Leaf} (hhow : ∀ frame, how ≠ .copyOf frame) (hk : leafHK x.e ≠ 2)
    (hfree : (allLeaves s).all (fun l => !l.maps (leafFrame x.e) (2 ^ x.bits)) = true) (hb : 16 ≤ x.bits) {i : Nat}
    (hi : i < 2 ^ x.bits) (leaf : Bool) : memByte (prepareFrames s [x] leaf how).mem (leafFrame x.e + i) = 0 := by
  have hzero : prepareFrames s [x] leaf how = zeroFrame s (leafFrame x.e) x.bits := by
    have hcond : (leafHK x.e != 2 && (allLeaves s).all (fun l => !l.maps (leafFrame x.e) (2 ^ x.bits))) = true := by
      simp [hk, hfree]
    cases how with
    | copyOf frame => exact absurd rfl (hhow frame)
    | fresh => exact if_pos hcond
    | onFault core => exact if_pos hcond
  rw [hzero, memByte_zeroFrame h, inFrame_frameLines (leafFrame_aligned _) hb, if_pos (decide_eq_true (by omega))]

/-- The frame of a page that Voxind moves takes the bytes of its earlier frame. -/
theorem memByte_prepareFrames_copy (h : s.mem.wf = true) {x : Leaf} {frame : Nat} (hk : leafHK x.e ≠ 2) (hb : 16 ≤ x.bits)
    (hf : frame % 128 = 0) {i : Nat} (hi : i < 2 ^ x.bits) :
    memByte (prepareFrames s [x] true (.copyOf frame)).mem (leafFrame x.e + i) = memByte s.mem (frame + i) := by
  have hcopy : (prepareFrames s [x] true (.copyOf frame)).mem = (copyFrame s frame (leafFrame x.e) x.bits).mem := by
    simp [prepareFrames, hk]
  rw [hcopy, memByte_copyFrame h hb hf (leafFrame_aligned _) hi]

/-- An entry that is written stands for its page from then on: the frame reads 0, or as the frame the page is moved from. -/
theorem pageMap_written (h : s.mem.wf = true) (hp : physExists s.product entry.toNat = true) (h8 : entry.toNat % 8 = 0)
    (hreach : ∀ b, levelOf s asid va entry.toNat = some b → reachesTables s asid va b entry.toNat leaf = false)
    (hplaced : levelOf s asid va entry.toNat ≠ none → mapPlaced s asid leaf how = true) :
    ∃ t, exec (.pageMap asid va entry leaf how) s = .next t ∧ memRead t.mem entry.toNat 8 = leaf.toNat ∧
      ∀ b, levelOf s asid va entry.toNat = some b → b ≠ 39 → entryV leaf = true → entryLeaf leaf = true →
        leafWf s.product b leaf = true → leafHK leaf ≠ 2 → 16 ≤ b → ∀ i < 2 ^ b,
        leafFrame leaf + i < entry.toNat ∨ entry.toNat + 8 ≤ leafFrame leaf + i →
        ((∀ frame, how ≠ .copyOf frame) → (allLeaves s).all (fun l => !l.maps (leafFrame leaf) (2 ^ b)) = true →
          memByte t.mem (leafFrame leaf + i) = 0) ∧
        (∀ frame, how = .copyOf frame → frame % 128 = 0 →
          memByte t.mem (leafFrame leaf + i) = memByte s.mem (frame + i)) := by
  cases hl : levelOf s asid va entry.toNat with
  | none =>
    refine ⟨_, exec_pageMap_outside hp h8 hl, ?_, fun b hb => nomatch hb⟩
    obtain ⟨hread, -⟩ := memoryReadsBackAWrite s.mem entry.toNat 8 leaf.toNat h
    exact hread.trans (Nat.mod_eq_of_lt leaf.isLt)
  | some b =>
    have hcond : ¬ (!mapPlaced s asid leaf how || reachesTables s asid va b entry.toNat leaf) = true := by
      rw [hplaced (by rw [hl]; exact Option.some_ne_none b), hreach b hl]
      exact Bool.false_ne_true
    have hwf := (Canonical.prepareFrames (l := leavesUnder s asid va b entry.toNat leaf) (leaf := entryLeaf leaf) (x := how) ⟨h⟩).wf
    obtain ⟨hread, hother⟩ := writeEntry_reads (asid := asid) (va := va) (bits := b) (at_ := entry.toNat) (e := leaf) hwf
    refine ⟨_, (exec_pageMap hp h8 hl).trans (congrArg Host.Outcome.next (if_neg hcond)), hread, ?_⟩
    rintro b' ⟨⟩ hb39 hv hleaf hlwf hk hb i hi hout
    refine ⟨fun hhow hfree => (hother _ hout).trans ?_, fun frame hhow hf => (hother _ hout).trans ?_⟩
    · rw [leavesUnder_leaf hv hleaf hb39 hlwf]
      exact memByte_prepareFrames_fresh (x := ⟨asid, va / 2 ^ b * 2 ^ b, entry.toNat, b, leaf⟩) h hhow hk hfree hb hi _
    · rw [leavesUnder_leaf hv hleaf hb39 hlwf, hleaf, hhow]
      exact memByte_prepareFrames_copy (x := ⟨asid, va / 2 ^ b * 2 ^ b, entry.toNat, b, leaf⟩) h hk hb hf hi

/-- PAGE_UNMAP: the pages that the entry stood for are remembered until their shootdown, and their moves are abandoned. -/
theorem pageUnmap_effect (h : s.mem.wf = true) (hl : levelOf s asid va entry.toNat = some bits) :
    let old := leavesUnder s asid va bits entry.toNat (BitVec.ofNat 64 (memRead s.mem entry.toNat 8))
    ∃ t, exec (.pageUnmap asid va entry) s = .next t ∧ memRead t.mem entry.toNat 8 = 0 ∧
      (∀ a, a < entry.toNat ∨ entry.toNat + 8 ≤ a → memByte t.mem a = memByte s.mem a) ∧
      (∀ m, m ∈ t.moves ↔ m ∈ s.moves ∧ ∀ l ∈ old, l.at_ ≠ m.at_) ∧
      t.olds = s.olds ++ old.map (fun l => ⟨l.asid, l.va, l.bits, lineOf (leafLoc l.bits l.e l.va)⟩) := by
  intro old
  obtain ⟨hread, hother⟩ := writeEntry_reads (asid := asid) (va := va) (bits := bits) (at_ := entry.toNat) (e := 0) h
  have hwrite : writeEntry s asid va bits entry.toNat 0 = { abandonMoves (retirePages s old) old with
      mem := memWrite s.mem entry.toNat 8 0, pageLogs := s.pageLogs.filter (fun x => x.at_ != entry.toNat) } := by
    unfold writeEntry
    dsimp only
    rw [leavesUnder_invalid (e := 0) rfl]
    rfl
  refine ⟨settleDemotion (writeEntry s asid va bits entry.toNat 0), ?_, hread, hother, fun m => ?_, ?_⟩
  · rw [show exec (.pageUnmap asid va entry) s = execPageUnmap asid va entry s from rfl]
    unfold execPageUnmap
    dsimp only
    rw [levelOf] at hl
    rw [hl]
  · have hmoves : (settleDemotion (writeEntry s asid va bits entry.toNat 0)).moves =
        s.moves.filter (fun m => old.all (fun x => x.at_ != m.at_)) := by
      rw [settleDemotion, hwrite]
      rfl
    rw [hmoves, List.mem_filter]
    simp
  · rw [settleDemotion, hwrite]
    rfl

end

/-! ### Shootdowns (R226, R238) -/

theorem vget_map_none {α : Type} {n : Nat} (f : Option α → Option α) (hf : f none = none) (v : Vector (Option α) n) (i : Nat) :
    vget (v.map f) i none = f (vget v i none) := by
  unfold vget
  by_cases h : i < n <;> simp [h, hf]

/-- No stream keeps a translation that is dropped. -/
theorem ahead_dropTranslations {s : State} {p : TlbEntry → Bool} {q : Nat} {r : StreamReg}
    (h : vget (dropTranslations s p).hart.q q none = some r) {a : Ahead} (ha : a ∈ r.ahead) : p a.entry = false := by
  rw [dropTranslations, mapHarts_hart, vget_map_none _ rfl, Option.map_eq_some_iff] at h
  obtain ⟨r', -, rfl⟩ := h
  simpa using (List.mem_filter.1 ha).2

section
variable {s : State} {k : Nat} {x : Shootdown}

/-- The old pages that a shootdown replaces. -/
def replaced (s : State) (x : Shootdown) : List OldPage :=
  s.olds.filter (fun o => o.asid == x.asid && meetsPage x.va x.len o.base o.bits)

/-- The scalar L1s' lines of a list of old pages written back and dropped. -/
def flushPages (s : State) (l : List OldPage) : State := l.foldl (fun s o => s.l1Flush (fun y => inFrame o.lines y.line)) s

theorem onlyAccess_flushPages (l : List OldPage) : OnlyAccess s (flushPages s l) :=
  foldl_keeps (P := OnlyAccess s) rfl fun _ _ ht => OnlyAccess.trans ht (onlyAccess_l1Flush _ _)

theorem flushPages_l1 (l : List OldPage) {o : OldPage} (ho : o ∈ l) {y : L1Line} (hy : y ∈ (flushPages s l).l1) :
    inFrame o.lines y.line = false := by
  have hkept : (flushPages s l).l1 = s.l1.filter (fun y => l.all (fun o => !inFrame o.lines y.line)) := by
    clear ho hy
    induction l generalizing s with
    | nil => simp [flushPages]
    | cons o l ih =>
      change (flushPages (s.l1Flush _) l).l1 = _
      rw [ih, l1Flush_l1, List.filter_filter]
      exact List.filter_congr fun y _ => Bool.and_comm _ _
  rw [hkept, List.mem_filter, List.all_eq_true] at hy
  simpa using hy.2 o ho

/-- A write to a replaced page is held. -/
def holdsReplaced (s : State) (l : List OldPage) : Bool :=
  (flushPages s l).contexts.any (fun c => c.held.any (fun w => l.any (fun o => inFrame o.lines w.line)))

theorem shootdownComplete_waits (hx : s.shoots[k]? = some x) (hheld : holdsReplaced s (replaced s x) = true) :
    exec (.shootdownComplete k) s = .next (flushPages s (replaced s x)) := by
  rw [show exec (.shootdownComplete k) s = execShootdownComplete k s from rfl]
  unfold execShootdownComplete
  rw [hx]
  exact if_pos hheld

theorem untrackPages_eq (l : List OldPage) (t : State) : l.foldl (fun s o => untrackPage s o.asid o.lines) t =
    { t with contexts := (l.foldl (fun s o => untrackPage s o.asid o.lines) t).contexts } :=
  foldl_keeps (P := fun w : State => w = { t with contexts := w.contexts }) rfl fun w o hw => by
    rw [untrackPage, State.mapCtx, hw]

theorem shootdownComplete_effect (hx : s.shoots[k]? = some x) (hheld : holdsReplaced s (replaced s x) = false) :
    ∃ t, exec (.shootdownComplete k) s = .next t ∧ t.shoots = s.shoots.eraseIdx k ∧
      t.tlb = s.tlb.filter (fun e => !(e.asid == x.asid && meetsPage x.va x.len e.base e.bits)) ∧
      (∀ o ∈ replaced s x, ∀ y ∈ t.l1, inFrame o.lines y.line = false) ∧
      t.olds = s.olds.filter (fun o => !(o.asid == x.asid && meetsPage x.va x.len o.base o.bits)) ∧
      ∀ q r, vget t.hart.q q none = some r → ∀ a ∈ r.ahead,
        (a.entry.asid == x.asid && meetsPage x.va x.len a.entry.base a.entry.bits) = false := by
  let u := flushPages s (replaced s x)
  have hu : OnlyAccess s u := onlyAccess_flushPages _
  let w := dropTranslations { u with
      shoots := u.shoots.eraseIdx k, olds := u.olds.filter (fun o => !(o.asid == x.asid && meetsPage x.va x.len o.base o.bits)) }
    (fun y => y.asid == x.asid && meetsPage x.va x.len y.base y.bits)
  have hexec : exec (.shootdownComplete k) s =
      .next ((replaced s x).foldl (fun s o => untrackPage s o.asid o.lines) w) := by
    rw [show exec (.shootdownComplete k) s = execShootdownComplete k s from rfl]
    unfold execShootdownComplete
    rw [hx]
    exact if_neg (ne_true_of_eq_false hheld)
  have heq := untrackPages_eq (replaced s x) w
  refine ⟨_, hexec, ?_, ?_, fun o ho y hy => ?_, ?_, fun q r hq a ha => ?_⟩
  · rw [heq]
    exact congrArg (List.eraseIdx · k) (congrArg State.shoots hu :)
  · rw [heq]
    exact congrArg (List.filter _) (congrArg State.tlb hu :)
  · rw [heq] at hy
    exact flushPages_l1 _ ho hy
  · rw [heq]
    exact congrArg (List.filter _) (congrArg State.olds hu :)
  · rw [heq] at hq
    exact ahead_dropTranslations hq ha

end

/-! ### Sweeps and logs (R227, R229, R232) -/

theorem memRead_add (m : Memory) (a n k : Nat) : memRead m a (n + k) = memRead m a n + 256 ^ n * memRead m (a + n) k := by
  induction k with
  | zero => rw [Nat.add_zero, memRead, Nat.mul_zero, Nat.add_zero]
  | succ k ih => rw [← Nat.add_assoc, memRead, ih, memRead, Nat.add_assoc a, pow_add]; ring

theorem memRead_congr {m m' : Memory} {a b n : Nat} (h : ∀ i < n, memByte m' (a + i) = memByte m (b + i)) :
    memRead m' a n = memRead m b n := by
  induction n with
  | zero => rfl
  | succ n ih => rw [memRead, memRead, ih fun i hi => h i (by omega), h n (by omega)]

/-- Bits of the low sixteen cleared in a doubleword: the rest of it is as before. -/
theorem clear_low {lo hi c : Nat} (hlo : lo < 2 ^ 16) (hhi : hi < 2 ^ 48) (hc : c < 2 ^ 16) :
    (lo &&& (0xFFFF ^^^ c)) + 2 ^ 16 * hi = (BitVec.ofNat 64 (lo + 2 ^ 16 * hi) &&& ~~~(BitVec.ofNat 64 c)).toNat := by
  have hbit (x : Nat) (hx : x < 2 ^ 16) (i : Nat) : (x + 2 ^ 16 * hi).testBit i =
      if i < 16 then x.testBit i else hi.testBit (i - 16) := by
    rw [Nat.add_comm, Nat.testBit_two_pow_mul_add _ hx]
  have hand : lo &&& (0xFFFF ^^^ c) < 2 ^ 16 := Nat.and_lt_two_pow _ (Nat.xor_lt_two_pow (by decide) hc)
  refine Nat.eq_of_testBit_eq fun i => ?_
  rw [hbit _ hand, BitVec.testBit_toNat, BitVec.getLsbD_and, BitVec.getLsbD_not, BitVec.getLsbD_ofNat, BitVec.getLsbD_ofNat,
    hbit _ hlo]
  by_cases hi16 : i < 16
  · have hones : (0xFFFF : Nat).testBit i = true := by
      rw [show (0xFFFF : Nat) = 2 ^ 16 - 1 from rfl, Nat.testBit_two_pow_sub_one, decide_eq_true hi16]
    simp [hi16, (by omega : i < 64), Nat.testBit_and, Nat.testBit_xor, hones]
  · have hzero : c.testBit i = false := Nat.testBit_lt_two_pow (hc.trans_le (Nat.pow_le_pow_right (by decide) (by omega)))
    by_cases hi64 : i < 64
    · simp [hi16, hi64, hzero]
    · have hhigh : hi.testBit (i - 16) = false :=
        Nat.testBit_lt_two_pow (hhi.trans_le (Nat.pow_le_pow_right (by decide) (by omega)))
      simp [hi16, hi64, hhigh]

section
variable {s : State} {at_ : Nat}

/-- An entry with bits of its low sixteen cleared. -/
theorem memRead_markLeaf (h : s.mem.wf = true) {c : Nat} (hc : c < 2 ^ 16) :
    memRead (markLeaf s at_ 0 c).mem at_ 8 = (BitVec.ofNat 64 (memRead s.mem at_ 8) &&& ~~~(BitVec.ofNat 64 c)).toNat := by
  have hlo := memRead_lt s.mem at_ 2
  have hand : memRead s.mem at_ 2 &&& (0xFFFF ^^^ c) < 2 ^ 16 := Nat.and_lt_two_pow _ (Nat.xor_lt_two_pow (by decide) hc)
  obtain ⟨hread, -, hother, -⟩ := memoryReadsBackAWrite s.mem at_ 2 ((memRead s.mem at_ 2 ||| 0) &&& (0xFFFF ^^^ c)) h
  rw [markLeaf, show (8 : Nat) = 2 + 6 from rfl, memRead_add _ at_ 2 6, memRead_add _ at_ 2 6]
  dsimp only
  rw [hread, memRead_congr fun i _ => hother (at_ + 2 + i) (by omega), Nat.or_zero,
    Nat.mod_eq_of_lt (show _ < 256 ^ 2 from hand)]
  exact clear_low hlo (memRead_lt s.mem (at_ + 2) 6) hc

theorem pageLog_at (a : Nat) : (pageLog s a).at_ = a := by
  rw [pageLog]
  cases hfind : s.pageLogs.find? (fun x => x.at_ == a) with
  | none => rfl
  | some x => exact beq_iff_eq.1 (List.find?_some (p := fun x : PageLog => x.at_ == a) hfind)

theorem pageLog_map (f : PageLog → PageLog) (hf : ∀ x, (f x).at_ = x.at_) {a : Nat} (h0 : f { at_ := a } = { at_ := a })
    {t : State} (ht : t.pageLogs = s.pageLogs.map f) : pageLog t a = f (pageLog s a) := by
  rw [pageLog, pageLog, ht, List.find?_map]
  have hcomp : ((fun x : PageLog => x.at_ == a) ∘ f) = fun x => x.at_ == a := funext fun x => by rw [Function.comp, hf]
  rw [hcomp]
  cases s.pageLogs.find? (fun x => x.at_ == a) with
  | none => exact h0.symm
  | some x => rfl

/-- A page's log with its misses counted anew where a test holds. -/
def missesAnew (p : Nat → Bool) (x : PageLog) : PageLog := if p x.at_ then { x with misses := [] } else x

theorem misses_of_anew {t : State} {p : Nat → Bool} (ht : t.pageLogs = s.pageLogs.map (missesAnew p)) {a : Nat} (ha : p a = true) :
    (pageLog t a).misses = [] := by
  have hat (x : PageLog) : (missesAnew p x).at_ = x.at_ := by
    unfold missesAnew
    split <;> rfl
  rw [pageLog_map _ hat (by rw [missesAnew, if_pos ha]) ht, missesAnew, pageLog_at, if_pos ha]

/-- The leaf of an entry swept, in sweep `n`. -/
def sweptEntry (n : Nat) (s : State) (at_ : Nat) : State :=
  { markLeaf s at_ 0 0x1A0 with
    swept := (at_, n) :: s.swept.filter (·.1 != at_),
    pageLogs := s.pageLogs.map (missesAnew (· == at_)) }

/-- An entry swept, in sweep `n`. -/
def sweepEntry (n : Nat) (s : State) (at_ : Nat) : State :=
  let e := BitVec.ofNat 64 (memRead s.mem at_ 8)
  if physExists s.product at_ && entryV e && entryLeaf e then sweptEntry n s at_ else s

theorem exec_pageSweep (l : List Nat) : exec (.pageSweep l) s =
    .next { l.foldl (sweepEntry (s.sweeps + 1)) s with sweeps := s.sweeps + 1 } := rfl

theorem sweepEntry_leaf (n : Nat) (hp : physExists s.product at_ = true)
    (hv : entryV (BitVec.ofNat 64 (memRead s.mem at_ 8)) = true) (hl : entryLeaf (BitVec.ofNat 64 (memRead s.mem at_ 8)) = true) :
    sweepEntry n s at_ = sweptEntry n s at_ := by
  rw [sweepEntry]
  exact if_pos (by rw [hp, hv, hl]; rfl)

theorem lastSweep_sweptEntry (n : Nat) : lastSweep (sweptEntry n s at_) at_ = n := by
  rw [lastSweep, sweptEntry, List.find?_cons_of_pos (p := fun x : Nat × Nat => x.1 == at_) (beq_self_eq_true at_)]
  rfl

/-- PAGE_SWEEP of one leaf. -/
theorem pageSweep_effect (h : s.mem.wf = true) (hp : physExists s.product at_ = true)
    (hv : entryV (BitVec.ofNat 64 (memRead s.mem at_ 8)) = true) (hl : entryLeaf (BitVec.ofNat 64 (memRead s.mem at_ 8)) = true) :
    ∃ t, exec (.pageSweep [at_]) s = .next t ∧
      t = { s with mem := t.mem, swept := t.swept, sweeps := s.sweeps + 1, pageLogs := t.pageLogs } ∧
      memRead t.mem at_ 8 = (BitVec.ofNat 64 (memRead s.mem at_ 8) &&& ~~~0x1A0).toNat ∧ lastSweep t at_ = s.sweeps + 1 ∧
      (pageLog t at_).misses = [] := by
  have hexec : exec (.pageSweep [at_]) s = .next { sweptEntry (s.sweeps + 1) s at_ with sweeps := s.sweeps + 1 } := by
    rw [exec_pageSweep, List.foldl_cons, List.foldl_nil, sweepEntry_leaf (s.sweeps + 1) hp hv hl]
  exact ⟨_, hexec, rfl, memRead_markLeaf h (c := 0x1A0) (by decide), lastSweep_sweptEntry (s.sweeps + 1),
    misses_of_anew (t := sweptEntry (s.sweeps + 1) s at_) (p := (· == at_)) rfl (beq_self_eq_true at_)⟩

theorem pageLog_set_same (x : PageLog) : pageLog (setPageLog s x) x.at_ = x := by
  rw [pageLog, setPageLog, List.find?_cons_of_pos (p := fun y : PageLog => y.at_ == x.at_) (beq_self_eq_true x.at_)]
  rfl

theorem pageLog_set_other (x : PageLog) {a : Nat} (h : a ≠ x.at_) : pageLog (setPageLog s x) a = pageLog s a := by
  rw [pageLog, setPageLog, List.find?_cons_of_neg (p := fun y : PageLog => y.at_ == a) (by simpa using Ne.symm h),
    find?_filter_ne _ h]
  rfl

/-- A page logs a miss or a request. -/
theorem notePage_effect {asid va bits core : Nat} {e : Word} {c : Context} {miss : Bool} (hc : s.ctx? asid = some c)
    (hw : walk s c.root va = .leaf at_ bits e) (hk : leafHK e ≠ 2) :
    let t := notePage s core asid va miss
    t = { s with pageLogs := t.pageLogs } ∧ (pageLog t at_).recent = (core :: (pageLog s at_).recent).take 64 ∧
      (pageLog t at_).misses = (if miss then core :: (pageLog s at_).misses else (pageLog s at_).misses) ∧
      ∀ x, x ≠ at_ → pageLog t x = pageLog s x := by
  have hroot : rootOf s asid = c.root := by rw [rootOf, hc]; rfl
  have hnote : notePage s core asid va miss = setPageLog s ((pageLog s at_).note core miss) := by
    have hd : Machine.notePage = Machine.notePage := rfl
    conv at hd => rhs; delta Machine.notePage
    rw [hd]
    beta_reduce
    rw [hroot, hw]
    exact if_neg (by simpa using hk)
  have hat : ((pageLog s at_).note core miss).at_ = at_ := pageLog_at at_
  have hsame := pageLog_set_same (s := s) ((pageLog s at_).note core miss)
  rw [hat] at hsame
  intro t
  rw [show t = setPageLog s ((pageLog s at_).note core miss) from hnote, hsame]
  exact ⟨rfl, rfl, rfl, fun x hx => pageLog_set_other _ (hat.symm ▸ hx)⟩

end

end Sys2Proof.Machine
end

section
/-!
LAW. Lines copied from one frame to another, entries that come to name a new home, the migration of pages and the victim
queue (R226 to R231). Settles O53.
-/

namespace Sys2Proof.Machine

/-! ### Lines copied again (R230) -/

theorem memLine_congr {m m' : Memory} {a b : Nat} (h : ∀ i < 128, memByte m' (128 * a + i) = memByte m (128 * b + i)) :
    memLine m' a = memLine m b := congrArg (BitVec.ofNat 1024) (memRead_congr h)

theorem extractLsb'_memLine (m : Memory) (line : Nat) {i : Nat} (hi : i < 128) :
    (memLine m line).extractLsb' (8 * i) 8 = memByte m (128 * line + i) := by
  rw [memLine, extractLsb'_line hi, byteAt_memRead _ _ hi]

theorem memLine_memPutLine_same {m : Memory} (h : m.wf = true) (to_ line : Nat) :
    memLine (memPutLine m to_ (memLine m line) (BitVec.allOnes 128)) to_ = memLine m line :=
  memLine_congr fun i hi => by
    rw [memByte_memPutLine h _ _ _ hi, if_pos (by rw [BitVec.getLsbD_allOnes, decide_eq_true hi]), extractLsb'_memLine m line hi]

theorem memLine_memPutLine_other {m : Memory} (h : m.wf = true) {a b : Nat} (hab : a ≠ b) (data : Line) (mask : BitVec 128) :
    memLine (memPutLine m b data mask) a = memLine m a :=
  memLine_congr fun i hi => memByte_memPutLine_other h (fun hb => hab (by have := hb.1; rw [lineOf] at this; omega)) data

section
variable {s : State} {m : Migration}

/-- Where the lines of a move go. -/
def newLine (m : Migration) (line : Nat) : Nat := line - lineOf m.frame + lineOf (leafFrame m.leaf)

theorem recopyLine_eq (line : Nat) : recopyLine m s line =
    { s with mem := memPutLine s.mem (newLine m line) (memLine s.mem line) (BitVec.allOnes 128), poison := (recopyLine m s line).poison } :=
  rfl

theorem recopyLine_mem (line : Nat) : (recopyLine m s line).mem =
    memPutLine s.mem (newLine m line) (memLine s.mem line) (BitVec.allOnes 128) := by
  rw [recopyLine_eq]

theorem wf_recopyLine (h : s.mem.wf = true) (line : Nat) : (recopyLine m s line).mem.wf = true := by
  rw [recopyLine_mem]
  exact wf_memPutLine h _ _ _

/-- The lines of a list copied again. -/
def recopied (m : Migration) (s : State) (l : List Nat) : State := l.foldl (recopyLine m) s

theorem recopied_eq (l : List Nat) : recopied m s l =
    { s with mem := (recopied m s l).mem, poison := (recopied m s l).poison } :=
  foldl_keeps (P := fun t : State => t = { s with mem := t.mem, poison := t.poison }) rfl fun t line ht => by
    rw [recopyLine_eq, ht]

theorem wf_recopied (h : s.mem.wf = true) (l : List Nat) : (recopied m s l).mem.wf = true :=
  foldl_keeps (P := fun t : State => t.mem.wf = true) h fun _ line ht => wf_recopyLine ht line

/-- A frame and the one its lines go to have no line in common. -/
def movesApart (m : Migration) : Prop :=
  lineOf m.frame + 2 ^ m.bits / 128 ≤ lineOf (leafFrame m.leaf) ∨ lineOf (leafFrame m.leaf) + 2 ^ m.bits / 128 ≤ lineOf m.frame

theorem inFrame_iff {frame bits x : Nat} :
    inFrame (frameLines frame bits) x = true ↔ lineOf frame ≤ x ∧ x < lineOf frame + 2 ^ bits / 128 := by
  rw [inFrame, decide_eq_true_eq]
  rfl

theorem newLine_outside (hapart : movesApart m) {x y : Nat} (hx : inFrame (frameLines m.frame m.bits) x = true)
    (hy : inFrame (frameLines m.frame m.bits) y = true) : x ≠ newLine m y := by
  rw [inFrame_iff] at hx hy
  rw [movesApart] at hapart
  rw [newLine]
  omega

theorem newLine_ne {x y : Nat} (hx : inFrame (frameLines m.frame m.bits) x = true)
    (hy : inFrame (frameLines m.frame m.bits) y = true) (h : x ≠ y) : newLine m x ≠ newLine m y := by
  rw [inFrame_iff] at hx hy
  rw [newLine, newLine]
  omega

/-- Each line of the list stands at its new place, as does each that stood there already; the old frame is as before. -/
theorem recopied_lines (h : s.mem.wf = true) (hapart : movesApart m) (l : List Nat)
    (hl : ∀ x ∈ l, inFrame (frameLines m.frame m.bits) x = true) :
    (∀ x, inFrame (frameLines m.frame m.bits) x = true → memLine (recopied m s l).mem x = memLine s.mem x) ∧
    ∀ x, inFrame (frameLines m.frame m.bits) x = true → x ∈ l ∨ memLine s.mem (newLine m x) = memLine s.mem x →
      memLine (recopied m s l).mem (newLine m x) = memLine (recopied m s l).mem x := by
  induction l generalizing s with
  | nil => exact ⟨fun _ _ => rfl, fun x _ hx => hx.resolve_left (List.not_mem_nil)⟩
  | cons y l ih =>
    have hy := hl y (List.mem_cons_self ..)
    have hmem := recopyLine_mem (s := s) (m := m) y
    have hold : ∀ x, inFrame (frameLines m.frame m.bits) x = true → memLine (recopyLine m s y).mem x = memLine s.mem x := by
      intro x hx
      rw [hmem]
      exact memLine_memPutLine_other h (newLine_outside hapart hx hy) _ _
    have hrest := ih (wf_recopyLine (m := m) h y) fun x hx => hl x (List.mem_cons_of_mem _ hx)
    obtain ⟨hsame, hnew⟩ := hrest
    have hcons : recopied m s (y :: l) = recopied m (recopyLine m s y) l := by rw [recopied, recopied, List.foldl_cons]
    rw [hcons]
    refine ⟨fun x hx => (hsame x hx).trans (hold x hx), fun x hx hcase => hnew x hx ?_⟩
    by_cases hxy : x = y
    · subst hxy
      refine .inr (Eq.trans ?_ (hold x hx).symm)
      rw [hmem, memLine_memPutLine_same h]
    · refine hcase.imp (fun hin => (List.mem_cons.1 hin).resolve_left hxy) fun heq => ?_
      rw [hold x hx, hmem, memLine_memPutLine_other h (newLine_ne hx hy hxy), heq]

/-! ### The start of a move (R229, R230) -/

/-- The dirty bytes of a frame written back, its copies kept. -/
def cleanedFrame (s : State) (x : Nat × Nat) : State := (s.l1Clean (fun y => inFrame x y.line)).l2Clean (fun y => inFrame x y.line)

theorem onlyAccess_cleanedFrame (x : Nat × Nat) : OnlyAccess s (cleanedFrame s x) :=
  (onlyAccess_l1Clean s _).trans (onlyAccess_l2Clean _ _)

theorem wf_cleanedFrame (h : s.mem.wf = true) (x : Nat × Nat) : (cleanedFrame s x).mem.wf = true :=
  (Canonical.l2Clean (Canonical.l1Clean ⟨h⟩)).wf

theorem l2Clean_l2 (s : State) (p : L2Line → Bool) :
    (s.l2Clean p).l2 = s.l2.map (fun x => if p x then { x with dirty := 0 } else x) :=
  foldl_keeps (P := fun t : State => t.l2 = s.l2.map (fun x => if p x then { x with dirty := 0 } else x)) rfl fun _ _ ht => ht

theorem clean_cleanedFrame {x : Nat × Nat} {y : L2Line} (hy : y ∈ (cleanedFrame s x).l2) (hin : inFrame x y.line = true) :
    y.dirty = 0 := by
  rw [cleanedFrame, l2Clean_l2] at hy
  obtain ⟨z, -, rfl⟩ := List.mem_map.1 hy
  split
  · rfl
  · next hz =>
    rw [if_neg hz] at hin
    exact absurd hin hz

/-- The engine of the stack is busy with a move, or one has to do with the page. -/
def moveBusy (s : State) (at_ bits : Nat) (e new : Word) : Bool :=
  s.moves.any (fun m => m.at_ == at_ || meetsBytes (leafFrame e) (2 ^ bits) (m.frame, 2 ^ m.bits) ||
    moveStack (m.page s).e m.leaf == moveStack e new)

/-- What lets a page move. -/
def moveMayStart (s : State) (l : Leaf) (new : Word) : Bool :=
  mayMigrate s l && leafWf s.product l.bits new && moveTrigger s l new && !moveBusy s l.at_ l.bits l.e new &&
    frameFree s (leafFrame new) (2 ^ l.bits)

/-- The state in which the move of a page has started. -/
def moveStarted (s : State) (l : Leaf) (new : Word) : State :=
  let t := (copyFrame (cleanedFrame s (frameLines (leafFrame l.e) l.bits)) (leafFrame l.e) (leafFrame new) l.bits).owe { asid := l.asid }
  { t with
    moves := t.moves ++ [{ asid := l.asid, base := l.va, bits := l.bits, at_ := l.at_, frame := leafFrame l.e, leaf := new }],
    demoting := if leafHK l.e == 0 && leafHK new == 1 && !t.demoting.contains (leafHome l.e / 64) then leafHome l.e / 64 :: t.demoting
      else t.demoting }

section
variable {asid va at_ bits : Nat} {e leaf : Word} {c : Context}

theorem exec_migrationStart (hc : s.ctx? asid = some c) (hw : walk s c.root va = .leaf at_ bits e) :
    exec (.migrationStart asid va leaf) s = .next (
      if moveMayStart s ⟨asid, va / 2 ^ bits * 2 ^ bits, at_, bits, e⟩ (rehome e leaf) = true
      then moveStarted s ⟨asid, va / 2 ^ bits * 2 ^ bits, at_, bits, e⟩ (rehome e leaf) else s) := by
  rw [show exec (.migrationStart asid va leaf) s = execMigrationStart asid va leaf s from rfl]
  unfold execMigrationStart
  rw [hc, Option.map_some, hw]
  dsimp only
  rw [apply_ite Host.Outcome.next]
  rfl

end

theorem moveBusy_eq_false {at_ bits : Nat} {e new : Word} (h : ∀ m ∈ s.moves, m.at_ ≠ at_ ∧
    meetsBytes (leafFrame e) (2 ^ bits) (m.frame, 2 ^ m.bits) = false ∧ moveStack (m.page s).e m.leaf ≠ moveStack e new) :
    moveBusy s at_ bits e new = false := by
  rw [moveBusy, List.any_eq_false]
  intro m hm
  obtain ⟨hat, hmeets, hstack⟩ := h m hm
  simp [hat, hmeets, hstack]

theorem moveStarted_effect (h : s.mem.wf = true) (l : Leaf) (new : Word) :
    let t := moveStarted s l new
    t.moves.getLast? = some
      { asid := l.asid, base := l.va, bits := l.bits, at_ := l.at_, frame := leafFrame l.e, leaf := new } ∧
    { asid := l.asid } ∈ t.unpaid ∧
    (∀ y ∈ t.l2, inFrame (frameLines (leafFrame l.e) l.bits) y.line = true → y.dirty = 0) ∧
    (16 ≤ l.bits → leafFrame l.e + 2 ^ l.bits ≤ leafFrame new ∨ leafFrame new + 2 ^ l.bits ≤ leafFrame l.e → ∀ i < 2 ^ l.bits,
      memByte t.mem (leafFrame new + i) = memByte t.mem (leafFrame l.e + i)) := by
  let w := cleanedFrame s (frameLines (leafFrame l.e) l.bits)
  have hw : w.mem.wf = true := wf_cleanedFrame h _
  have howe := owe_eq (copyFrame w (leafFrame l.e) (leafFrame new) l.bits) { asid := l.asid }
  refine ⟨List.getLast?_concat, mem_owe _ _, fun y hy hin => ?_, fun hb hapart i hi => ?_⟩
  · refine clean_cleanedFrame (s := s) (x := frameLines (leafFrame l.e) l.bits) ?_ hin
    have hl2 : y ∈ (copyFrame w (leafFrame l.e) (leafFrame new) l.bits).l2 := by
      rw [← (congrArg State.l2 howe :)]
      exact hy
    exact (List.mem_filter.1 hl2).1
  · have hmem : (moveStarted s l new).mem = (copyFrame w (leafFrame l.e) (leafFrame new) l.bits).mem := (congrArg State.mem howe :)
    rw [hmem, memByte_copyFrame hw hb (leafFrame_aligned _) (leafFrame_aligned _) hi,
      memByte_copyFrame_other hw hb (leafFrame_aligned _) (leafFrame_aligned _) (by omega)]

/-! ### The hold of a move (R230) -/

theorem onlyAccess_flushFrame (m : Migration) : OnlyAccess s (flushFrame s m) :=
  (onlyAccess_l1Flush s _).trans (onlyAccess_l2Flush _ _)

theorem wf_flushFrame (h : s.mem.wf = true) (m : Migration) : (flushFrame s m).mem.wf = true :=
  (Canonical.flushFrame ⟨h⟩).wf

theorem flushFrame_l1 {y : L1Line} (hy : y ∈ (flushFrame s m).l1) : inFrame (frameLines m.frame m.bits) y.line = false := by
  rw [flushFrame, l2Flush_l1, l1Flush_l1] at hy
  simpa using (List.mem_filter.1 hy).2

theorem flushFrame_l2 {y : L2Line} (hy : y ∈ (flushFrame s m).l2) : inFrame (frameLines m.frame m.bits) y.line = false := by
  rw [flushFrame, l2Flush_l2] at hy
  simpa using (List.mem_filter.1 hy).2

/-- The move is given up: too many of its lines have been written, or something holds the page. -/
def moveGivenUp (f : State) (n : Migration) : Bool :=
  decide (2 ^ n.bits / 128 < 8 * n.marked.length) || !mayMigrate f (n.page f)

/-- The state in which new accesses to the page wait. -/
def heldMove (f : State) (k : Nat) (n : Migration) : State :=
  let t := (recopied n f n.marked).owe { asid := n.asid }
  { t with moves := t.moves.set k { n with phase := .hold, marked := [] } }

theorem exec_migrationHold {k : Nat} {n : Migration} (hm : s.moves[k]? = some m) (hcopy : m.phase = .copy)
    (hn : (flushFrame s m).moves[k]? = some n) : exec (.migrationHold k) s = .next (
      if moveGivenUp (flushFrame s m) n = true then { flushFrame s m with moves := (flushFrame s m).moves.eraseIdx k }
      else heldMove (flushFrame s m) k n) := by
  rw [show exec (.migrationHold k) s = execMigrationHold k s from rfl]
  unfold execMigrationHold
  rw [hm]
  dsimp only
  rw [hcopy, if_neg (by decide), hn]
  dsimp only
  rw [apply_ite Host.Outcome.next]
  rfl

theorem heldMove_eq (f : State) (k : Nat) (n : Migration) : heldMove f k n =
    { f with mem := (recopied n f n.marked).mem, poison := (recopied n f n.marked).poison, unpaid := (heldMove f k n).unpaid,
             moves := f.moves.set k { n with phase := .hold, marked := [] } } := by
  rw [heldMove, owe_eq (recopied n f n.marked), recopied_eq]

/-! ### The switch of a move (R229 to R231) -/

/-- The entries of a list written with the leaves that the move gives them. -/
def namedHome (m : Migration) (pages : List Leaf) (mem : Memory) : Memory :=
  pages.foldl (fun mem l => memWrite mem l.at_ 8 (movedLeaf m l.e).toNat) mem

theorem namedHome_keeps {mem : Memory} (h : mem.wf = true) (pages : List Leaf) {a : Nat}
    (ha : ∀ l ∈ pages, a < l.at_ ∨ l.at_ + 8 ≤ a) :
    (namedHome m pages mem).wf = true ∧ memByte (namedHome m pages mem) a = memByte mem a :=
  List.foldlRecOn (motive := fun x : Memory => x.wf = true ∧ memByte x a = memByte mem a) pages _ ⟨h, rfl⟩
    fun x hx l hl => by
      obtain ⟨-, -, hother, hwf⟩ := memoryReadsBackAWrite x l.at_ 8 (movedLeaf m l.e).toNat hx.1
      exact ⟨hwf, (hother a (ha l hl)).trans hx.2⟩

/-- Of entries that do not overlap, each reads as it was written. -/
theorem namedHome_reads {mem : Memory} (h : mem.wf = true) {pages : List Leaf}
    (hp : pages.Pairwise (fun x y => x.at_ + 8 ≤ y.at_ ∨ y.at_ + 8 ≤ x.at_)) {l : Leaf} (hl : l ∈ pages) :
    memRead (namedHome m pages mem) l.at_ 8 = (movedLeaf m l.e).toNat := by
  induction pages generalizing mem with
  | nil => exact absurd hl List.not_mem_nil
  | cons p pages ih =>
    obtain ⟨hread, -, -, hwf⟩ := memoryReadsBackAWrite mem p.at_ 8 (movedLeaf m p.e).toNat h
    obtain ⟨hfirst, hrest⟩ := List.pairwise_cons.1 hp
    have hcons : namedHome m (p :: pages) mem = namedHome m pages (memWrite mem p.at_ 8 (movedLeaf m p.e).toNat) := by
      rw [namedHome, namedHome, List.foldl_cons]
    rw [hcons]
    obtain rfl | hl := List.mem_cons.1 hl
    · refine (memRead_congr fun i hi => (namedHome_keeps hwf pages fun q hq => ?_).2).trans
        (hread.trans (Nat.mod_eq_of_lt (movedLeaf m l.e).isLt))
      have := hfirst q hq
      omega
    · exact ih hwf hrest hl

/-- The pages whose entries a switch writes. -/
def movedPages (u : State) (m : Migration) : List Leaf := m.page u :: aliases u (m.page u)

/-- The state after the switch of a move whose last lines have been copied. -/
def switched (u : State) (k : Nat) (m : Migration) : State :=
  settleDemotion (dropTranslations { u with
    pageLogs := u.pageLogs.map (missesAnew (fun a => (movedPages u m).any (·.at_ == a))),
    mem := namedHome m (movedPages u m) u.mem,
    barriers := u.barriers.map (fun b => { b with loc := movedLoc m b.loc }),
    contexts := u.contexts.map (fun c => { c with held := c.held.map (fun w => { w with line := lineOf (movedLoc m (128 * w.line)) }) }),
    moves := u.moves.eraseIdx k } (fun t => (movedPages u m).any (fun l => l.asid == t.asid && l.va == t.base)))

theorem exec_migrationSwitch {k : Nat} (hm : s.moves[k]? = some m) (hhold : m.phase = .hold) : exec (.migrationSwitch k) s = .next (
    if mayMigrate s (m.page s) = true
    then switched (recopied m (flushFrame s m) (((flushFrame s m).moves[k]?).getD m).marked) k m
    else { s with moves := s.moves.eraseIdx k }) := by
  rw [show exec (.migrationSwitch k) s = execMigrationSwitch k s from rfl]
  unfold execMigrationSwitch
  rw [hm]
  dsimp only
  rw [hhold, if_neg (by decide)]
  by_cases hmay : mayMigrate s (m.page s) = true
  · rw [if_pos hmay, if_neg (by simp [hmay])]
    rfl
  · rw [if_neg hmay, if_pos (by simp [hmay])]

theorem switched_ctx? {u : State} {k a : Nat} {c : Context} (hc : u.ctx? a = some c) :
    ∃ d, (switched u k m).ctx? a = some d ∧ d.held.map (·.line) = c.held.map (fun w => lineOf (movedLoc m (128 * w.line))) := by
  refine ⟨{ c with held := c.held.map (fun w => { w with line := lineOf (movedLoc m (128 * w.line)) }) }, ?_, ?_⟩
  · have hcs : (switched u k m).contexts = u.contexts.map (fun c =>
        { c with held := c.held.map (fun w => { w with line := lineOf (movedLoc m (128 * w.line)) }) }) := rfl
    rw [State.ctx?, hcs, List.find?_map]
    exact congrArg (Option.map _) hc
  · rw [List.map_map]
    rfl

theorem switched_tlb {u : State} {k : Nat} {x : TlbEntry} (hx : x ∈ (switched u k m).tlb) {l : Leaf} (hl : l ∈ movedPages u m) :
    ¬ (x.asid = l.asid ∧ x.base = l.va) := by
  have hkept := (List.mem_filter.1 (hx : x ∈ u.tlb.filter _)).2
  rintro ⟨hasid, hbase⟩
  have hany : (movedPages u m).any (fun l => l.asid == x.asid && l.va == x.base) = true :=
    List.any_eq_true.2 ⟨l, hl, by simp [hasid, hbase]⟩
  simp only [hany, Bool.not_true, Bool.false_eq_true] at hkept

theorem switched_misses {u : State} {k : Nat} {l : Leaf} (hl : l ∈ movedPages u m) :
    (pageLog (switched u k m) l.at_).misses = [] :=
  misses_of_anew (s := u) (p := fun a => (movedPages u m).any (·.at_ == a)) rfl
    (List.any_eq_true.2 ⟨l, hl, beq_self_eq_true l.at_⟩)

/-- What a switch leaves: the entries of the moved pages name their new home, and what knew the old one follows. -/
def Switched (u : State) (k : Nat) (m : Migration) (t : State) : Prop :=
  let pages := m.page u :: aliases u (m.page u)
  let newLoc (a : Nat) : Nat := if m.frame ≤ a ∧ a < m.frame + 2 ^ m.bits then a - m.frame + leafFrame m.leaf else a
  t.moves = u.moves.eraseIdx k ∧
    (∀ l ∈ pages, (pageLog t l.at_).misses = []) ∧ (∀ x ∈ t.tlb, ∀ l ∈ pages, ¬ (x.asid = l.asid ∧ x.base = l.va)) ∧
    t.barriers = u.barriers.map (fun b => { b with loc := newLoc b.loc }) ∧
    (∀ a c, u.ctx? a = some c → ∃ d, t.ctx? a = some d ∧
      d.held.map (·.line) = c.held.map (fun w => lineOf (newLoc (128 * w.line)))) ∧
    (∀ a, (∀ l ∈ pages, a < l.at_ ∨ l.at_ + 8 ≤ a) → memByte t.mem a = memByte u.mem a) ∧
    (pages.Pairwise (fun x y => x.at_ + 8 ≤ y.at_ ∨ y.at_ + 8 ≤ x.at_) → ∀ l ∈ pages,
      m.frame ≤ leafFrame l.e → leafFrame l.e < m.frame + 2 ^ m.bits → memRead t.mem l.at_ 8 = (rehome l.e
        (BitVec.ofNat 64 (m.leaf.toNat / 2 ^ 48 * 2 ^ 48 +
          (leafFrame l.e - m.frame + leafFrame m.leaf) / 65536 % 2 ^ 32 * 65536))).toNat)

theorem switched_effect {u : State} (hu : u.mem.wf = true) (k : Nat) (m : Migration) : Switched u k m (switched u k m) := by
  refine ⟨rfl, fun l hl => switched_misses hl, fun x hx l hl => switched_tlb hx hl, rfl, fun a c hc => switched_ctx? hc,
    fun a ha => (namedHome_keeps hu (movedPages u m) ha).2,
    fun hpair l hl hlo hhi => (namedHome_reads hu (pages := movedPages u m) hpair hl).trans ?_⟩
  rw [movedLeaf, movedLoc, if_pos ⟨hlo, hhi⟩]

/-! ### The victim queue (R228) -/

theorem victimBefore_iff (s : State) (a b : Leaf) : victimBefore s a b = true ↔ victimClass a.e < victimClass b.e ∨
    victimClass a.e = victimClass b.e ∧ (lastSweep s a.at_ < lastSweep s b.at_ ∨
      lastSweep s a.at_ = lastSweep s b.at_ ∧ a.at_ ≤ b.at_) := by
  rw [victimBefore, decide_eq_true_eq]

theorem victimBefore_trans (s : State) (a b c : Leaf) (hab : victimBefore s a b = true) (hbc : victimBefore s b c = true) :
    victimBefore s a c = true := by
  rw [victimBefore_iff] at *
  omega

theorem victimBefore_total (s : State) (a b : Leaf) : (victimBefore s a b || victimBefore s b a) = true := by
  rw [Bool.or_eq_true, victimBefore_iff, victimBefore_iff]
  omega

theorem victimQueue_sorted (s : State) (stack : Nat) :
    (victimQueue s stack).Pairwise (fun a b => victimBefore s a b = true) :=
  List.pairwise_mergeSort (victimBefore_trans s) (victimBefore_total s) _

theorem mem_victimQueue {stack : Nat} {l : Leaf} :
    l ∈ victimQueue s stack ↔ l ∈ allLeaves s ∧ leafHK l.e = 0 ∧ leafHome l.e / 64 = stack := by
  simp [victimQueue, List.mem_mergeSort]

theorem nextVictim_iff {stack : Nat} {l : Leaf} : nextVictim s stack = some l ↔
    ∃ before after, victimQueue s stack = before ++ l :: after ∧ mayMigrate s l = true ∧ ∀ x ∈ before, mayMigrate s x = false := by
  rw [nextVictim, List.find?_eq_some_iff_append]
  constructor
  · rintro ⟨hmay, before, after, hq, hbefore⟩
    exact ⟨before, after, hq, hmay, fun x hx => by simpa using hbefore x hx⟩
  · rintro ⟨before, after, hq, hmay, hbefore⟩
    exact ⟨hmay, before, after, hq, fun x hx => by simpa using hbefore x hx⟩

/-- A near page goes to far memory only as the next victim of its stack. -/
theorem moveTrigger_victim {l : Leaf} {new : Word} (hk : leafHK l.e = 0) (hn : leafHK new = 1)
    (h : nextVictim s (leafHome l.e / 64) ≠ some l) : moveTrigger s l new = false := by
  unfold moveTrigger
  rw [hk, hn]
  simp [h]

theorem victimQueue_ordered : victimQueueIsOrdered := by
  intro s stack
  dsimp only
  refine ⟨fun l => mem_victimQueue, (victimQueue_sorted s stack).imp fun hab => ?_, fun l => nextVictim_iff,
    fun asid va c at_ bits e leaf hc hw hk hhome hn hnot => ?_⟩
  · exact ((victimBefore_iff s _ _).1 hab).imp id fun h => ⟨h.1, by omega⟩
  · have htrigger : moveTrigger s ⟨asid, va / 2 ^ bits * 2 ^ bits, at_, bits, e⟩ (rehome e leaf) = false :=
      moveTrigger_victim hk hn (by rw [hhome]; exact hnot)
    rw [exec_migrationStart hc hw, if_neg (by simp [moveMayStart, htrigger])]

end

/-! ### The events of page tables -/

section
variable {s : State} {asid va : Nat} (h : s.mem.wf = true)
include h

theorem migrationStart_clause (c : Context) (at_ bits : Nat) (e leaf : Word) (hc : s.ctx? asid = some c)
    (hw : walk s c.root va = .leaf at_ bits e) :
    let new := rehome e leaf
    let l : Leaf := ⟨asid, va / 2 ^ bits * 2 ^ bits, at_, bits, e⟩
    ((∀ m ∈ s.moves, m.at_ ≠ at_ ∧ meetsBytes (leafFrame e) (2 ^ bits) (m.frame, 2 ^ m.bits) = false ∧
        moveStack (m.page s).e m.leaf ≠ moveStack e new) →
      mayMigrate s l = true → leafWf s.product bits new = true → moveTrigger s l new = true →
      frameFree s (leafFrame new) (2 ^ bits) = true →
      ∃ t, exec (.migrationStart asid va leaf) s = .next t ∧ t.moves.getLast? = some
          { asid := asid, base := va / 2 ^ bits * 2 ^ bits, bits := bits, at_ := at_, frame := leafFrame e, leaf := new } ∧
        { asid := asid } ∈ t.unpaid ∧
        (∀ y ∈ t.l2, inFrame (lineOf (leafFrame e), 2 ^ bits / 128) y.line = true → y.dirty = 0) ∧
        (16 ≤ bits → leafFrame e + 2 ^ bits ≤ leafFrame new ∨ leafFrame new + 2 ^ bits ≤ leafFrame e → ∀ i < 2 ^ bits,
          memByte t.mem (leafFrame new + i) = memByte t.mem (leafFrame e + i))) ∧
    (mayMigrate s l = false ∨ moveTrigger s l new = false ∨ frameFree s (leafFrame new) (2 ^ bits) = false →
      exec (.migrationStart asid va leaf) s = .next s) := by
  refine ⟨fun hmoves hmay hwf htrigger hfree => ⟨_, (exec_migrationStart hc hw).trans (congrArg Host.Outcome.next (if_pos ?_)),
    moveStarted_effect h ⟨asid, va / 2 ^ bits * 2 ^ bits, at_, bits, e⟩ (rehome e leaf)⟩, fun hnot => ?_⟩
  · rw [moveMayStart, hmay, hwf, htrigger, hfree, moveBusy_eq_false hmoves]
    rfl
  · rw [exec_migrationStart hc hw, if_neg]
    obtain hnot | hnot | hnot := hnot <;> simp [moveMayStart, hnot]

theorem migrationHold_clause {k : Nat} {m n : Migration} (hm : s.moves[k]? = some m) (hcopy : m.phase = .copy)
    (hn : (flushFrame s m).moves[k]? = some n) :
    let f := flushFrame s m
    (2 ^ n.bits / 128 < 8 * n.marked.length ∨ mayMigrate f (n.page f) = false →
      exec (.migrationHold k) s = .next { f with moves := f.moves.eraseIdx k }) ∧
    (8 * n.marked.length ≤ 2 ^ n.bits / 128 → mayMigrate f (n.page f) = true →
      ∃ t, exec (.migrationHold k) s = .next t ∧ t.moves[k]? = some { n with phase := .hold, marked := [] } ∧
        (∀ y ∈ t.l1, inFrame (lineOf m.frame, 2 ^ m.bits / 128) y.line = false) ∧
        (∀ y ∈ t.l2, inFrame (lineOf m.frame, 2 ^ m.bits / 128) y.line = false) ∧
        (n.frame = m.frame → n.bits = m.bits → n.leaf = m.leaf →
          (∀ x ∈ n.marked, inFrame (lineOf m.frame, 2 ^ m.bits / 128) x = true) → movesApart m →
          ∀ x ∈ n.marked, memLine t.mem (x - lineOf m.frame + lineOf (leafFrame m.leaf)) = memLine t.mem x)) := by
  refine ⟨fun hgive => ?_, fun hmarked hmay => ⟨heldMove (flushFrame s m) k n, ?_, ?_, fun y hy => ?_, fun y hy => ?_,
    fun hframe hbits hleaf hin hapart x hx => ?_⟩⟩
  · rw [exec_migrationHold hm hcopy hn, if_pos]
    rw [moveGivenUp, Bool.or_eq_true, decide_eq_true_eq, Bool.not_eq_true']
    exact hgive
  · rw [exec_migrationHold hm hcopy hn, if_neg]
    rw [moveGivenUp, Bool.or_eq_true, decide_eq_true_eq, hmay]
    simpa using hmarked
  · rw [heldMove_eq]
    have hlen : k < (flushFrame s m).moves.length := (List.getElem?_eq_some_iff.1 hn).1
    simp [hlen]
  · rw [heldMove_eq] at hy
    exact flushFrame_l1 hy
  · rw [heldMove_eq] at hy
    exact flushFrame_l2 hy
  · have hframes : frameLines n.frame n.bits = frameLines m.frame m.bits := by rw [hframe, hbits]
    have hnapart : movesApart n := by rw [movesApart, hframe, hbits, hleaf]; exact hapart
    have hnew : newLine n x = x - lineOf m.frame + lineOf (leafFrame m.leaf) := by rw [newLine, hframe, hleaf]
    have hlines := (recopied_lines (m := n) (wf_flushFrame h m) hnapart n.marked (by rw [hframes]; exact hin)).2 x
      (by rw [hframes]; exact hin x hx) (.inl hx)
    rw [hnew] at hlines
    rw [heldMove_eq]
    exact hlines

theorem migrationSwitch_clause {k : Nat} {m : Migration} (hm : s.moves[k]? = some m) (hhold : m.phase = .hold)
    (hmay : mayMigrate s (m.page s) = true) :
    let f := flushFrame s m
    let u := recopied m f ((f.moves[k]?).getD m).marked
    ∃ t, exec (.migrationSwitch k) s = .next t ∧ Switched u k m t :=
  ⟨_, (exec_migrationSwitch hm hhold).trans (congrArg Host.Outcome.next (if_pos hmay)),
    switched_effect (wf_recopied (wf_flushFrame h m) _) k m⟩

theorem pageMap_clause (entry leaf : Word) (how : MapHow) (hp : physExists s.product entry.toNat = true) (h8 : entry.toNat % 8 = 0) :
    let bits := (s.ctx? asid).bind (fun c => entryLevel s va entry.toNat walkLevels c.root)
    let reaches : Prop := ∃ b, bits = some b ∧ ∃ l ∈ leavesUnder s asid va b entry.toNat leaf,
      leafHK l.e ≠ 2 ∧ holdsDeviceTable s (leafFrame l.e) (2 ^ l.bits) = true
    (reaches → exec (.pageMap asid va entry leaf how) s = .next s) ∧
    (¬ reaches → (∀ core, how = .onFault core → bits ≠ none → faultHome s asid core leaf = true) →
      ∃ t, exec (.pageMap asid va entry leaf how) s = .next t ∧ memRead t.mem entry.toNat 8 = leaf.toNat ∧
        (∀ b, bits = some b → b ≠ 39 → entryV leaf = true → entryLeaf leaf = true → leafWf s.product b leaf = true →
          leafHK leaf ≠ 2 → 16 ≤ b → ∀ i < 2 ^ b, leafFrame leaf + i < entry.toNat ∨ entry.toNat + 8 ≤ leafFrame leaf + i →
          ((∀ frame, how ≠ .copyOf frame) → (allLeaves s).all (fun l => !l.maps (leafFrame leaf) (2 ^ b)) = true →
            memByte t.mem (leafFrame leaf + i) = 0) ∧
          (∀ frame, how = .copyOf frame → frame % 128 = 0 →
            frame + 2 ^ b ≤ leafFrame leaf ∨ leafFrame leaf + 2 ^ b ≤ frame →
            memByte t.mem (leafFrame leaf + i) = memByte s.mem (frame + i)))) ∧
    (∀ core, how = .onFault core → bits ≠ none → faultHome s asid core leaf = false →
      exec (.pageMap asid va entry leaf how) s = .next s) := by
  refine ⟨?_, fun hnot hplace => ?_, fun core hhow hbits hhome => ?_⟩
  · rintro ⟨b, hb, hreach⟩
    rw [exec_pageMap hp h8 hb, if_pos (by rw [reachesTables_iff.2 hreach, Bool.or_true])]
  · have hreach : ∀ b, levelOf s asid va entry.toNat = some b → reachesTables s asid va b entry.toNat leaf = false :=
      fun b hb => Bool.eq_false_iff.2 fun hreach => hnot ⟨b, hb, reachesTables_iff.1 hreach⟩
    have hplaced : levelOf s asid va entry.toNat ≠ none → mapPlaced s asid leaf how = true := by
      intro hl
      cases how with
      | onFault core => exact hplace core rfl hl
      | fresh => rfl
      | copyOf frame => rfl
    obtain ⟨t, hexec, hread, hframe⟩ := pageMap_written h hp h8 hreach hplaced
    refine ⟨t, hexec, hread, fun b hb hb39 hv hl hwf hk hb16 i hi hout => ?_⟩
    obtain ⟨hfresh, hcopy⟩ := hframe b hb hb39 hv hl hwf hk hb16 i hi hout
    exact ⟨hfresh, fun frame hhow hf _ => hcopy frame hhow hf⟩
  · obtain ⟨b, hb⟩ := Option.ne_none_iff_exists'.1 hbits
    subst hhow
    rw [exec_pageMap hp h8 hb, if_pos (by rw [mapPlaced, hhome]; rfl)]

end

theorem tableEvents_takeEffect : tableEventsTakeEffect := by
  intro s asid va h
  refine ⟨fun entry leaf how hp h8 => pageMap_clause h entry leaf how hp h8, fun entry c bits hc hl => ?_, fun len => rfl,
    fun k x hx => ⟨shootdownComplete_waits hx, shootdownComplete_effect hx⟩, fun at_ hp hv hl => pageSweep_effect h hp hv hl,
    fun c at_ bits e core miss hc hw hk => notePage_effect hc hw hk,
    fun c at_ bits e leaf hc hw => migrationStart_clause h c at_ bits e leaf hc hw, fun k m hm => ⟨fun hcopy n hn =>
    migrationHold_clause h hm hcopy hn, fun hhold hmay => ?_, fun hhold hmay => migrationSwitch_clause h hm hhold hmay⟩⟩
  · have hlevel : levelOf s asid va entry.toNat = some bits := by rw [levelOf, hc]; exact hl
    exact pageUnmap_effect h hlevel
  · rw [exec_migrationSwitch hm hhold, if_neg (by simp [hmay])]

/-- Settles O53, event by event: what each writes of memory is read back byte by byte, and the victim queue is sorted. -/
theorem pageEventsTakeEffect : Obligations.PageEventsTakeEffect := ⟨tableEvents_takeEffect, victimQueue_ordered⟩

end Sys2Proof.Machine
end

section
/-!
LAW. What the end of a binding keeps, the packets of a strip, and the words of FAB (R302, R310 to R320). Settles O45.
-/

namespace Sys2Proof.Machine

/-! ### Packets under way stay as they are through an access -/

section
variable {s t u : State}

theorem transit_noteWriter (s : State) (stack line : Nat) (who : Option Nat) (mask : BitVec 128) :
    (s.noteWriter stack line who mask).transit = s.transit := by
  unfold State.noteWriter
  split
  · rfl
  · split <;> rfl

theorem transit_clearPoison (s : State) (line : Nat) (mask : BitVec 128) : (s.clearPoison line mask).transit = s.transit := by
  unfold State.clearPoison
  split <;> rfl

theorem transit_homeWrite (s : State) (who : Option Nat) (stack a n v : Nat) :
    OkAll (fun t => t.transit = s.transit) (s.homeWrite who stack a n v) := by
  unfold State.homeWrite
  dsimp only
  refine .ite (.ite .error (.ok rfl)) ?_
  split
  · exact .error
  · next u hu =>
    have hs : OnlyAccess s u := (onlyAccess_l1Flush s _).trans (onlyAccess_guardWrite _ stack a n u hu)
    have hput := hs.trans (onlyMemory_putLine u stack (lineOf a) (BitVec.ofNat 1024 (v * 256 ^ (a % 128)))
      (byteMask (a % 128) n)).onlyAccess
    exact .ok (((transit_clearPoison _ _ _).trans (transit_noteWriter _ _ _ _ _)).trans (congrArg State.transit hput :))

theorem transit_pointWrite (s : State) (h : Hart) (va n v : Nat) :
    OkAll (fun t => t.transit = s.transit) (pointWrite s h .other va n v) := by
  unfold pointWrite
  refine .after fun l => .after fun _ => ?_
  dsimp only
  split
  · exact .error
  · next u hu =>
    exact .ok ((congrArg State.transit (onlyMemory_markAccess u l .write .other).onlyAccess :).trans
      (transit_homeWrite s _ _ _ _ _ u hu))

theorem transit_noteWalk (t : Trap) : (noteWalk s t).transit = s.transit := by
  unfold noteWalk markAccessed
  dsimp only
  split <;> split <;> rfl

/-! ### The end of a binding (R311) -/

/-- Nothing of the hart but its bindings, its request at a unit and its engine faults differs. -/
def OnlyBindings (h h' : Hart) : Prop :=
  h' = { h with f := h'.f, ask := h'.ask, tl := { h.tl with faults := h'.tl.faults } }

theorem OnlyBindings.refl (h : Hart) : OnlyBindings h h := rfl

theorem OnlyBindings.trans {h h' h'' : Hart} (a : OnlyBindings h h') (b : OnlyBindings h' h'') : OnlyBindings h h'' := by
  rw [OnlyBindings] at a b ⊢
  rw [b, a]

/-- The hart keeps all but finished bindings and faults, each register its position; the word at hand, the clock and the
packets under way are as before. -/
structure BindingSettled (s t : State) : Prop where
  hart : OnlyBindings s.hart t.hart
  issue : t.issue = s.issue
  clock : t.clock = s.clock
  transit : t.transit = s.transit
  pos : ∀ i, (vget t.hart.f i none).map FabReg.pos = (vget s.hart.f i none).map FabReg.pos

theorem BindingSettled.trans (h : BindingSettled s t) (h' : BindingSettled t u) : BindingSettled s u :=
  ⟨h.hart.trans h'.hart, h'.issue.trans h.issue, h'.clock.trans h.clock, h'.transit.trans h.transit,
    fun i => (h'.pos i).trans (h.pos i)⟩

theorem BindingSettled.of_focus (h : SameFocus s t) (ht : t.transit = s.transit) : BindingSettled s t :=
  ⟨h.hart ▸ .refl _, h.issue, h.clock, ht, fun _ => by rw [h.hart]⟩

theorem bindingSettled_lateFault (s : State) (uid : Nat) (x : Trap) : BindingSettled s (lateFault s uid x) := by
  refine ⟨?_, rfl, rfl, rfl, fun i => ?_⟩
  all_goals
    rw [lateFault, State.mapHarts]
    dsimp only
    split <;> rfl

/-- The registers of a hart after the STATUS byte of register `n` has been written. -/
def finishedAt (n : Nat) (f : Vector (Option FabReg) 8) : Vector (Option FabReg) 8 :=
  Vector.ofFn (fun (i : Fin 8) =>
    if i.val = n then (vget f i.val none).map (fun (f : FabReg) => { f with finished := true }) else vget f i.val none)

theorem pos_finishedAt (n : Nat) (f : Vector (Option FabReg) 8) (i : Nat) :
    (vget (finishedAt n f) i none).map FabReg.pos = (vget f i none).map FabReg.pos := by
  by_cases hi : i < 8
  · have hv : vget (finishedAt n f) i none =
        if i = n then (vget f i none).map (fun (f : FabReg) => { f with finished := true }) else vget f i none := by
      simp [finishedAt, vget, hi]
    rw [hv]
    split
    · rw [Option.map_map]
      rfl
    · rfl
  · simp [vget, hi]

theorem bindingSettled_statusDone (s : State) (w : StatusWrite) : BindingSettled s (statusDone s w) := by
  unfold statusDone
  split
  · refine ⟨?_, rfl, rfl, rfl, fun i => ?_⟩
    · rw [State.mapHarts]
      dsimp only
      split <;> rfl
    · rw [State.mapHarts]
      dsimp only
      split
      · exact pos_finishedAt w.reg s.hart.f i
      · rfl
  · exact .of_focus (.refl s) rfl

theorem bindingSettled_tryStatus (s : State) (w : StatusWrite) : SomeAll (BindingSettled s) (tryStatus s w) := by
  unfold tryStatus
  split
  · next u hu =>
    exact .some ((BindingSettled.of_focus (sameFocus_pointWrite s _ _ _ _ _ u hu) (transit_pointWrite s _ _ _ _ u hu)).trans
      (bindingSettled_statusDone u w))
  · exact .none
  · exact .some (((BindingSettled.of_focus (sameFocus_noteWalk s _) (transit_noteWalk _)).trans
      (bindingSettled_lateFault _ _ _)).trans (bindingSettled_statusDone _ w))
  · exact .some (bindingSettled_statusDone s w)

theorem bindingSettled_settleBinding (s : State) (i : Nat) : BindingSettled s (settleBinding s i) := by
  unfold settleBinding statusWrite
  split
  · next w _ =>
    cases hw : tryStatus s w with
    | none => exact .of_focus ⟨rfl, rfl, rfl⟩ rfl
    | some t => exact bindingSettled_tryStatus s w t hw
  · exact .of_focus (.refl s) rfl

end

/-! ### Strips (R313) -/

section
variable {s t : State} {f : FabReg} {i n : Nat}

@[simp] theorem fabReg_setFab_same (s : State) (x : Option FabReg) (hi : i < 8) : fabReg (setFab s i x) i = x :=
  vget_vset_same _ _ _ _ hi

/-- A binding whose strip has passed. -/
def FabReg.passed (f : FabReg) (n : Nat) : FabReg :=
  { f with pos := f.pos + n, inbox := f.inbox.filter (fun x => decide (f.pos + n ≤ x.2.1)) }

theorem onlyBindings_setFab (s : State) (i : Nat) (x : Option FabReg) : OnlyBindings s.hart (setFab s i x).hart := rfl

/-- A strip that passes moves POS, and does to nothing else what the end of the binding does not. -/
theorem passStrip_bound (hi : i < 8) (hf : fabReg s i = some f) :
    OnlyBindings s.hart (passStrip s i n).hart ∧ (passStrip s i n).issue = s.issue ∧ (passStrip s i n).clock = s.clock ∧
      (passStrip s i n).transit = s.transit ∧ ∃ g, fabReg (passStrip s i n) i = some g ∧ g.pos = f.pos + n := by
  have hp : passStrip s i n = settleBinding (setFab s i (some (f.passed n))) i := by
    rw [passStrip, hf]
    rfl
  have h := bindingSettled_settleBinding (setFab s i (some (f.passed n))) i
  rw [hp]
  refine ⟨(onlyBindings_setFab s i _).trans h.hart, h.issue, h.clock, h.transit, ?_⟩
  have hpos := h.pos i
  rw [show vget (setFab s i (some (f.passed n))).hart.f i none = some (f.passed n) from fabReg_setFab_same s _ hi] at hpos
  exact Option.map_eq_some_iff.1 hpos

theorem length_results {first : Nat} {l : List Nat} {fl : Flags} (h : f.results first n = some (l, fl)) : l.length = n := by
  unfold FabReg.results at h
  dsimp only at h
  split at h
  · exact nomatch h
  · obtain ⟨rfl, -⟩ := Prod.mk.inj (Option.some.inj h)
    simp

end

/-! ### The packets of a strip (R306) -/

section
variable {data : Nat → Nat} {n : Nat}

theorem take_range'_map (data : Nat → Nat) (k m n : Nat) :
    ((List.range' k m).map data).take n = (List.range' k (min n m)).map data :=
  List.ext_getElem (by simp) fun i hi hi' => by simp

theorem drop_range'_map (data : Nat → Nat) (k m n : Nat) :
    ((List.range' k m).map data).drop n = (List.range' (k + n) (m - n)).map data := by
  rw [← List.map_drop, List.drop_range', Nat.mul_one]

/-- The parts of consecutive data begin where they say and hold `n` elements at most. -/
theorem mem_chunks (base fuel k m : Nat) : ∀ x ∈ chunks n fuel (base + k) ((List.range' k m).map data),
    ∃ j, x.1 = base + j ∧ x.2 = (List.range' j x.2.length).map data ∧ x.2.length ≤ n := by
  induction fuel generalizing k m with
  | zero => exact fun _ hx => nomatch hx
  | succ fuel ih =>
    intro x hx
    rw [chunks] at hx
    split at hx
    · exact nomatch hx
    · rw [take_range'_map, drop_range'_map, Nat.add_assoc] at hx
      obtain rfl | hx := List.mem_cons.1 hx
      · exact ⟨k, rfl, by simp, by simp⟩
      · exact ih _ _ x hx

/-- The parts together are the data, where there may be enough of them. -/
theorem flatten_chunks (hn : 0 < n) (fuel at_ : Nat) (l : List Nat) (h : l.length ≤ fuel) :
    ((chunks n fuel at_ l).map (·.2)).flatten = l := by
  induction fuel generalizing at_ l with
  | zero => rw [List.eq_nil_of_length_eq_zero (Nat.le_zero.1 h)]; rfl
  | succ fuel ih =>
    rw [chunks]
    cases l with
    | nil => rfl
    | cons x l =>
      have hl : ((x :: l).drop n).length ≤ fuel := by
        rw [List.length_drop, List.length_cons] at *
        omega
      rw [if_neg (by simp), List.map_cons, List.flatten_cons, ih _ _ hl, List.take_append_drop]

end

end Sys2Proof.Machine
end

section
/-!
LAW. The words of FAB (R302, R310 to R320). Settles O45.
-/

namespace Sys2Proof.Machine

section
variable {s v u w z : State} {t : VType} {d a b : BitVec 5} {f g : FabReg} {n : Nat}

/-! ### Words on a live binding (R312) -/

theorem isFabric_iff {r : BitVec 5} : isFabric r = true ↔ r.toNat < 8 := by simp [isFabric, BitVec.lt_def]

theorem hAndFabric (hd : d.toNat < 16) (ha : a.toNat < 8) : (isH d && isFabric a) = true := by
  rw [isH_iff.2 hd, isFabric_iff.2 ha, Bool.and_self]

/-- A word of FAB outside timed regions is its body. -/
theorem Issuing.fabWord (h : Issuing s .vector) {wf fit : Bool} {reads writes : List RegId} {body : State → Except Stop State}
    (hw : wf = true) (hf : fit = true) : Machine.fabWord s wf fit reads writes body = finish s (body s) := by
  rw [Machine.fabWord, h.runPlainVector hw hf, if_neg (ne_true_of_eq_false h.untimed)]

theorem liveBinding_live (h : Live s a f) : liveBinding s a = .ok f := by
  rw [liveBinding, show fabReg s a.toNat = some f from h.bound]
  simp [h.sound, h.fresh]

/-- With no delivery held back and no captured packet that it can take, nothing of a binding is tried again. -/
theorem retryStuck_quiet {i : Nat} (hf : fabReg s i = some f) (hs : f.stuck = []) (hc : nextCaptured f = none) :
    retryStuck s i = .ok s := by
  have hdrain : drainAll s i = .ok s := by
    rw [drainAll, hf]
    dsimp only [Option.map_some, Option.getD_some]
    cases f.captured.length with
    | zero => rfl
    | succ k => simp only [drainCaptured, hf, hc]
  simp only [retryStuck, hf, hs, List.isEmpty_nil, if_pos, bind, Except.bind, hdrain]

theorem retryStuck_live (h : Live s a f) (hf : v.hart.f = s.hart.f) : retryStuck v a.toNat = .ok v :=
  retryStuck_quiet (show vget v.hart.f a.toNat none = some f from hf ▸ h.bound) h.free h.drained

/-- A strip that nothing stops runs from its beginning to its end. -/
theorem strip_whole (hp : s.hart.cs.vprog = 0) (hc : s.issue.cut = none) (k : Nat) :
    startOf s = 0 ∧ stripStop s k n = n := by
  rw [startOf, stripStop, hc, hp]
  exact ⟨rfl, rfl⟩

/-- A word that sends runs where the fabric port serves it. -/
theorem atPort_served {sends : Bool} {body : State → Except Stop State}
    (hv : if sends then takeUnit s (.fabric s.hart.place.core) = some v else v = s) : atPort s sends body = body v := by
  cases sends with
  | false => rw [show v = s from hv]; rfl
  | true => rw [atPort, if_pos rfl, atUnit, show takeUnit s (fabricArb s) = some v from hv]

theorem atPort_waits {sends : Bool} {body : State → Except Stop State} (hs : sends = true)
    (hv : takeUnit s (.fabric s.hart.place.core) = none) :
    finish s (atPort s sends body) = .next (awaitUnit s (.fabric s.hart.place.core)) := by
  rw [atPort, if_pos hs, atUnit, show takeUnit s (fabricArb s) = none from hv]
  rfl

/-- The port takes nothing of the hart but its request. -/
theorem served_hart {sends : Bool} (hv : if sends then takeUnit s (.fabric s.hart.place.core) = some v else v = s) :
    v = { s with hart := { s.hart with ask := v.hart.ask }, arbiters := v.arbiters } := by
  cases sends with
  | false => rw [show v = s from hv]
  | true =>
    have h := takeUnit_eq hv
    rw [h]

/-! ### FBIND and FREL (R302) -/

/-- The low `n` bits of a word are all set. -/
theorem and_mask_eq_iff (x : Word) (n : Nat) :
    x.toNat &&& (2 ^ n - 1) = 2 ^ n - 1 ↔ ∀ k < n, x.getLsbD k = true := by
  constructor
  · intro h k hk
    have hbit := congrArg (·.testBit k) h
    simpa [Nat.testBit_and, Nat.testBit_two_pow_sub_one, hk, BitVec.getLsbD] using hbit
  · intro h
    refine Nat.eq_of_testBit_eq fun k => ?_
    rw [Nat.testBit_and, Nat.testBit_two_pow_sub_one]
    by_cases hk : k < n
    · simpa [hk, BitVec.getLsbD] using h k hk
    · simp [hk]

/-- The register bound, where what is still owed to its former binding no longer names it. -/
def boundState (w : State) (d : BitVec 5) (f : FabReg) : State :=
  setFab { w with owed := w.owed.map (fun x => if x.isFor w.hart.uid d.toNat then { x with live := false } else x) }
    d.toNat (some f)

/-- The rank joined, after the word has retired. -/
def joinedState (z : State) (f : FabReg) : State :=
  (retire z).mapGroup f.group (fun g => { g with joined := g.joined ||| (1#64 <<< f.rank) })

theorem exec_fbind (h : Issuing s .vector) {v : Nat} {bv cv : Option Nat} {u' u'' : State} {buf src : Option Tsr}
    (hd : d.toNat < 8) (ha : a.toNat < 16) (hfree : vget s.hart.f d.toNat none = none)
    (halign : (hRead s.hart a.toNat).toNat % 64 = 0)
    (hread : orderedRead s s.hart .other (hRead s.hart a.toNat).toNat 64 = .ok (v, u))
    (hbuf : loadTsrIf u (bytesAt v 0x10 8 != 0) (bytesAt v 0x10 8) = .ok (bv, u'))
    (hsrc : loadTsrIf u' (bytesAt v 0x18 8 != 0 || bytesAt v 3 1 == 4) (bytesAt v 0x18 8) = .ok (cv, u''))
    (hf : fsrOf v (hRead s.hart a.toNat) = some f) (hcb : checkTsr (bytesAt v 0x10 8) bv = .ok buf)
    (hcs : checkTsr (bytesAt v 0x18 8) cv = .ok src) (hok : ∀ r, buf = some r → bufferOk f r = true)
    (hjoin : checkJoin u'' f (hRead s.hart a.toNat).toNat = .ok ())
    (hw : orderedWrite u'' u''.hart .other ((hRead s.hart a.toNat).toNat + 7) 1 0 = .ok w) :
    exec (.fbind d a) s = finish s (settleJoin (joinedState (boundState w d { f with buf := buf, src := src }) f) f.group) := by
  have hall : buf.all (bufferOk f) = true := by
    cases buf with
    | none => rfl
    | some r => exact hok r rfl
  rw [show exec (.fbind d a) s = execFbind d a s from rfl, execFbind,
    h.fabWord (by rw [isFabric_iff.2 hd, isH_iff.2 ha]; rfl) rfl]
  dsimp only
  rw [show fabReg s d.toNat = none from hfree]
  simp only [Option.isSome_none, Bool.false_eq_true, if_false, halign, bne_self_eq_false, hread, bind, Except.bind, hbuf, hsrc,
    hf, hcb, hcs, hall, Bool.not_true, hjoin, hw]
  rfl

/-- With no packet held for it, a group that all ranks have joined passes to ACTIVE, and nothing else happens. -/
theorem settleJoin_quiet {id : Nat} (h : (s.group id).held = []) : settleJoin s id = .ok (joinActive s id) := by
  rw [settleJoin_eq, h]
  split <;> rfl

theorem joinActive_focus (s : State) (id : Nat) : (joinActive s id).hart = s.hart ∧ (joinActive s id).issue = s.issue := by
  rw [joinActive]
  split <;> exact ⟨rfl, rfl⟩

theorem retired_retire_from (hpc : pcOf z = pcOf s) (hi : z.hart.cs.instret = s.hart.cs.instret) : Retired s (retire z) := by
  have hr := Retired_retire z
  rwa [Retired, hpc, hi] at hr

theorem retired_of_focus {r : State} (h : Retired s u) (hh : r.hart = u.hart) (hi : r.issue = u.issue) : Retired s r := by
  unfold Retired pcOf at h ⊢
  rwa [hh, hi]

/-- A register is bound and the rank joins: what the word leaves. -/
theorem joined_effect (hs : s.issue.side = .vector) (hh : w.hart = s.hart) (hi : w.issue = s.issue) (hd : d.toNat < 8)
    (hheld : (w.group f.group).held = []) (x : FabReg) :
    ∃ r, settleJoin (joinedState (boundState w d x) f) f.group = .ok r ∧ Retired s r ∧
      vget r.hart.f d.toNat none = some x ∧
      (r.group f.group).joined = (w.group f.group).joined ||| (1#64 <<< f.rank) ∧
      (r.group f.group).state = (if (w.group f.group).state = .open_ ∧
        (∀ k < (w.group f.group).nrank, ((w.group f.group).joined ||| (1#64 <<< f.rank)).getLsbD k = true)
        then .active else (w.group f.group).state) := by
  have hside : (boundState w d x).issue.side = .vector := (congrArg (·.side) hi :).trans hs
  have hgroup : (retire (boundState w d x)).group f.group = w.group f.group :=
    group_congr (t := retire (boundState w d x)) (by rw [retire_groups]; rfl) _
  have hjoined : (joinedState (boundState w d x) f).group f.group =
      { w.group f.group with joined := (w.group f.group).joined ||| (1#64 <<< f.rank) } := by
    rw [joinedState, group_mapGroup_same _ (by rw [group_id]), hgroup]
  have hactive := (groupBecame_joinActive (joinedState (boundState w d x) f) f.group).2
  obtain ⟨hjh, hji⟩ := joinActive_focus (joinedState (boundState w d x) f) f.group
  have hret : Retired s (retire (boundState w d x)) := by
    refine retired_retire_from ?_ (congrArg (·.cs.instret) hh :)
    rw [show pcOf (boundState w d x) = pcOf w from rfl, pcOf, pcOf, hh, hi]
  refine ⟨_, settleJoin_quiet (by rw [hjoined]; exact hheld), retired_of_focus hret hjh hji, ?_, ?_, ?_⟩
  · rw [hjh]
    have hreg : (retire (boundState w d x)).hart.f = (boundState w d x).hart.f := by
      rw [retire, retireTo_vector_eq hside]
    rw [show (joinedState (boundState w d x) f).hart = (retire (boundState w d x)).hart from rfl, hreg]
    exact vget_vset_same _ _ _ _ hd
  · rw [hactive, hjoined]
  · rw [hactive, hjoined]
    simp only [and_mask_eq_iff]

theorem exec_frel_unbound (h : Issuing s .vector) (ha : a.toNat < 8) (hn : vget s.hart.f a.toNat none = none) :
    exec (.frel a) s = .next (retire s) := by
  rw [show exec (.frel a) s = execFrel a s from rfl, execFrel, h.fabWord (isFabric_iff.2 ha) rfl]
  rw [show fabReg s a.toNat = none from hn]
  rfl

theorem settleGroup_focus (s : State) (id : Nat) :
    (s.settleGroup id).hart = s.hart ∧ (s.settleGroup id).issue = s.issue := by
  unfold State.settleGroup
  dsimp only
  split <;> exact ⟨rfl, rfl⟩

theorem leaveRank_focus (s : State) (f : FabReg) : (leaveRank s f).hart = s.hart ∧ (leaveRank s f).issue = s.issue := by
  unfold leaveRank
  dsimp only
  split <;> exact ⟨rfl, rfl⟩

theorem exec_frel_bound (h : Issuing s .vector) (hl : Live s a f) :
    ∃ r, exec (.frel a) s = .next r ∧ Retired s r ∧ vget r.hart.f a.toNat none = none := by
  let u := (leaveRank (setFab s a.toNat none) f).settleGroup f.group
  have hexec : exec (.frel a) s = .next (retire u) := by
    rw [show exec (.frel a) s = execFrel a s from rfl, execFrel, h.fabWord (isFabric_iff.2 hl.named) rfl]
    rw [show fabReg s a.toNat = some f from hl.bound, liveBinding_live hl, releaseBinding,
      show fabReg s a.toNat = some f from hl.bound]
    rfl
  have hh : u.hart = (setFab s a.toNat none).hart := (settleGroup_focus _ _).1.trans (leaveRank_focus _ _).1
  have hi : u.issue = s.issue := (settleGroup_focus _ _).2.trans (leaveRank_focus _ _).2
  refine ⟨_, hexec, ?_, ?_⟩
  · refine retired_retire_from ?_ (congrArg (·.cs.instret) hh :)
    rw [pcOf, hh, hi]
    rfl
  · rw [retire, retireTo_vector_eq (by rw [hi]; exact h.side), hh]
    exact vget_vset_same _ _ _ _ hl.named

end

end Sys2Proof.Machine
end

section
/-!
LAW. The strip words of FAB, its counts and the wait for a binding (R313 to R320). Settles O45.
-/

namespace Sys2Proof.Machine

section
variable {s v u w z : State} {t : VType} {d a b : BitVec 5} {f g : FabReg} {n : Nat} {data : Nat → Nat}

/-! ### FSEND (R306, R313) -/

theorem packetElems_pos (e : ElemType) : 0 < packetElems e.width := by cases e <;> decide

theorem mul_packetElems (e : ElemType) {k : Nat} (h : k ≤ packetElems e.width) : k * e.width ≤ 8192 :=
  (Nat.mul_le_mul_right _ h).trans (Nat.div_mul_le_self _ _)

/-- The packets of a strip of `n` elements from POS on, to the peer. -/
def stripPackets (f : FabReg) (data : Nat → Nat) (n : Nat) : List Packet :=
  (chunks (packetElems f.et.width) (n + 1) f.pos ((List.range n).map data)).map
    (fun x => ⟨f.group, f.gen.toNat, f.rank, f.peer.toNat, .elems x.1 x.2⟩)

theorem mem_stripPackets {p : Packet} (hp : p ∈ stripPackets f data n) : ∃ k l,
    p = ⟨f.group, f.gen.toNat, f.rank, f.peer.toNat, .elems (f.pos + k) l⟩ ∧
      l = (List.range' k l.length).map data ∧ l.length * f.et.width ≤ 8192 := by
  obtain ⟨x, hx, rfl⟩ := List.mem_map.1 hp
  rw [List.range_eq_range'] at hx
  obtain ⟨k, hk, hl, hle⟩ := mem_chunks f.pos _ 0 n x hx
  exact ⟨k, x.2, by rw [hk], hl, mul_packetElems f.et hle⟩

/-- The elements that a packet carries. -/
def Packet.elements (p : Packet) : List Nat :=
  match p.body with
  | .elems _ l => l
  | _ => []

theorem flatten_stripPackets (f : FabReg) (data : Nat → Nat) (n : Nat) :
    ((stripPackets f data n).map Packet.elements).flatten = (List.range n).map data := by
  rw [stripPackets, List.map_map]
  exact flatten_chunks (packetElems_pos f.et) _ _ _ (by simp)

theorem chargeUnit_only (s : State) (x : Arb) (n : Nat) :
    chargeUnit s x n = { s with arbiters := (chargeUnit s x n).arbiters, cores := (chargeUnit s x n).cores } := by
  unfold chargeUnit occupyUnit
  dsimp only
  rw [chargeTurn_eq]
  split <;> rfl

/-- Payloads for another rank of this package are put under way, and the port charges for them. -/
theorem sendPayloads_local {dst : Nat} (hne : dst ≠ f.rank) (h64 : dst < 64)
    (hl : (s.group f.group).locals.getLsbD dst = true) (i : Nat) (l : List Payload) :
    ∃ y, sendPayloads s i f dst l = .ok y ∧ y = { s with
      arbiters := y.arbiters, cores := y.cores, transit := s.transit ++ l.map (Packet.mk f.group f.gen.toNat f.rank dst) } := by
  rw [sendPayloads, if_neg (by simpa using hne)]
  dsimp only
  rw [chargeUnit_only, if_pos (by rw [decide_eq_true h64, Bool.true_and]; exact hl)]
  exact ⟨_, rfl, rfl⟩

/-- What sending a strip leaves: the state but for what the port charges, with the length, the binding as it has sent, and the
packets under way. -/
structure StripSent (s t : State) (i : Nat) (f : FabReg) (n : Nat) (ps : List Packet) : Prop where
  hart : t.hart = { s.hart with cs := { s.hart.cs with vl := n }, f := t.hart.f }
  issue : t.issue = s.issue
  clock : t.clock = s.clock
  transit : t.transit = s.transit ++ ps
  reg : ∃ g, fabReg t i = some g ∧ g.pos = f.pos

theorem targets_send (hp : f.pattern = .send) (h64 : f.peer.toNat < 64) : f.targets = [f.peer.toNat] := by
  rw [FabReg.targets, hp]
  exact congrArg (fun k => [k]) (Nat.mod_eq_of_lt h64)

/-- A SEND binding whose peer is another rank of this package sends the strip's packets. -/
theorem sendStrip_send {i : Nat} (hi : i < 8) (hf : fabReg v i = some f) (hp : f.pattern = .send) (hs : f.sent ≤ f.pos)
    (h64 : f.peer.toNat < 64) (hne : f.peer.toNat ≠ f.rank) (hl : (v.group f.group).locals.getLsbD f.peer.toNat = true) :
    ∃ u, sendStrip (setVl v n) i f data 0 n = .ok u ∧ StripSent v u i f n (stripPackets f data n) := by
  have hlo : max 0 (f.sent - f.pos) = 0 := by omega
  by_cases hn : n ≤ 0
  · obtain rfl := Nat.le_zero.1 hn
    refine ⟨setVl v 0, ?_, rfl, rfl, rfl, (List.append_nil _).symm, f, hf, rfl⟩
    rw [sendStrip, hlo]
    exact if_pos (le_refl _)
  · let x := setFab (setVl v n) i (some { f with sent := f.pos + n })
    obtain ⟨y, hsend, hy⟩ := sendPayloads_local (s := x) hne h64 hl i
      ((chunks (packetElems f.et.width) (n + 1) f.pos ((List.range n).map data)).map (fun x => Payload.elems x.1 x.2))
    refine ⟨y, ?_, ?_, (congrArg State.issue hy :), (congrArg State.clock hy :), ?_, { f with sent := f.pos + n }, ?_, rfl⟩
    · rw [sendStrip, hlo, if_neg hn]
      dsimp only
      rw [sendElements, targets_send hp h64, Nat.sub_zero, ← List.range_eq_range', List.length_map, List.length_range,
        List.foldlM_cons]
      exact congrArg (· >>= fun z => List.foldlM _ z []) hsend
    · rw [(congrArg State.hart hy :)]
      rfl
    · rw [(congrArg State.transit hy :), List.map_map]
      rfl
    · rw [fabReg, (congrArg State.hart hy :)]
      exact vget_vset_same _ _ _ _ hi

theorem mustSend_send (hp : f.pattern = .send) (hs : f.sent ≤ f.pos) (h64 : f.peer.toNat < 64) (hne : f.peer.toNat ≠ f.rank) :
    mustSend f 0 n = decide (0 < n) := by
  have hlo : max 0 (f.sent - f.pos) = 0 := by omega
  rw [mustSend, targets_send hp h64, hlo]
  simp [hne]

theorem exec_fsend (h : VectorIssuing s t) (hp : s.hart.cs.vprog = 0) (hl : Live s a f) (hb : t.aligned b = true)
    (hfit : bindingFits s a t = true) (hm : f.maySend = true) : exec (.fsend a b) s =
      finish s (atPort s (mustSend f 0 (stripLength s f)) fun v => do
        let u ← sendStrip (setVl v (stripLength s f)) a.toNat f (dataElem s.hart t b) (startOf v) (stripLength s f)
        .ok (retire (passStrip u a.toNat (stripLength s f)))) := by
  obtain ⟨hstart, hstop⟩ := strip_whole (n := stripLength s f) hp h.issuing.uncut f.et.width
  rw [show exec (.fsend a b) s = execFsend a b s from rfl, execFsend, h.vtypeOf,
    h.issuing.fabWord (isFabric_iff.2 hl.named) ((h.fits _).trans (by rw [hb, hfit]; rfl)), liveBinding_live hl]
  simp only [bind, Except.bind, hm, Bool.not_true, Bool.false_eq_true, if_false, hstart, hstop, le_refl, if_true]

/-! ### FRECV and FRECVOP (R313, R318) -/

/-- A received strip: its elements in v[d], the binding past it and the flags of its records merged. -/
def takenStrip (u : State) (t : VType) (d : BitVec 5) (i n : Nat) (l : List Nat) (fl : Flags) : State :=
  (passStrip (u.mapHart (loadEnd t d n (l.map some))) i n).mapHart (fun h => mergeEngine u.clock h fl)

theorem takeStrip_missing {i : Nat} (hp : u.hart.cs.vprog = 0) (hc : u.issue.cut = none) (hf : fabReg u i = some g)
    (hr : g.results g.pos n = none) : takeStrip u t d i n = .error .wait := by
  obtain ⟨hstart, hstop⟩ := strip_whole (n := n) hp hc g.et.width
  rw [takeStrip, hf]
  dsimp only
  rw [hstart, hstop, Nat.add_zero, Nat.sub_zero, hr]

theorem takeStrip_there {i : Nat} (hp : u.hart.cs.vprog = 0) (hc : u.issue.cut = none) (hf : fabReg u i = some g)
    (hbuf : g.buf = none) {l : List Nat} {fl : Flags} (hr : g.results g.pos n = some (l, fl)) :
    takeStrip u t d i n = .ok (retire (takenStrip u t d i n l fl)) := by
  obtain ⟨hstart, hstop⟩ := strip_whole (n := n) hp hc g.et.width
  have hreg : fabReg (u.mapHart (loadEnd t d n (l.map some))) i = some g := by
    rw [fabReg, mapHart_hart, (congrArg Hart.f (loadEnd_only (t := t) (d := d) (k := n) (l.map some) u.hart) :)]
    exact hf
  have hkeep : keepStrip (u.mapHart (loadEnd t d n (l.map some))) i g.pos l = .ok (u.mapHart (loadEnd t d n (l.map some))) := by
    rw [keepStrip, hreg]
    exact if_pos (by rw [hbuf]; rfl)
  rw [takeStrip, hf]
  dsimp only
  rw [hstart, hstop, Nat.add_zero, Nat.sub_zero, hr]
  dsimp only
  rw [decide_eq_true (le_refl n), if_pos rfl, loadLanes_setVl, Option.getD_some]
  exact congrArg (· >>= _) hkeep

/-- What a word leaves of a hart besides the registers that it loads: its bindings, its request, faults and flags. -/
def OnlyMerged (h h' : Hart) : Prop :=
  h' = { h with f := h'.f, ask := h'.ask, tl := { h.tl with faults := h'.tl.faults },
                cs := { h.cs with vflags := h'.cs.vflags }, ve := { h.ve with inLanes := h'.ve.inLanes } }

/-- A strip that retires from a state `z` whose hart is that of `u` loaded: what it leaves in the group and beside it. -/
theorem loadedGroup_merged (h : VectorIssuing s t) (hd : t.aligned d = true)
    (hu : u.hart = { s.hart with cs := { s.hart.cs with vl := n }, f := u.hart.f, ask := u.hart.ask })
    (hi : z.issue = s.issue) {l : List (Option Nat)} (hl : l.length = n) (hz : OnlyMerged (loadEnd t d n l u.hart) z.hart) :
    LoadedGroup s (retire z) t d n l := by
  have hs : z.issue.side = .vector := hi ▸ h.issuing.side
  have ho : OnlyVectorRegisters { u.hart with cs := { u.hart.cs with vl := n } } (loadEnd t d n l u.hart) := loadEnd_only l _
  have hv : z.hart.ve.v = (loadEnd t d n l u.hart).ve.v := (congrArg (·.ve.v) hz :)
  have huv : u.hart.ve = s.hart.ve := (congrArg Hart.ve hu :)
  have hpc : pcOf z = pcOf s := by
    rw [pcOf, pcOf, hi, (congrArg Hart.sc hz :), (congrArg Hart.sc ho :), (congrArg Hart.sc hu :), (congrArg (·.ve.pc) hz :),
      (congrArg (·.ve.pc) ho :), (congrArg (·.ve.pc) hu :)]
  have hret : Retired s (retire z) := by
    refine retired_retire_from hpc ?_
    rw [(congrArg (·.cs.instret) hz :), (congrArg (·.cs.instret) ho :), (congrArg (·.cs.instret) hu :)]
  obtain ⟨hrh, hrlc, hrv, hrm, hrsc, hrsplit⟩ : (retire z).hart.ve.h = z.hart.ve.h ∧ (retire z).hart.ve.lc = z.hart.ve.lc ∧
      (retire z).hart.ve.v = z.hart.ve.v ∧ (retire z).hart.ve.m = z.hart.ve.m ∧ (retire z).hart.sc = z.hart.sc ∧
      (retire z).hart.split = z.hart.split := by
    rw [retire, retireTo_vector_eq hs]
    exact ⟨rfl, rfl, rfl, rfl, rfl, rfl⟩
  refine ⟨fun i hin => ?_, fun j hj hout => ?_, ?_, ?_, ?_, ?_, ?_, hret⟩
  · have hbits : regBits u.hart = regBits s.hart := by rw [regBits, (congrArg Hart.split hu :), regBits]
    have helem : element u.hart d.toNat t.et.width i = element s.hart d.toNat t.et.width i :=
      element_congr (congrArg (·.v) huv :) (congrArg Hart.split hu :) _ _ _
    rw [element_congr (hrv.trans hv) (hrsplit.trans (congrArg Hart.split hz :)), element_loadEnd hd hl (hbits.symm ▸ hin), helem]
      <;> rfl
  · rw [hrv, hv, ← huv]
    exact groupWrites_other _ _ _ _ hout
  · rw [hrm, (congrArg (·.ve.m) hz :), ← huv]
    exact groupWrites_m _ _ _ _ _ _
  · rw [hrh, (congrArg (·.ve.h) hz :), ← huv]
    exact (congrArg (·.ve.h) ho :)
  · rw [hrlc, (congrArg (·.ve.lc) hz :), ← huv]
    exact (congrArg (·.ve.lc) ho :)
  · rw [hrsc, (congrArg Hart.sc hz :), (congrArg Hart.sc ho :)]
    exact (congrArg Hart.sc hu :)
  · rw [(retire_vectorControl hs).1, (congrArg (·.cs.vl) hz :)]
    exact (congrArg (·.cs.vl) ho :)

/-- What a strip that has passed leaves as its flags are merged and it retires. -/
theorem merged_effect (h : VectorIssuing s t) (hd : t.aligned d = true)
    (hu : u.hart = { s.hart with cs := { s.hart.cs with vl := n }, f := u.hart.f, ask := u.hart.ask })
    {l : List (Option Nat)} (hl : l.length = n) (hi : z.issue = s.issue)
    (hz : OnlyBindings (loadEnd t d n l u.hart) z.hart) (fl : Flags) :
    let r := retire (z.mapHart (fun x => mergeEngine s.clock x fl))
    LoadedGroup s r t d n l ∧ r.hart.f = z.hart.f ∧
      r.hart.cs.vflags = s.hart.cs.vflags ||| arriving s.hart.cs s.clock fl ∧ r.hart.cs.first = s.hart.cs.first := by
  have ho : OnlyVectorRegisters { u.hart with cs := { u.hart.cs with vl := n } } (loadEnd t d n l u.hart) :=
    loadEnd_only _ _
  have hcs : z.hart.cs = { s.hart.cs with vl := n } := by
    rw [(congrArg Hart.cs hz :), (congrArg Hart.cs ho :), (congrArg Hart.cs hu :)]
  have hside : (z.mapHart (fun x => mergeEngine s.clock x fl)).issue.side = .vector :=
    (congrArg (·.side) hi :).trans h.issuing.side
  have hm : OnlyMerged (loadEnd t d n l u.hart) (z.mapHart (fun x => mergeEngine s.clock x fl)).hart := by
    rw [OnlyBindings] at hz
    rw [OnlyMerged, mapHart_hart, hz]
    rfl
  obtain ⟨-, hvflags, hfirst, -⟩ := retire_vectorControl hside
  refine ⟨loadedGroup_merged (z := z.mapHart _) h hd hu hi hl hm, ?_, ?_, ?_⟩
  · rw [retire, retireTo_vector_eq hside]
    rfl
  · rw [hvflags]
    show z.hart.cs.vflags ||| arriving z.hart.cs s.clock fl = _
    rw [hcs]
    rfl
  · rw [hfirst]
    show z.hart.cs.first = _
    rw [hcs]

/-- What a strip taken from a live binding leaves. -/
theorem takenStrip_effect (h : VectorIssuing s t) (hd : t.aligned d = true)
    (hu : u.hart = { s.hart with cs := { s.hart.cs with vl := n }, f := u.hart.f, ask := u.hart.ask })
    (hi : u.issue = s.issue) (hc : u.clock = s.clock) {i : Nat} (h8 : i < 8) (hf : fabReg u i = some g) {l : List Nat}
    (hl : l.length = n) (fl : Flags) :
    let r := retire (takenStrip u t d i n l fl)
    LoadedGroup s r t d n (l.map some) ∧ (∃ x, vget r.hart.f i none = some x ∧ x.pos = g.pos + n) ∧
      r.hart.cs.vflags = s.hart.cs.vflags ||| arriving s.hart.cs s.clock fl ∧ r.hart.cs.first = s.hart.cs.first := by
  have hreg : fabReg (u.mapHart (loadEnd t d n (l.map some))) i = some g := by
    rw [fabReg, mapHart_hart, (congrArg Hart.f (loadEnd_only (t := t) (d := d) (k := n) (l.map some) u.hart) :)]
    exact hf
  obtain ⟨hhart, hissue, -, -, x, hx, hpos⟩ := passStrip_bound (n := n) h8 hreg
  rw [takenStrip, hc]
  obtain ⟨hgroup, hregs, hflags⟩ := merged_effect h hd hu ((List.length_map _).trans hl) (hissue.trans hi) hhart fl
  exact ⟨hgroup, ⟨x, hregs ▸ hx, hpos⟩, hflags⟩

theorem exec_frecv (h : VectorIssuing s t) (hl : Live s a f) (hd : t.aligned d = true) (hfit : bindingFits s a t = true)
    (hm : f.mayReceive = true) : exec (.frecv d a) s =
      finish s (orStall (setVl s (stripLength s f)) (takeStrip (setVl s (stripLength s f)) t d a.toNat (stripLength s f))) := by
  rw [show exec (.frecv d a) s = execFrecv d a s from rfl, execFrecv, h.vtypeOf,
    h.issuing.fabWord (isFabric_iff.2 hl.named) ((h.fits _).trans (by rw [hd, hfit]; rfl)), liveBinding_live hl]
  simp only [bind, Except.bind, hm, Bool.not_true, Bool.false_eq_true, if_false]
  rw [retryStuck_live (v := setVl s (stripLength s f)) hl rfl]

theorem exec_frecvop (h : VectorIssuing s t) (hp : s.hart.cs.vprog = 0) (hl : Live s a f) (hd : t.aligned d = true)
    (hb : t.aligned b = true) (hfit : bindingFits s a t = true) (hm : f.mayCombine = true) : exec (.frecvop d a b) s =
      finish s (atPort s (mustSend f 0 (stripLength s f)) fun v => do
        let u ← sendStrip (setVl v (stripLength s f)) a.toNat f (dataElem s.hart t b) (startOf v) (stripLength s f)
        let u ← retryStuck u a.toNat
        orStall u (takeStrip u t d a.toNat (stripLength s f))) := by
  obtain ⟨hstart, hstop⟩ := strip_whole (n := stripLength s f) hp h.issuing.uncut f.et.width
  rw [show exec (.frecvop d a b) s = execFrecvop d a b s from rfl, execFrecvop, h.vtypeOf,
    h.issuing.fabWord (isFabric_iff.2 hl.named) ((h.fits _).trans (by rw [hd, hb, hfit]; rfl)), liveBinding_live hl]
  simp only [bind, Except.bind, hm, Bool.not_true, Bool.false_eq_true, if_false, hstart, hstop]

/-! ### FCOUNT, FA2A and FWAIT (R318 to R320) -/

/-- What FCOUNT does where the port serves it: it sends its counts, unless it has, and takes those of all ranks. -/
def countAtPort (d a : BitVec 5) (n : Nat) (f : FabReg) (s : State) : Except Stop State := do
  let s ← (if s.hart.cs.vprog.getLsbD 0 then .ok s
    else do
      let (v, s) ← rangeRead s s.hart .other (lineFuel (4 * n)) f.counts (4 * n)
      let l := (List.range n).map (elem 32 v)
      sendCounts (setFab s a.toNat (some { f with sendN := l })) a.toNat { f with sendN := l } l)
  let g := (fabReg s a.toNat).getD f
  match (List.range n).mapM (fun r => (g.got.find? (·.1 == r)).map (·.2)) with
  | none => .ok (stripPause s 1)
  | some l =>
    let disp := (List.range n).map (fun r => (l.take r).sum)
    let (ok, s) ← countWrites s a.toNat g (entriesAt (g.counts + 256) l ++ entriesAt (g.counts + 512) disp)
    if !ok then .ok (stripPause s 1)
    else
      let s := setFab s a.toNat ((fabReg s a.toNat).map (fun f => { f with recvN := l, phase := .counted }))
      let s ← drainAll s a.toNat
      .ok (hgave s d (word l.sum))

theorem exec_fcount (h : VectorIssuing s t) (hp : s.hart.cs.vprog = 0) (hl : Live s a f) (hd : d.toNat < 16)
    (hfit : bindingFits s a t = true) (hpat : f.pattern = .a2a) (hph : f.phase = .bound) : exec (.fcount d a) s =
      finish s (atPort s (decide (1 < (s.group f.group).nrank)) (countAtPort d a (s.group f.group).nrank f)) := by
  rw [show exec (.fcount d a) s = execFcount d a s from rfl, execFcount,
    h.issuing.fabWord (hAndFabric hd hl.named) ((h.fits _).trans hfit), liveBinding_live hl]
  have hrole : (f.pattern != .a2a || f.phase != .bound) = false := by rw [hpat, hph]; rfl
  have hsends : (!s.hart.cs.vprog.getLsbD 0 && decide (1 < (s.group f.group).nrank)) =
      decide (1 < (s.group f.group).nrank) := by rw [hp]; rfl
  dsimp only [bind, Except.bind]
  rw [hrole, if_neg Bool.false_ne_true, retryStuck_live (v := s) hl rfl]
  dsimp only
  rw [hsends]
  rfl

/-- Counts that have all come are written, and their sum is the result. -/
theorem countAtPort_all {n v : Nat} {mine got : List Nat} {p x : State} (hp : p.hart.cs.vprog = 0)
    (hread : rangeRead p p.hart .other (lineFuel (4 * n)) f.counts (4 * n) = .ok (v, u))
    (hmine : mine = (List.range n).map (elem 32 v))
    (hsent : sendCounts (setFab u a.toNat (some { f with sendN := mine })) a.toNat { f with sendN := mine } mine = .ok w)
    (hg : fabReg w a.toNat = some g)
    (hgot : (List.range n).mapM (fun r => (g.got.find? (·.1 == r)).map (·.2)) = some got)
    (hwrites : countWrites w a.toNat g (entriesAt (g.counts + 256) got ++
      entriesAt (g.counts + 512) ((List.range n).map (fun r => (got.take r).sum))) = .ok (true, x))
    (hdrain : drainAll (setFab x a.toNat ((fabReg x a.toNat).map (fun f => { f with recvN := got, phase := .counted }))) a.toNat =
      .ok z) :
    countAtPort d a n f p = .ok (hgave z d (BitVec.ofNat 64 got.sum)) := by
  subst hmine
  have hnew : ¬ p.hart.cs.vprog.getLsbD 0 = true := by rw [hp]; decide
  rw [countAtPort, if_neg hnew]
  dsimp only [bind, Except.bind]
  rw [hread]
  dsimp only
  rw [hsent]
  dsimp only
  rw [hg, Option.getD_some, hgot]
  dsimp only
  rw [hwrites]
  dsimp only
  rw [Bool.not_true, if_neg Bool.false_ne_true, hdrain]
  rfl

/-- What FA2A does where the port serves it: it moves the parts of its source, from element `startOf` on. -/
def a2aAtPort (a : BitVec 5) (f : FabReg) (src : Tsr) (start stop : Nat) (s : State) : Except Stop State := do
  let (l, e, s) ← readSource src (List.range' start (stop - start)) s
  let (l, s) := sentElements s f src l
  let g := (fabReg s a.toNat).getD f
  let s := setFab s a.toNat (some { g with sent := start + l.length })
  let s ← (List.range g.sendN.length).foldlM (fun s j => sendPayloads s a.toNat g j (partFor g start l j)) s
  match e with
  | some t => .ok (takeTrap (s.mapHart (fun h => { h with cs := { h.cs with vprog := word (start + l.length) } })) t .vector)
  | none =>
    if f.sendN.sum ≤ stop then
      .ok (retire (settleBinding (setFab s a.toNat ((fabReg s a.toNat).map (fun f => { f with phase := .moving }))) a.toNat))
    else .ok (stripPause s stop)

theorem exec_fa2a (h : VectorIssuing s t) (hp : s.hart.cs.vprog = 0) (hl : Live s a f) (hfit : bindingFits s a t = true)
    (hpat : f.pattern = .a2a) (hph : f.phase = .counted) {src : Tsr} (hsrc : f.src = some src) (hs : f.sendN.sum ≤ src.count)
    (hr : f.recvN.sum ≤ (f.buf.map Tsr.count).getD 0) : exec (.fa2a a) s =
      finish s (atPort s ((List.range f.sendN.length).any (fun j => j != f.rank && a2aPart f 0 f.sendN.sum j))
        (a2aAtPort a f src 0 f.sendN.sum)) := by
  have hrole : (f.pattern != .a2a || f.phase != .counted) = false := by rw [hpat, hph]; rfl
  have hstart : startOf s = 0 := by rw [startOf, hp]; rfl
  have hstop : a2aStop s f f.sendN.sum = f.sendN.sum := by rw [a2aStop, h.issuing.uncut]
  rw [show exec (.fa2a a) s = execFa2a a s from rfl, execFa2a,
    h.issuing.fabWord (isFabric_iff.2 hl.named) ((h.fits _).trans hfit), liveBinding_live hl]
  dsimp only [bind, Except.bind]
  rw [hrole, if_neg Bool.false_ne_true, hsrc, Option.getD_some, if_neg (by omega), retryStuck_live (v := s) hl rfl]
  dsimp only
  rw [hstart, hstop]
  rfl

/-- A source that is read whole is moved whole. -/
theorem a2aAtPort_whole {src : Tsr} {p : State} {l : List Nat} (hw : src.et.width = f.et.width)
    (hread : readSource src (List.range f.sendN.sum) p = .ok (l, none, u)) (hf : fabReg u a.toNat = some f)
    (hsend : (List.range f.sendN.length).foldlM (fun s j => sendPayloads s a.toNat f j (partFor f 0 l j))
      (setFab u a.toNat (some { f with sent := l.length })) = .ok w) :
    a2aAtPort a f src 0 f.sendN.sum p = .ok (retire (settleBinding
      (setFab w a.toNat ((fabReg w a.toNat).map (fun f => { f with phase := .moving }))) a.toNat)) := by
  have hsent : sentElements u f src l = (l, u) := by rw [sentElements, if_pos (by simpa using hw)]
  rw [a2aAtPort, Nat.sub_zero, ← List.range_eq_range']
  dsimp only [bind, Except.bind]
  rw [hread]
  dsimp only
  rw [hsent]
  dsimp only
  rw [hf, Option.getD_some, Nat.zero_add, hsend]
  exact if_pos (le_refl _)

theorem exec_fwait (h : VectorIssuing s t) (hl : Live s a f) (hd : d.toNat < 16) : exec (.fwait d a) s =
    if f.finished then
      .next (hgave (match f.buf with
        | some t => acquireLines s s.hart.place.core scopeStack (bufferLines s t).contains
        | none => s) d (word (if f.buf.isSome then f.delivered else 0)))
    else .next (stall s) := by
  rw [show exec (.fwait d a) s = execFwait d a s from rfl, execFwait,
    h.issuing.fabWord (hAndFabric hd hl.named) rfl, liveBinding_live hl]
  dsimp only [bind, Except.bind]
  rw [retryStuck_live (v := s) hl rfl]
  dsimp only
  rw [show fabReg s a.toNat = some f from hl.bound]
  dsimp only
  cases f.finished <;> rfl

/-- What FWAIT on a finished binding leaves: the lines of its buffer may have been acquired. -/
theorem waited_effect (h : Issuing s .vector) (hu : OnlyAccess s u) (hd : d.toNat < 16) (v : Word) :
    Retired s (hgave u d v) ∧ ∀ k : BitVec 5, k.toNat < 16 →
      hRead (hgave u d v).hart k.toNat = if k = d then v else hRead s.hart k.toNat := by
  obtain ⟨hhart, hissue, -⟩ := OnlyAccess.sameFocus hu
  refine ⟨retired_retire_from (z := u.mapHart _) ?_ ?_, fun k _ => ?_⟩
  · simp [pcOf, hhart, hissue, h.side]
  · simp [hhart]
  · rw [hRead_hgave (hissue ▸ h.side) hd, hhart]

end

/-- What a strip that has been sent leaves as it passes and the word retires. -/
theorem sentStrip_effect (h : Issuing s .vector)
    (hv : v = { s with hart := { s.hart with ask := v.hart.ask }, arbiters := v.arbiters }) {i : Nat} (hi : i < 8)
    {ps : List Packet} (hu : StripSent v u i f n ps) :
    let r := retire (passStrip u i n)
    Retired s r ∧ (∃ g, vget r.hart.f i none = some g ∧ g.pos = f.pos + n) ∧ r.hart.cs.vl = n ∧
      r.transit = s.transit ++ ps := by
  obtain ⟨huh, hui, -, hut, g, hg, hpos⟩ := hu
  obtain ⟨hhart, hissue, -, htransit, x, hx, hxpos⟩ := passStrip_bound (n := n) hi hg
  generalize passStrip u i n = z at *
  have hzi : z.issue = s.issue := by rw [hissue, hui, hv]
  have hside : z.issue.side = .vector := hzi ▸ h.side
  have hcs : z.hart.cs = { s.hart.cs with vl := n } := by
    rw [(congrArg Hart.cs hhart :), (congrArg Hart.cs huh :), hv]
  have hpc : pcOf z = pcOf s := by
    rw [pcOf, pcOf, hzi, (congrArg Hart.sc hhart :), (congrArg Hart.sc huh :), (congrArg Hart.ve hhart :),
      (congrArg Hart.ve huh :), hv]
  refine ⟨retired_retire_from hpc (by rw [hcs]), ⟨x, ?_, by rw [hxpos, hpos]⟩, ?_, ?_⟩
  · rw [retire, retireTo_vector_eq hside]
    exact hx
  · rw [(retire_vectorControl hside).1, hcs]
  · rw [show (retire z).transit = z.transit by simp, htransit, hut, hv]

/-- Settles O45, by the body of each word on a live binding: what the port, the sending of a strip and the end of the binding
leave, and the group that a received strip is loaded into. -/
theorem fabricWordsComplete : Obligations.FabricWordsComplete := by
  unfold Obligations.FabricWordsComplete
  intro s t d a b f h hp
  dsimp only
  rw [show min s.hart.cs.vl (f.len - f.pos) = stripLength s f from rfl]
  refine ⟨fun v u bv u' cv u'' buf src w hd ha hfree halign hread hbuf hsrc hf hcb hcs hok hjoin hw hwh hwi hheld => ?_,
    exec_frel_unbound h.issuing, fun hl => ⟨exec_frel_bound h.issuing hl, ?_, ?_, ?_, ?_, ?_, ?_, ?_, ?_⟩⟩
  · have hexec := exec_fbind h.issuing hd ha hfree halign hread hbuf hsrc hf hcb hcs hok hjoin hw
    obtain ⟨r, hr, heffect⟩ := joined_effect h.issuing.side hwh hwi hd hheld { f with buf := buf, src := src }
    exact ⟨r, hexec.trans (by rw [hr]; rfl), heffect⟩
  · intro hb hfit hpat hsent h64 hlen hne hlocal
    have hexec := exec_fsend h hp hl hb hfit (by rw [FabReg.maySend, hpat])
    rw [mustSend_send hpat hsent h64 hne] at hexec
    refine ⟨fun hs hwait => hexec.trans (atPort_waits hs hwait), fun v hv => ?_⟩
    have hvs := served_hart hv
    obtain ⟨u, hu, hstrip⟩ := sendStrip_send (v := v) (n := stripLength s f) (data := dataElem s.hart t b) hl.named
      (by rw [hvs]; exact hl.bound) hpat hsent h64 hne (by rw [hvs]; exact hlocal)
    have hstart : startOf v = 0 := by rw [startOf, hvs, hp]; rfl
    rw [atPort_served hv, hstart, hu] at hexec
    obtain ⟨hret, hpassed, hvl, htransit⟩ := sentStrip_effect h.issuing hvs hl.named hstrip
    exact ⟨_, _, hexec, hret, hpassed, hvl, htransit, fun p => mem_stripPackets, flatten_stripPackets f _ _⟩
  · intro hd hfit hm hbuf hlen
    have hexec := exec_frecv h hl hd hfit hm
    have hreg : fabReg (setVl s (stripLength s f)) a.toNat = some f := hl.bound
    refine ⟨fun hnone => ?_, fun l fl hsome => ?_⟩
    · rw [hexec, takeStrip_missing (u := setVl s (stripLength s f)) hp h.issuing.uncut hreg hnone]
      rfl
    · rw [takeStrip_there (u := setVl s (stripLength s f)) hp h.issuing.uncut hreg hbuf hsome] at hexec
      exact ⟨_, hexec, takenStrip_effect (u := setVl s (stripLength s f)) h hd rfl rfl rfl hl.named hreg (length_results hsome) fl⟩
  · intro hd hb hfit hm hs hwait
    rw [exec_frecvop h hp hl hd hb hfit hm]
    exact atPort_waits hs hwait
  · intro v u g hd hb hfit hm hbuf hserved hsend hui huc huh hg hpos hstuck hcaptured hgbuf
    have hvs := served_hart hserved
    have hstart : startOf v = 0 := by rw [startOf, hvs, hp]; rfl
    have hexec := exec_frecvop h hp hl hd hb hfit hm
    rw [atPort_served hserved, hstart] at hexec
    rw [show sendStrip (setVl v (stripLength s f)) a.toNat f (dataElem s.hart t b) 0 (stripLength s f) = .ok u from hsend] at hexec
    dsimp only [bind, Except.bind] at hexec
    rw [retryStuck_quiet (show fabReg u a.toNat = some g from hg) hstuck hcaptured] at hexec
    dsimp only at hexec
    have hup : u.hart.cs.vprog = 0 := by rw [huh]; exact hp
    have huu : u.issue.cut = none := by rw [hui]; exact h.issuing.uncut
    refine ⟨fun hnone => ?_, fun l fl hsome => ?_⟩
    · rw [hexec, takeStrip_missing hup huu hg (hpos ▸ hnone)]
      rfl
    · have hlen := length_results hsome
      rw [← hpos] at hsome
      rw [takeStrip_there hup huu hg hgbuf hsome] at hexec
      refine ⟨_, hexec, ?_⟩
      rw [← hpos]
      have hvh : v.hart = { s.hart with ask := v.hart.ask } := (congrArg State.hart hvs :)
      refine takenStrip_effect h hd (huh.trans ?_) hui huc hl.named hg hlen fl
      rw [show u.hart.ask = v.hart.ask from (congrArg Hart.ask huh :), hvh]
  · intro hd hfit hpat hph hs hwait
    rw [exec_fcount h hp hl hd hfit hpat hph]
    exact atPort_waits hs hwait
  · intro p v u w g x z hd hfit hpat hph hserved hread hsent hg got hgot hwrites hdrain
    have hps := served_hart hserved
    rw [exec_fcount h hp hl hd hfit hpat hph, atPort_served hserved,
      countAtPort_all (by rw [hps]; exact hp) hread rfl hsent hg hgot hwrites hdrain]
    rfl
  · intro src hfit hpat hph hsrc hw hs hr
    have hexec := exec_fa2a h hp hl hfit hpat hph hsrc hs hr
    refine ⟨fun hsends hwait => hexec.trans (atPort_waits hsends hwait), fun p l u w hserved hread hf hsend => ?_⟩
    rw [hexec, atPort_served hserved, a2aAtPort_whole hw hread hf hsend]
    rfl
  · intro hd
    have hexec := exec_fwait h hl hd
    refine ⟨fun hunfinished => hexec.trans (if_neg (by simp [hunfinished])), fun hfinished => ?_⟩
    rw [if_pos hfinished] at hexec
    refine ⟨_, hexec, ?_⟩
    cases f.buf with
    | none => exact waited_effect h.issuing (.refl s) hd _
    | some x => exact waited_effect h.issuing (onlyAccess_acquireLines (s := s) s.hart.place.core scopeStack (bufferLines s x).contains) hd _

end Sys2Proof.Machine
end

section
/-!
LAW. Agreement, the probability of recall and the words that open, load, seal and release an item store (R158 to R162, R165).
They are the first half of O41.
-/

namespace Sys2Proof.Machine

/-! ### Agreement (R161) -/

section
variable {s u : State} {t : VType} {d a b : BitVec 5}

theorem elem_mod (w v i : Nat) {n : Nat} (h : w * (i + 1) ≤ n) : elem w (v % 2 ^ n) i = elem w v i := by
  refine Nat.eq_of_testBit_eq fun j => ?_
  simp only [elem, Nat.testBit_mod_two_pow, Nat.testBit_div_two_pow]
  by_cases hj : j < w
  · rw [Nat.mul_succ] at h
    simp [show j + w * i < n by omega]
  · simp [hj]

/-- Component `j` of a hypervector operand. -/
theorem elem_hvBitsOf {h : Hart} (r : Nat) {j : Nat} (hfit : t.dim * t.hm.width ≤ regBits h * t.group) (hj : j < t.dim) :
    elem t.hm.width (hvBitsOf h t r) j = element h r t.hm.width j := by
  have hin : t.hm.width * (j + 1) ≤ t.hvBits := by
    rw [VType.hvBits, Nat.mul_comm]
    exact Nat.mul_le_mul_right _ hj
  rw [hvBitsOf, elem_mod _ _ _ hin]
  exact elem_groupBits h r (width_dvd_regBits h (hvWidth_mem t.hm)) (hin.trans hfit)

theorem foldl_count (p : Nat → Bool) (l : List Nat) (n : Nat) :
    l.foldl (fun acc j => if p j then acc + 1 else acc) n = n + l.countP p := by
  induction l generalizing n with
  | nil => rfl
  | cons x l ih =>
    rw [List.foldl_cons, ih, List.countP_cons]
    split <;> omega

theorem agreeComp_iff (hm : HvModel) (x y : Nat) :
    agreeComp hm x y = true ↔ if hm = .map then plusMinus .map x = plusMinus .map y else x = y := by
  cases hm <;> simp [agreeComp, hvSign, plusMinus]

/-- The components that agree are counted. -/
theorem agreement_eq (t : VType) {x y : Nat} {f g : Nat → Nat} (hx : ∀ j < t.dim, elem t.hm.width x j = f j)
    (hy : ∀ j < t.dim, elem t.hm.width y j = g j) : agreement t.hm t.dim x y = agreeing t f g := by
  rw [agreement, foldl_count, Nat.zero_add, agreeing]
  refine List.countP_congr fun j hj => ?_
  have hj' : j < t.dim := List.mem_range.1 hj
  rw [agreeComp_iff, hx j hj', hy j hj']
  split <;> exact (decide_eq_true_iff).symm

/-! ### Words of this chapter where they issue -/

theorem abandonOf_uncut (h : Issuing s .vector) : abandonOf s = none := by
  rw [abandonOf, h.uncut, ite_self]

theorem abandonable_uncut (h : Issuing s .vector) (done : Except Stop State) : abandonable s done = done := by
  rw [abandonable, abandonOf_uncut h]

/-- A word that retires outside timed regions takes no free time. -/
theorem varyTime_done (hs : u.issue.side = .vector) (hu : u.hart.cs.hstat.timed = false) : varyTime (retire u) = retire u :=
  varyTime_untimed ((congrArg (·.timed) (retire_vectorControl hs).2.2.2 :).trans hu)

theorem varyTime_hgave (hs : u.issue.side = .vector) (hu : u.hart.cs.hstat.timed = false) (v : Word) :
    varyTime (hgave u d v) = hgave u d v :=
  varyTime_done hs (by rw [mapHart_hart, hWrite_cs]; exact hu)

/-! ### HSIM and HPROB (R161, R165) -/

/-- A result taken from the hart in focus. -/
theorem mapHart_hWrite (s : State) (r : Nat) (F : Hart → Word) :
    s.mapHart (fun h => hWrite h r (F h)) = s.mapHart (fun h => hWrite h r (F s.hart)) := rfl

/-- HSIM is a word that gives one value. -/
theorem execHsim_eq (h : VectorIssuing s t) (hd : d.toNat < 16) (ha : t.aligned a = true) (hb : t.aligned b = true) :
    execHsim d a b s =
      .next (hgave s d (word (agreement t.hm t.dim (hvBitsOf s.hart t a.toNat) (hvBitsOf s.hart t b.toNat)))) := by
  rw [execHsim, h.vtypeOf,
    h.issuing.runPlainVector (isH_iff.2 hd) ((h.fits _).trans (by rw [ha, hb]; rfl)), abandonable_uncut h.issuing,
    mapHart_hWrite s d.toNat (fun x => word (agreement t.hm t.dim (hvBitsOf x t a.toNat) (hvBitsOf x t b.toNat)))]
  exact congrArg Host.Outcome.next (varyTime_hgave h.issuing.side h.issuing.untimed _)

theorem exec_hsim (h : VectorIssuing s t) (hd : d.toNat < 16) (ha : t.aligned a = true) (hb : t.aligned b = true)
    (hfit : t.dim * t.hm.width ≤ regBits s.hart * t.group) : exec (.hsim d a b) s = .next (hgave s d (BitVec.ofNat 64
      (agreeing t (element s.hart a.toNat t.hm.width) (element s.hart b.toNat t.hm.width)))) := by
  rw [show exec (.hsim d a b) s = execHsim d a b s from rfl, execHsim_eq h hd ha hb, word,
    agreement_eq t (fun j hj => elem_hvBitsOf a.toNat hfit hj) (fun j hj => elem_hvBitsOf b.toNat hfit hj)]

theorem binomialSum_eq (w : Nat) : ∀ a, binomialSum w a = ((List.range a).map w.choose).sum
  | 0 => rfl
  | a + 1 => by
    rw [binomialSum, binomialSum_eq w a, List.range_succ]
    simp [choose]

theorem foldl_add_eq_sum (f : Nat → Nat) (l : List Nat) (n : Nat) : l.foldl (fun acc a => acc + f a) n = n + (l.map f).sum := by
  induction l generalizing n with
  | nil => rfl
  | cons x l ih =>
    rw [List.foldl_cons, ih, List.map_cons, List.sum_cons]
    omega

theorem recallNum_eq (w k n : Nat) : recallNum w k n =
    let q := 2 ^ (k - 1) + (k - 1).choose ((k - 1) / 2)
    ((List.range (w + 1)).map (fun i => w.choose i * q ^ i * (2 ^ k - q) ^ (w - i) *
      ((List.range i).map w.choose).sum ^ (n - 1))).sum := by
  rw [recallNum, foldl_add_eq_sum, Nat.zero_add]
  simp only [binomialSum_eq]
  rfl

theorem recallProb_exact {w : Nat} (hw : w ≤ 4096) (k n : Nat) (up : Bool) : recallProb w k n up =
    if k = 0 ∨ k % 2 = 0 ∨ 65535 < k ∨ n = 0 ∨ 2 ^ 32 < n then 0x7FF8000000000000
    else if n = 1 then 0x3FF0000000000000
    else ((floatFormat .f64).round .rne false
      ⟨false, recallNum w k n, 1, -((k * w + w * (n - 1) : Nat) : Int)⟩).1 := by
  rw [recallProb, if_pos hw]

theorem exec_hprob (h : VectorIssuing s t) (hd : d.toNat < 16) (ha : a.toNat < 16) (hb : b.toNat < 16) (hm : t.hm = .bsc) :
    let k := (hRead s.hart a.toNat).toNat
    let n := (hRead s.hart b.toNat).toNat
    exec (.hprob d a b) s = if 4096 < t.dim
      then .next (hgave { s with draws := s.draws + 1 } d (BitVec.ofNat 64 (recallProb t.dim k n (Config.freeBool s.draws))))
      else .next (hgave s d (BitVec.ofNat 64 (recallProb t.dim k n false))) := by
  rw [show exec (.hprob d a b) s = execHprob d a b s from rfl, execHprob, h.vtypeOf,
    h.issuing.runPlainVector (by rw [isH_iff.2 hd, isH_iff.2 ha, isH_iff.2 hb]; rfl) ((h.fits _).trans (by rw [hm]; rfl))]
  dsimp only
  rw [abandonable_uncut h.issuing]
  by_cases hw : 4096 < t.dim
  · rw [if_pos hw, if_pos hw]
    exact congrArg Host.Outcome.next (varyTime_hgave (u := { s with draws := s.draws + 1 }) h.issuing.side h.issuing.untimed _)
  · rw [if_neg hw, if_neg hw]
    exact congrArg Host.Outcome.next (varyTime_hgave h.issuing.side h.issuing.untimed _)

end

/-! ### Item stores (R158 to R160, R162) -/

section
variable {s u : State} {t : VType} {d a b : BitVec 5} {at_ loc : Nat} {x : StoreHeader}

/-- A word on a store that fits VTYPE is its body. -/
theorem VectorIssuing.storeWord (h : VectorIssuing s t) {wf : Bool} {fit : VType → Bool} {reads writes : List RegId}
    {body : State → VType → Except Stop State} (hw : wf = true) (hf : fit t = true) :
    Machine.storeWord s wf fit reads writes body = finish s ((body s t).map varyTime) := by
  rw [Machine.storeWord, h.vtypeOf, h.issuing.runPlainVector hw ((h.fits fit).trans hf)]

theorem storeAddr_window (hal : (hRead s.hart a.toNat).toNat % 128 = 0) (hlo : coreBase ≤ (hRead s.hart a.toNat).toNat)
    (hhi : (hRead s.hart a.toNat).toNat < clusterBase) : storeAddr s a = .ok (hRead s.hart a.toNat).toNat := by
  rw [storeAddr, if_neg (by simp [hal]), if_neg (by omega)]

/-- With no command under way and no add left to be made, an access waits for nothing. -/
theorem awaitEngines_idle (hq : s.hart.tl.queue = [])
    (hf : ∀ c ∈ s.cores, ∀ e ∈ c.fifo, e.uid = s.hart.uid → e.adds = []) (k : AccessKind) (va : Nat) :
    awaitEngines s s.hart k va = .ok () := by
  have hadd : addPending s s.hart va = false := by
    rw [addPending]
    split
    · rw [List.any_eq_false]
      intro c hc hany
      obtain ⟨e, he, hmeets⟩ := List.any_eq_true.1 hany
      obtain ⟨huid, hadds⟩ := (Bool.and_eq_true _ _).mp hmeets
      rw [hf c hc e he (by simpa using huid)] at hadds
      exact nomatch hadds
    · rfl
  rw [awaitEngines, hadd, Bool.and_false, if_neg Bool.false_ne_true, awaitCommands, hq]
  rfl

theorem storeWrite_at (hw : windowOf s s.hart at_ = some loc) (n v : Nat) :
    storeWrite s at_ n v = s.arrayWrite loc n v := by
  rw [storeWrite, hw]

theorem inGrant_mono {n m : Nat} (h : inGrant s at_ n = true) (hm : m ≤ n) : inGrant s at_ m = true := by
  unfold inGrant at h ⊢
  cases hg : coreGrant s with
  | none => rw [hg] at h; exact nomatch h
  | some g =>
    rw [hg] at h
    have hb := of_decide_eq_true h
    exact decide_eq_true ⟨hb.1, by omega⟩

/-- Bytes in the grant behind an address in the window lie in it, seen from that address. -/
theorem inGrant_from {k n : Nat} (hlo : coreBase ≤ at_) (h : inGrant s (at_ + k) n = true) : inGrant s at_ (k + n) = true := by
  unfold inGrant at h ⊢
  cases hg : coreGrant s with
  | none => rw [hg] at h; exact nomatch h
  | some g =>
    rw [hg] at h
    have hb := of_decide_eq_true h
    exact decide_eq_true ⟨hlo, by omega⟩

theorem itemBytes_eq (t : VType) : t.itemBytes = 64 * 2 ^ t.hd * t.hm.width / 8 := rfl

/-- A hypervector is a whole number of bytes. -/
theorem hvBits_eq (t : VType) : t.hvBits = 8 * t.itemBytes := by
  have hdvd : 8 ∣ t.hvBits := ⟨8 * 2 ^ t.hd * t.hm.width, by rw [VType.hvBits, VType.dim]; ring⟩
  rw [VType.itemBytes, Nat.mul_div_cancel' hdvd]

theorem itemBytes_pos (t : VType) : 0 < t.itemBytes := by
  have hbits : 0 < t.hvBits := Nat.mul_pos (dim_pos t) (by cases t.hm <;> decide)
  have heq := hvBits_eq t
  omega

theorem storeWrite_focus (s : State) (at_ n v : Nat) :
    (storeWrite s at_ n v).hart = s.hart ∧ (storeWrite s at_ n v).issue = s.issue ∧ (storeWrite s at_ n v).grants = s.grants := by
  unfold storeWrite
  split <;> exact ⟨rfl, rfl, rfl⟩

/-- What the words of this section end with, where they answer: they take no free time. -/
theorem storeAnswer (h : VectorIssuing s t) (hu : u.hart = s.hart ∧ u.issue = s.issue) (v : Word) :
    varyTime (hgave u d v) = hgave u d v :=
  varyTime_hgave (hu.2 ▸ h.issuing.side) (hu.1 ▸ h.issuing.untimed) v

section
variable (h : VectorIssuing s t) (hd : d.toNat < 16) (ha : a.toNat < 16) (haddr : storeAddr s a = .ok at_)
include h hd ha haddr

theorem exec_isopen_small (hb : b.toNat < 16) (hbad : (hRead s.hart b.toNat).toNat % 2 ^ 32 < 1 ∨
      4096 < (hRead s.hart b.toNat).toNat % 2 ^ 32 ∨
      inGrant s at_ (128 + (hRead s.hart b.toNat).toNat % 2 ^ 32 * t.itemBytes) = false) :
    exec (.isopen d a b) s = .next (hgave s d 1) := by
  rw [show exec (.isopen d a b) s = execIsopen d a b s from rfl, execIsopen,
    h.storeWord (by rw [isH_iff.2 hd, isH_iff.2 ha, isH_iff.2 hb]; rfl) rfl, haddr]
  dsimp only [bind, Except.bind]
  rw [if_pos (by simpa using hbad)]
  exact congrArg Host.Outcome.next (storeAnswer h ⟨rfl, rfl⟩ _)

theorem exec_isopen_fits (hb : b.toNat < 16) (hlo : 1 ≤ (hRead s.hart b.toNat).toNat % 2 ^ 32)
    (hhi : (hRead s.hart b.toNat).toNat % 2 ^ 32 ≤ 4096)
    (hext : inGrant s at_ (128 + (hRead s.hart b.toNat).toNat % 2 ^ 32 * t.itemBytes) = true)
    (hx : readHeader s t at_ false = .ok x) (hidle : awaitEngines s s.hart .write at_ = .ok ()) :
    exec (.isopen d a b) s = .next (if x.st != 0 then hgave s d 2
      else hgave (storeWrite (storeWrite s at_ 3 (1 + t.hm.code * 256 + t.hd * 65536)) (at_ + 4) 12
        ((hRead s.hart b.toNat).toNat % 2 ^ 32 + (hRead s.hart b.toNat).toNat / 2 ^ 32 * 2 ^ 64)) d 0) := by
  rw [show exec (.isopen d a b) s = execIsopen d a b s from rfl, execIsopen,
    h.storeWord (by rw [isH_iff.2 hd, isH_iff.2 ha, isH_iff.2 hb]; rfl) rfl, haddr]
  dsimp only [bind, Except.bind]
  rw [if_neg (by simp only [hext, Bool.not_true, Bool.false_eq_true, or_false]; omega), hx]
  dsimp only
  split
  · exact congrArg Host.Outcome.next (storeAnswer h ⟨rfl, rfl⟩ _)
  · rw [hidle]
    obtain ⟨hh, hi, -⟩ := storeWrite_focus s at_ 3 (1 + t.hm.code * 256 + t.hd * 65536)
    obtain ⟨hh', hi', -⟩ := storeWrite_focus (storeWrite s at_ 3 (1 + t.hm.code * 256 + t.hd * 65536)) (at_ + 4) 12
      ((hRead s.hart b.toNat).toNat % 2 ^ 32 + (hRead s.hart b.toNat).toNat / 2 ^ 32 * 2 ^ 64)
    exact congrArg Host.Outcome.next (storeAnswer h ⟨hh'.trans hh, hi'.trans hi⟩ _)

theorem exec_isload_full (hb : t.aligned b = true) (hx : readHeader s t at_ true = .ok x) (hst : x.st = 1)
    (hfull : x.cap ≤ x.count) : exec (.isload d a b) s = .next (hgave s d (BitVec.allOnes 64)) := by
  rw [show exec (.isload d a b) s = execIsload d a b s from rfl, execIsload, h.storeWord (hAndH hd ha) hb, haddr]
  dsimp only [bind, Except.bind]
  rw [hx]
  dsimp only
  rw [if_neg (by simp [hst]), if_pos hfull]
  exact congrArg Host.Outcome.next (storeAnswer h ⟨rfl, rfl⟩ _)

theorem exec_isload_room (hb : t.aligned b = true) (hx : readHeader s t at_ true = .ok x) (hst : x.st = 1)
    (hroom : x.count < x.cap) (hin : inGrant s (at_ + 128 + x.count * t.itemBytes) t.itemBytes = true)
    (hidle : ∀ va, awaitEngines s s.hart .write va = .ok ()) :
    exec (.isload d a b) s = .next (hgave (storeWrite (storeWrite s (at_ + 128 + x.count * t.itemBytes) t.itemBytes
      (hvBitsOf s.hart t b.toNat)) (at_ + 8) 4 (x.count + 1)) d (BitVec.ofNat 64 x.count)) := by
  rw [show exec (.isload d a b) s = execIsload d a b s from rfl, execIsload, h.storeWord (hAndH hd ha) hb, haddr]
  dsimp only [bind, Except.bind]
  rw [hx]
  dsimp only
  rw [if_neg (by simp [hst]), if_neg (Nat.not_le.2 hroom), hin, Bool.not_true, if_neg Bool.false_ne_true, hidle]
  dsimp only
  rw [hidle]
  obtain ⟨hh, hi, -⟩ := storeWrite_focus s (at_ + 128 + x.count * t.itemBytes) t.itemBytes (hvBitsOf s.hart t b.toNat)
  obtain ⟨hh', hi', -⟩ := storeWrite_focus (storeWrite s (at_ + 128 + x.count * t.itemBytes) t.itemBytes
    (hvBitsOf s.hart t b.toNat)) (at_ + 8) 4 (x.count + 1)
  exact congrArg Host.Outcome.next (storeAnswer h ⟨hh'.trans hh, hi'.trans hi⟩ _)

theorem exec_isseal_sealed (hx : readHeader s t at_ true = .ok x) (hst : x.st = 2) :
    exec (.isseal d a) s = .next (hgave s d 0) := by
  rw [show exec (.isseal d a) s = execIsseal d a s from rfl, execIsseal, h.storeWord (hAndH hd ha) rfl, haddr]
  dsimp only [bind, Except.bind]
  rw [hx]
  dsimp only
  rw [if_neg (by simp [hst]), if_pos (by simp [hst])]
  exact congrArg Host.Outcome.next (storeAnswer h ⟨rfl, rfl⟩ _)

theorem exec_isseal_open (hx : readHeader s t at_ true = .ok x) (hst : x.st = 1) {g : Grant} (hg : coreGrant s = some g)
    (hidle : awaitEngines s s.hart .write at_ = .ok ()) : exec (.isseal d a) s = .next (
      if 16 ≤ (s.core s.hart.place.core).stores.length then hgave s d 1
      else hgave ((storeWrite s at_ 1 2).mapCore s.hart.place.core (fun c => { c with stores := c.stores ++
        [⟨s.hart.asid, s.hart.launch, g.gid, at_ - coreBase, min (128 + x.cap * t.itemBytes) (g.size - (at_ - coreBase))⟩] }))
          d 0) := by
  rw [show exec (.isseal d a) s = execIsseal d a s from rfl, execIsseal, h.storeWord (hAndH hd ha) rfl, haddr]
  dsimp only [bind, Except.bind]
  rw [hx]
  dsimp only
  rw [if_neg (by simp [hst]), if_neg (by simp [hst])]
  split
  · exact congrArg Host.Outcome.next (storeAnswer h ⟨rfl, rfl⟩ _)
  · rw [hg]
    dsimp only
    rw [hidle]
    obtain ⟨hh, hi, -⟩ := storeWrite_focus s at_ 1 2
    exact congrArg Host.Outcome.next (storeAnswer (u := (storeWrite s at_ 1 2).mapCore _ _) h ⟨hh, hi⟩ _)

end

theorem exec_isrel (h : VectorIssuing s t) (ha : a.toNat < 16) (haddr : storeAddr s a = .ok at_)
    (hx : readHeader s t at_ false = .ok x) (hidle : awaitEngines s s.hart .write at_ = .ok ()) :
    exec (.isrel a) s = .next (if x.st = 0 then retire s
      else retire (storeWrite (s.mapCore s.hart.place.core (fun c =>
        { c with stores := c.stores.filter (fun e => some e != storeEntry s at_) })) at_ 1 0)) := by
  rw [show exec (.isrel a) s = execIsrel a s from rfl, execIsrel, h.storeWord (isH_iff.2 ha) rfl, haddr]
  dsimp only [bind, Except.bind]
  rw [hx]
  dsimp only
  by_cases hst : x.st = 0
  · rw [if_pos (by simp [hst]), if_pos hst]
    exact congrArg Host.Outcome.next (varyTime_done h.issuing.side h.issuing.untimed)
  · rw [if_neg (by simpa using hst), if_neg hst, hidle]
    let v := s.mapCore s.hart.place.core (fun c => { c with stores := c.stores.filter (fun e => some e != storeEntry s at_) })
    obtain ⟨hh, hi, -⟩ := storeWrite_focus v at_ 1 0
    exact congrArg Host.Outcome.next (varyTime_done (u := storeWrite v at_ 1 0) ((congrArg (·.side) hi :).trans h.issuing.side)
      ((congrArg (·.cs.hstat.timed) hh :).trans h.issuing.untimed))

/-- The store's bytes follow its base in the array. -/
def StoreAt (s : State) (at_ loc : Nat) : Prop :=
  windowOf s s.hart at_ = some loc ∧ ∀ i, inGrant s at_ (i + 1) = true → windowOf s s.hart (at_ + i) = some (loc + i)

/-- A write at a byte of the store, after another. -/
theorem storeWrite_behind (hw : StoreAt s at_ loc) {k : Nat} (hk : inGrant s at_ (k + 1) = true) (a n v m z : Nat) :
    storeWrite (s.arrayWrite a n v) (at_ + k) m z = (s.arrayWrite a n v).arrayWrite (loc + k) m z :=
  storeWrite_at (s := s.arrayWrite a n v) (hw.2 k hk) m z

/-- The words of item stores, and HSIM and HPROB, complete. -/
theorem itemStoreWords : itemStoreWordsComplete := by
  intro s t d a b h ha hq hf hfit
  have hdim : 64 * 2 ^ t.hd = t.dim := rfl
  have hbytes : t.dim * t.hm.width / 8 = t.itemBytes := rfl
  rw [hdim] at hfit
  dsimp only
  rw [hdim, hbytes]
  have hidle := awaitEngines_idle hq hf .write
  refine ⟨fun hd => ⟨fun c hc hb => exec_hsim h hd hc hb hfit, fun hb hm => ⟨fun hn => ?_, fun hn => ?_⟩⟩,
    fun loc hloc hrest hal hlo hhi => ?_⟩
  · rw [exec_hprob h hd ha hb hm, if_neg (Nat.not_lt.2 hn), recallProb_exact hn, recallNum_eq]
  · rw [exec_hprob h hd ha hb hm, if_pos hn]
  · have haddr := storeAddr_window hal hlo hhi
    have hw : StoreAt s (hRead s.hart a.toNat).toNat loc := ⟨hloc, hrest⟩
    refine ⟨fun hd hb => ⟨exec_isopen_small h hd ha haddr hb, fun x hc1 hc2 hext hx => ?_⟩,
      fun x hx => ⟨fun hd hb hst => ⟨exec_isload_full h hd ha haddr hb hx hst, fun hroom hin h128 => ?_⟩,
        fun hd hst => exec_isseal_sealed h hd ha haddr hx hst, fun g hd hst hg => ?_⟩, fun x hx => ?_⟩
    · have hexec := exec_isopen_fits h hd ha haddr hb hc1 hc2 hext hx (hidle _)
      refine ⟨fun hst => ?_, fun hst => ?_⟩
      · rw [hexec, if_pos (by simpa using hst)]
      · have hmono {n : Nat} (hn : n ≤ 128) := inGrant_mono hext (m := n) (by omega)
        rw [hexec, if_neg (by simp [hst]), storeWrite_at hloc, storeWrite_behind hw (hmono (by omega : 4 + 1 ≤ 128)),
          Nat.mul_comm 256, Nat.mul_comm 65536, Nat.mul_comm (2 ^ 64)]
    · have hitem : inGrant s (hRead s.hart a.toNat).toNat (128 + x.count * t.itemBytes + 1) = true :=
        inGrant_mono (inGrant_from hlo (by rw [← Nat.add_assoc]; exact hin)) (Nat.add_le_add_left (itemBytes_pos t) _)
      rw [exec_isload_room h hd ha haddr hb hx hst hroom hin hidle, Nat.add_assoc,
        storeWrite_at (hrest _ hitem), storeWrite_behind hw (inGrant_mono h128 (by omega : 8 + 1 ≤ 128)), hvBitsOf, hvBits_eq,
        ← Nat.add_assoc loc]
    · have hexec := exec_isseal_open h hd ha haddr hx hst hg (hidle _)
      rw [storeWrite_at hloc] at hexec
      exact ⟨fun hfull => hexec.trans (by rw [if_pos hfull]), fun hroom => hexec.trans (by rw [if_neg (Nat.not_le.2 hroom)])⟩
    · have hexec := exec_isrel h ha haddr hx (hidle _)
      refine ⟨fun hst => hexec.trans (by rw [if_pos hst]), fun hst => hexec.trans ?_⟩
      rw [if_neg hst, storeWrite_at (s := s.mapCore _ _) hloc]

end

end Sys2Proof.Machine
end

section
/-!
LAW. What the clean-up unit's turn leaves of the stores that a query reads, the scan of a store, and HCLEAN (R163, R285, R286).
-/

namespace Sys2Proof.Machine

/-! ### A unit that serves a word changes nothing that its reads see (R286) -/

/-- The state with another request of the hart in focus and other arbiters. -/
def withTurn (s : State) (x : Option UnitAsk) (l : List Arbiter) : State :=
  { s with hart := { s.hart with ask := x }, arbiters := l }

/-- A hart with another request at a unit. -/
def asking (h : Hart) (x : Option UnitAsk) : Hart := { h with ask := x }

theorem served_withTurn {s v : State} {unit : Arb} (h : takeUnit s unit = some v) : v = withTurn s none v.arbiters :=
  takeUnit_eq h

section
variable {s : State} {h : Hart} {t : VType} {x : Option UnitAsk} {l : List Arbiter}

theorem walkFrom_withTurn (va : Nat) (top : Bool) (levels : List (Nat × Nat)) (table : Nat) :
    walkFrom (withTurn s x l) va top levels table = walkFrom s va top levels table := by
  induction levels generalizing top table with
  | nil => rfl
  | cons y rest ih =>
    simp only [walkFrom, ih]
    rfl

theorem walk_withTurn (root va : Nat) : walk (withTurn s x l) root va = walk s root va := walkFrom_withTurn va true _ root

theorem rootOf_withTurn (asid : Nat) : rootOf (withTurn s x l) asid = rootOf s asid := rfl

theorem tlbHit_withTurn (core asid va : Nat) : tlbHit (withTurn s x l) core asid va = tlbHit s core asid va := rfl

theorem quietLoc_withTurn (va : Nat) : quietLoc (withTurn s x l) (asking h x) va = quietLoc s h va := by
  rw [quietLoc, quietLoc, walk_withTurn, rootOf_withTurn, tlbHit_withTurn, show (asking h x).asid = h.asid from rfl,
    show (asking h x).place = h.place from rfl]

theorem windowOf_withTurn (va : Nat) : windowOf (withTurn s x l) (asking h x) va = windowOf s h va := rfl

theorem quietLine_withTurn (va : Nat) : quietLine (withTurn s x l) (asking h x) va = quietLine s h va := by
  rw [quietLine, quietLine, quietLoc_withTurn, windowOf_withTurn]

theorem harts_any_withTurn (p : Hart → Bool) (hp : p (asking s.hart x) = p s.hart) :
    (withTurn s x l).harts.any p = s.harts.any p := by
  unfold State.harts
  rw [List.any_append, List.any_append]
  refine congrArg (· || _) ?_
  rw [show (withTurn s x l).hart.life = s.hart.life from rfl]
  split
  · rfl
  · simp only [List.any_cons, List.any_nil, Bool.or_false]
    exact hp

theorem writesLine_withTurn (c : EngCmd) (line : Nat) :
    c.writesLine (withTurn s x l) (asking h x) line = c.writesLine s h line := by
  simp only [EngCmd.writesLine, quietLine_withTurn]

/-- A read waits for the same commands. -/
theorem awaitEngines_withTurn (va : Nat) :
    awaitEngines (withTurn s x l) (asking h x) .read va = awaitEngines s h .read va := by
  have hadd : addPending (withTurn s x l) (asking h x) va = addPending s h va := by
    rw [addPending, addPending, windowOf_withTurn, show (withTurn s x l).cores = s.cores from rfl,
      show (asking h x).uid = h.uid from rfl]
  have hk : (AccessKind.read == .write) = false := rfl
  rw [awaitEngines, awaitEngines, hadd, awaitCommands, awaitCommands, quietLine_withTurn,
    show (asking h x).tl = h.tl from rfl, show (asking h x).cs = h.cs from rfl]
  simp only [writesLine_withTurn, hk, Bool.false_and, Bool.or_false]

theorem unreached_withTurn (uid : Nat) : unreached (withTurn s x l) uid = unreached s uid := rfl

theorem awaitIsland_withTurn (who : Option Nat) (loc : Nat) : awaitIsland (withTurn s x l) who loc = awaitIsland s who loc := by
  have hharts (p : Hart → Bool) (hp : p (asking s.hart x) = p s.hart) := harts_any_withTurn (l := l) p hp
  simp only [awaitIsland, requestsHold, unreached_withTurn, show (withTurn s x l).cores = s.cores from rfl]
  rw [hharts] <;> rfl

/-! ### Reads at the vector point commute with the turn (R117, R129) -/

theorem pointLine_withTurn (stack line : Nat) : (withTurn s x l).pointLine stack line = s.pointLine stack line := rfl

theorem store_withTurn (line : Nat) (m : Memory) : (withTurn s x l).store line m = withTurn (s.store line m) x l := rfl

theorem putLine_withTurn (stack line : Nat) (data : Line) (mask : BitVec 128) :
    (withTurn s x l).putLine stack line data mask = withTurn (s.putLine stack line data mask) x l := by
  rw [State.putLine, State.putLine, pointLine_withTurn, show (withTurn s x l).l2 = s.l2 from rfl]
  by_cases hc : isCopied (128 * line) = true
  · rw [if_pos hc, if_pos hc]
    rfl
  · rw [if_neg hc, if_neg hc, show (withTurn s x l).mem = s.mem from rfl, store_withTurn]

/-- The guard of a write sees nothing of the turn, and the shadow it takes leaves it. -/
theorem guardWrite_withTurn (stack a n : Nat) :
    (withTurn s x l).guardWrite stack a n = (s.guardWrite stack a n).map (withTurn · x l) := by
  rw [State.guardWrite, State.guardWrite, pointLine_withTurn, show (withTurn s x l).isSealed a n = s.isSealed a n from rfl,
    show (withTurn s x l).poolOf (lineOf a) = s.poolOf (lineOf a) from rfl,
    show (withTurn s x l).tracker (lineOf a) = s.tracker (lineOf a) from rfl]
  dsimp only
  by_cases hs : s.isSealed a n = true
  · rw [if_pos hs, if_pos hs]
    rfl
  rw [if_neg hs, if_neg hs]
  cases s.poolOf (lineOf a) with
  | some o => rfl
  | none =>
    cases s.tracker (lineOf a) with
    | none => rfl
    | some p =>
      dsimp only
      rw [show (withTurn s x l).ctx? p.1 = s.ctx? p.1 from rfl]
      cases s.ctx? p.1 with
      | none => rfl
      | some c =>
        dsimp only
        cases c.ranges.toList.getD p.2 none with
        | none => rfl
        | some y =>
          dsimp only
          split
          · rfl
          · split <;> rfl

theorem writeBack_withTurn (y : L1Line) : (withTurn s x l).writeBack y = withTurn (s.writeBack y) x l := by
  unfold State.writeBack
  dsimp only
  rw [guardWrite_withTurn]
  split
  · rfl
  · cases s.guardWrite (y.core / 64) (128 * y.line) 128 with
    | ok u => exact putLine_withTurn _ _ _ _
    | error e => cases e <;> rfl

theorem l1Flush_withTurn (p : L1Line → Bool) : (withTurn s x l).l1Flush p = withTurn (s.l1Flush p) x l := by
  have hfold (ys : List L1Line) (u : State) : ys.foldl (fun s y => s.writeBack y) (withTurn u x l) =
      withTurn (ys.foldl (fun s y => s.writeBack y) u) x l := by
    induction ys generalizing u with
    | nil => rfl
    | cons y ys ih => rw [List.foldl_cons, List.foldl_cons, writeBack_withTurn, ih]
  exact hfold _ { s with l1 := s.l1.filter (fun y => !p y) }

theorem homeRead_withTurn (stack a n : Nat) : (withTurn s x l).homeRead stack a n =
    ((s.homeRead stack a n).1, withTurn (s.homeRead stack a n).2 x l) := by
  rw [State.homeRead, State.homeRead, State.snoop, State.snoop, l1Flush_withTurn]
  generalize s.l1Flush _ = u
  dsimp only
  rw [pointLine_withTurn, putLine_withTurn, show (withTurn u x l).poolOf (lineOf a) = u.poolOf (lineOf a) from rfl]
  by_cases hw : isWindowLoc a = true
  · rw [if_pos hw, if_pos hw]
    rfl
  rw [if_neg hw, if_neg hw]
  split
  · rfl
  · split <;> rfl

/-- A read at a window address gives the same with another turn. -/
theorem orderedRead_withTurn {va n : Nat} (hva : 2 ^ 56 ≤ va) :
    orderedRead (withTurn s x l) (asking h x) .other va n =
      (orderedRead s h .other va n).map (fun r => (r.1, withTurn r.2 x l)) := by
  have hlocate : locateFor (withTurn s x l) (asking h x) .read false va = locateFor s h .read false va := by
    rw [locateFor, locateFor, if_neg (Nat.not_lt.2 hva), if_neg (Nat.not_lt.2 hva), windowOf_withTurn]
  have hleaf (y : Located) (hy : locateFor s h .read false va = .ok y) : y.leafAt = none := by
    rw [locateFor, if_neg (Nat.not_lt.2 hva), if_neg (by decide)] at hy
    split at hy
    · rw [← Except.ok.inj hy]
    · exact nomatch hy
  rw [orderedRead, orderedRead, awaitEngines_withTurn]
  cases awaitEngines s h .read va with
  | error e => rfl
  | ok _ =>
    dsimp only [bind, Except.bind]
    rw [pointRead, pointRead, hlocate, show (asking h x).uid = h.uid from rfl, show (asking h x).place = h.place from rfl]
    cases hy : locateFor s h .read false va with
    | error e => rfl
    | ok y =>
      dsimp only [bind, Except.bind]
      rw [awaitIsland_withTurn]
      have hmark (u : State) : markAccess u y .read .other = u := by rw [markAccess, hleaf y hy]
      cases awaitIsland s (some h.uid) y.loc with
      | error e => rfl
      | ok _ =>
        dsimp only
        rw [show (withTurn s x l).poisoned (lineOf y.loc) = s.poisoned (lineOf y.loc) from rfl]
        split
        · rfl
        · rw [hmark, hmark, if_neg (by decide), if_neg (by decide), homeRead_withTurn]
          rfl

/-- So does a read of bytes in more than one line. -/
theorem rangeRead_withTurn (fuel va n : Nat) (hva : 2 ^ 56 ≤ va) :
    rangeRead (withTurn s x l) (asking h x) .other fuel va n =
      (rangeRead s h .other fuel va n).map (fun r => (r.1, withTurn r.2 x l)) := by
  induction fuel generalizing s va n with
  | zero => rfl
  | succ fuel ih =>
    rw [rangeRead, rangeRead]
    split
    · rfl
    · dsimp only
      rw [orderedRead_withTurn hva]
      cases orderedRead s h .other va (firstPart va n) with
      | error e => rfl
      | ok r =>
        dsimp only [bind, Except.bind, Except.map]
        rw [ih _ _ (by omega)]
        cases rangeRead r.2 h .other fuel (va + firstPart va n) (n - firstPart va n) <;> rfl

theorem rangeRead_value {fuel va n : Nat} (hva : 2 ^ 56 ≤ va) :
    (rangeRead (withTurn s x l) (withTurn s x l).hart .other fuel va n).map (·.1) =
      (rangeRead s s.hart .other fuel va n).map (·.1) := by
  rw [show (withTurn s x l).hart = asking s.hart x from rfl, rangeRead_withTurn fuel va n hva]
  cases rangeRead s s.hart .other fuel va n <;> rfl

theorem readItem_eq (t : VType) (at_ i : Nat) : readItem s t at_ i =
    (rangeRead s s.hart .other (lineFuel t.itemBytes) (at_ + 128 + i * t.itemBytes) t.itemBytes).map (·.1) := by
  rw [readItem]
  cases rangeRead s s.hart .other (lineFuel t.itemBytes) (at_ + 128 + i * t.itemBytes) t.itemBytes <;> rfl

/-- The window of the core's scratchpad lies above translated addresses. -/
theorem coreBase_le {at_ : Nat} (h : coreBase ≤ at_) : 2 ^ 56 ≤ at_ := (by decide : 2 ^ 56 ≤ coreBase).trans h

theorem readItem_withTurn {at_ : Nat} (hlo : coreBase ≤ at_) (i : Nat) :
    readItem (withTurn s x l) t at_ i = readItem s t at_ i := by
  rw [readItem_eq, readItem_eq, rangeRead_value ((coreBase_le hlo).trans (by omega))]

theorem storeEntry_withTurn (at_ : Nat) : storeEntry (withTurn s x l) at_ = storeEntry s at_ := rfl

theorem readHeader_withTurn {at_ : Nat} (hlo : coreBase ≤ at_) (same : Bool) :
    readHeader (withTurn s x l) t at_ same = readHeader s t at_ same := by
  rw [readHeader, readHeader, show (withTurn s x l).hart = asking s.hart x from rfl, orderedRead_withTurn (coreBase_le hlo),
    storeEntry_withTurn]
  cases orderedRead s s.hart .other at_ 128 <;> rfl

theorem storeAddr_withTurn (r : BitVec 5) : storeAddr (withTurn s x l) r = storeAddr s r := rfl

/-- An address that a query's word names is in the window of the core's scratchpad. -/
theorem storeAddr_lo {r : BitVec 5} {at_ : Nat} (h : storeAddr s r = .ok at_) : coreBase ≤ at_ := by
  rw [storeAddr] at h
  split at h
  · exact nomatch h
  · split at h
    · exact nomatch h
    · next hout =>
      have hat : (hRead s.hart r.toNat).toNat = at_ := Except.ok.inj h
      omega

/-- A header that a word on an item store goes on with, if it is not FREE, is well formed: no store holds more than 4,096
items. -/
theorem count_le_of_readHeader {at_ : Nat} {same : Bool} {y : StoreHeader} (h : readHeader s t at_ same = .ok y)
    (hst : y.st ≠ 0) : y.count ≤ 4096 := by
  rw [readHeader] at h
  cases hr : orderedRead s s.hart .other at_ 128 with
  | error e => rw [hr] at h; exact nomatch h
  | ok r =>
    rw [hr] at h
    dsimp only [bind, Except.bind] at h
    by_cases hfree : (headerOf r.1).st = 0
    · rw [if_pos (by simp [hfree])] at h
      exact absurd ((Except.ok.inj h) ▸ hfree) hst
    · rw [if_neg (by simpa using hfree)] at h
      split at h
      · exact nomatch h
      · next hbad =>
        obtain rfl := Except.ok.inj h
        have hgood : headerBad r.1 = false := by
          cases hb : headerBad r.1 with
          | false => rfl
          | true => exact absurd (by rw [hb]; rfl) hbad
        rw [headerBad, Bool.or_eq_false_iff, decide_eq_false_iff_not] at hgood
        omega

end

/-! ### The scan of a store (R163) -/

/-- Of the items below `k` that satisfy `p`, number `i` has the greatest agreement, and is the lowest such. -/
def IsFirst (g : Nat → Nat) (k : Nat) (p : Nat → Prop) (i : Nat) : Prop :=
  i < k ∧ p i ∧ ∀ j < k, p j → g j ≤ g i ∧ (g j = g i → i ≤ j)

section
variable {g : Nat → Nat} {k : Nat} {p : Nat → Prop}

theorem isFirst_unique {i j : Nat} (hi : IsFirst g k p i) (hj : IsFirst g k p j) : i = j := by
  obtain ⟨hik, hpi, hi⟩ := hi
  obtain ⟨hjk, hpj, hj⟩ := hj
  have h1 := hi j hjk hpj
  have h2 := hj i hik hpi
  omega

/-- What a scan holds after the first `k` items. -/
structure Scanned (g : Nat → Nat) (k : Nat) (x : Scan) : Prop where
  none : k = 0 → x = ⟨ones64, 0, ones64, 0⟩
  best : 0 < k → ∃ b, IsFirst g k (fun _ => True) b ∧ x.best = word b ∧ x.bestG = word (g b) ∧
    (k = 1 → x.next = ones64) ∧ (2 ≤ k → ∃ c, IsFirst g k (fun j => j ≠ b) c ∧ x.next = word c ∧ x.nextG = word (g c))

theorem word_ne_ones {i : Nat} (h : i < 4096) : word i ≠ ones64 := by
  intro he
  have := congrArg BitVec.toNat he
  simp only [word, ones64, BitVec.toNat_ofNat, BitVec.toNat_allOnes] at this
  omega

theorem toNat_word {i : Nat} (h : i < 2 ^ 64) : (word i).toNat = i := by
  rw [word, BitVec.toNat_ofNat, Nat.mod_eq_of_lt h]

/-- One more item keeps what a scan holds. -/
theorem scanned_take {x : Scan} (hx : Scanned g k x) (hk : k < 4096) (hg : ∀ i, g i < 2 ^ 64) :
    Scanned g (k + 1) (x.take k (g k)) := by
  refine ⟨fun h => absurd h (Nat.succ_ne_zero k), fun _ => ?_⟩
  obtain rfl | hpos := Nat.eq_zero_or_pos k
  · rw [hx.none rfl]
    refine ⟨0, ⟨Nat.one_pos, trivial, fun j hj _ => ?_⟩, rfl, rfl, fun _ => rfl, fun h => absurd h (by omega)⟩
    obtain rfl := Nat.lt_one_iff.1 hj
    exact ⟨le_refl _, fun _ => le_refl _⟩
  · obtain ⟨b, ⟨hbk, -, hb⟩, hbest, hbestG, hone, hmore⟩ := hx.best hpos
    have hnb : (x.best == ones64) = false := by simpa [hbest] using word_ne_ones (hbk.trans hk)
    have hbG : x.bestG.toNat = g b := by rw [hbestG, toNat_word (hg b)]
    by_cases hlt : g b < g k
    · have htake : x.take k (g k) = ⟨word k, word (g k), x.best, x.bestG⟩ := by
        rw [Scan.take, hnb, hbG, if_pos (by simpa using hlt), if_pos (by rw [bne, hnb]; rfl)]
      rw [htake]
      refine ⟨k, ⟨Nat.lt_succ_self k, trivial, fun j hj _ => ?_⟩, rfl, rfl, fun h => absurd h (by omega), fun _ =>
        ⟨b, ⟨by omega, by omega, fun j hj hne => hb j (by omega) trivial⟩, hbest, hbestG⟩⟩
      obtain rfl | hjk := Nat.eq_or_lt_of_le (Nat.le_of_lt_succ hj)
      · exact ⟨le_refl _, fun _ => le_refl _⟩
      · have := hb j hjk trivial
        omega
    · have hfirst : IsFirst g (k + 1) (fun _ => True) b := by
        refine ⟨by omega, trivial, fun j hj _ => ?_⟩
        obtain rfl | hjk := Nat.eq_or_lt_of_le (Nat.le_of_lt_succ hj)
        · omega
        · exact hb j hjk trivial
      have hif : ¬ ((x.best == ones64 || decide (x.bestG.toNat < g k)) = true) := by rw [hnb, hbG]; simpa using hlt
      by_cases hnext : k = 1 ∨ x.nextG.toNat < g k
      · have htake : x.take k (g k) = { x with next := word k, nextG := word (g k) } := by
          rw [Scan.take, if_neg hif, if_pos]
          rcases hnext with h1 | h1
          · simp [hone h1]
          · simp [h1]
        rw [htake]
        refine ⟨b, hfirst, hbest, hbestG, fun h => absurd h (by omega), fun _ => ⟨k, ⟨by omega, by omega, fun j hj hne => ?_⟩,
          rfl, rfl⟩⟩
        obtain rfl | hjk := Nat.eq_or_lt_of_le (Nat.le_of_lt_succ hj)
        · exact ⟨le_refl _, fun _ => le_refl _⟩
        · have h2 : 2 ≤ k := by omega
          obtain ⟨c, ⟨hck, hcb, hc⟩, -, hcG⟩ := hmore h2
          rw [hcG, toNat_word (hg c)] at hnext
          have := hc j hjk hne
          omega
      · have h2 : 2 ≤ k := by omega
        obtain ⟨c, ⟨hck, hcb, hc⟩, hcn, hcG⟩ := hmore h2
        have hnG : x.nextG.toNat = g c := by rw [hcG, toNat_word (hg c)]
        have htake : x.take k (g k) = x := by
          rw [Scan.take, if_neg hif, if_neg]
          rw [hnG, hcn]
          simpa using ⟨word_ne_ones (hck.trans hk), by omega⟩
        rw [htake]
        refine ⟨b, hfirst, hbest, hbestG, fun h => absurd h (by omega), fun _ => ⟨c, ⟨by omega, hcb, fun j hj hne => ?_⟩, hcn, hcG⟩⟩
        obtain rfl | hjk := Nat.eq_or_lt_of_le (Nat.le_of_lt_succ hj)
        · omega
        · exact hc j hjk hne

/-- The scan of `k` items, none of which stops it. -/
def scanOf (g : Nat → Nat) (k : Nat) : Scan :=
  (List.range k).foldl (fun x i => x.take i (g i)) ⟨ones64, 0, ones64, 0⟩

theorem scanned_scanOf (hg : ∀ i, g i < 2 ^ 64) : ∀ k ≤ 4096, Scanned g k (scanOf g k)
  | 0, _ => ⟨fun _ => rfl, fun h => absurd h (by omega)⟩
  | k + 1, hk => by
    rw [scanOf, List.range_succ, List.foldl_append]
    exact scanned_take (scanned_scanOf hg k (by omega)) (by omega) hg

theorem scanItems_ok {s : State} {t : VType} {at_ q : Nat} {item : Nat → Nat} (ys : List Nat) (x : Scan)
    (h : ∀ i ∈ ys, readItem s t at_ i = .ok (item i)) : scanItems s t at_ q ys x =
      (ys.foldl (fun x i => x.take i (agreement t.hm t.dim q (item i))) x, none) := by
  induction ys generalizing x with
  | nil => rfl
  | cons i ys ih =>
    rw [scanItems, h i List.mem_cons_self]
    exact ih _ fun j hj => h j (List.mem_cons_of_mem i hj)

end

end Sys2Proof.Machine
end

section
/-!
LAW. HCLEAN: a recall against a sealed store (R163, R285, R286).
-/

namespace Sys2Proof.Machine

section
variable {s v u z : State} {t : VType} {d a b : BitVec 5} {at_ : Nat} {y : StoreHeader} {item : Nat → Nat}

theorem isRecordBase_iff {r : BitVec 5} : isRecordBase r = true ↔ r.toNat ≤ 12 := by simp [isRecordBase, BitVec.le_def]

/-- The time of the clean-up unit for `n` items, and what its arbiter charges for it. -/
theorem chargeCleanup_only (s : State) (t : VType) (n : Nat) : chargeCleanup s t n =
    { s with arbiters := (chargeCleanup s t n).arbiters, cores := (chargeCleanup s t n).cores } := by
  rw [chargeCleanup]
  exact chargeUnit_only s _ _

/-- What a scan of the whole store gives, from the agreement of each item. -/
def recalled (d : BitVec 5) (y : StoreHeader) (g : Nat → Nat) (h : Hart) : Hart :=
  let x := scanOf g y.count
  hWrite4 h d.toNat x.best x.bestG x.next (word (x.status y.count y.floor))

theorem atUnit_served {unit : Arb} {body : State → Except Stop State} (hv : takeUnit s unit = some v) :
    atUnit s unit body = body v := by
  rw [atUnit, hv]

theorem atUnit_waits {unit : Arb} {body : State → Except Stop State} (hv : takeUnit s unit = none) :
    finish s (atUnit s unit body) = .next (awaitUnit s unit) := by
  rw [atUnit, hv]
  rfl

/-- A recall reads the whole store where the clean-up unit serves it. -/
def cleanAtUnit (d a : BitVec 5) (t : VType) (at_ : Nat) (y : StoreHeader) (s : State) : Except Stop State :=
  let h := s.hart
  let start := h.cs.vprog.toNat
  let stop := match abandonOf s with
    | some c => max start (min c y.count)
    | none => y.count
  let first : Scan := if start = 0 then ⟨ones64, 0, ones64, 0⟩
    else ⟨hRead h d.toNat, hRead h (d.toNat + 1), hRead h (d.toNat + 2), hRead h (d.toNat + 3)⟩
  let (x, e) := scanItems s t at_ (hvBitsOf h t a.toNat) (List.range' start (stop - start)) first
  let s := chargeCleanup s t (match e with | some (i, _) => i - start | none => stop - start)
  let kept (i : Nat) : State := s.mapHart (fun h => keepProgress (hWrite4 h d.toNat x.best x.bestG x.next x.nextG) i)
  match e with
  | some (i, e) => if i = start then .error e else trapAfter (kept i) e
  | none =>
    if y.count ≤ stop then
      .ok (varyTime (retire (s.mapHart (fun h => hWrite4 h d.toNat x.best x.bestG x.next (word (x.status y.count y.floor))))))
    else .ok (stall (kept stop))

theorem exec_hclean (h : VectorIssuing s t) (hd : d.toNat ≤ 12) (hb : b.toNat < 16) (ha : t.aligned a = true)
    (haddr : storeAddr s b = .ok at_) (hy : readHeader s t at_ true = .ok y) (hst : y.st = 2) :
    exec (.hclean d a b) s = finish s (atUnit s (.cleanup s.hart.place.core) (cleanAtUnit d a t at_ y)) := by
  rw [show exec (.hclean d a b) s = execHclean d a b s from rfl, execHclean, h.vtypeOf,
    h.issuing.runPlainVector (by rw [isRecordBase_iff.2 hd, isH_iff.2 hb]; rfl) ((h.fits _).trans ha)]
  dsimp only [bind, Except.bind]
  rw [haddr]
  dsimp only
  rw [hy]
  dsimp only
  rw [if_neg (by simp [hst])]
  rfl

theorem cleanAtUnit_whole (hs : s.hart.cs.vprog = 0) (hc : abandonOf s = none) (hside : s.issue.side = .vector)
    (ht : s.hart.cs.hstat.timed = false) (hitems : ∀ i < y.count, readItem s t at_ i = .ok (item i)) :
    cleanAtUnit d a t at_ y s = .ok (retire ((chargeCleanup s t y.count).mapHart
      (recalled d y (fun i => agreement t.hm t.dim (hvBitsOf s.hart t a.toNat) (item i))))) := by
  have hstart : s.hart.cs.vprog.toNat = 0 := by rw [hs]; rfl
  have hscan := scanItems_ok (q := hvBitsOf s.hart t a.toNat) (List.range y.count) ⟨ones64, 0, ones64, 0⟩
    fun i hi => hitems i (List.mem_range.1 hi)
  rw [cleanAtUnit, hstart, hc]
  dsimp only
  rw [if_pos rfl, Nat.sub_zero, ← List.range_eq_range', hscan]
  dsimp only
  rw [if_pos (le_refl _)]
  have hz := chargeCleanup_only s t y.count
  refine congrArg Except.ok (varyTime_done (u := (chargeCleanup s t y.count).mapHart _) ?_ ?_)
  · rw [mapHart_issue, hz]
    exact hside
  · rw [mapHart_hart, hz]
    simpa [hWrite4] using ht

/-- What a word of the clean-up unit leaves, which changes of its hart only registers that it writes. -/
theorem unitWord_effect (h : Issuing s .vector)
    (hz : z = { s with hart := z.hart, arbiters := z.arbiters, cores := z.cores, draws := z.draws }) {f : Hart → Hart}
    (hpc : (f z.hart).ve.pc = s.hart.ve.pc) (hsc : (f z.hart).sc = s.hart.sc) (hcs : (f z.hart).cs = s.hart.cs) :
    let r := retire (z.mapHart f)
    r = { s with hart := r.hart, arbiters := r.arbiters, cores := r.cores, draws := z.draws } ∧ Retired s r ∧
      r.hart.sc = s.hart.sc ∧ r.hart.ve.v = (f z.hart).ve.v ∧ ∀ k, hRead r.hart k = hRead (f z.hart) k := by
  have hi : z.issue = s.issue := (congrArg State.issue hz :)
  have hside : (z.mapHart f).issue.side = .vector := (congrArg (·.side) hi :).trans h.side
  have hret : Retired s (retire (z.mapHart f)) := by
    refine retired_retire_from ?_ ?_
    · rw [pcOf, pcOf, mapHart_issue, mapHart_hart, hi, hpc, hsc]
    · rw [mapHart_hart, hcs]
  refine ⟨?_, hret, ?_, ?_, fun k => ?_⟩
  · generalize f = f' at *
    rw [retire, retireTo_vector_eq hside, hz]
    rfl
  all_goals rw [retire, retireTo_vector_eq hside]
  · exact hsc
  · rfl
  · rfl

theorem hWrite4_only (h : Hart) (n : Nat) (a b c e : Word) :
    (hWrite4 h n a b c e).ve.pc = h.ve.pc ∧ (hWrite4 h n a b c e).sc = h.sc ∧ (hWrite4 h n a b c e).cs = h.cs ∧
      (hWrite4 h n a b c e).ve.v = h.ve.v := by
  simp [hWrite4, hWrite]

theorem hRead_hWrite4 (h : Hart) {n : Nat} (hn : n ≤ 12) (a b c e : Word) (k : Nat) :
    hRead (hWrite4 h n a b c e) k = if k = n + 3 then e else if k = n + 2 then c else if k = n + 1 then b
      else if k = n then a else hRead h k := by
  rw [hWrite4, hRead_hWrite _ _ _ _ (by omega), hRead_hWrite _ _ _ _ (by omega), hRead_hWrite _ _ _ _ (by omega),
    hRead_hWrite _ _ _ _ (by omega)]

/-- The registers of a recall, by the best item and the best of the others. -/
theorem recalled_effect {g : Nat → Nat} (hd : d.toNat ≤ 12) (hcount : y.count ≤ 4096) (hg : ∀ i, g i < 2 ^ 64) (h : Hart) :
    let out (k : Nat) : Word := hRead (recalled d y g h) (d.toNat + k)
    (∀ k, (k < d.toNat ∨ d.toNat + 3 < k) → hRead (recalled d y g h) k = hRead h k) ∧
    (y.count = 0 → out 0 = BitVec.allOnes 64 ∧ out 1 = 0 ∧ out 2 = BitVec.allOnes 64 ∧ out 3 = 3) ∧
    (∀ i, IsFirst g y.count (fun _ => True) i → out 0 = BitVec.ofNat 64 i ∧ out 1 = BitVec.ofNat 64 (g i) ∧
      (y.count = 1 → out 2 = BitVec.allOnes 64 ∧ out 3 = if g i < y.floor then 2 else 0) ∧
      (∀ k, IsFirst g y.count (fun j => j ≠ i) k → out 2 = BitVec.ofNat 64 k ∧
        out 3 = if g i < y.floor then 2 else if g k = g i then 1 else 0)) := by
  have hscan := scanned_scanOf hg y.count hcount
  have hread (k : Nat) : hRead (recalled d y g h) k = if k = d.toNat + 3 then word ((scanOf g y.count).status y.count y.floor)
      else if k = d.toNat + 2 then (scanOf g y.count).next else if k = d.toNat + 1 then (scanOf g y.count).bestG
      else if k = d.toNat then (scanOf g y.count).best else hRead h k := hRead_hWrite4 h hd _ _ _ _ k
  have h0 : hRead (recalled d y g h) (d.toNat + 0) = (scanOf g y.count).best := by rw [hread]; simp
  have h1 : hRead (recalled d y g h) (d.toNat + 1) = (scanOf g y.count).bestG := by rw [hread]; simp
  have h2 : hRead (recalled d y g h) (d.toNat + 2) = (scanOf g y.count).next := by rw [hread]; simp
  have h3 : hRead (recalled d y g h) (d.toNat + 3) = word ((scanOf g y.count).status y.count y.floor) := by rw [hread]; simp
  dsimp only
  rw [h0, h1, h2, h3]
  refine ⟨fun k hk => ?_, fun hzero => ?_, fun i hi => ?_⟩
  · rw [hread, if_neg (by omega), if_neg (by omega), if_neg (by omega), if_neg (by omega)]
  · rw [hscan.none hzero, Scan.status, if_pos hzero]
    exact ⟨rfl, rfl, rfl, rfl⟩
  · have hpos : 0 < y.count := Nat.zero_lt_of_lt hi.1
    obtain ⟨b, hb, hbest, hbestG, hone, hmore⟩ := hscan.best hpos
    obtain rfl := isFirst_unique hb hi
    have hbG : (scanOf g y.count).bestG.toNat = g b := by rw [hbestG, toNat_word (hg b)]
    refine ⟨hbest, hbestG, fun h1 => ⟨hone h1, ?_⟩, fun k hk => ?_⟩
    · rw [Scan.status, if_neg (by omega), hbG, hone h1]
      split <;> rfl
    · have htwo : 2 ≤ y.count := by
        obtain ⟨hkc, hne, -⟩ := hk
        have hbc := hb.1
        omega
      obtain ⟨c, hc, hnext, hnextG⟩ := hmore htwo
      obtain rfl := isFirst_unique hc hk
      have hne : ((scanOf g y.count).next != ones64) = true := by
        rw [hnext]
        simpa using word_ne_ones (hc.1.trans_le hcount)
      have heq : ((scanOf g y.count).nextG == (scanOf g y.count).bestG) = decide (g c = g b) := by
        rw [hnextG, hbestG, Bool.eq_iff_iff, beq_iff_eq, decide_eq_true_iff]
        exact ⟨fun he => by rw [← toNat_word (hg c), he, toNat_word (hg b)], fun he => by rw [he]⟩
      refine ⟨hnext, ?_⟩
      rw [Scan.status, if_neg (by omega), hbG, hne, heq, Bool.true_and]
      split
      · rfl
      · split <;> simp_all [word]

end

end Sys2Proof.Machine
end

section
/-!
LAW. HFACT: what a factorisation leaves (R164). Settles O41 with the words of item stores and HCLEAN.
-/

namespace Sys2Proof.Machine

/-! ### Lists of answers -/

theorem forall₂_of_mapM {ε α β : Type} {f : α → Except ε β} : ∀ {l : List α} {r : List β}, l.mapM f = .ok r →
    List.Forall₂ (fun x y => f x = .ok y) l r
  | [], r, h => by
    obtain rfl : [] = r := Except.ok.inj h
    exact .nil
  | x :: l, r, h => by
    rw [List.mapM_cons] at h
    dsimp only [bind, Except.bind] at h
    cases hx : f x with
    | error e => rw [hx] at h; exact nomatch h
    | ok y =>
      rw [hx] at h
      dsimp only at h
      cases hl : l.mapM f with
      | error e => rw [hl] at h; exact nomatch h
      | ok ys =>
        rw [hl] at h
        obtain rfl : y :: ys = r := Except.ok.inj h
        exact .cons hx (forall₂_of_mapM hl)

theorem mapM_congr {ε α β : Type} {f g : α → Except ε β} : ∀ {l : List α}, (∀ x ∈ l, f x = g x) → l.mapM f = l.mapM g
  | [], _ => rfl
  | x :: l, h => by
    rw [List.mapM_cons, List.mapM_cons, h x List.mem_cons_self, mapM_congr fun y hy => h y (List.mem_cons_of_mem x hy)]

/-- The answer for each number below `n`. -/
theorem mapM_range {ε β : Type} {f : Nat → Except ε β} {n : Nat} {r : List β} (h : (List.range n).mapM f = .ok r) :
    r.length = n ∧ ∀ k < n, ∃ y, r[k]? = some y ∧ f k = .ok y := by
  have hall := forall₂_of_mapM h
  have hlen : r.length = n := by rw [← hall.length_eq, List.length_range]
  refine ⟨hlen, fun k hk => ⟨r[k]'(hlen ▸ hk), List.getElem?_eq_getElem _, ?_⟩⟩
  have hget := hall.get (i := k) (by rw [List.length_range]; exact hk) (hlen ▸ hk)
  simpa using hget

/-! ### The tuple of a factorisation (R164) -/

/-- A tuple with field `f` replaced, in its parts below and from that field on. -/
theorem setTupleField_eq (t f x : Nat) : setTupleField t f x =
    t % 2 ^ (12 * f) + 2 ^ (12 * f) * (4096 * (t / 2 ^ (12 * f) / 4096) + x % 4096) := by
  rw [setTupleField, tupleField]
  generalize 2 ^ (12 * f) = p
  have hsplit : p * (t / p) + t % p = t := Nat.div_add_mod t p
  have hfield : p * (t / p) = p * (4096 * (t / p / 4096)) + p * (t / p % 4096) := by
    rw [← Nat.mul_add, Nat.div_add_mod]
  rw [Nat.mul_add, Nat.mul_comm (t / p % 4096) p, Nat.mul_comm (x % 4096) p]
  omega

theorem tupleField_set_same (t f x : Nat) : tupleField (setTupleField t f x) f = x % 4096 := by
  have hpos : 0 < 2 ^ (12 * f) := Nat.two_pow_pos _
  rw [setTupleField_eq, tupleField, Nat.add_mul_div_left _ _ hpos, Nat.div_eq_of_lt (Nat.mod_lt _ hpos), Nat.zero_add,
    Nat.mul_add_mod, Nat.mod_mod]

/-- A field below is not of the part from field `f` on. -/
theorem tupleField_low (a m : Nat) {f g : Nat} (hg : g < f) : tupleField (a + 2 ^ (12 * f) * m) g = tupleField a g := by
  obtain ⟨k, rfl⟩ : ∃ k, f = g + 1 + k := ⟨f - (g + 1), by omega⟩
  have hpow : 2 ^ (12 * (g + 1 + k)) * m = 2 ^ (12 * g) * (4096 * (2 ^ (12 * k) * m)) := by
    rw [show 12 * (g + 1 + k) = 12 * g + 12 + 12 * k by omega, pow_add, pow_add]
    ring
  rw [tupleField, tupleField, hpow, Nat.add_mul_div_left _ _ (Nat.two_pow_pos _), Nat.add_mul_mod_self_left]

theorem tupleField_set_lower (t f x : Nat) {g : Nat} (hg : g < f) : tupleField (setTupleField t f x) g = tupleField t g := by
  rw [setTupleField_eq, tupleField_low _ _ hg]
  conv_rhs => rw [← Nat.mod_add_div t (2 ^ (12 * f)), tupleField_low _ _ hg]

theorem bestIndex_lt {w : List Int} (hw : w ≠ []) : bestIndex w < w.length := by
  have hpos : 0 < w.length := List.length_pos_of_ne_nil hw
  refine List.foldlRecOn (motive := fun acc : Nat × Int => acc.1 < w.length) w.zipIdx _ hpos fun acc hacc x hx => ?_
  split
  · have := List.snd_lt_of_mem_zipIdx hx
    simpa using this
  · exact hacc

/-! ### A run of factor steps comes to its end (R164) -/

section
variable {t : VType} {u0 pick icap nf : Nat} {items : Nat → Except Stop (List Nat)} {books : Nat → List Nat}

/-- The fields of a tuple below `k` are numbers of items. -/
def FieldsInStores (books : Nat → List Nat) (tuple k : Nat) : Prop :=
  ∀ f < k, books f ≠ [] → tupleField tuple f < (books f).length

/-- What stands between two steps. -/
structure Underway (books : Nat → List Nat) (icap nf : Nat) (x : Factoring) : Prop where
  step : x.step ≤ nf
  iter : x.iter < icap
  prev : x.prev.length = nf
  est : x.est.length = nf
  fields : FieldsInStores books x.tuple x.step

theorem fieldsInStores_step {tuple f : Nat} (h : FieldsInStores books tuple f) (w : List Nat → List Int)
    (hw : ∀ l, (w l).length = l.length) :
    FieldsInStores books (setTupleField tuple f (if (books f).isEmpty then pick else bestIndex (w (books f)))) (f + 1) := by
  intro k hk hne
  obtain rfl | hlt := Nat.eq_or_lt_of_le (Nat.le_of_lt_succ hk)
  · have hnil : (books k).isEmpty = false := by simpa using hne
    have hne' : w (books k) ≠ [] := fun he => hne (List.eq_nil_of_length_eq_zero (by rw [← hw, he]; rfl))
    rw [tupleField_set_same, hnil, if_neg Bool.false_ne_true]
    exact (Nat.mod_le _ _).trans_lt (hw (books k) ▸ bestIndex_lt hne')
  · rw [tupleField_set_lower _ _ _ hlt]
    exact h k hlt hne

theorem underway_factorStep {x : Factoring} (h : Underway books icap nf x) (hs : x.step < nf) :
    Underway books icap nf (factorStep t u0 (books x.step) pick x x.step) where
  step := hs
  iter := h.iter
  prev := h.prev
  est := (List.length_set ..).trans h.est
  fields := fieldsInStores_step h.fields (fun l => l.map _) fun _ => List.length_map _

/-- The numbers that an iteration ends with. -/
def ended (x : Factoring) : List Word := x.prev.zipIdx.map (fun y => word (tupleField x.tuple y.2))

/-- A status that ends a factorisation after the iteration. -/
structure Ends (books : Nat → List Nat) (icap nf st : Nat) (y : Factoring) : Prop where
  status : st ≤ 2
  one : 1 ≤ y.iter
  cap : y.iter ≤ icap
  capped : st = 1 → y.iter = icap
  prev : y.prev.length = nf
  est : y.est.length = nf
  found : ∀ f < nf, books f ≠ [] → (y.prev.getD f 0).toNat < (books f).length

theorem ended_found {x : Factoring} (h : Underway books icap nf x) (hs : x.step = nf) {f : Nat} (hf : f < nf)
    (hne : books f ≠ []) : ((ended x).getD f 0).toNat < (books f).length := by
  have hfield : tupleField x.tuple f < (books f).length := h.fields f (hs ▸ hf) hne
  have hsmall : tupleField x.tuple f < 2 ^ 64 := (Nat.mod_lt _ (by decide : 0 < 4096)).trans (by decide)
  have hget : (ended x).getD f 0 = word (tupleField x.tuple f) := by
    rw [ended, List.getD_eq_getElem?_getD, List.getElem?_map, List.getElem?_zipIdx,
      List.getElem?_eq_getElem (h.prev.symm ▸ hf)]
    simp
  rw [hget, toNat_word hsmall]
  exact hfield

/-- The status that an iteration ends with, if it ends the factorisation. -/
def iterationStatus (icap : Nat) (x : Factoring) : Option Nat :=
  if !x.chg then some 0
  else if x.older != ones64 && word x.tuple == x.older && x.tuple != packTuple x.prev then some 2
  else if x.iter + 1 = icap then some 1
  else none

/-- The state in which another iteration begins. -/
def nextIteration (x : Factoring) : Factoring :=
  { x with older := if x.prev.headD 0 == ones64 then ones64 else word (packTuple x.prev), prev := ended x, tuple := 0,
           iter := x.iter + 1, step := 0, chg := false }

theorem endIteration_eq (icap : Nat) (x : Factoring) : endIteration icap x = match iterationStatus icap x with
    | some st => (some st, { x with iter := x.iter + 1, prev := ended x })
    | none => (none, nextIteration x) := by
  rfl

theorem iterationStatus_le {x : Factoring} {st : Nat} (h : iterationStatus icap x = some st) :
    st ≤ 2 ∧ (st = 1 → x.iter + 1 = icap) := by
  unfold iterationStatus at h
  split at h
  · obtain rfl := Option.some.inj h
    omega
  · split at h
    · obtain rfl := Option.some.inj h
      omega
    · split at h
      · obtain rfl := Option.some.inj h
        omega
      · exact nomatch h

theorem iter_ne_of_iterationStatus {x : Factoring} (h : iterationStatus icap x = none) : x.iter + 1 ≠ icap := by
  intro he
  unfold iterationStatus at h
  rw [if_pos he] at h
  split at h
  · exact nomatch h
  · split at h <;> exact nomatch h

theorem endIteration_ends {x : Factoring} (h : Underway books icap nf x) (hs : x.step = nf) :
    (∃ st y, endIteration icap x = (some st, y) ∧ Ends books icap nf st y) ∨
    ∃ y, endIteration icap x = (none, y) ∧ Underway books icap nf y ∧ y.step = 0 ∧ y.iter = x.iter + 1 := by
  have hlen : (ended x).length = nf := by rw [ended, List.length_map, List.length_zipIdx, h.prev]
  rw [endIteration_eq]
  cases hst : iterationStatus icap x with
  | some st =>
    obtain ⟨hle, hcap⟩ := iterationStatus_le hst
    exact .inl ⟨st, _, rfl, hle, Nat.le_add_left 1 _, h.iter, hcap, hlen, h.est, fun f hf hne => ended_found h hs hf hne⟩
  | none =>
    have hlt := h.iter
    have hne := iter_ne_of_iterationStatus hst
    exact .inr ⟨nextIteration x, rfl, ⟨Nat.zero_le _, show x.iter + 1 < icap by omega, hlen, h.est,
      fun f hf => absurd hf (Nat.not_lt_zero f)⟩, rfl, rfl⟩

/-- Steps that are left at most. -/
def stepsLeft (icap nf : Nat) (x : Factoring) : Nat := (icap - x.iter - 1) * (nf + 1) + (nf - x.step) + 1

theorem factorRun_ends (hitems : ∀ f < nf, items f = .ok (books f)) (fuel done : Nat) (x : Factoring)
    (h : Underway books icap nf x) (hfuel : stepsLeft icap nf x ≤ fuel) :
    ∃ st y, factorRun t u0 items pick icap nf none fuel done x = (.status st, y) ∧ Ends books icap nf st y := by
  induction fuel generalizing done x with
  | zero => exact absurd hfuel (by rw [stepsLeft]; omega)
  | succ fuel ih =>
    rw [factorRun]
    by_cases hs : x.step < nf
    · rw [if_pos hs, if_neg (by simp), hitems _ hs]
      refine ih _ _ (underway_factorStep h hs) ?_
      have hstep : (factorStep t u0 (books x.step) pick x x.step).step = x.step + 1 := rfl
      have hiter : (factorStep t u0 (books x.step) pick x x.step).iter = x.iter := rfl
      rw [stepsLeft] at hfuel ⊢
      rw [hstep, hiter]
      omega
    · rw [if_neg hs]
      have hnf : x.step = nf := Nat.le_antisymm h.step (Nat.not_lt.1 hs)
      obtain ⟨st, y, hend, hy⟩ | ⟨y, hend, hy, hy0, hyi⟩ := endIteration_ends h hnf
      · rw [hend]
        exact ⟨st, y, rfl, hy⟩
      · rw [hend]
        refine ih _ _ hy ?_
        have hlt := hy.iter
        rw [stepsLeft, hnf] at hfuel
        rw [stepsLeft, hy0, hyi]
        rw [hyi] at hlt
        have hsplit : (icap - x.iter - 1) * (nf + 1) = (icap - (x.iter + 1) - 1) * (nf + 1) + (nf + 1) := by
          rw [← Nat.succ_mul]
          congr 1
          omega
        omega

end

end Sys2Proof.Machine
end

section
/-!
LAW. The word HFACT: the stores it reads, the registers it writes and its end (R164). Settles O41 with the words of item
stores and HCLEAN.
-/

namespace Sys2Proof.Machine

section
variable {s v u z : State} {t : VType} {d a b : BitVec 5} {nf icap : Nat}

/-! ### The stores of a factorisation are read alike where the unit serves the word (R286) -/

section
variable {x : Option UnitAsk} {l : List Arbiter}

theorem ok_bind {ε α β : Type} (y : α) (f : α → Except ε β) : (Except.ok y : Except ε α).bind f = f y := rfl

theorem error_bind {ε α β : Type} (e : ε) (f : α → Except ε β) : (Except.error e : Except ε α).bind f = .error e := rfl

/-- What a query takes of a store's header. -/
def takenStore (at_ : Nat) (y : StoreHeader) : Except Stop (Nat × Nat) :=
  if y.st != 2 then .error (.trap (badrec 2 at_)) else .ok (at_, y.count)

theorem checkStore_eq (s : State) (t : VType) (r : Nat) : checkStore s t r =
    (storeAddr s (BitVec.ofNat 5 r)).bind fun at_ => (readHeader s t at_ true).bind (takenStore at_) := rfl

theorem checkStore_withTurn (r : Nat) : checkStore (withTurn s x l) t r = checkStore s t r := by
  rw [checkStore_eq, checkStore_eq, storeAddr_withTurn]
  cases h : storeAddr s (BitVec.ofNat 5 r) with
  | error e => rw [error_bind, error_bind]
  | ok at_ => rw [ok_bind, ok_bind, readHeader_withTurn (storeAddr_lo h)]

/-- A store that a query takes lies in the window. -/
theorem checkStore_lo {r : Nat} {y : Nat × Nat} (h : checkStore s t r = .ok y) : coreBase ≤ y.1 := by
  rw [checkStore] at h
  cases haddr : storeAddr s (BitVec.ofNat 5 r) with
  | error e => rw [haddr] at h; exact nomatch h
  | ok at_ =>
    rw [haddr] at h
    dsimp only [bind, Except.bind] at h
    cases hh : readHeader s t at_ true with
    | error e => rw [hh] at h; exact nomatch h
    | ok y' =>
      rw [hh] at h
      dsimp only at h
      split at h
      · exact nomatch h
      · rw [← Except.ok.inj h]
        exact storeAddr_lo haddr

theorem readItems_withTurn {at_ : Nat} (hlo : coreBase ≤ at_) (n : Nat) :
    readItems (withTurn s x l) t at_ n = readItems s t at_ n := mapM_congr fun i _ => readItem_withTurn hlo i

theorem readItems_none (s : State) (t : VType) (at_ : Nat) : readItems s t at_ 0 = .ok [] := rfl

theorem storeItems_eq (s : State) (t : VType) (b nf f : Nat) : storeItems s t b nf f =
    ((List.range nf).mapM (fun g => checkStore s t (b + 1 + g))).bind fun ys =>
      readItems s t (ys.getD f (0, 0)).1 (ys.getD f (0, 0)).2 := rfl

theorem storeItems_withTurn (b nf f : Nat) : storeItems (withTurn s x l) t b nf f = storeItems s t b nf f := by
  rw [storeItems_eq, storeItems_eq, mapM_congr (g := fun g => checkStore s t (b + 1 + g)) fun g _ => checkStore_withTurn _]
  cases hl : (List.range nf).mapM (fun g => checkStore s t (b + 1 + g)) with
  | error e => rw [error_bind, error_bind]
  | ok ys =>
    rw [ok_bind, ok_bind, List.getD_eq_getElem?_getD]
    cases hy : ys[f]? with
    | none => rw [Option.getD_none, readItems_none, readItems_none]
    | some y =>
      have hf : f < nf := by
        have := (List.getElem?_eq_some_iff.1 hy).1
        rwa [(mapM_range hl).1] at this
      obtain ⟨y', hget, hok⟩ := (mapM_range hl).2 f hf
      obtain rfl := Option.some.inj (hget.symm.trans hy)
      exact readItems_withTurn (checkStore_lo hok) _

end

/-! ### The registers of a factorisation -/

/-- Words written to h registers from `base` on. -/
theorem hRead_foldl_hWrite (base : Nat) (ps : List Word) (n : Nat) (h : Hart) (hin : base + n + ps.length ≤ 16) (k : Nat) :
    hRead ((ps.zipIdx n).foldl (fun h p => hWrite h (base + p.2) p.1) h) k =
      if base + n ≤ k ∧ k < base + n + ps.length then ps.getD (k - (base + n)) 0 else hRead h k := by
  induction ps generalizing n h with
  | nil => rw [if_neg (by simp)]; rfl
  | cons p ps ih =>
    rw [List.length_cons] at hin
    rw [List.zipIdx_cons, List.foldl_cons, ih _ _ (by omega), hRead_hWrite _ _ _ _ (by omega), List.length_cons]
    by_cases hk : k = base + n
    · rw [if_neg (by omega), if_pos hk, if_pos (by omega), hk, Nat.sub_self]
      rfl
    · by_cases hout : base + n ≤ k ∧ k < base + n + (ps.length + 1)
      · rw [if_pos (by omega), if_pos hout, show k - (base + n) = k - (base + (n + 1)) + 1 by omega]
        rfl
      · rw [if_neg (by omega), if_neg hk, if_neg hout]

/-- The hart differs in h registers, vector and mask registers and their marks alone. -/
def OnlyRegisters (h h' : Hart) : Prop :=
  h' = { h with ve := { h.ve with v := h'.ve.v, m := h'.ve.m, h := h'.ve.h }, stale := h'.stale, poison := h'.poison }

theorem OnlyRegisters.trans {h h' h'' : Hart} (h1 : OnlyRegisters h h') (h2 : OnlyRegisters h' h'') : OnlyRegisters h h'' := by
  unfold OnlyRegisters at h1 h2 ⊢
  rw [h1] at h2
  rw [h2]

theorem OnlyVectorRegisters.registers {h h' : Hart} (ho : OnlyVectorRegisters h h') : OnlyRegisters h h' := by
  unfold OnlyVectorRegisters at ho
  unfold OnlyRegisters
  rw [ho]

theorem onlyRegisters_hWrite (h : Hart) (r : Nat) (w : Word) : OnlyRegisters h (hWrite h r w) := by
  unfold OnlyRegisters hWrite refresh mendPoison
  split <;> split <;> rfl

/-- Estimates written to their groups. -/
def estimatesPut (t : VType) (a : BitVec 5) (es : List Nat) (h : Hart) : Hart :=
  es.zipIdx.foldl (fun h e =>
    applyWrites h (groupWrites h (estimateReg t a e.2) t.group e.1 (2 ^ (regBits h * t.group) - 1))) h

theorem estimatesPut_effect (t : VType) (a : BitVec 5) (es : List Nat) (h : Hart) :
    OnlyVectorRegisters h (estimatesPut t a es h) ∧
      ∀ k, (k < a.toNat + t.group ∨ a.toNat + (es.length + 1) * t.group ≤ k) →
        vget (estimatesPut t a es h).ve.v k 0 = vget h.ve.v k 0 := by
  refine List.foldlRecOn (motive := fun h' => OnlyVectorRegisters h h' ∧
    ∀ k, (k < a.toNat + t.group ∨ a.toNat + (es.length + 1) * t.group ≤ k) → vget h'.ve.v k 0 = vget h.ve.v k 0)
    es.zipIdx _ ⟨.refl h, fun _ _ => rfl⟩ fun h' hh e he => ⟨hh.1.trans (applyWrites_only h' fun w hw => .inl (groupWrites_reg hw)),
      fun k hk => ?_⟩
  have hlt : e.2 < es.length := by simpa using List.snd_lt_of_mem_zipIdx he
  have hle : (e.2 + 1 + 1) * t.group ≤ (es.length + 1) * t.group := Nat.mul_le_mul_right _ (by omega)
  have hlo : 1 * t.group ≤ (e.2 + 1) * t.group := Nat.mul_le_mul_right _ (by omega)
  rw [← hh.2 k hk]
  refine groupWrites_other _ _ _ _ ?_
  rw [Nat.one_mul] at hlo
  rw [Nat.succ_mul] at hle
  rw [estimateReg]
  omega

/-- The registers that a factorisation ends with. -/
def factored (t : VType) (d a : BitVec 5) (st : Nat) (y : Factoring) (h : Hart) : Hart :=
  hWrite (hWrite (storeFactoring h t d a y) d.toNat (word st)) (d.toNat + 1) (word y.iter)

theorem factored_effect {y : Factoring} (st : Nat) (hd : d.toNat + 1 + nf ≤ 15) (hest : y.est.length = nf)
    (hprev : y.prev.length = nf) (h : Hart) :
    OnlyRegisters h (factored t d a st y h) ∧
    (∀ k, (k < a.toNat + t.group ∨ a.toNat + (nf + 1) * t.group ≤ k) →
      vget (factored t d a st y h).ve.v k 0 = vget h.ve.v k 0) ∧
    (∀ k, (k < d.toNat ∨ d.toNat + 1 + nf < k) → hRead (factored t d a st y h) k = hRead h k) ∧
    hRead (factored t d a st y h) d.toNat = word st ∧ hRead (factored t d a st y h) (d.toNat + 1) = word y.iter ∧
    ∀ f < nf, hRead (factored t d a st y h) (d.toNat + 2 + f) = y.prev.getD f 0 := by
  obtain ⟨honly, hv⟩ := estimatesPut_effect t a y.est h
  have hstore : storeFactoring h t d a y =
      y.prev.zipIdx.foldl (fun h p => hWrite h (d.toNat + 2 + p.2) p.1) (estimatesPut t a y.est h) := rfl
  have hregs : OnlyRegisters (estimatesPut t a y.est h) (storeFactoring h t d a y) ∧
      (storeFactoring h t d a y).ve.v = (estimatesPut t a y.est h).ve.v := by
    rw [hstore]
    exact foldl_keeps (P := fun h' => OnlyRegisters (estimatesPut t a y.est h) h' ∧ h'.ve.v = (estimatesPut t a y.est h).ve.v)
      ⟨rfl, rfl⟩ fun h' p hh => ⟨hh.1.trans (onlyRegisters_hWrite _ _ _), by simpa [hWrite] using hh.2⟩
  have hread (k : Nat) : hRead (factored t d a st y h) k = if k = d.toNat + 1 then word y.iter else if k = d.toNat then word st
      else if d.toNat + 2 ≤ k ∧ k < d.toNat + 2 + nf then y.prev.getD (k - (d.toNat + 2)) 0 else hRead h k := by
    have hh : hRead (estimatesPut t a y.est h) k = hRead h k := by
      rw [hRead, hRead, (congrArg (·.ve.h) honly :)]
    rw [factored, hRead_hWrite _ _ _ _ (by omega), hRead_hWrite _ _ _ _ (by omega), hstore,
      hRead_foldl_hWrite _ _ 0 _ (by omega), hprev, hh, Nat.add_zero]
  refine ⟨((honly.registers.trans hregs.1).trans (onlyRegisters_hWrite _ _ _)).trans (onlyRegisters_hWrite _ _ _),
    fun k hk => ?_, fun k hk => ?_, ?_, ?_, fun f hf => ?_⟩
  · rw [show (factored t d a st y h).ve.v = (storeFactoring h t d a y).ve.v by simp [factored, hWrite], hregs.2]
    exact hv k (hest.symm ▸ hk)
  · rw [hread, if_neg (by omega), if_neg (by omega), if_neg (by omega)]
  · rw [hread, if_neg (by omega), if_pos rfl]
  · rw [hread, if_pos rfl]
  · rw [hread, if_neg (by omega), if_neg (by omega), if_pos (by omega), Nat.add_sub_cancel_left]

/-! ### HFACT (R164) -/

/-- The factor steps of HFACT from a point on, and how it ends; `h` is the hart as the word issues. -/
def factorFrom (t : VType) (d a : BitVec 5) (nf icap : Nat) (h : Hart) (items : Nat → Except Stop (List Nat))
    (first : Factoring) (pick : Nat) (s : State) : Except Stop State :=
  let (st, x) := factorRun t (hvBitsOf h t a.toNat) items pick icap nf (abandonOf s) ((icap + 1) * (nf + 1)) 0 first
  let sizes := (List.range nf).map (fun f => match items f with | .ok l => l.length | .error _ => 0)
  let s := chargeCleanup s t (2 * (itemsUpTo sizes x - itemsUpTo sizes first))
  let kept : State := s.mapHart (fun h =>
    keepProgress (hWrite (hWrite (storeFactoring h t d a x) d.toNat x.older) (d.toNat + 1) (word x.tuple))
      (x.iter + x.step * 2 ^ 16 + bitAt x.chg 19))
  match st with
  | .status st => .ok (varyTime (retire (s.mapHart (factored t d a st x))))
  | .limit => if x.iter = 0 ∧ x.step = 0 then .ok (stall s) else .ok (stall kept)
  | .stop e => if x.iter = first.iter ∧ x.step = first.step then .error e else trapAfter kept e

/-- What HFACT does where the clean-up unit serves it. -/
def factorAtUnit (t : VType) (d a b : BitVec 5) (nf icap : Nat) (h : Hart) (s : State) : Except Stop State := do
  let old := h.cs.vprog.toNat
  let items := storeItems s t b.toNat nf
  let first : Factoring ← (
    if old = 0 then do
      let books ← (List.range nf).mapM items
      .ok { older := ones64, tuple := 0, prev := List.replicate nf ones64,
            est := books.map (fun l => bundle t l (l.map (fun _ => 1)) (unitHv t)), iter := 0, step := 0, chg := false }
    else
      .ok { older := hRead h d.toNat, tuple := (hRead h (d.toNat + 1)).toNat,
            prev := (List.range nf).map (fun f => hRead h (d.toNat + 2 + f)),
            est := (List.range nf).map (fun f => hvBitsOf h t (estimateReg t a f)),
            iter := old % 2 ^ 16, step := old / 2 ^ 16 % 8, chg := old.testBit 19 })
  let (pick, s) := if anyEmpty s t b.toNat nf then s.draw else (0, s)
  factorFrom t d a nf icap h items first pick s

/-- The control word and the registers of a factorisation are as they must be. -/
def FactorOk (t : VType) (d a b : BitVec 5) (c nf icap : Nat) : Prop :=
  c % 8 = nf ∧ c / 2 ^ 16 = icap ∧ 2 ≤ nf ∧ nf ≤ 4 ∧ 1 ≤ icap ∧ icap < 2 ^ 16 ∧ c / 8 % 2 ^ 13 = 0 ∧ b.toNat + nf ≤ 15 ∧
    d.toNat + 1 + nf ≤ 15 ∧ a.toNat + (nf + 1) * t.group ≤ 32 ∧ (b.toNat + nf < d.toNat ∨ d.toNat + 1 + nf < b.toNat)

theorem factorFits_of {c : Nat} (h : FactorOk t d a b c nf icap) : factorFits t c d a b = true := by
  obtain ⟨rfl, rfl, hlo, hhi, h1, h16, hz, hb, hd, ha, hapart⟩ := h
  have hsmall : c / 2 ^ 32 = 0 := by omega
  have hover : overlap b.toNat (c % 8 + 1) d.toNat (c % 8 + 2) = false := by
    rw [overlap, decide_eq_false_iff_not]
    omega
  rw [factorFits, hover, hz, hsmall, Nat.mod_eq_of_lt h16]
  simp only [hlo, hhi, h1, hb, hd, ha, and_self, decide_true, beq_self_eq_true, Bool.and_self, Bool.not_false]

theorem exec_hfact (h : VectorIssuing s t) (hd : d.toNat < 16) (hb : b.toNat < 16) (ha : t.aligned a = true)
    (hok : FactorOk t d a b (hRead s.hart b.toNat).toNat nf icap) : exec (.hfact d a b) s =
      finish s (atUnit s (.cleanup s.hart.place.core) (factorAtUnit t d a b nf icap s.hart)) := by
  have hfits := factorFits_of hok
  obtain ⟨hnf, hicap, -, -, -, h16, -⟩ := hok
  rw [show exec (.hfact d a b) s = execHfact d a b s from rfl, execHfact, h.vtypeOf,
    h.issuing.runPlainVector (hAndH hd hb) ((h.fits _).trans ha)]
  dsimp only [bind, Except.bind]
  rw [hfits, Bool.not_true, if_neg Bool.false_ne_true, awaitWrites_quiet h.issuing.quiet]
  dsimp only
  rw [poisonedRead_clean _ _ h.issuing.clean, hnf, hicap, Nat.mod_eq_of_lt h16]
  rfl

/-- A factorisation begins with the bundles of its stores. -/
def factorStart (t : VType) (nf : Nat) (books : List (List Nat)) : Factoring :=
  { older := ones64, tuple := 0, prev := List.replicate nf ones64,
    est := books.map (fun l => bundle t l (l.map (fun _ => 1)) (unitHv t)), iter := 0, step := 0, chg := false }

theorem underway_factorStart {books : List (List Nat)} (hlen : books.length = nf) (hcap : 1 ≤ icap) :
    Underway (fun f => books.getD f []) icap nf (factorStart t nf books) :=
  ⟨Nat.zero_le _, hcap, List.length_replicate, (List.length_map _).trans hlen, fun f hf => absurd hf (Nat.not_lt_zero f)⟩

theorem stepsLeft_factorStart {books : List (List Nat)} (hcap : 1 ≤ icap) :
    stepsLeft icap nf (factorStart t nf books) ≤ (icap + 1) * (nf + 1) := by
  obtain ⟨k, rfl⟩ : ∃ k, icap = k + 1 := ⟨icap - 1, by omega⟩
  have hiter : (factorStart t nf books).iter = 0 := rfl
  have hstep : (factorStart t nf books).step = 0 := rfl
  rw [stepsLeft, hiter, hstep, Nat.sub_zero, Nat.add_sub_cancel, Nat.sub_zero, Nat.succ_mul, Nat.succ_mul]
  omega

/-- A run that ends with a status ends the word. -/
theorem factorFrom_status {h : Hart} {items : Nat → Except Stop (List Nat)} {first y : Factoring} {pick st : Nat}
    (hc : abandonOf s = none) (hside : s.issue.side = .vector) (ht : s.hart.cs.hstat.timed = false)
    (hrun : factorRun t (hvBitsOf h t a.toNat) items pick icap nf none ((icap + 1) * (nf + 1)) 0 first = (.status st, y))
    (hcs : ∀ x, (factored t d a st y x).cs = x.cs) :
    ∃ z : State, factorFrom t d a nf icap h items first pick s = .ok (retire (z.mapHart (factored t d a st y))) ∧
      z = { s with arbiters := z.arbiters, cores := z.cores } := by
  rw [factorFrom, hc, hrun]
  refine ⟨_, congrArg Except.ok (varyTime_done (u := State.mapHart (chargeCleanup s t _) _) ?_ ?_), chargeCleanup_only s t _⟩
  · rw [mapHart_issue, chargeCleanup_only]
    exact hside
  · rw [mapHart_hart, hcs, chargeCleanup_only]
    exact ht

/-- A factorisation that nothing stops ends with a status. -/
theorem factorAtUnit_whole {h : Hart} {books : List (List Nat)} (hv : h.cs.vprog = 0) (hc : abandonOf s = none)
    (hside : s.issue.side = .vector) (ht : s.hart.cs.hstat.timed = false) (hcap : 1 ≤ icap) (hd : d.toNat + 1 + nf ≤ 15)
    (hbooks : (List.range nf).mapM (storeItems s t b.toNat nf) = .ok books) : ∃ (z : State) (st : Nat) (y : Factoring),
    factorAtUnit t d a b nf icap h s = .ok (retire (z.mapHart (factored t d a st y))) ∧
    z = { s with arbiters := z.arbiters, cores := z.cores, draws := z.draws } ∧
    Ends (fun f => books.getD f []) icap nf st y := by
  obtain ⟨hlen, hall⟩ := mapM_range hbooks
  have hitems (f : Nat) (hf : f < nf) : storeItems s t b.toNat nf f = .ok (books.getD f []) := by
    obtain ⟨x, hx, hok⟩ := hall f hf
    rw [hok, List.getD_eq_getElem?_getD, hx]
    rfl
  obtain ⟨p, hp, hpick⟩ : ∃ p : Nat × State, (if anyEmpty s t b.toNat nf then s.draw else (0, s)) = p ∧
      p.2 = { s with draws := p.2.draws } := by
    refine ⟨_, rfl, ?_⟩
    split <;> rfl
  obtain ⟨st, y, hrun, hends⟩ := factorRun_ends (t := t) (u0 := hvBitsOf h t a.toNat) (pick := p.1) hitems
    ((icap + 1) * (nf + 1)) 0 (factorStart t nf books) (underway_factorStart hlen hcap) (stepsLeft_factorStart hcap)
  have hold : h.cs.vprog.toNat = 0 := by rw [hv]; rfl
  have hstart : factorAtUnit t d a b nf icap h s =
      factorFrom t d a nf icap h (storeItems s t b.toNat nf) (factorStart t nf books) p.1 p.2 := by
    rw [factorAtUnit, hold]
    dsimp only [bind, Except.bind]
    rw [if_pos rfl, hbooks, hp]
    rfl
  have hcs (x : Hart) : (factored t d a st y x).cs = x.cs :=
    (congrArg Hart.cs (factored_effect (t := t) (a := a) st hd hends.est hends.prev x).1 :)
  obtain ⟨z, hz, honly⟩ := factorFrom_status (s := p.2) (d := d) (a := a) (by rw [hpick]; exact hc) (by rw [hpick]; exact hside)
    (by rw [hpick]; exact ht) hrun hcs
  refine ⟨z, st, y, hstart.trans hz, ?_, hends⟩
  rw [honly, hpick]

section
variable {arbs : List Arbiter}

/-- A served word whose end is that of a clean-up unit's word, seen from the state in which it issued. -/
theorem servedWord_effect (h : Issuing s .vector)
    (hz : z = { withTurn s none arbs with arbiters := z.arbiters, cores := z.cores, draws := z.draws }) {f : Hart → Hart}
    (hf : OnlyRegisters z.hart (f z.hart)) :
    let r := retire (z.mapHart f)
    OnlyHart s { r with draws := s.draws, arbiters := s.arbiters, cores := s.cores } ∧ r.draws = z.draws ∧ Retired s r ∧
      r.hart.sc = s.hart.sc ∧ r.hart.ve.v = (f z.hart).ve.v ∧ ∀ k, hRead r.hart k = hRead (f z.hart) k := by
  have hh : z.hart = asking s.hart none := (congrArg State.hart hz :)
  obtain ⟨hr, hret, hsc, hv, hread⟩ := unitWord_effect h (z := z) (f := f) (by rw [hz]; rfl)
    ((congrArg (·.ve.pc) hf :).trans (by rw [hh]; rfl)) ((congrArg Hart.sc hf :).trans (by rw [hh]; rfl))
    ((congrArg Hart.cs hf :).trans (by rw [hh]; rfl))
  refine ⟨?_, (congrArg State.draws hr :), hret, hsc, hv, hread⟩
  generalize retire (z.mapHart f) = r at hr
  rw [OnlyHart, hr]

end

theorem groupBits_asking {x : Option UnitAsk} {h : Hart} (r : Nat) : ∀ g, groupBits (asking h x) r g = groupBits h r g
  | 0 => rfl
  | g + 1 => by
    rw [groupBits, groupBits, groupBits_asking r g]
    rfl

theorem hvBitsOf_asking {x : Option UnitAsk} {h : Hart} (r : Nat) : hvBitsOf (asking h x) t r = hvBitsOf h t r := by
  rw [hvBitsOf, groupBits_asking, hvBitsOf]

theorem onlyRegisters_recalled (d : BitVec 5) (y : StoreHeader) (g : Nat → Nat) (h : Hart) :
    OnlyRegisters h (recalled d y g h) :=
  (((onlyRegisters_hWrite _ _ _).trans (onlyRegisters_hWrite _ _ _)).trans (onlyRegisters_hWrite _ _ _)).trans
    (onlyRegisters_hWrite _ _ _)

/-- HCLEAN completes. -/
theorem recall_completes (h : VectorIssuing s t) (hp : s.hart.cs.vprog = 0) (hb : b.toNat < 16) (ha : t.aligned a = true)
    (hfit : t.dim * t.hm.width ≤ regBits s.hart * t.group) {y : StoreHeader} {item : Nat → Nat} (hd : d.toNat ≤ 12)
    {at_ : Nat} (haddr : storeAddr s b = .ok at_) (hy : readHeader s t at_ true = .ok y) (hst : y.st = 2)
    (hitems : ∀ i < y.count, readItem s t at_ i = .ok (item i)) (hserved : (takeUnit s (.cleanup s.hart.place.core)).isSome) :
    let g (i : Nat) : Nat := agreeing t (element s.hart a.toNat t.hm.width) (fun j => elem t.hm.width (item i) j)
    ∃ r, exec (.hclean d a b) s = .next r ∧ OnlyHart s { r with arbiters := s.arbiters, cores := s.cores } ∧ Retired s r ∧
      r.hart.ve.v = s.hart.ve.v ∧ r.hart.sc = s.hart.sc ∧ ∀ k, hRead r.hart k = hRead (recalled d y g s.hart) k := by
  intro g
  obtain ⟨v, hv⟩ := Option.isSome_iff_exists.1 hserved
  obtain ⟨arbs, rfl⟩ : ∃ l, v = withTurn s none l := ⟨_, served_withTurn hv⟩
  have hexec := exec_hclean (d := d) h hd hb ha haddr hy hst
  have hg : (fun i => agreement t.hm t.dim (hvBitsOf s.hart t a.toNat) (item i)) = g :=
    funext fun i => agreement_eq t (fun j hj => elem_hvBitsOf a.toNat hfit hj) fun _ _ => rfl
  have hbits : hvBitsOf (withTurn s none arbs).hart t a.toNat = hvBitsOf s.hart t a.toNat := hvBitsOf_asking _
  rw [atUnit_served hv, cleanAtUnit_whole (s := withTurn s none arbs) (item := item) hp
    (show abandonOf (withTurn s none arbs) = none from (abandonOf_uncut h.issuing : abandonOf s = none)) h.issuing.side
    h.issuing.untimed (fun i hi => (readItem_withTurn (storeAddr_lo haddr) i).trans (hitems i hi)), hbits, hg] at hexec
  have hz := chargeCleanup_only (withTurn s none arbs) t y.count
  obtain ⟨honly, hdraws, hret, hsc, hv', hread⟩ := servedWord_effect (z := chargeCleanup (withTurn s none arbs) t y.count)
    (f := recalled d y g) h.issuing (hz.trans (by rw [(congrArg State.draws hz :)])) (onlyRegisters_recalled _ _ _ _)
  have hzh : (chargeCleanup (withTurn s none arbs) t y.count).hart = asking s.hart none := (congrArg State.hart hz :)
  have hzd : (chargeCleanup (withTurn s none arbs) t y.count).draws = s.draws := (congrArg State.draws hz :)
  rw [← hzd, ← hdraws] at honly
  refine ⟨_, hexec, honly, hret, ?_, hsc, fun k => ?_⟩
  · rw [hv', hzh]
    exact (hWrite4_only _ _ _ _ _ _).2.2.2
  · rw [hread, hzh]
    exact (hRead_hWrite4 _ hd _ _ _ _ k).trans (hRead_hWrite4 s.hart hd _ _ _ _ k).symm

/-- Two hypervectors agree in fewer than 2^64 components. -/
theorem agreeing_lt (hfit : t.dim * t.hm.width ≤ regBits s.hart * t.group) (x y : Nat → Nat) : agreeing t x y < 2 ^ 64 := by
  have hgroup : t.group ≤ 32 := Nat.le_of_dvd (by decide) (group_dvd t)
  have hdim : t.dim ≤ t.dim * t.hm.width := Nat.le_mul_of_pos_right _ (by cases t.hm <;> decide)
  have hbits : regBits s.hart * t.group ≤ 65536 * 32 := Nat.mul_le_mul (regBits_le _) hgroup
  have hcount : agreeing t x y ≤ t.dim := by
    unfold agreeing
    exact List.countP_le_length.trans (le_of_eq List.length_range)
  omega

/-- HCLEAN and HFACT complete. -/
theorem recallAndFactorisation : recallAndFactorisationComplete := by
  intro s t d a b h hp hb ha hfit
  have hdim : 64 * 2 ^ t.hd = t.dim := rfl
  rw [hdim] at hfit
  dsimp only
  refine ⟨fun y item hd haddr hy hst hitems => ?_, ?_⟩
  · refine ⟨fun hwait => (exec_hclean (d := d) h hd hb ha haddr hy hst).trans (atUnit_waits hwait), fun hserved => ?_⟩
    obtain ⟨r, hr, honly, hret, hv, hsc, hread⟩ := recall_completes h hp hb ha hfit hd haddr hy hst hitems hserved
    have hcount : y.count ≤ 4096 := count_le_of_readHeader hy (by rw [hst]; decide)
    obtain ⟨hother, hnone, hfirst⟩ := recalled_effect (d := d) (y := y) (g := fun i => agreeing t
      (element s.hart a.toNat t.hm.width) (fun j => elem t.hm.width (item i) j)) hd hcount (fun i => agreeing_lt hfit _ _) s.hart
    refine ⟨r, hr, honly, hret, hv, hsc, fun k _ hk => (hread k).trans (hother k hk), ?_⟩
    simp only [hread]
    exact ⟨hnone, hfirst⟩
  · intro books hd hnf1 hnf2 hi1 hi2 hz hbn hdn han hapart hbooks
    have hok : FactorOk t d a b (hRead s.hart b.toNat).toNat ((hRead s.hart b.toNat).toNat % 8)
        ((hRead s.hart b.toNat).toNat / 2 ^ 16) := ⟨rfl, rfl, hnf1, hnf2, hi1, hi2, hz, hbn, hdn, han, hapart⟩
    have hexec := exec_hfact h hd hb ha hok
    refine ⟨fun hwait => hexec.trans (atUnit_waits hwait), fun hserved => ?_⟩
    obtain ⟨v, hv⟩ := Option.isSome_iff_exists.1 hserved
    obtain ⟨arbs, rfl⟩ : ∃ l, v = withTurn s none l := ⟨_, served_withTurn hv⟩
    have hbooks' : (List.range ((hRead s.hart b.toNat).toNat % 8)).mapM (storeItems (withTurn s none arbs) t b.toNat
        ((hRead s.hart b.toNat).toNat % 8)) = .ok books :=
      (mapM_congr fun f _ => storeItems_withTurn _ _ _).trans hbooks
    rw [atUnit_served hv] at hexec
    obtain ⟨z, st, y, hend, hzs, hends⟩ := factorAtUnit_whole (d := d) (a := a) (icap := (hRead s.hart b.toNat).toNat / 2 ^ 16) hp
      (show abandonOf (withTurn s none arbs) = none from (abandonOf_uncut h.issuing : abandonOf s = none)) h.issuing.side
      h.issuing.untimed hi1 hdn hbooks'
    rw [hend] at hexec
    have hzh : z.hart = asking s.hart none := (congrArg State.hart hzs :)
    obtain ⟨hregs, hvregs, hother, h0, h1, hfound⟩ := factored_effect (t := t) (a := a) st hdn hends.est hends.prev z.hart
    obtain ⟨honly, -, hret, hsc, hv', hread⟩ := servedWord_effect h.issuing hzs hregs
    have hst : (word st).toNat = st := toNat_word (by have := hends.status; omega)
    have hiter : (word y.iter).toNat = y.iter := toNat_word (by have := hends.cap; omega)
    refine ⟨_, hexec, honly, hret, hsc, fun k _ hk => ?_, fun k _ hk => ?_, ?_, ?_, ?_, fun hone => ?_, fun f hf x hx hne => ?_⟩
    · rw [hread, hother k hk, hzh]
      rfl
    · rw [hv', hvregs k hk, hzh]
      rfl
    · rw [hread, h0, hst]
      exact hends.status
    · rw [hread, h1, hiter]
      exact hends.one
    · rw [hread, h1, hiter]
      exact hends.cap
    · rw [hread, h0] at hone
      rw [hread, h1, hiter]
      exact hends.capped (by rw [← hst, hone]; rfl)
    · have hbook : books.getD f [] = x := by rw [List.getD_eq_getElem?_getD, hx]; rfl
      rw [hread, hfound f hf, ← hbook]
      exact hends.found f hf (by rw [hbook]; exact hne)

/-- Settles O41, by the words of item stores and those of recall and factorisation. -/
theorem itemStoreAndRecallWordsComplete : Obligations.ItemStoreAndRecallWordsComplete :=
  ⟨itemStoreWords, recallAndFactorisation⟩

end

end Sys2Proof.Machine
end
